-- ==== Sys2Proof/Word.lean ====
section
/-! DEFINITION. The word types, the two dies, and the two kinds of finite table the model is written with. Their operations stand in Machine/Bits.lean. -/

namespace Sys2Proof

/-- A byte of a payload, of memory or of a register. -/
abbrev Byte := BitVec 8

/-- A 64-bit register of the control window (R9) or an instruction word (R299). -/
abbrev Word := BitVec 64

/-- A byte string, first byte first. -/
abbrev Bytes := List Byte

/-- The two dies of the switch package (R24). -/
inductive Die where
  | d0
  | d1
deriving DecidableEq, Repr

/-- One copy of a thing on each die. -/
structure Two (α : Type) where
  d0 : α
  d1 : α
deriving DecidableEq, Repr

/-- A table by number, kept with its keys strictly rising. -/
abbrev Dict (α : Type) := List (Nat × α)

/-- A table of words by number in which an unlisted number reads zero; keys strictly rise and no entry is zero. -/
abbrev Sparse (w : Nat) := List (Nat × BitVec w)

end Sys2Proof
end

