-- ==== Sys2Proof/Syntax.lean ====
section
/-! DEFINITION. The commands of the block: one constructor of Instr for each row of the table of operations and events, with the row's operands. -/

namespace Sys2Proof

/-- An LFT frame: the header fields of R121 and the payload bytes. HCRC is not kept: it is made anew at every egress (R122). -/
structure Frame where
  version : BitVec 4 := 1
  cmp : Bool := false
  rel : Bool := false
  acq : Bool := false
  last : Bool := true
  opcode : Byte := 0
  tc : BitVec 3 := 0
  status : BitVec 5 := 0
  hop : BitVec 4 := 0
  slot : BitVec 4 := 0
  srcEp : BitVec 20 := 0
  ctx : BitVec 12 := 0
  seq : BitVec 24 := 0
  rsvd : Byte := 0
  tag : BitVec 16 := 0
  fence : BitVec 16 := 0
  addr : BitVec 64 := 0
  length : BitVec 16 := 0
  opspec : BitVec 16 := 0
  payload : Bytes := []
deriving DecidableEq, Repr

/-- The link trailer of R135. -/
structure Trailer where
  lseq : BitVec 24 := 0
  seqValid : Bool := false
  ackSeq : BitVec 24 := 0
  ackValid : Bool := false
  spreadSeq : BitVec 32 := 0
  path : BitVec 3 := 0
  sprayed : Bool := false
deriving DecidableEq, Repr

/-- A frame as it stands on a wire (R118): what the physical layer and MACsec found (fcsOk false covers an uncorrectable
codeword, R116; icvOk is the ICV's verdict and pn the packet number, R144), the source address, the EtherType, the HCRC bytes,
the header, and every byte between the header and the trailer (payload, then any padding of R119). more holds the further constituents of a
combined request, which only another switch sends (R186). -/
structure WireFrame where
  fcsOk : Bool := true
  fecUncorr : Bool := false
  icvOk : Bool := true
  pn : Nat := 0
  srcMac : Nat := 0
  etherType : BitVec 16 := 0x88B6
  hcrc : BitVec 32 := 0
  trailer : Trailer := {}
  frame : Frame := {}
  more : List Frame := []
deriving DecidableEq, Repr

/-- The key of a request: its source endpoint, context and tag (R126, R176). -/
structure ReqKey where
  srcEp : Nat
  ctx : Nat
  tag : Nat
deriving DecidableEq, Repr

/-- An output of a die's switch core (R153): a port's sub-link, the stalk link, or an internal agent: the home unit, the
service processor, or the die's other agents (services, migration and flash engines, the transport protocol). -/
inductive Output where
  | sub (port idx : Nat)
  | stalk
  | home
  | sp
  | agent
deriving DecidableEq, Repr

/-- Where the frames of one class stand among which one has a cell error (R159): in the FIFO of an output, held at a port's ingress, or in the
resequencer of a switch. -/
inductive CellArea where
  | fifo (out : Output)
  | held (port : Nat)
  | slot (sw : Nat)
deriving DecidableEq, Repr

/-- A cell error: a corrected single bit, or one that is uncorrectable, in the header or in the payload of the frame (R152, R159). -/
inductive CellFault where
  | corrected
  | header
  | payload
deriving DecidableEq, Repr

/-- A load with the 64-byte granules, by their numbers, in which its read of module DRAM finds an uncorrectable error (R193). -/
structure DramRead where
  frame : Frame
  ecc : List Nat := []
deriving DecidableEq, Repr

/-- A bitstream slot (R94). -/
inductive Slot where
  | a
  | b
  | p
deriving DecidableEq, Repr

/-- A control command as its executor takes it (R105, R106): the fields of its frame's header and body but for COMMAND,
which the row of the table names. die is the die of the port where it arrived, port that port. -/
structure CtlReq where
  die : Die := .d0
  port : Nat := 64
  srcEp : BitVec 20 := 0
  ctx : BitVec 12 := 0
  seq : BitVec 24 := 0
  tag : BitVec 16 := 0
  fence : BitVec 16 := 0
  addr : BitVec 64 := 0
  lftLen : Nat := 16
  bodyFormat : Nat := 1
  cmdSeq : BitVec 32 := 0
  argLength : Nat := 0
  zero12 : Nat := 0
  args : Bytes := []
deriving DecidableEq, Repr

/-- The fields of a pod-core instruction word but for CLASS and OP, which the row names (R299). -/
structure PodF where
  d : BitVec 5 := 0
  a : BitVec 5 := 0
  b : BitVec 5 := 0
  c : BitVec 5 := 0
  fmt : BitVec 4 := 0
  rnd : BitVec 2 := 0
  sat : Bool := false
  bit24 : Bool := false
  imm : BitVec 24 := 0
deriving DecidableEq, Repr

/-- The kinds of relocation in order of priority (R269), and the merge of an OUVI volume (R265). -/
inductive RelocKind where
  | rescue
  | refresh
  | fold
  | collect
  | wear
  | merge
deriving DecidableEq, Repr

/-- Why a pod core is retired without a POD.RETIRE write (R281). -/
inductive RetireCause where
  | scratchCorr
  | scratchEcc
  | regParity
  | selftest
deriving DecidableEq, Repr

/-- The state of a switch in the federation map (R444). -/
inductive SwitchSt where
  | live
  | lost
  | promoted
deriving DecidableEq, Repr

/-- One change of the federation map (R444). -/
inductive MapChange where
  | switch (id : Nat) (st : SwitchSt) (answer : Nat)
  | fence (ep : Nat) (epoch : BitVec 16)
  | promote (set : Nat)
deriving DecidableEq, Repr

/-- What a source switch tells the destination of an ownership transfer (R461 step 2). -/
structure XferIn where
  srcSwitch : Nat
  oldHandle : BitVec 64
  ext : Nat
  size : Nat
  owner : Nat
  tier : Nat
  kind : Nat
  epoch : Nat
  data : Bytes
  poison : List Nat
deriving DecidableEq, Repr

/-- The answer of the switch that answers for a transfer's source (R462): does it hold XFER_COMMIT for the object? -/
structure XferAnswer where
  oldHandle : BitVec 64
  committed : Bool
deriving DecidableEq, Repr

/-- A meter fitted in the bay (R431, R434, R436): its serial, its own lifetime counter, its tamper state, its certificate,
the tariff set it holds, its clock, and for each die the TAP_SEQ below which it has taken every event. -/
structure MeterIdent where
  serial : Nat := 0
  left : Nat := 0
  tampered : Bool := false
  cert : Bytes := []
  tariff : Bytes := []
  timeMs : Nat := 0
  lastTap : Two Nat := ⟨0, 0⟩
deriving DecidableEq, Repr

/-- What the module finds at power-up (R479): the reference clock, the PUF, each die's failed cores, the input. -/
structure PowerUpIn where
  refClock : Bool := true
  pufOk : Bool := true
  failed : Two (List Nat) := ⟨[], []⟩
  inputMv : Nat := 54000
deriving DecidableEq, Repr

/-- The commands of the block, in the order of the table. -/
inductive Instr where
  /-- ECHO (R107): Control command that returns its arguments unchanged. -/
  | echo (r : CtlReq)
  /-- BS_BEGIN (R95): Starts a bitstream load into slot A, B or P and returns a new LOAD_ID. -/
  | bsBegin (r : CtlReq)
  /-- BS_DATA (R95): Writes bitstream bytes carried in the control frame into a loading slot at a stated offset. -/
  | bsData (r : CtlReq)
  /-- BS_FETCH (R95): Job that has the service processor read bitstream bytes from pool memory into a loading slot. -/
  | bsFetch (r : CtlReq)
  /-- BS_FETCH_COMPLETE (R95): A fetch job finishes writing its bytes or fails on a source read, and its JOB_DONE is queued. -/
  | bsFetchComplete (job : Nat)
  /-- BS_END (R96): Verifies a loaded slot in check order and leaves it VERIFIED or INVALID. -/
  | bsEnd (r : CtlReq)
  /-- BS_ABORT (R95): Ends a load and returns the slot to EMPTY. -/
  | bsAbort (r : CtlReq)
  /-- LOAD_ABANDON (R95): A load that receives no command for 60 s is abandoned, its slot becomes EMPTY and CFG_LOAD_ABANDONED is emitted. -/
  | loadAbandon (slot : Slot)
  /-- BS_ACTIVATE (R98): Makes a verified full slot preferred, with or without an immediate module reset, or validates and commits a partial bitstream. -/
  | bsActivate (r : CtlReq)
  /-- PARTIAL_APPLY (R101): Applies a committed partial's DELETE, then ADD and REPLACE records, and emits CFG_APPLIED and JOB_DONE. -/
  | partialApply
  /-- RECORD_DRAIN_DONE (R102): A changed port or extent finishes draining the requests admitted under its old record and takes its new record. -/
  | recordDrainDone (type key : Nat)
  /-- EXT_CREATE (R68): Adds an EXTENT record, which enters ACTIVE. -/
  | extCreate (r : CtlReq)
  /-- EXT_REVOKE (R452): Job that sets an extent REVOKING on both dies and starts its revocation. -/
  | extRevoke (r : CtlReq)
  /-- EXTENT_REVOKED (R452): Admitted work, recalls and class C write-backs of a revoking extent are done, so it becomes REVOKED and its events are queued. -/
  | extentRevoked (ext : Nat)
  /-- GRANT_ADD (R69): Adds a GRANT record pairing an extent, a context and rights. -/
  | grantAdd (r : CtlReq)
  /-- GRANT_REMOVE (R69): Removes a grant entry for requests accepted afterwards. -/
  | grantRemove (r : CtlReq)
  /-- CTX_CREATE (R381): Creates a context from a CONTEXT record body, leaving it ACTIVE with defaults. -/
  | ctxCreate (r : CtlReq)
  /-- CTX_DESTROY (R381): Job that sets a context DESTROYING and runs a reset before releasing it. -/
  | ctxDestroy (r : CtlReq)
  /-- CTX_DESTROY_COMPLETE (R381): Once admitted work and tap marks are done, deletes the context's records and grants and frees the context. -/
  | ctxDestroyComplete (ctx : Nat)
  /-- ADMIT_ADD (R380): Adds an endpoint to a context's admission set. -/
  | admitAdd (r : CtlReq)
  /-- ADMIT_REMOVE (R380): Removes an endpoint from a context's admission set. -/
  | admitRemove (r : CtlReq)
  /-- QOS_SET (R388): Adds or replaces a context's QOS record. -/
  | qosSet (r : CtlReq)
  /-- CTX_RESET (R393): Job that sets a context RESETTING on the accepting die and sends the change to the other die. -/
  | ctxReset (r : CtlReq)
  /-- CTX_RESET_STALK_APPLY (R393): The other die applies the RESETTING state carried over the stalk. -/
  | ctxResetStalkApply (ctx : Nat)
  /-- CTX_RESET_COMPLETE (R396): Once admitted work and tap marks are done, the context returns to ACTIVE and JOB_DONE and CTX_RESET_NOTICE are queued. -/
  | ctxResetComplete (ctx : Nat)
  /-- PORT_RESET (R397): Job that discards a port's ingress and egress state and restarts bring-up of its sub-links. -/
  | portReset (r : CtlReq)
  /-- PORT_RESET_COMPLETE (R397): Reports the port reset's result once every sub-link is in service or 100 ms have passed. -/
  | portResetComplete (port : Nat)
  /-- MODULE_RESET (R398): Warm reset that flushes staging and journal tails, marks the meter and comes up again as at power-up. -/
  | moduleReset (r : CtlReq)
  /-- STOP (R165): Executed at ingress, adds a port, class or context entry to the stop table on both dies. -/
  | stop (r : CtlReq)
  /-- RESUME (R165): Executed at ingress, removes the matching stop-table entry on both dies. -/
  | resume (r : CtlReq)
  /-- FENCE_ADVANCE (R448): Job that declares an endpoint dead and starts its fencing. -/
  | fenceAdvance (r : CtlReq)
  /-- COMP_CREATE (R463): Registers a COMPOSITION record. -/
  | compCreate (r : CtlReq)
  /-- COMP_COMMIT (R464): Job that advances a composition's step epoch on every listed switch. -/
  | compCommit (r : CtlReq)
  /-- COMP_COMMIT_COMPLETE (R464): Reports the commit once every listed LIVE switch has journaled it, failing the composition if one is not LIVE. -/
  | compCommitComplete (comp : Nat)
  /-- COMP_ROLLBACK (R466): Job that sets every listed switch's step epoch to the least journaled one and returns the composition to RUNNING. -/
  | compRollback (r : CtlReq)
  /-- REPLICA_PROMOTE (R458): Job that has the keepers make a replica-set member answer for the primary's switch ID. -/
  | replicaPromote (r : CtlReq)
  /-- ATTEST_QUOTE (R415): Returns a DAK-signed quote of the device and the caller's view, with both certificates. -/
  | attestQuote (r : CtlReq)
  /-- DEBUG_UNLOCK (R413): Write-limited command that checks an owner-signed authorisation and sets SEC.DEBUG with its scope. -/
  | debugUnlock (r : CtlReq)
  /-- OWNER_KEY_TRANSFER (R411): Installs the owner public key, or transfers it under an authorisation and then resets the module. -/
  | ownerKeyTransfer (r : CtlReq)
  /-- METER_TARIFF (R434): Write-limited command that checks and installs a signed tariff and parameter set in the meter. -/
  | meterTariff (r : CtlReq)
  /-- METER_EXPORT (R432): Job that writes a range of meter log records to pool memory and may release them. -/
  | meterExport (r : CtlReq)
  /-- PEP_SET (R467): Sets one pepper-unit perturbation rule. -/
  | pepSet (r : CtlReq)
  /-- PEP_CLEAR (R467): Removes one pepper rule or all of them. -/
  | pepClear (r : CtlReq)
  /-- REGISTER_WRITE (R111): ST to a control-window register that has no row of its own, applied in the service processor's order of acceptance. -/
  | registerWrite (f : Frame)
  /-- REGISTER_READ_CLEAR (R13): Read of a read-clears counter, such as a _HIT companion, returns the value and leaves zero. -/
  | registerReadClear (f : Frame)
  /-- QUOTA_LIMIT_WRITE (R80): Write of a context's tier quota LIMIT, which may be set below the charge and then raises OVER_QUOTA once. -/
  | quotaLimitWrite (f : Frame)
  /-- EXT_SEL_WRITE (R85): Write to HOM.EXT_SEL snapshots an extent record for the REC registers. -/
  | extSelWrite (f : Frame)
  /-- OBJ_SEL_WRITE (R85): Write to HOM.OBJ_SEL snapshots an object descriptor for the REC registers. -/
  | objSelWrite (f : Frame)
  /-- DIR_SEL_WRITE (R228): Write to COH.DIR_SEL snapshots a line's directory entry. -/
  | dirSelWrite (f : Frame)
  /-- CORE_SEL_WRITE (R316): Write to POD.CORE_SEL snapshots a physical core's record. -/
  | coreSelWrite (f : Frame)
  /-- SES_SEL_WRITE (R365): Write to ATT.SES_SEL snapshots a session record. -/
  | sesSelWrite (f : Frame)
  /-- FENCE_SEL_WRITE (R470): Write to FLT.FENCE_SEL snapshots an endpoint's fence record. -/
  | fenceSelWrite (f : Frame)
  /-- SWITCH_SEL_WRITE (R470): Write to FLT.SWITCH_SEL snapshots a switch's map entry. -/
  | switchSelWrite (f : Frame)
  /-- COMP_SEL_WRITE (R470): Write to FLT.COMP_SEL snapshots a composition record. -/
  | compSelWrite (f : Frame)
  /-- POD_RETIRE_WRITE (R316): Write to POD.RETIRE retires the named core once its current item ends, or removes a spare. -/
  | podRetireWrite (f : Frame)
  /-- SAMPLE_CFG_WRITE (R167): Write to SWC.SAMPLE_CFG accepted whole or not at all, with LOG2_N and debug-unlock checks. -/
  | sampleCfgWrite (f : Frame)
  /-- CC_FLUSH (R253): Write of one to TIER.CC_FLUSH starts write-back of every class C cache line dirty at that moment. -/
  | ccFlush (f : Frame)
  /-- CC_FLUSH_DONE (R253): The lines dirty at the flush write have all been written back and CC_FLUSH reads 0. -/
  | ccFlushDone (d : Die)
  /-- XFER_GO (R460): Write of GO to FLT.XFER_GO snapshots source and destination and starts an ownership-transfer job. -/
  | xferGo (f : Frame)
  /-- METER_DETACH_WRITE (R442): Write of one to MTR.CTL.DETACH prepares meter removal, which starts escrow and a final SEAL. -/
  | meterDetachWrite (f : Frame)
  /-- FW_BEGIN (R409): SEC.FW_CTL command that starts a firmware load into a slot. -/
  | fwBegin (f : Frame)
  /-- FW_END (R409): SEC.FW_CTL command that verifies a loaded firmware slot. -/
  | fwEnd (f : Frame)
  /-- FW_ABORT (R409): SEC.FW_CTL command that returns a loading firmware slot to EMPTY. -/
  | fwAbort (f : Frame)
  /-- FW_COMMIT (R410): SEC.FW_CTL command that raises FW_ARB to the running image's FW_SVN. -/
  | fwCommit (f : Frame)
  /-- FW_APERTURE_WRITE (R409): ST into the firmware aperture writes image bytes at the window base plus offset. -/
  | fwApertureWrite (f : Frame)
  /-- LANE_SPARE_WRITE (R485): Write to MOD.LANE_SPARE substitutes a spare lane into a port lane. -/
  | laneSpareWrite (f : Frame)
  /-- PC_SPARE_WRITE (R487): Write to MOD.PC_SPARE starts sparing of a DRAM pseudo-channel. -/
  | pcSpareWrite (f : Frame)
  /-- FRAME_INGRESS (R132): A frame arriving at a port is checked in order, stamped, and routed or answered. -/
  | frameIngress (port sub : Nat) (w : WireFrame)
  /-- STALK_RECEIVE (R29): A message crossing the stalk link is resequenced and delivered once, in order, at the other die. -/
  | stalkReceive (d : Die) (tc : Nat)
  /-- STALK_FAILURE (R30): A stalk failure that replay cannot repair stops admission on both dies as a module failure. -/
  | stalkFailure
  /-- EGRESS_SEND (R160): An output that is free takes the next frame by class priority and deficit round robin and transmits it. -/
  | egressSend (d : Die) (out : Output)
  /-- RELEASE_FORWARD (R177): A held release whose earlier writes have all left the write record is forwarded, or a MEM_SYNC answered. -/
  | releaseForward (port : Nat) (k : ReqKey)
  /-- RELEASE_TIMEOUT (R178): A release held 1 ms is answered ABORTED and sets RELEASE_TIMEOUT. -/
  | releaseTimeout (port : Nat) (k : ReqKey)
  /-- ACQUIRE_HOLD_TIMEOUT (R179): A request held behind an acquire for 1 ms is answered ABORTED. -/
  | acquireHoldTimeout (port : Nat) (k : ReqKey)
  /-- WRITE_RECORD_TIMEOUT (R176): A write-record entry unanswered after 100 ms is dropped and sets RELEASE_TIMEOUT. -/
  | writeRecordTimeout (port : Nat) (k : ReqKey)
  /-- LD (R172): Load performed at its home after the ordered checks, possibly with a coded response. -/
  | ld (d : Die) (r : DramRead)
  /-- ST (R172): Store performed whole at its home after the ordered checks, decoding a CMP block first. -/
  | st (d : Die) (f : Frame)
  /-- AMO (R181): Atomic function performed exactly once under the replay window, returning the old value. -/
  | amo (d : Die) (f : Frame)
  /-- AMO_NR (R181): Atomic function without a returned value, performed exactly once under the replay window. -/
  | amoNr (d : Die) (f : Frame)
  /-- CAS (R169): Compare-and-swap performed at the home under the replay window. -/
  | cas (d : Die) (f : Frame)
  /-- MEM_SYNC (R177): Fence request held at the attachment ingress and answered there once earlier writes are answered. -/
  | memSync (port : Nat) (f : Frame)
  /-- AMO_ACK (R182): Posted acknowledgement that moves a replay window's acknowledgement point or resumes a doubtful source. -/
  | amoAck (d : Die) (f : Frame)
  /-- COMBINED_REQUEST (R188): A combined request checked per constituent and performed in list order as one act. -/
  | combinedRequest (d : Die) (fs : List Frame)
  /-- REQUEST_AGED (R192): A request that has waited longer than AGE_US becomes aged and is accepted ahead of others. -/
  | requestAged (d : Die) (k : ReqKey)
  /-- HOTLINE_EXIT (R191): A hot line idle for 10 µs leaves the buffer and is written back to DRAM. -/
  | hotlineExit (d : Die) (line : Nat)
  /-- CRD_S (R213): Coherent read-shared request served at the home under the home table. -/
  | crdS (d : Die) (f : Frame)
  /-- CRD_M (R213): Coherent read-for-ownership request served at the home. -/
  | crdM (d : Die) (f : Frame)
  /-- CUPG (R213): Upgrade from S to M served at the home. -/
  | cupg (d : Die) (f : Frame)
  /-- CWB (R213): Owner writeback served at the home. -/
  | cwb (d : Die) (f : Frame)
  /-- CEVICT (R213): Sharer eviction notice served at the home. -/
  | cevict (d : Die) (f : Frame)
  /-- CINV_ACK (R214): Invalidation acknowledgement counted at the home, finishing the transaction at the last. -/
  | cinvAck (d : Die) (f : Frame)
  /-- CFWD_ACK (R214): Owner's forward acknowledgement written at the home, or starting abandonment when empty. -/
  | cfwdAck (d : Die) (f : Frame)
  /-- CRECALL_ACK (R214): Recall acknowledgement counted at the home, finishing the recall at the last. -/
  | crecallAck (d : Die) (f : Frame)
  /-- FENCE_NOTICE (R222): The home die accepts a fence notice and clears, poisons and recalls the fenced endpoint's lines. -/
  | fenceNotice (d : Die) (ep : Nat)
  /-- COH_ACK_TIMEOUT (R226): A home that waited ACK_TIMEOUT_MS for an acknowledgement reports the endpoint to the failure detector. -/
  | cohAckTimeout (d : Die) (ep : Nat)
  /-- OBJ_CREATE (R238): Creates a resident tensor object in a class T extent and charges it. -/
  | objCreate (d : Die) (f : Frame)
  /-- OBJ_MOVE (R239): Queues a migration of an object to another tier, answered when the move completes. -/
  | objMove (d : Die) (f : Frame)
  /-- OBJ_PIN (R238): Adds one to an object's pin count. -/
  | objPin (d : Die) (f : Frame)
  /-- OBJ_UNPIN (R238): Subtracts one from an object's pin count. -/
  | objUnpin (d : Die) (f : Frame)
  /-- OBJ_FREE (R238): Puts an object in FREEING, ending any move of it. -/
  | objFree (d : Die) (f : Frame)
  /-- OBJ_FREE_RELEASE (R238): The last access admitted before OBJ_FREE completes and the object's charge is released. -/
  | objFreeRelease (obj : Nat)
  /-- OBJ_CLONE (R73): Creates a new object holding a re-encrypted copy of the source's bytes and poison markers. -/
  | objClone (d : Die) (f : Frame)
  /-- MOVE_START (R239): A queued move takes a free move slot, takes its destination charge and starts copying. -/
  | moveStart (d : Die)
  /-- MOVE_SWITCHOVER (R240): After the copy passes, accesses wait while the last dirty granules are copied. -/
  | moveSwitchover (obj : Nat)
  /-- MOVE_COMPLETE (R240): The descriptor points at the new home, waiting accesses are released and the source is freed. -/
  | moveComplete (obj : Nat)
  /-- MOVE_DEST_FAIL (R241): The destination tier fails before switchover and the move ends with ABORTED. -/
  | moveDestFail (obj : Nat)
  /-- SPILL_START (R242): Free T0 falls below the low watermark and the die starts spilling victims to T1 or T2. -/
  | spillStart (d : Die)
  /-- REFILL_START (R243): With no spill running, the device moves pages of awake sessions back into T0. -/
  | refillStart (d : Die)
  /-- CC_WRITEBACK_RESPONSE (R235): A tray's response to a class C cache write-back marks the line clean or leaves it dirty. -/
  | ccWritebackResponse (d : Die) (f : Frame)
  /-- TRAY_RESPONSE (R232): A DRAM tray's response to a device LD or ST resumes the home request that issued it. -/
  | trayResponse (d : Die) (f : Frame)
  /-- SES_WAKE (R249): Charges the pages of a sleeping session and starts unpacking its layer packs. -/
  | sesWake (d : Die) (f : Frame)
  /-- SES_WAKE_LAYER_DONE (R249): The last page of a layer becomes resident and waiting attention on it is released. -/
  | sesWakeLayerDone (ses : Nat)
  /-- SES_WAKE_DONE (R249): All layers are unpacked, packs are freed or kept, and the session becomes AWAKE. -/
  | sesWakeDone (ses : Nat)
  /-- SES_SLEEP (R248): Charges the layer packs and puts the session in SLEEPING. -/
  | sesSleep (d : Die) (f : Frame)
  /-- SES_SLEEP_DONE (R248): Packs are written, the old image and pages are freed, and the session becomes ASLEEP. -/
  | sesSleepDone (ses : Nat)
  /-- STAGING_SLOT_WAIT_END (R260): A write waiting for a free staging slot gets one and proceeds. -/
  | stagingSlotWaitEnd (d : Die)
  /-- SLC_PROGRAM (R261): The flash engine gathers four staged units and programs them to an SLC-pool page. -/
  | slcProgram (d : Die) (vol : Nat)
  /-- SLC_PROGRAM_DONE (R261): The fourth-chunk response of a page program returns OK and MAP_SET records are appended. -/
  | slcProgramDone (d : Die) (f : Frame)
  /-- PROGRAM_ABORTED (R262): A flash program answered ABORTED retires the block and reprograms its units elsewhere. -/
  | programAborted (d : Die) (f : Frame)
  /-- FLASH_READ_RESPONSE (R268): A tray read response either returns data or retries at the next level, poisoning the unit at the limit. -/
  | flashReadResponse (d : Die) (f : Frame)
  /-- RELOCATION_START (R269): A tray starts the highest-priority due relocation: rescue, refresh, fold, collect or static wear. -/
  | relocationStart (port : Nat)
  /-- RELOCATION_CLOSE (R270): A full relocation target closes, its map group is journaled and emptied sources are queued for erasure. -/
  | relocationClose (port : Nat) (kind : RelocKind)
  /-- BLOCK_ERASE_DONE (R270): An erase completes and BLOCK_FREE or BLOCK_RETIRE is journaled. -/
  | blockEraseDone (d : Die) (f : Frame)
  /-- OUVI_MERGE (R265): With no free log block, the oldest is merged into new dense blocks. -/
  | ouviMerge (vol : Nat)
  /-- RETENTION_HOUR (R267): An hour of powered operation advances the retention clock, which is journaled. -/
  | retentionHour (d : Die)
  /-- CHECKPOINT_START (R275): A die whose ring is half full, or after 2^24 records, begins a checkpoint. -/
  | checkpointStart (d : Die)
  /-- CHECKPOINT_END (R275): CKPT_END lies on media and older ring records are released. -/
  | checkpointEnd (d : Die)
  /-- JOURNAL_RING_WAIT_END (R276): Operations waiting on a full journal ring proceed once a checkpoint frees space. -/
  | journalRingWaitEnd (d : Die)
  /-- MAP_REBUILD (R264): Loss of the map's DRAM-tray space starts a rebuild of the page map from the map area and journal. -/
  | mapRebuild (vol : Nat)
  /-- VOLUME_BRINGUP (R259): Reads IDENTIFY from a volume's trays, formats new trays and brings the volume online or leaves it offline. -/
  | volumeBringup (vol : Nat) (waited : Bool)
  /-- WORK_ITEM_START (R284): A pod core takes its next work item, scrubbing first on a context change. -/
  | workItemStart (d : Die) (core : Nat)
  /-- WORK_ITEM_END (R289): All threads have ended or faulted, the item's status is ranked and its work units go to the meter tap. -/
  | workItemEnd (d : Die) (core : Nat)
  /-- THREAD_SWITCH_QUANTUM (R285): A thread that completed 1,024 instructions yields the issue point. -/
  | threadSwitchQuantum (d : Die) (core : Nat)
  /-- BUDGET_EXHAUSTED (R290): An item reaching its instruction budget stops every thread with ABORTED. -/
  | budgetExhausted (d : Die) (core : Nat)
  /-- STREAM_COMPLETE (R303): A stream access completes and its thread becomes ready, or faults on a failing status. -/
  | streamComplete (d : Die) (core thread : Nat) (f : Frame)
  /-- STREAM_RETRY (R303): The stream port resends a request answered RETRY after 1 µs. -/
  | streamRetry (d : Die) (core thread : Nat)
  /-- CORE_RETIRE (R281): A core that fails ECC, parity or self-test is retired, a spare takes its slot and its item reruns. -/
  | coreRetire (d : Die) (core : Nat) (cause : RetireCause)
  /-- SELFTEST (R316): An idle core runs its periodic self-test between items. -/
  | selftest (d : Die) (core : Nat) (passed : Bool)
  /-- NOP (R300): Pod-core instruction with no effect. -/
  | podNop (d : Die) (core : Nat) (w : PodF)
  /-- END (R300): Ends the thread. -/
  | podEnd (d : Die) (core : Nat) (w : PodF)
  /-- JMP (R300): Jumps to an immediate instruction index. -/
  | podJmp (d : Die) (core : Nat) (w : PodF)
  /-- BEQ (R300): Branches when two scalar registers are equal. -/
  | podBeq (d : Die) (core : Nat) (w : PodF)
  /-- BNE (R300): Branches when two scalar registers differ. -/
  | podBne (d : Die) (core : Nat) (w : PodF)
  /-- BLT (R300): Branches on signed less-than. -/
  | podBlt (d : Die) (core : Nat) (w : PodF)
  /-- BLTU (R300): Branches on unsigned less-than. -/
  | podBltu (d : Die) (core : Nat) (w : PodF)
  /-- BAR (R287): Holds the thread until every live thread of the item has reached a barrier. -/
  | podBar (d : Die) (core : Nat) (w : PodF)
  /-- FAULT (R288): Faults the thread with the status in IMM. -/
  | podFault (d : Die) (core : Nat) (w : PodF)
  /-- RDFLG (R300): Reads and clears the thread's sticky flags. -/
  | podRdflg (d : Die) (core : Nat) (w : PodF)
  /-- RDPACE (R300): Reads the die's latest pace. -/
  | podRdpace (d : Die) (core : Nat) (w : PodF)
  /-- RDTIME (R300): Reads the die's interval timer in ns. -/
  | podRdtime (d : Die) (core : Nat) (w : PodF)
  /-- INFO (R300): Makes the item report EMPTY when it has no fault. -/
  | podInfo (d : Die) (core : Nat) (w : PodF)
  /-- ADD (R300): Scalar add. -/
  | podAdd (d : Die) (core : Nat) (w : PodF)
  /-- SUB (R300): Scalar subtract. -/
  | podSub (d : Die) (core : Nat) (w : PodF)
  /-- MUL (R300): Scalar multiply keeping the low 64 bits. -/
  | podMul (d : Die) (core : Nat) (w : PodF)
  /-- AND (R300): Scalar bitwise and. -/
  | podAnd (d : Die) (core : Nat) (w : PodF)
  /-- OR (R300): Scalar bitwise or. -/
  | podOr (d : Die) (core : Nat) (w : PodF)
  /-- XOR (R300): Scalar bitwise exclusive or. -/
  | podXor (d : Die) (core : Nat) (w : PodF)
  /-- SHL (R300): Scalar shift left. -/
  | podShl (d : Die) (core : Nat) (w : PodF)
  /-- SHR (R300): Scalar logical shift right. -/
  | podShr (d : Die) (core : Nat) (w : PodF)
  /-- SRA (R300): Scalar arithmetic shift right. -/
  | podSra (d : Die) (core : Nat) (w : PodF)
  /-- MIN (R300): Scalar signed minimum. -/
  | podMin (d : Die) (core : Nat) (w : PodF)
  /-- MAX (R300): Scalar signed maximum. -/
  | podMax (d : Die) (core : Nat) (w : PodF)
  /-- SLT (R300): Scalar signed set-less-than. -/
  | podSlt (d : Die) (core : Nat) (w : PodF)
  /-- SLTU (R300): Scalar unsigned set-less-than. -/
  | podSltu (d : Die) (core : Nat) (w : PodF)
  /-- ADDI (R300): Adds a sign-extended immediate. -/
  | podAddi (d : Die) (core : Nat) (w : PodF)
  /-- LI (R300): Loads a sign-extended immediate. -/
  | podLi (d : Die) (core : Nat) (w : PodF)
  /-- LIM (R300): Loads an immediate into bits 47:24. -/
  | podLim (d : Die) (core : Nat) (w : PodF)
  /-- LIT (R300): Loads an immediate into bits 63:48. -/
  | podLit (d : Die) (core : Nat) (w : PodF)
  /-- SLD (R300): Loads 8 scratch bytes into a scalar register. -/
  | podSld (d : Die) (core : Nat) (w : PodF)
  /-- SST (R300): Stores a scalar register to 8 scratch bytes. -/
  | podSst (d : Die) (core : Nat) (w : PodF)
  /-- VLD (R293): Loads 64 elements from scratch, widened to FP32 or INT32. -/
  | podVld (d : Die) (core : Nat) (w : PodF)
  /-- VST (R295): Stores 64 lanes to scratch, narrowed or quantised to the format. -/
  | podVst (d : Die) (core : Nat) (w : PodF)
  /-- VLDB (R300): Broadcasts 4 scratch bytes to every lane. -/
  | podVldb (d : Die) (core : Nat) (w : PodF)
  /-- VADD (R296): Per-lane add. -/
  | podVadd (d : Die) (core : Nat) (w : PodF)
  /-- VSUB (R296): Per-lane subtract. -/
  | podVsub (d : Die) (core : Nat) (w : PodF)
  /-- VMUL (R296): Per-lane multiply. -/
  | podVmul (d : Die) (core : Nat) (w : PodF)
  /-- VFMA (R296): Per-lane fused multiply-add with one rounding. -/
  | podVfma (d : Die) (core : Nat) (w : PodF)
  /-- VMIN (R296): Per-lane minimum with NaN winning. -/
  | podVmin (d : Die) (core : Nat) (w : PodF)
  /-- VMAX (R296): Per-lane maximum with NaN winning. -/
  | podVmax (d : Die) (core : Nat) (w : PodF)
  /-- VEXP2 (R296): Per-lane 2 to the power. -/
  | podVexp2 (d : Die) (core : Nat) (w : PodF)
  /-- VLOG2 (R296): Per-lane base-2 logarithm. -/
  | podVlog2 (d : Die) (core : Nat) (w : PodF)
  /-- VRCP (R296): Per-lane reciprocal. -/
  | podVrcp (d : Die) (core : Nat) (w : PodF)
  /-- VRSQ (R296): Per-lane reciprocal square root. -/
  | podVrsq (d : Die) (core : Nat) (w : PodF)
  /-- VCMPLT (R300): Per-lane less-than mask. -/
  | podVcmplt (d : Die) (core : Nat) (w : PodF)
  /-- VSEL (R300): Per-lane select by mask. -/
  | podVsel (d : Die) (core : Nat) (w : PodF)
  /-- VBCS (R300): Broadcasts a scalar to every lane. -/
  | podVbcs (d : Die) (core : Nat) (w : PodF)
  /-- VMVS (R300): Moves one lane into a scalar register. -/
  | podVmvs (d : Die) (core : Nat) (w : PodF)
  /-- VRADD (R297): Sums the 64 lanes in the fixed tree. -/
  | podVradd (d : Die) (core : Nat) (w : PodF)
  /-- VRMAX (R297): Takes the maximum of the 64 lanes in the fixed tree. -/
  | podVrmax (d : Die) (core : Nat) (w : PodF)
  /-- VIDX (R300): Fills lanes with a scalar plus lane index. -/
  | podVidx (d : Die) (core : Nat) (w : PodF)
  /-- VCVT (R294): Converts lanes between FP32, INT32 and narrower formats. -/
  | podVcvt (d : Die) (core : Nat) (w : PodF)
  /-- MZERO (R300): Zeroes an accumulator tile. -/
  | podMzero (d : Die) (core : Nat) (w : PodF)
  /-- MMA (R298): Adds a 16 by 16 matrix product to a tile in one matrix beat. -/
  | podMma (d : Die) (core : Nat) (w : PodF)
  /-- MSC (R300): Sets a tile's MX row and column scales. -/
  | podMsc (d : Die) (core : Nat) (w : PodF)
  /-- MST (R300): Stores a tile to scratch. -/
  | podMst (d : Die) (core : Nat) (w : PodF)
  /-- MLD (R300): Loads a tile from scratch. -/
  | podMld (d : Die) (core : Nat) (w : PodF)
  /-- MTV (R300): Moves four tile rows into a vector register. -/
  | podMtv (d : Die) (core : Nat) (w : PodF)
  /-- SRD (R302): Issues a stream read of fabric bytes into scratch. -/
  | podSrd (d : Die) (core : Nat) (w : PodF)
  /-- SWR (R302): Issues a stream write of scratch bytes to a fabric address. -/
  | podSwr (d : Die) (core : Nat) (w : PodF)
  /-- XPD (R304): Checks and decodes a coded block into scratch. -/
  | podXpd (d : Die) (core : Nat) (w : PodF)
  /-- XPQ (R304): Checks and decodes a coded block into the operand queue. -/
  | podXpq (d : Die) (core : Nat) (w : PodF)
  /-- CPZ (R370): Encodes raw scratch bytes as a ZERO, RAW or CODED block. -/
  | podCpz (d : Die) (core : Nat) (w : PodF)
  /-- COL_REDUCE (R322): A rank's or child's reduction descriptor is checked and opens or joins an instance at its node. -/
  | colReduce (d : Die) (f : Frame)
  /-- COL_PART (R324): A chunk contribution from one position is held at the node or answered. -/
  | colPart (d : Die) (f : Frame)
  /-- CHUNK_COMBINE (R326): A node holding a chunk from every position runs the combine work item for it. -/
  | chunkCombine (d : Die) (group node inst chunk : Nat)
  /-- COL_PART_RSP (R328): A parent's chunk result reaches a child node, which answers its held parts and makes stores. -/
  | colPartRsp (d : Die) (f : Frame)
  /-- SERVICE_STORE_RESPONSE (R328): A response to a service's result store reaches it, completing the descriptor when it is the last. -/
  | serviceStoreResponse (d : Die) (f : Frame)
  /-- INSTANCE_TIMEOUT (R330): A node whose instance is idle for INST_TIMEOUT_MS aborts it. -/
  | instanceTimeout (d : Die) (group node inst : Nat)
  /-- COL_GATHER (R332): Gathers indexed table rows into contiguous output at every destination. -/
  | colGather (d : Die) (f : Frame)
  /-- COL_FILTER (R334): Selects table rows by predicate, stage program or top-k and writes them. -/
  | colFilter (d : Die) (f : Frame)
  /-- ATT_APPEND (R344): The APPEND sub-operation writes new tokens' K and V rows into a session's pages. -/
  | attAppend (d : Die) (f : Frame)
  /-- ATT_OPEN (R346): The OPEN sub-operation registers a new awake session with its geometry. -/
  | attOpen (d : Die) (f : Frame)
  /-- ATT_FORK (R347): The FORK sub-operation makes a session share a prefix of another session's pages. -/
  | attFork (d : Die) (f : Frame)
  /-- ATT_CLOSE (R349): The CLOSE sub-operation waits for earlier work and unregisters a session. -/
  | attClose (d : Die) (f : Frame)
  /-- ATT_CLOSE_DONE (R349): After earlier work completes, pages, charges, index entries and image are released and the ID unregistered. -/
  | attCloseDone (ses : Nat)
  /-- RING_REUSE (R345): After earlier attention on the layer completes, the oldest ring page is reset and moved to the list end. -/
  | ringReuse (ses : Nat)
  /-- ATT_ATTEND (R353): Attention descriptor checked, snapshotted and split into work items over the needed blocks. -/
  | attAttend (d : Die) (f : Frame)
  /-- CMP_SLOT_FREE (R374): A retiring codebook slot with no referencing block becomes FREE and CMP_SLOT_FREED is emitted. -/
  | cmpSlotFree (slot : Nat)
  /-- EVENT_SEND (R387): A queued event is sent once TC6 credit and the context's event gap allow. -/
  | eventSend (d : Die) (ctx : Nat)
  /-- COUNTERS_PERIOD (R399): At the end of each publication period, a COUNTERS event is queued for contexts that ask for it. -/
  | countersPeriod (d : Die)
  /-- RATE_TOKEN_RELEASE (R390): A request waiting on a RATE bucket proceeds once enough tokens have accrued. -/
  | rateTokenRelease (d : Die) (ctx tc : Nat) (tokens : Nat)
  /-- AUDIT_PASS (R156): The free-list auditor runs a pass, quarantining double references and reclaiming leaked cells. -/
  | auditPass (d : Die)
  /-- CELL_ECC_ERROR (R152, R159): An uncorrectable cell error discards the frame or poisons a response payload; a corrected one is counted. -/
  | cellEccError (d : Die) (area : CellArea) (tc pos : Nat) (kind : CellFault)
  /-- LINK_INIT (R137): A peer's LINK_INIT is checked, or restarts bring-up on a sub-link in service. -/
  | linkInit (port sub : Nat) (f : Frame) (srcMac : Nat)
  /-- LINK_INIT_SEND (R137): Every 10 µs until the peer's LINK_INIT arrives, the port sends LINK_INIT. -/
  | linkInitSend (port sub : Nat)
  /-- LINK_CREDIT (R134): Cumulative credit return counters from the peer update available credit, and the first brings the sub-link into service. -/
  | linkCredit (port sub : Nat) (f : Frame)
  /-- LINK_CREDIT_SEND (R134): A port sends LINK_CREDIT on 16 unreturned cells, after 1 µs with cells unreturned, or every 10 µs. -/
  | linkCreditSend (port sub : Nat)
  /-- LINK_NAK (R136): A NAK makes the sender resend held frames from the named LSEQ. -/
  | linkNak (port sub : Nat) (f : Frame)
  /-- LINK_NAK_REPEAT (R136): A receiver without progress for 20 µs repeats its LINK_NAK. -/
  | linkNakRepeat (port sub : Nat)
  /-- REPLAY_TIMEOUT (R136): The oldest held frame unacknowledged for 20 µs makes the sender resend every held frame. -/
  | replayTimeout (port sub : Nat)
  /-- SUBLINK_LOCK_LOSS (R138): Loss of PCS or FEC lock takes a sub-link out of service. -/
  | sublinkLockLoss (port sub : Nat)
  /-- SUBLINK_RX_TIMEOUT (R138): No frame received for 100 µs takes a sub-link out of service. -/
  | sublinkRxTimeout (port sub : Nat)
  /-- SUBLINK_REPLAY_LIMIT (R138): Eight replays without ACK_SEQ advance take a sub-link out of service. -/
  | sublinkReplayLimit (port sub : Nat)
  /-- SUBLINK_BRINGUP_TIMEOUT (R138): No completed bring-up within 100 ms takes a sub-link out of service. -/
  | sublinkBringupTimeout (port sub : Nat)
  /-- PFC_FRAME (R139): A received PFC frame pauses or resumes egress of its priority. -/
  | pfcFrame (port sub : Nat) (prio quanta : Nat)
  /-- PFC_XOFF_REFRESH (R139): Every 10 µs a port refreshes XOFF for classes still over their limit. -/
  | pfcXoffRefresh (port sub : Nat)
  /-- SPRAYED_FRAME_RESEQUENCE (R142): A sprayed frame is held in its stream's reorder slot and released in SPREAD_SEQ order. -/
  | sprayedFrameResequence (d : Die) (f : Frame)
  /-- RESEQ_ACK (R142): A resequencer acknowledgement advances the entry switch's spray window. -/
  | reseqAck (d : Die) (f : Frame)
  /-- RESEQ_ACK_TIMER (R142): 2 µs after an unacknowledged release, the destination sends RESEQ_ACK. -/
  | reseqAckTimer (sw tc : Nat)
  /-- PATH_BARRIER_START (R143): A change of live paths makes the entry switch stop sending and send barriers. -/
  | pathBarrierStart (sw : Nat)
  /-- PATH_BARRIER (R143): The destination collects barriers in each class and, at the last, releases held frames and acknowledges. -/
  | pathBarrier (d : Die) (f : Frame)
  /-- PATH_BARRIER_ACK (R143): The entry switch receives the acknowledgement and resumes on the new path set. -/
  | pathBarrierAck (d : Die) (f : Frame)
  /-- PATH_BARRIER_TIMEOUT (R143): No acknowledgement within 1 ms reports the destination unreachable and answers held requests HOMELOST. -/
  | pathBarrierTimeout (sw : Nat)
  /-- KA_HELLO (R418): Initiator's key-agreement message carrying the ML-KEM encapsulation key. -/
  | kaHello (port sub : Nat) (msg : Bytes)
  /-- KA_REPLY (R418): Responder's key-agreement message carrying the ciphertext and signed identity. -/
  | kaReply (port sub : Nat) (msg : Bytes)
  /-- KA_DONE (R419): Initiator's confirmation, after which both ends derive and install link keys. -/
  | kaDone (port sub : Nat) (msg : Bytes)
  /-- KA_RESEND (R419): A key-agreement message not followed within 10 ms is resent whole. -/
  | kaResend (port sub : Nat)
  /-- LINK_REKEY (R420): After 2^40 frames or 24 hours a new key agreement runs on the sub-link. -/
  | linkRekey (port sub : Nat)
  /-- PACE_MEASURE (R45): Each local reference interval the die measures and publishes its pace. -/
  | paceMeasure (d : Die) (pace : Nat)
  /-- REF_CLOCK_LOSS (R49): Loss of the reference clock moves interval timers to the internal oscillator and lengthens timeouts. -/
  | refClockLoss
  /-- REF_CLOCK_RETURN (R49): The reference clock returns and the die resumes from it at the next interval. -/
  | refClockReturn
  /-- SP_TAKEOVER (R40): The standby service processor takes over, completing committed commands and aborting the rest. -/
  | spTakeover
  /-- HEARTBEAT_SEND (R445): Every 10 ms a switch sends a heartbeat to every keeper. -/
  | heartbeatSend
  /-- HEARTBEAT (R445): A keeper receives a heartbeat and answers it, renewing the sender's lease. -/
  | heartbeat (sw : Nat)
  /-- LEASE_LOSS (R445): A switch without a majority answer within 100 ms self-fences. -/
  | leaseLoss
  /-- LEASE_REGAIN (R447): A self-fenced switch regains its lease and returns to service when its entry allows. -/
  | leaseRegain
  /-- SWITCH_DECLARE_LOST (R446): Keepers without a heartbeat for 200 ms commit the switch LOST and advance its endpoints' fence epochs. -/
  | switchDeclareLost (sw : Nat)
  /-- MAP_GENERATION_APPLY (R444): A switch applies a committed federation map generation and acknowledges it, fetching the whole map on a gap. -/
  | mapGenerationApply (gen : Nat) (changes : List MapChange)
  /-- ENDPOINT_GRACE_EXPIRE (R448): An endpoint whose sub-links are out of service for GRACE_MS is declared dead. -/
  | endpointGraceExpire (ep : Nat)
  /-- ENDPOINT_ACK_DEAD_EXPIRE (R448): An endpoint reported under the acknowledgement timeout with no answer within ACK_DEAD_MS is declared dead. -/
  | endpointAckDeadExpire (ep : Nat)
  /-- ENDPOINT_FENCED (R449): All live switches have acknowledged the new epoch and ENDPOINT_FENCED is emitted. -/
  | endpointFenced (ep : Nat)
  /-- EPOCH_HOLD_TIMEOUT (R450): A frame held for a newer fence epoch fails after 1 ms without the generation. -/
  | epochHoldTimeout (port idx : Nat)
  /-- TRAY_LOST (R456): A tray declared dead loses its objects, revokes its class C extents or re-places poisoned objects. -/
  | trayLost (port : Nat)
  /-- XFER_IN (R461): The destination creates the INBOUND object and journals XFER_IN. -/
  | xferIn (x : XferIn)
  /-- XFER_SWITCHOVER (R461): The source copies the last dirty granules and journals XFER_COMMIT, the commit point. -/
  | xferSwitchover (job : Nat)
  /-- XFER_COMMIT_APPLY (R461): The destination makes the object RESIDENT and the source answers waiters STALE and frees the original. -/
  | xferCommitApply (job : Nat)
  /-- XFER_RESOLVE (R462): After a restart or map change the destination resolves every INBOUND object from the source's journal. -/
  | xferResolve (answers : List XferAnswer)
  /-- TAP_EVENT_SEND (R424): A tap concentrator numbers tap events and sends them on the meter link. -/
  | tapEventSend (d : Die)
  /-- METER_ACK (R426): The meter acknowledges TAP_SEQ values cumulatively, freeing concentrator buffer. -/
  | meterAck (d : Die) (tapSeq : Nat)
  /-- RECORD_PERIOD_END (R431): At a record-period boundary the meter writes PERIOD records and a SEAL. -/
  | recordPeriodEnd
  /-- METER_ATTACH (R436): A fitted meter is verified and attached, or refused. -/
  | meterAttach (m : MeterIdent)
  /-- METER_TAMPER (R436): A husk breach makes the meter write DETACH and SEAL and erase its key. -/
  | meterTamper
  /-- METER_LINK_LOSS (R437): Meter absence or a link down for 10 ms starts escrow of tap events. -/
  | meterLinkLoss
  /-- ESCROW_SECOND (R437): Each second in escrow the die writes a TIME event and aggregated sums. -/
  | escrowSecond (d : Die)
  /-- ESCROW_INGEST_SEGMENT (R439): An attached meter verifies and ingests one escrow segment and releases it. -/
  | escrowIngestSegment (d : Die)
  /-- INPUT_LOSS (R475): Input below 44 V, above 62 V or a broken PRSNT starts the hold-up flush. -/
  | inputLoss
  /-- POWER_UP (R479): EN high with input in range runs the power-up sequence to admission and MODULE_UP. -/
  | powerUp (p : PowerUpIn)
  /-- PLANNED_POWER_DOWN (R478): EN low in RUN stops admission, completes work for up to 1 s, flushes and enters STANDBY. -/
  | plannedPowerDown
  /-- PLANNED_DOWN_TIMEOUT (R478): Work still running 1 s into a planned power-down ends as under a module reset. -/
  | plannedDownTimeout
  /-- HOLDUP_TEST (R477): Every 24 hours the module load-tests the hold-up bank and may set HOLDUP_LOW. -/
  | holdupTest (tenthMs : Nat)
  /-- THERMAL_HOLD_ENTER (R483): Junction above 105 °C stops new work items on the die. -/
  | thermalHoldEnter (d : Die) (tj inlet : Int)
  /-- THERMAL_HOLD_EXIT (R483): Junction back at 100 °C ends thermal hold. -/
  | thermalHoldExit (d : Die) (tj inlet : Int)
  /-- THERMAL_TRIP (R483): Junction at or above 110 °C for 1 ms runs the hold-up flush and turns the module off. -/
  | thermalTrip (d : Die) (tj : Int)
  /-- COOLANT_INLET_HIGH (R483): Coolant inlet above 40 °C sets COOLANT_HIGH and emits THERMAL. -/
  | coolantInletHigh (inlet : Int)
  /-- INPUT_LOW (R490): Input below 48 V without loss sets INPUT_LOW and emits an event. -/
  | inputLow (mv : Nat)
  /-- LANE_AUTO_SPARE (R485): A lane with FEC_DEGRADE is replaced by a spare lane while the sub-link holds under credit. -/
  | laneAutoSpare (port lane : Nat)
  /-- LANE_RETRAIN_DONE (R485): The substituted lane has retrained and LANE_SPARED is emitted. -/
  | laneRetrainDone (port lane : Nat)
  /-- PC_AUTO_SPARE (R487): A pseudo-channel with too many errors starts being copied to a spare. -/
  | pcAutoSpare (stack pc : Nat)
  /-- PC_SPARE_SWITCHOVER (R487): The copies are equal and the spare takes the original's position, emitting PC_SPARED. -/
  | pcSpareSwitchover (stack pc : Nat)
  /-- ROW_REPAIR (R488): A failing DRAM row is saved, repaired by post-package repair and restored. -/
  | rowRepair (stack row : Nat)
  /-- LINK_TRAINING_DONE (R137): PMD link training, PCS and FEC lock complete on a sub-link, so frames can be received and key agreement or LINK_INIT can begin. -/
  | linkTrainingDone (port sub : Nat)
  /-- INPUT_RETURN (R478): Input power returns to range, stays there 1 s, the bank charges to HOLDUP_READY and the module leaves OFF for STANDBY. -/
  | inputReturn (mv : Nat)
  /-- EXT_REVOKE_STALK_APPLY (R452): The other die applies the REVOKING state carried over the stalk, after which the EXT_REVOKE response is sent. -/
  | extRevokeStalkApply (ext : Nat)
  /-- STOP_STALK_APPLY (R166): The other die applies a STOP or RESUME carried in a TC7 stalk message, after which the ingress sends its response. -/
  | stopStalkApply (d : Die)
  /-- COMP_ROLLBACK_COMPLETE (R466): Every listed LIVE switch has taken the least journaled step epoch, the composition is RUNNING and JOB_DONE carries the epoch. -/
  | compRollbackComplete (comp : Nat)
  /-- METER_EXPORT_DONE (R432): The stores of exported log records have all been answered, releases take effect and JOB_DONE reports the records written. -/
  | meterExportDone (job : Nat)
  /-- AUTHORISATION_READ_DONE (R413): The service processor's read of an authorisation or tariff set completes, and the command's remaining checks and effect are carried out. -/
  | authorisationReadDone
  /-- MAP_REBUILD_DONE (R264): The page-map rebuild onto MAP_GROUP space finishes and the volume leaves MAP_REBUILD for ONLINE. -/
  | mapRebuildDone (vol : Nat)
  /-- MAP_PAGE_LOAD_DONE (R277): A map page loaded lazily from the map area after admission arrives and releases the reads that waited for it. -/
  | mapPageLoadDone (vol page : Nat)
  /-- JOURNAL_TAIL_ON_MEDIA (R270): Journal records reach journal flash media, letting relocation erases, checkpoint release and HOLDUP_LOW acknowledgements proceed. -/
  | journalTailOnMedia (d : Die) (lsn : Nat)
  /-- PFC_PAUSE_EXPIRY (R139): The 802.1Qbb pause time of a priority runs out without refresh and its egress resumes. -/
  | pfcPauseExpiry (port sub prio : Nat)
  /-- LOCAL_FRACTION_UPDATE (R114): Every 1,000 local reference intervals each die updates CFG.LOCAL_FRACTION with its measured local fraction. -/
  | localFractionUpdate (d : Die)
  /-- FEC_DEGRADE_CHECK (R147): Over each 1,000 local reference intervals a port compares corrected symbols with 1 in 10^5 and sets FEC_DEGRADE. -/
  | fecDegradeCheck (port symbols corrected : Nat)
  /-- TAP_BYTES_FLUSH (R425): A tap's per-class BYTES count is flushed as a tap event after 10 ms of local interval or on reaching 2^32. -/
  | tapBytesFlush (d : Die) (ctx tc dir : Nat)
  /-- FLASH_TRAY_BUSY (R256): A flash tray answers RETRY because it is busy and the flash engine resends the request. -/
  | flashTrayBusy (d : Die) (f : Frame)
  /-- ROW_REPAIR_DONE (R488): Post-package repair of a row finishes, contents are restored and held accesses are released in acceptance order. -/
  | rowRepairDone (stack row : Nat)
  /-- PEPPER_HOLD_EXPIRY (R467): A frame held at ingress by a BACKPRESSURE or DELAY pepper rule is released when its MAGNITUDE runs out. -/
  | pepperHoldExpiry (port idx : Nat)
deriving DecidableEq, Repr

end Sys2Proof
end

