-- ==== Sys2Proof/WellFormed.lean ====
section
/-! DEFINITION. Which commands are well formed: operands that lie in the ranges the manual gives ports, sub-links, classes, cores,
threads, contexts and endpoints. A command that is not well formed names no event of the block. -/

namespace Sys2Proof

/-- A port: P0 to P63 and H0 (R24, R115). -/
def portWf (p : Nat) : Bool := decide (p ≤ 64)

/-- A sub-link of a port (R115). -/
def subWf (p k : Nat) : Bool := portWf p && decide (k < 8)

/-- A traffic class (R130). -/
def classWf (tc : Nat) : Bool := decide (tc < 8)

/-- A physical pod core of a die: 512 and 16 spares (R280). -/
def coreWf (c : Nat) : Bool := decide (c < 528)

/-- A context (R378). -/
def ctxWf (c : Nat) : Bool := decide (c < 4096)

/-- An endpoint ID (R117). -/
def epWf (e : Nat) : Bool := decide (e < 2 ^ 20)

/-- A frame whose LENGTH counts its payload bytes (R121). -/
def frameWf (f : Frame) : Bool := f.length.toNat == f.payload.length

/-- An output of a switch core. -/
def outWf (o : Output) : Bool :=
  match o with
  | .sub p k => subWf p k
  | .stalk => true
  | .home => true
  | .sp => true
  | .agent => true

/-- Is a command well formed? -/
def Instr.wf (i : Instr) : Bool :=
  match i with
  | .frameIngress p k _ => subWf p k
  | .egressSend _ o => outWf o
  | .stalkReceive _ tc => classWf tc
  | .ld _ r => frameWf r.frame
  | .st _ f => frameWf f
  | .workItemStart _ c => coreWf c
  | .workItemEnd _ c => coreWf c
  | .streamComplete _ c t _ => coreWf c && decide (t < 16)
  | .ctxResetStalkApply c => ctxWf c
  | .ctxResetComplete c => ctxWf c
  | .ctxDestroyComplete c => ctxWf c
  | .fenceNotice _ e => epWf e
  | .cohAckTimeout _ e => epWf e
  | .endpointFenced e => epWf e
  | .portResetComplete p => portWf p
  | .rateTokenRelease _ c tc _ => ctxWf c && classWf tc
  | _ => true

end Sys2Proof
end

