-- ==== Sys2Proof/Config.lean ====
section
/-! DEFINITION. What the model leaves uninterpreted: cryptographic functions the manual names by their standards, the hash of
directory sets it does not give, and the free values of values it leaves open. None has a body, so no proof sees a value. -/

namespace Sys2Proof
namespace Config

/-- SHAKE256 of a byte string, to a number of output bytes (R90, R92). -/
opaque shake256 : Bytes → Nat → Bytes

/-- Does an SLH-DSA-SHAKE-256s signature verify: key, covered bytes, signature (R92, R407, R411, R413, R434). -/
opaque slhDsaOk : Bytes → Bytes → Bytes → Bool

/-- An SLH-DSA signature the device or the meter makes: the number of the key, covered bytes (R415, R430, R437). -/
opaque slhDsaSign : Nat → Bytes → Bytes

/-- The vendor's firmware key, which the sprouts hold (R407). -/
opaque vendorKey : Bytes

/-- The public key in a meter certificate or device certificate (R416, R431, R434). -/
opaque certKey : Bytes → Bytes

/-- Does a certificate chain verify to the vendor root (R418)? -/
opaque certOk : Bytes → Bool

/-- KMAC256: key, message, output bytes, customisation number (R403, R419). -/
opaque kmac256 : Bytes → Bytes → Nat → Nat → Bytes

/-- ML-KEM-1024: a key pair, an encapsulation and a decapsulation, from a secret number (R418). -/
opaque kemPublic : Nat → Bytes
opaque kemEncaps : Bytes → Nat → Bytes × Bytes
opaque kemDecaps : Nat → Bytes → Bytes

/-- A certificate of the device's device identity key or attestation key (R403, R415). -/
opaque deviceCert : Nat → Bytes

/-- The set of the sparse directory a line maps to, by the line's number (R210: the hash is not given). -/
opaque dirSetOf : Nat → Nat

/-- The DRAM stack and row of a 256-byte block of T0 data, by the block's number among all of the fabric: a fixed hash that the manual does not
give (R189, R487, R488). -/
opaque dramRowOf : Nat → Nat × Nat

/-- The set of the class C cache that a line maps to, by the line's number (R234: sets of 16 ways, the map is not given). -/
opaque ccSetOf : Nat → Nat

/-- Where on its tray, in 4 KiB granules from the TRAY record's BASE, a granule of pooled memory in T1 lies, by the granule's
number (R231: the placement inside a tray is not given); it is taken modulo the tray's granules. -/
opaque trayGranule : Nat → Nat

/-- The granule of its group's space in which a map page lies, by volume and page (R263: not given). -/
opaque mapGranule : Nat → Nat → Nat

/-- The TYPE of the journal records whose layout the manual leaves to their owners, by a number of their kind (R274). -/
opaque recType : Nat → Nat

/-- The bytes of a checkpoint area, by die and start LSN (R275: not laid out). -/
opaque ckptBytes : Nat → Nat → Bytes

/-- The weights of a matrix beat and of a vector instruction in work units while no tariff set gives them (R399, R427): the
manual gives none. -/
opaque defaultWeights : Nat × Nat

/-- Where an extent of another switch lies: its base and size, by switch and extent index (R459: a switch holds no record of another
switch's extents). -/
opaque homeMap : Nat → Nat → Nat × Nat

/-- The device unique secret (R403). -/
opaque dus : Bytes

/-- AES-256-XTS of one 64-byte data unit: a key, a tweak, the plaintext; and back (R60, R421). -/
opaque xtsSeal : Bytes → Nat → Bytes → Bytes
opaque xtsOpen : Bytes → Nat → Bytes → Bytes

/-- MACsec's GCM-AES-XPN-256: what stands on the wire for a plaintext under key material, a packet number and the bytes before it, followed by the
16-byte ICV (R144, log 182). -/
opaque gcmSeal : Bytes → Nat → Bytes → Bytes → Bytes

/-- A value the manual leaves open, by the number of the draw. -/
opaque freeValue : Nat → BitVec 64

/-- Bytes the manual leaves open, by the number of the draw and a length. -/
opaque freeBytes : Nat → Nat → Bytes

end Config
end Sys2Proof
end

