-- ==== Sys2Proof/Machine/State.lean ====
section
/-! DEFINITION. The state of the module: everything the manual gives it, as plain data, chapter by chapter; the state after
reset; the reasons a step may stop. Field docstrings cite the rule that names the state. -/

namespace Sys2Proof
namespace Machine

/-- A sticky status register and its companion hit counter (R13). -/
structure Sticky where
  bits : BitVec 16 := 0
  hit : BitVec 8 := 0
deriving DecidableEq, Repr

/-! Chapter 03: records, slots, commands -/

/-- One record of the record set (R87, R91): its type, key and body. -/
structure Rec where
  type : Nat
  key : Nat
  body : Bytes
deriving DecidableEq, Repr

/-- The ACTION of a record in a bitstream (R91). -/
inductive Action where
  | add
  | replace
  | delete
deriving DecidableEq, Repr

/-- One record change (R91): its section is fixed by its type. -/
structure Change where
  action : Action
  type : Nat
  key : Nat
  body : Bytes
deriving DecidableEq, Repr

/-- The states of a bitstream or firmware slot (R94, R409). -/
inductive SlotPhase where
  | empty
  | loading
  | verified
  | invalid
deriving DecidableEq, Repr

/-- A bitstream or firmware slot and its bytes by offset; an offset not listed has not been written (R95, R96 check 1). -/
structure SlotState where
  phase : SlotPhase := .empty
  loadId : Nat := 0
  total : Nat := 0
  bytes : Dict Byte := []
deriving DecidableEq, Repr

/-- A job in progress (R107, R110): its number, its command code, its issuer's endpoint and context, and what it works on. -/
structure Job where
  num : Nat
  code : Nat
  ep : Nat
  ctx : Nat
  args : List Nat
deriving DecidableEq, Repr

/-- A held response (R109): CMD_SEQ, status, DETAIL, results. -/
structure HeldRsp where
  cmdSeq : BitVec 32
  command : Nat
  status : BitVec 5
  detail : Nat
  results : Bytes
deriving DecidableEq, Repr

/-- A source's executed commands (R109): the newest value and the last 16 responses, newest first. -/
structure CmdSource where
  newest : BitVec 32
  held : List HeldRsp
deriving DecidableEq, Repr

/-- A partial bitstream being applied (R101): its job, its changes in the order they are applied, its determinism class. -/
structure Applying where
  job : Nat
  ep : Nat
  ctx : Nat
  gen : Nat
  detClass : Nat
  changes : List Change
deriving DecidableEq, Repr

/-- A record whose requests still drain under its old body (R32, R62, R102). -/
structure Drain where
  type : Nat
  key : Nat
  next : Bytes
deriving DecidableEq, Repr

/-- A command whose authorisation or tariff set the service processor is reading (R413, R434). -/
structure AuthWait where
  code : Nat
  req : CtlReq
deriving DecidableEq, Repr

/-- A command whose response waits until the other die has applied its change (R166, R452). -/
structure StalkWait where
  code : Nat
  req : CtlReq
  detail : Nat
  results : Bytes
deriving DecidableEq, Repr

/-- The configuration, the slots and the service processors (chapter 03, R40). -/
structure CfgState where
  records : List Rec := []
  slotA : SlotState := {}
  slotB : SlotState := {}
  slotP : SlotState := {}
  lastLoadId : Nat := 0
  loadOrder : List Slot := []
  preferred : Slot := .a
  active : Slot := .a
  fallback : Bool := false
  cameUnconfigured : Bool := false
  unconfigured : Bool := true
  switchId : Nat := 0xFFF
  activeId : Nat := 0
  detClass : Nat := 0
  configGen : Nat := 0
  ethCtl : BitVec 16 := 0x88B5
  ethLft : BitVec 16 := 0x88B6
  localFrac : Two Nat := ⟨0, 0⟩
  localBytes : Two Nat := ⟨0, 0⟩
  totalBytes : Two Nat := ⟨0, 0⟩
  status : Sticky := {}
  lastStatus : BitVec 5 := 0
  applying : Option Applying := none
  draining : List Drain := []
  cmdSeq : Dict CmdSource := []
  jobs : List Job := []
  nextJob : Nat := 1
  activeSp : Die := .d0
  spInbox : List Frame := []
  authWait : Option AuthWait := none
  stalkWait : List StalkWait := []
  mirrorLog : List (Nat × Nat × Nat) := []
deriving DecidableEq, Repr

/-! Chapter 04: ports, sub-links, streams -/

/-- How far a sub-link has come into service (R137): down, in PMD training and lock, locked and agreeing keys, exchanging
LINK_INIT, and in service. -/
inductive LinkPhase where
  | down
  | keying
  | init
  | up
deriving DecidableEq, Repr

/-- A sequenced frame held in a replay buffer (R136). -/
structure SentFrame where
  lseq : BitVec 24
  trailer : Trailer
  frame : Frame
  more : List Frame := []
deriving DecidableEq, Repr

/-- The key agreement of a sub-link (R418 to R420): the messages of the agreement, the number of the one sent last, whether keys are
installed and under which association number, the number of this end's secret, and the keys and salts of R419; the packet number last
sent and the last accepted under the keys (R144). -/
structure KaState where
  hello : Bytes := []
  reply : Bytes := []
  done : Bytes := []
  lastSent : Nat := 0
  keyed : Bool := false
  txPn : Nat := 0
  rxPn : Nat := 0
  assoc : Nat := 0
  secret : Nat := 0
  okm : Bytes := []
deriving DecidableEq, Repr

/-- One sub-link (R133 to R139). Lists by class hold eight entries, TC0 first; creditHold is what a CREDIT_HOLD rule keeps back of the next
return (R467). tc7Out holds the TC7 cells sent and not returned, oldest first, each with whether they are of the request half; occReq7 is the
part of the TC7 occupancy that is of the request half (R130). -/
structure SubState where
  phase : LinkPhase := .down
  peerInit : Bool := false
  peerMac : Nat := 0
  peerEp : Nat := 0
  peerReplay : Nat := 0
  limits : List Nat := [0, 0, 0, 0, 0, 0, 0, 0]
  cellsSent : List Nat := [0, 0, 0, 0, 0, 0, 0, 0]
  cellsReturned : List Nat := [0, 0, 0, 0, 0, 0, 0, 0]
  returned : List Nat := [0, 0, 0, 0, 0, 0, 0, 0]
  unreturned : List Nat := [0, 0, 0, 0, 0, 0, 0, 0]
  occupancy : List Nat := [0, 0, 0, 0, 0, 0, 0, 0]
  txSeq : BitVec 24 := 0
  rxSeq : BitVec 24 := 0
  rxAny : Bool := false
  replay : List SentFrame := []
  replays : Nat := 0
  nakSent : Bool := false
  paused : List Bool := [false, false, false, false, false, false, false, false]
  xoff : List Bool := [false, false, false, false, false, false, false, false]
  creditHold : List Nat := [0, 0, 0, 0, 0, 0, 0, 0]
  ka : KaState := {}
  retraining : Option Nat := none
  tc7Out : List (Bool × Nat) := []
  occReq7 : Nat := 0
deriving DecidableEq, Repr

/-- A write-record entry (R176): copies accepted, the copies answered by number from 1, the last of them answered OK,
the last status. -/
structure WriteEntry where
  key : ReqKey
  tc7 : Bool
  order : Nat
  copies : Nat
  answered : List Nat
  okAt : Option Nat
  lastStatus : BitVec 5
deriving DecidableEq, Repr

/-- A frame descriptor (R149): the frame with its header patch applied, its cells, the sub-link whose allocation it is
charged to, the constituents of a combined request after the first (R186), the trailer fields a transit keeps (R135), whether its cells are
of the stalk receive pool or of an agent's transmit pool (R150 to R152), the further copies of a multicast that cross the stalk with it (R154),
the port that a path barrier has to leave by (R143), and the ingress it came in by, which it keeps across the stalk: 0 for the switch's own
agents, else 8 × (port + 1) + sub-link (R190). -/
structure Desc where
  frame : Frame
  cells : List Nat := []
  source : Option (Nat × Nat) := none
  more : List Frame := []
  trailer : Trailer := {}
  viaStalk : Bool := false
  agent : Bool := false
  copies : List Frame := []
  via : Option Nat := none
  ingress : Nat := 0
deriving DecidableEq, Repr

/-- A frame held at an ingress with the sub-link where it came in and its order of acceptance there. -/
structure HeldFrame where
  sub : Nat
  order : Nat
  desc : Desc
deriving DecidableEq, Repr

/-- A release or MEM_SYNC held at its attachment ingress (R177): waits are the orders of the writes it waits for. -/
structure HeldRelease where
  held : HeldFrame
  waits : List Nat
deriving DecidableEq, Repr

/-- One port: its registers (R147) and its attachment ingress (R165, R176 to R179, R390, R450, R467). recWait holds TC0 and TC3 frames that
found the write record full (R176). -/
structure PortState where
  errStatus : Sticky := {}
  fecCorr : Nat := 0
  fecUncorr : Nat := 0
  replayCount : Nat := 0
  rxFrames : List Nat := [0, 0, 0, 0, 0, 0, 0, 0]
  txFrames : List Nat := [0, 0, 0, 0, 0, 0, 0, 0]
  discarded : Nat := 0
  order : Nat := 0
  subs : Dict SubState := []
  writeRec : List WriteEntry := []
  releases : List HeldRelease := []
  acquires : List HeldFrame := []
  behind : List HeldFrame := []
  stopHeld : List HeldFrame := []
  epochHeld : List HeldFrame := []
  rateHeld : List HeldFrame := []
  pepHeld : List HeldFrame := []
  recWait : List HeldFrame := []
  asked : List ReqKey := []
  ctxDeficit : Dict Nat := []
  resetJob : Option Nat := none
deriving DecidableEq, Repr

/-- The entry end of a spray stream (R142), keyed by 8 × destination switch + class: the next number, NEXT of the last RESEQ_ACK, the
next path, and the frames beyond the window, each with its die. -/
structure SprayTx where
  nextNum : Nat := 0
  acked : Nat := 0
  rr : Nat := 0
  held : List (Nat × Desc) := []
deriving DecidableEq, Repr

/-- A resequencer (R142), keyed by 8 × entry switch + class: the number it waits for, the frames held by slot position (the number
modulo 64), the releases not yet acknowledged. -/
structure Reseq where
  next : Nat := 0
  held : Dict Desc := []
  unacked : Nat := 0
deriving DecidableEq, Repr

/-- A path barrier run by this switch as entry (R143): its number, the new live paths (as in LftState), the frames held meanwhile,
each with its die. -/
structure BarrierTx where
  id : Nat
  paths : List Nat
  held : List (Nat × Desc) := []
deriving DecidableEq, Repr

/-- The barriers collected by this switch as destination (R143), keyed by entry switch: (class, count) and values. -/
structure BarrierRx where
  id : Nat
  count : Nat
  got : List Nat
  values : List Nat
deriving DecidableEq, Repr

/-- A frame put on a wire by this switch, newest last in the list that keeps it: what its surroundings receive; more is what a combined
request carries besides (R186). addrs holds the two MAC addresses, tag the 802.1Q tag of a PFC-mode port (R139), etype the EtherType (R120),
pad the bytes of zero padding (R119), and pn the MACsec packet number (R144); sentBytes lays all of it out (R118). -/
structure Sent where
  port : Nat
  sub : Nat
  trailer : Trailer
  frame : Frame
  more : List Frame := []
  corrupt : Bool := false
  addrs : Bytes := []
  tag : Option Nat := none
  etype : BitVec 16 := 0
  pad : Nat := 0
  pn : Option Nat := none
deriving DecidableEq, Repr

/-- The fabric transport of the switch (chapter 04). sprayIn holds sprayed frames on their way to their resequencer, with the die where
each came in; livePaths the paths in use toward a switch, each as 256 × path index + port; kaSent the key-agreement frames sent (port, sub-link, payload), pfcSent the PFC frames sent (port, sub-link, priority,
quanta), newest last. -/
structure LftState where
  ports : Dict PortState := []
  spray : Dict SprayTx := []
  reseq : Dict Reseq := []
  barrierTx : Dict BarrierTx := []
  barrierRx : Dict BarrierRx := []
  nextBarrier : Nat := 0
  livePaths : Dict (List Nat) := []
  sprayIn : List (Nat × Desc) := []
  sent : List Sent := []
  kaSent : List (Nat × Nat × Bytes) := []
  pfcSent : List (Nat × Nat × Nat × Nat) := []
deriving DecidableEq, Repr

/-! Chapter 05: the switch core -/

/-- One output FIFO (R153). -/
structure Fifo where
  out : Output
  tc : Nat
  queue : List Desc
deriving DecidableEq, Repr

/-- A message in the stalk: its number in its direction, its class, what it carries, and the CRC of its envelope (R29). -/
structure StalkMsg where
  seq : Nat
  tc : Nat
  desc : Desc
  crc : BitVec 32 := 0
deriving DecidableEq, Repr

/-- A sample in the sample pool (R162). -/
structure Sample where
  port : Nat
  dir : Nat
  sub : Nat
  frameLen : Nat
  seq : Nat
  bytes : Bytes
deriving DecidableEq, Repr

/-- The switch core of one die (chapter 05). stalkIn is the stalk's traffic toward this die; stalkReplay the messages this die has sent that
the other has not received; stalkNext the number this die expects next and stalkSeen the numbers beyond it that it has received (R29).
agentHold holds what the die's agents hold while their transmit pool is exhausted, oldest first (R151); agentSeq the next SEQ of the die's
agents by context (R125); discarded the frames discarded for a cell error that came in on no port (R159). -/
structure SwcState where
  fifos : List Fifo := []
  deficits : Dict Nat := []
  offFree : List Nat := []
  born : Dict Nat := []
  suspect : Dict Nat := []
  quarantined : List Nat := []
  auditEpoch : Nat := 0
  slackUsed : Nat := 0
  withhold : Bool := false
  status : Sticky := {}
  passes : Nat := 0
  reclaimed : Nat := 0
  arbWeight : List Nat := [2, 4, 4, 4, 2]
  log2n : Nat := 0x10
  trunc : Nat := 0
  payload : Bool := false
  egress : Bool := false
  ingress : Bool := false
  enable : Bool := false
  samplePorts : BitVec 33 := 0
  sampleDest : BitVec 20 := 0
  sampleDrop : Nat := 0
  samplePool : List Sample := []
  sampleSeq : Nat := 0
  lfsr : Dict Nat := []
  stops : List (BitVec 64) := []
  stalkIn : List StalkMsg := []
  stalkSeq : Nat := 0
  stalkReplay : List StalkMsg := []
  stalkNext : Nat := 0
  stalkSeen : List Nat := []
  stopMsgs : List (Bool × BitVec 64) := []
  agentInbox : List Frame := []
  agentHold : List Desc := []
  agentSeq : Dict Nat := []
  discarded : Nat := 0
deriving DecidableEq, Repr

/-! Chapter 06: the home units -/

/-- What a waiting request waits for. -/
inductive WaitFor where
  | line (l : Nat)
  | dirSet (set : Nat)
  | object (id : Nat)
  | tray
  | staging
  | flash (vol unit : Nat)
  | flushed (vol unit : Nat)
  | mapPage (vol page : Nat)
  | media
  | row (stack row : Nat)
  | layer (ses layer : Nat)
  | awake (ses : Nat)
  | ring (ses layer : Nat)
  | data
  | behind (granule : Nat)
deriving DecidableEq, Repr

/-- A request that holds trackers at its home, one for each constituent (R187, R190): why it waits, its order of acceptance, its number in the
order of ageing (0 while it is not aged) and the constituents whose tracker is a reserved one. done is set when its effect has come about and
only its answer waits. -/
structure Waiting where
  frame : Frame
  more : List Frame := []
  wait : WaitFor
  order : Nat
  aged : Nat := 0
  reserved : List ReqKey := []
  done : Bool := false
deriving DecidableEq, Repr

/-- An entry of a replay window (R180). -/
structure WinEntry where
  seq : BitVec 24
  opcode : Byte
  addr : BitVec 64
  old : Bytes
  status : BitVec 5
deriving DecidableEq, Repr

/-- A replay window (R180): the acknowledgement point and the entries, keyed by switch ID, SRC_EP and CTX. -/
structure Window where
  ack : BitVec 24
  entries : List WinEntry
deriving DecidableEq, Repr

/-- The home unit of one die (chapter 06). inbox holds the requests that wait for acceptance, each with its ingress's allocation (R190, R191);
agedIn numbers those of them that are aged, in the order they became so, and ageNo is the last number given (R192). ackDropped counts the
AMO_ACKs discarded (R182); resumed lists the windows whose source has sent RESUME since this home became doubtful (R184). -/
structure HomeState where
  inbox : List Desc := []
  waiting : List Waiting := []
  order : Nat := 0
  starved : List (Nat × Nat × Nat) := []
  windows : Dict Window := []
  doubtful : List Nat := []
  hot : Dict Nat := []
  combineEn : Bool := true
  ageUs : Nat := 0x14
  status : Sticky := {}
  combined : Nat := 0
  agedIn : List (ReqKey × Nat) := []
  ageNo : Nat := 0
  ackDropped : Nat := 0
  resumed : List Nat := []
deriving DecidableEq, Repr

/-! Chapter 07: the directory -/

/-- The home states of a line that has a directory entry (R204). -/
inductive LineSt where
  | s
  | sb
  | m
  | sI
  | mF
  | rc
  | ab
deriving DecidableEq, Repr

/-- What a line's transaction is for: granting M (R213), a forward (R213), a recall (R216) with its cause, or the recall of
an abandoned forward (R215). -/
inductive TxnKind where
  | inv (grant : Bool)
  | fwdS
  | fwdM
  | recall (reason : Nat) (keepS : Bool)
  | abandon
deriving DecidableEq, Repr

/-- A line's transaction (R204, R207, R214). req is the request that started it, none when the home did; it holds its tracker, which reserved
says the kind of, until it is answered (R190). -/
structure Txn where
  num : Nat
  kind : TxnKind
  req : Option Frame
  awaited : List Nat
  owner : Option Nat := none
  gotLine : Bool := false
  saved : Bool := false
  kept : Bool := false
  reqFenced : Bool := false
  reserved : Bool := false
deriving DecidableEq, Repr

/-- A directory entry (R204, R210): pointers are member indices; fenced lists members fenced since the line entered SB
(R212). -/
structure DirEntry where
  st : LineSt
  domain : Nat
  ptrs : List Nat := []
  fenced : List Nat := []
  lastAccept : Nat := 0
  txn : Option Txn := none
deriving DecidableEq, Repr

/-- The coherence unit of one die (chapter 07); fenceTags names the recalls whose acknowledgements are ignored (R222). -/
structure CohState where
  dir : Dict DirEntry := []
  outstanding : Dict Nat := []
  msgWait : List Frame := []
  txnNo : Nat := 0
  fenceTags : List (Nat × Nat) := []
  ackTimeoutMs : Nat := 0x0A
  status : Sticky := {}
  recalls : Nat := 0
  sel : Word := 0
  rec0 : Word := 0
  rec1 : Word := 0
deriving DecidableEq, Repr

/-! Chapters 02 and 08: extents, objects, tiers -/

/-- The states of an extent (R67). -/
inductive ExtPhase where
  | free
  | active
  | revoking
  | revoked
deriving DecidableEq, Repr

/-- An extent's state on each die (R452), its revocation job, whether its home was lost (R456), and of a T1_ONLY class C extent its interleave group,
16 where it has none (R231). -/
structure ExtState where
  phase : Two ExtPhase := ⟨.free, .free⟩
  job : Option Nat := none
  homeLost : Bool := false
  group : Nat := 16
deriving DecidableEq, Repr

/-- The states of an object (R75), and INBOUND (R461). -/
inductive ObjSt where
  | resident
  | moving
  | freeing
  | inbound
deriving DecidableEq, Repr

/-- An object descriptor (R75) with the order of its last access (R242) and whether its home is lost (R456). An object created in T1 is blank: its
tray holds only the granules of written, named by their numbers in the object, and every other one reads as zero (R238). -/
structure Obj where
  owner : Nat
  tier : Nat
  st : ObjSt
  kind : Nat
  pins : Nat
  addr : Nat
  size : Nat
  ext : Nat
  epoch : Nat
  refcount : Nat
  loc : Nat
  gen : Nat
  comp : Option Nat
  ses : Nat
  layer : Nat
  hg : Nat
  lastAccess : Nat := 0
  homeLost : Bool := false
  oldHandle : Nat := 0
  blank : Bool := false
  written : List Nat := []
deriving DecidableEq, Repr

/-- Where a byte lies: T0, a T1_ONLY class C extent, a granule of an object in T1, a unit of an object in T2. -/
inductive Place where
  | t0
  | cc (ext : Nat)
  | t1 (group granule : Nat)
  | t2 (vol unit : Nat)
deriving DecidableEq, Repr

/-- What a work item works on: a chunk of a reduce instance, an item of a gather, filter or attention descriptor, or a
stage-program run within a filter item (R335). -/
inductive ItemKind where
  | chunk (group node inst chunk : Nat)
  | gather (op k : Nat)
  | filter (op k : Nat)
  | attend (op k : Nat)
deriving DecidableEq, Repr

/-- A step of the copying that the device does (R240, R248, R249): bring a granule here from its place, copy bytes here, or put a granule out to
its place. Addresses are those by which this switch holds the bytes. -/
inductive CopyStep where
  | fetch (addr : Nat) (at_ : Place)
  | copy (src dst n : Nat)
  | put (addr : Nat) (at_ : Place)
deriving DecidableEq, Repr

/-- What the copying is for: a move of an object (R240), a clone answered at its end (R238), a layer pack of a session going to sleep (R248), a
layer of one that wakes (R249); the source of an ownership transfer and its destination (R461); and what a work item or an operation reads, and what a session's operation has written (R268, R344). -/
inductive CopyFor where
  | move (obj : Nat)
  | clone (f : Frame) (obj : Nat)
  | sleep (ses : Nat)
  | wake (ses : Nat)
  | item (kind : ItemKind)
  | read (op : Nat)
  | write (op : Nat)
  | xfer (job : Nat)
  | out (obj : Nat)
deriving DecidableEq, Repr

/-- Copying under way: the steps still to do, whether what the first waits for has been asked for and whether it has come, and the status the copying
has failed with. -/
structure CopyJob where
  id : Nat
  why : CopyFor
  steps : List CopyStep
  asked : Bool := false
  got : Bool := false
  failed : Option (BitVec 5) := none
deriving DecidableEq, Repr

/-- Who started a move (R239): software's OBJ_MOVE frame, or the device; for the layer packs of a session that goes to sleep or wakes the move
stands for all of them, and its object number is 2^24 plus the session's, which no object has. -/
inductive MoveBy where
  | frame (f : Frame)
  | spill
  | refill
  | prefetch
  | sleep (ses : Nat)
  | wake (ses : Nat)
deriving DecidableEq, Repr

/-- A move, queued or under way (R240): started when it holds a slot, switching once the switchover has begun; requests that the home
took as number since or later wait; passes counts the recopy passes. -/
structure Move where
  obj : Nat
  dest : Nat
  loc : Nat := 0
  started : Bool := false
  switching : Bool := false
  dirty : List Nat := []
  who : MoveBy
  ctx : Nat
  since : Nat := 0
  passes : Nat := 0
deriving DecidableEq, Repr

/-- Why the device sent a frame to a tray (R232, R256): a home request's access, a step of copying, a fill or write-back of the class C cache, a
flash read, a flash program chunk, an erase, a temperature reading, an IDENTIFY, a map page read from the DRAM trays or put there. -/
inductive TrayFor where
  | home (f : Frame)
  | copy (d : Die) (job : Nat)
  | fill (line : Nat)
  | writeback (line : Nat)
  | flashRead (vol unit level attempt : Nat)
  | program (id chunk : Nat)
  | erase (port blk : Nat)
  | sense (port : Nat)
  | identify (vol idx : Nat)
  | mapLoad (vol page : Nat)
  | mapStore
deriving DecidableEq, Repr

/-- A tray request under way (R232). -/
structure TrayReq where
  tag : Nat
  port : Nat
  frame : Frame
  why : TrayFor
deriving DecidableEq, Repr

/-- A line of the class C cache (R234). -/
structure CcLine where
  dirty : Bool
  last : Nat
deriving DecidableEq, Repr

/-- The tier unit of one die (R253, R234, R239). -/
structure TierState where
  refillEn : Bool := true
  spillEn : Bool := true
  prefetchDepth : Nat := 2
  highWm : Nat := 0x400
  lowWm : Nat := 0x200
  status : Sticky := {}
  spilled : Nat := 0
  prefetched : Nat := 0
  cc : Dict CcLine := []
  flush : List Nat := []
  moves : List Move := []
  skip : List Nat := []
  trayReqs : List TrayReq := []
  nextTag : Nat := 0
  copies : List CopyJob := []
  nextCopy : Nat := 0
  spillMore : Bool := false
deriving DecidableEq, Repr

/-- The states of a session (R247). -/
inductive SesSt where
  | asleep
  | waking
  | awake
  | sleeping
deriving DecidableEq, Repr

/-- An entry of a session's page lists (R340). -/
structure PageEnt where
  layer : Nat
  group : Nat
  first : Nat
  obj : Nat
deriving DecidableEq, Repr

/-- A session (R338 to R341, R247 to R250): its geometry, lengths by layer (absent means 0), pages (object 2^24, which is no ID, while
it is asleep), packs by layer, those that a sleep under way has made, the lengths and pages its packs hold, and the request its change of state
answers. -/
structure Session where
  st : SesSt
  owner : Nat
  ext : Nat
  layers : Nat
  groups : Nat
  qheads : Nat
  log2 : Nat
  fmt : Nat
  dim : Nat
  window : Nat
  service : Nat
  ringExtra : Nat
  lens : Dict Nat := []
  pages : List PageEnt := []
  packs : Dict Nat := []
  newPacks : Dict Nat := []
  image : Bool := false
  imgLens : Dict Nat := []
  imgPages : List PageEnt := []
  resident : Nat := 0
  wakeExt : Nat := 0
  chargeT0 : Nat := 0
  chargeT1 : Nat := 0
  packExt : Nat := 0
  packTier : Nat := 0
  req : Option Frame := none
  closing : Option Frame := none
deriving DecidableEq, Repr

/-! Chapter 09: flash -/

/-- The states of a volume (R279). -/
inductive VolSt where
  | absent
  | offline
  | online
  | rebuild
  | formatting
deriving DecidableEq, Repr

/-- A volume (R257 to R265). map holds the page map or, for an OUVI volume, the log blocks' units, with values as R263 lays them out; mapArea says where
a map page lies on the volume's trays (block key, page, chunk); toLoad are the map pages still to load after power-up, changedPages those changed
since the last checkpoint. serials are the trays' by index, joined every serial ever journaled. asking and ident are the IDENTIFY reads under way
and their answers, formats the next block to erase of each tray being formatted. Of an OUVI volume, groups gives a group's dense block, holes the
unmapped units in them, logs the log blocks, oldest first. -/
structure Volume where
  st : VolSt := .absent
  reason : Nat := 0
  map : Dict (BitVec 64) := []
  mapArea : Dict (Nat × Nat × Nat) := []
  toLoad : List Nat := []
  changedPages : List Nat := []
  serials : Dict Nat := []
  joined : List Nat := []
  endurance : Dict Nat := []
  asking : Bool := false
  ident : Dict Bytes := []
  formats : Dict Nat := []
  rr : Nat := 0
  writes : Nat := 0
  programs : Nat := 0
  groups : Dict Nat := []
  holes : List Nat := []
  logs : List Nat := []
deriving DecidableEq, Repr

/-- A staging slot (R260): a logical unit, whether its bytes are being programmed, and whether it came back from the flush region and must be
programmed before a read of the unit completes (R277). -/
structure StageSlot where
  vol : Nat
  unit : Nat
  prog : Option Nat := none
  again : Bool := false
  durable : Bool := false
  flushed : Bool := false
deriving DecidableEq, Repr

/-- The states of a flash block (R266). -/
inductive BlkSt where
  | free
  | openBlk
  | closed
  | erasePending
  | retired
deriving DecidableEq, Repr

/-- A block record (R266), keyed by the tray's port and the block address; area marks a block of the map area (R263). -/
structure Blk where
  st : BlkSt := .free
  slc : Bool := false
  eraseCount : Nat := 0
  progHours : Nat := 0
  progTemp : Int := 0
  reads : Nat := 0
  lastLevel : Nat := 0
  readSince : Bool := false
  nextPage : Nat := 0
  closedAt : Nat := 0
  area : Bool := false
deriving DecidableEq, Repr

/-- A page program under way (R261, R270, R275): where, which units or which map pages in chunk order, and the relocation it serves, if any. -/
structure Prog where
  id : Nat
  vol : Nat
  port : Nat
  blk : Nat
  page : Nat
  units : List Nat
  reloc : Option RelocKind := none
  maps : List Nat := []
  acked : Nat := 0
deriving DecidableEq, Repr

/-- A relocation of a tray (R269, R270): its sources, its target block, the units still to copy, the four of the page under
way and those of them whose bytes are still being read, the noted copies (unit, source, target); of an OUVI volume the group
being rewritten and the groups after it (R265). Blocks are named by their keys. -/
structure Reloc where
  port : Nat
  vol : Nat
  kind : RelocKind
  sources : List Nat
  target : Nat
  left : List Nat := []
  cur : List Nat := []
  curWait : List Nat := []
  notes : List (Nat × BitVec 64 × BitVec 64) := []
  group : Nat := 0
  more : List Nat := []
deriving DecidableEq, Repr

/-- The body of a journal record (R274; the records of other structures carry their owner's change). -/
inductive JBody where
  | mapSet (vol unit : Nat) (e : BitVec 64)
  | mapGroup (vol : Nat) (pairs : List (Nat × BitVec 64))
  | erasePending (vol port blk : Nat)
  | blockFree (vol port blk count : Nat)
  | blockRetire (vol port blk : Nat)
  | blockOpen (vol port blk : Nat) (slc : Bool) (hours : Nat) (temp : Int)
  | trayJoin (vol idx serial : Nat)
  | hours (h : Nat)
  | ckptBegin (areaY : Bool) (start : Nat)
  | ckptEnd (areaY : Bool) (start : Nat) (digest : Bytes)
  | config (c : List Change)
  | commit (job gen : Nat)
  | object (id : Nat)
  | session (id : Nat)
  | rwl (offset : Nat)
  | preferred (b : Bool)
  | stepEpoch (comp epoch : Nat)
  | map (gen : Nat)
  | xferOut (obj : Nat)
  | xferIn (obj : Nat)
  | xferCommit (obj : Nat)
  | tapSeq (n : Nat)
  | escrow (n : Nat)
deriving DecidableEq, Repr

/-- A journal record in the ring (R274). -/
structure JRec where
  lsn : Nat
  size : Nat
  body : JBody
  crc : BitVec 32
deriving DecidableEq, Repr

/-- A checkpoint area (R275): whether it ends in a valid CKPT_END, its start LSN and digest, and the durable structures it holds: the record set, the
extents, object ownership, the block records and the write-limited counters. -/
structure Ckpt where
  valid : Bool := false
  start : Nat := 0
  digest : Bytes := []
  records : List Rec := []
  exts : Dict ExtState := []
  objs : Dict Obj := []
  sessions : Dict Session := []
  blocks : Dict Blk := []
  rwl : List Nat := []
deriving DecidableEq, Repr

/-- The flash engine and the journal of one die (chapter 09). due lists relocations by port, kind and block, collects the ports that collect until
GC_HIGH; mapCache are the map pages cached, by volume and number, oldest first, with whether they have changed since they were read; mapLeft are
those a checkpoint still has to write to the map area; closing holds
closed targets by the LSN of their group record, with volume and sources; eraseWait holds blocks in ERASE_PENDING by the LSN
of that record, with volume and key. -/
structure FtlState where
  staging : List StageSlot := []
  blocks : Dict Blk := []
  progs : List Prog := []
  nextProg : Nat := 0
  relocs : List Reloc := []
  due : List (Nat × RelocKind × Nat) := []
  collects : List Nat := []
  mapCache : List (Nat × Nat × Bool) := []
  mapLeft : List (Nat × Nat) := []
  closing : List (Nat × Nat × List Nat) := []
  eraseWait : List (Nat × Nat × Nat) := []
  closeSeq : Nat := 0
  temps : Dict (List Int) := []
  hours : Nat := 0
  nextLsn : Nat := 1
  ring : List JRec := []
  ringBytes : Nat := 0
  mediaLsn : Nat := 0
  sinceCkpt : Nat := 0
  ckptX : Ckpt := {}
  ckptY : Ckpt := {}
  ckptRun : Option (Bool × Nat) := none
  ringWait : List JBody := []
  flushRegion : List StageSlot := []
  retryMax : Nat := 0x08
  eccRefresh : Nat := 0x60
  foldLow : Nat := 0x20
  gcLow : Nat := 0x40
  gcHigh : Nat := 0x80
  wearSpread16 : Nat := 0x13
  disturbK : Nat := 0xC8
  retainW : Nat := 0x0D
  levelMap0 : Word := 0
  levelMap1 : Word := 0
  status : Sticky := {}
  replayFail : Bool := false
deriving DecidableEq, Repr

/-! Chapter 10: pod cores -/

/-- What a thread is doing (R285 to R288). -/
inductive ThreadSt where
  | idle
  | ready
  | atBar
  | stream
  | waitUnit
  | ended
  | faulted (status : BitVec 5)
deriving DecidableEq, Repr

/-- A thread's registers (R283): scalars by number, vector lanes by 64 × register + lane, tile elements by
256 × tile + 16 × row + column, tile scales by 32 × tile + (row, or 16 + column). -/
structure Thread where
  st : ThreadSt := .idle
  pc : Nat := 0
  sreg : Sparse 64 := []
  vreg : Sparse 32 := []
  tile : Sparse 32 := []
  scale : Sparse 8 := []
  flags : BitVec 5 := 0
  streamReq : Option Frame := none
  streamDst : Nat := 0
  streamReg : Nat := 0
  retryWait : Bool := false
deriving DecidableEq, Repr

/-- A work item (R284), with the stage program (code, threads, entry) of a filter item in STAGE mode (R335): the service that owns it, its context and
index, its program's code, threads and entry, as the records stood when its descriptor was accepted (R104, R314), and the draw of the free bytes of
its parameter block, which are the item's own whatever core runs it (R305). -/
structure Item where
  kind : ItemKind
  service : Nat
  ctx : Nat
  index : Nat
  code : Bytes
  threads : Nat
  entry : Nat
  low : Nat := 0
  prefer : Nat := 0
  slots : List Nat := []
  ofT2 : Bool := false
  stage : Option (Bytes × Nat × Nat) := none
deriving DecidableEq, Repr

/-- The states of a physical core (R316). -/
inductive CoreSt where
  | idle
  | running
  | scrubbing
  | selftest
  | spare
  | retired
deriving DecidableEq, Repr

/-- A pod core (R283 to R290). While a stage program runs, mainSaved holds the main program's threads and code; stageFaults
the faults of stage threads (R335). lastCtx is none when it has run no item since power-up or its last self-test (R308). A scratch
byte that is not listed reads from the free bytes of its item's draw below byte 256 (the parameter block) and of draw fill above, or zero after a
scrub (R284); store is the program store; lastShown is the context of its last item, which a context reset leaves (R316); codedIn holds the slots of coded blocks that stream reads brought in (R375). -/
structure Core where
  st : CoreSt := .idle
  slot : Option Nat := none
  item : Option Item := none
  cur : Nat := 0
  since : Nat := 0
  issued : Nat := 0
  budget : Nat := 0
  threads : Dict Thread := []
  scratch : Dict Byte := []
  store : Bytes := []
  fill : Option Nat := none
  codedIn : List Nat := []
  queue : Bytes := []
  queueOwner : Option Nat := none
  matrixHeld : Option Nat := none
  lastCtx : Option Nat := none
  lastShown : Nat := 0
  beats : Nat := 0
  vecs : Nat := 0
  info : Bool := false
  retireAfter : Bool := false
  mainSaved : Option (Dict Thread × Bytes) := none
  stageRan : Bool := false
  stageFaults : List (BitVec 5) := []
deriving DecidableEq, Repr

/-- The pod cores of one die (chapter 10), with the items each context has had in the round of weights under way (R307): a core not listed is as State.reset has it (core p serves slot p below 512, spares
from 512 on). -/
structure PodState where
  cores : Dict Core := []
  vacant : List Nat := []
  queue : List Item := []
  turns : Dict Nat := []
  selftestS : Nat := 0x3C
  budget : Nat := 0x400
  status : Sticky := {}
  sel : Word := 0
  selRec : Word := 0
  items : Nat := 0
deriving DecidableEq, Repr

/-! Chapters 11 and 12: compute operations -/

/-- The descriptor of one position of a reduce instance (R321, R322), and its compute operation. -/
structure PosDesc where
  pos : Nat
  frame : Frame
  pull : Bool
  ret : Bool
  store : Bool
  inAddr : Nat
  outAddr : Nat
  child : Bool
  op : Nat
deriving DecidableEq, Repr

/-- A chunk contribution held at a node (R324): the COL_PART it came in, none for a pulled one, its elements or its status. -/
structure Part where
  pos : Nat
  chunk : Nat
  frame : Option Frame
  lanes : List (BitVec 32)
  status : BitVec 5
deriving DecidableEq, Repr

/-- A chunk result held at a node (R325): its bytes in OUT_FMT, or its status, and the positions it has been answered to. -/
structure ChunkRes where
  chunk : Nat
  status : BitVec 5
  bytes : Bytes
  answered : List Nat
deriving DecidableEq, Repr

/-- A reduce instance open at a node (R322 to R330); body is the RANK_GROUP record it was opened under (R102). -/
structure Instance where
  body : Bytes := []
  group : Nat
  node : Nat
  inst : Nat
  stepEpoch : Nat
  count : Nat
  op : Nat
  inFmt : Nat
  outFmt : Nat
  rnd : Nat
  sat : Bool
  descs : List PosDesc
  parts : List Part := []
  results : List ChunkRes := []
  running : List Nat := []
  upSent : List Nat := []
  done : Nat := 0
  failed : Bool := false
  fails : List (BitVec 5) := []
  plan : Option Item := none
deriving DecidableEq, Repr

/-- A work item of an attention descriptor (R356): its entry, group and tile group, its page, and the blocks it needs. -/
structure AttItem where
  entry : Nat
  group : Nat
  tileGroup : Nat
  page : Nat
  first : Nat
  blocks : List Nat
deriving DecidableEq, Repr

/-- A partial of one row of one item (R358): (m, l, o, n). -/
structure Partial where
  row : Nat
  first : Nat
  m : BitVec 32
  l : BitVec 32
  o : List (BitVec 32)
  n : Nat
deriving DecidableEq, Repr

/-- The snapshot of one entry of an attention descriptor (R354). -/
structure Snap where
  ses : Nat
  len : Nat
  qpos : Nat
  qtokens : Nat
  pages : List PageEnt
deriving DecidableEq, Repr

/-- A row a filter has selected: its index, its widened key, its bytes (R334). -/
structure SelRow where
  row : Nat
  key : BitVec 32
  bytes : Bytes
deriving DecidableEq, Repr

/-- What a frame that a die's agents sent is for: a result store of a compute operation, a chunk contribution of a child node,
a child node's descriptor, a store of exported meter records (R321, R326, R328, R432). -/
inductive SvcWhat where
  | store (op : Nat)
  | part (group node inst chunk : Nat)
  | desc (group node inst : Nat)
  | export_ (job : Nat)
deriving DecidableEq, Repr

/-- A frame of a die's services that is not answered yet. -/
structure SvcSend where
  tag : Nat
  frame : Frame
  what : SvcWhat
deriving DecidableEq, Repr

/-- The kinds of compute operation (R27). -/
inductive OpKind where
  | reduce (group node inst pos : Nat)
  | gather
  | filter
  | attend
  | append
  | fork (ses : Nat)
  | close (ses : Nat)
  | wake (ses : Nat)
  | sleep (ses : Nat)
deriving DecidableEq, Repr

/-- A compute operation in flight (R27): the descriptor, its items still to end, the faults so far, what its items have
produced, its stores still unanswered, the status it has without a fault. dead lists the tile groups (entry, group, number)
with a faulted item, rows the outputs and LSE of finished rows (R360, R361); plan is what its items share (R104), fetched whether what it reads has
been asked for, ahead the AHEAD it was accepted under (R359). -/
structure Op where
  id : Nat
  kind : OpKind
  frame : Frame
  ctx : Nat
  detClass : Nat := 0
  waits : Option WaitFor := none
  left : List Nat := []
  faults : List (BitVec 5) := []
  idxs : List Nat := []
  sel : List (Nat × List SelRow) := []
  snaps : List Snap := []
  items : List AttItem := []
  partials : List (Nat × Partial) := []
  dead : List (Nat × Nat × Nat) := []
  rows : Dict (Bytes × BitVec 32) := []
  info : BitVec 5 := 0
  stores : Nat := 0
  storeFaults : List (BitVec 5) := []
  result : Bytes := []
  order : Nat := 0
  plan : Option Item := none
  fetched : Bool := false
  ahead : Nat := 0
deriving DecidableEq, Repr

/-- The collectives and attention units of one die (R27, R337, R365). -/
structure ColState where
  ops : List Op := []
  nextOp : Nat := 0
  instances : List Instance := []
  completed : Dict (List Nat) := []
  sends : List SvcSend := []
  instTimeout : Nat := 0x1388
  status : Sticky := {}
  chunks : Nat := 0
  ahead : Nat := 0x40
  attStatus : Sticky := {}
  skipped : Nat := 0
  readBlocks : Nat := 0
deriving DecidableEq, Repr

/-! Chapter 13: codebooks -/

/-- The states of a codebook slot (R374). -/
inductive CbPhase where
  | free
  | valid
  | retiring
deriving DecidableEq, Repr

/-- A codebook slot (R368, R374, R375). -/
structure Codebook where
  phase : CbPhase := .free
  tables : Nat := 0
  gen : Nat := 0
  lengths : Bytes := []
deriving DecidableEq, Repr

/-- The compression units (R377). -/
structure CmpState where
  slots : Dict Codebook := []
  status : Two Sticky := ⟨{}, {}⟩
  decodedRaw : Two Nat := ⟨0, 0⟩
  decodedCoded : Two Nat := ⟨0, 0⟩
  ctxCode : Dict (BitVec 9) := []
deriving DecidableEq, Repr

/-! Chapter 14: contexts and events -/

/-- The states of a context (R378). -/
inductive CtxPhase where
  | free
  | active
  | resetting
  | destroying
deriving DecidableEq, Repr

/-- A context at run time (R378, R402, R81, R399): its state as each die holds it, its registers, charges in 4 KiB granules by
tier, counters, the job its reset or destruction reports to, and its key, derived when it is created and erased when it is destroyed (R421). -/
structure Ctx where
  phase : Two CtxPhase := ⟨.free, .free⟩
  resets : Nat := 0
  evStatus : Sticky := {}
  sent : Nat := 0
  merged : Nat := 0
  quotaWaits : Nat := 0
  congWaits : Nat := 0
  limits : List Nat := [0, 0, 0]
  charge : List Nat := [0, 0, 0]
  overTier : List Bool := [false, false, false]
  bytesIn : Two (List Nat) := ⟨[0, 0, 0, 0, 0], [0, 0, 0, 0, 0]⟩
  work : Two Nat := ⟨0, 0⟩
  job : Option Nat := none
  lastQuote : Option Nat := none
  key : Bytes := []
deriving DecidableEq, Repr

/-- A queued event entry (R386): stream is the stream context, ctx the header's CTX, dest the endpoint (0 for the EVENT_EP of
the stream at sending time). -/
structure EvEntry where
  stream : Nat
  ctx : Nat
  code : Nat
  coalesce : Bool
  dest : Option Nat
  count : Nat
  data : Bytes
  job : Bool := false
deriving DecidableEq, Repr

/-- The events of one die (R383, R386, R387, R399). -/
structure EvState where
  queue : List EvEntry := []
  seq : Dict (BitVec 32) := []
  lastAt : Dict Nat := []
  period : Nat := 0
  buckets : Dict Nat := []
deriving DecidableEq, Repr

/-! Chapter 15: security -/

/-- The root store and the security registers (chapter 15). -/
structure SecState where
  serial : Nat := 0
  sealed : Bool := true
  devCert : Bytes := []
  macBase : Nat := 0
  ownerKey : Option Bytes := none
  fwArb : Nat := 0
  bsArb : Nat := 0
  leftMeter : Nat := 32
  leftDebug : Nat := 4
  leftXfer : Nat := 2
  tapMarks : Two Nat := ⟨0, 0⟩
  fw0 : SlotState := {}
  fw1 : SlotState := {}
  fwSlot : Nat := 0
  fwSvn : Nat := 0
  fwImage : Bytes := []
  recovery : Bool := false
  pufFail : Bool := false
  unsealed : Bool := false
  unlocked : Bool := false
  scope : BitVec 2 := 0
  transfers : Nat := 0
  windowBase : Nat := 0
  status : Sticky := {}
deriving DecidableEq, Repr

/-! Chapter 16: the meter -/

/-- A tap event (R424). -/
structure TapEv where
  kind : Nat
  sub : Nat
  ctx : Nat
  die : Nat
  seq : Nat
  value : BitVec 64
deriving DecidableEq, Repr

/-- A record of the meter's log (R430): the header but for PREV, which is the digest of the record before, and the body. -/
structure LogRec where
  pos : Nat
  type : Nat
  flags : Nat
  time : Nat
  prev : Nat
  body : Bytes
deriving DecidableEq, Repr

/-- An escrow segment (R437): its number, its events, whether it is closed and signed, the digest of the segment before it, its signature. -/
structure Segment where
  num : Nat
  events : List TapEv
  signed : Bool := false
  prev : Bytes := []
  sig : Bytes := []
deriving DecidableEq, Repr

/-- The escrow of one die (R437, R438). -/
structure Escrow where
  on : Bool := false
  segs : List Segment := []
  nextSeg : Nat := 0
  digest : Bytes := []
  agg : Dict Nat := []
  ms : Nat := 0
  stopped : Bool := false
  high : Bool := false
deriving DecidableEq, Repr

/-- An escrow's ingestion (R439): the segments and events taken, the first and last TAP_SEQ, the last TIME, the gaps. -/
structure Ingest where
  segs : Nat := 0
  events : Nat := 0
  first : Nat := 0
  last : Nat := 0
  time : Nat := 0
  gaps : Nat := 0
deriving DecidableEq, Repr

/-- An export of meter records under way (R432): its job, its range, RELEASE, where it is written, the stores still unanswered, and
the ranges whose store failed, with their statuses. -/
structure Export where
  job : Nat
  first : Nat
  count : Nat
  release : Bool
  dest : Nat
  left : Nat
  failed : List (Nat × Nat × BitVec 5) := []
deriving DecidableEq, Repr

/-- The states of MTR.STATE (R442). -/
inductive MtrSt where
  | absent
  | attached
  | ingesting
  | tampered
deriving DecidableEq, Repr

/-- What the meter has integrated for one context (R427, R429): granules, byte-seconds times 1,000 by tier, bytes by class,
work in 65,536ths, carries and amount of the period. -/
structure Quant where
  gran : List Int := [0, 0, 0]
  since : List Nat := [0, 0, 0]
  occ : List Nat := [0, 0, 0]
  bytes : List Nat := [0, 0, 0, 0, 0, 0, 0, 0]
  work : Nat := 0
  workRem : Nat := 0
  carry : List Nat := [0, 0, 0, 0, 0, 0, 0, 0, 0, 0, 0, 0]
deriving DecidableEq, Repr

/-- The meter, its link, the taps and the escrow (chapter 16). -/
structure MtrState where
  st : MtrSt := .absent
  meter : Option MeterIdent := none
  keyErased : Bool := false
  detach : Bool := false
  status : Sticky := {}
  log : List LogRec := []
  newest : Nat := 0
  nextPos : Nat := 0
  released : Nat := 0
  periodStart : Nat := 0
  pendingTariff : Bytes := []
  quants : Dict Quant := []
  tariffDigest : Bytes := []
  changes : Nat := 0
  tapSeq : Two Nat := ⟨0, 0⟩
  tapBuf : Two (List TapEv) := ⟨[], []⟩
  tapSent : Two Nat := ⟨0, 0⟩
  bytesCnt : Two (Dict Nat) := ⟨[], []⟩
  escrow : Two Escrow := ⟨{}, {}⟩
  ingested : Two Ingest := ⟨{}, {}⟩
  exports : List Export := []
deriving DecidableEq, Repr

/-! Chapter 17: failures -/

/-- A switch's entry in the federation map (R444). -/
structure SwEnt where
  st : SwitchSt
  answer : Nat
deriving DecidableEq, Repr

/-- A composition at run time (R463 to R466): journaled holds the step epoch each listed switch has journaled. -/
structure Comp where
  failed : Bool := false
  cause : Nat := 0
  epoch : Nat := 0
  journaled : Dict Nat := []
  commitJob : Option Nat := none
  rollbackJob : Option Nat := none
deriving DecidableEq, Repr

/-- A fence under way at this detector (R449): the endpoint, the epoch committed if any, and the job. -/
structure Fencing where
  ep : Nat
  epoch : Option (BitVec 16)
  job : Option Nat
deriving DecidableEq, Repr

/-- An ownership transfer under way at its source (R460, R461). -/
structure Xfer where
  job : Nat
  obj : Nat
  dstSwitch : Nat
  dstExt : Nat
  dirty : List Nat
  switching : Bool
  committed : Bool
  newHandle : Nat := 0
deriving DecidableEq, Repr

/-- A pepper rule (R467, R468). -/
structure PepRule where
  kind : Nat
  mask : Nat
  port : Nat
  ctx : Nat
  magnitude : Nat
  log2 : Nat
  lfsr : BitVec 64
  soak : Bool
deriving DecidableEq, Repr

/-- The failure detector, the compositions and the pepper unit (chapter 17). unreachable lists the destinations a path barrier has reported
(R143), failedLinks the sub-links, as 8 × port + sub-link, that were reported as having left service (R138). -/
structure FltState where
  switches : Dict SwEnt := []
  fence : Dict (BitVec 16) := []
  gen : Nat := 0
  reached : Nat := 0
  selfFenced : Bool := false
  ackDeadMs : Nat := 0x14
  graceMs : Nat := 0x32
  status : Sticky := {}
  fenceSel : Word := 0
  fenceRec : Word := 0
  switchSel : Word := 0
  switchRec : Word := 0
  compSel : Word := 0
  compRec : Word := 0
  xferSrc : Word := 0
  xferDst : Word := 0
  xferJob : Nat := 0
  fencing : List Fencing := []
  ackReports : List Nat := []
  comps : Dict Comp := []
  promoted : List Nat := []
  xfers : List Xfer := []
  lostTrays : List Nat := []
  heartbeats : List Nat := []
  unreachable : List Nat := []
  failedLinks : List Nat := []
  pepper : Dict PepRule := []
  pepHits : Nat := 0
deriving DecidableEq, Repr

/-! Chapter 18: the module -/

/-- The power states (R476). -/
inductive PowerSt where
  | off
  | standby
  | starting
  | run
  | holdup
deriving DecidableEq, Repr

/-- One die's pace and temperature (R491), reference-loss state (R49) and interval timer in nanoseconds (R48). -/
structure DieMod where
  pace : Nat := 0
  minPace : Nat := 0
  paceLow : Bool := false
  thermalHold : Bool := false
  tjMax : Int := 0
  tj : Int := 0
  refLost : Bool := false
  timer : Nat := 0
  spareLanes : Nat := 4
deriving DecidableEq, Repr

/-- The module's power, repair and service state (chapter 18). -/
structure ModState where
  power : PowerSt := .off
  en : Bool := false
  inputOk : Bool := true
  holdupReady : Bool := false
  lastDown : Nat := 0
  inputMv : Nat := 0
  inputW : Nat := 0
  holdup : Nat := 0
  holdupLow : Bool := false
  macBase : Nat := 0
  autoRow : Bool := true
  autoPc : Bool := true
  autoLane : Bool := true
  led : BitVec 2 := 0
  status : Sticky := {}
  dies : Two DieMod := ⟨{}, {}⟩
  coolIn : Int := 0
  coolOut : Int := 0
  lanes : List (Nat × Nat) := []
  pcLeft : List Nat := [2, 2, 2, 2]
  pcCopy : List (Nat × Nat) := []
  rows : List Nat := [0, 0, 0, 0]
  rowBusy : List (Nat × Nat) := []
  rowsOut : List Nat := []
  admitting : Two Bool := ⟨false, false⟩
  stalkFailed : Bool := false
  planned : Bool := false
deriving DecidableEq, Repr

/-! The whole -/

/-- The state of the module, with the queue of the commands that wait. mem holds the bytes of pooled memory by 64-bit fabric
address, in every tier; poison the numbers of the poisoned 64-byte granules (R193). freeCtr counts the free values drawn:
it is the model's own. -/
structure State where
  pending : List Instr := []
  cfg : CfgState := {}
  lft : LftState := {}
  swc : Two SwcState := ⟨{}, {}⟩
  home : Two HomeState := ⟨{}, {}⟩
  coh : Two CohState := ⟨{}, {}⟩
  tier : Two TierState := ⟨{}, {}⟩
  exts : Dict ExtState := []
  objs : Dict Obj := []
  gens : Dict Nat := []
  sessions : Dict Session := []
  vols : Dict Volume := []
  ftl : Two FtlState := ⟨{}, {}⟩
  pod : Two PodState := ⟨{}, {}⟩
  col : Two ColState := ⟨{}, {}⟩
  cmp : CmpState := {}
  ctxs : Dict Ctx := [(0, { phase := ⟨.active, .active⟩ })]
  ev : Two EvState := ⟨{}, {}⟩
  sec : SecState := {}
  mtr : MtrState := {}
  flt : FltState := {}
  mod : ModState := {}
  extSel : Word := 0
  extRec : List Word := [0, 0, 0]
  objSel : Word := 0
  objRec : List Word := [0, 0, 0, 0, 0, 0, 0, 0]
  sesSel : Word := 0
  sesRec : List Word := [0, 0, 0]
  mem : List Host.Cell := []
  poison : List Nat := []
  freeCtr : Nat := 0
deriving DecidableEq, Repr

/-- The module before its first power-up (MOD.POWER.STATE resets to OFF): every register at the Reset column of its field
map, nothing configured, memory with nothing listed, no command waiting. -/
def State.reset : State := {}

/-- Why a step faults. No command of this block faults: an access the manual forbids is answered with a status. The one
reason stands for a step that could never be taken and nothing raises it; safe. -/
inductive Fault where
  | unreached
deriving DecidableEq, Repr

/-- Why a step is refused: notModelled is raised by an arm of exec whose command has no meaning yet; safe. -/
inductive Refusal where
  | notModelled (mnemonic : String)
deriving DecidableEq, Repr

end Machine
end Sys2Proof
end

