-- ==== Sys2Proof/Machine/Bits.lean ====
section
/-! DEFINITION. Bit fields, byte strings, the finite tables, the dies, checksums: the plain operations everything is written with. -/

namespace Sys2Proof
namespace Machine

/-! Dies -/

/-- The copy of a thing on a die. -/
def side {α : Type} (t : Two α) (d : Die) : α :=
  match d with
  | .d0 => t.d0
  | .d1 => t.d1

/-- The pair with one die's copy changed. -/
def upd {α : Type} (t : Two α) (d : Die) (g : α → α) : Two α :=
  match d with
  | .d0 => { t with d0 := g t.d0 }
  | .d1 => { t with d1 := g t.d1 }

/-- The number of a die. -/
def dieNum (d : Die) : Nat :=
  match d with
  | .d0 => 0
  | .d1 => 1

/-- The die of a number: 0 is die 0. -/
def dieOf (n : Nat) : Die := if n = 0 then .d0 else .d1

/-- The other die. -/
def otherDie (d : Die) : Die :=
  match d with
  | .d0 => .d1
  | .d1 => .d0

/-! Bit fields -/

/-- Bits hi to lo of a number. -/
def fld (v hi lo : Nat) : Nat := v / 2 ^ lo % 2 ^ (hi + 1 - lo)

/-- Bit i of a number. -/
def bitAt (v i : Nat) : Bool := v / 2 ^ i % 2 == 1

/-- A truth as a bit. -/
def b2n (b : Bool) : Nat := if b then 1 else 0

/-- The least multiple of a unit that holds n units' worth: division rounding up. -/
def ceilDiv (n m : Nat) : Nat := (n + (m - 1)) / m

/-- A number that counts up to a top and stays there. -/
def satAdd (v n top : Nat) : Nat := if v + n < top then v + n else top

/-- Serial-number comparison in w bits (R19): is a newer than b? -/
def newer (w a b : Nat) : Bool :=
  let d := (a + 2 ^ w - b % 2 ^ w) % 2 ^ w
  decide (0 < d) && decide (d < 2 ^ (w - 1))

/-! Lists -/

/-- The list with the element at an index replaced. -/
def setAt {α : Type} (l : List α) (i : Nat) (v : α) : List α :=
  match l, i with
  | [], _ => []
  | _ :: t, 0 => v :: t
  | h :: t, n + 1 => h :: setAt t n v

/-- The list with the element at an index changed. -/
def modAt {α : Type} (l : List α) (i : Nat) (g : α → α) : List α :=
  match l, i with
  | [], _ => []
  | h :: t, 0 => g h :: t
  | h :: t, n + 1 => h :: modAt t n g

/-- The list without the element at an index. -/
def dropAt {α : Type} (l : List α) (i : Nat) : List α :=
  match l, i with
  | [], _ => []
  | _ :: t, 0 => t
  | h :: t, n + 1 => h :: dropAt t n

/-- The list without the first element that a test accepts. -/
def dropFirst {α : Type} (p : α → Bool) (l : List α) : List α :=
  match l with
  | [] => []
  | h :: t => if p h then t else h :: dropFirst p t

/-- The list with the first element that a test accepts changed. -/
def modFirst {α : Type} (p : α → Bool) (g : α → α) (l : List α) : List α :=
  match l with
  | [] => []
  | h :: t => if p h then g h :: t else h :: modFirst p g t

/-- Insert before the first element that does not come before it. -/
def insertBy {α : Type} (lt : α → α → Bool) (x : α) (l : List α) : List α :=
  match l with
  | [] => [x]
  | h :: t => if lt x h then x :: h :: t else h :: insertBy lt x t

/-- The list in the order of lt, stable. -/
def sortBy {α : Type} (lt : α → α → Bool) (l : List α) : List α :=
  l.foldl (fun acc x => insertBy lt x acc) []

/-- The numbers in rising order, each once. -/
def insertNat (n : Nat) (l : List Nat) : List Nat :=
  match l with
  | [] => [n]
  | h :: t => if n < h then n :: h :: t else if n = h then l else h :: insertNat n t

/-- The least of the numbers from lo on, of count candidates, that a test accepts. -/
def leastFrom (p : Nat → Bool) (lo count : Nat) : Option Nat :=
  match count with
  | 0 => none
  | c + 1 => if p lo then some lo else leastFrom p (lo + 1) c

/-- The numbers lo, lo + 1, ... of a count. -/
def rangeFrom (lo count : Nat) : List Nat :=
  match count with
  | 0 => []
  | c + 1 => lo :: rangeFrom (lo + 1) c

/-- The sum of a list. -/
def sumOf (l : List Nat) : Nat := l.foldl (· + ·) 0

/-- The element at an index, or a default. -/
def nth {α : Type} (l : List α) (i : Nat) (dflt : α) : α := (l[i]?).getD dflt

/-! Tables -/

/-- The entry of a table. -/
def get? {α : Type} (t : Dict α) (k : Nat) : Option α :=
  match t with
  | [] => none
  | (j, v) :: r => if j = k then some v else get? r k

/-- The entry of a table, or a default. -/
def getD {α : Type} (t : Dict α) (k : Nat) (dflt : α) : α := (get? t k).getD dflt

/-- The table with an entry put in its place. -/
def put {α : Type} (t : Dict α) (k : Nat) (v : α) : Dict α :=
  match t with
  | [] => [(k, v)]
  | (j, w) :: r => if k < j then (k, v) :: (j, w) :: r else if j = k then (k, v) :: r else (j, w) :: put r k v

/-- The table without an entry. -/
def del {α : Type} (t : Dict α) (k : Nat) : Dict α :=
  match t with
  | [] => []
  | (j, w) :: r => if j = k then del r k else (j, w) :: del r k

/-- The table with an entry changed, if it is there. -/
def modK {α : Type} (t : Dict α) (k : Nat) (g : α → α) : Dict α :=
  match t with
  | [] => []
  | (j, w) :: r => if j = k then (j, g w) :: r else (j, w) :: modK r k g

/-- The table with an entry made from what was there or a default. -/
def changeD {α : Type} (t : Dict α) (k : Nat) (dflt : α) (g : α → α) : Dict α :=
  put t k (g (getD t k dflt))

/-- The word of a sparse table. -/
def sget {w : Nat} (t : Sparse w) (k : Nat) : BitVec w := getD t k 0

/-- The sparse table with a word written; a zero leaves no entry. -/
def sput {w : Nat} (t : Sparse w) (k : Nat) (v : BitVec w) : Sparse w :=
  if v = 0 then del t k else put t k v

/-- Consecutive words of a sparse table. -/
def sgets {w : Nat} (t : Sparse w) (k n : Nat) : List (BitVec w) := (rangeFrom k n).map (sget t)

/-- The sparse table with consecutive words written. -/
def sputs {w : Nat} (t : Sparse w) (k : Nat) (l : List (BitVec w)) : Sparse w :=
  match l with
  | [] => t
  | v :: r => sputs (sput t k v) (k + 1) r

/-! Byte strings -/

/-- Bytes as a number, first byte least significant. -/
def leNat (b : Bytes) : Nat :=
  match b with
  | [] => 0
  | h :: t => h.toNat + 256 * leNat t

/-- Bytes as a number, first byte most significant. -/
def beNat (b : Bytes) : Nat := b.foldl (fun a x => a * 256 + x.toNat) 0

/-- A number as n bytes, least significant first. -/
def toLE (n v : Nat) : Bytes :=
  match n with
  | 0 => []
  | m + 1 => BitVec.ofNat 8 v :: toLE m (v / 256)

/-- A number as n bytes, most significant first. -/
def toBE (n v : Nat) : Bytes := (toLE n v).reverse

/-- n zero bytes. -/
def zeros (n : Nat) : Bytes := List.replicate n 0

/-- n bytes from an offset. -/
def slice (b : Bytes) (off n : Nat) : Bytes := (b.drop off).take n

/-- An unsigned little-endian field of n bytes at an offset. -/
def le (b : Bytes) (off n : Nat) : Nat := leNat (slice b off n)

/-- Are n bytes from an offset zero? -/
def zeroAt (b : Bytes) (off n : Nat) : Bool := (slice b off n).all (· == 0)

/-- The bytes with some bytes written over at an offset inside. -/
def patch (b : Bytes) (off : Nat) (w : Bytes) : Bytes :=
  (b.take off ++ w ++ b.drop (off + w.length)).take b.length

/-- A byte string cut or padded with zeros to a length. -/
def fit (b : Bytes) (n : Nat) : Bytes := (b ++ zeros (n - b.length)).take n

/-- Cut into pieces of n bytes, at most k of them. -/
def chunksOf {α : Type} (k n : Nat) (b : List α) : List (List α) :=
  match k with
  | 0 => []
  | m + 1 => if b.isEmpty then [] else b.take n :: chunksOf m n (b.drop n)

/-! CRC-32C (R121) and the FCS of Ethernet (R118): reflected, initial value and final XOR all ones -/

/-- One bit of the reflected remainder by a polynomial. -/
def crcBit (poly c : BitVec 32) : BitVec 32 :=
  if c.getLsbD 0 then (c >>> 1) ^^^ poly else c >>> 1

/-- One byte of the remainder. -/
def crcByte (poly c : BitVec 32) (b : Byte) : BitVec 32 :=
  let x := c ^^^ b.setWidth 32
  crcBit poly (crcBit poly (crcBit poly (crcBit poly (crcBit poly (crcBit poly (crcBit poly (crcBit poly x)))))))

/-- The CRC-32C of a byte string. -/
def crc32c (b : Bytes) : BitVec 32 := (b.foldl (crcByte 0x82F63B78#32) 0xFFFFFFFF#32) ^^^ 0xFFFFFFFF#32

/-- The CRC-32 of a byte string: the FCS of IEEE 802.3, whose polynomial is the standard's (PRESUMED, log 182). -/
def crc32 (b : Bytes) : BitVec 32 := (b.foldl (crcByte 0xEDB88320#32) 0xFFFFFFFF#32) ^^^ 0xFFFFFFFF#32

/-! Sticky status registers (R12, R13) -/

/-- A hardware set of a bit: the bit stands, and the hit counter counts it up to 0xFF. -/
def Sticky.set (r : Sticky) (i : Nat) : Sticky :=
  { bits := r.bits ||| (1#16 <<< i), hit := if r.hit = 0xFF#8 then r.hit else r.hit + 1 }

/-- A W1C write: the ones among the bits of mask that the register has are cleared. -/
def Sticky.clear (r : Sticky) (v mask : Nat) : Sticky :=
  { r with bits := r.bits &&& ~~~(BitVec.ofNat 16 v &&& BitVec.ofNat 16 mask) }

end Machine
end Sys2Proof
end

