-- ==== Sys2Proof/Machine/Operands.lean ====
section
/-! DEFINITION. The forms operands take: opcodes, status codes, addresses and handles, and the fields of records read from their
bodies (the record layouts are cited at each). -/

namespace Sys2Proof
namespace Machine

/-! Opcodes (R128) -/

/-- LD. -/
abbrev Opc.ld : Byte := 0x00#8
/-- ST. -/
abbrev Opc.st : Byte := 0x01#8
/-- AMO. -/
abbrev Opc.amo : Byte := 0x02#8
/-- AMO_NR. -/
abbrev Opc.amoNr : Byte := 0x03#8
/-- CAS. -/
abbrev Opc.cas : Byte := 0x04#8
/-- MEM_SYNC. -/
abbrev Opc.memSync : Byte := 0x05#8
/-- AMO_ACK. -/
abbrev Opc.amoAck : Byte := 0x06#8
/-- CRD_S. -/
abbrev Opc.crdS : Byte := 0x20#8
/-- CRD_M. -/
abbrev Opc.crdM : Byte := 0x21#8
/-- CUPG. -/
abbrev Opc.cupg : Byte := 0x22#8
/-- CWB. -/
abbrev Opc.cwb : Byte := 0x23#8
/-- CEVICT. -/
abbrev Opc.cevict : Byte := 0x24#8
/-- CFWD_S. -/
abbrev Opc.cfwdS : Byte := 0x28#8
/-- CFWD_M. -/
abbrev Opc.cfwdM : Byte := 0x29#8
/-- CINV. -/
abbrev Opc.cinv : Byte := 0x2A#8
/-- CRECALL. -/
abbrev Opc.crecall : Byte := 0x2B#8
/-- CDATA_S. -/
abbrev Opc.cdataS : Byte := 0x30#8
/-- CDATA_M. -/
abbrev Opc.cdataM : Byte := 0x31#8
/-- CGRANT. -/
abbrev Opc.cgrant : Byte := 0x32#8
/-- CINV_ACK. -/
abbrev Opc.cinvAck : Byte := 0x33#8
/-- CFWD_ACK. -/
abbrev Opc.cfwdAck : Byte := 0x34#8
/-- CWB_ACK. -/
abbrev Opc.cwbAck : Byte := 0x35#8
/-- CRECALL_ACK. -/
abbrev Opc.crecallAck : Byte := 0x36#8
/-- OBJ_CREATE. -/
abbrev Opc.objCreate : Byte := 0x40#8
/-- OBJ_MOVE. -/
abbrev Opc.objMove : Byte := 0x41#8
/-- OBJ_PIN. -/
abbrev Opc.objPin : Byte := 0x42#8
/-- OBJ_UNPIN. -/
abbrev Opc.objUnpin : Byte := 0x43#8
/-- OBJ_FREE. -/
abbrev Opc.objFree : Byte := 0x44#8
/-- OBJ_CLONE. -/
abbrev Opc.objClone : Byte := 0x45#8
/-- COL_REDUCE. -/
abbrev Opc.colReduce : Byte := 0x60#8
/-- COL_GATHER. -/
abbrev Opc.colGather : Byte := 0x61#8
/-- COL_FILTER. -/
abbrev Opc.colFilter : Byte := 0x62#8
/-- COL_PART. -/
abbrev Opc.colPart : Byte := 0x63#8
/-- ATT_ATTEND. -/
abbrev Opc.attAttend : Byte := 0x64#8
/-- ATT_APPEND. -/
abbrev Opc.attAppend : Byte := 0x65#8
/-- SES_WAKE. -/
abbrev Opc.sesWake : Byte := 0x66#8
/-- SES_SLEEP. -/
abbrev Opc.sesSleep : Byte := 0x67#8
/-- COL_PART_RSP. -/
abbrev Opc.colPartRsp : Byte := 0x73#8
/-- CTL_REQ. -/
abbrev Opc.ctlReq : Byte := 0xE0#8
/-- CTL_RSP. -/
abbrev Opc.ctlRsp : Byte := 0xE1#8
/-- EVENT. -/
abbrev Opc.event : Byte := 0xE8#8
/-- LINK_INIT. -/
abbrev Opc.linkInit : Byte := 0xF0#8
/-- LINK_CREDIT. -/
abbrev Opc.linkCredit : Byte := 0xF1#8
/-- LINK_NAK. -/
abbrev Opc.linkNak : Byte := 0xF2#8
/-- PATH_BARRIER. -/
abbrev Opc.pathBarrier : Byte := 0xF4#8
/-- PATH_BARRIER_ACK. -/
abbrev Opc.pathBarrierAck : Byte := 0xF5#8
/-- RESEQ_ACK. -/
abbrev Opc.reseqAck : Byte := 0xF6#8

/-! Status codes (R20) -/

/-- OK. -/
abbrev Sts.ok : BitVec 5 := 0x00#5
/-- RETRY. -/
abbrev Sts.retry : BitVec 5 := 0x01#5
/-- POISON. -/
abbrev Sts.poison : BitVec 5 := 0x02#5
/-- REVOKED. -/
abbrev Sts.revoked : BitVec 5 := 0x03#5
/-- FENCED. -/
abbrev Sts.fenced : BitVec 5 := 0x04#5
/-- LENGTH. -/
abbrev Sts.length : BitVec 5 := 0x05#5
/-- NOHOME. -/
abbrev Sts.nohome : BitVec 5 := 0x06#5
/-- QUOTA. -/
abbrev Sts.quota : BitVec 5 := 0x07#5
/-- DENIED. -/
abbrev Sts.denied : BitVec 5 := 0x08#5
/-- STALE. -/
abbrev Sts.stale : BitVec 5 := 0x09#5
/-- HOMELOST. -/
abbrev Sts.homelost : BitVec 5 := 0x0A#5
/-- INDOUBT. -/
abbrev Sts.indoubt : BitVec 5 := 0x0B#5
/-- ALIGN. -/
abbrev Sts.align : BitVec 5 := 0x0C#5
/-- FORMAT. -/
abbrev Sts.format : BitVec 5 := 0x0D#5
/-- ABORTED. -/
abbrev Sts.aborted : BitVec 5 := 0x0E#5
/-- CODEC. -/
abbrev Sts.codec : BitVec 5 := 0x0F#5
/-- EMPTY. -/
abbrev Sts.empty : BitVec 5 := 0x10#5
/-- DUPLICATE. -/
abbrev Sts.duplicate : BitVec 5 := 0x11#5

/-- A received status as it is taken: a reserved code is FORMAT (R20). -/
def stsIn (v : BitVec 5) : BitVec 5 := if 0x12 ≤ v.toNat then Sts.format else v

/-! Record types (R88 and the owning chapters); the high byte is the section -/

/-- switch. -/
abbrev RT.switch : Nat := 0x0101
/-- mapKeeper. -/
abbrev RT.mapKeeper : Nat := 0x0102
/-- homemapEntry. -/
abbrev RT.homemapEntry : Nat := 0x0103
/-- port. -/
abbrev RT.port : Nat := 0x0201
/-- route. -/
abbrev RT.route : Nat := 0x0301
/-- tray. -/
abbrev RT.tray : Nat := 0x0401
/-- ftlVolume. -/
abbrev RT.ftlVolume : Nat := 0x0402
/-- dirLayout. -/
abbrev RT.dirLayout : Nat := 0x0501
/-- context. -/
abbrev RT.context : Nat := 0x0601
/-- ADMIT. -/
abbrev RT.admitRec : Nat := 0x0602
/-- qos. -/
abbrev RT.qos : Nat := 0x0603
/-- extent. -/
abbrev RT.extent : Nat := 0x0701
/-- grant. -/
abbrev RT.grant : Nat := 0x0702
/-- codebook. -/
abbrev RT.codebook : Nat := 0x0801
/-- program. -/
abbrev RT.program : Nat := 0x0901
/-- service. -/
abbrev RT.service : Nat := 0x0A01
/-- partition. -/
abbrev RT.partition : Nat := 0x0A02
/-- composition. -/
abbrev RT.composition : Nat := 0x0B01
/-- replicaSet. -/
abbrev RT.replicaSet : Nat := 0x0B02
/-- rankGroup. -/
abbrev RT.rankGroup : Nat := 0x0B03

/-! Kinds and routes of opcodes (R128) -/

/-- A request: answered by one response. -/
def isReq (o : Byte) : Bool :=
  let n := o.toNat
  decide (n ≤ 5) || (decide (0x20 ≤ n) && decide (n ≤ 0x24)) || (decide (0x40 ≤ n) && decide (n ≤ 0x45)) ||
    (decide (0x60 ≤ n) && decide (n ≤ 0x67)) || n == 0xE0

/-- A response. -/
def isRsp (o : Byte) : Bool :=
  let n := o.toNat
  (decide (0x10 ≤ n) && decide (n ≤ 0x15)) || (decide (0x30 ≤ n) && decide (n ≤ 0x36)) ||
    (decide (0x50 ≤ n) && decide (n ≤ 0x55)) || (decide (0x70 ≤ n) && decide (n ≤ 0x77)) || n == 0xE1

/-- A home-issued forward. -/
def isFwd (o : Byte) : Bool := decide (0x28 ≤ o.toNat) && decide (o.toNat ≤ 0x2B)

/-- A frame sent without a response. -/
def isPost (o : Byte) : Bool :=
  o == Opc.amoAck || o == Opc.event || o == Opc.pathBarrier || o == Opc.pathBarrierAck || o == Opc.reseqAck

/-- A frame consumed by the receiving port. -/
def isLink (o : Byte) : Bool := decide (0xF0 ≤ o.toNat) && decide (o.toNat ≤ 0xF2)

/-- Is the opcode in the table of R128? -/
def opcAssigned (o : Byte) : Bool := isReq o || isRsp o || isFwd o || isPost o || isLink o

/-- Address-routed opcodes (R123): requests, AMO_ACK and PATH_BARRIER. -/
def addrRouted (o : Byte) : Bool := isReq o || o == Opc.amoAck || o == Opc.pathBarrier

/-- The opcode of the response to a request (R128). The coherence responses depend on the outcome and are named there. -/
def rspOpc (o : Byte) : Byte :=
  if o == Opc.ctlReq then Opc.ctlRsp
  else if o.toNat < 0x10 then o + 0x10
  else if o == Opc.crdS then Opc.cdataS
  else if o == Opc.crdM then Opc.cdataM
  else if o == Opc.cupg then Opc.cgrant
  else if o == Opc.cwb || o == Opc.cevict then Opc.cwbAck
  else o + 0x10

/-- Bits of the classes an opcode may carry (R128). -/
def classMask (o : Byte) : Nat :=
  let n := o.toNat
  if n = 0 ∨ n = 1 then 0x89
  else if n ≤ 6 then 0x08
  else if 0x10 ≤ n ∧ n ≤ 0x15 then 0xA0
  else if 0x20 ≤ n ∧ n ≤ 0x24 then 0x10
  else if 0x28 ≤ n ∧ n ≤ 0x36 then 0x20
  else if 0x40 ≤ n ∧ n ≤ 0x45 then 0x01
  else if 0x50 ≤ n ∧ n ≤ 0x55 then 0x20
  else if 0x60 ≤ n ∧ n ≤ 0x63 then 0x02
  else if 0x64 ≤ n ∧ n ≤ 0x67 then 0x04
  else if 0x70 ≤ n ∧ n ≤ 0x77 then 0x20
  else if n = 0xE8 then 0x40
  else if n = 0xF4 then 0xFF
  else 0x80

/-- May the opcode carry CMP, REL, ACQ (R128)? -/
def flagsOk (f : Frame) : Bool :=
  let o := f.opcode
  let cmpOk := o == Opc.st || o == 0x10#8 || o == Opc.colPart || o == Opc.colPartRsp
  let relOk := o == Opc.st || o == Opc.amo || o == Opc.amoNr || o == Opc.cas || o == Opc.memSync
  let acqOk := o == Opc.ld || o == Opc.amo || o == Opc.cas || o == Opc.memSync
  (!f.cmp || cmpOk) && (!f.rel || relOk) && (!f.acq || acqOk) && (f.cmp || f.slot == 0)

/-! Endpoints and addresses -/

/-- The switch ID of an endpoint ID (R117). -/
def epSwitch (ep : Nat) : Nat := ep / 256 % 4096

/-- The endpoint index of an endpoint ID. -/
def epIndex (ep : Nat) : Nat := ep % 256

/-- The switch ID of a fabric address, a handle or an endpoint-routed ADDR (R53, R70, R123). -/
def addrSwitch (a : Nat) : Nat := fld a 63 52

/-- The offset of a fabric address. -/
def addrOff (a : Nat) : Nat := fld a 51 0

/-- The destination endpoint of an endpoint-routed ADDR. -/
def addrEp (a : Nat) : Nat := fld a 63 44

/-- An ADDR routed to an endpoint with a return field (R123). -/
def epAddr (ep ret : Nat) : BitVec 64 := BitVec.ofNat 64 (ep * 2 ^ 44 + ret % 2 ^ 44)

/-- The first offset of the control window (R54). -/
def winBase : Nat := 0xFFFFF00000000

/-- Does the offset lie in the control window? -/
def inWindow (off : Nat) : Bool := decide (winBase ≤ off)

/-- The cells of a frame (R133, R149). -/
def cellsOf (len : Nat) : Nat := ceilDiv (32 + len) 256

/-- The request key of a frame. -/
def keyOf (f : Frame) : ReqKey := { srcEp := f.srcEp.toNat, ctx := f.ctx.toNat, tag := f.tag.toNat }

/-- The frame without what its ingress writes for the link. -/
def Frame.addrN (f : Frame) : Nat := f.addr.toNat

/-! Records (R87) -/

/-- The record of a type and key. -/
def recOf (s : State) (type key : Nat) : Option Bytes :=
  (s.cfg.records.find? (fun r => r.type == type && r.key == key)).map (·.body)

/-- The records of a type, by key. -/
def recsOf (s : State) (type : Nat) : List Rec := s.cfg.records.filter (fun r => r.type == type)

/-- Records in the order of type and key. -/
def recLt (a b : Rec) : Bool := decide (a.type < b.type) || (a.type == b.type && decide (a.key < b.key))

/-- The record set with a record put in its place. -/
def putRec (l : List Rec) (r : Rec) : List Rec :=
  insertBy recLt r (l.filter (fun x => !(x.type == r.type && x.key == r.key)))

/-- The record set without a record. -/
def delRec (l : List Rec) (type key : Nat) : List Rec := l.filter (fun x => !(x.type == type && x.key == key))

/-- The record set after one change. -/
def applyChange (l : List Rec) (c : Change) : List Rec :=
  match c.action with
  | .add => putRec l ⟨c.type, c.key, c.body⟩
  | .replace => putRec l ⟨c.type, c.key, c.body⟩
  | .delete => delRec l c.type c.key

/-! PORT and ROUTE records (R145, R146) -/

/-- The sub-links of a mode code (R115). -/
def subsOfMode (m : Nat) : Nat := if m = 1 then 1 else if m = 2 then 2 else if m = 4 then 4 else if m = 8 then 8 else 1

/-- A port's ROLE; a port without a record is unused. -/
def portRole (s : State) (p : Nat) : Nat :=
  match recOf s RT.port p with
  | some b => le b 0 1
  | none => if p = 64 then 5 else 0

/-- A port's MODE. -/
def portMode (s : State) (p : Nat) : Nat :=
  match recOf s RT.port p with
  | some b => le b 1 1
  | none => if p = 64 then 0x12 else 0

/-- Is the port in PFC mode? -/
def portPfc (s : State) (p : Nat) : Bool :=
  match recOf s RT.port p with
  | some b => le b 2 1 == 1
  | none => false

/-- Does the port run MACsec? -/
def portMacsec (s : State) (p : Nat) : Bool :=
  match recOf s RT.port p with
  | some b => le b 3 1 == 1
  | none => false

/-- The endpoint index of a port's sub-link. -/
def subIndex (s : State) (p sub : Nat) : Nat :=
  match recOf s RT.port p with
  | some b => le b (4 + sub) 1
  | none => p

/-- A port's credit limit for a class; an unconfigured H0 grants 1,024 cells a class. -/
def portLimit (s : State) (p tc : Nat) : Nat :=
  match recOf s RT.port p with
  | some b => le b (12 + 4 * tc) 4
  | none => 1024

/-- The peer switch of an inter-switch port. -/
def portPeer (s : State) (p : Nat) : Nat :=
  match recOf s RT.port p with
  | some b => le b 48 2
  | none => 0

/-- The die of a port: P0 to P31 and H0 on die 0 (R24). -/
def portDie (p : Nat) : Die := if p < 32 ∨ p = 64 then .d0 else .d1

/-- The port and sub-link of an endpoint index of this switch. -/
def subOfIndex (s : State) (idx : Nat) : Option (Nat × Nat) :=
  if idx ≤ 0x40 then some (idx, 0)
  else
    ((recsOf s RT.port).findSome? fun r =>
      (leastFrom (fun k => le r.body (4 + k) 1 == idx) 1 7).map (fun k => (r.key, k)))

/-- The endpoint ID of a port's sub-link. -/
def subEp (s : State) (p sub : Nat) : Nat := s.cfg.switchId * 256 + subIndex s p sub

/-- The agent endpoint of a die (R117). -/
def agentEp (s : State) (d : Die) : Nat := s.cfg.switchId * 256 + 0xFE + dieNum d

/-- The endpoint of H0. -/
def h0Ep (s : State) : Nat := s.cfg.switchId * 256 + 0x40

/-- The live next-hop port of a path index to a switch (R140, R146). -/
def nextPort (s : State) (sw path : Nat) : Option Nat :=
  match recOf s RT.route sw with
  | some b => let n := le b 0 1; if n = 0 then none else some (le b (8 + path % n) 1)
  | none => none

/-- The paths of a ROUTE record. -/
def pathCount (s : State) (sw : Nat) : Nat :=
  match recOf s RT.route sw with
  | some b => le b 0 1
  | none => 0

/-! Contexts (R379, R380, R388) -/

/-- A context's endpoint for events; 0 for none. -/
def eventEp (s : State) (c : Nat) : Nat :=
  match recOf s RT.context c with
  | some b => le b 0 4 % 2 ^ 20
  | none => if c = 0 ∧ s.cfg.unconfigured then h0Ep s else 0

/-- A context's event spacing, in nanoseconds. -/
def eventGap (s : State) (c : Nat) : Nat :=
  match recOf s RT.context c with
  | some b => le b 4 2 * 1000
  | none => 0

/-- Does the context publish counters? -/
def countersOn (s : State) (c : Nat) : Bool :=
  match recOf s RT.context c with
  | some b => bitAt (le b 6 1) 0
  | none => false

/-- Is the endpoint in the context's admission set? Unconfigured, only context 0 exists and it admits only H0 (R99). -/
def admits (s : State) (c ep : Nat) : Bool :=
  if s.cfg.unconfigured then c == 0 && epIndex ep == 0x40
  else (recsOf s RT.admitRec).any (fun r => r.key / 256 == c && le r.body 0 4 % 2 ^ 20 == ep)

/-- The state of a context as a die holds it. -/
def ctxPhase (s : State) (d : Die) (c : Nat) : CtxPhase :=
  if c = 0 then .active
  else
    match get? s.ctxs c with
    | some x => side x.phase d
    | none => .free

/-- A context's WEIGHT in a class (R388). -/
def qosWeight (s : State) (c tc : Nat) : Nat :=
  match recOf s RT.qos c with
  | some b => le b tc 1
  | none => 16

/-- A context's RATE in a class, in GB/s; 0 for none. -/
def qosRate (s : State) (c tc : Nat) : Nat :=
  match recOf s RT.qos c with
  | some b => if tc < 5 then le b (8 + 2 * tc) 2 else 0
  | none => 0

/-- A context's reserved trackers. -/
def qosTrackers (s : State) (c : Nat) : Nat :=
  match recOf s RT.qos c with
  | some b => le b 20 2
  | none => 0

/-- A context's reserved agent cells of a class (R388). -/
def qosCells (s : State) (c tc : Nat) : Nat :=
  if [0, 1, 2, 5].contains tc then (recOf s RT.qos c).elim 0 (fun b => le b 22 2) else 0

/-! Extents and grants (R68, R69) -/

/-- The fields of an EXTENT record. -/
structure ExtV where
  idx : Nat
  base : Nat
  size : Nat
  owner : Nat
  classT : Bool
  durable : Bool
  policy : Nat
  die : Die
  comp : Option Nat
  replica : Nat
deriving DecidableEq, Repr

/-- An EXTENT body as fields; size in bytes. -/
def extView (idx : Nat) (b : Bytes) : ExtV :=
  let c := le b 18 2
  { idx := idx, base := le b 0 8, size := le b 8 4 * 2 ^ 21, owner := le b 12 2, classT := le b 14 1 == 1,
    durable := le b 15 1 == 1, policy := le b 16 1, die := dieOf (le b 17 1),
    comp := if bitAt c 15 then some (c % 1024) else none, replica := le b 20 2 }

/-- The extent of an index. -/
def extOf (s : State) (i : Nat) : Option ExtV := (recOf s RT.extent i).map (extView i)

/-- The extent that holds an offset, of those that are not FREE. -/
def extAt (s : State) (off : Nat) : Option ExtV :=
  (recsOf s RT.extent).findSome? fun r =>
    let e := extView r.key r.body
    if e.base ≤ off ∧ off < e.base + e.size then some e else none

/-- The state of an extent as a die holds it. -/
def extPhase (s : State) (d : Die) (i : Nat) : ExtPhase :=
  match get? s.exts i with
  | some x => side x.phase d
  | none => .free

/-- The rights a context holds on an extent (R59): all for the owner, else those of its grant entry. -/
def rightsOn (s : State) (e : ExtV) (c : Nat) : Nat :=
  if e.owner = c ∧ c ≠ 0 then 15
  else
    match (recsOf s RT.grant).find? (fun r => le r.body 0 4 % 2 ^ 20 == e.idx && le r.body 4 2 % 4096 == c) with
    | some r => le r.body 6 1 % 16
    | none => 0

/-! Objects (R70, R75) -/

/-- The object ID of a handle. -/
def handleId (h : Nat) : Nat := fld h 51 28

/-- The generation of a handle. -/
def handleGen (h : Nat) : Nat := fld h 27 0

/-- The handle of an object of this switch. -/
def handleOf (s : State) (id gen : Nat) : Nat := s.cfg.switchId * 2 ^ 52 + id * 2 ^ 28 + gen

/-- The object whose range holds a byte of an offset of this switch's pool (R71). -/
def objAt (s : State) (off : Nat) : Option (Nat × Obj) :=
  s.objs.find? (fun p => decide (addrOff p.2.addr ≤ off) && decide (off < addrOff p.2.addr + p.2.size) && p.2.st != .inbound)

/-- The 4 KiB granules of a size. -/
def granules (n : Nat) : Nat := ceilDiv n 4096

/-! Trays and volumes (R233, R257) -/

/-- A DRAM tray's interleave group. -/
def trayGroup (b : Bytes) : Nat := le b 1 1

/-- The DRAM trays of a group on a die: port and capacity. -/
def groupTrays (s : State) (d : Die) (g : Nat) : List (Nat × Nat) :=
  (recsOf s RT.tray).filterMap fun r =>
    if le r.body 0 1 = 1 ∧ trayGroup r.body = g ∧ portDie r.key = d then some (r.key, le r.body 8 8) else none

/-- The volumes of a die. -/
def volsOf (s : State) (d : Die) : List Nat :=
  (recsOf s RT.ftlVolume).filterMap fun r => if dieOf (le r.body 0 1) = d then some r.key else none

/-- The logical units of a volume (R257). -/
def volUnits (b : Bytes) : Nat :=
  le b 2 1 * (12 * 2 ^ 40) * (1000 - le b 20 2) / 1000 / 2 ^ 21 * 512

/-- The ports of a volume's trays. -/
def volTrays (b : Bytes) : List Nat := (slice b 4 (le b 2 1)).map (·.toNat)

/-- The die of a volume. -/
def volDie (s : State) (v : Nat) : Die :=
  match recOf s RT.ftlVolume v with
  | some b => dieOf (le b 0 1)
  | none => .d0

/-- Is a volume mapped in the OUVI manner (R265)? -/
def volOuvi (s : State) (v : Nat) : Bool :=
  match recOf s RT.ftlVolume v with
  | some b => le b 1 1 == 1
  | none => false

/-! Compositions, replica sets, rank groups (R463, R457, R318) -/

/-- The switches a COMPOSITION lists. -/
def compSwitches (b : Bytes) : List Nat := (rangeFrom 0 (le b 0 1)).map (fun i => le b (16 + 4 * i) 4 % 4096)

/-- The endpoints a COMPOSITION lists. -/
def compEps (b : Bytes) : List Nat :=
  (rangeFrom 0 (le b 2 2)).map (fun i => le b (16 + 4 * le b 0 1 + 4 * i) 4 % 2 ^ 20)

/-- The context of a COMPOSITION. -/
def compCtx (b : Bytes) : Nat := le b 4 2 % 4096

/-- The members of a REPLICA_SET: switch and extent index. -/
def replicaMembers (b : Bytes) : List (Nat × Nat) :=
  (rangeFrom 0 (le b 0 1)).map (fun i => (le b (16 + 8 * i) 2 % 4096, le b (20 + 8 * i) 4))

/-- The fields of a RANK_GROUP record. -/
structure GrpV where
  ranks : Nat
  fanin : Nat
  open_ : Nat
  window : Nat
  comp : Option Nat
  ctx : Nat
  nodes : Nat
deriving DecidableEq, Repr

/-- A RANK_GROUP body as fields. -/
def grpView (b : Bytes) : GrpV :=
  { ranks := le b 0 4, fanin := le b 4 1, open_ := le b 5 1, window := le b 6 1,
    comp := if bitAt (le b 7 1) 0 then some (le b 10 2 % 1024) else none, ctx := le b 8 2 % 4096, nodes := le b 12 4 }

/-- The endpoint of a rank. -/
def rankEp (b : Bytes) (r : Nat) : Nat := le b (32 + 4 * r) 4 % 2 ^ 20

/-- The NODE entry of an index of the list of R318: switch, die, service. -/
def nodeEnt (b : Bytes) (i : Nat) : Nat × Die × Nat :=
  let v := le b (32 + 4 * le b 0 4 + 4 * i) 4
  (v % 4096, dieOf (fld v 12 12), fld v 18 13)

/-- The number of nodes of each level of a tree of n members with fan-in f (R317), level 0 first. -/
def levelSizes (fuel n f : Nat) : List Nat :=
  match fuel with
  | 0 => []
  | k + 1 => let m := ceilDiv n f; if m ≤ 1 then [1] else m :: levelSizes k m f

/-- The tree levels of a group. -/
def grpLevels (g : GrpV) : List Nat := levelSizes 17 g.ranks g.fanin

/-- The NODE-list index of node (l, j). -/
def nodeIdx (lv : List Nat) (l j : Nat) : Nat := sumOf (lv.take l) + j

/-- The level and index of a NODE-list index. -/
def nodePos (lv : List Nat) (i : Nat) : Nat × Nat :=
  match lv with
  | [] => (0, i)
  | n :: r => if i < n then (0, i) else let p := nodePos r (i - n); (p.1 + 1, p.2)

/-! Services, partitions, programs (R311 to R313) -/

/-- The die of a service's partition. -/
def serviceDie (s : State) (v : Nat) : Option Die :=
  match recOf s RT.service v with
  | some b => (recOf s RT.partition (le b 1 1)).map (fun p => dieOf (le p 0 1))
  | none => none

/-- The KIND of a service; 0 where there is none. -/
def serviceKind (s : State) (v : Nat) : Nat :=
  match recOf s RT.service v with
  | some b => le b 0 1
  | none => 0

/-- The slots of a partition, ascending. -/
def partSlots (b : Bytes) : List Nat := (rangeFrom 0 512).filter (fun i => bitAt (le b (16 + i / 8) 1) (i % 8))

/-! Directory layout (R199) -/

/-- The domain an extent is bound to on its die. -/
def bindingOf (b : Bytes) (ext : Nat) : Option Nat :=
  let n := le b 0 2
  (rangeFrom 0 (le b 4 4)).findSome? fun i =>
    let o := 16 + 1032 * n + 8 * i
    if le b o 4 % 2 ^ 20 = ext then some (le b (o + 4) 1) else none

/-- The members of a domain, by member index. -/
def domainMembers (b : Bytes) (dom : Nat) : List Nat :=
  match (rangeFrom 0 (le b 0 2)).find? (fun i => le b (16 + 1032 * i) 1 == dom) with
  | some i => (rangeFrom 0 (le b (18 + 1032 * i) 2)).map (fun k => le b (24 + 1032 * i + 4 * k) 4 % 2 ^ 20)
  | none => []

/-! Control arguments (R492) -/

/-- The LOAD_ID of a bitstream command. -/
def argLoadId (r : CtlReq) : Nat := le r.args 0 2

end Machine
end Sys2Proof
end

