-- ==== Sys2Proof/Machine/Flags.lean ====
section
/-! DEFINITION. The sticky status registers and their bits, the ranking of statuses, saturating and wrapping counters. -/

namespace Sys2Proof
namespace Machine

/-- A sticky status register of the block (R13), by its block and copy. -/
inductive StReg where
  | cfg
  | prt (port : Nat)
  | swc (d : Die)
  | mem (d : Die)
  | coh (d : Die)
  | tier (d : Die)
  | ftl (d : Die)
  | pod (d : Die)
  | col (d : Die)
  | att (d : Die)
  | cmp (d : Die)
  | ctx (c : Nat)
  | sec
  | mtr
  | flt
  | mod
deriving DecidableEq, Repr

/-- The block base of the register, and its offset from the base with the stride of its copy (R113, R384). -/
def stOffset (r : StReg) : Nat × Nat :=
  match r with
  | .cfg => (0x00000000, 0x38)
  | .prt p => (0x01000000, p * 0x40000 + 0x08)
  | .swc d => (0x03000000, dieNum d * 0x800000 + 0x10)
  | .mem d => (0x04000000, 0x2000 + dieNum d * 0x100 + 0x08)
  | .coh d => (0x05000000, dieNum d * 0x100 + 0x08)
  | .tier d => (0x06000000, dieNum d * 0x100 + 0x08)
  | .ftl d => (0x07000000, dieNum d * 0x100000 + 0x18)
  | .pod d => (0x08000000, dieNum d * 0x1000000 + 0x08)
  | .col d => (0x0A000000, dieNum d * 0x100 + 0x08)
  | .att d => (0x0B000000, dieNum d * 0x100 + 0x08)
  | .cmp d => (0x0C000000, dieNum d * 0x100 + 0x08)
  | .ctx c => (0x0D000000, c * 0x1000 + 0x08)
  | .sec => (0x0E000000, 0x60)
  | .mtr => (0x0F000000, 0x18)
  | .flt => (0x10000000, 0x10)
  | .mod => (0x11000000, 0x1000 + 0x28)

/-- The bits of the register that are W1C. FTL.STATUS.REPLAY_FAIL is RO and kept elsewhere. -/
def stMask (r : StReg) : Nat :=
  match r with
  | .cfg => 0x1F
  | .prt _ => 0x1FFF
  | .swc _ => 0x3F
  | .mem _ => 0xFF
  | .coh _ => 0x7F
  | .tier _ => 0x7F
  | .ftl _ => 0x7F
  | .pod _ => 0xFF
  | .col _ => 0x7F
  | .att _ => 0x3F
  | .cmp _ => 0x07
  | .ctx _ => 0x1F
  | .sec => 0x1F
  | .mtr => 0x1F
  | .flt => 0x3F
  | .mod => 0x1FF

/-- The die that reports a set of the register: its own, the port's, and for a register of the whole switch the die of the
active service processor (DEDUCED, log 18). -/
def stDie (s : State) (r : StReg) : Die :=
  match r with
  | .prt p => portDie p
  | .swc d => d
  | .mem d => d
  | .coh d => d
  | .tier d => d
  | .ftl d => d
  | .pod d => d
  | .col d => d
  | .att d => d
  | .cmp d => d
  | .cfg => s.cfg.activeSp
  | .ctx _ => s.cfg.activeSp
  | .sec => s.cfg.activeSp
  | .mtr => s.cfg.activeSp
  | .flt => s.cfg.activeSp
  | .mod => s.cfg.activeSp

/-- The port state of a port. -/
def portOf (s : State) (p : Nat) : PortState := getD s.lft.ports p {}

/-- The run-time state of a context. -/
def ctxOf (s : State) (c : Nat) : Ctx := getD s.ctxs c {}

/-- The register's value and hit counter. -/
def stGet (s : State) (r : StReg) : Sticky :=
  match r with
  | .cfg => s.cfg.status
  | .prt p => (portOf s p).errStatus
  | .swc d => (side s.swc d).status
  | .mem d => (side s.home d).status
  | .coh d => (side s.coh d).status
  | .tier d => (side s.tier d).status
  | .ftl d => (side s.ftl d).status
  | .pod d => (side s.pod d).status
  | .col d => (side s.col d).status
  | .att d => (side s.col d).attStatus
  | .cmp d => side s.cmp.status d
  | .ctx c => (ctxOf s c).evStatus
  | .sec => s.sec.status
  | .mtr => s.mtr.status
  | .flt => s.flt.status
  | .mod => s.mod.status

/-- The state with the register changed. -/
def stUpd (s : State) (r : StReg) (g : Sticky → Sticky) : State :=
  match r with
  | .cfg => { s with cfg := { s.cfg with status := g s.cfg.status } }
  | .prt p => { s with lft := { s.lft with ports := changeD s.lft.ports p {} (fun x => { x with errStatus := g x.errStatus }) } }
  | .swc d => { s with swc := upd s.swc d (fun x => { x with status := g x.status }) }
  | .mem d => { s with home := upd s.home d (fun x => { x with status := g x.status }) }
  | .coh d => { s with coh := upd s.coh d (fun x => { x with status := g x.status }) }
  | .tier d => { s with tier := upd s.tier d (fun x => { x with status := g x.status }) }
  | .ftl d => { s with ftl := upd s.ftl d (fun x => { x with status := g x.status }) }
  | .pod d => { s with pod := upd s.pod d (fun x => { x with status := g x.status }) }
  | .col d => { s with col := upd s.col d (fun x => { x with status := g x.status }) }
  | .att d => { s with col := upd s.col d (fun x => { x with attStatus := g x.attStatus }) }
  | .cmp d => { s with cmp := { s.cmp with status := upd s.cmp.status d g } }
  | .ctx c => { s with ctxs := changeD s.ctxs c {} (fun x => { x with evStatus := g x.evStatus }) }
  | .sec => { s with sec := { s.sec with status := g s.sec.status } }
  | .mtr => { s with mtr := { s.mtr with status := g s.mtr.status } }
  | .flt => { s with flt := { s.flt with status := g s.flt.status } }
  | .mod => { s with mod := { s.mod with status := g s.mod.status } }

/-- The place of a status in the order of R289, rank 1 highest (13 here); OK and the informational statuses are below every
fault. -/
def statusRank (v : BitVec 5) : Nat :=
  match v.toNat with
  | 0x0A => 13
  | 0x04 => 12
  | 0x03 => 11
  | 0x0E => 10
  | 0x08 => 9
  | 0x06 => 8
  | 0x07 => 7
  | 0x09 => 6
  | 0x0D => 5
  | 0x05 => 4
  | 0x0C => 3
  | 0x02 => 2
  | 0x0F => 1
  | _ => 0

/-- The highest ranked of some statuses, OK of none. -/
def topStatus (l : List (BitVec 5)) : BitVec 5 :=
  l.foldl (fun a x => if statusRank a < statusRank x then x else a) Sts.ok

end Machine
end Sys2Proof
end

