-- ==== Sys2Proof/Machine/Ops.lean ====
section
/-! DEFINITION. The shared operations: pooled memory and poison, sticky sets and events, the switch core's cells and output FIFOs,
routing and answering, metering taps, charges, jobs, the control-command answers. -/

namespace Sys2Proof
namespace Machine

/-! Pooled memory (R53, R193) -/

/-- The canonical form of memory: addresses strictly rising and no entry that an unlisted byte already reads as. -/
def memWf (m : List Host.Cell) : Bool :=
  match m with
  | [] => true
  | (a, v) :: r => v != 0 && r.all (fun c => decide (a < c.1)) && memWf r

/-- What an address of pooled memory that is not listed reads as: 0x00 (DESIGN CHOICE, log 5). -/
def memDefault : Byte := 0

/-- One byte of pooled memory. -/
def readByte (s : State) (a : Nat) : Byte := getD s.mem a memDefault

/-- Bytes of pooled memory from an address. -/
def readMem (s : State) (a n : Nat) : Bytes := (rangeFrom a n).map (readByte s)

/-- Memory with bytes written from an address. -/
def memPut (m : List Host.Cell) (a : Nat) (b : Bytes) : List Host.Cell :=
  match b with
  | [] => m
  | v :: r => memPut (sput m a v) (a + 1) r

/-- The state with bytes of pooled memory written. -/
def writeMem (s : State) (a : Nat) (b : Bytes) : State := { s with mem := memPut s.mem a b }

/-- Memory with the bytes of a range all at the default, as when an object's bytes cease to be held. -/
def memClear (m : List Host.Cell) (a n : Nat) : List Host.Cell := m.filter (fun c => decide (c.1 < a) || decide (a + n ≤ c.1))

/-- The 64-byte granules that a range of bytes touches; a range of no bytes touches none. -/
def touched (a n : Nat) : List Nat := if n = 0 then [] else rangeFrom (a / 64) ((a + n - 1) / 64 + 1 - a / 64)

/-- Does a range touch a poisoned granule? -/
def poisonedIn (s : State) (a n : Nat) : Bool := (touched a n).any (fun g => s.poison.contains g)

/-- Does a range cover in part a poisoned granule (R194)? -/
def poisonPart (s : State) (a n : Nat) : Bool :=
  (touched a n).any (fun g => s.poison.contains g && !(decide (a ≤ g * 64) && decide (g * 64 + 64 ≤ a + n)))

/-- The state with the markers of a range cleared. -/
def clearPoison (s : State) (a n : Nat) : State :=
  { s with poison := s.poison.filter (fun g => !((touched a n).contains g)) }

/-! Changing one part of the state -/

/-- The state with the configuration part changed. -/
def modCfg (s : State) (g : CfgState → CfgState) : State := { s with cfg := g s.cfg }
/-- The state with the transport part changed. -/
def modLft (s : State) (g : LftState → LftState) : State := { s with lft := g s.lft }
/-- The state with a port changed. -/
def modPort (s : State) (p : Nat) (g : PortState → PortState) : State :=
  { s with lft := { s.lft with ports := changeD s.lft.ports p {} g } }
/-- The sub-link of a port. -/
def subOf (s : State) (p k : Nat) : SubState := getD (portOf s p).subs k {}
/-- The state with a sub-link changed. -/
def modSub (s : State) (p k : Nat) (g : SubState → SubState) : State :=
  modPort s p (fun x => { x with subs := changeD x.subs k {} g })
/-- The state with a die's switch core changed. -/
def modSwc (s : State) (d : Die) (g : SwcState → SwcState) : State := { s with swc := upd s.swc d g }
/-- The state with a die's home unit changed. -/
def modHome (s : State) (d : Die) (g : HomeState → HomeState) : State := { s with home := upd s.home d g }
/-- The state with a die's coherence unit changed. -/
def modCoh (s : State) (d : Die) (g : CohState → CohState) : State := { s with coh := upd s.coh d g }
/-- The state with a die's tier unit changed. -/
def modTier (s : State) (d : Die) (g : TierState → TierState) : State := { s with tier := upd s.tier d g }
/-- The state with a die's flash engine changed. -/
def modFtl (s : State) (d : Die) (g : FtlState → FtlState) : State := { s with ftl := upd s.ftl d g }
/-- The state with a die's pod cores changed. -/
def modPod (s : State) (d : Die) (g : PodState → PodState) : State := { s with pod := upd s.pod d g }
/-- The state with a die's compute operations changed. -/
def modCol (s : State) (d : Die) (g : ColState → ColState) : State := { s with col := upd s.col d g }
/-- The state with a die's events changed. -/
def modEv (s : State) (d : Die) (g : EvState → EvState) : State := { s with ev := upd s.ev d g }
/-- The state with the security part changed. -/
def modSec (s : State) (g : SecState → SecState) : State := { s with sec := g s.sec }
/-- The state with the meter part changed. -/
def modMtr (s : State) (g : MtrState → MtrState) : State := { s with mtr := g s.mtr }
/-- The state with the failure detector changed. -/
def modFlt (s : State) (g : FltState → FltState) : State := { s with flt := g s.flt }
/-- The state with the module part changed. -/
def modMod (s : State) (g : ModState → ModState) : State := { s with mod := g s.mod }
/-- The state with a die's part of the module changed. -/
def modDie (s : State) (d : Die) (g : DieMod → DieMod) : State := modMod s (fun m => { m with dies := upd m.dies d g })
/-- The state with a context changed. -/
def modCtx (s : State) (c : Nat) (g : Ctx → Ctx) : State := { s with ctxs := changeD s.ctxs c {} g }
/-- The state with an object changed. -/
def modObj (s : State) (id : Nat) (g : Obj → Obj) : State := { s with objs := modK s.objs id g }
/-- The state with an extent's run-time state changed. -/
def modExt (s : State) (i : Nat) (g : ExtState → ExtState) : State := { s with exts := changeD s.exts i {} g }
/-- The state with a session changed. -/
def modSes (s : State) (i : Nat) (g : Session → Session) : State := { s with sessions := modK s.sessions i g }
/-- The state with a volume changed. -/
def modVol (s : State) (v : Nat) (g : Volume → Volume) : State := { s with vols := changeD s.vols v {} g }

/-- A free value: its number is used up. -/
def drawFree (s : State) : Nat × State := (s.freeCtr, { s with freeCtr := s.freeCtr + 1 })

/-- The time of a die's interval timer, in nanoseconds (R48). -/
def timerOf (s : State) (d : Die) : Nat := (side s.mod.dies d).timer

/-! Events (R382 to R387, R494) -/

/-- Is the code a coalescing event (R384, R441, R469, R490)? -/
def coalesces (code : Nat) : Bool :=
  [0x03, 0x04, 0x10, 0x11, 0x12, 0x30, 0x31, 0x52, 0x53, 0x55, 0x62, 0x71, 0x72, 0x76, 0xFF].contains code

/-- Are two entries of one pending place: the stream and the code, and for OVER_QUOTA the concerned context (R386)? -/
def samePending (a b : EvEntry) : Bool :=
  a.stream == b.stream && a.code == b.code && (a.code != 0x30 || a.ctx == b.ctx)

/-- The discrete entries of a die that count against its pools: those of context 0 and those of the others. -/
def evCount (q : List EvEntry) (p : EvEntry → Bool) : Nat := (q.filter (fun e => !e.coalesce && !e.job && p e)).length

/-- Is there an entry free for a discrete event of a stream (R386)? -/
def evRoom (q : List EvEntry) (stream : Nat) : Bool :=
  let ctx0 := evCount q (fun e => e.stream == 0)
  let shared := evCount q (fun e => e.stream != 0) + (ctx0 - 2048)
  if stream = 0 then decide (ctx0 < 2048) || decide (shared < 5888)
  else decide (shared < 5888) && decide (evCount q (fun e => e.stream == stream) < 16)

/-- A hardware set of a bit of CTX.EVENT_STATUS. -/
def evStatus (s : State) (c bit : Nat) : State := stUpd s (.ctx c) (fun r => r.set bit)

/-- Put an entry into a die's queue. A coalescing event goes into its pending entry; a discrete one that finds no room is lost
and raises EVENTS_LOST; one without a destination is discarded. The second part lists the contexts whose EVENT_STATUS was
set. -/
def enqueueOnce (d : Die) (e : EvEntry) (s : State) : Bool × State × List Nat :=
  let q := (side s.ev d).queue
  let dest := e.dest.getD (eventEp s e.stream)
  if dest = 0 then (true, evStatus s e.stream 4, [e.stream])
  else if e.coalesce && q.any (samePending e) then
    let s1 := modEv s d (fun v => { v with
      queue := modFirst (samePending e) (fun o => { o with count := satAdd o.count e.count 0xFFFE, data := e.data }) v.queue })
    let s2 := modCtx s1 e.stream (fun x => { x with merged := (x.merged + 1) % 2 ^ 32 })
    (true, evStatus s2 e.stream 2, [e.stream])
  else if e.coalesce || e.job || evRoom q e.stream then
    (true, modEv s d (fun v => { v with queue := v.queue ++ [e] }), [])
  else (false, evStatus s e.stream 3, [e.stream])

/-- Put an entry into a die's queue, with the EVENTS_LOST it may raise (R386). -/
def enqueue (d : Die) (e : EvEntry) (s : State) : State × List Nat :=
  match enqueueOnce d e s with
  | (true, s1, cs) => (s1, cs)
  | (false, s1, cs) =>
    match enqueueOnce d { stream := e.stream, ctx := e.stream, code := 0xFF, coalesce := true, dest := none, count := 1,
                          data := toLE 8 e.code } s1 with
    | (_, s2, cs2) => (s2, cs ++ cs2)

/-- The STATUS_SET event of a register (R384), to context 0. A set of CTX.EVENT_STATUS that queueing it causes raises no
further STATUS_SET (DEDUCED, log 18). -/
def statusEvent (r : StReg) (s : State) : State :=
  let o := stOffset r
  (enqueue (stDie s r) { stream := 0, ctx := 0, code := 0x12, coalesce := true, dest := none, count := 1,
                         data := toLE 4 o.1 ++ toLE 4 o.2 } s).1

/-- A hardware set of a sticky status bit (R13), with its STATUS_SET event (R384; DEDUCED that each set raises one, log 18). -/
def setStatus (r : StReg) (bit : Nat) (s : State) : State := statusEvent r (stUpd s r (fun x => x.set bit))

/-- Queue an event occurrence on a die. -/
def queueEntry (d : Die) (e : EvEntry) (s : State) : State :=
  match enqueue d e s with
  | (s1, cs) => cs.foldl (fun t c => statusEvent (.ctx c) t) s1

/-- Queue an event of a context, to its EVENT_EP. -/
def event (d : Die) (c code : Nat) (data : Bytes) (s : State) : State :=
  queueEntry d { stream := c, ctx := c, code := code, coalesce := coalesces code, dest := none, count := 1, data := data } s

/-- Queue an event about the whole switch on the die of the active service processor (R494). -/
def spEvent (c code : Nat) (data : Bytes) (s : State) : State := event s.cfg.activeSp c code data s

/-- OVER_QUOTA of a context in a tier, with its copy to context 0 (R80, R384). -/
def overQuota (c tier : Nat) (s : State) : State :=
  let data := toLE 8 tier
  let s1 := setStatus (.ctx c) 0 s
  let s2 := spEvent c 0x30 data s1
  queueEntry s2.cfg.activeSp { stream := 0, ctx := c, code := 0x30, coalesce := true, dest := none, count := 1, data := data } s2

/-! Jobs (R107, R110, R385) -/

/-- Start a job: its number and the state that holds it. -/
def newJob (code ep ctx : Nat) (args : List Nat) (s : State) : Nat × State :=
  let n := s.cfg.nextJob
  (n, modCfg s (fun c => { c with nextJob := (n + 1) % 2 ^ 32, jobs := c.jobs ++ [⟨n, code, ep, ctx, args⟩] }))

/-- The job of a number that has not ended. -/
def jobOf (s : State) (n : Nat) : Option Job := s.cfg.jobs.find? (fun j => j.num == n && j.code != 0)

/-- The first job of a command code that has not ended and whose arguments a test accepts. -/
def jobWith (s : State) (code : Nat) (p : List Nat → Bool) : Option Job :=
  s.cfg.jobs.find? (fun j => j.code == code && p j.args)

/-- The end of a job: it keeps its entry, with code 0, until its JOB_DONE frame has left (R386). -/
def jobDone (n : Nat) (status : BitVec 5) (detail : Nat) (s : State) : State :=
  match jobOf s n with
  | none => s
  | some j =>
    let s1 := modCfg s (fun c => { c with jobs := modFirst (fun x => x.num == n) (fun x => { x with code := 0 }) c.jobs })
    queueEntry s1.cfg.activeSp {
      stream := j.ctx, ctx := j.ctx, code := 1, coalesce := false, dest := some j.ep, count := 1,
      data := toLE 4 n ++ toLE 4 status.toNat ++ toLE 4 detail, job := true } s1

/-! The metering taps (R424, R425) -/

/-- Do the dies append their taps' events to escrow (R437)? -/
def escrowing (s : State) (d : Die) : Bool := s.mtr.st != .attached || (side s.mtr.escrow d).on

/-- The key of an aggregated sum: kind, sub, context. -/
def aggKey (kind sub ctx : Nat) : Nat := kind * 2 ^ 20 + sub * 2 ^ 12 + ctx

/-- A tap event sent live: it takes the die's next TAP_SEQ and waits for the meter's acknowledgement. -/
def tapLive (d : Die) (kind sub ctx : Nat) (value : BitVec 64) (s : State) : State :=
  let n := side s.mtr.tapSeq d
  modMtr s (fun m => { m with
    tapSeq := upd m.tapSeq d (· + 1),
    tapBuf := upd m.tapBuf d (fun b => b ++ [⟨kind, sub, ctx, dieNum d, n, value⟩]) })

/-- The largest number of events of a segment (R437). -/
def segEvents : Nat := 31208

/-- A tap event as its 32 bytes (R424). -/
def tapBytesOf (e : TapEv) : Bytes :=
  toLE 1 e.kind ++ toLE 1 e.sub ++ toLE 2 e.ctx ++ toLE 1 e.die ++ zeros 3 ++ toLE 8 e.seq ++ toLE 8 e.value.toNat ++ zeros 8

/-- The bytes of a segment that its signature covers (R437); the place of events it does not hold is zero (DESIGN CHOICE, log 198). -/
def segBytes (d : Die) (g : Segment) : Bytes :=
  fit ([0x47#8, 0x53#8, 0x4B#8, 0x45#8, 0x53#8, 0x43#8, 0x52#8, 0x31#8] ++ toLE 8 g.num ++ toLE 1 (dieNum d) ++ zeros 3 ++
    toLE 4 g.events.length ++ zeros 4 ++ fit g.prev 32 ++ g.events.flatMap tapBytesOf) 998720

/-- The digest of a whole segment. -/
def segDigest (d : Die) (g : Segment) : Bytes := fit (Config.shake256 (segBytes d g ++ fit g.sig 49856) 32) 32

/-- A segment closed: signed by the DAK, key number 1 (R437). -/
def closeSeg (d : Die) (g : Segment) : Segment :=
  if g.signed then g else { g with signed := true, sig := Config.slhDsaSign 1 (segBytes d g) }

/-- A new segment with its first events, chained to the one before it; with none before, the digest of the last one released, zero at first
(DESIGN CHOICE, log 198). -/
def newSeg (d : Die) (es : List TapEv) (x : Escrow) : Escrow :=
  let g : Segment := { num := x.nextSeg, events := es, prev := x.segs.getLast?.elim x.digest (segDigest d) }
  { x with segs := x.segs ++ [if segEvents ≤ es.length then closeSeg d g else g], nextSeg := x.nextSeg + 1 }

/-- Events appended to an escrow: to the open segment, or to a new one where it is closed. -/
def addToSeg (d : Die) (e : TapEv) (x : Escrow) : Escrow :=
  match x.segs.getLast? with
  | some g =>
    if g.signed then newSeg d [e] x
    else
      let g2 : Segment := { g with events := g.events ++ [e] }
      { x with segs := x.segs.dropLast ++ [if segEvents ≤ g2.events.length then closeSeg d g2 else g2] }
  | none => newSeg d [e] x

/-- A tap event appended to the die's open escrow segment; a full segment is closed and signed (R437). -/
def tapEscrow (d : Die) (kind sub ctx : Nat) (value : BitVec 64) (s : State) : State :=
  let e : TapEv := ⟨kind, sub, ctx, dieNum d, side s.mtr.tapSeq d, value⟩
  modMtr s (fun m => { m with tapSeq := upd m.tapSeq d (· + 1), escrow := upd m.escrow d (addToSeg d e) })

/-- A tap event: in escrow CHARGE, BYTES and WORK are summed over the second; every other goes out at once. -/
def tap (d : Die) (kind sub ctx : Nat) (value : BitVec 64) (s : State) : State :=
  if escrowing s d then
    if kind ≤ 3 then
      modMtr s (fun m => { m with
      escrow := upd m.escrow d (fun x =>
        { x with agg := changeD x.agg (aggKey kind sub ctx) 0 (fun v => (v + value.toNat) % 2 ^ 64) }) })
    else tapEscrow d kind sub ctx value s
  else tapLive d kind sub ctx value s

/-- Flush a BYTES count of a tap (R425). sub is the class with the direction in bit 3. -/
def tapFlush (d : Die) (ctx sub : Nat) (s : State) : State :=
  match get? (side s.mtr.bytesCnt d) (ctx * 16 + sub) with
  | none => s
  | some 0 => s
  | some v =>
    tap d 2 sub ctx (BitVec.ofNat 64 v)
      (modMtr s (fun m => { m with bytesCnt := upd m.bytesCnt d (fun t => del t (ctx * 16 + sub)) }))

/-- Count the bytes of a frame served under a context (R425): 32 + LENGTH, dir 0 toward the home and 1 from it. -/
def tapBytes (d : Die) (ctx tc dir len : Nat) (s : State) : State :=
  let k := ctx * 16 + (dir * 8 + tc)
  let s1 := modMtr s (fun m => { m with bytesCnt := upd m.bytesCnt d (fun t => changeD t k 0 (fun v => v + 32 + len)) })
  if 2 ^ 32 ≤ getD (side s1.mtr.bytesCnt d) k 0 then tapFlush d ctx (dir * 8 + tc) s1 else s1

/-! Charges (R78 to R81) -/

/-- A context's charge in a tier, in 4 KiB granules. -/
def chargeOf (s : State) (c tier : Nat) : Nat := nth (ctxOf s c).charge tier 0

/-- A context's limit in a tier, in 2 MiB granules. -/
def limitOf (s : State) (c tier : Nat) : Nat := nth (ctxOf s c).limits tier 0

/-- Would an allocation of 4 KiB granules exceed the limit (R79)? -/
def overLimit (s : State) (c tier g : Nat) : Bool := decide (limitOf s c tier < ceilDiv (chargeOf s c tier + g) 512)

/-- A change of a charge reported to the tap of the home (R81). -/
def chargeTap (d : Die) (c tier : Nat) (v : BitVec 64) (s : State) : State := tap d 1 tier c v s

/-- Take a charge. -/
def takeCharge (d : Die) (c tier g : Nat) (s : State) : State :=
  if g = 0 then s
  else chargeTap d c tier (BitVec.ofNat 64 g) (modCtx s c (fun x => { x with charge := modAt x.charge tier (· + g) }))

/-- Release a charge; a context back at its limit may be over it again later (R80). -/
def dropCharge (d : Die) (c tier g : Nat) (s : State) : State :=
  if g = 0 then s
  else
    let s1 := modCtx s c (fun x => { x with charge := modAt x.charge tier (· - g) })
    let s2 := if overLimit s1 c tier 0 then s1 else modCtx s1 c (fun x => { x with overTier := setAt x.overTier tier false })
    chargeTap d c tier (0 - BitVec.ofNat 64 g) s2

/-- A wait counted against QUOTA or CONGESTION (R392). -/
def countWait (c : Nat) (quota : Bool) (s : State) : State :=
  modCtx s c (fun x => if quota then { x with quotaWaits := satAdd x.quotaWaits 1 0xFFFFFFFF }
    else { x with congWaits := satAdd x.congWaits 1 0xFFFFFFFF })

/-- A refusal with QUOTA counts as a wait against QUOTA (R392). -/
def quotaWait (f : Frame) (st : BitVec 5) (s : State) : State := if st = Sts.quota then countWait f.ctx.toNat true s else s

/-! Cells (R148 to R158) -/

/-- The die of the resequencers for streams from a switch: RX_DIE of its ROUTE record (R142, R146). -/
def reseqDie (s : State) (sw : Nat) : Die := (recOf s RT.route sw).elim .d0 (fun b => dieOf (le b 3 1 % 2))

/-- The cells a die's descriptors name: those of its FIFOs and of frames held at its ports, and of messages in the stalk
toward it. -/
def usedCells (s : State) (d : Die) : List Nat :=
  let w := side s.swc d
  let held := (s.lft.ports.filter (fun p => portDie p.1 == d)).flatMap fun p =>
    (p.2.releases.map (·.held) ++ p.2.acquires ++ p.2.behind ++ p.2.stopHeld ++ p.2.epochHeld ++ p.2.rateHeld ++
      p.2.pepHeld ++ p.2.recWait).flatMap (·.desc.cells)
  let reseq := s.lft.reseq.flatMap (fun r => if reseqDie s (r.1 / 8) = d then r.2.held.flatMap (fun x => x.2.cells) else [])
  let entry := (s.lft.barrierTx.flatMap (·.2.held) ++ s.lft.spray.flatMap (·.2.held) ++ s.lft.sprayIn).flatMap
    (fun x => if x.1 = dieNum d then x.2.cells else [])
  entry ++ w.fifos.flatMap (fun f => f.queue.flatMap (·.cells)) ++ held ++ reseq ++ w.stalkIn.flatMap (·.desc.cells) ++
    (side s.home d).inbox.flatMap (·.cells)

/-- The cells of a die's buffer (R148). -/
def dieBuffer : Nat := 786432

/-- The cells of the sample pool that samples take. -/
def sampleCells (l : List Sample) : Nat := sumOf (l.map (fun x => ceilDiv (16 + x.bytes.length) 256))

/-- Take the lowest-numbered free cells of a die and note the audit epoch (R148, R149, R156). The pools of R150 keep what is taken within the
buffer. -/
def allocCells (d : Die) (n : Nat) (s : State) : List Nat × State :=
  let w := side s.swc d
  let got := (rangeFrom 0 (min dieBuffer (w.offFree.length + w.quarantined.length + n))).filter
    (fun c => !w.offFree.contains c && !w.quarantined.contains c) |>.take n
  (got, modSwc s d (fun x => { x with
    offFree := got.foldl (fun l c => insertNat c l) x.offFree,
    born := got.foldl (fun t c => put t c x.auditEpoch) x.born }))

/-- Return to the free list the cells that no descriptor names any longer (R149, R158). -/
def freeCells (d : Die) (cells : List Nat) (s : State) : State :=
  if cells.isEmpty then s
  else
    let used := usedCells s d
    let gone := cells.filter (fun c => !used.contains c)
    modSwc s d (fun x => { x with
      offFree := x.offFree.filter (fun c => !gone.contains c),
      quarantined := x.quarantined.filter (fun c => !gone.contains c) })

/-- The rate of a sub-link of a port in bytes per nanosecond (R115). -/
def subRate (s : State) (p : Nat) : Nat := if p = 64 then 100 else 200 / subsOfMode (portMode s p)

/-- The headroom of a port's classes in PFC mode, in cells (R139). -/
def headroom (s : State) (p : Nat) : Nat :=
  ceilDiv (((recOf s RT.port p).elim 0 (fun b => le b 46 2) * 10 + 2000) * subRate s p) 256 + 68

/-- A sub-link sends a PFC frame (R139). -/
def sendPfc (p k tc quanta : Nat) (s : State) : State := modLft s (fun l => { l with pfcSent := l.pfcSent ++ [(p, k, tc, quanta)] })

/-- Does a stop-table entry name a port: its PORT, or 0x00FF for every port (R164)? -/
def stopPort (e : BitVec 64) (p : Nat) : Bool := let n := fld e.toNat 31 16; n == p || n == 0xFF

/-- Does a PORT or CLASS entry hold the frames of a class at a port (R164, R165)? -/
def stopNames (e : BitVec 64) (p tc : Nat) : Bool :=
  let kind := fld e.toNat 7 0
  decide (tc ≤ 6) && stopPort e p && (kind == 1 || (kind == 2 && bitAt (fld e.toNat 15 8) tc))

/-- Does a CONTEXT entry end the requests of a context at a port (R165)? -/
def stopCtx (e : BitVec 64) (p c : Nat) : Bool := fld e.toNat 7 0 == 3 && stopPort e p && fld e.toNat 43 32 == c

/-- Is a class stopped at a port? -/
def stopped (s : State) (p tc : Nat) : Bool := (side s.swc (portDie p)).stops.any (fun e => stopNames e p tc)

/-- In PFC mode a class that has fallen below its limit less twice the headroom is resumed (R139), unless a stop holds it (R165). -/
def pfcXon (p k tc : Nat) (s : State) : State :=
  let x := subOf s p k
  if nth x.xoff tc false && !stopped s p tc && decide (nth x.occupancy tc 0 + 2 * headroom s p < portLimit s p tc) then
    sendPfc p k tc 0 (modSub s p k (fun y => { y with xoff := setAt y.xoff tc false }))
  else s

/-- In PFC mode a class that has reached its limit less its headroom is paused (R139). -/
def pfcXoff (p k tc : Nat) (s : State) : State :=
  let x := subOf s p k
  if portPfc s p && !nth x.xoff tc false && decide (portLimit s p tc ≤ nth x.occupancy tc 0 + headroom s p) then
    sendPfc p k tc 0xFFFF (modSub s p k (fun y => { y with xoff := setAt y.xoff tc true }))
  else s

/-- Is a frame charged to the request half of TC7 (R130)? -/
def tc7Req (f : Frame) : Bool := f.tc == 7 && isReq f.opcode

/-- A frame leaves its ingress allocation (R152): its class has cells to return (R134). -/
def leaveIngress (x : Desc) (s : State) : State :=
  match x.source with
  | none => s
  | some (p, k) =>
    let tc := x.frame.tc.toNat
    let n := cellsOf x.frame.length.toNat
    let s1 := modSub s p k (fun y => { y with
      unreturned := modAt y.unreturned tc (· + n),
      occupancy := modAt y.occupancy tc (· - n),
      occReq7 := if tc7Req x.frame then y.occReq7 - n else y.occReq7 })
    if portPfc s1 p then pfcXon p k tc s1 else s1

/-! Output FIFOs and routing (R123, R140, R153) -/

/-- The FIFO of an output and class of a die. -/
def fifoOf (s : State) (d : Die) (o : Output) (tc : Nat) : List Desc :=
  match (side s.swc d).fifos.find? (fun f => f.out == o && f.tc == tc) with
  | some f => f.queue
  | none => []

/-- The state with a FIFO replaced; an empty FIFO is not listed. -/
def setFifo (s : State) (d : Die) (o : Output) (tc : Nat) (q : List Desc) : State :=
  modSwc s d (fun w => { w with
  fifos :=
    if q.isEmpty then w.fifos.filter (fun f => !(f.out == o && f.tc == tc))
    else if w.fifos.any (fun f => f.out == o && f.tc == tc) then
      w.fifos.map (fun f => if f.out == o && f.tc == tc then { f with queue := q } else f)
    else w.fifos ++ [⟨o, tc, q⟩] })

/-- May request b be combined into the waiting request a (R186)? Loads of one size are, whether or not each lets its answer be coded. -/
def combinable (a : Desc) (b : Frame) : Bool :=
  let x := a.frame
  let fn := x.opspec.toNat / 256
  x.tc == 3#3 && b.tc == 3#3 && x.ctx == b.ctx && x.opcode == b.opcode && x.addr == b.addr &&
    !x.acq && !x.rel && !b.acq && !b.rel && !x.cmp && !b.cmp &&
    ((x.opcode == Opc.ld && x.opspec.toNat % 2 ^ 13 == b.opspec.toNat % 2 ^ 13) ||
      ((x.opcode == Opc.amo || x.opcode == Opc.amoNr) && x.opspec == b.opspec && decide (fn ≤ 7))) &&
    x.payload.length == b.payload.length && decide (a.more.length + 1 < 64)

/-- Do two frames belong to one flow (R141, R174)? -/
def sameFlow (a b : Frame) : Bool := a.srcEp == b.srcEp && a.ctx == b.ctx && a.tc == b.tc

/-- Combine a request, itself perhaps combined, into the first waiting one it may join, unless a later frame of one of its flows waits behind
that one; the lists are joined in the order of acceptance here (R186, R188). -/
def combineInto (q : List Desc) (x : Desc) : Option (List Desc) :=
  match q with
  | [] => none
  | a :: r =>
    let mine := x.frame :: x.more
    let flow := fun (y : Desc) => (y.frame :: y.more).any (fun g => mine.any (sameFlow g))
    if combinable a x.frame && !r.any flow then some ({ a with more := a.more ++ mine } :: r)
    else (combineInto r x).map (fun t => a :: t)

/-- Does an output lead toward a home (R186): the home unit's input, the stalk, an inter-switch port? -/
def towardHome (s : State) (o : Output) : Bool :=
  match o with
  | .home => true
  | .stalk => true
  | .sub p _ => portRole s p == 4
  | .sp => false
  | .agent => false

/-- Put a descriptor into an output FIFO of a die, combining it where R186 lets it; the cells of a combined frame go back and
its ingress allocation is left. -/
def pushOut (d : Die) (o : Output) (x : Desc) (s : State) : State :=
  let tc := x.frame.tc.toNat
  let q := fifoOf s d o tc
  let joined := if (side s.home d).combineEn && towardHome s o then combineInto q x else none
  match joined with
  | some q2 =>
    let s1 := setFifo s d o tc q2
    let s2 := modHome s1 d (fun h => { h with combined := (h.combined + 1) % 2 ^ 64 })
    freeCells d x.cells (leaveIngress x s2)
  | none => setFifo s d o tc (q ++ [x])

/-- Does this switch answer for a switch ID (R61, R459)? Unconfigured, it answers for every one (R99). -/
def answersFor (s : State) (sw : Nat) : Bool :=
  s.cfg.unconfigured || sw == s.cfg.switchId ||
    (match get? s.flt.switches sw with
     | some e => e.st == .promoted && e.answer == s.cfg.switchId
     | none => false)

/-- The offset of this switch's pool at which an address is served: its own, or that of a promoted replica's member extent; the status
of an address of another switch that lies in none (R459). -/
def transAddr (s : State) (a : Nat) : (BitVec 5) ⊕ Nat :=
  if s.cfg.unconfigured || addrSwitch a == s.cfg.switchId then .inr (addrOff a)
  else
    match s.flt.promoted.findSome? (fun n =>
      match recOf s RT.replicaSet n with
      | some b =>
        let ms := replicaMembers b
        match ms.head?, ms.find? (fun m => m.1 == s.cfg.switchId) with
        | some p, some m =>
          let at_ := Config.homeMap p.1 p.2
          if p.1 = addrSwitch a ∧ at_.1 ≤ addrOff a ∧ addrOff a < at_.1 + at_.2 then some (m.2, addrOff a - at_.1) else none
        | _, _ => none
      | none => none) with
    | some (ext, o) =>
      match extOf s ext with
      | some e => if o < e.size then .inr (e.base + o) else .inl Sts.nohome
      | none => .inl Sts.nohome
    | none => .inl Sts.homelost

/-- The offset at which an address is served; beyond every extent where it is not. -/
def transOff (s : State) (a : Nat) : Nat :=
  match transAddr s a with
  | .inr o => o
  | .inl _ => 2 ^ 52

/-- Does an address or handle name a switch that this one answers for by promotion? -/
def foreign (s : State) (a : Nat) : Bool := !s.cfg.unconfigured && addrSwitch a != s.cfg.switchId

/-- The die that homes an offset: the one of its extent; of no extent, die 0. -/
def homeDie (s : State) (off : Nat) : Die :=
  match extAt s off with
  | some e => e.die
  | none => .d0

/-- The die of the session a handle names (R246): the one that homes its page extent. -/
def sessionDie (s : State) (a : Nat) : Option Die :=
  match get? s.sessions (fld a 51 32) with
  | some x => (extOf s x.ext).map (·.die)
  | none => none

/-- The nodes of a group on this switch: NODE-list index, die, service. -/
def localNodes (s : State) (b : Bytes) : List (Nat × Die × Nat) :=
  (rangeFrom 0 (le b 12 4)).filterMap fun i =>
    match nodeEnt b i with
    | (sw, d, v) => if sw = s.cfg.switchId then some (i, d, v) else none

/-- The NODE-list index of the node that a descriptor of a position field targets, and its position there (R317, R321). -/
def targetNode (g : GrpV) (posField : Nat) : Nat × Nat :=
  let lv := grpLevels g
  if bitAt posField 31 then
    let p := nodePos lv (posField % 2 ^ 16)
    (nodeIdx lv (p.1 + 1) (p.2 / g.fanin), p.2 % g.fanin)
  else
    let r := posField % 2 ^ 16
    (nodeIdx lv 0 (r / g.fanin), r % g.fanin)

/-- The endpoint of a position of a node (R317): a rank's, or the agent of a child node's die. -/
def positionEp (b : Bytes) (node pos : Nat) : Option Nat :=
  let g := grpView b
  let lv := grpLevels g
  match nodePos lv node with
  | (0, j) => let r := j * g.fanin + pos; if r < g.ranks ∧ pos < g.fanin then some (rankEp b r) else none
  | (l + 1, j) =>
    let i := j * g.fanin + pos
    if i < nth lv l 0 ∧ pos < g.fanin then
      match nodeEnt b (nodeIdx lv l i) with
      | (sw, d, _) => some (sw * 256 + 0xFE + dieNum d)
    else none

/-- The node on this switch that a COL_PART of a source and position targets: the one with that position held by the source,
else the first that takes the position. -/
def partNode (s : State) (b : Bytes) (src pos : Nat) : Option (Nat × Die × Nat) :=
  let ns := (localNodes s b).filter (fun n => (positionEp b n.1 pos).isSome)
  match ns.find? (fun n => positionEp b n.1 pos == some src) with
  | some n => some n
  | none => ns.head?

/-- The die of this switch that serves an address-routed frame; d0 where nothing decides (R25 to R27, R320, R342). -/
def serveDie (s : State) (f : Frame) : Die :=
  let a := f.addr.toNat
  let o := f.opcode.toNat
  if 0x41 ≤ o ∧ o ≤ 0x45 then
    match get? s.objs (handleId a) with
    | some x => match extOf s x.ext with
      | some e => e.die
      | none => .d0
    | none => .d0
  else if o = 0x60 ∨ o = 0x63 then
    match recOf s RT.rankGroup (fld a 51 42) with
    | some b =>
      let n := if o = 0x60 then ((localNodes s b).find? (fun n => n.1 == (targetNode (grpView b) (le f.payload 20 4)).1))
        else partNode s b f.srcEp.toNat f.opspec.toNat
      match n with
      | some x => x.2.1
      | none => .d0
    | none => .d0
  else if 0x64 ≤ o ∧ o ≤ 0x67 then
    match sessionDie s a with
    | some d => d
    | none =>
      let n := le f.payload 0 4 % 2 ^ 20
      if o = 0x65 then ((if f.opspec.toNat % 4 = 3 then get? s.sessions n else none).elim (extOf s n) (fun x => extOf s x.ext)).elim .d0 (·.die) else .d0
  else homeDie s (transOff s a)

/-- Does a request address the control path or the window of this switch (R34, R111)? An opcode whose ADDR is a handle addresses no
window. -/
def toSp (f : Frame) : Bool :=
  f.opcode == Opc.ctlReq ||
    (isReq f.opcode && (decide (f.opcode.toNat < 0x30) || [Opc.objCreate, Opc.colGather, Opc.colFilter].contains f.opcode) &&
      inWindow (addrOff f.addr.toNat))

/-- The switch whose ID a frame's address carries. -/
def destSwitch (f : Frame) : Nat := addrSwitch f.addr.toNat

/-- The switch a frame for a switch ID is routed to: where the map shows the ID promoted, the one that answers for it (R56, R459). -/
def routeSwitch (s : State) (sw : Nat) : Nat :=
  match get? s.flt.switches sw with
  | some e => if e.st == .promoted then e.answer else sw
  | none => sw

/-- The switch a frame is routed to. -/
def routedTo (s : State) (f : Frame) : Nat := routeSwitch s (destSwitch f)

/-- The path indices in use toward a switch: those of its ROUTE record, or the live ones of them once a path barrier has run (R140, R143). -/
def pathsUsed (s : State) (sw : Nat) : List Nat :=
  match getD s.lft.livePaths sw [] with
  | [] => rangeFrom 0 (pathCount s sw)
  | l => l.map (· / 256)

/-- The hashed path of a frame (R140). -/
def hashPath (s : State) (f : Frame) (sw : Nat) : Nat :=
  let key := ((f.srcEp.toNat * 2 ^ 12 + f.ctx.toNat) * 2 ^ 3 + f.tc.toNat) * 2 ^ 12 + sw
  let l := pathsUsed s sw
  nth l ((crc32c (toBE 6 key)).toNat % l.length) 0

/-- The die and output of this switch that a frame leaves by; path is the path it takes to another switch. -/
def destOf (s : State) (f : Frame) (path : Nat) : Option (Die × Output) :=
  let sw := destSwitch f
  if answersFor s sw then
    if f.opcode = Opc.pathBarrier then some (reseqDie s (epSwitch f.srcEp.toNat), .agent)
    else if addrRouted f.opcode then
      if toSp f then some (s.cfg.activeSp, .sp) else some (serveDie s f, .home)
    else
      let i := epIndex (addrEp f.addr.toNat)
      if i = 0xFE then some (.d0, .agent)
      else if i = 0xFF then some (.d1, .agent)
      else
        match subOfIndex s i with
        | some (p, k) => some (portDie p, .sub p k)
        | none => none
  else
    match nextPort s (routeSwitch s sw) path with
    | some p => some (portDie p, .sub p 0)
    | none => none

/-- The port that a frame keeps while it crosses the stalk: the one of its path, which a change of the path set meanwhile does not move
(R143). -/
def keptPort (s : State) (f : Frame) (o : Output) : Option Nat :=
  match o with
  | .sub p _ => if answersFor s (destSwitch f) then none else some p
  | .stalk => none
  | .home => none
  | .sp => none
  | .agent => none

/-- Put a descriptor that stands on a die on its way, whatever the map shows: into the FIFO of its output, or of the stalk when that output lies on
the other die. With no way, it is discarded and its cells go back. -/
def putOnWay (d : Die) (x : Desc) (path : Nat) (s : State) : State :=
  match x.via with
  | some p => if portDie p = d then pushOut d (.sub p 0) { x with via := none } s else pushOut d .stalk x s
  | none =>
    match destOf s x.frame path with
    | some (e, o) => if e = d then pushOut d o x s else pushOut d .stalk { x with via := keptPort s x.frame o } s
    | none => freeCells d x.cells (leaveIngress x s)

/-- Does this switch spray a class toward a switch (R142, R146)? -/
def sprayed (s : State) (sw tc : Nat) : Bool := decide (tc ≤ 2) && (recOf s RT.route sw).elim false (fun b => bitAt (le b 1 1) tc)

/-- Send the next frame of a spray stream: it is numbered and takes the next path in turn, displaced by shift (R142, R467). -/
def sprayOut (d : Die) (x : Desc) (sw shift : Nat) (s : State) : State :=
  let k := sw * 8 + x.frame.tc.toNat
  let st := getD s.lft.spray k {}
  let l := pathsUsed s sw
  let path := nth l ((st.rr + shift) % l.length) 0
  let s1 := modLft s (fun l2 => { l2 with spray := put l2.spray k { st with nextNum := (st.nextNum + 1) % 2 ^ 32, rr := (st.rr + 1) % l.length } })
  putOnWay d { x with trailer := { path := BitVec.ofNat 3 path, sprayed := true, spreadSeq := BitVec.ofNat 32 st.nextNum } } path s1

/-- A frame enters the fabric here: within the switch it goes to its output; toward another switch it waits while a path barrier runs
or its spray window is full, and else takes the next sprayed or its hashed path (R140 to R143). -/
def enter (d : Die) (x : Desc) (shift : Nat) (s : State) : State :=
  let sw := routedTo s x.frame
  if answersFor s (destSwitch x.frame) then putOnWay d x 0 s
  else
    match get? s.lft.barrierTx sw with
    | some b => modLft s (fun l => { l with barrierTx := put l.barrierTx sw { b with held := b.held ++ [(dieNum d, x)] } })
    | none =>
      if sprayed s sw x.frame.tc.toNat then
        let k := sw * 8 + x.frame.tc.toNat
        let st := getD s.lft.spray k {}
        if !st.held.isEmpty || decide (64 ≤ (st.nextNum + 2 ^ 32 - st.acked) % 2 ^ 32) then
          modLft s (fun l => { l with spray := put l.spray k { st with held := st.held ++ [(dieNum d, x)] } })
        else sprayOut d x sw shift s
      else
        let path := hashPath s x.frame sw
        putOnWay d { x with trailer := { path := BitVec.ofNat 3 path } } path s

/-! What a die's agents send (R150, R151, R154) -/

/-- Do two frames draw on the same pool: one class, of TC7 one half (R130, R150)? -/
def samePool (a b : Frame) : Bool := a.tc == b.tc && tc7Req a == tc7Req b

/-- The cells of an agent transmit pool, of TC7 by half (R150). -/
def agentPool (tc : Nat) : Nat := nth [8192, 8192, 8192, 4096, 2048, 22528, 4096, 2048] tc 0

/-- The number of different cells that descriptors name: copies of one frame share theirs (R154). -/
def cellCount (l : List Desc) : Nat := ((l.flatMap (·.cells)).foldl (fun t c => insertNat c t) []).length

/-- The descriptors of a die whose cells are of its agents' pools. -/
def agentDescs (s : State) (d : Die) : List Desc :=
  let held := (s.lft.barrierTx.flatMap (·.2.held) ++ s.lft.spray.flatMap (·.2.held)).filter (fun x => x.1 == dieNum d)
  ((side s.swc d).fifos.flatMap (·.queue) ++ held.map (·.2)).filter (·.agent)

/-- The cells that descriptors of one pool take of its general part: those of each context beyond the cells reserved for it (R391). -/
def generalCells (s : State) (tc : Nat) (l : List Desc) (c extra : Nat) : Nat :=
  sumOf (((c :: l.map (fun x => x.frame.ctx.toNat)).eraseDups).map (fun k =>
    cellCount (l.filter (fun x => x.frame.ctx.toNat == k)) + (if k = c then extra else 0) - qosCells s k tc))

/-- Do a frame's cells fit the pool of its class now: first the cells reserved for its context, which are lent to no other, then the general ones
(R150, R151, R391)? -/
def agentRoom (s : State) (d : Die) (f : Frame) : Bool :=
  let tc := f.tc.toNat
  let l := (agentDescs s d).filter (fun x => samePool x.frame f)
  let kept := sumOf ((recsOf s RT.qos).map (fun r => qosCells s r.key tc))
  decide (generalCells s tc l f.ctx.toNat (cellsOf f.payload.length) ≤ agentPool tc - kept)

/-- Lies the output of a frame for this switch on the other die? -/
def farOutput (s : State) (d : Die) (f : Frame) : Bool :=
  answersFor s (destSwitch f) && (destOf s f 0).elim false (fun x => x.1 != d)

/-- Has a frame a way? One without is discarded. -/
def hasWay (s : State) (f : Frame) : Bool :=
  let sw := destSwitch f
  (get? s.lft.barrierTx (routedTo s f)).isSome || (destOf s f (if answersFor s sw then 0 else hashPath s f (routedTo s f))).isSome

/-- An agent's frame enters its outputs: written once, it is replicated for each output of the die, its copies for the other die as one entry of
the stalk; all copies share its cells (R154). -/
def launch (d : Die) (x : Desc) (s : State) : State :=
  match allocCells d (cellsOf x.frame.payload.length) s with
  | (cells, s1) =>
    if x.copies.isEmpty then enter d { x with cells := cells } 0 s1
    else
      let all := (x.frame :: x.copies).filter (hasWay s1)
      let near := all.filter (fun f => !farOutput s1 d f)
      let s2 := match all.filter (farOutput s1 d) with
        | [] => s1
        | f :: more => pushOut d .stalk { x with frame := f, cells := cells, copies := more } s1
      let s3 := near.foldl (fun t f => enter d { x with frame := f, cells := cells, copies := [] } 0 t) s2
      if all.isEmpty then freeCells d cells s3 else s3

/-- An agent submits a frame; where its class is exhausted in the agents' pool it holds it (R151), a wait that counts against QUOTA where the context's
own cells are exhausted too (R392). -/
def submit (d : Die) (x : Desc) (s : State) : State :=
  if (side s.swc d).agentHold.any (fun y => samePool y.frame x.frame) || !agentRoom s d x.frame then
    countWait x.frame.ctx.toNat (decide (0 < qosCells s x.frame.ctx.toNat x.frame.tc.toNat)) (modSwc s d (fun w => { w with agentHold := w.agentHold ++ [x] }))
  else launch d x s

/-- Send a frame that this switch makes. -/
def sendRaw (d : Die) (f : Frame) (s : State) : State := submit d { frame := f, agent := true } s

/-- Send the copies of one frame to several destinations: multicasts of at most 64 outputs, of which one may stand for up to 64 outputs of the
other die (R154). -/
def sendCopies (d : Die) (l : List Frame) (s : State) : State :=
  let near := chunksOf (l.length + 1) 63 (l.filter (fun f => !farOutput s d f))
  let far := chunksOf (l.length + 1) 64 (l.filter (farOutput s d))
  (rangeFrom 0 (max near.length far.length)).foldl (fun t i =>
    match nth near i [] ++ nth far i [] with
    | [] => t
    | f :: more => submit d { frame := f, copies := more, agent := true } t) s

/-- What a die's agents hold goes out, the oldest first, as the pools have room again (R151). -/
def releaseAgents (fuel : Nat) (d : Die) (s : State) : State :=
  match fuel with
  | 0 => s
  | n + 1 =>
    let l := (side s.swc d).agentHold
    match l.find? (fun x => agentRoom s d x.frame && l.find? (fun y => samePool y.frame x.frame) == some x) with
    | none => s
    | some x => releaseAgents n d (launch d x (modSwc s d (fun w => { w with agentHold := dropFirst (· == x) w.agentHold })))

/-- The next SEQ of a die's agents under a context (R125), used up. -/
def nextSeq (d : Die) (ctx : Nat) (s : State) : BitVec 24 × State :=
  (BitVec.ofNat 24 (getD (side s.swc d).agentSeq ctx 0),
    modSwc s d (fun w => { w with agentSeq := changeD w.agentSeq ctx 0 (fun n => (n + 1) % 2 ^ 24) }))

/-- The first tag from a number on that no request of the die's agents has (R126); those below 16,384 are the stream ports'. -/
def freeTag (s : State) (d : Die) : Nat :=
  let n := (side s.tier d).nextTag
  let used := (side s.tier d).trayReqs.map (·.tag) ++ (side s.col d).sends.map (·.tag)
  16384 + (n + (leastFrom (fun i => !used.contains (16384 + (n + i) % 49152)) 0 (used.length + 1)).getD 0) % 49152

/-- The state in which the tags after one that has been taken come next. -/
def useTag (d : Die) (tag : Nat) (s : State) : State := modTier s d (fun t => { t with nextTag := (tag - 16384 + 1) % 49152 })

/-- Send frames that are no requests in order. -/
def sendAll (d : Die) (l : List Frame) (s : State) : State := l.foldl (fun t f => sendRaw d f t) s

/-! Answering (R124, R129) -/

/-- A one-frame response of a die to a request. -/
def mkRsp (s : State) (d : Die) (req : Frame) (opc : Byte) (status : BitVec 5) (payload : Bytes) (opspec : BitVec 16) : Frame :=
  { opcode := opc, tc := if req.tc == 7#3 then 7#3 else 5#3, status := status, srcEp := BitVec.ofNat 20 (agentEp s d),
    ctx := req.ctx, seq := req.seq, tag := req.tag, fence := req.fence, addr := epAddr req.srcEp.toNat req.addr.toNat,
    length := BitVec.ofNat 16 payload.length, opspec := opspec, payload := payload }

/-- The frames of a response of any length: more than 4,096 bytes take several, numbered in OPSPEC, the last with LAST set
(R122). -/
def mkRsps (s : State) (d : Die) (req : Frame) (opc : Byte) (status : BitVec 5) (payload : Bytes) : List Frame :=
  if payload.length ≤ 4096 then [mkRsp s d req opc status payload 0]
  else
    let cs := chunksOf (payload.length / 4096 + 1) 4096 payload
    (rangeFrom 0 cs.length).map fun i =>
      { mkRsp s d req opc status (nth cs i []) (BitVec.ofNat 16 i) with last := i + 1 == cs.length }

/-- Answer a request from a die with its own response opcode. Its bytes are counted by the tap (R425). -/
def answer (d : Die) (req : Frame) (status : BitVec 5) (payload : Bytes) (s : State) : State :=
  sendAll d (mkRsps s d req (rspOpc req.opcode) status payload)
    (tapBytes d req.ctx.toNat (if req.tc == 7#3 then 7 else 5) 1 payload.length s)

/-- Refuse a request: an empty payload and a status. -/
def refuse (d : Die) (req : Frame) (status : BitVec 5) (s : State) : State :=
  sendRaw d (mkRsp s d req (rspOpc req.opcode) status [] 0) s

/-- Does the map show a switch LOST? -/
def lostSwitch (s : State) (sw : Nat) : Bool :=
  match get? s.flt.switches sw with
  | some e => e.st == .lost
  | none => false

/-- Is a frame a request to a switch that is LOST, which the first switch that routes it answers HOMELOST (R454)? -/
def toLost (s : State) (f : Frame) : Bool := isReq f.opcode && f.opcode != Opc.memSync && !answersFor s (destSwitch f) && lostSwitch s (destSwitch f)

/-- Refuse a request and, where it is combined, each of its constituents (R187). -/
def refuseEach (d : Die) (x : Desc) (st : BitVec 5) (s : State) : State := (x.frame :: x.more).foldl (fun t f => refuse d f st t) s

/-- Pass a frame from an ingress on; a request that would have to go to a LOST switch is answered HOMELOST here (R454). -/
def forward (d : Die) (x : Desc) (shift : Nat) (s : State) : State :=
  if toLost s x.frame then
    refuse d x.frame Sts.homelost (freeCells d x.cells (leaveIngress x s))
  else enter d x shift s

/-- Pass a frame that came from another switch on: to its output here, or on its path to the next switch (R140). -/
def transit (d : Die) (x : Desc) (s : State) : State :=
  if toLost s x.frame then
    refuseEach d x Sts.homelost (freeCells d x.cells (leaveIngress x s))
  else putOnWay d x x.trailer.path.toNat s

/-- An agent of a die sends a frame. -/
def sendFrom (d : Die) (f : Frame) (s : State) : State := if toLost s f then refuse d f Sts.homelost s else sendRaw d f s

/-- The entry of the home unit's input that holds one request, or the constituents of a combined one. -/
def inboxOf (s : State) (d : Die) (fs : List Frame) : Option Desc := (side s.home d).inbox.find? (fun x => x.frame :: x.more == fs)

/-- The home unit's input without an entry. -/
def dropInbox (d : Die) (fs : List Frame) (s : State) : State :=
  modHome s d (fun h => { h with
    inbox := dropFirst (fun y => y.frame :: y.more == fs) h.inbox,
    agedIn := h.agedIn.filter (fun k => !fs.any (fun f => keyOf f == k.1)) })

/-- Take a request, with the constituents of a combined one, out of the home unit's input if it stands there: it leaves its ingress allocation
(R152). -/
def takeHomeAll (d : Die) (fs : List Frame) (s : State) : State :=
  match inboxOf s d fs with
  | none => s
  | some x => freeCells d x.cells (leaveIngress x (dropInbox d fs s))

/-- Take a request out of the home unit's input if it stands there. -/
def takeHome (d : Die) (f : Frame) (s : State) : State := takeHomeAll d [f] s

/-- Take a frame out of the service processor's input if it stands there, whatever hops it has taken. -/
def takeSp (f : Frame) (s : State) : State :=
  modCfg s (fun c => { c with spInbox := dropFirst (fun x => { x with hop := f.hop } == f) c.spInbox })

/-- An access to the window by an opcode other than LD and ST completes with FORMAT (R111). -/
def windowMisuse (f : Frame) (s : State) : State :=
  if s.cfg.authWait.isSome then s else refuse s.cfg.activeSp f Sts.format (takeSp f s)

/-- Take a frame out of a die's agent input if it stands there. -/
def takeAgent (d : Die) (f : Frame) (s : State) : State :=
  modSwc s d (fun w => { w with agentInbox := dropFirst (fun x => x == f) w.agentInbox })

/-! Control commands: the request as a frame, its answer (R106, R109) -/

/-- The frame of a control command. -/
def ctlFrame (code : Nat) (r : CtlReq) : Frame :=
  { opcode := Opc.ctlReq, tc := 7#3, srcEp := r.srcEp, ctx := r.ctx, seq := r.seq, tag := r.tag, fence := r.fence,
    addr := r.addr, length := BitVec.ofNat 16 r.lftLen,
    payload := toBE 2 code ++ toBE 2 r.bodyFormat ++ toBE 4 r.cmdSeq.toNat ++ toBE 4 r.argLength ++ toBE 4 r.zero12 ++ r.args }

/-- Send a CTL_RSP from a die, in as many frames as it takes (R106, R122). -/
def sendCtlRsp (d : Die) (code : Nat) (r : CtlReq) (status : BitVec 5) (detail : Nat) (results : Bytes) (s : State) : State :=
  sendAll d (mkRsps s d (ctlFrame code r) Opc.ctlRsp status
    (toBE 2 code ++ toBE 2 1 ++ toBE 4 r.cmdSeq.toNat ++ toBE 4 results.length ++ toBE 4 detail ++ results)) s

/-- Hold the response of an executed command: the newest CMD_SEQ, and the last 16 responses of its source (R109). -/
def holdRsp (code : Nat) (r : CtlReq) (status : BitVec 5) (detail : Nat) (results : Bytes) (s : State) : State :=
  let h : HeldRsp := ⟨r.cmdSeq, code, status, detail, results⟩
  modCfg s (fun c => { c with
  cmdSeq := put c.cmdSeq r.srcEp.toNat
    ⟨r.cmdSeq, (h :: ((get? c.cmdSeq r.srcEp.toNat).elim [] (·.held))).take 16⟩ })

/-- The answer of an executed command: held, and sent from the active service processor's die. The status of a BS_END or BS_ACTIVATE that
fails is CFG.CFG_STATUS.LAST_STATUS (R96, R114). -/
def ctlAnswer (code : Nat) (r : CtlReq) (status : BitVec 5) (detail : Nat) (results : Bytes) (s0 : State) : State :=
  let s := if (code == 0x13 || code == 0x15) && status != Sts.ok then modCfg s0 (fun c => { c with lastStatus := status }) else s0
  let s1 := holdRsp code r status detail results s
  sendCtlRsp s1.cfg.activeSp code r status detail results s1

/-- The answer of a job command at its acceptance: OK and the JOB number (R492). -/
def jobAnswer (code : Nat) (r : CtlReq) (job : Nat) (s : State) : State :=
  ctlAnswer code r Sts.ok 0 (toLE 4 job ++ zeros 4) s

/-! The journal (R273, R274) -/

/-- The TYPE of a journal record (R274); the types of records that other structures own are not given. -/
def jType (b : JBody) : Nat :=
  match b with
  | .mapSet _ _ _ => 0x0101
  | .mapGroup _ _ => 0x0102
  | .erasePending _ _ _ => 0x0103
  | .blockFree _ _ _ _ => 0x0104
  | .blockRetire _ _ _ => 0x0105
  | .blockOpen _ _ _ _ _ _ => 0x0106
  | .trayJoin _ _ _ => 0x0107
  | .hours _ => 0x0108
  | .ckptBegin _ _ => 0x01F0
  | .ckptEnd _ _ _ => 0x01F1
  | .config _ => Config.recType 0 % 2 ^ 16
  | .commit _ _ => Config.recType 1 % 2 ^ 16
  | .object _ => Config.recType 2 % 2 ^ 16
  | .session _ => Config.recType 3 % 2 ^ 16
  | .rwl _ => Config.recType 4 % 2 ^ 16
  | .preferred _ => Config.recType 5 % 2 ^ 16
  | .stepEpoch _ _ => Config.recType 6 % 2 ^ 16
  | .map _ => Config.recType 7 % 2 ^ 16
  | .xferOut _ => Config.recType 8 % 2 ^ 16
  | .xferIn _ => Config.recType 9 % 2 ^ 16
  | .xferCommit _ => Config.recType 10 % 2 ^ 16
  | .tapSeq _ => Config.recType 11 % 2 ^ 16
  | .escrow _ => Config.recType 12 % 2 ^ 16

/-- The body of a journal record: its fields in the order of R274. DESIGN CHOICE (log 21): the widths, which the manual does not give. -/
def jBody (b : JBody) : Bytes :=
  let blk := fun (v p a : Nat) => toLE 4 v ++ toLE 4 (p * 2 ^ 20 + a)
  match b with
  | .mapSet v u e => toLE 4 v ++ toLE 4 u ++ toLE 8 e.toNat
  | .mapGroup v ps => toLE 4 v ++ toLE 4 ps.length ++ ps.flatMap (fun x => toLE 8 x.1 ++ toLE 8 x.2.toNat)
  | .erasePending v p a => blk v p a
  | .blockFree v p a n => blk v p a ++ toLE 4 n
  | .blockRetire v p a => blk v p a
  | .blockOpen v p a slc h t => blk v p a ++ toLE 4 (b2n slc) ++ toLE 4 h ++ toLE 4 (BitVec.ofInt 32 t).toNat
  | .trayJoin v i n => toLE 4 v ++ toLE 4 i ++ toLE 8 n
  | .hours h => toLE 4 h
  | .ckptBegin y n => toLE 4 (b2n y) ++ toLE 4 0 ++ toLE 8 n
  | .ckptEnd y n g => toLE 4 (b2n y) ++ toLE 4 0 ++ toLE 8 n ++ fit g 32
  | .config cs => cs.flatMap (fun c => toLE 2 c.type ++ toLE 2 0 ++ toLE 4 c.body.length ++ toLE 8 c.key ++ c.body)
  | .commit j g => toLE 8 j ++ toLE 8 g
  | .object n => toLE 8 n
  | .session n => toLE 8 n
  | .rwl n => toLE 8 n
  | .preferred x => toLE 8 (b2n x)
  | .stepEpoch c n => toLE 8 c ++ toLE 8 n
  | .map n => toLE 8 n
  | .xferOut n => toLE 8 n
  | .xferIn n => toLE 8 n
  | .xferCommit n => toLE 8 n
  | .tapSeq n => toLE 8 n
  | .escrow n => toLE 8 n

/-- The bytes of a journal record before its CRC (R274). -/
def jHead (lsn : Nat) (b : JBody) : Bytes :=
  let body := jBody b
  toLE 8 lsn ++ toLE 2 (jType b) ++ zeros 2 ++ toLE 4 body.length ++ body

/-- A journal record under an LSN: header, body and CRC, padded to a multiple of 8 bytes (R274). -/
def jRecord (lsn : Nat) (b : JBody) : Bytes :=
  let r := jHead lsn b ++ toLE 4 (crc32c (jHead lsn b)).toNat
  r ++ zeros (ceilDiv r.length 8 * 8 - r.length)

/-- The size of a journal record in the ring. -/
def jSize (b : JBody) : Nat := ceilDiv (20 + (jBody b).length) 8 * 8

/-- The bytes of a die's journal ring (R273). -/
def ringCap : Nat := 64 * 2 ^ 30

/-- Does a record find no space in a die's ring (R276)? -/
def ringFull (s : State) (d : Die) (n : Nat) : Bool :=
  let x := side s.ftl d
  !x.ringWait.isEmpty || decide (ringCap < x.ringBytes + n)

/-- A record enters the ring: it takes the next LSN. At 90 % of the ring JOURNAL_HIGH is set (R276). -/
def ringPut (d : Die) (b : JBody) (s : State) : State :=
  let n := jSize b
  let before := (side s.ftl d).ringBytes
  let s1 := modFtl s d (fun x => { x with
    ring := x.ring ++ [⟨x.nextLsn, n, b, crc32c (jHead x.nextLsn b)⟩], nextLsn := x.nextLsn + 1,
    ringBytes := x.ringBytes + n, sinceCkpt := x.sinceCkpt + 1 })
  if before * 10 < ringCap * 9 ∧ ringCap * 9 ≤ (before + n) * 10 then setStatus (.ftl d) 6 s1 else s1

/-- Write a journal record on a die: into the ring, or behind the records that wait for the ring (R276). -/
def journal (d : Die) (b : JBody) (s : State) : State :=
  if ringFull s d (jSize b) then modFtl s d (fun x => { x with ringWait := x.ringWait ++ [b] }) else ringPut d b s

end Machine
end Sys2Proof
end

