-- ==== Sys2Proof/Machine/Codec.lean ====
section
/-! DEFINITION. Codebooks and blocks: canonical codes, encoding, decoding and its checks (R366 to R372). -/

namespace Sys2Proof
namespace Machine

/-- The code length of symbol sym in table t (R368). -/
def codeLen (lens : Bytes) (t sym : Nat) : Nat := (nth lens (256 * t + sym) 0).toNat

/-- The codes of one length, from a symbol on: symbol, length, code (R369). -/
def codesOfLen (lens : Bytes) (t len : Nat) (syms : List Nat) (code : Nat) : List (Nat × Nat × Nat) × Nat :=
  match syms with
  | [] => ([], code)
  | y :: r =>
    if codeLen lens t y = len then
      match codesOfLen lens t len r (code + 1) with
      | (l, c) => ((y, len, code) :: l, c)
    else codesOfLen lens t len r code

/-- The canonical codes of a table (R369): length by length, in symbol order, the code doubled after each length. -/
def canonical (lens : Bytes) (t : Nat) (sizes : List Nat) (code : Nat) : List (Nat × Nat × Nat) :=
  match sizes with
  | [] => []
  | len :: r =>
    match codesOfLen lens t len (rangeFrom 0 256) code with
    | (l, c) => l ++ canonical lens t r (c * 2)

/-- The canonical codes of table t. -/
def tableCodes (lens : Bytes) (t : Nat) : List (Nat × Nat × Nat) := canonical lens t (rangeFrom 1 15) 0

/-- A code as bits, most significant first. -/
def codeBits (len code : Nat) : List Bool := (rangeFrom 0 len).map (fun i => bitAt code (len - 1 - i))

/-- Eight bits as a byte, most significant first; a short group is padded with zeros. -/
def packByte (l : List Bool) : Byte :=
  BitVec.ofNat 8 ((rangeFrom 0 8).foldl (fun a i => 2 * a + b2n (nth l i false)) 0)

/-- Bits as bytes, zero padding at the end (R367). -/
def packBits (l : List Bool) : Bytes := (chunksOf (l.length + 1) 8 l).map packByte

/-- Bytes as bits, each byte from its most significant bit (R367). -/
def unpackBits (b : Bytes) : List Bool := b.flatMap (fun x => (rangeFrom 0 8).map (fun i => bitAt x.toNat (7 - i)))

/-- The header of a block (R366). -/
def blockHeader (mode slot raw gen bits : Nat) : Bytes :=
  [BitVec.ofNat 8 mode, BitVec.ofNat 8 slot] ++ toLE 2 raw ++ toLE 2 gen ++ toLE 2 bits

/-- The total of the code lengths of raw bytes from index i on; none where one has no code (R370). -/
def codedBits (tables : Nat) (lens raw : Bytes) (i : Nat) : Option Nat :=
  match raw with
  | [] => some 0
  | x :: r =>
    let n := codeLen lens (i % tables) x.toNat
    if n = 0 then none else (codedBits tables lens r (i + 1)).map (n + ·)

/-- The code of a symbol among a table's codes. -/
def codeOf (codes : List (Nat × Nat × Nat)) (sym : Nat) : Nat × Nat :=
  match codes.find? (fun c => c.1 == sym) with
  | some c => c.2
  | none => (0, 0)

/-- The stream of the codes of raw bytes from index i on. -/
def codeStream (tabs : List (List (Nat × Nat × Nat))) (raw : Bytes) (i : Nat) : List Bool :=
  match raw with
  | [] => []
  | x :: r =>
    let c := codeOf (nth tabs (i % tabs.length) []) x.toNat
    codeBits c.1 c.2 ++ codeStream tabs r (i + 1)

/-- The block that every encoder makes of raw bytes (R370); cb is the codebook of the named slot if it is VALID. -/
def encodeWith (cb : Option Codebook) (slot : Nat) (rawOnly : Bool) (raw : Bytes) : Bytes :=
  let asRaw := blockHeader 0 0 raw.length 0 0 ++ raw
  if raw.all (· == 0) then blockHeader 1 0 raw.length 0 0
  else if rawOnly then asRaw
  else
    match cb with
    | none => asRaw
    | some c =>
      match codedBits c.tables c.lengths raw 0 with
      | none => asRaw
      | some n =>
        if ceilDiv n 8 ≤ raw.length * 15 / 16 then
          blockHeader 2 slot raw.length c.gen n ++
            packBits (codeStream ((rangeFrom 0 c.tables).map (tableCodes c.lengths)) raw 0)
        else asRaw

/-- The codebook of a slot, if it decodes. -/
def decodingBook (s : State) (slot : Nat) : Option Codebook :=
  match get? s.cmp.slots slot with
  | some c => if c.phase = .free then none else some c
  | none => none

/-- The codebook of a slot, if it encodes. -/
def encodingBook (s : State) (slot : Nat) : Option Codebook :=
  match get? s.cmp.slots slot with
  | some c => if c.phase = .valid then some c else none
  | none => none

/-- The block that an encoder of the device makes. -/
def encodeBlock (s : State) (slot : Nat) (rawOnly : Bool) (raw : Bytes) : Bytes :=
  encodeWith (encodingBook s slot) slot rawOnly raw

/-- One symbol from the front of a stream: the shortest code among a table's codes that the bits read so far spell; none
where the stream ends or 15 bits spell none (R371). -/
def readSymbol (fuel : Nat) (codes : List (Nat × Nat × Nat)) (bits : List Bool) (code len : Nat) : Option (Nat × List Bool) :=
  match fuel, bits with
  | 0, _ => none
  | _, [] => none
  | k + 1, b :: r =>
    let code2 := code * 2 + b2n b
    match codes.find? (fun c => c.2.1 == len + 1 && c.2.2 == code2) with
    | some c => some (c.1, r)
    | none => readSymbol k codes r code2 (len + 1)

/-- The raw bytes of a stream: none where a code is not valid or bits are left over. -/
def readSymbols (tabs : List (List (Nat × Nat × Nat))) (n i : Nat) (bits : List Bool) : Option Bytes :=
  match n with
  | 0 => if bits.isEmpty then some [] else none
  | k + 1 =>
    match readSymbol 15 (nth tabs (i % tabs.length) []) bits 0 0 with
    | none => none
    | some (y, r) => (readSymbols tabs k (i + 1) r).map (BitVec.ofNat 8 y :: ·)

/-- The body of a CODED block against a codebook (R371 check 5). -/
def decodeBody (c : Codebook) (raw n : Nat) (body : Bytes) : Option Bytes :=
  let bits := unpackBits body
  if (bits.drop n).all (· == false) then
    readSymbols ((rangeFrom 0 c.tables).map (tableCodes c.lengths)) raw 0 (bits.take n)
  else none

/-- The raw bytes of a block that passes every check of R371; none where it fails. book looks a slot's decoding codebook up;
declared and lftSlot are what the block's context states, where it states one. -/
def decodeWith (book : Nat → Option Codebook) (declared lftSlot : Option Nat) (b : Bytes) : Option Bytes :=
  let mode := le b 0 1
  let slot := le b 1 1
  let raw := le b 2 2
  let gen := le b 4 2
  let n := le b 6 2
  if b.length < 8 ∨ 2 < mode ∨ 15 < slot then none
  else if raw < 1 ∨ 4096 < raw ∨ declared.elim false (fun d => d != raw) then none
  else if lftSlot.elim false (fun k => k != slot) then none
  else if mode = 2 then
    match book slot with
    | none => none
    | some c =>
      if c.gen ≠ gen ∨ n < 1 ∨ 30720 < n ∨ b.length ≠ 8 + ceilDiv n 8 then none
      else decodeBody c raw n (b.drop 8)
  else if slot ≠ 0 ∨ gen ≠ 0 ∨ n ≠ 0 then none
  else if mode = 0 then if b.length = 8 + raw then some (b.drop 8) else none
  else if b.length = 8 then some (zeros raw) else none

/-- A decoder of the device: the raw bytes, and the status bits and counters of its die (R372, R375, R377). -/
def decodeAt (d : Die) (declared lftSlot : Option Nat) (b : Bytes) (s : State) : Option Bytes × State :=
  let late := le b 0 1 == 2 && (match get? s.cmp.slots (le b 1 1) with
    | some c => c.phase == .retiring
    | none => false)
  let s1 := if late then setStatus (.cmp d) 1 s else s
  match decodeWith (decodingBook s) declared lftSlot b with
  | some raw =>
    (some raw, { s1 with
    cmp := { s1.cmp with
      decodedRaw := upd s1.cmp.decodedRaw d (fun v => (v + raw.length) % 2 ^ 64),
      decodedCoded := upd s1.cmp.decodedCoded d (fun v => (v + b.length) % 2 ^ 64) } })
  | none => (none, setStatus (.cmp d) 0 s1)

/-- The payload and CMP, SLOT fields of a response in which a home or node may code the raw bytes for a context (R373). -/
def codedPayload (s : State) (c : Nat) (raw : Bytes) : Bytes × Bool × BitVec 4 :=
  let e := (getD s.cmp.ctxCode c 0).toNat
  if bitAt e 8 ∧ 0 < raw.length ∧ raw.length ≤ 4096 then
    let b := encodeBlock s (e % 16) false raw
    if le b 0 1 = 0 then (raw, false, 0) else (b, true, BitVec.ofNat 4 (le b 1 1))
  else (raw, false, 0)

end Machine
end Sys2Proof
end

