-- ==== Sys2Proof/Machine/Records.lean ====
section
/-! DEFINITION. What makes a record, and a change of the record set, acceptable (R100 and the owning chapters' tables). A check
answers none when the record passes and the refusing status otherwise. -/

namespace Sys2Proof
namespace Machine

/-! The memory keys (R403, R421) -/

/-- OWNER_DIGEST: of the owner key, or 32 zero bytes while there is none. -/
def ownerDigest (s : State) : Bytes :=
  match s.sec.ownerKey with
  | some k => fit (Config.shake256 k 32) 32
  | none => zeros 32

/-- The memory root key (R403). -/
def memRootKey (s : State) : Bytes := fit (Config.kmac256 Config.dus (ownerDigest s) 32 3) 32

/-- The key of a context: of its number and its KEY_GEN (R379, R403). -/
def ctxKey (s : State) (c : Nat) : Bytes :=
  fit (Config.kmac256 (memRootKey s) (toLE 2 c ++ toLE 4 ((recOf s RT.context c).elim 0 (fun b => le b 8 4))) 64 4) 64

/-- The first refusal of a list of checks, in order. -/
def firstBad (l : List (Option (BitVec 5))) : Option (BitVec 5) := l.findSome? id

/-- FORMAT unless the test holds. -/
def need (b : Bool) : Option (BitVec 5) := if b then none else some Sts.format

/-- LENGTH unless the test holds. -/
def needLen (b : Bool) : Option (BitVec 5) := if b then none else some Sts.length

/-! One record alone (order 3) -/

/-- Is a mode code valid for a port (R115)? -/
def modeOk (port mode : Nat) : Bool :=
  if port = 64 then mode == 0x11 || mode == 0x12 else mode == 1 || mode == 2 || mode == 4 || mode == 8

/-- Are the SUBLINK_EP bytes right for the port and mode (R145)? -/
def subEpsOk (port mode : Nat) (l : List Nat) : Bool :=
  let n := subsOfMode mode
  let used := (l.take n).drop 1
  l.head? == some port && used.all (fun x => decide (0x41 ≤ x) && decide (x ≤ 0xFD)) && decide used.Nodup &&
    (l.drop n).all (· == 0)

/-- PORT (R145). -/
def portAlone (key : Nat) (b : Bytes) : Option (BitVec 5) :=
  let role := le b 0 1
  let mode := le b 1 1
  let link := le b 2 1
  let mac := le b 3 1
  firstBad [
    need (decide (key ≤ 64) && b.length == 64),
    need (decide (role ≤ 5) && ((role == 5) == (key == 64)) && modeOk key mode && decide (link ≤ 1) && decide (mac ≤ 1)),
    need (!(role == 4 && (link == 1 || mac == 0))),
    need (subEpsOk key mode ((slice b 4 8).map (·.toNat))),
    need (decide (68 ≤ le b 40 4) && decide (le b 44 2 < 4096) && decide (le b 46 2 ≤ 2000)),
    need (decide (le b 48 2 < 4096) && (role == 4 || le b 48 2 == 0) && zeroAt b 56 8)]

/-- ROUTE (R146). -/
def routeAlone (key : Nat) (b : Bytes) : Option (BitVec 5) :=
  let n := le b 0 1
  firstBad [
    need (decide (key < 4096) && b.length == 32),
    need (decide (1 ≤ n) && decide (n ≤ 8) && decide (le b 1 1 < 8) && decide (le b 2 1 < 8) && decide (le b 3 1 < 2)),
    need ((rangeFrom 0 3).all (fun t => !bitAt (le b 2 1) t || decide (le b (4 + t) 1 < 128)) && zeroAt b 7 1),
    need (((slice b 8 8).take n).all (fun x => decide (x.toNat < 64)) && ((slice b 8 8).drop n).all (· == 0) && zeroAt b 16 16)]

/-- TRAY (R233). -/
def trayAlone (key : Nat) (b : Bytes) : Option (BitVec 5) :=
  let t := le b 0 1
  let cap := le b 8 8
  let base := le b 16 8
  firstBad [
    need (decide (key < 64) && b.length == 32 && (t == 1 || t == 2) && zeroAt b 2 6 && zeroAt b 24 8),
    need (if t = 1 then decide (le b 1 1 < 16) && decide (2 ^ 21 ≤ cap) && decide (cap ≤ 2 ^ 46) && cap % 2 ^ 21 == 0 && base % 2 ^ 21 == 0
      else le b 1 1 == 0 && cap == 0 && base == 0)]

/-- FTL_VOLUME (R257). -/
def volumeAlone (key : Nat) (b : Bytes) : Option (BitVec 5) :=
  let n := le b 2 1
  firstBad [
    need (decide (key < 16) && b.length == 32 && decide (le b 0 1 < 2) && decide (le b 1 1 < 2) && decide (1 ≤ n) && decide (n ≤ 16)),
    need (if le b 1 1 = 0 then decide (le b 3 1 < 16) else le b 3 1 == 0),
    need (((slice b 4 16).drop n).all (· == 0xFF#8) && decide (70 ≤ le b 20 2) && decide (le b 20 2 ≤ 500) &&
      decide (20 ≤ le b 22 2) && decide (le b 22 2 ≤ 200) && zeroAt b 24 8),
    if le b 1 1 = 1 ∧ 64 * 2 ^ 40 < volUnits b * 4096 then some Sts.length else none]

/-- Are numbers strictly rising? -/
def rising (l : List Nat) : Bool :=
  match l with
  | [] => true
  | a :: r => (match r with
    | [] => true
    | c :: _ => decide (a < c)) && rising r

/-- DIR_LAYOUT (R199). -/
def dirAlone (key : Nat) (b : Bytes) : Option (BitVec 5) :=
  let nd := le b 0 2
  let nb := le b 4 4
  let doms := rangeFrom 0 nd
  let base := 16 + 1032 * nd
  let binds := rangeFrom 0 nb
  firstBad [
    need (decide (key < 2) && decide (16 ≤ b.length)),
    needLen (decide (1 ≤ nd) && decide (nd ≤ 32) && decide (nb ≤ 32768)),
    needLen (doms.all (fun i => decide (1 ≤ le b (18 + 1032 * i) 2) && decide (le b (18 + 1032 * i) 2 ≤ 256))),
    need (b.length == base + 8 * nb && zeroAt b 2 2 && zeroAt b 8 8),
    need (rising (doms.map (fun i => le b (16 + 1032 * i) 1)) && le b 16 1 == 0 &&
      doms.all (fun i =>
        let o := 16 + 1032 * i
        let n := le b (o + 2) 2
        let ms := (rangeFrom 0 n).map (fun k => le b (o + 8 + 4 * k) 4)
        decide (le b o 1 < 32) && zeroAt b (o + 1) 1 && zeroAt b (o + 4) 4 && ms.all (fun m => decide (m < 2 ^ 20)) &&
          decide ms.Nodup && zeroAt b (o + 8 + 4 * n) (1024 - 4 * n))),
    need (rising (binds.map (fun i => le b (base + 8 * i) 4)) &&
      binds.all (fun i => decide (le b (base + 8 * i) 4 < 2 ^ 20) && zeroAt b (base + 8 * i + 5) 3 &&
        doms.any (fun k => le b (16 + 1032 * k) 1 == le b (base + 8 * i + 4) 1)))]

/-- CONTEXT (R379). -/
def contextAlone (key : Nat) (b : Bytes) : Option (BitVec 5) :=
  need (decide (key < 4096) && b.length == 32 && decide (le b 0 4 < 2 ^ 20) && decide (le b 6 1 < 2) && zeroAt b 7 1 && zeroAt b 12 20)

/-- ADMIT (R380). -/
def admitAlone (key : Nat) (b : Bytes) : Option (BitVec 5) :=
  need (decide (key < 2 ^ 20) && b.length == 8 && decide (le b 0 8 < 2 ^ 20))

/-- QOS (R388). -/
def qosAlone (key : Nat) (b : Bytes) : Option (BitVec 5) :=
  firstBad [
    need (decide (key < 4096) && b.length == 32 && (slice b 0 5).all (fun x => x != 0) && zeroAt b 5 3 && zeroAt b 18 2 && zeroAt b 24 8),
    need ((rangeFrom 0 5).all (fun i => decide (le b (8 + 2 * i) 2 ≤ 12800))),
    needLen (decide (le b 20 2 ≤ 16384) && decide (le b 22 2 ≤ 4096))]

/-- Is the combination of class, durability and tier policy valid (R64)? -/
def policyOk (cls durable policy : Nat) : Bool :=
  if cls = 0 then durable == 0 && (policy == 1 || policy == 2)
  else if durable = 0 then decide (policy ≤ 4)
  else policy == 3

/-- EXTENT (R68): a size above R63 and a range that enters the control window are LENGTH. -/
def extentAlone (key : Nat) (b : Bytes) : Option (BitVec 5) :=
  firstBad [
    need (decide (key < 2 ^ 20) && b.length == 32 && le b 0 8 % 2 ^ 21 == 0 && decide (le b 0 8 < 2 ^ 52) && decide (1 ≤ le b 8 4)),
    need (decide (1 ≤ le b 12 2) && decide (le b 12 2 < 4096) && decide (le b 14 1 < 2) && decide (le b 15 1 < 2)),
    need (policyOk (le b 14 1) (le b 15 1) (le b 16 1) && decide (le b 17 1 < 2) && fld (le b 18 2) 14 10 == 0 && zeroAt b 22 10),
    needLen (decide (le b 8 4 ≤ 2147481600) && decide (le b 0 8 + le b 8 4 * 2 ^ 21 ≤ winBase))]

/-- GRANT (R69). -/
def grantAlone (key : Nat) (b : Bytes) : Option (BitVec 5) :=
  let r := le b 6 1
  need (decide (key < 2 ^ 22) && b.length == 8 && decide (le b 0 4 < 2 ^ 20) && decide (le b 4 2 < 4096) && decide (0 < r) &&
    decide (r < 16) && !(bitAt r 2 && !bitAt r 1) && zeroAt b 7 1)

/-- The Kraft sum of a table of code lengths, in units of 2^-15 (R368). -/
def kraft (l : Bytes) : Nat := sumOf (l.map (fun x => if x = 0 then 0 else 2 ^ (15 - x.toNat)))

/-- CODEBOOK (R368). -/
def codebookAlone (key : Nat) (b : Bytes) : Option (BitVec 5) :=
  let t := le b 2 1
  let tabs := (rangeFrom 0 t).map (fun i => slice b (16 + 256 * i) 256)
  firstBad [
    need (decide (key < 16) && decide (16 ≤ b.length) && (t == 1 || t == 2 || t == 4)),
    needLen (b.length == 16 + 256 * t),
    need (le b 0 2 == 1 && zeroAt b 3 1 && decide (1 ≤ le b 4 2) && decide (le b 4 2 ≤ 0xFFFE) && zeroAt b 6 2 && le b 8 8 != 0),
    need (tabs.all (fun l => l.all (fun x => decide (x.toNat ≤ 15)) && l.any (fun x => x != 0) && decide (kraft l ≤ 2 ^ 15)))]

/-- PROGRAM (R311). -/
def programAlone (key : Nat) (b : Bytes) : Option (BitVec 5) :=
  let n := le b 4 4
  firstBad [
    need (decide (key < 256) && decide (32 ≤ b.length) && le b 0 2 == 1 && decide (le b 2 1 < 4) && n % 8 == 0 && zeroAt b 16 16),
    needLen (decide (1 ≤ le b 3 1) && decide (le b 3 1 ≤ 16) && decide (8 ≤ n) && decide (n ≤ 65536) &&
      decide (256 ≤ le b 12 4) && decide (le b 12 4 ≤ 262144)),
    need (b.length == 32 + n && decide (le b 8 4 < n / 8))]

/-- SERVICE (R312, R336, R362). -/
def serviceAlone (key : Nat) (b : Bytes) : Option (BitVec 5) :=
  let k := le b 0 1
  firstBad [
    need (decide (key < 64) && b.length == 64 && decide (1 ≤ k) && decide (k ≤ 4) && decide (le b 1 1 < 64) && zeroAt b 4 28),
    need (if k = 1 then decide (1 ≤ le b 32 4) && decide (le b 32 4 ≤ 16384) && zeroAt b 36 28
      else if k = 4 then decide (1 ≤ le b 32 1) && decide (le b 32 1 ≤ 16) && zeroAt b 33 31
      else zeroAt b 32 32)]

/-- PARTITION (R313). -/
def partitionAlone (key : Nat) (b : Bytes) : Option (BitVec 5) :=
  let n := le b 8 2
  firstBad [
    need (decide (key < 64) && b.length == 80 && decide (le b 0 1 < 2) && decide (le b 1 1 < 2) && zeroAt b 4 4 && zeroAt b 10 6),
    need (decide (le b 2 2 < 4096) && (le b 1 1 == 1) == (le b 2 2 != 0)),
    need (decide (1 ≤ n) && decide (n ≤ 512) && (partSlots b).length == n)]

/-- COMPOSITION (R463). -/
def compositionAlone (key : Nat) (b : Bytes) : Option (BitVec 5) :=
  let ns := le b 0 1
  let ne := le b 2 2
  firstBad [
    need (decide (key < 1024) && decide (16 ≤ b.length) && decide (1 ≤ ns) && decide (ns ≤ 64) && zeroAt b 1 1 && decide (ne ≤ 1024)),
    need (b.length == 16 + 4 * ns + 4 * ne && decide (le b 4 2 < 4096) && zeroAt b 6 10),
    need ((rangeFrom 0 ns).all (fun i => decide (le b (16 + 4 * i) 4 < 4096)) &&
      (rangeFrom 0 ne).all (fun i => decide (le b (16 + 4 * ns + 4 * i) 4 < 2 ^ 20)))]

/-- REPLICA_SET (R457). -/
def replicaAlone (key : Nat) (b : Bytes) : Option (BitVec 5) :=
  let n := le b 0 1
  firstBad [
    need (decide (1 ≤ key) && decide (key < 65536) && decide (16 ≤ b.length) && decide (2 ≤ n) && decide (n ≤ 8) && decide (le b 1 1 < 2)),
    need (b.length == 16 + 8 * n && fld (le b 2 2) 14 10 == 0 && zeroAt b 4 12),
    need ((rangeFrom 0 n).all (fun i => decide (le b (16 + 8 * i) 2 < 4096) && zeroAt b (18 + 8 * i) 2 && decide (le b (20 + 8 * i) 4 < 2 ^ 20)) &&
      decide ((replicaMembers b).map (·.1)).Nodup)]

/-- RANK_GROUP (R318, R319). -/
def rankGroupAlone (key : Nat) (b : Bytes) : Option (BitVec 5) :=
  let g := grpView b
  firstBad [
    need (decide (key < 1024) && decide (32 ≤ b.length)),
    needLen (decide (1 ≤ g.ranks) && decide (g.ranks ≤ 65536) && decide (2 ≤ g.fanin) && decide (g.fanin ≤ 64) &&
      decide (1 ≤ g.open_) && decide (g.open_ ≤ 16) && decide (1 ≤ g.window) && decide (g.window ≤ 64)),
    need (g.nodes == sumOf (grpLevels g) && decide (le b 7 1 < 2) && decide (le b 8 2 < 4096) && decide (le b 10 2 < 1024) && zeroAt b 16 16),
    need (b.length == 32 + 4 * g.ranks + 4 * g.nodes),
    need ((rangeFrom 0 g.ranks).all (fun r => decide (le b (32 + 4 * r) 4 < 2 ^ 20)) &&
      decide ((rangeFrom 0 g.ranks).map (rankEp b)).Nodup &&
      (rangeFrom 0 g.nodes).all (fun i => decide (le b (32 + 4 * g.ranks + 4 * i) 4 < 2 ^ 19)))]

/-- SWITCH, MAP_KEEPER, HOMEMAP_ENTRY (R443). -/
def federationAlone (type key : Nat) (b : Bytes) : Option (BitVec 5) :=
  if type = RT.switch then
    need (key == 0 && b.length == 32 && decide (le b 0 2 < 4096) && (le b 2 1 == 3 || le b 2 1 == 5) && decide (le b 3 1 < 4) && zeroAt b 12 20)
  else if type = RT.mapKeeper then need (decide (key < 4096) && b.length == 8 && decide (le b 0 1 < 5) && zeroAt b 1 7)
  else need (decide (key < 4096) && b.length == 8 && le b 0 2 == key && zeroAt b 2 6)

/-- Is a type code one of R88's? -/
def typeKnown (t : Nat) : Bool :=
  [RT.switch, RT.mapKeeper, RT.homemapEntry, RT.port, RT.route, RT.tray, RT.ftlVolume, RT.dirLayout, RT.context, RT.admitRec, RT.qos,
   RT.extent, RT.grant, RT.codebook, RT.program, RT.service, RT.partition, RT.composition, RT.replicaSet, RT.rankGroup].contains t

/-- The check of order 3 for one record body. -/
def bodyAlone (type key : Nat) (b : Bytes) : Option (BitVec 5) :=
  if type = RT.port then portAlone key b
  else if type = RT.route then routeAlone key b
  else if type = RT.tray then trayAlone key b
  else if type = RT.ftlVolume then volumeAlone key b
  else if type = RT.dirLayout then dirAlone key b
  else if type = RT.context then contextAlone key b
  else if type = RT.admitRec then admitAlone key b
  else if type = RT.qos then qosAlone key b
  else if type = RT.extent then extentAlone key b
  else if type = RT.grant then grantAlone key b
  else if type = RT.codebook then codebookAlone key b
  else if type = RT.program then programAlone key b
  else if type = RT.service then serviceAlone key b
  else if type = RT.partition then partitionAlone key b
  else if type = RT.composition then compositionAlone key b
  else if type = RT.replicaSet then replicaAlone key b
  else if type = RT.rankGroup then rankGroupAlone key b
  else federationAlone type key b

/-- The check of order 3 for a change: a DELETE has no body; the record of context 0 is never deleted (R379). -/
def changeAlone (c : Change) : Option (BitVec 5) :=
  match c.action with
  | .delete => need (typeKnown c.type && !(c.type == RT.context && c.key == 0))
  | _ => if typeKnown c.type then bodyAlone c.type c.key c.body else some Sts.format

/-! A record among the others (order 4). t is the state with the record set as it would stand. -/

/-- Does a context exist: context 0, or one with a CONTEXT record? -/
def ctxExists (t : State) (c : Nat) : Bool := c == 0 || (recOf t RT.context c).isSome

/-- The cells reserved by the sub-links and reorder slots of a die (R142, R145). -/
def dieCells (t : State) (d : Die) : Nat :=
  sumOf ((recsOf t RT.port).map fun r =>
    if portDie r.key = d then subsOfMode (le r.body 1 1) * sumOf ((rangeFrom 0 8).map (fun k => le r.body (12 + 4 * k) 4)) else 0) +
  1088 * sumOf ((recsOf t RT.route).map fun r =>
    if dieOf (le r.body 3 1) = d then ((rangeFrom 0 3).filter (fun k => bitAt (le r.body 2 1) k)).length else 0)

/-- The sub-link endpoint indices beyond sub-link 0 of every port. -/
def extraEps (t : State) : List Nat :=
  (recsOf t RT.port).flatMap fun r => ((slice r.body 4 (subsOfMode (le r.body 1 1))).drop 1).map (·.toNat)

/-- PORT among the others (R117, R145). -/
def portRel (t : State) (key : Nat) : Option (BitVec 5) :=
  firstBad [
    needLen (decide ((extraEps t).length ≤ 189)),
    need (decide (extraEps t).Nodup),
    needLen (decide (dieCells t (portDie key) ≤ 655360))]

/-- The reorder slots of ROUTE records on a die. -/
def rxSlots (t : State) (d : Die) : List Nat :=
  (recsOf t RT.route).flatMap fun r =>
    if dieOf (le r.body 3 1) = d then
      (rangeFrom 0 3).filterMap (fun k => if bitAt (le r.body 2 1) k then some (le r.body (4 + k) 1) else none)
    else []

/-- ROUTE among the others (R146). -/
def routeRel (t : State) (sw key : Nat) (b : Bytes) : Option (BitVec 5) :=
  firstBad [
    need (key != sw && ((slice b 8 8).take (le b 0 1)).all (fun x => portRole t x.toNat == 4)),
    need (decide (rxSlots t (dieOf (le b 3 1))).Nodup),
    needLen (decide (dieCells t (dieOf (le b 3 1)) ≤ 655360))]

/-- TRAY among the others (R233). -/
def trayRel (t : State) (key : Nat) (b : Bytes) : Option (BitVec 5) := need (portRole t key == le b 0 1 + 1)

/-- FTL_VOLUME among the others (R257). -/
def volumeRel (t : State) (b : Bytes) : Option (BitVec 5) :=
  let all := (recsOf t RT.ftlVolume).flatMap (fun r => volTrays r.body)
  firstBad [
    need ((volTrays b).all (fun p => (recOf t RT.tray p).elim false (fun x => le x 0 1 == 2) && portDie p == dieOf (le b 0 1))),
    need (decide all.Nodup),
    needLen (decide (sumOf ((recsOf t RT.ftlVolume).map (fun r => volUnits r.body * 4096)) ≤ 256 * 2 ^ 40))]

/-- DIR_LAYOUT among the others (R199). -/
def dirRel (t : State) (key : Nat) (b : Bytes) : Option (BitVec 5) :=
  need ((rangeFrom 0 (le b 4 4)).all fun i =>
    match extOf t (le b (16 + 1032 * le b 0 2 + 8 * i) 4) with
    | some e => !e.classT && dieNum e.die == key
    | none => false)

/-- ADMIT among the others (R380). -/
def admitRel (t : State) (key : Nat) (b : Bytes) : Option (BitVec 5) :=
  need (ctxExists t (key / 256) &&
    ((recsOf t RT.admitRec).filter (fun r => r.key / 256 == key / 256 && le r.body 0 4 == le b 0 4)).length == 1)

/-- QOS among the others (R388). -/
def qosRel (t : State) (key : Nat) : Option (BitVec 5) :=
  firstBad [
    need (ctxExists t key),
    needLen (decide (sumOf ((recsOf t RT.qos).map (fun r => le r.body 20 2)) ≤ 16384)),
    needLen (decide (sumOf ((recsOf t RT.qos).map (fun r => le r.body 22 2)) ≤ 4096))]

/-- Do two extents overlap? -/
def overlaps (a b : ExtV) : Bool := decide (a.base < b.base + b.size) && decide (b.base < a.base + a.size)

/-- EXTENT among the others (R63, R68). -/
def extentRel (t : State) (key : Nat) (b : Bytes) : Option (BitVec 5) :=
  let e := extView key b
  firstBad [
    need (ctxExists t e.owner),
    need (match e.comp with
      | some c => (recOf t RT.composition c).isSome
      | none => true),
    need (e.replica == 0 || (recOf t RT.replicaSet e.replica).isSome),
    needLen ((recsOf t RT.extent).all (fun r => r.key == key || !overlaps e (extView r.key r.body)))]

/-- GRANT among the others (R69). -/
def grantRel (t : State) (b : Bytes) : Option (BitVec 5) :=
  let x := le b 0 4
  let c := le b 4 2
  firstBad [
    need ((recOf t RT.extent x).isSome && ctxExists t c),
    need (((recsOf t RT.grant).filter (fun r => le r.body 0 4 == x && le r.body 4 2 == c)).length == 1)]

/-- The partitions that contain a slot on a die. -/
def partsWith (t : State) (d : Die) (slot : Nat) : List Rec :=
  (recsOf t RT.partition).filter (fun r => dieOf (le r.body 0 1) == d && bitAt (le r.body (16 + slot / 8) 1) (slot % 8))

/-- The bytes of program store that the services of a slot need (R311): each program they name, once. -/
def storeNeed (t : State) (d : Die) (slot : Nat) : Nat :=
  let ps := (partsWith t d slot).map (·.key)
  let progs := (recsOf t RT.service).foldl (fun l r =>
    if ps.contains (le r.body 1 1) then
      let l1 := insertNat (le r.body 2 1) l
      if le r.body 3 1 = 0xFF then l1 else insertNat (le r.body 3 1) l1
    else l) []
  sumOf (progs.map (fun p => (recOf t RT.program p).elim 0 (fun b => le b 4 4)))

/-- Do all slots of a die's partitions fit the program store? -/
def storesFit (t : State) : Bool :=
  (recsOf t RT.partition).all (fun r => (partSlots r.body).all (fun i => decide (storeNeed t (dieOf (le r.body 0 1)) i ≤ 65536)))

/-- SERVICE among the others (R312). -/
def serviceRel (t : State) (b : Bytes) : Option (BitVec 5) :=
  firstBad [
    need (recOf t RT.partition (le b 1 1)).isSome,
    need ((recOf t RT.program (le b 2 1)).elim false (fun p => bitAt (le p 2 1) 0)),
    need (le b 3 1 == 0xFF || (recOf t RT.program (le b 3 1)).elim false (fun p => bitAt (le p 2 1) 1)),
    needLen (storesFit t)]

/-- PARTITION among the others (R313). -/
def partitionRel (t : State) (key : Nat) (b : Bytes) : Option (BitVec 5) :=
  firstBad [
    need (le b 1 1 == 0 || ctxExists t (le b 2 2)),
    need ((recsOf t RT.partition).all (fun r => r.key == key || le r.body 0 1 != le b 0 1 || (le b 1 1 == 0 && le r.body 1 1 == 0) ||
      (partSlots b).all (fun i => !bitAt (le r.body (16 + i / 8) 1) (i % 8)))),
    needLen (storesFit t)]

/-- COMPOSITION among the others (R463): it lists its own switch, and its context exists. -/
def compositionRel (t : State) (sw : Nat) (b : Bytes) : Option (BitVec 5) :=
  need ((compSwitches b).contains sw && ctxExists t (compCtx b))

/-- REPLICA_SET among the others (R457): only its own member is looked at. -/
def replicaRel (t : State) (sw key : Nat) (b : Bytes) : Option (BitVec 5) :=
  need ((!bitAt (le b 2 2) 15 || (recOf t RT.composition (le b 2 2 % 1024)).isSome) &&
    (replicaMembers b).all (fun m => m.1 != sw ||
      (extOf t m.2).elim false (fun e => e.classT && e.replica == key)))

/-- The bytes a group's nodes reserve on a die (R319). -/
def grpReserve (sw : Nat) (d : Die) (b : Bytes) : Nat :=
  let g := grpView b
  let n := ((rangeFrom 0 g.nodes).filter (fun i => (nodeEnt b i).1 == sw && (nodeEnt b i).2.1 == d)).length
  n * (g.open_ * g.window * (g.fanin + 2) * 4096)

/-- The combine pool of a die in bytes (R336). -/
def combinePool (t : State) (d : Die) : Nat :=
  2 ^ 20 * sumOf ((recsOf t RT.service).map fun r =>
    if le r.body 0 1 = 1 ∧ (recOf t RT.partition (le r.body 1 1)).elim false (fun p => dieOf (le p 0 1) == d) then le r.body 32 4 else 0)

/-- The node reservations of a die. -/
def reserved (t : State) (sw : Nat) (d : Die) : Nat := sumOf ((recsOf t RT.rankGroup).map (fun r => grpReserve sw d r.body))

/-- The ranks of a group whose level-0 node is on a switch. -/
def ranksHere (sw : Nat) (b : Bytes) : Nat :=
  let g := grpView b
  ((rangeFrom 0 g.ranks).filter (fun r => (nodeEnt b (r / g.fanin)).1 == sw)).length

/-- RANK_GROUP among the others (R319). -/
def rankGroupRel (t : State) (sw : Nat) (b : Bytes) : Option (BitVec 5) :=
  let g := grpView b
  firstBad [
    need (ctxExists t g.ctx && (match g.comp with
      | some c => (recOf t RT.composition c).isSome
      | none => true)),
    need ((rangeFrom 0 g.nodes).all fun i =>
      match nodeEnt b i with
      | (w, d, v) => w != sw || (serviceKind t v == 1 && serviceDie t v == some d)),
    needLen (decide (sumOf ((recsOf t RT.rankGroup).map (fun r => ranksHere sw r.body)) ≤ 1024)),
    needLen (decide (reserved t sw .d0 ≤ combinePool t .d0) && decide (reserved t sw .d1 ≤ combinePool t .d1))]

/-- The FEDERATION section as a whole (R443). -/
def federationRel (t : State) (b : Bytes) : Option (BitVec 5) :=
  let ks := recsOf t RT.mapKeeper
  need (ks.length == le b 2 1 && decide (ks.map (fun r => le r.body 0 1)).Nodup && ks.all (fun r => decide (le r.body 0 1 < le b 2 1)) &&
    ks.all (fun r => (recOf t RT.homemapEntry r.key).isSome) && (recOf t RT.homemapEntry (le b 0 2)).isSome)

/-- The check of order 4 for a record of the new set. sw is the switch's own ID. -/
def recRel (t : State) (sw : Nat) (r : Rec) : Option (BitVec 5) :=
  if r.type = RT.port then portRel t r.key
  else if r.type = RT.route then routeRel t sw r.key r.body
  else if r.type = RT.tray then trayRel t r.key r.body
  else if r.type = RT.ftlVolume then volumeRel t r.body
  else if r.type = RT.dirLayout then dirRel t r.key r.body
  else if r.type = RT.admitRec then admitRel t r.key r.body
  else if r.type = RT.qos then qosRel t r.key
  else if r.type = RT.extent then extentRel t r.key r.body
  else if r.type = RT.grant then grantRel t r.body
  else if r.type = RT.service then serviceRel t r.body
  else if r.type = RT.partition then partitionRel t r.key r.body
  else if r.type = RT.composition then compositionRel t sw r.body
  else if r.type = RT.replicaSet then replicaRel t sw r.key r.body
  else if r.type = RT.rankGroup then rankGroupRel t sw r.body
  else if r.type = RT.switch then federationRel t r.body
  else none

/-- May a REPLACE change an EXTENT so (R68)? Only COMP and REPLICA_SET, and by bitstream HOME_DIE. -/
def extentReplaceOk (old new : Bytes) (byBitstream : Bool) : Bool :=
  slice old 0 17 == slice new 0 17 && (byBitstream || slice old 17 1 == slice new 17 1)

/-- What a change asks of the device's state and of the old record (order 4): EXTENT, CONTEXT and CODEBOOK rules (R68, R102,
R368, R379). -/
def changeRel (s : State) (byBitstream : Bool) (c : Change) : Option (BitVec 5) :=
  let old := (recOf s c.type c.key).getD []
  if c.type = RT.extent then
    match c.action with
    | .delete => need (extPhase s .d0 c.key == .revoked && extPhase s .d1 c.key == .revoked && !s.objs.any (fun o => o.2.ext == c.key))
    | .replace => need (extentReplaceOk old c.body byBitstream)
    | .add => none
  else if c.type = RT.context then
    match c.action with
    | .replace => need (slice old 8 4 == slice c.body 8 4 || !(recsOf s RT.extent).any (fun r => le r.body 12 2 == c.key))
    | _ => none
  else if c.type = RT.codebook then
    let slot := getD s.cmp.slots c.key {}
    match c.action with
    | .add => if slot.phase = .retiring then some Sts.retry
        else if slot.gen = le c.body 4 2 ∧ slot.gen ≠ 0 then some Sts.stale else none
    | .replace => some Sts.format
    | .delete => none
  else none

/-- The limits of the whole set (order 5): class C capacity (R65) and the grants of one extent (R59); the counts of extents, grants, contexts and
compositions are bounded by their key ranges. -/
def setLimits (t : State) : Option (BitVec 5) :=
  needLen (decide (sumOf ((recsOf t RT.extent).map (fun r => if le r.body 14 1 = 0 then le r.body 8 4 * 2 ^ 21 else 0)) ≤ 2 ^ 36) &&
    (recsOf t RT.grant).all (fun g => decide (((recsOf t RT.grant).filter (fun r => le r.body 0 4 == le g.body 0 4)).length ≤ 4094)) &&
    decide ((recsOf t RT.grant).length ≤ 4194304) && decide ((recsOf t RT.extent).length ≤ 1048576))

/-! Placement of class C extents in T0 or T1 (R78, R231): used by the validation of a created extent -/

/-- The 4 KiB granules of T0 in use on a die: objects placed there, T0_ONLY class C extents, and charges of moves under way. -/
def t0Used (s : State) (d : Die) : Nat :=
  sumOf (s.objs.map (fun o => if o.2.tier = 0 ∧ (extOf s o.2.ext).elim false (fun e => e.die == d) then granules o.2.size else 0)) +
  sumOf ((recsOf s RT.extent).map (fun r =>
    let e := extView r.key r.body
    if !e.classT && e.policy == 1 && e.die == d then e.size / 4096 else 0)) +
  sumOf ((side s.tier d).moves.map (fun m => if m.dest = 0 ∧ m.started then (get? s.objs m.obj).elim 0 (fun o => granules o.size) else 0))

/-- The free 4 KiB granules of a die's T0 (R253). -/
def t0Free (s : State) (d : Die) : Nat := 28835840 - t0Used s d

/-- The bytes used of an interleave group on a die: objects placed in it, class C extents, moves into it. -/
def groupUsed (s : State) (d : Die) (g : Nat) : Nat :=
  4096 * (sumOf (s.objs.map (fun o =>
    if o.2.tier = 1 ∧ o.2.loc / 2 ^ 56 = g ∧ (extOf s o.2.ext).elim false (fun e => e.die == d) then granules o.2.size else 0)) +
  sumOf ((side s.tier d).moves.map (fun m => if m.dest = 1 ∧ m.started ∧ m.loc / 2 ^ 56 = g then (get? s.objs m.obj).elim 0 (fun o => granules o.size) else 0))) +
  sumOf ((recsOf s RT.extent).map (fun r =>
    let e := extView r.key r.body
    if !e.classT && e.policy == 2 && e.die == d && (getD s.exts r.key {}).group == g then e.size else 0))

/-- The bytes of the page maps that a die's interleave group holds: 8 for each logical unit of a volume whose MAP_GROUP it is (R263). -/
def mapBytes (s : State) (d : Die) (g : Nat) : Nat :=
  sumOf ((recsOf s RT.ftlVolume).map (fun r =>
    if le r.body 1 1 = 0 ∧ dieOf (le r.body 0 1) = d ∧ le r.body 3 1 = g then ceilDiv (8 * volUnits r.body) 4096 * 4096 else 0))

/-- The free bytes of an interleave group. -/
def groupFree (s : State) (d : Die) (g : Nat) : Nat := sumOf ((groupTrays s d g).map (·.2)) - groupUsed s d g - mapBytes s d g

/-- The group with the most free capacity that has room, ties to the lowest number (R231). -/
def bestGroup (s : State) (d : Die) (bytes : Nat) : Option Nat :=
  (rangeFrom 0 16).foldl (fun best g =>
    if !(groupTrays s d g).isEmpty && decide (bytes ≤ groupFree s d g) then
      match best with
      | some h => if groupFree s d h < groupFree s d g then some g else best
      | none => some g
    else best) none

/-- Room and quota of a class C extent about to be created (R78, R79, R231, R245). -/
def classCRoom (s : State) (e : ExtV) : Option (BitVec 5) :=
  if e.classT then none
  else if e.policy = 1 then
    if overLimit s e.owner 0 (e.size / 4096) then some Sts.quota
    else if t0Free s e.die < e.size / 4096 then some Sts.retry else none
  else if overLimit s e.owner 1 (e.size / 4096) then some Sts.quota
  else if (bestGroup s e.die e.size).isNone then some Sts.retry else none

/-- The tier a class C extent is charged to (R78). -/
def classCTier (e : ExtV) : Nat := if e.policy = 1 then 0 else 1

/-- Place and charge a class C extent that is not placed yet (R78, R79, R231); a class T extent has no place of its own. -/
def placeExt (e : ExtV) (s : State) : State :=
  if e.classT then s
  else
    let g := if e.policy = 2 then (bestGroup s e.die e.size).getD 0 else 0
    takeCharge e.die e.owner (classCTier e) (e.size / 4096) (modExt s e.idx (fun x => { x with group := g }))

/-! The whole of a change list -/

/-- The section of a record type. -/
def sectionOf (type : Nat) : Nat := type / 256

/-- Changes in the order R101 applies them: DELETEs by falling section, then the rest by rising section, each section by type
and key. -/
def applyOrder (cs : List Change) : List Change :=
  let key := fun (a b : Change) => decide (a.type < b.type) || (a.type == b.type && decide (a.key < b.key))
  let del := cs.filter (fun c => c.action == .delete)
  let rest := cs.filter (fun c => c.action != .delete)
  sortBy (fun a b => decide (sectionOf b.type < sectionOf a.type) || (sectionOf a.type == sectionOf b.type && key a b)) del ++
    sortBy key rest

/-- Do the names of a change list fit the record set (order 2)? -/
def namesOk (s : State) (cs : List Change) : Bool :=
  cs.all fun c => match c.action with
    | .add => (recOf s c.type c.key).isNone
    | _ => (recOf s c.type c.key).isSome

/-- The state with the record set as it would stand after the changes. -/
def withChanges (s : State) (cs : List Change) : State := modCfg s (fun c => { c with records := cs.foldl applyChange c.records })

/-- The class C extents of a list of ADDs, each checked in a state where those before it are placed and charged (R79). -/
def addsRoom (l : List Change) (s : State) : Option (BitVec 5) :=
  match l with
  | [] => none
  | c :: r =>
    let e := extView c.key c.body
    match classCRoom s e with
    | some st => some st
    | none => addsRoom r (placeExt e (withChanges s [c]))

/-- Room and quota of the extents that changes add, once all their other records, and what they delete, stand as they will (R79, R231). -/
def extentRoom (s : State) (cs : List Change) : Option (BitVec 5) :=
  let add := fun (c : Change) => c.type == RT.extent && c.action == .add
  let gone := (cs.filter (fun c => c.type == RT.extent && c.action == .delete)).filterMap (fun c => (recOf s RT.extent c.key).map (extView c.key))
  let s1 := gone.foldl (fun t e => if e.classT then t else dropCharge e.die e.owner (classCTier e) (e.size / 4096) t) s
  addsRoom (cs.filter add) (withChanges s1 (cs.filter (fun c => !add c)))

/-- Orders 3 to 5 of R100 for the changes of a partial or a command. DESIGN CHOICE (log 192): QUOTA and RETRY of a class C extent stand after all
of order 4 and before order 5. -/
def changesOk (s : State) (byBitstream : Bool) (cs0 : List Change) : Option (BitVec 5) :=
  let cs := applyOrder cs0
  let t := withChanges s cs
  let sw := s.cfg.switchId
  let changed := fun (r : Rec) => cs.any (fun c => c.type == r.type && c.key == r.key)
  firstBad [
    cs.findSome? changeAlone,
    cs.findSome? (fun c => firstBad [changeRel s byBitstream c,
      match c.action with
      | .delete => none
      | _ => recRel t sw ⟨c.type, c.key, c.body⟩]),
    (t.cfg.records.filter (fun r => !changed r)).findSome? (recRel t sw),
    extentRoom s cs,
    setLimits t]

/-- Orders 2 to 5 of R100. -/
def validate (s : State) (byBitstream : Bool) (cs : List Change) : Option (BitVec 5) :=
  if namesOk s cs then changesOk s byBitstream cs else some Sts.stale

/-- Orders 3 to 5 of R100 for the records of a full bitstream as a whole record set (R96 check 7). sw is its SWITCH_ID. DESIGN CHOICE (log 192): a
set without a SWITCH record, or whose SWITCH record has another SWITCH_ID, is FORMAT; and its class C extents are charged at come-up without a quota
check, as the limits of every context are 0 then. -/
def fullSetOk (s : State) (sw : Nat) (rs : List Rec) : Option (BitVec 5) :=
  let t := modCfg s (fun c => { c with records := rs, unconfigured := false })
  firstBad [
    rs.findSome? (fun r => if typeKnown r.type then bodyAlone r.type r.key r.body else some Sts.format),
    need (rs.any (fun r => r.type == RT.switch && le r.body 0 2 == sw)),
    rs.findSome? (recRel t sw),
    setLimits t]

end Machine
end Sys2Proof
end

