-- ==== Sys2Proof/Machine/Trays.lean ====
section
/-! DEFINITION. Where pooled bytes lie and the requests that reach them: DRAM trays, the class C cache, flash units and the staging
buffer (R230 to R235, R255 to R268). -/

namespace Sys2Proof
namespace Machine

/-- The address by which this switch holds a byte of a fabric address it answers for (R53, R459). -/
def localAddr (s : State) (a : Nat) : Nat := s.cfg.switchId * 2 ^ 52 + transOff s a

/-- The volume of a T2 location. -/
def locVol (loc : Nat) : Nat := loc / 2 ^ 56

/-- The first unit of a T2 location. -/
def locUnit (loc : Nat) : Nat := loc % 2 ^ 56

/-- The place of the byte at an offset of an object. -/
def objPlace (o : Obj) (off : Nat) : Place :=
  if o.tier = 0 then .t0
  else if o.tier = 1 then .t1 (o.loc / 2 ^ 56) (off / 4096)
  else .t2 (locVol o.loc) (locUnit o.loc + (off - addrOff o.addr) / 4096)

/-- The place of a byte of an extent. -/
def placeOf (s : State) (e : ExtV) (off : Nat) : Place :=
  if e.classT then
    match objAt s off with
    | some (_, o) => objPlace o off
    | none => .t0
  else if e.policy = 2 then .cc e.idx
  else .t0

/-! Frames to trays (R232, R255) -/

/-- Send a frame out of a port of the die, whatever its address. -/
def sendPort (d : Die) (port : Nat) (f : Frame) (s : State) : State := submit d { frame := f, agent := true, via := some port } s

/-- The tray request frame of a die. -/
def trayFrame (s : State) (d : Die) (opc : Byte) (tc : Nat) (seq : BitVec 24) (tag addr opspec : Nat) (payload : Bytes) : Frame :=
  { opcode := opc, tc := BitVec.ofNat 3 tc, srcEp := BitVec.ofNat 20 (agentEp s d), seq := seq, tag := BitVec.ofNat 16 tag, fence := 0,
    addr := BitVec.ofNat 64 (s.cfg.switchId * 2 ^ 52 + addr % 2 ^ 52), length := BitVec.ofNat 16 payload.length,
    opspec := BitVec.ofNat 16 opspec, payload := payload }

/-- Send a request to a tray, under the next SEQ of context 0 and a free TAG (R125, R126), and remember why. -/
def askTray (d : Die) (port : Nat) (opc : Byte) (tc addr opspec : Nat) (payload : Bytes) (why : TrayFor) (s : State) : State :=
  match nextSeq d 0 s with
  | (seq, s1) =>
    let tag := freeTag s1 d
    let f := trayFrame s1 d opc tc seq tag addr opspec payload
    sendPort d port f (modTier (useTag d tag s1) d (fun t => { t with trayReqs := t.trayReqs ++ [⟨tag, port, f, why⟩] }))

/-- The tray request that a response answers. -/
def trayReqOf (s : State) (d : Die) (f : Frame) : Option TrayReq :=
  (side s.tier d).trayReqs.find? (fun r => r.tag == f.tag.toNat && f.opcode == rspOpc r.frame.opcode)

/-- The state without a tray request. -/
def dropTrayReq (d : Die) (tag : Nat) (s : State) : State :=
  modTier s d (fun t => { t with trayReqs := t.trayReqs.filter (fun r => r.tag != tag) })

/-- The port and tray-local address of a granule of T1 data: striped over the trays of its group in 4 KiB granules (R231). -/
def trayPlace (s : State) (d : Die) (group granule : Nat) : Option (Nat × Nat) :=
  let ts := groupTrays s d group
  match ts[granule % ts.length]? with
  | some (p, cap) =>
    let base := (recOf s RT.tray p).elim 0 (fun b => le b 16 8)
    some (p, base + Config.trayGranule granule % (cap / 4096) * 4096)
  | none => none

/-! Encryption (R60, R421) -/

/-- The key of the data at a local address: that of the owner context of its extent. -/
def keyAt (s : State) (a : Nat) : Bytes := (extAt s (addrOff a)).elim [] (fun e => (ctxOf s e.owner).key)

/-- Data units of 64 bytes as they are held outside the module, from a local address on: each under its key, with its own fabric address as
tweak. -/
def sealMem (s : State) (a : Nat) (b : Bytes) : Bytes :=
  (rangeFrom 0 (ceilDiv b.length 64)).flatMap (fun i => fit (Config.xtsSeal (keyAt s a) (a + 64 * i) (slice b (64 * i) 64)) 64)

/-- The plaintext of data units held outside the module. -/
def openMem (s : State) (a : Nat) (b : Bytes) : Bytes :=
  (rangeFrom 0 (ceilDiv b.length 64)).flatMap (fun i => fit (Config.xtsOpen (keyAt s a) (a + 64 * i) (slice b (64 * i) 64)) 64)

/-- The first address and the length of the data units that an access touches. -/
def unitsAround (a n : Nat) : Nat × Nat := (a / 64 * 64, if n = 0 then 0 else (ceilDiv (a + n) 64 - a / 64) * 64)

/-! The class C cache (R234) -/

/-- The lines cached in the set of a line. -/
def ccSet (s : State) (d : Die) (line : Nat) : Dict CcLine :=
  (side s.tier d).cc.filter (fun x => Config.ccSetOf x.1 == Config.ccSetOf line)

/-- The least recently accepted line of a set. -/
def ccVictim (l : Dict CcLine) : Option (Nat × CcLine) :=
  l.foldl (fun b x => match b with
    | none => some x
    | some y => if x.2.last < y.2.last then some x else b) none

/-- Is a line cached? -/
def ccHas (s : State) (d : Die) (line : Nat) : Bool := (get? (side s.tier d).cc line).isSome

/-- The state with a line in the cache. -/
def ccPut (d : Die) (line : Nat) (c : CcLine) (s : State) : State := modTier s d (fun t => { t with cc := put t.cc line c })

/-- Send a dirty line back to its tray (R234). -/
def ccWriteback (d : Die) (line : Nat) (s : State) : State :=
  match extAt s (addrOff (line * 64)) with
  | none => s
  | some e =>
    if (side s.tier d).trayReqs.any (fun r => r.why == .writeback line) then s
    else
      match trayPlace s d (getD s.exts e.idx {}).group (addrOff (line * 64) / 4096) with
      | some (p, a) => askTray d p Opc.st 3 (a + line * 64 % 4096) 0 (sealMem s (line * 64) (readMem s (line * 64) 64)) (.writeback line) s
      | none => s

/-- Is a fill of a line under way? -/
def ccFilling (s : State) (d : Die) (line : Nat) : Bool :=
  (side s.tier d).trayReqs.any (fun r => r.why == .fill line)

/-- The ways of the set of a line that are taken: by the lines in it, and by those whose fill is under way. -/
def ccWays (s : State) (d : Die) (line : Nat) : Nat :=
  (ccSet s d line).length + ((side s.tier d).trayReqs.filter (fun r => match r.why with
    | .fill l => !ccHas s d l && Config.ccSetOf l == Config.ccSetOf line
    | _ => false)).length

/-- Make way in the set of a line: a clean victim is dropped; a dirty one is written back first. The truth says whether there
is a way now. -/
def ccMakeWay (d : Die) (line : Nat) (s : State) : Bool × State :=
  if ccHas s d line || ccFilling s d line || decide (ccWays s d line < 16) then (true, s)
  else
    match ccVictim (ccSet s d line) with
    | none => (false, s)
    | some (v, c) =>
      if c.dirty then (false, ccWriteback d v s) else (true, modTier s d (fun t => { t with cc := del t.cc v }))

/-- Fill a line of a T1_ONLY extent from its tray. -/
def ccFill (d : Die) (ext line : Nat) (s : State) : State :=
  if ccFilling s d line then s
  else
    match ccMakeWay d line s with
    | (false, s1) => s1
    | (true, s1) =>
      match trayPlace s1 d (getD s1.exts ext {}).group (addrOff (line * 64) / 4096) with
      | some (p, a) =>
        askTray d p Opc.ld 3 (a + line * 64 % 4096) 64 [] (.fill line) s1
      | none => s1

/-- Bring the lines of an access into the cache: the truth says whether all of them are there. -/
def ccReady (d : Die) (ext : Nat) (lines : List Nat) (s : State) : Bool × State :=
  (lines.all (ccHas s d), lines.foldl (fun t l => if ccHas t d l then t else ccFill d ext l t) s)

/-- Note an access to cached lines; a write makes them dirty. -/
def ccTouch (d : Die) (lines : List Nat) (dirty : Bool) (order : Nat) (s : State) : State :=
  modTier s d (fun t => { t with
    cc := lines.foldl (fun c l => modK c l (fun x => { x with dirty := x.dirty || dirty, last := order })) t.cc })

/-! Flash units (R255 to R268) -/

/-- A block's key: its tray's port and its address in the tray. -/
def blkKey (port blk : Nat) : Nat := port * 2 ^ 20 + blk

/-- A block of a die's trays. -/
def blkOf (s : State) (d : Die) (key : Nat) : Blk := getD (side s.ftl d).blocks key {}

/-- The state with a block changed. -/
def modBlk (s : State) (d : Die) (key : Nat) (g : Blk → Blk) : State :=
  modFtl s d (fun x => { x with blocks := changeD x.blocks key {} g })

/-- The port of a tray of a volume. -/
def volPort (s : State) (vol tray : Nat) : Nat := (recOf s RT.ftlVolume vol).elim 0 (fun b => nth (volTrays b) tray 0)

/-- The tray index of a port of a volume. -/
def volTrayIdx (s : State) (vol port : Nat) : Nat :=
  (recOf s RT.ftlVolume vol).elim 0 (fun b => (leastFrom (fun i => nth (volTrays b) i 64 == port) 0 16).getD 0)

/-- A map entry (R263). -/
def mapEntry (slc : Bool) (tray blk page chunk : Nat) : BitVec 64 :=
  BitVec.ofNat 64 (2 ^ 63 + b2n slc * 2 ^ 62 + tray * 2 ^ 58 + blk * 2 ^ 38 + page * 2 ^ 28 + chunk * 2 ^ 26)

/-- Where a unit lies on flash: block key, page, chunk; none where it is not mapped. An OUVI volume looks in its log blocks and
then in the group's dense block (R265). -/
def unitWhere (s : State) (vol unit : Nat) : Option (Nat × Nat × Nat) :=
  let v := getD s.vols vol {}
  match get? v.map unit with
  | some e => some (blkKey (volPort s vol (fld e.toNat 61 58)) (fld e.toNat 57 38), fld e.toNat 37 28, fld e.toNat 27 26)
  | none => if v.holes.contains unit then none else (get? v.groups (unit / 3072)).map (fun k => (k, unit % 3072 / 4, unit % 4))

/-- The staging slot of a unit. -/
def stagedUnit (s : State) (d : Die) (vol unit : Nat) : Option StageSlot :=
  (side s.ftl d).staging.find? (fun x => x.vol == vol && x.unit == unit)

/-- The staging slots in use: those that hold a unit, and those of partial writes whose unit is being read into them (R260). -/
def stageUse (s : State) (d : Die) : Nat :=
  (side s.ftl d).staging.length + ((side s.home d).waiting.filter (fun w => w.frame.opcode != Opc.ld && (match w.wait with
    | .flash _ _ => true
    | _ => false))).length

/-- Is a staging slot free (R260)? -/
def stageRoom (s : State) (d : Die) : Bool := decide (stageUse s d < 8192)

/-- Must a read of a unit wait until what came back from the flush region is on flash (R37, R277 step 5)? -/
def unitFlushed (s : State) (d : Die) (vol unit : Nat) : Bool := (stagedUnit s d vol unit).elim false (·.flushed)

/-- Put a written unit into the staging buffer: its slot, or a new one; a unit being programmed is programmed again. -/
def stageWrite (d : Die) (vol unit : Nat) (durable : Bool) (s : State) : State :=
  let s1 := modVol s vol (fun v => { v with writes := (v.writes + 1) % 2 ^ 64 })
  if (stagedUnit s1 d vol unit).isSome then
    modFtl s1 d (fun x => { x with
      staging := x.staging.map (fun y => if y.vol == vol && y.unit == unit then { y with again := y.prog.isSome } else y) })
  else modFtl s1 d (fun x => { x with staging := x.staging ++ [{ vol := vol, unit := unit, durable := durable }] })

/-- The age bucket of a number of hours (R268). -/
def ageBucket (h : Nat) : Nat := ([24, 168, 720, 2160, 4320, 8760, 17520].filter (fun x => decide (x ≤ h))).length

/-- The temperature bucket of a difference. -/
def tempBucket (dt : Int) : Nat := if dt < -20 then 0 else if dt < 0 then 1 else if dt < 20 then 2 else 3

/-- The temperature of the target of a block, as last sensed. -/
def senseTemp (s : State) (d : Die) (key : Nat) : Int := nth (getD (side s.ftl d).temps (key / 2 ^ 20) []) (fld key 19 14) 0

/-- The first level of a read of a block (R268). -/
def firstLevel (s : State) (d : Die) (key : Nat) : Nat :=
  let b := blkOf s d key
  let x := side s.ftl d
  if b.readSince then b.lastLevel
  else
    let age := ageBucket (x.hours - b.progHours)
    let k := 4 * (age % 4) + tempBucket (senseTemp s d key - b.progTemp)
    fld (if age < 4 then x.levelMap0 else x.levelMap1).toNat (4 * k + 3) (4 * k)

/-- The physical address of a chunk (R255). -/
def physAddr (op level key page off : Nat) : Nat :=
  op * 2 ^ 48 + level * 2 ^ 44 + key % 2 ^ 20 * 2 ^ 24 + page * 2 ^ 14 + off

/-- Read a unit at a level, as attempt number att. -/
def readUnit (d : Die) (vol unit level att : Nat) (s : State) : State :=
  match unitWhere s vol unit with
  | some (k, page, chunk) =>
    askTray d (k / 2 ^ 20) Opc.ld 3 (physAddr 0 level k page (chunk * 4096)) 4096 [] (.flashRead vol unit level att) s
  | none => s

/-- Is a read of a unit under way? -/
def reading (s : State) (d : Die) (vol unit : Nat) : Bool :=
  (side s.tier d).trayReqs.any (fun r => match r.why with
    | .flashRead v u _ _ => v == vol && u == unit
    | _ => false)

/-- Start a read of a unit unless one is under way. -/
def startRead (d : Die) (vol unit : Nat) (s : State) : State :=
  if reading s d vol unit then s
  else match unitWhere s vol unit with
    | some (k, _, _) => readUnit d vol unit (firstLevel s d k) 1 s
    | none => s

/-! The map cache (R263, R264) -/

/-- Is a map page in its die's cache? -/
def mapCached (s : State) (d : Die) (vol page : Nat) : Bool := (side s.ftl d).mapCache.any (fun x => x.1 == vol && x.2.1 == page)

/-- The 512 entries of a map page. -/
def mapPageBytes (s : State) (vol page : Nat) : Bytes :=
  (rangeFrom (512 * page) 512).flatMap (fun u => toLE 8 (getD (getD s.vols vol {}).map u 0).toNat)

/-- The place of a map page on the DRAM trays of its volume's MAP_GROUP. -/
def mapPlace (s : State) (d : Die) (vol page : Nat) : Option (Nat × Nat) :=
  trayPlace s d ((recOf s RT.ftlVolume vol).elim 0 (fun b => le b 3 1)) (Config.mapGranule vol page)

/-- Put a map page into the cache, or note that one in it has changed. A full cache of 2 GiB gives up the page that came in first, which goes to its
DRAM tray where it has changed (DESIGN CHOICE, log 187: which page). -/
def mapPut (d : Die) (vol page : Nat) (changed : Bool) (s : State) : State :=
  if mapCached s d vol page then
    modFtl s d (fun x => { x with
      mapCache := x.mapCache.map (fun y => if y.1 = vol ∧ y.2.1 = page then (vol, page, y.2.2 || changed) else y) })
  else
    let out := if 524288 ≤ (side s.ftl d).mapCache.length then (side s.ftl d).mapCache.head? else none
    let s1 := modFtl s d (fun x => { x with
      mapCache := (if out.isSome then x.mapCache.drop 1 else x.mapCache) ++ [(vol, page, changed)] })
    match out with
    | some (v, p, true) =>
      match mapPlace s1 d v p with
      | some (port, base) => askTray d port Opc.st 3 base 0 (mapPageBytes s1 v p) .mapStore s1
      | none => s1
    | _ => s1

/-- Bring the map page of a unit into the cache: whether it is there. An OUVI volume's map is held whole (R265). -/
def mapReady (d : Die) (vol page : Nat) (s : State) : Bool × State :=
  if volOuvi s vol || mapCached s d vol page then (true, s)
  else if (side s.tier d).trayReqs.any (fun r => r.why == .mapLoad vol page) then (false, s)
  else
    match mapPlace s d vol page with
    | some (port, base) => (false, askTray d port Opc.ld 3 base 4096 [] (.mapLoad vol page) s)
    | none => (true, mapPut d vol page false s)

/-- Is a unit's flash tray lost (R259, R456)? -/
def unitLost (s : State) (vol unit : Nat) : Bool :=
  match unitWhere s vol unit with
  | some (k, _, _) => s.flt.lostTrays.contains (k / 2 ^ 20)
  | none => false

/-- Can a volume serve a unit now (R259, R264)? Not offline, and in MAP_REBUILD only with its map page cached. -/
def volServes (s : State) (vol unit : Nat) : Bool :=
  let v := getD s.vols vol {}
  match v.st with
  | .online => true
  | .rebuild => (side s.ftl (volDie s vol)).mapCache.any (fun x => x.1 == vol && x.2.1 == unit / 512)
  | _ => false

end Machine
end Sys2Proof
end

