-- ==== Sys2Proof/Machine/CohCore.lean ====
section
/-! DEFINITION. The directory: entries, the messages of the home, recalls and the ends of transactions (R198 to R216). -/

namespace Sys2Proof
namespace Machine

/-- The DIR_LAYOUT body of a die. -/
def dirLayout (s : State) (d : Die) : Bytes := (recOf s RT.dirLayout (dieNum d)).getD []

/-- The domain of a class C extent: the one the record binds it to, else 0 (R198). -/
def domainOf (s : State) (d : Die) (ext : Nat) : Nat := (bindingOf (dirLayout s d) ext).getD 0

/-- The members of a domain of a die. -/
def membersOf (s : State) (d : Die) (dom : Nat) : List Nat :=
  match recOf s RT.dirLayout (dieNum d) with
  | some b => domainMembers b dom
  | none => []

/-- The member index of an endpoint in a domain. -/
def memberIdx (s : State) (d : Die) (dom ep : Nat) : Option Nat :=
  let ms := membersOf s d dom
  leastFrom (fun i => ms[i]? == some ep) 0 ms.length

/-- The endpoint of a member index. -/
def memberEp (s : State) (d : Die) (dom idx : Nat) : Nat := nth (membersOf s d dom) idx 0

/-- The directory entry of a line. -/
def dirOf (s : State) (d : Die) (line : Nat) : Option DirEntry := get? (side s.coh d).dir line

/-- The state with a line's entry put in its place. -/
def setDir (d : Die) (line : Nat) (e : DirEntry) (s : State) : State := modCoh s d (fun c => { c with dir := put c.dir line e })

/-- The state with a line in I. -/
def delDir (d : Die) (line : Nat) (s : State) : State := modCoh s d (fun c => { c with dir := del c.dir line })

/-- Is a home state transient (R204)? -/
def transient (st : LineSt) : Bool :=
  match st with
  | .s => false
  | .sb => false
  | .m => false
  | _ => true

/-- Is a line in a transient state? -/
def lineBusy (s : State) (d : Die) (line : Nat) : Bool := (dirOf s d line).elim false (fun e => transient e.st)

/-- The endpoints recorded for a line: pointers in S and M; in SB every member not fenced since (R212). -/
def holdersOf (s : State) (d : Die) (e : DirEntry) : List Nat :=
  match e.st with
  | .sb => (membersOf s d e.domain).filter (fun m => !e.fenced.contains m)
  | _ => e.ptrs.map (memberEp s d e.domain)

/-- The fabric address of a line. -/
def lineAddr (line : Nat) : Nat := line * 64

/-- Set poison on a line that was lost (R214, R222). -/
def poisonLine (d : Die) (line : Nat) (s : State) : State :=
  setStatus (.coh d) 3 (setStatus (.mem d) 0 { s with poison := insertNat line s.poison })

/-! Messages (R205 to R208) -/

/-- A home-issued message to an endpoint. -/
def cohMsg (s : State) (d : Die) (opc : Byte) (target txn : Nat) (ctx : BitVec 12) (opspec : Nat) (payload : Bytes) : Frame :=
  { opcode := opc, tc := 5, srcEp := BitVec.ofNat 20 (agentEp s d), ctx := ctx, tag := BitVec.ofNat 16 txn,
    fence := getD s.flt.fence target 0, addr := epAddr target 0, length := BitVec.ofNat 16 payload.length,
    opspec := BitVec.ofNat 16 opspec, payload := payload }

/-- A message that is being sent is counted: unanswered at its endpoint (R208), and as a CRECALL sent (R228). -/
def countSent (d : Die) (f : Frame) (s : State) : State :=
  let t := addrEp f.addr.toNat
  modCoh s d (fun c => { c with
    outstanding := put c.outstanding t (getD c.outstanding t 0 + 1),
    recalls := if f.opcode == Opc.crecall then (c.recalls + 1) % 2 ^ 64 else c.recalls })

/-- May one more message go to an endpoint: at most 64 are unanswered (R208)? -/
def cohRoom (s : State) (d : Die) (ep : Nat) : Bool := decide (getD (side s.coh d).outstanding ep 0 < 64)

/-- Send a home-issued message, or let it wait at the home while 64 to its endpoint are unanswered (R208). -/
def sendCoh (d : Die) (f : Frame) (s : State) : State :=
  if cohRoom s d (addrEp f.addr.toNat) then sendFrom d f (countSent d f s)
  else modCoh s d (fun c => { c with msgWait := c.msgWait ++ [f] })

/-- An answer from an endpoint: a report of it under R226 lapses (R448), one message fewer is unanswered, and the next that waits
for it goes, under the fence epoch that the home now holds (R207, R208). -/
def cohAnswered (d : Die) (ep : Nat) (s : State) : State :=
  let n := getD (side s.coh d).outstanding ep 0
  let s0 := modFlt s (fun x => { x with ackReports := x.ackReports.filter (fun e => e != ep) })
  let s1 := modCoh s0 d (fun c => { c with outstanding := if n ≤ 1 then del c.outstanding ep else put c.outstanding ep (n - 1) })
  match (side s1.coh d).msgWait.find? (fun f => addrEp f.addr.toNat == ep) with
  | some f =>
    sendCoh d { f with fence := getD s1.flt.fence ep 0 }
      (modCoh s1 d (fun c => { c with msgWait := dropFirst (fun g => addrEp g.addr.toNat == ep) c.msgWait }))
  | none => s1

/-- Send one message to each of some endpoints, as the copies of one multicast (R154); those for endpoints with 64 unanswered wait (R208). -/
def sendCohAll (d : Die) (opc : Byte) (targets : List Nat) (txn : Nat) (ctx : BitVec 12) (opspec : Nat) (payload : Bytes) (s : State) :
    State :=
  let msg := fun (e : Nat) => cohMsg s d opc e txn ctx opspec payload
  let now := (targets.filter (cohRoom s d)).map msg
  let later := (targets.filter (fun e => !cohRoom s d e)).map msg
  sendCopies d now (now.foldl (fun t f => countSent d f t) (modCoh s d (fun c => { c with msgWait := c.msgWait ++ later })))

/-- The next transaction number of a die. -/
def nextTxn (d : Die) (s : State) : Nat × State :=
  let n := (side s.coh d).txnNo
  (n, modCoh s d (fun c => { c with txnNo := (n + 1) % 2 ^ 16 }))

/-- The forward payload (R206). -/
def fwdPayload (line : Nat) (r : Frame) : Bytes :=
  toLE 8 (lineAddr line) ++ toLE 4 (r.srcEp.toNat * 2 ^ 12 + r.ctx.toNat) ++ toLE 2 r.tag.toNat ++ toLE 2 r.fence.toNat ++
    toLE 3 r.seq.toNat ++ [0]

/-! Allocating an entry (R210, R211) -/

/-- The lines with an entry in a set, of 16 ways. -/
def dirWays (s : State) (d : Die) (set : Nat) : Dict DirEntry := (side s.coh d).dir.filter (fun x => Config.dirSetOf x.1 == set)

/-- The holders of an entry as R211 counts them. -/
def holderCount (e : DirEntry) : Nat := if e.st = .sb then 257 else if e.st = .m then 1 else e.ptrs.length

/-- The victim of a set. -/
def dirVictim (l : Dict DirEntry) : Option (Nat × DirEntry) :=
  (l.filter (fun x => !transient x.2.st)).foldl (fun b x => match b with
    | none => some x
    | some y =>
      if holderCount x.2 < holderCount y.2 ∨ (holderCount x.2 = holderCount y.2 ∧ x.2.lastAccept < y.2.lastAccept) then some x
      else b) none

/-! Recalls (R216) -/

/-- OPSPEC of a CRECALL. -/
def recallSpec (wantData keepS asOwner : Bool) (reason : Nat) : Nat := b2n wantData + 2 * b2n keepS + 4 * b2n asOwner + 8 * reason

/-- The end of a recall: the line is in I, or shared by the owner that kept a copy. -/
def finishRecall (d : Die) (line : Nat) (s : State) : State :=
  match dirOf s d line with
  | none => s
  | some e =>
    match e.txn with
    | none => s
    | some t =>
      let s1 := match t.kind with
        | .recall r _ => if r = 1 then setStatus (.coh d) 2 s else s
        | _ => s
      match t.kind, t.owner with
      | .recall _ true, some x =>
        if t.kept then
          match memberIdx s1 d e.domain x with
          | some i => setDir d line { e with st := .s, ptrs := [i], txn := none } s1
          | none => delDir d line s1
        else delDir d line s1
      | _, _ => delDir d line s1

/-- Start the recall of a line in a stable state, for a reason; a line nobody holds is in I at once. -/
def startRecall (d : Die) (line reason : Nat) (keepS : Bool) (ctx : BitVec 12) (s : State) : State :=
  match dirOf s d line with
  | none => s
  | some e =>
    if transient e.st then s
    else
      match nextTxn d s with
      | (n, s1) =>
        let asOwner := e.st == .m
        let hs := holdersOf s1 d e
        let t : Txn := { num := n, kind := .recall reason (keepS && asOwner), req := none, awaited := hs,
                         owner := if asOwner then hs.head? else none }
        let s2 := setDir d line { e with st := .rc, txn := some t } s1
        if hs.isEmpty then finishRecall d line s2
        else sendCohAll d Opc.crecall hs n ctx (recallSpec false (keepS && asOwner) asOwner reason) (toLE 8 (lineAddr line)) s2

/-- Make room for a line's entry: none where there is room, else what to wait for: the eviction of the victim, or, where every way is in a
transient state, the first of them that leaves it (R211). -/
def dirRoom (d : Die) (line : Nat) (ctx : BitVec 12) (s : State) : Option WaitFor × State :=
  let l := dirWays s d (Config.dirSetOf line)
  if l.length < 16 then (none, s)
  else
    match dirVictim l with
    | some (v, _) =>
      let s1 := setStatus (.coh d) 1 (startRecall d v 0 false ctx s)
      if (dirOf s1 d v).isNone then (none, s1) else (some (.line v), s1)
    | none => (some (.dirSet (Config.dirSetOf line)), s)

/-! Answers to coherence requests -/

/-- A response of the home to a coherence request. -/
def cohRsp (d : Die) (req : Frame) (opc : Byte) (status : BitVec 5) (opspec : Nat) (payload : Bytes) (s : State) : State :=
  sendFrom d (mkRsp s d req opc status payload (BitVec.ofNat 16 opspec))
    (tapBytes d req.ctx.toNat 5 1 payload.length s)

/-- The 64 bytes of a line in memory. -/
def lineBytes (s : State) (line : Nat) : Bytes := readMem s (lineAddr line) 64

/-- Does a line lie in a T1_ONLY extent, so that it is written in the class C cache (R234)? -/
def overTray (s : State) (line : Nat) : Bool := (extAt s (addrOff (lineAddr line))).elim false (fun e => !e.classT && e.policy == 2)

/-- Is there a way for a line that comes back: in the class C cache, after the write-back of a dirty victim (R234)? -/
def lineRoom (d : Die) (line : Nat) (s : State) : Bool × State := if overTray s line then ccMakeWay d line s else (true, s)

/-- Write a returned line into memory; in the class C cache it becomes dirty. A marker of the line stays (R224). -/
def writeLine (d : Die) (line : Nat) (b : Bytes) (s : State) : State :=
  let s1 := writeMem s (lineAddr line) (b.take 64)
  if overTray s1 line then ccPut d line { dirty := true, last := (side s1.home d).order } s1 else s1

/-- The response that answers a transaction's request when it ends well (R213): CGRANT for a CUPG that still holds its copy,
else the line. -/
def grantM (d : Die) (line : Nat) (e : DirEntry) (t : Txn) (s : State) : State :=
  match t.req with
  | none => delDir d line s
  | some r =>
    match memberIdx s d e.domain r.srcEp.toNat with
    | none => delDir d line s
    | some i =>
      let s1 := setDir d line { e with st := .m, ptrs := [i], fenced := [], txn := none } s
      match t.kind with
      | .inv true => cohRsp d r Opc.cgrant Sts.ok 0 [] s1
      | _ => cohRsp d r Opc.cdataM Sts.ok 0 (lineBytes s1 line) s1

/-- Was the home of a class C line lost with its tray (R456)? -/
def lineLost (s : State) (line : Nat) : Bool :=
  (extAt s (addrOff (lineAddr line))).elim false (fun e => (getD s.exts e.idx {}).homeLost)

/-- The end of an invalidation: M for the requester, or I where it has been fenced (R214) or the home has been lost, which answers it
HOMELOST (R456). -/
def finishInv (d : Die) (line : Nat) (e : DirEntry) (t : Txn) (s : State) : State :=
  if t.reqFenced then delDir d line s
  else if lineLost s line then
    match t.req with
    | some r => refuse d r Sts.homelost (delDir d line s)
    | none => delDir d line s
  else grantM d line e t s

/-- A line enters AB (R215): the requester is answered POISON and addressed as owner by a recall. -/
def enterAb (d : Die) (line : Nat) (e : DirEntry) (t : Txn) (reason : Nat) (s : State) : State :=
  match t.req with
  | none => delDir d line (poisonLine d line s)
  | some r =>
    let s1 := setStatus (.coh d) 4 (setDir d line { e with st := .ab, txn := some { t with awaited := [r.srcEp.toNat] } } s)
    let s2 := cohRsp d r (if r.opcode == Opc.crdS then Opc.cdataS else Opc.cdataM) Sts.poison 0 [] s1
    sendCoh d (cohMsg s2 d Opc.crecall r.srcEp.toNat t.num r.ctx (recallSpec true false true reason) (toLE 8 (lineAddr line))) s2

end Machine
end Sys2Proof
end

