-- ==== Sys2Proof/Machine/Float.lean ====
section
/-! DEFINITION. Number formats and their arithmetic: exact values, rounded once (R291 to R298). A flag set is a number whose bits
are those of R296: INVALID 1, DIVZERO 2, OVERFLOW 4, UNDERFLOW 8, SAT 16. -/

namespace Sys2Proof
namespace Machine

/-- A value of a floating-point format: NaN, a signed infinity, or (-1)^neg × m × 2^e, so that a zero keeps its sign. -/
inductive FV where
  | nan
  | inf (neg : Bool)
  | fin (neg : Bool) (m : Nat) (e : Int)
deriving DecidableEq, Repr

/-- What the top exponent of a format stands for. -/
inductive TopExp where
  | ieee
  | e4m3
  | plain
deriving DecidableEq, Repr

/-- A floating-point format: exponent bits, mantissa bits, bias. -/
structure FFmt where
  eb : Nat
  mb : Nat
  bias : Int
  top : TopExp
deriving DecidableEq, Repr

/-- FP32. -/
def fp32 : FFmt := ⟨8, 23, 127, .ieee⟩

/-- The format, or element format, of an FMT code below 0xA (R291). -/
def ffmt (fmt : Nat) : FFmt :=
  match fmt with
  | 0 => fp32
  | 1 => ⟨5, 10, 15, .ieee⟩
  | 2 => ⟨8, 7, 127, .ieee⟩
  | 3 => ⟨4, 3, 7, .e4m3⟩
  | 4 => ⟨5, 2, 15, .ieee⟩
  | 5 => ⟨4, 3, 7, .e4m3⟩
  | 6 => ⟨5, 2, 15, .ieee⟩
  | 7 => ⟨2, 3, 1, .plain⟩
  | 8 => ⟨3, 2, 3, .plain⟩
  | _ => ⟨2, 1, 1, .plain⟩

/-- Is the FMT code an MX format? -/
def isMx (fmt : Nat) : Bool := decide (5 ≤ fmt) && decide (fmt ≤ 9)

/-- The bits of an element of an FMT code. -/
def elemBits (fmt : Nat) : Nat :=
  if fmt = 0xA then 8 else if fmt = 0xB then 32 else let f := ffmt fmt; 1 + f.eb + f.mb

/-- The least exponent of a format's unit. -/
def qMin (f : FFmt) : Int := 1 - f.bias - f.mb

/-- The value of a bit pattern. -/
def decodeF (f : FFmt) (v : Nat) : FV :=
  let neg := bitAt v (f.eb + f.mb)
  let ex := v / 2 ^ f.mb % 2 ^ f.eb
  let ma := v % 2 ^ f.mb
  let all := 2 ^ f.eb - 1
  if f.top = .ieee ∧ ex = all then if ma = 0 then .inf neg else .nan
  else if f.top = .e4m3 ∧ ex = all ∧ ma = 2 ^ f.mb - 1 then .nan
  else if ex = 0 then .fin neg ma (qMin f)
  else .fin neg (2 ^ f.mb + ma) (ex - f.bias - f.mb)

/-- The largest finite value of a format: its mantissa and exponent. -/
def maxFin (f : FFmt) : Nat × Int :=
  match f.top with
  | .ieee => (2 ^ (f.mb + 1) - 1, 2 ^ f.eb - 2 - f.bias - f.mb)
  | .e4m3 => (2 ^ (f.mb + 1) - 2, 2 ^ f.eb - 1 - f.bias - f.mb)
  | .plain => (2 ^ (f.mb + 1) - 1, 2 ^ f.eb - 1 - f.bias - f.mb)

/-- The canonical NaN of a format (R291). -/
def nanBits (f : FFmt) : Nat :=
  match f.top with
  | .ieee => (2 ^ f.eb - 1) * 2 ^ f.mb + (if f.mb = 2 then 3 else 2 ^ (f.mb - 1))
  | _ => 2 ^ (f.eb + f.mb) - 1

/-- The sign bit of a format. -/
def signBits (f : FFmt) (neg : Bool) : Nat := b2n neg * 2 ^ (f.eb + f.mb)

/-- Infinity, which E4M3 has not. -/
def infBits (f : FFmt) (neg : Bool) : Nat :=
  match f.top with
  | .ieee => signBits f neg + (2 ^ f.eb - 1) * 2 ^ f.mb
  | _ => nanBits f

/-- A value m × 2^q of a format as bits: q is its unit, the least one for a subnormal. -/
def finBits (f : FFmt) (neg : Bool) (m : Nat) (q : Int) : Nat :=
  if m < 2 ^ f.mb then signBits f neg + m
  else
    let p := if m < 2 ^ (f.mb + 1) then (m, q) else (m / 2, q + 1)
    signBits f neg + (p.2 + f.bias + f.mb).toNat * 2 ^ f.mb + (p.1 - 2 ^ f.mb)

/-- m / 2^k rounded to a whole number: 0 to nearest with ties to even, 1 toward zero, 2 toward −∞, 3 toward +∞ (R294). -/
def roundShift (rnd : Nat) (neg : Bool) (m k : Nat) : Nat :=
  let fl := m / 2 ^ k
  let rem := m % 2 ^ k
  let up :=
    if rem = 0 then false
    else if rnd = 0 then decide (2 ^ k < 2 * rem) || (2 * rem == 2 ^ k && fl % 2 == 1)
    else if rnd = 1 then false
    else if rnd = 2 then neg
    else !neg
  if up then fl + 1 else fl

/-- m × 2^e brought to the unit 2^q by rounding. -/
def roundUnit (rnd : Nat) (neg : Bool) (m : Nat) (e q : Int) : Nat :=
  if q ≤ e then m * 2 ^ (e - q).toNat else roundShift rnd neg m (q - e).toNat

/-- The unit to which m × 2^e, m not zero, is rounded in a format. -/
def unitOf (f : FFmt) (m : Nat) (e : Int) : Int :=
  let q := e + (Nat.log2 m : Int) - f.mb
  if q < qMin f then qMin f else q

/-- Is m × 2^e greater than n × 2^g? -/
def gtDy (m : Nat) (e : Int) (n : Nat) (g : Int) : Bool :=
  if e ≤ g then decide (n * 2 ^ (g - e).toNat < m) else decide (n < m * 2 ^ (e - g).toNat)

/-- Does rounding mode rnd take an overflow of a sign to infinity (R294)? -/
def toInfinity (rnd : Nat) (neg : Bool) : Bool := rnd == 0 || (rnd == 2 && neg) || (rnd == 3 && !neg)

/-- A finite value rounded into a format: bits and flags (R294, R296). -/
def narrowFin (f : FFmt) (rnd : Nat) (sat neg : Bool) (m : Nat) (e : Int) : Nat × Nat :=
  if m = 0 then (signBits f neg, 0)
  else
    let q := unitOf f m e
    let r := roundUnit rnd neg m e q
    let mx := maxFin f
    if gtDy r q mx.1 mx.2 then
      if sat then (finBits f neg mx.1 mx.2, 16)
      else if toInfinity rnd neg then (infBits f neg, if f.top = .ieee then 4 else 1)
      else (finBits f neg mx.1 mx.2, 0)
    else (finBits f neg r q, if r < 2 ^ f.mb then 8 else 0)

/-- A value narrowed into a floating-point format (R294). -/
def narrowF (f : FFmt) (rnd : Nat) (sat : Bool) (x : FV) : Nat × Nat :=
  match x with
  | .nan => (nanBits f, 0)
  | .inf neg => (infBits f neg, if f.top = .ieee then 0 else 1)
  | .fin neg m e => narrowFin f rnd sat neg m e

/-- A value as FP32 bits. -/
def toFp32 (rnd : Nat) (x : FV) : BitVec 32 × Nat :=
  let r := narrowF fp32 rnd false x
  (BitVec.ofNat 32 r.1, r.2)

/-- The value of FP32 bits. -/
def ofFp32 (v : BitVec 32) : FV := decodeF fp32 v.toNat

/-- A value rounded to a whole number and clamped to w bits, two's complement; NaN is 0 (R294). -/
def narrowInt (w : Nat) (rnd : Nat) (x : FV) : Nat × Nat :=
  let hi : Int := 2 ^ (w - 1) - 1
  let lo : Int := -(2 ^ (w - 1))
  let wrap := fun (v : Int) => (v % (2 ^ w : Int)).toNat
  match x with
  | .nan => (0, 0)
  | .inf neg => (wrap (if neg then lo else hi), 16)
  | .fin neg m e =>
    let r := roundUnit rnd neg m e 0
    let v : Int := if neg then -(r : Int) else r
    if v < lo then (wrap lo, 16) else if hi < v then (wrap hi, 16) else (wrap v, 0)

/-! Exact arithmetic on values -/

/-- The value of a whole number. -/
def ofInt (v : Int) : FV := .fin (decide (v < 0)) v.natAbs 0

/-- A value scaled by a power of two. -/
def scaleFV (x : FV) (k : Int) : FV :=
  match x with
  | .nan => .nan
  | .inf n => .inf n
  | .fin n m e => .fin n m (e + k)

/-- The exact product. -/
def mulFV (a b : FV) : FV :=
  match a, b with
  | .nan, _ => .nan
  | _, .nan => .nan
  | .inf s, .inf t => .inf (s != t)
  | .inf s, .fin t m _ => if m = 0 then .nan else .inf (s != t)
  | .fin s m _, .inf t => if m = 0 then .nan else .inf (s != t)
  | .fin s m e, .fin t n g => .fin (s != t) (m * n) (e + g)

/-- The sign of a value; a zero has one too. -/
def negFV (x : FV) : Bool :=
  match x with
  | .nan => false
  | .inf n => n
  | .fin n _ _ => n

/-- Is a value NaN? -/
def nanFV (x : FV) : Bool := x == .nan

/-- The exponent of a finite value. -/
def expFV (x : FV) : Int :=
  match x with
  | .fin _ _ e => e
  | _ => 0

/-- A finite value as a multiple of 2^q, for q at most its exponent. -/
def unitsFV (q : Int) (x : FV) : Int :=
  match x with
  | .fin n m e => let v : Int := m * 2 ^ (e - q).toNat; if n then -v else v
  | _ => 0

/-- The least of some exponents. -/
def minExp (l : List FV) (a : Int) : Int := l.foldl (fun b x => if expFV x < b then expFV x else b) a

/-- The exact sum of values. A sum of zero has the sign that IEEE 754 gives it: negative when every term is negative, and
toward −∞ unless every term is positive (DEDUCED, log 30). -/
def sumFV (rnd : Nat) (l : List FV) : FV :=
  if l.any nanFV then .nan
  else
    let infs := l.filterMap (fun x => match x with
      | .inf n => some n
      | _ => none)
    match infs with
    | n :: r => if r.all (· == n) then .inf n else .nan
    | [] =>
      let q := minExp l (l.head?.elim 0 expFV)
      let v := (l.map (unitsFV q)).foldl (· + ·) 0
      if v = 0 then .fin (if rnd = 2 then l.any negFV else l.all negFV) 0 0 else .fin (decide (v < 0)) v.natAbs q

/-- Is a below b, with −0 below +0? Neither is NaN. -/
def ltFV (a b : FV) : Bool :=
  match a, b with
  | .inf s, .inf t => s && !t
  | .inf s, _ => s
  | _, .inf t => !t
  | .fin s m e, .fin t n g =>
    let q := if e < g then e else g
    let x := unitsFV q (.fin s m e)
    let y := unitsFV q (.fin t n g)
    decide (x < y) || (m == 0 && n == 0 && s && !t)
  | _, _ => false

/-- Is a numerically below b (zeros of both signs are equal)? False for a NaN. -/
def numLt (a b : FV) : Bool :=
  match a, b with
  | .fin _ 0 _, .fin _ 0 _ => false
  | _, _ => if nanFV a || nanFV b then false else ltFV a b

/-- Flags of an exact operation: INVALID where a NaN comes from values none of which is one. -/
def nanFlag (ins : List FV) (out : FV) : Nat := if nanFV out && !ins.any nanFV then 1 else 0

/-- An exact result rounded once to FP32 with its flags. -/
def finish (rnd : Nat) (ins : List FV) (out : FV) : BitVec 32 × Nat :=
  let r := toFp32 rnd out
  (r.1, r.2 ||| nanFlag ins out)

/-- a + b. -/
def fAdd (rnd : Nat) (a b : BitVec 32) : BitVec 32 × Nat :=
  let l := [ofFp32 a, ofFp32 b]
  finish rnd l (sumFV rnd l)

/-- a − b. -/
def fSub (rnd : Nat) (a b : BitVec 32) : BitVec 32 × Nat := fAdd rnd a (b ^^^ 0x80000000#32)

/-- a × b. -/
def fMul (rnd : Nat) (a b : BitVec 32) : BitVec 32 × Nat :=
  finish rnd [ofFp32 a, ofFp32 b] (mulFV (ofFp32 a) (ofFp32 b))

/-- a × b + c rounded once. -/
def fFma (rnd : Nat) (a b c : BitVec 32) : BitVec 32 × Nat :=
  finish rnd [ofFp32 a, ofFp32 b, ofFp32 c] (sumFV rnd [mulFV (ofFp32 a) (ofFp32 b), ofFp32 c])

/-- The canonical FP32 NaN. -/
abbrev nan32 : BitVec 32 := 0x7FC00000#32

/-- The larger, NaN winning (R296). -/
def fMax (a b : BitVec 32) : BitVec 32 :=
  if nanFV (ofFp32 a) || nanFV (ofFp32 b) then nan32 else if ltFV (ofFp32 a) (ofFp32 b) then b else a

/-- The smaller, NaN winning. -/
def fMin (a b : BitVec 32) : BitVec 32 :=
  if nanFV (ofFp32 a) || nanFV (ofFp32 b) then nan32 else if ltFV (ofFp32 b) (ofFp32 a) then b else a

/-- The whole part of the square root, by its bits from a place on. -/
def isqrtFrom (k r n : Nat) : Nat :=
  match k with
  | 0 => r
  | j + 1 => if (r + 2 ^ j) * (r + 2 ^ j) ≤ n then isqrtFrom j (r + 2 ^ j) n else isqrtFrom j r n

/-- A positive value known to lie at or just above m × 2^e: one more bit says whether it is above. -/
def above (neg inexact : Bool) (m : Nat) (e : Int) : FV := .fin neg (2 * m + b2n inexact) (e - 1)

/-- 1 / a (R296 VRCP). -/
def fRcp (rnd : Nat) (a : BitVec 32) : BitVec 32 × Nat :=
  match ofFp32 a with
  | .nan => (nan32, 0)
  | .inf n => (BitVec.ofNat 32 (signBits fp32 n), 0)
  | .fin n m e =>
    if m = 0 then (BitVec.ofNat 32 (infBits fp32 n), 2)
    else toFp32 rnd (above n (2 ^ 80 % m != 0) (2 ^ 80 / m) (-80 - e))

/-- 1 / √a (R296 VRSQ). -/
def fRsq (rnd : Nat) (a : BitVec 32) : BitVec 32 × Nat :=
  match ofFp32 a with
  | .nan => (nan32, 0)
  | .inf n => if n then (nan32, 1) else (0, 0)
  | .fin n m e =>
    if m = 0 then (BitVec.ofNat 32 (infBits fp32 n), 0)
    else if n then (nan32, 1)
    else
      let p : Nat × Int := if e % 2 = 0 then (m, e) else (2 * m, e - 1)
      let r := isqrtFrom 81 0 (2 ^ 160 / p.1)
      toFp32 rnd (above false (r * r * p.1 != 2 ^ 160) r (-80 - p.2 / 2))

/-- Bits after the point in the series below. -/
abbrev serBits : Nat := 320

/-- ln 2 in units of 2^-320. -/
abbrev ln2Units : Nat := 0xb17217f7d1cf79abc9e3b39803f2f6af40f343267298b62d8a0d175b8baafa2be7b876206debac98

/-- The exponential series of y in units of 2^-320, from a term on. -/
def expSeries (fuel k term y acc : Nat) : Nat :=
  match fuel with
  | 0 => acc
  | n + 1 => expSeries n (k + 1) (term * y / 2 ^ serBits / k) y (acc + term)

/-- 2^f for f in units of 2^-150 below 1, in units of 2^-320. -/
def exp2Units (f : Nat) : Nat := expSeries 90 1 (2 ^ serBits) (f * ln2Units / 2 ^ 150) 0

/-- 2^a (R296 VEXP2). -/
def fExp2 (rnd : Nat) (a : BitVec 32) : BitVec 32 × Nat :=
  match ofFp32 a with
  | .nan => (nan32, 0)
  | .inf n => if n then (0, 0) else (a, 0)
  | .fin n m e =>
    if gtDy m e 1 10 then toFp32 rnd (above false true 1 (if n then -1100 else 1100))
    else
      let x := unitsFV (-150) (.fin n m e)
      let whole := x / (2 ^ 150 : Int)
      let f := (x % (2 ^ 150 : Int)).toNat
      if f = 0 then toFp32 rnd (.fin false 1 whole) else toFp32 rnd (above false true (exp2Units f) (whole - serBits))

/-- The series of the inverse hyperbolic tangent: z, z³/3, z⁵/5 and so on, in units of 2^-320. -/
def atanhSeries (fuel k term z2 acc : Nat) : Nat :=
  match fuel with
  | 0 => acc
  | n + 1 => atanhSeries n (k + 2) (term * z2 / 2 ^ serBits) z2 (acc + term / k)

/-- log2 of m / 2^k, between 1 and 2, in units of 2^-320. -/
def log2Units (m k : Nat) : Nat :=
  let z := (m - 2 ^ k) * 2 ^ serBits / (m + 2 ^ k)
  2 * atanhSeries 110 1 z (z * z / 2 ^ serBits) 0 * 2 ^ serBits / ln2Units

/-- log2 a (R296 VLOG2). -/
def fLog2 (rnd : Nat) (a : BitVec 32) : BitVec 32 × Nat :=
  match ofFp32 a with
  | .nan => (nan32, 0)
  | .inf n => if n then (nan32, 1) else (a, 0)
  | .fin n m e =>
    if m = 0 then (BitVec.ofNat 32 (infBits fp32 true), 2)
    else if n then (nan32, 1)
    else
      let k := Nat.log2 m
      let whole : Int := e + k
      if m = 2 ^ k then toFp32 rnd (ofInt whole)
      else
        let v : Int := whole * (2 ^ serBits : Int) + log2Units m k
        toFp32 rnd (if v < 0 then .fin true (2 * v.natAbs - 1) (-(serBits : Int) - 1) else above false true v.natAbs (-(serBits : Int)))

/-! Elements and blocks (R292, R293, R295) -/

/-- Element i of packed elements of w bits, least significant bits first. -/
def elemAt (b : Bytes) (w i : Nat) : Nat := leNat (slice b (i * w / 8) ((i * w + w - 1) / 8 + 1 - i * w / 8)) / 2 ^ (i * w % 8) % 2 ^ w

/-- Elements packed without gaps. -/
def packElems (w : Nat) (l : List Nat) : Bytes :=
  toLE (l.length * w / 8) (l.foldr (fun x a => x % 2 ^ w + 2 ^ w * a) 0)

/-- An element as its exact value; scale is the E8M0 byte of its block for an MX format. -/
def elemFV (fmt scale v : Nat) : FV :=
  if fmt = 0xA then ofInt (if v < 128 then v else (v : Int) - 256)
  else if isMx fmt then if scale = 0xFF then .nan else scaleFV (decodeF (ffmt fmt) v) ((scale : Int) - 127)
  else decodeF (ffmt fmt) v

/-- Does a value lie beyond FP32's largest finite one? -/
def beyond32 (x : FV) : Bool :=
  match x with
  | .fin _ m e => gtDy m e (maxFin fp32).1 (maxFin fp32).2
  | _ => false

/-- An element widened to the 32 bits of a lane (R293); none where no FP32 value is the element's exact value. -/
def widen (fmt scale v : Nat) : Option (BitVec 32) :=
  if fmt = 0xB then some (BitVec.ofNat 32 v)
  else if fmt = 0 then some (if nanFV (ofFp32 (BitVec.ofNat 32 v)) then nan32 else BitVec.ofNat 32 v)
  else if fmt = 0xA then some ((BitVec.ofNat 8 v).signExtend 32)
  else let x := elemFV fmt scale v; if beyond32 x then none else some (toFp32 0 x).1

/-- A lane narrowed to an element of a format that is not MX (R294): bits and flags. -/
def narrow (fmt rnd : Nat) (sat : Bool) (v : BitVec 32) : Nat × Nat :=
  if fmt = 0xB ∨ fmt = 0 then (v.toNat, 0)
  else if fmt = 0xA then narrowInt 8 rnd (ofFp32 v)
  else narrowF (ffmt fmt) rnd sat (ofFp32 v)

/-- emax of an MX format (R295). -/
def mxEmax (fmt : Nat) : Int := if fmt = 5 then 8 else if fmt = 6 then 15 else if fmt = 7 then 2 else if fmt = 8 then 4 else 2

/-- The magnitude of a value as (m, e), zero for none. -/
def floorLog2 (x : FV) : Option Int :=
  match x with
  | .fin _ m e => if m = 0 then none else some (e + Nat.log2 m)
  | _ => none

/-- Quantise a block of lanes to an MX format: scale byte, elements, flags (R295). -/
def quantise (fmt rnd : Nat) (lanes : List (BitVec 32)) : Nat × List Nat × Nat :=
  let xs := lanes.map ofFp32
  if xs.any (fun x => match x with
    | .fin _ _ _ => false
    | _ => true) then (0xFF, lanes.map (fun _ => 0), 0)
  else
    let e0 := match (xs.filterMap floorLog2) with
      | [] => 0
      | h :: t => t.foldl (fun a b => if a < b then b else a) h - mxEmax fmt
    let e := if e0 < -127 then -127 else if 127 < e0 then 127 else e0
    let rs := xs.map (fun x => narrowF (ffmt fmt) rnd true (scaleFV x (-e)))
    ((e + 127).toNat, rs.map (·.1), rs.foldl (fun a r => a ||| r.2) 0)

/-- One level of the tree of R297. -/
def treeLevel {α : Type} (op : α → α → α × Nat) (l : List α) : List α × Nat :=
  match l with
  | a :: b :: r =>
    let x := op a b
    let t := treeLevel op r
    (x.1 :: t.1, x.2 ||| t.2)
  | l => (l, 0)

/-- The tree of R297: levels of pairs until one value is left. -/
def tree {α : Type} (fuel : Nat) (op : α → α → α × Nat) (l : List α) : List α × Nat :=
  match fuel with
  | 0 => (l, 0)
  | n + 1 =>
    if l.length ≤ 1 then (l, 0)
    else
      let t := treeLevel op l
      let u := tree n op t.1
      (u.1, t.2 ||| u.2)

end Machine
end Sys2Proof
end

