-- ==== Sys2Proof/Machine/Home.lean ====
section
/-! DEFINITION. The home unit: checks of memory and coherence requests, trackers, waiting and resuming, performing, the home table
(R168 to R194, R204 to R216). -/

namespace Sys2Proof
namespace Machine

/-! Forms of memory requests (R168 to R170) -/

/-- Is the opcode an atomic? -/
def isAtomic (o : Byte) : Bool := o == Opc.amo || o == Opc.amoNr || o == Opc.cas

/-- Is the opcode a load, a store or an atomic? -/
def isAccess (o : Byte) : Bool := o == Opc.ld || o == Opc.st || isAtomic o

/-- The operand size of an atomic, in bytes. -/
def atomSize (f : Frame) : Nat := 2 ^ fld f.opspec.toNat 7 4

/-- The bytes a memory request accesses. -/
def accessLen (f : Frame) : Nat :=
  if f.opcode = Opc.ld then f.opspec.toNat % 2 ^ 13
  else if f.opcode = Opc.st then if f.cmp then f.opspec.toNat else f.payload.length
  else atomSize f

/-- Is an AMO's FUNC and LOG2_SIZE listed (R169)? -/
def amoListed (fn log : Nat) : Bool := (decide (fn ≤ 8) && (log == 2 || log == 3)) || (fn == 9 && log == 2)

/-- Check 1 of R172: OPSPEC codes and payload lengths. -/
def memFormBad (f : Frame) : Option (BitVec 5) :=
  let op := f.opspec.toNat
  let n := f.payload.length
  if f.opcode = Opc.ld then
    if fld op 14 13 ≠ 0 then some Sts.format
    else if op % 2 ^ 13 = 0 ∨ 4096 < op % 2 ^ 13 ∨ n ≠ 0 then some Sts.length else none
  else if f.opcode = Opc.st then
    if f.cmp then if op = 0 ∨ 4096 < op then some Sts.length else none
    else if op ≠ 0 then some Sts.format else if 4096 < n then some Sts.length else none
  else if f.opcode = Opc.cas then
    let log := fld op 7 4
    if op / 256 ≠ 0 ∨ op % 16 ≠ 0 ∨ !(log == 2 || log == 3 || log == 4) then some Sts.format
    else if n ≠ 2 * 2 ^ log then some Sts.length else none
  else
    let log := fld op 7 4
    if op % 16 ≠ 0 ∨ !amoListed (op / 256) log then some Sts.format
    else if n ≠ 2 ^ log then some Sts.length else none

/-- Check 2 of R172: alignment (R170). -/
def memAligned (f : Frame) : Bool :=
  let a := addrOff f.addr.toNat
  let n := accessLen f
  if isAtomic f.opcode then a % n == 0 else n == 0 || decide (a % 4096 + n ≤ 4096)

/-- R58 item 1: the context is active at this die and admits the source; agents are members of every set (R302). -/
def ctxAdmits (s : State) (d : Die) (f : Frame) : Bool :=
  ctxPhase s d f.ctx.toNat == .active &&
    (admits s f.ctx.toNat f.srcEp.toNat || decide (0xFE ≤ epIndex f.srcEp.toNat))

/-- The status that turns a request away at the home before its rights are looked at: a context in reset or destruction ABORTED
(R378, R395), one that is not active or does not let in the source DENIED (R58), a handle of a switch answered for by promotion STALE
or HOMELOST (R459), a die whose escrow has 16 segments left RETRY for
every context but 0 (R438; the device's own agents go on). -/
def admitBad (s : State) (d : Die) (f : Frame) : Option (BitVec 5) :=
  let c := f.ctx.toNat
  if ctxPhase s d c = .resetting ∨ ctxPhase s d c = .destroying then some Sts.aborted
  else if !ctxAdmits s d f then some Sts.denied
  else if foreign s f.addr.toNat ∧ 0x41 ≤ f.opcode.toNat ∧ f.opcode.toNat ≤ 0x45 then some Sts.stale
  else if foreign s f.addr.toNat ∧ (f.opcode = Opc.colReduce ∨ 0x63 ≤ f.opcode.toNat) then some Sts.homelost
  else if (side s.mtr.escrow d).stopped ∧ c ≠ 0 ∧ epIndex f.srcEp.toNat < 0xFE then some Sts.retry
  else none

/-- Is a request admitted under its context? -/
def admitted (s : State) (d : Die) (f : Frame) : Bool := (admitBad s d f).isNone

/-- The status of a request that is not admitted. -/
def admitSts (s : State) (d : Die) (f : Frame) : BitVec 5 := (admitBad s d f).getD Sts.denied

/-- The right a memory request needs (R59): R 1, W 2, W and A 6. -/
def rightNeeded (o : Byte) : Nat := if o = Opc.ld then 1 else if o = Opc.st then 2 else 6

/-- Does a set of rights hold those needed? -/
def hasRights (have_ need_ : Nat) : Bool := have_ &&& need_ == need_

/-- An object that a new access finds at an offset: not one in FREEING or INBOUND (R71, R238). -/
def objFor (s : State) (off : Nat) : Option (Nat × Obj) :=
  s.objs.find? (fun p => decide (addrOff p.2.addr ≤ off) && decide (off < addrOff p.2.addr + p.2.size) && p.2.st != .inbound && p.2.st != .freeing)

/-- Does a page of a session that is going to sleep take no stores (R247)? Any session that lists the page counts, whoever made it. -/
def pageStale (s : State) (o : Obj) (store : Bool) : Bool :=
  store && o.kind == 1 && s.sessions.any (fun x => x.2.st == .sleeping && x.2.pages.any (fun p => (get? s.objs p.obj) == some o))

/-- Checks 4 to 6 of R172 for an address in an extent; a KV page with REFCOUNT above 1 takes no store or atomic (R349). -/
def memPlaceBad (s : State) (d : Die) (f : Frame) : Option (BitVec 5) :=
  let off := transOff s f.addr.toNat
  let n := accessLen f
  match extAt s off with
  | none => some (match transAddr s f.addr.toNat with
    | .inl st => st
    | .inr _ => Sts.nohome)
  | some e =>
    let ph := extPhase s d e.idx
    if ph = .free then some Sts.nohome
    else if e.base + e.size < off + n then some Sts.length
    else
      match (if e.classT then (objFor s off).map (·.2) else none) with
      | none =>
        if e.classT then some Sts.nohome
        else if ph ≠ .active then some Sts.revoked
        else if (getD s.exts e.idx {}).homeLost then some Sts.homelost
        else if !hasRights (rightsOn s e f.ctx.toNat) (rightNeeded f.opcode) then some Sts.denied else none
      | some o =>
        if addrOff o.addr + o.size < off + n then some Sts.length
        else if ph ≠ .active then some Sts.revoked
        else if o.homeLost then some Sts.homelost
        else if !hasRights (rightsOn s e f.ctx.toNat) (rightNeeded f.opcode) then some Sts.denied
        else if f.opcode ≠ Opc.ld ∧ o.owner ≠ f.ctx.toNat then some Sts.denied
        else if f.opcode ≠ Opc.ld ∧ o.kind = 1 ∧ 1 < o.refcount then some Sts.denied
        else if pageStale s o (f.opcode != Opc.ld) then some Sts.stale else none

/-! Trackers (R190, R391) -/

/-- The requests that hold trackers of a die, each with whether its tracker is a reserved one: every constituent of a waiting entry, and every
request whose transaction is under way and which is not answered yet (R187, R190, R204). -/
def trackers (s : State) (d : Die) : List (Frame × Bool) :=
  (side s.home d).waiting.flatMap (fun w => (w.frame :: w.more).map (fun f => (f, w.reserved.contains (keyOf f)))) ++
    (side s.coh d).dir.filterMap (fun x => x.2.txn.bind (fun t =>
      if x.2.st == .ab || t.reqFenced then none else t.req.map (fun f => (f, t.reserved))))

/-- The accepted requests of a die that hold no tracker and are not answered yet: compute descriptors, moves and clones (R27, R239). -/
def heldReqs (s : State) (d : Die) : List Frame :=
  (side s.col d).ops.map (·.frame) ++
    (side s.tier d).moves.filterMap (fun m => match m.who with
      | .frame f => some f
      | _ => none) ++
    (side s.tier d).copies.filterMap (fun j => match j.why with
      | .clone f _ => some f
      | _ => none)

/-- Does a key name a request that is accepted here and not answered yet (R126)? -/
def outstanding (s : State) (d : Die) (k : ReqKey) : Bool := (trackers s d).any (fun x => keyOf x.1 == k) || (heldReqs s d).any (fun f => keyOf f == k)

/-- General trackers in use: those of a context beyond its reserved ones. -/
def generalUsed (s : State) (ts : List (Frame × Bool)) : Nat :=
  let ws := ts.filter (fun x => !x.2)
  let cs := (ws.map (fun x => x.1.ctx.toNat)).eraseDups
  sumOf (cs.map (fun c => (ws.filter (fun x => x.1.ctx.toNat == c)).length - qosTrackers s c))

/-- The general trackers of a die: those not reserved for starved sources or by QOS records. -/
def generalTrackers (s : State) : Nat := 30720 - sumOf ((recsOf s RT.qos).map (fun r => le r.body 20 2))

/-- Is a source starved: RETRY for want of a tracker within the last 100 µs (R190)? -/
def starvedNow (s : State) (d : Die) (f : Frame) : Bool :=
  (side s.home d).starved.any (fun x => x.1 == f.srcEp.toNat && x.2.1 == f.ctx.toNat && decide (timerOf s d ≤ x.2.2 + 100000))

/-- A tracker for a request beside those that are held: none where there is none, else whether it is a reserved one. -/
def trackerAmong (s : State) (d : Die) (ts : List (Frame × Bool)) (f : Frame) : Option Bool :=
  let own := (ts.filter (fun x => x.1.ctx == f.ctx && !x.2)).length
  if own < qosTrackers s f.ctx.toNat ∨ generalUsed s ts < generalTrackers s then some false
  else if starvedNow s d f && decide ((ts.filter (·.2)).length < 2048) &&
      !ts.any (fun x => x.2 && x.1.srcEp == f.srcEp && x.1.ctx == f.ctx) then some true
  else none

/-- A tracker for a request: none where there is none, else whether it is a reserved one. -/
def findTracker (s : State) (d : Die) (f : Frame) : Option Bool := trackerAmong s d (trackers s d) f

/-- A tracker for each of some requests in turn: those that find one with the kind of it, and those that find none (R187). -/
def findTrackers (s : State) (d : Die) (ts : List (Frame × Bool)) (fs : List Frame) : List (Frame × Bool) × List Frame :=
  match fs with
  | [] => ([], [])
  | f :: r =>
    match trackerAmong s d ts f with
    | some b => let x := findTrackers s d (ts ++ [(f, b)]) r; ((f, b) :: x.1, x.2)
    | none => let x := findTrackers s d ts r; (x.1, f :: x.2)

/-- A request refused for want of a tracker: its source is starved now. -/
def noTracker (d : Die) (f : Frame) (s : State) : State :=
  let s1 := modHome s d (fun h => { h with
    starved := h.starved.filter (fun x => !(x.1 == f.srcEp.toNat && x.2.1 == f.ctx.toNat)) ++
      [(f.srcEp.toNat, f.ctx.toNat, timerOf s d)] })
  refuse d f Sts.retry (countWait f.ctx.toNat (decide (0 < qosTrackers s f.ctx.toNat)) s1)

/-! Replay windows (R180 to R184) -/

/-- The key of a window. -/
def winKey (f : Frame) : Nat := (addrSwitch f.addr.toNat * 2 ^ 20 + f.srcEp.toNat) * 4096 + f.ctx.toNat

/-- The entries of a die's windows. -/
def winEntries (s : State) (d : Die) : Nat := sumOf ((side s.home d).windows.map (fun w => w.2.entries.length))

/-- The outcome of an atomic against its window: none where it is to be performed, else its status and payload. -/
def winCheck (s : State) (d : Die) (f : Frame) : Option (BitVec 5 × Bytes) :=
  match get? (side s.home d).windows (winKey f) with
  | some w =>
    match w.entries.find? (fun e => e.seq == f.seq) with
    | some e =>
      if e.opcode = f.opcode ∧ e.addr = f.addr then
        some (Sts.duplicate, if f.opcode = Opc.amoNr then [] else e.old)
      else some (Sts.format, [])
    | none =>
      if !newer 24 f.seq.toNat w.ack.toNat then some (Sts.stale, [])
      else if 1024 ≤ w.entries.length then some (Sts.retry, [])
      else if 4194304 ≤ winEntries s d then some (Sts.retry, []) else none
  | none =>
    if (side s.home d).doubtful.contains (addrSwitch f.addr.toNat) && !(side s.home d).resumed.contains (winKey f) then some (Sts.indoubt, [])
    else if 4194304 ≤ winEntries s d then some (Sts.retry, []) else none

/-- The status bits that a window outcome sets. -/
def winStatus (d : Die) (f : Frame) (st : BitVec 5) (s : State) : State :=
  if st = Sts.indoubt then setStatus (.mem d) 6 s
  else if st = Sts.retry ∧ 4194304 ≤ winEntries s d ∧
      (get? (side s.home d).windows (winKey f)).elim true (fun w => decide (w.entries.length < 1024)) then setStatus (.mem d) 2 s
  else s

/-- A performed atomic enters its window, which its first atomic creates. -/
def winEnter (d : Die) (f : Frame) (old : Bytes) (s : State) : State :=
  modHome s d (fun h => { h with
    windows := changeD h.windows (winKey f) ⟨f.seq - 1, []⟩ (fun w =>
      { w with entries := w.entries ++ [⟨f.seq, f.opcode, f.addr, old, Sts.ok⟩] }) })

/-! Atomic functions (R169) -/

/-- A value of n bytes as a signed number. -/
def signedOf (n v : Nat) : Int := if v < 2 ^ (8 * n - 1) then v else (v : Int) - 2 ^ (8 * n)

/-- old op operand, for n bytes. -/
def amoResult (fn n old v : Nat) : Nat :=
  match fn with
  | 0 => (old + v) % 2 ^ (8 * n)
  | 1 => old &&& v
  | 2 => old ||| v
  | 3 => old ^^^ v
  | 4 => if signedOf n v < signedOf n old then v else old
  | 5 => if signedOf n old < signedOf n v then v else old
  | 6 => if v < old then v else old
  | 7 => if old < v then v else old
  | 8 => v
  | _ => (fAdd 0 (BitVec.ofNat 32 old) (BitVec.ofNat 32 v)).1.toNat

/-! Performing (R171, R172 steps 8 to 10, R193, R194) -/

/-- The lines an access touches. -/
def linesOf (a n : Nat) : List Nat := touched a n

/-- Moves and transfers under way of an object mark a granule of it dirty. -/
def noteDirty (d : Die) (id g : Nat) (s : State) : State :=
  modFlt (modTier s d (fun t => { t with moves := t.moves.map (fun m => if m.obj = id ∧ m.started then { m with dirty := insertNat g m.dirty } else m) })) (fun x => { x with xfers := x.xfers.map (fun m => if m.obj = id then { m with dirty := insertNat g m.dirty } else m) })

/-- What follows a write of n bytes at local address a: the line in the class C cache is dirty, the staged unit is written,
moves and transfers under way mark the granule dirty. -/
def noteWrite (d : Die) (a n : Nat) (s : State) : State :=
  if n = 0 then s
  else
    match extAt s (addrOff a) with
    | none => s
    | some e =>
      if !e.classT then
        if e.policy = 2 then ccTouch d (linesOf a n) true (side s.home d).order s else s
      else
        match objAt s (addrOff a) with
        | none => s
        | some (id, o) =>
          let g := (a - o.addr) / 4096
          let s1 := noteDirty d id g s
          match objPlace o (addrOff a) with
          | .t2 v u => stageWrite d v u e.durable s1
          | _ => s1

/-- Write bytes at a local address, clearing the markers of the granules they cover. -/
def storeAt (d : Die) (a : Nat) (b : Bytes) (s : State) : State := noteWrite d a b.length (clearPoison (writeMem s a b) a b.length)

/-- A memory request answered POISON. -/
def readPoison (d : Die) (s : State) : State := setStatus (.mem d) 1 s

/-- Steps 8 to 10 of R172: the status, the response bytes, the state. -/
def memEffect (d : Die) (f : Frame) (s : State) : BitVec 5 × Bytes × State :=
  let a := localAddr s f.addr.toNat
  let n := accessLen f
  if f.opcode = Opc.ld then
    if poisonedIn s a n then (Sts.poison, [], readPoison d s) else (Sts.ok, readMem s a n, s)
  else if f.opcode = Opc.st then
    if poisonPart s a n then (Sts.poison, [], readPoison d s)
    else if f.cmp then
      match decodeAt d (some f.opspec.toNat) (some f.slot.toNat) f.payload s with
      | (some raw, s1) => (Sts.ok, [], storeAt d a raw s1)
      | (none, s1) => (Sts.codec, [], s1)
    else (Sts.ok, [], storeAt d a f.payload s)
  else
    match winCheck s d f with
    | some (st, p) => (st, p, winStatus d f st s)
    | none =>
      if poisonedIn s a n then (Sts.poison, [], readPoison d s)
      else
        let old := readMem s a n
        let new :=
          if f.opcode = Opc.cas then if old == f.payload.take n then f.payload.drop n else old
          else toLE n (amoResult (f.opspec.toNat / 256) n (leNat old) (leNat f.payload))
        (Sts.ok, if f.opcode = Opc.amoNr then [] else old, winEnter d f old (storeAt d a new s))

/-- Answer a memory request; an LD with CMP_OK may be answered with a coded block (R373). -/
def memAnswer (d : Die) (f : Frame) (st : BitVec 5) (p : Bytes) (s : State) : State :=
  if f.opcode = Opc.ld ∧ st = Sts.ok ∧ bitAt f.opspec.toNat 15 then
    match codedPayload s f.ctx.toNat p with
    | (b, cmp, slot) =>
      sendFrom d { mkRsp s d f (rspOpc f.opcode) st b 0 with cmp := cmp, slot := slot }
        (tapBytes d f.ctx.toNat (if f.tc == 7#3 then 7 else 5) 1 b.length s)
  else answer d f st p s

/-! Waiting for lines, objects, trays and flash -/

/-- Must an uncached access wait for or recall a line (R216)? -/
def lineConflict (e : DirEntry) (load : Bool) : Bool := transient e.st || !load || e.st == .m

/-- A class C access: the first line in conflict is recalled and waited for; none where every line is free. A recall that
nobody answers to leaves its line free at once. -/
def linesWait (d : Die) (ctx : BitVec 12) (load : Bool) (lines : List Nat) (s : State) : Option WaitFor × State :=
  match lines with
  | [] => (none, s)
  | l :: r =>
    match dirOf s d l with
    | none => linesWait d ctx load r s
    | some e =>
      if !lineConflict e load then linesWait d ctx load r s
      else if transient e.st then (some (.line l), s)
      else
        let s1 := startRecall d l 3 load ctx s
        if lineBusy s1 d l then (some (.line l), s1) else linesWait d ctx load r s1

/-- Is the opcode a coherence request? -/
def isCohReq (o : Byte) : Bool := decide (0x20 ≤ o.toNat) && decide (o.toNat ≤ 0x24)

/-- The lines of a waiting request. -/
def waitLines (s : State) (w : Waiting) : List Nat :=
  let a := localAddr s w.frame.addr.toNat
  if isCohReq w.frame.opcode then [a / 64] else linesOf a (accessLen w.frame)

/-- The entries that stand before the one of an order. -/
def beforeIn : List Waiting → Nat → List Waiting
  | [], _ => []
  | w :: r, order => if w.order = order then [] else w :: beforeIn r order

/-- Does an entry that has not been performed share a line? -/
def lineHeld (s : State) (l : List Waiting) (lines : List Nat) : Bool :=
  l.any (fun w => !w.done && (waitLines s w).any (fun x => lines.contains x))

/-- Does a request that stands before the one of an order share a line with it? Such requests are performed in list order: that of
acceptance, aged ones first (R174, R192, R204). -/
def lineAhead (s : State) (d : Die) (order : Nat) (lines : List Nat) : Bool :=
  lineHeld s (beforeIn (side s.home d).waiting order) lines

/-- Must a request wait for another at a granule of T1 or a unit of T2: for one that a tray or the flash works on, or one before it in
the list that waits for either? -/
def earlierAt (s : State) (d : Die) (order g : Nat) : Bool :=
  let here := fun (w : Waiting) => localAddr s w.frame.addr.toNat / 4096 == g
  (side s.home d).waiting.any (fun w => w.order != order && here w && (match w.wait with
    | .tray => true
    | .flash _ _ => true
    | _ => false)) ||
  (beforeIn (side s.home d).waiting order).any (fun w => here w && (match w.wait with
    | .behind _ => true
    | .staging => true
    | _ => false))

/-- The tray request that reads the data units an access to T1 touches (R232, R421). -/
def loadT1 (d : Die) (group granule : Nat) (f : Frame) (s : State) : State :=
  match trayPlace s d group granule with
  | none => s
  | some (p, base) =>
    let r := unitsAround (localAddr s f.addr.toNat) (accessLen f)
    askTray d p Opc.ld 3 (base + r.1 % 4096) r.2 [] (.home f) s

/-- Has nothing been written yet to the granule of an object in T1 that a local address lies in, so that it reads as zero (R238)? -/
def blankAt (s : State) (a : Nat) : Bool :=
  match objAt s (addrOff a) with
  | some (_, o) => o.blank && !o.written.contains ((a - o.addr) / 4096)
  | none => false

/-- The constituents of an entry take effect, one after the other: whether one of them ends OK, and the state. -/
def tryAll (d : Die) (fs : List Frame) (s : State) : Bool × State :=
  fs.foldl (fun acc f => match memEffect d f acc.2 with
    | (st, _, t) => (acc.1 || st == Sts.ok, t)) (false, s)

/-- The tray request that stores the data units a write to T1 touches, as the write will leave them: the first write to a granule stores all of it
(R232, R238, R421). -/
def storeT1 (d : Die) (group granule : Nat) (f : Frame) (more : List Frame) (s : State) : State :=
  match trayPlace s d group granule with
  | none => s
  | some (p, base) =>
    let a := localAddr s f.addr.toNat
    let r := if blankAt s a then (a / 4096 * 4096, 4096) else unitsAround a (accessLen f)
    askTray d p Opc.st 3 (base + r.1 % 4096) 0 (sealMem s r.1 (readMem (tryAll d (f :: more) s).2 r.1 r.2)) (.home f) s

/-- Does a write to T1 need the old bytes of its data units first? -/
def needsOld (s : State) (f : Frame) : Bool :=
  let a := localAddr s f.addr.toNat
  !blankAt s a && (isAtomic f.opcode || unitsAround a (accessLen f) != (a, accessLen f))

/-- The data of a store, decoded; none where its block fails. -/
def storeData (s : State) (f : Frame) : Option Bytes :=
  if f.cmp then decodeWith (decodingBook s) (some f.opspec.toNat) (some f.slot.toNat) f.payload else some f.payload

/-- Does a request end at step 8 or 9 of R172, with no effect? -/
def endsEarly (s : State) (d : Die) (f : Frame) : Bool :=
  let a := localAddr s f.addr.toNat
  let n := accessLen f
  if f.opcode = Opc.ld then poisonedIn s a n
  else if f.opcode = Opc.st then poisonPart s a n
  else (winCheck s d f).isSome || poisonedIn s a n

/-- The DRAM row under repair that an access has to wait for (R189, R488). -/
def rowHeld (s : State) (a n : Nat) : Option (Nat × Nat) :=
  ((rangeFrom (a / 256) ((a + n - 1) / 256 + 1 - a / 256)).map Config.dramRowOf).find? s.mod.rowBusy.contains

/-- What a memory request, with the constituents combined into it, must wait for before it is performed; ready bytes are at hand when have_ is
set. One that ends at step 8 or 9 of R172 waits for nothing that step 10 needs. Messages and tray requests that the wait needs are sent. -/
def memWait (d : Die) (f : Frame) (more : List Frame) (order : Nat) (have_ : Bool) (s : State) : Option WaitFor × State :=
  let early := fun (t : State) => (f :: more).all (endsEarly t d)
  let off := transOff s f.addr.toNat
  let a := localAddr s f.addr.toNat
  let n := accessLen f
  let load := f.opcode == Opc.ld
  if have_ || n == 0 then (none, s)
  else
    match extAt s off with
    | none => (none, s)
    | some e =>
      let moving := if e.classT then
          match objAt s off with
          | some (id, _) =>
            if (side s.tier d).moves.any (fun m => m.obj == id && m.switching && decide (m.since ≤ order)) ||
                (side s.tier d).copies.any (fun j => match j.why with
                  | .clone _ o => o == id
                  | _ => false) || s.flt.xfers.any (fun x => x.obj == id && x.switching)
            then some id else none
          | none => none
        else none
      match moving with
      | some id => (some (.object id), s)
      | none =>
        if lineAhead s d order (linesOf a n) then (some (.behind (a / 4096)), s)
        else
        match (if e.classT || early s then (none, s) else linesWait d f.ctx load (linesOf a n) s) with
        | (some w, s1) => (some w, s1)
        | (none, s1) =>
          match placeOf s1 e off with
          | .t0 =>
            match (if early s1 then none else rowHeld s1 a n) with
            | some (st, row) => (some (.row st row), s1)
            | none => (none, s1)
          | .cc ext =>
            if early s1 then (none, s1)
            else
              match ccReady d ext (linesOf a n) s1 with
              | (true, s2) => (none, s2)
              | (false, s2) => (some .tray, s2)
          | .t1 g gr =>
            if earlierAt s1 d order (a / 4096) then (some (.behind (a / 4096)), s1)
            else if early s1 || (f.opcode == Opc.st && (storeData s1 f).isNone) || (load && blankAt s1 a) then (none, s1)
            else (some .tray, if load || needsOld s1 f then loadT1 d g gr f s1 else storeT1 d g gr f more s1)
          | .t2 v u =>
            if earlierAt s1 d order (a / 4096) then (some (.behind (a / 4096)), s1)
            else if early s1 then (none, s1)
            else if load && unitFlushed s1 d v u then (some (.flushed v u), s1)
            else if (stagedUnit s1 d v u).isSome then (none, s1)
            else if !load && !stageRoom s1 d then (some .staging, setStatus (.ftl d) 5 s1)
            else if f.opcode == Opc.st && n == 4096 then (none, s1)
            else if (getD s1.vols v {}).toLoad.contains (u / 512) then (some (.mapPage v (u / 512)), s1)
            else
              match mapReady d v (u / 512) s1 with
              | (false, s2) => (some (.mapPage v (u / 512)), s2)
              | (true, s2) => if (unitWhere s2 v u).isNone then (none, s2) else (some (.flash v u), startRead d v u s2)

/-- The status with which an access to T2 ends before it starts: an offline volume RETRY, a unit on a lost tray HOMELOST. -/
def t2Bad (s : State) (f : Frame) : Option (BitVec 5) :=
  match extAt s (transOff s f.addr.toNat) with
  | none => none
  | some e =>
    match placeOf s e (transOff s f.addr.toNat) with
    | .t2 v u =>
      if !volServes s v u then some Sts.retry
      else if f.opcode ≠ Opc.st ∧ unitLost s v u then some Sts.homelost else none
    | _ => none

/-! The waiting list -/

/-- The entry of an order. -/
def waitingAt (s : State) (d : Die) (order : Nat) : Option Waiting := (side s.home d).waiting.find? (fun w => w.order == order)

/-- The state without a waiting entry. -/
def dropWaiting (d : Die) (order : Nat) (s : State) : State :=
  modHome s d (fun h => { h with waiting := h.waiting.filter (fun w => w.order != order) })

/-- The state with a waiting entry changed. -/
def setWaiting (d : Die) (order : Nat) (g : Waiting → Waiting) (s : State) : State :=
  modHome s d (fun h => { h with waiting := h.waiting.map (fun w => if w.order = order then g w else w) })

/-- The trackers that requests for a line hold, of those waiting for it or, with all_ set, of every one (R191). -/
def lineTrackers (s : State) (d : Die) (all_ : Bool) (line : Nat) : Nat :=
  sumOf (((side s.home d).waiting.filter (fun w => (all_ || !w.done) && (waitLines s w).contains line)).map (fun w => 1 + w.more.length))

/-- May a line enter the hot-line buffer: is it of T0 data or a class C line held in T0, and not DURABLE (R191)? -/
def mayBeHot (s : State) (d : Die) (line : Nat) : Bool :=
  match extAt s (addrOff (line * 64)) with
  | none => false
  | some e =>
    !e.durable && (match placeOf s e (addrOff (line * 64)) with
      | .t0 => true
      | .cc _ => ccHas s d line
      | _ => false)

/-- A line that 16 trackers wait for enters the hot-line buffer; where the buffer is full the least recently used one leaves (R191). -/
def enterHot (d : Die) (line : Nat) (s : State) : State :=
  let hot := (side s.home d).hot
  if (get? hot line).isSome || decide (lineTrackers s d false line < 16) || !mayBeHot s d line then s
  else if hot.length < 1024 then modHome s d (fun h => { h with hot := put h.hot line h.order })
  else
    match hot.foldl (fun b x => match b with
        | none => some x
        | some y => if x.2 < y.2 then some x else b) (none : Option (Nat × Nat)) with
    | some v => setStatus (.mem d) 5 (modHome s d (fun h => { h with hot := put (del h.hot v.1) line h.order }))
    | none => s

/-- The lines of a request that waits, each as it may enter the hot-line buffer. -/
def noteHot (d : Die) (w : Waiting) (s : State) : State := (waitLines s w).foldl (fun t l => enterHot d l t) s

/-- The hot lines that an accepted request uses, by the order of its acceptance (R191). -/
def useHot (d : Die) (lines : List Nat) (s : State) : State :=
  modHome s d (fun h => { h with hot := h.hot.map (fun x => if lines.contains x.1 then (x.1, h.order) else x) })

/-- Perform the requests of an entry in list order as one act, answering each (R187, R188). -/
def performAll (d : Die) (fs : List Frame) (s : State) : State :=
  fs.foldl (fun t f =>
    match memEffect d f t with
    | (st, p, t1) => memAnswer d f st p t1) s

/-- A write to T1 whose old bytes have come: where a constituent ends OK its new bytes go to the tray, and it takes effect once they are stored; else
each is answered now (R180, R232). -/
def writeT1 (d : Die) (w : Waiting) (g gr : Nat) (s : State) : State :=
  if (tryAll d (w.frame :: w.more) s).1 then
    storeT1 d g gr w.frame w.more (setWaiting d w.order (fun x => { x with wait := .tray }) s)
  else performAll d (w.frame :: w.more) (dropWaiting d w.order s)

/-- The group and granule that a write to T1 goes to, if a request is one. -/
def t1Write (s : State) (f : Frame) : Option (Nat × Nat) :=
  if f.opcode = Opc.ld then none
  else
    match extAt s (transOff s f.addr.toNat) with
    | some e =>
      match placeOf s e (transOff s f.addr.toNat) with
      | .t1 g gr => some (g, gr)
      | _ => none
    | none => none

/-- Note an access to the lines of a class C cache and to an object, by its order. -/
def noteAccess (d : Die) (f : Frame) (order : Nat) (s : State) : State :=
  let off := transOff s f.addr.toNat
  match extAt s off with
  | none => s
  | some e =>
    if e.classT then
      match objAt s off with
      | some (id, _) => modObj s id (fun o => { o with lastAccess := order })
      | none => s
    else if e.policy = 2 then ccTouch d (linesOf (localAddr s f.addr.toNat) (accessLen f)) false order s else s

/-- The old bytes that a performed atomic answers with, from its window. -/
def windowOld (s : State) (d : Die) (f : Frame) : Bytes :=
  if f.opcode = Opc.amoNr || !isAtomic f.opcode then []
  else match get? (side s.home d).windows (winKey f) with
    | some v => (v.entries.find? (fun e => e.seq == f.seq)).elim [] (·.old)
    | none => []

/-- The T2 unit of a DURABLE write. -/
def durableUnit (s : State) (f : Frame) : Option (Nat × Nat) :=
  if f.opcode = Opc.ld then none
  else
    match extAt s (transOff s f.addr.toNat) with
    | none => none
    | some e =>
      if !e.durable then none
      else match placeOf s e (transOff s f.addr.toNat) with
        | .t2 v u => some (v, u)
        | _ => none

/-- Is a unit programmed, with its MAP_SET on journal media (R477)? -/
def onMedia (s : State) (d : Die) (v u : Nat) : Bool :=
  (stagedUnit s d v u).isNone && !(side s.ftl d).ring.any (fun r => decide ((side s.ftl d).mediaLsn < r.lsn) && (match r.body with
    | .mapSet a b _ => a == v && b == u
    | _ => false))

/-- With the hold-up bank low, a DURABLE write is performed and its answer waits until the unit is on media (R477). -/
def performMedia (d : Die) (w : Waiting) (s : State) : State :=
  let r := (w.frame :: w.more).foldl (fun (acc : List Frame × State) f =>
    match memEffect d f acc.2 with
    | (st, p, t1) => if st = Sts.ok then (acc.1 ++ [f], t1) else (acc.1, memAnswer d f st p t1)) (([] : List Frame), s)
  match r.1 with
  | [] => dropWaiting d w.order r.2
  | f :: more => setWaiting d w.order (fun x => { x with frame := f, more := more, done := true, wait := .media }) r.2

/-- Answer the DURABLE writes that waited for media and need wait no more. -/
def answerMedia (d : Die) (s : State) : State :=
  let free := fun (t : State) (w : Waiting) => w.done && w.wait == .media &&
    (!t.mod.holdupLow || (durableUnit t w.frame).elim true (fun x => onMedia t d x.1 x.2))
  ((side s.home d).waiting.filter (free s)).foldl (fun t w =>
    (w.frame :: w.more).foldl (fun u f => memAnswer d f Sts.ok (windowOld u d f) u) (dropWaiting d w.order t)) s

/-- Serve a waiting memory request: it waits on, or is performed. -/
def serveMem (d : Die) (w : Waiting) (have_ : Bool) (s : State) : State :=
  match t2Bad s w.frame with
  | some st => (w.frame :: w.more).foldl (fun t f => refuse d f st t) (dropWaiting d w.order s)
  | none =>
    match memWait d w.frame w.more w.order have_ s with
    | (some x, s1) =>
      noteHot d w (setWaiting d w.order (fun y => { y with wait := x }) s1)
    | (none, s1) =>
      match (if have_ then t1Write s1 w.frame else none) with
      | some (g, gr) => writeT1 d w g gr s1
      | none =>
        if s1.mod.holdupLow && (durableUnit s1 w.frame).isSome then performMedia d w (noteAccess d w.frame w.order s1)
        else performAll d (w.frame :: w.more) (noteAccess d w.frame w.order (dropWaiting d w.order s1))

/-! Coherence requests at the home (R213) -/

/-- The bytes of a line must be at hand to be read: a T1_ONLY line is filled first. -/
def lineReady (d : Die) (line : Nat) (s : State) : Bool × State :=
  match extAt s (addrOff (lineAddr line)) with
  | some e => if !e.classT && e.policy == 2 then ccReady d e.idx [line] s else (true, s)
  | none => (true, s)

/-- Answer with the line, R recorded as sharer or owner. -/
def giveLine (d : Die) (line : Nat) (f : Frame) (opc : Byte) (e : DirEntry) (s : State) : Option WaitFor × State :=
  match lineReady d line s with
  | (false, s1) => (some .tray, s1)
  | (true, s1) => (none, cohRsp d f opc Sts.ok 0 (lineBytes s1 line) (setDir d line e s1))

/-- Has a request, by its waiting entry, a reserved tracker? -/
def reservedNow (s : State) (d : Die) (f : Frame) : Bool := (side s.home d).waiting.any (fun w => w.frame == f && w.reserved.contains (keyOf f))

/-- Start a transaction of the home for a request, which keeps its tracker. -/
def startTxn (d : Die) (line : Nat) (e : DirEntry) (st : LineSt) (kind : TxnKind) (f : Frame) (awaited : List Nat) (owner : Option Nat)
    (s : State) : Nat × State :=
  match nextTxn d s with
  | (n, s1) =>
    (n, setDir d line { e with st := st, txn := some { num := n, kind := kind, req := some f, awaited := awaited, owner := owner,
                                                       reserved := reservedNow s d f } } s1)

/-- Invalidate sharers before granting M, or grant at once where there is none (R213). -/
def invalidate (d : Die) (line : Nat) (e : DirEntry) (f : Frame) (grant : Bool) (targets : List Nat) (s : State) : Option WaitFor × State :=
  match memberIdx s d e.domain f.srcEp.toNat with
  | none => (none, s)
  | some i =>
    match lineReady d line s with
    | (false, s1) => (some .tray, s1)
    | (true, s1) =>
      if targets.isEmpty then
        let m := { e with st := .m, ptrs := [i], fenced := [] }
        if grant then (none, cohRsp d f Opc.cgrant Sts.ok 0 [] (setDir d line m s1))
        else (none, cohRsp d f Opc.cdataM Sts.ok 0 (lineBytes s1 line) (setDir d line m s1))
      else
        match startTxn d line e .sI (.inv grant) f targets none s1 with
        | (n, s2) => (none, sendCohAll d Opc.cinv targets n f.ctx 0 (toLE 8 (lineAddr line)) s2)

/-- A request to read or own a line: CRD_S, CRD_M or CUPG under the table of R213. -/
def cohServe (d : Die) (line dom i order : Nat) (f : Frame) (s : State) : Option WaitFor × State :=
  let share := f.opcode == Opc.crdS
  let r := f.srcEp.toNat
  match dirOf s d line with
  | none =>
    match lineReady d line s with
    | (false, s1) => (some .tray, s1)
    | (true, s1) =>
      match dirRoom d line f.ctx s1 with
      | (some v, s2) => (some v, s2)
      | (none, s2) =>
        giveLine d line f (if share then Opc.cdataS else Opc.cdataM)
          { st := if share then .s else .m, domain := dom, ptrs := [i], lastAccept := order } s2
  | some e0 =>
    let e := { e0 with lastAccept := order }
    match e.st with
    | .s =>
      if share then
        if e.ptrs.contains i then giveLine d line f Opc.cdataS e s
        else if e.ptrs.length < 4 then giveLine d line f Opc.cdataS { e with ptrs := e.ptrs ++ [i] } s
        else
          match giveLine d line f Opc.cdataS { e with st := .sb, ptrs := [], fenced := [] } s with
          | (none, s1) => (none, setStatus (.coh d) 0 s1)
          | (some x, s1) => (some x, s1)
      else
        let others := (e.ptrs.filter (fun p => p != i)).map (memberEp s d e.domain)
        invalidate d line e f (f.opcode == Opc.cupg && e.ptrs.contains i) others s
    | .sb =>
      if share then giveLine d line f Opc.cdataS e s
      else invalidate d line e f false ((holdersOf s d e).filter (fun m => m != r)) s
    | .m =>
      let x := (holdersOf s d e).headD 0
      if x = r then (none, setStatus (.coh d) 6 (refuse d f Sts.format s))
      else
        match startTxn d line e .mF (if share then .fwdS else .fwdM) f [x] (some x) s with
        | (n, s1) =>
          (none, sendCoh d (cohMsg s1 d (if share then Opc.cfwdS else Opc.cfwdM) x n f.ctx 0 (fwdPayload line f)) s1)
    | _ => (some (.line line), s)

/-- A CWB or CEVICT under the table of R213. -/
def cohRelease (d : Die) (line : Nat) (f : Frame) (s : State) : Option WaitFor × State :=
  let wb := f.opcode == Opc.cwb
  let r := f.srcEp.toNat
  let ack := fun (disc : Bool) (t : State) => cohRsp d f Opc.cwbAck Sts.ok (b2n disc) [] t
  match dirOf s d line with
  | none => (none, ack wb s)
  | some e =>
    match e.st with
    | .s =>
      let ps := e.ptrs.filter (fun p => memberEp s d e.domain p != r)
      (none, ack wb (if ps.isEmpty then delDir d line s else setDir d line { e with ptrs := ps } s))
    | .sb => (none, ack wb s)
    | .m =>
      if (holdersOf s d e).headD 0 = r then
        if wb then
          match lineRoom d line s with
          | (true, s1) => (none, ack false (delDir d line (writeLine d line f.payload s1)))
          | (false, s1) => (some .tray, s1)
        else (none, setStatus (.coh d) 6 (refuse d f Sts.format s))
      else (none, ack wb s)
    | _ => (some (.line line), s)

/-- Serve a waiting coherence request. -/
def serveCoh (d : Die) (w : Waiting) (s : State) : State :=
  let f := w.frame
  let line := localAddr s f.addr.toNat / 64
  let acq := f.opcode == Opc.crdS || f.opcode == Opc.crdM || f.opcode == Opc.cupg
  let dom := (extAt s (transOff s f.addr.toNat)).elim 0 (fun e => domainOf s d e.idx)
  let r :=
    if lineAhead s d w.order [line] then (some (.behind (line / 64)), s)
    else if !acq then cohRelease d line f s
    else if lineBusy s d line then (some (.line line), s)
    else if s.poison.contains line then (none, readPoison d (refuse d f Sts.poison s))
    else
      match memberIdx s d dom f.srcEp.toNat with
      | some i => cohServe d line dom i w.order f s
      | none => (none, refuse d f Sts.denied s)
  match r with
  | (some x, s1) => noteHot d w (setWaiting d w.order (fun y => { y with wait := x }) s1)
  | (none, s1) => dropWaiting d w.order s1

/-- Serve a waiting request of either kind. -/
def serve (d : Die) (order : Nat) (have_ : Bool) (s : State) : State :=
  match waitingAt s d order with
  | none => s
  | some w => if isCohReq w.frame.opcode then serveCoh d w s else serveMem d w have_ s

/-- Must a request that waited behind others go on waiting? -/
def stillBehind (s : State) (d : Die) (w : Waiting) : Bool :=
  let off := transOff s w.frame.addr.toNat
  lineAhead s d w.order (waitLines s w) ||
    (!isCohReq w.frame.opcode && (match (extAt s off).map (fun e => placeOf s e off) with
      | some (.t1 _ _) => earlierAt s d w.order (localAddr s w.frame.addr.toNat / 4096)
      | some (.t2 _ _) => earlierAt s d w.order (localAddr s w.frame.addr.toNat / 4096)
      | _ => false))

/-- Does a request wait behind others? -/
def isBehind (w : Waiting) : Bool :=
  match w.wait with
  | .behind _ => !w.done
  | _ => false

/-- Serve, in list order, the requests behind others that need not wait any longer. -/
def settleBehind (d : Die) (s : State) : State :=
  (((side s.home d).waiting.filter isBehind).map (·.order)).foldl (fun t o =>
    match waitingAt t d o with
    | some w => if isBehind w && !stillBehind t d w then serve d o false t else t
    | none => t) s

/-- Serve again, in their order, the waiting requests that a test accepts, and what waited behind them. -/
def resume (d : Die) (p : Waiting → Bool) (have_ : Bool) (s : State) : State :=
  settleBehind d ((((side s.home d).waiting.filter (fun w => p w && !w.done)).map (·.order)).foldl (fun t o => serve d o have_ t) s)

/-- Serve again the requests that wait for a line that is in no transaction any longer, or for a way of a set of the directory that one has
become free in (R211). -/
def resumeLines (d : Die) (s : State) : State :=
  resume d (fun w => match w.wait with
    | .line l => !lineBusy s d l
    | .dirSet k => decide ((dirWays s d k).length < 16) || (dirWays s d k).any (fun x => !transient x.2.st)
    | _ => false) false s

/-- The number of the next request a home takes into a tracker: above every number given. -/
def nextOrder (s : State) (d : Die) : Nat := (side s.home d).waiting.foldl (fun n w => Nat.max n w.order) (side s.home d).order + 1

/-- The waiting list with an entry in its place: after the aged ones that aged before it if it is aged, else at the end (R192). -/
def placeWaiting (l : List Waiting) (w : Waiting) : List Waiting :=
  if w.aged = 0 then l ++ [w]
  else
    l.filter (fun x => x.aged != 0 && decide (x.aged < w.aged)) ++ [w] ++
      l.filter (fun x => x.aged == 0 || decide (w.aged ≤ x.aged))

/-- Take a request into its trackers and serve it. more are the other constituents of a combined request, reserved those whose tracker is a reserved
one, aged its number in the order of ageing. -/
def enterHome (d : Die) (f : Frame) (more : List Frame) (reserved : List ReqKey) (aged : Nat) (s : State) : State :=
  let n := nextOrder s d
  let w : Waiting := { frame := f, more := more, wait := .behind 0, order := n, aged := aged, reserved := reserved }
  let s1 := modHome s d (fun h => { h with order := n, waiting := placeWaiting h.waiting w })
  let s2 := serve d n false (useHot d (waitLines s1 w) (if reserved.isEmpty then s1 else setStatus (.mem d) 3 s1))
  if (waitingAt s2 d n).isSome then countWait f.ctx.toNat false s2 else s2

/-- Does a new DIR_LAYOUT record of a die (empty for none) rebind an extent or remove members from its domain (R200)? -/
def dirAffects (s : State) (die : Nat) (next : Bytes) (e : ExtV) : Bool :=
  let old := (recOf s RT.dirLayout die).getD []
  let o := (bindingOf old e.idx).getD 0
  let n := (bindingOf next e.idx).getD 0
  !e.classT && dieNum e.die == die && (o != n || (domainMembers old o).any (fun m => !(domainMembers next n).contains m))

/-- Does an extent drain to a new record of its own or of its directory, so that its home accepts nothing for it yet (R62, R200)? -/
def drainsExt (s : State) (e : ExtV) : Bool :=
  s.cfg.draining.any (fun x => (x.type == RT.extent && x.key == e.idx) || (x.type == RT.dirLayout && dirAffects s x.key x.next e))

/-- Do a die's taps wait: does its buffer hold 4 MiB of 32-byte events that the meter has not acknowledged (R424, R426)? -/
def tapsWait (s : State) (d : Die) : Bool := !escrowing s d && decide (131072 ≤ (side s.mtr.tapBuf d).length)

/-- Does the home of an extent accept nothing for it now: because it drains, or because the taps of its die wait (R426)? -/
def extHeld (s : State) (e : ExtV) : Bool := drainsExt s e || tapsWait s e.die

/-- Does the home of an offset accept nothing for its extent now? -/
def extDraining (s : State) (off : Nat) : Bool := (extAt s off).elim false (extHeld s)

/-- The extent whose draining holds a request: that of its address, of the object its handle names, or of the session its handle names; for a session
that is only being made, its page extent or its source's. -/
def heldExt (s : State) (f : Frame) : Option ExtV :=
  let o := f.opcode.toNat
  if 0x41 ≤ o ∧ o ≤ 0x45 then (get? s.objs (handleId f.addr.toNat)).bind (fun x => extOf s x.ext)
  else if o = 0x65 ∧ f.opspec.toNat % 4 = 1 then extOf s (le f.payload 0 4)
  else if o = 0x65 ∧ f.opspec.toNat % 4 = 3 then (get? s.sessions (le f.payload 0 4)).bind (fun x => extOf s x.ext)
  else if 0x64 ≤ o ∧ o ≤ 0x67 then (get? s.sessions (fld f.addr.toNat 51 32)).bind (fun x => extOf s x.ext)
  else if o = 0x60 ∨ o = 0x63 then none
  else extAt s (transOff s f.addr.toNat)

/-- Is a line of a request at its limit of 2,048 trackers (R191)? -/
def lineFull (s : State) (d : Die) (f : Frame) : Bool :=
  (waitLines s { frame := f, wait := .tray, order := 0 }).any (fun l => decide (2048 ≤ lineTrackers s d true l))

/-- Does a request need a journal record that the full ring has no space for: it makes an object in a DURABLE extent (R276)? -/
def recordHeld (s : State) (d : Die) (f : Frame) : Bool :=
  ringFull s d 4096 &&
    (if f.opcode = Opc.objCreate then (extAt s (transOff s f.addr.toNat)).elim false (·.durable)
     else if f.opcode = Opc.objClone then (extAt s (addrOff (le f.payload 0 8))).elim false (·.durable) else false)

/-- Must a request at the home's input wait: because its extent drains or the taps wait (R62, R200, R426), because the
journal has no space for its record (R276), or because its line has as many trackers as it may (R191)? -/
def mustWait (s : State) (d : Die) (f : Frame) : Bool :=
  (heldExt s f).elim false (extHeld s) || recordHeld s d f || ((isAccess f.opcode || isCohReq f.opcode) && lineFull s d f)

/-- The queue of the home's input that an entry stands in: by its ingress, behind the stalk by its source port, and class (R190). -/
def homeQueue (x : Desc) : Nat × Nat := (if x.viaStalk then x.ingress / 8 * 8 else x.ingress, x.frame.tc.toNat)

/-- The number of an entry of the home's input in the order of ageing; 0 for one that is not aged (R192). -/
def agedNo (s : State) (d : Die) (fs : List Frame) : Nat :=
  ((side s.home d).agedIn.find? (fun k => fs.any (fun f => keyOf f == k.1))).elim 0 (·.2)

/-- Must an entry of the home's input wait? -/
def entryWaits (s : State) (d : Die) (x : Desc) : Bool := (x.frame :: x.more).any (mustWait s d)

/-- Is it a request's turn to be accepted? Of those that need not wait, an aged one goes before every other, whatever its ingress, the aged in the
order they became so; the others are taken from each ingress's queue in order, and one that must wait holds only its own (R190 to R192). A
request that did not come through the home's input is taken unless an earlier one of its flow stands there (R174). -/
def homeTurn (s : State) (d : Die) (fs : List Frame) : Bool :=
  let q := (side s.home d).inbox
  let noOf := fun (x : Desc) => agedNo s d (x.frame :: x.more)
  let ready := fun (x : Desc) => noOf x != 0 && !entryWaits s d x
  match q.findIdx? (fun x => x.frame :: x.more == fs) with
  | none => !q.any (fun x => ready x || (x.frame :: x.more).any (fun g => fs.any (sameFlow g)))
  | some i =>
    let me := agedNo s d fs
    let mine := (q[i]?).elim (0, 0) homeQueue
    if me = 0 then !q.any ready && (q.take i).all (fun x => homeQueue x != mine)
    else q.all (fun x => noOf x == 0 || decide (me ≤ noOf x) || (entryWaits s d x && homeQueue x != mine)) &&
      !(q.take i).any (fun x => (x.frame :: x.more).any (fun g => fs.any (sameFlow g)))

/-- A home takes a request, with the constituents of a combined one, from its input: one whose home lies on the other die goes there (R26, R62),
one that must wait or whose turn has not come stays, and any other is acted on. -/
def atHome (d : Die) (f : Frame) (more : List Frame) (go : State → State) (s : State) : State :=
  if serveDie s f ≠ d then
    match inboxOf s d (f :: more) with
    | some x => putOnWay d x 0 (dropInbox d (f :: more) s)
    | none => s
  else if (f :: more).any (mustWait s d) || !homeTurn s d (f :: more) then s
  else go (takeHomeAll d (f :: more) s)

/-- Checks 3 to 6 of a memory request, those a combined request's constituents take one by one (R187). -/
def memRefusal (s : State) (d : Die) (f : Frame) : Option (BitVec 5) :=
  if !admitted s d f then some (admitSts s d f) else memPlaceBad s d f

/-- Checks 1 to 6 of a memory request (R172). -/
def memBad (s : State) (d : Die) (f : Frame) : Option (BitVec 5) :=
  match memFormBad f with
  | some st => some st
  | none => if outstanding s d (keyOf f) then some Sts.format else if !memAligned f then some Sts.align else memRefusal s d f

/-- Uncorrectable errors that the read of module DRAM finds: the granules of an accepted load that lie in T0 are poisoned (R193). -/
def findEcc (d : Die) (f : Frame) (ecc : List Nat) (s : State) : State :=
  let inT0 := match extAt s (transOff s f.addr.toNat) with
    | some e => (match placeOf s e (transOff s f.addr.toNat) with
      | .t0 => true
      | .cc _ => true
      | _ => false)
    | none => false
  let bad := ecc.filter (fun g => (linesOf (localAddr s f.addr.toNat) (accessLen f)).contains g)
  if !inT0 || f.opcode != Opc.ld || bad.isEmpty then s
  else setStatus (.mem d) 0 { s with poison := bad.foldl (fun l g => insertNat g l) s.poison }

/-- A memory request that the home takes: checks 1 to 7, then it is served (R172). -/
def takeMem (d : Die) (f : Frame) (ecc : List Nat) (aged : Nat) (s : State) : State :=
  match memBad s d f with
  | some st => refuse d f st s
  | none =>
    match findTracker s d f with
    | none => noTracker d f s
    | some r => enterHome d f [] (if r then [keyOf f] else []) aged (findEcc d f ecc (tapBytes d f.ctx.toNat f.tc.toNat 0 f.length.toNat s))

/-- A memory request arrives at the home. -/
def acceptMem (d : Die) (f : Frame) (ecc : List Nat) (s : State) : State :=
  if toSp f then windowMisuse f s else atHome d f [] (takeMem d f ecc (agedNo s d [f])) s

end Machine
end Sys2Proof
end

