-- ==== Sys2Proof/Machine/Copies.lean ====
section
/-! DEFINITION. Places for objects, the device's own copying, and the migration engine (R70 to R79, R238 to R241). -/

namespace Sys2Proof
namespace Machine

/-- The outcome of an object command. -/
abbrev objOk (s : State) : Host.Outcome State Fault Refusal := .next s

/-! Places for objects -/

/-- Does a tier policy permit a tier (R64, R66)? -/
def policyPermits (e : ExtV) (tier : Nat) : Bool :=
  if e.durable then tier == 2
  else if e.policy = 0 then decide (tier ≤ 2)
  else if e.policy = 1 then tier == 0
  else if e.policy = 2 then tier == 1
  else if e.policy = 3 then tier == 2
  else decide (tier ≤ 1)

/-- The ranges of units of a volume taken by objects and by moves to it: first unit and count. -/
def volRanges (s : State) (v : Nat) : List (Nat × Nat) :=
  s.objs.filterMap (fun o => if o.2.tier = 2 ∧ locVol o.2.loc = v then some (locUnit o.2.loc, granules o.2.size) else none) ++
    ((side s.tier .d0).moves ++ (side s.tier .d1).moves).filterMap (fun m =>
      if m.started ∧ m.dest = 2 ∧ locVol m.loc = v then (get? s.objs m.obj).map (fun o => (locUnit m.loc, granules o.size)) else none)

/-- The logical units of a volume (R257). -/
def unitsOfVol (s : State) (v : Nat) : Nat := (recOf s RT.ftlVolume v).elim 0 volUnits

/-- The free logical units of a volume. -/
def volFree (s : State) (v : Nat) : Nat := unitsOfVol s v - sumOf ((volRanges s v).map (·.2))

/-- The lowest start among some candidates from which n units are free below a top. -/
def lowestFit (taken : List (Nat × Nat)) (lo top n : Nat) : Option Nat :=
  let cands := sortBy (fun a b => decide (a < b)) (lo :: taken.map (fun r => r.1 + r.2))
  cands.find? (fun c => decide (lo ≤ c) && decide (c + n ≤ top) &&
    taken.all (fun r => decide (c + n ≤ r.1) || decide (r.1 + r.2 ≤ c) || r.2 == 0))

/-- The volume and first unit for n units on a die, besides ranges that are taken too (location and count): the online volume with most free units
that has a run of them, ties to the lowest index (R258). -/
def volPlaceBut (s : State) (d : Die) (also : List (Nat × Nat)) (n : Nat) : Option Nat :=
  let taken := fun v => volRanges s v ++ (also.filter (fun r => locVol r.1 == v)).map (fun r => (locUnit r.1, r.2))
  let run := fun v => lowestFit (taken v) 0 (unitsOfVol s v) n
  let free := fun v => unitsOfVol s v - sumOf ((taken v).map (·.2))
  let vs := (volsOf s d).filter (fun v => (getD s.vols v {}).st == .online && (run v).isSome)
  let best := vs.foldl (fun b v => match b with
    | none => some v
    | some u => if free u < free v then some v else b) (none : Option Nat)
  match best with
  | some v => (run v).map (fun u => v * 2 ^ 56 + u)
  | none => none

/-- The volume and first unit for n units on a die. -/
def volPlace (s : State) (d : Die) (n : Nat) : Option Nat := volPlaceBut s d [] n

/-- A location for an object of a size in a tier of a die; none where there is no room. -/
def roomIn (s : State) (d : Die) (tier size : Nat) : Option Nat :=
  if tier = 0 then if granules size ≤ t0Free s d then some 0 else none
  else if tier = 1 then (bestGroup s d size).map (· * 2 ^ 56)
  else volPlace s d (granules size)

/-- Does a charge of an object's size fit a context's limit in a tier? -/
def chargeFits (s : State) (c tier size : Nat) : Bool := !overLimit s c tier (granules size)

/-- The lowest free object ID (R70); an ID whose generation is at its end is never used again. -/
def freeObjId (s : State) : Option Nat :=
  leastFrom (fun i => (get? s.objs i).isNone && decide (getD s.gens i 0 < 0xFFFFFFF) && decide (i < 2 ^ 24)) 0
    (s.objs.length + s.gens.length + 1)

/-- The ranges of a switch's objects, offset and size rounded up to granules. -/
def objRanges (s : State) : List (Nat × Nat) := s.objs.map (fun o => (addrOff o.2.addr, granules o.2.size * 4096))

/-- The lowest free range of an extent that fits a size (R236). -/
def freeRange (s : State) (e : ExtV) (size : Nat) : Option Nat :=
  lowestFit ((objRanges s).filter (fun r => decide (e.base ≤ r.1) && decide (r.1 < e.base + e.size))) e.base (e.base + e.size) (granules size * 4096)

/-- The tier that TIER 3, device's choice, comes to (R238): some tier and location, or the status. -/
def chooseTier (s : State) (e : ExtV) (owner size : Nat) : (BitVec 5) ⊕ (Nat × Nat) :=
  let t := side s.tier e.die
  let fits := fun tier => policyPermits e tier && chargeFits s owner tier size
  let at_ := fun tier => (roomIn s e.die tier size).map (fun l => (tier, l))
  let low := decide (t.lowWm * 512 + granules size ≤ t0Free s e.die)
  match (if fits 0 && low then at_ 0 else none) with
  | some r => .inr r
  | none =>
    match (if fits 1 then at_ 1 else none) with
    | some r => .inr r
    | none =>
      match (if fits 2 then at_ 2 else none) with
      | some r => .inr r
      | none =>
        match (if fits 0 then at_ 0 else none) with
        | some r => .inr r
        | none => .inl (if fits 0 || fits 1 || fits 2 then Sts.retry else Sts.quota)

/-- The tier and location of an allocation that asks for a tier (checks 7 to 9 of R237). -/
def pickTier (s : State) (e : ExtV) (owner size tier : Nat) : (BitVec 5) ⊕ (Nat × Nat) :=
  if tier = 3 then chooseTier s e owner size
  else if !policyPermits e tier then .inl Sts.denied
  else if !chargeFits s owner tier size then .inl Sts.quota
  else
    match roomIn s e.die tier size with
    | some l => .inr (tier, l)
    | none => .inl Sts.retry

/-- The status bit that a T0 allocation refused for want of T0 room sets (R245). -/
def t0Short (d : Die) (tier : Nat) (s : State) : State := if tier = 0 then setStatus (.tier d) 0 s else s

/-- Does an allocation that is refused want T0 room: one in T0, or one of the device's choice that T0 would take (R245)? -/
def wantsT0 (s : State) (e : ExtV) (owner size tier : Nat) : Bool :=
  pickTier s e owner size tier == .inl Sts.retry && (tier == 0 || (tier == 3 && policyPermits e 0 && chargeFits s owner 0 size))

/-- Note the refusal of an allocation (R245). -/
def noteShort (e : ExtV) (owner size tier : Nat) (st : BitVec 5) (s : State) : State :=
  if st = Sts.retry && wantsT0 s e owner size tier then setStatus (.tier e.die) 0 s else s

/-- Journal a DURABLE object's descriptor (R250). -/
def journalObj (d : Die) (e : ExtV) (id : Nat) (s : State) : State := if e.durable then journal d (.object id) s else s

/-- Put a new object in place whose charge is taken already: a new ID and generation; its bytes read as zero. -/
def placeObj (e : ExtV) (id : Nat) (o : Obj) (s : State) : State :=
  let gen := getD s.gens id 0 + 1
  let s1 := { s with
    objs := put s.objs id { o with gen := gen }, gens := put s.gens id gen,
    mem := memClear s.mem o.addr (granules o.size * 4096) }
  journalObj e.die e id (clearPoison s1 o.addr (granules o.size * 4096))

/-- Make an object: placed and charged. -/
def makeObj (e : ExtV) (id : Nat) (o : Obj) (s : State) : State := placeObj e id o (takeCharge e.die o.owner o.tier (granules o.size) s)

/-- Unmap the units of a T2 range and drop their staging slots (R277 step 6 says the same of units no object covers). -/
def unmapUnits (d : Die) (loc n : Nat) (s : State) : State :=
  let v := locVol loc
  let u := locUnit loc
  let hit := fun k => decide (u ≤ k) && decide (k < u + n)
  modFtl (modVol s v (fun x => { x with
    map := x.map.filter (fun p => !hit p.1),
    changedPages := (x.map.filter (fun p => hit p.1)).foldl (fun l p => insertNat (p.1 / 512) l) x.changedPages,
    holes := if x.groups.isEmpty then [] else
      ((rangeFrom u n).filter (fun k => (get? x.groups (k / 3072)).isSome)).foldl (fun l k => insertNat k l) x.holes })) d (fun x => { x with
    staging := x.staging.filter (fun y => !(y.vol == v && hit y.unit)) })

/-- Remove an object whose last access is over: its charge and its place are free (R238). -/
def dropObj (id : Nat) (s : State) : State :=
  match get? s.objs id with
  | none => s
  | some o =>
    match extOf s o.ext with
    | none => { s with objs := del s.objs id }
    | some e =>
      let s1 := dropCharge e.die o.owner o.tier (granules o.size) s
      let s2 := if o.tier = 2 then unmapUnits e.die o.loc (granules o.size) s1 else s1
      let s3 := { s2 with objs := del s2.objs id, mem := memClear s2.mem o.addr (granules o.size * 4096) }
      journalObj e.die e id (clearPoison s3 o.addr (granules o.size * 4096))

/-- Copy the bytes and markers of one range to another (R73, R238). -/
def copyRange (src dst n : Nat) (s : State) : State :=
  let marks := (touched src n).filter (fun g => s.poison.contains g)
  let s1 := writeMem s dst (readMem s src n)
  { s1 with poison := marks.foldl (fun l g => insertNat (g - src / 64 + dst / 64) l) s1.poison }

/-! Copying: the engine brings granules from their places and puts them out to others, a step at a time (R232, R240, R260, R268) -/

/-- The place of a granule of an object that lies in a tier at a location. -/
def placeIn (tier loc addr g : Nat) : Place :=
  if tier = 0 then .t0
  else if tier = 1 then .t1 (loc / 2 ^ 56) (addrOff addr / 4096 + g)
  else .t2 (locVol loc) (locUnit loc + g)

/-- The steps that copy some granules of an object from one place to another. -/
def moveSteps (addr : Nat) (src dst : Nat × Nat) (gs : List Nat) : List CopyStep :=
  gs.flatMap (fun g => [.fetch (addr + 4096 * g) (placeIn src.1 src.2 addr g), .put (addr + 4096 * g) (placeIn dst.1 dst.2 addr g)])

/-- The copying of a number on a die. -/
def jobAt (s : State) (d : Die) (id : Nat) : Option CopyJob := (side s.tier d).copies.find? (fun j => j.id == id)

/-- The copying for a purpose on a die. -/
def jobFor (s : State) (d : Die) (why : CopyFor) : Option CopyJob := (side s.tier d).copies.find? (fun j => j.why == why)

/-- The state with the copying of a number changed. -/
def modJob (d : Die) (id : Nat) (g : CopyJob → CopyJob) (s : State) : State :=
  modTier s d (fun t => { t with copies := t.copies.map (fun j => if j.id = id then g j else j) })

/-- The state without the copying for a purpose. -/
def dropJob (d : Die) (why : CopyFor) (s : State) : State :=
  modTier s d (fun t => { t with copies := t.copies.filter (fun j => j.why != why) })

/-- The first step of copying, done where it can be: whether it is done, and the state. What it needs of a tray or of flash is asked for, once;
a write that finds no staging slot waits (R260). A lost tray fails the copying with HOMELOST (R456). -/
def stepGo (d : Die) (j : CopyJob) (st : CopyStep) (s : State) : Bool × State :=
  let asked := modJob d j.id (fun x => { x with asked := true })
  let lost := (false, modJob d j.id (fun x => { x with failed := some Sts.homelost }) s)
  match st with
  | .copy src dst n => (true, copyRange src dst n s)
  | .fetch a (.t1 g gr) =>
    if j.got || blankAt s a then (true, s)
    else if j.asked then (false, s)
    else
      let e := homeDie s (addrOff a)
      match trayPlace s e g gr with
      | some (p, base) => if s.flt.lostTrays.contains p then lost else (false, askTray e p Opc.ld 3 base 4096 [] (.copy d j.id) (asked s))
      | none => (true, s)
  | .fetch a (.t2 v u) =>
    let e := homeDie s (addrOff a)
    if unitFlushed s e v u then (false, s)
    else if j.got || (stagedUnit s e v u).isSome then (true, s)
    else if j.asked || (getD s.vols v {}).toLoad.contains (u / 512) || !volServes s v u then (false, s)
    else if unitLost s v u then lost
    else
      match mapReady e v (u / 512) s with
      | (false, s1) => (false, s1)
      | (true, s1) => if (unitWhere s1 v u).isNone then (true, s1) else (false, startRead e v u (asked s1))
  | .put a (.t1 g gr) =>
    if j.got then (true, s)
    else if j.asked then (false, s)
    else
      let e := homeDie s (addrOff a)
      match trayPlace s e g gr with
      | some (p, base) =>
        if s.flt.lostTrays.contains p then lost
        else (false, askTray e p Opc.st 0 base 0 (sealMem s a (readMem s a 4096)) (.copy d j.id) (asked s))
      | none => (true, s)
  | .put a (.t2 v u) =>
    let e := homeDie s (addrOff a)
    if stageRoom s e || (stagedUnit s e v u).isSome then
      (true, stageWrite e v u ((extAt s (addrOff a)).elim false (·.durable)) s)
    else if j.asked then (false, s)
    else (false, asked (setStatus (.ftl e) 5 s))
  | _ => (true, s)

/-- Carry copying on as far as it goes now. -/
def copyGo (fuel : Nat) (d : Die) (id : Nat) (s : State) : State :=
  match fuel with
  | 0 => s
  | n + 1 =>
    match jobAt s d id with
    | none => s
    | some j =>
      match j.steps, j.failed with
      | st :: rest, none =>
        match stepGo d j st s with
        | (true, s1) => copyGo n d id (modJob d id (fun x => { x with steps := rest, got := false, asked := false }) s1)
        | (false, s1) => s1
      | _, _ => s

/-- The steps that bring here what lies of some ranges of bytes, local addresses and lengths, in T1 or T2 of a die (R232, R268). -/
def fetchSteps (s : State) (d : Die) (ranges : List (Nat × Nat)) : List CopyStep :=
  let gs := ranges.foldl (fun l r => if r.2 = 0 then l
    else (rangeFrom (r.1 / 4096) ((r.1 + r.2 - 1) / 4096 + 1 - r.1 / 4096)).foldl (fun l g => insertNat g l) l) []
  gs.filterMap (fun g =>
    match extAt s (addrOff (4096 * g)) with
    | none => none
    | some e =>
      if e.die ≠ d then none
      else
        match placeOf s e (addrOff (4096 * g)) with
        | .t1 a b => some (.fetch (4096 * g) (.t1 a b))
        | .t2 a b => some (.fetch (4096 * g) (.t2 a b))
        | _ => none)

/-- The steps that put out what was written of some ranges of bytes of objects that lie in T1 or T2 of a die. -/
def putSteps (s : State) (d : Die) (ranges : List (Nat × Nat)) : List CopyStep :=
  (fetchSteps s d ranges).filterMap (fun x => match x with
    | .fetch a p => some (.put a p)
    | _ => none)

/-- Start copying for a purpose, and carry it on as far as it goes. -/
def startCopy (d : Die) (why : CopyFor) (steps : List CopyStep) (s : State) : State :=
  let id := (side s.tier d).nextCopy
  copyGo (steps.length + 1) d id (modTier s d (fun t => { t with
    nextCopy := id + 1, copies := t.copies.filter (fun j => j.why != why) ++ [{ id := id, why := why, steps := steps }] }))

/-- Has the copying for a purpose been done to its last step? -/
def copied (s : State) (d : Die) (why : CopyFor) : Bool := (jobFor s d why).elim true (fun j => j.steps.isEmpty && j.failed.isNone)

/-- Is the copying for a purpose over, done or failed? -/
def copyEnded (s : State) (d : Die) (why : CopyFor) : Bool := (jobFor s d why).elim true (fun j => j.steps.isEmpty || j.failed.isSome)

/-- Go on once the bytes of some ranges are at hand: what lies in T1 or T2 is fetched first, and whatever asked for them asks again. -/
def withData (d : Die) (why : CopyFor) (ranges : List (Nat × Nat)) (go : State → State) (s : State) : State :=
  if (jobFor s d why).isSome then if copyEnded s d why then go (dropJob d why s) else s
  else
    match fetchSteps s d ranges with
    | [] => go s
    | steps =>
      let s1 := startCopy d why steps s
      if copyEnded s1 d why then go (dropJob d why s1) else s1

/-! Moves (R239 to R241) -/

/-- The move of an object on a die. -/
def moveOf (s : State) (d : Die) (id : Nat) : Option Move := (side s.tier d).moves.find? (fun m => m.obj == id)

/-- Does the device make this move itself? -/
def ownMove (m : Move) : Bool :=
  match m.who with
  | .frame _ => false
  | _ => true

/-- Is it the move of a session's packs? -/
def packMove (m : Move) : Bool :=
  match m.who with
  | .sleep _ => true
  | .wake _ => true
  | _ => false

/-- Answer the request that asked for a move. -/
def answerMove (d : Die) (m : Move) (st : BitVec 5) (s : State) : State :=
  match m.who with
  | .frame f => answer d f st [] (quotaWait f st s)
  | _ => s

/-- Unmap the units of a place that nothing lies in any longer, if it is in T2. -/
def leavePlace (d : Die) (tier loc n : Nat) (s : State) : State := if tier = 2 then unmapUnits d loc n s else s

/-- A move is over: its slot is free, its copying ends, and accesses that waited for the object go on. -/
def dropMove (d : Die) (m : Move) (s : State) : State :=
  dropJob d (match m.who with
    | .sleep n => .sleep n
    | .wake n => .wake n
    | _ => .move m.obj) (modTier s d (fun t => { t with moves := t.moves.filter (fun x => x.obj != m.obj) }))

/-- End a move before its switchover is done: the destination and its charge are free, the object stays at its source (R241). -/
def endMove (d : Die) (m : Move) (st : BitVec 5) (s : State) : State :=
  let s1 := dropMove d m s
  let s2 := match get? s1.objs m.obj with
    | some o =>
      if m.started then
        modObj (dropCharge d o.owner m.dest (granules o.size) (leavePlace d m.dest m.loc (granules o.size) s1)) m.obj
          (fun x => { x with st := if x.st = .moving then .resident else x.st })
      else s1
    | none => s1
  let s3 := answerMove d m st s2
  let s4 := if st = Sts.aborted then setStatus (.tier d) 2 s3 else s3
  resume d (fun w => w.wait == .object m.obj) false s4

/-- The moves of a die that wait, of which there are at most 4,096 (R239). -/
def queuedMoves (s : State) (d : Die) : List Move := (side s.tier d).moves.filter (fun m => !m.started)

/-- Has the queue of a die's moves room for one more? -/
def queueRoom (s : State) (d : Die) : Bool := decide ((queuedMoves s d).length < 4096)

/-- Queue a move, where the queue has room (R239). -/
def queueMove (d : Die) (m : Move) (s : State) : State :=
  if queueRoom s d then modTier s d (fun t => { t with moves := t.moves ++ [m] }) else s

/-- The next move to start: the device's own before software's, each in order (R239). -/
def nextMove (s : State) (d : Die) : Option Move :=
  let ms := (side s.tier d).moves
  let active := ms.filter (·.started)
  let own := (ms.filter (fun m => !m.started && ownMove m)).head?
  let soft := (ms.filter (fun m => !m.started && !ownMove m)).head?
  if 256 ≤ active.length then none
  else
    match own with
    | some m => some m
    | none => if (active.filter (fun m => !ownMove m)).length < 192 then soft else none

/-- The granules of an object still to be copied anew when a pass is over: enough of them that another pass is due (R240 step 3)? -/
def passDue (m : Move) : Bool := !m.switching && decide (16 < m.dirty.length) && decide (m.passes < 3)

/-- Copy the dirty granules of an object under a move. -/
def recopy (d : Die) (m : Move) (s : State) : State :=
  match get? s.objs m.obj with
  | none => s
  | some o =>
    startCopy d (.move m.obj) (moveSteps o.addr (o.tier, o.loc) (m.dest, m.loc) m.dirty)
      (modTier s d (fun t => { t with
        moves := t.moves.map (fun x => if x.obj = m.obj then { x with dirty := [], passes := x.passes + 1 } else x) }))

/-- When a pass of a move's copying is over, another follows while one is due (R240 step 3). -/
def passOver (d : Die) (obj : Nat) (s : State) : State :=
  match moveOf s d obj with
  | some m => if m.started && copied s d (.move obj) && passDue m then recopy d m s else s
  | none => s

/-- Copying fails with a status: a move ends with ABORTED (R241), a clone is given up with that status, a sleep or a wake takes note of it. -/
def copyFails (d : Die) (j : CopyJob) (st : BitVec 5) (s : State) : State :=
  match j.why with
  | .move obj => (moveOf s d obj).elim s (fun m => endMove d m Sts.aborted s)
  | .clone g obj => dropJob d j.why (refuse d g st (dropObj obj s))
  | .out obj => if (get? s.objs obj).elim true (fun o => o.st != .inbound) then dropJob d j.why s else modJob d j.id (fun x => { x with failed := some st }) s
  | _ => modJob d j.id (fun x => { x with failed := some st }) s

/-- What the end of a die's copying brings about at once: the next pass of a move, the answer to a clone (R238, R240). -/
def copyOver (d : Die) (id : Nat) (s : State) : State :=
  match jobAt s d id with
  | none => s
  | some j =>
    match j.steps, j.failed with
    | _, some st => copyFails d j st s
    | _ :: _, none => s
    | [], none =>
      match j.why with
      | .move obj => passOver d obj s
      | .clone f obj =>
        match get? s.objs obj with
        | none => dropJob d j.why s
        | some o =>
          resume d (fun w => w.wait == .object obj) false
            (answer d f Sts.ok (toLE 8 (handleOf s obj o.gen) ++ toLE 8 o.addr) (dropJob d j.why s))
      | .out obj => if (get? s.objs obj).elim true (fun o => o.st != .inbound) then dropJob d j.why s else s
      | _ => s

/-- Carry all the copying of a die on. -/
def pumpDie (d : Die) (s : State) : State :=
  (side s.tier d).copies.foldl (fun t j => copyOver d j.id (copyGo (j.steps.length + 1) d j.id t)) s

/-- Carry all copying on: what it waits for may have come about. -/
def pump (s : State) : State := pumpDie .d1 (pumpDie .d0 s)

/-- MOVE_START: the move takes a slot, its destination and its charge, and its copying starts (R239, R240). One that finds no quota or no room
ends there. -/
def execMoveStart (d : Die) (s : State) : Host.Outcome State Fault Refusal :=
  match nextMove s d with
  | none => objOk s
  | some m =>
    let start := fun (l : Nat) (t : State) => modTier t d (fun x => { x with
      moves := x.moves.map (fun y => if y.obj = m.obj then { y with started := true, loc := l } else y) })
    if packMove m then objOk (start 0 s)
    else
      match get? s.objs m.obj with
      | none => objOk (endMove d m Sts.aborted s)
      | some o =>
        if o.tier = m.dest then objOk (endMove d m Sts.ok s)
        else if !chargeFits s o.owner m.dest o.size then objOk (endMove d m Sts.quota s)
        else
          match roomIn s d m.dest o.size with
          | none => objOk (endMove d m Sts.retry (t0Short d m.dest s))
          | some l =>
            let s1 := takeCharge d o.owner m.dest (granules o.size) (modObj (start l s) m.obj (fun x => { x with st := .moving }))
            objOk (passOver d m.obj (startCopy d (.move m.obj)
              (moveSteps o.addr (o.tier, o.loc) (m.dest, l) (rangeFrom 0 (granules o.size))) s1))

/-- MOVE_SWITCHOVER: the copy passes are done; accesses to the object wait from here on (R240 step 4). -/
def execMoveSwitchover (obj : Nat) (s : State) : Host.Outcome State Fault Refusal :=
  let go := fun (d : Die) (t : State) => modTier t d (fun x => { x with
    moves := x.moves.map (fun m =>
      if m.obj = obj ∧ m.started ∧ !m.switching ∧ copied t d (.move obj) ∧ !passDue m ∧ !packMove m then
        { m with switching := true, since := nextOrder t d }
      else m) })
  objOk (go .d1 (go .d0 s))

/-- Finish a switched-over move (R240 steps 5 and 6): the descriptor shows the new place, and the source is free. -/
def finishMove (d : Die) (m : Move) (s : State) : State :=
  match get? s.objs m.obj with
  | none => s
  | some o =>
    let n := granules o.size
    let s1 := modObj (leavePlace d o.tier o.loc n s) m.obj
      (fun x => { x with tier := m.dest, loc := m.loc, st := .resident, blank := false, written := [] })
    let s2 := modTier (dropMove d m s1) d (fun t => { t with
      spilled := if m.who = .spill then (t.spilled + 1) % 2 ^ 64 else t.spilled,
      prefetched := if m.who = .prefetch then (t.prefetched + 1) % 2 ^ 64 else t.prefetched })
    let s3 := answerMove d m Sts.ok (dropCharge d o.owner o.tier n s2)
    resume d (fun w => w.wait == .object m.obj) false s3

/-- Is an access to an object that was admitted before its switchover still unperformed at a home? -/
def accessOpen (s : State) (d : Die) (id : Nat) : Bool :=
  (side s.home d).waiting.any (fun w => !isCohReq w.frame.opcode && w.wait != .object id && w.wait != .media &&
    (objAt s (transOff s w.frame.addr.toNat)).elim false (fun o => o.1 == id))

/-- MOVE_COMPLETE: once the accesses already admitted have completed at the source, the granules still dirty are copied, and the move is finished
when the destination equals the source (R240 steps 4 and 5). -/
def execMoveComplete (obj : Nat) (s : State) : Host.Outcome State Fault Refusal :=
  let go := fun (d : Die) (t : State) => match moveOf t d obj with
    | none => t
    | some m =>
      if !m.switching || accessOpen t d obj || !copied t d (.move obj) then t
      else
        let t1 := if m.dirty.isEmpty then t else recopy d m t
        if copied t1 d (.move obj) then finishMove d m t1 else t1
  objOk (go .d1 (go .d0 s))

/-- MOVE_DEST_FAIL: the destination failed before the descriptor was written (R241). -/
def execMoveDestFail (obj : Nat) (s : State) : Host.Outcome State Fault Refusal :=
  let go := fun (d : Die) (t : State) => match moveOf t d obj with
    | some m => if m.started && !packMove m then endMove d m Sts.aborted t else t
    | none => t
  objOk (go .d1 (go .d0 s))

/-- The granule of an object that has nothing written to it yet is written now (R238). -/
def noteWritten (a : Nat) (s : State) : State :=
  match objAt s (addrOff a) with
  | some (id, o) => if o.blank then modObj s id (fun x => { x with written := insertNat ((a - o.addr) / 4096) x.written }) else s
  | none => s

/-- Copying asked a tray for a granule or gave it one, and the tray has answered (R232): what it read is opened and, where it is poisoned, marked
(R193); a store that fails, and a place that is lost, fail the copying. -/
def copyAnswered (d : Die) (id : Nat) (f : Frame) (s : State) : State :=
  match jobAt s d id with
  | none => s
  | some j =>
    let st := stsIn f.status
    match j.steps.head? with
    | some (.fetch a _) =>
      if st = Sts.homelost then copyFails d j st s
      else
        let s1 := if st = Sts.ok then writeMem s a (openMem s a (f.payload.take 4096))
        else setStatus (.mem (homeDie s (addrOff a))) 0 { s with poison := (touched a 4096).foldl (fun l m => insertNat m l) s.poison }
      pump (modJob d id (fun x => { x with got := true }) s1)
    | some (.put a _) =>
      if st = Sts.ok then pump (modJob d id (fun x => { x with got := true }) (noteWritten a s))
      else copyFails d j st s
    | _ => s

/-- A unit that copying waits for has been read, or is poisoned (R268). -/
def copyRead (vol unit : Nat) (s : State) : State :=
  let mine := fun (j : CopyJob) => j.asked && (match j.steps.head? with
    | some (.fetch _ (.t2 v u)) => v == vol && u == unit
    | _ => false)
  let one := fun (e : Die) (t : State) => modTier t e (fun x => { x with copies := x.copies.map (fun j => if mine j then { j with got := true } else j) })
  if (side s.tier .d0).copies.any mine || (side s.tier .d1).copies.any mine then pump (one .d1 (one .d0 s)) else s

end Machine
end Sys2Proof
end

