-- ==== Sys2Proof/Machine/Objects.lean ====
section
/-! DEFINITION. Tensor objects, the migration engine, spill and refill, the answers of DRAM trays (R70 to R79, R232 to R245). -/

namespace Sys2Proof
namespace Machine

/-! Object requests (R236 to R238) -/

/-- May an OBJ_CREATE make a KV page of this size (R76)? -/
def pageSizeOk (size : Nat) : Bool :=
  decide (64 < size) && (rangeFrom 4 9).any (fun k => [1, 2].any (fun e =>
    let u := 2 ^ (k + 1) * e
    (size - 64) % u == 0 && decide ((size - 64) / u ≤ 65535)))

/-- The object a handle names for a new request: status, or ID and object (R70). -/
def handleObj (s : State) (h : Nat) : Option (Nat × Obj) :=
  match get? s.objs (handleId h) with
  | some o => if o.gen = handleGen h ∧ o.st ≠ .freeing ∧ o.st ≠ .inbound then some (handleId h, o) else none
  | none => none

/-- Checks 2 to 6 for a request on a handle: the extent, or the refusal. -/
def objChecks (s : State) (d : Die) (f : Frame) (epoch : Nat) (isFree : Bool) : (BitVec 5) ⊕ (Nat × Obj × ExtV) :=
  if !admitted s d f then .inl (admitSts s d f)
  else
    match handleObj s f.addr.toNat with
    | none => .inl Sts.stale
    | some (id, o) =>
      match extOf s o.ext with
      | none => .inl Sts.stale
      | some e =>
        let ph := extPhase s d e.idx
        if !(ph == .active || (ph == .revoked && isFree && e.owner == f.ctx.toNat)) then .inl Sts.revoked
        else if o.homeLost && !isFree then .inl Sts.homelost
        else if isFree && (o.owner != f.ctx.toNat) then .inl Sts.denied
        else if !bitAt (rightsOn s e f.ctx.toNat) 3 then .inl Sts.denied
        else if epoch ≠ 0 ∧ epoch ≠ o.epoch then .inl Sts.stale
        else .inr (id, o, e)

/-- The bytes of an accepted request counted by the tap (R425). -/
def countReq (d : Die) (f : Frame) (s : State) : State := tapBytes d f.ctx.toNat f.tc.toNat 0 f.length.toNat s

/-- Check 1 of OBJ_CREATE. -/
def createFormBad (f : Frame) : Option (BitVec 5) :=
  let b := f.payload
  let size := le b 0 8
  if b.length ≠ 32 then some Sts.length
  else if 2 < le b 8 1 ∨ 3 < le b 9 1 ∨ 3 < le b 10 1 ∨ 2 ^ 20 ≤ le b 12 4 ∨ 4096 ≤ le b 16 2 ∨ fld (le b 18 2) 14 10 ≠ 0 ∨
      !zeroAt b 20 12 then some Sts.format
  else if size = 0 ∨ 2 ^ 36 < size then some Sts.length
  else if le b 8 1 = 1 ∧ !pageSizeOk size then some Sts.format
  else none

/-- The address of an allocation: the one AT asks for, or the lowest free range (check 9 of R237). -/
def pickAddr (s : State) (e : ExtV) (atOff : Option Nat) (size : Nat) : (BitVec 5) ⊕ Nat :=
  match atOff with
  | some a =>
    if a % 4096 ≠ 0 then .inl Sts.align
    else if a < e.base ∨ e.base + e.size < a + size ∨
        (objRanges s).any (fun r => decide (a < r.1 + r.2) && decide (r.1 < a + granules size * 4096)) then .inl Sts.length
    else .inr a
  | none =>
    match freeRange s e size with
    | some a => .inr a
    | none => .inl Sts.retry

/-- Checks 7 to 9 of an allocation and the object it makes: the status, or the ID, tier, location and address. -/
def allocate (s : State) (e : ExtV) (owner size tier : Nat) (atOff : Option Nat) : (BitVec 5) ⊕ (Nat × Nat × Nat × Nat) :=
  match pickTier s e owner size tier with
  | .inl st =>
    if st = Sts.retry then
      match pickAddr s e atOff size with
      | .inl bad => .inl bad
      | .inr _ => .inl Sts.retry
    else .inl st
  | .inr (t, l) =>
    match pickAddr s e atOff size with
    | .inl bad => .inl bad
    | .inr a =>
      match freeObjId s with
      | none => .inl Sts.retry
      | some id => .inr (id, t, l, a)

/-- A request for a new object that the home takes. -/
def createObj (d : Die) (f : Frame) (s : State) : State :=
  let b := f.payload
  let off := transOff s f.addr.toNat
  match createFormBad f with
  | some st => refuse d f st s
  | none =>
    if outstanding s d (keyOf f) then refuse d f Sts.format s
    else if !admitted s d f then refuse d f (admitSts s d f) s
    else
      match extAt s off with
      | none => refuse d f Sts.nohome s
      | some e =>
        let ph := extPhase s d e.idx
        if ph = .free then refuse d f Sts.nohome s
        else if !e.classT then refuse d f Sts.format s
        else if ph ≠ .active then refuse d f Sts.revoked s
        else if !bitAt (rightsOn s e f.ctx.toNat) 3 then refuse d f Sts.denied s
        else
          let size := le b 0 8
          match allocate s e f.ctx.toNat size (le b 9 1) (if bitAt (le b 10 1) 0 then some off else none) with
          | .inl st => noteShort e f.ctx.toNat size (le b 9 1) st (refuse d f st (quotaWait f st s))
          | .inr (id, tier, loc, a) =>
            let comp := le b 18 2
            let addr := s.cfg.switchId * 2 ^ 52 + a
            let o : Obj := {
              owner := f.ctx.toNat, tier := tier, st := .resident, kind := le b 8 1,
              pins := b2n (bitAt (le b 10 1) 1), addr := addr, size := size, ext := e.idx, epoch := 1, refcount := 1,
              loc := loc, gen := 0, comp := if bitAt comp 15 then some (comp % 1024) else none,
              ses := if le b 8 1 = 0 then 0 else le b 12 4, layer := le b 16 2,
              hg := if le b 8 1 = 1 then le b 11 1 else 0, lastAccess := (side s.home d).order, blank := tier == 1 }
            let s1 := makeObj e id o (countReq d f s)
            answer d f Sts.ok (toLE 8 (handleOf s1 id (getD s1.gens id 0)) ++ toLE 8 addr) s1

/-- OBJ_CREATE. -/
def execObjCreate (d : Die) (f : Frame) (s : State) : Host.Outcome State Fault Refusal :=
  if f.opcode ≠ Opc.objCreate then objOk s
  else if toSp f then objOk (windowMisuse f s)
  else objOk (atHome d f [] (createObj d f) s)

/-- A request to move an object that the home takes. -/
def moveObj (d : Die) (f : Frame) (s : State) : State :=
  let b := f.payload
  if b.length ≠ 8 then refuse d f Sts.length s
  else if 2 < le b 0 1 ∨ !zeroAt b 1 3 ∨ outstanding s d (keyOf f) then refuse d f Sts.format s
  else
    match objChecks s d f (le b 4 4) false with
    | .inl st => refuse d f st s
    | .inr (id, o, e) =>
      let tier := le b 0 1
      if !policyPermits e tier then refuse d f Sts.denied s
      else if (moveOf s d id).isSome || o.st == .moving then refuse d f Sts.retry s
      else if o.tier = tier then answer d f Sts.ok [] (countReq d f s)
      else if !chargeFits s o.owner tier o.size then refuse d f Sts.quota (countWait f.ctx.toNat true s)
      else if (roomIn s d tier o.size).isNone then t0Short d tier (refuse d f Sts.retry s)
      else if !queueRoom s d then refuse d f Sts.retry s
      else queueMove d { obj := id, dest := tier, who := .frame f, ctx := f.ctx.toNat } (countReq d f s)

/-- OBJ_MOVE. -/
def execObjMove (d : Die) (f : Frame) (s : State) : Host.Outcome State Fault Refusal :=
  objOk (if f.opcode = Opc.objMove then atHome d f [] (moveObj d f) s else s)

/-- A request with an empty body on a handle that changes the pin count. -/
def pinReq (d : Die) (f : Frame) (g : Nat → Option Nat) (s : State) : State :=
  if f.payload.length ≠ 0 then refuse d f Sts.length s
  else if outstanding s d (keyOf f) then refuse d f Sts.format s
  else
    match objChecks s d f 0 false with
    | .inl st => refuse d f st s
    | .inr (id, o, _) =>
      match g o.pins with
      | none => refuse d f Sts.length s
      | some n => answer d f Sts.ok [] (countReq d f (modObj s id (fun x => { x with pins := n })))

/-- OBJ_PIN: a count that would reach 0xFFFF is LENGTH (R75). -/
def execObjPin (d : Die) (f : Frame) (s : State) : Host.Outcome State Fault Refusal :=
  objOk (if f.opcode = Opc.objPin then atHome d f [] (pinReq d f (fun n => if n + 1 < 0xFFFF then some (n + 1) else none)) s else s)

/-- OBJ_UNPIN. -/
def execObjUnpin (d : Die) (f : Frame) (s : State) : Host.Outcome State Fault Refusal :=
  objOk (if f.opcode = Opc.objUnpin then atHome d f [] (pinReq d f (fun n => if n = 0 then none else some (n - 1))) s else s)

/-- The session that lists a page (R340). -/
def listedPage (s : State) (id : Nat) : Bool := s.sessions.any (fun x => x.2.pages.any (fun p => p.obj == id))

/-- The move of an object, if there is one, ends: the object is going (R241). -/
def endMoveOf (d : Die) (id : Nat) (s : State) : State :=
  match moveOf s d id with
  | some m => endMove d m Sts.aborted s
  | none => s

/-- A request to free an object that the home takes: the object is in FREEING and a move of it ends. A KV page that a session lists is refused with
DENIED (R349). -/
def freeObj (d : Die) (f : Frame) (s : State) : State :=
  let b := f.payload
  if b.length ≠ 8 then refuse d f Sts.length s
  else if !zeroAt b 0 4 ∨ outstanding s d (keyOf f) then refuse d f Sts.format s
  else
    match objChecks s d f (le b 4 4) true with
    | .inl st => refuse d f st s
    | .inr (id, _, _) =>
      if listedPage s id then refuse d f Sts.denied s
      else
        let s1 := endMoveOf d id s
        answer d f Sts.ok [] (countReq d f (modObj s1 id (fun x => { x with st := .freeing })))

/-- OBJ_FREE. -/
def execObjFree (d : Die) (f : Frame) (s : State) : Host.Outcome State Fault Refusal :=
  objOk (if f.opcode = Opc.objFree then atHome d f [] (freeObj d f) s else s)

/-- Is an access to an object admitted before its OBJ_FREE still unanswered? -/
def accessPending (s : State) (o : Obj) : Bool :=
  [Die.d0, Die.d1].any (fun d => (side s.home d).waiting.any (fun w =>
    let a := transOff s w.frame.addr.toNat
    !isCohReq w.frame.opcode && decide (addrOff o.addr ≤ a) && decide (a < addrOff o.addr + o.size))) ||
  [Die.d0, Die.d1].any (fun d => (side s.col d).ops.any (fun p => p.items.any (fun i => (get? s.objs i.page) == some o)) ||
    (side s.tier d).copies.any (fun j => match j.why with
      | .clone f _ => (get? s.objs (handleId f.addr.toNat)) == some o
      | _ => false))

/-- OBJ_FREE_RELEASE: the last admitted access is over (R238); of an object in a DURABLE extent it waits for room in the journal (R276). -/
def execObjFreeRelease (obj : Nat) (s : State) : Host.Outcome State Fault Refusal :=
  match get? s.objs obj with
  | some o =>
    let waits := (extOf s o.ext).elim false (fun e => e.durable && ringFull s e.die 4096)
    if o.st = .freeing ∧ !accessPending s o ∧ !waits then objOk (dropObj obj s) else objOk s
  | none => objOk s

/-- The steps that bring an object here, granule by granule. -/
def fetchObj (o : Obj) : List CopyStep :=
  (rangeFrom 0 (granules o.size)).map (fun g => .fetch (o.addr + 4096 * g) (placeIn o.tier o.loc o.addr g))

/-- The steps that put an object out to where it lies. -/
def putObj (o : Obj) : List CopyStep :=
  (rangeFrom 0 (granules o.size)).map (fun g => .put (o.addr + 4096 * g) (placeIn o.tier o.loc o.addr g))

/-- The steps that copy an object to another. -/
def cloneSteps (o c : Obj) : List CopyStep := fetchObj o ++ [.copy o.addr c.addr o.size] ++ putObj c

/-- A request to clone an object that the home takes: the source may be read by right R, the destination extent asks for O; the issuer owns the
clone. DESIGN CHOICE (log 186): the clone keeps the source's KIND, COMP, SESSION, LAYER and HEAD_GROUP, of which the spec says nothing. -/
def cloneObj (d : Die) (f : Frame) (s : State) : State :=
  let b := f.payload
  if b.length ≠ 16 then refuse d f Sts.length s
  else if 3 < le b 8 1 ∨ 1 < le b 9 1 ∨ !zeroAt b 10 6 ∨ outstanding s d (keyOf f) then refuse d f Sts.format s
  else if !admitted s d f then refuse d f (admitSts s d f) s
  else
    match handleObj s f.addr.toNat with
    | none => refuse d f Sts.stale s
    | some (id, o) =>
      let doff := addrOff (le b 0 8)
      match extOf s o.ext, (if addrSwitch (le b 0 8) = addrSwitch f.addr.toNat then extAt s doff else none) with
      | some se, some e =>
        let ph := extPhase s d e.idx
        if ph = .free then refuse d f Sts.nohome s
        else if !e.classT then refuse d f Sts.format s
        else if ph ≠ .active ∨ extPhase s d se.idx ≠ .active then refuse d f Sts.revoked s
        else if o.homeLost then refuse d f Sts.homelost s
        else if !bitAt (rightsOn s se f.ctx.toNat) 0 || !bitAt (rightsOn s e f.ctx.toNat) 3 then refuse d f Sts.denied s
        else
          match allocate s e f.ctx.toNat o.size (le b 8 1) (if bitAt (le b 9 1) 0 then some doff else none) with
          | .inl st => noteShort e f.ctx.toNat o.size (le b 8 1) st (refuse d f st (quotaWait f st s))
          | .inr (nid, tier, loc, a) =>
            let addr := s.cfg.switchId * 2 ^ 52 + a
            let c : Obj := { o with
              owner := f.ctx.toNat, tier := tier, st := .resident, pins := 0, addr := addr, ext := e.idx, epoch := 1,
              refcount := 1, loc := loc, lastAccess := (side s.home d).order, oldHandle := 0, blank := false, written := [] }
            let s1 := makeObj e nid c (countReq d f (modObj s id (fun x => { x with lastAccess := (side s.home d).order })))
            pump (startCopy d (.clone f nid) (cloneSteps o c) s1)
      | _, _ => refuse d f Sts.nohome s

/-- OBJ_CLONE. -/
def execObjClone (d : Die) (f : Frame) (s : State) : Host.Outcome State Fault Refusal :=
  objOk (if f.opcode = Opc.objClone then atHome d f [] (cloneObj d f) s else s)

/-! Spill, refill, prefetch (R242 to R245) -/

/-- The list entry of a page object in an awake session of a die, with the session's number. -/
def awakePages (s : State) (d : Die) : List (Nat × PageEnt) :=
  s.sessions.flatMap fun x =>
    if x.2.st = .awake ∧ (extOf s x.2.ext).elim false (fun e => e.die == d) then x.2.pages.map (fun p => (x.1, p)) else []

/-- Order of pages: FIRST_TOKEN, layer, head group. -/
def pageLt (a b : PageEnt) : Bool :=
  decide (a.first < b.first) || (a.first == b.first && (decide (a.layer < b.layer) || (a.layer == b.layer && decide (a.group < b.group))))

/-- May the device spill an object: unpinned, resident in T0, not skipped and not queued already? -/
def spillable (s : State) (d : Die) (id : Nat) : Bool :=
  match get? s.objs id with
  | some o => o.st == .resident && o.tier == 0 && o.pins == 0 && !(side s.tier d).skip.contains id && (moveOf s d id).isNone
  | none => false

/-- The session with most of some pages, ties to the lowest number. -/
def mostPages (l : List (Nat × PageEnt)) : Option Nat :=
  ((l.map (·.1)).eraseDups).foldl (fun b x => match b with
    | none => some x
    | some y =>
      let c := fun k => (l.filter (fun p => p.1 == k)).length
      if c y < c x ∨ (c y = c x ∧ x < y) then some x else b) none

/-- The next victim of a spill (R242). -/
def spillVictim (s : State) (d : Die) : Option Nat :=
  let ps := (awakePages s d).filter (fun p => spillable s d p.2.obj)
  match mostPages ps with
  | some k =>
    (((ps.filter (fun p => p.1 == k)).map (·.2)).foldl (fun b p => match b with
      | none => some p
      | some q => if pageLt p q then some p else b) none).map (·.obj)
  | none =>
    ((s.objs.filter (fun o => spillable s d o.1 && (extOf s o.2.ext).elim false (fun e =>
        e.die == d && !e.durable && (e.policy == 0 || e.policy == 4)))).foldl (fun b o => match b with
      | none => some o
      | some q => if o.2.lastAccess < q.2.lastAccess then some o else b) none).map (·.1)

/-- The granules that queued spills will free. -/
def spillingOut (s : State) (d : Die) : Nat :=
  sumOf ((side s.tier d).moves.map (fun m => if m.who = .spill then (get? s.objs m.obj).elim 0 (fun o => granules o.size) else 0))

/-- Does a spill run on a die? -/
def spillRuns (s : State) (d : Die) : Bool := (side s.tier d).moves.any (fun m => m.who == .spill)

/-- The granules that queued moves will take of an owner's quota in a tier: a victim counts as spilled at once (R242). -/
def queuedFor (s : State) (d : Die) (owner tier : Nat) : Nat :=
  sumOf ((queuedMoves s d).map (fun m =>
    if m.dest = tier then (get? s.objs m.obj).elim 0 (fun o => if o.owner = owner then granules o.size else 0) else 0))

/-- The sizes of the objects that queued moves bring to a tier. -/
def queuedSizes (s : State) (d : Die) (tier : Nat) : List Nat :=
  (queuedMoves s d).filterMap (fun m => if m.dest = tier then (get? s.objs m.obj).map (·.size) else none)

/-- The bytes that each group of a die's T1 has free once some objects have their places, each in the group with most room. -/
def groupsAfter (free sizes : List Nat) : List Nat :=
  sizes.foldl (fun l n =>
    let b := 4096 * granules n
    let most := l.foldl Nat.max 0
    if most < b then l else (leastFrom (fun i => nth l i 0 == most) 0 16).elim l (fun i => l.set i (most - b))) free

/-- The T2 ranges that some objects take, one after the other. -/
def rangesAfter (s : State) (d : Die) (sizes : List Nat) : List (Nat × Nat) :=
  sizes.foldl (fun l n => (volPlaceBut s d l (granules n)).elim l (fun p => l ++ [(p, granules n)])) []

/-- Is there room in a tier for an object, once the moves queued for the tier have their places: a moving victim counts as spilled (R242)? -/
def fitsBehind (s : State) (d : Die) (tier size : Nat) : Bool :=
  if tier = 1 then
    (groupsAfter ((rangeFrom 0 16).map (groupFree s d)) (queuedSizes s d 1)).any (fun b => decide (4096 * granules size ≤ b))
  else (volPlaceBut s d (rangesAfter s d (queuedSizes s d 2)) (granules size)).isSome

/-- The loop of R242: one round for each object at most. -/
def spillLoop (fuel : Nat) (d : Die) (s : State) : State :=
  match fuel with
  | 0 => s
  | k + 1 =>
    let t := side s.tier d
    if !t.spillEn || decide (t.highWm * 512 ≤ t0Free s d + spillingOut s d) then s
    else if !queueRoom s d then modTier s d (fun x => { x with spillMore := true })
    else
      match spillVictim s d with
      | none => setStatus (.tier d) 1 s
      | some id =>
        match get? s.objs id with
        | none => s
        | some o =>
          match extOf s o.ext with
          | none => s
          | some e =>
            let fits := fun tier => policyPermits e tier && !overLimit s o.owner tier (granules o.size + queuedFor s d o.owner tier) && fitsBehind s d tier o.size
            let go := fun tier => queueMove d { obj := id, dest := tier, who := .spill, ctx := o.owner } s
            let s1 := if fits 1 then go 1 else if fits 2 then go 2
              else modTier s d (fun x => { x with skip := insertNat id x.skip })
            spillLoop k d s1

/-- SPILL_START: free T0 is below the low watermark (R242); a spill that the full queue of moves holds goes on. A die whose escrow is almost full makes
no moves of its own (R438). -/
def execSpillStart (d : Die) (s : State) : Host.Outcome State Fault Refusal :=
  let t := side s.tier d
  if (side s.mtr.escrow d).stopped || !t.spillEn then objOk s
  else if t.spillMore then objOk (spillLoop (s.objs.length + 1) d (modTier s d (fun x => { x with spillMore := false })))
  else if spillRuns s d || decide (t.lowWm * 512 ≤ t0Free s d) then objOk s
  else objOk (spillLoop (s.objs.length + 1) d (modTier s d (fun x => { x with skip := [] })))

/-- The granules that queued moves will take in T0. -/
def comingIn (s : State) (d : Die) : Nat :=
  sumOf ((queuedMoves s d).map (fun m => if m.dest = 0 then (get? s.objs m.obj).elim 0 (fun o => granules o.size) else 0))

/-- The loop of R243. -/
def refillLoop (fuel : Nat) (d : Die) (s : State) : State :=
  match fuel with
  | 0 => s
  | k + 1 =>
    let ps := awakePages s d
    let out := fun (p : Nat × PageEnt) => match get? s.objs p.2.obj with
      | some o => o.tier != 0 && (moveOf s d p.2.obj).isNone
      | none => false
    let inT0 := fun ses => (ps.filter (fun p => p.1 == ses && !out p)).length
    let ses := (((ps.filter out).map (·.1)).eraseDups).foldl (fun b x => match b with
      | none => some x
      | some y => if inT0 x < inT0 y ∨ (inT0 x = inT0 y ∧ x < y) then some x else b) none
    match ses with
    | none => s
    | some n =>
      let cs := (ps.filter (fun p => p.1 == n && out p && (get? s.objs p.2.obj).elim false (fun o => o.pins == 0))).map (·.2)
      match cs.foldl (fun b p => match b with
          | none => some p
          | some q => if pageLt q p then some p else b) none with
      | none => s
      | some c =>
        match get? s.objs c.obj with
        | none => s
        | some o =>
          let t := side s.tier d
          if t0Free s d < comingIn s d + granules o.size + t.highWm * 512 || !queueRoom s d then s
          else refillLoop k d (queueMove d { obj := c.obj, dest := 0, who := .refill, ctx := o.owner } s)

/-- REFILL_START (R243, R438). -/
def execRefillStart (d : Die) (s : State) : Host.Outcome State Fault Refusal :=
  let t := side s.tier d
  if (side s.mtr.escrow d).stopped || !t.refillEn || spillRuns s d || t.spillMore then objOk s else objOk (refillLoop (s.objs.length + 1) d s)

/-- The prefetch of R244 for a session and layer; none while the die's escrow is almost full (R438). -/
def prefetch (d : Die) (ses layer : Nat) (s : State) : State :=
  match (if (side s.mtr.escrow d).stopped then none else get? s.sessions ses) with
  | none => s
  | some x =>
    let depth := (side s.tier d).prefetchDepth
    let ps := sortBy (fun (a b : PageEnt) => decide (a.layer < b.layer) || (a.layer == b.layer &&
        (decide (a.group < b.group) || (a.group == b.group && decide (a.first < b.first)))))
      (x.pages.filter (fun p => decide (layer < p.layer) && decide (p.layer ≤ layer + depth)))
    ps.foldl (fun t p =>
      match get? t.objs p.obj with
      | some o =>
        if o.tier = 2 ∧ o.pins = 0 ∧ (moveOf t d p.obj).isNone then
          let dest := if (side t.tier d).highWm * 512 + granules o.size + comingIn t d ≤ t0Free t d then 0 else 1
          queueMove d { obj := p.obj, dest := dest, who := .prefetch, ctx := o.owner } t
        else t
      | none => t) s

/-! Answers of DRAM trays -/

/-- Serve again the class C requests that wait for lines. -/
def resumeCc (d : Die) (s : State) : State :=
  resume d (fun w => w.wait == .tray && (match extAt s (transOff s w.frame.addr.toNat) with
    | some e => !e.classT
    | none => false)) false s

/-- CC_WRITEBACK_RESPONSE (R235). -/
def execCcWritebackResponse (d : Die) (f : Frame) (s0 : State) : Host.Outcome State Fault Refusal :=
  let s := takeAgent d f s0
  match trayReqOf s d f with
  | none => objOk s
  | some r =>
    match r.why with
    | .writeback line =>
      if f.status = Sts.retry then objOk (sendPort d r.port r.frame s)
      else
        let s1 := dropTrayReq d r.tag s
        if f.status = Sts.ok then
          let same := sealMem s1 (line * 64) (lineBytes s1 line) == r.frame.payload
          let s2 := modTier s1 d (fun t => { t with
            cc := modK t.cc line (fun c => { c with dirty := !same }),
            flush := if same then t.flush.filter (fun l => l != line) else t.flush })
          objOk (resumeCc d (if !same && (side s1.tier d).flush.contains line then ccWriteback d line s2 else s2))
        else objOk (resumeCc d (setStatus (.tier d) 6 s1))
    | _ => objOk s

/-- The waiting request that a tray request was made for. -/
def waitingFor (s : State) (d : Die) (q : Frame) : Option Waiting :=
  (side s.home d).waiting.find? (fun w => w.wait == .tray && keyOf w.frame == keyOf q)

/-- Some lines are poisoned by what a tray answered (R193). -/
def poisonLines (d : Die) (lines : List Nat) (s : State) : State :=
  setStatus (.mem d) 0 { s with poison := lines.foldl (fun l m => insertNat m l) s.poison }

/-- A DRAM tray answered the access of a home request: what it read is opened and the request served; what it stored takes effect (R180, R232). -/
def homeTray (d : Die) (r : TrayReq) (q f : Frame) (s : State) : State :=
  match waitingFor s d q with
  | none => s
  | some w =>
    let a := localAddr s q.addr.toNat
    let u := unitsAround a (accessLen q)
    let st := stsIn f.status
    let load := r.frame.opcode == Opc.ld
    if st = Sts.ok ∧ load then settleBehind d (serve d w.order true (writeMem s u.1 (openMem s u.1 (f.payload.take u.2))))
    else if st = Sts.ok then
      settleBehind d (performAll d (w.frame :: w.more) (noteAccess d w.frame w.order (dropWaiting d w.order (noteWritten a s))))
    else if st = Sts.poison ∧ load then settleBehind d (serve d w.order true (poisonLines d (touched u.1 u.2) s))
    else settleBehind d ((w.frame :: w.more).foldl (fun t x => refuse d x st t) (dropWaiting d w.order s))

/-- A fill of the class C cache was answered (R232, R234). -/
def fillDone (d : Die) (line : Nat) (f : Frame) (s : State) : State :=
  let order := (side s.home d).order
  let st := stsIn f.status
  if st = Sts.ok then
    resumeCc d (ccPut d line { dirty := false, last := order } (writeMem s (lineAddr line) (openMem s (lineAddr line) (f.payload.take 64))))
  else if st = Sts.poison then resumeCc d (ccPut d line { dirty := false, last := order } (poisonLines d [line] s))
  else
    (side s.home d).waiting.foldl (fun t w =>
      if w.wait = .tray ∧ (linesOf (localAddr s w.frame.addr.toNat) (max 1 (accessLen w.frame))).contains line then
        (w.frame :: w.more).foldl (fun u x => refuse d x st u) (dropWaiting d w.order t)
      else t) s

end Machine
end Sys2Proof
end

