-- ==== Sys2Proof/Machine/PodCore.lean ====
section
/-! DEFINITION. Pod cores: threads, scratch, the issue of one instruction, work items, retirement (R280 to R290, R301 to R310). -/

namespace Sys2Proof
namespace Machine

/-! Cores and slots -/

/-- The state of a core that has not been touched: core p serves slot p below 512, spares from 512 on (R280). -/
def freshCore (p : Nat) : Core :=
  if p < 512 then { slot := some p } else { st := .spare }

/-- A core of a die. -/
def coreOf (s : State) (d : Die) (p : Nat) : Core := getD (side s.pod d).cores p (freshCore p)

/-- The state with a core put in its place. -/
def putCore (d : Die) (p : Nat) (c : Core) (s : State) : State := modPod s d (fun v => { v with cores := put v.cores p c })

/-- The core that serves a slot, if one does. -/
def slotCore (s : State) (d : Die) (slot : Nat) : Option Nat :=
  leastFrom (fun p => (coreOf s d p).slot == some slot && (coreOf s d p).st != .retired) 0 528

/-- Is a slot vacant (R282)? -/
def vacantSlot (s : State) (d : Die) (slot : Nat) : Bool := (side s.pod d).vacant.contains slot

/-! Registers and scratch of a thread (R283) -/

/-- A scalar register; s0 reads zero. -/
def sreg (t : Thread) (n : Nat) : Word := if n = 0 then 0 else sget t.sreg n

/-- A scalar register written; a write of s0 is ignored. -/
def setSreg (t : Thread) (n : Nat) (v : Word) : Thread := if n = 0 then t else { t with sreg := sput t.sreg n v }

/-- The lanes of a vector register. -/
def vreg (t : Thread) (n : Nat) : List (BitVec 32) := sgets t.vreg (64 * n) 64

/-- A vector register written. -/
def setVreg (t : Thread) (n : Nat) (l : List (BitVec 32)) : Thread := { t with vreg := sputs t.vreg (64 * n) (l.take 64) }

/-- The elements of a tile, row by row. -/
def tileOf (t : Thread) (n : Nat) : List (BitVec 32) := sgets t.tile (256 * n) 256

/-- A tile written. -/
def setTile (t : Thread) (n : Nat) (l : List (BitVec 32)) : Thread := { t with tile := sputs t.tile (256 * n) (l.take 256) }

/-- The thread with flags set. -/
def addFlags (t : Thread) (v : Nat) : Thread := { t with flags := t.flags ||| BitVec.ofNat 5 v }

/-- The bytes of scratch memory of a core (R283). -/
abbrev scratchSize : Nat := 0x40000

/-- A byte of scratch. -/
def scratchByte (c : Core) (a : Nat) : Byte :=
  match get? c.scratch a with
  | some v => v
  | none =>
    if a < 256 then nth (Config.freeBytes (c.item.elim 0 (·.low)) 256) a 0
    else
      match c.fill with
      | some n => nth (Config.freeBytes n scratchSize) a 0
      | none => 0

/-- Bytes of scratch from an address. -/
def scratchGet (c : Core) (a n : Nat) : Bytes := (rangeFrom a n).map (scratchByte c)

/-- A table with consecutive bytes put in. -/
def putBytes (m : Dict Byte) (a : Nat) (b : Bytes) : Dict Byte :=
  match b with
  | [] => m
  | v :: r => putBytes (put m a v) (a + 1) r

/-- The core with scratch bytes written. -/
def scratchPut (c : Core) (a : Nat) (b : Bytes) : Core := { c with scratch := putBytes c.scratch a b }

/-- Does every byte of an access lie in scratch (R288)? -/
def inScratch (a n : Nat) : Bool := decide (a + n ≤ scratchSize)

/-! Threads -/

/-- A thread of a core. -/
def threadOf (c : Core) (i : Nat) : Thread := getD c.threads i {}

/-- The core with a thread changed. -/
def setThread (c : Core) (i : Nat) (t : Thread) : Core := { c with threads := put c.threads i t }

/-- Has a thread of the item not ended or faulted? -/
def live (t : Thread) : Bool :=
  match t.st with
  | .idle => false
  | .ended => false
  | .faulted _ => false
  | _ => true

/-- The threads not ended or faulted. -/
def liveCount (c : Core) : Nat := (c.threads.filter (fun x => live x.2)).length

/-- The next ready thread after the current one, wrapping from 15 to 0 (R285). -/
def nextReady (c : Core) : Option Nat :=
  ((rangeFrom (c.cur + 1) 16).map (· % 16)).find? (fun i => (threadOf c i).st == .ready)

/-- Change the current thread; when none is ready the core waits. -/
def switchThread (c : Core) : Core :=
  match nextReady c with
  | some i => { c with cur := i, since := 0 }
  | none => c

/-- A thread that has become ready is chosen where the current one is not ready. -/
def wakeCore (c : Core) : Core := if (threadOf c c.cur).st == .ready then c else switchThread c

/-- The threads at the start of an item or of its stage program (R284, R335). -/
def threadsAt (n entry index : Nat) : Dict Thread :=
  (rangeFrom 0 n).map fun k =>
    (k, setSreg (setSreg (setSreg { st := .ready, pc := entry } 1 (BitVec.ofNat 64 k)) 2 (BitVec.ofNat 64 n)) 3 (BitVec.ofNat 64 index))

/-- A barrier that every live thread has reached lets them all go on (R287). The first one of a filter item in STAGE mode starts
the stage program: its threads are new, scratch is kept (R335). -/
def releaseBar (c : Core) : Core :=
  if c.threads.any (fun x => x.2.st == .atBar) && c.threads.all (fun x => x.2.st == .atBar || !live x.2) then
    let c1 : Core := { c with
      threads := c.threads.map (fun x => (x.1, if x.2.st == .atBar then { x.2 with st := .ready } else x.2)) }
    match c1.item with
    | some i =>
      match i.stage with
      | some g =>
        if c1.stageRan then c1
        else
        { c1 with
          store := g.1, stageRan := true, mainSaved := some (c1.threads, c1.store),
          threads := threadsAt g.2.1 g.2.2 i.index }
      | none => c1
    | none => c1
  else c

/-- When the stage program's threads have all ended the main program goes on; their faults stay (R335). -/
def resumeMain (c : Core) : Core :=
  match c.mainSaved with
  | some m =>
    if c.threads.all (fun x => !live x.2) then
      { c with
        mainSaved := none, threads := m.1, store := m.2,
        stageFaults := c.threads.filterMap (fun x => match x.2.st with
          | .faulted v => some v
          | _ => none) }
    else c
  | none => c

/-- Threads that wait for a unit try again. -/
def wakeUnits (c : Core) : Core :=
  { c with threads := c.threads.map (fun x => (x.1, if x.2.st == .waitUnit then { x.2 with st := .ready } else x.2)) }

/-! The issue of one instruction -/

/-- How an instruction leaves its thread: it goes on at the next instruction or at a branch target, it ends, it faults, it
waits at a barrier, for a stream access, or for a unit another thread holds. -/
inductive Fate where
  | next
  | branch (target : Nat)
  | ended
  | fault (st : BitVec 5)
  | bar
  | stream
  | unit
deriving DecidableEq, Repr

/-- The instructions of the code in a core's program store. -/
def codeWords (c : Core) : Nat := c.store.length / 8

/-- The budget of an item, in instructions (R290). -/
def budgetOf (c : Core) : Nat := c.budget * 65536

/-- May a core issue an instruction of its current thread now? -/
def canIssue (c : Core) : Bool :=
  c.st == .running && c.item.isSome && (threadOf c c.cur).st == .ready && decide (c.issued < budgetOf c) && decide (c.since < 1024)

/-- The core after its current thread t has issued an instruction that left it at a fate (R285 to R288). -/
def settle (c : Core) (t : Thread) (fate : Fate) : Core :=
  let counted := fun (x : Core) => { x with issued := x.issued + 1, since := x.since + 1 }
  let stop := fun (st : ThreadSt) => switchThread (resumeMain (releaseBar (counted (setThread c c.cur { t with st := st }))))
  match fate with
  | .next => counted (setThread c c.cur { t with pc := t.pc + 1 })
  | .branch n => if n < codeWords c then counted (setThread c c.cur { t with pc := n }) else stop (.faulted Sts.format)
  | .ended => stop .ended
  | .fault st => stop (.faulted st)
  | .bar =>
    let x := releaseBar (counted (setThread c c.cur { t with pc := t.pc + 1, st := .atBar }))
    if (threadOf x x.cur).st == .ready then x else switchThread x
  | .stream => switchThread (counted (setThread c c.cur { t with pc := t.pc + 1, st := .stream }))
  | .unit => switchThread (setThread c c.cur { t with st := .waitUnit })

/-- What an instruction does: the state without its core, the core, the thread, its fate. -/
structure Did where
  s : State
  c : Core
  t : Thread
  fate : Fate

/-- Issue an instruction of the current thread of core p: its encoding is checked (R301), then it takes effect. A core that
cannot issue leaves the state as it was. -/
def issue (d : Die) (p : Nat) (ok : Bool) (g : State → Core → Thread → Did) (s : State) : State :=
  let c := coreOf s d p
  if canIssue c then
    let t := threadOf c c.cur
    if ok then let r := g s c t; putCore d p (settle r.c r.t r.fate) r.s
    else putCore d p (settle c t (.fault Sts.format)) s
  else s

/-- An instruction that changes its thread only. -/
def pure1 (g : Thread → Thread × Fate) (s : State) (c : Core) (t : Thread) : Did :=
  let r := g t
  ⟨s, c, r.1, r.2⟩

/-- Are the fields an operation does not use zero (R301)? One truth for each of D, A, B, C, FMT, RND, SAT, IMM. -/
def fieldsOk (w : PodF) (d a b c fmt rnd sat imm : Bool) : Bool :=
  !w.bit24 && (d || w.d == 0) && (a || w.a == 0) && (b || w.b == 0) && (c || w.c == 0) && (fmt || w.fmt == 0) &&
    (rnd || w.rnd == 0) && (sat || !w.sat) && (imm || w.imm == 0)

/-- The sign extension of IMM. -/
def sextImm (w : PodF) : Word := w.imm.signExtend 64

/-- The scratch address s[A] + sext(IMM). -/
def immAddr (w : PodF) (t : Thread) : Nat := (sreg t w.a.toNat + sextImm w).toNat

/-! Work items -/

/-- The main program of a service. -/
def mainProg (s : State) (service : Nat) : Nat := (recOf s RT.service service).elim 0 (fun b => le b 2 1)

/-- What the items of a descriptor share, from the records as they stand at its acceptance: the code, threads and entry of its service's main
program and the slots of its partition (R104, R314). -/
def planOf (s : State) (service ctx : Nat) : Item :=
  let b := (recOf s RT.program (mainProg s service)).getD []
  let part := (recOf s RT.service service).elim 0 (fun x => le x 1 1)
  { kind := .gather 0 0, service := service, ctx := ctx, index := 0, code := b.drop 32, threads := le b 3 1, entry := le b 8 4,
    slots := (recOf s RT.partition part).elim [] partSlots }

/-- An item of a plan. -/
def itemOf (plan : Item) (kind : ItemKind) (index : Nat) : Item := { plan with kind := kind, index := index }

/-- Queue a work item on a die; the bytes of its parameter block are drawn (R284). -/
def queueItem (d : Die) (i : Item) (s : State) : State :=
  match drawFree s with
  | (n, s1) => modPod s1 d (fun v => { v with queue := v.queue ++ [{ i with low := n }] })

/-- Has a service's partition a slot that is not vacant (R282)? -/
def serviceServes (s : State) (d : Die) (service : Nat) : Bool :=
  match recOf s RT.service service with
  | some b =>
    match recOf s RT.partition (le b 1 1) with
    | some p => (partSlots p).any (fun k => !vacantSlot s d k)
    | none => false
  | none => false

/-- May a slot run items of a context: it lies in no exclusive partition of another's (R307, R313)? -/
def slotRuns (s : State) (d : Die) (slot ctx : Nat) : Bool :=
  (recsOf s RT.partition).all (fun r =>
    !(dieOf (le r.body 0 1) == d && bitAt (le r.body 1 1) 0 && (partSlots r.body).contains slot) || le r.body 2 2 == ctx)

/-- The class a work item's descriptor travels in, whose weights divide the cores. -/
def itemClass (i : Item) : Nat :=
  match i.kind with
  | .attend _ _ => 2
  | _ => 1

/-- The index in a queue of the item a core of a slot takes next, of those that a test accepts: of its preferred groups first (R363). -/
def pickItem (q : List Item) (slot : Nat) (p : Item → Bool) : Option Nat :=
  match leastFrom (fun i => (q[i]?).elim false (fun x => p x && x.prefer == slot + 1)) 0 q.length with
  | some i => some i
  | none => leastFrom (fun i => (q[i]?).elim false p) 0 q.length

/-- Must an item wait for another of its descriptor to start, one whose page lay in T2 (R363)? -/
def afterT2 (q : List Item) (x : Item) : Bool :=
  match x.kind with
  | .attend op _ => !x.ofT2 && q.any (fun y => y.ofT2 && (match y.kind with
    | .attend o _ => o == op
    | _ => false))
  | _ => false

/-- The index of the item a core of a slot takes next, and whether a round of weights begins with it: a context with items has as many as its WEIGHT
in a round (R307; DESIGN CHOICE, log 188: the rounds). -/
def nextItem (s : State) (d : Die) (slot : Nat) : Option (Nat × Bool) :=
  let v := side s.pod d
  let may := fun (x : Item) => x.slots.contains slot && slotRuns s d slot x.ctx && !afterT2 v.queue x
  let left := fun (x : Item) => may x && decide (getD v.turns x.ctx 0 < qosWeight s x.ctx (itemClass x))
  match pickItem v.queue slot left with
  | some i => some (i, false)
  | none => (pickItem v.queue slot may).map (fun i => (i, true))

/-- A core that starts an item: scrubbed where the context changes; its parameter block, and its scratch where it is not
scrubbed, hold bytes the manual leaves open (R284, R308). Its program store holds the item's program (R283, R314). -/
def startItem (d : Die) (p : Nat) (i : Item) (s : State) : State :=
  let c := coreOf s d p
  let scrub := c.lastCtx != some i.ctx
  let s1 := { s with freeCtr := s.freeCtr + 1 }
  putCore d p { c with
    st := .running, item := some i, cur := 0, since := 0, issued := 0, budget := (side s.pod d).budget,
    threads := threadsAt i.threads i.entry i.index, scratch := [], store := i.code,
    fill := if scrub then none else some s.freeCtr,
    codedIn := [], queue := [], queueOwner := none, matrixHeld := none, lastCtx := some i.ctx, lastShown := i.ctx, beats := 0, vecs := 0,
    info := false, mainSaved := none, stageRan := false, stageFaults := [] } s1

/-- The status of an item whose threads have all ended or faulted (R289). -/
def itemStatus (c : Core) : BitVec 5 :=
  let top := topStatus (c.stageFaults ++ c.threads.filterMap (fun x => match x.2.st with
    | .faulted v => some v
    | _ => none))
  if top = Sts.ok ∧ c.info then Sts.empty else top

/-- Have all the threads of a core's item ended or faulted, and all its stream accesses been answered (R309)? -/
def itemOver (c : Core) : Bool := c.item.isSome && c.mainSaved.isNone && c.threads.all (fun x => !live x.2 && x.2.streamReq.isNone)

/-- A core's units of work in 65,536ths: the tap event WORK carries its beats and vector instructions (R310, R424). -/
def workValue (beats vecs : Nat) : BitVec 64 := BitVec.ofNat 64 (beats % 2 ^ 32 + (vecs % 2 ^ 32) * 2 ^ 32)

/-! Retirement (R281, R282, R316) -/

/-- The unused spares of a die. -/
def sparesOf (s : State) (d : Die) : List Nat := (rangeFrom 0 528).filter (fun p => (coreOf s d p).st == .spare)

/-- Retire a core: the lowest-numbered unused spare takes its slot, or the slot becomes vacant; its item runs again. -/
def retireCore (d : Die) (p : Nat) (s : State) : State :=
  let c := coreOf s d p
  if c.st = .retired then s
  else
    let s1 := putCore d p { c with st := .retired, slot := none, item := none, threads := [], scratch := [], queue := [], retireAfter := false } s
    let s2 := match c.slot with
      | none => s1
      | some k =>
        match (sparesOf s1 d).head? with
        | some q => putCore d q { st := .idle, slot := some k, store := c.store } s1
        | none => setStatus (.pod d) 7 (modPod s1 d (fun v => { v with vacant := insertNat k v.vacant }))
    let s3 := match c.item with
      | some i =>
        setStatus (.pod d) 0 (modPod s2 d (fun v => { v with queue := i :: v.queue }))
      | none => s2
    setStatus (.pod d) 2 s3

/-- The end of a core's item: the core is idle, or retires where POD.RETIRE asked for it. -/
def freeCore (d : Die) (p : Nat) (s : State) : State :=
  let c := coreOf s d p
  let s1 := putCore d p { c with st := .idle, item := none, threads := [], codedIn := [], matrixHeld := none } s
  if c.retireAfter then retireCore d p s1 else s1

/-! Contexts (R309) -/

/-- A thread that stops with ABORTED: an access it has issued is still to be answered, one that was to be sent again is not sent (R309). -/
def stopThread (t : Thread) : Thread :=
  if live t then { t with st := .faulted Sts.aborted, streamReq := if t.retryWait then none else t.streamReq, retryWait := false } else t

/-- End what a context runs and has queued on a die's cores: its items stop, its cores scrub. -/
def stopCtxItems (d : Die) (ctx : Nat) (s : State) : State :=
  modPod s d (fun v => { v with
    queue := v.queue.filter (fun i => i.ctx != ctx),
    cores := v.cores.map (fun x =>
      match x.2.item with
      | some i =>
        if i.ctx = ctx then
          (x.1, { x.2 with lastCtx := none, mainSaved := none, threads := x.2.threads.map (fun t => (t.1, stopThread t.2)) })
        else x
      | none => x) })

/-- The fence epoch of a die's agents (R302). -/
def agentFence (s : State) (d : Die) : BitVec 16 := getD s.flt.fence (agentEp s d) 0

end Machine
end Sys2Proof
end

