-- ==== Sys2Proof/Machine/Services.lean ====
section
/-! DEFINITION. What the services share: reads and stores under a descriptor's context, frames their agents send, compute operations
and their ends (R27, R302, R328, R332). -/

namespace Sys2Proof
namespace Machine

/-- The outcome of a service command. -/
abbrev svcOk (s : State) : Host.Outcome State Fault Refusal := .next s

/-- A request of an opcode that the home takes from its input (R27). -/
def svcReq (opc : Byte) (d : Die) (f : Frame) (go : State → State) (s : State) : Host.Outcome State Fault Refusal :=
  svcOk (if f.opcode = opc then atHome d f [] go s else s)

/-! Reads -/

/-- A range of bytes cut at 4,096-byte boundaries: address and length (R170). -/
def piecesFrom (fuel a n : Nat) : List (Nat × Nat) :=
  match fuel with
  | 0 => []
  | k + 1 =>
    if n = 0 then []
    else let m := min n (4096 - a % 4096); (a, m) :: piecesFrom k (a + m) (n - m)

/-- The pieces of a range. -/
def pieces (a n : Nat) : List (Nat × Nat) := piecesFrom (n / 4096 + 2) a n

/-- A request of a die's agent under a context, before it has its SEQ and TAG. -/
def svcFrame (s : State) (d : Die) (opc : Byte) (tc ctx addr opspec : Nat) (payload : Bytes) : Frame :=
  { opcode := opc, tc := BitVec.ofNat 3 tc, srcEp := BitVec.ofNat 20 (agentEp s d), ctx := BitVec.ofNat 12 ctx, fence := agentFence s d, addr := BitVec.ofNat 64 addr,
    length := BitVec.ofNat 16 payload.length, opspec := BitVec.ofNat 16 opspec, payload := payload }

/-- One read of a service within a 4,096-byte block: its status, its bytes. The bytes of another switch are not in this model:
they are a free value (log 45), those homed on the other die are lost to this one once the stalk has failed (R30; log 189). -/
def svcPiece (d : Die) (ctx a n : Nat) (s : State) : BitVec 5 × Bytes × State :=
  if !answersFor s (addrSwitch a) then (Sts.ok, fit (Config.freeBytes s.freeCtr n) n, { s with freeCtr := s.freeCtr + 1 })
  else if inWindow (addrOff a) then (Sts.denied, [], s)
  else
    let h := homeDie s (transOff s a)
    let f := svcFrame s d Opc.ld 3 ctx a n []
    match (if h ≠ d && s.mod.stalkFailed then some Sts.homelost else memRefusal s h f) with
    | some st => (st, [], s)
    | none => if poisonedIn s (localAddr s a) n then (Sts.poison, [], readPoison h s) else (Sts.ok, readMem s (localAddr s a) n, s)

/-- A read of a service: the highest-ranked status of its pieces, and its bytes. -/
def svcRead (d : Die) (ctx a n : Nat) (s : State) : BitVec 5 × Bytes × State :=
  (pieces a n).foldl (fun acc p =>
    match svcPiece d ctx p.1 p.2 acc.2.2 with
    | (st, b, t) => (topStatus [acc.1, st], acc.2.1 ++ b, t)) (Sts.ok, [], s)

/-! Frames of a die's services -/

/-- A frame of a die's services takes its SEQ and TAG (R125, R126) and is remembered with what it is for. -/
def svcTake (d : Die) (what : SvcWhat) (f : Frame) (s : State) : Frame × State :=
  match nextSeq d f.ctx.toNat s with
  | (seq, s1) =>
    let tag := freeTag s1 d
    let g := { f with seq := seq, tag := BitVec.ofNat 16 tag }
    (g, modCol (useTag d tag s1) d (fun c => { c with sends := c.sends ++ [⟨tag, g, what⟩] }))

/-- Send a frame of a die's services. -/
def svcSend (d : Die) (what : SvcWhat) (f : Frame) (s : State) : State :=
  match svcTake d what f s with
  | (g, s1) => sendFrom d g s1

/-- Send the copies of one frame of a die's services, each with what it is for, as multicasts (R154). -/
def svcSendAll (d : Die) (l : List (SvcWhat × Frame)) (s : State) : State :=
  let r := l.foldl (fun (acc : List Frame × State) x => match svcTake d x.1 x.2 acc.2 with
    | (g, t) => (acc.1 ++ [g], t)) (([] : List Frame), s)
  sendCopies d (r.1.filter (fun f => !toLost s f)) ((r.1.filter (toLost s)).foldl (fun t f => sendFrom d f t) r.2)

/-- The frame of a die's services that a response answers. -/
def svcSent (s : State) (d : Die) (f : Frame) : Option SvcSend :=
  (side s.col d).sends.find? (fun x => x.tag == f.tag.toNat && x.frame.ctx == f.ctx && f.opcode == rspOpc x.frame.opcode)

/-- The state without a remembered frame. -/
def svcDrop (d : Die) (x : SvcSend) (s : State) : State :=
  modCol s d (fun c => { c with sends := c.sends.filter (fun y => y != x) })

/-! Compute operations (R27) -/

/-- The compute operation of an ID. -/
def opOf (s : State) (d : Die) (id : Nat) : Option Op := (side s.col d).ops.find? (fun o => o.id == id)

/-- The state with a compute operation changed. -/
def modOp (d : Die) (id : Nat) (g : Op → Op) (s : State) : State :=
  modCol s d (fun c => { c with ops := c.ops.map (fun o => if o.id = id then g o else o) })

/-- Is a compute-operation entry free? -/
def opRoom (s : State) (d : Die) : Bool := decide ((side s.col d).ops.length < 8192)

/-- Accept a descriptor: it holds an entry until its response. The bytes of the frame are counted (R425). -/
def newOp (d : Die) (kind : OpKind) (f : Frame) (left : List Nat) (s : State) : Nat × State :=
  let id := (side s.col d).nextOp
  let o : Op := { id := id, kind := kind, frame := f, ctx := f.ctx.toNat, detClass := s.cfg.detClass, left := left, order := (side s.home d).order,
                  ahead := (side s.col d).ahead }
  (id, countReq d f (modCol s d (fun c => { c with ops := c.ops ++ [o], nextOp := id + 1 })))

/-- Answer a compute operation and free its entry. A response that is not OK has no payload. -/
def endOp (d : Die) (id : Nat) (st : BitVec 5) (payload : Bytes) (s : State) : State :=
  match opOf s d id with
  | none => s
  | some o =>
    answer d o.frame st (if st = Sts.ok ∨ st = Sts.empty then payload else [])
      (modCol s d (fun c => { c with ops := c.ops.filter (fun x => x.id != id) }))

/-- A compute operation whose items have all ended and whose stores have all been answered is answered. -/
def completeOp (d : Die) (id : Nat) (s : State) : State :=
  match opOf s d id with
  | none => s
  | some o =>
    if o.left.isEmpty && o.stores == 0 && o.waits.isNone then
      let top := topStatus (o.faults ++ o.storeFaults)
      let st := if top = Sts.ok then o.info else top
      endOp d id st o.result (if st = Sts.empty then setStatus (.att d) 0 s else s)
    else s

/-- Store bytes to the addresses of some compute operations: for each piece one ST, of which there is a copy for each address, from the die's agent under
the operation's context (R302, R328, R332). Addresses that cut the bytes at other places have their own. -/
def opStores (d : Die) (l : List (Nat × Nat)) (b : Bytes) (s : State) : State :=
  ((l.map (fun x => x.2 % 4096)).eraseDups).foldl (fun t cut =>
    let mine := l.filter (fun x => x.2 % 4096 == cut)
    (pieces cut b.length).foldl (fun t p =>
      let fs := mine.filterMap (fun x => (opOf t d x.1).map (fun o =>
        (SvcWhat.store x.1, svcFrame t d Opc.st 3 o.ctx (x.2 + (p.1 - cut)) 0 (slice b (p.1 - cut) p.2))))
      svcSendAll d fs (mine.foldl (fun u x => modOp d x.1 (fun y => { y with stores := y.stores + 1 }) u) t)) t) s

/-- Store bytes for a compute operation. -/
def opStore (d : Die) (id a : Nat) (b : Bytes) (s : State) : State := opStores d [(id, a)] b s

/-- Does a service of a kind lie on a die? -/
def serviceHere (s : State) (d : Die) (v kind : Nat) : Bool := serviceKind s v == kind && serviceDie s v == some d

/-- Checks 3 to 6 of R172 on a table range for right R (R331). -/
def tableBad (s : State) (d : Die) (f : Frame) (n : Nat) : Option (BitVec 5) :=
  let off := transOff s f.addr.toNat
  if !admitted s d f then some (admitSts s d f)
  else
    match extAt s off with
    | none => some Sts.nohome
    | some e =>
      let ph := extPhase s d e.idx
      if ph = .free then some Sts.nohome
      else if e.base + e.size < off + n then some Sts.length
      else if ph ≠ .active then some Sts.revoked
      else if !e.classT && (getD s.exts e.idx {}).homeLost then some Sts.homelost
      else if !bitAt (rightsOn s e f.ctx.toNat) 0 then some Sts.denied else none

end Machine
end Sys2Proof
end

