-- ==== Sys2Proof/Machine/Collect.lean ====
section
/-! DEFINITION. COL_REDUCE, COL_PART, COL_GATHER, COL_FILTER: acceptance, reduce instances at their nodes, the order of combination,
results, selections (R317 to R335). -/

namespace Sys2Proof
namespace Machine

/-! Reduce instances -/

/-- The instance of a node. -/
def instOf (s : State) (d : Die) (group node inst : Nat) : Option Instance :=
  (side s.col d).instances.find? (fun i => i.group == group && i.node == node && i.inst == inst)

/-- The state with an instance changed. -/
def modInst (d : Die) (group node inst : Nat) (g : Instance → Instance) (s : State) : State :=
  modCol s d (fun c => { c with
    instances := c.instances.map (fun i => if i.group = group ∧ i.node = node ∧ i.inst = inst then g i else i) })

/-- The key of a node in the lists of completed instances. -/
def nodeKey (group node : Nat) : Nat := group * 2 ^ 18 + node

/-- The last 64 instances completed at a node. -/
def completedAt (s : State) (d : Die) (group node : Nat) : List Nat := getD (side s.col d).completed (nodeKey group node) []

/-- The positions of a node that a rank or a child takes. -/
def positionsOf (b : Bytes) (node : Nat) : List Nat :=
  (rangeFrom 0 (grpView b).fanin).filter (fun p => (positionEp b node p).isSome)

/-- The chunks of an instance (R321). -/
def chunkCount (i : Instance) : Nat := ceilDiv i.count 1024

/-- The elements of a chunk. -/
def chunkElems (i : Instance) (c : Nat) : Nat := min 1024 (i.count - 1024 * c)

/-- Does a format hold integers? -/
def intFmt (f : Nat) : Bool := f == 0xA || f == 0xB

/-- The format a position's contributions have at a node: IN_FMT from a rank, FP32 or INT32 from a child (R324). -/
def partFmt (i : Instance) : Nat :=
  if (nodePos (grpLevels (grpView i.body)) i.node).1 = 0 then i.inFmt else if intFmt i.inFmt then 0xB else 0

/-- The lanes of packed elements, widened (R293). -/
def lanesOf (fmt n : Nat) (b : Bytes) : List (BitVec 32) :=
  (rangeFrom 0 n).map (fun k => (widen fmt 127 (elemAt b (elemBits fmt) k)).getD nan32)

/-- An instance is over: it is one of the last 64 completed at its node. -/
def dropInstance (d : Die) (i : Instance) (s : State) : State :=
  modPod (modCol s d (fun c => { c with
    instances := c.instances.filter (fun x => !(x.group == i.group && x.node == i.node && x.inst == i.inst)),
    completed := changeD c.completed (nodeKey i.group i.node) [] (fun l => (i.inst :: l).take 64),
    sends := c.sends.filter (fun x => match x.what with
      | .store _ => true
      | .export_ _ => true
      | .part g n k _ => !(g == i.group && n == i.node && k == i.inst)
      | .desc g n k => !(g == i.group && n == i.node && k == i.inst)) })) d (fun v => { v with
    queue := v.queue.filter (fun q => match q.kind with
      | .chunk g n k _ => !(g == i.group && n == i.node && k == i.inst)
      | _ => true) })

/-- Send a COL_PART_RSP; a rank whose contribution came coded gets a coded result (R373). -/
def partRsp (d : Die) (f : Frame) (st : BitVec 5) (b : Bytes) (s : State) : State :=
  if st = Sts.ok ∧ f.cmp then
    match codedPayload s f.ctx.toNat b with
    | (p, cmp, slot) =>
      sendFrom d { mkRsp s d f Opc.colPartRsp st p 0 with cmp := cmp, slot := slot } (tapBytes d f.ctx.toNat 5 1 p.length s)
  else answer d f st (if st = Sts.ok then b else []) s

/-- Is an instance at its end: every chunk answered, or failed with every position answered, and no operation of it left? -/
def instanceOver (s : State) (d : Die) (i : Instance) : Bool :=
  (decide (chunkCount i ≤ i.done) || i.failed) && decide ((positionsOf i.body i.node).length ≤ i.descs.length) &&
    i.descs.all (fun p => (opOf s d p.op).isNone)

/-- Close an instance that is at its end. -/
def closeInstance (d : Die) (group node inst : Nat) (s : State) : State :=
  match instOf s d group node inst with
  | none => s
  | some i => if instanceOver s d i then dropInstance d i s else s

/-- Answer the held contributions of an instance that a test accepts. -/
def answerParts (d : Die) (i : Instance) (p : Part → Bool) (st : BitVec 5) (s : State) : State :=
  let s1 := modInst d i.group i.node i.inst (fun x => { x with parts := x.parts.filter (fun q => !p q) }) s
  (i.parts.filter p).foldl (fun t q => match q.frame with
    | some f => partRsp d f st [] t
    | none => t) s1

/-- Every descriptor and contribution of an instance ends with a status. -/
def endInstance (d : Die) (i : Instance) (st : BitVec 5) (s : State) : State :=
  i.descs.foldl (fun t p => endOp d p.op st [] t) (answerParts d i (fun _ => true) st s)

/-- Abort an instance: it counts as completed (R330). -/
def abortInstance (d : Die) (i : Instance) (st : BitVec 5) (s : State) : State := dropInstance d i (endInstance d i st s)

/-- Abort the instances of a die that a test accepts. -/
def abortInstances (d : Die) (p : Instance → Bool) (st : BitVec 5) (s : State) : State :=
  ((side s.col d).instances.filter p).foldl (fun t i => abortInstance d i st t) s

/-- An instance fails on a mismatch (R323). -/
def failInstance (d : Die) (i : Instance) (s : State) : State :=
  let s1 := modInst d i.group i.node i.inst (fun x => { x with failed := true }) s
  closeInstance d i.group i.node i.inst (setStatus (.col d) 1 (endInstance d i Sts.format s1))

/-! COL_REDUCE (R321, R322) -/

/-- Check 1 of R322. -/
def reduceFormBad (f : Frame) : Option (BitVec 5) :=
  let b := f.payload
  let mode := le b 19 1
  let pos := le b 20 4
  let inF := le b 17 1
  let outF := le b 18 1
  let out := fld mode 2 1
  let pull := bitAt mode 0
  let child := bitAt pos 31
  if b.length ≠ 64 then some Sts.length
  else if !zeroAt b 40 24 ∨ fld mode 7 6 ≠ 0 ∨ fld pos 30 16 ≠ 0 ∨ fld f.addr.toNat 41 0 ≠ 0 then some Sts.format
  else if 2 < le b 16 1 ∨ !((decide (inF ≤ 4) && decide (outF ≤ 4)) || (intFmt inF && outF == 0xB)) ∨ out = 0 then some Sts.format
  else if (pull && bitAt out 0) ∨ (!pull && !zeroAt b 24 8) ∨ (!bitAt out 1 && !zeroAt b 32 8) ∨ (child && (pull || out != 1)) then some Sts.format
  else if le b 8 8 = 0 ∨ 2 ^ 36 < le b 8 8 then some Sts.length
  else none

/-- Is a POSITION field one that has a target node in the tree? -/
def positionOk (g : GrpV) (posField : Nat) : Bool :=
  if bitAt posField 31 then decide (posField % 2 ^ 16 + 1 < g.nodes) else decide (posField % 2 ^ 16 < g.ranks)

/-- The step-epoch check of composition work: none where it passes. Another epoch is STALE; work that carries the epoch of a FAILED composition is
ABORTED (R84, R465). -/
def stepBad (s : State) (comp : Option Nat) (epoch : Nat) : Option (BitVec 5) :=
  match comp with
  | none => if epoch = 0 then none else some Sts.format
  | some c =>
    let x := getD s.flt.comps c {}
    if x.epoch ≠ epoch then some Sts.stale else if x.failed then some Sts.aborted else none

/-- The endpoint that must submit a descriptor: the rank's, or the agent of the child's die. -/
def reduceSrc (b : Bytes) (posField : Nat) : Nat :=
  if bitAt posField 31 then
    match nodeEnt b (posField % 2 ^ 16) with
    | (sw, d, _) => sw * 256 + 0xFE + dieNum d
  else rankEp b (posField % 2 ^ 16)

/-- The instance fields of a descriptor: step epoch, count, op, formats, RND, SAT. -/
def instFields (b : Bytes) : List Nat := [le b 4 4, le b 8 8, le b 16 1, le b 17 1, le b 18 1, fld (le b 19 1) 5 3]

/-- The instance fields of an instance. -/
def fieldsOf (i : Instance) : List Nat := [i.stepEpoch, i.count, i.op, i.inFmt, i.outFmt, i.rnd + 4 * b2n i.sat]

/-- A new instance, opened by a descriptor, with what its items share as the records stand now (R104). -/
def newInstance (s : State) (body : Bytes) (group node : Nat) (b : Bytes) : Instance :=
  { plan := some (planOf s (nodeEnt body node).2.2 (grpView body).ctx), body := body, group := group, node := node, inst := le b 0 4, stepEpoch := le b 4 4, count := le b 8 8, op := le b 16 1,
    inFmt := le b 17 1, outFmt := le b 18 1, rnd := fld (le b 19 1) 4 3, sat := bitAt (le b 19 1) 5, descs := [] }

/-- The handle of a node (R320). -/
def nodeHandle (body : Bytes) (group node low : Nat) : Nat := (nodeEnt body node).1 * 2 ^ 52 + group * 2 ^ 42 + low

/-- The parent of a node and the node's position there; none for the root. -/
def parentOf (body : Bytes) (node : Nat) : Option (Nat × Nat) :=
  let g := grpView body
  if node + 1 < g.nodes then some (targetNode g (2 ^ 31 + node)) else none

/-- A child node's descriptor goes to its parent when its instance opens (R321). -/
def sendChildDesc (d : Die) (i : Instance) (s : State) : State :=
  match parentOf i.body i.node with
  | none => s
  | some (p, _) =>
    let mode := 2 + 8 * i.rnd + 32 * b2n i.sat
    let b := toLE 4 i.inst ++ toLE 4 i.stepEpoch ++ toLE 8 i.count ++ toLE 1 i.op ++ toLE 1 i.inFmt ++ toLE 1 i.outFmt ++ toLE 1 mode ++
      toLE 4 (2 ^ 31 + i.node) ++ zeros 40
    svcSend d (.desc i.group i.node i.inst) (svcFrame s d Opc.colReduce 1 (grpView i.body).ctx (nodeHandle i.body i.group p 0) 0 b) s

/-- Checks 2 to 6 of R322: the refusal, or the group's record and the node. -/
def reduceChecks (s : State) (d : Die) (f : Frame) : (BitVec 5) ⊕ (Bytes × Nat × Nat) :=
  let b := f.payload
  let group := fld f.addr.toNat 51 42
  let pos := le b 20 4
  if !admitted s d f then .inl (admitSts s d f)
  else
    match recOf s RT.rankGroup group with
    | none => .inl Sts.nohome
    | some body =>
      let g := grpView body
      let t := targetNode g pos
      if !positionOk g pos || (nodeEnt body t.1).1 != s.cfg.switchId || (nodeEnt body t.1).2.1 != d then .inl Sts.format
      else if f.ctx.toNat ≠ g.ctx ∨ f.srcEp.toNat ≠ reduceSrc body pos then .inl Sts.denied
      else
        match stepBad s g.comp (le b 4 4) with
        | some st => .inl st
        | none => if (completedAt s d group t.1).contains (le b 0 4) then .inl Sts.stale else .inr (body, t.1, t.2)

/-- A COL_REDUCE that the home takes: a descriptor opens or joins its instance (R322, R323). -/
def takeReduce (d : Die) (f : Frame) (s : State) : State :=
  let b := f.payload
  let group := fld f.addr.toNat 51 42
  let inst := le b 0 4
  match (if (reduceFormBad f).isNone ∧ outstanding s d (keyOf f) then some Sts.format else reduceFormBad f) with
  | some st => refuse d f st s
  | none =>
    match reduceChecks s d f with
    | .inl st => refuse d f st s
    | .inr (body, node, pos) =>
      let open_ := (side s.col d).instances.filter (fun i => i.group == group && i.node == node)
      let cur := instOf s d group node inst
      if !opRoom s d || (cur.isNone && decide ((grpView body).open_ ≤ open_.length)) || !serviceServes s d (nodeEnt body node).2.2 then
        refuse d f Sts.retry s
      else if cur.elim false (fun i => i.descs.any (fun p => p.pos == pos)) then refuse d f Sts.format s
      else
        let i := cur.getD (newInstance s body group node b)
        let mode := le b 19 1
        match newOp d (.reduce group node inst pos) f [0] s with
        | (op, s1) =>
          let p : PosDesc := { pos := pos, frame := f, pull := bitAt mode 0, ret := bitAt mode 1, store := bitAt mode 2,
                               inAddr := le b 24 8, outAddr := le b 32 8, child := bitAt (le b 20 4) 31, op := op }
          let s2 := if cur.isNone then sendChildDesc d i (modCol s1 d (fun c => { c with instances := c.instances ++ [i] })) else s1
          let s3 := modInst d group node inst (fun x => { x with descs := x.descs ++ [p] }) s2
          if i.failed then closeInstance d group node inst (endOp d op Sts.format [] s3)
          else if fieldsOf i ≠ instFields b then
            match instOf s3 d group node inst with
            | some j => failInstance d j s3
            | none => s3
          else s3

/-- COL_REDUCE. -/
def execColReduce (d : Die) (f : Frame) (s : State) : Host.Outcome State Fault Refusal := svcReq Opc.colReduce d f (takeReduce d f) s

/-! COL_PART (R324) -/

/-- Does a contribution carry a child's failure in its STATUS field (DESIGN CHOICE, log 46)? -/
def childFail (i : Instance) (f : Frame) : Bool := (nodePos (grpLevels (grpView i.body)) i.node).1 != 0 && f.status != Sts.ok

/-- Hold a contribution: decoded where it came coded. -/
def holdPart (d : Die) (i : Instance) (pos chunk : Nat) (f : Frame) (s : State) : State :=
  let n := chunkElems i chunk
  let fmt := partFmt i
  let put_ := fun (st : BitVec 5) (l : List (BitVec 32)) (t : State) =>
    modInst d i.group i.node i.inst (fun x => { x with parts := x.parts ++ [⟨pos, chunk, some f, l, st⟩] }) t
  if childFail i f then put_ f.status [] s
  else if f.cmp then
    match decodeAt d (some (n * elemBits fmt / 8)) (some f.slot.toNat) f.payload s with
    | (some raw, s1) => put_ Sts.ok (lanesOf fmt n raw) s1
    | (none, s1) => put_ Sts.codec [] s1
  else put_ Sts.ok (lanesOf fmt n f.payload) s

/-- The held result of a chunk. -/
def resultOf (i : Instance) (chunk : Nat) : Option ChunkRes := i.results.find? (fun r => r.chunk == chunk)

/-- Is a contribution with a frame's key held at a node of a die (R126)? -/
def heldPart (s : State) (d : Die) (f : Frame) : Bool :=
  (side s.col d).instances.any (fun i => i.parts.any (fun q => q.frame.elim false (fun x => keyOf x == keyOf f)))

/-- Rows 5 to 11 of R324. -/
def partAt (d : Die) (i : Instance) (p : PosDesc) (f : Frame) (s : State) : State :=
  let chunk := fld f.addr.toNat 25 0
  let n := chunkElems i chunk
  if p.pull || i.failed then refuse d f Sts.format s
  else if chunkCount i ≤ chunk ∨ (!f.cmp ∧ !childFail i f ∧ f.payload.length ≠ n * elemBits (partFmt i) / 8) then refuse d f Sts.length s
  else if i.parts.any (fun q => q.pos == p.pos && q.chunk == chunk) || heldPart s d f || outstanding s d (keyOf f) then
    refuse d f Sts.format s
  else if i.done + (grpView i.body).window ≤ chunk then setStatus (.col d) 6 (refuse d f Sts.retry s)
  else
    match resultOf i chunk with
    | some r => partRsp d f r.status (if p.ret then r.bytes else []) s
    | none =>
      if chunk < i.done then
        closeInstance d i.group i.node i.inst (endOp d p.op Sts.aborted [] (setStatus (.col d) 0 (refuse d f Sts.aborted s)))
      else holdPart d i p.pos chunk f (countReq d f s)

/-- A COL_PART that the home takes: rows 1 to 4 of R324, then the instance's. -/
def takePart (d : Die) (f : Frame) (s : State) : State :=
  let a := f.addr.toNat
  let group := fld a 51 42
  let tag := fld a 41 26
  let pos := f.opspec.toNat
  match recOf s RT.rankGroup group with
  | none => refuse d f Sts.nohome s
  | some body =>
    match partNode s body f.srcEp.toNat pos with
    | none => refuse d f Sts.format s
    | some (node, _, _) =>
      let cur := (side s.col d).instances.find? (fun i => i.group == group && i.node == node && i.inst % 2 ^ 16 == tag)
      if positionEp body node pos ≠ some f.srcEp.toNat then refuse d f Sts.denied s
      else if cur.isNone ∧ (completedAt s d group node).any (fun k => k % 2 ^ 16 == tag) then refuse d f Sts.stale s
      else
        match cur with
        | none => refuse d f Sts.retry s
        | some i =>
          match i.descs.find? (fun p => p.pos == pos) with
          | none => refuse d f Sts.retry s
          | some p => partAt d i p f s

/-- COL_PART. -/
def execColPart (d : Die) (f : Frame) (s : State) : Host.Outcome State Fault Refusal := svcReq Opc.colPart d f (takePart d f) s

/-! Combining (R326, R327) -/

/-- Does an instance hold a chunk from every position? -/
def chunkReady (i : Instance) (chunk : Nat) : Bool :=
  (positionsOf i.body i.node).all (fun k =>
    (i.descs.find? (fun p => p.pos == k)).elim false (fun p => p.pull || i.parts.any (fun q => q.pos == k && q.chunk == chunk)))

/-- CHUNK_COMBINE: a chunk is held from every position, so its work item is queued, under the records as they stood when its instance opened
(R104, R326). -/
def execChunkCombine (d : Die) (group node inst chunk : Nat) (s : State) : Host.Outcome State Fault Refusal :=
  match instOf s d group node inst with
  | none => svcOk s
  | some i =>
    if i.failed ∨ chunkCount i ≤ chunk ∨ chunk < i.done ∨ i.done + (grpView i.body).window ≤ chunk ∨ i.running.contains chunk ∨
        i.upSent.contains chunk ∨ (resultOf i chunk).isSome ∨ !chunkReady i chunk then svcOk s
    else
      let plan := i.plan.getD (planOf s (nodeEnt i.body node).2.2 (grpView i.body).ctx)
      svcOk (queueItem d (itemOf plan (.chunk group node inst chunk) chunk) (modInst d group node inst (fun x => { x with running := x.running ++ [chunk] }) s))

/-- One operation of a reduction: FP32 with ties to even, or INT32 modulo 2^32. -/
def reduceOp (op : Nat) (int : Bool) (a b : BitVec 32) : BitVec 32 :=
  if int then
    if op = 0 then a + b else if op = 1 then if a.slt b then b else a else if b.slt a then b else a
  else if op = 0 then (fAdd 0 a b).1 else if op = 1 then fMax a b else fMin a b

/-- The combination of lists of lanes, in order. -/
def combineLanes (op : Nat) (int : Bool) (l : List (List (BitVec 32))) : List (BitVec 32) :=
  match l with
  | [] => []
  | h :: t => t.foldl (fun acc x => List.zipWith (reduceOp op int) acc x) h

/-- Every NaN is 0x7FC0_0000. -/
def canonNan (int : Bool) (v : BitVec 32) : BitVec 32 := if !int && nanFV (ofFp32 v) then nan32 else v

/-- The bytes of lanes in OUT_FMT, narrowed once (R294). -/
def narrowLanes (i : Instance) (l : List (BitVec 32)) : Bytes :=
  packElems (elemBits i.outFmt) (l.map (fun v => (narrow i.outFmt i.rnd i.sat v).1))

/-- The contributions of a chunk in ascending order of position, pulled ones read now; and the state. -/
def contributions (d : Die) (i : Instance) (chunk : Nat) (s : State) : List (BitVec 5 × List (BitVec 32)) × State :=
  (positionsOf i.body i.node).foldl (fun acc k =>
    match i.descs.find? (fun p => p.pos == k) with
    | none => acc
    | some p =>
      if p.pull then
        let n := chunkElems i chunk
        let w := elemBits i.inFmt
        match svcRead d (grpView i.body).ctx (p.inAddr + 1024 * chunk * w / 8) (n * w / 8) acc.2 with
        | (st, b, t) => (acc.1 ++ [(st, if st = Sts.ok then lanesOf i.inFmt n b else [])], t)
      else
        match i.parts.find? (fun q => q.pos == k && q.chunk == chunk) with
        | some q => (acc.1 ++ [(q.status, q.lanes)], acc.2)
        | none => acc) ([], s)

/-! Results (R325, R328, R329) -/

/-- DONE after chunk results, and the results that are still held. -/
def advanceDone (fuel : Nat) (i : Instance) : Instance :=
  match fuel with
  | 0 => i
  | k + 1 =>
    if (resultOf i i.done).isSome then advanceDone k { i with done := i.done + 1 }
    else { i with results := i.results.filter (fun r => decide (i.done ≤ r.chunk + (grpView i.body).window)) }

/-- The descriptors of an instance whose chunks are all answered are answered when their stores are. -/
def endDescs (d : Die) (group node inst : Nat) (s : State) : State :=
  match instOf s d group node inst with
  | none => s
  | some i =>
    if i.done < chunkCount i then s
    else
      closeInstance d group node inst (i.descs.foldl (fun t p =>
        completeOp d p.op (modOp d p.op (fun o => { o with left := [], faults := i.fails }) t)) s)

/-- The result of a chunk, or its status, has come to a node: contributions are answered, stores are made, DONE advances. -/
def deliver (d : Die) (i : Instance) (chunk : Nat) (st : BitVec 5) (b : Bytes) (s : State) : State :=
  let held := i.parts.filter (fun q => q.chunk == chunk)
  let s1 := modInst d i.group i.node i.inst (fun x => { x with
    parts := x.parts.filter (fun q => q.chunk != chunk),
    running := x.running.filter (fun c => c != chunk),
    upSent := x.upSent.filter (fun c => c != chunk),
    results := x.results ++ [⟨chunk, st, b, held.map (·.pos)⟩],
    fails := if st = Sts.ok then x.fails else x.fails ++ [st] }) s
  let s2 := if st = Sts.ok then s1 else setStatus (.col d) 3 s1
  let s3 := held.foldl (fun t q => match q.frame with
    | some f =>
      let ret := (i.descs.find? (fun p => p.pos == q.pos)).elim false (·.ret)
      partRsp d f st (if ret then b else []) t
    | none => t) s2
  let s4 := if st = Sts.ok then
      opStores d ((i.descs.filter (·.store)).map (fun p => (p.op, p.outAddr + 1024 * chunk * elemBits i.outFmt / 8))) b s3
    else s3
  endDescs d i.group i.node i.inst (modInst d i.group i.node i.inst (fun x => advanceDone (x.results.length + 1) x) s4)

/-- The work item of a chunk has ended: the root has the result, another node sends its partial up (R326 to R329). -/
def chunkEnd (d : Die) (group node inst chunk : Nat) (st : BitVec 5) (s : State) : State :=
  match instOf s d group node inst with
  | none => s
  | some i =>
    if !i.running.contains chunk then s
    else
      let int := intFmt i.inFmt
      match contributions d i chunk s with
      | (cs, s1) =>
        let bad := topStatus ((if st = Sts.empty then Sts.ok else st) :: cs.map (·.1))
        let acc := (combineLanes i.op int (cs.map (·.2))).map (canonNan int)
        let s2 := modCol s1 d (fun c => { c with chunks := (c.chunks + 1) % 2 ^ 64 })
        match parentOf i.body node with
        | none => deliver d i chunk bad (if bad = Sts.ok then narrowLanes i acc else []) s2
        | some (p, pos) =>
          let s3 := modInst d group node inst (fun x => { x with
            running := x.running.filter (fun c => c != chunk), upSent := x.upSent ++ [chunk] }) s2
          svcSend d (.part group node inst chunk)
            { svcFrame s3 d Opc.colPart 1 (grpView i.body).ctx (nodeHandle i.body group p (inst % 2 ^ 16 * 2 ^ 26 + chunk)) pos
                (if bad = Sts.ok then packElems 32 (acc.map (·.toNat)) else []) with status := bad } s3

/-- COL_PART_RSP: a parent's chunk result, or the parent's answer to a child's descriptor; RETRY is sent again (R328). -/
def execColPartRsp (d : Die) (f : Frame) (s0 : State) : Host.Outcome State Fault Refusal :=
  let s := takeAgent d f s0
  let st := stsIn f.status
  match svcSent s d f with
  | none => svcOk s
  | some x =>
    match x.what with
    | .store _ => svcOk s0
    | .export_ _ => svcOk s0
    | .part g n k c =>
      if st = Sts.retry then svcOk (sendFrom d x.frame s)
      else
        let s1 := svcDrop d x s
        match instOf s1 d g n k with
        | none => svcOk s1
        | some i =>
          if f.cmp then
            match decodeAt d none (some f.slot.toNat) f.payload s1 with
            | (some raw, s2) => svcOk (deliver d i c st raw s2)
            | (none, s2) => svcOk (deliver d i c Sts.codec [] s2)
          else svcOk (deliver d i c st f.payload s1)
    | .desc g n k =>
      if st = Sts.retry then svcOk (sendFrom d x.frame s)
      else
        let s1 := svcDrop d x s
        match instOf s1 d g n k with
        | none => svcOk s1
        | some i =>
          if st = Sts.format then svcOk (failInstance d i s1)
          else if st = Sts.ok ∨ chunkCount i ≤ i.done then svcOk s1
          else svcOk (abortInstance d i st s1)

/-- SERVICE_STORE_RESPONSE: a result store is answered; the last one completes the descriptor (R328). -/
def execServiceStoreResponse (d : Die) (f : Frame) (s0 : State) : Host.Outcome State Fault Refusal :=
  let s := takeAgent d f s0
  let st := stsIn f.status
  let bad := st != Sts.ok
  match svcSent s d f with
  | none => svcOk s
  | some x =>
    match x.what with
    | .store id =>
      if st = Sts.retry then svcOk (sendFrom d x.frame s)
      else
        let s1 := modOp d id (fun o => { o with
          stores := o.stores - 1, storeFaults := if bad then o.storeFaults ++ [st] else o.storeFaults }) (svcDrop d x s)
        let s2 := if bad then setStatus (.col d) 5 s1 else s1
        let kind : Option OpKind := (opOf s2 d id).map (·.kind)
        let s3 := completeOp d id s2
        match kind with
        | some (.reduce g n k _) => svcOk (closeInstance d g n k s3)
        | _ => svcOk s3
    | .export_ job =>
      if st = Sts.retry then svcOk (sendFrom d x.frame s)
      else
        let off := x.frame.addr.toNat
        svcOk (modMtr (svcDrop d x s) (fun m => { m with
        exports := m.exports.map (fun y =>
          if y.job = job then { y with left := y.left - 1,
                                       failed := if bad then y.failed ++ [(off, x.frame.payload.length, st)] else y.failed } else y) }))
    | _ => svcOk s0

/-- INSTANCE_TIMEOUT: an idle instance is aborted (R330). -/
def execInstanceTimeout (d : Die) (group node inst : Nat) (s : State) : Host.Outcome State Fault Refusal :=
  match instOf s d group node inst with
  | some i => svcOk (setStatus (.col d) 2 (abortInstance d i Sts.aborted s))
  | none => svcOk s

/-! COL_GATHER (R331, R332) -/

/-- Check 1 of R331. -/
def gatherFormBad (f : Frame) : Option (BitVec 5) :=
  let b := f.payload
  let n := le b 19 1
  let rb := le b 16 2
  if b.length < 32 ∨ b.length ≠ 32 + 8 * n then some Sts.length
  else if !zeroAt b 20 4 then some Sts.format
  else if le b 8 4 = 0 ∨ 16777216 < le b 8 4 ∨ le b 12 4 = 0 ∨ 0xFFFFFFFE < le b 12 4 ∨ rb = 0 ∨ 4096 < rb ∨ n = 0 ∨ 64 < n ∨
      le b 24 8 < rb ∨ 2 ^ 40 < le b 24 8 then some Sts.length
  else none

/-- The table's bytes. -/
def tableSpan (rows stride rb : Nat) : Nat := (rows - 1) * stride + rb

/-- The index list of a gather as the operation finds it: an index outside the table ends the descriptor, else its items are queued (R332). -/
def startGather (d : Die) (id : Nat) (s : State) : State :=
  match opOf s d id with
  | none => s
  | some o =>
    let b := o.frame.payload
    let n := le b 8 4
    match svcRead d o.ctx (le b 0 8) (4 * n) s with
    | (st, raw, s1) =>
      let idx := (rangeFrom 0 n).map (fun i => le raw (4 * i) 4)
      if st ≠ Sts.ok then endOp d id st [] s1
      else if idx.any (fun i => decide (le b 12 4 ≤ i)) then endOp d id Sts.length [] s1
      else
        let plan := o.plan.getD (planOf s (le b 18 1) o.ctx)
        o.left.foldl (fun t k => queueItem d (itemOf plan (.gather id k) k) t) (modOp d id (fun y => { y with idxs := idx, waits := none }) s1)

/-- The local range of bytes at a fabric address that this switch holds; empty for another switch's. -/
def localRange (s : State) (a n : Nat) : Nat × Nat := if answersFor s (addrSwitch a) then (localAddr s a, n) else (0, 0)

/-- Start a gather once its index list is at hand (R268), or leave it waiting. -/
def tryGather (d : Die) (id : Nat) (s : State) : State :=
  match opOf s d id with
  | none => s
  | some o =>
    let b := o.frame.payload
    withData d (.read id) [localRange s (le b 0 8) (4 * le b 8 4)] (startGather d id) (modOp d id (fun y => { y with waits := some .data }) s)

/-- A COL_GATHER that the home takes: the checks of R331. -/
def takeGather (d : Die) (f : Frame) (s : State) : State :=
  let b := f.payload
  match (if (gatherFormBad f).isNone ∧ outstanding s d (keyOf f) then some Sts.format else gatherFormBad f) with
  | some st => refuse d f st s
  | none =>
    let svc := le b 18 1
    if !serviceHere s d svc 2 then refuse d f Sts.format s
    else
      match tableBad s d f (tableSpan (le b 12 4) (le b 24 8) (le b 16 2)) with
      | some st => refuse d f st s
      | none =>
        if !opRoom s d || !serviceServes s d svc then refuse d f Sts.retry s
        else
          match newOp d .gather f (rangeFrom 0 (ceilDiv (le b 8 4) 64)) s with
          | (id, s1) => tryGather d id (modOp d id (fun o => { o with plan := some (planOf s svc f.ctx.toNat) }) s1)

/-- COL_GATHER: the checks, then every index is read; an index outside the table ends it, else its items are queued. -/
def execColGather (d : Die) (f : Frame) (s : State) : Host.Outcome State Fault Refusal :=
  if toSp f && f.opcode == Opc.colGather then svcOk (windowMisuse f s) else svcReq Opc.colGather d f (takeGather d f) s

/-- Read some rows of a table: the status and each row's bytes. -/
def readRows (d : Die) (ctx base stride rb : Nat) (rows : List Nat) (s : State) : BitVec 5 × List Bytes × State :=
  rows.foldl (fun acc r =>
    match svcRead d ctx (base + r * stride) rb acc.2.2 with
    | (st, b, t) => (topStatus [acc.1, st], acc.2.1 ++ [b], t)) (Sts.ok, [], s)

/-- A work item of a gather has ended. Where it faulted, each row at each destination is stored or not by a free value. -/
def gatherEnd (d : Die) (id k : Nat) (st : BitVec 5) (s : State) : State :=
  match opOf s d id with
  | none => s
  | some o =>
    let b := o.frame.payload
    let rb := le b 16 2
    let rows := (o.idxs.drop (64 * k)).take 64
    match readRows d o.ctx o.frame.addr.toNat (le b 24 8) rb rows s with
    | (rst, data, s1) =>
      let bad := topStatus [if st = Sts.empty then Sts.ok else st, rst]
      let dests := (rangeFrom 0 (le b 19 1)).map (fun j => le b (32 + 8 * j) 8)
      let s2 := modOp d id (fun x => { x with left := x.left.filter (fun i => i != k), faults := if bad = Sts.ok then x.faults else x.faults ++ [bad] }) s1
      let s3 :=
        if bad = Sts.ok then opStores d (dests.map (fun a => (id, a + 64 * k * rb))) data.flatten s2
        else
          dests.foldl (fun t a => (rangeFrom 0 rows.length).foldl (fun u i =>
            let u1 := { u with freeCtr := u.freeCtr + 1 }
            let row := nth data i []
            if bitAt (Config.freeValue u.freeCtr).toNat 0 && decide (row.length = rb) then opStore d id (a + (64 * k + i) * rb) row u1 else u1) t) s2
      completeOp d id s3

/-! COL_FILTER (R333 to R335) -/

/-- The payload checks of R333. -/
def filterFormBad (f : Frame) : Option (BitVec 5) :=
  let b := f.payload
  let mode := le b 29 1
  let sel := mode % 4
  let topk := sel == 2
  let pred := sel == 0 || (topk && bitAt mode 2)
  let kf := le b 28 1
  let rb := le b 24 2
  let cap := le b 20 4
  if b.length ≠ 64 then some Sts.length
  else if (zeroAt b 0 16) ∨ sel = 3 ∨ mode / 16 ≠ 0 ∨ !(decide (kf ≤ 4) || intFmt kf) ∨ 5 < le b 30 1 then some Sts.format
  else if (!topk ∧ fld mode 3 2 ≠ 0) ∨ (!pred ∧ (le b 30 1 ≠ 0 ∨ !zeroAt b 40 4)) ∨ (sel ≠ 1 ∧ !zeroAt b 48 16) ∨ (!topk ∧ !zeroAt b 44 4) then
    some Sts.format
  else if le b 16 4 = 0 ∨ 0xFFFFFFFE < le b 16 4 ∨ cap = 0 ∨ 0xFFFFFFFE < cap ∨ rb = 0 ∨ 4096 < rb ∨ le b 32 8 < rb ∨ 2 ^ 40 < le b 32 8 then
    some Sts.length
  else if rb < le b 26 2 + elemBits kf / 8 then some Sts.length
  else if topk ∧ (le b 44 4 = 0 ∨ 65536 < le b 44 4 ∨ cap < le b 44 4) then some Sts.length
  else none

/-- The rows of a work item of a filter (R335). -/
def filterRows (rb : Nat) : Nat := min 1024 (131072 / rb)

/-- The stage program of a service: code, threads, entry. -/
def stageOf (s : State) (svc : Nat) : Option (Bytes × Nat × Nat) :=
  match recOf s RT.service svc with
  | some b => (recOf s RT.program (le b 3 1)).map (fun p => (p.drop 32, le p 3 1, le p 8 4))
  | none => none

/-- A COL_FILTER that the home takes: the checks, then its items are queued. -/
def takeFilter (d : Die) (f : Frame) (s : State) : State :=
  let b := f.payload
  match (if (filterFormBad f).isNone ∧ outstanding s d (keyOf f) then some Sts.format else filterFormBad f) with
  | some st => refuse d f st s
  | none =>
    let svc := le b 31 1
    let stage := le b 29 1 % 4 == 1
    if !serviceHere s d svc 3 || (stage && (stageOf s svc).isNone) then refuse d f Sts.format s
    else
      match tableBad s d f (tableSpan (le b 16 4) (le b 32 8) (le b 24 2)) with
      | some st => refuse d f st s
      | none =>
        if !opRoom s d || !serviceServes s d svc then refuse d f Sts.retry s
        else
          let items := rangeFrom 0 (ceilDiv (le b 16 4) (filterRows (le b 24 2)))
          match newOp d .filter f items s with
          | (id, s1) =>
            let plan := { planOf s svc f.ctx.toNat with stage := if stage then stageOf s svc else none }
            items.foldl (fun t k => queueItem d (itemOf plan (.filter id k) k) t) s1

/-- COL_FILTER. -/
def execColFilter (d : Die) (f : Frame) (s : State) : Host.Outcome State Fault Refusal :=
  if toSp f && f.opcode == Opc.colFilter then svcOk (windowMisuse f s) else svcReq Opc.colFilter d f (takeFilter d f) s

/-- Does a key stand to the threshold as CMP asks (R334)? -/
def keyCmp (cmp kf : Nat) (a b : BitVec 32) : Bool :=
  let lt := fun (x y : BitVec 32) => if intFmt kf then x.slt y else numLt (ofFp32 x) (ofFp32 y)
  let less := lt a b
  let more := lt b a
  match cmp with
  | 0 => less
  | 1 => !more
  | 2 => more
  | 3 => !less
  | 4 => !less && !more
  | _ => less || more

/-- The rows an item selects, from their bytes; keep holds the stage program's select bytes. -/
def itemSelect (b : Bytes) (first : Nat) (rows : List Bytes) (keep : Option Bytes) : List SelRow :=
  let kf := le b 28 1
  let mode := le b 29 1
  let thr := BitVec.ofNat 32 (le b 40 4)
  (rangeFrom 0 rows.length).filterMap fun i =>
    let row := nth rows i []
    let key := (widen kf 127 (le row (le b 26 2) (elemBits kf / 8))).getD nan32
    let nan := !intFmt kf && nanFV (ofFp32 key)
    let yes := match keep with
      | some k => nth k i 0 == 1
      | none => !nan && (mode % 4 == 2 && !bitAt mode 2 || keyCmp (le b 30 1) kf key thr)
    if yes then some ⟨first + i, key, row⟩ else none

/-- The order of top-k: by key, descending or ascending, ties by index (R334). -/
def topkLt (kf : Nat) (least : Bool) (a b : SelRow) : Bool :=
  let cmp := if least then 0 else 2
  keyCmp cmp kf a.key b.key || (keyCmp 4 kf a.key b.key && decide (a.row < b.row))

/-- The whole selection, once every item has ended. -/
def selection (o : Op) : List SelRow :=
  let b := o.frame.payload
  let all := (sortBy (fun (x y : Nat × List SelRow) => decide (x.1 < y.1)) o.sel).flatMap (·.2)
  if le b 29 1 % 4 = 2 then (sortBy (topkLt (le b 28 1) (bitAt (le b 29 1) 3)) all).take (le b 44 4) else all

/-- Write a filter's outputs and set its result (R334). -/
def filterWrite (d : Die) (o : Op) (s : State) : State :=
  let b := o.frame.payload
  let sel := selection o
  let cap := le b 20 4
  let out := sel.take cap
  let trunc := decide (cap < sel.length)
  let s1 := if trunc then setStatus (.col d) 4 s else s
  let s2 := modOp d o.id (fun x => { x with result := toLE 4 sel.length ++ [if trunc then 1 else 0] ++ zeros 3 }) s1
  let s3 := if le b 0 8 = 0 then s2 else opStore d o.id (le b 0 8) (out.flatMap (fun r => toLE 4 r.row)) s2
  if le b 8 8 = 0 then s3 else opStore d o.id (le b 8 8) (out.flatMap (·.bytes)) s3

/-- A work item of a filter has ended on a core. In STAGE mode the select bytes lie in its scratch, where the stage parameter
block says (R335). -/
def filterEnd (d : Die) (id k : Nat) (c : Core) (st : BitVec 5) (s : State) : State :=
  match opOf s d id with
  | none => s
  | some o =>
    let b := o.frame.payload
    let r := filterRows (le b 24 2)
    let first := k * r
    let n := min r (le b 16 4 - first)
    match readRows d o.ctx o.frame.addr.toNat (le b 32 8) (le b 24 2) (rangeFrom first n) s with
    | (rst, data, s1) =>
      let keep := if le b 29 1 % 4 = 1 then some (scratchGet c (leNat (scratchGet c 0x14 4)) n) else none
      let odd := keep.elim false (fun l => l.any (fun x => x != 0 && x != 1))
      let bad := topStatus [if st = Sts.empty then Sts.ok else st, rst, if odd then Sts.format else Sts.ok]
      let s2 := modOp d id (fun x => { x with
        left := x.left.filter (fun i => i != k),
        faults := if bad = Sts.ok then x.faults else x.faults ++ [bad],
        sel := x.sel ++ [(k, itemSelect b first data keep)] }) s1
      match opOf s2 d id with
      | none => s2
      | some p => if p.left.isEmpty then completeOp d id (if p.faults.isEmpty then filterWrite d p s2 else s2) else s2

end Machine
end Sys2Proof
end

