-- ==== Sys2Proof/Machine/Sessions.lean ====
section
/-! DEFINITION. Sessions: their pages and lengths, ATT_APPEND's sub-operations, waking and sleeping (R76, R246 to R250, R338 to
R349). -/

namespace Sys2Proof
namespace Machine

/-- The outcome of a session command. -/
abbrev sesOk (s : State) : Host.Outcome State Fault Refusal := .next s

/-! Pages (R76, R340) -/

/-- The FMT of a header's FORMAT code (R76). -/
def pageFmt (code : Nat) : Nat := match code with
  | 1 => 3
  | 2 => 4
  | 3 => 2
  | _ => 1

/-- The bytes of an element of a header's FORMAT code. -/
def pageElem (code : Nat) : Nat := if code ≤ 2 then 1 else 2

/-- The bytes of a row of a session's pages. -/
def rowBytes (x : Session) : Nat := x.dim * pageElem x.fmt

/-- The SIZE of a session's pages. -/
def pageSize (x : Session) : Nat := 64 + 2 * 2 ^ x.log2 * rowBytes x

/-- A page header (R76). -/
def pageHeader (x : Session) (ses layer group first valid flags : Nat) : Bytes :=
  let b := toLE 4 ses ++ toLE 2 layer ++ toLE 1 group ++ toLE 1 x.log2 ++ toLE 4 first ++ toLE 2 valid ++ toLE 1 x.fmt ++ toLE 1 flags ++
    toLE 2 x.dim ++ zeros 42
  b ++ toLE 4 (crc32c b).toNat

/-- LEN of a layer. -/
def lenOf (x : Session) (layer : Nat) : Nat := getD x.lens layer 0

/-- The object of a page that stands for none: the session is asleep (R340). Object IDs are 24 bits (R70). -/
abbrev noObj : Nat := 2 ^ 24

/-- TOKENS: the least LEN over the layers. -/
def tokensOf (x : Session) : Nat :=
  (rangeFrom 1 (x.layers - 1)).foldl (fun m l => min m (lenOf x l)) (lenOf x 0)

/-- The page list of a layer and group, in its order. -/
def pageList (x : Session) (layer group : Nat) : List PageEnt := x.pages.filter (fun p => p.layer == layer && p.group == group)

/-- The pages a ring holds at most; none where the session has no window (R341). -/
def ringSize (x : Session) : Nat := ceilDiv x.window (2 ^ x.log2) + 1 + x.ringExtra

/-- The page-index entries of a die in use (R340). -/
def indexUse (s : State) (d : Die) : Nat :=
  sumOf (s.sessions.map (fun x => if (extOf s x.2.ext).elim false (fun e => e.die == d) then (x.2.pages.filter (fun p => p.obj != noObj || x.2.st != .asleep)).length else 0))

/-- Is there room for n more page-index entries? -/
def indexRoom (s : State) (d : Die) (n : Nat) : Bool := decide (indexUse s d + n ≤ 2 ^ 25)

/-- The sessions WAKING or AWAKE (R246). -/
def awakeCount (s : State) : Nat := (s.sessions.filter (fun x => x.2.st == .waking || x.2.st == .awake)).length

/-- The flags of a session's page header but for SHARED. -/
def ringFlag (x : Session) : Nat := if x.window = 0 then 0 else 1

/-- The home writes bytes of an object; what lies in T1 or T2 of them is put out afterwards. -/
def fillAt (d : Die) (a : Nat) (b : Bytes) (s : State) : State :=
  let s1 := clearPoison (writeMem s a b) a b.length
  match (if b.isEmpty then none else objAt s (addrOff a)) with
  | some (id, o) =>
    let g := (a - o.addr) / 4096
    (rangeFrom g ((a - o.addr + b.length - 1) / 4096 + 1 - g)).foldl (fun t k => noteDirty d id k t) s1
  | none => s1

/-- Write a page's header in one piece (R171). -/
def writeHeader (d : Die) (x : Session) (ses : Nat) (p : PageEnt) (valid flags : Nat) (s : State) : State :=
  match get? s.objs p.obj with
  | some o => fillAt d o.addr (pageHeader x ses p.layer p.group p.first valid flags) s
  | none => s

/-- A page's object before it has an ID. -/
def pageObj (x : Session) (ses owner layer group tier loc addr ext : Nat) (comp : Option Nat) : Obj :=
  { owner := owner, tier := tier, st := .resident, kind := 1, pins := 0, addr := addr, size := pageSize x, ext := ext, epoch := 1,
    refcount := 1, loc := loc, gen := 0, comp := comp, ses := ses, layer := layer, hg := group, blank := tier == 1 }

/-- Create a page of a session, charged, its tier the device's choice (R344); where it is refused, the status and whether T0 room was wanting
(R245). -/
def createPage (x : Session) (ses layer group : Nat) (s : State) : (BitVec 5 × Bool) ⊕ (Nat × State) :=
  match extOf s x.ext with
  | none => .inl (Sts.retry, false)
  | some e =>
    match allocate s e x.owner (pageSize x) 3 none with
    | .inl st => .inl (st, st == Sts.retry && wantsT0 s e x.owner (pageSize x) 3)
    | .inr (id, tier, loc, a) =>
      .inr (id, makeObj e id (pageObj x ses x.owner layer group tier loc (s.cfg.switchId * 2 ^ 52 + a) e.idx e.comp) s)

/-- The state with a page's REFCOUNT changed. -/
def refPage (id : Nat) (g : Nat → Nat) (s : State) : State := modObj s id (fun o => { o with refcount := g o.refcount })

/-- One listing of a page fewer; a page listed no longer is freed, once no attention reads it, and a move of it ends (R241, R348, R349). -/
def unlistPage (id : Nat) (s : State) : State :=
  let s1 := refPage id (· - 1) s
  match get? s1.objs id with
  | none => s1
  | some o =>
    if o.refcount ≠ 0 then s1
    else
      let s2 := endMoveOf .d1 id (endMoveOf .d0 id s1)
      if accessPending s2 ((get? s2.objs id).getD o) then modObj s2 id (fun x => { x with st := .freeing }) else dropObj id s2

/-- The state with a session's page entry replaced. -/
def replacePage (ses : Nat) (old new : PageEnt) (s : State) : State :=
  modSes s ses (fun x => { x with pages := x.pages.map (fun p => if p = old then new else p) })

/-! Preparing an append (R344, R345, R348) -/

/-- One page an append writes into: its group, its first token. -/
def appendPages (x : Session) (first n : Nat) : List (Nat × Nat) :=
  let k := 2 ^ x.log2
  let starts := (rangeFrom (first / k) ((first + n - 1) / k + 1 - first / k)).map (· * k)
  (rangeFrom 0 x.groups).flatMap (fun g => starts.map (fun p => (g, p)))

/-- Clone a shared page for a session that writes into it (R348). -/
def cowPage (d : Die) (ses layer : Nat) (p : PageEnt) (s : State) : (BitVec 5 × Bool) ⊕ State :=
  match get? s.sessions ses, get? s.objs p.obj with
  | some x, some o =>
    match createPage x ses layer p.group s with
    | .inl st => .inl st
    | .inr (id, s1) =>
      let addr := (get? s1.objs id).elim 0 (·.addr)
      let s2 := copyRange o.addr addr o.size s1
      let q := { p with obj := id }
      let s3 := writeHeader d x ses q (lenOf x layer - p.first) (ringFlag x) s2
      .inr (setStatus (.att d) 1 (unlistPage p.obj (replacePage ses p q s3)))
  | _, _ => .inl (Sts.retry, false)

/-- Does an append of a session need to reuse a ring page of a group? -/
def reuses (s : State) (x : Session) (layer group first : Nat) : Bool :=
  let l := pageList x layer group
  x.window != 0 && !l.any (fun p => p.first == first) && decide (ringSize x ≤ l.length) &&
    (l.head?.elim false (fun p => (get? s.objs p.obj).elim false (fun o => o.refcount ≤ 1)))

/-- Prepare one page: clone a shared one, reuse the oldest of a full ring, or create a new one. -/
def preparePage (d : Die) (ses layer group first : Nat) (s : State) : (BitVec 5 × Bool) ⊕ State :=
  match get? s.sessions ses with
  | none => .inl (Sts.nohome, false)
  | some x =>
    let l := pageList x layer group
    match l.find? (fun p => p.first == first) with
    | some p =>
      if 1 < (get? s.objs p.obj).elim 0 (·.refcount) then cowPage d ses layer p s else .inr s
    | none =>
      if reuses s x layer group first then
        match l with
        | p :: _ =>
          let q := { p with first := first }
          .inr (writeHeader d x ses q 0 (ringFlag x) (modSes s ses (fun y => { y with pages := (y.pages.filter (fun r => r != p)) ++ [q] })))
        | [] => .inr s
      else
        let full := x.window != 0 && decide (ringSize x ≤ l.length)
        if !full && !indexRoom s d 1 then .inl (Sts.retry, false)
        else
          match createPage x ses layer group s with
          | .inl st => .inl st
          | .inr (id, s1) =>
            let q : PageEnt := ⟨layer, group, first, id⟩
            let s2 := match (if full then l.head? else none) with
              | some p => unlistPage p.obj (modSes s1 ses (fun y => { y with pages := y.pages.filter (fun r => r != p) }))
              | none => s1
            .inr (writeHeader d x ses q 0 (ringFlag x) (modSes s2 ses (fun y => { y with pages := y.pages ++ [q] })))

/-- Prepare every page of an append; where one fails, nothing has changed. -/
def preparePages (d : Die) (ses layer : Nat) (l : List (Nat × Nat)) (s : State) : (BitVec 5 × Bool) ⊕ State :=
  match l with
  | [] => .inr s
  | p :: r =>
    match preparePage d ses layer p.1 p.2 s with
    | .inl st => .inl st
    | .inr s1 => preparePages d ses layer r s1

/-- Write the rows of one token and group into its page. -/
def writeRow (d : Die) (x : Session) (layer group tok : Nat) (kRow vRow : Bytes) (s : State) : State :=
  let first := tok / 2 ^ x.log2 * 2 ^ x.log2
  match x.pages.find? (fun p => p.layer == layer && p.group == group && p.first == first) with
  | none => s
  | some p =>
    match get? s.objs p.obj with
    | none => s
    | some o =>
      let n := rowBytes x
      fillAt d (o.addr + 64 + 2 ^ x.log2 * n + (tok - first) * n) vRow (fillAt d (o.addr + 64 + (tok - first) * n) kRow s)

/-- Write the rows of an append: token by token, group by group, K then V (R343). -/
def writeRows (d : Die) (x : Session) (layer first n : Nat) (rows : Bytes) (s : State) : State :=
  let w := rowBytes x
  (rangeFrom 0 n).foldl (fun t i =>
    (rangeFrom 0 x.groups).foldl (fun u g =>
      let at_ := (i * x.groups + g) * 2 * w
      writeRow d x layer g (first + i) (slice rows at_ w) (slice rows (at_ + w) w) u) t) s

/-- Answer an ATT_APPEND whose session has been found: the payload carries a token count (R342). -/
def attAnswer (d : Die) (f : Frame) (st : BitVec 5) (n : Nat) (s : State) : State := answer d f st (toLE 4 n ++ zeros 4) s

/-- Perform an APPEND (R344): the status, the LEN to answer with, the state. -/
def performAppend (d : Die) (f : Frame) (s : State) : BitVec 5 × Nat × State :=
  let b := f.payload
  let ses := fld f.addr.toNat 51 32
  let layer := le b 0 2
  let n := le b 2 2
  let first := le b 4 4
  match get? s.sessions ses with
  | none => (Sts.nohome, 0, s)
  | some x =>
    let len := lenOf x layer
    if first ≠ len then (Sts.stale, len, s)
    else if 0xFFFFFFFE < first + n then (Sts.length, len, s)
    else
      match (if le b 8 8 = 0 then (Sts.ok, b.drop 32, s) else svcRead d f.ctx.toNat (le b 8 8) (n * x.groups * 2 * rowBytes x) s) with
      | (rst, rows, s0) =>
        if rst ≠ Sts.ok then (rst, len, s0)
        else
          match preparePages d ses layer (appendPages x first n) s0 with
          | .inl (st, short) =>
            let want := (appendPages x first n).filter (fun p => !(pageList x layer p.1).any (fun q => q.first == p.2))
            let t := if short then setStatus (.tier d) 0 s else s
            (st, len, if st = Sts.retry ∧ !indexRoom s d want.length then setStatus (.att d) 3 t else t)
          | .inr s1 =>
            match get? s1.sessions ses with
            | none => (Sts.nohome, 0, s)
            | some y =>
              let s2 := writeRows d y layer first n rows s1
              let k := 2 ^ y.log2
              let s3 := (appendPages x first n).foldl (fun t p =>
                match (pageList y layer p.1).find? (fun q => q.first == p.2) with
                | some q => writeHeader d y ses q (min k (first + n - p.2)) (ringFlag y) t
                | none => t) s2
              (Sts.ok, first + n, modSes s3 ses (fun z => { z with lens := put z.lens layer (first + n) }))

/-! What an append reads and writes of its pages (R344) -/

/-- The bytes of a page's object that an append writes: the header, and the K and V rows of its tokens. -/
def writtenOf (x : Session) (o : Obj) (start first n : Nat) : List (Nat × Nat) :=
  let k := 2 ^ x.log2
  let w := rowBytes x
  let lo := max first start - start
  let m := min (first + n) (start + k) - start - lo
  [(o.addr, 64), (o.addr + 64 + lo * w, m * w), (o.addr + 64 + (k + lo) * w, m * w)]

/-- The object that an append writes a page into, if it has one yet, and whether it is shared. -/
def appendObj (s : State) (x : Session) (layer : Nat) (p : Nat × Nat) : Option (Obj × Bool) :=
  let l := pageList x layer p.1
  match l.find? (fun q => q.first == p.2) with
  | some q => (get? s.objs q.obj).map (fun o => (o, decide (1 < o.refcount)))
  | none => if reuses s x layer p.1 p.2 then (l.head?.bind (fun q => get? s.objs q.obj)).map (fun o => (o, false)) else none

/-- The ranges of bytes of its pages that an append needs or writes; of a shared page all of it, which is cloned. -/
def appendRanges (s : State) (x : Session) (f : Frame) (shared : (Nat × Nat) → Bool) : List (Nat × Nat) :=
  let layer := le f.payload 0 2
  let n := le f.payload 2 2
  let first := le f.payload 4 4
  (appendPages x first n).flatMap (fun p => (appendObj s x layer p).elim [] (fun o =>
    if o.2 || shared p then [(o.1.addr, o.1.size)] else writtenOf x o.1 p.2 first n))

/-- The pages of an append that are shared. -/
def appendShared (s : State) (x : Session) (f : Frame) : List (Nat × Nat) :=
  (appendPages x (le f.payload 4 4) (le f.payload 2 2)).filter (fun p => (appendObj s x (le f.payload 0 2) p).elim false (·.2))

/-! Which operations of a session come before which -/

/-- The sessions that an ATT_ATTEND names. -/
def attendSessions (f : Frame) : List Nat := (rangeFrom 0 (le f.payload 9 1)).map (fun i => le f.payload (64 + 16 * i) 4 % 2 ^ 20)

/-- Does an operation work on a session? -/
def opOn (o : Op) (ses : Nat) : Bool :=
  match o.kind with
  | .attend => (attendSessions o.frame).contains ses
  | .append => fld o.frame.addr.toNat 51 32 == ses
  | .fork n => n == ses
  | _ => false

/-- Are attention operations of a session accepted before an operation still in flight? -/
def earlierOps (s : State) (d : Die) (ses id : Nat) : Bool := (side s.col d).ops.any (fun o => decide (o.id < id) && opOn o ses)

/-- Is an APPEND of a session and layer accepted before an operation still waiting, or the FORK that made the session? -/
def appendAhead (s : State) (d : Die) (ses layer id : Nat) : Bool :=
  (side s.col d).ops.any (fun o => decide (o.id < id) && opOn o ses &&
    (o.kind == .fork ses || (o.kind == .append && le o.frame.payload 0 2 == layer)))

/-- Is attention on a session and layer accepted before an operation still in flight? -/
def attendAhead (s : State) (d : Die) (ses layer id : Nat) : Bool :=
  (side s.col d).ops.any (fun o => decide (o.id < id) && o.kind == .attend && opOn o ses && le o.frame.payload 0 2 == layer)

/-- What an APPEND must wait for: AWAKE, an earlier APPEND, or earlier attention where it reuses a ring page (R247, R345). -/
def appendWait (s : State) (d : Die) (id : Nat) (f : Frame) : Option WaitFor :=
  let ses := fld f.addr.toNat 51 32
  let layer := le f.payload 0 2
  match get? s.sessions ses with
  | none => none
  | some x =>
    if x.st = .waking then some (.awake ses)
    else if appendAhead s d ses layer id then some (.ring ses layer)
    else if (le f.payload 4 4 == lenOf x layer) && attendAhead s d ses layer id &&
        (appendPages x (le f.payload 4 4) (le f.payload 2 2)).any (fun p => reuses s x layer p.1 p.2) then some (.ring ses layer)
    else none

/-- Is what an operation of a session has written put out? Then it is answered: its result begins with the token count. -/
def writeOver (d : Die) (id : Nat) (s : State) : State :=
  match opOf s d id with
  | none => s
  | some o =>
    if copyEnded s d (.write id) then
      attAnswer d o.frame ((jobFor s d (.write id)).elim Sts.ok (fun j => j.failed.getD Sts.ok)) (le o.result 0 4)
        (dropJob d (.write id) (modCol s d (fun c => { c with ops := c.ops.filter (fun x => x.id != id) })))
    else s

/-- What an operation of a session has written is put out to T1 and T2 (R232, R260). -/
def putOut (d : Die) (id n : Nat) (ranges : List (Nat × Nat)) (s : State) : State :=
  writeOver d id (startCopy d (.write id) (putSteps s d ranges)
    (modOp d id (fun o => { o with fetched := true, waits := some .data, result := toLE 4 n }) s))

/-- Perform an APPEND whose bytes are at hand. -/
def appendNow (d : Die) (id : Nat) (s : State) : State :=
  match opOf s d id with
  | none => s
  | some o =>
    let ses := fld o.frame.addr.toNat 51 32
    let shared := (get? s.sessions ses).elim [] (fun x => appendShared s x o.frame)
    match performAppend d o.frame s with
    | (st, n, s1) =>
      if st ≠ Sts.ok then attAnswer d o.frame st n (modCol s1 d (fun c => { c with ops := c.ops.filter (fun x => x.id != id) }))
      else putOut d id n ((get? s1.sessions ses).elim [] (fun x => appendRanges s1 x o.frame shared.contains)) s1

/-- Perform a waiting APPEND, once what it reads of its pages and its rows is at hand (R268), or leave it waiting. -/
def tryAppend (d : Die) (id : Nat) (s : State) : State :=
  match opOf s d id with
  | none => s
  | some o =>
    if o.fetched then writeOver d id s
    else
      match appendWait s d id o.frame, get? s.sessions (fld o.frame.addr.toNat 51 32) with
      | some w, _ => modOp d id (fun x => { x with waits := some w }) s
      | none, none => appendNow d id s
      | none, some x =>
        let b := o.frame.payload
        let rows := if le b 8 8 = 0 then [] else [localRange s (le b 8 8) (le b 2 2 * x.groups * 2 * rowBytes x)]
        let pages := if le b 4 4 = lenOf x (le b 0 2) then appendRanges s x o.frame (fun _ => false) else []
        withData d (.read id) (rows ++ pages) (appendNow d id) (modOp d id (fun y => { y with waits := some .data }) s)

/-- A page header with FLAGS bit SHARED set (R347). -/
def sharedHeader (h : Bytes) : Bytes :=
  let b := h.take 15 ++ [nth h 15 0 ||| 2] ++ slice h 16 44
  b ++ toLE 4 (crc32c b).toNat

/-- The pages of a forked session are marked shared. -/
def forkNow (d : Die) (id ses : Nat) (s : State) : State :=
  match get? s.sessions ses with
  | none => s
  | some y =>
    let os := y.pages.filterMap (fun p => get? s.objs p.obj)
    putOut d id (tokensOf y) (os.map (fun o => (o.addr, 64)))
      (os.foldl (fun t o => if poisonedIn t o.addr 64 then t else fillAt d o.addr (sharedHeader (readMem t o.addr 64)) t) s)

/-- Carry a FORK on: its pages' headers are rewritten once they are at hand. -/
def tryFork (d : Die) (id ses : Nat) (s : State) : State :=
  match opOf s d id, get? s.sessions ses with
  | some o, some y =>
    if o.fetched then writeOver d id s
    else
      withData d (.read id) ((y.pages.filterMap (fun p => get? s.objs p.obj)).map (fun o => (o.addr, 64))) (forkNow d id ses)
        (modOp d id (fun x => { x with waits := some .data }) s)
  | _, _ => s

/-! ATT_APPEND (R342, R343, R346, R347, R349) -/

/-- The state of a registered session as its requests find it; one whose CLOSE is accepted is found no longer. -/
def sesOf (s : State) (ses : Nat) : Option Session :=
  match get? s.sessions ses with
  | some x => if x.closing.isSome then none else some x
  | none => none

/-- Is an ATT_APPEND of this sub-operation? -/
def isSub (f : Frame) (sub : Nat) : Bool := f.opcode == Opc.attAppend && f.opspec.toNat % 4 == sub

/-- Is a session handle's low half zero and OPSPEC's reserved bits too? -/
def sesHandleOk (f : Frame) : Bool := fld f.addr.toNat 31 0 == 0 && decide (f.opspec.toNat < 4)

/-- Right O of the owner context on a session's page extent (check 4). -/
def ownsSes (s : State) (f : Frame) (owner ext : Nat) : Bool :=
  f.ctx.toNat == owner && (extOf s ext).elim false (fun e => bitAt (rightsOn s e f.ctx.toNat) 3)

/-- Does an extent take new requests? -/
def extActive (s : State) (d : Die) (ext : Nat) : Bool := extPhase s d ext == .active

/-- The status with which the waits of a new operation show. -/
def noteRing (d : Die) (id ses layer : Nat) (s : State) : State :=
  match (opOf s d id).bind (·.waits) with
  | some (.ring _ _) => if attendAhead s d ses layer id then setStatus (.att d) 2 s else s
  | _ => s

/-- An ATT_APPEND with SUBOP APPEND that the home takes. -/
def takeAppend (d : Die) (f : Frame) (s : State) : State :=
  let b := f.payload
  let ses := fld f.addr.toNat 51 32
  let n := le b 2 2
  if b.length < 32 then refuse d f Sts.length s
  else if !sesHandleOk f ∨ le b 0 2 / 4096 ≠ 0 ∨ !zeroAt b 16 16 ∨ outstanding s d (keyOf f) then refuse d f Sts.format s
  else if n = 0 ∨ 4096 < n then refuse d f Sts.length s
  else
    match sesOf s ses with
    | none => if !admitted s d f then refuse d f (admitSts s d f) s else refuse d f Sts.nohome s
    | some x =>
      let body := if le b 8 8 = 0 then n * x.groups * 2 * rowBytes x else 0
      let layer := le b 0 2
      if x.layers ≤ layer then refuse d f Sts.format s
      else if b.length ≠ 32 + body then refuse d f Sts.length s
      else if !admitted s d f then refuse d f (admitSts s d f) s
      else if !ownsSes s f x.owner x.ext then attAnswer d f Sts.denied (lenOf x layer) s
      else if x.st = .asleep ∨ x.st = .sleeping then attAnswer d f Sts.stale (lenOf x layer) s
      else if !extActive s d x.ext then attAnswer d f Sts.revoked (lenOf x layer) s
      else if !opRoom s d then attAnswer d f Sts.retry (lenOf x layer) s
      else
        match newOp d .append f [0] s with
        | (id, s1) => noteRing d id ses layer (tryAppend d id s1)

/-- An ATT_APPEND of a sub-operation, at the home. -/
def subReq (sub : Nat) (d : Die) (f : Frame) (go : State → State) (s : State) : Host.Outcome State Fault Refusal :=
  sesOk (if isSub f sub then atHome d f [] go s else s)

/-- ATT_APPEND, SUBOP APPEND. -/
def execAttAppend (d : Die) (f : Frame) (s : State) : Host.Outcome State Fault Refusal := subReq 0 d f (takeAppend d f) s

/-- The checks of OPEN's body (R346). -/
def openFormBad (s : State) (f : Frame) : Option (BitVec 5) :=
  let b := f.payload
  let dim := le b 8 2
  if b.length ≠ 32 then some Sts.length
  else if !sesHandleOk f ∨ 2 ^ 20 ≤ le b 0 4 ∨ le b 12 1 = 0 ∨ 4 < le b 12 1 ∨ 15 < le b 14 1 ∨
      (le b 16 4 = 0 ∧ le b 14 1 ≠ 0) ∨ !zeroAt b 15 1 ∨ !zeroAt b 20 12 then some Sts.format
  else if le b 4 2 = 0 ∨ 4096 < le b 4 2 ∨ le b 6 2 = 0 ∨ 256 < le b 6 2 ∨ dim < 16 ∨ 512 < dim ∨ dim % 16 ≠ 0 ∨ le b 10 1 = 0 ∨
      16 < le b 10 1 ∨ le b 11 1 < 4 ∨ 12 < le b 11 1 ∨ le b 16 4 = 0xFFFFFFFF then
    some Sts.length
  else
    match extOf s (le b 0 4) with
    | none => some Sts.format
    | some e =>
      if e.classT && (e.policy == 0 || e.policy == 1 || e.policy == 4) && serviceHere s e.die (le b 13 1) 4 then none else some Sts.format

/-- An ATT_APPEND with SUBOP OPEN that the home takes (R346). -/
def takeOpen (d : Die) (f : Frame) (s : State) : State :=
  let b := f.payload
  let ses := fld f.addr.toNat 51 32
  match (if (openFormBad s f).isNone ∧ outstanding s d (keyOf f) then some Sts.format else openFormBad s f) with
  | some st => refuse d f st s
  | none =>
    match extOf s (le b 0 4) with
    | none => refuse d f Sts.format s
    | some e =>
      if !admitted s d f then refuse d f (admitSts s d f) s
      else if (get? s.sessions ses).isSome then refuse d f Sts.stale s
      else if !ownsSes s f e.owner e.idx then refuse d f Sts.denied s
      else if !extActive s d e.idx then refuse d f Sts.revoked s
      else if !opRoom s d then refuse d f Sts.retry s
      else if 65536 ≤ awakeCount s then refuse d f Sts.retry (setStatus (.tier d) 3 s)
      else
        let x : Session :=
          { st := .awake, owner := e.owner, ext := e.idx, layers := le b 4 2, groups := le b 6 2, qheads := le b 10 1, log2 := le b 11 1,
            fmt := le b 12 1, dim := le b 8 2, window := le b 16 4, service := le b 13 1, ringExtra := le b 14 1 }
        attAnswer d f Sts.ok 0 (countReq d f { s with sessions := put s.sessions ses x })

/-- ATT_APPEND, SUBOP OPEN. -/
def execAttOpen (d : Die) (f : Frame) (s : State) : Host.Outcome State Fault Refusal := subReq 1 d f (takeOpen d f) s

/-- An ATT_APPEND with SUBOP FORK that the home takes (R347): the session is made at once, the headers of its pages are rewritten before it is
answered. -/
def takeFork (d : Die) (f : Frame) (s : State) : State :=
  let b := f.payload
  let ses := fld f.addr.toNat 51 32
  let prefix_ := le b 4 4
  if b.length ≠ 16 then refuse d f Sts.length s
  else if !sesHandleOk f ∨ 2 ^ 20 ≤ le b 0 4 ∨ !zeroAt b 8 8 ∨ outstanding s d (keyOf f) then refuse d f Sts.format s
  else if !admitted s d f then refuse d f (admitSts s d f) s
  else if (get? s.sessions ses).isSome then refuse d f Sts.stale s
  else
    match sesOf s (le b 0 4) with
    | none => refuse d f Sts.nohome s
    | some x =>
      if !ownsSes s f x.owner x.ext then attAnswer d f Sts.denied (tokensOf x) s
      else if x.st ≠ .awake then attAnswer d f Sts.stale (tokensOf x) s
      else if !extActive s d x.ext then attAnswer d f Sts.revoked (tokensOf x) s
      else if !opRoom s d then attAnswer d f Sts.retry (tokensOf x) s
      else if x.window ≠ 0 then attAnswer d f Sts.format (tokensOf x) s
      else if tokensOf x < prefix_ then attAnswer d f Sts.length (tokensOf x) s
      else if 65536 ≤ awakeCount s then attAnswer d f Sts.retry (tokensOf x) (setStatus (.tier d) 3 s)
      else
        let ps := x.pages.filter (fun p => decide (p.first < prefix_))
        if !indexRoom s d ps.length then attAnswer d f Sts.retry (tokensOf x) (setStatus (.att d) 3 s)
        else
          let y : Session := { x with
            lens := if prefix_ = 0 then [] else (rangeFrom 0 x.layers).map (fun l => (l, prefix_)),
            pages := ps, packs := [], newPacks := [], image := false, imgLens := [], imgPages := [], resident := 0, req := none, closing := none }
          match newOp d (.fork ses) f [0] { s with sessions := put s.sessions ses y } with
          | (id, s1) => tryFork d id ses (ps.foldl (fun t p => refPage p.obj (· + 1) t) s1)

/-- ATT_APPEND, SUBOP FORK. -/
def execAttFork (d : Die) (f : Frame) (s : State) : Host.Outcome State Fault Refusal := subReq 3 d f (takeFork d f) s

/-- An ATT_APPEND with SUBOP CLOSE that the home takes: accepted, it waits for the earlier operations of its session (R349); a REVOKED extent
admits it (R453). -/
def takeClose (d : Die) (f : Frame) (s : State) : State :=
  let ses := fld f.addr.toNat 51 32
  if f.payload.length ≠ 0 then refuse d f Sts.length s
  else if !sesHandleOk f ∨ outstanding s d (keyOf f) then refuse d f Sts.format s
  else if !admitted s d f then refuse d f (admitSts s d f) s
  else
    match sesOf s ses with
    | none => refuse d f Sts.nohome s
    | some x =>
      if !ownsSes s f x.owner x.ext then attAnswer d f Sts.denied (tokensOf x) s
      else if x.st = .waking ∨ x.st = .sleeping then attAnswer d f Sts.retry (tokensOf x) s
      else if !(extActive s d x.ext || extPhase s d x.ext == .revoked) then attAnswer d f Sts.revoked (tokensOf x) s
      else if !opRoom s d then attAnswer d f Sts.retry (tokensOf x) s
      else
        match newOp d (.close ses) f [0] s with
        | (_, s1) => modSes s1 ses (fun y => { y with closing := some f })

/-- ATT_APPEND, SUBOP CLOSE. -/
def execAttClose (d : Die) (f : Frame) (s : State) : Host.Outcome State Fault Refusal := subReq 2 d f (takeClose d f) s

/-- The die and operation of a session's CLOSE, SES_WAKE or SES_SLEEP. -/
def sesOp (s : State) (k : OpKind) : Option (Die × Op) :=
  match (side s.col .d0).ops.find? (fun o => o.kind == k) with
  | some o => some (.d0, o)
  | none => ((side s.col .d1).ops.find? (fun o => o.kind == k)).map (fun o => (.d1, o))

/-- Free the packs of a session. -/
def freePacks (x : Session) (s : State) : State := x.packs.foldl (fun t p => dropObj p.2 t) s

/-- ATT_CLOSE_DONE: pages, charges, index entries and image go, and the ID is unregistered (R349). -/
def execAttCloseDone (ses : Nat) (s : State) : Host.Outcome State Fault Refusal :=
  match sesOp s (.close ses), get? s.sessions ses with
  | some (d, o), some x =>
    if earlierOps s d ses o.id ∨ (x.image ∧ ringFull s d 4096) then sesOk s
    else
      let s1 := (x.pages.filter (fun p => p.obj != noObj)).foldl (fun t p => unlistPage p.obj t)
        { s with sessions := del s.sessions ses }
      let s2 := freePacks x s1
      let s3 := if x.image then journal d (.session ses) s2 else s2
      sesOk (attAnswer d o.frame Sts.ok (tokensOf x) (modCol s3 d (fun c => { c with ops := c.ops.filter (fun y => y.id != o.id) })))
  | _, _ => sesOk s

/-! SES_SLEEP (R248) -/

/-- The bytes of a layer's pack: its pages one after the other. -/
def packSize (x : Session) (layer : Nat) : Nat := (x.pages.filter (fun p => p.layer == layer)).length * pageSize x

/-- The granules of all packs of a session. -/
def packGranules (x : Session) : Nat := sumOf ((rangeFrom 0 x.layers).map (fun l => granules (packSize x l)))

/-- Checks 1 to 5 of a SES_WAKE or SES_SLEEP before the state table: the refusal, or the session (owner's context DEDUCED, log
47). -/
def sesChecks (s : State) (d : Die) (f : Frame) (formOk : Bool) : (BitVec 5) ⊕ Session :=
  if f.payload.length ≠ 8 then .inl Sts.length
  else if fld f.addr.toNat 31 0 ≠ 0 ∨ !formOk then .inl Sts.format
  else if !admitted s d f then .inl (admitSts s d f)
  else
    match sesOf s (fld f.addr.toNat 51 32) with
    | none => .inl Sts.nohome
    | some x => if !ownsSes s f x.owner x.ext then .inl Sts.denied else .inr x

/-- The move that stands for the packs of a session that goes to sleep or wakes (R239). -/
def sesMove (ses tier owner : Nat) (who : MoveBy) : Move := { obj := noObj + ses, dest := tier, who := who, ctx := owner }

/-- Has the move of a session's packs its slot? -/
def sesMoving (s : State) (d : Die) (ses : Nat) : Bool := (moveOf s d (noObj + ses)).elim false (·.started)

/-- The move of a session's packs is over. -/
def endSesMove (d : Die) (ses : Nat) (s : State) : State := (moveOf s d (noObj + ses)).elim s (fun m => dropMove d m s)

/-- A SES_SLEEP that the home takes. One whose move finds the queue of moves full is RETRY (DESIGN CHOICE, log 190). -/
def takeSleep (d : Die) (f : Frame) (s : State) : State :=
  let b := f.payload
  let ses := fld f.addr.toNat 51 32
  let tier := le b 4 1
  match sesChecks s d f (decide (le b 0 4 < 2 ^ 20) && (tier == 1 || tier == 2) && zeroAt b 5 3 && !outstanding s d (keyOf f)) with
  | .inl st => refuse d f st s
  | .inr x =>
    match x.st with
    | .asleep => answer d f Sts.ok [] s
    | .waking => refuse d f Sts.retry s
    | .sleeping => refuse d f Sts.retry s
    | .awake =>
      match extOf s (le b 0 4) with
      | none => refuse d f Sts.denied s
      | some e =>
        if !e.classT || !policyPermits e tier || e.owner != x.owner then refuse d f Sts.denied s
        else if !extActive s d e.idx || !extActive s d x.ext then refuse d f Sts.revoked s
        else if !opRoom s d || !queueRoom s d then refuse d f Sts.retry s
        else if overLimit s x.owner tier (packGranules x) then refuse d f Sts.quota (countWait f.ctx.toNat true s)
        else
          match newOp d (.sleep ses) f [0] s with
          | (_, s1) =>
            let s2 := queueMove d (sesMove ses tier x.owner (.sleep ses)) (takeCharge d x.owner tier (packGranules x) s1)
            modSes s2 ses (fun y => { y with st := .sleeping, packExt := e.idx, packTier := tier, newPacks := [], req := some f })

/-- SES_SLEEP. -/
def execSesSleep (d : Die) (f : Frame) (s : State) : Host.Outcome State Fault Refusal := svcReq Opc.sesSleep d f (takeSleep d f) s

/-- The pages of a layer in head-group order and then FIRST_TOKEN order. -/
def packOrder (x : Session) (layer : Nat) : List PageEnt :=
  sortBy (fun (a b : PageEnt) => decide (a.group < b.group) || (a.group == b.group && decide (a.first < b.first)))
    (x.pages.filter (fun p => p.layer == layer))

/-- Make the pack of a layer, its charge taken already, and the steps that copy the layer's pages into it. A layer without pages has none. -/
def makePack (x : Session) (ses layer : Nat) (e : ExtV) (s : State) : Option (List CopyStep × State) :=
  let ps := packOrder x layer
  if ps.isEmpty then some ([], s)
  else
    let size := packSize x layer
    match roomIn s e.die x.packTier size, freeRange s e size, freeObjId s with
    | some loc, some a, some id =>
      let addr := s.cfg.switchId * 2 ^ 52 + a
      let o : Obj :=
        { owner := x.owner, tier := x.packTier, st := .resident, kind := 2, pins := 0, addr := addr, size := size, ext := e.idx, epoch := 1,
          refcount := 1, loc := loc, gen := 0, comp := e.comp, ses := ses, layer := layer, hg := 0 }
      let steps := (rangeFrom 0 ps.length).flatMap (fun i =>
        (get? s.objs (nth ps i ⟨0, 0, 0, noObj⟩).obj).elim [] (fun q =>
          fetchObj q ++ [.copy q.addr (addr + i * pageSize x) (pageSize x)])) ++ putObj o
      some (steps, modSes (placeObj e id o s) ses (fun y => { y with newPacks := put y.newPacks layer id }))
    | _, _, _ => none

/-- Make all packs of a session, layer by layer. -/
def makePacks (x : Session) (ses : Nat) (e : ExtV) (layers : List Nat) (s : State) : Option (List CopyStep × State) :=
  match layers with
  | [] => some ([], s)
  | l :: r =>
    match makePack x ses l e s with
    | none => none
    | some (steps, s1) => (makePacks x ses e r s1).map (fun p => (steps ++ p.1, p.2))

/-- A sleep that fails: the packs made so far go and their charges, the session is AWAKE with its pages untouched (R248). -/
def sleepFails (d : Die) (ses : Nat) (o : Op) (x : Session) (st : BitVec 5) (s : State) : State :=
  let made := sumOf (x.newPacks.map (fun p => (get? s.objs p.2).elim 0 (fun q => granules q.size)))
  let s1 := endSesMove d ses (dropCharge d x.owner x.packTier (packGranules x - made) (x.newPacks.foldl (fun t p => dropObj p.2 t) s))
  let s2 := modSes s1 ses (fun y => { y with st := .awake, newPacks := [], req := none })
  answer d o.frame st [] (setStatus (.tier d) 4 (modCol s2 d (fun c => { c with ops := c.ops.filter (fun y => y.id != o.id) })))

/-- The packs are written: the image before them goes, the pages are freed, the session is ASLEEP (R248 steps 4 and 5). -/
def sleepEnds (d : Die) (ses : Nat) (o : Op) (x : Session) (e : ExtV) (s : State) : State :=
  let s1 := (x.pages.filter (fun p => p.obj != noObj)).foldl (fun t p => unlistPage p.obj t)
    (modSes (freePacks x s) ses (fun y => { y with pages := [] }))
  let bare := x.pages.map (fun p => { p with obj := noObj })
  let s2 := modSes s1 ses (fun y => { y with
    st := .asleep, pages := bare, packs := x.newPacks, newPacks := [], imgPages := bare, imgLens := y.lens, image := e.durable, resident := 0, req := none })
  let s3 := modCol (endSesMove d ses s2) d (fun c => { c with ops := c.ops.filter (fun y => y.id != o.id) })
  answer d o.frame Sts.ok [] (if e.durable || x.image then journal d (.session ses) s3 else s3)

/-- How far the copying into the packs has come: it has failed, it is over and the journal takes the session's record, or it goes on. -/
def sleepOver (d : Die) (ses : Nat) (o : Op) (e : ExtV) (s : State) : State :=
  match get? s.sessions ses, jobFor s d (.sleep ses) with
  | some x, some j =>
    match j.failed with
    | some st => sleepFails d ses o x st s
    | none => if !j.steps.isEmpty || ((e.durable || x.image) && ringFull s d 4096) then s else sleepEnds d ses o x e s
  | _, _ => s

/-- SES_SLEEP_DONE: with a slot, and the attention before it over, the packs are made and the pages copied into them; once they are written the
sleep ends (R248). Where a pack finds no room the session stays AWAKE. -/
def execSesSleepDone (ses : Nat) (s : State) : Host.Outcome State Fault Refusal :=
  match sesOp s (.sleep ses), get? s.sessions ses with
  | some (d, o), some x =>
    if x.st ≠ .sleeping ∨ earlierOps s d ses o.id ∨ !sesMoving s d ses then sesOk s
    else
      match extOf s x.packExt with
      | none => sesOk s
      | some e =>
        if (jobFor s d (.sleep ses)).isSome then sesOk (sleepOver d ses o e s)
        else if e.durable ∧ ringFull s e.die 4096 then sesOk s
        else
          match makePacks x ses e (rangeFrom 0 x.layers) s with
          | none => sesOk (sleepFails d ses o x Sts.retry s)
          | some (steps, s1) => sesOk (sleepOver d ses o e (startCopy d (.sleep ses) steps s1))
  | _, _ => sesOk s

/-! SES_WAKE (R249) -/

/-- The granules a context may still take in a tier. -/
def quotaLeft (s : State) (c tier : Nat) : Nat := limitOf s c tier * 512 - chargeOf s c tier

/-- How many of n pages are charged to T0 and how many to T1; none where the quota does not cover them. -/
def wakeCharges (s : State) (x : Session) (e : ExtV) : Option (Nat × Nat) :=
  let g := granules (pageSize x)
  let n := x.pages.length
  let n0 := min n (quotaLeft s x.owner 0 / g)
  let n1 := n - n0
  if n1 = 0 then some (n0, 0)
  else if policyPermits e 1 && !overLimit s x.owner 1 (n1 * g) then some (n0, n1) else none

/-- The answer to a SES_WAKE that is OK: PAGES and TOKENS. -/
def wakePayload (x : Session) : Bytes := toLE 4 x.pages.length ++ toLE 4 (tokensOf x)

/-- May a session wake into an extent: its page extent, or another that meets the conditions of R249? -/
def wakesInto (s : State) (x : Session) (e : ExtV) : Bool :=
  e.idx == x.ext || (e.classT && e.owner == x.owner && (e.policy == 0 || e.policy == 1 || e.policy == 4) && serviceDie s x.service == some e.die)

/-- A SES_WAKE that the home takes. One whose move finds the queue of moves full is RETRY (DESIGN CHOICE, log 190). -/
def takeWake (d : Die) (f : Frame) (s : State) : State :=
  let b := f.payload
  let ses := fld f.addr.toNat 51 32
  match sesChecks s d f (decide (le b 0 4 < 2 ^ 20) && zeroAt b 4 4 && !outstanding s d (keyOf f)) with
  | .inl st => refuse d f st s
  | .inr x =>
    match x.st with
    | .awake => answer d f Sts.ok (wakePayload x) s
    | .waking => refuse d f Sts.retry s
    | .sleeping => refuse d f Sts.retry s
    | .asleep =>
      match extOf s (le b 0 4) with
      | none => refuse d f Sts.denied s
      | some e =>
        if !wakesInto s x e then refuse d f Sts.denied s
        else if !extActive s d e.idx then refuse d f Sts.revoked s
        else if 65536 ≤ awakeCount s then refuse d f Sts.retry (setStatus (.tier d) 3 s)
        else if !opRoom s d || !queueRoom s d then refuse d f Sts.retry s
        else
          match wakeCharges s x e with
          | none => refuse d f Sts.quota (countWait f.ctx.toNat true s)
          | some (n0, n1) =>
            let g := granules (pageSize x)
            match newOp d (.wake ses) f [0] s with
            | (_, s1) =>
              let s2 := queueMove d (sesMove ses 0 x.owner (.wake ses)) (takeCharge d x.owner 1 (n1 * g) (takeCharge d x.owner 0 (n0 * g) s1))
              modSes s2 ses (fun y => { y with st := .waking, wakeExt := e.idx, resident := 0, chargeT0 := n0, chargeT1 := n1, req := some f })

/-- SES_WAKE. -/
def execSesWake (d : Die) (f : Frame) (s : State) : Host.Outcome State Fault Refusal := svcReq Opc.sesWake d f (takeWake d f) s

/-- The tier of a page of a waking session: the oldest pages took the T1 charge (R242, R249). -/
def wakeTier (x : Session) (p : PageEnt) : Nat :=
  if (x.pages.filter (fun q => pageLt q p)).length < x.chargeT1 then 1 else 0

/-- Create one page of a waking session, and the steps that fill it from its pack. -/
def wakePage (x : Session) (ses : Nat) (e : ExtV) (pack : Obj) (i : Nat) (p : PageEnt) (s : State) : Option (List CopyStep × State) :=
  let tier := wakeTier x p
  match roomIn s e.die tier (pageSize x), freeRange s e (pageSize x), freeObjId s with
  | some loc, some a, some id =>
    let addr := s.cfg.switchId * 2 ^ 52 + a
    let o := { pageObj x ses x.owner p.layer p.group tier loc addr e.idx e.comp with blank := false }
    some (.copy (pack.addr + i * pageSize x) addr (pageSize x) :: (if tier = 0 then [] else putObj o),
      replacePage ses p { p with obj := id } (placeObj e id o s))
  | _, _, _ => none

/-- Create the pages of a layer, in the pack's order. -/
def wakePages (x : Session) (ses : Nat) (e : ExtV) (pack : Obj) (i : Nat) (l : List PageEnt) (s : State) : Option (List CopyStep × State) :=
  match l with
  | [] => some ([], s)
  | p :: r =>
    match wakePage x ses e pack i p s with
    | none => none
    | some (steps, s1) => (wakePages x ses e pack (i + 1) r s1).map (fun q => (steps ++ q.1, q.2))

/-- A wake that fails (a lost pack, a context reset): the pages made so far go, the session is ASLEEP again, what waited is ABORTED
(R249, R394). -/
def wakeFails (d : Die) (ses : Nat) (o : Op) (x : Session) (st : BitVec 5) (s : State) : State :=
  let g := granules (pageSize x)
  let made := x.pages.filter (fun p => p.obj != noObj)
  let left := x.pages.filter (fun p => p.obj == noObj)
  let l1 := (left.filter (fun p => wakeTier x p == 1)).length
  let s1 := dropCharge d x.owner 1 (l1 * g) (dropCharge d x.owner 0 ((left.length - l1) * g) s)
  let s2 := made.foldl (fun t p => dropObj p.obj t) s1
  let s3 := modSes s2 ses (fun y => { y with
    st := .asleep, pages := y.pages.map (fun p => { p with obj := noObj }), resident := 0, req := none })
  let stuck := (side s3.col d).ops.filter (fun q => opOn q ses && q.waits.isSome)
  let s4 := stuck.foldl (fun t q => endOp d q.id Sts.aborted [] t) s3
  answer d o.frame st [] (setStatus (.tier d) 5 (modCol (endSesMove d ses s4) d (fun c => { c with ops := c.ops.filter (fun y => y.id != o.id) })))

end Machine
end Sys2Proof
end

