-- ==== Sys2Proof/Machine/Attend.lean ====
section
/-! DEFINITION. ATT_ATTEND: acceptance, the snapshot, the keys a query sees, the arithmetic, results; what resumes waiting attention;
the end of a work item (R289, R350 to R363). -/

namespace Sys2Proof
namespace Machine

/-! The descriptor (R350 to R352) -/

/-- The fields of an ATT_ATTEND header. -/
structure AttV where
  layer : Nat
  gf : Nat
  gc : Nat
  qf : Nat
  out : Nat
  rnd : Nat
  sat : Bool
  ret : Bool
  batch : Nat
  scale : Nat
  total : Nat
  qAddr : Nat
  oAddr : Nat
  lse : Nat
deriving DecidableEq, Repr

/-- A header as fields. -/
def attView (b : Bytes) : AttV :=
  let m := le b 8 1
  { layer := le b 0 2, gf := le b 2 2, gc := le b 4 2, qf := le b 6 1, out := le b 7 1, rnd := m % 4, sat := bitAt m 2, ret := bitAt m 3,
    batch := le b 9 1, scale := le b 12 4, total := le b 16 4, qAddr := le b 24 8, oAddr := le b 32 8, lse := le b 40 8 }

/-- The entries: session, Q_POS, Q_TOKENS. -/
def attEntries (b : Bytes) : List (Nat × Nat × Nat) :=
  (rangeFrom 0 (le b 9 1)).map (fun i => (le b (64 + 16 * i) 4, le b (68 + 16 * i) 4, le b (72 + 16 * i) 4))

/-- Q_OFF of an entry. -/
def qOff (es : List (Nat × Nat × Nat)) (i : Nat) : Nat := sumOf ((es.take i).map (fun e => e.2.2))

/-- The row of a query, group and head (R352). -/
def rowOf (v : AttV) (es : List (Nat × Nat × Nat)) (heads entry i g h : Nat) : Nat :=
  ((qOff es entry + i) * v.gc + (g - v.gf)) * heads + h

/-- Is SCALE zero, or a finite positive number? -/
def scaleOk (v : Nat) : Bool :=
  v == 0 || (match ofFp32 (BitVec.ofNat 32 v) with
    | .fin neg m _ => !neg && m != 0
    | _ => false)

/-- Check 1 of R353. -/
def attFormBad (f : Frame) : Option (BitVec 5) :=
  let b := f.payload
  let v := attView b
  let es := attEntries b
  if b.length < 64 ∨ v.batch = 0 ∨ 252 < v.batch ∨ b.length ≠ 64 + 16 * v.batch then some Sts.length
  else if v.layer / 4096 ≠ 0 ∨ !zeroAt b 10 2 ∨ !zeroAt b 20 4 ∨ !zeroAt b 48 16 ∨ le b 8 1 / 16 ≠ 0 ∨ 4 < v.qf ∨ 4 < v.out ∨ !scaleOk v.scale ∨
      (v.ret ∧ (v.oAddr ≠ 0 ∨ v.lse ≠ 0)) then some Sts.format
  else if (rangeFrom 0 v.batch).any (fun i => !zeroAt b (76 + 16 * i) 4) ∨ es.any (fun e => decide (2 ^ 20 ≤ e.1)) ∨
      (es.head?).elim true (fun e => e.1 != fld f.addr.toNat 51 32) ∨ fld f.addr.toNat 31 0 ≠ 0 ∨ f.opspec ≠ 0 then some Sts.format
  else if v.gc = 0 ∨ es.any (fun e => decide (4096 < e.2.2) || decide (0xFFFFFFFF < e.2.1 + e.2.2)) ∨ v.total = 0 ∨ 65536 < v.total ∨
      v.total ≠ sumOf (es.map (fun e => e.2.2)) then some Sts.length
  else none

/-- The sessions of the entries. -/
def attSessions (s : State) (b : Bytes) : List (Option Session) := (attEntries b).map (fun e => sesOf s e.1)

/-- Checks 3 of R353 past registration: one die, equal geometry, layer and groups within it, the RETURN size. -/
def attGeomBad (s : State) (d : Die) (b : Bytes) (xs : List Session) : Option (BitVec 5) :=
  let v := attView b
  match xs with
  | [] => some Sts.nohome
  | x :: _ =>
    if xs.any (fun y => (extOf s y.ext).elim true (fun e => e.die != d) || y.groups != x.groups || y.dim != x.dim || y.qheads != x.qheads ||
        y.log2 != x.log2 || y.fmt != x.fmt || decide (y.layers ≤ v.layer)) ∨ x.groups < v.gf + v.gc then some Sts.format
    else if v.ret ∧ 1048576 < v.total * v.gc * x.qheads * (x.dim * elemBits v.out / 8 + 4) then some Sts.length
    else none

/-! Waiting and the snapshot (R247, R354) -/

/-- What an ATT_ATTEND must wait for: a layer not yet resident, an earlier APPEND. -/
def attendWait (s : State) (d : Die) (id : Nat) (f : Frame) : Option WaitFor :=
  let layer := le f.payload 0 2
  (attendSessions f).findSome? fun ses =>
    match get? s.sessions ses with
    | none => none
    | some x =>
      if x.st = .waking ∧ x.resident ≤ layer then some (.layer ses layer)
      else if appendAhead s d ses layer id then some (.ring ses layer) else none

/-- The snapshot of an entry. -/
def snapOf (s : State) (v : AttV) (e : Nat × Nat × Nat) : Snap :=
  match get? s.sessions e.1 with
  | some x =>
    { ses := e.1, len := lenOf x v.layer, qpos := e.2.1, qtokens := e.2.2,
      pages := x.pages.filter (fun p => p.layer == v.layer && decide (v.gf ≤ p.group) && decide (p.group < v.gf + v.gc)) }
  | none => { ses := e.1, len := 0, qpos := e.2.1, qtokens := e.2.2, pages := [] }

/-- The first and last key of a query position; none where it attends to nothing (R355). -/
def keysOf (window len p : Nat) : Option (Nat × Nat) :=
  if len = 0 then none
  else
    let hi := min p (len - 1)
    let lo := if window = 0 then 0 else p + 1 - window
    if hi < lo then none else some (lo, hi)

/-- The queries and heads of a tile group: at most 128 rows of an entry and group, in row order. -/
def groupRows (qtokens heads tg : Nat) : List (Nat × Nat) :=
  (rangeFrom (128 * tg) (min 128 (qtokens * heads - 128 * tg))).map (fun n => (n / heads, n % heads))

/-- The tile groups of an entry. -/
def tileGroups (qtokens heads : Nat) : Nat := ceilDiv (qtokens * heads) 128

/-- Does a row of a tile group need a block of keys from a to z? -/
def blockNeeded (window len qpos : Nat) (rows : List (Nat × Nat)) (a z : Nat) : Bool :=
  rows.any (fun r => (keysOf window len (qpos + r.1)).elim false (fun k => decide (k.1 ≤ z) && decide (a ≤ k.2)))

/-- The blocks of a page that hold keys, and of them those a tile group needs (R356). -/
def pageBlocks (x : Session) (sn : Snap) (rows : List (Nat × Nat)) (p : PageEnt) : List Nat × List Nat :=
  let k := 2 ^ x.log2
  let valid := min k (sn.len - p.first)
  let all := (rangeFrom 0 (k / 16)).filter (fun blk => decide (16 * blk < valid))
  (all, all.filter (fun blk =>
    let a := p.first + 16 * blk
    blockNeeded x.window sn.len sn.qpos rows a (min (a + 15) (p.first + valid - 1))))

/-- The items of an entry, group and tile group, and the numbers of blocks read and skipped. -/
def groupItems (x : Session) (sn : Snap) (entry g tg : Nat) : List AttItem × Nat × Nat :=
  let rows := groupRows sn.qtokens x.qheads tg
  (sn.pages.filter (fun p => p.group == g)).foldl (fun acc p =>
    match pageBlocks x sn rows p with
    | (all, need_) =>
      (if need_.isEmpty then acc.1 else acc.1 ++ [⟨entry, g, tg, p.obj, p.first, need_⟩], acc.2.1 + need_.length,
        acc.2.2 + (all.length - need_.length))) ([], 0, 0)

/-- The entry, group and tile-group numbers of a descriptor, in item order. -/
def attGroups (v : AttV) (heads : Nat) (sns : List Snap) : List (Nat × Nat × Nat) :=
  (rangeFrom 0 sns.length).flatMap fun e =>
    let q := (sns[e]?).elim 0 (·.qtokens)
    (rangeFrom v.gf v.gc).flatMap (fun g => (rangeFrom 0 (tileGroups q heads)).map (fun t => (e, g, t)))

/-- Has a ring lost the window of some row (R355)? -/
def windowLost (x : Session) (v : AttV) (sn : Snap) : Bool :=
  x.window != 0 && (rangeFrom v.gf v.gc).any (fun g =>
    match (sn.pages.filter (fun p => p.group == g)).head? with
    | some p => (rangeFrom 0 sn.qtokens).any (fun i => (keysOf x.window sn.len (sn.qpos + i)).elim false (fun k => decide (k.1 < p.first)))
    | none => false)

/-! The arithmetic (R357 to R360) -/

/-- Minus infinity. -/
abbrev negInf : BitVec 32 := 0xFF800000#32

/-- The FMT of scores, and of the PV products. -/
def pvFmt (fmt : Nat) : Nat := if pageFmt fmt = 1 then 1 else 2

/-- Elements of a format as exact values. -/
def fvsOf (fmt n : Nat) (b : Bytes) : List FV := (rangeFrom 0 n).map (fun i => elemFV fmt 127 (elemAt b (elemBits fmt) i))

/-- A query narrowed to the score format (R357). -/
def queryFvs (x : Session) (qf : Nat) (b : Bytes) : List FV :=
  let f := pageFmt x.fmt
  (rangeFrom 0 x.dim).map (fun i =>
    let v := (widen qf 127 (elemAt b (elemBits qf) i)).getD nan32
    elemFV f 127 (narrow f 0 true v).1)

/-- acc plus the exact sum of products, rounded to FP32. -/
def dotStep (acc : BitVec 32) (q k : List FV) : BitVec 32 := (finish 0 [] (sumFV 0 (ofFp32 acc :: List.zipWith mulFV q k))).1

/-- The score accumulator of a query and a key, kk elements a step. -/
def dotAcc (fuel kk : Nat) (acc : BitVec 32) (q k : List FV) : BitVec 32 :=
  match fuel with
  | 0 => acc
  | n + 1 => if q.isEmpty then acc else dotAcc n kk (dotStep acc (q.take kk) (k.take kk)) (q.drop kk) (k.drop kk)

/-- A whole number as FP32. -/
def natFp32 (n : Nat) : BitVec 32 := (toFp32 0 (ofInt n)).1

/-- The factor c of a descriptor. -/
def scoreScale (scale dim : Nat) : BitVec 32 :=
  (fMul 0 (if scale = 0 then (fRsq 0 (natFp32 dim)).1 else BitVec.ofNat 32 scale) 0x3FB8AA3B#32).1

/-- The score t(j). -/
def scoreOf (x : Session) (scale : Nat) (q k : List FV) : BitVec 32 :=
  (fMul 0 (dotAcc x.dim (if x.fmt ≤ 2 then 2 else 1) 0 q k) (scoreScale scale x.dim)).1

/-- The running values of a row (R358). -/
structure RowAcc where
  m : BitVec 32 := negInf
  l : BitVec 32 := 0
  o : List (BitVec 32)
  n : Nat := 0

/-- Fold one block's attended keys into a row: their scores and value rows. -/
def foldBlock (pv : Nat) (r : RowAcc) (ks : List (BitVec 32 × List (BitVec 32))) : RowAcc :=
  match ks with
  | [] => r
  | h :: t =>
    let mn := fMax r.m ((t.map (·.1)).foldl fMax h.1)
    let a := (fExp2 0 (fSub 0 r.m mn).1).1
    let ps := ks.map (fun k => (widen pv 127 (narrow pv 0 false (fExp2 0 (fSub 0 k.1 mn).1).1).1).getD nan32)
    let lb := ps.foldl (fun acc p => (fAdd 0 acc p).1) 0
    let ub := (List.zip ps (ks.map (·.2))).foldl (fun acc p => List.zipWith (fun u v => (fFma 0 p.1 v u).1) acc p.2) (r.o.map (fun _ => 0))
    { m := mn, l := (fAdd 0 (fMul 0 r.l a).1 lb).1, o := List.zipWith (fun x u => (fAdd 0 (fMul 0 x a).1 u).1) r.o ub, n := r.n + ks.length }

/-- Combine the partials of a row in order of FIRST_TOKEN (R359). -/
def combinePartial (r : RowAcc) (p : Partial) : RowAcc :=
  if p.n = 0 then r
  else if r.n = 0 then { m := p.m, l := p.l, o := p.o, n := p.n }
  else
    let mn := fMax r.m p.m
    let x := (fExp2 0 (fSub 0 r.m mn).1).1
    let y := (fExp2 0 (fSub 0 p.m mn).1).1
    { m := mn, l := (fAdd 0 (fMul 0 r.l x).1 (fMul 0 p.l y).1).1,
      o := List.zipWith (fun a b => (fAdd 0 (fMul 0 a x).1 (fMul 0 b y).1).1) r.o p.o, n := r.n + p.n }

/-- A row's output bytes and LSE (R360). -/
def rowResult (v : AttV) (dim : Nat) (r : RowAcc) : Bytes × BitVec 32 :=
  let w := elemBits v.out
  if r.n = 0 then (zeros (dim * w / 8), negInf)
  else
    let q := (fRcp 0 r.l).1
    (packElems w (r.o.map (fun o => (narrow v.out v.rnd v.sat (fMul 0 o q).1).1)),
      (fMul 0 (fAdd 0 r.m (fLog2 0 r.l).1).1 0x3F317218#32).1)

/-! Items -/

/-- Read bytes of a page in whichever tier holds them: the status and the bytes. -/
def pageRead (s : State) (id off n : Nat) : BitVec 5 × Bytes :=
  match get? s.objs id with
  | none => (Sts.homelost, [])
  | some o =>
    if o.homeLost then (Sts.homelost, [])
    else
      let lost := match objPlace o (addrOff o.addr + off) with
        | .t2 v u => unitLost s v u
        | _ => false
      if lost then (Sts.homelost, []) else if poisonedIn s (o.addr + off) n then (Sts.poison, []) else (Sts.ok, readMem s (o.addr + off) n)

/-- Is a header one that R77 accepts, and the list's (R356)? -/
def headerOk (x : Session) (v : AttV) (it : AttItem) (size : Nat) (h : Bytes) : Bool :=
  let k := le h 7 1
  let fmt := le h 14 1
  crc32c (h.take 60) == BitVec.ofNat 32 (le h 60 4) && decide (4 ≤ k) && decide (k ≤ 12) && decide (1 ≤ fmt) && decide (fmt ≤ 4) &&
    decide (le h 12 2 ≤ 2 ^ k) && size == 64 + 2 * 2 ^ k * le h 16 2 * pageElem fmt && le h 4 2 == v.layer && le h 6 1 == it.group % 256 &&
    le h 8 4 == it.first && k == x.log2 && fmt == x.fmt && le h 16 2 == x.dim

/-- The keys of a block: their positions with the K and V rows as values; and the status of the reads. -/
def blockKeys (s : State) (x : Session) (it : AttItem) (valid blk : Nat) : BitVec 5 × List (Nat × List FV × List (BitVec 32)) :=
  let n := rowBytes x
  let f := pageFmt x.fmt
  let cnt := min 16 (valid - 16 * blk)
  let kr := pageRead s it.page (64 + 16 * blk * n) (16 * n)
  let vr := pageRead s it.page (64 + 2 ^ x.log2 * n + 16 * blk * n) (16 * n)
  (topStatus [kr.1, vr.1], (rangeFrom 0 cnt).map (fun i =>
    (it.first + 16 * blk + i, fvsOf f x.dim (slice kr.2 (i * n) n),
      (rangeFrom 0 x.dim).map (fun e => (widen f 127 (elemAt (slice vr.2 (i * n) n) (elemBits f) e)).getD nan32))))

/-- The partial of a row over an item's blocks (R358). -/
def rowPartial (x : Session) (v : AttV) (window len p : Nat) (q : List FV) (blocks : List (List (Nat × List FV × List (BitVec 32)))) : RowAcc :=
  blocks.foldl (fun r ks =>
    let js := ks.filter (fun k => (keysOf window len p).elim false (fun b => decide (b.1 ≤ k.1) && decide (k.1 ≤ b.2)))
    foldBlock (pvFmt x.fmt) r (js.map (fun k => (scoreOf x v.scale q k.2.1, k.2.2)))) { o := (rangeFrom 0 x.dim).map (fun _ => 0) }

/-- The session of an operation's entry, as its descriptor found it: its geometry never changes (R339). -/
def entrySession (s : State) (o : Op) (entry : Nat) : Option (Session × Snap) :=
  match o.snaps[entry]? with
  | some sn => (get? s.sessions sn.ses).map (fun x => (x, sn))
  | none => none

/-- Read the query of a row under the descriptor's context. -/
def readQuery (d : Die) (o : Op) (x : Session) (v : AttV) (row : Nat) (s : State) : BitVec 5 × List FV × State :=
  let n := x.dim * elemBits v.qf / 8
  match svcRead d o.ctx (v.qAddr + row * n) n s with
  | (st, b, t) => (st, queryFvs x v.qf b, t)

/-- What an item computes: its status and the partials of its rows. -/
def itemPartials (d : Die) (o : Op) (it : AttItem) (s : State) : BitVec 5 × List Partial × State :=
  let v := attView o.frame.payload
  match entrySession s o it.entry with
  | none => (Sts.nohome, [], s)
  | some (x, sn) =>
    let h := pageRead s it.page 0 64
    if h.1 ≠ Sts.ok then (h.1, [], s)
    else if !headerOk x v it ((get? s.objs it.page).elim 0 (·.size)) h.2 then (Sts.format, [], setStatus (.att d) 4 s)
    else
      let bs := it.blocks.map (blockKeys s x it (le h.2 12 2))
      let st := topStatus (bs.map (·.1))
      if st ≠ Sts.ok then (st, [], s)
      else
        (groupRows sn.qtokens x.qheads it.tileGroup).foldl (fun acc r =>
          let row := rowOf v (attEntries o.frame.payload) x.qheads it.entry r.1 it.group r.2
          match readQuery d o x v row acc.2.2 with
          | (qst, q, t) =>
            let a := rowPartial x v x.window sn.len (sn.qpos + r.1) q (bs.map (·.2))
            (topStatus [acc.1, qst], acc.2.1 ++ [⟨row, it.first, a.m, a.l, a.o, a.n⟩], t)) (Sts.ok, [], s)

/-! Results (R361) -/

/-- The rows of a tile group are finished: their outputs and LSE values are kept for RETURN or stored. -/
def tileDone (d : Die) (id entry g tg : Nat) (s : State) : State :=
  match opOf s d id with
  | none => s
  | some o =>
    let v := attView o.frame.payload
    match entrySession s o entry with
    | none => s
    | some (x, sn) =>
      if o.dead.contains (entry, g, tg) then s
      else
        (groupRows sn.qtokens x.qheads tg).foldl (fun t r =>
          let row := rowOf v (attEntries o.frame.payload) x.qheads entry r.1 g r.2
          let ps := sortBy (fun (a b : Partial) => decide (a.first < b.first)) ((o.partials.map (·.2)).filter (fun p => p.row == row))
          let acc := ps.foldl combinePartial { o := (rangeFrom 0 x.dim).map (fun _ => 0) }
          match rowResult v x.dim acc with
          | (b, l) =>
            let t1 := modOp d id (fun y => { y with rows := put y.rows row (b, l), info := if acc.n = 0 then Sts.empty else y.info }) t
            if v.ret then t1
            else
              let t2 := opStore d id (v.oAddr + row * (x.dim * elemBits v.out / 8)) b t1
              if v.lse = 0 then t2 else opStore d id (v.lse + 4 * row) (toLE 4 l.toNat) t2) s

/-- The payload of a RETURN: every output row in order, then the LSE values. -/
def returnPayload (o : Op) : Bytes := o.rows.flatMap (fun r => r.2.1) ++ o.rows.flatMap (fun r => toLE 4 r.2.2.toNat)

/-- The descriptor is answered once its items have ended and its stores are answered. -/
def finishAttend (d : Die) (id : Nat) (s : State) : State :=
  match opOf s d id with
  | none => s
  | some o =>
    if o.left.isEmpty then
      let v := attView o.frame.payload
      completeOp d id (if v.ret then modOp d id (fun x => { x with result := returnPayload o }) s else s)
    else s

/-- A work item of an ATT_ATTEND has ended. -/
def attendEnd (d : Die) (id k : Nat) (st : BitVec 5) (s : State) : State :=
  match opOf s d id with
  | none => s
  | some o =>
    match o.items[k]? with
    | none => s
    | some it =>
      match itemPartials d o it s with
      | (ist, ps, s1) =>
        let bad := topStatus [if st = Sts.empty then Sts.ok else st, ist]
        let key := (it.entry, it.group, it.tileGroup)
        let s2 := modOp d id (fun x => { x with
          left := x.left.filter (fun i => i != k),
          faults := if bad = Sts.ok then x.faults else x.faults ++ [bad],
          dead := if bad = Sts.ok then x.dead else x.dead ++ [key],
          partials := if bad = Sts.ok then x.partials ++ ps.map (fun p => (k, p)) else x.partials }) s1
        let more := (opOf s2 d id).elim false (fun y => y.left.any (fun i => (y.items[i]?).elim false (fun j => (j.entry, j.group, j.tileGroup) == key)))
        finishAttend d id (if more then s2 else tileDone d id it.entry it.group it.tileGroup s2)

/-! Starting (R354, R356, R362, R363) -/

/-- The preferred slot of a session and group, plus one; 0 for none (R362). -/
def preferSlot (s : State) (x : Session) (ses g : Nat) : Nat :=
  match recOf s RT.service x.service with
  | none => 0
  | some b =>
    let slots := (recOf s RT.partition (le b 1 1)).elim [] partSlots
    let per := max 1 (le b 32 1)
    if slots.isEmpty then 0 else nth slots ((ses * x.groups + g) / per % slots.length) 0 + 1

/-- Does an item's page lie in T2? -/
def itemInT2 (s : State) (it : AttItem) : Bool := (get? s.objs it.page).elim false (fun o => o.tier == 2)

/-- Take the snapshot and queue the items; tile groups without an item are finished at once. -/
def startAttend (d : Die) (id : Nat) (s : State) : State :=
  match opOf s d id with
  | none => s
  | some o =>
    let b := o.frame.payload
    let v := attView b
    let sns := (attEntries b).map (snapOf s v)
    match get? s.sessions (fld o.frame.addr.toNat 51 32) with
    | none => endOp d id Sts.nohome [] s
    | some x0 =>
      let ses := fun (e : Nat) => (sns[e]?).elim x0 (fun sn => (get? s.sessions sn.ses).getD x0)
      if (rangeFrom 0 sns.length).any (fun e => (sns[e]?).elim false (windowLost (ses e) v)) then
        endOp d id Sts.stale [] (setStatus (.att d) 5 s)
      else
        let gs := attGroups v x0.qheads sns
        let built := gs.map (fun g => (sns[g.1]?).elim ([], 0, 0) (fun sn => groupItems (ses g.1) sn g.1 g.2.1 g.2.2))
        let items := built.flatMap (·.1)
        let s1 := modCol s d (fun c => { c with
          readBlocks := (c.readBlocks + sumOf (built.map (fun x => x.2.1))) % 2 ^ 64,
          skipped := (c.skipped + sumOf (built.map (fun x => x.2.2))) % 2 ^ 64 })
        let s2 := modOp d id (fun y => { y with waits := none, snaps := sns, items := items, left := rangeFrom 0 items.length }) s1
        let order := (rangeFrom 0 items.length).filter (fun k => (items[k]?).elim false (itemInT2 s)) ++
          (rangeFrom 0 items.length).filter (fun k => (items[k]?).elim false (fun i => !itemInT2 s i))
        let s3 := order.foldl (fun t k =>
          match items[k]? with
          | none => t
          | some it =>
            let x := ses it.entry
            let plan := o.plan.getD (planOf t x0.service o.ctx)
            queueItem d { itemOf plan (.attend id k) k with
              prefer := preferSlot t x ((sns[it.entry]?).elim 0 (·.ses)) it.group, ofT2 := itemInT2 s it } t) s2
        let bare := gs.filter (fun g => !items.any (fun i => (i.entry, i.group, i.tileGroup) == g))
        finishAttend d id (bare.foldl (fun t g => tileDone d id g.1 g.2.1 g.2.2 t) s3)

/-- Start a waiting ATT_ATTEND or leave it waiting. -/
def tryAttend (d : Die) (id : Nat) (s : State) : State :=
  match opOf s d id with
  | none => s
  | some o =>
    match attendWait s d id o.frame with
    | some w => modOp d id (fun x => { x with waits := some w }) s
    | none => startAttend d id s

/-- Try again, in their order, the waiting operations of a session. -/
def resumeOps (d : Die) (ses : Nat) (s : State) : State :=
  (((side s.col d).ops.filter (fun o => o.waits.isSome && opOn o ses)).map (fun o => (o.id, o.kind))).foldl (fun t o =>
    match o.2 with
    | .append => tryAppend d o.1 t
    | .attend => tryAttend d o.1 t
    | .fork n => tryFork d o.1 n t
    | _ => t) s

/-- Operations that waited only for what they read or write in T1 and T2 go on, and behind an APPEND or a FORK the others of its session. -/
def resumeData (d : Die) (s : State) : State :=
  ((side s.col d).ops.filter (fun o => o.waits == some .data)).foldl (fun t o =>
    match o.kind with
    | .gather => tryGather d o.id t
    | .append => let t1 := tryAppend d o.id t; if (opOf t1 d o.id).isNone then resumeOps d (fld o.frame.addr.toNat 51 32) t1 else t1
    | .fork n => let t1 := tryFork d o.id n t; if (opOf t1 d o.id).isNone then resumeOps d n t1 else t1
    | _ => t) s

/-- An ATT_ATTEND that the home takes: the checks of R353, the prefetch of later layers, then the snapshot. -/
def takeAttend (d : Die) (f : Frame) (s : State) : State :=
  let b := f.payload
  match (if (attFormBad f).isNone ∧ outstanding s d (keyOf f) then some Sts.format else attFormBad f) with
  | some st => refuse d f st s
  | none =>
    if !admitted s d f then refuse d f (admitSts s d f) s
    else
      let all := attSessions s b
      let xs := all.filterMap id
      if xs.length ≠ all.length then refuse d f Sts.nohome s
      else
        match attGeomBad s d b xs with
        | some st => refuse d f st s
        | none =>
          if xs.any (fun x => x.st == .asleep || x.st == .sleeping) then refuse d f Sts.stale s
          else if xs.any (fun x => !extActive s d x.ext) then refuse d f Sts.revoked s
          else if xs.any (fun x => (extOf s x.ext).elim true (fun e => !bitAt (rightsOn s e f.ctx.toNat) 0)) then refuse d f Sts.denied s
          else if !opRoom s d || xs.any (fun x => !serviceServes s d x.service) then refuse d f Sts.retry s
          else
            match newOp d .attend f [0] s with
            | (id, s1) =>
              let s2 := modOp d id (fun o => { o with plan := xs.head?.map (fun x => planOf s x.service f.ctx.toNat) }) s1
              tryAttend d id ((attendSessions f).foldl (fun t n => prefetch d n (le b 0 2) t) s2)

/-- ATT_ATTEND. -/
def execAttAttend (d : Die) (f : Frame) (s : State) : Host.Outcome State Fault Refusal := svcReq Opc.attAttend d f (takeAttend d f) s

/-- RING_REUSE: the attention an APPEND waited for is over; it is performed, and what waited behind it goes on (R345). -/
def execRingReuse (ses : Nat) (s : State) : Host.Outcome State Fault Refusal :=
  sesOk (resumeOps .d1 ses (resumeOps .d0 ses s))

/-- The next layer of a waking session is resident, and attention on it goes on. -/
def layerDone (d : Die) (ses : Nat) (s : State) : State :=
  resumeOps d ses (modSes (dropJob d (.wake ses) s) ses (fun y => { y with resident := y.resident + 1 }))

/-- How far the copying of a layer has come: it has failed, it is over, or it goes on. -/
def wakeOver (d : Die) (ses : Nat) (o : Op) (s : State) : State :=
  match get? s.sessions ses, jobFor s d (.wake ses) with
  | some x, some j =>
    match j.failed with
    | some _ => wakeFails d ses o x Sts.homelost s
    | none => if j.steps.isEmpty then layerDone d ses s else s
  | _, _ => s

/-- SES_WAKE_LAYER_DONE: with a slot, the next layer's pages are created and filled from its pack; once they are, attention on it goes on (R249). A
page charged to a tier without room waits. -/
def execSesWakeLayerDone (ses : Nat) (s : State) : Host.Outcome State Fault Refusal :=
  match sesOp s (.wake ses), get? s.sessions ses with
  | some (d, o), some x =>
    if x.st ≠ .waking ∨ x.layers ≤ x.resident ∨ !sesMoving s d ses then sesOk s
    else if (jobFor s d (.wake ses)).isSome then sesOk (wakeOver d ses o s)
    else
      let ps := packOrder x x.resident
      match extOf s x.wakeExt, (get? x.packs x.resident).bind (get? s.objs) with
      | none, _ => sesOk s
      | some _, none => sesOk (if ps.isEmpty then layerDone d ses s else wakeFails d ses o x Sts.homelost s)
      | some e, some pack =>
        if ps.isEmpty then sesOk (layerDone d ses s)
        else if pack.homeLost then sesOk (wakeFails d ses o x Sts.homelost s)
        else
          match wakePages x ses e pack 0 ps s with
          | none => sesOk s
          | some (steps, s1) => sesOk (wakeOver d ses o (startCopy d (.wake ses) (fetchObj pack ++ steps) s1))
  | _, _ => sesOk s

/-- SES_WAKE_DONE: packs in a VOLATILE extent are freed, the session is AWAKE and answered (R249). -/
def execSesWakeDone (ses : Nat) (s : State) : Host.Outcome State Fault Refusal :=
  match sesOp s (.wake ses), get? s.sessions ses with
  | some (d, o), some x =>
    if x.st ≠ .waking ∨ x.resident < x.layers ∨ (x.image ∧ ringFull s d 4096) then sesOk s
    else
      let s1 := endSesMove d ses (if x.image then s else freePacks x s)
      let s2 := modSes s1 ses (fun y => { y with
        st := .awake, ext := y.wakeExt, req := none, packs := if y.image then y.packs else [],
        imgLens := if y.image then y.imgLens else [], imgPages := if y.image then y.imgPages else [] })
      let s3 := if x.image then journal d (.session ses) s2 else s2
      let s4 := modCol s3 d (fun c => { c with ops := c.ops.filter (fun y => y.id != o.id) })
      sesOk (resumeOps d ses (answer d o.frame Sts.ok (wakePayload x) s4))
  | _, _ => sesOk s

/-! The end of a work item (R289, R310) -/

/-- The weights of a beat and of a vector instruction (R427). -/
def workWeights (s : State) : Nat × Nat :=
  match s.mtr.meter with
  | some m => if 40 ≤ m.tariff.length then (le m.tariff 36 2, le m.tariff 38 2) else Config.defaultWeights
  | none => Config.defaultWeights

/-- Report an item's work to the tap and count it for its context (R310, R399). -/
def countWork (d : Die) (ctx : Nat) (c : Core) (s : State) : State :=
  let w := workWeights s
  modCtx (tap d 3 0 ctx (workValue c.beats c.vecs) s) ctx (fun x => { x with work := upd x.work d (· + c.beats * w.1 + c.vecs * w.2) })

/-- The ranges of bytes a work item of an attention descriptor reads: the header and the blocks of its page, and its queries (R356). -/
def attendRanges (s : State) (o : Op) (it : AttItem) : List (Nat × Nat) :=
  match entrySession s o it.entry, get? s.objs it.page with
  | some (x, sn), some q =>
    let n := rowBytes x
    let v := attView o.frame.payload
    let w := x.dim * elemBits v.qf / 8
    (q.addr, 64) :: it.blocks.flatMap (fun blk => [(q.addr + 64 + 16 * blk * n, 16 * n), (q.addr + 64 + (2 ^ x.log2 + 16 * blk) * n, 16 * n)]) ++
      (groupRows sn.qtokens x.qheads it.tileGroup).map (fun r =>
        localRange s (v.qAddr + rowOf v (attEntries o.frame.payload) x.qheads it.entry r.1 it.group r.2 * w) w)
  | _, _ => []

/-- The ranges of bytes here that a work item reads. -/
def itemRanges (s : State) (d : Die) (k : ItemKind) : List (Nat × Nat) :=
  match k with
  | .chunk g n inst c =>
    (instOf s d g n inst).elim [] (fun i => (i.descs.filter (·.pull)).map (fun p =>
      localRange s (p.inAddr + 1024 * c * elemBits i.inFmt / 8) (chunkElems i c * elemBits i.inFmt / 8)))
  | .gather id k =>
    (opOf s d id).elim [] (fun o =>
      let b := o.frame.payload
      ((o.idxs.drop (64 * k)).take 64).map (fun r => localRange s (o.frame.addr.toNat + r * le b 24 8) (le b 16 2)))
  | .filter id k =>
    (opOf s d id).elim [] (fun o =>
      let b := o.frame.payload
      let r := filterRows (le b 24 2)
      (rangeFrom (k * r) (min r (le b 16 4 - k * r))).map (fun i => localRange s (o.frame.addr.toNat + i * le b 32 8) (le b 24 2)))
  | .attend id k =>
    match opOf s d id with
    | none => []
    | some o => (o.items[k]?).elim [] (attendRanges s o)

/-- Must an item wait with its partials, because its page lies AHEAD pages or more beyond the last page combined of its tile group (R359; DEDUCED, log
191)? -/
def aheadHeld (s : State) (d : Die) (k : ItemKind) : Bool :=
  match k with
  | .attend id k =>
    match opOf s d id with
    | none => false
    | some o =>
      match o.items[k]? with
      | none => false
      | some it =>
        let mine := (rangeFrom 0 k).filter (fun i => (o.items[i]?).elim false (fun j =>
          j.entry == it.entry && j.group == it.group && j.tileGroup == it.tileGroup))
        let combined := (mine.takeWhile (fun i => !o.left.contains i)).length
        decide (combined + o.ahead ≤ mine.length)
  | _ => false

/-- A core's item, whose bytes are at hand, is over: the core is free, and the service takes the item's status. -/
def endItem (d : Die) (core : Nat) (i : Item) (s : State) : State :=
  let c := coreOf s d core
  let st := itemStatus c
  let s1 := modPod (freeCore d core (countWork d i.ctx c s)) d (fun v => { v with items := (v.items + 1) % 2 ^ 64 })
  match i.kind with
  | .chunk g n k x => chunkEnd d g n k x st s1
  | .gather id k => gatherEnd d id k st s1
  | .filter id k => filterEnd d id k c st s1
  | .attend id k => attendEnd d id k st s1

/-- WORK_ITEM_END: every thread has ended or faulted. What the item reads of T1 and T2 is brought here first, by the tray reads and flash reads that
this takes (R268), and its partials may have to wait (R359). -/
def execWorkItemEnd (d : Die) (core : Nat) (s : State) : Host.Outcome State Fault Refusal :=
  let c := coreOf s d core
  match c.item with
  | none => sesOk s
  | some i =>
    if c.st ≠ .running ∨ !itemOver c ∨ aheadHeld s d i.kind then sesOk s
    else sesOk (withData d (.item i.kind) (itemRanges s d i.kind) (endItem d core i) s)

/-! Ending operations (R309, R330, R364) -/

/-- End the compute operations of a die that a test accepts, with a status, but for waking and sleeping sessions and closes. Of their items none is
queued any longer. -/
def stopOps (d : Die) (p : Op → Bool) (st : BitVec 5) (s : State) : State :=
  let stop := fun (o : Op) => p o && (match o.kind with
    | .wake _ => false
    | .sleep _ => false
    | .close _ => false
    | _ => true)
  let ids := ((side s.col d).ops.filter stop).map (·.id)
  let s1 := modPod s d (fun v => { v with
    queue := v.queue.filter (fun i => match i.kind with
      | .gather id _ => !ids.contains id
      | .filter id _ => !ids.contains id
      | .attend id _ => !ids.contains id
      | _ => true) })
  let insts := (side s1.col d).instances.filter (fun i => i.descs.any (fun q => ids.contains q.op))
  let s2 := ids.foldl (fun t id => endOp d id st [] t) s1
  insts.foldl (fun t i => abortInstance d i Sts.aborted t) s2

end Machine
end Sys2Proof
end

