-- ==== Sys2Proof/Machine/Contexts.lean ====
section
/-! DEFINITION. Contexts at run time and events (chapter 14): sending an event, publishing counters, freeing a codebook slot, the end
of a context's work under a reset or a destruction. -/

namespace Sys2Proof
namespace Machine

/-- A step of the context chapter that goes on. -/
def ctxOk (s : State) : Host.Outcome State Fault Refusal := .next s

/-! Frames held at an ingress -/

/-- The frames held at a port, in all its lists but the acquires, which have left. -/
def heldAt (x : PortState) : List HeldFrame :=
  x.releases.map (·.held) ++ x.behind ++ x.stopHeld ++ x.epochHeld ++ x.rateHeld ++ x.pepHeld ++ x.recWait

/-- A port without the held frames that a test accepts. -/
def withoutHeld (p : HeldFrame → Bool) (x : PortState) : PortState :=
  { x with
    releases := x.releases.filter (fun r => !p r.held), behind := x.behind.filter (fun h => !p h),
    stopHeld := x.stopHeld.filter (fun h => !p h), epochHeld := x.epochHeld.filter (fun h => !p h),
    rateHeld := x.rateHeld.filter (fun h => !p h), pepHeld := x.pepHeld.filter (fun h => !p h),
    recWait := x.recWait.filter (fun h => !p h) }

/-- Let go of the cells and the ingress allocation of a descriptor that is in no list any longer. -/
def letGo (d : Die) (x : Desc) (s : State) : State :=
  freeCells d x.cells (leaveIngress x s)

/-- A held frame ends at its ingress: a request is answered. -/
def endHeld (d : Die) (st : BitVec 5) (h : HeldFrame) (s : State) : State :=
  let s1 := letGo d h.desc s
  if isReq h.desc.frame.opcode then refuseEach d h.desc st s1 else s1

/-- Does a held frame order what follows it as an acquire (R179)? -/
def acquiring (s : State) (port : Nat) (f : Frame) : Bool := f.acq && decide (f.opcode.toNat ≤ 5) && portRole s port != 4

/-- A held frame as one whose answer is on its way: an acquire that holds what follows it until then (R179). -/
def asAcquire (h : HeldFrame) : HeldFrame := { h with desc := { h.desc with cells := [], source := none } }

/-- End the requests held at a port that a test accepts, with a status. An acquire among them goes on holding what follows it until its
response has left the port's egress (R179). -/
def endAllHeld (port : Nat) (p : HeldFrame → Bool) (st : BitVec 5) (s : State) : State :=
  let q := fun (h : HeldFrame) => isReq h.desc.frame.opcode && p h
  let gone := (heldAt (portOf s port)).filter q
  let acqs := (gone.filter (fun h => acquiring s port h.desc.frame)).map asAcquire
  gone.foldl (fun t h => endHeld (portDie port) st h t)
    (modPort s port (fun x => { withoutHeld q x with acquires := x.acquires ++ acqs }))

/-- The ports that have a state. -/
def portList (s : State) : List Nat := s.lft.ports.map (·.1)

/-- Credit of a sub-link in a class (R133): cells that may still be sent. -/
def creditOf (x : SubState) (tc : Nat) : Nat :=
  nth x.limits tc 0 - (nth x.cellsSent tc 0 % 2 ^ 32 + 2 ^ 32 - nth x.cellsReturned tc 0 % 2 ^ 32) % 2 ^ 32

/-- The TC7 credit of one half of a sub-link: half of the limit less what that half has sent and not had returned. Neither half lends to the
other (R130). -/
def halfCredit (x : SubState) (req : Bool) : Nat :=
  nth x.limits 7 0 / 2 - sumOf ((x.tc7Out.filter (fun e => e.1 == req)).map (·.2))

/-- The cells sent and not returned after a return of n cells, which counts against the oldest first (DESIGN CHOICE, log 180: one counter
returns both halves). -/
def returnCells (n : Nat) (l : List (Bool × Nat)) : List (Bool × Nat) :=
  match l with
  | [] => []
  | (q, c) :: r => if n < c then (q, c - n) :: r else returnCells (n - c) r

/-- May a sub-link send cells of a class now, of TC7 for its half: in service, with credit, or in PFC mode not paused (R130, R133, R139)? -/
def mayCarry (s : State) (port sub tc cells : Nat) (req : Bool) : Bool :=
  let x := subOf s port sub
  x.phase == .up && (if portPfc s port then !nth x.paused tc false
    else decide (cells ≤ creditOf x tc) && (tc != 7 || decide (cells ≤ halfCredit x req)))

/-! Events (R382 to R387) -/

/-- May a die put a frame of TC6 to an endpoint on its way now (R387)? -/
def eventWay (s : State) (dest cells : Nat) : Bool :=
  if answersFor s (epSwitch dest) then
    match subOfIndex s (epIndex dest) with
    | some (p, k) => mayCarry s p k 6 cells false
    | none => true
  else
    match nextPort s (routeSwitch s (epSwitch dest)) 0 with
    | some p => mayCarry s p 0 6 cells false
    | none => true

/-- The EVENT frame of an entry (R382, R383). -/
def eventFrame (s : State) (d : Die) (e : EvEntry) (dest : Nat) : Frame :=
  let seq := getD (side s.ev d).seq e.stream 0#32
  let p := toLE 2 e.code ++ [0#8, BitVec.ofNat 8 (dieNum d)] ++ toLE 4 seq.toNat ++ toLE 2 e.count ++ toLE 2 e.data.length ++
    zeros 4 ++ e.data
  { opcode := Opc.event, tc := 6#3, srcEp := BitVec.ofNat 20 (agentEp s d), ctx := BitVec.ofNat 12 e.ctx,
    fence := getD s.flt.fence dest 0#16, addr := epAddr dest 0, length := BitVec.ofNat 16 p.length, payload := p }

/-- The first entry of a stream in a die's queue. -/
def headEvent (s : State) (d : Die) (stream : Nat) : Option EvEntry := (side s.ev d).queue.find? (fun e => e.stream == stream)

/-- EVENT_SEND: the stream's first entry leaves as an EVENT frame, when TC6 credit and EVENT_GAP_US allow (R387); the entry is free,
and the job of a JOB_DONE holds its entry no longer (R386). An entry whose destination has become 0 is discarded (R385). -/
def execEventSend (d : Die) (ctx : Nat) (s : State) : Host.Outcome State Fault Refusal :=
  match headEvent s d ctx with
  | none => ctxOk s
  | some e =>
    let v := side s.ev d
    let dest := e.dest.getD (eventEp s ctx)
    let gone := fun (t : State) => modEv t d (fun x => { x with queue := dropFirst (fun y => y.stream == ctx) x.queue })
    if dest = 0 then ctxOk (statusEvent (.ctx ctx) (evStatus (gone s) ctx 4))
    else
      match get? v.lastAt ctx with
      | some t0 => if timerOf s d < t0 + eventGap s ctx then ctxOk s else ctxOk (send e dest (gone s))
      | none => ctxOk (send e dest (gone s))
where
  /-- Send the entry's frame if it can leave; otherwise nothing happens. -/
  send (e : EvEntry) (dest : Nat) (t : State) : State :=
    let f := eventFrame s d e dest
    if !eventWay s dest (cellsOf f.payload.length) then s
    else
      let t1 := modEv t d (fun x => { x with
        seq := put x.seq ctx (getD x.seq ctx 0#32 + 1), lastAt := put x.lastAt ctx (timerOf s d) })
      let t2 := modCtx t1 ctx (fun x => { x with sent := (x.sent + 1) % 2 ^ 32 })
      let t3 := if e.job then modCfg t2 (fun c => { c with jobs := c.jobs.filter (fun j => !(j.code == 0 && j.num == le e.data 0 4)) })
        else t2
      sendFrom d f t3

/-- A published value (R399). -/
def coarse (v : Nat) : Nat := v / 4096 * 4096

/-- The DATA of a COUNTERS event of a die (R399). Every value is published coarsened, PERIOD too (DEDUCED, log 134). -/
def countersData (s : State) (d : Die) (c period : Nat) : Bytes :=
  let x := ctxOf s c
  ([period] ++ side x.bytesIn d ++ x.charge ++ [side x.work d / 65536, x.quotaWaits, x.congWaits]).flatMap (fun v => toLE 8 (coarse v % 2 ^ 64))

/-- COUNTERS_PERIOD: each context with COUNTERS set is sent its counters (R399). -/
def execCountersPeriod (d : Die) (s : State) : Host.Outcome State Fault Refusal :=
  let n := (side s.ev d).period
  let s1 := modEv s d (fun v => { v with period := n + 1 })
  ctxOk (((recsOf s RT.context).filter (fun r => countersOn s r.key && ctxPhase s d r.key == .active)).foldl
    (fun t r => event d r.key 0x31 (countersData t d r.key n) t) s1)

/-! Codebook slots (R374, R375) -/

/-- The frames on this switch that are on their way to a home, a node or a service of it. -/
def framesHere (s : State) : List Frame :=
  let desc := fun (x : Desc) => x.frame :: x.more
  let die := fun (d : Die) =>
    let w := side s.swc d
    let h := side s.home d
    w.fifos.flatMap (fun f => f.queue.flatMap desc) ++ w.stalkIn.flatMap (fun m => desc m.desc) ++ w.agentInbox ++ h.inbox.flatMap (fun x => x.frame :: x.more) ++
      h.waiting.flatMap (fun x => x.frame :: x.more)
  die .d0 ++ die .d1 ++ s.lft.ports.flatMap (fun p => (heldAt p.2).flatMap (fun h => desc h.desc)) ++
    s.lft.reseq.flatMap (fun r => r.2.held.flatMap (fun x => desc x.2)) ++ s.lft.sprayIn.flatMap (fun x => desc x.2)

/-- Is the frame a coded block of a slot that this switch will decode? -/
def codedFor (s : State) (slot : Nat) (f : Frame) : Bool :=
  f.cmp && f.slot.toNat == slot && answersFor s (destSwitch f) &&
    (f.opcode == Opc.st || f.opcode == Opc.colPart || (f.opcode == Opc.colPartRsp && decide (0xFE ≤ epIndex (addrEp f.addr.toNat))))

/-- The queued blocks that reference a slot: REFS (R375). -/
def slotRefs (s : State) (slot : Nat) : Nat :=
  let held := fun (d : Die) => sumOf ((side s.col d).instances.map (fun i =>
    (i.parts.filter (fun p => p.frame.elim false (fun f => f.cmp && f.slot.toNat == slot))).length))
  let cores := fun (d : Die) => sumOf ((side s.pod d).cores.map (fun c => (c.2.codedIn.filter (· == slot)).length))
  ((framesHere s).filter (codedFor s slot)).length + held .d0 + held .d1 + cores .d0 + cores .d1

/-- CMP_SLOT_FREE: a RETIRING slot that no queued block references is FREE; it keeps the number of the generation it held (R374,
R377, R494). -/
def execCmpSlotFree (slot : Nat) (s : State) : Host.Outcome State Fault Refusal :=
  let c := getD s.cmp.slots slot {}
  if c.phase ≠ .retiring ∨ slotRefs s slot ≠ 0 then ctxOk s
  else
    let s1 := { s with cmp := { s.cmp with slots := put s.cmp.slots slot { phase := .free, tables := 0, gen := c.gen, lengths := [] } } }
    ctxOk (spEvent 0 0x40 ([BitVec.ofNat 8 slot, 0#8] ++ toLE 2 c.gen ++ zeros 4) (setStatus (.cmp s.cfg.activeSp) 2 s1))

/-! Ending a context's work (R393 to R396) -/

/-- Is a context's reset or destruction held by both dies? -/
def ctxEnding (s : State) (c : Nat) : Bool :=
  let p := ctxPhase s .d0 c
  (p == .resetting || p == .destroying) && ctxPhase s .d1 c == p

/-- End a die's moves that a context issued, or of objects it owns, as for a failed destination (R241, R394). -/
def endCtxMoves (d : Die) (c : Nat) (s : State) : State :=
  ((side s.tier d).moves.filter (fun m => !packMove m &&
    (m.ctx == c || (get? s.objs m.obj).elim false (fun o => o.owner == c)))).foldl (fun t m => endMove d m Sts.aborted t) s

/-- End a die's session wakes that a context asked for (R394). -/
def endCtxWakes (d : Die) (c : Nat) (s : State) : State :=
  ((side s.col d).ops.filter (fun o => o.ctx == c)).foldl (fun t o =>
    match o.kind with
    | .wake ses =>
      match get? t.sessions ses with
      | some x => if x.st = .waking then wakeFails d ses o x Sts.aborted t else t
      | none => t
    | _ => t) s

/-- Is the operation one that a context reset ends: an attention, a reduction, a gather, a filter? -/
def computeOp (o : Op) : Bool :=
  match o.kind with
  | .reduce _ _ _ _ => true
  | .gather => true
  | .filter => true
  | .attend => true
  | .append => false
  | .fork _ => false
  | .close _ => false
  | .wake _ => false
  | .sleep _ => false

/-- Remove a context's queued events of a die unsent, but for JOB_DONE (R396 step 1). -/
def cancelEvents (d : Die) (c : Nat) (s : State) : State :=
  let mine := fun (e : EvEntry) => e.stream == c && !e.job
  if (side s.ev d).queue.any mine then
    setStatus (.ctx c) 1 (modEv s d (fun v => { v with queue := v.queue.filter (fun e => !mine e) }))
  else s

/-- Abort a die's reduce instances of a context's groups (R330). -/
def endCtxInstances (d : Die) (c : Nat) (s : State) : State :=
  ((side s.col d).instances.filter (fun i => (grpView i.body).ctx == c)).foldl (fun t i => abortInstance d i Sts.aborted t) s

/-- End a context's work on a die (R394, R396 steps 1 and 2). -/
def endCtxWork (d : Die) (c : Nat) (s : State) : State :=
  let ports := (portList s).filter (fun p => portDie p == d)
  let s1 := ports.foldl (fun t p => endAllHeld p (fun h => h.desc.frame.ctx.toNat == c) Sts.aborted t) s
  let s2 := endCtxWakes d c (endCtxMoves d c s1)
  let s3 := endCtxInstances d c (stopOps d (fun o => o.ctx == c && computeOp o) Sts.aborted (stopCtxItems d c s2))
  let s4 := modHome s3 d (fun h => { h with windows := h.windows.filter (fun w => w.1 % 4096 != c) })
  let s5 := ports.foldl (fun t p => modPort t p (fun x => { x with ctxDeficit := x.ctxDeficit.filter (fun k => k.1 / 8 != c) })) s4
  cancelEvents d c (modEv s5 d (fun v => { v with buckets := v.buckets.filter (fun k => k.1 / 8 != c) }))

/-- Has all admitted work of a context ended on a die: its requests, moves, operations, items? -/
def ctxQuiet (s : State) (d : Die) (c : Nat) : Bool :=
  !(side s.home d).waiting.any (fun w => (w.frame :: w.more).any (fun f => f.ctx.toNat == c)) &&
    !(side s.tier d).moves.any (fun m => m.ctx == c) && !(heldReqs s d).any (fun f => f.ctx.toNat == c) && !(side s.col d).ops.any (fun o => o.ctx == c) &&
    !(side s.pod d).cores.any (fun x => x.2.item.elim false (fun i => i.ctx == c))

/-- The taps of a die: its home unit's, and one for each pod-core service placed on it (R424; DEDUCED, log 136). -/
def tapCount (s : State) (d : Die) : Nat := 1 + ((recsOf s RT.service).filter (fun r => serviceDie s r.key == some d)).length

/-- Flush a context's BYTES counts of a die. -/
def flushBytes (d : Die) (c : Nat) (s : State) : State := (rangeFrom 0 16).foldl (fun t k => tapFlush d c k t) s

/-- A mark of every tap of a die, after its counts of the context (R396 step 3, R425). -/
def tapMarksOf (d : Die) (c : Nat) (s : State) : State :=
  (rangeFrom 0 (tapCount s d)).foldl (fun t _ => tap d 4 0 c 0 t) (flushBytes d c s)

/-- OVER_QUOTA again for each tier in which a context is still over its limit (R80, R396). -/
def overAgain (c : Nat) (s : State) : State :=
  (rangeFrom 0 3).foldl (fun t i => if overLimit t c i 0 then overQuota c i (modCtx t c (fun x => { x with overTier := setAt x.overTier i true })) else t) s

/-- CTX_RESET_COMPLETE: the context is ACTIVE; JOB_DONE and CTX_RESET_NOTICE are queued (R396 step 4). -/
def execCtxResetComplete (ctx : Nat) (s : State) : Host.Outcome State Fault Refusal :=
  if ctxPhase s .d0 ctx ≠ .resetting ∨ !ctxEnding s ctx ∨ !ctxQuiet s .d0 ctx ∨ !ctxQuiet s .d1 ctx then ctxOk s
  else
    let s1 := tapMarksOf .d1 ctx (tapMarksOf .d0 ctx s)
    let n := if (ctxOf s1 ctx).resets < 0xFFFF then (ctxOf s1 ctx).resets + 1 else 0xFFFF
    let job := (ctxOf s1 ctx).job
    let s2 := modCtx s1 ctx (fun x => { x with phase := ⟨.active, .active⟩, resets := n, job := none })
    let s3 := overAgain ctx s2
    ctxOk (spEvent ctx 0x32 (toLE 4 n ++ zeros 4) (job.elim s3 (fun j => jobDone j Sts.ok 0 s3)))

/-- Journal a change of the record set: an extent's on the die that homes it, every other on die 0 (R273). -/
def journalCfg (s0 : State) (cs : List Change) (s : State) : State :=
  let dieFor := fun (c : Change) =>
    if c.type = RT.extent then (match recOf s0 RT.extent c.key with
      | some b => (extView c.key b).die
      | none => (extView c.key c.body).die) else .d0
  let a := cs.filter (fun c => dieFor c == .d0)
  let b := cs.filter (fun c => dieFor c == .d1)
  let s1 := if a.isEmpty then s else journal .d0 (.config a) s
  if b.isEmpty then s1 else journal .d1 (.config b) s1

/-- CTX_DESTROY_COMPLETE: the context's records and grants are deleted and its key is erased (R421); it is FREE, and JOB_DONE is queued (R381). -/
def execCtxDestroyComplete (ctx : Nat) (s : State) : Host.Outcome State Fault Refusal :=
  if ctxPhase s .d0 ctx ≠ .destroying ∨ !ctxEnding s ctx ∨ !ctxQuiet s .d0 ctx ∨ !ctxQuiet s .d1 ctx ∨ ringFull s .d0 (2 ^ 20) ∨ ringFull s .d1 (2 ^ 20) then ctxOk s
  else
    let s1 := tapMarksOf .d1 ctx (tapMarksOf .d0 ctx s)
    let gone := s1.cfg.records.filter (fun r =>
      (r.type == RT.admitRec && r.key / 256 == ctx) || (r.type == RT.qos && r.key == ctx) || (r.type == RT.context && r.key == ctx) ||
        (r.type == RT.grant && le r.body 4 2 % 4096 == ctx))
    let cs := gone.map (fun r => (⟨.delete, r.type, r.key, []⟩ : Change))
    let job := (ctxOf s1 ctx).job
    let s2 := journalCfg s1 cs (withChanges s1 cs)
    let s3 := modCtx s2 ctx (fun x => { x with phase := ⟨.free, .free⟩, job := none, key := [] })
    ctxOk (job.elim s3 (fun j => jobDone j Sts.ok 0 s3))

end Machine
end Sys2Proof
end

