-- ==== Sys2Proof/Machine/CtlCore.lean ====
section
/-! DEFINITION. Control commands in common (chapter 03): admission, the argument layouts of R492, the ordered checks of R493, held
responses, configuration changes. -/

namespace Sys2Proof
namespace Machine

/-- A step of the control path that goes on. -/
def ctlOk (s : State) : Host.Outcome State Fault Refusal := .next s

/-- Is the command marked "changes" (R107)? -/
def ctlChanges (code : Nat) : Bool :=
  [0x15, 0x20, 0x21, 0x22, 0x23, 0x30, 0x31, 0x32, 0x33, 0x34, 0x61, 0x64].contains code

/-- Is the command marked "job" (R107)? -/
def ctlJob (code : Nat) : Bool := [0x12, 0x15, 0x21, 0x31, 0x40, 0x41, 0x60, 0x62, 0x63, 0x64, 0x81].contains code

/-- Is the context active on the die of the active service processor, and does it let in the endpoint? -/
def ctxAdmitsEp (s : State) (c ep : Nat) : Bool := ctxPhase s s.cfg.activeSp c == .active && admits s c ep

/-- Admission of a control command (R108): context 0, or one of the three exceptions. -/
def ctlAdmitted (s : State) (code : Nat) (r : CtlReq) : Bool :=
  let c := r.ctx.toNat
  let own := if code = 0x62 then (recOf s RT.composition (le r.args 0 2)).elim false (fun b => compCtx b == c)
    else code == 0x70 || (code == 0x90 && le r.args 6 2 == c) || code == 0x91
  (c == 0 || own) && ctxAdmitsEp s c r.srcEp.toNat

/-- The layout of PEP_SET's arguments (R467): codes FORMAT, quantities LENGTH (R17; DEDUCED, log 138). -/
def pepBad (s : State) (a : Bytes) : Option (BitVec 5) :=
  let kind := le a 1 1
  let mask := le a 2 1
  let port := le a 4 2
  let m := le a 8 4
  let top := if kind = 1 then 1000000 else if kind = 2 then 10000 else if kind = 4 then 63 else if kind = 5 then 0
    else (rangeFrom 0 7).foldl (fun x tc => if bitAt mask tc && decide (port ≤ 64) then Nat.max x (portLimit s port tc) else x) (if port ≤ 64 then 0 else 2 ^ 32 - 1)
  firstBad [
    need (decide (le a 0 1 < 16) && decide (1 ≤ kind) && decide (kind ≤ 5) && decide (1 ≤ mask) && decide (mask < 128) && zeroAt a 3 1),
    need ((decide (port ≤ 64) || port == 0xFF) && decide (le a 6 2 < 4096) && zeroAt a 13 3 && le a 16 8 != 0 && zeroAt a 24 8),
    needLen (decide (m ≤ top) && (kind == 5 || decide (1 ≤ m)) && decide (le a 12 1 ≤ 24))]

/-- Check 5 of R493: ARG_LENGTH and the layout of the arguments (R492). -/
def argBad (s : State) (code : Nat) (r : CtlReq) : Option (BitVec 5) :=
  let a := r.args
  let n := r.argLength
  let exact := fun (k : Nat) => needLen (n == k)
  match code with
  | 0x01 => needLen (decide (n ≤ 4080))
  | 0x10 => firstBad [exact 16, need (decide (le a 0 1 ≤ 2) && zeroAt a 1 7)]
  | 0x11 => firstBad [needLen (decide (17 ≤ n) && decide (n ≤ 4080)), need (zeroAt a 2 6)]
  | 0x12 => firstBad [exact 32, need (zeroAt a 2 6), needLen (decide (1 ≤ le a 24 8) && decide (le a 24 8 ≤ 67108864))]
  | 0x13 => firstBad [exact 8, need (zeroAt a 2 6)]
  | 0x14 => firstBad [exact 8, need (zeroAt a 2 6)]
  | 0x15 => firstBad [exact 8, need (decide (le a 0 1 ≤ 2) && decide (le a 1 1 ≤ 1) && zeroAt a 2 6)]
  | 0x20 => needLen (decide (8 ≤ n))
  | 0x21 => firstBad [exact 4, need (decide (le a 0 4 < 2 ^ 20))]
  | 0x22 => needLen (decide (8 ≤ n))
  | 0x23 => firstBad [exact 4, need (decide (le a 0 4 < 2 ^ 22))]
  | 0x30 => needLen (decide (8 ≤ n))
  | 0x31 => firstBad [exact 4, need (decide (le a 0 4 < 4096))]
  | 0x32 => needLen (decide (8 ≤ n))
  | 0x33 => exact 8
  | 0x34 => needLen (decide (8 ≤ n))
  | 0x40 => firstBad [exact 4, need (decide (le a 0 4 < 4096))]
  | 0x41 => firstBad [exact 4, need (decide (le a 0 4 ≤ 64))]
  | 0x42 => exact 0
  | 0x50 => exact 8
  | 0x51 => exact 8
  | 0x60 => firstBad [exact 4, need (decide (le a 0 4 < 2 ^ 20))]
  | 0x61 => needLen (decide (8 ≤ n))
  | 0x62 => firstBad [exact 8, need (zeroAt a 2 2)]
  | 0x63 => firstBad [exact 4, need (zeroAt a 2 2)]
  | 0x64 => firstBad [exact 4, need (zeroAt a 2 2)]
  | 0x70 => exact 32
  | 0x71 => exact 8
  | 0x72 => needLen (n == 8 || n == 64)
  | 0x80 => exact 8
  | 0x81 => firstBad [exact 24, needLen (decide (1 ≤ le a 8 4) && decide (le a 8 4 ≤ 1048576)), need (decide (le a 12 4 < 2))]
  | 0x90 => firstBad [exact 32, pepBad s a]
  | 0x91 => firstBad [exact 4, need ((decide (le a 0 1 < 16) || le a 0 1 == 0xFF) && zeroAt a 1 3)]
  | _ => some Sts.format

/-- The jobs in progress (R110, R386): each holds its entry until its JOB_DONE frame has left. -/
def jobsFull (s : State) : Bool := decide (256 ≤ s.cfg.jobs.length)

/-- Check 6 of R493. -/
def ctlBusy (s : State) (code : Nat) : Option (BitVec 5) :=
  firstBad [
    if ctlChanges code && s.cfg.applying.isSome then some Sts.retry else none,
    if ctlChanges code && decide (2 ^ 64 - 2 ≤ s.cfg.configGen) then some Sts.stale else none,
    if ctlJob code && jobsFull s then some Sts.retry else none]

/-- Checks 1 to 3 of R493, with the address of R105: a command refused here holds no response. -/
def ctlRefused (s : State) (code : Nat) (r : CtlReq) : Option (BitVec 5) :=
  firstBad [
    need (addrOff r.addr.toNat == winBase),
    need (r.bodyFormat == 1 && r.zero12 == 0),
    needLen (r.argLength + 16 == r.lftLen && r.args.length == r.argLength),
    if ctlAdmitted s code r then none else some Sts.denied]

/-- Check 4 of R493 (R109): none to execute, a held response to return, or a status. -/
def seqCheck (s : State) (r : CtlReq) : Option (HeldRsp ⊕ BitVec 5) :=
  match get? s.cfg.cmdSeq r.srcEp.toNat with
  | none => none
  | some c =>
    match c.held.find? (fun h => h.cmdSeq == r.cmdSeq) with
    | some h => some (.inl h)
    | none => if newer 32 r.cmdSeq.toNat c.newest.toNat then none else some (.inr Sts.stale)

/-- The commands whose effect is journaled (R273, R276). -/
def ctlJournals (code : Nat) : Bool :=
  [0x15, 0x20, 0x22, 0x23, 0x30, 0x32, 0x33, 0x34, 0x61, 0x62, 0x71, 0x72, 0x80].contains code

/-- Can a command not be applied yet: its journal has no space for its record (R276), or the stalk that carries its commit record to the other
processor has failed (R40)? -/
def ctlWaits (s : State) (code : Nat) : Bool :=
  s.mod.stalkFailed || (ctlJournals code && (ringFull s .d0 8192 || ringFull s .d1 8192))

/-- The commit record of a command in the mirror log of the other service processor, written across the stalk before the command is applied
(R28, R40). -/
def mirror (code : Nat) (r : CtlReq) (s : State) : State :=
  modCfg s (fun c => { c with mirrorLog := c.mirrorLog ++ [(r.srcEp.toNat, r.cmdSeq.toNat, code)] })

/-- A control command executed by the active service processor: the checks of R493, then the command's own rules and effect, which
answer it. While the processor reads an authorisation, the next command waits (R110), and so it does while its journal or the stalk does not take
its record. A command sent again while its response waits for
the other die (R452) has no second effect; the response serves it. -/
def runCtl (code : Nat) (r : CtlReq) (own : State → State) (s0 : State) : State :=
  let s := takeSp (ctlFrame code r) s0
  let d := s.cfg.activeSp
  if s0.cfg.authWait.isSome || ctlWaits s0 code then s0
  else
  match ctlRefused s code r with
  | some st => sendCtlRsp d code r st 0 [] s
  | none =>
    if s.cfg.stalkWait.any (fun x => x.req.srcEp == r.srcEp && x.req.cmdSeq == r.cmdSeq) then s else
    match seqCheck s r with
    | some (.inl h) => sendCtlRsp d h.command r h.status h.detail h.results s
    | some (.inr st) => sendCtlRsp d code r st 0 [] s
    | none =>
      match firstBad [argBad s code r, ctlBusy s code] with
      | some st => ctlAnswer code r st 0 [] s
      | none => own (mirror code r s)

/-- Answer a command with a status and nothing else. -/
def ctlEnd (code : Nat) (r : CtlReq) (st : BitVec 5) (s : State) : State := ctlAnswer code r st 0 [] s

/-- One configuration change accepted: CFG.CONFIG_GEN counts it (R107, R114). -/
def countGen (s : State) : State := modCfg s (fun c => { c with configGen := c.configGen + 1 })

/-- A command of one record change: the validation of R100, then the change, journaled, with what follows from it. -/
def recordCmd (code : Nat) (r : CtlReq) (c : Change) (after : State → State) (s : State) : State :=
  match validate s false [c] with
  | some st => ctlEnd code r st s
  | none => ctlEnd code r Sts.ok (countGen (after (withChanges (journalCfg s [c] s) [c])))

/-- The record change of a record-body command: KEY, then the body (R106). -/
def bodyChange (action : Action) (type : Nat) (r : CtlReq) : Change := ⟨action, type, le r.args 0 8, r.args.drop 8⟩

end Machine
end Sys2Proof
end

