-- ==== Sys2Proof/Machine/Security.lean ====
section
/-! DEFINITION. Identity, firmware, authorisations, quotes (chapter 15): the parts of the commands and registers of the SEC block. -/

namespace Sys2Proof
namespace Machine

/-! Identity (R403, R406) -/

/-- FW_DIGEST: of the running firmware image. -/
def fwDigest (s : State) : Bytes := fit (Config.shake256 s.sec.fwImage 32) 32

/-- DAK_CERT (R406): signed by the DIK, key number 0. -/
def dakCert (s : State) : Bytes :=
  let b := toLE 2 2 ++ zeros 2 ++ toLE 4 s.sec.fwSvn ++ fwDigest s ++ fit (Config.certKey (Config.deviceCert 1)) 64 ++ toLE 8 s.sec.serial ++ zeros 16
  b ++ fit (Config.slhDsaSign 0 b) 29792

/-- DEV_CERT, from the sealed region (R405). -/
def devCert (s : State) : Bytes := fit s.sec.devCert 29888

/-- The FEDERATION_ID of the SWITCH record. -/
def federationId (s : State) : Nat := (recOf s RT.switch 0).elim 0 (fun b => le b 4 4)

/-! Firmware slots (R407, R409) -/

/-- A firmware slot. -/
def fwSlotOf (s : State) (k : Nat) : SlotState := if k = 0 then s.sec.fw0 else s.sec.fw1

/-- The state with a firmware slot changed. -/
def modFw (s : State) (k : Nat) (g : SlotState → SlotState) : State :=
  modSec s (fun x => if k = 0 then { x with fw0 := g x.fw0 } else { x with fw1 := g x.fw1 })

/-- The bytes of a slot from 0 to its TOTAL_LENGTH. -/
def slotBytes (x : SlotState) : Bytes := (rangeFrom 0 x.total).map (fun i => getD x.bytes i 0)

/-- Has every byte of a slot been written? -/
def slotComplete (x : SlotState) : Bool := x.bytes.length == x.total

/-- The trailer of a signed image (R92): the algorithm code, the key's digest, the signature over what comes before it. -/
def signedBy (key b : Bytes) : Bool :=
  let t := b.length - 29808
  le b t 2 == 1 && zeroAt b (t + 2) 6 && slice b (t + 8) 8 == (fit (Config.shake256 key 32) 32).take 8 &&
    Config.slhDsaOk key (b.take (t + 16)) (b.drop (t + 16))

/-- The header of a firmware image (R407). -/
def fwHeaderOk (b : Bytes) : Bool :=
  b.take 8 == [0x47#8, 0x53#8, 0x4B#8, 0x46#8, 0x49#8, 0x52#8, 0x4D#8, 0x31#8] && le b 8 2 == 0x2096 && le b 10 1 == 0xB0 &&
    zeroAt b 11 1 && le b 16 8 == b.length && decide (30064 ≤ b.length) && decide (b.length ≤ 268435456) && zeroAt b 24 232

/-- Is an image valid (R407)? -/
def fwValid (s : State) (b : Bytes) : Bool := fwHeaderOk b && signedBy Config.vendorKey b && decide (s.sec.fwArb ≤ le b 12 4)

/-- The checks of END in their order (R409). -/
def fwEndBad (s : State) (x : SlotState) : Option (BitVec 5) :=
  let b := slotBytes x
  firstBad [
    needLen (slotComplete x),
    need (fwHeaderOk b),
    if signedBy Config.vendorKey b then none else some Sts.denied,
    if s.sec.fwArb ≤ le b 12 4 then none else some Sts.denied]

/-- Is a firmware load under way? -/
def fwLoading (s : State) : Bool := s.sec.fw0.phase == .loading || s.sec.fw1.phase == .loading

/-- BEGIN (R409): the running slot is DENIED, and so is every image of a module whose lock is open (R405; DEDUCED, log 139); another load
RETRY; a length beyond the slot LENGTH (R17). -/
def fwBegin (k total : Nat) (s : State) : BitVec 5 × State :=
  if (!s.sec.recovery && s.sec.fwSlot == k) || s.sec.unsealed then (Sts.denied, s)
  else if fwLoading s then (Sts.retry, s)
  else if 268435456 < total then (Sts.length, s)
  else (Sts.ok, modFw s k (fun _ => { phase := .loading, total := total }))

/-- END: the slot is VERIFIED or INVALID (R409); without a load in the slot STALE (DEDUCED, log 139). -/
def fwEnd (k : Nat) (s : State) : BitVec 5 × State :=
  let x := fwSlotOf s k
  if x.phase ≠ .loading then (Sts.stale, s)
  else
    match fwEndBad s x with
    | some st => (st, setStatus .sec 0 (modFw s k (fun y => { y with phase := .invalid })))
    | none => (Sts.ok, modFw s k (fun y => { y with phase := .verified }))

/-- ABORT: the slot is EMPTY again (R409). -/
def fwAbort (k : Nat) (s : State) : BitVec 5 × State :=
  if (fwSlotOf s k).phase ≠ .loading then (Sts.stale, s) else (Sts.ok, modFw s k (fun _ => {}))

/-- COMMIT: FW_ARB rises to the running image's FW_SVN (R410). -/
def fwCommit (s : State) : BitVec 5 × State :=
  if s.sec.fwArb < s.sec.fwSvn then (Sts.ok, setStatus .sec 1 (modSec s (fun x => { x with fwArb := x.fwSvn }))) else (Sts.ok, s)

/-- A write to SEC.FW_CTL (R409, R423). -/
def fwCtlWrite (v : Nat) (s : State) : BitVec 5 × State :=
  let k := fld v 56 56
  let cmd := fld v 63 60
  if cmd = 1 then fwBegin k (fld v 28 0) s
  else if cmd = 2 then fwEnd k s
  else if cmd = 3 then fwAbort k s
  else if cmd = 4 then fwCommit s
  else (Sts.format, s)

/-- A write into the firmware aperture at an offset of it (R409). -/
def apertureWrite (off : Nat) (b : Bytes) (s : State) : BitVec 5 × State :=
  let at_ := s.sec.windowBase * 65536 + off
  let k := if s.sec.fw0.phase = .loading then 0 else 1
  let x := fwSlotOf s k
  if !fwLoading s then (Sts.stale, s)
  else if x.total < at_ + b.length then (Sts.length, s)
  else (Sts.ok, modFw s k (fun y => { y with bytes := putBytes y.bytes at_ b }))

/-! Write-limited settings (R14, R412, R413) -/

/-- RWL_CHANGE: a register's offset and its counter after the write, all ones when the write was rejected (R384). -/
def rwlChange (off counter : Nat) (s : State) : State := spEvent 0 0x14 (toLE 8 off ++ toLE 4 counter) s

/-- An accepted write-limited write: journaled, and told (R14, R412). -/
def rwlAccepted (off counter : Nat) (s : State) : State := rwlChange off counter (journal .d0 (.rwl off) s)

/-- The register offset of SEC.DEBUG from the control-window base. -/
abbrev offDebug : Nat := 0x0E000038

/-- The register offset of SEC.OWNER_SET. -/
abbrev offOwnerSet : Nat := 0x0E000040

/-- The register offset of MTR.TARIFF_SET. -/
abbrev offTariff : Nat := 0x0F000040

/-- Checks 4 to 6 of an authorisation (R413). -/
def authBad (s : State) (kind left : Nat) (b : Bytes) : Option (BitVec 5) :=
  firstBad [
    need (b.take 8 == [0x47#8, 0x53#8, 0x4B#8, 0x41#8, 0x55#8, 0x54#8, 0x48#8, 0x31#8] && le b 8 2 == kind && zeroAt b 10 2 &&
      (kind == 2 || zeroAt b 24 64) && (if kind = 1 then decide (le b 88 8 < 4) else zeroAt b 88 8) && zeroAt b 96 32),
    if le b 16 8 = s.sec.serial ∧ le b 12 4 = left then none else some Sts.stale,
    if Config.slhDsaOk (s.sec.ownerKey.getD []) (b.take 128) (b.drop 128) then none else some Sts.denied]

/-- A write-limited command begins: a counter at zero rejects it; otherwise the service processor reads its argument (R413). -/
def rwlBegin (code : Nat) (r : CtlReq) (off left : Nat) (s : State) : State :=
  if left = 0 then ctlEnd code r Sts.denied (rwlChange off 0xFFFFFFFF s)
  else modCfg s (fun c => { c with authWait := some ⟨code, r⟩ })

/-- DEBUG_UNLOCK, its authorisation read (R413, R414). -/
def unlockRead (r : CtlReq) (st : BitVec 5) (b : Bytes) (s : State) : State :=
  match (if st = Sts.ok then authBad s 1 s.sec.leftDebug b else some st) with
  | some e => ctlEnd 0x71 r e (setStatus .sec 3 s)
  | none =>
    let s1 := modSec s (fun x => { x with unlocked := true, scope := BitVec.ofNat 2 (le b 88 8), leftDebug := x.leftDebug - 1 })
    ctlEnd 0x71 r Sts.ok (rwlAccepted offDebug s1.sec.leftDebug s1)

/-! Quotes (R415 to R417) -/

/-- A record as the digest takes it: its 16-byte header and its body. -/
def recBytes (r : Rec) : Bytes := toLE 2 r.type ++ [0#8, 0#8] ++ toLE 4 r.body.length ++ toLE 8 r.key ++ r.body

/-- The records a context's view covers (R416). -/
def viewRecords (s : State) (c : Nat) : List Rec :=
  s.cfg.records.filter (fun r => c == 0 || (r.type == RT.context && r.key == c) || (r.type == RT.admitRec && r.key / 256 == c) ||
    (r.type == RT.qos && r.key == c) || (r.type == RT.extent && le r.body 12 2 % 4096 == c) || (r.type == RT.grant && le r.body 4 2 % 4096 == c))

/-- QUOTE (R415). -/
def quoteOf (s : State) (c : Nat) (nonce : Bytes) : Bytes :=
  let flags := b2n s.sec.unlocked + 2 * b2n s.cfg.fallback + 4 * b2n s.cfg.unconfigured
  let b := toLE 2 1 ++ toLE 2 s.cfg.switchId ++ toLE 2 c ++ toLE 1 flags ++ [0#8] ++ fit nonce 32 ++ fwDigest s ++ ownerDigest s ++
    toLE 8 s.cfg.activeId ++ toLE 4 s.cfg.detClass ++ toLE 4 s.sec.fwArb ++ toLE 4 s.sec.bsArb ++ toLE 4 (federationId s) ++
    toLE 8 (if c = 0 then s.cfg.configGen else 0) ++ fit (Config.shake256 ((viewRecords s c).flatMap recBytes) 32) 32 ++
    toLE 1 s.sec.leftMeter ++ toLE 1 s.sec.leftDebug ++ toLE 1 s.sec.leftXfer
  fit b 256

/-- The results of ATTEST_QUOTE: QUOTE, its signature by the DAK (key number 1), both certificates. -/
def quoteResults (s : State) (c : Nat) (nonce : Bytes) : Bytes :=
  let q := quoteOf s c nonce
  q ++ fit (Config.slhDsaSign 1 q) 49856 ++ dakCert s ++ devCert s

/-- May the context take a quote now (R417)? Context 0 always may. -/
def quoteDue (s : State) (c : Nat) : Bool :=
  c == 0 || (ctxOf s c).lastQuote.elim true (fun t => decide (t + 100000000 ≤ timerOf s .d0))

/-- ATTEST_QUOTE: the quote of the caller's view, or RETRY within 100 ms of the context's last (R415, R417). -/
def attestOwn (r : CtlReq) (s : State) : State :=
  let c := r.ctx.toNat
  if !quoteDue s c then ctlEnd 0x70 r Sts.retry (setStatus .sec 2 s)
  else ctlAnswer 0x70 r Sts.ok 0 (quoteResults s c r.args) (if c = 0 then s else modCtx s c (fun x => { x with lastQuote := some (timerOf s .d0) }))

/-- ATTEST_QUOTE. -/
def execAttestQuote (r : CtlReq) (s : State) : Host.Outcome State Fault Refusal := ctlOk (runCtl 0x70 r (attestOwn r) s)

/-- DEBUG_UNLOCK: the counter, then the reading of the authorisation (R413). -/
def execDebugUnlock (r : CtlReq) (s : State) : Host.Outcome State Fault Refusal :=
  ctlOk (runCtl 0x71 r (fun t => rwlBegin 0x71 r offDebug t.sec.leftDebug t) s)

end Machine
end Sys2Proof
end

