-- ==== Sys2Proof/Machine/Link.lean ====
section
/-! DEFINITION. The links (chapter 04, R397, R418 to R420): bring-up, credits, replay, leaving service, PFC, key agreement, port
resets. -/

namespace Sys2Proof
namespace Machine

/-- A step of the link layer that goes on. -/
def linkOk (s : State) : Host.Outcome State Fault Refusal := .next s

/-- Does the port have this sub-link, and may it be in service: the device runs, or in recovery the port is H0 (R115, R408)? -/
def subThere (s : State) (p k : Nat) : Bool :=
  portRole s p != 0 && decide (k < subsOfMode (portMode s p)) && (s.mod.power == .run || (s.sec.recovery && p == 64))

/-- The sub-links of a port. -/
def portSubs (s : State) (p : Nat) : List Nat := if portRole s p = 0 then [] else rangeFrom 0 (subsOfMode (portMode s p))

/-- Count frames a port discards. -/
def countDiscard (p n : Nat) (s : State) : State := modPort s p (fun x => { x with discarded := x.discarded + n })

/-! Sending link frames (R134 to R137) -/

/-- The trailer with the acknowledgement a sub-link has to give (R135). -/
def ackTrailer (x : SubState) (t : Trailer) : Trailer := { t with ackSeq := x.rxSeq - 1, ackValid := x.rxAny }

/-- The MAC addresses of a frame that a port sends (R120). -/
def macPair (s : State) (p k : Nat) : Bytes :=
  (if portPfc s p then (recOf s RT.port p).elim (zeros 6) (fun b => slice b 50 6) else toBE 6 (subOf s p k).peerMac) ++ toBE 6 (s.mod.macBase + p)

/-- The EtherType of an opcode (R120). -/
def etherTypeOf (s : State) (o : Byte) : BitVec 16 := if o = Opc.ctlReq ∨ o = Opc.ctlRsp then s.cfg.ethCtl else s.cfg.ethLft

/-- The 802.1Q tag of a class on a PFC-mode port: PCP the class, VID the PFC_VID (R139). -/
def vlanTag (s : State) (p tc : Nat) : Option Nat :=
  if portPfc s p then some (tc * 8192 + (recOf s RT.port p).elim 0 (fun b => le b 44 2)) else none

/-- The length of a frame on the wire with n bytes between its header and what follows them (R118). -/
def wireLen (s : State) (p n : Nat) : Nat :=
  50 + n + (if portMacsec s p then 32 else 0) + (if portPfc s p then 4 else if portRole s p = 4 then 16 else 8)

/-- The zero padding of a frame with n bytes of payload (R119). -/
def padOf (s : State) (p n : Nat) : Nat := 64 - wireLen s p n

/-- Put a frame on the wire of a sub-link: addressed, tagged, padded, and on a MACsec port under the next packet number (R118 to R120, R139,
R144). -/
def putWire (p k : Nat) (t : Trailer) (f : Frame) (more : List Frame) (corrupt : Bool) (s : State) : State :=
  let x := subOf s p k
  let sec := portMacsec s p && x.ka.keyed
  let out : Sent := { port := p, sub := k, trailer := t, frame := f, more := more, corrupt := corrupt, addrs := macPair s p k,
                      tag := vlanTag s p f.tc.toNat, etype := etherTypeOf s f.opcode, pad := padOf s p f.payload.length,
                      pn := if sec then some (x.ka.txPn + 1) else none }
  let s1 := if sec then modSub s p k (fun y => { y with ka := { y.ka with txPn := y.ka.txPn + 1 } }) else s
  modLft s1 (fun l => { l with sent := l.sent ++ [out] })

/-- Send a link frame: neither sequenced nor counted in credits (R133, R135). Its header fields that no rule gives are zero but for the
sub-link's endpoint (DESIGN CHOICE, log 50). -/
def sendLink (p k : Nat) (opc : Byte) (payload : Bytes) (s : State) : State :=
  let f : Frame := { opcode := opc, tc := 7#3, srcEp := BitVec.ofNat 20 (subEp s p k), length := BitVec.ofNat 16 payload.length, payload := payload }
  putWire p k (ackTrailer (subOf s p k) {}) f [] false s

/-- The replay buffer of a sub-link in bytes (R136). -/
def replayBytes (s : State) (p : Nat) : Nat := 2 * 2 ^ 20 / subsOfMode (portMode s p)

/-- The LINK_INIT payload of a sub-link (R137). -/
def initPayload (s : State) (p k : Nat) : Bytes :=
  toLE 2 1 ++ toLE 1 (portRole s p) ++ zeros 1 ++ toLE 4 (subEp s p k) ++ toLE 4 (replayBytes s p) ++ zeros 4 ++
    (rangeFrom 0 8).flatMap (fun tc => toLE 4 (portLimit s p tc))

/-- Send LINK_CREDIT with the cumulative counters (R134). -/
def sendCredit (p k : Nat) (s : State) : State := sendLink p k Opc.linkCredit ((subOf s p k).returned.flatMap (fun v => toLE 4 (v % 2 ^ 32))) s

/-- Send LINK_NAK naming the number expected next (R136). -/
def sendNak (p k : Nat) (s : State) : State :=
  sendLink p k Opc.linkNak (toLE 4 (subOf s p k).rxSeq.toNat) (modSub s p k (fun x => { x with nakSent := true }))

/-- Resend held frames in order, each with the acknowledgement of now; they are counted, and so is the replay (R136, R138). -/
def resendFrames (p k : Nat) (fs : List SentFrame) (s : State) : State :=
  if fs.isEmpty then s
  else
    let x := subOf s p k
    let s1 := fs.foldl (fun t h => putWire p k (ackTrailer x h.trailer) h.frame h.more false t) s
    modSub (modPort s1 p (fun y => { y with replayCount := satAdd y.replayCount fs.length (2 ^ 64 - 1) })) p k
      (fun y => { y with replays := y.replays + 1 })

/-- Is a frame acknowledged by ACK_SEQ, the newest number received in order (R135, R136)? -/
def acked (ack lseq : BitVec 24) : Bool := !newer 24 lseq.toNat ack.toNat

/-- An acknowledgement: the frames it covers leave the replay buffer (R136). -/
def takeAck (p k : Nat) (ack : BitVec 24) (s : State) : State :=
  modSub s p k (fun x =>
    let left := x.replay.filter (fun h => !acked ack h.lseq)
    if left.length < x.replay.length then { x with replay := left, replays := 0 } else x)

/-! Leaving service (R138) -/

/-- The state with every descriptor that is held somewhere changed. -/
def mapDescs (g : Desc → Desc) (s : State) : State :=
  let held := fun (l : List HeldFrame) => l.map (fun h => { h with desc := g h.desc })
  let pairs := fun (l : List (Nat × Desc)) => l.map (fun x => (x.1, g x.2))
  let port := fun (x : PortState) => { x with
    releases := x.releases.map (fun r => { r with held := { r.held with desc := g r.held.desc } }),
    acquires := held x.acquires, behind := held x.behind, stopHeld := held x.stopHeld, epochHeld := held x.epochHeld,
    rateHeld := held x.rateHeld, pepHeld := held x.pepHeld, recWait := held x.recWait }
  let swc := fun (w : SwcState) => { w with fifos := w.fifos.map (fun f => { f with queue := f.queue.map g }) }
  let home := fun (h : HomeState) => { h with inbox := h.inbox.map g }
  { s with
    lft := { s.lft with
      ports := s.lft.ports.map (fun x => (x.1, port x.2)), spray := s.lft.spray.map (fun x => (x.1, { x.2 with held := pairs x.2.held })),
      barrierTx := s.lft.barrierTx.map (fun x => (x.1, { x.2 with held := pairs x.2.held })), sprayIn := pairs s.lft.sprayIn,
      reseq := s.lft.reseq.map (fun x => (x.1, { x.2 with held := x.2.held.map (fun y => (y.1, g y.2)) })) },
    swc := ⟨swc s.swc.d0, swc s.swc.d1⟩, home := ⟨home s.home.d0, home s.home.d1⟩ }

/-- Frames that came in on a sub-link are no longer charged to it: its counters of cells start anew. -/
def forgetSource (p k : Nat) (s : State) : State :=
  mapDescs (fun x => if x.source = some (p, k) then { x with source := none } else x) s

/-- Discard the frames of a die's FIFOs that a test accepts, and count them at a port. -/
def discardQueued (d : Die) (p : Nat) (gone : Output → Desc → Bool) (s : State) : State :=
  let fs := (side s.swc d).fifos
  let out := fs.flatMap (fun f => f.queue.filter (gone f.out))
  let s1 := modSwc s d (fun w => { w with
    fifos := (w.fifos.map (fun f => { f with queue := f.queue.filter (fun x => !gone f.out x) })).filter (fun f => !f.queue.isEmpty) })
  countDiscard p out.length (out.foldl (fun t x => letGo d x t) s1)

/-- A sub-link leaves service: the frames in its replay buffer and those queued for it are discarded and counted (R138). -/
def clearSub (p k : Nat) (s : State) : State :=
  let n := (subOf s p k).replay.length
  let s1 := discardQueued (portDie p) p (fun o _ => o == .sub p k) s
  modSub (forgetSource p k (countDiscard p n s1)) p k (fun _ => {})

/-- A sub-link leaves service or fails to enter it; LINK_DOWN is set, and the event is reported to the failure detector (R138). -/
def linkDown (p k : Nat) (s : State) : State :=
  modFlt (setStatus (.prt p) 9 (clearSub p k s)) (fun t => { t with failedLinks := insertNat (p * 8 + k) t.failedLinks })

/-- A sub-link in service is reported as failed no longer. -/
def linkUp (p k : Nat) (s : State) : State := modFlt s (fun t => { t with failedLinks := t.failedLinks.filter (· != p * 8 + k) })

/-- SUBLINK_LOCK_LOSS: loss of PCS or FEC lock (R138). -/
def execSublinkLockLoss (port sub : Nat) (s : State) : Host.Outcome State Fault Refusal :=
  if (subOf s port sub).phase = .down then linkOk s else linkOk (linkDown port sub s)

/-- SUBLINK_RX_TIMEOUT: no frame received for 100 µs (R138). -/
def execSublinkRxTimeout (port sub : Nat) (s : State) : Host.Outcome State Fault Refusal :=
  if (subOf s port sub).phase = .up then linkOk (linkDown port sub s) else linkOk s

/-- SUBLINK_REPLAY_LIMIT: eight replays without advance of ACK_SEQ; REPLAY_EXHAUST is set too (R138, R147). -/
def execSublinkReplayLimit (port sub : Nat) (s : State) : Host.Outcome State Fault Refusal :=
  let x := subOf s port sub
  if x.phase = .up ∧ 8 ≤ x.replays then linkOk (setStatus (.prt port) 10 (linkDown port sub s)) else linkOk s

/-- SUBLINK_BRINGUP_TIMEOUT: bring-up not complete within 100 ms (R138). -/
def execSublinkBringupTimeout (port sub : Nat) (s : State) : Host.Outcome State Fault Refusal :=
  let ph := (subOf s port sub).phase
  if ph = .keying ∨ ph = .init then linkOk (linkDown port sub s) else linkOk s

/-! Key agreement (R418 to R420) -/

/-- Is this switch the initiator of a port's agreements? On inter-switch ports the lower switch ID is; on every other the peer. -/
def kaInitiator (s : State) (p : Nat) : Bool := portRole s p == 4 && decide (s.cfg.switchId < portPeer s p)

/-- IDENT of this switch. -/
def kaIdent (s : State) : Bytes := toLE 2 s.cfg.switchId ++ zeros 2 ++ toLE 4 (federationId s) ++ ownerDigest s ++ dakCert s ++ devCert s

/-- The length of IDENT. -/
def identLen : Nat := 59848

/-- Does this end accept the peer's IDENT (R419)? -/
def identOk (s : State) (p : Nat) (b : Bytes) : Bool :=
  Config.certOk (b.drop 40) && slice b 8 32 == ownerDigest s && le b 4 4 == federationId s && le b 0 2 == portPeer s p && zeroAt b 2 2

/-- Does a signature by the DAK of an IDENT verify? -/
def identSigned (ident covered sig : Bytes) : Bool := Config.slhDsaOk (slice ident 80 64) covered sig

/-- SHAKE256 with 256 bits of output. -/
def kaHash (b : Bytes) : Bytes := fit (Config.shake256 b 32) 32

/-- The key-agreement frames of a message (R418). -/
def kaFrames (msg : Nat) (b : Bytes) : List Bytes :=
  let cs := chunksOf (b.length / 4000 + 1) 4000 b
  (rangeFrom 0 cs.length).map (fun i => toLE 1 msg ++ toLE 1 i ++ toLE 1 cs.length ++ zeros 1 ++ toLE 4 b.length ++ nth cs i [])

/-- Send a message of an agreement. -/
def kaSend (p k msg : Nat) (b : Bytes) (s : State) : State :=
  modLft (modSub s p k (fun x => { x with ka := { x.ka with lastSent := msg } }))
    (fun l => { l with kaSent := l.kaSent ++ (kaFrames msg b).map (fun f => (p, k, f)) })

/-- The initiator starts an agreement with KA_HELLO. The key pair and NONCE_I are free values. -/
def startKa (p k : Nat) (s : State) : State :=
  match drawFree s with
  | (n, s1) =>
    let pre := fit (Config.kemPublic n) 1568 ++ fit (Config.freeBytes n 32) 32 ++ kaIdent s
    let hello := pre ++ fit (Config.slhDsaSign 1 pre) 29792
    kaSend p k 1 hello (modSub s1 p k (fun x => { x with ka := { x.ka with hello := hello, reply := [], done := [], secret := n } }))

/-- Step 3 of R137, or on a PFC link, which has no LINK_* exchange, service at once (R139). -/
def afterKeys (p k : Nat) (s : State) : State :=
  if portPfc s p then linkUp p k (modSub s p k (fun x => { x with phase := .up })) else modSub s p k (fun x => { x with phase := .init })

/-- Both keys and salts are installed under the next association number; packet numbers start anew under them (R144, R419, R420). -/
def installKeys (p k : Nat) (ss t : Bytes) (s : State) : State :=
  let s1 := modSub s p k (fun x => { x with
    ka := { x.ka with
      okm := fit (Config.kmac256 ss t 88 11) 88, assoc := if x.ka.keyed then (x.ka.assoc + 1) % 4 else 0, keyed := true, txPn := 0, rxPn := 0 } })
  if (subOf s1 p k).phase = .keying then afterKeys p k s1 else s1

/-- An agreement is refused: PEER_MISMATCH and LINK_AUTH_FAIL; the sub-link stays down (R419, R423). -/
def kaRefuse (p k : Nat) (s : State) : State :=
  setStatus .sec 4 (setStatus (.prt p) 11 (modSub s p k (fun x => { x with ka := { x.ka with hello := [], reply := [], done := [], lastSent := 0 } })))

/-- May key-agreement messages be taken: in step 2 of R137 and during rekeying? -/
def kaMay (s : State) (p k : Nat) : Bool :=
  let ph := (subOf s p k).phase
  portMacsec s p && (ph == .keying || (ph == .up && (subOf s p k).ka.keyed))

/-- KA_HELLO arrives at the responder, which answers with KA_REPLY; a message sent again is answered again (R418, R419). Its secret and
NONCE_R are free values. -/
def execKaHello (port sub : Nat) (msg : Bytes) (s : State) : Host.Outcome State Fault Refusal :=
  let x := subOf s port sub
  let kwamar := portRole s port == 4
  let ident := slice msg 1600 identLen
  if !kaMay s port sub || kaInitiator s port then linkOk s
  else if x.ka.hello = msg ∧ x.ka.lastSent = 2 then linkOk (kaSend port sub 2 x.ka.reply s)
  else if msg.length ≠ (if kwamar then 1600 + identLen + 29792 else 1600) then linkOk (kaRefuse port sub s)
  else if kwamar && !(identOk s port ident && identSigned ident (msg.take (1600 + identLen)) (msg.drop (1600 + identLen))) then
    linkOk (kaRefuse port sub s)
  else
    match drawFree s with
    | (n, s1) =>
      let pre := fit (Config.kemEncaps (msg.take 1568) n).1 1568 ++ fit (Config.freeBytes n 32) 32 ++ kaIdent s
      let reply := pre ++ fit (Config.slhDsaSign 1 (kaHash msg ++ pre)) 29792
      linkOk (kaSend port sub 2 reply (modSub s1 port sub (fun y => { y with ka := { y.ka with hello := msg, reply := reply, done := [], secret := n } })))

/-- KA_REPLY arrives at the initiator: checked, answered with KA_DONE, and the keys are installed (R418, R419). -/
def execKaReply (port sub : Nat) (msg : Bytes) (s : State) : Host.Outcome State Fault Refusal :=
  let x := subOf s port sub
  let ident := slice msg 1600 identLen
  let n := 1600 + identLen
  if !kaMay s port sub || !kaInitiator s port || x.ka.lastSent ≠ 1 then linkOk s
  else if msg.length ≠ n + 29792 || !identOk s port ident || !identSigned ident (kaHash x.ka.hello ++ msg.take n) (msg.drop n) then
    linkOk (kaRefuse port sub s)
  else
    let t := kaHash (x.ka.hello ++ msg)
    let ss := Config.kemDecaps x.ka.secret (msg.take 1568)
    let done := fit (Config.kmac256 ss t 32 10) 32
    let s1 := modSub s port sub (fun y => { y with ka := { y.ka with reply := msg, done := done } })
    linkOk (installKeys port sub ss t (kaSend port sub 3 done s1))

/-- KA_DONE arrives at the responder: with the right confirmation the keys are installed (R418, R419). -/
def execKaDone (port sub : Nat) (msg : Bytes) (s : State) : Host.Outcome State Fault Refusal :=
  let x := subOf s port sub
  if !kaMay s port sub || kaInitiator s port || x.ka.lastSent ≠ 2 then linkOk s
  else
    let t := kaHash (x.ka.hello ++ x.ka.reply)
    let ss := (Config.kemEncaps (x.ka.hello.take 1568) x.ka.secret).2
    if msg = fit (Config.kmac256 ss t 32 10) 32 then
      linkOk (installKeys port sub ss t (modSub s port sub (fun y => { y with ka := { y.ka with done := msg, lastSent := 0 } })))
    else linkOk (kaRefuse port sub s)

/-- KA_RESEND: a message not followed by the next one within 10 ms is resent whole (R419). -/
def execKaResend (port sub : Nat) (s : State) : Host.Outcome State Fault Refusal :=
  let x := subOf s port sub
  if !kaMay s port sub then linkOk s
  else if x.ka.lastSent = 1 then linkOk (kaSend port sub 1 x.ka.hello s)
  else if x.ka.lastSent = 2 then linkOk (kaSend port sub 2 x.ka.reply s)
  else linkOk s

/-- LINK_REKEY: a new agreement on a sub-link in service; where the peer is the initiator, its KA_HELLO starts it (R420). -/
def execLinkRekey (port sub : Nat) (s : State) : Host.Outcome State Fault Refusal :=
  if (subOf s port sub).phase = .up ∧ kaMay s port sub ∧ kaInitiator s port then linkOk (startKa port sub s) else linkOk s

/-! Bring-up (R137) -/

/-- LINK_TRAINING_DONE: step 1 is complete; on a MACsec port the key agreement begins, on another the LINK_INIT exchange (R137, R418). -/
def execLinkTrainingDone (port sub : Nat) (s : State) : Host.Outcome State Fault Refusal :=
  if !subThere s port sub || (subOf s port sub).phase != .down then linkOk s
  else if portMacsec s port then
    let s1 := modSub s port sub (fun x => { x with phase := .keying })
    linkOk (if kaInitiator s port then startKa port sub s1 else s1)
  else linkOk (afterKeys port sub s)

/-- LINK_INIT_SEND: every 10 µs until the peer's LINK_INIT has been received (R137 step 3). -/
def execLinkInitSend (port sub : Nat) (s : State) : Host.Outcome State Fault Refusal :=
  let x := subOf s port sub
  if x.phase = .init ∧ !x.peerInit then linkOk (sendLink port sub Opc.linkInit (initPayload s port sub) s) else linkOk s

/-- The peer's LINK_INIT passes the checks of step 4. -/
def initOk (s : State) (p : Nat) (b : Bytes) : Bool :=
  le b 0 2 == 1 && ((le b 2 1 == 4) == (portRole s p == 4)) &&
    (portRole s p != 4 || epSwitch (le b 4 4 % 2 ^ 20) == portPeer s p) && decide (68 ≤ le b 44 4)

/-- Step 4 of R137, and step 5 where it succeeds. -/
def checkInit (p k : Nat) (b : Bytes) (srcMac : Nat) (s : State) : State :=
  if !initOk s p b then setStatus (.prt p) 11 s
  else
    let s1 := modSub s p k (fun x => { x with
      peerInit := true, peerMac := srcMac, peerEp := le b 4 4 % 2 ^ 20, peerReplay := le b 8 4,
      limits := (rangeFrom 0 8).map (fun tc => le b (16 + 4 * tc) 4) })
    sendCredit p k s1

/-- A LINK_INIT is taken: in bring-up it is checked; in service it means the peer has restarted, so the sub-link leaves service and bring-up
restarts at step 3, with this LINK_INIT checked (R137). One of another length is discarded and counted (DESIGN CHOICE, log 181). -/
def takeInit (p k : Nat) (f : Frame) (srcMac : Nat) (s : State) : State :=
  let x := subOf s p k
  if f.payload.length ≠ 48 || portPfc s p then countDiscard p 1 s
  else
    match x.phase with
    | .init => checkInit p k f.payload srcMac s
    | .up =>
      let s1 := linkDown p k s
      checkInit p k f.payload srcMac (modSub s1 p k (fun y => { y with phase := .init, ka := x.ka }))
    | .down => s
    | .keying => s

/-- LINK_INIT: a peer's LINK_INIT (R137). -/
def execLinkInit (port sub : Nat) (f : Frame) (srcMac : Nat) (s : State) : Host.Outcome State Fault Refusal := linkOk (takeInit port sub f srcMac s)

/-- A LINK_CREDIT is taken: the cumulative counters replace the last ones; the first, after the peer's LINK_INIT, brings the sub-link into
service (R134, R137 step 6). One of another length is discarded and counted (DESIGN CHOICE, log 181). -/
def takeCredit (p k : Nat) (f : Frame) (s : State) : State :=
  let x := subOf s p k
  let vals := (rangeFrom 0 8).map (fun tc => le f.payload (4 * tc) 4)
  if f.payload.length ≠ 32 || portPfc s p then countDiscard p 1 s
  else if x.phase = .up then
    let back := (nth vals 7 0 + 2 ^ 32 - nth x.cellsReturned 7 0 % 2 ^ 32) % 2 ^ 32
    modSub s p k (fun y => { y with cellsReturned := vals, tc7Out := returnCells back y.tc7Out })
  else if x.phase = .init ∧ x.peerInit then linkUp p k (modSub s p k (fun y => { y with phase := .up, cellsReturned := vals, txSeq := 0 }))
  else s

/-- LINK_CREDIT: a peer's LINK_CREDIT (R134). -/
def execLinkCredit (port sub : Nat) (f : Frame) (s : State) : Host.Outcome State Fault Refusal := linkOk (takeCredit port sub f s)

/-- The entries of a port's write record for TC0 and TC3 writes. -/
def writeRecCount (s : State) (p : Nat) : Nat := ((portOf s p).writeRec.filter (fun e => !e.tc7)).length

/-- Is the TC0 and TC3 part of a port's write record full (R176)? -/
def writeRecFull (s : State) (p : Nat) : Bool := decide (8192 ≤ writeRecCount s p)

/-- LINK_CREDIT_SEND: the cells that have left their allocation are returned (R134), but for those withheld by the auditor (R157), by a full
write record (R176), or once by a CREDIT_HOLD rule (R467; DESIGN CHOICE, log 57). Frames that a stop holds have not left it. -/
def execLinkCreditSend (port sub : Nat) (s : State) : Host.Outcome State Fault Refusal :=
  let x := subOf s port sub
  if portPfc s port || !(x.phase == .up || (x.phase == .init && x.peerInit)) then linkOk s
  else
    let hold := fun (tc : Nat) => ((side s.swc (portDie port)).withhold && tc != 7) || ((tc == 0 || tc == 3) && writeRecFull s port)
    let keep := fun (y : SubState) (tc : Nat) => if hold tc then nth y.unreturned tc 0 else min (nth y.creditHold tc 0) (nth y.unreturned tc 0)
    let move := fun (y : SubState) => { y with
      returned := (rangeFrom 0 8).map (fun tc => (nth y.returned tc 0 + (nth y.unreturned tc 0 - keep y tc)) % 2 ^ 32),
      unreturned := (rangeFrom 0 8).map (keep y),
      creditHold := [0, 0, 0, 0, 0, 0, 0, 0] }
    linkOk (sendCredit port sub (modSub s port sub move))

/-! Replay (R136) -/

/-- A LINK_NAK is taken: every held frame from the named number onward is resent (R136). One of another length is discarded and counted
(DESIGN CHOICE, log 181). -/
def takeNak (p k : Nat) (f : Frame) (s : State) : State :=
  let x := subOf s p k
  let from_ := le f.payload 0 4 % 2 ^ 24
  if f.payload.length ≠ 4 || portPfc s p then countDiscard p 1 s
  else if x.phase ≠ .up then s
  else resendFrames p k (x.replay.filter (fun h => h.lseq.toNat == from_ || newer 24 h.lseq.toNat from_)) s

/-- LINK_NAK (R136). -/
def execLinkNak (port sub : Nat) (f : Frame) (s : State) : Host.Outcome State Fault Refusal := linkOk (takeNak port sub f s)

/-- LINK_NAK_REPEAT: a receiver without progress for 20 µs repeats its LINK_NAK (R136). -/
def execLinkNakRepeat (port sub : Nat) (s : State) : Host.Outcome State Fault Refusal :=
  let x := subOf s port sub
  if x.phase = .up ∧ x.nakSent then linkOk (sendNak port sub s) else linkOk s

/-- REPLAY_TIMEOUT: the oldest held frame has waited 20 µs; every held frame is resent (R136). -/
def execReplayTimeout (port sub : Nat) (s : State) : Host.Outcome State Fault Refusal :=
  let x := subOf s port sub
  if x.phase = .up then linkOk (resendFrames port sub x.replay s) else linkOk s

/-! PFC (R139) -/

/-- PFC_FRAME: a nonzero pause stops the priority's egress, a zero one resumes it (R139). -/
def execPfcFrame (port sub : Nat) (prio quanta : Nat) (s : State) : Host.Outcome State Fault Refusal :=
  if portPfc s port ∧ (subOf s port sub).phase = .up then
    linkOk (modSub s port sub (fun x => { x with paused := setAt x.paused prio (quanta != 0) }))
  else linkOk s

/-- PFC_PAUSE_EXPIRY: the pause time of a priority has run out (R139). -/
def execPfcPauseExpiry (port sub prio : Nat) (s : State) : Host.Outcome State Fault Refusal :=
  linkOk (modSub s port sub (fun x => { x with paused := setAt x.paused prio false }))

/-- PFC_XOFF_REFRESH: XOFF again for each class still paused (R139). -/
def execPfcXoffRefresh (port sub : Nat) (s : State) : Host.Outcome State Fault Refusal :=
  if portPfc s port ∧ (subOf s port sub).phase = .up then
    linkOk (((rangeFrom 0 8).filter (fun tc => nth (subOf s port sub).xoff tc false)).foldl (fun t tc => sendPfc port sub tc 0xFFFF t) s)
  else linkOk s

/-- FEC_DEGRADE_CHECK: more than 1 corrected symbol in 10^5 sets FEC_DEGRADE (R147). FEC_CORR counts the corrected codewords, of which the
manual fixes no number for the symbols: a free value between one for 15 symbols and one for each (log 51). -/
def execFecDegradeCheck (port symbols corrected : Nat) (s : State) : Host.Outcome State Fault Refusal :=
  match drawFree s with
  | (n, s1) =>
    let lo := ceilDiv corrected 15
    let words := lo + (Config.freeValue n).toNat % (corrected - lo + 1)
    let s2 := modPort s1 port (fun x => { x with fecCorr := satAdd x.fecCorr words (2 ^ 64 - 1) })
    linkOk (if symbols < corrected * 100000 then setStatus (.prt port) 7 s2 else s2)

/-! Port resets (R397) -/

/-- Is a frame kept at the egress of a port in reset (R397 step 4)? -/
def keptAtReset (x : Desc) : Bool := isFwd x.frame.opcode || x.frame.opcode == Opc.event

/-- Discard and count what came in on a port and has not left its ingress allocation: at the input of the home, in a resequencer. -/
def discardIngress (p : Nat) (s : State) : State :=
  let d := portDie p
  let mine := fun (x : Desc) => x.source.elim false (fun q => q.1 == p)
  let here := (side s.home d).inbox.filter mine
  let kept := s.lft.reseq.flatMap (fun r => (r.2.held.filter (fun x => mine x.2)).map (·.2))
  let s1 := here.foldl (fun t x => dropInbox d (x.frame :: x.more) t) s
  let s2 := modLft s1 (fun l => { l with reseq := l.reseq.map (fun r => (r.1, { r.2 with held := r.2.held.filter (fun x => !mine x.2) })) })
  countDiscard p (here.length + kept.length) ((here ++ kept).foldl (fun t x => letGo d x t) s2)

/-- Steps 1, 2, 4 and 5 of a port reset. -/
def resetPort (p job : Nat) (s : State) : State :=
  let d := portDie p
  let held := (heldAt (portOf s p)) ++ (portOf s p).acquires
  let own := s.lft.sprayIn.filter (fun x => x.2.source.elim false (fun q => q.1 == p))
  let s1 := modPort s p (fun x => { withoutHeld (fun _ => true) x with acquires := [], writeRec := [], asked := [], resetJob := some job })
  let s2 := modLft s1 (fun l => { l with sprayIn := l.sprayIn.filter (fun x => !(x.2.source.elim false (fun q => q.1 == p))) })
  let s3 := countDiscard p (held.length + own.length) ((held.map (·.desc) ++ own.map (·.2)).foldl (fun t x => letGo d x t) s2)
  let s4 := discardQueued d p (fun _ x => x.source.elim false (fun q => q.1 == p)) (discardIngress p s3)
  let s5 := discardQueued d p (fun o x => !keptAtReset x && (match o with | .sub q _ => q == p | _ => false)) s4
  (portSubs s p).foldl (fun t k => modSub (forgetSource p k t) p k (fun _ => {})) s5

/-- PORT_RESET's own part: answered before step 1 (R397). A port in reset already has its reset begun again, and the earlier job ends with
the later one's result (DESIGN CHOICE, log 52). -/
def portResetOwn (r : CtlReq) (s : State) : State :=
  let p := le r.args 0 4
  match newJob 0x41 r.srcEp.toNat r.ctx.toNat [p] s with
  | (j, s1) => resetPort p j (jobAnswer 0x41 r j s1)

/-- PORT_RESET (R397). -/
def execPortReset (r : CtlReq) (s : State) : Host.Outcome State Fault Refusal := linkOk (runCtl 0x41 r (portResetOwn r) s)

/-- PORT_RESET_COMPLETE: OK when every sub-link is in service; else ABORTED, and the others are reported as failed (R397 step 6). -/
def execPortResetComplete (port : Nat) (s : State) : Host.Outcome State Fault Refusal :=
  match (portOf s port).resetJob with
  | none => linkOk s
  | some _ =>
    let bad := (portSubs s port).filter (fun k => (subOf s port k).phase != .up)
    let s1 := modPort (bad.foldl (fun t k => linkDown port k t) s) port (fun x => { x with resetJob := none })
    let st := if bad.isEmpty then Sts.ok else Sts.aborted
    linkOk ((s.cfg.jobs.filter (fun j => j.code == 0x41 && j.args == [port])).foldl (fun t j => jobDone j.num st 0 t) s1)

end Machine
end Sys2Proof
end

