-- ==== Sys2Proof/Machine/Paths.lean ====
section
/-! DEFINITION. Paths between switches (R140 to R143): resequencing, its acknowledgements, path barriers. -/

namespace Sys2Proof
namespace Machine

/-! Resequencing (R142) -/

/-- Has this switch a reorder slot for the stream of a class from a switch (R142, R146)? -/
def hasSlot (s : State) (sw tc : Nat) : Bool := decide (tc ≤ 2) && (recOf s RT.route sw).elim false (fun b => bitAt (le b 2 1) tc)

/-- The resequencer of a stream. -/
def reseqOf (s : State) (sw tc : Nat) : Reseq := getD s.lft.reseq (sw * 8 + tc) {}

/-- The state with a resequencer changed. -/
def modReseq (s : State) (sw tc : Nat) (g : Reseq → Reseq) : State := modLft s (fun l => { l with reseq := changeD l.reseq (sw * 8 + tc) {} g })

/-- Send RESEQ_ACK of a stream to its entry switch. The header fields that no rule gives are zero (DESIGN CHOICE, log 50). -/
def sendReseqAck (sw tc : Nat) (s : State) : State :=
  let d := reseqDie s sw
  let s1 := modReseq s sw tc (fun r => { r with unacked := 0 })
  sendRaw d { opcode := Opc.reseqAck, tc := 7#3, srcEp := BitVec.ofNat 20 (agentEp s d), addr := epAddr (sw * 256 + 0xFE) 0, length := 8#16,
              payload := toLE 1 tc ++ zeros 3 ++ toLE 4 (reseqOf s sw tc).next } s1

/-- Release the frame of a slot position to its output. -/
def releaseAt (sw tc pos : Nat) (s : State) : State :=
  match get? (reseqOf s sw tc).held pos with
  | none => s
  | some x => putOnWay (reseqDie s sw) x 0 (modReseq s sw tc (fun r => { r with held := del r.held pos }))

/-- Release frames in order as long as the next number is held, at most n of them (R142); 16 releases are acknowledged. -/
def releaseRun (n sw tc : Nat) (s : State) : State :=
  match n with
  | 0 => s
  | m + 1 =>
    let r := reseqOf s sw tc
    if (get? r.held (r.next % 64)).isNone then s
    else
      let s1 := modReseq (releaseAt sw tc (r.next % 64) s) sw tc (fun q => { q with next := (r.next + 1) % 2 ^ 32, unacked := r.unacked + 1 })
      releaseRun m sw tc (if 16 ≤ r.unacked + 1 then sendReseqAck sw tc s1 else s1)

/-- A sprayed frame that stands on RX_DIE enters its resequencer. It keeps its ingress allocation until its output takes it; one that crossed the
stalk is charged to the reorder reserve from here on (R142, R152). -/
def resequence (x : Desc) (s : State) : State :=
  let sw := epSwitch x.frame.srcEp.toNat
  let tc := x.frame.tc.toNat
  releaseRun 64 sw tc (modReseq s sw tc (fun r => { r with held := put r.held (x.trailer.spreadSeq.toNat % 64) { x with viaStalk := false } }))

/-- A sprayed frame for this switch is steered to its resequencer on RX_DIE, over the stalk from the other die (R142). -/
def steer (d : Die) (x : Desc) (s : State) : State :=
  if reseqDie s (epSwitch x.frame.srcEp.toNat) = d then modLft s (fun l => { l with sprayIn := l.sprayIn ++ [(dieNum d, x)] })
  else pushOut d .stalk x s

/-- SPRAYED_FRAME_RESEQUENCE (R142). -/
def execSprayedFrameResequence (d : Die) (f : Frame) (s : State) : Host.Outcome State Fault Refusal :=
  let it := fun (x : Nat × Desc) => x.2.frame == f && reseqDie s (epSwitch f.srcEp.toNat) == d
  match s.lft.sprayIn.find? it with
  | none => linkOk s
  | some (_, x) => linkOk (resequence x (modLft s (fun l => { l with sprayIn := dropFirst it l.sprayIn })))

/-- RESEQ_ACK_TIMER: 2 µs after a release not yet acknowledged (R142). -/
def execReseqAckTimer (sw tc : Nat) (s : State) : Host.Outcome State Fault Refusal :=
  if (reseqOf s sw tc).unacked = 0 then linkOk s else linkOk (sendReseqAck sw tc s)

/-- Frames beyond a stream's window are sent as far as the window now allows. -/
def releaseWindow (sw tc : Nat) (s : State) : State :=
  let k := sw * 8 + tc
  let st := getD s.lft.spray k {}
  st.held.foldl (fun t x => enter (dieOf x.1) x.2 0 t) (modLft s (fun l => { l with spray := put l.spray k { st with held := [] } }))

/-- RESEQ_ACK: the window of the stream advances (R142). While a path barrier runs, what waits goes on waiting (R141, R143). -/
def execReseqAck (d : Die) (f : Frame) (s : State) : Host.Outcome State Fault Refusal :=
  let s1 := takeAgent d f s
  let sw := epSwitch f.srcEp.toNat
  let tc := le f.payload 0 1
  if 2 < tc ∨ f.payload.length ≠ 8 then linkOk s1
  else
    let s2 := modLft s1 (fun l => { l with spray := changeD l.spray (sw * 8 + tc) {} (fun r => { r with acked := le f.payload 4 4 }) })
    linkOk (if (get? s2.lft.barrierTx sw).isSome then s2 else releaseWindow sw tc s2)

/-! Path barriers (R143) -/

/-- The live paths toward a switch: those of its ROUTE record whose port is in service. -/
def liveNow (s : State) (sw : Nat) : List Nat :=
  (rangeFrom 0 (pathCount s sw)).filterMap (fun i =>
    match nextPort s sw i with
    | some p => if (subOf s p 0).phase = .up then some (i * 256 + p) else none
    | none => none)

/-- A PATH_BARRIER of a class on a path. It is sent from the die that does not hold the path's port, so that it follows the frames of its class and
path that still cross the stalk, as well as those in the port's FIFO (R143). The header fields that no rule gives are zero (DESIGN CHOICE,
log 50). -/
def sendBarrier (sw id n tc path : Nat) (s : State) : State :=
  let p := path % 256
  let value := if sprayed s sw tc then (getD s.lft.spray (sw * 8 + tc) {}).nextNum else 0
  let d := otherDie (portDie p)
  let f : Frame := { opcode := Opc.pathBarrier, tc := BitVec.ofNat 3 tc, srcEp := BitVec.ofNat 20 (agentEp s d),
                     addr := BitVec.ofNat 64 (sw * 2 ^ 52), length := 12#16, payload := toLE 4 id ++ toLE 1 n ++ zeros 3 ++ toLE 4 value }
  match allocCells d 1 s with
  | (cells, s1) => pushOut d .stalk { frame := f, cells := cells, trailer := { path := BitVec.ofNat 3 (path / 256) }, via := some p, agent := true } s1

/-- Start a path barrier toward a switch, steps 1 and 2: on each old path still live, or if there is none on each new path. -/
def startBarrier (sw : Nat) (s : State) : State :=
  let now := liveNow s sw
  let old := (getD s.lft.livePaths sw []).filter (fun c => (subOf s (c % 256) 0).phase == .up)
  let on := if old.isEmpty then now else old
  let id := s.lft.nextBarrier
  let held := ((get? s.lft.barrierTx sw).elim [] (·.held))
  let s1 := modLft s (fun l => { l with nextBarrier := (id + 1) % 2 ^ 32, barrierTx := put l.barrierTx sw ⟨id, now, held⟩ })
  on.foldl (fun t c => (rangeFrom 0 8).foldl (fun u tc => sendBarrier sw id on.length tc c u) t) s1

/-- PATH_BARRIER_START: the set of live paths toward a switch has changed (R143). -/
def execPathBarrierStart (sw : Nat) (s : State) : Host.Outcome State Fault Refusal :=
  let before := match get? s.lft.barrierTx sw with
    | some b => b.paths
    | none => getD s.lft.livePaths sw []
  if answersFor s sw || liveNow s sw == before then linkOk s else linkOk (startBarrier sw s)

/-- The number of held positions from the next one on that the barrier releases, in the order of their numbers. -/
def releaseHeld (sw tc : Nat) (s : State) : State :=
  let r := reseqOf s sw tc
  (rangeFrom r.next 64).foldl (fun t n => releaseAt sw tc (n % 64) t) s

/-- Step 4 for a sprayed class: what is held is released, and NEXT takes the barrier's value; the numbers passed over count as releases
to acknowledge, at once where they are 16 or more (R142; DEDUCED, log 53). -/
def passBarrier (sw tc value : Nat) (s : State) : State :=
  if !hasSlot s sw tc then s
  else
    let r := reseqOf s sw tc
    let n := r.unacked + (value + 2 ^ 32 - r.next) % 2 ^ 32
    let s1 := modReseq (releaseHeld sw tc s) sw tc (fun q => { q with next := value, unacked := n })
    if 16 ≤ n then sendReseqAck sw tc s1 else s1

/-- Is a frame of a class from a switch still crossing from one die to the other? -/
def crossing (s : State) (sw tc : Nat) : Bool :=
  let mine := fun (x : Desc) => x.frame.opcode != Opc.pathBarrier && x.frame.tc.toNat == tc && epSwitch x.frame.srcEp.toNat == sw
  let on := fun (d : Die) => (fifoOf s d .stalk tc).any mine || (side s.swc d).stalkIn.any (fun m => mine m.desc)
  on .d0 || on .d1

/-- PATH_BARRIER arrives at the destination (R143 steps 3 to 5). Sprayed frames that came before it are resequenced first, and it waits for
frames that still cross the stalk, so that order holds through the change of paths (R141). -/
def execPathBarrier (d : Die) (f : Frame) (s : State) : Host.Outcome State Fault Refusal :=
  let s0 := takeAgent d f s
  let sw := epSwitch f.srcEp.toNat
  let id := le f.payload 0 4
  let n := le f.payload 4 1
  let mine := fun (x : Nat × Desc) => epSwitch x.2.frame.srcEp.toNat == sw
  if f.payload.length ≠ 12 ∨ n = 0 then linkOk s0
  else if crossing s sw f.tc.toNat then linkOk s
  else
    let s1 := (s0.lft.sprayIn.filter mine).foldl (fun t x => resequence x.2 t) (modLft s0 (fun l => { l with sprayIn := l.sprayIn.filter (fun x => !mine x) }))
    let fresh : BarrierRx := ⟨id, n, [0, 0, 0, 0, 0, 0, 0, 0], [0, 0, 0, 0, 0, 0, 0, 0]⟩
    let b := match get? s1.lft.barrierRx sw with
      | some x => if x.id = id then x else if newer 32 id x.id then fresh else x
      | none => fresh
    if b.id ≠ id then linkOk s1
    else
      let b2 : BarrierRx := { b with got := modAt b.got f.tc.toNat (· + 1), values := setAt b.values f.tc.toNat (le f.payload 8 4) }
      if b2.got.all (fun c => decide (n ≤ c)) then
        let s2 := (rangeFrom 0 3).foldl (fun t tc => passBarrier sw tc (nth b2.values tc 0) t) s1
        let s3 := modLft s2 (fun l => { l with barrierRx := del l.barrierRx sw })
        linkOk (sendRaw d { opcode := Opc.pathBarrierAck, tc := 7#3, srcEp := BitVec.ofNat 20 (agentEp s d), addr := epAddr f.srcEp.toNat 0,
                            length := 4#16, payload := toLE 4 id } s3)
      else linkOk (modLft s1 (fun l => { l with barrierRx := put l.barrierRx sw b2 }))

/-- PATH_BARRIER_ACK: the entry switch resumes on the new path set (R143 step 6). -/
def execPathBarrierAck (d : Die) (f : Frame) (s : State) : Host.Outcome State Fault Refusal :=
  let s1 := takeAgent d f s
  let sw := epSwitch f.srcEp.toNat
  match get? s1.lft.barrierTx sw with
  | none => linkOk s1
  | some b =>
    if b.id ≠ le f.payload 0 4 then linkOk s1
    else
      let s2 := modLft s1 (fun l => { l with barrierTx := del l.barrierTx sw, livePaths := put l.livePaths sw b.paths })
      linkOk (b.held.foldl (fun t x => enter (dieOf x.1) x.2 0 t) ((rangeFrom 0 3).foldl (fun t tc => releaseWindow sw tc t) s2))

/-- PATH_BARRIER_TIMEOUT: the destination is reported unreachable to the failure detector; the held requests are answered HOMELOST (R143). The
barrier stays open: the switch
goes on when it is acknowledged or when the paths change again (DESIGN CHOICE, log 54). -/
def execPathBarrierTimeout (sw : Nat) (s : State) : Host.Outcome State Fault Refusal :=
  match get? s.lft.barrierTx sw with
  | none => linkOk s
  | some b =>
    let req := fun (x : Nat × Desc) => isReq x.2.frame.opcode
    let s0 := modFlt s (fun t => { t with unreachable := insertNat sw t.unreachable })
    let s1 := modLft s0 (fun l => { l with barrierTx := put l.barrierTx sw { b with held := b.held.filter (fun x => !req x) } })
    linkOk ((b.held.filter req).foldl (fun t x => refuse (dieOf x.1) x.2.frame Sts.homelost (letGo (dieOf x.1) x.2 t)) s1)

end Machine
end Sys2Proof
end

