-- ==== Sys2Proof/Machine/Bitstream.lean ====
section
/-! DEFINITION. Reading a bitstream out of a slot and the checks of BS_END (R89 to R93, R96). -/

namespace Sys2Proof
namespace Machine

/-- The largest TOTAL_LENGTH of a slot's kind (R93). -/
def slotLimit (isP : Bool) : Nat := if isP then 67108864 else 536870912

/-- The bytes of a slot, in order of offset. -/
def bsBytes (x : SlotState) : Bytes := x.bytes.map (·.2)

/-- The slot of a name. -/
def slotOf (s : State) (x : Slot) : SlotState :=
  match x with
  | .a => s.cfg.slotA
  | .b => s.cfg.slotB
  | .p => s.cfg.slotP

/-- The state with a slot changed. -/
def modSlot (s : State) (x : Slot) (g : SlotState → SlotState) : State :=
  match x with
  | .a => modCfg s (fun c => { c with slotA := g c.slotA })
  | .b => modCfg s (fun c => { c with slotB := g c.slotB })
  | .p => modCfg s (fun c => { c with slotP := g c.slotP })

/-- A bitstream is activated: the anti-rollback counter rises to its ROLLBACK_VERSION (R97). A full bitstream is activated when it comes to
define the running record set (R94, DEDUCED, log 55), a partial when its BS_ACTIVATE is accepted. -/
def raiseArb (v : Nat) (s : State) : State :=
  if s.sec.bsArb < v then setStatus .cfg 0 (modSec s (fun x => { x with bsArb := v })) else s

/-- The slot of a number in a command (R492). -/
def slotNum (n : Nat) : Option Slot := if n = 0 then some .a else if n = 1 then some .b else if n = 2 then some .p else none

/-- Header fields (R89, check 2). total is the TOTAL_LENGTH given at BS_BEGIN. -/
def bsHeaderOk (isP : Bool) (total : Nat) (b : Bytes) : Bool :=
  let kind := le b 13 1
  let n := le b 14 2
  slice b 0 8 == [0x47, 0x53, 0x4B, 0x42, 0x49, 0x54, 0x53, 0x31] && le b 8 2 == 1 && le b 10 2 == 0x2096 && le b 12 1 == 0xB0 &&
    kind == (if isP then 2 else 1) && le b 56 8 == total && le b 24 8 != 0 &&
    (if isP then decide (n ≤ 11) else decide (1 ≤ n) && decide (n ≤ 11)) &&
    (isP || (zeroAt b 32 8 && zeroAt b 40 8)) && decide (le b 48 2 < 4096) && zeroAt b 50 2 && zeroAt b 72 184

/-- The signature against the owner key (R92, check 3). -/
def signatureOk (s : State) (b : Bytes) : Bool :=
  let t := b.length - 29808
  match s.sec.ownerKey with
  | none => false
  | some k =>
    le b t 2 == 1 && zeroAt b (t + 2) 6 && slice b (t + 8) 8 == Config.shake256 k 8 &&
      Config.slhDsaOk k (b.take (t + 16)) (b.drop (t + 16))

/-- The records of a section (R91): none where one breaks its form. DESIGN CHOICE (log 195): a DELETE whose LENGTH is not zero breaks it, where the rule
says only that a LENGTH of zero is for DELETE alone. -/
def readRecords (fuel : Nat) (count : Nat) (b : Bytes) : Option (List Change) :=
  match fuel with
  | 0 => none
  | k + 1 =>
    if count = 0 then (if b.isEmpty then some [] else none)
    else
      let act := le b 2 1
      let len := le b 4 4
      let pad := ceilDiv len 8 * 8
      if b.length < 16 + pad ∨ 2 < act ∨ !zeroAt b 3 1 ∨ !zeroAt b (16 + len) (pad - len) ∨ ((len = 0) ↔ (act ≠ 2)) then none
      else
        (readRecords k (count - 1) (b.drop (16 + pad))).map fun r =>
          ⟨if act = 0 then .add else if act = 1 then .replace else .delete, le b 0 2, le b 8 8, slice b 16 len⟩ :: r

/-- Are a section's changes in strictly rising order of type and key? -/
def changesRising (l : List Change) : Bool :=
  match l with
  | [] => true
  | a :: r => (match r with
    | [] => true
    | b :: _ => decide (a.type < b.type) || (a.type == b.type && decide (a.key < b.key))) && changesRising r

/-- The sections from a directory index on (R90): each entry in order, contiguous from off, its digest right, its records
right for the section and the kind. -/
def readSections (fuel : Nat) (isP : Bool) (b : Bytes) (i n prev off stop : Nat) : Option (List Change) :=
  match fuel with
  | 0 => none
  | k + 1 =>
    if i = n then (if off = stop then some [] else none)
    else
      let e := slice b (256 + 64 * i) 64
      let id := le e 0 1
      let len := le e 16 8
      let body := slice b off len
      if id ≤ prev ∨ 11 < id ∨ !zeroAt e 1 3 ∨ le e 8 8 ≠ off ∨ off % 8 ≠ 0 ∨ stop < off + len ∨ !zeroAt e 56 8 ∨
          4194304 < le e 4 4 ∨ slice e 24 32 ≠ Config.shake256 body 32 then none
      else
        match readRecords (le e 4 4 + 1) (le e 4 4) body with
        | none => none
        | some cs =>
          if changesRising cs && cs.all (fun c => typeKnown c.type && c.type / 256 == id && (isP || c.action == .add) && !(isP && id == 1)) then
            (readSections k isP b (i + 1) n id (off + len) stop).map (cs ++ ·)
          else none

/-- The changes a bitstream holds (check 4). -/
def readChanges (isP : Bool) (b : Bytes) : Option (List Change) :=
  let n := le b 14 2
  readSections (n + 1) isP b 0 n 0 (256 + 64 * n) (b.length - 29808)

/-- The records of a full bitstream. -/
def recordsOf (cs : List Change) : List Rec := cs.foldl applyChange []

/-- The checks of BS_END (R96): none where every one passes. -/
def verifySlot (s : State) (isP : Bool) (x : SlotState) : Option (BitVec 5) :=
  let b := bsBytes x
  if x.bytes.length ≠ x.total ∨ x.total < 30064 ∨ slotLimit isP < x.total then some Sts.length
  else if !bsHeaderOk isP x.total b then some Sts.format
  else if !signatureOk s b then some Sts.denied
  else
    match readChanges isP b with
    | none => some Sts.format
    | some cs =>
      if le b 20 4 < s.sec.bsArb then some Sts.denied
      else if isP then
        if le b 32 8 ≠ s.cfg.activeId ∨ le b 48 2 ≠ s.cfg.switchId then some Sts.stale else none
      else fullSetOk s (le b 48 2) (recordsOf cs)

end Machine
end Sys2Proof
end

