-- ==== Sys2Proof/Machine/Coherence.lean ====
section
/-! DEFINITION. The commands of the home unit for atomics, combined requests and coherence (R180 to R192, R209 to R226). -/

namespace Sys2Proof
namespace Machine

/-- The outcome of a home command. -/
abbrev homeOk (s : State) : Host.Outcome State Fault Refusal := .next s

/-- AMO. -/
def execAmo (d : Die) (f : Frame) (s : State) : Host.Outcome State Fault Refusal :=
  homeOk (if f.opcode = Opc.amo then acceptMem d f [] s else s)

/-- AMO_NR. -/
def execAmoNr (d : Die) (f : Frame) (s : State) : Host.Outcome State Fault Refusal :=
  homeOk (if f.opcode = Opc.amoNr then acceptMem d f [] s else s)

/-- CAS. -/
def execCas (d : Die) (f : Frame) (s : State) : Host.Outcome State Fault Refusal :=
  homeOk (if f.opcode = Opc.cas then acceptMem d f [] s else s)

/-- A window after an acknowledgement (R182). -/
def ackWindow (w : Window) (seq : BitVec 24) : Window :=
  if newer 24 seq.toNat w.ack.toNat then ⟨seq, w.entries.filter (fun e => newer 24 e.seq.toNat seq.toNat)⟩ else w

/-- An AMO_ACK that the home takes: it moves the acknowledgement point, or with RESUME creates the window of a source; one that the context does not
admit or that addresses no extent is discarded and counted (R182, R184). -/
def takeAmoAck (d : Die) (f : Frame) (s : State) : State :=
  let seq := BitVec.ofNat 24 (le f.payload 0 3)
  let ext := (extAt s (transOff s f.addr.toNat)).elim false (fun e => extPhase s d e.idx != .free)
  if f.payload.length ≠ 8 ∨ !ctxAdmits s d f ∨ !ext then modHome s d (fun h => { h with ackDropped := h.ackDropped + 1 })
  else
    match get? (side s.home d).windows (winKey f) with
    | some w => modHome s d (fun h => { h with windows := put h.windows (winKey f) (ackWindow w seq) })
    | none =>
      if bitAt (le f.payload 3 1) 0 then
        modHome s d (fun h => { h with windows := put h.windows (winKey f) ⟨seq, []⟩, resumed := insertNat (winKey f) h.resumed })
      else s

/-- AMO_ACK. -/
def execAmoAck (d : Die) (f : Frame) (s : State) : Host.Outcome State Fault Refusal := homeOk (atHome d f [] (takeAmoAck d f) s)

/-- Are the constituents one combined request (R186)? -/
def oneCombined (f : Frame) (more : List Frame) : Bool :=
  decide (more.length < 64) && more.all (fun g => g.opcode == f.opcode && g.addr == f.addr && g.ctx == f.ctx &&
    (if f.opcode = Opc.ld then accessLen g == accessLen f else g.opspec == f.opspec))

/-- A combined request that the home takes: each constituent is checked by itself and takes its own tracker; those that pass are performed in list
order as one act (R187, R188). -/
def takeCombined (d : Die) (f : Frame) (more : List Frame) (aged : Nat) (s : State) : State :=
  let fs := f :: more
  let s1 := fs.foldl (fun t g => match memBad s d g with
    | some st => refuse d g st t
    | none => tapBytes d g.ctx.toNat g.tc.toNat 0 g.length.toNat t) s
  let got := findTrackers s1 d (trackers s1 d) (fs.filter (fun g => (memBad s d g).isNone))
  let s2 := got.2.foldl (fun t g => noTracker d g t) s1
  match got.1.map (·.1) with
  | [] => s2
  | g :: r => enterHome d g r ((got.1.filter (·.2)).map (fun x => keyOf x.1)) aged s2

/-- COMBINED_REQUEST. -/
def execCombinedRequest (d : Die) (fs : List Frame) (s : State) : Host.Outcome State Fault Refusal :=
  match fs with
  | [] => homeOk s
  | f :: more => homeOk (if oneCombined f more then atHome d f more (takeCombined d f more (agedNo s d fs)) s else s)

/-- REQUEST_AGED: an aged request stands before all that are not, after those aged before it (R192). -/
def execRequestAged (d : Die) (k : ReqKey) (s : State) : Host.Outcome State Fault Refusal :=
  let h := side s.home d
  let n := h.ageNo + 1
  let mine := fun (l : List Frame) => l.any (fun f => keyOf f == k)
  match h.waiting.find? (fun w => mine (w.frame :: w.more) && w.aged == 0) with
  | some w =>
    homeOk (settleBehind d <| setStatus (.mem d) 4 (modHome s d (fun y => { y with
      ageNo := n, waiting := placeWaiting (y.waiting.filter (fun x => x.order != w.order)) { w with aged := n } })))
  | none =>
    match h.inbox.find? (fun x => mine (x.frame :: x.more) && agedNo s d (x.frame :: x.more) == 0) with
    | some _ => homeOk (setStatus (.mem d) 4 (modHome s d (fun y => { y with ageNo := n, agedIn := y.agedIn ++ [(k, n)] })))
    | none => homeOk s

/-- HOTLINE_EXIT: an idle line leaves the buffer; its bytes are those of DRAM (R191). -/
def execHotlineExit (d : Die) (line : Nat) (s : State) : Host.Outcome State Fault Refusal :=
  homeOk (modHome s d (fun h => { h with hot := del h.hot line }))

/-! Admission of coherence requests (R209) -/

/-- Checks 1 to 6 of R209; an address of another switch that no promoted member extent holds is HOMELOST (R459). -/
def cohRefusal (s : State) (d : Die) (f : Frame) : Option (BitVec 5) :=
  let acq := f.opcode == Opc.crdS || f.opcode == Opc.crdM || f.opcode == Opc.cupg
  if f.payload.length ≠ (if f.opcode = Opc.cwb then 64 else 0) then some Sts.length
  else if f.opspec ≠ 0 ∨ outstanding s d (keyOf f) then some Sts.format
  else if addrOff f.addr.toNat % 64 ≠ 0 then some Sts.align
  else if acq && !admitted s d f then some (admitSts s d f)
  else
    match transAddr s f.addr.toNat with
    | .inl st => some st
    | .inr off =>
      match extAt s off with
      | none => some Sts.nohome
      | some e =>
        let ph := extPhase s d e.idx
        if ph = .free then some Sts.nohome
        else if e.classT then some Sts.format
        else if ph = .revoked ∨ (acq ∧ ph ≠ .active) then some Sts.revoked
        else if acq && (getD s.exts e.idx {}).homeLost then some Sts.homelost
        else if acq && !(hasRights (rightsOn s e f.ctx.toNat) (if f.opcode = Opc.crdS then 1 else 2) &&
            (memberIdx s d (domainOf s d e.idx) f.srcEp.toNat).isSome) then some Sts.denied
        else none

/-- Check 8 of R209: CRD_S, CRD_M and CUPG of a poisoned line. -/
def cohPoisoned (s : State) (f : Frame) : Bool :=
  (f.opcode == Opc.crdS || f.opcode == Opc.crdM || f.opcode == Opc.cupg) && s.poison.contains (localAddr s f.addr.toNat / 64)

/-- A coherence request that the home takes (R209). -/
def takeCoh (d : Die) (f : Frame) (aged : Nat) (s : State) : State :=
  match cohRefusal s d f with
  | some st => refuse d f st s
  | none =>
    match findTracker s d f with
    | none => noTracker d f s
    | some r =>
      if cohPoisoned s f then readPoison d (refuse d f Sts.poison s)
      else resumeLines d (enterHome d f [] (if r then [keyOf f] else []) aged (tapBytes d f.ctx.toNat f.tc.toNat 0 f.length.toNat s))

/-- A coherence request arrives at the home. -/
def acceptCoh (d : Die) (f : Frame) (s : State) : State :=
  if toSp f then windowMisuse f s else atHome d f [] (takeCoh d f (agedNo s d [f])) s

/-- CRD_S. -/
def execCrdS (d : Die) (f : Frame) (s : State) : Host.Outcome State Fault Refusal :=
  homeOk (if f.opcode = Opc.crdS then acceptCoh d f s else s)
/-- CRD_M. -/
def execCrdM (d : Die) (f : Frame) (s : State) : Host.Outcome State Fault Refusal :=
  homeOk (if f.opcode = Opc.crdM then acceptCoh d f s else s)
/-- CUPG. -/
def execCupg (d : Die) (f : Frame) (s : State) : Host.Outcome State Fault Refusal :=
  homeOk (if f.opcode = Opc.cupg then acceptCoh d f s else s)
/-- CWB. -/
def execCwb (d : Die) (f : Frame) (s : State) : Host.Outcome State Fault Refusal :=
  homeOk (if f.opcode = Opc.cwb then acceptCoh d f s else s)
/-- CEVICT. -/
def execCevict (d : Die) (f : Frame) (s : State) : Host.Outcome State Fault Refusal :=
  homeOk (if f.opcode = Opc.cevict then acceptCoh d f s else s)

/-! Acknowledgements (R214) -/

/-- The line whose transaction an acknowledgement names and awaits its sender. -/
def txnOf (s : State) (d : Die) (tag src : Nat) : Option (Nat × DirEntry × Txn) :=
  (side s.coh d).dir.findSome? fun x =>
    match x.2.txn with
    | some t => if t.num % 2 ^ 16 = tag ∧ (t.awaited.contains src ∨ t.owner = some src) then some (x.1, x.2, t) else none
    | none => none

/-- An unexpected acknowledgement is counted and otherwise ignored (R224). -/
def unexpected (d : Die) (s : State) : State := setStatus (.coh d) 6 s

/-- Count an acknowledgement of an invalidation (R214). -/
def countInv (d : Die) (line src : Nat) (e : DirEntry) (t : Txn) (s : State) : State :=
  let t1 := { t with awaited := t.awaited.filter (fun x => x != src) }
  if t1.awaited.isEmpty then finishInv d line e t1 s else setDir d line { e with txn := some t1 } s

/-- Write a line that came back, unless its home was lost with its tray (R456). -/
def takeLine (d : Die) (line : Nat) (b : Bytes) (s : State) : State :=
  if lineLost s line then s else writeLine d line b s

/-- Count an acknowledgement of a recall (R214). -/
def countRecall (d : Die) (line src : Nat) (e : DirEntry) (t : Txn) (b : Bytes) (kept : Bool) (fenced : Bool) (s : State) : State :=
  let isOwner := t.owner == some src
  let s1 := if b.length = 64 then takeLine d line b s
    else if isOwner && !t.gotLine then poisonLine d line s else s
  let t1 := { t with
    awaited := t.awaited.filter (fun x => x != src), gotLine := t.gotLine || b.length == 64,
    kept := if isOwner then kept && !fenced && b.length == 64 else t.kept }
  let s2 := setDir d line { e with txn := some t1 } s1
  if t1.awaited.isEmpty then finishRecall d line s2 else s2

/-- CINV_ACK. -/
def execCinvAck (d : Die) (f : Frame) (s0 : State) : Host.Outcome State Fault Refusal :=
  let src := f.srcEp.toNat
  let s := takeAgent d f s0
  match txnOf s d f.tag.toNat src with
  | some (line, e, t) =>
    if e.st = .sI ∧ t.awaited.contains src then homeOk (resumeLines d (countInv d line src e t (cohAnswered d src s)))
    else homeOk (unexpected d s)
  | none => homeOk (unexpected d s)

/-- The entry after a forward that the owner answered with the line (R214). -/
def afterForward (s : State) (d : Die) (e : DirEntry) (t : Txn) (x : Nat) (kept : Bool) : Option DirEntry :=
  let xi := if kept then (memberIdx s d e.domain x).toList else []
  let ri := match t.req with
    | some r => (memberIdx s d e.domain r.srcEp.toNat).toList
    | none => []
  let ps := if t.reqFenced then xi else if t.kind = .fwdM then ri else ri ++ xi.filter (fun i => !ri.contains i)
  if ps.isEmpty then none
  else some { e with st := if t.kind = .fwdM ∧ !t.reqFenced then .m else .s, ptrs := ps, txn := none }

/-- A line that comes with an acknowledgement finds its way in the class C cache first; while a dirty victim is written back the acknowledgement
stays where it is (R234). -/
def withRoom (d : Die) (line : Nat) (b : Bytes) (s : State) (go : State) : Host.Outcome State Fault Refusal :=
  match (if b.length = 64 && !lineLost s line then lineRoom d line s else (true, s)) with
  | (true, _) => homeOk go
  | (false, s1) => homeOk s1

/-- What a CFWD_ACK does in M_F: with the line it ends the forward; empty, the owner has not got it (R214, R215). -/
def forwardAcked (d : Die) (line src : Nat) (e : DirEntry) (t : Txn) (f : Frame) (s : State) : State :=
  if f.payload.length = 64 then
    let s1 := takeLine d line f.payload s
    match afterForward s1 d e t src (!f.opspec.getLsbD 0) with
    | some e2 => setDir d line e2 s1
    | none => delDir d line s1
  else if t.reqFenced then delDir d line (poisonLine d line s)
  else enterAb d line e t 5 s

/-- The state once there is a way in the class C cache for a line that comes back. -/
def afterRoom (d : Die) (line : Nat) (b : Bytes) (s : State) : State :=
  if b.length = 64 && !lineLost s line then (lineRoom d line s).2 else s

/-- CFWD_ACK. -/
def execCfwdAck (d : Die) (f : Frame) (s : State) : Host.Outcome State Fault Refusal :=
  let src := f.srcEp.toNat
  let s1 := takeAgent d f s
  match txnOf s d f.tag.toNat src with
  | none => homeOk (unexpected d s1)
  | some (line, e, t) =>
    let s2 := afterRoom d line f.payload s1
    if e.st = .mF ∧ t.owner = some src then
      withRoom d line f.payload s (resumeLines d (forwardAcked d line src e t f (cohAnswered d src s2)))
    else if e.st = .ab ∧ t.owner = some src then
      withRoom d line f.payload s
        (if f.payload.length = 64 then setDir d line { e with txn := some { t with saved := true } } (takeLine d line f.payload s2) else s1)
    else homeOk (unexpected d s1)

/-- What a CRECALL_ACK does in AB: the line it brings is the newest; with none and none saved the line is lost (R214). -/
def abandonAcked (d : Die) (line : Nat) (t : Txn) (b : Bytes) (s : State) : State :=
  delDir d line (if b.length = 64 then takeLine d line b s else if t.saved then s else poisonLine d line s)

/-- CRECALL_ACK: that of a recall which only told a fenced endpoint what it has lost is ignored (R222). -/
def execCrecallAck (d : Die) (f : Frame) (s : State) : Host.Outcome State Fault Refusal :=
  let src := f.srcEp.toNat
  let mine := (src, f.tag.toNat)
  let s1 := takeAgent d f s
  match txnOf s d f.tag.toNat src with
  | none =>
    if (side s.coh d).fenceTags.contains mine then
      homeOk (cohAnswered d src (modCoh s1 d (fun c => { c with fenceTags := c.fenceTags.erase mine })))
    else homeOk (unexpected d s1)
  | some (line, e, t) =>
    if !t.awaited.contains src then homeOk (unexpected d s1)
    else
      let s2 := cohAnswered d src (afterRoom d line f.payload s1)
      if e.st = .rc then
        withRoom d line f.payload s (resumeLines d (countRecall d line src e t f.payload (!f.opspec.getLsbD 0) false s2))
      else if e.st = .ab then withRoom d line f.payload s (resumeLines d (abandonAcked d line t f.payload s2))
      else homeOk (unexpected d s1)

/-! Fence notices (R214, R222) -/

/-- The CRECALL that tells a fenced endpoint which copy it has lost; its answer is ignored when it comes. -/
def fenceRecall (d : Die) (line ep : Nat) (asOwner : Bool) (s : State) : State :=
  match nextTxn d s with
  | (n, s1) =>
    sendCoh d (cohMsg s1 d Opc.crecall ep n 0 (recallSpec false false asOwner 2) (toLE 8 (lineAddr line)))
      (modCoh s1 d (fun c => { c with fenceTags := c.fenceTags ++ [(ep, n)] }))

/-- Is an endpoint recorded for a line by a pointer, and is it then its owner (R222)? -/
def recordedAs (s : State) (d : Die) (ep : Nat) (e : DirEntry) : Option Bool :=
  if (e.ptrs.map (memberEp s d e.domain)).contains ep then some (e.st == .m || e.txn.elim false (fun t => t.owner == some ep)) else none

/-- What a fence notice does to one line by the table of R214 and by R222. -/
def fenceState (d : Die) (ep line : Nat) (e : DirEntry) (s : State) : State :=
  match e.st, e.txn with
  | .s, _ =>
    if (holdersOf s d e).contains ep then
      let ps := e.ptrs.filter (fun p => memberEp s d e.domain p != ep)
      if ps.isEmpty then delDir d line s else setDir d line { e with ptrs := ps } s
    else s
  | .sb, _ => setDir d line { e with fenced := insertNat ep e.fenced } s
  | .m, _ => if (holdersOf s d e).contains ep then delDir d line (poisonLine d line s) else s
  | .sI, some t =>
    let t1 := if t.req.elim false (fun r => r.srcEp.toNat == ep) then { t with reqFenced := true } else t
    if t1.awaited.contains ep then countInv d line ep e t1 s else setDir d line { e with txn := some t1 } s
  | .mF, some t =>
    if t.owner = some ep then
      if t.reqFenced then delDir d line (poisonLine d line s) else enterAb d line e t 2 s
    else if t.req.elim false (fun r => r.srcEp.toNat == ep) then setDir d line { e with txn := some { t with reqFenced := true } } s
    else s
  | .rc, some t => if t.awaited.contains ep then countRecall d line ep e t [] false true s else s
  | .ab, some t =>
    if t.req.elim false (fun r => r.srcEp.toNat == ep) then delDir d line (if t.saved then s else poisonLine d line s) else s
  | _, _ => s

/-- A fence notice acts on one line, and tells the endpoint of the copy it has lost (R214, R222). -/
def fenceLine (d : Die) (ep line : Nat) (e : DirEntry) (s : State) : State :=
  match recordedAs s d ep e with
  | some owner => fenceRecall d line ep owner (fenceState d ep line e s)
  | none => fenceState d ep line e s

/-- Does a request wait in the queue of a class C line, whatever keeps it from being served? -/
def lineQueued (s : State) (w : Waiting) : Bool := !w.done && (extAt s (transOff s w.frame.addr.toNat)).elim false (fun e => !e.classT)

/-- Answer FENCED the requests of an endpoint that wait in line queues (R222). -/
def fenceWaiting (d : Die) (ep : Nat) (s : State) : State :=
  (side s.home d).waiting.foldl (fun t w =>
    if !lineQueued t w then t
    else
      let gone := (w.frame :: w.more).filter (fun f => f.srcEp.toNat == ep)
      let kept := (w.frame :: w.more).filter (fun f => f.srcEp.toNat != ep)
      if gone.isEmpty then t
      else
        let t1 := gone.foldl (fun u f => refuse d f Sts.fenced u) t
        match kept with
        | [] => dropWaiting d w.order t1
        | f :: more => setWaiting d w.order (fun x => { x with frame := f, more := more }) t1) s

/-- What a fence notice for an endpoint does at a home die (R183, R214, R222). -/
def fenceHome (d : Die) (ep : Nat) (s : State) : State :=
  let s1 := fenceWaiting d ep s
  let s2 := modCoh s1 d (fun c => { c with
    outstanding := del c.outstanding ep, fenceTags := c.fenceTags.filter (fun x => x.1 != ep), msgWait := c.msgWait.filter (fun f => addrEp f.addr.toNat != ep) })
  let s3 := modHome s2 d (fun h => { h with windows := h.windows.filter (fun w => w.1 / 4096 % 2 ^ 20 != ep) })
  let s4 := (side s3.coh d).dir.foldl (fun t x => fenceLine d ep x.1 x.2 t) s3
  resumeLines d s4

/-- FENCE_NOTICE. -/
def execFenceNotice (d : Die) (ep : Nat) (s : State) : Host.Outcome State Fault Refusal := homeOk (fenceHome d ep s)

/-- COH_ACK_TIMEOUT: the endpoint is reported to the failure detector; the home goes on waiting (R226). -/
def execCohAckTimeout (d : Die) (ep : Nat) (s : State) : Host.Outcome State Fault Refusal :=
  if (side s.coh d).dir.any (fun x => x.2.txn.elim false (fun t => t.awaited.contains ep)) then
    homeOk (setStatus (.coh d) 5 (modFlt s (fun x => { x with ackReports := insertNat ep x.ackReports })))
  else homeOk s

end Machine
end Sys2Proof
end

