-- ==== Sys2Proof/Machine/Meter.lean ====
section
/-! DEFINITION. The sealed meter (chapter 16): its link, its quantities, its log, attachment and absence, escrow and ingestion,
tariffs and exports. -/

namespace Sys2Proof
namespace Machine

/-- A step of the meter that goes on. -/
def mtrOk (s : State) : Host.Outcome State Fault Refusal := .next s

/-! The record log (R430) -/

/-- The header and body of a record. -/
def logBytes (r : LogRec) : Bytes :=
  toLE 8 r.pos ++ toLE 2 r.type ++ toLE 2 r.body.length ++ toLE 4 r.flags ++ toLE 8 r.time ++ toLE 32 r.prev ++ r.body

/-- The bytes that records take. -/
def logSize (l : List LogRec) : Nat := sumOf (l.map (fun r => 56 + r.body.length))

/-- The size of the log. -/
def logCap : Nat := 64 * 2 ^ 30

/-- The digest of the newest record; zero before the first (DESIGN CHOICE, log 141). -/
def prevDigest (m : MtrState) : Nat := m.log.getLast?.elim 0 (fun r => leNat (fit (Config.shake256 (logBytes r) 32) 32))

/-- The time of the attached meter's clock, in milliseconds. -/
def meterMs (s : State) : Nat := s.mtr.meter.elim 0 (·.timeMs)

/-- Write a record; released records are overwritten when the log is full (R432). -/
def addLog (type flags : Nat) (body : Bytes) (s : State) : State :=
  let r : LogRec := ⟨s.mtr.nextPos, type, flags, meterMs s, prevDigest s.mtr, body⟩
  modMtr s (fun m => { m with
    log := (if logCap < logSize m.log + 56 + body.length then m.log.filter (fun x => decide (m.released ≤ x.pos)) else m.log) ++ [r],
    newest := m.nextPos, nextPos := m.nextPos + 1 })

/-- The last TAP_SEQ taken of a die. -/
def lastTapOf (s : State) (d : Die) : Nat := s.mtr.meter.elim 0 (fun m => side m.lastTap d - 1)

/-- SEAL: the last TAP_SEQ of each die and a signature by the meter key, key number 2, over the record's header and 16 bytes. -/
def addSeal (s : State) : State :=
  let b := toLE 8 (lastTapOf s .d0) ++ toLE 8 (lastTapOf s .d1)
  let h := toLE 8 s.mtr.nextPos ++ toLE 2 2 ++ toLE 2 29808 ++ toLE 4 0 ++ toLE 8 (meterMs s) ++ toLE 32 (prevDigest s.mtr)
  addLog 2 0 (b ++ fit (Config.slhDsaSign 2 (h ++ b)) 29792) s

/-- LOG_HIGH at 90 % of the log unreleased (R433). -/
def checkLog (s : State) : State :=
  let n := logSize (s.mtr.log.filter (fun r => decide (s.mtr.released ≤ r.pos)))
  if logCap * 9 ≤ n * 10 ∧ !s.mtr.status.bits.getLsbD 1 then spEvent 0 0x55 [] (setStatus .mtr 1 s) else s

/-- The digest of a tariff set. -/
def tariffDigestOf (b : Bytes) : Bytes := fit (Config.shake256 b 32) 32

/-- The tariff set the meter holds: the newest accepted. -/
def heldTariff (s : State) : Bytes := if s.mtr.pendingTariff.isEmpty then s.mtr.meter.elim [] (·.tariff) else s.mtr.pendingTariff

/-- Does the meter hold another tariff set than the journaled one (R435)? -/
def noTariff (s : State) : Bool := tariffDigestOf (heldTariff s) != fit s.mtr.tariffDigest 32

/-! Quantities (R427, R429) -/

/-- RECORD_PERIOD_S of the tariff in force, in milliseconds. -/
def periodMs (s : State) : Nat := s.mtr.meter.elim 0 (fun m => le m.tariff 32 2 * 1000)

/-- The end of the record period in which a time lies; the time itself while no tariff gives a period. -/
def periodEnd (s : State) (t : Nat) : Nat := if periodMs s = 0 then t else (t / periodMs s + 1) * periodMs s

/-- The state with the meter's clock set. -/
def setMeterMs (t : Nat) (s : State) : State := modMtr s (fun m => { m with meter := m.meter.map (fun x => { x with timeMs := t }) })

/-- The meter's clock moves on within its record period: how far is a free value (R428: the clock is the meter's own). -/
def meterTicks (s : State) : State :=
  match drawFree s with
  | (n, s1) =>
    let t := meterMs s1
    setMeterMs (t + (Config.freeValue n).toNat % (periodEnd s1 t + 1 - t)) s1

/-- The quantities of a context with its occupancy integrated to a time. -/
def settleQuant (q : Quant) (t : Nat) : Quant :=
  { q with
    occ := (rangeFrom 0 3).map (fun i => nth q.occ i 0 + (nth q.gran i 0).toNat * 4096 * (t - nth q.since i 0)),
    since := [Nat.max t (nth q.since 0 0), Nat.max t (nth q.since 1 0), Nat.max t (nth q.since 2 0)] }

/-- The state with a context's quantities changed. -/
def modQuant (c : Nat) (g : Quant → Quant) (s : State) : State := modMtr s (fun m => { m with quants := changeD m.quants c {} g })

/-- The meter takes an event into its integration state at a meter time (R427). -/
def integrate (t : Nat) (e : TapEv) (s : State) : State :=
  let v := e.value.toNat
  if e.kind = 1 then
    modQuant e.ctx (fun q => let r := settleQuant q t; { r with gran := modAt r.gran e.sub (· + e.value.toInt) }) s
  else if e.kind = 2 then modQuant e.ctx (fun q => { q with bytes := modAt q.bytes (e.sub % 8) (· + v) }) s
  else if e.kind = 3 then
    let w := workWeights s
    modQuant e.ctx (fun q => { q with work := q.work + v % 2 ^ 32 * w.1 + v / 2 ^ 32 * w.2 }) s
  else if e.kind = 4 then addLog 4 0 (toLE 2 e.ctx ++ [BitVec.ofNat 8 e.die] ++ zeros 5) s
  else if e.kind = 5 then addLog 5 0 ([BitVec.ofNat 8 e.die] ++ zeros 7) s
  else s

/-- The reported quantities of a context at the end of a period: occupancy, bytes, work units. -/
def reported (q : Quant) : List Nat := q.occ.map (· / 1000) ++ q.bytes ++ [(q.work + q.workRem) / 65536]

/-- Price and unit of quantity i under a tariff set (R429, R434). -/
def priceOf (tariff : Bytes) (i : Nat) : Nat × Nat :=
  (le tariff (64 + 8 * i) 8, if i < 3 then 2 ^ 30 * 3600 else if i < 11 then 2 ^ 30 else 1000000)

/-- The AMOUNT of a period and the carries it leaves. -/
def amountOf (tariff : Bytes) (q : Quant) : Nat × List Nat :=
  let qs := reported q
  let per := (rangeFrom 0 12).map (fun i =>
    let p := priceOf tariff i
    let n := (nth qs i 0 * p.1 + nth q.carry i 0) % 2 ^ 128
    (n / p.2, n % p.2))
  (sumOf (per.map (·.1)) % 2 ^ 64, per.map (·.2))

/-- A PERIOD record of a context, with the quantities that go on after it. -/
def addPeriod (flags startMs endMs c : Nat) (s : State) : State :=
  let q := settleQuant (getD s.mtr.quants c {}) endMs
  let off := noTariff s
  let a := amountOf (s.mtr.meter.elim [] (·.tariff)) q
  let body := toLE 2 c ++ zeros 6 ++ toLE 8 startMs ++ toLE 8 endMs ++ (reported q).flatMap (fun v => toLE 8 (v % 2 ^ 64)) ++
    toLE 8 (if off then 0 else a.1)
  modQuant c (fun _ => { q with
    occ := q.occ.map (· % 1000), bytes := [0, 0, 0, 0, 0, 0, 0, 0], work := 0, workRem := (q.work + q.workRem) % 65536,
    carry := if off then q.carry else a.2 }) (addLog 1 (flags + 2 * b2n off) body s)

/-- PERIOD records of every context with a quantity that is not zero, in rising order (R431). -/
def addPeriods (flags startMs endMs : Nat) (s : State) : State :=
  (s.mtr.quants.filter (fun q => (reported (settleQuant q.2 endMs)).any (· != 0))).foldl (fun t q => addPeriod flags startMs endMs q.1 t) s

/-! The link (R424, R426) -/

/-- TAP_EVENT_SEND: the die's next event, in TAP_SEQ order, goes out on the meter link. -/
def execTapEventSend (d : Die) (s : State) : Host.Outcome State Fault Refusal :=
  if escrowing s d then mtrOk s
  else
    match (side s.mtr.tapBuf d).find? (fun e => decide (side s.mtr.tapSent d ≤ e.seq)) with
    | some e => mtrOk (modMtr s (fun m => { m with tapSent := upd m.tapSent d (fun _ => e.seq + 1) }))
    | none => mtrOk s

/-- METER_ACK: the meter has taken every event up to a TAP_SEQ that was sent; the concentrator lets them go. An event it has taken
before is discarded (R426, R440). -/
def execMeterAck (d : Die) (tapSeq : Nat) (s : State) : Host.Outcome State Fault Refusal :=
  if s.mtr.st ≠ .attached then mtrOk s
  else
    let taken := (side s.mtr.tapBuf d).filter (fun e => decide (e.seq ≤ tapSeq) && decide (e.seq < side s.mtr.tapSent d))
    let old := s.mtr.meter.elim 0 (fun m => side m.lastTap d)
    let s1 := modMtr s (fun m => { m with tapBuf := upd m.tapBuf d (fun b => b.filter (fun e => !taken.contains e)) })
    mtrOk (taken.foldl (fun t e =>
      if e.seq < old then t
      else
        let t1 := meterTicks t
        modMtr (integrate (meterMs t1) e t1) (fun m => { m with
          meter := m.meter.map (fun x => { x with lastTap := upd x.lastTap d (fun n => Nat.max n (e.seq + 1)) }) })) s1)

/-! Absence and escrow (R436, R437) -/

/-- A die begins to escrow: the events not yet acknowledged come first. -/
def startEscrow (d : Die) (s : State) : State :=
  if (side s.mtr.escrow d).on then s
  else
    let b := side s.mtr.tapBuf d
    modMtr s (fun m => { m with
      tapBuf := upd m.tapBuf d (fun _ => []),
      escrow := upd m.escrow d (fun x =>
        (chunksOf (b.length / segEvents + 1) segEvents b).foldl (fun y es => newSeg d es y)
          { x with on := true, ms := 0, segs := x.segs.map (closeSeg d) }) })

/-- The meter goes: DETACH with its reason and a SEAL, both dies escrow, context 0 is told (R436, R441). -/
def detachMeter (reason : Nat) (s : State) : State :=
  let s1 := addSeal (addLog 8 0 (toLE 1 reason ++ zeros 7) s)
  spEvent 0 0x51 (toLE 1 reason ++ zeros 7) (startEscrow .d1 (startEscrow .d0 s1))

/-- Is a meter attached or ingesting? -/
def meterPresent (s : State) : Bool := s.mtr.st == .attached || s.mtr.st == .ingesting

/-- The write of one to MTR.CTL.DETACH (R442): the meter is prepared for removal. The final SEAL is written in the same step, so
DETACH reads 0 again. Without a meter it has no effect (DEDUCED, log 142). -/
def detachWrite (s : State) : State := if meterPresent s then detachMeter 1 s else s

/-- METER_LINK_LOSS: the meter is gone or its link has been down for 10 ms; one that was prepared for removal has sealed its log
(R436, R437). -/
def execMeterLinkLoss (s : State) : Host.Outcome State Fault Refusal :=
  if !meterPresent s then mtrOk s
  else
    let sealed := s.mtr.st == .attached && s.mtr.escrow.d0.on
    let s1 := if sealed then s else detachMeter 2 s
    mtrOk (modMtr s1 (fun m => { m with st := .absent }))

/-- METER_TAMPER: a breach of the husk: DETACH with reason 3, SEAL, the key erased (R436). -/
def execMeterTamper (s : State) : Host.Outcome State Fault Refusal :=
  if !meterPresent s then mtrOk s
  else
    let s1 := detachMeter 3 s
    mtrOk (spEvent 0 0x56 [] (modMtr s1 (fun m => { m with
      st := .tampered, keyErased := true,
      meter := m.meter.map (fun x => { x with tampered := true }) })))

/-- METER_ATTACH: a fitted meter is verified, and attached or refused. With events in escrow it ingests them first (R436, R439). The
log of another meter begins empty. -/
def execMeterAttach (m : MeterIdent) (s : State) : Host.Outcome State Fault Refusal :=
  if meterPresent s && !s.mtr.escrow.d0.on then mtrOk s
  else if m.tampered || !Config.certOk m.cert || (s.mtr.keyErased && s.mtr.meter.elim false (fun x => x.serial == m.serial)) then
    mtrOk (setStatus .mtr 3 s)
  else
    let same := s.mtr.meter.elim false (fun x => x.serial == m.serial)
    let busy := fun (d : Die) => !(side s.mtr.escrow d).segs.isEmpty || !(side s.mtr.escrow d).agg.isEmpty
    let live := !busy .d0 && !busy .d1
    let s1 := modMtr s (fun x => { x with
      st := if live then .attached else .ingesting, meter := some m, keyErased := false, pendingTariff := [],
      escrow := if live then ⟨{ x.escrow.d0 with on := false, stopped := false }, { x.escrow.d1 with on := false, stopped := false }⟩ else x.escrow,
      log := if same then x.log else [], newest := if same then x.newest else 0, nextPos := if same then x.nextPos else 0,
      released := if same then x.released else 0, quants := if same then x.quants else [], periodStart := m.timeMs,
      ingested := ⟨{}, {}⟩ })
    let s2 := addLog 7 0 (toLE 8 s.sec.serial ++ tariffDigestOf m.tariff ++ fit m.cert 29888) s1
    let s3 := if noTariff s2 then setStatus .mtr 2 s2 else s2
    mtrOk (spEvent 0 0x50 (toLE 8 m.serial) s3)

/-- The segments of a die's escrow region (R437). -/
def maxSegs : Nat := 4096

/-- After an escrow has grown: ESCROW_HIGH at 90 %, and at 16 segments left no more requests (R438). -/
def escrowGrown (d : Die) (s : State) : State :=
  let n := (side s.mtr.escrow d).segs.length
  let s1 := if maxSegs * 9 ≤ n * 10 ∧ !(side s.mtr.escrow d).high then
      setStatus .mtr 0 (event d 0 0x52 (toLE 1 (dieNum d) ++ toLE 1 (n * 100 / maxSegs) ++ zeros 6)
        (modMtr s (fun m => { m with escrow := upd m.escrow d (fun x => { x with high := true }) })))
    else s
  if maxSegs ≤ n + 16 ∧ !(side s1.mtr.escrow d).stopped then
    event d 0 0x53 (toLE 1 (dieNum d) ++ zeros 7) (modMtr s1 (fun m => { m with escrow := upd m.escrow d (fun x => { x with stopped := true }) }))
  else s1

/-- ESCROW_SECOND: one TIME event, then the sums of the second by kind, sub and context (R437); a new segment moves the escrow pointer, which is
journaled (R273). -/
def execEscrowSecond (d : Die) (s : State) : Host.Outcome State Fault Refusal :=
  if !escrowing s d then mtrOk s
  else
    let x := side s.mtr.escrow d
    let ms := x.ms + 1000
    let s1 := tapEscrow d 7 0 0 (BitVec.ofNat 64 ms) (modMtr s (fun m => { m with escrow := upd m.escrow d (fun y => { y with ms := ms, agg := [] }) }))
    let s2 := x.agg.foldl (fun t a => tapEscrow d (a.1 / 2 ^ 20) (a.1 / 2 ^ 12 % 2 ^ 8) (a.1 % 2 ^ 12) (BitVec.ofNat 64 a.2) t) s1
    let n := (side s2.mtr.escrow d).nextSeg
    mtrOk (escrowGrown d (if n = x.nextSeg then s2 else journal d (.escrow n) s2))

/-- Does the meter accept a segment: its signature against the DAK, the digest of the segment before it (R439)? -/
def segmentOk (s : State) (g : Segment) (d : Die) : Bool :=
  fit g.prev 32 == fit (side s.mtr.escrow d).digest 32 && Config.slhDsaOk (Config.certKey (dakCert s)) (segBytes d g) g.sig

/-- The meter takes the events of a segment: TIME gives the meter time of what follows it (R439, R440). -/
def ingestSegment (d : Die) (g : Segment) (s : State) : State :=
  let now := meterMs s
  let span := (side s.mtr.escrow d).ms
  g.events.foldl (fun t e =>
    let i := side t.mtr.ingested d
    let time := if e.kind = 7 then e.value.toNat else i.time
    let at_ := now - (span - time)
    let old := t.mtr.meter.elim 0 (fun m => side m.lastTap d)
    let t1 := if e.seq < old ∨ e.kind = 7 then t else integrate at_ e t
    modMtr t1 (fun m => { m with
      ingested := upd m.ingested d (fun y => { y with events := y.events + 1, time := time, last := e.seq,
                                                      first := if y.events = 0 then e.seq else y.first }),
      meter := m.meter.map (fun x => { x with lastTap := upd x.lastTap d (fun n => Nat.max n (e.seq + 1)) }) })) s

/-- A die's escrow is ingested to its head: what the running second has summed goes out live. -/
def endEscrow (d : Die) (s : State) : State :=
  let a := (side s.mtr.escrow d).agg
  let s1 := modMtr s (fun m => { m with escrow := upd m.escrow d (fun x => { x with on := false, agg := [], stopped := false, high := false, ms := 0 }) })
  a.foldl (fun t x => tapLive d (x.1 / 2 ^ 20) (x.1 / 2 ^ 12 % 2 ^ 8) (x.1 % 2 ^ 12) (BitVec.ofNat 64 x.2) t) s1

/-- ESCROW_INTERVAL of a die (R430). -/
def addInterval (d : Die) (s : State) : State :=
  let i := side s.mtr.ingested d
  addLog 6 1 (toLE 1 (dieNum d) ++ zeros 7 ++ toLE 8 i.first ++ toLE 8 i.last ++ toLE 4 i.segs ++ toLE 4 i.events ++ toLE 8 (side s.mtr.escrow d).ms) s

/-- ESCROW_INGEST_SEGMENT: the oldest segment is verified, taken and released; the open one is closed first. When both dies have none
left, the escrow's PERIOD records and intervals are written and the dies send live again (R439). The release moves the escrow pointer, which is
journaled (R273, R275). -/
def execEscrowIngestSegment (d : Die) (s : State) : Host.Outcome State Fault Refusal :=
  if s.mtr.st ≠ .ingesting ∨ ringFull s d 64 then mtrOk s
  else
    match (side s.mtr.escrow d).segs with
    | [] => mtrOk (finish s)
    | g0 :: r =>
      let g := closeSeg d g0
      let ok := segmentOk s g d
      let s1 := if ok then ingestSegment d g s else setStatus .mtr 4 s
      let s2 := modMtr s1 (fun m => { m with
        escrow := upd m.escrow d (fun x => { x with
          segs := r, digest := segDigest d g, stopped := x.stopped && decide (maxSegs * 9 ≤ r.length * 10), high := x.high && decide (maxSegs * 9 ≤ r.length * 10) }),
        ingested := upd m.ingested d (fun y => { y with segs := y.segs + 1, gaps := y.gaps + b2n (!ok) }) })
      mtrOk (finish (journal d (.escrow (g.num + 1)) s2))
where
  /-- Both escrows at their head: the ingestion ends. -/
  finish (t : State) : State :=
    if !t.mtr.escrow.d0.segs.isEmpty || !t.mtr.escrow.d1.segs.isEmpty then t
    else
      let t1 := addPeriods 1 (meterMs t - Nat.max t.mtr.escrow.d0.ms t.mtr.escrow.d1.ms) (meterMs t) t
      let t2 := modMtr (addInterval .d1 (addInterval .d0 t1)) (fun m => { m with st := .attached })
      let i0 := t2.mtr.ingested.d0
      let i1 := t2.mtr.ingested.d1
      spEvent 0 0x54 (toLE 4 (i0.segs + i1.segs) ++ toLE 4 (i0.events + i1.events)) (endEscrow .d1 (endEscrow .d0 t2))

/-- RECORD_PERIOD_END: PERIOD records and a SEAL at the period's end; a tariff accepted in it comes into force. With no room for a
period the meter stops, and the device treats it as absent (R431, R433, R435). -/
def execRecordPeriodEnd (s : State) : Host.Outcome State Fault Refusal :=
  if s.mtr.st ≠ .attached then mtrOk s
  else
    let endMs := periodEnd s (meterMs s)
    let n := (s.mtr.quants.filter (fun q => (reported (settleQuant q.2 endMs)).any (· != 0))).length
    let used := logSize (s.mtr.log.filter (fun r => decide (s.mtr.released ≤ r.pos)))
    if logCap < used + 184 * n + 29864 then
      mtrOk (modMtr (startEscrow .d1 (startEscrow .d0 s)) (fun m => { m with st := .absent }))
    else
      let s1 := addSeal (addPeriods 0 s.mtr.periodStart endMs (setMeterMs endMs s))
      let s2 := modMtr s1 (fun m => { m with
        periodStart := endMs, meter := if m.pendingTariff.isEmpty then m.meter else m.meter.map (fun x => { x with tariff := m.pendingTariff }),
        pendingTariff := [] })
      mtrOk (checkLog (if noTariff s2 then setStatus .mtr 2 s2 else s2))

/-! Tariffs (R434, R435) -/

/-- METER_TARIFF begins: an absent meter is RETRY; either counter at zero rejects it. -/
def tariffOwn (r : CtlReq) (s : State) : State :=
  if !meterPresent s then ctlEnd 0x80 r Sts.retry s
  else rwlBegin 0x80 r offTariff (Nat.min s.sec.leftMeter (s.mtr.meter.elim 0 (·.left))) s

/-- A 4-byte field as a signed number. -/
def signed32 (v : Nat) : Int := if v < 2 ^ 31 then v else (v : Int) - 2 ^ 32

/-- The checks of a tariff set that was read (R434). -/
def tariffBad (s : State) (b : Bytes) : Option (BitVec 5) :=
  let step := signed32 (le b 40 4)
  firstBad [
    need (b.take 8 == [0x47#8, 0x53#8, 0x4B#8, 0x54#8, 0x52#8, 0x46#8, 0x30#8, 0x31#8] && zeroAt b 12 4 && zeroAt b 44 20 && zeroAt b 160 96),
    need (decide (10 ≤ le b 32 2) && decide (le b 32 2 ≤ 3600) && decide (le b 34 2 ≤ 999) && decide (-3600000 ≤ step) && decide (step ≤ 3600000)),
    if le b 16 8 = s.sec.serial ∧ some (le b 24 8) = s.mtr.meter.map (·.serial) ∧ le b 8 4 = s.sec.leftMeter then none else some Sts.stale,
    if Config.slhDsaOk (s.sec.ownerKey.getD []) (b.take 256) (b.drop 256) then none else some Sts.denied]

/-- METER_TARIFF, its set read: an accepted change lowers both counters and is recorded, journaled and told (R435). -/
def tariffRead (r : CtlReq) (st : BitVec 5) (b : Bytes) (s : State) : State :=
  match (if st = Sts.ok then (if meterPresent s then tariffBad s b else some Sts.retry) else some st) with
  | some e => ctlEnd 0x80 r e s
  | none =>
    let old := tariffDigestOf (heldTariff s)
    let new := tariffDigestOf b
    let root := s.sec.leftMeter - 1
    let own := (s.mtr.meter.elim 0 (·.left)) - 1
    let s1 := addSeal (addLog 3 0 (old ++ new ++ toLE 4 own ++ toLE 4 root) s)
    let s2 := modMtr (modSec s1 (fun x => { x with leftMeter := root })) (fun m => { m with
      tariffDigest := new, pendingTariff := b, changes := Nat.min 32 (m.changes + 1),
      meter := m.meter.map (fun x => { x with left := own, timeMs := ((x.timeMs : Int) + signed32 (le b 40 4)).toNat }) })
    ctlEnd 0x80 r Sts.ok (rwlAccepted offTariff root s2)

/-- METER_TARIFF. -/
def execMeterTariff (r : CtlReq) (s : State) : Host.Outcome State Fault Refusal := ctlOk (runCtl 0x80 r (tariffOwn r) s)

/-! Exports (R432) -/

/-- The records of a range. -/
def exportRecs (s : State) (first count : Nat) : List LogRec := s.mtr.log.filter (fun x => decide (first ≤ x.pos) && decide (x.pos < first + count))

/-- METER_EXPORT: its own checks, then one store for each piece of the records, from the active service processor under context 0. -/
def exportOwn (r : CtlReq) (s : State) : State :=
  let first := le r.args 0 8
  let count := le r.args 8 4
  let dest := le r.args 16 8
  if !meterPresent s then ctlEnd 0x81 r Sts.retry s
  else if first < s.mtr.released then ctlEnd 0x81 r Sts.stale s
  else if s.mtr.nextPos < first + count then ctlEnd 0x81 r Sts.length s
  else
    let d := s.cfg.activeSp
    match newJob 0x81 r.srcEp.toNat r.ctx.toNat [] s with
    | (j, s1) =>
      let b := (exportRecs s first count).flatMap logBytes
      let ps := pieces dest b.length
      let s2 := modMtr s1 (fun m => { m with exports := m.exports ++ [⟨j, first, count, bitAt (le r.args 12 4) 0, dest, ps.length, []⟩] })
      let s3 := ps.foldl (fun t p =>
        svcSend d (.export_ j) (svcFrame t d Opc.st 3 0 p.1 0 (slice b (p.1 - dest) p.2)) t) s2
      jobAnswer 0x81 r j s3

/-- METER_EXPORT. -/
def execMeterExport (r : CtlReq) (s : State) : Host.Outcome State Fault Refusal := ctlOk (runCtl 0x81 r (exportOwn r) s)

/-- The number of records of an export that no failed store touched. -/
def exportWritten (fails : List (Nat × Nat × BitVec 5)) (at_ : Nat) (l : List LogRec) : Nat :=
  match l with
  | [] => 0
  | x :: r =>
    let n := 56 + x.body.length
    if fails.any (fun f => decide (f.1 < at_ + n) && decide (at_ < f.1 + f.2.1)) then exportWritten fails (at_ + n) r
    else exportWritten fails (at_ + n) r + 1

/-- METER_EXPORT_DONE: every store is answered; with RELEASE and none failed, positions up to the range's last SEAL may be
overwritten; JOB_DONE carries the number of records written (R432). -/
def execMeterExportDone (job : Nat) (s : State) : Host.Outcome State Fault Refusal :=
  match s.mtr.exports.find? (fun x => x.job == job) with
  | none => mtrOk s
  | some x =>
    if x.left ≠ 0 then mtrOk s
    else
      let rs := exportRecs s x.first x.count
      let st := topStatus (x.failed.map (·.2.2))
      let seals := (rs.filter (fun r => r.type == 2)).map (·.pos)
      let s1 := modMtr s (fun m => { m with
        exports := m.exports.filter (fun y => y.job != job),
        released := if x.release && st == Sts.ok then seals.foldl (fun a p => Nat.max a (p + 1)) m.released else m.released })
      mtrOk (jobDone job st (exportWritten x.failed x.dest rs) s1)

/-- TAP_BYTES_FLUSH: a tap's count is flushed after 10 ms (R425). -/
def execTapBytesFlush (d : Die) (ctx tc dir : Nat) (s : State) : Host.Outcome State Fault Refusal :=
  mtrOk (tapFlush d ctx (dir % 2 * 8 + tc % 8) s)

end Machine
end Sys2Proof
end

