-- ==== Sys2Proof/Machine/Failures.lean ====
section
/-! DEFINITION. Failure detection, the federation map, fencing, revocation, lost homes, replica promotion, ownership transfer,
compositions, pepper rules (R443 to R469). -/

namespace Sys2Proof
namespace Machine

/-- A failure event that is taken or has no subject. -/
def fltOk (s : State) : Host.Outcome State Fault Refusal := .next s

/-- Set a bit of FLT.STATUS. -/
def fltBit (bit : Nat) (s : State) : State := setStatus .flt bit s

/-- The state of a switch in the map; a switch without an entry has none. -/
def switchSt (s : State) (sw : Nat) : Option SwitchSt := (get? s.flt.switches sw).map (·.st)

/-- Is the switch LIVE? -/
def liveSwitch (s : State) (sw : Nat) : Bool := switchSt s sw == some .live

/-- Is this switch a keeper (R443)? -/
def isKeeper (s : State) : Bool := (recOf s RT.mapKeeper s.cfg.switchId).isSome

/-! Declaring an endpoint dead (R448, R449) -/

/-- The detector declares an endpoint: its fencing begins; a fencing under way takes the job over if it has none. -/
def declare (ep : Nat) (job : Option Nat) (s : State) : State :=
  if s.flt.fencing.any (fun x => x.ep == ep) then
    modFlt s (fun t => { t with fencing := t.fencing.map (fun x => if x.ep = ep ∧ x.job.isNone then { x with job := job } else x) })
  else fltBit 0 (modFlt s (fun t => { t with fencing := t.fencing ++ [⟨ep, none, job⟩] }))

/-- The sub-links of this switch that carry an endpoint. -/
def linksOf (s : State) (ep : Nat) : List (Nat × Nat) :=
  if epSwitch ep ≠ s.cfg.switchId then []
  else (recsOf s RT.port).flatMap (fun r =>
    ((rangeFrom 0 (subsOfMode (le r.body 1 1))).filter (fun k => le r.body (4 + k) 1 == epIndex ep)).map (fun k => (r.key, k)))

/-- ENDPOINT_GRACE_EXPIRE: every sub-link of the endpoint has been out of service for GRACE_MS; a port in reset never declares one
(R397, R448). -/
def execEndpointGraceExpire (ep : Nat) (s : State) : Host.Outcome State Fault Refusal :=
  let ls := linksOf s ep
  if ls.isEmpty || ls.any (fun l => (subOf s l.1 l.2).phase == .up || (portOf s l.1).resetJob.isSome) then fltOk s
  else fltOk (declare ep none s)

/-- ENDPOINT_ACK_DEAD_EXPIRE: no acknowledgement came within ACK_DEAD_MS of a report under R226. -/
def execEndpointAckDeadExpire (ep : Nat) (s : State) : Host.Outcome State Fault Refusal :=
  if s.flt.ackReports.contains ep then
    fltOk (declare ep none (modFlt s (fun t => { t with ackReports := t.ackReports.filter (fun e => e != ep) })))
  else fltOk s

/-- FENCE_ADVANCE's own part (R448). -/
def fenceOwn (r : CtlReq) (s : State) : State :=
  let ep := le r.args 0 4 % 2 ^ 20
  if 0xFE ≤ epIndex ep || !liveSwitch s (epSwitch ep) then ctlEnd 0x60 r Sts.format s
  else
    match newJob 0x60 r.srcEp.toNat r.ctx.toNat [ep] s with
    | (n, s1) => jobAnswer 0x60 r n (declare ep (some n) s1)

/-- FENCE_ADVANCE. -/
def execFenceAdvance (r : CtlReq) (s : State) : Host.Outcome State Fault Refusal := ctlOk (runCtl 0x60 r (fenceOwn r) s)

/-- ENDPOINT_FENCED: all acknowledgements of the committed epoch are in (R449 step 5). -/
def execEndpointFenced (ep : Nat) (s : State) : Host.Outcome State Fault Refusal :=
  match s.flt.fencing.find? (fun x => x.ep == ep) with
  | none => fltOk s
  | some x =>
    match x.epoch with
    | none => fltOk s
    | some e =>
      let s1 := modFlt s (fun t => { t with fencing := t.fencing.filter (fun y => y.ep != ep) })
      let s2 := spEvent 0 0x60 (toLE 4 ep ++ toLE 2 e.toNat ++ zeros 2 ++ toLE 8 s.flt.gen) s1
      fltOk (match x.job with
        | some n => jobDone n Sts.ok 0 s2
        | none => s2)

/-! Compositions (R463 to R466) -/

/-- A registered composition's run-time state. -/
def compOf (s : State) (c : Nat) : Comp := getD s.flt.comps c {}

/-- Change a composition's run-time state. -/
def modComp (c : Nat) (g : Comp → Comp) (s : State) : State := modFlt s (fun t => { t with comps := changeD t.comps c {} g })

/-- The composition of the extent at an offset. -/
def compAt (s : State) (off : Nat) : Option Nat := (extAt s off).bind (·.comp)

/-- Does a gather, filter or attention descriptor work on a composition's data? -/
def opOfComp (s : State) (c : Nat) (o : Op) : Bool :=
  match o.kind with
  | .gather => compAt s (transOff s o.frame.addr.toNat) == some c
  | .filter => compAt s (transOff s o.frame.addr.toNat) == some c
  | .attend => (attendSessions o.frame).any (fun x => (sesOf s x).elim false (fun y => (extOf s y.ext).elim false (fun e => e.comp == some c)))
  | _ => false

/-- The work in flight of a composition ends with ABORTED on a die: its instances, and, as the composition is the set of extents
and objects a job uses, the descriptors that read its extents (DEDUCED, log 113). -/
def endCompWork (d : Die) (c : Nat) (s : State) : State :=
  stopOps d (opOfComp s c) Sts.aborted (abortInstances d (fun i => (grpView i.body).comp == some c) Sts.aborted s)

/-- A composition becomes FAILED (R465); a FAILED one stays with its first cause. -/
def failComp (c cause : Nat) (s : State) : State :=
  match recOf s RT.composition c with
  | none => s
  | some b =>
    if (compOf s c).failed then s
    else
      let s1 := fltBit 4 (modComp c (fun x => { x with failed := true, cause := cause }) s)
      let data := toLE 2 c ++ toLE 1 cause ++ zeros 5
      let s2 := endCompWork .d1 c (endCompWork .d0 c s1)
      let s3 := spEvent 0 0x68 data s2
      if compCtx b = 0 then s3 else spEvent (compCtx b) 0x68 data s3

/-- Every composition that a test accepts becomes FAILED. -/
def failComps (p : Bytes → Bool) (cause : Nat) (s : State) : State :=
  ((recsOf s RT.composition).filter (fun r => p r.body)).foldl (fun t r => failComp r.key cause t) s

/-- COMP_CREATE: the record, RUNNING at step epoch 0 (R82, R463). -/
def compCreateOwn (r : CtlReq) (s : State) : State :=
  let c := bodyChange .add RT.composition r
  recordCmd 0x61 r c (modComp c.key (fun _ => {})) s

/-- COMP_CREATE. -/
def execCompCreate (r : CtlReq) (s : State) : Host.Outcome State Fault Refusal := ctlOk (runCtl 0x61 r (compCreateOwn r) s)

/-- COMP_COMMIT's own part (R464): this switch journals the next epoch and instances under the old one abort. -/
def commitOwn (r : CtlReq) (s : State) : State :=
  let c := le r.args 0 2
  match recOf s RT.composition c with
  | none => ctlEnd 0x62 r Sts.nohome s
  | some _ =>
    let x := compOf s c
    if x.failed then ctlEnd 0x62 r Sts.aborted s
    else if le r.args 4 4 ≠ x.epoch ∨ x.epoch + 1 = 0xFFFFFFFF then ctlEnd 0x62 r Sts.stale s
    else
      match newJob 0x62 r.srcEp.toNat r.ctx.toNat [c] s with
      | (n, s1) =>
        let s2 := modComp c (fun y => { y with
          epoch := x.epoch + 1, journaled := put y.journaled s.cfg.switchId (x.epoch + 1),
          commitJob := if y.commitJob.isSome then y.commitJob else some n }) s1
        let s3 := journal .d0 (.stepEpoch c (x.epoch + 1)) s2
        let old := fun (i : Instance) => (grpView i.body).comp == some c
        jobAnswer 0x62 r n (abortInstances .d1 old Sts.aborted (abortInstances .d0 old Sts.aborted s3))

/-- COMP_COMMIT. -/
def execCompCommit (r : CtlReq) (s : State) : Host.Outcome State Fault Refusal := ctlOk (runCtl 0x62 r (commitOwn r) s)

/-- The jobs of a command for a composition beside one of them. -/
def otherJobs (s : State) (code c n : Nat) : List Nat := (s.cfg.jobs.filter (fun j => j.code == code && j.args == [c] && j.num != n)).map (·.num)

/-- COMP_COMMIT_COMPLETE: the oldest commit under way ends (R464); later ones have taken the epoch further. -/
def execCompCommitComplete (c : Nat) (s : State) : Host.Outcome State Fault Refusal :=
  match (compOf s c).commitJob, recOf s RT.composition c with
  | some n, some b =>
    let more := otherJobs s 0x62 c n
    let s1 := modComp c (fun y => { y with commitJob := more.head? }) s
    if (compSwitches b).all (liveSwitch s) then
      fltOk (jobDone n Sts.ok 0 (modComp c (fun y => { y with
        journaled := (compSwitches b).foldl (fun m k => put m k (y.epoch - more.length)) y.journaled }) s1))
    else fltOk (jobDone n Sts.homelost 0 (failComp c 2 s1))
  | _, _ => fltOk s

/-- COMP_ROLLBACK's own part (R466). -/
def rollbackOwn (r : CtlReq) (s : State) : State :=
  let c := le r.args 0 2
  match recOf s RT.composition c with
  | none => ctlEnd 0x63 r Sts.nohome s
  | some _ =>
    match newJob 0x63 r.srcEp.toNat r.ctx.toNat [c] s with
    | (n, s1) => jobAnswer 0x63 r n (endCompWork .d1 c (endCompWork .d0 c (modComp c (fun y => { y with
      rollbackJob := if y.rollbackJob.isSome then y.rollbackJob else some n }) s1)))

/-- COMP_ROLLBACK. -/
def execCompRollback (r : CtlReq) (s : State) : Host.Outcome State Fault Refusal := ctlOk (runCtl 0x63 r (rollbackOwn r) s)

/-- The least step epoch journaled among the listed LIVE switches; one that has journaled none stands at 0 (R82). -/
def leastJournaled (s : State) (c : Nat) (b : Bytes) : Nat :=
  let es := ((compSwitches b).filter (liveSwitch s)).map (fun k => getD (compOf s c).journaled k 0)
  es.foldl Nat.min (es.headD 0)

/-- COMP_ROLLBACK_COMPLETE (R466). -/
def execCompRollbackComplete (c : Nat) (s : State) : Host.Outcome State Fault Refusal :=
  match (compOf s c).rollbackJob, recOf s RT.composition c with
  | some n, some b =>
    if ringFull s .d0 64 then fltOk s
    else
    let e := leastJournaled s c b
    let s1 := modComp c (fun y => { y with
      failed := false, cause := 0, epoch := e, rollbackJob := (otherJobs s 0x63 c n).head?,
      journaled := ((compSwitches b).filter (liveSwitch s)).foldl (fun m k => put m k e) y.journaled }) s
    fltOk (jobDone n Sts.ok e (journal .d0 (.stepEpoch c e) (endCompWork .d1 c (endCompWork .d0 c s1))))
  | _, _ => fltOk s

/-! Ownership transfers: their ends (R460 to R462) -/

/-- The end of a transfer at its source: XFER_DONE, JOB_DONE, and XFER_ABORT when the status is not OK (R461, R469, R470). -/
def xferEnd (job : Nat) (st : BitVec 5) (old new : Nat) (s : State) : State :=
  let s1 := modFlt s (fun t => { t with xfers := t.xfers.filter (fun x => x.job != job) })
  let s2 := spEvent 0 0x67 (toLE 1 st.toNat ++ zeros 3 ++ toLE 4 job ++ toLE 8 old ++ toLE 8 new) s1
  jobDone job st 0 (if st = Sts.ok then s2 else fltBit 5 s2)

/-- The handle of an object of this switch. -/
def ownHandle (s : State) (id : Nat) : Nat := handleOf s id ((get? s.objs id).elim 0 (·.gen))

/-- A transfer without XFER_COMMIT is aborted: the object is RESIDENT again at its epoch and waiting accesses go on (R462). -/
def xferAbort (x : Xfer) (s : State) : State :=
  let s1 := modObj s x.obj (fun o => { o with st := if o.st = .moving then .resident else o.st })
  let s2 := xferEnd x.job Sts.aborted (ownHandle s x.obj) 0 s1
  let go := fun (d : Die) (t : State) => resume d (fun w => w.wait == .object x.obj) false t
  go .d1 (go .d0 s2)

/-! Applying a generation (R444, R449, R455, R458) -/

/-- Every accelerator endpoint of the switch is told that a home is lost, with CTX 0, past the rules of R385 (R455). -/
def homeLostEvents (sw : Nat) (s : State) : State :=
  let fatal := (recOf s RT.switch 0).elim false (fun b => bitAt (le b 3 1) 0)
  let eps := ((recsOf s RT.port).filter (fun r => le r.body 0 1 == 1)).flatMap (fun r =>
    (rangeFrom 0 (subsOfMode (le r.body 1 1))).map (fun k => subEp s r.key k))
  eps.foldl (fun t e => queueEntry t.cfg.activeSp {
    stream := 0, ctx := 0, code := if fatal then 0x65 else 0x64, coalesce := false, dest := some e, count := 1,
    data := toLE 2 sw ++ zeros 6 } t) s

/-- A frame of the die's services to a lost switch is sent again, and so answered HOMELOST (R454). -/
def resendLost (d : Die) (sw : Nat) (s : State) : State :=
  ((side s.col d).sends.filter (fun x => addrSwitch x.frame.addr.toNat == sw)).foldl (fun t x => sendFrom d x.frame t) s

/-- Does a group have a node on the switch? -/
def nodeOn (b : Bytes) (sw : Nat) : Bool := (rangeFrom 0 (le b 12 4)).any (fun i => (nodeEnt b i).1 == sw)

/-- Transfers to a switch that is no longer LIVE: uncommitted ones are aborted; a committed one ends, and its object, whose only copy
is there, answers HOMELOST (R462). -/
def xfersLost (sw : Nat) (s : State) : State :=
  (s.flt.xfers.filter (fun x => x.dstSwitch == sw)).foldl (fun t x =>
    if x.committed then xferEnd x.job Sts.homelost (ownHandle t x.obj) 0 (modObj t x.obj (fun o => { o with homeLost := true, st := .resident }))
    else xferAbort x t) s

/-- This switch self-fences (R445). -/
def selfFence (s : State) : State :=
  if s.flt.selfFenced then s
  else spEvent 0 0x62 [1#8] (fltBit 1 (modFlt s (fun t => { t with selfFenced := true })))

/-- The resequencers of a switch's streams start anew; frames they still hold are let go (R142). -/
def dropStreams (sw : Nat) (s : State) : State :=
  let mine := s.lft.reseq.filter (fun r => r.1 / 8 == sw)
  (mine.flatMap (fun r => r.2.held)).foldl (fun t x => letGo (reseqDie s sw) x.2 t) (modLft s (fun l => { l with reseq := l.reseq.filter (fun r => r.1 / 8 != sw) }))

/-- A switch's entry changes. -/
def applySwitch (sw : Nat) (st : SwitchSt) (to_ : Nat) (s : State) : State :=
  let s1 := modFlt s (fun t => { t with switches := put t.switches sw ⟨st, to_⟩ })
  if sw = s.cfg.switchId then if st = .promoted then selfFence s1 else s1
  else
    match st with
    | .live =>
      -- Admitted again, the switch starts its spray streams at 0, and so do its resequencers here (R142).
      if (get? s.flt.switches sw).elim true (fun e => e.st == .live) then s1 else dropStreams sw s1
    | .promoted => xfersLost sw (failComps (fun b => (compSwitches b).contains sw) 2 s1)
    | .lost =>
      let s2 := spEvent 0 0x61 (toLE 2 sw ++ zeros 6 ++ toLE 8 s.flt.gen) (fltBit 3 (fltBit 2 s1))
      let s3 := homeLostEvents sw s2
      let s4 := failComps (fun b => (compSwitches b).contains sw) 2 s3
      let dead := fun (i : Instance) => nodeOn i.body sw
      let s5 := abortInstances .d1 dead Sts.homelost (abortInstances .d0 dead Sts.homelost s4)
      xfersLost sw (resendLost .d1 sw (resendLost .d0 sw s5))

/-- An endpoint's fence epoch advances on a die: the fence notice, its windows, its descriptors and instances (R449 step 3, R222,
R183, R330, R364). -/
def fenceOnDie (d : Die) (ep : Nat) (s : State) : State :=
  let s1 := fenceHome d ep s
  let s2 := stopOps d (fun o => o.frame.srcEp.toNat == ep && computeOp o) Sts.fenced s1
  let hit := fun (i : Instance) => (positionsOf i.body i.node).any (fun p => positionEp i.body i.node p == some ep)
  if (side s2.col d).instances.any hit then setStatus (.col d) 2 (abortInstances d hit Sts.aborted s2) else s2

/-- An endpoint's fence epoch changes. The commands executed for it are forgotten (R109). -/
def applyFence (ep : Nat) (e : BitVec 16) (s : State) : State :=
  let s1 := modFlt s (fun t => { t with
    fence := put t.fence ep e, fencing := t.fencing.map (fun x => if x.ep = ep then { x with epoch := some e } else x) })
  let s2 := modCfg s1 (fun c => { c with cmdSeq := del c.cmdSeq ep })
  failComps (fun b => (compEps b).contains ep) 1 (fenceOnDie .d1 ep (fenceOnDie .d0 ep s2))

/-- The primary's switch of a replica set. -/
def primaryOf (b : Bytes) : Nat := (replicaMembers b).head?.elim 0 (·.1)

/-- The member chosen when a replica set is promoted: the lowest-indexed one on a LIVE switch, other than the primary. -/
def chosenMember (s : State) (b : Bytes) : Option Nat :=
  (((replicaMembers b).drop 1).find? (fun m => liveSwitch s m.1)).map (·.1)

/-- A replica set is promoted: the member serves the primary's addresses and treats every source there as doubtful (R184, R458). -/
def applyPromote (n : Nat) (s : State) : State :=
  match recOf s RT.replicaSet n with
  | none => s
  | some b =>
    let p := primaryOf b
    let here := (get? s.flt.switches p).elim false (fun e => e.st == .promoted && e.answer == s.cfg.switchId)
    let s1 := if here && (replicaMembers b).any (fun m => m.1 == s.cfg.switchId) && !s.flt.promoted.contains n then
        let doubt := fun (d : Die) (t : State) => modHome t d (fun h => { h with doubtful := insertNat p h.doubtful })
        spEvent 0 0x66 (toLE 2 n ++ zeros 2 ++ toLE 2 s.cfg.switchId ++ zeros 2)
          (doubt .d1 (doubt .d0 (modFlt s (fun t => { t with promoted := insertNat n t.promoted }))))
      else s
    match jobWith s1 0x64 (fun a => a == [n]) with
    | some j => jobDone j.num Sts.ok 0 s1
    | none => s1

/-- One change of the map. -/
def applyMapChange (c : MapChange) (s : State) : State :=
  match c with
  | .switch sw st to_ => applySwitch sw st to_ s
  | .fence ep e => applyFence ep e s
  | .promote n => applyPromote n s

/-- A generation applied: each change in order, journaled (R444). A generation not above the one applied has no effect; where there
is a gap the changes are those of the whole map that the switch fetches. -/
def applyGeneration (gen : Nat) (changes : List MapChange) (s : State) : State :=
  if gen ≤ s.flt.gen ∨ ringFull s .d0 64 then s
  else
    let s1 := journal .d0 (.map gen) (modFlt s (fun t => { t with gen := gen }))
    changes.foldl (fun t c => applyMapChange c t) s1

/-- The changes the keepers commit when they declare a switch lost: its entry, every endpoint of it, and the promotion of the sets
with AUTO whose primary it held, all to the member chosen for the first (R446, R458). -/
def lostChanges (s : State) (sw : Nat) : List MapChange :=
  let fences := (rangeFrom (sw * 256) 256).map (fun e => MapChange.fence e (getD s.flt.fence e 0 + 1))
  let sets := (recsOf s RT.replicaSet).filter (fun r => bitAt (le r.body 1 1) 0 && primaryOf r.body == sw)
  match sets.findSome? (fun r => chosenMember s r.body) with
  | none => .switch sw .lost sw :: fences
  | some t =>
    (.switch sw .lost sw :: fences) ++ .switch sw .promoted t ::
      ((sets.filter (fun r => chosenMember s r.body == some t)).map (fun r => .promote r.key))

/-- REPLICA_PROMOTE's own part (R458). The effect comes with the generation the keepers commit. An unknown set completes with NOHOME
and a set no member of which is on a LIVE switch with HOMELOST (DESIGN CHOICE, log 118: the manual gives neither). -/
def promoteOwn (r : CtlReq) (s : State) : State :=
  let n := le r.args 0 2
  match recOf s RT.replicaSet n with
  | none => ctlEnd 0x64 r Sts.nohome s
  | some b =>
    let e := get? s.flt.switches (primaryOf b)
    match chosenMember s b with
    | none => ctlEnd 0x64 r Sts.homelost s
    | some t =>
      if e.elim false (fun x => x.st == .promoted && x.answer != t) then ctlEnd 0x64 r Sts.denied s
      else
        match newJob 0x64 r.srcEp.toNat r.ctx.toNat [n] s with
        | (j, s1) => jobAnswer 0x64 r j (countGen s1)

/-- REPLICA_PROMOTE. -/
def execReplicaPromote (r : CtlReq) (s : State) : Host.Outcome State Fault Refusal := ctlOk (runCtl 0x64 r (promoteOwn r) s)

/-! Leases (R445 to R447) -/

/-- HEARTBEAT_SEND: a heartbeat goes to every keeper. DESIGN CHOICE (log 194): a module whose stalk has failed goes on sending heartbeats and keeps its
lease, as R30 says only that it stops admitting. -/
def execHeartbeatSend (s : State) : Host.Outcome State Fault Refusal :=
  fltOk (modFlt s (fun t => { t with reached := 0, heartbeats := [] }))

/-- HEARTBEAT: a keeper's answer counts for the latest heartbeat sent; a keeper answers and notes what it receives. -/
def execHeartbeat (sw : Nat) (s : State) : Host.Outcome State Fault Refusal :=
  let fromKeeper := (recOf s RT.mapKeeper sw).isSome
  if (!fromKeeper && !isKeeper s) || s.flt.heartbeats.contains sw then fltOk s
  else fltOk (modFlt s (fun t => { t with heartbeats := insertNat sw t.heartbeats, reached := if fromKeeper then t.reached + 1 else t.reached }))

/-- LEASE_LOSS: no majority of keepers has answered within 100 ms. -/
def execLeaseLoss (s : State) : Host.Outcome State Fault Refusal := fltOk (selfFence s)

/-- The numbering of this switch's spray streams restarts at 0 (R142). -/
def renumber (s : State) : State :=
  modLft s (fun l => { l with spray := l.spray.map (fun x => (x.1, { x.2 with nextNum := 0, acked := 0 })) })

/-- LEASE_REGAIN: LIVE and answered by itself, the switch leaves self-fencing; LOST, a commit makes it LIVE again, every replay window
goes, every source is doubtful and its spray streams start at 0; PROMOTED, it stays self-fenced (R445, R447). -/
def execLeaseRegain (s : State) : Host.Outcome State Fault Refusal :=
  let own := s.cfg.switchId
  let back := fun (t : State) => spEvent 0 0x62 [0#8] (modFlt t (fun x => { x with selfFenced := false }))
  if !s.flt.selfFenced ∨ ringFull s .d0 64 then fltOk s
  else
    match get? s.flt.switches own with
    | none => fltOk s
    | some e =>
      match e.st with
      | .live => if e.answer = own then fltOk (back (renumber s)) else fltOk s
      | .promoted => fltOk s
      | .lost =>
        let clean := fun (d : Die) (t : State) => modHome t d (fun h => { h with windows := [], doubtful := insertNat own h.doubtful })
        let s1 := journal .d0 (.map (s.flt.gen + 1)) (modFlt s (fun x => { x with
          gen := x.gen + 1, switches := put x.switches own ⟨.live, own⟩ }))
        fltOk (back (clean .d1 (clean .d0 (renumber s1))))

/-! Extents: revocation (R452, R453) -/

/-- The lines of a die in an extent that have a directory entry. -/
def extLines (s : State) (d : Die) (e : ExtV) : List (Nat × DirEntry) :=
  (side s.coh d).dir.filter (fun x => (extAt s (addrOff (lineAddr x.1))).elim false (fun y => y.idx == e.idx))

/-- Is a line of the class C cache in an extent? -/
def ccIn (s : State) (e : ExtV) (line : Nat) : Bool := (extAt s (addrOff (line * 64))).elim false (fun y => y.idx == e.idx)

/-- The dirty lines of the class C cache in an extent. -/
def ccDirtyIn (s : State) (d : Die) (e : ExtV) : List Nat :=
  ((side s.tier d).cc.filter (fun x => x.2.dirty && ccIn s e x.1)).map (·.1)

/-- Does admitted work on an extent go on at its home die (R452 step 2)? -/
def extWork (s : State) (e : ExtV) : Bool :=
  let d := e.die
  (side s.home d).waiting.any (fun w => (w.frame :: w.more).any (fun f =>
    (extAt s (transOff s f.addr.toNat)).elim false (fun y => y.idx == e.idx))) ||
  (side s.tier d).moves.any (fun m => (get? s.objs m.obj).elim false (fun o => o.ext == e.idx)) ||
  (side s.col d).ops.any (fun o => match o.kind with
    | .gather => (extAt s (transOff s o.frame.addr.toNat)).elim false (fun y => y.idx == e.idx)
    | .filter => (extAt s (transOff s o.frame.addr.toNat)).elim false (fun y => y.idx == e.idx)
    | .attend => (attendSessions o.frame).any (fun x => (sesOf s x).elim false (fun y => y.ext == e.idx))
    | .wake n => (sesOf s n).elim false (fun y => y.ext == e.idx || y.wakeExt == e.idx || y.packExt == e.idx)
    | .sleep n => (sesOf s n).elim false (fun y => y.ext == e.idx || y.packExt == e.idx)
    | .append => (extAt s (transOff s o.frame.addr.toNat)).elim false (fun y => y.idx == e.idx)
    | _ => false)

/-- Steps 2 and 3 of a revocation as far as they can go: once admitted work is over, hot lines leave the buffer, cached lines are
recalled, then dirty lines of the class C cache are written back; a lost home discards them (R456). -/
def revokeProgress (e : ExtV) (s : State) : State :=
  let d := e.die
  if extPhase s d e.idx ≠ .revoking || extWork s e then s
  else
    let s1 := modHome s d (fun h => { h with hot := h.hot.filter (fun x => !(ccIn s e x.1)) })
    let ls := extLines s1 d e
    if !ls.isEmpty then ls.foldl (fun t x => startRecall d x.1 1 false 0 t) s1
    else if (getD s1.exts e.idx {}).homeLost then modTier s1 d (fun t => { t with cc := t.cc.filter (fun x => !(ccIn s1 e x.1)) })
    else (ccDirtyIn s1 d e).foldl (fun t l => ccWriteback d l t) s1

/-- A die holds the extent as REVOKING. -/
def setRevoking (d : Die) (i : Nat) (s : State) : State := modExt s i (fun x => { x with phase := upd x.phase d (fun _ => .revoking) })

/-- EXT_REVOKE's own part: the accepting die is that of the active service processor; the response waits for the other die. -/
def revokeOwn (r : CtlReq) (s : State) : State :=
  let i := le r.args 0 4
  let d := s.cfg.activeSp
  match extOf s i, extPhase s d i with
  | none, _ => ctlEnd 0x21 r Sts.nohome s
  | some _, .free => ctlEnd 0x21 r Sts.nohome s
  | some _, .revoking => ctlEnd 0x21 r Sts.stale s
  | some _, .revoked => ctlEnd 0x21 r Sts.stale s
  | some e, .active =>
    match newJob 0x21 r.srcEp.toNat r.ctx.toNat [i] s with
    | (n, s1) =>
      let results := toLE 4 n ++ zeros 4
      let s2 := countGen (modExt (setRevoking d i s1) i (fun x => { x with job := some n }))
      revokeProgress e (modCfg (holdRsp 0x21 r Sts.ok 0 results s2) (fun c => { c with stalkWait := c.stalkWait ++ [⟨0x21, r, 0, results⟩] }))

/-- EXT_REVOKE. -/
def execExtRevoke (r : CtlReq) (s : State) : Host.Outcome State Fault Refusal := ctlOk (runCtl 0x21 r (revokeOwn r) s)

/-- EXT_REVOKE_STALK_APPLY: the other die holds the extent as REVOKING too, and the response leaves (R452 step 1). -/
def execExtRevokeStalkApply (i : Nat) (s : State) : Host.Outcome State Fault Refusal :=
  match extOf s i with
  | none => fltOk s
  | some e =>
    let p0 := extPhase s .d0 i
    let p1 := extPhase s .d1 i
    if (p0 = .revoking ∧ p1 = .active) ∨ (p0 = .active ∧ p1 = .revoking) then
      let s1 := revokeProgress e (setRevoking .d0 i (setRevoking .d1 i s))
      match s1.cfg.stalkWait.find? (fun x => x.code == 0x21 && le x.req.args 0 4 == i) with
      | none => fltOk s1
      | some x =>
        fltOk (sendCtlRsp s1.cfg.activeSp 0x21 x.req Sts.ok x.detail x.results
          (modCfg s1 (fun c => { c with stalkWait := dropFirst (fun y => y.code == 0x21 && le y.req.args 0 4 == i) c.stalkWait })))
    else fltOk s

/-- EXTENT_REVOKED: with the work, the recalls and the write-backs over the extent is REVOKED on both dies and its events are queued;
before that, what is due of them starts (R452). -/
def execExtentRevoked (i : Nat) (s : State) : Host.Outcome State Fault Refusal :=
  match extOf s i with
  | none => fltOk s
  | some e =>
    if extPhase s .d0 i ≠ .revoking ∨ extPhase s .d1 i ≠ .revoking then fltOk s
    else
      let s1 := revokeProgress e s
      if extWork s1 e || !(extLines s1 e.die e).isEmpty || !(ccDirtyIn s1 e.die e).isEmpty then fltOk s1
      else
        let job := (getD s1.exts i {}).job
        let s2 := modTier s1 e.die (fun t => { t with cc := t.cc.filter (fun x => !(ccIn s1 e x.1)) })
        let s3 := modExt s2 i (fun x => { x with phase := ⟨.revoked, .revoked⟩, job := none })
        let s4 := match job with
          | some n => jobDone n Sts.ok 0 s3
          | none => s3
        let data := toLE 4 i ++ zeros 4
        let s5 := if e.owner = 0 then s4 else event e.die e.owner 0x63 data s4
        fltOk (event e.die 0 0x63 data s5)

/-! A lost tray (R456) -/

/-- Does an object have a granule on the tray of a port? -/
def objOnTray (s : State) (d : Die) (port : Nat) (o : Obj) : Bool :=
  if o.tier = 1 then
    (rangeFrom (addrOff o.addr / 4096) (granules o.size)).any (fun g => (trayPlace s d (o.loc / 2 ^ 56) g).elim false (fun p => p.1 == port))
  else o.tier == 2 && (rangeFrom (locUnit o.loc) (granules o.size)).any (fun u =>
    (unitWhere s (locVol o.loc) u).elim false (fun k => k.1 / 2 ^ 20 == port))

/-- Another tier that the object's policy permits and that has room and quota, with the place there. -/
def otherTier (s : State) (e : ExtV) (o : Obj) : Option (Nat × Nat) :=
  [0, 1, 2].findSome? fun t =>
    if t ≠ o.tier ∧ policyPermits e t ∧ chargeFits s o.owner t o.size then (roomIn s e.die t o.size).map (fun l => (t, l)) else none

/-- An object of a lost tray: re-placed with every granule zero and poisoned under POISON_T where a tier takes it, else lost. -/
def loseObj (d : Die) (id : Nat) (s0 : State) : State :=
  let poisonT := (recOf s0 RT.switch 0).elim false (fun b => bitAt (le b 3 1) 1)
  let s := match moveOf s0 d id with
    | some m => endMove d m Sts.aborted s0
    | none => s0
  match get? s.objs id with
  | none => s
  | some o =>
    match (if poisonT then (extOf s o.ext).bind (fun e => (otherTier s e o).map (fun p => (e, p))) else none) with
    | some (e, tier, loc) =>
      let n := granules o.size
      let s1 := dropCharge d o.owner o.tier n (takeCharge d o.owner tier n s)
      let s2 := if o.tier = 2 then unmapUnits d o.loc n s1 else s1
      let s3 := modObj s2 id (fun x => { x with tier := tier, loc := loc, blank := tier == 1, written := [] })
      let s4 := { s3 with
        mem := memClear s3.mem o.addr (n * 4096), poison := (touched o.addr o.size).foldl (fun l g => insertNat g l) s3.poison }
      journalObj d e id (setStatus (.mem d) 0 s4)
    | none =>
      let s1 := modObj s id (fun x => { x with homeLost := true })
      match o.comp with
      | some c => failComp c 3 s1
      | none => s1

/-- A class C extent on the lost tray's interleave group: its home is lost and the device revokes it. -/
def loseExtent (d : Die) (e : ExtV) (s : State) : State :=
  let s1 := modExt s e.idx (fun x => { x with homeLost := true })
  let s2 := if extPhase s1 d e.idx = .active then setRevoking d e.idx s1 else s1
  match e.comp with
  | some c => failComp c 3 s2
  | none => s2

/-- Is the home of the data at an offset lost? -/
def homeLostAt (s : State) (off : Nat) : Bool :=
  match extAt s off with
  | none => false
  | some e => if e.classT then (objAt s off).elim false (fun o => o.2.homeLost) else (getD s.exts e.idx {}).homeLost

/-- The waiting requests of a die after a loss: those to lost data end with HOMELOST, and those that waited for a tray look again. -/
def settleLost (d : Die) (s : State) : State :=
  settleBehind d <| (side s.home d).waiting.foldl (fun t w =>
    if homeLostAt t (transOff t w.frame.addr.toNat) then
      (w.frame :: w.more).foldl (fun u f => refuse d f Sts.homelost u) (dropWaiting d w.order t)
    else if w.wait = .tray && !w.done then serve d w.order false t
    else t) s

/-- The copying, by die and number, that waits for an answer of a lost tray. -/
def lostJobs (s : State) (d : Die) (port : Nat) : List (Die × Nat) :=
  let reqs := (side s.tier d).trayReqs.filter (fun r => r.port == port)
  let flash := fun (j : CopyJob) => j.asked && (match j.steps.head? with
    | some (.fetch _ (.t2 v u)) => reqs.any (fun r => match r.why with
      | .flashRead vol unit _ _ => vol == v && unit == u
      | _ => false)
    | _ => false)
  reqs.filterMap (fun r => match r.why with
    | .copy e j => some (e, j)
    | _ => none) ++
    [Die.d0, Die.d1].flatMap (fun e => ((side s.tier e).copies.filter flash).map (fun j => (e, j.id)))

/-- A volume whose tray is lost while it is being formatted or brought up is offline: the tray does not answer (R259). -/
def unformat (port : Nat) (s : State) : State :=
  { s with
    vols := s.vols.map (fun v =>
      let on := (recOf s RT.ftlVolume v.1).elim false (fun b => (volTrays b).contains port)
      if on && (v.2.st == .formatting || v.2.asking) then (v.1, { v.2 with st := .offline, reason := 1, asking := false, formats := [] }) else v) }

/-- TRAY_LOST: the endpoint of a tray has been declared dead. -/
def execTrayLost (port : Nat) (s : State) : Host.Outcome State Fault Refusal :=
  match recOf s RT.tray port with
  | none => fltOk s
  | some b =>
    let d := portDie port
    if s.flt.lostTrays.contains port ∨ ringFull s d (2 ^ 20) then fltOk s
    else
      let s1 := fltBit 3 (modFlt s (fun t => { t with lostTrays := insertNat port t.lostTrays }))
      let s2 := modTier s1 d (fun t => { t with trayReqs := t.trayReqs.filter (fun r => r.port != port) })
      let stuck := lostJobs s1 d port
      let gone := ((side s2.ftl d).progs.filter (fun p => p.port == port)).map (·.id)
      let s3 := modFtl s2 d (fun x => { x with
        progs := x.progs.filter (fun p => p.port != port), relocs := x.relocs.filter (fun r => r.port != port),
        due := x.due.filter (fun r => r.1 != port), collects := x.collects.filter (fun p => p != port),
        staging := x.staging.map (fun y => if y.prog.elim false gone.contains then { y with prog := none, again := false } else y) })
      let isExt := fun (e : ExtV) => e.die == d && !e.classT && e.policy == 2 && le b 0 1 == 1 &&
        (getD s3.exts e.idx {}).group == trayGroup b && extPhase s3 d e.idx != .free
      let exts := ((recsOf s3 RT.extent).map (fun r => extView r.key r.body)).filter isExt
      let hits := fun (o : Nat × Obj) => (extOf s3 o.2.ext).elim false (fun e => e.die == d) && objOnTray s3 d port o.2
      let objs := (s3.objs.filter hits).map (·.1)
      let into := (side s3.tier d).moves.filter (fun m => m.started &&
        (m.dest == 1 && le b 0 1 == 1 && m.loc / 2 ^ 56 == trayGroup b) )
      let s4 := into.foldl (fun t m => endMove d m Sts.aborted t) (stuck.foldl (fun t j =>
        (jobAt t j.1 j.2).elim t (fun k => copyFails j.1 k Sts.homelost t)) (unformat port s3))
      let s5 := objs.foldl (fun t id => loseObj d id t) s4
      let s6 := exts.foldl (fun t e => loseExtent d e t) s5
      fltOk (exts.foldl (fun t e => revokeProgress e t) (settleLost d s6))

/-! Ownership transfer (R460 to R462) -/

/-- The checks of R460 that this switch can make, in the table's order. -/
def xferBad (s : State) (h dst epoch : Nat) : Option (BitVec 5) :=
  match get? s.objs (handleId h) with
  | none => some Sts.nohome
  | some o =>
    if addrSwitch h ≠ s.cfg.switchId ∨ o.gen ≠ handleGen h then some Sts.stale
    else if o.st ≠ .resident then some Sts.stale
    else if listedPage s (handleId h) then some Sts.denied
    else if (epoch ≠ 0 ∧ epoch ≠ o.epoch) ∨ 0xFFFFFFFF ≤ o.epoch + 1 then some Sts.stale
    else if !liveSwitch s dst || dst == s.cfg.switchId then some Sts.format
    else none

/-- What the destination answers to its checks of R460, which are made there and reach this switch as map traffic whose encoding is
not exposed: a free value. -/
def xferVerdict (s : State) : Option (BitVec 5) × State :=
  match drawFree s with
  | (k, s1) =>
    let v := (Config.freeValue k).toNat % 8
    (if v = 1 then some Sts.revoked else if v = 2 then some Sts.format else if v = 3 then some Sts.denied
      else if v = 4 then some Sts.quota else if v = 5 then some Sts.retry else none, s1)

/-- A write of GO: a snapshot of the two registers and a job; a job that a check turns away ends at once with its status. -/
def xferGo (ep : Nat) (s : State) : BitVec 5 × State :=
  if jobsFull s || ringFull s .d0 64 || ringFull s .d1 64 then (Sts.retry, s)
  else
    let h := s.flt.xferSrc.toNat
    let dst := fld s.flt.xferDst.toNat 63 52
    let ext := fld s.flt.xferDst.toNat 51 32
    let epoch := fld s.flt.xferDst.toNat 31 0
    match newJob 0xFFFF ep 0 [] s with
    | (n, s0) =>
      let s1 := modFlt s0 (fun t => { t with xferJob := n })
      match xferBad s1 h dst epoch with
      | some st => (Sts.ok, xferEnd n st h 0 s1)
      | none =>
        match xferVerdict s1 with
        | (some st, s2) => (Sts.ok, xferEnd n st h 0 s2)
        | (none, s2) =>
          let id := handleId h
          let d := (get? s2.objs id).elim Die.d0 (fun o => (extOf s2 o.ext).elim .d0 (·.die))
          let x : Xfer := { job := n, obj := id, dstSwitch := dst, dstExt := ext, dirty := [], switching := false, committed := false }
          let s3 := journal d (.xferOut id) (modObj (modFlt s2 (fun t => { t with xfers := t.xfers ++ [x] })) id (fun o => { o with st := .moving }))
          (Sts.ok, (get? s3.objs id).elim s3 (fun o => startCopy d (.xfer n) (fetchObj o) s3))

/-- The destination's checks of R460, in the table's order. -/
def xferInBad (s : State) (x : XferIn) : Option (BitVec 5) :=
  match extOf s x.ext with
  | none => some Sts.revoked
  | some e =>
    if extPhase s e.die x.ext ≠ .active then some Sts.revoked
    else if !e.classT || e.owner != x.owner then some Sts.format
    else if !policyPermits e x.tier then some Sts.denied
    else if !chargeFits s x.owner x.tier x.size then some Sts.quota
    else if (roomIn s e.die x.tier x.size).isNone || (freeRange s e x.size).isNone || (freeObjId s).isNone then some Sts.retry
    else none

/-- XFER_IN: where the destination's checks pass it creates the object in INBOUND at epoch e + 1, with the bytes and poison markers the
transfer brings, and journals XFER_IN (R461 step 2). -/
def execXferIn (x : XferIn) (s : State) : Host.Outcome State Fault Refusal :=
  if (xferInBad s x).isSome || s.objs.any (fun o => o.2.st == .inbound && o.2.oldHandle == x.oldHandle.toNat) then fltOk s
  else
    match extOf s x.ext with
    | none => fltOk s
    | some e =>
      match freeObjId s, roomIn s e.die x.tier x.size, freeRange s e x.size with
      | some id, some loc, some off =>
        if ringFull s e.die 64 then fltOk s
        else
          let addr := s.cfg.switchId * 2 ^ 52 + off
          let o : Obj := {
            owner := x.owner, tier := x.tier, st := .inbound, kind := x.kind, pins := 0, addr := addr, size := x.size, ext := x.ext,
            epoch := x.epoch + 1, refcount := 1, loc := loc, gen := 0, comp := e.comp, ses := 0, layer := 0, hg := 0,
            oldHandle := x.oldHandle.toNat }
          let s1 := writeMem (makeObj e id o s) addr (fit x.data x.size)
          let s2 := { s1 with poison := (x.poison.filter (fun g => decide (g * 64 < x.size))).foldl (fun l g => insertNat (addr / 64 + g) l) s1.poison }
          fltOk (journal e.die (.xferIn id) (startCopy e.die (.out id) (putObj o) s2))
      | _, _, _ => fltOk s

/-- XFER_SWITCHOVER: once the accesses already admitted have completed, accesses wait, the last dirty granules are copied, XFER_COMMIT is
journaled (R461 step 4). -/
def execXferSwitchover (job : Nat) (s : State) : Host.Outcome State Fault Refusal :=
  match s.flt.xfers.find? (fun x => x.job == job) with
  | none => fltOk s
  | some x =>
    let d := (get? s.objs x.obj).elim Die.d0 (fun o => (extOf s o.ext).elim .d0 (·.die))
    if (jobFor s d (.xfer job)).elim false (fun j => j.failed.isSome) then fltOk (dropJob d (.xfer job) (xferAbort x s))
    else if x.committed || ringFull s d 64 || accessOpen s d x.obj || !copied s d (.xfer job) then fltOk s
    else
      fltOk (journal d (.xferCommit x.obj) (modFlt (dropJob d (.xfer job) s) (fun t => { t with
        xfers := t.xfers.map (fun y => if y.job = job then { y with switching := true, committed := true, dirty := [] } else y) })))

/-- An INBOUND object becomes RESIDENT, journaled, once its bytes lie where it lies (R461 step 5). -/
def inboundResident (id : Nat) (s : State) : State :=
  match get? s.objs id with
  | none => s
  | some o =>
    if o.st ≠ .inbound then s
    else
      match extOf s o.ext with
      | none => s
      | some e =>
        if !copyEnded s e.die (.out id) then s
        else journal e.die (.object id) (modObj (dropJob e.die (.out id) s) id (fun x => { x with st := .resident, oldHandle := 0 }))

/-- The waiting accesses to an object that has left end with STALE (R461 step 6). -/
def staleWaiting (d : Die) (id : Nat) (s : State) : State :=
  settleBehind d <| ((side s.home d).waiting.filter (fun w => w.wait == .object id)).foldl (fun t w =>
    (w.frame :: w.more).foldl (fun u f => refuse d f Sts.stale u) (dropWaiting d w.order t)) s

/-- XFER_COMMIT_APPLY: at the source, the committed transfer of that job ends, its waiters STALE and its object freed; at a destination
the operand names the INBOUND object, which becomes RESIDENT. The new handle is the destination's: its switch and a free value. -/
def execXferCommitApply (job : Nat) (s : State) : Host.Outcome State Fault Refusal :=
  match s.flt.xfers.find? (fun x => x.job == job && x.committed) with
  | some x =>
    let old := ownHandle s x.obj
    match drawFree s with
    | (k, s1) =>
      let new := x.dstSwitch * 2 ^ 52 + (Config.freeValue k).toNat % 2 ^ 52
      let s2 := staleWaiting .d1 x.obj (staleWaiting .d0 x.obj s1)
      fltOk (xferEnd job Sts.ok old new (dropObj x.obj s2))
  | none => fltOk (inboundResident job s)

/-- XFER_RESOLVE: the journal of the switch that answers for each source decides: XFER_COMMIT makes the INBOUND object RESIDENT, none
frees it; a transfer of this switch that has none is aborted (R462). -/
def execXferResolve (answers : List XferAnswer) (s : State) : Host.Outcome State Fault Refusal :=
  fltOk (answers.foldl (fun t a =>
    let h := a.oldHandle.toNat
    let t1 := (t.objs.filter (fun o => o.2.st == .inbound && o.2.oldHandle == h)).foldl (fun u o =>
      if a.committed then inboundResident o.1 u else dropObj o.1 (dropJob .d1 (.out o.1) (dropJob .d0 (.out o.1) u))) t
    (t1.flt.xfers.filter (fun x => !x.committed && !a.committed && ownHandle t1 x.obj == h)).foldl (fun u x => xferAbort x u) t1) s)

/-! Pepper rules (R467, R468) -/

/-- PEP_SET's own part. -/
def pepSetOwn (r : CtlReq) (s : State) : State :=
  let a := r.args
  let kind := le a 1 1
  let ctx := le a 6 2
  let soak := decide (ctx ≠ 0) && r.ctx.toNat == ctx && (kind == 1 || kind == 2 || kind == 4)
  let debug := s.sec.unlocked && s.sec.scope.getLsbD 0 && r.ctx.toNat == 0
  if !soak && !debug then ctlEnd 0x90 r Sts.denied s
  else
    let rule : PepRule := {
      kind := kind, mask := le a 2 1, port := le a 4 2, ctx := ctx, magnitude := le a 8 4, log2 := le a 12 1,
      lfsr := BitVec.ofNat 64 (le a 16 8), soak := soak }
    ctlEnd 0x90 r Sts.ok (modFlt s (fun t => { t with pepper := put t.pepper (le a 0 1) rule }))

/-- PEP_SET. -/
def execPepSet (r : CtlReq) (s : State) : Host.Outcome State Fault Refusal := ctlOk (runCtl 0x90 r (pepSetOwn r) s)

/-- PEP_CLEAR's own part: under another context than 0 it removes only that context's soak rules; under context 0 it needs the debug
unlock with PEPPER (R468). -/
def pepClearOwn (r : CtlReq) (s : State) : State :=
  let n := le r.args 0 1
  let c := r.ctx.toNat
  let debug := s.sec.unlocked && s.sec.scope.getLsbD 0 && c == 0
  if c = 0 && !debug then ctlEnd 0x91 r Sts.denied s
  else
    let hit := fun (x : Nat × PepRule) => (n == 0xFF || x.1 == n) && (c == 0 || (x.2.soak && x.2.ctx == c))
    ctlEnd 0x91 r Sts.ok (modFlt s (fun t => { t with pepper := t.pepper.filter (fun x => !hit x) }))

/-- PEP_CLEAR. -/
def execPepClear (r : CtlReq) (s : State) : Host.Outcome State Fault Refusal := ctlOk (runCtl 0x91 r (pepClearOwn r) s)

end Machine
end Sys2Proof
end

