-- ==== Sys2Proof/Machine/Flash.lean ====
section
/-! DEFINITION. The flash engine: programming staged units, reads with retries, relocation, OUVI merges, erasing in journal order,
the journal ring and its checkpoints, the map's rebuild, bringing volumes online (R254 to R276). -/

namespace Sys2Proof
namespace Machine

/-- The outcome of a flash command. -/
abbrev ftlOk (s : State) : Host.Outcome State Fault Refusal := .next s

/-! Blocks (R254, R266, R269) -/

/-- The blocks of a tray. -/
def trayBlocks : Nat := 2 ^ 20

/-- The listed blocks of a tray; a block that is not listed is FREE and has never been erased. -/
def portBlocks (s : State) (d : Die) (port : Nat) : Dict Blk := (side s.ftl d).blocks.filter (fun x => x.1 / 2 ^ 20 == port)

/-- The volume that lists a tray's port. -/
def volOfPort (s : State) (port : Nat) : Option Nat :=
  ((recsOf s RT.ftlVolume).find? (fun r => ((volTrays r.body).contains port))).map (·.key)

/-- The blocks of each tray in the SLC pool of a volume (R257). -/
def slcQuota (s : State) (vol : Nat) : Nat := (recOf s RT.ftlVolume vol).elim 0 (fun b => trayBlocks * le b 22 2 / 1000)

/-- The blocks of a tray in use in one mode. -/
def usedBlocks (s : State) (d : Die) (port : Nat) (slc : Bool) : Nat :=
  ((portBlocks s d port).filter (fun x => x.2.slc == slc && x.2.st != .free)).length

/-- The free SLC-pool blocks of a tray (DEDUCED, log 40). -/
def slcFree (s : State) (d : Die) (vol port : Nat) : Nat := slcQuota s vol - usedBlocks s d port true

/-- The free dense blocks of a tray: those outside the SLC pool (DEDUCED, log 40). -/
def denseFree (s : State) (d : Die) (vol port : Nat) : Nat := trayBlocks - slcQuota s vol - usedBlocks s d port false

/-- The FREE block of least ERASE_COUNT, ties to the lowest address, among n addresses from lo (R269). -/
def freeBlock (s : State) (d : Die) (port lo n : Nat) : Option Nat :=
  let bs := (portBlocks s d port).filter (fun x => decide (lo ≤ x.1 % 2 ^ 20) && decide (x.1 % 2 ^ 20 < lo + n))
  let fresh := (leastFrom (fun a => (get? bs (blkKey port a)).isNone) lo (min n (bs.length + 1))).map (fun a => (0, blkKey port a))
  let old := (bs.filter (fun x => x.2.st == .free)).map (fun x => (x.2.eraseCount, x.1))
  ((old ++ fresh.toList).foldl (fun b x => match b with
    | none => some x
    | some y => if x.1 < y.1 ∨ (x.1 = y.1 ∧ x.2 < y.2) then some x else b) (none : Option (Nat × Nat))).map (·.2)

/-- Open a block, journaled (R266, R274). -/
def openBlock (d : Die) (vol key : Nat) (slc : Bool) (s : State) : State :=
  let h := (side s.ftl d).hours
  let t := senseTemp s d key
  journal d (.blockOpen vol (key / 2 ^ 20) (key % 2 ^ 20) slc h t)
    (modBlk s d key (fun b => { b with
      st := .openBlk, slc := slc, progHours := h, progTemp := t, reads := 0, nextPage := 0, closedAt := 0, area := false }))

/-- The units of a page-mapped volume that lie in a block, in page and chunk order. -/
def blockUnits (s : State) (vol key : Nat) : List Nat :=
  let here := (getD s.vols vol {}).map.filter (fun m =>
    blkKey (volPort s vol (fld m.2.toNat 61 58)) (fld m.2.toNat 57 38) == key)
  (sortBy (fun (a b : Nat × BitVec 64) => decide (fld a.2.toNat 37 26 < fld b.2.toNat 37 26)) here).map (·.1)

/-- The group of an OUVI volume whose dense block is a block (R265). -/
def groupOf (s : State) (vol key : Nat) : Option Nat := ((getD s.vols vol {}).groups.find? (fun g => g.2 == key)).map (·.1)

/-- The map pages of a volume that lie in a block of its map area (R263). -/
def areaPages (s : State) (vol key : Nat) : List Nat := ((getD s.vols vol {}).mapArea.filter (fun x => x.2.1 == key)).map (·.1)

/-- Does a block hold a mapped unit, or a page of the map? -/
def holdsUnits (s : State) (vol key : Nat) : Bool :=
  !(blockUnits s vol key).isEmpty || (groupOf s vol key).isSome || !(areaPages s vol key).isEmpty

/-- Make a relocation of a block due, once. -/
def makeDue (d : Die) (port : Nat) (kind : RelocKind) (key : Nat) (s : State) : State :=
  modFtl s d (fun x => { x with due := if x.due.contains (port, kind, key) then x.due else x.due ++ [(port, kind, key)] })

/-- Retire a block, journaled; one that holds mapped units is due for rescue (R262, R269, R271), and map pages in it are written anew at the next
checkpoint. -/
def retireBlk (d : Die) (vol key : Nat) (s : State) : State :=
  let lost := areaPages s vol key
  let s0 := modVol s vol (fun v => { v with
    mapArea := v.mapArea.filter (fun x => x.2.1 != key), changedPages := lost.foldl (fun l p => insertNat p l) v.changedPages })
  let s1 := setStatus (.ftl d) 2 (journal d (.blockRetire vol (key / 2 ^ 20) (key % 2 ^ 20)) (modBlk s0 d key (fun b => { b with st := .retired })))
  if holdsUnits s1 vol key then makeDue d (key / 2 ^ 20) .rescue key s1 else s1

/-! Programming (R255, R256, R261) -/

/-- The local address of a logical unit of a volume: that of the object that covers it, or that moves there. -/
def unitAddr (s : State) (vol unit : Nat) : Option Nat :=
  let here := fun (o : Obj) (loc : Nat) =>
    let u := locUnit loc
    if locVol loc = vol ∧ u ≤ unit ∧ unit < u + granules o.size then some (o.addr + (unit - u) * 4096) else none
  match s.objs.findSome? (fun o => if o.2.tier = 2 then here o.2 o.2.loc else none) with
  | some a => some a
  | none => ((side s.tier .d0).moves ++ (side s.tier .d1).moves).findSome? (fun m =>
      if m.started ∧ m.dest = 2 then (get? s.objs m.obj).bind (fun o => here o m.loc) else none)

/-- The 4,096 bytes of a logical unit as they go to flash (R60). -/
def unitBytes (s : State) (vol unit : Nat) : Bytes := (unitAddr s vol unit).elim (zeros 4096) (fun a => sealMem s a (readMem s a 4096))

/-- The number of pages of a block in its mode. -/
def pagesOf (b : Blk) : Nat := if b.slc then 256 else 768

/-- Program the next page of an open block with up to four units or four map pages; the rest of the page is zeros. OFFSET bit 13 of the first
chunk of a block opens it one bit per cell (R256). -/
def programPage (d : Die) (vol key : Nat) (units maps : List Nat) (reloc : Option RelocKind) (s : State) : State :=
  let b := blkOf s d key
  let id := (side s.ftl d).nextProg
  let p : Prog :=
    { id := id, vol := vol, port := key / 2 ^ 20, blk := key % 2 ^ 20, page := b.nextPage, units := units, reloc := reloc, maps := maps }
  let chunk := fun (t : State) (i : Nat) => match units[i]?, maps[i]? with
    | some u, _ => unitBytes t vol u
    | none, some m => mapPageBytes t vol m
    | none, none => zeros 4096
  let s1 := modFtl (modBlk s d key (fun x => { x with nextPage := x.nextPage + 1 })) d (fun x => { x with
    progs := x.progs ++ [p], nextProg := id + 1 })
  (rangeFrom 0 4).foldl (fun t i =>
    let off := i * 4096 + (if b.slc ∧ b.nextPage = 0 ∧ i = 0 then 8192 else 0)
    askTray d (key / 2 ^ 20) Opc.st 0 (physAddr 1 0 key b.nextPage off) 0 (chunk t i) (.program id i) t) s1

/-- The trays, channels and targets of a volume in the order of striping: tray first (R261). -/
def stripePos (s : State) (vol n : Nat) : Nat × Nat :=
  let k := (recOf s RT.ftlVolume vol).elim 1 (fun b => le b 2 1)
  (volPort s vol (n % k), n / k % 64)

/-- The open SLC-pool block of a tray and target, if there is one with a page left. -/
def openSlc (s : State) (d : Die) (port tgt : Nat) : Option Nat :=
  ((portBlocks s d port).find? (fun x => x.2.st == .openBlk && x.2.slc && decide (x.2.nextPage < 256) &&
    x.1 % 2 ^ 20 / 2 ^ 14 == fld tgt 2 0 * 8 + fld tgt 5 3)).map (·.1)

/-- The log blocks an OUVI volume may have (R265). -/
def maxLogs (s : State) (vol : Nat) : Nat := unitsOfVol s vol / 3072 / 32

/-- A block for a page of the SLC pool at a stripe position: an open one, or a new one. -/
def slcBlock (s : State) (d : Die) (vol n : Nat) : Option (Nat × Bool) :=
  match stripePos s vol n with
  | (port, tgt) =>
    match openSlc s d port tgt with
    | some k => some (k, false)
    | none =>
      if slcFree s d vol port = 0 ∨ (volOuvi s vol ∧ maxLogs s vol ≤ (getD s.vols vol {}).logs.length) then none
      else (freeBlock s d port ((fld tgt 2 0 * 8 + fld tgt 5 3) * 2 ^ 14) (2 ^ 14)).map (fun k => (k, true))

/-- SLC_PROGRAM: four staged units of a volume are gathered and programmed at the next stripe position (R261); fewer while the hold-up
bank is low and writes wait for media (R477, DESIGN CHOICE, log 172), and of units that came back from the flush region (R277 step 5). -/
def execSlcProgram (d : Die) (vol : Nat) (s : State) : Host.Outcome State Fault Refusal :=
  let us := (((side s.ftl d).staging.filter (fun x => x.vol == vol && x.prog.isNone)).map (·.unit)).take 4
  let v := getD s.vols vol {}
  let n := 64 * (recOf s RT.ftlVolume vol).elim 0 (fun b => le b 2 1)
  let back := (side s.ftl d).staging.any (fun x => x.vol == vol && x.prog.isNone && x.flushed)
  if us.isEmpty ∨ (us.length < 4 ∧ !s.mod.holdupLow ∧ !back) ∨ volDie s vol ≠ d ∨ !(v.st == .online || v.st == .rebuild) ∨ ringFull s d 512 then ftlOk s
  else
    match (rangeFrom v.rr n).find? (fun k => (slcBlock s d vol k).isSome) with
    | none => ftlOk s
    | some k =>
      match slcBlock s d vol k with
      | none => ftlOk s
      | some (key, fresh) =>
        let s1 := if fresh then openBlock d vol key true s else s
        let s2 := modVol s1 vol (fun x => { x with rr := (k + 1) % n, logs := if fresh && volOuvi s vol then x.logs ++ [key] else x.logs })
        let id := (side s2.ftl d).nextProg
        let s3 := modFtl s2 d (fun x => { x with
          staging := x.staging.map (fun y => if y.vol = vol ∧ us.contains y.unit then { y with prog := some id, again := false } else y) })
        ftlOk (programPage d vol key us [] none s3)

/-- Map a unit: the map page in the cache changes (R263). -/
def setMap (vol unit : Nat) (e : BitVec 64) (s : State) : State :=
  let s1 := modVol s vol (fun v => { v with map := put v.map unit e, changedPages := insertNat (unit / 512) v.changedPages })
  if volOuvi s vol then s1 else mapPut (volDie s vol) vol (unit / 512) true s1

/-- The entry of a chunk of a page. -/
def entryAt (s : State) (vol port blk page chunk : Nat) (slc : Bool) : BitVec 64 := mapEntry slc (volTrayIdx s vol port) blk page chunk

/-- Resend a request that a tray answered with RETRY. -/
def resend (d : Die) (r : TrayReq) (s : State) : State := sendPort d r.port r.frame s

/-- FLASH_TRAY_BUSY: the request is sent again (R256). -/
def execFlashTrayBusy (d : Die) (f : Frame) (s0 : State) : Host.Outcome State Fault Refusal :=
  match trayReqOf s0 d f with
  | some r => if f.status = Sts.retry then ftlOk (resend d r (takeAgent d f s0)) else ftlOk s0
  | none => ftlOk s0

/-- A page of staged units is on flash: each is mapped and journaled, its slot is free unless it was written again, and reads that had to wait for it
go on. -/
def slcDone (d : Die) (p : Prog) (s : State) : State :=
  let done := (rangeFrom 0 p.units.length).foldl (fun t i =>
    let u := nth p.units i 0
    let e := entryAt t p.vol p.port p.blk p.page i true
    let t1 := journal d (.mapSet p.vol u e) (setMap p.vol u e t)
    modFtl t1 d (fun x => { x with
      staging := (x.staging.filter (fun y => !(y.vol == p.vol && y.unit == u && y.prog == some p.id && !y.again))).map (fun y =>
        if y.vol = p.vol ∧ y.unit = u ∧ y.prog = some p.id then { y with prog := none, again := false, flushed := false } else y) })) s
  resume d (fun w => match w.wait with
    | .flushed v u => v == p.vol && p.units.contains u
    | _ => false) false done

/-! Relocation (R269 to R271) -/

/-- The relocation of a kind on a tray. -/
def relocOf (s : State) (d : Die) (port : Nat) (kind : RelocKind) : Option Reloc :=
  (side s.ftl d).relocs.find? (fun r => r.port == port && r.kind == kind)

/-- The state with a relocation changed. -/
def modReloc (d : Die) (port : Nat) (kind : RelocKind) (g : Reloc → Reloc) (s : State) : State :=
  modFtl s d (fun x => { x with relocs := x.relocs.map (fun r => if r.port = port ∧ r.kind = kind then g r else r) })

/-- The map entry that a copy of a unit starts from: the page map's, or 0 for a unit of an OUVI group that has none. -/
def srcEntry (s : State) (vol unit : Nat) : BitVec 64 := getD (getD s.vols vol {}).map unit 0

/-- Is a unit still to be copied: mapped in a source, or any unit of the group being rewritten? -/
def stillHere (s : State) (r : Reloc) (u : Nat) : Bool :=
  volOuvi s r.vol || (match unitWhere s r.vol u with
    | some (k, _, _) => r.sources.contains k
    | none => false)

/-- Is a page of the relocation being programmed? -/
def relocBusy (s : State) (d : Die) (r : Reloc) : Bool :=
  (side s.ftl d).progs.any (fun p => p.port == r.port && p.reloc == some r.kind)

/-- Program the page whose units have all been read, noting each copy. -/
def relocProgram (d : Die) (r : Reloc) (s : State) : State :=
  let b := blkOf s d r.target
  let notes := (rangeFrom 0 r.cur.length).map (fun i =>
    let u := nth r.cur i 0
    (u, srcEntry s r.vol u, entryAt s r.vol (r.target / 2 ^ 20) (r.target % 2 ^ 20) b.nextPage i false))
  let s1 := modReloc d r.port r.kind (fun x => { x with cur := [], notes := x.notes ++ notes }) s
  programPage d r.vol r.target r.cur [] (some r.kind) s1

/-- Carry a relocation on: start reading the next four units, or program the page that has been read. -/
def relocGo (d : Die) (port : Nat) (kind : RelocKind) (s : State) : State :=
  match relocOf s d port kind with
  | none => s
  | some r =>
    if relocBusy s d r || !r.curWait.isEmpty then s
    else if !r.cur.isEmpty then relocProgram d r s
    else if 768 ≤ (blkOf s d r.target).nextPage then s
    else
      let rest := r.left.filter (stillHere s r)
      let cur := rest.take 4
      let wait := cur.filter (fun u => (unitWhere s r.vol u).isSome && (stagedUnit s d r.vol u).isNone)
      let s1 := modReloc d port kind (fun x => { x with left := rest.drop 4, cur := cur, curWait := wait }) s
      if cur.isEmpty then s1
      else if wait.isEmpty then relocProgram d { r with cur := cur } s1
      else wait.foldl (fun t u => startRead d r.vol u t) s1

/-- A read of a unit is over: relocations that waited for it go on. -/
def relocRead (d : Die) (vol unit : Nat) (s : State) : State :=
  (side s.ftl d).relocs.foldl (fun t r =>
    if r.vol = vol ∧ r.curWait.contains unit then
      relocGo d r.port r.kind (modReloc d r.port r.kind (fun x => { x with curWait := x.curWait.filter (fun u => u != unit) }) t)
    else t) s

/-! The map area (R263, R275) -/

/-- A block for map pages of a volume: the open one of its map area, or a new dense block of the first of its trays that has one free. -/
def areaBlock (s : State) (d : Die) (vol : Nat) : Option (Nat × Bool) :=
  let ports := (recOf s RT.ftlVolume vol).elim [] volTrays
  match (side s.ftl d).blocks.find? (fun x => x.2.area && x.2.st == .openBlk && decide (x.2.nextPage < 768) && ports.contains (x.1 / 2 ^ 20)) with
  | some x => some (x.1, false)
  | none => (ports.filter (fun p => decide (0 < denseFree s d vol p))).findSome? (fun p => (freeBlock s d p 0 trayBlocks).map (fun k => (k, true)))

/-- A checkpoint goes on writing map pages to the map areas, up to four of a volume at a time (R275 step 3). -/
def areaGo (d : Die) (s : State) : State :=
  let x := side s.ftl d
  match x.mapLeft with
  | [] => s
  | (vol, _) :: _ =>
    if x.progs.any (fun p => !p.maps.isEmpty) then s
    else
      let ps := ((x.mapLeft.filter (fun y => y.1 == vol)).map (·.2)).take 4
      match areaBlock s d vol with
      | none => s
      | some (key, fresh) =>
        let s1 := if fresh then modBlk (openBlock d vol key false s) d key (fun b => { b with area := true }) else s
        programPage d vol key [] ps none
          (modFtl s1 d (fun y => { y with mapLeft := y.mapLeft.filter (fun z => !(z.1 == vol && ps.contains z.2)) }))

/-- A page of map pages is on flash: the map area holds them there, and the next follow. -/
def areaDone (d : Die) (p : Prog) (s : State) : State :=
  areaGo d (modVol s p.vol (fun v => { v with
    mapArea := (rangeFrom 0 p.maps.length).foldl (fun l i => put l (nth p.maps i 0) (blkKey p.port p.blk, p.page, i)) v.mapArea }))

/-- SLC_PROGRAM_DONE: a chunk of a page is answered OK; at the fourth the page is on flash (R261). -/
def execSlcProgramDone (d : Die) (f : Frame) (s0 : State) : Host.Outcome State Fault Refusal :=
  match trayReqOf s0 d f with
  | none => ftlOk s0
  | some r =>
    match r.why with
    | .program id chunk =>
      if f.status ≠ Sts.ok ∨ (chunk = 3 ∧ ringFull s0 d 512) then ftlOk s0
      else
        let s := dropTrayReq d r.tag (takeAgent d f s0)
        if chunk ≠ 3 then
          ftlOk (modFtl s d (fun x => { x with progs := x.progs.map (fun p => if p.id = id then { p with acked := p.acked + 1 } else p) }))
        else
          match (side s.ftl d).progs.find? (fun p => p.id == id) with
          | none => ftlOk s
          | some p =>
            let s1 := modFtl s d (fun x => { x with progs := x.progs.filter (fun q => q.id != id) })
            let s2 := modVol s1 p.vol (fun v => { v with programs := (v.programs + p.units.length) % 2 ^ 64 })
            match p.reloc with
            | some k => ftlOk (relocGo d p.port k s2)
            | none =>
              let key := blkKey p.port p.blk
              let s3 := if p.maps.isEmpty then pump (slcDone d p s2) else areaDone d p s2
              if pagesOf (blkOf s3 d key) ≤ (blkOf s3 d key).nextPage ∧ !(side s3.ftl d).progs.any (fun q => q.port == p.port && q.blk == p.blk) then
                let n := (side s3.ftl d).closeSeq
                ftlOk (modFtl (modBlk s3 d key (fun b => { b with st := .closed, closedAt := n })) d (fun x => { x with closeSeq := n + 1 }))
              else ftlOk s3
    | _ => ftlOk s0

/-- The volume's trays have a block for a new relocation target on a tray. -/
def targetBlock (s : State) (d : Die) (vol port : Nat) : Option Nat :=
  if denseFree s d vol port = 0 then none else freeBlock s d port 0 trayBlocks

/-- Start a relocation of some sources: a target is opened, the first units are read. -/
def relocStart (d : Die) (vol port : Nat) (kind : RelocKind) (sources left : List Nat) (group : Nat) (more : List Nat) (s : State) : State :=
  match targetBlock s d vol port with
  | none => s
  | some t =>
    let s1 := openBlock d vol t false s
    let s2 := modFtl s1 d (fun x => { x with
      relocs := x.relocs ++ [{ port := port, vol := vol, kind := kind, sources := sources, target := t, left := left, group := group, more := more }] })
    relocGo d port kind s2

/-- PROGRAM_ABORTED: the block is retired and its units are programmed elsewhere (R262, R271). -/
def execProgramAborted (d : Die) (f : Frame) (s0 : State) : Host.Outcome State Fault Refusal :=
  match trayReqOf s0 d f with
  | none => ftlOk s0
  | some r =>
    match r.why with
    | .program id _ =>
      if f.status = Sts.ok ∨ f.status = Sts.retry ∨ ringFull s0 d 512 then ftlOk s0
      else
        let s := takeAgent d f s0
        match (side s.ftl d).progs.find? (fun p => p.id == id) with
        | none => ftlOk (dropTrayReq d r.tag s)
        | some p =>
          let key := blkKey p.port p.blk
          let gone := ((side s.ftl d).progs.filter (fun q => q.port == p.port && q.blk == p.blk)).map (·.id)
          let s1 := modTier s d (fun t => { t with
          trayReqs := t.trayReqs.filter (fun x => match x.why with
            | .program i _ => !gone.contains i
            | _ => true) })
          let s2 := modFtl s1 d (fun x => { x with
            progs := x.progs.filter (fun q => !gone.contains q.id),
            mapLeft := p.maps.map (fun m => (p.vol, m)) ++ x.mapLeft,
            staging := x.staging.map (fun y => if y.prog.elim false gone.contains then { y with prog := none, again := false } else y) })
          let s3 := retireBlk d p.vol key (modVol s2 p.vol (fun v => { v with logs := v.logs.filter (fun k => k != key) }))
          match p.reloc with
          | none => ftlOk (areaGo d s3)
          | some k =>
            let s4 := setStatus (.ftl d) 1 s3
            match relocOf s4 d p.port k with
            | none => ftlOk s4
            | some q =>
              let s5 := modFtl s4 d (fun x => { x with relocs := x.relocs.filter (fun y => !(y.port == p.port && y.kind == k)) })
              ftlOk (relocStart d q.vol q.port k q.sources (q.notes.map (·.1) ++ q.cur ++ q.left) q.group q.more s5)
    | _ => ftlOk s0

/-! Erasing in journal order (R270) -/

/-- Is a read of a block under way? -/
def blockRead (s : State) (d : Die) (key : Nat) : Bool :=
  (side s.tier d).trayReqs.any (fun r => match r.why with
    | .flashRead _ _ _ _ => blkKey r.port (fld r.frame.addr.toNat 43 24) == key
    | _ => false)

/-- The rated cycles of a block's tray. -/
def endurance (s : State) (vol key : Nat) : Nat :=
  getD (getD s.vols vol {}).endurance (volTrayIdx s vol (key / 2 ^ 20)) 0

/-- Issue an erase of a block: its ERASE_COUNT rises (R272). -/
def issueErase (d : Die) (key : Nat) (s : State) : State :=
  askTray d (key / 2 ^ 20) Opc.st 0 (physAddr 2 0 key 0 0) 0 [] (.erase (key / 2 ^ 20) (key % 2 ^ 20))
    (modBlk s d key (fun b => { b with eraseCount := b.eraseCount + 1 }))

/-- Erase the blocks whose ERASE_PENDING lies on media and that no read uses; one at its tray's ENDURANCE is retired instead
(R269, R270). -/
def tryErases (d : Die) (s : State) : State :=
  let ready := (side s.ftl d).eraseWait.filter (fun x => decide (x.1 ≤ (side s.ftl d).mediaLsn) && !blockRead s d x.2.2)
  ready.foldl (fun t x =>
    let t1 := modFtl t d (fun y => { y with eraseWait := y.eraseWait.filter (fun z => z != x) })
    if endurance t1 x.2.1 x.2.2 ≤ (blkOf t1 d x.2.2).eraseCount ∧ 0 < endurance t1 x.2.1 x.2.2 then retireBlk d x.2.1 x.2.2 t1
    else issueErase d x.2.2 t1) s

/-- Queue a block for erasure: ERASE_PENDING is journaled. -/
def eraseBlock (d : Die) (vol key : Nat) (s : State) : State :=
  let s1 := modBlk s d key (fun b => { b with st := .erasePending })
  let lsn := (side s1.ftl d).nextLsn
  modFtl (journal d (.erasePending vol (key / 2 ^ 20) (key % 2 ^ 20)) s1) d (fun x => { x with
    eraseWait := x.eraseWait ++ [(lsn, vol, key)],
    due := x.due.filter (fun y => y.2.2 != key) })

/-- Is a page of a block being programmed? -/
def blockBusy (s : State) (d : Die) (key : Nat) : Bool := (side s.ftl d).progs.any (fun p => blkKey p.port p.blk == key)

/-- Sources of closed targets whose group record lies on media and that hold no mapped unit are queued for erasure, while
the ring takes their records; one still being programmed waits for that. -/
def settleClosing (d : Die) (s : State) : State :=
  let ready := if ringFull s d 65536 then [] else (side s.ftl d).closing.filter (fun x => decide (x.1 ≤ (side s.ftl d).mediaLsn) && !x.2.2.any (blockBusy s d))
  ready.foldl (fun t x =>
    let t1 := modFtl t d (fun y => { y with closing := y.closing.filter (fun z => z != x) })
    x.2.2.foldl (fun u k =>
      if ((blkOf u d k).st = .closed ∨ (blkOf u d k).st = .openBlk) ∧ !holdsUnits u x.2.1 k then eraseBlock d x.2.1 k u
      else if (blkOf u d k).st = .retired ∧ !holdsUnits u x.2.1 k then modFtl u d (fun y => { y with due := y.due.filter (fun z => z.2.2 != k) })
      else u) t1) s

/-- JOURNAL_TAIL_ON_MEDIA: records up to an LSN lie on journal flash (R270, R275). -/
def execJournalTailOnMedia (d : Die) (lsn : Nat) (s : State) : Host.Outcome State Fault Refusal :=
  let s1 := modFtl s d (fun x => { x with mediaLsn := max x.mediaLsn (min lsn (x.nextLsn - 1)) })
  let s2 := tryErases d (settleClosing d s1)
  ftlOk (answerMedia d s2)

/-- The temperatures of a volume's trays are read (R256; when is a DESIGN CHOICE, log 41). -/
def senseVol (d : Die) (vol : Nat) (s : State) : State :=
  ((recOf s RT.ftlVolume vol).elim [] volTrays).foldl (fun t p => askTray d p Opc.ld 3 (4 * 2 ^ 48) 64 [] (.sense p) t) s

/-- A tray is being formatted: the next block is erased; after the last its serial is journaled, and the volume comes online when no tray is left
(R259). -/
def formatGo (d : Die) (vol idx : Nat) (s : State) : State :=
  let v := getD s.vols vol {}
  let port := volPort s vol idx
  match get? v.formats idx with
  | none => s
  | some b =>
    if b < trayBlocks then issueErase d (blkKey port b) s
    else
      let serial := le (getD v.ident idx []) 0 8
      let s1 := journal d (.trayJoin vol idx serial) (modVol s vol (fun x => { x with
        serials := put x.serials idx serial, joined := insertNat serial x.joined, formats := del x.formats idx }))
      if (getD s1.vols vol {}).formats.isEmpty then senseVol d vol (modVol s1 vol (fun x => { x with st := .online, reason := 0 })) else s1

/-- The tray of a volume that is being formatted at a block. -/
def formatting (s : State) (vol port blk : Nat) : Option Nat :=
  ((getD s.vols vol {}).formats.find? (fun x => volPort s vol x.1 == port && x.2 == blk)).map (·.1)

/-- BLOCK_ERASE_DONE: the block is free again, or retired where the erase failed (R259, R270). -/
def execBlockEraseDone (d : Die) (f : Frame) (s0 : State) : Host.Outcome State Fault Refusal :=
  match trayReqOf s0 d f with
  | none => ftlOk s0
  | some r =>
    match r.why with
    | .erase port blk =>
      if f.status = Sts.retry ∨ ringFull s0 d 512 then ftlOk s0
      else
        let s := dropTrayReq d r.tag (takeAgent d f s0)
        let key := blkKey port blk
        let vol := (volOfPort s port).getD 0
        let s1 := if f.status = Sts.ok then
            journal d (.blockFree vol port blk (blkOf s d key).eraseCount)
              (modBlk s d key (fun b => { b with st := .free, slc := false, reads := 0, nextPage := 0, closedAt := 0, area := false }))
          else retireBlk d vol key s
        match formatting s1 vol port blk with
        | some idx => ftlOk (formatGo d vol idx (modVol s1 vol (fun x => { x with formats := put x.formats idx (blk + 1) })))
        | none => ftlOk s1
    | _ => ftlOk s0

/-! Choosing relocations (R269) -/

/-- The blocks of a tray that relocations already read from. -/
def sourcesInUse (s : State) (d : Die) (port : Nat) : List Nat :=
  ((side s.ftl d).relocs.filter (fun r => r.port == port)).flatMap (·.sources) ++
    ((side s.ftl d).closing.flatMap (fun x => x.2.2))

/-- The closed blocks of a tray in a mode that no relocation reads from. -/
def closedBlocks (s : State) (d : Die) (port : Nat) (slc : Bool) : Dict Blk :=
  let busy := sourcesInUse s d port
  (portBlocks s d port).filter (fun x => x.2.st == .closed && !x.2.area && x.2.slc == slc && !busy.contains x.1)

/-- The least of some keys by an order. -/
def leastKey (lt : Nat × Blk → Nat × Blk → Bool) (l : Dict Blk) : Option Nat :=
  (l.foldl (fun b x => match b with
    | none => some x
    | some y => if lt x y then some x else b) (none : Option (Nat × Blk))).map (·.1)

/-- The block collect_victim names. -/
def collectVictim (s : State) (d : Die) (vol port : Nat) : Option Nat :=
  leastKey (fun a b =>
    let va := (blockUnits s vol a.1).length
    let vb := (blockUnits s vol b.1).length
    decide (va < vb) || (va == vb && (decide (a.2.eraseCount < b.2.eraseCount) || (a.2.eraseCount == b.2.eraseCount && decide (a.1 < b.1)))))
    (closedBlocks s d port false)

/-- The first block of a kind that is due on a tray, holds units and is not being read from. -/
def firstDue (s : State) (d : Die) (port : Nat) (kind : RelocKind) : List Nat :=
  let busy := sourcesInUse s d port
  (((side s.ftl d).due.filter (fun x => x.1 == port && x.2.1 == kind && !busy.contains x.2.2 &&
    ((volOfPort s port).elim false (fun v => holdsUnits s v x.2.2)))).map (fun x => x.2.2)).take 1

/-- The blocks that static wear would move. -/
def wearSource (s : State) (d : Die) (port : Nat) : List Nat :=
  let all := portBlocks s d port
  let top := all.foldl (fun m x => max m x.2.eraseCount) 0
  let cl := closedBlocks s d port true ++ closedBlocks s d port false
  match leastKey (fun a b => decide (a.2.eraseCount < b.2.eraseCount) || (a.2.eraseCount == b.2.eraseCount && decide (a.1 < b.1))) cl with
  | some k => if (blkOf s d k).eraseCount + 16 * (side s.ftl d).wearSpread16 < top then [k] else []
  | none => []

/-- Is collection due on a tray: below GC_LOW, or started and still below GC_HIGH? -/
def collecting (s : State) (d : Die) (vol port : Nat) : Bool :=
  let x := side s.ftl d
  decide (denseFree s d vol port < x.gcLow) || (x.collects.contains port && decide (denseFree s d vol port < x.gcHigh))

/-- The sources a relocation of a kind would take next on a tray; none where it is not due. Fold and collect belong to
page-mapped volumes: an OUVI volume empties its log blocks by merging (R265). -/
def nextSources (s : State) (d : Die) (vol port : Nat) (kind : RelocKind) : List Nat :=
  match kind with
  | .rescue => firstDue s d port .rescue
  | .refresh => firstDue s d port .refresh
  | .fold =>
    let c := sortBy (fun (a b : Nat × Blk) => decide (a.2.closedAt < b.2.closedAt)) (closedBlocks s d port true)
    if !volOuvi s vol && decide (slcFree s d vol port < (side s.ftl d).foldLow) && decide (3 ≤ c.length) then (c.take 3).map (·.1) else []
  | .collect =>
    if !volOuvi s vol && collecting s d vol port then (collectVictim s d vol port).toList else []
  | .wear => wearSource s d port
  | .merge => []

/-- The groups of an OUVI volume with units in a block, its dense group first. -/
def groupsIn (s : State) (vol key : Nat) : List Nat :=
  (groupOf s vol key).toList ++ (blockUnits s vol key).foldl (fun l u => insertNat (u / 3072) l) []

/-- Start or extend the relocation of a kind with its next sources: none where it is not due or must wait. -/
def tryReloc (d : Die) (vol port : Nat) (kind : RelocKind) (s : State) : Option State :=
  let src := nextSources s d vol port kind
  if src.isEmpty then none
  else
    let units := src.flatMap (blockUnits s vol)
    match relocOf s d port kind with
    | some r =>
      if volOuvi s vol || !(r.left.filter (stillHere s r)).isEmpty || !r.cur.isEmpty || decide (768 ≤ (blkOf s d r.target).nextPage) then none
      else some (relocGo d port kind (modReloc d port kind (fun x => { x with sources := x.sources ++ src, left := units }) s))
    | none =>
      if (targetBlock s d vol port).isNone then none
      else if volOuvi s vol then
        match src.flatMap (groupsIn s vol) with
        | g :: more => some (relocStart d vol port kind src (rangeFrom (g * 3072) 3072) g more s)
        | [] => none
      else some (relocStart d vol port kind src units 0 [] s)

/-- RELOCATION_START: the due kind of highest priority starts, or takes its next source (R269). -/
def execRelocationStart (port : Nat) (s : State) : Host.Outcome State Fault Refusal :=
  let d := portDie port
  match volOfPort s port with
  | none => ftlOk s
  | some vol =>
    if ringFull s d 512 then ftlOk s
    else
      match [RelocKind.rescue, .refresh, .fold, .collect, .wear].findSome? (fun k => (tryReloc d vol port k s).map (fun t => (k, t))) with
      | none => ftlOk s
      | some (k, t) =>
        if k = .refresh then ftlOk (setStatus (.ftl d) 0 t)
        else if k = .collect then ftlOk (modFtl t d (fun x => { x with collects := insertNat port x.collects }))
        else ftlOk t

/-- The group record of a closing target (R270): the noted units whose map entry is still the copied one take the copy. -/
def applyNotes (vol : Nat) (notes : List (Nat × BitVec 64 × BitVec 64)) (s : State) : List (Nat × BitVec 64) × State :=
  notes.foldl (fun acc n =>
    if srcEntry acc.2 vol n.1 = n.2.1 then (acc.1 ++ [(n.1, n.2.2)], setMap vol n.1 n.2.2 acc.2) else acc) ([], s)

/-- The map of an OUVI group after its new dense block closes: units still in the log blocks they were copied from leave them. -/
def applyGroup (r : Reloc) (s : State) : List (Nat × BitVec 64) × State :=
  let s1 := modVol s r.vol (fun v => { v with groups := put v.groups r.group r.target })
  r.notes.foldl (fun acc n =>
    if srcEntry acc.2 r.vol n.1 = n.2.1 then (acc.1 ++ [(n.1, n.2.2)], modVol acc.2 r.vol (fun v => { v with
      map := del v.map n.1, holes := if n.2.1 = 0#64 then v.holes else v.holes.filter (fun h => h != n.1) })) else acc)
    ([], s1)

/-- RELOCATION_CLOSE: a target that is full, or for which no source is left, closes (R270). -/
def execRelocationClose (port : Nat) (kind : RelocKind) (s : State) : Host.Outcome State Fault Refusal :=
  let d := portDie port
  match relocOf s d port kind with
  | none => ftlOk s
  | some r =>
    let full := decide (768 ≤ (blkOf s d r.target).nextPage)
    let dry := (r.left.filter (stillHere s r)).isEmpty && (nextSources s d r.vol port kind).isEmpty
    if relocBusy s d r || !r.cur.isEmpty || !(full || dry) || ringFull s d (64 + 16 * r.notes.length) then ftlOk s
    else
      let ouvi := volOuvi s r.vol
      let old := (get? (getD s.vols r.vol {}).groups r.group).toList
      match (if ouvi then applyGroup r s else applyNotes r.vol r.notes s) with
      | (pairs, s1) =>
        let lsn := if pairs.isEmpty then 0 else (side s1.ftl d).nextLsn
        let n := (side s1.ftl d).closeSeq
        let done := if ouvi then old ++ (if r.more.isEmpty then r.sources.filter (fun k => !old.contains k) else []) else r.sources
        let closed := modBlk s1 d r.target (fun b => { b with st := .closed, closedAt := n })
        let s2 := if pairs.isEmpty then closed else journal d (.mapGroup r.vol pairs) closed
        let s3 := modFtl s2 d (fun x => { x with
          closeSeq := n + 1, closing := x.closing ++ [(lsn, r.vol, done)],
          relocs := x.relocs.filter (fun y => !(y.port == port && y.kind == kind)),
          collects := if kind = .collect ∧ x.gcHigh ≤ denseFree s d r.vol port then x.collects.filter (fun y => y != port) else x.collects })
        let s4 := modVol s3 r.vol (fun v => { v with logs := v.logs.filter (fun k => !done.contains k) })
        match (if ouvi then r.more else []) with
        | g :: more => ftlOk (relocStart d r.vol port kind r.sources (rangeFrom (g * 3072) 3072) g more s4)
        | [] => ftlOk s4

/-- OUVI_MERGE: no log block is free, so the oldest is merged group by group (R265). -/
def execOuviMerge (vol : Nat) (s : State) : Host.Outcome State Fault Refusal :=
  let d := volDie s vol
  let v := getD s.vols vol {}
  match v.logs with
  | [] => ftlOk s
  | key :: _ =>
    let port := key / 2 ^ 20
    if !volOuvi s vol || decide (v.logs.length < maxLogs s vol) || (relocOf s d port .merge).isSome || ringFull s d 512 then ftlOk s
    else
      match groupsIn s vol key with
      | g :: more => ftlOk (relocStart d vol port .merge [key] (rangeFrom (g * 3072) 3072) g more s)
      | [] => ftlOk (eraseBlock d vol key (modVol s vol (fun x => { x with logs := x.logs.filter (fun k => k != key) })))

/-! Reads (R268) -/

/-- A read of a unit is over: what waited for it goes on. -/
def readOver (d : Die) (vol unit : Nat) (s : State) : State :=
  copyRead vol unit (tryErases d (relocRead d vol unit (resume d (fun w => w.wait == .flash vol unit) true s)))

/-- Poison every granule of a unit (R193, R268). -/
def poisonUnit (d : Die) (vol unit : Nat) (s : State) : State :=
  let s1 := setStatus (.ftl d) 4 s
  match unitAddr s1 vol unit with
  | none => s1
  | some a => setStatus (.mem d) 0 { s1 with poison := (touched a 4096).foldl (fun l g => insertNat g l) s1.poison }

/-- Does a unit still lie where a read found it: not staged and not mapped elsewhere since? -/
def readStill (s : State) (d : Die) (vol unit : Nat) (r : TrayReq) : Bool :=
  let a := r.frame.addr.toNat
  (stagedUnit s d vol unit).isNone && unitWhere s vol unit == some (blkKey r.port (fld a 43 24), fld a 23 14, fld a 13 12)

/-- FLASH_READ_RESPONSE: the data, the next attempt, or poison at the limit (R268). A unit that has been written or moved since keeps the
bytes and the markers it has (DEDUCED, log 173). -/
def execFlashReadResponse (d : Die) (f : Frame) (s0 : State) : Host.Outcome State Fault Refusal :=
  match trayReqOf s0 d f with
  | none => ftlOk s0
  | some r =>
    match r.why with
    | .flashRead vol unit level att =>
      if f.status = Sts.retry then ftlOk s0
      else
        let s := dropTrayReq d r.tag (takeAgent d f s0)
        let key := blkKey r.port (fld r.frame.addr.toNat 43 24)
        let x := side s.ftl d
        if f.status = Sts.ok then
          let s1 := modBlk s d key (fun b => { b with lastLevel := level, readSince := true, reads := b.reads + 1 })
          let worn := decide (x.eccRefresh ≤ f.opspec.toNat) || decide (1000 * x.disturbK ≤ (blkOf s1 d key).reads)
          let s2 := if worn then makeDue d r.port .refresh key s1 else s1
          let s3 := match unitAddr s2 vol unit with
            | some a => if readStill s2 d vol unit r then writeMem s2 a (openMem s2 a (f.payload.take 4096)) else s2
            | none => s2
          ftlOk (readOver d vol unit s3)
        else if att < x.retryMax then ftlOk (readUnit d vol unit ((level + 1) % 16) (att + 1) (setStatus (.ftl d) 3 s))
        else ftlOk (readOver d vol unit (if readStill s d vol unit r then poisonUnit d vol unit s else s))
    | _ => ftlOk s0

/-- STAGING_SLOT_WAIT_END: the write that has waited longest for a slot gets one (R260). -/
def execStagingSlotWaitEnd (d : Die) (s : State) : Host.Outcome State Fault Refusal :=
  if !stageRoom s d then ftlOk s
  else
    match (side s.home d).waiting.find? (fun w => w.wait == .staging) with
    | none => ftlOk s
    | some w => ftlOk (settleBehind d (serve d w.order false s))

/-- RETENTION_HOUR: the clock advances and is journaled; blocks that came to the refresh age are due; the trays' temperatures are
read anew (R267, R269; when SENSE is read is a DESIGN CHOICE, log 41). -/
def execRetentionHour (d : Die) (s : State) : Host.Outcome State Fault Refusal :=
  let s1 := modFtl s d (fun x => { x with hours := (x.hours + 1) % 2 ^ 32 })
  let x := side s1.ftl d
  let s2 := journal d (.hours x.hours) s1
  let old := x.blocks.filter (fun b => (b.2.st == .closed || b.2.st == .openBlk) && !b.2.area && decide (b.2.progHours + 168 * x.retainW ≤ x.hours))
  let s3 := old.foldl (fun t b => makeDue d (b.1 / 2 ^ 20) .refresh b.1 t) s2
  ftlOk ((volsOf s3 d).foldl (fun t v => senseVol d v t) s3)

/-! The journal's checkpoints and the ring (R275, R276) -/

/-- The digest of a checkpoint area (R274). -/
def ckptDigest (d : Die) (start : Nat) : Bytes := Config.shake256 (Config.ckptBytes (dieNum d) start) 32

/-- The map pages that have changed since the last checkpoint, by volume. -/
def changedMaps (s : State) (d : Die) : List (Nat × Nat) := (volsOf s d).flatMap (fun v => (getD s.vols v {}).changedPages.map (fun p => (v, p)))

/-- CHECKPOINT_START: the ring is half full, or 2^24 records have been written since the last one (R275 steps 1 to 3): CKPT_BEGIN, the durable
structures into the area that does not hold the last complete checkpoint, and the changed map pages into the map areas. -/
def execCheckpointStart (d : Die) (s : State) : Host.Outcome State Fault Refusal :=
  let x := side s.ftl d
  if x.ckptRun.isSome || !(decide (ringCap ≤ 2 * x.ringBytes) || decide (2 ^ 24 ≤ x.sinceCkpt)) then ftlOk s
  else
    let toY := x.ckptX.valid && (!x.ckptY.valid || decide (x.ckptY.start < x.ckptX.start))
    let start := x.nextLsn
    let area : Ckpt := {
      start := start, records := s.cfg.records, exts := s.exts, objs := s.objs.filter (fun o => (extOf s o.2.ext).elim false (·.durable)),
      sessions := s.sessions.filter (fun x => x.2.image), blocks := x.blocks, rwl := [s.sec.leftMeter, s.sec.leftDebug, s.sec.leftXfer] }
    let s1 := modFtl s d (fun y => { y with
      ckptRun := some (toY, start), mapLeft := changedMaps s d,
      ckptX := if toY then y.ckptX else area,
      ckptY := if toY then area else y.ckptY })
    let s2 := (volsOf s1 d).foldl (fun t v => modVol t v (fun y => { y with changedPages := [] })) s1
    ftlOk (areaGo d (ringPut d (.ckptBegin toY start) s2))

/-- The bytes of a ring. -/
def bytesOf (l : List JRec) : Nat := sumOf (l.map (·.size))

/-- The closed blocks of a die's map areas in which no current map page lies, with their volumes. -/
def deadAreas (s : State) (d : Die) : List (Nat × Nat) :=
  ((side s.ftl d).blocks.filter (fun x => x.2.area && x.2.st == .closed)).filterMap (fun x =>
    (volOfPort s (x.1 / 2 ^ 20)).bind (fun v => if (areaPages s v x.1).isEmpty then some (v, x.1) else none))

/-- CHECKPOINT_END: CKPT_END lies on media; the area holds a complete checkpoint, older records are released, the map pages are
in the map area and the die's TAP_SEQ is at its root-store mark (R275, R278). -/
def execCheckpointEnd (d : Die) (s : State) : Host.Outcome State Fault Refusal :=
  match (side s.ftl d).ckptRun with
  | none => ftlOk s
  | some (toY, start) =>
    if !(side s.ftl d).mapLeft.isEmpty || (side s.ftl d).progs.any (fun p => !p.maps.isEmpty) then ftlOk (areaGo d s)
    else
      let digest := ckptDigest d start
      let s1 := ringPut d (.ckptEnd toY start digest) s
      let s2 := modFtl s1 d (fun x =>
        let kept := x.ring.filter (fun r => decide (start ≤ r.lsn))
        { x with
          ckptRun := none, sinceCkpt := kept.length, ring := kept, ringBytes := bytesOf kept, mediaLsn := x.nextLsn - 1,
          ckptX := if toY then x.ckptX else { x.ckptX with valid := true, digest := digest },
          ckptY := if toY then { x.ckptY with valid := true, digest := digest } else x.ckptY })
      let s3 := (deadAreas s2 d).foldl (fun t b => eraseBlock d b.1 b.2 t) s2
      ftlOk (answerMedia d (tryErases d (settleClosing d (modSec s3 (fun c => { c with tapMarks := upd c.tapMarks d (fun _ => side s3.mtr.tapSeq d) })))))

/-- Records that wait go into the ring while it has space for them. -/
def ringDrain (l : List JBody) (d : Die) (s : State) : List JBody × State :=
  match l with
  | [] => ([], s)
  | b :: r => if ringCap < (side s.ftl d).ringBytes + jSize b then (b :: r, s) else ringDrain r d (ringPut d b s)

/-- JOURNAL_RING_WAIT_END (R276). -/
def execJournalRingWaitEnd (d : Die) (s : State) : Host.Outcome State Fault Refusal :=
  match ringDrain (side s.ftl d).ringWait d (modFtl s d (fun x => { x with ringWait := [] })) with
  | (rest, s1) => ftlOk (tryErases d (settleClosing d (modFtl s1 d (fun x => { x with ringWait := rest }))))

/-! The map (R263, R264, R277) -/

/-- MAP_REBUILD: the tray copy of the page map is lost; the pages cached stay (R264). -/
def execMapRebuild (vol : Nat) (s : State) : Host.Outcome State Fault Refusal :=
  if (getD s.vols vol {}).st = .online ∧ !volOuvi s vol then ftlOk (modVol s vol (fun v => { v with st := .rebuild })) else ftlOk s

/-- MAP_REBUILD_DONE (R264). -/
def execMapRebuildDone (vol : Nat) (s : State) : Host.Outcome State Fault Refusal :=
  if (getD s.vols vol {}).st = .rebuild then ftlOk (modVol s vol (fun v => { v with st := .online })) else ftlOk s

/-- What waited for a map page goes on. -/
def mapOver (d : Die) (vol page : Nat) (s : State) : State := pump (resume d (fun w => w.wait == .mapPage vol page) false s)

/-- MAP_PAGE_LOAD_DONE: reads that waited for the page go on (R277). -/
def execMapPageLoadDone (vol page : Nat) (s : State) : Host.Outcome State Fault Refusal :=
  let d := volDie s vol
  let s1 := modVol s vol (fun v => { v with toLoad := v.toLoad.filter (fun p => p != page) })
  ftlOk (mapOver d vol page s1)

/-! Bringing a volume online (R259) -/

/-- Why a volume stays offline after its trays' answers to IDENTIFY: one is missing, a serial is another's, a class does not suit; 0 for none. -/
def offlineReason (s : State) (vol : Nat) : Nat :=
  match recOf s RT.ftlVolume vol with
  | none => 4
  | some b =>
    let v := getD s.vols vol {}
    let ts := (rangeFrom 0 (le b 2 1)).map (fun i => (i, get? v.ident i))
    let serial := fun (x : Bytes) => le x 0 8
    if ts.any (fun t => t.2.isNone || s.flt.lostTrays.contains (nth (volTrays b) t.1 64)) then 1
    else if ts.any (fun t => t.2.elim false (fun x => get? v.serials t.1 != some (serial x) && v.joined.contains (serial x))) then 2
    else if le b 1 1 = 1 ∧ ts.any (fun t => t.2.elim false (fun x => le x 8 1 != 2)) then 3
    else 0

/-- A tray that has never been part of the volume is to be formatted: what the volume held on its predecessor is gone (R259). -/
def formatStart (d : Die) (vol idx : Nat) (s : State) : State :=
  let port := volPort s vol idx
  let s1 := modFtl s d (fun x => { x with blocks := x.blocks.filter (fun b => b.1 / 2 ^ 20 != port) })
  formatGo d vol idx (modVol s1 vol (fun v => { v with
    map := v.map.filter (fun m => fld m.2.toNat 61 58 != idx),
    mapArea := v.mapArea.filter (fun m => m.2.1 / 2 ^ 20 != port),
    groups := v.groups.filter (fun g => g.2 / 2 ^ 20 != port),
    logs := v.logs.filter (fun k => k / 2 ^ 20 != port) }))

/-- The bring-up of a volume comes to its end: offline with its reason, or online, once its new trays are formatted. -/
def bringupEnd (d : Die) (vol : Nat) (s0 : State) : State :=
  let s := modVol s0 vol (fun v => { v with asking := false })
  let why := offlineReason s vol
  let v := getD s.vols vol {}
  if why ≠ 0 then modVol s vol (fun x => { x with st := .offline, reason := why })
  else
    let s1 := modVol s vol (fun x => { x with endurance := x.ident.map (fun i => (i.1, le i.2 10 2)) })
    match (v.ident.filter (fun i => get? v.serials i.1 != some (le i.2 0 8))).map (·.1) with
    | [] => senseVol d vol (modVol s1 vol (fun x => { x with st := .online, reason := 0 }))
    | new => new.foldl (fun t i => formatStart d vol i t) (modVol s1 vol (fun x => { x with
        st := .formatting, reason := 0, formats := new.map (fun i => (i, 0)) }))

/-- VOLUME_BRINGUP: IDENTIFY is read from every tray of the volume (R256, R259). waited tells of a bring-up under way that no further tray answers:
it comes to its end with the answers there are. -/
def execVolumeBringup (vol : Nat) (waited : Bool) (s : State) : Host.Outcome State Fault Refusal :=
  match recOf s RT.ftlVolume vol with
  | none => ftlOk s
  | some b =>
    let d := dieOf (le b 0 1)
    let v := getD s.vols vol {}
    if v.st = .formatting then ftlOk s
    else if waited then ftlOk (if v.asking then bringupEnd d vol s else s)
    else
      ftlOk ((rangeFrom 0 (le b 2 1)).foldl (fun t i => askTray d (volPort t vol i) Opc.ld 3 (3 * 2 ^ 48) 64 [] (.identify vol i) t)
        (modVol s vol (fun x => { x with asking := true, ident := [] })))

/-- A tray answered IDENTIFY; the last answer ends the bring-up. -/
def identified (d : Die) (vol idx : Nat) (f : Frame) (s : State) : State :=
  let v := getD s.vols vol {}
  if !v.asking || f.status != Sts.ok then s
  else
    let s1 := modVol s vol (fun x => { x with ident := put x.ident idx (fit f.payload 64) })
    if (getD s1.vols vol {}).ident.length = (recOf s RT.ftlVolume vol).elim 0 (fun b => le b 2 1) then bringupEnd d vol s1 else s1

/-! Answers of trays to the agents -/

/-- TRAY_RESPONSE: RETRY is sent again; any other answer resumes what asked (R232, R256, R264). -/
def execTrayResponse (d : Die) (f : Frame) (s0 : State) : Host.Outcome State Fault Refusal :=
  let s := takeAgent d f s0
  match trayReqOf s d f with
  | none => ftlOk s
  | some r =>
    let again := sendPort d r.port r.frame s
    let done := dropTrayReq d r.tag s
    let go := fun (t : State) => ftlOk (if f.status = Sts.retry then again else t)
    match r.why with
    | .home q => go (homeTray d r q f done)
    | .fill line => go (resumeLines d (fillDone d line f done))
    | .copy e job => go (copyAnswered e job f done)
    | .sense port => go (modFtl done d (fun x => { x with temps := put x.temps port (f.payload.map (·.toInt)) }))
    | .identify vol idx => go (identified d vol idx f done)
    | .mapLoad vol page => go (mapOver d vol page (mapPut d vol page false done))
    | .mapStore => go done
    | _ => ftlOk s

end Machine
end Sys2Proof
end

