-- ==== Sys2Proof/Machine/Power.lean ====
section
/-! DEFINITION. Power states, boot, come-up, module reset, hold-up, thermal limits, repair in place, the reference clock and pace, the
takeover of the service processors (R30 to R49, R99, R277, R278, R398, R408, R472 to R491). -/

namespace Sys2Proof
namespace Machine

/-- A module event that is taken or has no subject. -/
def modOk (s : State) : Host.Outcome State Fault Refusal := .next s

/-- Set a bit of MOD.STATUS. -/
def modBit (bit : Nat) (s : State) : State := setStatus .mod bit s

/-- Admission on both dies. -/
def setAdmit (b : Bool) (s : State) : State := modMod s (fun m => { m with admitting := ⟨b, b⟩ })

/-! What survives (R251, R481) -/

/-- Is an extent the same in two record sets: index, base, size and owner (R481)? -/
def sameExt (s t : State) (i : Nat) : Bool :=
  match extOf s i, extOf t i with
  | some a, some b => a.base == b.base && a.size == b.size && a.owner == b.owner
  | _, _ => false

/-- Is a class C extent charged and placed alike in two record sets (R78)? -/
def sameCharge (s t : State) (i : Nat) : Bool :=
  sameExt s t i && match extOf s i, extOf t i with
    | some a, some b => a.die == b.die && a.classT == b.classT && a.policy == b.policy
    | _, _ => false

/-- Does the die's journal hold a valid checkpoint (R277 step 1)? -/
def journalOk (s : State) (d : Die) : Bool := (side s.ftl d).ckptX.valid || (side s.ftl d).ckptY.valid

/-- Does an object survive the loss of the volatile tiers under the record set of t: a DURABLE object in T2 whose extent is the same and
whose die's journal was read, and no pack of a sleep that has not ended? -/
def survives (s t : State) (p : Nat × Obj) : Bool :=
  let o := p.2
  o.tier == 2 && o.st != .freeing && !o.homeLost && sameExt s t o.ext &&
    (extOf s o.ext).elim false (fun e => e.durable && journalOk s e.die) && (extOf t o.ext).elim false (·.durable) &&
    !s.sessions.any (fun x => x.2.newPacks.any (fun k => k.2 == p.1))

/-- The charges that moves under way hold at their destinations are given back (R241, R251). -/
def dropMoves (d : Die) (s : State) : State :=
  ((side s.tier d).moves.filter (·.started)).foldl (fun u m => match m.who, get? s.objs m.obj with
    | .sleep _, _ => u
    | .wake _, _ => u
    | _, some o => dropCharge d o.owner m.dest (granules o.size) u
    | _, none => u) s

/-- The charges of a session's pages and packs that are not made yet are given back (R248, R249). -/
def dropUnmade (x : Session) (s : State) : State :=
  match x.st with
  | .sleeping =>
    let made := sumOf (x.newPacks.map (fun p => (get? s.objs p.2).elim 0 (fun q => granules q.size)))
    (extOf s x.packExt).elim s (fun e => dropCharge e.die x.owner x.packTier (packGranules x - made) s)
  | .waking =>
    let g := granules (pageSize x)
    let left := x.pages.filter (fun p => p.obj == noObj)
    let l1 := (left.filter (fun p => wakeTier x p == 1)).length
    (extOf s x.wakeExt).elim s (fun e => dropCharge e.die x.owner 1 (l1 * g) (dropCharge e.die x.owner 0 ((left.length - l1) * g) s))
  | _ => s

/-- The charges given back: of every object that does not survive, of moves, sleeps and wakes under way, and of every class C extent the new
record set does not hold. -/
def dropLost (t : State) (s : State) : State :=
  let gone := s.objs.filter (fun o => !survives s t o)
  let s0 := s.sessions.foldl (fun u x => dropUnmade x.2 u) (dropMoves .d1 (dropMoves .d0 s))
  let s1 := gone.foldl (fun u o => match extOf u o.2.ext with
    | some e => dropCharge e.die o.2.owner o.2.tier (granules o.2.size) u
    | none => u) s0
  ((recsOf s RT.extent).map (fun r => extView r.key r.body)).foldl (fun u e =>
    if !e.classT && !sameCharge s t e.idx then dropCharge e.die e.owner (classCTier e) (e.size / 4096) u else u) s1

/-- The class C extents the new record set adds are charged and placed (R78, R234). -/
def addClassC (old : State) (s : State) : State :=
  ((recsOf s RT.extent).map (fun r => extView r.key r.body)).foldl (fun u e =>
    if sameCharge old s e.idx then u else placeExt e u) s

/-! Choosing the configuration (R99) -/

/-- A bitstream slot as a power-up or module reset finds it: a load in progress has ended (R95). -/
def endLoad (x : SlotState) : SlotState := if x.phase = .loading then {} else x

/-- A configuration choice: the slot, whether it is the fallback. -/
def chooseSlot (s : State) : Option (Slot × Bool) :=
  let other : Slot := if s.cfg.preferred = .a then .b else .a
  if (verifySlot s false (slotOf s s.cfg.preferred)).isNone then some (s.cfg.preferred, false)
  else if (verifySlot s false (slotOf s other)).isNone then some (other, true)
  else none

/-- The journaled changes of the running set as replay completes them: a committed partial whole, and each draining record (R101). -/
def replayed (s : State) : List Rec :=
  let l := s.cfg.draining.foldl (fun l x => if x.next.isEmpty then delRec l x.type x.key else putRec l ⟨x.type, x.key, x.next⟩) s.cfg.records
  match s.cfg.applying with
  | some a => a.changes.foldl applyChange l
  | none => l

/-- The configuration after a come-up (R99, R481). DESIGN CHOICE (log 196): under a bitstream whose BITSTREAM_ID is that of the running one, also where
it was activated anew, journaled changes and CONFIG_GEN are kept. -/
def chosenCfg (warm : Bool) (s : State) : CfgState :=
  let c := s.cfg
  let t := modCfg s (fun c => { c with slotA := endLoad c.slotA, slotB := endLoad c.slotB, slotP := endLoad c.slotP })
  let base : CfgState := {
    slotA := t.cfg.slotA, slotB := t.cfg.slotB, slotP := t.cfg.slotP, lastLoadId := if warm then c.lastLoadId else 0,
    preferred := c.preferred, nextJob := c.nextJob }
  match chooseSlot t with
  | none => { base with active := c.active, cameUnconfigured := true }
  | some (x, fb) =>
    let b := bsBytes (slotOf t x)
    let id := le b 24 8
    let keep := id == c.activeId && journalOk s .d0
    let rs := if keep then replayed s else recordsOf ((readChanges false b).getD [])
    let sw := (rs.find? (fun r => r.type == RT.switch)).elim [] (·.body)
    let done := keep && c.applying.isSome
    { base with
      records := rs, active := x, fallback := fb, unconfigured := false, switchId := le sw 0 2 % 4096, activeId := id,
      detClass := if keep then (match c.applying with
        | some a => a.detClass
        | none => c.detClass) else le b 16 4,
      configGen := if keep then c.configGen else 1,
      ethLft := if le sw 8 2 = 0 then 0x88B6 else BitVec.ofNat 16 (le sw 8 2),
      ethCtl := if le sw 10 2 = 0 then 0x88B5 else BitVec.ofNat 16 (le sw 10 2),
      slotP := if done then {} else base.slotP }

/-! Replay of one die (R277, R278) -/

/-- Does a kept object cover a unit of a volume (R277 step 6)? -/
def covers (kept : Dict Obj) (vol unit : Nat) : Bool :=
  kept.any (fun o => o.2.tier == 2 && locVol o.2.loc == vol && decide (locUnit o.2.loc ≤ unit) && decide (unit < locUnit o.2.loc + granules o.2.size))

/-- The log as replay reads it: from an LSN on, up to the first record whose CRC fails or whose LSN does not follow (R277 step 3). -/
def readRing (l : List JRec) (next : Nat) : List JRec :=
  match l with
  | [] => []
  | r :: rest => if r.lsn = next ∧ r.crc = crc32c (jHead r.lsn r.body) then r :: readRing rest (next + 1) else []

/-- The checkpoint that replay loads: the valid one with the greater start LSN (R277 step 1). -/
def lastCkpt (x : FtlState) : Option Ckpt :=
  if x.ckptX.valid && (!x.ckptY.valid || decide (x.ckptY.start < x.ckptX.start)) then some x.ckptX
  else if x.ckptY.valid then some x.ckptY else none

/-- A block record as replay finds it: READS and LAST_LEVEL are those of the checkpoint, as no record carries their later changes, unless the
block was opened after it (R266, R274). -/
def replayBlk (c : Ckpt) (opened : List Nat) (key : Nat) (b : Blk) : Blk :=
  let old := get? c.blocks key
  { b with
    reads := if opened.contains key then 0 else (old.elim 0 (·.reads)), lastLevel := old.elim 0 (·.lastLevel), readSince := false }

/-- Every OPEN block is closed, in the order of the block addresses (R277 step 7). -/
def closeOpens (x : FtlState) : FtlState :=
  (x.blocks.filter (fun b => b.2.st == .openBlk)).foldl (fun y b => { y with
    blocks := put y.blocks b.1 { b.2 with st := .closed, closedAt := y.closeSeq }, closeSeq := y.closeSeq + 1 }) x

/-- The half of a die's journal as it is initialised: a checkpoint of empty structures in area X at start LSN 1 (R278). -/
def freshFtl (d : Die) : FtlState :=
  let first : JBody := .ckptBegin false 1
  let last : JBody := .ckptEnd false 1 (ckptDigest d 1)
  { nextLsn := 3, mediaLsn := 2, ckptX := { valid := true, start := 1, digest := ckptDigest d 1 },
    ring := [⟨1, jSize first, first, crc32c (jHead 1 first)⟩, ⟨2, jSize last, last, crc32c (jHead 2 last)⟩],
    ringBytes := jSize first + jSize last, sinceCkpt := 2, replayFail := true, status := { bits := 0, hit := 1 } }

/-- The journal and the flash engine of a die after replay: what is journaled stays, records that still waited for the ring do not, and what
the flush region holds of DURABLE units comes back to staging, to be programmed before any read of it completes; a half without a valid
checkpoint is initialised. -/
def replayFtl (s : State) (kept : Dict Obj) (d : Die) : FtlState :=
  let x := side s.ftl d
  match lastCkpt x with
  | some c =>
    let ring := readRing x.ring ((x.ring.head?).elim x.nextLsn (·.lsn))
    let opened := ring.filterMap (fun r => match r.body with
      | .blockOpen _ p k _ _ _ => some (p * 2 ^ 20 + k)
      | _ => none)
    let lost := (x.ringWait.filter (fun b => match b with
      | .hours _ => true
      | _ => false)).length
    closeOpens {
      blocks := x.blocks.map (fun b => (b.1, replayBlk c opened b.1 b.2)), nextProg := x.nextProg, closeSeq := x.closeSeq,
      hours := x.hours - lost, nextLsn := x.nextLsn, ring := ring, ringBytes := bytesOf ring, mediaLsn := x.nextLsn - 1,
      sinceCkpt := x.sinceCkpt, ckptX := x.ckptX, ckptY := x.ckptY,
      staging := (x.flushRegion.filter (fun y => y.durable && covers kept y.vol y.unit)).map (fun y =>
        { y with prog := none, again := false, flushed := true }) }
  | none => freshFtl d

/-- A volume after replay: units that no kept object covers are unmapped (step 6), with every group none covers; its map pages are still to load, and
pages a checkpoint under way had not yet written have still changed. -/
def replayVol (warm : Bool) (s : State) (kept : Dict Obj) (v : Nat) : Volume :=
  let x := getD s.vols v {}
  let w := if warm then x.writes else 0
  let n := if warm then x.programs else 0
  let f := side s.ftl (volDie s v)
  if !journalOk s (volDie s v) then { st := .offline, writes := w, programs := n }
  else
    let m := x.map.filter (fun p => covers kept v p.1)
    let groups := x.groups.filter (fun g => (rangeFrom (3072 * g.1) 3072).any (covers kept v))
    let unmapped := groups.flatMap (fun g => (rangeFrom (3072 * g.1) 3072).filter (fun u => !covers kept v u))
    let left := (f.mapLeft.filter (fun y => y.1 == v)).map (·.2) ++ (f.progs.filter (fun p => p.vol == v)).flatMap (·.maps) ++
      (x.map.filter (fun p => !covers kept v p.1)).map (fun p => p.1 / 512)
    { st := .offline, map := m, mapArea := x.mapArea, toLoad := x.mapArea.map (·.1),
      changedPages := left.foldl (fun l p => insertNat p l) x.changedPages, serials := x.serials, joined := x.joined, endurance := x.endurance,
      rr := x.rr, writes := w, programs := n, groups := groups,
      holes := unmapped.foldl (fun l k => insertNat k l) (x.holes.filter (fun k => (get? groups (k / 3072)).isSome)), logs := x.logs }

/-- Step 7 of R277: blocks in ERASE_PENDING are erased again, and closed blocks that hold no mapped unit and no map page are queued for erasure. -/
def replayErases (d : Die) (s : State) : State :=
  let volOf := fun (key : Nat) => volOfPort s (key / 2 ^ 20)
  let again := (side s.ftl d).blocks.filterMap (fun b => if b.2.st = .erasePending then (volOf b.1).map (fun v => (0, v, b.1)) else none)
  let s1 := modFtl s d (fun x => { x with eraseWait := again })
  let empty := (side s1.ftl d).blocks.filterMap (fun b =>
    match volOf b.1 with
    | some v => if b.2.st == .closed && !holdsUnits s1 v b.1 then some (v, b.1) else none
    | none => none)
  tryErases d (empty.foldl (fun t b =>
    eraseBlock d b.1 b.2 (modVol t b.1 (fun v => { v with logs := v.logs.filter (fun k => k != b.2) }))) s1)

/-! The rest of the state after a come-up -/

/-- Does a session survive: it has a durable image and every pack of it is there? -/
def sessionKept (kept : Dict Obj) (x : Session) : Bool := x.image && x.packs.all (fun p => (get? kept p.2).isSome)

/-- A session after a come-up: ASLEEP, holding its image (R251). -/
def sleepingSession (x : Session) : Session :=
  { x with
    st := .asleep, lens := x.imgLens, pages := x.imgPages, resident := 0, wakeExt := 0, chargeT0 := 0, chargeT1 := 0, packExt := 0,
    packTier := 0, newPacks := [], req := none, closing := none }

/-- An extent after a come-up: a revocation that had begun is done, as nothing admitted is left; else it is ACTIVE. -/
def extAfter (s t : State) (i : Nat) : ExtState :=
  let x := getD s.exts i {}
  let r := sameExt s t i && (x.phase.d0 != .active || x.phase.d1 != .active) && (x.phase.d0 != .free)
  { phase := if r then ⟨.revoked, .revoked⟩ else ⟨.active, .active⟩, group := if sameCharge s t i then x.group else 16 }

/-- The failure detector after a come-up: the map stays while the FEDERATION_ID does, else it starts from the records (R444). -/
def fltAfter (s t : State) (kept : Dict Obj) (sameSet : Bool) : FltState :=
  let f := s.flt
  let held := federationId s == federationId t && !f.switches.isEmpty && !t.cfg.unconfigured
  let sws := if held then f.switches
    else (recsOf t RT.homemapEntry).map (fun r => (r.key, (⟨.live, le r.body 0 2 % 4096⟩ : SwEnt)))
  let own := get? sws t.cfg.switchId
  { switches := sws, fence := if held then f.fence else [], gen := if held then f.gen else 0,
    selfFenced := own.elim false (fun e => e.st != .live),
    comps := (recsOf t RT.composition).map (fun r => (r.key,
      if sameSet then { getD f.comps r.key {} with commitJob := none, rollbackJob := none } else {})),
    promoted := if held then f.promoted.filter (fun n => (recOf t RT.replicaSet n).isSome) else [],
    xfers := f.xfers.filter (fun x => x.committed && (get? kept x.obj).isSome) }

/-- A home after a come-up; switches this one answers for by promotion stay doubtful (R184), and a warm reset keeps what counts since power-on. -/
def homeAfter (warm : Bool) (x : HomeState) (t : State) (f : FltState) : HomeState :=
  { combined := if warm then x.combined else 0,
    doubtful := (f.switches.filter (fun e => e.2.st == .promoted && e.2.answer == t.cfg.switchId)).map (·.1) }

/-- The meter side after a come-up: the link is new, so no meter is attached until METER_ATTACH; each die escrows, its open segment
signed; a die whose journal was initialised resumes TAP_SEQ from its root-store mark (R278, R426, R437). -/
def mtrAfter (s : State) : MtrState :=
  let s1 := startEscrow .d1 (startEscrow .d0 s)
  let m := s1.mtr
  let close := fun (d : Die) (x : Escrow) => { x with segs := x.segs.map (closeSeg d) }
  let seq := fun (d : Die) => if journalOk s d then side m.tapSeq d else side s.sec.tapMarks d + 2 ^ 40
  { m with
    st := if m.st = .tampered then .tampered else .absent, detach := false, status := {}, tapSeq := ⟨seq .d0, seq .d1⟩,
    escrow := ⟨close .d0 m.escrow.d0, close .d1 m.escrow.d1⟩, exports := [] }

/-- The dies' own readings: a warm reset keeps what counts since power-on. -/
def dieAfter (warm : Bool) (x : DieMod) : DieMod :=
  { minPace := if warm then x.minPace else 0, tjMax := if warm then x.tjMax else 0, refLost := x.refLost, timer := x.timer, spareLanes := x.spareLanes }

/-- The module's registers after a come-up; repairs are lasting. -/
def modAfter (warm : Bool) (s : State) : ModState :=
  let m := s.mod
  { power := .run, en := true, inputOk := true, holdupReady := true, lastDown := if journalOk s .d0 then m.lastDown else 0,
    inputMv := m.inputMv, holdup := m.holdup, holdupLow := m.holdupLow, macBase := s.sec.macBase,
    autoRow := !warm || m.autoRow, autoPc := !warm || m.autoPc, autoLane := !warm || m.autoLane,
    dies := ⟨dieAfter warm m.dies.d0, dieAfter warm m.dies.d1⟩, lanes := m.lanes, pcLeft := m.pcLeft, rows := m.rows, rowsOut := m.rowsOut,
    admitting := ⟨true, true⟩ }

/-- The contexts after a come-up: those of the record set, ACTIVE, their registers at reset, their charges what is left. -/
def ctxsAfter (warm : Bool) (s t : State) : Dict Ctx :=
  let one := fun (c : Nat) =>
    let x := ctxOf s c
    (c, ({ phase := ⟨.active, .active⟩, resets := if warm then x.resets else 0, charge := x.charge, overTier := [false, false, false], key := ctxKey t c } : Ctx))
  one 0 :: ((recsOf t RT.context).filter (fun r => r.key != 0)).map (fun r => one r.key)

/-- The die's cores after a come-up: every one fresh, those that fail the self-test of a power-up retired (R281, R479 step 4); those that were
retired before a warm reset stay so, and nothing tells of them anew. -/
def coresAfter (warm : Bool) (failed : List Nat) (d : Die) (s : State) : State :=
  let list := failed.filter (· < 528)
  if warm then
    let t := list.foldl (fun t p => retireCore d p t) s
    { modPod t d (fun v => { v with status := {} }) with ev := s.ev, mod := s.mod }
  else list.foldl (fun t p => retireCore d p (setStatus (.pod d) 6 t)) s

/-! What counts since power-on is kept over a warm reset (R167, R196, R228, R253, R316 and the like) -/

/-- The counts of a switch core. -/
def swcKept (x : SwcState) : SwcState := { sampleSeq := x.sampleSeq, passes := x.passes, reclaimed := x.reclaimed }

/-- The counts of a die's collectives and attention. -/
def colKept (x : ColState) : ColState := { chunks := x.chunks, skipped := x.skipped, readBlocks := x.readBlocks }

/-- The frame counts of a port. -/
def portKept (x : PortState) : PortState := { rxFrames := x.rxFrames, txFrames := x.txFrames }

/-- A state after a come-up with the counts of the state before. -/
def keepCounts (s t : State) : State :=
  { t with
    lft := { t.lft with ports := s.lft.ports.map (fun p => (p.1, portKept p.2)) },
    swc := ⟨swcKept s.swc.d0, swcKept s.swc.d1⟩,
    coh := ⟨{ recalls := s.coh.d0.recalls }, { recalls := s.coh.d1.recalls }⟩,
    tier := ⟨{ spilled := s.tier.d0.spilled, prefetched := s.tier.d0.prefetched },
             { spilled := s.tier.d1.spilled, prefetched := s.tier.d1.prefetched }⟩,
    pod := ⟨{ items := s.pod.d0.items }, { items := s.pod.d1.items }⟩,
    col := ⟨colKept s.col.d0, colKept s.col.d1⟩,
    cmp := { t.cmp with decodedRaw := s.cmp.decodedRaw, decodedCoded := s.cmp.decodedCoded },
    ev := ⟨{ period := s.ev.d0.period }, { period := s.ev.d1.period }⟩ }

/-- Steps 4 to 7 of R479: the configuration is chosen, the journal replayed, everything volatile lost, admission starts, MODULE_UP. -/
def comeUp (failed : Two (List Nat)) (warm : Bool) (s : State) : State :=
  let t := { s with cfg := chosenCfg warm s }
  let sameSet := t.cfg.activeId == s.cfg.activeId && journalOk s .d0 && !t.cfg.unconfigured
  let done := if sameSet then s.cfg.applying else none
  let kept := s.objs.filter (fun o => survives s t o)
  let s1 := dropLost t s
  let inKept := fun (a : Nat) => kept.any (fun o => decide (o.2.addr ≤ a) && decide (a < o.2.addr + granules o.2.size * 4096))
  let f := fltAfter s t kept sameSet
  let s2 : State := {
    pending := s.pending, cfg := t.cfg, lft := { sent := s.lft.sent, kaSent := s.lft.kaSent, pfcSent := s.lft.pfcSent },
    home := ⟨homeAfter warm s.home.d0 t f, homeAfter warm s.home.d1 t f⟩,
    exts := (recsOf t RT.extent).map (fun r => (r.key, extAfter s t r.key)),
    objs := kept.map (fun o => (o.1, { o.2 with st := if o.2.st = .moving ∧ !f.xfers.any (fun x => x.obj == o.1) then .resident else o.2.st, lastAccess := 0 })),
    gens := s.gens,
    sessions := (s.sessions.filter (fun x => sessionKept kept x.2)).map (fun x => (x.1, sleepingSession x.2)),
    vols := (recsOf t RT.ftlVolume).map (fun r => (r.key, replayVol warm t kept r.key)),
    ftl := ⟨replayFtl s kept .d0, replayFtl s kept .d1⟩,
    cmp := {
    slots := (recsOf t RT.codebook).map (fun r =>
      (r.key, ({ phase := .valid, tables := le r.body 2 1, gen := le r.body 4 2, lengths := r.body.drop 16 } : Codebook))) ++
      ((s.cmp.slots.filter (fun c => (recOf t RT.codebook c.1).isNone)).map (fun c => (c.1, ({ gen := c.2.gen } : Codebook)))) },
    ctxs := ctxsAfter warm s1 t, mtr := mtrAfter s1,
    sec := { s.sec with status := {}, unlocked := false, scope := 0, windowBase := 0, recovery := false },
    flt := f, mod := modAfter warm s,
    mem := s.mem.filter (fun c => inKept c.1), poison := s.poison.filter (fun g => inKept (g * 64)), freeCtr := s.freeCtr }
  let s3 := addClassC s (if warm then keepCounts s s2 else s2)
  let s4 := replayErases .d1 (replayErases .d0 s3)
  let told := fun (d : Die) (u : State) => if (side u.ftl d).replayFail then statusEvent (.ftl d) u else u
  let s5 := coresAfter warm failed.d1 .d1 (coresAfter warm failed.d0 .d0 (told .d1 (told .d0 s4)))
  let s5a := if s5.cfg.unconfigured then s5 else raiseArb (le (bsBytes (slotOf s5 s5.cfg.active)) 20 4) s5
  let s6 := if s5a.cfg.fallback then spEvent 0 0x03 [] (setStatus .cfg 3 s5a) else s5a
  let s7 := match done with
    | some a => spEvent 0 0x02 (toLE 4 a.job ++ zeros 4 ++ toLE 8 a.gen) s6
    | none => s6
  let lost := fun (d : Die) (u : State) => if (side u.mod.dies d).refLost then event d 0 0x11 [1#8] (modBit 1 u) else u
  spEvent 0 0x70 (toLE 1 s7.mod.lastDown ++ zeros 7) (lost .d1 (lost .d0 s7))

/-! Boot (R408) -/

/-- The image that boots: the valid one with the greater FW_SVN, FW0 on a tie. -/
def bootSlot (s : State) : Option Nat :=
  let b0 := slotBytes s.sec.fw0
  let b1 := slotBytes s.sec.fw1
  let v0 := slotComplete s.sec.fw0 && fwValid s b0
  let v1 := slotComplete s.sec.fw1 && fwValid s b1
  if v0 && v1 then some (if le b0 12 4 < le b1 12 4 then 1 else 0)
  else if v0 then some 0 else if v1 then some 1 else none

/-- Recovery: no fabric port comes up, and only the SEC block is served, at H0; nothing is replayed until an image boots. The cores that fail the
self-test of this power-up are held until then. -/
def enterRecovery (failed : Two (List Nat)) (warm : Bool) (unsealed pufFail : Bool) (s : State) : State :=
  let pod := fun (l : List Nat) => ({ cores := l.map (fun p => (p, ({ st := .retired } : Core))) } : PodState)
  { s with
    pod := if warm then s.pod else ⟨pod failed.d0, pod failed.d1⟩,
    lft := { sent := s.lft.sent, kaSent := s.lft.kaSent, pfcSent := s.lft.pfcSent }, swc := ⟨{}, {}⟩, ev := ⟨{}, {}⟩,
    cfg := { s.cfg with spInbox := [], jobs := [], cmdSeq := [], authWait := none, stalkWait := [], mirrorLog := [] },
    sec := { s.sec with
      recovery := true, unsealed := unsealed, pufFail := pufFail, status := {}, unlocked := false, scope := 0, windowBase := 0 },
    mod := { modAfter warm s with power := .starting, admitting := ⟨true, false⟩ } }

/-- Boot from step 3: the image's digest and version are those of the running firmware, then the device comes up. -/
def bootFrom (k : Nat) (failed : Two (List Nat)) (warm : Bool) (s : State) : State :=
  let b := slotBytes (fwSlotOf s k)
  comeUp failed warm (modSec s (fun c => { c with fwSlot := k, fwSvn := le b 12 4, fwImage := b, unsealed := false, pufFail := false }))

/-- Boot from step 1. -/
def boot (failed : Two (List Nat)) (warm pufOk : Bool) (s : State) : State :=
  if !s.sec.sealed then enterRecovery failed warm true false s
  else if !pufOk then enterRecovery failed warm false true s
  else
    match bootSlot s with
    | none => enterRecovery failed warm false false s
    | some k => bootFrom k failed warm s

/-- The cores that are retired now. -/
def retiredNow (s : State) : Two (List Nat) :=
  let one := fun (d : Die) => ((side s.pod d).cores.filter (fun c => c.2.st == .retired)).map (·.1)
  ⟨one .d0, one .d1⟩

/-- After FW_END of a valid image in recovery: it starts at once, from step 3 (R408). -/
def startImage (k : Nat) (s : State) : State :=
  if s.sec.recovery && !s.sec.pufFail && !s.sec.unsealed then bootFrom k (retiredNow s) false s else s

/-! Going down (R37, R398, R478) -/

/-- R37 steps 2 and 3 on a die: the staging buffer goes to the flush region, the journal tails to media. -/
def flushDie (d : Die) (s : State) : State :=
  modFtl s d (fun x => { x with flushRegion := x.staging, staging := [], progs := [], mediaLsn := x.nextLsn - 1 })

/-- A power-down with its cause: admission stops, the flush runs when anything had been admitted, the tap buffers go to the escrow log
as part of the tails (R37, R426, R480). -/
def flushDown (cause : Nat) (s : State) : State :=
  let s1 := setAdmit false s
  let s2 := if s.mod.power = .run then flushDie .d1 (flushDie .d0 s1) else s1
  modMod (startEscrow .d1 (startEscrow .d0 s2)) (fun m => { m with lastDown := cause, planned := false })

/-- The meter sees the module lose its power: from its cell it writes POWER and a SEAL (R436). When the power returns is not known yet:
ON_MS is a free value. -/
def meterPowerLoss (s : State) : State :=
  if !meterPresent s then s
  else
    match drawFree s with
    | (k, s1) =>
      let s2 := addSeal (addLog 9 0 (toLE 8 (meterMs s1) ++ fit (Config.freeBytes k 8) 8) s1)
      modMtr s2 (fun m => { m with st := .absent })

/-- INPUT_LOSS: R37 runs to its end and the module is OFF; during a planned power-down it goes on as R37 (R475, R478). -/
def execInputLoss (s : State) : Host.Outcome State Fault Refusal :=
  let off := fun (t : State) => modMod t (fun m => { m with power := .off, inputOk := false, holdupReady := false, en := false })
  if s.mod.power = .off || s.mod.power = .standby then modOk (off s)
  else modOk (off (meterPowerLoss (flushDown 1 s)))

/-- INPUT_RETURN: in range for 1 s with the bank charged, the module is in STANDBY (R478). -/
def execInputReturn (mv : Nat) (s : State) : Host.Outcome State Fault Refusal :=
  if s.mod.power ≠ .off ∨ mv < 44000 ∨ 62000 < mv then modOk s
  else modOk (modMod s (fun m => { m with power := .standby, inputOk := true, holdupReady := true, inputMv := mv }))

/-- POWER_UP: EN high with input in range (R479). -/
def execPowerUp (p : PowerUpIn) (s : State) : Host.Outcome State Fault Refusal :=
  if !(s.mod.power == .standby || (s.mod.power == .off && s.mod.inputOk)) || decide (p.inputMv < 44000) || decide (62000 < p.inputMv) then modOk s
  else
    let s1 := modMod s (fun m => { m with inputMv := p.inputMv, inputOk := true })
    let ref := fun (d : Die) (t : State) => modDie t d (fun x => { x with refLost := !p.refClock })
    modOk (boot p.failed false p.pufOk (ref .d1 (ref .d0 s1)))

/-- Is there admitted work left (R478 step 2)? -/
def workLeft (s : State) : Bool :=
  let one := fun (d : Die) => !(side s.home d).waiting.isEmpty || !(side s.home d).inbox.isEmpty || !(side s.tier d).moves.isEmpty ||
    !(side s.col d).ops.isEmpty || (side s.pod d).cores.any (fun c => c.2.item.isSome)
  one .d0 || one .d1

/-- The end of a planned power-down: R37 steps 2 and 3, LAST_DOWN, STANDBY. -/
def endPlanned (s : State) : State := modMod (meterPowerLoss (flushDown 0 s)) (fun m => { m with power := .standby })

/-- PLANNED_POWER_DOWN: EN low in RUN. Admission stops; with no work left the module flushes and enters STANDBY, else it goes on until
the command comes again with the work done, or PLANNED_DOWN_TIMEOUT. -/
def execPlannedPowerDown (s : State) : Host.Outcome State Fault Refusal :=
  if s.mod.power ≠ .run then modOk s
  else
    let s1 := modMod (setAdmit false s) (fun m => { m with en := false, planned := true })
    if workLeft s1 then modOk s1 else modOk (endPlanned s1)

/-- Every compute operation of a die stops without an answer (R398 step 2). -/
def stopCompute (d : Die) (s : State) : State :=
  let s1 := modCol s d (fun c => { c with ops := [], instances := [], sends := [] })
  modPod s1 d (fun v => { v with
  queue := [], cores := v.cores.map (fun c => (c.1,
    if c.2.st = .running then { c.2 with st := .idle, item := none, threads := [] } else c.2)) })

/-- PLANNED_DOWN_TIMEOUT: the work still running ends as under a module reset. -/
def execPlannedDownTimeout (s : State) : Host.Outcome State Fault Refusal :=
  if s.mod.power = .run && s.mod.planned then modOk (endPlanned (stopCompute .d1 (stopCompute .d0 s))) else modOk s

/-- Each tap's mark of a module reset, after the counts it holds (R398 step 4, R425). -/
def moduleMarks (d : Die) (s : State) : State :=
  let counts := (side s.mtr.bytesCnt d).map (·.1)
  let s1 := counts.foldl (fun t k => tapFlush d (k / 16) (k % 16) t) s
  (rangeFrom 0 (tapCount s d)).foldl (fun t _ => tap d 5 0 0 0 t) s1

/-- A warm reset after its response has left (R398). -/
def warmReset (s : State) : State :=
  let s1 := stopCompute .d1 (stopCompute .d0 (setAdmit false s))
  let s2 := moduleMarks .d1 (moduleMarks .d0 s1)
  boot (retiredNow s) true (!s.sec.pufFail) (flushDown 3 s2)

/-- The responses to a command leave before the module resets: they go from their output straight to the wire (R398 step 1). -/
def sendOut (r : CtlReq) (s : State) : State :=
  let mine := fun (x : Desc) => x.frame.opcode == Opc.ctlRsp && x.frame.tag == r.tag && addrEp x.frame.addr.toNat == r.srcEp.toNat
  let out := fun (d : Die) => (side s.swc d).fifos.flatMap (fun q => (q.queue.filter mine).map (·.frame))
  let way := fun (f : Frame) => match destOf s f 0 with
    | some (_, .sub p k) => some ({ port := p, sub := k, trailer := {}, frame := f } : Sent)
    | _ => none
  modLft s (fun l => { l with sent := l.sent ++ (out .d0 ++ out .d1).filterMap way })

/-- MODULE_RESET's own part. -/
def resetOwn (r : CtlReq) (s : State) : State := warmReset (sendOut r (ctlEnd 0x42 r Sts.ok s))

/-- MODULE_RESET. -/
def execModuleReset (r : CtlReq) (s : State) : Host.Outcome State Fault Refusal := ctlOk (runCtl 0x42 r (resetOwn r) s)

/-- STALK_FAILURE: both dies stop admitting requests (R30). -/
def execStalkFailure (s : State) : Host.Outcome State Fault Refusal :=
  modOk (modMod (setAdmit false s) (fun m => { m with stalkFailed := true }))

/-! Hold-up, heat, input (R477, R483, R490) -/

/-- HOLDUP_TEST: the bank's load test, in units of 0.1 ms. -/
def execHoldupTest (tenthMs : Nat) (s : State) : Host.Outcome State Fault Refusal :=
  let v := Nat.min tenthMs 0xFFFF
  let s1 := modMod s (fun m => { m with holdup := v, holdupLow := decide (v < 200) })
  if v < 200 then modOk (spEvent 0 0x72 (toLE 2 v ++ zeros 6) (modBit 3 s1)) else modOk (answerMedia .d1 (answerMedia .d0 s1))

/-- A signed temperature as a byte. -/
def tempByte (t : Int) : Byte := BitVec.ofInt 8 t

/-- Note a die's junction temperature. -/
def noteTj (d : Die) (tj : Int) (s : State) : State :=
  modDie s d (fun x => { x with tj := tj, tjMax := if x.tjMax < tj then tj else x.tjMax })

/-- The THERMAL event of a die. -/
def thermalEvent (d : Die) (tj inlet : Int) (s : State) : State :=
  event d 0 0x71 (toLE 1 (dieNum d) ++ [tempByte tj, tempByte inlet, BitVec.ofNat 8 (b2n (side s.mod.dies d).thermalHold)] ++ zeros 4) s

/-- THERMAL_HOLD_ENTER: above 105 °C the die starts no new work item. -/
def execThermalHoldEnter (d : Die) (tj inlet : Int) (s : State) : Host.Outcome State Fault Refusal :=
  if tj ≤ 105 ∨ (side s.mod.dies d).thermalHold then modOk s
  else
    let s1 := modMod (modDie (noteTj d tj s) d (fun x => { x with thermalHold := true })) (fun m => { m with coolIn := inlet })
    modOk (thermalEvent d tj inlet (modBit 0 s1))

/-- THERMAL_HOLD_EXIT: back at 100 °C. -/
def execThermalHoldExit (d : Die) (tj inlet : Int) (s : State) : Host.Outcome State Fault Refusal :=
  if 100 < tj ∨ !(side s.mod.dies d).thermalHold then modOk s
  else
    let s1 := modMod (modDie (noteTj d tj s) d (fun x => { x with thermalHold := false })) (fun m => { m with coolIn := inlet })
    modOk (thermalEvent d tj inlet s1)

/-- THERMAL_TRIP: R37 runs, then OFF. -/
def execThermalTrip (d : Die) (tj : Int) (s : State) : Host.Outcome State Fault Refusal :=
  if tj < 110 ∨ s.mod.power = .off ∨ s.mod.power = .standby then modOk s
  else modOk (modMod (meterPowerLoss (flushDown 2 (noteTj d tj s))) (fun m => { m with power := .off, en := false }))

/-- COOLANT_INLET_HIGH: the inlet is above 40 °C. The event carries die 0's junction temperature. -/
def execCoolantInletHigh (inlet : Int) (s : State) : Host.Outcome State Fault Refusal :=
  if inlet ≤ 40 then modOk s
  else
    let s1 := modBit 7 (modMod s (fun m => { m with coolIn := inlet }))
    modOk (thermalEvent .d0 s1.mod.dies.d0.tj inlet s1)

/-- INPUT_LOW: below 48 V without loss. -/
def execInputLow (mv : Nat) (s : State) : Host.Outcome State Fault Refusal :=
  if 48000 ≤ mv ∨ mv < 44000 then modOk s
  else modOk (spEvent 0 0x76 (toLE 2 mv ++ zeros 6) (modBit 2 (modMod s (fun m => { m with inputMv := mv }))))

/-! Repair in place (R485 to R488) -/

/-- The sub-link that owns a lane of a port (R473). -/
def laneSub (s : State) (port lane : Nat) : Nat := lane / (8 / subsOfMode (portMode s port))

/-- Substitute a spare lane: the sub-link holds its frames until the lane has retrained (R485). -/
def spareLane (d : Die) (port lane : Nat) (s : State) : BitVec 5 × State :=
  if 64 < port ∨ portDie port ≠ d ∨ 7 < lane then (Sts.length, s)
  else if (side s.mod.dies d).spareLanes = 0 then (Sts.denied, s)
  else
    let s1 := modDie s d (fun x => { x with spareLanes := x.spareLanes - 1 })
    (Sts.ok, modSub s1 port (laneSub s port lane) (fun x => { x with retraining := some lane }))

/-- LANE_AUTO_SPARE: AUTO_LANE is set and the port shows FEC_DEGRADE. -/
def execLaneAutoSpare (port lane : Nat) (s : State) : Host.Outcome State Fault Refusal :=
  if s.mod.autoLane && (portOf s port).errStatus.bits.getLsbD 7 && (subOf s port (laneSub s port lane)).retraining.isNone then
    modOk (spareLane (portDie port) port lane s).2
  else modOk s

/-- LANE_RETRAIN_DONE. -/
def execLaneRetrainDone (port lane : Nat) (s : State) : Host.Outcome State Fault Refusal :=
  let k := laneSub s port lane
  if (subOf s port k).retraining ≠ some lane then modOk s
  else
    let d := portDie port
    let s1 := modMod (modSub s port k (fun x => { x with retraining := none })) (fun m => { m with lanes := m.lanes ++ [(port, lane)] })
    modOk (event d 0 0x73 (toLE 1 port ++ toLE 1 lane ++ toLE 1 (side s1.mod.dies d).spareLanes ++ zeros 5) (modBit 4 s1))

/-- Start copying a pseudo-channel to a spare, which is taken at once (R487). -/
def sparePc (stack pc : Nat) (s : State) : BitVec 5 × State :=
  let left := nth s.mod.pcLeft stack 0
  if left = 0 then (Sts.denied, s)
  else
    let s1 := modMod s (fun m => { m with pcLeft := setAt m.pcLeft stack (left - 1), pcCopy := m.pcCopy ++ [(stack, pc)] })
    (Sts.ok, if left = 1 then modBit 8 s1 else s1)

/-- PC_AUTO_SPARE: AUTO_PC is set and the pseudo-channel shows too many errors. With no spare left SPARES_OUT is set (R488). -/
def execPcAutoSpare (stack pc : Nat) (s : State) : Host.Outcome State Fault Refusal :=
  if !s.mod.autoPc || decide (3 < stack) || decide (63 < pc) || s.mod.pcCopy.contains (stack, pc) then modOk s
  else if nth s.mod.pcLeft stack 0 = 0 then modOk (modBit 8 s)
  else modOk (sparePc stack pc s).2

/-- The die of a stack (R24). -/
def stackDie (stack : Nat) : Die := if stack < 2 then .d0 else .d1

/-- PC_SPARE_SWITCHOVER: both copies are equal and the spare takes the original's place. -/
def execPcSpareSwitchover (stack pc : Nat) (s : State) : Host.Outcome State Fault Refusal :=
  if !s.mod.pcCopy.contains (stack, pc) then modOk s
  else
    let s1 := modMod s (fun m => { m with pcCopy := dropFirst (fun x => x == (stack, pc)) m.pcCopy })
    modOk (event (stackDie stack) 0 0x74 (toLE 1 stack ++ toLE 1 pc ++ toLE 1 (nth s1.mod.pcLeft stack 0) ++ zeros 5) (modBit 5 s1))

/-- ROW_REPAIR: the row's contents are saved and accesses to it held (R488). -/
def execRowRepair (stack row : Nat) (s : State) : Host.Outcome State Fault Refusal :=
  if !s.mod.autoRow || decide (3 < stack) || s.mod.rowBusy.contains (stack, row) then modOk s
  else if s.mod.rowsOut.contains stack then modOk (modBit 8 s)
  else modOk (modMod s (fun m => { m with rowBusy := m.rowBusy ++ [(stack, row)] }))

/-- ROW_REPAIR_DONE: contents restored, held accesses released in order of acceptance. How many repair rows a stack has is not stated:
whether this was its last is a free value. -/
def execRowRepairDone (stack row : Nat) (s : State) : Host.Outcome State Fault Refusal :=
  if !s.mod.rowBusy.contains (stack, row) then modOk s
  else
    match drawFree s with
    | (k, s0) =>
      let last := (Config.freeValue k).toNat % 2 == 1
      let s1 := modMod s0 (fun m => { m with
        rowBusy := dropFirst (fun x => x == (stack, row)) m.rowBusy, rows := modAt m.rows stack (fun n => satAdd n 1 0xFFFFFFFF),
        rowsOut := if last then insertNat stack m.rowsOut else m.rowsOut })
      let s2 := modBit 6 (if last then modBit 8 s1 else s1)
      let s3 := event (stackDie stack) 0 0x75 (toLE 1 stack ++ zeros 7) s2
      let go := fun (d : Die) (t : State) => resume d (fun w => w.wait == .row stack row) false t
      modOk (go .d1 (go .d0 s3))

/-! Pace and the reference clock (R45 to R49) -/

/-- The readings of input, power and temperatures are refreshed once per local reference interval (R484): what is read is of the
surroundings, a free value. -/
def refreshReadings (d : Die) (s : State) : State :=
  match drawFree s with
  | (k, s1) =>
    let v := (Config.freeValue k).toNat
    let temp := fun (i : Nat) => (BitVec.ofNat 8 (v / 2 ^ i)).toInt
    modMod (noteTj d (temp 32) s1) (fun m => { m with
      inputMv := v % 2 ^ 16, inputW := v / 2 ^ 16 % 2 ^ 16, coolIn := temp 40, coolOut := temp 48 })

/-- PACE_MEASURE: the latest pace; PACE_LOW is set and cleared at the first intervals below and back above 160,000; the readings are
refreshed. -/
def execPaceMeasure (d : Die) (pace : Nat) (s0 : State) : Host.Outcome State Fault Refusal :=
  let p := pace % 2 ^ 24
  let s := refreshReadings d s0
  let x := side s.mod.dies d
  let low := decide (p < 160000)
  let s1 := modDie s d (fun y => { y with pace := p, minPace := if y.minPace = 0 then p else Nat.min y.minPace p, paceLow := low })
  if low == x.paceLow then modOk s1 else modOk (event d 0 0x10 (toLE 1 (b2n low) ++ zeros 3 ++ toLE 4 p) s1)

/-- REF_CLOCK_LOSS: each die takes its internal oscillator, sets its reference-loss status and emits an event. -/
def execRefClockLoss (s : State) : Host.Outcome State Fault Refusal :=
  let one := fun (d : Die) (t : State) =>
    if (side t.mod.dies d).refLost then t else event d 0 0x11 [1#8] (modBit 1 (modDie t d (fun x => { x with refLost := true })))
  modOk (one .d1 (one .d0 s))

/-- REF_CLOCK_RETURN. -/
def execRefClockReturn (s : State) : Host.Outcome State Fault Refusal :=
  let one := fun (d : Die) (t : State) =>
    if (side t.mod.dies d).refLost then event d 0 0x11 [0#8] (modDie t d (fun x => { x with refLost := false })) else t
  modOk (one .d1 (one .d0 s))

/-- LOCAL_FRACTION_UPDATE: the measured local fraction of the die's port bytes, in thousandths (R114). Of an interval without port
bytes no fraction is stated: a free value within 0 to 1,000. -/
def execLocalFractionUpdate (d : Die) (s : State) : Host.Outcome State Fault Refusal :=
  let total := side s.cfg.totalBytes d
  let put_ := fun (v : Nat) (t : State) => modCfg t (fun c => { c with
    localFrac := upd c.localFrac d (fun _ => v), localBytes := upd c.localBytes d (fun _ => 0), totalBytes := upd c.totalBytes d (fun _ => 0) })
  if total = 0 then
    match drawFree s with
    | (k, s1) => modOk (put_ ((Config.freeValue k).toNat % 1001) s1)
  else modOk (put_ (side s.cfg.localBytes d * 1000 / total) s)

/-! Takeover (R40) -/

/-- Answer a control frame that was in flight with ABORTED. -/
def abortCtl (d : Die) (f : Frame) (s : State) : State :=
  sendAll d (mkRsps s d f Opc.ctlRsp Sts.aborted (slice f.payload 0 2 ++ toBE 2 1 ++ slice f.payload 4 4 ++ zeros 8)) s

/-- SP_TAKEOVER: the standby is the active one from here; what had its commit record goes on, and every other command accepted and not
completed is answered ABORTED with no effect. DESIGN CHOICE (log 193): a second takeover makes the processor active again that failed first. -/
def execSpTakeover (s : State) : Host.Outcome State Fault Refusal :=
  let d := otherDie s.cfg.activeSp
  let cut := fun (f : Frame) => f.opcode == Opc.ctlReq && !s.cfg.mirrorLog.any (fun m => m.1 == f.srcEp.toNat && m.2.1 == beNat (slice f.payload 4 4))
  let ctl := s.cfg.spInbox.filter cut
  let s1 := modCfg s (fun c => { c with activeSp := d, spInbox := c.spInbox.filter (fun f => !cut f), authWait := none })
  let s2 := match s.cfg.authWait with
    | some w => ctlAnswer w.code w.req Sts.aborted 0 [] s1
    | none => s1
  modOk (spEvent 0 0x13 [] (ctl.foldl (fun t f => abortCtl d f t) s2))

end Machine
end Sys2Proof
end

