-- ==== Sys2Proof/Machine/Apply.lean ====
section
/-! DEFINITION. Changing the configuration at run time (chapter 03): loading a bitstream slot, activating one, applying a partial bitstream,
draining changed records. -/

namespace Sys2Proof
namespace Machine

/-! What a record change does beside changing the record -/

/-- An extent enters ACTIVE; a class C extent is placed and charged (R68, R78). -/
def addExtent (i : Nat) (s : State) : State :=
  match extOf s i with
  | none => s
  | some e => placeExt e (modExt s i (fun _ => { phase := ⟨.active, .active⟩ }))

/-- A revoked extent without objects is gone: a class C extent's charge and bytes go with it. -/
def deleteExtent (e : ExtV) (s : State) : State :=
  let s1 := { s with exts := del s.exts e.idx }
  if e.classT then s1
  else
    let at_ := s.cfg.switchId * 2 ^ 52 + e.base
    let s2 := dropCharge e.die e.owner (classCTier e) (e.size / 4096) s1
    let inExt := fun (l : Nat) => decide (at_ ≤ l * 64) && decide (l * 64 < at_ + e.size)
    modTier { s2 with mem := memClear s2.mem at_ e.size, poison := s2.poison.filter (fun g => !inExt g) } e.die
      (fun t => { t with cc := t.cc.filter (fun x => !inExt x.1 && !(decide (e.base ≤ x.1 * 64) && decide (x.1 * 64 < e.base + e.size))) })

/-- An object of an extent that has moved to another die takes a place in its tier there; where the tier has no room its place is kept (DESIGN
CHOICE, log 56: the manual does not say how the bytes of a moved extent come to the new die). -/
def moveToDie (old : Die) (e : ExtV) (id : Nat) (s : State) : State :=
  match get? s.objs id with
  | none => s
  | some o =>
    match roomIn s e.die o.tier o.size with
    | none => s
    | some loc =>
      let n := granules o.size
      let s1 := if o.tier = 2 then unmapUnits old o.loc n s else s
      let s2 := modObj s1 id (fun x => { x with loc := loc })
      journalObj e.die e id (startCopy e.die (.out id) (putObj { o with loc := loc }) s2)

/-- The extent of an index has taken a new HOME_DIE. -/
def moveExtent (old : Die) (i : Nat) (s : State) : State :=
  match extOf s i with
  | none => s
  | some e =>
    let s1 := ((s.objs.filter (fun o => o.2.ext == i)).map (·.1)).foldl (fun t id => moveToDie old e id t) s
    if e.classT then s1
    else
      let s2 := modExt s1 i (fun x => { x with group := 16 })
      let g := if e.policy = 2 then (bestGroup s2 e.die e.size).getD 0 else 0
      modTier (modExt s2 i (fun x => { x with group := g })) old (fun t => { t with cc := t.cc.filter (fun x => !ccIn s1 e x.1) })

/-- A port takes a new record: its sub-links train anew under it (R32). -/
def retrainPort (p : Nat) (s : State) : State := (rangeFrom 0 8).foldl (fun t k => clearSub p k t) s

/-- A tray's record has come or gone: a tray lost before is another tray now. -/
def freshTray (p : Nat) (s : State) : State := modFlt s (fun t => { t with lostTrays := t.lostTrays.filter (· != p) })

/-- The buckets of a context's classes begin anew under a new QOS record. -/
def freshBuckets (c : Nat) (s : State) : State :=
  let one := fun (d : Die) (t : State) => modEv t d (fun v => { v with buckets := v.buckets.filter (fun k => k.1 / 8 != c) })
  one .d1 (one .d0 s)

/-- A ROUTE record has changed: a path barrier runs where the live paths changed (R143), and a resequencer whose slot is gone lets go. -/
def rerouted (before sw : Nat) (old : List Nat) (s : State) : State :=
  let s1 := (rangeFrom 0 3).foldl (fun t tc => if bitAt before tc && !hasSlot t sw tc then releaseHeld sw tc t else t) s
  if liveNow s1 sw == old || answersFor s1 sw then s1 else startBarrier sw s1

/-- A context is created: ACTIVE on both dies with zero quotas (R381), its key derived (R421). -/
def freshCtx (c : Nat) (s : State) : State :=
  modCtx s c (fun x => { x with
    phase := ⟨.active, .active⟩, limits := [0, 0, 0], overTier := [false, false, false], job := none, key := ctxKey s c,
    bytesIn := ⟨[0, 0, 0, 0, 0], [0, 0, 0, 0, 0]⟩, work := ⟨0, 0⟩, quotaWaits := 0, congWaits := 0 })

/-- A record change takes effect: the record, and what follows from it. -/
def installChange (c : Change) (s : State) : State :=
  let old := recOf s c.type c.key
  let t := withChanges s [c]
  if c.type = RT.port then (if old = some c.body then t else retrainPort c.key t)
  else if c.type = RT.route then rerouted (old.elim 0 (fun b => le b 2 1)) c.key (liveNow s c.key) t
  else if c.type = RT.tray then freshTray c.key t
  else if c.type = RT.ftlVolume then
    match c.action with
    | .add => { t with vols := put t.vols c.key { st := .offline } }
    | .replace => t
    | .delete => { t with vols := del t.vols c.key }
  else if c.type = RT.context then
    match c.action with
    | .add => freshCtx c.key t
    | .replace => modCtx t c.key (fun x => { x with key := ctxKey t c.key })
    | .delete => modCtx t c.key (fun x => { x with phase := ⟨.free, .free⟩, key := [] })
  else if c.type = RT.qos then freshBuckets c.key t
  else if c.type = RT.extent then
    match c.action, old with
    | .add, _ => addExtent c.key t
    | .replace, some b =>
      let e := extView c.key b
      if (extOf t c.key).elim true (fun n => n.die == e.die) then t else moveExtent e.die c.key t
    | .replace, none => t
    | .delete, some b => deleteExtent (extView c.key b) t
    | .delete, none => t
  else if c.type = RT.codebook then
    match c.action with
    | .add => { t with
      cmp := { t.cmp with
        slots := put t.cmp.slots c.key { phase := .valid, tables := le c.body 2 1, gen := le c.body 4 2, lengths := c.body.drop 16 } } }
    | .replace => t
    | .delete => { t with cmp := { t.cmp with slots := modK t.cmp.slots c.key (fun x => { x with phase := .retiring }) } }
  else if c.type = RT.composition then
    match c.action with
    | .add => modFlt t (fun f => { f with comps := put f.comps c.key {} })
    | .replace => t
    | .delete => modFlt t (fun f => { f with comps := del f.comps c.key })
  else if c.type = RT.replicaSet ∧ c.action = .delete then modFlt t (fun f => { f with promoted := f.promoted.filter (· != c.key) })
  else t

/-! Draining (R32, R62, R102, R200) -/

/-- Does a change wait until what the old record admitted is over? -/
def needsDrain (s : State) (c : Change) : Bool :=
  match recOf s c.type c.key with
  | none => false
  | some b =>
    if c.type = RT.port then c.action == .delete || b != c.body
    else if c.type = RT.extent then c.action == .replace && (extView c.key b).die != (extView c.key c.body).die
    else if c.type = RT.dirLayout then (recsOf s RT.extent).any (fun r => dirAffects s c.key c.body (extView r.key r.body))
    else false

/-- The extents that a draining record concerns. -/
def drainExts (s : State) (x : Drain) : List ExtV :=
  ((recsOf s RT.extent).map (fun r => extView r.key r.body)).filter (fun e =>
    (x.type == RT.extent && e.idx == x.key) || (x.type == RT.dirLayout && dirAffects s x.key x.next e))

/-- What a draining record needs done, as far as it can be done now: cached lines are recalled with REASON 4, and of a moving extent hot
lines leave the buffer and dirty lines of the class C cache are written back. -/
def drainKick (x : Drain) (s : State) : State :=
  (drainExts s x).foldl (fun t e =>
    let d := e.die
    let t1 := (extLines t d e).foldl (fun u l => startRecall d l.1 4 false 0 u) t
    if x.type = RT.extent then
      (ccDirtyIn t1 d e).foldl (fun u l => ccWriteback d l u) (modHome t1 d (fun h => { h with hot := h.hot.filter (fun y => !(ccIn t1 e y.1)) }))
    else t1) s

/-- Are the frames and operations of a port's endpoints over, those sent to other switches among them, of an inter-switch port the requests of
the switches that it leads to, and are its queues empty (R32)? -/
def portQuiet (s : State) (p : Nat) : Bool :=
  let leads := fun (sw : Nat) => portRole s p == 4 && sw != s.cfg.switchId && (pathsUsed s sw).any (fun i => nextPort s sw i == some p)
  let mine := fun (f : Frame) => isReq f.opcode && ((portSubs s p).any (fun k => subEp s p k == f.srcEp.toNat) || leads (epSwitch f.srcEp.toNat))
  let x := portOf s p
  !(framesHere s).any mine && !((side s.col .d0).ops ++ (side s.col .d1).ops).any (fun o => mine o.frame) &&
    x.writeRec.isEmpty && x.asked.isEmpty && x.releases.isEmpty && x.acquires.isEmpty &&
    !(side s.swc (portDie p)).fifos.any (fun f => match f.out with
      | .sub q _ => q == p
      | _ => false) &&
    !((side s.tier .d0).trayReqs ++ (side s.tier .d1).trayReqs).any (fun r => r.port == p)

/-- Is what a draining record admitted over? -/
def drainQuiet (s : State) (x : Drain) : Bool :=
  if x.type = RT.port then portQuiet s x.key
  else
    (drainExts s x).all (fun e => (extLines s e.die e).isEmpty &&
      (x.type == RT.dirLayout || (!extWork s e && (ccDirtyIn s e.die e).isEmpty && !(side s.home e.die).hot.any (fun y => ccIn s e y.1))))

/-- The changes of a list as far as they take effect or begin to drain, and the rest: a change of another type than the draining ones waits
for them, so that records take effect in order (R101). -/
def applyList (cs : List Change) (s : State) : State × List Change :=
  match cs with
  | [] => (s, [])
  | c :: r =>
    if s.cfg.draining.any (fun x => x.type != c.type) then (s, c :: r)
    else if needsDrain s c then
      let x : Drain := ⟨c.type, c.key, if c.action = .delete then [] else c.body⟩
      applyList r (drainKick x (modCfg s (fun g => { g with draining := g.draining ++ [x] })))
    else applyList r (installChange c s)

/-- The end of a partial's application (R101 step 5, R104). -/
def finishPartial (a : Applying) (s : State) : State :=
  let s1 := modCfg s (fun c => { c with applying := none, slotP := {}, detClass := a.detClass })
  jobDone a.job Sts.ok 0 (spEvent 0 0x02 (toLE 4 a.job ++ zeros 4 ++ toLE 8 a.gen) s1)

/-- Apply as much as can be applied now. -/
def applyRun (s : State) : State :=
  match s.cfg.applying with
  | none => s
  | some a =>
    match applyList a.changes s with
    | (s1, rest) =>
      let s2 := modCfg s1 (fun c => { c with applying := some { a with changes := rest } })
      if rest.isEmpty && s2.cfg.draining.isEmpty then finishPartial a s2 else s2

/-- A step of the configuration that goes on. -/
def cfgOk (s : State) : Host.Outcome State Fault Refusal := .next s

/-- PARTIAL_APPLY. -/
def execPartialApply (s : State) : Host.Outcome State Fault Refusal := cfgOk (applyRun s)

/-- RECORD_DRAIN_DONE: a record whose old requests are over takes its new body, and the application goes on; before that, what is due of its
recalls and write-backs starts (R102). -/
def execRecordDrainDone (type key : Nat) (s : State) : Host.Outcome State Fault Refusal :=
  match s.cfg.draining.find? (fun x => x.type == type && x.key == key) with
  | none => cfgOk s
  | some x =>
    let s1 := drainKick x s
    if !drainQuiet s1 x then cfgOk s1
    else
      let s2 := modCfg s1 (fun c => { c with draining := c.draining.filter (fun y => !(y.type == type && y.key == key)) })
      cfgOk (applyRun (installChange ⟨if x.next.isEmpty then .delete else .replace, type, key, x.next⟩ s2))

/-! Loading a slot (R95) -/

/-- The slot that a LOAD_ID names. -/
def loadSlot (s : State) (id : Nat) : Option Slot :=
  [Slot.a, Slot.b, Slot.p].find? (fun x => (slotOf s x).phase == .loading && (slotOf s x).loadId == id)

/-- BS_BEGIN's own part. -/
def bsBeginOwn (r : CtlReq) (s : State) : State :=
  let total := le r.args 8 8
  match slotNum (le r.args 0 1) with
  | none => ctlEnd 0x10 r Sts.format s
  | some x =>
    let n := if s.cfg.lastLoadId = 0xFFFE then 1 else s.cfg.lastLoadId + 1
    match firstBad [
      if x = s.cfg.active ∧ !s.cfg.unconfigured then some Sts.denied else none,
      if (slotOf s x).phase = .loading then some Sts.retry else none,
      needLen (decide (30064 ≤ total) && decide (total ≤ slotLimit (x == .p)))] with
    | some st => ctlEnd 0x10 r st s
    | none =>
      let s1 := modCfg (modSlot s x (fun _ => { phase := .loading, loadId := n, total := total }))
        (fun c => { c with lastLoadId := n, loadOrder := x :: c.loadOrder.filter (· != x) })
      ctlAnswer 0x10 r Sts.ok 0 (toLE 2 n ++ zeros 6) s1

/-- BS_BEGIN. -/
def execBsBegin (r : CtlReq) (s : State) : Host.Outcome State Fault Refusal := ctlOk (runCtl 0x10 r (bsBeginOwn r) s)

/-- Bytes written into a slot at an offset. -/
def writeSlot (x : Slot) (off : Nat) (b : Bytes) (s : State) : State := modSlot s x (fun y => { y with bytes := putBytes y.bytes off b })

/-- BS_DATA's own part. -/
def bsDataOwn (r : CtlReq) (s : State) : State :=
  let off := le r.args 8 8
  let b := r.args.drop 16
  match loadSlot s (argLoadId r) with
  | none => ctlEnd 0x11 r Sts.stale s
  | some x =>
    if (slotOf s x).total < off + b.length then ctlEnd 0x11 r Sts.length s else ctlEnd 0x11 r Sts.ok (writeSlot x off b s)

/-- BS_DATA. -/
def execBsData (r : CtlReq) (s : State) : Host.Outcome State Fault Refusal := ctlOk (runCtl 0x11 r (bsDataOwn r) s)

/-- BS_FETCH's own part. -/
def bsFetchOwn (r : CtlReq) (s : State) : State :=
  let off := le r.args 8 8
  let n := le r.args 24 8
  match loadSlot s (argLoadId r) with
  | none => ctlEnd 0x12 r Sts.stale s
  | some x =>
    if (slotOf s x).total < off + n then ctlEnd 0x12 r Sts.length s
    else
      match newJob 0x12 r.srcEp.toNat r.ctx.toNat [argLoadId r, off, le r.args 16 8, n] s with
      | (j, s1) => jobAnswer 0x12 r j s1

/-- BS_FETCH. -/
def execBsFetch (r : CtlReq) (s : State) : Host.Outcome State Fault Refusal := ctlOk (runCtl 0x12 r (bsFetchOwn r) s)

/-- BS_FETCH_COMPLETE: the source is read under the issuing context's grants and its bytes written, or the read's status ends the job. -/
def execBsFetchComplete (job : Nat) (s : State) : Host.Outcome State Fault Refusal :=
  match jobOf s job with
  | none => cfgOk s
  | some j =>
    if j.code ≠ 0x12 then cfgOk s
    else
      match j.args, loadSlot s (nth j.args 0 0) with
      | [_, off, src, n], some x =>
        match svcRead s.cfg.activeSp j.ctx src n s with
        | (st, b, s1) => if st = Sts.ok then cfgOk (jobDone job Sts.ok 0 (writeSlot x off b s1)) else cfgOk (jobDone job st 0 s1)
      | _, _ => cfgOk (jobDone job Sts.aborted 0 s)

/-- The fetches of a load that has ended report ABORTED. -/
def endFetches (id : Nat) (s : State) : State :=
  ((s.cfg.jobs.filter (fun j => j.code == 0x12 && nth j.args 0 0 == id)).map (·.num)).foldl (fun t n => jobDone n Sts.aborted 0 t) s

/-- BS_END's own part (R96). -/
def bsEndOwn (r : CtlReq) (s : State) : State :=
  match loadSlot s (argLoadId r) with
  | none => ctlEnd 0x13 r Sts.stale s
  | some x =>
    let y := slotOf s x
    let s1 := endFetches y.loadId s
    match verifySlot s (x == .p) y with
    | none => ctlEnd 0x13 r Sts.ok (modSlot s1 x (fun z => { z with phase := .verified }))
    | some st => ctlEnd 0x13 r st (setStatus .cfg 1 (modSlot s1 x (fun z => { z with phase := .invalid })))

/-- BS_END. -/
def execBsEnd (r : CtlReq) (s : State) : Host.Outcome State Fault Refusal := ctlOk (runCtl 0x13 r (bsEndOwn r) s)

/-- BS_ABORT's own part. -/
def bsAbortOwn (r : CtlReq) (s : State) : State :=
  match loadSlot s (argLoadId r) with
  | none => ctlEnd 0x14 r Sts.stale s
  | some x => ctlEnd 0x14 r Sts.ok (endFetches (argLoadId r) (modSlot s x (fun _ => {})))

/-- BS_ABORT. -/
def execBsAbort (r : CtlReq) (s : State) : Host.Outcome State Fault Refusal := ctlOk (runCtl 0x14 r (bsAbortOwn r) s)

/-- LOAD_ABANDON: a load without a command for 60 s is abandoned. -/
def execLoadAbandon (slot : Slot) (s : State) : Host.Outcome State Fault Refusal :=
  let y := slotOf s slot
  if y.phase ≠ .loading then cfgOk s
  else
    let s1 := endFetches y.loadId (modSlot s slot (fun _ => {}))
    cfgOk (spEvent 0 0x04 (toLE 2 y.loadId ++ zeros 6) (setStatus .cfg 4 s1))

/-! Activating (R98 to R101) -/

/-- Validation of a partial (R100): none where it passes. -/
def partialBad (s : State) (b : Bytes) (cs : List Change) : Option (BitVec 5) :=
  if le b 32 8 ≠ s.cfg.activeId then some Sts.stale
  else if le b 40 8 ≠ 0 ∧ le b 40 8 ≠ s.cfg.configGen then some Sts.stale
  else validate s true cs

/-- BS_ACTIVATE of a partial: validated whole, committed and answered; its changes are then applied (R101). -/
def activatePartial (r : CtlReq) (s : State) : State :=
  let b := bsBytes s.cfg.slotP
  let cs := (readChanges true b).getD []
  match partialBad s b cs with
  | some st => ctlEnd 0x15 r st (setStatus .cfg 2 s)
  | none =>
    match newJob 0x15 r.srcEp.toNat r.ctx.toNat [] s with
    | (j, s1) =>
      let gen := s.cfg.configGen + 1
      let a : Applying := ⟨j, r.srcEp.toNat, r.ctx.toNat, gen, le b 16 4, applyOrder cs⟩
      let s2 := journal .d0 (.commit j gen) (raiseArb (le b 20 4) s1)
      jobAnswer 0x15 r j (modCfg s2 (fun c => { c with applying := some a, configGen := gen }))

/-- BS_ACTIVATE of a full bitstream: the slot is preferred, and with NOW the module resets at once. -/
def activateFull (r : CtlReq) (x : Slot) (s : State) : State :=
  match newJob 0x15 r.srcEp.toNat r.ctx.toNat [] s with
  | (j, s1) =>
    let s2 := jobAnswer 0x15 r j (countGen (journal .d0 (.preferred (x == .b)) (modCfg s1 (fun c => { c with preferred := x }))))
    if le r.args 1 1 = 1 then warmReset (sendOut r s2) else jobDone j Sts.ok 0 s2

/-- BS_ACTIVATE's own part. -/
def bsActivateOwn (r : CtlReq) (s : State) : State :=
  match slotNum (le r.args 0 1) with
  | none => ctlEnd 0x15 r Sts.format s
  | some x =>
    if (slotOf s x).phase ≠ .verified then ctlEnd 0x15 r Sts.stale s
    else if x = .p then activatePartial r s else activateFull r x s

/-- BS_ACTIVATE. -/
def execBsActivate (r : CtlReq) (s : State) : Host.Outcome State Fault Refusal := ctlOk (runCtl 0x15 r (bsActivateOwn r) s)

end Machine
end Sys2Proof
end

