-- ==== Sys2Proof/Machine/Control.lean ====
section
/-! DEFINITION. The control commands for extents, grants, contexts, admission, QoS and the owner key (R68, R69, R378 to R381, R388, R393,
R411), ECHO (R107), and the end of the reading of an authorisation (R413). -/

namespace Sys2Proof
namespace Machine

/-- ECHO: the arguments come back (R107). -/
def execEcho (r : CtlReq) (s : State) : Host.Outcome State Fault Refusal := ctlOk (runCtl 0x01 r (ctlAnswer 0x01 r Sts.ok 0 r.args) s)

/-- EXT_CREATE: the extent enters ACTIVE (R68). -/
def execExtCreate (r : CtlReq) (s : State) : Host.Outcome State Fault Refusal :=
  let c := bodyChange .add RT.extent r
  ctlOk (runCtl 0x20 r (recordCmd 0x20 r c (addExtent c.key)) s)

/-- GRANT_ADD (R69). -/
def execGrantAdd (r : CtlReq) (s : State) : Host.Outcome State Fault Refusal :=
  ctlOk (runCtl 0x22 r (recordCmd 0x22 r (bodyChange .add RT.grant r) id) s)

/-- GRANT_REMOVE (R69). -/
def execGrantRemove (r : CtlReq) (s : State) : Host.Outcome State Fault Refusal :=
  ctlOk (runCtl 0x23 r (recordCmd 0x23 r ⟨.delete, RT.grant, le r.args 0 4, []⟩ id) s)

/-- CTX_CREATE's own part: context 0 is always ACTIVE, so it completes with STALE (R378, DEDUCED, log 58). -/
def ctxCreateOwn (r : CtlReq) (s : State) : State :=
  let c := bodyChange .add RT.context r
  if c.key = 0 then ctlEnd 0x30 r Sts.stale s else recordCmd 0x30 r c (freshCtx c.key) s

/-- CTX_CREATE (R381). -/
def execCtxCreate (r : CtlReq) (s : State) : Host.Outcome State Fault Refusal := ctlOk (runCtl 0x30 r (ctxCreateOwn r) s)

/-- The state table of R378 for a reset or a destruction, as the die of the active service processor holds the context. -/
def ctxEndBad (s : State) (c : Nat) : Option (BitVec 5) :=
  if c = 0 then some Sts.denied
  else
    match ctxPhase s s.cfg.activeSp c with
    | .free => some Sts.nohome
    | .active => none
    | .resetting => some Sts.retry
    | .destroying => some Sts.retry

/-- Does a context own an extent, or does a RANK_GROUP or the EXCL_CTX of a PARTITION name it (R381)? -/
def ctxNamed (s : State) (c : Nat) : Bool :=
  (recsOf s RT.extent).any (fun x => le x.body 12 2 % 4096 == c) || (recsOf s RT.rankGroup).any (fun x => (grpView x.body).ctx == c) ||
    (recsOf s RT.partition).any (fun x => le x.body 2 2 % 4096 == c)

/-- A reset or destruction is accepted: the accepting die holds the context in its new state, and the other die follows by
CTX_RESET_STALK_APPLY (R393). -/
def ctxEnd (code : Nat) (r : CtlReq) (p : CtxPhase) (s : State) : State :=
  let c := le r.args 0 4
  match newJob code r.srcEp.toNat r.ctx.toNat [c] s with
  | (n, s1) => jobAnswer code r n (modCtx s1 c (fun x => { x with phase := upd x.phase s1.cfg.activeSp (fun _ => p), job := some n }))

/-- CTX_DESTROY's own part (R381). -/
def ctxDestroyOwn (r : CtlReq) (s : State) : State :=
  let c := le r.args 0 4
  match firstBad [ctxEndBad s c, need (!ctxNamed s c)] with
  | some st => ctlEnd 0x31 r st s
  | none => ctxEnd 0x31 r .destroying (countGen s)

/-- CTX_DESTROY. -/
def execCtxDestroy (r : CtlReq) (s : State) : Host.Outcome State Fault Refusal := ctlOk (runCtl 0x31 r (ctxDestroyOwn r) s)

/-- ADMIT_ADD (R380). -/
def execAdmitAdd (r : CtlReq) (s : State) : Host.Outcome State Fault Refusal :=
  ctlOk (runCtl 0x32 r (recordCmd 0x32 r (bodyChange .add RT.admitRec r) id) s)

/-- ADMIT_REMOVE (R380). -/
def execAdmitRemove (r : CtlReq) (s : State) : Host.Outcome State Fault Refusal :=
  ctlOk (runCtl 0x33 r (recordCmd 0x33 r ⟨.delete, RT.admitRec, le r.args 0 8, []⟩ id) s)

/-- QOS_SET's own part: an ADD, or a REPLACE where the record exists (R106, R388). -/
def qosOwn (r : CtlReq) (s : State) : State :=
  let action := if (recOf s RT.qos (le r.args 0 8)).isSome then Action.replace else Action.add
  let c := bodyChange action RT.qos r
  recordCmd 0x34 r c (freshBuckets c.key) s

/-- QOS_SET. -/
def execQosSet (r : CtlReq) (s : State) : Host.Outcome State Fault Refusal := ctlOk (runCtl 0x34 r (qosOwn r) s)

/-- CTX_RESET's own part (R393). -/
def ctxResetOwn (r : CtlReq) (s : State) : State :=
  match ctxEndBad s (le r.args 0 4) with
  | some st => ctlEnd 0x40 r st s
  | none => ctxEnd 0x40 r .resetting s

/-- CTX_RESET. -/
def execCtxReset (r : CtlReq) (s : State) : Host.Outcome State Fault Refusal := ctlOk (runCtl 0x40 r (ctxResetOwn r) s)

/-! The owner key (R411) -/

/-- OWNER_KEY_TRANSFER's own part: an installation, or the beginning of a transfer. -/
def ownerKeyOwn (r : CtlReq) (s : State) : State :=
  if r.argLength = 64 then
    if s.sec.ownerKey.isSome then ctlEnd 0x72 r Sts.denied s
    else ctlEnd 0x72 r Sts.ok (modSec s (fun x => { x with ownerKey := some r.args }))
  else if s.cfg.applying.isSome then ctlEnd 0x72 r Sts.retry s
  else rwlBegin 0x72 r offOwnerSet s.sec.leftXfer s

/-- OWNER_KEY_TRANSFER. -/
def execOwnerKeyTransfer (r : CtlReq) (s : State) : Host.Outcome State Fault Refusal := ctlOk (runCtl 0x72 r (ownerKeyOwn r) s)

/-- The previous owner's checkpoints are unreadable: replay finds none that is valid (R411). -/
def dropCkpts (s : State) : State :=
  let one := fun (d : Die) (t : State) => modFtl t d (fun x => { x with ckptX := {}, ckptY := {}, ckptRun := none })
  one .d1 (one .d0 s)

/-- A transfer, its authorisation read: the remaining checks of R413; accepted, it writes the key, answers, and resets the module. -/
def transferRead (r : CtlReq) (st : BitVec 5) (b : Bytes) (s : State) : State :=
  match (if st = Sts.ok then authBad s 2 s.sec.leftXfer b else some st) with
  | some e => ctlEnd 0x72 r e (setStatus .sec 3 s)
  | none =>
    let s1 := modSec s (fun x => { x with ownerKey := some (slice b 24 64), leftXfer := x.leftXfer - 1, transfers := x.transfers + 1 })
    let s2 := rwlAccepted offOwnerSet s1.sec.leftXfer s1
    warmReset (dropCkpts (sendOut r (ctlEnd 0x72 r Sts.ok s2)))

/-- The bytes the service processor reads for a command: an authorisation of 29,920, a tariff set of 30,048 (R413, R434). -/
def authLength (code : Nat) : Nat := if code = 0x80 then 30048 else 29920

/-- The service processor ends its reading at the command's address. -/
def authDone (w : AuthWait) (s0 : State) : State :=
  let s := modCfg s0 (fun c => { c with authWait := none })
  match svcRead s.cfg.activeSp w.req.ctx.toNat (le w.req.args 0 8) (authLength w.code) s with
  | (st, b, s1) =>
    if w.code = 0x71 then unlockRead w.req st b s1
    else if w.code = 0x72 then transferRead w.req st b s1
    else tariffRead w.req st b s1

/-- AUTHORISATION_READ_DONE. -/
def execAuthorisationReadDone (s : State) : Host.Outcome State Fault Refusal :=
  match s.cfg.authWait with
  | none => ctlOk s
  | some w => ctlOk (authDone w s)

end Machine
end Sys2Proof
end

