-- ==== Sys2Proof/Machine/Ingress.lean ====
section
/-! DEFINITION. The ingress of a port (R57, R118 to R132, R136, R161 to R166, R176 to R179, R389, R390, R450, R467): the checks of an arriving
frame in order, stamping, the write record, stops, releases and acquires, rate limits, and the way on. -/

namespace Sys2Proof
namespace Machine

/-- A step of the switch core that goes on. -/
def swcOk (s : State) : Host.Outcome State Fault Refusal := .next s

/-! The frame on the wire -/

/-- Bytes 0 to 27 of the header (R121). -/
def headerBytes (f : Frame) : Bytes :=
  toBE 1 (f.version.toNat * 16 + b2n f.cmp * 8 + b2n f.rel * 4 + b2n f.acq * 2 + b2n f.last) ++ [f.opcode] ++
    toBE 1 (f.tc.toNat * 32 + f.status.toNat) ++ toBE 1 (f.hop.toNat * 16 + f.slot.toNat) ++
    toBE 4 (f.srcEp.toNat * 4096 + f.ctx.toNat) ++ toBE 4 (f.seq.toNat * 256 + f.rsvd.toNat) ++ toBE 2 f.tag.toNat ++
    toBE 2 f.fence.toNat ++ toBE 8 f.addr.toNat ++ toBE 2 f.length.toNat ++ toBE 2 f.opspec.toNat

/-- The HCRC a header must carry (R121). -/
def hcrcOf (f : Frame) : BitVec 32 := crc32c (headerBytes f)

/-- The trailer of a credit-mode port (R135). -/
def trailerBytes (wide : Bool) (t : Trailer) : Bytes :=
  toLE 3 t.lseq.toNat ++ toLE 1 (b2n t.seqValid * 128) ++ toLE 3 t.ackSeq.toNat ++ toLE 1 (b2n t.ackValid * 128) ++
    (if wide then toLE 4 t.spreadSeq.toNat ++ toLE 1 (t.path.toNat * 32 + b2n t.sprayed * 16) ++ zeros 3 else [])

/-- The MACsec SecTAG of a frame: its EtherType, the flags with the SCI and the association number, the low half of the packet number, and the
SCI, which is the sending port's address and the sub-link (R118, R144; the bits of the tag are those of IEEE 802.1AE, PRESUMED, log 182). -/
def secTag (x : Sent) (assoc pn : Nat) : Bytes :=
  toBE 2 0x88E5 ++ toBE 1 (0x2C + assoc) ++ zeros 1 ++ toBE 4 (pn % 2 ^ 32) ++ (x.addrs.drop 6) ++ toBE 2 (x.sub + 1)

/-- What a frame carries between its addresses, with a SecTAG, and its FCS or ICV (R118 items 3 to 8). -/
def wireBody (s : State) (x : Sent) : Bytes :=
  (x.tag.elim [] (fun t => toBE 2 0x8100 ++ toBE 2 t)) ++ toBE 2 x.etype.toNat ++ headerBytes x.frame ++ toBE 4 (hcrcOf x.frame).toNat ++
    x.frame.payload ++ zeros x.pad ++ (if portPfc s x.port then [] else trailerBytes (portRole s x.port == 4) x.trailer)

/-- A frame as it leaves on the wire, from its destination address to its FCS (R118). On a MACsec port what follows the SecTAG is protected
under the key of its direction, and the ICV follows it (R144); a CORRUPT rule may have damaged the FCS (R468). -/
def sentBytes (s : State) (x : Sent) : Bytes :=
  let ka := (subOf s x.port x.sub).ka
  let b := match x.pn with
    | none => x.addrs ++ wireBody s x
    | some n =>
      let t := secTag x ka.assoc n
      let aad := x.addrs ++ t
      aad ++ Config.gcmSeal ka.okm n aad (wireBody s x)
  let fcs := (crc32 b).toNat
  b ++ toLE 4 (if x.corrupt then 2 ^ 32 - 1 - fcs else fcs)

/-! Sampling (R161, R162) -/

/-- Does a port sample in a direction: 0 ingress, 1 egress? -/
def sampleOn (s : State) (p dir : Nat) : Bool :=
  let w := side s.swc (portDie p)
  w.enable && (if dir = 0 then w.ingress else w.egress) && bitAt w.samplePorts.toNat (if p = 64 then 32 else p % 32)

/-- A sample as its record in an event. -/
def sampleRecord (x : Sample) : Bytes :=
  toLE 2 x.port ++ toLE 1 x.dir ++ toLE 1 x.sub ++ toLE 2 x.frameLen ++ toLE 2 x.bytes.length ++ toLE 8 x.seq ++ x.bytes

/-- The oldest samples that fit whole in the DATA of one EVENT frame of 4,096 bytes, whose event header takes 16. -/
def samplesFit (room : Nat) (l : List Sample) : List Sample :=
  match l with
  | [] => []
  | x :: r => if 16 + x.bytes.length ≤ room then x :: samplesFit (room - 16 - x.bytes.length) r else []

/-- The service processor sends the oldest samples of a die in one event, when an entry is free for it. -/
def sendSamples (d : Die) (s : State) : State :=
  let w := side s.swc d
  let l := samplesFit 4080 w.samplePool
  if l.isEmpty || !evRoom (side s.ev d).queue 0 then s
  else
    queueEntry d { stream := 0, ctx := 0, code := 0x20, coalesce := false, dest := some w.sampleDest.toNat, count := 1,
                   data := l.flatMap sampleRecord }
      (modSwc s d (fun v => { v with samplePool := v.samplePool.drop l.length }))

/-- A sample is put into the pool, or discarded and counted where the pool is full. Samples are sent when the next would not fit the same
event (DESIGN CHOICE, log 59). -/
def keepSample (d : Die) (x : Sample) (s : State) : State :=
  let w := side s.swc d
  let y : Sample := { x with seq := w.sampleSeq }
  let s1 := modSwc s d (fun v => { v with sampleSeq := v.sampleSeq + 1 })
  if 2048 < sampleCells (w.samplePool ++ [y]) then
    setStatus (.swc d) 5 (modSwc s1 d (fun v => { v with sampleDrop := satAdd v.sampleDrop 1 (2 ^ 64 - 1) }))
  else
    let s2 := modSwc s1 d (fun v => { v with samplePool := v.samplePool ++ [y] })
    if (samplesFit 4080 (w.samplePool ++ [y])).length < w.samplePool.length + 1 then sendSamples d s2 else s2

/-- The bytes of a frame from its destination address on that a sample holds. -/
def sampleBytes (s : State) (p : Nat) (addrs : Bytes) (etype : BitVec 16) (f : Frame) (body : Bytes) : Bytes :=
  let w := side s.swc (portDie p)
  let tag := (vlanTag s p f.tc.toNat).elim [] (fun t => toBE 2 0x8100 ++ toBE 2 t)
  let kept := if w.payload then body else zeros body.length
  (addrs ++ tag ++ toBE 2 etype.toNat ++ headerBytes f ++ toBE 4 (hcrcOf f).toNat ++ kept).take (64 * (w.trunc + 1))

/-- An eligible frame advances the LFSR of its port and direction, whose polynomial the manual does not give: a free value. It is sampled
when the low LOG2_N bits are zero. -/
def sample (p k dir : Nat) (addrs : Bytes) (etype : BitVec 16) (f : Frame) (body : Bytes) (s : State) : State :=
  if !sampleOn s p dir || isLink f.opcode then s
  else
    match drawFree s with
    | (n, s1) =>
      let d := portDie p
      let v := (Config.freeValue n).toNat % 2 ^ 24
      let s2 := modSwc s1 d (fun w => { w with lfsr := put w.lfsr (p * 2 + dir) v })
      if v % 2 ^ (side s.swc d).log2n ≠ 0 then s2
      else keepSample d ⟨p, dir, k, wireLen s p body.length, 0, sampleBytes s p addrs etype f body⟩ s2

/-! Checks 1 to 7 (R132) -/

/-- Is the packet number of a frame on a MACsec port not above the last accepted (R144)? -/
def pnOld (s : State) (p k : Nat) (w : WireFrame) : Bool := portMacsec s p && decide (w.pn ≤ (subOf s p k).ka.rxPn)

/-- Check 1: what the physical layer and MACsec found, the packet number, and the size; the bit of PRT.ERR_STATUS. -/
def wireBad (s : State) (p k : Nat) (w : WireFrame) : Option Nat :=
  if !w.fcsOk then some 5 else if !w.icvOk || pnOld s p k w then some 6 else if 4096 < w.frame.payload.length then some 5 else none

/-- The packet number of a frame that MACsec has accepted is the last (R144). -/
def notePn (p k : Nat) (w : WireFrame) (s : State) : State :=
  if portMacsec s p then modSub s p k (fun y => { y with ka := { y.ka with rxPn := w.pn } }) else s

/-- Is the frame one that is answered where it fails: a request, or a frame of no assigned opcode with STATUS 0 (R128)? -/
def askedFor (f : Frame) : Bool := isReq f.opcode || (!opcAssigned f.opcode && f.status == 0)

/-- Check 4 (R119): LENGTH against the bytes that are there. -/
def lengthBad (s : State) (p : Nat) (f : Frame) : Option (BitVec 5) :=
  let n := f.payload.length
  let l := f.length.toNat
  needLen (decide (l ≤ 4096) && (n == l || (decide (l < n) && wireLen s p n == 64 && (f.payload.drop l).all (· == 0))))

/-- Check 5: EtherType, opcode, class, flags, LAST, reserved bits, STATUS (R105, R120, R122, R128, R129). -/
def shapeOk (s : State) (etype : BitVec 16) (f : Frame) : Bool :=
  let ctl := f.opcode == Opc.ctlReq || f.opcode == Opc.ctlRsp
  let typed := s.cfg.ethCtl == s.cfg.ethLft || (etype == s.cfg.ethCtl) == ctl
  let window := !(f.opcode == Opc.ld || f.opcode == Opc.st) || f.tc != 7 || inWindow (addrOff f.addr.toNat)
  typed && opcAssigned f.opcode && bitAt (classMask f.opcode) f.tc.toNat && flagsOk f && (isRsp f.opcode || f.last) && f.rsvd == 0 &&
    (isRsp f.opcode || f.status == 0) && window

/-- Checks 3 to 5. -/
def headerBad (s : State) (p : Nat) (etype : BitVec 16) (f : Frame) : Option (BitVec 5) :=
  firstBad [need (f.version == 1), lengthBad s p f, need (shapeOk s etype f)]

/-- The endpoint and the epoch that check 6 compares; none where it is not made (R450). -/
def fenceField (s : State) (p : Nat) (f : Frame) : Option (Nat × BitVec 16) :=
  let o := f.opcode
  if isLink o || o == Opc.pathBarrier || o == Opc.pathBarrierAck || o == Opc.reseqAck then none
  else if (o == Opc.cdataS || o == Opc.cdataM) && portRole s p != 4 then some (f.srcEp.toNat, f.opspec)
  else if isReq o || o == Opc.amoAck || o == Opc.cinvAck || o == Opc.cfwdAck || o == Opc.crecallAck then some (f.srcEp.toNat, f.fence)
  else some (addrEp f.addr.toNat, f.fence)

/-- What check 6 finds. -/
inductive FenceSt where
  | passes
  | newerEpoch
  | stale
deriving DecidableEq, Repr

/-- Check 6 (R450). An endpoint declared dead whose new epoch is not committed yet has its requests fail at its attachment port (R449). -/
def fenceCheck (s : State) (p : Nat) (f : Frame) : FenceSt :=
  match fenceField s p f with
  | none => .passes
  | some (ep, e) =>
    let cur := getD s.flt.fence ep 0#16
    if isReq f.opcode && portRole s p != 4 && s.flt.fencing.any (fun x => x.ep == ep && x.epoch.isNone) then .stale
    else if e = cur then .passes
    else if newer 16 e.toNat cur.toNat then .newerEpoch
    else .stale

/-- Check 7: a route to another switch and the HOP limit; true where it is the HOP limit that fails (R127). -/
def routeBad (s : State) (f : Frame) : Option Bool :=
  if f.opcode = Opc.memSync || answersFor s (destSwitch f) then none
  else if (recOf s RT.route (routedTo s f)).isNone then some false
  else if f.hop = 15 then some true
  else none

/-- Does a self-fenced switch answer a request HOMELOST (R445)? -/
def selfFencedBad (s : State) (f : Frame) : Bool := s.flt.selfFenced && isReq f.opcode && !(toSp f && f.ctx == 0)

/-! The write record (R176) -/

/-- An opcode of a write. -/
def isWrite (o : Byte) : Bool := o == Opc.st || o == Opc.amo || o == Opc.amoNr || o == Opc.cas

/-- A request of the memory chapter, which release and acquire order (R179). -/
def isMemReq (o : Byte) : Bool := decide (o.toNat ≤ 5)

/-- Is the port an attachment: does it stamp what it accepts (R57)? -/
def attachment (s : State) (p : Nat) : Bool := portRole s p != 4

/-- Has a write an entry in a port's record? -/
def recorded (s : State) (p : Nat) (f : Frame) : Bool := (portOf s p).writeRec.any (fun e => e.key == keyOf f)

/-- A copy of a write that has an entry is counted. -/
def joinRecord (p : Nat) (f : Frame) (s : State) : State :=
  if isWrite f.opcode && attachment s p then
    modPort s p (fun x => { x with writeRec := x.writeRec.map (fun e => if e.key = keyOf f then { e with copies := e.copies + 1 } else e) })
  else s

/-- A write is accepted: it joins its original's entry or takes one of its own. -/
def recordWrite (p : Nat) (h : HeldFrame) (s : State) : State :=
  let f := h.desc.frame
  if !(isWrite f.opcode && attachment s p) then s
  else if recorded s p f then joinRecord p f s
  else modPort s p (fun x => { x with writeRec := x.writeRec ++ [⟨keyOf f, f.tc == 7, h.order, 1, [], none, 0⟩] })

/-- Is the TC7 part of the record full? -/
def tc7RecFull (s : State) (p : Nat) : Bool := decide (256 ≤ ((portOf s p).writeRec.filter (·.tc7)).length)

/-! Ends at the ingress -/

/-- The answer to a frame that fails a check: of no assigned opcode it carries the frame's own (R128). -/
def answerBad (p : Nat) (f : Frame) (st : BitVec 5) (opspec : BitVec 16) (s : State) : State :=
  let o := if opcAssigned f.opcode then rspOpc f.opcode else f.opcode
  sendRaw (portDie p) (mkRsp s (portDie p) f o st [] opspec) s

/-- A frame fails a check: it leaves its allocation; what is asked for is answered, everything else discarded and counted (R132). -/
def failCheck (p : Nat) (h : HeldFrame) (st : BitVec 5) (opspec : BitVec 16) (s : State) : State :=
  let f := h.desc.frame
  let s1 := letGo (portDie p) h.desc s
  if askedFor f then (f :: h.desc.more).foldl (fun t g => answerBad p g st opspec (joinRecord p g t)) s1 else countDiscard p 1 s1

/-- A frame is discarded and counted. -/
def discard (p : Nat) (h : HeldFrame) (s : State) : State := countDiscard p 1 (letGo (portDie p) h.desc s)

/-! Held frames and their order -/

/-- Are two held frames of one source endpoint and context? -/
def sameSource (a b : HeldFrame) : Bool := a.desc.frame.srcEp == b.desc.frame.srcEp && a.desc.frame.ctx == b.desc.frame.ctx

/-- Does an acquire accepted earlier hold a request (R179)? It is itself held, or its response has not left the port's egress. -/
def heldByAcquire (s : State) (p : Nat) (h : HeldFrame) : Bool :=
  let x := portOf s p
  let before := fun (g : HeldFrame) => g.desc.frame.acq && isMemReq g.desc.frame.opcode && sameSource g h && decide (g.order < h.order)
  isMemReq h.desc.frame.opcode && attachment s p && ((heldAt x).any before || x.acquires.any before)

/-- Does an earlier frame of the same flow, still held at the port, hold a frame back (R141, R389)? A PATH_BARRIER waits for every earlier
frame of its class from its switch (R143). -/
def heldByFlow (s : State) (p : Nat) (h : HeldFrame) : Bool :=
  (heldAt (portOf s p)).any fun g =>
    decide (g.order < h.order) && g.desc.frame.tc == h.desc.frame.tc &&
      (sameSource g h || (h.desc.frame.opcode == Opc.pathBarrier &&
        epSwitch g.desc.frame.srcEp.toNat == epSwitch h.desc.frame.srcEp.toNat))

/-- Is a frame held back? -/
def blocked (s : State) (p : Nat) (h : HeldFrame) : Bool := heldByFlow s p h || heldByAcquire s p h

/-- A wait of a request that CONGESTION or QUOTA counts (R392). -/
def countHold (h : HeldFrame) (quota : Bool) (s : State) : State :=
  if isReq h.desc.frame.opcode then countWait h.desc.frame.ctx.toNat quota s else s

/-! Pepper at the ingress (R467, R468) -/

/-- Does a rule match a frame at a port? -/
def pepMatches (r : PepRule) (p : Nat) (f : Frame) : Bool :=
  bitAt r.mask f.tc.toNat && (r.port == 0xFF || r.port == p) && (r.ctx == 0 || r.ctx == f.ctx.toNat)

/-- The rules of a kind that perturb a frame: each that matches it advances its LFSR, whose polynomial the manual does not give (a free
value), and hits when the low bits are zero. The magnitudes of those that hit. -/
def pepHit (kind p : Nat) (f : Frame) (s : State) : List Nat × State :=
  (s.flt.pepper.filter (fun r => r.2.kind == kind && pepMatches r.2 p f)).foldl (fun acc r =>
    match drawFree acc.2 with
    | (n, t) =>
      let v := Config.freeValue n
      let t1 := modFlt t (fun x => { x with pepper := modK x.pepper r.1 (fun q => { q with lfsr := v }) })
      if v.toNat % 2 ^ r.2.log2 = 0 then (acc.1 ++ [r.2.magnitude], modFlt t1 (fun x => { x with pepHits := (x.pepHits + 1) % 2 ^ 64 }))
      else (acc.1, t1)) ([], s)

/-! The stages after acceptance -/

/-- The frame leaves the ingress on its way: a MEM_SYNC is answered (R177), an acquire is noted until its response leaves (R179), a frame
from another switch goes on, to its resequencer if it was sprayed (R142), and a REORDER rule displaces the path of a sprayed one. -/
def stageLeave (p : Nat) (h : HeldFrame) (s : State) : State :=
  let d := portDie p
  let x := h.desc
  let f := x.frame
  let s1 := if f.acq && isMemReq f.opcode && attachment s p then
      modPort s p (fun y => { y with acquires := y.acquires ++ [asAcquire h] })
    else s
  if f.opcode = Opc.memSync then refuse d f Sts.ok (letGo d x s1)
  else if attachment s p then
    if !answersFor s (destSwitch f) && sprayed s (routedTo s f) f.tc.toNat then
      match pepHit 4 p f s1 with
      | (l, s2) => forward d x (sumOf l) s2
    else forward d x 0 s1
  else if answersFor s (destSwitch f) && x.trailer.sprayed then
    if hasSlot s (epSwitch f.srcEp.toNat) f.tc.toNat then steer d x s1
    else putOnWay d x 0 (setStatus (.prt p) 12 s1)
  else transit d x s1

/-- A release waits for the entries of the earlier writes of its source (R177). -/
def stageRelease (p : Nat) (h : HeldFrame) (s : State) : State :=
  let f := h.desc.frame
  let mine := fun (e : WriteEntry) => e.key.srcEp == f.srcEp.toNat && e.key.ctx == f.ctx.toNat && decide (e.order < h.order) && e.key != keyOf f
  let waits := ((portOf s p).writeRec.filter mine).map (·.order)
  if f.rel && isMemReq f.opcode && attachment s p && !waits.isEmpty then
    countHold h false (modPort s p (fun x => { x with releases := x.releases ++ [⟨h, waits⟩] }))
  else stageLeave p h s

/-- The tokens of a bucket; one that is not listed is full (R390). -/
def bucketOf (s : State) (d : Die) (c tc : Nat) : Nat := getD (side s.ev d).buckets (c * 8 + tc) (2 ^ 20)

/-- Does a frame draw tokens? -/
def rated (s : State) (f : Frame) : Bool :=
  isReq f.opcode && decide (f.tc.toNat ≤ 4) && decide (qosRate s f.ctx.toNat f.tc.toNat ≠ 0)

/-- The state with the tokens of a request drawn from its bucket. -/
def drawTokens (d : Die) (f : Frame) (s : State) : State :=
  if rated s f then
    let left := bucketOf s d f.ctx.toNat f.tc.toNat - (32 + f.length.toNat)
    modEv s d (fun v => { v with buckets := put v.buckets (f.ctx.toNat * 8 + f.tc.toNat) left })
  else s

/-- Does a request find too few tokens? -/
def tokensShort (s : State) (d : Die) (f : Frame) : Bool :=
  rated s f && decide (bucketOf s d f.ctx.toNat f.tc.toNat < 32 + f.length.toNat)

/-- A request draws its tokens, or waits for them at the head of its context queue (R390). -/
def stageRate (p : Nat) (h : HeldFrame) (s : State) : State :=
  let f := h.desc.frame
  let before := fun (g : HeldFrame) => g.desc.frame.ctx == f.ctx && g.desc.frame.tc == f.tc
  if rated s f && (tokensShort s (portDie p) f || (portOf s p).rateHeld.any before) then
    countHold h true (modPort s p (fun x => { x with rateHeld := x.rateHeld ++ [h] }))
  else stageRelease p h (drawTokens (portDie p) f s)

/-- The pepper rules of an ingress: CREDIT_HOLD notes the cells it keeps back, DELAY and BACKPRESSURE hold the frame. -/
def stagePepper (p : Nat) (h : HeldFrame) (s : State) : State :=
  let f := h.desc.frame
  match pepHit 3 p f s with
  | (cells, s1) =>
    let s2 := cells.foldl (fun t m => modSub t p h.sub (fun y => { y with creditHold := setAt y.creditHold f.tc.toNat m })) s1
    match pepHit 1 p f s2 with
    | (delays, s3) =>
      match pepHit 2 p f s3 with
      | (holds, s4) =>
        if delays.isEmpty && holds.isEmpty then stageRate p h s4
        else countHold h false (modPort s4 p (fun x => { x with pepHeld := x.pepHeld ++ [h] }))

/-- A frame waits behind its flow or an acquire, or goes on. -/
def stageOrder (p : Nat) (h : HeldFrame) (s : State) : State :=
  if blocked s p h then countHold h false (modPort s p (fun x => { x with behind := x.behind ++ [h] })) else stagePepper p h s

/-- The CONTEXT entries of the stop table end a request (R165). -/
def stageContext (p : Nat) (h : HeldFrame) (s : State) : State :=
  let f := h.desc.frame
  if isReq f.opcode && (side s.swc (portDie p)).stops.any (fun e => stopCtx e p f.ctx.toNat) then endHeld (portDie p) Sts.aborted h s
  else stageOrder p h s

/-- The PORT and CLASS entries of the stop table hold a frame (R165). -/
def stageStop (p : Nat) (h : HeldFrame) (s : State) : State :=
  if stopped s p h.desc.frame.tc.toNat then countHold h false (modPort s p (fun x => { x with stopHeld := x.stopHeld ++ [h] }))
  else stageContext p h s

/-- The frames behind that nothing holds back any longer go on, the earliest first. -/
def settleRun (fuel p : Nat) (s : State) : State :=
  match fuel with
  | 0 => s
  | n + 1 =>
    match (portOf s p).behind.find? (fun h => !blocked s p h) with
    | none => s
    | some h => settleRun n p (stagePepper p h (modPort s p (fun x => { x with behind := x.behind.filter (fun g => g.order != h.order) })))

/-- Frames behind go on after something has left the port's held frames. -/
def settlePort (p : Nat) (s : State) : State := settleRun ((portOf s p).behind.length) p s

/-- CTX_RESET_STALK_APPLY: the other die takes the change over; both dies now hold it, so the context's work ends, and its soak rules
go (R393, R394, R468). -/
def execCtxResetStalkApply (ctx : Nat) (s : State) : Host.Outcome State Fault Refusal :=
  let p0 := ctxPhase s .d0 ctx
  let p1 := ctxPhase s .d1 ctx
  let ending := fun (p : CtxPhase) => p == .resetting || p == .destroying
  if ctx = 0 ∨ ending p0 == ending p1 then swcOk s
  else
    let p := if ending p0 then p0 else p1
    let s1 := modCtx s ctx (fun x => { x with phase := ⟨p, p⟩ })
    let s2 := modFlt s1 (fun t => { t with pepper := t.pepper.filter (fun r => !(r.2.soak && r.2.ctx == ctx)) })
    let s3 := endCtxWork .d1 ctx (endCtxWork .d0 ctx s2)
    swcOk ((portList s3).foldl (fun t p => settlePort p t) s3)

/-! Acceptance -/

/-- Bytes that cross a fabric port, and whether their home or other port is on the same die (R31, CFG.LOCAL_FRACTION; counted at the
ingress, DESIGN CHOICE, log 60). -/
def countLocal (p : Nat) (x : Desc) (s : State) : State :=
  let path := if attachment s p then (if answersFor s (destSwitch x.frame) then 0 else hashPath s x.frame (routedTo s x.frame))
    else x.trailer.path.toNat
  match destOf s x.frame path with
  | none => s
  | some (e, _) =>
    let n := 32 + x.frame.length.toNat
    if p = 64 then s
    else modCfg s (fun c => { c with
      totalBytes := upd c.totalBytes (portDie p) (· + n),
      localBytes := if e = portDie p then upd c.localBytes (portDie p) (· + n) else c.localBytes })

/-- Does a reset or destruction of its context that this ingress holds end a request (R394)? Of a request in transit between other
switches it is none of this switch's business. -/
def ctxEnds (s : State) (p : Nat) (f : Frame) : Bool :=
  let ph := ctxPhase s (portDie p) f.ctx.toNat
  isReq f.opcode && (attachment s p || answersFor s (destSwitch f)) && (ph == .resetting || ph == .destroying)

/-- The form of a MEM_SYNC, whose home is the ingress (R168). -/
def memSyncBad (f : Frame) : Option (BitVec 5) :=
  if f.opcode = Opc.memSync then firstBad [need (f.opspec == 0 && f.addr == 0 && f.rel), needLen f.payload.isEmpty] else none

/-- A frame that passes the checks is accepted: counted, recorded if it is a write, and led through the stages. -/
def acceptIn (p : Nat) (h : HeldFrame) (s : State) : State :=
  let f := h.desc.frame
  if ctxEnds s p f then failCheck p h Sts.aborted 0 s
  else
    match memSyncBad f with
    | some st => failCheck p h st 0 s
    | none =>
      if isWrite f.opcode && attachment s p && f.tc == 7 && !recorded s p f && tc7RecFull s p then
        countHold h false (failCheck p h Sts.retry 0 s)
      else
        let away := attachment s p && isReq f.opcode && !isWrite f.opcode && !answersFor s (destSwitch f)
        let s1 := modPort s p (fun x => { x with
          rxFrames := modAt x.rxFrames f.tc.toNat (fun n => (n + 1) % 2 ^ 64),
          asked := if away then keyOf f :: x.asked.filter (· != keyOf f) else x.asked })
        stageStop p h (recordWrite p h (countLocal p h.desc s1))

/-- Frames that found the write record full are accepted, in order, as it has room (R176). -/
def drainRec (fuel p : Nat) (s : State) : State :=
  match fuel with
  | 0 => s
  | n + 1 =>
    match (portOf s p).recWait with
    | [] => s
    | h :: r => if writeRecFull s p then s else drainRec n p (acceptIn p h (modPort s p (fun x => { x with recWait := r })))

/-- TC0 and TC3 wait while the write record is full, and behind those that do. -/
def stageRecord (p : Nat) (h : HeldFrame) (s : State) : State :=
  let tc := h.desc.frame.tc.toNat
  if attachment s p && (tc == 0 || tc == 3) && (writeRecFull s p || !(portOf s p).recWait.isEmpty) then
    countHold h false (modPort s p (fun x => { x with recWait := x.recWait ++ [h] }))
  else acceptIn p h s

/-! STOP and RESUME (R163 to R166) -/

/-- The selector of R164, field by field. -/
def selectorBad (a : Bytes) : Option (BitVec 5) :=
  let kind := le a 0 1
  let mask := le a 1 1
  let port := le a 2 2
  let c := le a 4 2
  firstBad [
    need (decide (1 ≤ kind) && decide (kind ≤ 3)),
    need (if kind = 2 then mask != 0 && decide (mask < 128) else mask == 0),
    need (decide (port ≤ 64) || port == 0xFF),
    need (if kind = 3 then decide (c < 4096) else c == 0),
    if kind = 3 ∧ c = 0 then some Sts.denied else none,
    need (zeroAt a 6 2)]

/-- The checks of a STOP or RESUME (R105, R164). -/
def stopBad (s : State) (r : CtlReq) : Option (BitVec 5) :=
  firstBad [
    need (addrOff r.addr.toNat == winBase),
    need (r.bodyFormat == 1 && r.zero12 == 0),
    needLen (r.argLength + 16 == r.lftLen && r.args.length == r.argLength),
    if r.ctx = 0 ∧ admits s 0 r.srcEp.toNat then none else some Sts.denied,
    needLen (r.argLength == 8),
    selectorBad r.args]

/-- The ports of a die. -/
def diePorts (s : State) (d : Die) : List Nat := (portList s).filter (fun p => portDie p == d)

/-- PFC-mode ports that a new entry names send XOFF for its classes (R165). -/
def stopXoff (d : Die) (e : BitVec 64) (s : State) : State :=
  ((diePorts s d).filter (portPfc s)).foldl (fun t p => (portSubs s p).foldl (fun u k =>
    ((rangeFrom 0 7).filter (fun tc => stopNames e p tc && (subOf s p k).phase == .up && !nth (subOf s p k).xoff tc false)).foldl (fun v tc =>
      sendPfc p k tc 0xFFFF (modSub v p k (fun y => { y with xoff := setAt y.xoff tc true }))) u) t) s

/-- PFC-mode ports resume the classes that no entry names any longer, when their occupancy allows it. -/
def stopXon (d : Die) (s : State) : State :=
  ((diePorts s d).filter (portPfc s)).foldl (fun t p => (portSubs s p).foldl (fun u k =>
    (rangeFrom 0 7).foldl (fun v tc => pfcXon p k tc v) u) t) s

/-- The frames at the head of a queue that a deficit covers. -/
def drrTake (deficit : Nat) (q : List HeldFrame) : List HeldFrame × List HeldFrame × Nat :=
  match q with
  | [] => ([], [], 0)
  | h :: r =>
    let n := cellsOf h.desc.frame.payload.length
    if n ≤ deficit then match drrTake (deficit - n) r with | (a, b, c) => (h :: a, b, c)
    else ([], h :: r, deficit)

/-- One round over the context queues of a class: the frames that leave, those left, the deficits (R389). -/
def drrRound (s : State) (tc : Nat) (ctxs : List Nat) (q : List HeldFrame) (defs : Dict Nat) : List HeldFrame × List HeldFrame × Dict Nat :=
  ctxs.foldl (fun acc c =>
    let mine := acc.2.1.filter (fun h => h.desc.frame.ctx.toNat == c)
    let rest := acc.2.1.filter (fun h => h.desc.frame.ctx.toNat != c)
    if mine.isEmpty then acc
    else
      match drrTake (getD acc.2.2 (c * 8 + tc) 0 + 16 * qosWeight s c tc) mine with
      | (out, left, deficit) => (acc.1 ++ out, left ++ rest, put acc.2.2 (c * 8 + tc) deficit)) ([], q, defs)

/-- Rounds until the queues are empty. -/
def drrAll (fuel : Nat) (s : State) (tc : Nat) (ctxs : List Nat) (q : List HeldFrame) (defs : Dict Nat) : List HeldFrame × Dict Nat :=
  match fuel with
  | 0 => (q, defs)
  | n + 1 =>
    if q.isEmpty then ([], defs)
    else
      match drrRound s tc ctxs q defs with
      | (out, left, defs1) => match drrAll n s tc ctxs left defs1 with | (more, defs2) => (out ++ more, defs2)

/-- The frames of a class in the order in which they leave their context queues; TC5 and TC6 are not divided by context (R389). -/
def drrOrder (s : State) (p tc : Nat) (q : List HeldFrame) : List HeldFrame × State :=
  if 4 < tc then (q, s)
  else
    let ctxs := q.foldl (fun l h => insertNat h.desc.frame.ctx.toNat l) []
    match drrAll (2 * q.length + 1) s tc ctxs q (portOf s p).ctxDeficit with
    | (out, defs) => (out, modPort s p (fun x => { x with ctxDeficit := defs }))

/-- The frames a port's stops hold no longer leave; the CONTEXT entries are applied to them (R165). -/
def releaseStopped (p : Nat) (s : State) : State :=
  (rangeFrom 0 7).foldl (fun t tc =>
    if stopped t p tc then t
    else
      let q := (portOf t p).stopHeld.filter (fun h => h.desc.frame.tc.toNat == tc)
      match drrOrder t p tc q with
      | (out, t1) =>
        let t2 := modPort t1 p (fun x => { x with stopHeld := x.stopHeld.filter (fun h => h.desc.frame.tc.toNat != tc) })
        settlePort p (out.foldl (fun u h => stageContext p h u) t2)) s

/-- A die applies a STOP or RESUME. -/
def applyStop (d : Die) (add : Bool) (e : BitVec 64) (s : State) : State :=
  if add then stopXoff d e (modSwc s d (fun w => { w with stops := w.stops ++ [e] }))
  else
    let s1 := modSwc s d (fun w => { w with stops := dropFirst (· == e) w.stops })
    stopXon d ((diePorts s1 d).foldl (fun t p => releaseStopped p t) s1)

/-- Is a STOP or RESUME still on its way to the other die? The next one waits (DESIGN CHOICE, log 61). -/
def stopBusy (s : State) : Bool := !s.swc.d0.stopMsgs.isEmpty || !s.swc.d1.stopMsgs.isEmpty

/-- STOP or RESUME at the ingress that accepts it: applied on its own die, carried to the other, answered when both have applied it. -/
def stopCmd (add : Bool) (r : CtlReq) (s : State) : State :=
  let d := r.die
  let code := if add then 0x50 else 0x51
  match stopBad s r with
  | some st => sendCtlRsp d code r st 0 [] s
  | none =>
    let e := BitVec.ofNat 64 (le r.args 0 8)
    let there := (side s.swc d).stops.contains e
    if add && there then sendCtlRsp d code r Sts.ok 0 [] s
    else if add && decide (64 ≤ (side s.swc d).stops.length) then sendCtlRsp d code r Sts.length 0 [] s
    else if !add && !there then sendCtlRsp d code r Sts.ok 1 [] s
    else
      let s1 := modSwc (applyStop d add e s) (otherDie d) (fun w => { w with stopMsgs := w.stopMsgs ++ [(add, e)] })
      modCfg s1 (fun c => { c with stalkWait := c.stalkWait ++ [⟨code, r, 0, []⟩] })

/-- STOP. -/
def execStop (r : CtlReq) (s : State) : Host.Outcome State Fault Refusal := swcOk (if stopBusy s then s else stopCmd true r s)

/-- RESUME. -/
def execResume (r : CtlReq) (s : State) : Host.Outcome State Fault Refusal := swcOk (if stopBusy s then s else stopCmd false r s)

/-- STOP_STALK_APPLY: the other die applies the change, and the ingress answers (R166). -/
def execStopStalkApply (d : Die) (s : State) : Host.Outcome State Fault Refusal :=
  match (side s.swc d).stopMsgs with
  | [] => swcOk s
  | (add, e) :: rest =>
    let s1 := applyStop d add e (modSwc s d (fun w => { w with stopMsgs := rest }))
    let mine := fun (x : StalkWait) => x.code == (if add then 0x50 else 0x51) && x.req.die == otherDie d
    match s1.cfg.stalkWait.find? mine with
    | none => swcOk s1
    | some x =>
      swcOk (sendCtlRsp x.req.die x.code x.req Sts.ok x.detail x.results
        (modCfg s1 (fun c => { c with stalkWait := dropFirst mine c.stalkWait })))

/-! Control frames at the ingress (R105 to R107, R163) -/

/-- The command of a control frame that arrived at a port. A body shorter than its header is taken with zeros in place of what is
missing. -/
def ctlOf (p : Nat) (f : Frame) : CtlReq :=
  let b := fit f.payload 16
  { die := portDie p, port := p, srcEp := f.srcEp, ctx := f.ctx, seq := f.seq, tag := f.tag, fence := f.fence, addr := f.addr,
    lftLen := f.length.toNat, bodyFormat := beNat (slice b 2 2), cmdSeq := BitVec.ofNat 32 (beNat (slice b 4 4)),
    argLength := beNat (slice b 8 4), zero12 := beNat (slice b 12 4), args := f.payload.drop 16 }

/-- The COMMAND of a control frame. -/
def ctlCode (f : Frame) : Nat := beNat (fit f.payload 2)

/-- The commands of R107. -/
def ctlListed (code : Nat) : Bool :=
  [0x01, 0x10, 0x11, 0x12, 0x13, 0x14, 0x15, 0x20, 0x21, 0x22, 0x23, 0x30, 0x31, 0x32, 0x33, 0x34, 0x40, 0x41, 0x42, 0x50, 0x51, 0x60, 0x61,
   0x62, 0x63, 0x64, 0x70, 0x71, 0x72, 0x80, 0x81, 0x90, 0x91].contains code

/-- Is a frame a control command for this switch? -/
def ctlHere (s : State) (f : Frame) : Bool := f.opcode == Opc.ctlReq && answersFor s (destSwitch f)

/-- Is a frame a STOP or RESUME that this ingress executes? -/
def stopHere (s : State) (f : Frame) : Bool :=
  ctlHere s f && decide (16 ≤ f.payload.length) && (ctlCode f == 0x50 || ctlCode f == 0x51)

/-- The status of a control frame that names no command, or whose body is shorter than its header (R106, R493; DEDUCED, log 62). -/
def ctlUnlisted (f : Frame) : Option (BitVec 5) :=
  let r := ctlOf 0 f
  if f.payload.length < 16 then some (if addrOff r.addr.toNat = winBase then Sts.length else Sts.format)
  else if ctlListed (ctlCode f) then none
  else firstBad [
    need (addrOff r.addr.toNat == winBase && r.bodyFormat == 1 && r.zero12 == 0), needLen (r.argLength + 16 == r.lftLen), some Sts.format]

/-- After check 7: a STOP or RESUME for this switch is executed by the ingress, before it is queued; every other frame goes to acceptance, a
control frame on its way to the active service processor (R34, R163). -/
def stageControl (p : Nat) (h : HeldFrame) (s : State) : State :=
  let f := h.desc.frame
  if stopHere s f then stopCmd (ctlCode f == 0x50) (ctlOf p f) (letGo (portDie p) h.desc s)
  else stageRecord p h s

/-- Check 7, and the answers of a self-fenced switch (R132, R445). -/
def stageRoute (p : Nat) (h : HeldFrame) (s : State) : State :=
  let f := h.desc.frame
  match routeBad s f with
  | some hop => failCheck p h Sts.nohome 0 (if hop then setStatus (.prt p) 1 s else s)
  | none => if selfFencedBad s f then failCheck p h Sts.homelost 0 s else stageControl p h s

/-- Check 6 fails: FENCED, from the attachment ingress with the current epoch (R450, R451). -/
def failFence (p : Nat) (h : HeldFrame) (s : State) : State :=
  let f := h.desc.frame
  let e := if attachment s p then getD s.flt.fence f.srcEp.toNat 0#16 else 0
  failCheck p h Sts.fenced e (setStatus (.prt p) 2 s)

/-- Check 6. Of a combined request each constituent is checked: those that fail are answered, the others go on (R187, DEDUCED, log 63). -/
def stageFence (p : Nat) (h : HeldFrame) (s : State) : State :=
  let x := h.desc
  let all := x.frame :: x.more
  if all.any (fun f => fenceCheck s p f == .newerEpoch) then countHold h false (modPort s p (fun y => { y with epochHeld := y.epochHeld ++ [h] }))
  else
    match all.filter (fun f => fenceCheck s p f == .passes) with
    | [] => failFence p h s
    | f :: more =>
      let bad := all.filter (fun g => fenceCheck s p g == .stale)
      let s1 := bad.foldl (fun t g => answerBad p g Sts.fenced 0 (setStatus (.prt p) 2 t)) s
      stageRoute p { h with desc := { x with frame := f, more := more } } s1

/-- May the frame pass this port and the state the device is in? PATH_BARRIER, its acknowledgement and RESEQ_ACK pass only between switches
(R128); in recovery only loads and stores of the window are served (R408). -/
def passesPort (s : State) (p : Nat) (f : Frame) : Bool :=
  let between := f.opcode == Opc.pathBarrier || f.opcode == Opc.pathBarrierAck || f.opcode == Opc.reseqAck
  (!between || !attachment s p) && (!s.sec.recovery || (toSp f && (f.opcode == Opc.ld || f.opcode == Opc.st)))

/-- Is a frame from a tray's port no answer to a request that the device sent there (R232)? -/
def trayStray (s : State) (p : Nat) (f : Frame) : Bool :=
  (portRole s p == 2 || portRole s p == 3) &&
    !(side s.tier (portDie p)).trayReqs.any (fun r => r.port == p && r.tag == f.tag.toNat && f.opcode == rspOpc r.frame.opcode &&
      addrEp f.addr.toNat == agentEp s (portDie p))

/-- Checks 3 to 5, then 6 and 7. What comes from a tray and answers no request of the device is discarded and counted (R232). -/
def stageHeader (p : Nat) (etype : BitVec 16) (h : HeldFrame) (s : State) : State :=
  let f := h.desc.frame
  match headerBad s p etype f with
  | some st => if trayStray s p f then discard p h (setStatus (.prt p) 3 s) else failCheck p h st 0 (setStatus (.prt p) 3 s)
  | none =>
    let x : HeldFrame := { h with desc := { h.desc with frame := { f with payload := f.payload.take f.length.toNat } } }
    if trayStray s p f then discard p x (setStatus (.prt p) 3 s)
    else if !passesPort s p f then discard p x s
    else if s.sec.recovery then pushOut (portDie p) .sp x.desc s
    else stageFence p x s

/-! Arrival -/

/-- A frame the link layer has taken: sampled, stamped (R57), charged to its class, with cells of the die (R133, R149). -/
def arrive (p k : Nat) (w : WireFrame) (s : State) : State :=
  match (if sampleOn s p 0 then drawFree s else (0, s)) with
  | (n, s0) =>
    let addrs := fit (Config.freeBytes n 6) 6 ++ toBE 6 w.srcMac
    let s1 := sample p k 0 addrs w.etherType w.frame w.frame.payload s0
    let f := if attachment s p then { w.frame with srcEp := BitVec.ofNat 20 (subEp s p k) } else w.frame
    match allocCells (portDie p) (cellsOf f.length.toNat) s1 with
    | (cells, s2) =>
      let s3 := modSub s2 p k (fun y => { y with
        occupancy := modAt y.occupancy f.tc.toNat (· + cellsOf f.length.toNat),
        occReq7 := if tc7Req f then y.occReq7 + cellsOf f.length.toNat else y.occReq7 })
      let s4 := pfcXoff p k f.tc.toNat (modPort s3 p (fun y => { y with order := y.order + 1 }))
      stageHeader p w.etherType ⟨k, (portOf s4 p).order, {
                                                             frame := f, cells := cells, source := some (p, k), trailer := w.trailer,
                                                             more := if attachment s p then [] else w.more,
                                                             ingress := 8 * (p + 1) + k }⟩ s4

/-- A frame fails check 1 or 2: discarded and counted; on a credit-mode link the receiver asks for it again, once for each expected number
(R132, R136). -/
def corrupted (p k bit : Nat) (fec : Bool) (s : State) : State :=
  let s1 := countDiscard p 1 (setStatus (.prt p) bit s)
  let s2 := if fec then setStatus (.prt p) 8 (modPort s1 p (fun y => { y with fecUncorr := satAdd y.fecUncorr 1 (2 ^ 64 - 1) })) else s1
  let x := subOf s2 p k
  if !portPfc s2 p && x.phase == .up && !x.nakSent then sendNak p k s2 else s2

/-- Is a frame not taken now: requests while the die or the port admits none (R30, R32, R37), and a STOP or RESUME while another is on its
way? It stays where it is, under back-pressure. -/
def notNow (s : State) (p : Nat) (f : Frame) : Bool :=
  (isReq f.opcode && (!side s.mod.admitting (portDie p) || s.cfg.draining.any (fun x => x.type == RT.port && x.key == p))) ||
    (stopBusy s && stopHere s f)

/-- Finds a frame cells in the ingress allocation of its class, of TC7 in its half (R130, R150)? A peer that keeps to its credit always does
(R151); what comes beyond it stays where it is (DESIGN CHOICE, log 183). -/
def ingressRoom (s : State) (p k : Nat) (f : Frame) : Bool :=
  let x := subOf s p k
  let tc := f.tc.toNat
  let n := cellsOf f.length.toNat
  let l := portLimit s p tc
  decide (nth x.occupancy tc 0 + n ≤ l) &&
    (tc != 7 || decide ((if isReq f.opcode then x.occReq7 else nth x.occupancy 7 0 - x.occReq7) + n ≤ l / 2))

/-- Does a frame that the link layer would take wait on the link? -/
def linkWaits (s : State) (p k : Nat) (w : WireFrame) : Bool :=
  let x := subOf s p k
  !isLink w.frame.opcode && x.phase == .up && (portPfc s p || (w.trailer.seqValid && w.trailer.lseq == x.rxSeq)) &&
    (notNow s p w.frame || !ingressRoom s p k w.frame)

/-- A link frame: checked, then taken by the port; on a PFC-mode link there are none (R128, R139). -/
def linkFrame (p k : Nat) (w : WireFrame) (s : State) : State :=
  let f := w.frame
  let g := { f with payload := f.payload.take f.length.toNat }
  if (headerBad s p w.etherType f).isSome then countDiscard p 1 (setStatus (.prt p) 3 s)
  else if portPfc s p then countDiscard p 1 s
  else if f.opcode = Opc.linkInit then takeInit p k g w.srcMac s
  else if f.opcode = Opc.linkCredit then takeCredit p k g s
  else takeNak p k g s

/-- The link layer of a sub-link in service takes a frame that is no link frame (R136). -/
def sequenced (p k : Nat) (w : WireFrame) (s : State) : State :=
  let x := subOf s p k
  let t := w.trailer
  if portPfc s p then arrive p k w s
  else if !t.seqValid then countDiscard p 1 s
  else if t.lseq = x.rxSeq then
    arrive p k w (modSub s p k (fun y => { y with rxSeq := y.rxSeq + 1, rxAny := true, nakSent := false }))
  else if newer 24 t.lseq.toNat x.rxSeq.toNat then
    let s1 := countDiscard p 1 s
    if x.nakSent then s1 else sendNak p k s1
  else countDiscard p 1 s

/-- A frame arrives at a port's sub-link. -/
def ingress (p k : Nat) (w : WireFrame) (s : State) : State :=
  let x := subOf s p k
  if !subThere s p k || x.phase == .down || x.phase == .keying then s
  else
    match wireBad s p k w with
    | some bit => corrupted p k bit (w.fecUncorr && !w.fcsOk) s
    | none =>
      if w.etherType ≠ s.cfg.ethLft ∧ w.etherType ≠ s.cfg.ethCtl then countDiscard p 1 (notePn p k w s)
      else if w.hcrc ≠ hcrcOf w.frame then corrupted p k 4 false (notePn p k w s)
      else if linkWaits s p k w then s
      else
        let s0 := notePn p k w s
        let s1 := if !portPfc s p && w.trailer.ackValid && x.phase == .up then takeAck p k w.trailer.ackSeq s0 else s0
        if isLink w.frame.opcode then linkFrame p k w s1
        else if x.phase != .up then countDiscard p 1 s
        else sequenced p k w s1

/-- FRAME_INGRESS. -/
def execFrameIngress (port sub : Nat) (w : WireFrame) (s : State) : Host.Outcome State Fault Refusal := swcOk (ingress port sub w s)

/-! Held frames move on -/

/-- A held request ends at its ingress; what waited behind it goes on. -/
def endAt (port : Nat) (q : HeldFrame → Bool) (st : BitVec 5) (s : State) : State := settlePort port (endAllHeld port q st s)

/-- A port's writes have left its record: releases that need wait no longer keep their place until RELEASE_FORWARD; frames that found the
record full are accepted. -/
def recordMoved (p : Nat) (s : State) : State := settlePort p (drainRec (portOf s p).recWait.length p s)

/-- The orders of the entries in a port's write record. -/
def openWrites (s : State) (p : Nat) : List Nat := (portOf s p).writeRec.map (·.order)

/-- RELEASE_FORWARD: every earlier write has left the record, and the release is forwarded or the MEM_SYNC answered (R177). -/
def execReleaseForward (port : Nat) (k : ReqKey) (s : State) : Host.Outcome State Fault Refusal :=
  let mine := fun (x : HeldRelease) => keyOf x.held.desc.frame == k && !x.waits.any (fun o => (openWrites s port).contains o)
  match (portOf s port).releases.find? mine with
  | none => swcOk s
  | some x =>
    swcOk (settlePort port (stageLeave port x.held
      (modPort s port (fun y => { y with releases := y.releases.filter (fun z => z.held.order != x.held.order) }))))

/-- RELEASE_TIMEOUT: a release held 1 ms is answered ABORTED, and RELEASE_TIMEOUT is set (R178). -/
def execReleaseTimeout (port : Nat) (k : ReqKey) (s : State) : Host.Outcome State Fault Refusal :=
  match (portOf s port).releases.find? (fun x => keyOf x.held.desc.frame == k) with
  | none => swcOk s
  | some x =>
    swcOk (endAt port (fun h => h.order == x.held.order && keyOf h.desc.frame == k) Sts.aborted (setStatus (.mem (portDie port)) 7 s))

/-- ACQUIRE_HOLD_TIMEOUT: a request held behind an acquire for 1 ms is answered ABORTED (R179). -/
def execAcquireHoldTimeout (port : Nat) (k : ReqKey) (s : State) : Host.Outcome State Fault Refusal :=
  match (portOf s port).behind.find? (fun h => keyOf h.desc.frame == k && heldByAcquire s port h) with
  | none => swcOk s
  | some x => swcOk (endAt port (fun h => h.order == x.order && keyOf h.desc.frame == k) Sts.aborted s)

/-- WRITE_RECORD_TIMEOUT: an entry unanswered after 100 ms is dropped, and RELEASE_TIMEOUT is set (R176). -/
def execWriteRecordTimeout (port : Nat) (k : ReqKey) (s : State) : Host.Outcome State Fault Refusal :=
  if (portOf s port).writeRec.any (fun e => e.key == k) then
    swcOk (recordMoved port (setStatus (.mem (portDie port)) 7
      (modPort s port (fun x => { x with writeRec := x.writeRec.filter (fun e => e.key != k) }))))
  else swcOk s

/-- MEM_SYNC: accepted at the attachment ingress of its source, and answered there once the earlier writes are answered (R177). -/
def execMemSync (port : Nat) (f : Frame) (s : State) : Host.Outcome State Fault Refusal :=
  match (portSubs s port).find? (fun k => subEp s port k == f.srcEp.toNat) with
  | none => swcOk s
  | some k =>
    if f.opcode ≠ Opc.memSync ∨ !subThere s port k ∨ !attachment s port ∨ notNow s port f ∨ s.sec.recovery then swcOk s
    else if trayStray s port f then swcOk (countDiscard port 1 (setStatus (.prt port) 3 s))
    else
      let s1 := modPort s port (fun y => { y with order := y.order + 1 })
      swcOk (stageFence port ⟨k, (portOf s1 port).order, { frame := f }⟩ s1)

/-- The requests at the head of a context's queue of a class that find their tokens leave it. -/
def releaseRated (fuel : Nat) (d : Die) (c tc : Nat) (s : State) : State :=
  match fuel with
  | 0 => s
  | n + 1 =>
    let head := fun (p : Nat) => (portOf s p).rateHeld.find? (fun h => h.desc.frame.ctx.toNat == c && h.desc.frame.tc.toNat == tc)
    match (diePorts s d).find? (fun p => (head p).elim false (fun h => !tokensShort s d h.desc.frame)) with
    | none => s
    | some p =>
      match head p with
      | none => s
      | some h =>
        let s1 := modPort s p (fun x => { x with rateHeld := x.rateHeld.filter (fun g => g.order != h.order) })
        releaseRated n d c tc (settlePort p (stageRelease p h (drawTokens d h.desc.frame s1)))

/-- RATE_TOKEN_RELEASE: tokens have accrued in a bucket, and the requests that find enough proceed (R390). -/
def execRateTokenRelease (d : Die) (ctx tc : Nat) (tokens : Nat) (s : State) : Host.Outcome State Fault Refusal :=
  let k := ctx * 8 + tc
  let left := bucketOf s d ctx tc + tokens
  let s1 := modEv s d (fun v => { v with buckets := if 2 ^ 20 ≤ left then del v.buckets k else put v.buckets k left })
  let n := sumOf ((diePorts s d).map (fun p => (portOf s p).rateHeld.length))
  swcOk (releaseRated n d ctx tc s1)

/-- PEPPER_HOLD_EXPIRY: the hold of a DELAY or BACKPRESSURE rule has run out (R467). -/
def execPepperHoldExpiry (port idx : Nat) (s : State) : Host.Outcome State Fault Refusal :=
  match (portOf s port).pepHeld[idx]? with
  | none => swcOk s
  | some h => swcOk (settlePort port (stageRate port h (modPort s port (fun x => { x with pepHeld := dropAt x.pepHeld idx }))))

/-- EPOCH_HOLD_TIMEOUT: a frame held for a newer epoch fails after 1 ms (R450). -/
def execEpochHoldTimeout (port idx : Nat) (s : State) : Host.Outcome State Fault Refusal :=
  match (portOf s port).epochHeld[idx]? with
  | none => swcOk s
  | some h => swcOk (settlePort port (failFence port h (modPort s port (fun x => { x with epochHeld := dropAt x.epochHeld idx }))))

/-- Frames held for an epoch that a generation has brought go on, or fail (R450). -/
def recheckEpochs (s : State) : State :=
  (portList s).foldl (fun t p =>
    let ready := (portOf t p).epochHeld.filter (fun h => !(h.desc.frame :: h.desc.more).any (fun f => fenceCheck t p f == .newerEpoch))
    let t1 := modPort t p (fun x => { x with epochHeld := x.epochHeld.filter (fun h => !ready.any (fun g => g.order == h.order)) })
    settlePort p (ready.foldl (fun u h => stageFence p h u) t1)) s

/-- MAP_GENERATION_APPLY: a committed generation is applied in order and acknowledged (R444). -/
def execMapGenerationApply (gen : Nat) (changes : List MapChange) (s : State) : Host.Outcome State Fault Refusal :=
  swcOk (recheckEpochs (applyGeneration gen changes s))

/-- SWITCH_DECLARE_LOST: on a keeper, one commit makes the switch LOST and advances its endpoints' epochs (R446). -/
def execSwitchDeclareLost (sw : Nat) (s : State) : Host.Outcome State Fault Refusal :=
  if !isKeeper s || !(get? s.flt.switches sw).elim false (fun e => e.st == .live) || sw == s.cfg.switchId then swcOk s
  else swcOk (recheckEpochs (applyGeneration (s.flt.gen + 1) (lostChanges s sw) s))

end Machine
end Sys2Proof
end

