-- ==== Sys2Proof/Machine/Egress.lean ====
section
/-! DEFINITION. The egress of a switch core and the stalk (R29, R127, R136, R152 to R160, R176, R179): the choice of the next frame, its
transmission, responses against the write record, the crossing to the other die, the free-list auditor, cell errors. -/

namespace Sys2Proof
namespace Machine

/-! Responses leaving a port (R176 to R179) -/

/-- A response opcode of a recorded write. -/
def isWriteRsp (o : Byte) : Bool := o == 0x11#8 || o == 0x12#8 || o == 0x13#8 || o == 0x14#8

/-- A write's entry after the response to one of its copies. -/
def answeredOnce (e : WriteEntry) (copy : Nat) (st : BitVec 5) : WriteEntry :=
  { e with
    answered := insertNat copy e.answered, lastStatus := st,
    okAt := if st = Sts.ok ∨ st = Sts.duplicate then some (Nat.max copy (e.okAt.getD 0)) else e.okAt }

/-- Has an entry left the record: a copy is answered OK and so is every copy after it, or every copy is answered (R176)? -/
def entryLeft (e : WriteEntry) : Bool :=
  (rangeFrom (e.okAt.elim 1 (· + 1)) (e.copies - e.okAt.getD 0)).all (fun i => e.answered.contains i)

/-- The copy of a write that a response answers: the one not yet answered, or, of several, which a response does not name, a free value among them
(log 64). -/
def rspCopy (e : WriteEntry) (s : State) : Option (Nat × State) :=
  match (rangeFrom 1 e.copies).filter (fun i => !e.answered.contains i) with
  | [] => none
  | [i] => some (i, s)
  | l => match drawFree s with
    | (k, s1) => some (nth l ((Config.freeValue k).toNat % l.length) 0, s1)

/-- A response to a write has passed the egress: its entry notes the copy it answers; one that leaves answered failed ends the releases that wait for
it with ABORTED (R176, R178). -/
def noteWriteRsp (p : Nat) (k : ReqKey) (st : BitVec 5) (s : State) : State :=
  match ((portOf s p).writeRec.find? (fun e => e.key == k)).bind (fun e => (rspCopy e s).map (fun c => (answeredOnce e c.1 st, c.2))) with
  | none => s
  | some (e, s0) =>
    if entryLeft e then
      let s1 := modPort s0 p (fun x => { x with writeRec := x.writeRec.filter (fun y => y.key != k) })
      let waiting := fun (h : HeldFrame) =>
        let f := h.desc.frame
        f.rel && isMemReq f.opcode && f.srcEp.toNat == k.srcEp && f.ctx.toNat == k.ctx && keyOf f != k && decide (e.order < h.order)
      recordMoved p (if e.okAt.isNone then endAt p waiting Sts.aborted s1 else s1)
    else modPort s0 p (fun x => { x with writeRec := x.writeRec.map (fun y => if y.key = k then e else y) })

/-- The response to an acquire has left the egress: what it held goes on (R179). -/
def noteAcquire (p : Nat) (k : ReqKey) (s : State) : State :=
  if (portOf s p).acquires.any (fun h => keyOf h.desc.frame == k) then
    settlePort p (modPort s p (fun x => { x with acquires := x.acquires.filter (fun h => keyOf h.desc.frame != k) }))
  else s

/-- A response leaves a port's egress. -/
def noteResponse (p : Nat) (f : Frame) (s : State) : State :=
  let k : ReqKey := ⟨addrEp f.addr.toNat, f.ctx.toNat, f.tag.toNat⟩
  let s0 := if isRsp f.opcode then modPort s p (fun x => { x with asked := x.asked.filter (· != k) }) else s
  if decide (0x10 ≤ f.opcode.toNat) && decide (f.opcode.toNat ≤ 0x15) then
    noteAcquire p k (if isWriteRsp f.opcode then noteWriteRsp p k f.status s0 else s0)
  else s0

/-! What may leave (R133, R136, R150, R160) -/

/-- The cells of a descriptor. -/
def descCells (x : Desc) : Nat := cellsOf x.frame.length.toNat

/-- The cells a class takes of a die's stalk receive pool; TC7 by half. -/
def stalkUsed (s : State) (d : Die) (tc : Nat) (req : Bool) : Nat :=
  let mine := fun (x : Desc) => x.viaStalk && x.frame.tc.toNat == tc && (tc != 7 || isReq x.frame.opcode == req)
  let w := side s.swc d
  cellCount ((w.stalkIn.map (·.desc) ++ w.fifos.flatMap (·.queue) ++ (side s.home d).inbox ++
    (s.lft.sprayIn.filter (fun x => x.1 == dieNum d)).map (·.2)).filter mine)

/-- The stalk receive cells of a class (R150). -/
def stalkPool (tc : Nat) : Nat := if tc = 7 then 4096 else 8192

/-- The bytes that the frames in a replay buffer take: header and payload of each (DESIGN CHOICE, log 184: the manual does not say what a frame
in the buffer counts for). -/
def replayUsed (x : SubState) : Nat := sumOf (x.replay.map (fun h => 32 + h.frame.payload.length))

/-- May a descriptor at the head of its FIFO leave by an output now? -/
def mayLeave (s : State) (d : Die) (o : Output) (x : Desc) : Bool :=
  let tc := x.frame.tc.toNat
  match o with
  | .sub p k =>
    let y := subOf s p k
    mayCarry s p k tc (descCells x) (isReq x.frame.opcode) && y.retraining.isNone &&
      (portPfc s p || decide (replayUsed y + 32 + x.frame.payload.length ≤ replayBytes s p))
  | .stalk => !s.mod.stalkFailed && decide (stalkUsed s (otherDie d) tc (isReq x.frame.opcode) + descCells x ≤ stalkPool tc)
  | .home => (side s.swc d).agentHold.isEmpty
  | .sp => true
  | .agent => true

/-- The places of a FIFO whose frames may be taken next: its head, and in TC7 the first frame of the other half, which never waits behind the
first (R130); what follows a PATH_BARRIER does not pass it (R143). -/
def headsOf (tc : Nat) (q : List Desc) : List Nat :=
  match q with
  | [] => []
  | x :: r =>
    if tc != 7 || x.frame.opcode == Opc.pathBarrier then [0]
    else
      match (r.takeWhile (fun y => y.frame.opcode != Opc.pathBarrier)).findIdx? (fun y => isReq y.frame.opcode != isReq x.frame.opcode) with
      | some i => [0, i + 1]
      | none => [0]

/-- The place in a class's FIFO of the frame that may leave now. -/
def readyAt (s : State) (d : Die) (o : Output) (tc : Nat) : Option Nat :=
  let q := fifoOf s d o tc
  (headsOf tc q).find? (fun i => (q[i]?).elim false (mayLeave s d o))

/-- Has a class's FIFO a frame that may leave now? -/
def readyTc (s : State) (d : Die) (o : Output) (tc : Nat) : Bool := (readyAt s d o tc).isSome

/-- Is a descriptor discarded at its egress: on a dead path (R143), or a response while its port is in reset (R397)? The bit of
PRT.ERR_STATUS it sets, if any. -/
def deadAt (s : State) (o : Output) (x : Desc) : Option (Nat × Option Nat) :=
  match o with
  | .sub p k =>
    if (portOf s p).resetJob.isSome && isRsp x.frame.opcode then some (p, none)
    else if portRole s p == 4 && (subOf s p k).phase != .up then some (p, some 0)
    else none
  | .stalk => none
  | .home => none
  | .sp => none
  | .agent => none

/-! The scheduler (R160) -/

/-- The number of an output in a die's table of deficits. -/
def outKey (o : Output) : Nat :=
  match o with
  | .stalk => 0
  | .home => 1
  | .sp => 2
  | .agent => 3
  | .sub p k => 16 + p * 8 + k

/-- A number the scheduler keeps for an output: by class the deficit of TC0 to TC4 and what TC6 and TC7 are ahead of their 1/16; from 8 on the
weights of the round under way, each counted from 1; at 15 the class whose turn it is. -/
def schedGet (s : State) (d : Die) (o : Output) (i : Nat) : Nat := getD (side s.swc d).deficits (outKey o * 16 + i) 0

/-- The state with a number of the scheduler changed. -/
def schedPut (d : Die) (o : Output) (i v : Nat) (s : State) : State :=
  modSwc s d (fun w => { w with deficits := put w.deficits (outKey o * 16 + i) v })

/-- The weight of a class in an output's round under way: what SWC.ARB_WEIGHT held when the round began (R167). An output that has begun no
round takes the register's. -/
def weightOf (s : State) (d : Die) (o : Output) (tc : Nat) : Nat :=
  match schedGet s d o (8 + tc) with
  | 0 => nth (side s.swc d).arbWeight tc 0
  | n + 1 => n

/-- The state with an output's next round begun: it takes the weights that SWC.ARB_WEIGHT now holds. -/
def beginRound (d : Die) (o : Output) (s : State) : State :=
  (rangeFrom 0 5).foldl (fun t tc => schedPut d o (8 + tc) (nth (side s.swc d).arbWeight tc 0 + 1) t) s

/-- Deficit round robin over TC0 to TC4: the class to serve, and the deficits with its frame's cells taken. -/
def drrPick (fuel : Nat) (s : State) (d : Die) (o : Output) (turn : Nat) (defs : List Nat) : Option (Nat × List Nat × State) :=
  match fuel with
  | 0 => none
  | n + 1 =>
    let have_ := nth defs turn 0
    let cost := ((fifoOf s d o turn).head?).elim 0 descCells
    if weightOf s d o turn ≠ 0 ∧ readyTc s d o turn ∧ cost ≤ have_ then some (turn, setAt defs turn (have_ - cost), s)
    else
      let defs1 := if (fifoOf s d o turn).isEmpty then setAt defs turn 0 else defs
      let next := (turn + 1) % 5
      let t := if next = 0 then beginRound d o s else s
      let defs2 := if (fifoOf t d o next).isEmpty then defs1 else setAt defs1 next (nth defs1 next 0 + 16 * weightOf t d o next)
      drrPick n t d o next defs2

/-- The class of TC0 to TC4 to serve, with the state that has its deficits: of nonzero weight while one of those is ready, else the first
of weight 0 (R160). -/
def pickLow (s : State) (d : Die) (o : Output) : Option (Nat × State) :=
  let ready := (rangeFrom 0 5).filter (readyTc s d o)
  if ready.any (fun tc => weightOf s d o tc != 0 || nth (side s.swc d).arbWeight tc 0 != 0) then
    match drrPick 24 s d o (schedGet s d o 15) ((rangeFrom 0 5).map (schedGet s d o)) with
    | none => none
    | some (tc, defs, s1) => some (tc, (rangeFrom 0 5).foldl (fun t i => schedPut d o i (nth defs i 0) t) (schedPut d o 15 tc s1))
  else ready.head?.map (fun tc => (tc, s))

/-- The class an output serves next: TC7, then TC6, each while it keeps to 1/16 or nothing else can leave; TC5; TC0 to TC4 by deficit round
robin (R160). The share of 1/16 is kept as the cells a class is ahead (DESIGN CHOICE, log 65). -/
def pickTc (s : State) (d : Die) (o : Output) : Option (Nat × State) :=
  let ready := readyTc s d o
  let others := fun (c : Nat) => (rangeFrom 0 8).any (fun tc => tc != c && ready tc)
  if ready 7 && (schedGet s d o 7 == 0 || !others 7) then some (7, s)
  else if ready 6 && (schedGet s d o 6 == 0 || !others 6) then some (6, s)
  else if ready 5 then some (5, s)
  else
    match pickLow s d o with
    | some x => some x
    | none => if ready 7 then some (7, s) else if ready 6 then some (6, s) else none

/-- The account of TC7 and TC6 after a frame of a class has left: cells sent while another class waits put a class ahead by 15 each; each
cell of another class brings it back by one. -/
def account (d : Die) (o : Output) (tc cells : Nat) (s : State) : State :=
  let waits := fun (c : Nat) => (rangeFrom 0 8).any (fun i => i != c && !(fifoOf s d o i).isEmpty)
  let one := fun (c : Nat) (t : State) =>
    let v := schedGet t d o c
    if tc = c then (if waits c then schedPut d o c (v + 15 * cells) t else t) else if v = 0 then t else schedPut d o c (v - cells) t
  one 6 (one 7 s)

/-! Transmission -/

/-- A frame goes out on a port's sub-link: numbered and kept for replay on a credit-mode link (R135, R136), with HOP counted on a port
between switches (R127); a CORRUPT rule may damage its first transmission (R468). -/
def sendSub (d : Die) (p k : Nat) (x : Desc) (s : State) : State :=
  let tc := x.frame.tc.toNat
  let up := fun (f : Frame) => if portRole s p = 4 then { f with hop := f.hop + 1 } else f
  let f := up x.frame
  let more := x.more.map up
  let s1 := sample p k 1 (macPair s p k) (etherTypeOf s f.opcode) f (f.payload ++ zeros (padOf s p f.payload.length)) s
  let pfc := portPfc s p
  match (if pfc then ([], s1) else pepHit 5 p f s1) with
  | (hits, s2) =>
    let y := subOf s2 p k
    let t0 : Trailer := if portRole s p = 4 then x.trailer else {}
    let t : Trailer := { t0 with lseq := y.txSeq, seqValid := true }
    let s3 := if pfc then s2
      else modSub s2 p k (fun z => { z with
        txSeq := z.txSeq + 1, replay := z.replay ++ [⟨z.txSeq, t, f, more⟩],
        cellsSent := modAt z.cellsSent tc (fun n => (n + descCells x) % 2 ^ 32),
        tc7Out := if tc = 7 then z.tc7Out ++ [(isReq f.opcode, descCells x)] else z.tc7Out })
    let s4 := modPort (putWire p k (if pfc then {} else ackTrailer y t) f more (!hits.isEmpty) s3) p
      (fun z => { z with txFrames := modAt z.txFrames tc (fun n => (n + 1) % 2 ^ 64) })
    noteResponse p f (letGo d x s4)

/-- The CRC of a message's envelope, over the header and the payload it carries; the manual names no polynomial, and the header's own is taken
(DESIGN CHOICE, log 185). -/
def stalkCrc (f : Frame) : BitVec 32 := crc32c (headerBytes f ++ f.payload)

/-- A message goes onto the stalk, under its direction's sequence numbers, and is held for replay until the other die has received it; the other
die's receive pool takes its cells (R29, R152). -/
def sendStalk (d : Die) (x : Desc) (s : State) : State :=
  let e := otherDie d
  let s1 := letGo d x s
  match allocCells e (descCells x) s1 with
  | (cells, s2) =>
    let n := (side s2.swc d).stalkSeq
    let y : Desc := { x with cells := cells, source := none, viaStalk := true, agent := false }
    let m : StalkMsg := ⟨n, x.frame.tc.toNat, y, stalkCrc x.frame⟩
    modSwc (modSwc s2 d (fun w => { w with stalkSeq := w.stalkSeq + 1, stalkReplay := w.stalkReplay ++ [m] })) e
      (fun w => { w with stalkIn := w.stalkIn ++ [m] })

/-- A control frame that names no command, or whose body is shorter than its header, is answered by the service processor where it reaches it;
every other one waits there for its turn (R34, R106, R163). -/
def reachSp (d : Die) (f : Frame) (s : State) : State :=
  if ctlHere s f then
    match ctlUnlisted f with
    | some st => sendCtlRsp d (ctlCode f) (ctlOf 0 f) st 0 [] s
    | none => modCfg s (fun c => { c with spInbox := c.spInbox ++ [f] })
  else modCfg s (fun c => { c with spInbox := c.spInbox ++ [f] })

/-- An output takes a descriptor. What the home unit takes keeps its allocation until the home accepts it (R152). -/
def takeOut (d : Die) (o : Output) (x : Desc) (s : State) : State :=
  match o with
  | .sub p k => sendSub d p k x s
  | .stalk => sendStalk d x s
  | .home => modHome s d (fun h => { h with inbox := h.inbox ++ [x] })
  | .sp => (x.frame :: x.more).foldl (fun t f => reachSp d f t) (letGo d x s)
  | .agent => modSwc (letGo d x s) d (fun w => { w with agentInbox := w.agentInbox ++ x.frame :: x.more })

/-- The first class whose head is discarded at this egress. -/
def deadTc (s : State) (d : Die) (o : Output) : Option (Nat × Desc × Nat × Option Nat) :=
  (rangeFrom 0 8).findSome? fun tc =>
    match (fifoOf s d o tc).head? with
    | none => none
    | some x => (deadAt s o x).map (fun r => (tc, x, r))

/-- The state without the frame at a place of a FIFO. -/
def popOut (d : Die) (o : Output) (tc i : Nat) (s : State) : State := setFifo s d o tc (dropAt (fifoOf s d o tc) i)

/-- An output takes its next frame. -/
def egress (d : Die) (o : Output) (s : State) : State :=
  match deadTc s d o with
  | some (tc, x, p, bit) =>
    let s1 := countDiscard p 1 (letGo d x (popOut d o tc 0 s))
    bit.elim s1 (fun b => setStatus (.prt p) b s1)
  | none =>
    match pickTc s d o with
    | none => s
    | some (tc, s1) =>
      let i := (readyAt s d o tc).getD 0
      match (fifoOf s d o tc)[i]? with
      | none => s
      | some x => takeOut d o x (account d o tc (descCells x) (popOut d o tc i s1))

/-- EGRESS_SEND: an output takes its next frame; what the die's agents hold goes on as their pools have room again (R151). -/
def execEgressSend (d : Die) (out : Output) (s : State) : Host.Outcome State Fault Refusal :=
  swcOk (releaseAgents (side s.swc d).agentHold.length d (egress d out s))

/-- The numbers received in order after one more, and those received beyond them (R29). -/
def stalkOrder (fuel next : Nat) (seen : List Nat) : Nat × List Nat :=
  match fuel with
  | 0 => (next, seen)
  | n + 1 => if seen.contains next then stalkOrder n (next + 1) (seen.filter (· != next)) else (next, seen)

/-- A message is received: its number is noted, and its sender need not hold it any longer (R29). -/
def noteStalk (d : Die) (m : StalkMsg) (s : State) : State :=
  let w := side s.swc d
  match stalkOrder (w.stalkSeen.length + 1) w.stalkNext (insertNat m.seq w.stalkSeen) with
  | (next, seen) =>
    modSwc (modSwc s d (fun v => { v with stalkNext := next, stalkSeen := seen })) (otherDie d)
      (fun v => { v with stalkReplay := v.stalkReplay.filter (fun y => y.seq != m.seq) })

/-- A descriptor that has crossed the stalk goes to its resequencer if it was sprayed to this switch, else to its output; a multicast is
replicated (R142, R154, R155). -/
def deliverMsg (d : Die) (x : Desc) (s : State) : State :=
  let sw := epSwitch x.frame.srcEp.toNat
  if x.trailer.sprayed && answersFor s (destSwitch x.frame) && hasSlot s sw x.frame.tc.toNat && reseqDie s sw == d then steer d x s
  else (x.frame :: x.copies).foldl (fun t f => putOnWay d { x with frame := f, copies := [] } x.trailer.path.toNat t) s

/-- STALK_RECEIVE: the oldest message of a class is delivered, once, and enters the output FIFO it is for (R29, R155). A message whose number has
been received or whose CRC fails is not delivered; its sender still holds it in the latter case. -/
def execStalkReceive (d : Die) (tc : Nat) (s : State) : Host.Outcome State Fault Refusal :=
  let mine := fun (m : StalkMsg) => m.tc == tc
  let w := side s.swc d
  match w.stalkIn.find? mine with
  | none => swcOk s
  | some m =>
    let s1 := modSwc s d (fun v => { v with stalkIn := dropFirst mine v.stalkIn })
    if m.seq < w.stalkNext ∨ w.stalkSeen.contains m.seq then swcOk (freeCells d m.desc.cells s1)
    else if m.crc ≠ stalkCrc m.desc.frame then swcOk s
    else swcOk (deliverMsg d m.desc (noteStalk d m s1))

/-! The free-list auditor (R156 to R158) -/

/-- One cell in a pass: on the free list but named by a descriptor, it is quarantined; off it and named by none, it is suspected, and freed
when the pass before suspected it too. -/
def auditCell (d : Die) (epoch : Nat) (used : List Nat) (old : Dict Nat) (c : Nat) (s : State) : State :=
  let w := side s.swc d
  let free := !w.offFree.contains c && !w.quarantined.contains c
  let named := used.contains c
  if get? w.born c = some epoch then s
  else if free && named then setStatus (.swc d) 1 (modSwc s d (fun v => { v with quarantined := insertNat c v.quarantined }))
  else if w.offFree.contains c && !named then
    if get? old c = some ((epoch + 65535) % 65536) then
      setStatus (.swc d) 0 (modSwc s d (fun v => { v with
        offFree := v.offFree.filter (· != c), reclaimed := satAdd v.reclaimed 1 0xFFFFFFFF }))
    else modSwc s d (fun v => { v with suspect := put v.suspect c epoch })
  else s

/-- The audit slack after a pass: a cell for each suspect, up to the 2,048 of the pool; exhausted, it withholds credit until 1,024 are free
again (R157). A suspect found in place again gives its slack back (DEDUCED, log 66). -/
def auditSlack (d : Die) (s : State) : State :=
  let w := side s.swc d
  let n := Nat.min 2048 w.suspect.length
  let s1 := modSwc s d (fun v => { v with slackUsed := n, withhold := n == 2048 || (v.withhold && decide (1024 < n)) })
  if n = 2048 ∧ w.slackUsed ≠ 2048 then setStatus (.swc d) 2 s1 else s1

/-- AUDIT_PASS. Only cells off the free list or named by a descriptor can differ from what they should be. -/
def execAuditPass (d : Die) (s : State) : Host.Outcome State Fault Refusal :=
  let w := side s.swc d
  let epoch := (w.auditEpoch + 1) % 65536
  let used := usedCells s d
  let cells := used.foldl (fun l c => insertNat c l) w.offFree
  let s1 := modSwc s d (fun v => { v with auditEpoch := epoch, suspect := [], passes := (v.passes + 1) % 2 ^ 32 })
  swcOk (auditSlack d (cells.foldl (fun t c => auditCell d epoch used w.suspect c t) s1))

/-! Cell errors (R159) -/

/-- The frames of a class held at a port's ingress. -/
def heldOf (s : State) (p tc : Nat) : List HeldFrame := (heldAt (portOf s p)).filter (fun h => h.desc.frame.tc.toNat == tc)

/-- The frame of a class that stands at a position of an area. -/
def cellFrame (s : State) (d : Die) (c : CellArea) (tc i : Nat) : Option Desc :=
  match c with
  | .fifo o => (fifoOf s d o tc)[i]?
  | .held p => if portDie p = d then ((heldOf s p tc)[i]?).map (·.desc) else none
  | .slot sw => if reseqDie s sw = d then get? (reseqOf s sw tc).held i else none

/-- The state with the frame at a place changed, or gone. -/
def putCell (d : Die) (c : CellArea) (tc i : Nat) (g : Option Desc) (s : State) : State :=
  match c with
  | .fifo o => setFifo s d o tc (match g with | some x => setAt (fifoOf s d o tc) i x | none => dropAt (fifoOf s d o tc) i)
  | .held p =>
    match (heldOf s p tc)[i]? with
    | none => s
    | some h =>
      match g with
      | none => modPort s p (fun y => withoutHeld (fun k => k.order == h.order) y)
      | some x =>
        let one := fun (l : List HeldFrame) => l.map (fun k => if k.order = h.order then { k with desc := x } else k)
        modPort s p (fun y => { y with
          releases := y.releases.map (fun r => if r.held.order = h.order then { r with held := { r.held with desc := x } } else r),
          behind := one y.behind, stopHeld := one y.stopHeld, epochHeld := one y.epochHeld, rateHeld := one y.rateHeld,
          pepHeld := one y.pepHeld, recWait := one y.recWait })
  | .slot sw => modReseq s sw tc (fun r => { r with held := match g with | some x => put r.held i x | none => del r.held i })

/-- A frame discarded for a cell error is counted: at the port of its output or the one it came in on, else on its die (R159). -/
def countCell (d : Die) (c : CellArea) (x : Desc) (s : State) : State :=
  match c, x.source with
  | .fifo (.sub p _), _ => countDiscard p 1 s
  | .held p, _ => countDiscard p 1 s
  | _, some (p, _) => countDiscard p 1 s
  | _, none => modSwc s d (fun w => { w with discarded := w.discarded + 1 })

/-- CELL_ECC_ERROR: a single-bit error is corrected and counted (R152). An uncorrectable one in the header discards the frame; in the payload of
a response it makes it POISON, of any other frame it discards it (R159). -/
def execCellEccError (d : Die) (area : CellArea) (tc pos : Nat) (kind : CellFault) (s : State) : Host.Outcome State Fault Refusal :=
  match cellFrame s d area tc pos with
  | none => swcOk s
  | some x =>
    match kind with
    | .corrected => swcOk (setStatus (.swc d) 3 s)
    | k =>
      let s1 := setStatus (.swc d) 4 s
      if k = .payload ∧ isRsp x.frame.opcode then
        swcOk (putCell d area tc pos (some { x with frame := { x.frame with status := Sts.poison } }) s1)
      else
        let s2 := countCell d area x (letGo d x (putCell d area tc pos none s1))
        swcOk (match area with
          | .held p => settlePort p s2
          | .fifo _ => s2
          | .slot _ => s2)

end Machine
end Sys2Proof
end

