-- ==== Sys2Proof/Machine/Registers.lean ====
section
/-! DEFINITION. The control window (R9 to R14, R54, R111, R113 and the register chapters): what an offset reads, what a write does, the
checks of an access, the register commands. -/

namespace Sys2Proof
namespace Machine

/-! Words and codes -/

/-- A register value from its fields: each a value and its lowest bit. -/
def packed (l : List (Nat × Nat)) : Nat := l.foldl (fun a x => a + x.1 * 2 ^ x.2) 0

/-- The code of a slot's state (R114, R423). -/
def slotCode (p : SlotPhase) : Nat :=
  match p with
  | .empty => 0
  | .loading => 1
  | .verified => 2
  | .invalid => 3

/-- The code of a context's state (R402). -/
def ctxStateCode (p : CtxPhase) : Nat :=
  match p with
  | .free => 0
  | .active => 1
  | .resetting => 2
  | .destroying => 3

/-- The code of an extent's state (R86). -/
def extStateCode (p : ExtPhase) : Nat :=
  match p with
  | .free => 0
  | .active => 1
  | .revoking => 2
  | .revoked => 3

/-- The code of a line's home state (R228). -/
def lineCode (x : LineSt) : Nat :=
  match x with
  | .s => 1
  | .sb => 2
  | .m => 3
  | .sI => 4
  | .mF => 5
  | .rc => 6
  | .ab => 7

/-- The code of a session's state (R365). -/
def sesCode (x : SesSt) : Nat :=
  match x with
  | .asleep => 0
  | .waking => 1
  | .awake => 2
  | .sleeping => 3

/-- The code of a volume's state (R279). -/
def volCode (x : VolSt) : Nat :=
  match x with
  | .absent => 0
  | .offline => 1
  | .online => 2
  | .rebuild => 3
  | .formatting => 4

/-- The code of a core's state (R316). -/
def coreCode (x : CoreSt) : Nat :=
  match x with
  | .idle => 0
  | .running => 1
  | .scrubbing => 2
  | .selftest => 3
  | .spare => 4
  | .retired => 5

/-- The code of a codebook slot's state (R377). -/
def cbCode (x : CbPhase) : Nat :=
  match x with
  | .free => 0
  | .valid => 1
  | .retiring => 2

/-- The code of the meter's state (R442). -/
def mtrCode (x : MtrSt) : Nat :=
  match x with
  | .absent => 0
  | .attached => 1
  | .ingesting => 2
  | .tampered => 3

/-- The code of a switch's map entry (R470). -/
def switchCode (x : SwitchSt) : Nat :=
  match x with
  | .live => 0
  | .lost => 1
  | .promoted => 2

/-- The code of a power state (R476). -/
def powerCode (x : PowerSt) : Nat :=
  match x with
  | .off => 0
  | .standby => 1
  | .starting => 2
  | .run => 3
  | .holdup => 4

/-- A signed temperature as a field of eight bits. -/
def tempField (t : Int) : Nat := (tempByte t).toNat

/-! Sticky registers by offset (R13) -/

/-- The sticky status register at an offset of the window. -/
def stAt (off : Nat) : Option StReg :=
  let p := (off - 0x01000000) / 0x40000
  let c := (off - 0x0D000000) / 0x1000
  let cands : List StReg := [
    .cfg, .swc .d0, .swc .d1, .mem .d0, .mem .d1, .coh .d0, .coh .d1, .tier .d0, .tier .d1, .ftl .d0, .ftl .d1, .pod .d0, .pod .d1,
    .col .d0, .col .d1, .att .d0, .att .d1, .cmp .d0, .cmp .d1, .sec, .mtr, .flt, .mod] ++
    (if p ≤ 64 then [StReg.prt p] else []) ++ (if c < 4096 then [StReg.ctx c] else [])
  cands.find? (fun r => (stOffset r).1 + (stOffset r).2 == off)

/-- The companion hit counter at an offset: 8 above its register. -/
def hitAt (off : Nat) : Option StReg := if 8 ≤ off then stAt (off - 8) else none

/-- The value of a sticky status register, with the read-only fields beside its bits (R114, R279). -/
def stValue (s : State) (r : StReg) : Nat :=
  let v := (stGet s r).bits.toNat
  match r with
  | .cfg => v + s.cfg.lastStatus.toNat * 2 ^ 8
  | .ftl d => v + b2n (side s.ftl d).replayFail * 2 ^ 7
  | _ => v

/-! What the blocks' registers read -/

/-- CFG (R114). -/
def cfgRead (s : State) (o : Nat) : Option Nat :=
  let c := s.cfg
  let loadOf := fun (x : SlotState) => if x.phase = .loading then x.loadId else 0
  match o with
  | 0x00 => some (packed [(0x2096, 48), (0xB0, 40), (b2n c.unconfigured, 12), (c.switchId, 0)])
  | 0x08 =>
    let newest := (c.loadOrder.find? (fun x => (slotOf s x).phase == .loading)).elim 0 (fun x => (slotOf s x).loadId)
    some (packed [(newest, 16), (b2n c.cameUnconfigured, 11), (b2n c.fallback, 10), (b2n (c.preferred == .b), 9), (b2n (c.active == .b), 8),
      (slotCode c.slotP.phase, 4), (slotCode c.slotB.phase, 2), (slotCode c.slotA.phase, 0)])
  | 0x10 => some c.activeId
  | 0x18 => some c.detClass
  | 0x20 => some c.configGen
  | 0x28 => some (packed [(c.ethCtl.toNat, 16), (c.ethLft.toNat, 0)])
  | 0x30 => some (packed [(c.localFrac.d1, 16), (c.localFrac.d0, 0)])
  | 0x48 => some (packed [(loadOf c.slotP, 32), (loadOf c.slotB, 16), (loadOf c.slotA, 0)])
  | _ => none

/-- The sub-links of a port that are in service, as bits. -/
def subsUp (s : State) (p : Nat) : Nat := packed ((rangeFrom 0 8).map (fun k => (b2n ((subOf s p k).phase == .up), k)))

/-- Are secure associations active on every sub-link in service (R147)? -/
def macsecOn (s : State) (p : Nat) : Bool :=
  let ups := (rangeFrom 0 8).filter (fun k => (subOf s p k).phase == .up)
  portMacsec s p && !ups.isEmpty && ups.all (fun k => (subOf s p k).ka.keyed)

/-- PRT of a port (R147). -/
def prtRead (s : State) (p o : Nat) : Option Nat :=
  let x := portOf s p
  if o = 0x000 then
    some (packed [(subsUp s p, 40), (portMode s p, 32), (portRole s p, 28), (b2n (portPfc s p), 27), (b2n (macsecOn s p), 26),
      ((s.mod.lanes.filter (fun l => l.1 == p)).length % 8, 23)])
  else if o = 0x018 then some x.fecCorr
  else if o = 0x020 then some x.fecUncorr
  else if o = 0x028 then some x.replayCount
  else if 0x100 ≤ o ∧ o < 0x140 ∧ o % 8 = 0 then
    let k := (o - 0x100) / 8
    some (if portPfc s p then 0 else packed [(nth (subOf s p 0).limits k 0, 32), (creditOf (subOf s p 0) k, 0)])
  else if 0x200 ≤ o ∧ o < 0x240 ∧ o % 8 = 0 then some (nth x.rxFrames ((o - 0x200) / 8) 0)
  else if 0x240 ≤ o ∧ o < 0x280 ∧ o % 8 = 0 then some (nth x.txFrames ((o - 0x240) / 8) 0)
  else none

/-- The free cells of a die: none that a descriptor or a sample names or that is quarantined (R167). -/
def cellsFree (s : State) (d : Die) : Nat :=
  let w := side s.swc d
  786432 - (sampleCells w.samplePool + w.offFree.length + (w.quarantined.filter (fun c => !w.offFree.contains c)).length)

/-- SWC of a die (R167). -/
def swcRead (s : State) (d : Die) (o : Nat) : Option Nat :=
  let w := side s.swc d
  match o with
  | 0x00 => some (packed [(w.slackUsed, 32), (cellsFree s d, 0)])
  | 0x20 => some (packed [(w.passes % 2 ^ 32, 32), (w.reclaimed, 0)])
  | 0x30 => some (packed ((rangeFrom 0 5).map (fun k => (nth w.arbWeight k 0, 8 * k))))
  | 0x40 => some (packed [(w.log2n, 11), (w.trunc, 8), (b2n w.payload, 3), (b2n w.egress, 2), (b2n w.ingress, 1), (b2n w.enable, 0)])
  | 0x48 => some w.samplePorts.toNat
  | 0x50 => some w.sampleDest.toNat
  | 0x58 => some w.sampleDrop
  | 0x60 => some w.stops.length
  | _ => none

/-- HOM (R85, R86, R196). -/
def homRead (s : State) (o : Nat) : Option Nat :=
  if o = 0x1000 then some s.extSel.toNat
  else if 0x1008 ≤ o ∧ o ≤ 0x1018 ∧ o % 8 = 0 then some (nth s.extRec ((o - 0x1008) / 8) 0).toNat
  else if o = 0x1100 then some s.objSel.toNat
  else if 0x1108 ≤ o ∧ o ≤ 0x1140 ∧ o % 8 = 0 then some (nth s.objRec ((o - 0x1108) / 8) 0).toNat
  else if 0x2000 ≤ o ∧ o < 0x2200 then
    let d := dieOf ((o - 0x2000) / 0x100)
    let h := side s.home d
    match o % 0x100 with
    | 0x00 => some (packed [(b2n h.combineEn, 16), (h.ageUs, 0)])
    | 0x18 => some (winEntries s d)
    | 0x20 => some h.hot.length
    | 0x28 => some h.combined
    | 0x30 => some (packed [(((trackers s d).filter (·.2)).length, 16), ((trackers s d).length, 0)])
    | _ => none
  else none

/-- COH of a die (R228). -/
def cohRead (s : State) (d : Die) (o : Nat) : Option Nat :=
  let c := side s.coh d
  match o with
  | 0x00 => some c.ackTimeoutMs
  | 0x18 => some (packed [((c.dir.filter (fun e => e.2.st == .sb)).length, 32), (c.dir.length, 0)])
  | 0x20 => some c.recalls
  | 0x28 => some c.sel.toNat
  | 0x30 => some c.rec0.toNat
  | 0x38 => some c.rec1.toNat
  | _ => none

/-- TIER of a die (R253). -/
def tierRead (s : State) (d : Die) (o : Nat) : Option Nat :=
  let t := side s.tier d
  let here := fun (x : Session) => (extOf s x.ext).elim false (fun e => e.die == d) && (x.st == .waking || x.st == .awake)
  match o with
  | 0x00 => some (packed [(b2n t.refillEn, 41), (b2n t.spillEn, 40), (t.prefetchDepth, 32), (t.highWm, 16), (t.lowWm, 0)])
  | 0x18 => some (t0Free s d)
  | 0x20 => some (packed [((t.moves.filter (fun m => !m.started)).length, 16), ((t.moves.filter (·.started)).length, 0)])
  | 0x28 => some t.spilled
  | 0x30 => some t.prefetched
  | 0x38 => some (s.sessions.filter (fun x => here x.2)).length
  | 0x40 => some (t.cc.filter (fun l => l.2.dirty)).length
  | 0x48 => some (b2n (!t.flush.isEmpty))
  | _ => none

/-- FTL of a die (R279). -/
def ftlDieRead (s : State) (d : Die) (o : Nat) : Option Nat :=
  let x := side s.ftl d
  match o with
  | 0x00 => some (packed [(x.retryMax, 56), (x.eccRefresh, 48), (x.foldLow, 40), (x.gcLow, 32), (x.gcHigh, 24), (x.wearSpread16, 16), (x.disturbK, 8),
      (x.retainW, 0)])
  | 0x08 => some x.levelMap0.toNat
  | 0x10 => some x.levelMap1.toNat
  | 0x28 => some (packed [(x.ringBytes * 100 / ringCap, 56), (stageUse s d, 0)])
  | 0x30 => some x.hours
  | _ => none

/-- The retired blocks of a volume in thousandths of all its blocks. -/
def retiredPermil (s : State) (v : Nat) : Nat :=
  match recOf s RT.ftlVolume v with
  | none => 0
  | some b =>
    let ports := volTrays b
    let n := sumOf (ports.map (fun p => ((portBlocks s (volDie s v) p).filter (fun x => x.2.st == .retired)).length))
    n * 1000 / (ports.length * trayBlocks)

/-- FTL of a volume (R279). -/
def volRead (s : State) (v o : Nat) : Option Nat :=
  let x := getD s.vols v {}
  match o with
  | 0x00 => some (packed [(retiredPermil s v, 48), (x.reason, 36), (volCode x.st, 33), (b2n (volOuvi s v), 32), (volFree s v / 512, 0)])
  | 0x08 => some x.writes
  | 0x10 => some x.programs
  | _ => none

/-- FTL. -/
def ftlRead (s : State) (o : Nat) : Option Nat :=
  if o < 0x200000 then ftlDieRead s (dieOf (o / 0x100000)) (o % 0x100000)
  else if o < 0x201000 then volRead s ((o - 0x200000) / 0x100) (o % 0x100)
  else none

/-- POD of a die (R316). -/
def podRead (s : State) (d : Die) (o : Nat) : Option Nat :=
  let x := side s.pod d
  match o with
  | 0x00 => some (packed [(x.selftestS, 16), (x.budget, 0)])
  | 0x18 => some (packed [((x.cores.filter (fun c => c.2.st == .retired)).length, 32), ((sparesOf s d).length, 16), (512 - x.vacant.length, 0)])
  | 0x20 => some x.sel.toNat
  | 0x28 => some x.selRec.toNat
  | 0x30 => some 0
  | 0x38 => some x.items
  | _ => none

/-- COL of a die (R337). -/
def colRead (s : State) (d : Die) (o : Nat) : Option Nat :=
  let x := side s.col d
  match o with
  | 0x00 => some x.instTimeout
  | 0x18 => some (packed [(x.instances.length, 32), (ceilDiv (reserved s s.cfg.switchId d) (2 ^ 20), 0)])
  | 0x20 => some x.chunks
  | _ => none

/-- ATT of a die (R365). -/
def attDieRead (s : State) (d : Die) (o : Nat) : Option Nat :=
  let x := side s.col d
  match o with
  | 0x00 => some x.ahead
  | 0x18 => some (indexUse s d)
  | 0x20 => some x.skipped
  | 0x28 => some x.readBlocks
  | _ => none

/-- ATT (R365). -/
def attRead (s : State) (o : Nat) : Option Nat :=
  if o < 0x200 then attDieRead s (dieOf (o / 0x100)) (o % 0x100)
  else if o = 0x1000 then some s.sesSel.toNat
  else if 0x1008 ≤ o ∧ o ≤ 0x1018 ∧ o % 8 = 0 then some (nth s.sesRec ((o - 0x1008) / 8) 0).toNat
  else none

/-- CMP (R377). -/
def cmpRead (s : State) (o : Nat) : Option Nat :=
  if o < 0x200 then
    match o % 0x100 with
    | 0x18 => some (side s.cmp.decodedRaw (dieOf (o / 0x100)))
    | 0x20 => some (side s.cmp.decodedCoded (dieOf (o / 0x100)))
    | _ => none
  else if 0x1000 ≤ o ∧ o < 0x1080 ∧ o % 8 = 0 then
    let k := (o - 0x1000) / 8
    let c := getD s.cmp.slots k {}
    some (packed [(cbCode c.phase, 62), (if c.phase = .free then 0 else c.tables, 59), (c.gen, 32), (slotRefs s k, 0)])
  else if 0x10000 ≤ o ∧ o < 0x18000 ∧ o % 8 = 0 then some (getD s.cmp.ctxCode ((o - 0x10000) / 8) 0).toNat
  else none

/-- The entries of a context's admission set. -/
def admitCount (s : State) (c : Nat) : Nat :=
  if s.cfg.unconfigured then b2n (c == 0) else ((recsOf s RT.admitRec).filter (fun r => r.key / 256 == c)).length

/-- The event entries in use on a die (R386): those that wait, and one of each job in progress on the active service processor's die. -/
def evInUse (s : State) (d : Die) : Nat :=
  ((side s.ev d).queue.filter (fun e => !e.job)).length + (if d = s.cfg.activeSp then s.cfg.jobs.length else 0)

/-- CTX of a context (R81, R402). -/
def ctxRead (s : State) (c o : Nat) : Option Nat :=
  let x := ctxOf s c
  match o with
  | 0x000 => some (packed [(ctxStateCode (ctxPhase s s.cfg.activeSp c), 62), (eventEp s c, 34), (admitCount s c, 25), (x.resets, 0)])
  | 0x018 => some (packed [(x.sent, 32), (x.merged, 0)])
  | 0x020 => some (packed [(x.quotaWaits, 32), (x.congWaits, 0)])
  | 0x100 => some (limitOf s c 0)
  | 0x108 => some (limitOf s c 1)
  | 0x110 => some (limitOf s c 2)
  | 0x118 => some (ceilDiv (chargeOf s c 0) 512)
  | 0x120 => some (ceilDiv (chargeOf s c 1) 512)
  | 0x128 => some (ceilDiv (chargeOf s c 2) 512)
  | 0x800 => if c = 0 then some (packed [(evInUse s .d1, 32), (evInUse s .d0, 0)]) else none
  | _ => none

/-- SEC (R423). -/
def secRead (s : State) (o : Nat) : Option Nat :=
  let x := s.sec
  match o with
  | 0x00 => some (packed [(x.fwSvn, 32), (b2n x.recovery, 3), (b2n x.pufFail, 2), (b2n x.unsealed, 1), (x.fwSlot, 0)])
  | 0x08 => some (packed [(x.fwArb, 32), (x.bsArb, 0)])
  | 0x10 => some (packed [(x.leftMeter, 16), (x.leftDebug, 8), (x.leftXfer, 0)])
  | 0x18 => some (le (ownerDigest s) 0 8)
  | 0x20 => some (le (ownerDigest s) 8 8)
  | 0x28 => some (le (ownerDigest s) 16 8)
  | 0x30 => some (le (ownerDigest s) 24 8)
  | 0x38 => some (packed [(b2n x.unlocked, 2), (x.scope.toNat, 0)])
  | 0x40 => some x.transfers
  | 0x48 => some 0
  | 0x50 => some (x.windowBase * 2 ^ 16)
  | 0x58 => some (packed [(slotCode x.fw1.phase, 2), (slotCode x.fw0.phase, 0)])
  | _ => none

/-- MTR (R442). -/
def mtrRead (s : State) (o : Nat) : Option Nat :=
  let x := s.mtr
  match o with
  | 0x00 => some (packed [(mtrCode x.st, 62), (x.meter.elim 0 (·.left), 0)])
  | 0x08 => some (x.meter.elim 0 (·.serial))
  | 0x10 => some (b2n x.detach)
  | 0x28 => some (packed [(x.escrow.d1.segs.length, 32), (x.escrow.d0.segs.length, 0)])
  | 0x30 => some x.newest
  | 0x38 => some x.released
  | 0x40 => some (packed [(le x.tariffDigest 0 4, 32), (x.changes, 0)])
  | _ => none

/-- FLT (R470). -/
def fltRead (s : State) (o : Nat) : Option Nat :=
  let x := s.flt
  match o with
  | 0x00 => some (packed [(x.ackDeadMs, 8), (x.graceMs, 0)])
  | 0x08 => some (packed [(x.gen % 2 ^ 48, 16), (x.reached, 1), (b2n x.selfFenced, 0)])
  | 0x20 => some x.fenceSel.toNat
  | 0x28 => some x.fenceRec.toNat
  | 0x30 => some x.switchSel.toNat
  | 0x38 => some x.switchRec.toNat
  | 0x40 => some x.xferSrc.toNat
  | 0x48 => some x.xferDst.toNat
  | 0x50 => some 0
  | 0x58 => some x.xferJob
  | 0x60 => some x.compSel.toNat
  | 0x68 => some x.compRec.toNat
  | _ => none

/-- MOD (R491). -/
def modRead (s : State) (o : Nat) : Option Nat :=
  let m := s.mod
  if o < 0x200 then
    let x := side m.dies (dieOf (o / 0x100))
    match o % 0x100 with
    | 0x00 => some (packed [(b2n x.paceLow, 48), (x.minPace, 24), (x.pace, 0)])
    | 0x08 => some (packed [(b2n x.thermalHold, 40), (tempField x.tjMax, 32), (tempField x.tj, 24), (tempField m.coolOut, 16), (tempField m.coolIn, 8)])
    | 0x10 => some 0
    | _ => none
  else if 0x1000 ≤ o ∧ o < 0x2000 then
    match o - 0x1000 with
    | 0x00 => some (packed [(m.inputMv, 48), (m.inputW, 32), (m.holdup, 16), (powerCode m.power, 8), (m.lastDown, 1), (b2n m.holdupReady, 0)])
    | 0x08 => some m.macBase
    | 0x10 => some (packed [(b2n m.autoRow, 2), (b2n m.autoPc, 1), (b2n m.autoLane, 0)])
    | 0x18 => some 0
    | 0x20 => some (if m.dies.d0.thermalHold || m.dies.d1.thermalHold then 2 else m.led.toNat)
    | _ => none
  else if 0x2000 ≤ o ∧ o < 0x2020 ∧ o % 8 = 0 then
    let k := (o - 0x2000) / 8
    some (packed [(nth m.pcLeft k 0, 56), (nth m.rows k 0, 0)])
  else none

/-- PEP (R471). -/
def pepRead (s : State) (o : Nat) : Option Nat :=
  let r := s.flt.pepper
  match o with
  | 0x00 => some (packed [((r.filter (fun x => x.2.soak)).length, 5), (r.length, 0)])
  | 0x08 => some s.flt.pepHits
  | _ => none

/-- What the register at an offset of the window reads; none where no register is defined (R113). -/
def regRead (s : State) (off : Nat) : Option Nat :=
  match stAt off with
  | some r => some (stValue s r)
  | none =>
    match hitAt off with
    | some r => some (stGet s r).hit.toNat
    | none =>
      let o := off % 0x1000000
      let die := fun (g : State → Die → Nat → Option Nat) => if o < 0x200 then g s (dieOf (o / 0x100)) (o % 0x100) else none
      match off / 0x1000000 with
      | 0x00 => cfgRead s o
      | 0x01 => prtRead s (o / 0x40000) (o % 0x40000)
      | 0x02 => if o < 0x40000 then prtRead s 64 o else none
      | 0x03 => swcRead s (dieOf (o / 0x800000)) (o % 0x800000)
      | 0x04 => homRead s o
      | 0x05 => die cohRead
      | 0x06 => die tierRead
      | 0x07 => ftlRead s o
      | 0x08 => podRead s .d0 o
      | 0x09 => podRead s .d1 o
      | 0x0A => die colRead
      | 0x0B => attRead s o
      | 0x0C => cmpRead s o
      | 0x0D => ctxRead s (o / 0x1000) (o % 0x1000)
      | 0x0E => secRead s o
      | 0x0F => mtrRead s o
      | 0x10 => fltRead s o
      | 0x11 => modRead s o
      | 0x12 => pepRead s o
      | _ => none

/-- What a read leaves behind: a read-clears field holds zero (R11, R13). -/
def readClear (s : State) (off : Nat) : State :=
  match hitAt off with
  | some r => stUpd s r (fun x => { x with hit := 0 })
  | none =>
    let p := if 0x02000000 ≤ off then 64 else (off - 0x01000000) / 0x40000
    if 0x01000000 ≤ off ∧ off < 0x02040000 then
      match off % 0x40000 with
      | 0x18 => modPort s p (fun x => { x with fecCorr := 0 })
      | 0x20 => modPort s p (fun x => { x with fecUncorr := 0 })
      | 0x28 => modPort s p (fun x => { x with replayCount := 0 })
      | _ => s
    else if off = 0x03000058 then modSwc s .d0 (fun w => { w with sampleDrop := 0 })
    else if off = 0x03800058 then modSwc s .d1 (fun w => { w with sampleDrop := 0 })
    else if off = 0x12000008 then modFlt s (fun x => { x with pepHits := 0 })
    else s

/-! Select windows: what a select write takes -/

/-- HOM.EXT_SEL (R85, R86). -/
def selExt (v : Nat) (s : State) : State :=
  let i := v % 2 ^ 24
  let w := fun (l : List (Nat × Nat)) => (BitVec.ofNat 64 (packed l) : Word)
  match extOf s i with
  | none => { s with extSel := w [(i, 0)], extRec := [0, 0, 0] }
  | some e =>
    let st := extPhase s e.die i
    if st = .free then { s with extSel := w [(i, 0)], extRec := [0, 0, 0] }
    else
      let gs := (recsOf s RT.grant).filter (fun r => le r.body 0 4 % 2 ^ 20 == i)
      { s with
        extSel := w [(1, 63), (i, 0)],
        extRec := [
          w [(e.base / 2 ^ 21, 33), (e.size / 2 ^ 21, 2)],
          w [(e.owner, 52), (b2n e.classT, 51), (b2n e.durable, 50), (e.policy, 47), (dieNum e.die, 46), (extStateCode st, 44),
            (e.comp.getD 0, 34), (b2n e.comp.isSome, 33), (e.replica, 17)],
          w [(gs.head?.elim 0 (·.key), 42), (gs.length, 30)]] }

/-- HOM.OBJ_SEL (R75, R85). LOCATION is private to the tier, and the manual gives INBOUND no code: both are free values. -/
def selObj (v : Nat) (s : State) : State :=
  let id := v % 2 ^ 24
  let w := fun (l : List (Nat × Nat)) => (BitVec.ofNat 64 (packed l) : Word)
  match get? s.objs id with
  | none => { s with objSel := w [(id, 0)], objRec := [0, 0, 0, 0, 0, 0, 0, 0] }
  | some o =>
    match drawFree s with
    | (k, s0) =>
      match drawFree s0 with
      | (j, s1) =>
        let st := match o.st with
          | .resident => 1
          | .moving => 2
          | .freeing => 3
          | .inbound => (Config.freeValue j).toNat % 4
        { s1 with
          objSel := w [(1, 63), (id, 0)],
          objRec := [
            w [(id, 40), (o.owner, 28), (o.tier, 26), (st, 24), (o.kind, 16), (o.pins, 0)],
            w [(o.addr, 0)],
            w [(o.size, 27), (o.ext, 7)],
            w [(o.epoch, 32), (o.refcount, 0)],
            Config.freeValue k,
            w [(o.gen, 36), (o.comp.getD 0, 26), (b2n o.comp.isSome, 25)],
            w [(o.ses, 44), (o.layer, 32), (o.hg, 24)],
            0] }

/-- COH.DIR_SEL (R228): the line is the offset's bits 51 to 6. -/
def selDir (d : Die) (v : Nat) (s : State) : State :=
  let i := v % 2 ^ 46
  let line := s.cfg.switchId * 2 ^ 46 + i
  let w := fun (l : List (Nat × Nat)) => (BitVec.ofNat 64 (packed l) : Word)
  modCoh s d (fun c =>
    match get? c.dir line with
    | none => { c with sel := w [(i, 0)], rec0 := 0, rec1 := 0 }
    | some e =>
      let waiters := ((side s.home d).waiting.filter (fun x => lineQueued s x && (waitLines s x).contains line)).length
      { c with
        sel := w [(1, 63), (i, 0)],
        rec0 := w [(i, 18), (lineCode e.st, 15), (e.domain, 10), (min e.ptrs.length 4, 7)],
        rec1 := w ((rangeFrom 0 4).map (fun k => (nth e.ptrs k 0, 56 - 8 * k)) ++
          [(e.txn.elim 0 (fun t => t.awaited.length), 16), (min waiters 0xFFFF, 0)]) })

/-- POD.CORE_SEL (R316). -/
def selCore (d : Die) (v : Nat) (s : State) : State :=
  let p := v % 1024
  let w := fun (l : List (Nat × Nat)) => (BitVec.ofNat 64 (packed l) : Word)
  let c := coreOf s d p
  let rec_ := packed [(coreCode c.st, 61), (c.slot.getD 0, 52), (c.item.elim 0 (·.service), 46),
    (c.item.elim c.lastShown (·.ctx), 34), (liveCount c, 29)]
  modPod s d (fun x =>
    if p < 528 then { x with sel := w [(1, 63), (p, 0)], selRec := BitVec.ofNat 64 rec_ } else { x with sel := w [(p, 0)], selRec := 0 })

/-- ATT.SES_SEL (R365). -/
def selSes (v : Nat) (s : State) : State :=
  let i := v % 2 ^ 20
  let w := fun (l : List (Nat × Nat)) => (BitVec.ofNat 64 (packed l) : Word)
  match get? s.sessions i with
  | none => { s with sesSel := w [(i, 0)], sesRec := [0, 0, 0] }
  | some x =>
    { s with
      sesSel := w [(1, 63), (i, 0)],
      sesRec := [
        w [(sesCode x.st, 62), (x.owner, 50), ((extOf s x.ext).elim 0 (fun e => dieNum e.die), 49), (b2n x.image, 48), (x.layers, 35), (x.groups, 26),
          (x.qheads, 21), (x.log2, 17), (x.fmt, 14), (x.dim, 4)],
        w [(x.window, 32), (x.ext, 12), (x.service, 6), (x.ringExtra, 2)],
        w [(tokensOf x, 32), (x.pages.length, 0)]] }

/-- FLT.FENCE_SEL (R470): an endpoint is in the federation when its switch has a map entry. -/
def selFence (v : Nat) (s : State) : State :=
  let ep := v % 2 ^ 20
  let w := fun (l : List (Nat × Nat)) => (BitVec.ofNat 64 (packed l) : Word)
  modFlt s (fun x =>
    if (get? x.switches (epSwitch ep)).isSome then
      { x with fenceSel := w [(1, 63), (ep, 0)], fenceRec := w [((getD x.fence ep 0).toNat, 48), (b2n (x.fencing.any (fun f => f.ep == ep)), 47)] }
    else { x with fenceSel := w [(ep, 0)], fenceRec := 0 })

/-- FLT.SWITCH_SEL (R470). -/
def selSwitch (v : Nat) (s : State) : State :=
  let i := v % 4096
  let w := fun (l : List (Nat × Nat)) => (BitVec.ofNat 64 (packed l) : Word)
  modFlt s (fun x =>
    match get? x.switches i with
    | some e => { x with switchSel := w [(1, 63), (i, 0)], switchRec := w [(switchCode e.st, 62), (e.answer, 50)] }
    | none => { x with switchSel := w [(i, 0)], switchRec := 0 })

/-- FLT.COMP_SEL (R470). -/
def selComp (v : Nat) (s : State) : State :=
  let i := v % 1024
  let w := fun (l : List (Nat × Nat)) => (BitVec.ofNat 64 (packed l) : Word)
  let c := compOf s i
  modFlt s (fun x =>
    if (recOf s RT.composition i).isSome then
      { x with compSel := w [(1, 63), (i, 0)], compRec := w [(b2n c.failed, 63), (c.cause, 60), (c.epoch, 0)] }
    else { x with compSel := w [(i, 0)], compRec := 0 })

/-! Writes: the status and the effect. A register that only reads ignores a write -/

/-- SWC.SAMPLE_CFG: accepted whole or not at all (R167). -/
def sampleCfg (d : Die) (v : Nat) (s : State) : BitVec 5 × State :=
  let n := fld v 15 11
  if n = 0 ∨ 24 < n then (Sts.length, s)
  else if bitAt v 3 && !(s.sec.unlocked && s.sec.scope.getLsbD 1) then (Sts.denied, s)
  else (Sts.ok, modSwc s d (fun w => { w with
    log2n := n, trunc := fld v 10 8, payload := bitAt v 3, egress := bitAt v 2, ingress := bitAt v 1, enable := bitAt v 0 }))

/-- SWC of a die (R167). -/
def swcWrite (d : Die) (o v : Nat) (s : State) : BitVec 5 × State :=
  match o with
  | 0x30 => (Sts.ok, modSwc s d (fun w => { w with arbWeight := (rangeFrom 0 5).map (fun k => fld v (8 * k + 7) (8 * k)) }))
  | 0x40 => sampleCfg d v s
  | 0x48 => (Sts.ok, modSwc s d (fun w => { w with samplePorts := BitVec.ofNat 33 (if d = .d0 then v % 2 ^ 33 else v % 2 ^ 32) }))
  | 0x50 => (Sts.ok, modSwc s d (fun w => { w with sampleDest := BitVec.ofNat 20 v }))
  | _ => (Sts.ok, s)

/-- HOM (R85, R196). -/
def homWrite (o v : Nat) (s : State) : BitVec 5 × State :=
  if o = 0x1000 then (Sts.ok, selExt v s)
  else if o = 0x1100 then (Sts.ok, selObj v s)
  else if o = 0x2000 ∨ o = 0x2100 then
    if v % 256 = 0 then (Sts.length, s)
    else (Sts.ok, modHome s (dieOf ((o - 0x2000) / 0x100)) (fun h => { h with combineEn := bitAt v 16, ageUs := v % 256 }))
  else (Sts.ok, s)

/-- COH of a die (R228). -/
def cohWrite (d : Die) (o v : Nat) (s : State) : BitVec 5 × State :=
  match o with
  | 0x00 => if v % 256 = 0 then (Sts.length, s) else (Sts.ok, modCoh s d (fun c => { c with ackTimeoutMs := v % 256 }))
  | 0x28 => (Sts.ok, selDir d v s)
  | _ => (Sts.ok, s)

/-- TIER.CC_FLUSH: every line dirty now is written back (R253). -/
def ccFlushAll (d : Die) (s : State) : State :=
  let lines := ((side s.tier d).cc.filter (fun l => l.2.dirty)).map (·.1)
  lines.foldl (fun t l => ccWriteback d l t) (modTier s d (fun t => { t with flush := lines.foldl (fun f l => insertNat l f) t.flush }))

/-- TIER of a die (R253). -/
def tierWrite (d : Die) (o v : Nat) (s : State) : BitVec 5 × State :=
  let lo := fld v 15 0
  let hi := fld v 31 16
  match o with
  | 0x00 =>
    if lo = 0 ∨ hi ≤ lo ∨ 56320 < hi then (Sts.length, s)
    else (Sts.ok, modTier s d (fun t => { t with
      refillEn := bitAt v 41, spillEn := bitAt v 40, prefetchDepth := fld v 35 32, highWm := hi, lowWm := lo }))
  | 0x48 => (Sts.ok, if bitAt v 0 then ccFlushAll d s else s)
  | _ => (Sts.ok, s)

/-- FTL of a die (R279). A RETRY_MAX above 16 is outside its range and LENGTH as well (R17). -/
def ftlWrite (d : Die) (o v : Nat) (s : State) : BitVec 5 × State :=
  let f := fun (k : Nat) => fld v (8 * k + 7) (8 * k)
  match o with
  | 0x00 =>
    if (rangeFrom 0 8).any (fun k => f k == 0) ∨ f 3 ≤ f 4 ∨ 16 < f 7 then (Sts.length, s)
    else (Sts.ok, modFtl s d (fun x => { x with
      retryMax := f 7, eccRefresh := f 6, foldLow := f 5, gcLow := f 4, gcHigh := f 3, wearSpread16 := f 2, disturbK := f 1, retainW := f 0 }))
  | 0x08 => (Sts.ok, modFtl s d (fun x => { x with levelMap0 := BitVec.ofNat 64 v }))
  | 0x10 => (Sts.ok, modFtl s d (fun x => { x with levelMap1 := BitVec.ofNat 64 v }))
  | _ => (Sts.ok, s)

/-- POD.RETIRE: the core retires once its item ends; a spare leaves the spares (R281, R316). -/
def podRetire (d : Die) (p : Nat) (s : State) : BitVec 5 × State :=
  if 528 ≤ p then (Sts.length, s)
  else
    let c := coreOf s d p
    if c.item.isSome ∨ c.st = .running then (Sts.ok, putCore d p { c with retireAfter := true } s) else (Sts.ok, retireCore d p s)

/-- POD of a die (R316). -/
def podWrite (d : Die) (o v : Nat) (s : State) : BitVec 5 × State :=
  match o with
  | 0x00 =>
    if v % 2 ^ 16 = 0 then (Sts.length, s) else (Sts.ok, modPod s d (fun x => { x with selftestS := fld v 31 16, budget := fld v 15 0 }))
  | 0x20 => (Sts.ok, selCore d v s)
  | 0x30 => podRetire d (v % 1024) s
  | _ => (Sts.ok, s)

/-- COL of a die (R337). -/
def colWrite (d : Die) (o v : Nat) (s : State) : BitVec 5 × State :=
  match o with
  | 0x00 => if v % 2 ^ 16 = 0 then (Sts.length, s) else (Sts.ok, modCol s d (fun x => { x with instTimeout := v % 2 ^ 16 }))
  | _ => (Sts.ok, s)

/-- ATT (R365). -/
def attWrite (o v : Nat) (s : State) : BitVec 5 × State :=
  if o = 0x000 ∨ o = 0x100 then
    if v % 256 = 0 then (Sts.length, s) else (Sts.ok, modCol s (dieOf (o / 0x100)) (fun x => { x with ahead := v % 256 }))
  else if o = 0x1000 then (Sts.ok, selSes v s)
  else (Sts.ok, s)

/-- CMP (R377). -/
def cmpWrite (o v : Nat) (s : State) : BitVec 5 × State :=
  if 0x10000 ≤ o then
    (Sts.ok, { s with
    cmp := { s.cmp with
      ctxCode := sput s.cmp.ctxCode ((o - 0x10000) / 8) (BitVec.ofNat 9 (b2n (bitAt v 8) * 256 + v % 16)) } })
  else (Sts.ok, s)

/-- A quota's LIMIT (R80, R81): below the charge it raises OVER_QUOTA once, until the charge is back at the limit. -/
def quotaWrite (c tier v : Nat) (s : State) : BitVec 5 × State :=
  let n := v % 2 ^ 32
  if n = 0xFFFFFFFF then (Sts.length, s)
  else
    let s1 := modCtx s c (fun x => { x with limits := setAt x.limits tier n })
    if overLimit s1 c tier 0 then
      if nth (ctxOf s c).overTier tier false then (Sts.ok, s1)
      else (Sts.ok, overQuota c tier (modCtx s1 c (fun x => { x with overTier := setAt x.overTier tier true })))
    else (Sts.ok, modCtx s1 c (fun x => { x with overTier := setAt x.overTier tier false }))

/-- CTX of a context (R81). -/
def ctxWrite (c o v : Nat) (s : State) : BitVec 5 × State :=
  match o with
  | 0x100 => quotaWrite c 0 v s
  | 0x108 => quotaWrite c 1 v s
  | 0x110 => quotaWrite c 2 v s
  | _ => (Sts.ok, s)

/-- SEC (R409, R412, R423). -/
def secWrite (o v : Nat) (s : State) : BitVec 5 × State :=
  match o with
  | 0x38 => (Sts.denied, s)
  | 0x40 => (Sts.denied, s)
  | 0x48 => fwCtlWrite v s
  | 0x50 => (Sts.ok, modSec s (fun x => { x with windowBase := fld v 27 16 }))
  | _ => (Sts.ok, s)

/-- MTR (R442). -/
def mtrWrite (o v : Nat) (s : State) : BitVec 5 × State :=
  match o with
  | 0x10 => (Sts.ok, if bitAt v 0 then detachWrite s else s)
  | 0x40 => (Sts.denied, s)
  | _ => (Sts.ok, s)

/-- FLT (R460, R470). -/
def fltWrite (ep o v : Nat) (s : State) : BitVec 5 × State :=
  match o with
  | 0x00 =>
    if fld v 7 0 = 0 ∨ fld v 15 8 = 0 then (Sts.length, s) else (Sts.ok, modFlt s (fun x => { x with ackDeadMs := fld v 15 8, graceMs := fld v 7 0 }))
  | 0x20 => (Sts.ok, selFence v s)
  | 0x30 => (Sts.ok, selSwitch v s)
  | 0x40 => (Sts.ok, modFlt s (fun x => { x with xferSrc := BitVec.ofNat 64 v }))
  | 0x48 => (Sts.ok, modFlt s (fun x => { x with xferDst := BitVec.ofNat 64 v }))
  | 0x50 => if bitAt v 0 then xferGo ep s else (Sts.ok, s)
  | 0x60 => (Sts.ok, selComp v s)
  | _ => (Sts.ok, s)

/-- MOD (R491). -/
def modWrite (o v : Nat) (s : State) : BitVec 5 × State :=
  if o = 0x010 ∨ o = 0x110 then spareLane (dieOf (o / 0x100)) (fld v 15 8) (v % 8) s
  else if o = 0x1010 then (Sts.ok, modMod s (fun m => { m with autoRow := bitAt v 2, autoPc := bitAt v 1, autoLane := bitAt v 0 }))
  else if o = 0x1018 then sparePc (fld v 9 8) (fld v 5 0) s
  else if o = 0x1020 then (Sts.ok, modMod s (fun m => { m with led := BitVec.ofNat 2 v }))
  else (Sts.ok, s)

/-- A write of a value to the register at an offset, by an endpoint: its status and its effect. -/
def regWrite (ep off v : Nat) (s : State) : BitVec 5 × State :=
  match stAt off with
  | some r => (Sts.ok, stUpd s r (fun x => x.clear v (stMask r)))
  | none =>
    if (hitAt off).isSome then (Sts.ok, s)
    else
      let o := off % 0x1000000
      match off / 0x1000000 with
      | 0x03 => swcWrite (dieOf (o / 0x800000)) (o % 0x800000) v s
      | 0x04 => homWrite o v s
      | 0x05 => cohWrite (dieOf (o / 0x100)) (o % 0x100) v s
      | 0x06 => tierWrite (dieOf (o / 0x100)) (o % 0x100) v s
      | 0x07 => if o < 0x200000 then ftlWrite (dieOf (o / 0x100000)) (o % 0x100000) v s else (Sts.ok, s)
      | 0x08 => podWrite .d0 o v s
      | 0x09 => podWrite .d1 o v s
      | 0x0A => colWrite (dieOf (o / 0x100)) (o % 0x100) v s
      | 0x0B => attWrite o v s
      | 0x0C => cmpWrite o v s
      | 0x0D => ctxWrite (o / 0x1000) (o % 0x1000) v s
      | 0x0E => secWrite o v s
      | 0x0F => mtrWrite o v s
      | 0x10 => fltWrite ep o v s
      | 0x11 => modWrite o v s
      | _ => (Sts.ok, s)

/-! An access (R9, R58, R111, R172, R408, R409) -/

/-- The offset of an access in the control window. -/
def regOff (f : Frame) : Nat := addrOff f.addr.toNat - winBase

/-- Does an offset lie in the firmware aperture (R409)? -/
def inAperture (off : Nat) : Bool := decide (0x0E100000 ≤ off) && decide (off < 0x0E110000)

/-- Only LD and ST without CMP access the window (R111); their forms are those of R168. -/
def regFormBad (f : Frame) : Option (BitVec 5) :=
  if f.opcode = Opc.ld ∨ (f.opcode = Opc.st ∧ !f.cmp) then memFormBad f else some Sts.format

/-- A register access is exactly 8 bytes, 8-byte aligned (R9); a store to the aperture 8 to 4,096 bytes, 8-byte aligned (R409). -/
def regAligned (f : Frame) : Bool :=
  let n := accessLen f
  regOff f % 8 == 0 && (if f.opcode == Opc.st && inAperture (regOff f) then decide (8 ≤ n) && decide (n ≤ 4096) else n == 8)

/-- Is there something at the offset of an access: a register, or for a store the aperture? -/
def regThere (s : State) (f : Frame) : Bool :=
  if f.opcode == Opc.st && inAperture (regOff f) then decide (regOff f + accessLen f ≤ 0x0E110000) else (regRead s (regOff f)).isSome

/-- The checks of an access in their order (R172): form, alignment, the context, the offset, context 0. -/
def regBad (s : State) (f : Frame) : Option (BitVec 5) :=
  firstBad [
    regFormBad f,
    if regAligned f then none else some Sts.align,
    admitBad s s.cfg.activeSp f,
    if foreign s f.addr.toNat then some Sts.homelost else none,
    if regThere s f then none else some Sts.nohome,
    if f.ctx = 0 then none else some Sts.denied]

/-- In recovery nothing is admitted and only the SEC block is served (R408). -/
def recoveryBad (s : State) (f : Frame) : Option (BitVec 5) :=
  firstBad [
    regFormBad f,
    if regAligned f then none else some Sts.align,
    if regOff f / 0x1000000 = 0x0E ∧ regThere s f then none else some Sts.nohome]

/-- The effect of an access that passes its checks: status, payload, state. -/
def regPerform (f : Frame) (s : State) : BitVec 5 × Bytes × State :=
  let off := regOff f
  if f.opcode = Opc.ld then (Sts.ok, toLE 8 ((regRead s off).getD 0), readClear s off)
  else if inAperture off then
    match apertureWrite (off - 0x0E100000) f.payload s with
    | (st, s1) => (st, [], s1)
  else
    match regWrite f.srcEp.toNat off (le f.payload 0 8) s with
    | (st, s1) => (st, [], s1)

/-- Answer an access from the active service processor's die. -/
def regAnswer (f : Frame) (st : BitVec 5) (b : Bytes) (s : State) : State :=
  if st = Sts.ok then answer s.cfg.activeSp f st b s else refuse s.cfg.activeSp f st s

/-- Answer an access in recovery: at H0, whatever the switch IDs say, straight to the wire when the image starts (R408). -/
def recoveryAnswer (f : Frame) (st : BitVec 5) (b : Bytes) (s : State) : State :=
  let rsp := mkRsp s .d0 f (rspOpc f.opcode) st b 0
  match allocCells .d0 (cellsOf b.length) s with
  | (cells, s1) => pushOut .d0 (.sub 64 0) { frame := rsp, cells := cells } s1

/-- An access of the window in recovery; an image that passes END starts at once, its answer sent before (R408). -/
def recoveryAccess (f : Frame) (s : State) : State :=
  match recoveryBad s f with
  | some st => recoveryAnswer f st [] s
  | none =>
    match regPerform f s with
    | (st, b, s1) =>
      let v := le f.payload 0 8
      if f.opcode = Opc.st ∧ regOff f = 0x0E000048 ∧ fld v 63 60 = 2 ∧ st = Sts.ok then
        let rsp := mkRsp s1 .d0 f (rspOpc f.opcode) st b 0
        startImage (fld v 56 56) (modLft s1 (fun l => { l with sent := l.sent ++ [{ port := 64, sub := 0, trailer := {}, frame := rsp }] }))
      else recoveryAnswer f st b s1

/-- An access of the control window, in the service processor's single order of acceptance: it waits while the processor reads an
authorisation (R111, R413). -/
def regAccess (f : Frame) (s0 : State) : State :=
  if s0.cfg.authWait.isSome then s0
  else
    let s := takeSp f s0
    if s.sec.recovery then recoveryAccess f s
    else
      match regBad s f with
      | some st => regAnswer f st [] s
      | none =>
        match regPerform f (tapBytes s.cfg.activeSp f.ctx.toNat f.tc.toNat 0 f.length.toNat s) with
        | (st, b, s1) => regAnswer f st b s1

/-! The commands -/

/-- A step of a register command that goes on. -/
def regOk (s : State) : Host.Outcome State Fault Refusal := .next s

/-- Is a frame an access of the window whose offset, within a stride of copies, is one of those given? -/
def regAt (opc : Byte) (f : Frame) (p : Nat → Bool) : Bool := f.opcode == opc && inWindow (addrOff f.addr.toNat) && p (regOff f)

/-- A store that the row's register takes; a frame of any other form is no such command and changes nothing. -/
def regRow (f : Frame) (p : Nat → Bool) (s : State) : State := if regAt Opc.st f p then regAccess f s else s

/-- A write of a CMD of SEC.FW_CTL. -/
def fwRow (cmd : Nat) (f : Frame) (s : State) : State := if fld (le f.payload 0 8) 63 60 = cmd then regRow f (· == 0x0E000048) s else s

/-- REGISTER_WRITE. -/
def execRegisterWrite (f : Frame) (s : State) : Host.Outcome State Fault Refusal := regOk (regRow f (fun _ => true) s)

/-- REGISTER_READ_CLEAR. -/
def execRegisterReadClear (f : Frame) (s : State) : Host.Outcome State Fault Refusal :=
  regOk (if regAt Opc.ld f (fun _ => true) then regAccess f s else s)

/-- QUOTA_LIMIT_WRITE. -/
def execQuotaLimitWrite (f : Frame) (s : State) : Host.Outcome State Fault Refusal :=
  regOk (regRow f (fun o => o / 0x1000000 == 0x0D && (o % 0x1000 == 0x100 || o % 0x1000 == 0x108 || o % 0x1000 == 0x110)) s)

/-- EXT_SEL_WRITE. -/
def execExtSelWrite (f : Frame) (s : State) : Host.Outcome State Fault Refusal := regOk (regRow f (· == 0x04001000) s)

/-- OBJ_SEL_WRITE. -/
def execObjSelWrite (f : Frame) (s : State) : Host.Outcome State Fault Refusal := regOk (regRow f (· == 0x04001100) s)

/-- DIR_SEL_WRITE. -/
def execDirSelWrite (f : Frame) (s : State) : Host.Outcome State Fault Refusal :=
  regOk (regRow f (fun o => o == 0x05000028 || o == 0x05000128) s)

/-- CORE_SEL_WRITE. -/
def execCoreSelWrite (f : Frame) (s : State) : Host.Outcome State Fault Refusal :=
  regOk (regRow f (fun o => o == 0x08000020 || o == 0x09000020) s)

/-- SES_SEL_WRITE. -/
def execSesSelWrite (f : Frame) (s : State) : Host.Outcome State Fault Refusal := regOk (regRow f (· == 0x0B001000) s)

/-- FENCE_SEL_WRITE. -/
def execFenceSelWrite (f : Frame) (s : State) : Host.Outcome State Fault Refusal := regOk (regRow f (· == 0x10000020) s)

/-- SWITCH_SEL_WRITE. -/
def execSwitchSelWrite (f : Frame) (s : State) : Host.Outcome State Fault Refusal := regOk (regRow f (· == 0x10000030) s)

/-- COMP_SEL_WRITE. -/
def execCompSelWrite (f : Frame) (s : State) : Host.Outcome State Fault Refusal := regOk (regRow f (· == 0x10000060) s)

/-- POD_RETIRE_WRITE. -/
def execPodRetireWrite (f : Frame) (s : State) : Host.Outcome State Fault Refusal :=
  regOk (regRow f (fun o => o == 0x08000030 || o == 0x09000030) s)

/-- SAMPLE_CFG_WRITE. -/
def execSampleCfgWrite (f : Frame) (s : State) : Host.Outcome State Fault Refusal :=
  regOk (regRow f (fun o => o == 0x03000040 || o == 0x03800040) s)

/-- CC_FLUSH. -/
def execCcFlush (f : Frame) (s : State) : Host.Outcome State Fault Refusal :=
  regOk (regRow f (fun o => o == 0x06000048 || o == 0x06000148) s)

/-- CC_FLUSH_DONE: what was to be written back and is dirty no longer is done (R253). -/
def execCcFlushDone (d : Die) (s : State) : Host.Outcome State Fault Refusal :=
  regOk (modTier s d (fun t => { t with flush := t.flush.filter (fun l => (get? t.cc l).elim false (·.dirty)) }))

/-- XFER_GO. -/
def execXferGo (f : Frame) (s : State) : Host.Outcome State Fault Refusal := regOk (regRow f (· == 0x10000050) s)

/-- METER_DETACH_WRITE. -/
def execMeterDetachWrite (f : Frame) (s : State) : Host.Outcome State Fault Refusal := regOk (regRow f (· == 0x0F000010) s)

/-- FW_BEGIN. -/
def execFwBegin (f : Frame) (s : State) : Host.Outcome State Fault Refusal := regOk (fwRow 1 f s)

/-- FW_END. -/
def execFwEnd (f : Frame) (s : State) : Host.Outcome State Fault Refusal := regOk (fwRow 2 f s)

/-- FW_ABORT. -/
def execFwAbort (f : Frame) (s : State) : Host.Outcome State Fault Refusal := regOk (fwRow 3 f s)

/-- FW_COMMIT. -/
def execFwCommit (f : Frame) (s : State) : Host.Outcome State Fault Refusal := regOk (fwRow 4 f s)

/-- FW_APERTURE_WRITE. -/
def execFwApertureWrite (f : Frame) (s : State) : Host.Outcome State Fault Refusal := regOk (regRow f inAperture s)

/-- LANE_SPARE_WRITE. -/
def execLaneSpareWrite (f : Frame) (s : State) : Host.Outcome State Fault Refusal :=
  regOk (regRow f (fun o => o == 0x11000010 || o == 0x11000110) s)

/-- PC_SPARE_WRITE. -/
def execPcSpareWrite (f : Frame) (s : State) : Host.Outcome State Fault Refusal := regOk (regRow f (· == 0x11001018) s)

end Machine
end Sys2Proof
end

