-- ==== Sys2Proof/Machine/MemCmds.lean ====
section
/-! DEFINITION. LD and ST (R172): performed at their home, or, within the control window, an access to the registers (R111). -/

namespace Sys2Proof
namespace Machine

/-- A load or store at its home or at the registers. -/
def loadStore (d : Die) (f : Frame) (ecc : List Nat) (s : State) : State := if toSp f then regAccess f s else acceptMem d f ecc s

/-- LD. -/
def execLd (d : Die) (r : DramRead) (s : State) : Host.Outcome State Fault Refusal :=
  .next (if r.frame.opcode = Opc.ld then loadStore d r.frame r.ecc s else s)

/-- ST. -/
def execSt (d : Die) (f : Frame) (s : State) : Host.Outcome State Fault Refusal :=
  .next (if f.opcode = Opc.st then loadStore d f [] s else s)

end Machine
end Sys2Proof
end

