-- ==== Sys2Proof/Machine/Pod.lean ====
section
/-! DEFINITION. The pod-core instructions (R287, R288, R293 to R304, R370) and the events of cores and threads. Each is the issue of
one instruction by the core's current thread. -/

namespace Sys2Proof
namespace Machine

/-- The outcome of a command that completes. -/
abbrev ok (s : State) : Host.Outcome State Fault Refusal := .next s

/-! Control -/

/-- An instruction of the control class that uses no field but those named. -/
def ctlIns (d : Die) (p : Nat) (okW : Bool) (g : Thread → Thread × Fate) (s : State) : State := issue d p okW (pure1 g) s

/-- NOP. -/
def execPodNop (d : Die) (core : Nat) (w : PodF) (s : State) : Host.Outcome State Fault Refusal :=
  ok (ctlIns d core (fieldsOk w false false false false false false false false) (fun t => (t, .next)) s)

/-- END. -/
def execPodEnd (d : Die) (core : Nat) (w : PodF) (s : State) : Host.Outcome State Fault Refusal :=
  ok (ctlIns d core (fieldsOk w false false false false false false false false) (fun t => (t, .ended)) s)

/-- The IMM of an instruction that uses its low bits only (DEDUCED, log 31). -/
def immLow (w : PodF) (bits : Nat) : Bool := decide (w.imm.toNat < 2 ^ bits)

/-- JMP. -/
def execPodJmp (d : Die) (core : Nat) (w : PodF) (s : State) : Host.Outcome State Fault Refusal :=
  ok (ctlIns d core (fieldsOk w false false false false false false false true && immLow w 13)
    (fun t => (t, .branch w.imm.toNat)) s)

/-- A conditional branch. -/
def branchIns (d : Die) (p : Nat) (w : PodF) (test : Word → Word → Bool) (s : State) : State :=
  ctlIns d p (fieldsOk w false true true false false false false true && immLow w 13)
    (fun t => (t, if test (sreg t w.a.toNat) (sreg t w.b.toNat) then .branch w.imm.toNat else .next)) s

/-- BEQ. -/
def execPodBeq (d : Die) (core : Nat) (w : PodF) (s : State) : Host.Outcome State Fault Refusal :=
  ok (branchIns d core w (fun a b => a == b) s)
/-- BNE. -/
def execPodBne (d : Die) (core : Nat) (w : PodF) (s : State) : Host.Outcome State Fault Refusal :=
  ok (branchIns d core w (fun a b => a != b) s)
/-- BLT. -/
def execPodBlt (d : Die) (core : Nat) (w : PodF) (s : State) : Host.Outcome State Fault Refusal :=
  ok (branchIns d core w (fun a b => a.slt b) s)
/-- BLTU. -/
def execPodBltu (d : Die) (core : Nat) (w : PodF) (s : State) : Host.Outcome State Fault Refusal :=
  ok (branchIns d core w (fun a b => a.ult b) s)

/-- BAR. -/
def execPodBar (d : Die) (core : Nat) (w : PodF) (s : State) : Host.Outcome State Fault Refusal :=
  ok (ctlIns d core (fieldsOk w false false false false false false false false) (fun t => (t, .bar)) s)

/-- FAULT. -/
def execPodFault (d : Die) (core : Nat) (w : PodF) (s : State) : Host.Outcome State Fault Refusal :=
  ok (ctlIns d core (fieldsOk w false false false false false false false true && immLow w 5)
    (fun t => (t, .fault (BitVec.ofNat 5 w.imm.toNat))) s)

/-- RDFLG. -/
def execPodRdflg (d : Die) (core : Nat) (w : PodF) (s : State) : Host.Outcome State Fault Refusal :=
  ok (ctlIns d core (fieldsOk w true false false false false false false false)
    (fun t => ({ setSreg t w.d.toNat (t.flags.setWidth 64) with flags := 0 }, .next)) s)

/-- RDPACE: the latest pace (R45). -/
def execPodRdpace (d : Die) (core : Nat) (w : PodF) (s : State) : Host.Outcome State Fault Refusal :=
  ok (ctlIns d core (fieldsOk w true false false false false false false false)
    (fun t => (setSreg t w.d.toNat (BitVec.ofNat 64 (side s.mod.dies d).pace), .next)) s)

/-- RDTIME: the interval timer in nanoseconds. -/
def execPodRdtime (d : Die) (core : Nat) (w : PodF) (s : State) : Host.Outcome State Fault Refusal :=
  ok (ctlIns d core (fieldsOk w true false false false false false false false)
    (fun t => (setSreg t w.d.toNat (BitVec.ofNat 64 (timerOf s d)), .next)) s)

/-- INFO: its IMM must be 0x10. -/
def execPodInfo (d : Die) (core : Nat) (w : PodF) (s : State) : Host.Outcome State Fault Refusal :=
  ok (issue d core (fieldsOk w false false false false false false false true && w.imm == 0x10)
    (fun s c t => ⟨s, { c with info := true }, t, .next⟩) s)

/-! Scalar -/

/-- s[D] := s[A] op s[B]. -/
def alu (d : Die) (p : Nat) (w : PodF) (op : Word → Word → Word) (s : State) : State :=
  ctlIns d p (fieldsOk w true true true false false false false false)
    (fun t => (setSreg t w.d.toNat (op (sreg t w.a.toNat) (sreg t w.b.toNat)), .next)) s

/-- ADD. -/
def execPodAdd (d : Die) (core : Nat) (w : PodF) (s : State) : Host.Outcome State Fault Refusal := ok (alu d core w (· + ·) s)
/-- SUB. -/
def execPodSub (d : Die) (core : Nat) (w : PodF) (s : State) : Host.Outcome State Fault Refusal := ok (alu d core w (· - ·) s)
/-- MUL: the low 64 bits. -/
def execPodMul (d : Die) (core : Nat) (w : PodF) (s : State) : Host.Outcome State Fault Refusal := ok (alu d core w (· * ·) s)
/-- AND. -/
def execPodAnd (d : Die) (core : Nat) (w : PodF) (s : State) : Host.Outcome State Fault Refusal := ok (alu d core w (· &&& ·) s)
/-- OR. -/
def execPodOr (d : Die) (core : Nat) (w : PodF) (s : State) : Host.Outcome State Fault Refusal := ok (alu d core w (· ||| ·) s)
/-- XOR. -/
def execPodXor (d : Die) (core : Nat) (w : PodF) (s : State) : Host.Outcome State Fault Refusal := ok (alu d core w (· ^^^ ·) s)
/-- SHL: by s[B] mod 64. -/
def execPodShl (d : Die) (core : Nat) (w : PodF) (s : State) : Host.Outcome State Fault Refusal :=
  ok (alu d core w (fun a b => a <<< (b.toNat % 64)) s)
/-- SHR: by s[B] mod 64. -/
def execPodShr (d : Die) (core : Nat) (w : PodF) (s : State) : Host.Outcome State Fault Refusal :=
  ok (alu d core w (fun a b => a >>> (b.toNat % 64)) s)
/-- SRA: by s[B] mod 64. -/
def execPodSra (d : Die) (core : Nat) (w : PodF) (s : State) : Host.Outcome State Fault Refusal :=
  ok (alu d core w (fun a b => a.sshiftRight (b.toNat % 64)) s)
/-- MIN, signed. -/
def execPodMin (d : Die) (core : Nat) (w : PodF) (s : State) : Host.Outcome State Fault Refusal :=
  ok (alu d core w (fun a b => if a.slt b then a else b) s)
/-- MAX, signed. -/
def execPodMax (d : Die) (core : Nat) (w : PodF) (s : State) : Host.Outcome State Fault Refusal :=
  ok (alu d core w (fun a b => if a.slt b then b else a) s)
/-- SLT. -/
def execPodSlt (d : Die) (core : Nat) (w : PodF) (s : State) : Host.Outcome State Fault Refusal :=
  ok (alu d core w (fun a b => if a.slt b then 1 else 0) s)
/-- SLTU. -/
def execPodSltu (d : Die) (core : Nat) (w : PodF) (s : State) : Host.Outcome State Fault Refusal :=
  ok (alu d core w (fun a b => if a.ult b then 1 else 0) s)

/-- ADDI. -/
def execPodAddi (d : Die) (core : Nat) (w : PodF) (s : State) : Host.Outcome State Fault Refusal :=
  ok (ctlIns d core (fieldsOk w true true false false false false false true)
    (fun t => (setSreg t w.d.toNat (sreg t w.a.toNat + sextImm w), .next)) s)

/-- An instruction that makes s[D] of s[D] and IMM. -/
def immIns (d : Die) (p : Nat) (w : PodF) (okW : Bool) (g : Word → Word) (s : State) : State :=
  ctlIns d p (fieldsOk w true false false false false false false true && okW)
    (fun t => (setSreg t w.d.toNat (g (sreg t w.d.toNat)), .next)) s

/-- LI. -/
def execPodLi (d : Die) (core : Nat) (w : PodF) (s : State) : Host.Outcome State Fault Refusal :=
  ok (immIns d core w true (fun _ => sextImm w) s)
/-- LIM: bits 47:24 are IMM, bits 63:48 zero, bits 23:0 kept. -/
def execPodLim (d : Die) (core : Nat) (w : PodF) (s : State) : Host.Outcome State Fault Refusal :=
  ok (immIns d core w true (fun v => (v &&& 0xFFFFFF) ||| (w.imm.setWidth 64 <<< 24)) s)
/-- LIT: bits 63:48 are IMM bits 15:0. -/
def execPodLit (d : Die) (core : Nat) (w : PodF) (s : State) : Host.Outcome State Fault Refusal :=
  ok (immIns d core w (immLow w 16) (fun v => (v &&& 0xFFFFFFFFFFFF) ||| (w.imm.setWidth 64 <<< 48)) s)

/-! Scratch -/

/-- The fault of a scratch access of n bytes that must be aligned to al (R288). -/
def accessFault (a n al : Nat) : Option (BitVec 5) :=
  if !inScratch a n then some Sts.length else if a % al ≠ 0 then some Sts.align else none

/-- SLD. -/
def execPodSld (d : Die) (core : Nat) (w : PodF) (s : State) : Host.Outcome State Fault Refusal :=
  ok (issue d core (fieldsOk w true true false false false false false true) (fun s c t =>
    let a := immAddr w t
    match accessFault a 8 8 with
    | some e => ⟨s, c, t, .fault e⟩
    | none => ⟨s, c, setSreg t w.d.toNat (BitVec.ofNat 64 (leNat (scratchGet c a 8))), .next⟩) s)

/-- SST. -/
def execPodSst (d : Die) (core : Nat) (w : PodF) (s : State) : Host.Outcome State Fault Refusal :=
  ok (issue d core (fieldsOk w false true true false false false false true) (fun s c t =>
    let a := immAddr w t
    match accessFault a 8 8 with
    | some e => ⟨s, c, t, .fault e⟩
    | none => ⟨s, scratchPut c a (toLE 8 (sreg t w.b.toNat).toNat), t, .next⟩) s)

/-- Lanes whose value no FP32 value equals take free values (log 32). -/
def fillLanes (l : List (Option (BitVec 32))) (s : State) : List (BitVec 32) × State :=
  match l with
  | [] => ([], s)
  | some v :: r => let q := fillLanes r s; (v :: q.1, q.2)
  | none :: r =>
    let q := fillLanes r { s with freeCtr := s.freeCtr + 1 }
    ((Config.freeValue s.freeCtr).setWidth 32 :: q.1, q.2)

/-- The scale of element i of 64 for an MX format, from the two scale bytes. -/
def scaleAt (scales : Bytes) (i : Nat) : Nat := (nth scales (i / 32) 0).toNat

/-- The FMT codes of loads and stores: FP32 to INT32. -/
def fmtStored (f : Nat) : Bool := decide (f ≤ 0xB)

/-- VLD (R293). -/
def execPodVld (d : Die) (core : Nat) (w : PodF) (s : State) : Host.Outcome State Fault Refusal :=
  let f := w.fmt.toNat
  ok (issue d core (fieldsOk w true true false true true false false true && decide (w.d.toNat < 16) && fmtStored f) (fun s c t =>
    let a := immAddr w t
    let n := 8 * elemBits f
    let sc := (sreg t w.c.toNat).toNat
    match accessFault a n 4 with
    | some e => ⟨s, c, t, .fault e⟩
    | none =>
      if isMx f && !inScratch sc 2 then ⟨s, c, t, .fault Sts.length⟩
      else
        let b := scratchGet c a n
        let scales := if isMx f then scratchGet c sc 2 else []
        let r := fillLanes ((rangeFrom 0 64).map (fun i => widen f (scaleAt scales i) (elemAt b (elemBits f) i))) s
        ⟨r.2, c, setVreg t w.d.toNat r.1, .next⟩) s)

/-- The bytes VST stores for the lanes of a register, the scale bytes, and the flags (R294, R295). -/
def storedLanes (f rnd : Nat) (sat : Bool) (l : List (BitVec 32)) : Bytes × Bytes × Nat :=
  if isMx f then
    let q0 := quantise f rnd (l.take 32)
    let q1 := quantise f rnd (l.drop 32)
    (packElems (elemBits f) (q0.2.1 ++ q1.2.1), [BitVec.ofNat 8 q0.1, BitVec.ofNat 8 q1.1], q0.2.2 ||| q1.2.2)
  else
    let rs := l.map (narrow f rnd sat)
    (packElems (elemBits f) (rs.map (·.1)), [], rs.foldl (fun a r => a ||| r.2) 0)

/-- VST (R294, R295). -/
def execPodVst (d : Die) (core : Nat) (w : PodF) (s : State) : Host.Outcome State Fault Refusal :=
  let f := w.fmt.toNat
  ok (issue d core (fieldsOk w false true true true true true true true && decide (w.b.toNat < 16) && fmtStored f) (fun s c t =>
    let a := immAddr w t
    let n := 8 * elemBits f
    let sc := (sreg t w.c.toNat).toNat
    match accessFault a n 4 with
    | some e => ⟨s, c, t, .fault e⟩
    | none =>
      if isMx f && !inScratch sc 2 then ⟨s, c, t, .fault Sts.length⟩
      else
        let r := storedLanes f w.rnd.toNat w.sat (vreg t w.b.toNat)
        let c1 := scratchPut c a r.1
        ⟨s, if isMx f then scratchPut c1 sc r.2.1 else c1, addFlags t r.2.2, .next⟩) s)

/-- VLDB. -/
def execPodVldb (d : Die) (core : Nat) (w : PodF) (s : State) : Host.Outcome State Fault Refusal :=
  ok (issue d core (fieldsOk w true true false false false false false true && decide (w.d.toNat < 16)) (fun s c t =>
    let a := immAddr w t
    match accessFault a 4 4 with
    | some e => ⟨s, c, t, .fault e⟩
    | none => ⟨s, c, setVreg t w.d.toNat (List.replicate 64 (BitVec.ofNat 32 (leNat (scratchGet c a 4)))), .next⟩) s)

/-! Vector -/

/-- The formats of lane arithmetic: FP32 or INT32. -/
def fmtLane (f : Nat) : Bool := f == 0 || f == 0xB

/-- The thread after a vector instruction that gives register D lanes and flags. -/
def vecDone (c : Core) (t : Thread) (dst : Nat) (l : List (BitVec 32 × Nat)) (s : State) : Did :=
  ⟨s, { c with vecs := c.vecs + 1 }, addFlags (setVreg t dst (l.map (·.1))) (l.foldl (fun a r => a ||| r.2) 0), .next⟩

/-- A per-lane operation of two registers. -/
def vec2 (d : Die) (p : Nat) (w : PodF) (rndUsed : Bool) (op : BitVec 32 → BitVec 32 → BitVec 32 × Nat) (s : State) : State :=
  issue d p (fieldsOk w true true true false true rndUsed false false && fmtLane w.fmt.toNat && decide (w.d.toNat < 16) &&
      decide (w.a.toNat < 16) && decide (w.b.toNat < 16))
    (fun s c t => vecDone c t w.d.toNat (List.zipWith op (vreg t w.a.toNat) (vreg t w.b.toNat)) s) s

/-- The lane operation of an FMT: on FP32 with flags, or on INT32. -/
def byFmt (w : PodF) (fl : Nat → BitVec 32 → BitVec 32 → BitVec 32 × Nat) (int : BitVec 32 → BitVec 32 → BitVec 32) :
    BitVec 32 → BitVec 32 → BitVec 32 × Nat :=
  fun a b => if w.fmt = 0 then fl w.rnd.toNat a b else (int a b, 0)

/-- VADD. -/
def execPodVadd (d : Die) (core : Nat) (w : PodF) (s : State) : Host.Outcome State Fault Refusal :=
  ok (vec2 d core w true (byFmt w fAdd (· + ·)) s)
/-- VSUB. -/
def execPodVsub (d : Die) (core : Nat) (w : PodF) (s : State) : Host.Outcome State Fault Refusal :=
  ok (vec2 d core w true (byFmt w fSub (· - ·)) s)
/-- VMUL. -/
def execPodVmul (d : Die) (core : Nat) (w : PodF) (s : State) : Host.Outcome State Fault Refusal :=
  ok (vec2 d core w true (byFmt w fMul (· * ·)) s)
/-- VMIN. -/
def execPodVmin (d : Die) (core : Nat) (w : PodF) (s : State) : Host.Outcome State Fault Refusal :=
  ok (vec2 d core w true (byFmt w (fun _ a b => (fMin a b, 0)) (fun a b => if a.slt b then a else b)) s)
/-- VMAX. -/
def execPodVmax (d : Die) (core : Nat) (w : PodF) (s : State) : Host.Outcome State Fault Refusal :=
  ok (vec2 d core w true (byFmt w (fun _ a b => (fMax a b, 0)) (fun a b => if a.slt b then b else a)) s)

/-- VFMA: FP32 only, one rounding. -/
def execPodVfma (d : Die) (core : Nat) (w : PodF) (s : State) : Host.Outcome State Fault Refusal :=
  ok (issue d core (fieldsOk w true true true true true true false false && w.fmt == 0 && decide (w.d.toNat < 16) &&
      decide (w.a.toNat < 16) && decide (w.b.toNat < 16) && decide (w.c.toNat < 16))
    (fun s c t => vecDone c t w.d.toNat
      (List.zipWith (fun ab z => fFma w.rnd.toNat ab.1 ab.2 z) (List.zip (vreg t w.a.toNat) (vreg t w.b.toNat)) (vreg t w.c.toNat)) s) s)

/-- A per-lane operation of one register. -/
def vec1 (d : Die) (p : Nat) (w : PodF) (op : Nat → BitVec 32 → BitVec 32 × Nat) (s : State) : State :=
  issue d p (fieldsOk w true true false false false true false false && decide (w.d.toNat < 16) && decide (w.a.toNat < 16))
    (fun s c t => vecDone c t w.d.toNat ((vreg t w.a.toNat).map (op w.rnd.toNat)) s) s

/-- VEXP2. -/
def execPodVexp2 (d : Die) (core : Nat) (w : PodF) (s : State) : Host.Outcome State Fault Refusal := ok (vec1 d core w fExp2 s)
/-- VLOG2. -/
def execPodVlog2 (d : Die) (core : Nat) (w : PodF) (s : State) : Host.Outcome State Fault Refusal := ok (vec1 d core w fLog2 s)
/-- VRCP. -/
def execPodVrcp (d : Die) (core : Nat) (w : PodF) (s : State) : Host.Outcome State Fault Refusal := ok (vec1 d core w fRcp s)
/-- VRSQ. -/
def execPodVrsq (d : Die) (core : Nat) (w : PodF) (s : State) : Host.Outcome State Fault Refusal := ok (vec1 d core w fRsq s)

/-- VCMPLT. -/
def execPodVcmplt (d : Die) (core : Nat) (w : PodF) (s : State) : Host.Outcome State Fault Refusal :=
  let lt := fun (a b : BitVec 32) => if w.fmt = 0 then numLt (ofFp32 a) (ofFp32 b) else a.slt b
  ok (vec2 d core w false (fun a b => (if lt a b then 0xFFFFFFFF#32 else 0, 0)) s)

/-- VSEL. -/
def execPodVsel (d : Die) (core : Nat) (w : PodF) (s : State) : Host.Outcome State Fault Refusal :=
  ok (issue d core (fieldsOk w true true true true false false false false && decide (w.d.toNat < 16) && decide (w.a.toNat < 16) &&
      decide (w.b.toNat < 16) && decide (w.c.toNat < 16))
    (fun s c t => vecDone c t w.d.toNat
      (List.zipWith (fun ab z => (if z ≠ 0 then ab.1 else ab.2, 0)) (List.zip (vreg t w.a.toNat) (vreg t w.b.toNat)) (vreg t w.c.toNat)) s) s)

/-- VBCS. -/
def execPodVbcs (d : Die) (core : Nat) (w : PodF) (s : State) : Host.Outcome State Fault Refusal :=
  ok (issue d core (fieldsOk w true true false false false false false false && decide (w.d.toNat < 16))
    (fun s c t => vecDone c t w.d.toNat (List.replicate 64 ((sreg t w.a.toNat).setWidth 32, 0)) s) s)

/-- VMVS. -/
def execPodVmvs (d : Die) (core : Nat) (w : PodF) (s : State) : Host.Outcome State Fault Refusal :=
  ok (issue d core (fieldsOk w true true false false false false false true && immLow w 6 && decide (w.a.toNat < 16))
    (fun s c t => ⟨s, { c with vecs := c.vecs + 1 },
      setSreg t w.d.toNat ((nth (vreg t w.a.toNat) w.imm.toNat 0).setWidth 64), .next⟩) s)

/-- A reduction over the lanes by the tree of R297, the result in every lane. -/
def vecTree (d : Die) (p : Nat) (w : PodF) (op : BitVec 32 → BitVec 32 → BitVec 32 × Nat) (s : State) : State :=
  issue d p (fieldsOk w true true false false true false false false && fmtLane w.fmt.toNat && decide (w.d.toNat < 16) &&
      decide (w.a.toNat < 16))
    (fun s c t =>
      let r := tree 6 op (vreg t w.a.toNat)
      vecDone c t w.d.toNat (List.replicate 64 (r.1.headD 0, r.2)) s) s

/-- VRADD: each sum rounded to nearest. -/
def execPodVradd (d : Die) (core : Nat) (w : PodF) (s : State) : Host.Outcome State Fault Refusal :=
  ok (vecTree d core w (fun a b => if w.fmt = 0 then fAdd 0 a b else (a + b, 0)) s)
/-- VRMAX. -/
def execPodVrmax (d : Die) (core : Nat) (w : PodF) (s : State) : Host.Outcome State Fault Refusal :=
  ok (vecTree d core w (fun a b => (if w.fmt = 0 then fMax a b else if a.slt b then b else a, 0)) s)

/-- VIDX: s[A] + i as a signed number. -/
def execPodVidx (d : Die) (core : Nat) (w : PodF) (s : State) : Host.Outcome State Fault Refusal :=
  ok (issue d core (fieldsOk w true true false false true false false false && fmtLane w.fmt.toNat && decide (w.d.toNat < 16))
    (fun s c t =>
      let v := sreg t w.a.toNat
      vecDone c t w.d.toNat ((rangeFrom 0 64).map (fun i =>
        let x := v + BitVec.ofNat 64 i
        if w.fmt = 0 then ((toFp32 0 (ofInt x.toInt)).1, 0) else (x.setWidth 32, 0))) s) s)

/-- One lane of VCVT (R294). -/
def cvtLane (f rnd : Nat) (sat : Bool) (v : BitVec 32) : BitVec 32 × Nat :=
  if f = 0xB then let r := narrowInt 32 rnd (ofFp32 v); (BitVec.ofNat 32 r.1, r.2)
  else if f = 0 then toFp32 rnd (ofInt v.toInt)
  else
    let r := narrow f rnd sat v
    ((toFp32 0 (decodeF (ffmt f) r.1)).1, r.2)

/-- VCVT. -/
def execPodVcvt (d : Die) (core : Nat) (w : PodF) (s : State) : Host.Outcome State Fault Refusal :=
  let f := w.fmt.toNat
  ok (issue d core (fieldsOk w true true false false true true true false && (decide (f ≤ 4) || f == 0xB) && decide (w.d.toNat < 16) &&
      decide (w.a.toNat < 16))
    (fun s c t => vecDone c t w.d.toNat ((vreg t w.a.toNat).map (cvtLane f w.rnd.toNat w.sat)) s) s)

/-! Matrix -/

/-- A matrix instruction: it waits where another thread holds the matrix unit (R304). -/
def matrix (d : Die) (p : Nat) (okW : Bool) (g : State → Core → Thread → Did) (s : State) : State :=
  issue d p okW (fun s c t =>
    match c.matrixHeld with
    | some h => if h = c.cur then g s c t else ⟨s, c, t, .unit⟩
    | none => g s c t) s

/-- MZERO. -/
def execPodMzero (d : Die) (core : Nat) (w : PodF) (s : State) : Host.Outcome State Fault Refusal :=
  ok (matrix d core (fieldsOk w true false false false false false false false && decide (w.d.toNat < 4))
    (fun s c t => ⟨s, c, setTile t w.d.toNat (List.replicate 256 0), .next⟩) s)

/-- The elements of a row or column that one MMA takes (R298). -/
def mmaK (f : Nat) : Nat := if f = 1 ∨ f = 2 then 1 else if 7 ≤ f ∧ f ≤ 9 then 4 else 2

/-- The bytes of one row segment. -/
def mmaSeg (f : Nat) : Nat := mmaK f * elemBits f / 8

/-- One element of the tile after an MMA on floating-point operands: exact, rounded once to nearest. -/
def mmaFloat (acc : BitVec 32) (a b : List FV) : BitVec 32 × Nat :=
  let terms := ofFp32 acc :: List.zipWith mulFV a b
  finish 0 (ofFp32 acc :: (a ++ b)) (sumFV 0 terms)

/-- One element after an MMA on INT8 operands. -/
def mmaInt (acc : BitVec 32) (a b : List FV) : BitVec 32 :=
  acc + (List.zipWith (fun x y => BitVec.ofInt 32 (unitsFV 0 x * unitsFV 0 y)) a b).foldl (· + ·) 0

/-- The tile after an MMA: rows and columns are lists of exact elements. -/
def mmaTile (f : Nat) (m : List (BitVec 32)) (rows cols : List (List FV)) : List (BitVec 32 × Nat) :=
  (rangeFrom 0 256).map fun i =>
    let acc := nth m i 0
    let a := nth rows (i / 16) []
    let b := nth cols (i % 16) []
    if f = 0xA then (mmaInt acc a b, 0) else mmaFloat acc a b

/-- The elements of a segment; scale is the E8M0 byte of the row or column. -/
def segElems (f scale : Nat) (b : Bytes) : List FV := (rangeFrom 0 (mmaK f)).map (fun i => elemFV f scale (elemAt b (elemBits f) i))

/-- MMA (R298, R304). -/
def execPodMma (d : Die) (core : Nat) (w : PodF) (s : State) : Host.Outcome State Fault Refusal :=
  let f := w.fmt.toNat
  ok (matrix d core (fieldsOk w true true true true true false false true && immLow w 1 && decide (w.d.toNat < 4) &&
      decide (1 ≤ f) && decide (f ≤ 0xA)) (fun s c t =>
    let seg := mmaSeg f
    let sc := (sreg t w.c.toNat).toNat
    let aAddr := fun i => (sreg t w.a.toNat).toNat + i * fld sc 17 0
    let bAddr := fun i => (sreg t w.b.toNat).toNat + i * fld sc 49 32
    let fromQ := bitAt w.imm.toNat 0
    if (!fromQ && !inScratch (aAddr 15) seg) || !inScratch (bAddr 15) seg then ⟨s, c, t, .fault Sts.length⟩
    else if fromQ && decide (c.queue.length < 16 * seg) then ⟨s, { c with matrixHeld := some c.cur }, t, .unit⟩
    else
      let arow := fun i => if fromQ then slice c.queue (i * seg) seg else scratchGet c (aAddr i) seg
      let rows := (rangeFrom 0 16).map (fun i => segElems f (sget t.scale (32 * w.d.toNat + i)).toNat (arow i))
      let cols := (rangeFrom 0 16).map (fun j => segElems f (sget t.scale (32 * w.d.toNat + 16 + j)).toNat (scratchGet c (bAddr j) seg))
      let r := mmaTile f (tileOf t w.d.toNat) rows cols
      let c1 := wakeUnits { c with matrixHeld := none, beats := c.beats + 1, queue := if fromQ then c.queue.drop (16 * seg) else c.queue }
      ⟨s, c1, addFlags (setTile t w.d.toNat (r.map (·.1))) (r.foldl (fun a x => a ||| x.2) 0), .next⟩) s)

/-- MSC. -/
def execPodMsc (d : Die) (core : Nat) (w : PodF) (s : State) : Host.Outcome State Fault Refusal :=
  ok (matrix d core (fieldsOk w true true false false false false false false && decide (w.d.toNat < 4)) (fun s c t =>
    let a := (sreg t w.a.toNat).toNat
    if !inScratch a 32 then ⟨s, c, t, .fault Sts.length⟩
    else ⟨s, c, { t with scale := sputs t.scale (32 * w.d.toNat) (scratchGet c a 32) }, .next⟩) s)

/-- MST. -/
def execPodMst (d : Die) (core : Nat) (w : PodF) (s : State) : Host.Outcome State Fault Refusal :=
  ok (matrix d core (fieldsOk w true true false false false false false false && decide (w.d.toNat < 4)) (fun s c t =>
    let a := (sreg t w.a.toNat).toNat
    if !inScratch a 1024 then ⟨s, c, t, .fault Sts.length⟩
    else ⟨s, scratchPut c a ((tileOf t w.d.toNat).flatMap (fun v => toLE 4 v.toNat)), t, .next⟩) s)

/-- MLD. -/
def execPodMld (d : Die) (core : Nat) (w : PodF) (s : State) : Host.Outcome State Fault Refusal :=
  ok (matrix d core (fieldsOk w true true false false false false false false && decide (w.d.toNat < 4)) (fun s c t =>
    let a := (sreg t w.a.toNat).toNat
    if !inScratch a 1024 then ⟨s, c, t, .fault Sts.length⟩
    else
      let b := scratchGet c a 1024
      ⟨s, c, setTile t w.d.toNat ((rangeFrom 0 256).map (fun i => BitVec.ofNat 32 (le b (4 * i) 4))), .next⟩) s)

/-- MTV: four rows of a tile. -/
def execPodMtv (d : Die) (core : Nat) (w : PodF) (s : State) : Host.Outcome State Fault Refusal :=
  ok (matrix d core (fieldsOk w true true false false false false false true && immLow w 2 && decide (w.d.toNat < 16) &&
      decide (w.a.toNat < 4)) (fun s c t =>
    ⟨s, c, setVreg t w.d.toNat ((tileOf t w.a.toNat).drop (64 * w.imm.toNat)), .next⟩) s)

/-! Stream -/

/-- A stream access: size, window and scratch checks (R302), then the request is sent and its thread waits. -/
def streamIns (d : Die) (p : Nat) (okW : Bool) (w : PodF) (req : Core → Nat → Nat → Frame → Frame) (s : State) : State :=
  issue d p okW (fun s c t =>
    let addr := (sreg t w.a.toNat).toNat
    let sa := (sreg t w.b.toNat).toNat
    let n := (sreg t w.c.toNat).toNat
    if n = 0 ∨ 4096 < n then ⟨s, c, t, .fault Sts.length⟩
    else if inWindow (addrOff addr) then ⟨s, c, t, .fault Sts.denied⟩
    else if !inScratch sa n then ⟨s, c, t, .fault Sts.length⟩
    else
      let ctx := c.item.elim 0 (·.ctx)
      match nextSeq d ctx s with
      | (seq, s1) =>
        let f := req c sa n { tc := 3, srcEp := BitVec.ofNat 20 (agentEp s1 d), ctx := BitVec.ofNat 12 ctx, seq := seq,
                              tag := BitVec.ofNat 16 (p * 16 + c.cur), fence := agentFence s1 d, addr := BitVec.ofNat 64 addr }
        ⟨sendFrom d f s1, c, { t with streamReq := some f, streamDst := sa, streamReg := w.d.toNat, retryWait := false }, .stream⟩) s

/-- SRD: an LD in TC3. -/
def execPodSrd (d : Die) (core : Nat) (w : PodF) (s : State) : Host.Outcome State Fault Refusal :=
  ok (streamIns d core (fieldsOk w true true true true false false false true && immLow w 1) w
    (fun _ _ n f => { f with opcode := Opc.ld, opspec := BitVec.ofNat 16 (n + (w.imm.toNat % 2) * 2 ^ 15) }) s)

/-- SWR: an ST in TC3. -/
def execPodSwr (d : Die) (core : Nat) (w : PodF) (s : State) : Host.Outcome State Fault Refusal :=
  ok (streamIns d core (fieldsOk w true true true true false false false false) w
    (fun c sa n f => { f with opcode := Opc.st, length := BitVec.ofNat 16 n, payload := scratchGet c sa n }) s)

/-- STREAM_COMPLETE: the response reaches the stream port (R303). RETRY waits to be sent again; any other failing status
faults the thread, and the bytes an SRD would have written are free. The response to an access of an item that has been stopped is discarded
(R309). -/
def execStreamComplete (d : Die) (core thread : Nat) (f : Frame) (s0 : State) : Host.Outcome State Fault Refusal :=
  let s := takeAgent d f s0
  let c := coreOf s d core
  let t := threadOf c thread
  match t.streamReq with
  | none => ok s
  | some q =>
    let st := stsIn f.status
    if f.opcode ≠ rspOpc q.opcode ∨ f.tag ≠ q.tag then ok s
    else if t.st ≠ .stream then ok (putCore d core (setThread c thread { t with streamReq := none }) s)
    else if st = Sts.retry then ok (putCore d core (setThread c thread { t with retryWait := true }) s)
    else
      let load := q.opcode == Opc.ld
      if st = Sts.ok then
        let v := if load then f.payload.length + b2n f.cmp * 2 ^ 15 else 0
        let t1 := setSreg { t with st := .ready, streamReq := none } t.streamReg (BitVec.ofNat 64 v)
        let c1 := setThread c thread t1
        let c2 := if load then scratchPut c1 t.streamDst f.payload else c1
        let c3 := if load && f.cmp then { c2 with codedIn := f.slot.toNat :: c2.codedIn } else c2
        ok (putCore d core (wakeCore c3) s)
      else
        let c1 := setThread c thread { t with st := .faulted st, streamReq := none }
        let n := q.opspec.toNat % 2 ^ 13
        let free := fit (Config.freeBytes s.freeCtr n) n
        let c2 := if load then scratchPut c1 t.streamDst free else c1
        ok (putCore d core (wakeCore (resumeMain (releaseBar c2))) { s with freeCtr := s.freeCtr + b2n load })

/-- STREAM_RETRY: 1 µs after RETRY the request is sent again (R303). -/
def execStreamRetry (d : Die) (core thread : Nat) (s : State) : Host.Outcome State Fault Refusal :=
  let c := coreOf s d core
  let t := threadOf c thread
  match t.streamReq with
  | some q => if t.retryWait ∧ t.st = .stream then ok (sendFrom d q (putCore d core (setThread c thread { t with retryWait := false }) s)) else ok s
  | none => ok s

/-! Codec -/

/-- The raw length a block's header states, where it can be one. -/
def statedRaw (b : Bytes) : Nat := let n := le b 2 2; if 1 ≤ n ∧ n ≤ 4096 then n else 0

/-- XPD (R304). -/
def execPodXpd (d : Die) (core : Nat) (w : PodF) (s : State) : Host.Outcome State Fault Refusal :=
  ok (issue d core (fieldsOk w true true true true false false false false) (fun s c t =>
    let a := (sreg t w.a.toNat).toNat
    let n := (sreg t w.b.toNat).toNat
    let dst := (sreg t w.c.toNat).toNat
    if !inScratch a n then ⟨s, c, t, .fault Sts.length⟩
    else
      let b := scratchGet c a n
      match decodeAt d none none b s with
      | (some raw, s1) =>
        if inScratch dst raw.length then
          ⟨s1, scratchPut c dst raw, setSreg t w.d.toNat (BitVec.ofNat 64 raw.length), .next⟩
        else ⟨s1, c, t, .fault Sts.length⟩
      | (none, s1) =>
        let m := statedRaw b
        let c1 := if inScratch dst m then scratchPut c dst (fit (Config.freeBytes s1.freeCtr m) m) else c
        ⟨{ s1 with freeCtr := s1.freeCtr + 1 }, c1, t, .fault Sts.codec⟩) s)

/-- XPQ: another thread's queue must be empty, and the bytes must fit the queue's 4 KiB (R283, R304). -/
def execPodXpq (d : Die) (core : Nat) (w : PodF) (s : State) : Host.Outcome State Fault Refusal :=
  ok (issue d core (fieldsOk w true true true false false false false false) (fun s c t =>
    let a := (sreg t w.a.toNat).toNat
    let n := (sreg t w.b.toNat).toNat
    if !inScratch a n then ⟨s, c, t, .fault Sts.length⟩
    else
      let b := scratchGet c a n
      if !c.queue.isEmpty && (c.queueOwner != some c.cur || decide (4096 < c.queue.length + statedRaw b)) then ⟨s, c, t, .unit⟩
      else
        match decodeAt d none none b s with
        | (some raw, s1) =>
          let c1 := wakeUnits { c with queue := c.queue ++ raw, queueOwner := if c.queue.isEmpty then some c.cur else c.queueOwner }
          ⟨s1, c1, setSreg t w.d.toNat (BitVec.ofNat 64 raw.length), .next⟩
        | (none, s1) => ⟨s1, c, t, .fault Sts.codec⟩) s)

/-- CPZ (R370): IMM bits 3:0 name the slot, bit 4 asks for RAW. -/
def execPodCpz (d : Die) (core : Nat) (w : PodF) (s : State) : Host.Outcome State Fault Refusal :=
  ok (issue d core (fieldsOk w true true true true false false false true && immLow w 5) (fun s c t =>
    let a := (sreg t w.a.toNat).toNat
    let n := (sreg t w.b.toNat).toNat
    let dst := (sreg t w.c.toNat).toNat
    let slot := w.imm.toNat % 16
    let rawOnly := bitAt w.imm.toNat 4
    if n = 0 ∨ 4096 < n then ⟨s, c, t, .fault Sts.length⟩
    else if !rawOnly && (decodingBook s slot).isNone then ⟨s, c, t, .fault Sts.format⟩
    else if !inScratch a n then ⟨s, c, t, .fault Sts.length⟩
    else
      let b := encodeBlock s slot rawOnly (scratchGet c a n)
      if !inScratch dst b.length then ⟨s, c, t, .fault Sts.length⟩
      else ⟨s, scratchPut c dst b, setSreg t w.d.toNat (BitVec.ofNat 64 b.length), .next⟩) s)

/-! Cores and items -/

/-- WORK_ITEM_START: an idle core that serves a slot takes its next item; in thermal hold no item starts (R284, R308, R483). -/
def execWorkItemStart (d : Die) (core : Nat) (s : State) : Host.Outcome State Fault Refusal :=
  let c := coreOf s d core
  match c.slot with
  | none => ok s
  | some k =>
    if c.st ≠ .idle ∨ (side s.mod.dies d).thermalHold then ok s
    else
      match nextItem s d k with
      | none => ok s
      | some (i, round) =>
        match (side s.pod d).queue[i]? with
        | some it => ok (startItem d core it (modPod s d (fun v => { v with
            queue := dropAt v.queue i, turns := changeD (if round then [] else v.turns) it.ctx 0 (· + 1) })))
        | none => ok s

/-- THREAD_SWITCH_QUANTUM: a thread that has completed 1,024 instructions gives up the issue point (R285). -/
def execThreadSwitchQuantum (d : Die) (core : Nat) (s : State) : Host.Outcome State Fault Refusal :=
  let c := coreOf s d core
  if c.st = .running ∧ 1024 ≤ c.since then ok (putCore d core (switchThread c) s) else ok s

/-- BUDGET_EXHAUSTED: every thread stops with ABORTED (R290). -/
def execBudgetExhausted (d : Die) (core : Nat) (s : State) : Host.Outcome State Fault Refusal :=
  let c := coreOf s d core
  if c.st = .running ∧ c.item.isSome ∧ budgetOf c ≤ c.issued then
    ok (setStatus (.pod d) 1 (putCore d core
      { c with
        mainSaved := none,
        threads := c.threads.map (fun x => (x.1, stopThread x.2)) } s))
  else ok s

/-- CORE_RETIRE: a core found bad is retired (R281); an error that was corrected only sets its bit (R316). -/
def execCoreRetire (d : Die) (core : Nat) (cause : RetireCause) (s : State) : Host.Outcome State Fault Refusal :=
  if 528 ≤ core then ok s
  else
    match cause with
    | .scratchCorr => ok (setStatus (.pod d) 4 s)
    | .scratchEcc => ok (retireCore d core (setStatus (.pod d) 5 s))
    | .regParity => ok (retireCore d core (setStatus (.pod d) 3 s))
    | .selftest => ok (retireCore d core (setStatus (.pod d) 6 s))

/-- SELFTEST: an idle core tests itself between items; it then counts as having run no item (R308, R316). -/
def execSelftest (d : Die) (core : Nat) (passed : Bool) (s : State) : Host.Outcome State Fault Refusal :=
  let c := coreOf s d core
  if 528 ≤ core ∨ c.st ≠ .idle ∨ (side s.pod d).selftestS = 0 then ok s
  else if passed then ok (putCore d core { c with lastCtx := none } s)
  else ok (retireCore d core (setStatus (.pod d) 6 s))

end Machine
end Sys2Proof
end

