-- ==== Sys2Proof/Machine/Dispatch.lean ====
section
/-! DEFINITION. One arm for each command of the block. -/

namespace Sys2Proof
namespace Machine

/-- The effect of a command on everything but the queue: each arm calls the command's meaning. -/
def exec (i : Instr) (s : State) : Host.Outcome State Fault Refusal :=
  match i with
  | .echo r => Sys2Proof.Machine.execEcho r s
  | .bsBegin r => Sys2Proof.Machine.execBsBegin r s
  | .bsData r => Sys2Proof.Machine.execBsData r s
  | .bsFetch r => Sys2Proof.Machine.execBsFetch r s
  | .bsFetchComplete job => Sys2Proof.Machine.execBsFetchComplete job s
  | .bsEnd r => Sys2Proof.Machine.execBsEnd r s
  | .bsAbort r => Sys2Proof.Machine.execBsAbort r s
  | .loadAbandon slot => Sys2Proof.Machine.execLoadAbandon slot s
  | .bsActivate r => Sys2Proof.Machine.execBsActivate r s
  | .partialApply => Sys2Proof.Machine.execPartialApply s
  | .recordDrainDone type key => Sys2Proof.Machine.execRecordDrainDone type key s
  | .extCreate r => Sys2Proof.Machine.execExtCreate r s
  | .extRevoke r => Sys2Proof.Machine.execExtRevoke r s
  | .extentRevoked ext => Sys2Proof.Machine.execExtentRevoked ext s
  | .grantAdd r => Sys2Proof.Machine.execGrantAdd r s
  | .grantRemove r => Sys2Proof.Machine.execGrantRemove r s
  | .ctxCreate r => Sys2Proof.Machine.execCtxCreate r s
  | .ctxDestroy r => Sys2Proof.Machine.execCtxDestroy r s
  | .ctxDestroyComplete ctx => Sys2Proof.Machine.execCtxDestroyComplete ctx s
  | .admitAdd r => Sys2Proof.Machine.execAdmitAdd r s
  | .admitRemove r => Sys2Proof.Machine.execAdmitRemove r s
  | .qosSet r => Sys2Proof.Machine.execQosSet r s
  | .ctxReset r => Sys2Proof.Machine.execCtxReset r s
  | .ctxResetStalkApply ctx => Sys2Proof.Machine.execCtxResetStalkApply ctx s
  | .ctxResetComplete ctx => Sys2Proof.Machine.execCtxResetComplete ctx s
  | .portReset r => Sys2Proof.Machine.execPortReset r s
  | .portResetComplete port => Sys2Proof.Machine.execPortResetComplete port s
  | .moduleReset r => Sys2Proof.Machine.execModuleReset r s
  | .stop r => Sys2Proof.Machine.execStop r s
  | .resume r => Sys2Proof.Machine.execResume r s
  | .fenceAdvance r => Sys2Proof.Machine.execFenceAdvance r s
  | .compCreate r => Sys2Proof.Machine.execCompCreate r s
  | .compCommit r => Sys2Proof.Machine.execCompCommit r s
  | .compCommitComplete comp => Sys2Proof.Machine.execCompCommitComplete comp s
  | .compRollback r => Sys2Proof.Machine.execCompRollback r s
  | .replicaPromote r => Sys2Proof.Machine.execReplicaPromote r s
  | .attestQuote r => Sys2Proof.Machine.execAttestQuote r s
  | .debugUnlock r => Sys2Proof.Machine.execDebugUnlock r s
  | .ownerKeyTransfer r => Sys2Proof.Machine.execOwnerKeyTransfer r s
  | .meterTariff r => Sys2Proof.Machine.execMeterTariff r s
  | .meterExport r => Sys2Proof.Machine.execMeterExport r s
  | .pepSet r => Sys2Proof.Machine.execPepSet r s
  | .pepClear r => Sys2Proof.Machine.execPepClear r s
  | .registerWrite f => Sys2Proof.Machine.execRegisterWrite f s
  | .registerReadClear f => Sys2Proof.Machine.execRegisterReadClear f s
  | .quotaLimitWrite f => Sys2Proof.Machine.execQuotaLimitWrite f s
  | .extSelWrite f => Sys2Proof.Machine.execExtSelWrite f s
  | .objSelWrite f => Sys2Proof.Machine.execObjSelWrite f s
  | .dirSelWrite f => Sys2Proof.Machine.execDirSelWrite f s
  | .coreSelWrite f => Sys2Proof.Machine.execCoreSelWrite f s
  | .sesSelWrite f => Sys2Proof.Machine.execSesSelWrite f s
  | .fenceSelWrite f => Sys2Proof.Machine.execFenceSelWrite f s
  | .switchSelWrite f => Sys2Proof.Machine.execSwitchSelWrite f s
  | .compSelWrite f => Sys2Proof.Machine.execCompSelWrite f s
  | .podRetireWrite f => Sys2Proof.Machine.execPodRetireWrite f s
  | .sampleCfgWrite f => Sys2Proof.Machine.execSampleCfgWrite f s
  | .ccFlush f => Sys2Proof.Machine.execCcFlush f s
  | .ccFlushDone d => Sys2Proof.Machine.execCcFlushDone d s
  | .xferGo f => Sys2Proof.Machine.execXferGo f s
  | .meterDetachWrite f => Sys2Proof.Machine.execMeterDetachWrite f s
  | .fwBegin f => Sys2Proof.Machine.execFwBegin f s
  | .fwEnd f => Sys2Proof.Machine.execFwEnd f s
  | .fwAbort f => Sys2Proof.Machine.execFwAbort f s
  | .fwCommit f => Sys2Proof.Machine.execFwCommit f s
  | .fwApertureWrite f => Sys2Proof.Machine.execFwApertureWrite f s
  | .laneSpareWrite f => Sys2Proof.Machine.execLaneSpareWrite f s
  | .pcSpareWrite f => Sys2Proof.Machine.execPcSpareWrite f s
  | .frameIngress port sub w => Sys2Proof.Machine.execFrameIngress port sub w s
  | .stalkReceive d tc => Sys2Proof.Machine.execStalkReceive d tc s
  | .stalkFailure => Sys2Proof.Machine.execStalkFailure s
  | .egressSend d out => Sys2Proof.Machine.execEgressSend d out s
  | .releaseForward port k => Sys2Proof.Machine.execReleaseForward port k s
  | .releaseTimeout port k => Sys2Proof.Machine.execReleaseTimeout port k s
  | .acquireHoldTimeout port k => Sys2Proof.Machine.execAcquireHoldTimeout port k s
  | .writeRecordTimeout port k => Sys2Proof.Machine.execWriteRecordTimeout port k s
  | .ld d r => Sys2Proof.Machine.execLd d r s
  | .st d f => Sys2Proof.Machine.execSt d f s
  | .amo d f => Sys2Proof.Machine.execAmo d f s
  | .amoNr d f => Sys2Proof.Machine.execAmoNr d f s
  | .cas d f => Sys2Proof.Machine.execCas d f s
  | .memSync port f => Sys2Proof.Machine.execMemSync port f s
  | .amoAck d f => Sys2Proof.Machine.execAmoAck d f s
  | .combinedRequest d fs => Sys2Proof.Machine.execCombinedRequest d fs s
  | .requestAged d k => Sys2Proof.Machine.execRequestAged d k s
  | .hotlineExit d line => Sys2Proof.Machine.execHotlineExit d line s
  | .crdS d f => Sys2Proof.Machine.execCrdS d f s
  | .crdM d f => Sys2Proof.Machine.execCrdM d f s
  | .cupg d f => Sys2Proof.Machine.execCupg d f s
  | .cwb d f => Sys2Proof.Machine.execCwb d f s
  | .cevict d f => Sys2Proof.Machine.execCevict d f s
  | .cinvAck d f => Sys2Proof.Machine.execCinvAck d f s
  | .cfwdAck d f => Sys2Proof.Machine.execCfwdAck d f s
  | .crecallAck d f => Sys2Proof.Machine.execCrecallAck d f s
  | .fenceNotice d ep => Sys2Proof.Machine.execFenceNotice d ep s
  | .cohAckTimeout d ep => Sys2Proof.Machine.execCohAckTimeout d ep s
  | .objCreate d f => Sys2Proof.Machine.execObjCreate d f s
  | .objMove d f => Sys2Proof.Machine.execObjMove d f s
  | .objPin d f => Sys2Proof.Machine.execObjPin d f s
  | .objUnpin d f => Sys2Proof.Machine.execObjUnpin d f s
  | .objFree d f => Sys2Proof.Machine.execObjFree d f s
  | .objFreeRelease obj => Sys2Proof.Machine.execObjFreeRelease obj s
  | .objClone d f => Sys2Proof.Machine.execObjClone d f s
  | .moveStart d => Sys2Proof.Machine.execMoveStart d s
  | .moveSwitchover obj => Sys2Proof.Machine.execMoveSwitchover obj s
  | .moveComplete obj => Sys2Proof.Machine.execMoveComplete obj s
  | .moveDestFail obj => Sys2Proof.Machine.execMoveDestFail obj s
  | .spillStart d => Sys2Proof.Machine.execSpillStart d s
  | .refillStart d => Sys2Proof.Machine.execRefillStart d s
  | .ccWritebackResponse d f => Sys2Proof.Machine.execCcWritebackResponse d f s
  | .trayResponse d f => Sys2Proof.Machine.execTrayResponse d f s
  | .sesWake d f => Sys2Proof.Machine.execSesWake d f s
  | .sesWakeLayerDone ses => Sys2Proof.Machine.execSesWakeLayerDone ses s
  | .sesWakeDone ses => Sys2Proof.Machine.execSesWakeDone ses s
  | .sesSleep d f => Sys2Proof.Machine.execSesSleep d f s
  | .sesSleepDone ses => Sys2Proof.Machine.execSesSleepDone ses s
  | .stagingSlotWaitEnd d => Sys2Proof.Machine.execStagingSlotWaitEnd d s
  | .slcProgram d vol => Sys2Proof.Machine.execSlcProgram d vol s
  | .slcProgramDone d f => Sys2Proof.Machine.execSlcProgramDone d f s
  | .programAborted d f => Sys2Proof.Machine.execProgramAborted d f s
  | .flashReadResponse d f => Sys2Proof.Machine.execFlashReadResponse d f s
  | .relocationStart port => Sys2Proof.Machine.execRelocationStart port s
  | .relocationClose port kind => Sys2Proof.Machine.execRelocationClose port kind s
  | .blockEraseDone d f => Sys2Proof.Machine.execBlockEraseDone d f s
  | .ouviMerge vol => Sys2Proof.Machine.execOuviMerge vol s
  | .retentionHour d => Sys2Proof.Machine.execRetentionHour d s
  | .checkpointStart d => Sys2Proof.Machine.execCheckpointStart d s
  | .checkpointEnd d => Sys2Proof.Machine.execCheckpointEnd d s
  | .journalRingWaitEnd d => Sys2Proof.Machine.execJournalRingWaitEnd d s
  | .mapRebuild vol => Sys2Proof.Machine.execMapRebuild vol s
  | .volumeBringup vol waited => Sys2Proof.Machine.execVolumeBringup vol waited s
  | .workItemStart d core => Sys2Proof.Machine.execWorkItemStart d core s
  | .workItemEnd d core => Sys2Proof.Machine.execWorkItemEnd d core s
  | .threadSwitchQuantum d core => Sys2Proof.Machine.execThreadSwitchQuantum d core s
  | .budgetExhausted d core => Sys2Proof.Machine.execBudgetExhausted d core s
  | .streamComplete d core thread f => Sys2Proof.Machine.execStreamComplete d core thread f s
  | .streamRetry d core thread => Sys2Proof.Machine.execStreamRetry d core thread s
  | .coreRetire d core cause => Sys2Proof.Machine.execCoreRetire d core cause s
  | .selftest d core passed => Sys2Proof.Machine.execSelftest d core passed s
  | .podNop d core w => Sys2Proof.Machine.execPodNop d core w s
  | .podEnd d core w => Sys2Proof.Machine.execPodEnd d core w s
  | .podJmp d core w => Sys2Proof.Machine.execPodJmp d core w s
  | .podBeq d core w => Sys2Proof.Machine.execPodBeq d core w s
  | .podBne d core w => Sys2Proof.Machine.execPodBne d core w s
  | .podBlt d core w => Sys2Proof.Machine.execPodBlt d core w s
  | .podBltu d core w => Sys2Proof.Machine.execPodBltu d core w s
  | .podBar d core w => Sys2Proof.Machine.execPodBar d core w s
  | .podFault d core w => Sys2Proof.Machine.execPodFault d core w s
  | .podRdflg d core w => Sys2Proof.Machine.execPodRdflg d core w s
  | .podRdpace d core w => Sys2Proof.Machine.execPodRdpace d core w s
  | .podRdtime d core w => Sys2Proof.Machine.execPodRdtime d core w s
  | .podInfo d core w => Sys2Proof.Machine.execPodInfo d core w s
  | .podAdd d core w => Sys2Proof.Machine.execPodAdd d core w s
  | .podSub d core w => Sys2Proof.Machine.execPodSub d core w s
  | .podMul d core w => Sys2Proof.Machine.execPodMul d core w s
  | .podAnd d core w => Sys2Proof.Machine.execPodAnd d core w s
  | .podOr d core w => Sys2Proof.Machine.execPodOr d core w s
  | .podXor d core w => Sys2Proof.Machine.execPodXor d core w s
  | .podShl d core w => Sys2Proof.Machine.execPodShl d core w s
  | .podShr d core w => Sys2Proof.Machine.execPodShr d core w s
  | .podSra d core w => Sys2Proof.Machine.execPodSra d core w s
  | .podMin d core w => Sys2Proof.Machine.execPodMin d core w s
  | .podMax d core w => Sys2Proof.Machine.execPodMax d core w s
  | .podSlt d core w => Sys2Proof.Machine.execPodSlt d core w s
  | .podSltu d core w => Sys2Proof.Machine.execPodSltu d core w s
  | .podAddi d core w => Sys2Proof.Machine.execPodAddi d core w s
  | .podLi d core w => Sys2Proof.Machine.execPodLi d core w s
  | .podLim d core w => Sys2Proof.Machine.execPodLim d core w s
  | .podLit d core w => Sys2Proof.Machine.execPodLit d core w s
  | .podSld d core w => Sys2Proof.Machine.execPodSld d core w s
  | .podSst d core w => Sys2Proof.Machine.execPodSst d core w s
  | .podVld d core w => Sys2Proof.Machine.execPodVld d core w s
  | .podVst d core w => Sys2Proof.Machine.execPodVst d core w s
  | .podVldb d core w => Sys2Proof.Machine.execPodVldb d core w s
  | .podVadd d core w => Sys2Proof.Machine.execPodVadd d core w s
  | .podVsub d core w => Sys2Proof.Machine.execPodVsub d core w s
  | .podVmul d core w => Sys2Proof.Machine.execPodVmul d core w s
  | .podVfma d core w => Sys2Proof.Machine.execPodVfma d core w s
  | .podVmin d core w => Sys2Proof.Machine.execPodVmin d core w s
  | .podVmax d core w => Sys2Proof.Machine.execPodVmax d core w s
  | .podVexp2 d core w => Sys2Proof.Machine.execPodVexp2 d core w s
  | .podVlog2 d core w => Sys2Proof.Machine.execPodVlog2 d core w s
  | .podVrcp d core w => Sys2Proof.Machine.execPodVrcp d core w s
  | .podVrsq d core w => Sys2Proof.Machine.execPodVrsq d core w s
  | .podVcmplt d core w => Sys2Proof.Machine.execPodVcmplt d core w s
  | .podVsel d core w => Sys2Proof.Machine.execPodVsel d core w s
  | .podVbcs d core w => Sys2Proof.Machine.execPodVbcs d core w s
  | .podVmvs d core w => Sys2Proof.Machine.execPodVmvs d core w s
  | .podVradd d core w => Sys2Proof.Machine.execPodVradd d core w s
  | .podVrmax d core w => Sys2Proof.Machine.execPodVrmax d core w s
  | .podVidx d core w => Sys2Proof.Machine.execPodVidx d core w s
  | .podVcvt d core w => Sys2Proof.Machine.execPodVcvt d core w s
  | .podMzero d core w => Sys2Proof.Machine.execPodMzero d core w s
  | .podMma d core w => Sys2Proof.Machine.execPodMma d core w s
  | .podMsc d core w => Sys2Proof.Machine.execPodMsc d core w s
  | .podMst d core w => Sys2Proof.Machine.execPodMst d core w s
  | .podMld d core w => Sys2Proof.Machine.execPodMld d core w s
  | .podMtv d core w => Sys2Proof.Machine.execPodMtv d core w s
  | .podSrd d core w => Sys2Proof.Machine.execPodSrd d core w s
  | .podSwr d core w => Sys2Proof.Machine.execPodSwr d core w s
  | .podXpd d core w => Sys2Proof.Machine.execPodXpd d core w s
  | .podXpq d core w => Sys2Proof.Machine.execPodXpq d core w s
  | .podCpz d core w => Sys2Proof.Machine.execPodCpz d core w s
  | .colReduce d f => Sys2Proof.Machine.execColReduce d f s
  | .colPart d f => Sys2Proof.Machine.execColPart d f s
  | .chunkCombine d group node inst chunk => Sys2Proof.Machine.execChunkCombine d group node inst chunk s
  | .colPartRsp d f => Sys2Proof.Machine.execColPartRsp d f s
  | .serviceStoreResponse d f => Sys2Proof.Machine.execServiceStoreResponse d f s
  | .instanceTimeout d group node inst => Sys2Proof.Machine.execInstanceTimeout d group node inst s
  | .colGather d f => Sys2Proof.Machine.execColGather d f s
  | .colFilter d f => Sys2Proof.Machine.execColFilter d f s
  | .attAppend d f => Sys2Proof.Machine.execAttAppend d f s
  | .attOpen d f => Sys2Proof.Machine.execAttOpen d f s
  | .attFork d f => Sys2Proof.Machine.execAttFork d f s
  | .attClose d f => Sys2Proof.Machine.execAttClose d f s
  | .attCloseDone ses => Sys2Proof.Machine.execAttCloseDone ses s
  | .ringReuse ses => Sys2Proof.Machine.execRingReuse ses s
  | .attAttend d f => Sys2Proof.Machine.execAttAttend d f s
  | .cmpSlotFree slot => Sys2Proof.Machine.execCmpSlotFree slot s
  | .eventSend d ctx => Sys2Proof.Machine.execEventSend d ctx s
  | .countersPeriod d => Sys2Proof.Machine.execCountersPeriod d s
  | .rateTokenRelease d ctx tc tokens => Sys2Proof.Machine.execRateTokenRelease d ctx tc tokens s
  | .auditPass d => Sys2Proof.Machine.execAuditPass d s
  | .cellEccError d area tc pos kind => Sys2Proof.Machine.execCellEccError d area tc pos kind s
  | .linkInit port sub f srcMac => Sys2Proof.Machine.execLinkInit port sub f srcMac s
  | .linkInitSend port sub => Sys2Proof.Machine.execLinkInitSend port sub s
  | .linkCredit port sub f => Sys2Proof.Machine.execLinkCredit port sub f s
  | .linkCreditSend port sub => Sys2Proof.Machine.execLinkCreditSend port sub s
  | .linkNak port sub f => Sys2Proof.Machine.execLinkNak port sub f s
  | .linkNakRepeat port sub => Sys2Proof.Machine.execLinkNakRepeat port sub s
  | .replayTimeout port sub => Sys2Proof.Machine.execReplayTimeout port sub s
  | .sublinkLockLoss port sub => Sys2Proof.Machine.execSublinkLockLoss port sub s
  | .sublinkRxTimeout port sub => Sys2Proof.Machine.execSublinkRxTimeout port sub s
  | .sublinkReplayLimit port sub => Sys2Proof.Machine.execSublinkReplayLimit port sub s
  | .sublinkBringupTimeout port sub => Sys2Proof.Machine.execSublinkBringupTimeout port sub s
  | .pfcFrame port sub prio quanta => Sys2Proof.Machine.execPfcFrame port sub prio quanta s
  | .pfcXoffRefresh port sub => Sys2Proof.Machine.execPfcXoffRefresh port sub s
  | .sprayedFrameResequence d f => Sys2Proof.Machine.execSprayedFrameResequence d f s
  | .reseqAck d f => Sys2Proof.Machine.execReseqAck d f s
  | .reseqAckTimer sw tc => Sys2Proof.Machine.execReseqAckTimer sw tc s
  | .pathBarrierStart sw => Sys2Proof.Machine.execPathBarrierStart sw s
  | .pathBarrier d f => Sys2Proof.Machine.execPathBarrier d f s
  | .pathBarrierAck d f => Sys2Proof.Machine.execPathBarrierAck d f s
  | .pathBarrierTimeout sw => Sys2Proof.Machine.execPathBarrierTimeout sw s
  | .kaHello port sub msg => Sys2Proof.Machine.execKaHello port sub msg s
  | .kaReply port sub msg => Sys2Proof.Machine.execKaReply port sub msg s
  | .kaDone port sub msg => Sys2Proof.Machine.execKaDone port sub msg s
  | .kaResend port sub => Sys2Proof.Machine.execKaResend port sub s
  | .linkRekey port sub => Sys2Proof.Machine.execLinkRekey port sub s
  | .paceMeasure d pace => Sys2Proof.Machine.execPaceMeasure d pace s
  | .refClockLoss => Sys2Proof.Machine.execRefClockLoss s
  | .refClockReturn => Sys2Proof.Machine.execRefClockReturn s
  | .spTakeover => Sys2Proof.Machine.execSpTakeover s
  | .heartbeatSend => Sys2Proof.Machine.execHeartbeatSend s
  | .heartbeat sw => Sys2Proof.Machine.execHeartbeat sw s
  | .leaseLoss => Sys2Proof.Machine.execLeaseLoss s
  | .leaseRegain => Sys2Proof.Machine.execLeaseRegain s
  | .switchDeclareLost sw => Sys2Proof.Machine.execSwitchDeclareLost sw s
  | .mapGenerationApply gen changes => Sys2Proof.Machine.execMapGenerationApply gen changes s
  | .endpointGraceExpire ep => Sys2Proof.Machine.execEndpointGraceExpire ep s
  | .endpointAckDeadExpire ep => Sys2Proof.Machine.execEndpointAckDeadExpire ep s
  | .endpointFenced ep => Sys2Proof.Machine.execEndpointFenced ep s
  | .epochHoldTimeout port idx => Sys2Proof.Machine.execEpochHoldTimeout port idx s
  | .trayLost port => Sys2Proof.Machine.execTrayLost port s
  | .xferIn x => Sys2Proof.Machine.execXferIn x s
  | .xferSwitchover job => Sys2Proof.Machine.execXferSwitchover job s
  | .xferCommitApply job => Sys2Proof.Machine.execXferCommitApply job s
  | .xferResolve answers => Sys2Proof.Machine.execXferResolve answers s
  | .tapEventSend d => Sys2Proof.Machine.execTapEventSend d s
  | .meterAck d tapSeq => Sys2Proof.Machine.execMeterAck d tapSeq s
  | .recordPeriodEnd => Sys2Proof.Machine.execRecordPeriodEnd s
  | .meterAttach m => Sys2Proof.Machine.execMeterAttach m s
  | .meterTamper => Sys2Proof.Machine.execMeterTamper s
  | .meterLinkLoss => Sys2Proof.Machine.execMeterLinkLoss s
  | .escrowSecond d => Sys2Proof.Machine.execEscrowSecond d s
  | .escrowIngestSegment d => Sys2Proof.Machine.execEscrowIngestSegment d s
  | .inputLoss => Sys2Proof.Machine.execInputLoss s
  | .powerUp p => Sys2Proof.Machine.execPowerUp p s
  | .plannedPowerDown => Sys2Proof.Machine.execPlannedPowerDown s
  | .plannedDownTimeout => Sys2Proof.Machine.execPlannedDownTimeout s
  | .holdupTest tenthMs => Sys2Proof.Machine.execHoldupTest tenthMs s
  | .thermalHoldEnter d tj inlet => Sys2Proof.Machine.execThermalHoldEnter d tj inlet s
  | .thermalHoldExit d tj inlet => Sys2Proof.Machine.execThermalHoldExit d tj inlet s
  | .thermalTrip d tj => Sys2Proof.Machine.execThermalTrip d tj s
  | .coolantInletHigh inlet => Sys2Proof.Machine.execCoolantInletHigh inlet s
  | .inputLow mv => Sys2Proof.Machine.execInputLow mv s
  | .laneAutoSpare port lane => Sys2Proof.Machine.execLaneAutoSpare port lane s
  | .laneRetrainDone port lane => Sys2Proof.Machine.execLaneRetrainDone port lane s
  | .pcAutoSpare stack pc => Sys2Proof.Machine.execPcAutoSpare stack pc s
  | .pcSpareSwitchover stack pc => Sys2Proof.Machine.execPcSpareSwitchover stack pc s
  | .rowRepair stack row => Sys2Proof.Machine.execRowRepair stack row s
  | .linkTrainingDone port sub => Sys2Proof.Machine.execLinkTrainingDone port sub s
  | .inputReturn mv => Sys2Proof.Machine.execInputReturn mv s
  | .extRevokeStalkApply ext => Sys2Proof.Machine.execExtRevokeStalkApply ext s
  | .stopStalkApply d => Sys2Proof.Machine.execStopStalkApply d s
  | .compRollbackComplete comp => Sys2Proof.Machine.execCompRollbackComplete comp s
  | .meterExportDone job => Sys2Proof.Machine.execMeterExportDone job s
  | .authorisationReadDone => Sys2Proof.Machine.execAuthorisationReadDone s
  | .mapRebuildDone vol => Sys2Proof.Machine.execMapRebuildDone vol s
  | .mapPageLoadDone vol page => Sys2Proof.Machine.execMapPageLoadDone vol page s
  | .journalTailOnMedia d lsn => Sys2Proof.Machine.execJournalTailOnMedia d lsn s
  | .pfcPauseExpiry port sub prio => Sys2Proof.Machine.execPfcPauseExpiry port sub prio s
  | .localFractionUpdate d => Sys2Proof.Machine.execLocalFractionUpdate d s
  | .fecDegradeCheck port symbols corrected => Sys2Proof.Machine.execFecDegradeCheck port symbols corrected s
  | .tapBytesFlush d ctx tc dir => Sys2Proof.Machine.execTapBytesFlush d ctx tc dir s
  | .flashTrayBusy d f => Sys2Proof.Machine.execFlashTrayBusy d f s
  | .rowRepairDone stack row => Sys2Proof.Machine.execRowRepairDone stack row s
  | .pepperHoldExpiry port idx => Sys2Proof.Machine.execPepperHoldExpiry port idx s

end Machine
end Sys2Proof
end

