-- ==== Sys2Proof/Machine/PodRun.lean ====
section
/-! DEFINITION. Instruction words and the run of a program (R285, R299 to R301): a core issues the word that stands in its program at the
program counter of its current thread. -/

namespace Sys2Proof
namespace Machine

/-- The fields of an instruction word (R299). -/
def podFields (v : Nat) : PodF :=
  { d := BitVec.ofNat 5 (fld v 51 47), a := BitVec.ofNat 5 (fld v 46 42), b := BitVec.ofNat 5 (fld v 41 37),
    c := BitVec.ofNat 5 (fld v 36 32), fmt := BitVec.ofNat 4 (fld v 31 28), rnd := BitVec.ofNat 2 (fld v 27 26), sat := bitAt v 25,
    bit24 := bitAt v 24, imm := BitVec.ofNat 24 (fld v 23 0) }

/-- The meaning of an instruction as a core of a die runs it. -/
abbrev PodExec := Die → Nat → PodF → State → Host.Outcome State Fault Refusal

/-- The control operations by OP (R300, CLASS 0). -/
def podControl : List (Nat × PodExec) :=
  [(0x00, execPodNop), (0x01, execPodEnd), (0x02, execPodJmp), (0x03, execPodBeq), (0x04, execPodBne), (0x05, execPodBlt),
   (0x06, execPodBltu), (0x07, execPodBar), (0x08, execPodFault), (0x09, execPodRdflg), (0x0A, execPodRdpace), (0x0B, execPodRdtime),
   (0x0C, execPodInfo)]

/-- The scalar operations by OP (R300, CLASS 1). -/
def podScalar : List (Nat × PodExec) :=
  [(0x00, execPodAdd), (0x01, execPodSub), (0x02, execPodMul), (0x03, execPodAnd), (0x04, execPodOr), (0x05, execPodXor),
   (0x06, execPodShl), (0x07, execPodShr), (0x08, execPodSra), (0x09, execPodMin), (0x0A, execPodMax), (0x0B, execPodSlt),
   (0x0C, execPodSltu), (0x10, execPodAddi), (0x11, execPodLi), (0x12, execPodLim), (0x13, execPodLit)]

/-- The scratch operations by OP (R300, CLASS 2). -/
def podScratch : List (Nat × PodExec) :=
  [(0x00, execPodSld), (0x01, execPodSst), (0x02, execPodVld), (0x03, execPodVst), (0x04, execPodVldb)]

/-- The vector operations by OP (R300, CLASS 3). -/
def podVector : List (Nat × PodExec) :=
  [(0x00, execPodVadd), (0x01, execPodVsub), (0x02, execPodVmul), (0x03, execPodVfma), (0x04, execPodVmin), (0x05, execPodVmax),
   (0x06, execPodVexp2), (0x07, execPodVlog2), (0x08, execPodVrcp), (0x09, execPodVrsq), (0x0A, execPodVcmplt), (0x0B, execPodVsel),
   (0x0C, execPodVbcs), (0x0D, execPodVmvs), (0x0E, execPodVradd), (0x0F, execPodVrmax), (0x10, execPodVidx), (0x11, execPodVcvt)]

/-- The matrix operations by OP (R300, CLASS 4). -/
def podMatrix : List (Nat × PodExec) :=
  [(0x00, execPodMzero), (0x01, execPodMma), (0x02, execPodMsc), (0x03, execPodMst), (0x04, execPodMld), (0x05, execPodMtv)]

/-- The stream operations by OP (R300, CLASS 5). -/
def podStream : List (Nat × PodExec) := [(0x00, execPodSrd), (0x01, execPodSwr)]

/-- The codec operations by OP (R300, CLASS 6). -/
def podCodec : List (Nat × PodExec) := [(0x00, execPodXpd), (0x01, execPodXpq), (0x02, execPodCpz)]

/-- The operations by CLASS. -/
def podOps : List (List (Nat × PodExec)) := [podControl, podScalar, podScratch, podVector, podMatrix, podStream, podCodec]

/-- The meaning of a CLASS and OP; none where R300 lists none (R301). -/
def podMeaning (cls op : Nat) : Option PodExec := ((nth podOps cls []).find? (fun x => x.1 == op)).map (·.2)

/-- The instruction word at the program counter of a core's current thread; none past the end of the code. -/
def podWord (c : Core) : Option Nat :=
  let pc := (threadOf c c.cur).pc
  if c.item.isSome && decide (pc < codeWords c) then some (le c.store (8 * pc) 8) else none

/-- A core issues the instruction its current thread has come to. A word with no CLASS and OP of R300, or a program counter past the end of
the code, faults the thread with FORMAT (R301; DEDUCED for the end of the code, log 174). -/
def runCore (d : Die) (p : Nat) (s : State) : State :=
  let bad := issue d p false (fun s c t => ⟨s, c, t, .next⟩) s
  match podWord (coreOf s d p) with
  | none => bad
  | some v =>
    match podMeaning (fld v 63 58) (fld v 57 52) with
    | none => bad
    | some g =>
      match g d p (podFields v) s with
      | .next t => t
      | _ => s

/-- The cores of a die that are listed. -/
def listedCores (s : State) (d : Die) : List Nat := (side s.pod d).cores.map (·.1)

/-- The cores that may issue an instruction now. -/
def issuers (s : State) : List (Die × Nat) :=
  [Die.d0, Die.d1].flatMap (fun d => ((listedCores s d).filter (fun p => canIssue (coreOf s d p))).map (fun p => (d, p)))

/-- Every core that may issue issues one instruction. -/
def runCores (s : State) : State := (issuers s).foldl (fun t x => runCore x.1 x.2 t) s

end Machine
end Sys2Proof
end

