-- ==== Sys2Proof/Machine/Idle.lean ====
section
/-! DEFINITION. The step on an empty queue: the pod cores run and time passes (R48, R285; DESIGN CHOICE, log 3). -/

namespace Sys2Proof
namespace Machine

/-- The token buckets of a die after one nanosecond: a bucket fills at RATE, one byte a nanosecond for each GB/s; one that is full is not
listed (R390). -/
def fillBuckets (s : State) (b : Dict Nat) : Dict Nat :=
  b.filterMap fun x =>
    let rate := qosRate s (x.1 / 8) (x.1 % 8)
    if rate = 0 ∨ 2 ^ 20 ≤ x.2 + rate then none else some (x.1, x.2 + rate)

/-- Time passes: both dies' interval timers count one nanosecond, and the token buckets fill. -/
def passTime (s : State) : State :=
  let one := fun (d : Die) (t : State) =>
    modEv (modDie t d (fun m => { m with timer := m.timer + 1 })) d (fun v => { v with buckets := fillBuckets s v.buckets })
  one .d1 (one .d0 s)

/-- Nothing is commanded: each pod core that may issue issues the instruction its current thread has come to, copying and the
operations that wait for it go on, and time passes. -/
def idle (s : State) : State := passTime (resumeData .d1 (resumeData .d0 (pump (runCores s))))

end Machine
end Sys2Proof
end

