-- ==== Sys2Proof/Safety.lean ====
section
/-! DEFINITION. What statements are said with: the parts of the state, what a command leaves alone, the canonical form of memory. -/

namespace Sys2Proof
namespace Machine

/-- The canonical form of memory holds. -/
abbrev Memory.wf (s : State) : Prop := memWf s.mem = true

/-- The parts of the state, one for each field of each unit; a unit that stands on both dies counts as one. -/
inductive Piece where
  | pending
  | cfgRecords
  | cfgSlotA
  | cfgSlotB
  | cfgSlotP
  | cfgLastLoadId
  | cfgLoadOrder
  | cfgPreferred
  | cfgActive
  | cfgFallback
  | cfgCameUnconfigured
  | cfgUnconfigured
  | cfgSwitchId
  | cfgActiveId
  | cfgDetClass
  | cfgConfigGen
  | cfgEthCtl
  | cfgEthLft
  | cfgLocalFrac
  | cfgLocalBytes
  | cfgTotalBytes
  | cfgStatus
  | cfgLastStatus
  | cfgApplying
  | cfgDraining
  | cfgCmdSeq
  | cfgJobs
  | cfgNextJob
  | cfgActiveSp
  | cfgSpInbox
  | cfgAuthWait
  | cfgStalkWait
  | cfgMirrorLog
  | lftPorts
  | lftSpray
  | lftReseq
  | lftBarrierTx
  | lftBarrierRx
  | lftNextBarrier
  | lftLivePaths
  | lftSprayIn
  | lftSent
  | lftKaSent
  | lftPfcSent
  | swcFifos
  | swcDeficits
  | swcOffFree
  | swcBorn
  | swcSuspect
  | swcQuarantined
  | swcAuditEpoch
  | swcSlackUsed
  | swcWithhold
  | swcStatus
  | swcPasses
  | swcReclaimed
  | swcArbWeight
  | swcLog2n
  | swcTrunc
  | swcPayload
  | swcEgress
  | swcIngress
  | swcEnable
  | swcSamplePorts
  | swcSampleDest
  | swcSampleDrop
  | swcSamplePool
  | swcSampleSeq
  | swcLfsr
  | swcStops
  | swcStalkIn
  | swcStalkSeq
  | swcStalkReplay
  | swcStalkNext
  | swcStalkSeen
  | swcStopMsgs
  | swcAgentInbox
  | swcAgentHold
  | swcAgentSeq
  | swcDiscarded
  | homeInbox
  | homeWaiting
  | homeOrder
  | homeStarved
  | homeWindows
  | homeDoubtful
  | homeHot
  | homeCombineEn
  | homeAgeUs
  | homeStatus
  | homeCombined
  | homeAgedIn
  | homeAgeNo
  | homeAckDropped
  | homeResumed
  | cohDir
  | cohOutstanding
  | cohMsgWait
  | cohTxnNo
  | cohFenceTags
  | cohAckTimeoutMs
  | cohStatus
  | cohRecalls
  | cohSel
  | cohRec0
  | cohRec1
  | tierRefillEn
  | tierSpillEn
  | tierPrefetchDepth
  | tierHighWm
  | tierLowWm
  | tierStatus
  | tierSpilled
  | tierPrefetched
  | tierCc
  | tierFlush
  | tierMoves
  | tierSkip
  | tierTrayReqs
  | tierNextTag
  | tierCopies
  | tierNextCopy
  | tierSpillMore
  | exts
  | objs
  | gens
  | sessions
  | vols
  | ftlStaging
  | ftlBlocks
  | ftlProgs
  | ftlNextProg
  | ftlRelocs
  | ftlDue
  | ftlCollects
  | ftlMapCache
  | ftlMapLeft
  | ftlClosing
  | ftlEraseWait
  | ftlCloseSeq
  | ftlTemps
  | ftlHours
  | ftlNextLsn
  | ftlRing
  | ftlRingBytes
  | ftlMediaLsn
  | ftlSinceCkpt
  | ftlCkptX
  | ftlCkptY
  | ftlCkptRun
  | ftlRingWait
  | ftlFlushRegion
  | ftlRetryMax
  | ftlEccRefresh
  | ftlFoldLow
  | ftlGcLow
  | ftlGcHigh
  | ftlWearSpread16
  | ftlDisturbK
  | ftlRetainW
  | ftlLevelMap0
  | ftlLevelMap1
  | ftlStatus
  | ftlReplayFail
  | podCores
  | podVacant
  | podQueue
  | podTurns
  | podSelftestS
  | podBudget
  | podStatus
  | podSel
  | podSelRec
  | podItems
  | colOps
  | colNextOp
  | colInstances
  | colCompleted
  | colSends
  | colInstTimeout
  | colStatus
  | colChunks
  | colAhead
  | colAttStatus
  | colSkipped
  | colReadBlocks
  | cmpSlots
  | cmpStatus
  | cmpDecodedRaw
  | cmpDecodedCoded
  | cmpCtxCode
  | ctxs
  | evQueue
  | evSeq
  | evLastAt
  | evPeriod
  | evBuckets
  | secSerial
  | secSealed
  | secDevCert
  | secMacBase
  | secOwnerKey
  | secFwArb
  | secBsArb
  | secLeftMeter
  | secLeftDebug
  | secLeftXfer
  | secTapMarks
  | secFw0
  | secFw1
  | secFwSlot
  | secFwSvn
  | secFwImage
  | secRecovery
  | secPufFail
  | secUnsealed
  | secUnlocked
  | secScope
  | secTransfers
  | secWindowBase
  | secStatus
  | mtrSt
  | mtrMeter
  | mtrKeyErased
  | mtrDetach
  | mtrStatus
  | mtrLog
  | mtrNewest
  | mtrNextPos
  | mtrReleased
  | mtrPeriodStart
  | mtrPendingTariff
  | mtrQuants
  | mtrTariffDigest
  | mtrChanges
  | mtrTapSeq
  | mtrTapBuf
  | mtrTapSent
  | mtrBytesCnt
  | mtrEscrow
  | mtrIngested
  | mtrExports
  | fltSwitches
  | fltFence
  | fltGen
  | fltReached
  | fltSelfFenced
  | fltAckDeadMs
  | fltGraceMs
  | fltStatus
  | fltFenceSel
  | fltFenceRec
  | fltSwitchSel
  | fltSwitchRec
  | fltCompSel
  | fltCompRec
  | fltXferSrc
  | fltXferDst
  | fltXferJob
  | fltFencing
  | fltAckReports
  | fltComps
  | fltPromoted
  | fltXfers
  | fltLostTrays
  | fltHeartbeats
  | fltUnreachable
  | fltFailedLinks
  | fltPepper
  | fltPepHits
  | modPower
  | modEn
  | modInputOk
  | modHoldupReady
  | modLastDown
  | modInputMv
  | modInputW
  | modHoldup
  | modHoldupLow
  | modMacBase
  | modAutoRow
  | modAutoPc
  | modAutoLane
  | modLed
  | modStatus
  | modDies
  | modCoolIn
  | modCoolOut
  | modLanes
  | modPcLeft
  | modPcCopy
  | modRows
  | modRowBusy
  | modRowsOut
  | modAdmitting
  | modStalkFailed
  | modPlanned
  | extSel
  | extRec
  | objSel
  | objRec
  | sesSel
  | sesRec
  | mem
  | poison
  | freeCtr
deriving DecidableEq, Repr

/-- Two states agree in a part. -/
def Piece.same (p : Piece) (s t : State) : Prop :=
  match p with
  | .pending => t.pending = s.pending
  | .cfgRecords => t.cfg.records = s.cfg.records
  | .cfgSlotA => t.cfg.slotA = s.cfg.slotA
  | .cfgSlotB => t.cfg.slotB = s.cfg.slotB
  | .cfgSlotP => t.cfg.slotP = s.cfg.slotP
  | .cfgLastLoadId => t.cfg.lastLoadId = s.cfg.lastLoadId
  | .cfgLoadOrder => t.cfg.loadOrder = s.cfg.loadOrder
  | .cfgPreferred => t.cfg.preferred = s.cfg.preferred
  | .cfgActive => t.cfg.active = s.cfg.active
  | .cfgFallback => t.cfg.fallback = s.cfg.fallback
  | .cfgCameUnconfigured => t.cfg.cameUnconfigured = s.cfg.cameUnconfigured
  | .cfgUnconfigured => t.cfg.unconfigured = s.cfg.unconfigured
  | .cfgSwitchId => t.cfg.switchId = s.cfg.switchId
  | .cfgActiveId => t.cfg.activeId = s.cfg.activeId
  | .cfgDetClass => t.cfg.detClass = s.cfg.detClass
  | .cfgConfigGen => t.cfg.configGen = s.cfg.configGen
  | .cfgEthCtl => t.cfg.ethCtl = s.cfg.ethCtl
  | .cfgEthLft => t.cfg.ethLft = s.cfg.ethLft
  | .cfgLocalFrac => t.cfg.localFrac = s.cfg.localFrac
  | .cfgLocalBytes => t.cfg.localBytes = s.cfg.localBytes
  | .cfgTotalBytes => t.cfg.totalBytes = s.cfg.totalBytes
  | .cfgStatus => t.cfg.status = s.cfg.status
  | .cfgLastStatus => t.cfg.lastStatus = s.cfg.lastStatus
  | .cfgApplying => t.cfg.applying = s.cfg.applying
  | .cfgDraining => t.cfg.draining = s.cfg.draining
  | .cfgCmdSeq => t.cfg.cmdSeq = s.cfg.cmdSeq
  | .cfgJobs => t.cfg.jobs = s.cfg.jobs
  | .cfgNextJob => t.cfg.nextJob = s.cfg.nextJob
  | .cfgActiveSp => t.cfg.activeSp = s.cfg.activeSp
  | .cfgSpInbox => t.cfg.spInbox = s.cfg.spInbox
  | .cfgAuthWait => t.cfg.authWait = s.cfg.authWait
  | .cfgStalkWait => t.cfg.stalkWait = s.cfg.stalkWait
  | .cfgMirrorLog => t.cfg.mirrorLog = s.cfg.mirrorLog
  | .lftPorts => t.lft.ports = s.lft.ports
  | .lftSpray => t.lft.spray = s.lft.spray
  | .lftReseq => t.lft.reseq = s.lft.reseq
  | .lftBarrierTx => t.lft.barrierTx = s.lft.barrierTx
  | .lftBarrierRx => t.lft.barrierRx = s.lft.barrierRx
  | .lftNextBarrier => t.lft.nextBarrier = s.lft.nextBarrier
  | .lftLivePaths => t.lft.livePaths = s.lft.livePaths
  | .lftSprayIn => t.lft.sprayIn = s.lft.sprayIn
  | .lftSent => t.lft.sent = s.lft.sent
  | .lftKaSent => t.lft.kaSent = s.lft.kaSent
  | .lftPfcSent => t.lft.pfcSent = s.lft.pfcSent
  | .swcFifos => t.swc.d0.fifos = s.swc.d0.fifos ∧ t.swc.d1.fifos = s.swc.d1.fifos
  | .swcDeficits => t.swc.d0.deficits = s.swc.d0.deficits ∧ t.swc.d1.deficits = s.swc.d1.deficits
  | .swcOffFree => t.swc.d0.offFree = s.swc.d0.offFree ∧ t.swc.d1.offFree = s.swc.d1.offFree
  | .swcBorn => t.swc.d0.born = s.swc.d0.born ∧ t.swc.d1.born = s.swc.d1.born
  | .swcSuspect => t.swc.d0.suspect = s.swc.d0.suspect ∧ t.swc.d1.suspect = s.swc.d1.suspect
  | .swcQuarantined => t.swc.d0.quarantined = s.swc.d0.quarantined ∧ t.swc.d1.quarantined = s.swc.d1.quarantined
  | .swcAuditEpoch => t.swc.d0.auditEpoch = s.swc.d0.auditEpoch ∧ t.swc.d1.auditEpoch = s.swc.d1.auditEpoch
  | .swcSlackUsed => t.swc.d0.slackUsed = s.swc.d0.slackUsed ∧ t.swc.d1.slackUsed = s.swc.d1.slackUsed
  | .swcWithhold => t.swc.d0.withhold = s.swc.d0.withhold ∧ t.swc.d1.withhold = s.swc.d1.withhold
  | .swcStatus => t.swc.d0.status = s.swc.d0.status ∧ t.swc.d1.status = s.swc.d1.status
  | .swcPasses => t.swc.d0.passes = s.swc.d0.passes ∧ t.swc.d1.passes = s.swc.d1.passes
  | .swcReclaimed => t.swc.d0.reclaimed = s.swc.d0.reclaimed ∧ t.swc.d1.reclaimed = s.swc.d1.reclaimed
  | .swcArbWeight => t.swc.d0.arbWeight = s.swc.d0.arbWeight ∧ t.swc.d1.arbWeight = s.swc.d1.arbWeight
  | .swcLog2n => t.swc.d0.log2n = s.swc.d0.log2n ∧ t.swc.d1.log2n = s.swc.d1.log2n
  | .swcTrunc => t.swc.d0.trunc = s.swc.d0.trunc ∧ t.swc.d1.trunc = s.swc.d1.trunc
  | .swcPayload => t.swc.d0.payload = s.swc.d0.payload ∧ t.swc.d1.payload = s.swc.d1.payload
  | .swcEgress => t.swc.d0.egress = s.swc.d0.egress ∧ t.swc.d1.egress = s.swc.d1.egress
  | .swcIngress => t.swc.d0.ingress = s.swc.d0.ingress ∧ t.swc.d1.ingress = s.swc.d1.ingress
  | .swcEnable => t.swc.d0.enable = s.swc.d0.enable ∧ t.swc.d1.enable = s.swc.d1.enable
  | .swcSamplePorts => t.swc.d0.samplePorts = s.swc.d0.samplePorts ∧ t.swc.d1.samplePorts = s.swc.d1.samplePorts
  | .swcSampleDest => t.swc.d0.sampleDest = s.swc.d0.sampleDest ∧ t.swc.d1.sampleDest = s.swc.d1.sampleDest
  | .swcSampleDrop => t.swc.d0.sampleDrop = s.swc.d0.sampleDrop ∧ t.swc.d1.sampleDrop = s.swc.d1.sampleDrop
  | .swcSamplePool => t.swc.d0.samplePool = s.swc.d0.samplePool ∧ t.swc.d1.samplePool = s.swc.d1.samplePool
  | .swcSampleSeq => t.swc.d0.sampleSeq = s.swc.d0.sampleSeq ∧ t.swc.d1.sampleSeq = s.swc.d1.sampleSeq
  | .swcLfsr => t.swc.d0.lfsr = s.swc.d0.lfsr ∧ t.swc.d1.lfsr = s.swc.d1.lfsr
  | .swcStops => t.swc.d0.stops = s.swc.d0.stops ∧ t.swc.d1.stops = s.swc.d1.stops
  | .swcStalkIn => t.swc.d0.stalkIn = s.swc.d0.stalkIn ∧ t.swc.d1.stalkIn = s.swc.d1.stalkIn
  | .swcStalkSeq => t.swc.d0.stalkSeq = s.swc.d0.stalkSeq ∧ t.swc.d1.stalkSeq = s.swc.d1.stalkSeq
  | .swcStalkReplay => t.swc.d0.stalkReplay = s.swc.d0.stalkReplay ∧ t.swc.d1.stalkReplay = s.swc.d1.stalkReplay
  | .swcStalkNext => t.swc.d0.stalkNext = s.swc.d0.stalkNext ∧ t.swc.d1.stalkNext = s.swc.d1.stalkNext
  | .swcStalkSeen => t.swc.d0.stalkSeen = s.swc.d0.stalkSeen ∧ t.swc.d1.stalkSeen = s.swc.d1.stalkSeen
  | .swcStopMsgs => t.swc.d0.stopMsgs = s.swc.d0.stopMsgs ∧ t.swc.d1.stopMsgs = s.swc.d1.stopMsgs
  | .swcAgentInbox => t.swc.d0.agentInbox = s.swc.d0.agentInbox ∧ t.swc.d1.agentInbox = s.swc.d1.agentInbox
  | .swcAgentHold => t.swc.d0.agentHold = s.swc.d0.agentHold ∧ t.swc.d1.agentHold = s.swc.d1.agentHold
  | .swcAgentSeq => t.swc.d0.agentSeq = s.swc.d0.agentSeq ∧ t.swc.d1.agentSeq = s.swc.d1.agentSeq
  | .swcDiscarded => t.swc.d0.discarded = s.swc.d0.discarded ∧ t.swc.d1.discarded = s.swc.d1.discarded
  | .homeInbox => t.home.d0.inbox = s.home.d0.inbox ∧ t.home.d1.inbox = s.home.d1.inbox
  | .homeWaiting => t.home.d0.waiting = s.home.d0.waiting ∧ t.home.d1.waiting = s.home.d1.waiting
  | .homeOrder => t.home.d0.order = s.home.d0.order ∧ t.home.d1.order = s.home.d1.order
  | .homeStarved => t.home.d0.starved = s.home.d0.starved ∧ t.home.d1.starved = s.home.d1.starved
  | .homeWindows => t.home.d0.windows = s.home.d0.windows ∧ t.home.d1.windows = s.home.d1.windows
  | .homeDoubtful => t.home.d0.doubtful = s.home.d0.doubtful ∧ t.home.d1.doubtful = s.home.d1.doubtful
  | .homeHot => t.home.d0.hot = s.home.d0.hot ∧ t.home.d1.hot = s.home.d1.hot
  | .homeCombineEn => t.home.d0.combineEn = s.home.d0.combineEn ∧ t.home.d1.combineEn = s.home.d1.combineEn
  | .homeAgeUs => t.home.d0.ageUs = s.home.d0.ageUs ∧ t.home.d1.ageUs = s.home.d1.ageUs
  | .homeStatus => t.home.d0.status = s.home.d0.status ∧ t.home.d1.status = s.home.d1.status
  | .homeCombined => t.home.d0.combined = s.home.d0.combined ∧ t.home.d1.combined = s.home.d1.combined
  | .homeAgedIn => t.home.d0.agedIn = s.home.d0.agedIn ∧ t.home.d1.agedIn = s.home.d1.agedIn
  | .homeAgeNo => t.home.d0.ageNo = s.home.d0.ageNo ∧ t.home.d1.ageNo = s.home.d1.ageNo
  | .homeAckDropped => t.home.d0.ackDropped = s.home.d0.ackDropped ∧ t.home.d1.ackDropped = s.home.d1.ackDropped
  | .homeResumed => t.home.d0.resumed = s.home.d0.resumed ∧ t.home.d1.resumed = s.home.d1.resumed
  | .cohDir => t.coh.d0.dir = s.coh.d0.dir ∧ t.coh.d1.dir = s.coh.d1.dir
  | .cohOutstanding => t.coh.d0.outstanding = s.coh.d0.outstanding ∧ t.coh.d1.outstanding = s.coh.d1.outstanding
  | .cohMsgWait => t.coh.d0.msgWait = s.coh.d0.msgWait ∧ t.coh.d1.msgWait = s.coh.d1.msgWait
  | .cohTxnNo => t.coh.d0.txnNo = s.coh.d0.txnNo ∧ t.coh.d1.txnNo = s.coh.d1.txnNo
  | .cohFenceTags => t.coh.d0.fenceTags = s.coh.d0.fenceTags ∧ t.coh.d1.fenceTags = s.coh.d1.fenceTags
  | .cohAckTimeoutMs => t.coh.d0.ackTimeoutMs = s.coh.d0.ackTimeoutMs ∧ t.coh.d1.ackTimeoutMs = s.coh.d1.ackTimeoutMs
  | .cohStatus => t.coh.d0.status = s.coh.d0.status ∧ t.coh.d1.status = s.coh.d1.status
  | .cohRecalls => t.coh.d0.recalls = s.coh.d0.recalls ∧ t.coh.d1.recalls = s.coh.d1.recalls
  | .cohSel => t.coh.d0.sel = s.coh.d0.sel ∧ t.coh.d1.sel = s.coh.d1.sel
  | .cohRec0 => t.coh.d0.rec0 = s.coh.d0.rec0 ∧ t.coh.d1.rec0 = s.coh.d1.rec0
  | .cohRec1 => t.coh.d0.rec1 = s.coh.d0.rec1 ∧ t.coh.d1.rec1 = s.coh.d1.rec1
  | .tierRefillEn => t.tier.d0.refillEn = s.tier.d0.refillEn ∧ t.tier.d1.refillEn = s.tier.d1.refillEn
  | .tierSpillEn => t.tier.d0.spillEn = s.tier.d0.spillEn ∧ t.tier.d1.spillEn = s.tier.d1.spillEn
  | .tierPrefetchDepth => t.tier.d0.prefetchDepth = s.tier.d0.prefetchDepth ∧ t.tier.d1.prefetchDepth = s.tier.d1.prefetchDepth
  | .tierHighWm => t.tier.d0.highWm = s.tier.d0.highWm ∧ t.tier.d1.highWm = s.tier.d1.highWm
  | .tierLowWm => t.tier.d0.lowWm = s.tier.d0.lowWm ∧ t.tier.d1.lowWm = s.tier.d1.lowWm
  | .tierStatus => t.tier.d0.status = s.tier.d0.status ∧ t.tier.d1.status = s.tier.d1.status
  | .tierSpilled => t.tier.d0.spilled = s.tier.d0.spilled ∧ t.tier.d1.spilled = s.tier.d1.spilled
  | .tierPrefetched => t.tier.d0.prefetched = s.tier.d0.prefetched ∧ t.tier.d1.prefetched = s.tier.d1.prefetched
  | .tierCc => t.tier.d0.cc = s.tier.d0.cc ∧ t.tier.d1.cc = s.tier.d1.cc
  | .tierFlush => t.tier.d0.flush = s.tier.d0.flush ∧ t.tier.d1.flush = s.tier.d1.flush
  | .tierMoves => t.tier.d0.moves = s.tier.d0.moves ∧ t.tier.d1.moves = s.tier.d1.moves
  | .tierSkip => t.tier.d0.skip = s.tier.d0.skip ∧ t.tier.d1.skip = s.tier.d1.skip
  | .tierTrayReqs => t.tier.d0.trayReqs = s.tier.d0.trayReqs ∧ t.tier.d1.trayReqs = s.tier.d1.trayReqs
  | .tierNextTag => t.tier.d0.nextTag = s.tier.d0.nextTag ∧ t.tier.d1.nextTag = s.tier.d1.nextTag
  | .tierCopies => t.tier.d0.copies = s.tier.d0.copies ∧ t.tier.d1.copies = s.tier.d1.copies
  | .tierNextCopy => t.tier.d0.nextCopy = s.tier.d0.nextCopy ∧ t.tier.d1.nextCopy = s.tier.d1.nextCopy
  | .tierSpillMore => t.tier.d0.spillMore = s.tier.d0.spillMore ∧ t.tier.d1.spillMore = s.tier.d1.spillMore
  | .exts => t.exts = s.exts
  | .objs => t.objs = s.objs
  | .gens => t.gens = s.gens
  | .sessions => t.sessions = s.sessions
  | .vols => t.vols = s.vols
  | .ftlStaging => t.ftl.d0.staging = s.ftl.d0.staging ∧ t.ftl.d1.staging = s.ftl.d1.staging
  | .ftlBlocks => t.ftl.d0.blocks = s.ftl.d0.blocks ∧ t.ftl.d1.blocks = s.ftl.d1.blocks
  | .ftlProgs => t.ftl.d0.progs = s.ftl.d0.progs ∧ t.ftl.d1.progs = s.ftl.d1.progs
  | .ftlNextProg => t.ftl.d0.nextProg = s.ftl.d0.nextProg ∧ t.ftl.d1.nextProg = s.ftl.d1.nextProg
  | .ftlRelocs => t.ftl.d0.relocs = s.ftl.d0.relocs ∧ t.ftl.d1.relocs = s.ftl.d1.relocs
  | .ftlDue => t.ftl.d0.due = s.ftl.d0.due ∧ t.ftl.d1.due = s.ftl.d1.due
  | .ftlCollects => t.ftl.d0.collects = s.ftl.d0.collects ∧ t.ftl.d1.collects = s.ftl.d1.collects
  | .ftlMapCache => t.ftl.d0.mapCache = s.ftl.d0.mapCache ∧ t.ftl.d1.mapCache = s.ftl.d1.mapCache
  | .ftlMapLeft => t.ftl.d0.mapLeft = s.ftl.d0.mapLeft ∧ t.ftl.d1.mapLeft = s.ftl.d1.mapLeft
  | .ftlClosing => t.ftl.d0.closing = s.ftl.d0.closing ∧ t.ftl.d1.closing = s.ftl.d1.closing
  | .ftlEraseWait => t.ftl.d0.eraseWait = s.ftl.d0.eraseWait ∧ t.ftl.d1.eraseWait = s.ftl.d1.eraseWait
  | .ftlCloseSeq => t.ftl.d0.closeSeq = s.ftl.d0.closeSeq ∧ t.ftl.d1.closeSeq = s.ftl.d1.closeSeq
  | .ftlTemps => t.ftl.d0.temps = s.ftl.d0.temps ∧ t.ftl.d1.temps = s.ftl.d1.temps
  | .ftlHours => t.ftl.d0.hours = s.ftl.d0.hours ∧ t.ftl.d1.hours = s.ftl.d1.hours
  | .ftlNextLsn => t.ftl.d0.nextLsn = s.ftl.d0.nextLsn ∧ t.ftl.d1.nextLsn = s.ftl.d1.nextLsn
  | .ftlRing => t.ftl.d0.ring = s.ftl.d0.ring ∧ t.ftl.d1.ring = s.ftl.d1.ring
  | .ftlRingBytes => t.ftl.d0.ringBytes = s.ftl.d0.ringBytes ∧ t.ftl.d1.ringBytes = s.ftl.d1.ringBytes
  | .ftlMediaLsn => t.ftl.d0.mediaLsn = s.ftl.d0.mediaLsn ∧ t.ftl.d1.mediaLsn = s.ftl.d1.mediaLsn
  | .ftlSinceCkpt => t.ftl.d0.sinceCkpt = s.ftl.d0.sinceCkpt ∧ t.ftl.d1.sinceCkpt = s.ftl.d1.sinceCkpt
  | .ftlCkptX => t.ftl.d0.ckptX = s.ftl.d0.ckptX ∧ t.ftl.d1.ckptX = s.ftl.d1.ckptX
  | .ftlCkptY => t.ftl.d0.ckptY = s.ftl.d0.ckptY ∧ t.ftl.d1.ckptY = s.ftl.d1.ckptY
  | .ftlCkptRun => t.ftl.d0.ckptRun = s.ftl.d0.ckptRun ∧ t.ftl.d1.ckptRun = s.ftl.d1.ckptRun
  | .ftlRingWait => t.ftl.d0.ringWait = s.ftl.d0.ringWait ∧ t.ftl.d1.ringWait = s.ftl.d1.ringWait
  | .ftlFlushRegion => t.ftl.d0.flushRegion = s.ftl.d0.flushRegion ∧ t.ftl.d1.flushRegion = s.ftl.d1.flushRegion
  | .ftlRetryMax => t.ftl.d0.retryMax = s.ftl.d0.retryMax ∧ t.ftl.d1.retryMax = s.ftl.d1.retryMax
  | .ftlEccRefresh => t.ftl.d0.eccRefresh = s.ftl.d0.eccRefresh ∧ t.ftl.d1.eccRefresh = s.ftl.d1.eccRefresh
  | .ftlFoldLow => t.ftl.d0.foldLow = s.ftl.d0.foldLow ∧ t.ftl.d1.foldLow = s.ftl.d1.foldLow
  | .ftlGcLow => t.ftl.d0.gcLow = s.ftl.d0.gcLow ∧ t.ftl.d1.gcLow = s.ftl.d1.gcLow
  | .ftlGcHigh => t.ftl.d0.gcHigh = s.ftl.d0.gcHigh ∧ t.ftl.d1.gcHigh = s.ftl.d1.gcHigh
  | .ftlWearSpread16 => t.ftl.d0.wearSpread16 = s.ftl.d0.wearSpread16 ∧ t.ftl.d1.wearSpread16 = s.ftl.d1.wearSpread16
  | .ftlDisturbK => t.ftl.d0.disturbK = s.ftl.d0.disturbK ∧ t.ftl.d1.disturbK = s.ftl.d1.disturbK
  | .ftlRetainW => t.ftl.d0.retainW = s.ftl.d0.retainW ∧ t.ftl.d1.retainW = s.ftl.d1.retainW
  | .ftlLevelMap0 => t.ftl.d0.levelMap0 = s.ftl.d0.levelMap0 ∧ t.ftl.d1.levelMap0 = s.ftl.d1.levelMap0
  | .ftlLevelMap1 => t.ftl.d0.levelMap1 = s.ftl.d0.levelMap1 ∧ t.ftl.d1.levelMap1 = s.ftl.d1.levelMap1
  | .ftlStatus => t.ftl.d0.status = s.ftl.d0.status ∧ t.ftl.d1.status = s.ftl.d1.status
  | .ftlReplayFail => t.ftl.d0.replayFail = s.ftl.d0.replayFail ∧ t.ftl.d1.replayFail = s.ftl.d1.replayFail
  | .podCores => t.pod.d0.cores = s.pod.d0.cores ∧ t.pod.d1.cores = s.pod.d1.cores
  | .podVacant => t.pod.d0.vacant = s.pod.d0.vacant ∧ t.pod.d1.vacant = s.pod.d1.vacant
  | .podQueue => t.pod.d0.queue = s.pod.d0.queue ∧ t.pod.d1.queue = s.pod.d1.queue
  | .podTurns => t.pod.d0.turns = s.pod.d0.turns ∧ t.pod.d1.turns = s.pod.d1.turns
  | .podSelftestS => t.pod.d0.selftestS = s.pod.d0.selftestS ∧ t.pod.d1.selftestS = s.pod.d1.selftestS
  | .podBudget => t.pod.d0.budget = s.pod.d0.budget ∧ t.pod.d1.budget = s.pod.d1.budget
  | .podStatus => t.pod.d0.status = s.pod.d0.status ∧ t.pod.d1.status = s.pod.d1.status
  | .podSel => t.pod.d0.sel = s.pod.d0.sel ∧ t.pod.d1.sel = s.pod.d1.sel
  | .podSelRec => t.pod.d0.selRec = s.pod.d0.selRec ∧ t.pod.d1.selRec = s.pod.d1.selRec
  | .podItems => t.pod.d0.items = s.pod.d0.items ∧ t.pod.d1.items = s.pod.d1.items
  | .colOps => t.col.d0.ops = s.col.d0.ops ∧ t.col.d1.ops = s.col.d1.ops
  | .colNextOp => t.col.d0.nextOp = s.col.d0.nextOp ∧ t.col.d1.nextOp = s.col.d1.nextOp
  | .colInstances => t.col.d0.instances = s.col.d0.instances ∧ t.col.d1.instances = s.col.d1.instances
  | .colCompleted => t.col.d0.completed = s.col.d0.completed ∧ t.col.d1.completed = s.col.d1.completed
  | .colSends => t.col.d0.sends = s.col.d0.sends ∧ t.col.d1.sends = s.col.d1.sends
  | .colInstTimeout => t.col.d0.instTimeout = s.col.d0.instTimeout ∧ t.col.d1.instTimeout = s.col.d1.instTimeout
  | .colStatus => t.col.d0.status = s.col.d0.status ∧ t.col.d1.status = s.col.d1.status
  | .colChunks => t.col.d0.chunks = s.col.d0.chunks ∧ t.col.d1.chunks = s.col.d1.chunks
  | .colAhead => t.col.d0.ahead = s.col.d0.ahead ∧ t.col.d1.ahead = s.col.d1.ahead
  | .colAttStatus => t.col.d0.attStatus = s.col.d0.attStatus ∧ t.col.d1.attStatus = s.col.d1.attStatus
  | .colSkipped => t.col.d0.skipped = s.col.d0.skipped ∧ t.col.d1.skipped = s.col.d1.skipped
  | .colReadBlocks => t.col.d0.readBlocks = s.col.d0.readBlocks ∧ t.col.d1.readBlocks = s.col.d1.readBlocks
  | .cmpSlots => t.cmp.slots = s.cmp.slots
  | .cmpStatus => t.cmp.status = s.cmp.status
  | .cmpDecodedRaw => t.cmp.decodedRaw = s.cmp.decodedRaw
  | .cmpDecodedCoded => t.cmp.decodedCoded = s.cmp.decodedCoded
  | .cmpCtxCode => t.cmp.ctxCode = s.cmp.ctxCode
  | .ctxs => t.ctxs = s.ctxs
  | .evQueue => t.ev.d0.queue = s.ev.d0.queue ∧ t.ev.d1.queue = s.ev.d1.queue
  | .evSeq => t.ev.d0.seq = s.ev.d0.seq ∧ t.ev.d1.seq = s.ev.d1.seq
  | .evLastAt => t.ev.d0.lastAt = s.ev.d0.lastAt ∧ t.ev.d1.lastAt = s.ev.d1.lastAt
  | .evPeriod => t.ev.d0.period = s.ev.d0.period ∧ t.ev.d1.period = s.ev.d1.period
  | .evBuckets => t.ev.d0.buckets = s.ev.d0.buckets ∧ t.ev.d1.buckets = s.ev.d1.buckets
  | .secSerial => t.sec.serial = s.sec.serial
  | .secSealed => t.sec.sealed = s.sec.sealed
  | .secDevCert => t.sec.devCert = s.sec.devCert
  | .secMacBase => t.sec.macBase = s.sec.macBase
  | .secOwnerKey => t.sec.ownerKey = s.sec.ownerKey
  | .secFwArb => t.sec.fwArb = s.sec.fwArb
  | .secBsArb => t.sec.bsArb = s.sec.bsArb
  | .secLeftMeter => t.sec.leftMeter = s.sec.leftMeter
  | .secLeftDebug => t.sec.leftDebug = s.sec.leftDebug
  | .secLeftXfer => t.sec.leftXfer = s.sec.leftXfer
  | .secTapMarks => t.sec.tapMarks = s.sec.tapMarks
  | .secFw0 => t.sec.fw0 = s.sec.fw0
  | .secFw1 => t.sec.fw1 = s.sec.fw1
  | .secFwSlot => t.sec.fwSlot = s.sec.fwSlot
  | .secFwSvn => t.sec.fwSvn = s.sec.fwSvn
  | .secFwImage => t.sec.fwImage = s.sec.fwImage
  | .secRecovery => t.sec.recovery = s.sec.recovery
  | .secPufFail => t.sec.pufFail = s.sec.pufFail
  | .secUnsealed => t.sec.unsealed = s.sec.unsealed
  | .secUnlocked => t.sec.unlocked = s.sec.unlocked
  | .secScope => t.sec.scope = s.sec.scope
  | .secTransfers => t.sec.transfers = s.sec.transfers
  | .secWindowBase => t.sec.windowBase = s.sec.windowBase
  | .secStatus => t.sec.status = s.sec.status
  | .mtrSt => t.mtr.st = s.mtr.st
  | .mtrMeter => t.mtr.meter = s.mtr.meter
  | .mtrKeyErased => t.mtr.keyErased = s.mtr.keyErased
  | .mtrDetach => t.mtr.detach = s.mtr.detach
  | .mtrStatus => t.mtr.status = s.mtr.status
  | .mtrLog => t.mtr.log = s.mtr.log
  | .mtrNewest => t.mtr.newest = s.mtr.newest
  | .mtrNextPos => t.mtr.nextPos = s.mtr.nextPos
  | .mtrReleased => t.mtr.released = s.mtr.released
  | .mtrPeriodStart => t.mtr.periodStart = s.mtr.periodStart
  | .mtrPendingTariff => t.mtr.pendingTariff = s.mtr.pendingTariff
  | .mtrQuants => t.mtr.quants = s.mtr.quants
  | .mtrTariffDigest => t.mtr.tariffDigest = s.mtr.tariffDigest
  | .mtrChanges => t.mtr.changes = s.mtr.changes
  | .mtrTapSeq => t.mtr.tapSeq = s.mtr.tapSeq
  | .mtrTapBuf => t.mtr.tapBuf = s.mtr.tapBuf
  | .mtrTapSent => t.mtr.tapSent = s.mtr.tapSent
  | .mtrBytesCnt => t.mtr.bytesCnt = s.mtr.bytesCnt
  | .mtrEscrow => t.mtr.escrow = s.mtr.escrow
  | .mtrIngested => t.mtr.ingested = s.mtr.ingested
  | .mtrExports => t.mtr.exports = s.mtr.exports
  | .fltSwitches => t.flt.switches = s.flt.switches
  | .fltFence => t.flt.fence = s.flt.fence
  | .fltGen => t.flt.gen = s.flt.gen
  | .fltReached => t.flt.reached = s.flt.reached
  | .fltSelfFenced => t.flt.selfFenced = s.flt.selfFenced
  | .fltAckDeadMs => t.flt.ackDeadMs = s.flt.ackDeadMs
  | .fltGraceMs => t.flt.graceMs = s.flt.graceMs
  | .fltStatus => t.flt.status = s.flt.status
  | .fltFenceSel => t.flt.fenceSel = s.flt.fenceSel
  | .fltFenceRec => t.flt.fenceRec = s.flt.fenceRec
  | .fltSwitchSel => t.flt.switchSel = s.flt.switchSel
  | .fltSwitchRec => t.flt.switchRec = s.flt.switchRec
  | .fltCompSel => t.flt.compSel = s.flt.compSel
  | .fltCompRec => t.flt.compRec = s.flt.compRec
  | .fltXferSrc => t.flt.xferSrc = s.flt.xferSrc
  | .fltXferDst => t.flt.xferDst = s.flt.xferDst
  | .fltXferJob => t.flt.xferJob = s.flt.xferJob
  | .fltFencing => t.flt.fencing = s.flt.fencing
  | .fltAckReports => t.flt.ackReports = s.flt.ackReports
  | .fltComps => t.flt.comps = s.flt.comps
  | .fltPromoted => t.flt.promoted = s.flt.promoted
  | .fltXfers => t.flt.xfers = s.flt.xfers
  | .fltLostTrays => t.flt.lostTrays = s.flt.lostTrays
  | .fltHeartbeats => t.flt.heartbeats = s.flt.heartbeats
  | .fltUnreachable => t.flt.unreachable = s.flt.unreachable
  | .fltFailedLinks => t.flt.failedLinks = s.flt.failedLinks
  | .fltPepper => t.flt.pepper = s.flt.pepper
  | .fltPepHits => t.flt.pepHits = s.flt.pepHits
  | .modPower => t.mod.power = s.mod.power
  | .modEn => t.mod.en = s.mod.en
  | .modInputOk => t.mod.inputOk = s.mod.inputOk
  | .modHoldupReady => t.mod.holdupReady = s.mod.holdupReady
  | .modLastDown => t.mod.lastDown = s.mod.lastDown
  | .modInputMv => t.mod.inputMv = s.mod.inputMv
  | .modInputW => t.mod.inputW = s.mod.inputW
  | .modHoldup => t.mod.holdup = s.mod.holdup
  | .modHoldupLow => t.mod.holdupLow = s.mod.holdupLow
  | .modMacBase => t.mod.macBase = s.mod.macBase
  | .modAutoRow => t.mod.autoRow = s.mod.autoRow
  | .modAutoPc => t.mod.autoPc = s.mod.autoPc
  | .modAutoLane => t.mod.autoLane = s.mod.autoLane
  | .modLed => t.mod.led = s.mod.led
  | .modStatus => t.mod.status = s.mod.status
  | .modDies => t.mod.dies = s.mod.dies
  | .modCoolIn => t.mod.coolIn = s.mod.coolIn
  | .modCoolOut => t.mod.coolOut = s.mod.coolOut
  | .modLanes => t.mod.lanes = s.mod.lanes
  | .modPcLeft => t.mod.pcLeft = s.mod.pcLeft
  | .modPcCopy => t.mod.pcCopy = s.mod.pcCopy
  | .modRows => t.mod.rows = s.mod.rows
  | .modRowBusy => t.mod.rowBusy = s.mod.rowBusy
  | .modRowsOut => t.mod.rowsOut = s.mod.rowsOut
  | .modAdmitting => t.mod.admitting = s.mod.admitting
  | .modStalkFailed => t.mod.stalkFailed = s.mod.stalkFailed
  | .modPlanned => t.mod.planned = s.mod.planned
  | .extSel => t.extSel = s.extSel
  | .extRec => t.extRec = s.extRec
  | .objSel => t.objSel = s.objSel
  | .objRec => t.objRec = s.objRec
  | .sesSel => t.sesSel = s.sesSel
  | .sesRec => t.sesRec = s.sesRec
  | .mem => t.mem = s.mem
  | .poison => t.poison = s.poison
  | .freeCtr => t.freeCtr = s.freeCtr

/-- A command that goes from one state to another changes at most the parts of a list. -/
def KeepsBut (l : List Piece) (s t : State) : Prop := ∀ p, p ∉ l → p.same s t

/-! Parts that change together -/

/-- Emitting an event: the queue, and what a context counts of events. -/
def eventParts : List Piece :=
  [.ctxs, .evQueue]

/-- Sending a tap event. -/
def tapParts : List Piece :=
  [.mtrTapSeq, .mtrTapBuf, .mtrEscrow]

/-- Writing a journal record. -/
def journalParts : List Piece :=
  [.ftlNextLsn, .ftlRing, .ftlRingBytes, .ftlSinceCkpt, .ftlRingWait, .ftlStatus]

/-- Answering a control command. -/
def ctlAnswerParts : List Piece :=
  [.cfgLastStatus, .cfgCmdSeq, .cfgSpInbox, .cfgMirrorLog]

/-- Beginning a job. -/
def jobParts : List Piece :=
  [.cfgJobs, .cfgNextJob]

/-- The bitstream slots. -/
def slotParts : List Piece :=
  [.cfgSlotA, .cfgSlotB, .cfgSlotP]

/-- Admitting the frames that stand at an ingress. -/
def admitParts : List Piece :=
  [.lftSprayIn, .ctxs, .evQueue, .evBuckets, .fltPepper, .fltPepHits, .freeCtr]

/-- Taking a request from the home input. -/
def takeParts : List Piece :=
  [.lftPorts, .lftPfcSent, .swcOffFree, .swcQuarantined, .homeInbox, .homeAgedIn]

/-- Copying between the tiers. -/
def copyParts : List Piece :=
  [.tierCopies, .tierNextCopy, .vols, .ftlStaging, .ftlMapCache, .ftlStatus, .evQueue, .mem, .poison]

/-- Sending a request to a tray. -/
def trayParts : List Piece :=
  [.swcAgentSeq, .tierTrayReqs, .tierNextTag]

/-- Transactions of the directory and the lines it serves. -/
def directoryParts : List Piece :=
  [.homeHot, .cohDir, .cohOutstanding, .cohMsgWait, .cohTxnNo, .cohStatus, .cohFenceTags, .cohRecalls, .tierCc]

/-- The operations of the services and their work items. -/
def serviceParts : List Piece :=
  [.podQueue, .colOps, .colInstances, .colCompleted, .colSends]

/-- Appending to the meter log, and what the meter acknowledges. -/
def logParts : List Piece :=
  [.mtrLog, .mtrNewest, .mtrNextPos, .mtrTapBuf, .mtrEscrow]

/-- Blocks, programs and relocations of the flash engine. -/
def flashParts : List Piece :=
  [.ftlBlocks, .ftlProgs, .ftlNextProg, .ftlRelocs, .ftlDue, .ftlCloseSeq, .ftlClosing, .ftlEraseWait]

/-- Memory, poison, and what flash holds of a volume. -/
def byteParts : List Piece :=
  [.mem, .poison, .vols, .ftlStaging]

/-- Serving bytes from their tier. -/
def tierParts : List Piece :=
  [.homeWaiting, .homeStatus, .objs, .tierMoves, .tierStatus, .colAttStatus, .cmpStatus, .cmpDecodedRaw, .cmpDecodedCoded]

/-- Going off. -/
def powerOffParts : List Piece :=
  [.ftlStaging, .ftlProgs, .ftlMediaLsn, .ftlFlushRegion, .modPower, .modEn, .modLastDown, .modAdmitting, .modPlanned, .freeCtr]



/-! Control commands -/

/-- A control command passes checks 1 to 6 of R493 as one to execute: no authorisation is being read, its records find room and the stalk carries
them, the command is not one whose response still waits for the other die. -/
def CtlReady (s : State) (code : Nat) (r : CtlReq) : Prop :=
  s.cfg.authWait = none ∧ ctlWaits s code = false ∧ ctlRefused s code r = none ∧
    s.cfg.stalkWait.any (fun x => x.req.srcEp == r.srcEp && x.req.cmdSeq == r.cmdSeq) = false ∧
    seqCheck s r = none ∧ argBad s code r = none ∧ ctlBusy s code = none

/-- The command is executed, and its response is the newest held one of its source (R109). -/
def Answered (t : State) (code : Nat) (r : CtlReq) (status : BitVec 5) (results : Bytes) : Prop :=
  ∃ rest, get? t.cfg.cmdSeq r.srcEp.toNat = some ⟨r.cmdSeq, ⟨r.cmdSeq, code, status, 0, results⟩ :: rest⟩

/-- A job command is accepted: it is answered OK with the next JOB number, and that job is in progress (R107, R110). -/
def JobAccepted (s t : State) (code : Nat) (r : CtlReq) (args : List Nat) : Prop :=
  Answered t code r Sts.ok (toLE 4 s.cfg.nextJob ++ zeros 4) ∧
    (⟨s.cfg.nextJob, code, r.srcEp.toNat, r.ctx.toNat, args⟩ : Job) ∈ t.cfg.jobs

/-- The control commands of R107 by code, but for STOP and RESUME, which are executed at an ingress. -/
def ctlCommands : List (Nat × (CtlReq → Instr)) :=
  [(0x01, .echo), (0x10, .bsBegin), (0x11, .bsData), (0x12, .bsFetch), (0x13, .bsEnd), (0x14, .bsAbort), (0x15, .bsActivate),
   (0x20, .extCreate), (0x21, .extRevoke), (0x22, .grantAdd), (0x23, .grantRemove), (0x30, .ctxCreate), (0x31, .ctxDestroy),
   (0x32, .admitAdd), (0x33, .admitRemove), (0x34, .qosSet), (0x40, .ctxReset), (0x41, .portReset), (0x42, .moduleReset),
   (0x60, .fenceAdvance), (0x61, .compCreate), (0x62, .compCommit), (0x63, .compRollback), (0x64, .replicaPromote),
   (0x70, .attestQuote), (0x71, .debugUnlock), (0x72, .ownerKeyTransfer), (0x80, .meterTariff), (0x81, .meterExport),
   (0x90, .pepSet), (0x91, .pepClear)]

/-- What sending a frame of this switch may change: the output FIFOs and cells, streams and barriers toward other switches, the
combining of requests, pauses on PFC ports, what the die's agents hold for want of cells and whose wait that is. -/
def sendParts : List Piece :=
  [.lftPorts, .lftSpray, .lftBarrierTx, .lftPfcSent, .swcFifos, .swcOffFree, .swcBorn, .swcQuarantined, .swcAgentHold, .homeCombined, .ctxs]

/-- An event of a context goes into a die's queue: where it has a destination, and, if it is discrete, a free entry, an entry of its
code and data stands in the queue afterwards (R384, R386). -/
def Emitted (s t : State) (d : Die) (c code : Nat) (data : Bytes) : Prop :=
  eventEp s c ≠ 0 → coalesces code = true ∨ evRoom (side s.ev d).queue c = true →
    ∃ e ∈ (side t.ev d).queue, e.stream = c ∧ e.code = code ∧ e.data = data

/-! Register accesses -/

/-- An access of the window by a frame that passes every check, outside recovery and while no authorisation is being read (R111, R172). -/
def RegReady (s : State) (f : Frame) : Prop :=
  s.cfg.authWait = none ∧ s.sec.recovery = false ∧ inWindow (addrOff f.addr.toNat) = true ∧ regBad (takeSp f s) f = none

/-- What counting a request and its answer for the meter changes (R425). -/
def countParts : List Piece := [.mtrTapSeq, .mtrTapBuf, .mtrBytesCnt, .mtrEscrow]

/-- What serving an access of the window changes beside what the register itself governs: the frame is taken, its bytes are counted, the
answer is sent. -/
def regParts : List Piece := sendParts ++ .cfgSpInbox :: countParts

/-- A store to the register at an offset, of a value it takes, leaves it reading that value's fields and changes nothing else but a list of
parts. -/
def StoresBack (off : Nat) (ok : Nat → Bool) (val : Nat → Nat) (l : List Piece) : Prop :=
  ∀ (s : State) (f : Frame), RegReady s f → f.opcode = Opc.st → regOff f = off → ok (le f.payload 0 8) = true →
    ∃ t, exec (.registerWrite f) s = .next t ∧ regRead t off = some (val (le f.payload 0 8)) ∧ KeepsBut (regParts ++ l) s t

/-! Arriving frames -/

/-- A frame stands on the wire of a credit-mode attachment sub-link in service as the sub-link expects it next: intact, of the fabric's
EtherType, with its HCRC right, its sequence number the next one, and no acknowledgement (R118 to R121, R136). -/
def OnWire (s : State) (p k : Nat) (w : WireFrame) : Prop :=
  subThere s p k = true ∧ (subOf s p k).phase = .up ∧ wireBad s p k w = none ∧ w.etherType = s.cfg.ethLft ∧ w.hcrc = hcrcOf w.frame ∧
    portPfc s p = false ∧ attachment s p = true ∧ w.trailer.seqValid = true ∧ w.trailer.lseq = (subOf s p k).rxSeq ∧
    w.trailer.ackValid = false

/-- Nothing at a port holds a request of a frame's flow: no stop, no frame held before it, no acquire unanswered, no pepper rule, no rate,
room in the write record, no request refused for the die's or the port's sake (R30, R165, R176, R179, R389, R390, R467). -/
def NothingHolds (s : State) (p : Nat) (f : Frame) : Prop :=
  notNow s p f = false ∧ (side s.swc (portDie p)).stops = [] ∧ heldAt (portOf s p) = [] ∧ (portOf s p).acquires = [] ∧ s.flt.pepper = [] ∧
    rated s f = false ∧ writeRecFull s p = false

/-- A frame passes the checks of an ingress: the header, its epoch, its route, its context, and from a tray it is an answer (R132, R172,
R232, R394, R445, R450). -/
def PassesChecks (s : State) (p : Nat) (etype : BitVec 16) (f : Frame) : Prop :=
  s.sec.recovery = false ∧ headerBad s p etype f = none ∧ trayStray s p f = false ∧ fenceCheck s p f = .passes ∧ routeBad s f = none ∧ selfFencedBad s f = false ∧
    ctxEnds s p f = false

/-- A frame as an attachment port stamps it (R57). -/
def stamped (s : State) (p k : Nat) (f : Frame) : Frame := { f with srcEp := BitVec.ofNat 20 (subEp s p k) }

/-! Requests at the home -/

/-- The home of a die takes a request, with the constituents of a combined one, now: it is the home that serves it, it need not wait and it is its turn
(R26, R62, R190 to R192, R276). -/
def TakesNow (s : State) (d : Die) (f : Frame) (more : List Frame) : Prop :=
  serveDie s f = d ∧ (f :: more).any (mustWait s d) = false ∧ homeTurn s d (f :: more) = true

/-- A request addresses pooled memory, and its home takes it now; it did not age on its way there. -/
def MemTaken (s : State) (d : Die) (f : Frame) : Prop := toSp f = false ∧ TakesNow s d f [] ∧ agedNo s d [f] = 0

/-- A memory request passes checks 1 to 7 of R172 at its home. -/
def MemServed (s : State) (d : Die) (f : Frame) : Prop :=
  memFormBad f = none ∧ outstanding s d (keyOf f) = false ∧ memAligned f = true ∧ memRefusal s d f = none ∧ (findTracker s d f).isSome = true

/-- No copying or transfer keeps accesses to an object waiting: no move or transfer of it is switching over, and no clone is made of it. -/
def Settled (s : State) (d : Die) (id : Nat) : Prop :=
  (side s.tier d).moves.any (fun m => m.obj == id && m.switching) = false ∧ s.flt.xfers.any (fun m => m.obj == id && m.switching) = false ∧
    ∀ j ∈ (side s.tier d).copies, ∀ f, j.why ≠ .clone f id

/-- A memory request waits for nothing: its bytes lie in T0, in no row under repair, in no object that is switching over or of which a clone is
made, in no line the directory holds or a waiting request shares; the hold-up bank is not low. -/
def FromT0 (s : State) (d : Die) (f : Frame) : Prop :=
  ∃ e, extAt s (transOff s f.addr.toNat) = some e ∧ placeOf s e (transOff s f.addr.toNat) = .t0 ∧
    rowHeld s (localAddr s f.addr.toNat) (accessLen f) = none ∧ s.mod.holdupLow = false ∧
    (e.classT = true → ∀ x, objAt s (transOff s f.addr.toNat) = some x → Settled s d x.1) ∧
    (e.classT = false → ∀ l ∈ linesOf (localAddr s f.addr.toNat) (accessLen f), dirOf s d l = none) ∧
    lineHeld s (side s.home d).waiting (linesOf (localAddr s f.addr.toNat) (accessLen f)) = false

/-- What taking a request into its tracker changes: it leaves the home's input and its ingress allocation, and is counted. -/
def enterParts : List Piece :=
  takeParts ++ countParts ++ [.homeOrder, .homeHot, .homeStatus, .ctxs, .evQueue]

/-- What serving a memory request changes beside memory, poison and the windows of atomics. -/
def homeParts : List Piece := enterParts ++ [.objs, .tierMoves, .fltXfers]

/-- An uncorrectable error of module DRAM stands in a line that a request touches (R193). -/
def EccIn (s : State) (f : Frame) (ecc : List Nat) : Prop := ∃ g ∈ ecc, g ∈ linesOf (localAddr s f.addr.toNat) (accessLen f)

/-- Every byte outside a range reads as before. -/
def OutsideKept (s t : State) (a n : Nat) : Prop := ∀ x, x < a ∨ a + n ≤ x → readByte t x = readByte s x

/-- The line of a coherence request. -/
def cohLine (s : State) (f : Frame) : Nat := localAddr s f.addr.toNat / 64

/-- The domain a coherence request's extent is bound to (R200). -/
def cohDomain (s : State) (d : Die) (f : Frame) : Nat := (extAt s (transOff s f.addr.toNat)).elim 0 (fun e => domainOf s d e.idx)

/-- No request at a home waits for a line, for a way of the directory or behind another. -/
def NoLineWaits (s : State) (d : Die) : Prop :=
  ∀ w ∈ (side s.home d).waiting, (∀ l, w.wait ≠ .line l) ∧ (∀ k, w.wait ≠ .dirSet k) ∧ isBehind w = false

/-- A line lies in no T1_ONLY extent: its bytes are at hand (R234). -/
def LineAtHand (s : State) (line : Nat) : Prop := ∀ e, extAt s (addrOff (lineAddr line)) = some e → e.policy ≠ 2

/-- A coherence request passes checks 1 to 7 of R209, its line is not poisoned, its bytes are at hand, and nobody waits for a line
or has the line to itself first. -/
def CohServed (s : State) (d : Die) (f : Frame) : Prop :=
  cohRefusal s d f = none ∧ (findTracker s d f).isSome = true ∧ NoLineWaits s d ∧ s.poison.contains (cohLine s f) = false ∧
    LineAtHand s (cohLine s f) ∧ lineHeld s (side s.home d).waiting [cohLine s f] = false

/-! Pod cores -/

/-- The thread a core issues from. -/
def curThread (s : State) (d : Die) (p : Nat) : Thread := threadOf (coreOf s d p) (coreOf s d p).cur

/-- An instruction of core p completes: its thread is th at a program counter, the core is otherwise c with one more instruction issued, and
nothing changes but that core and, where a list names them, other parts. -/
def Issued (s t : State) (d : Die) (p : Nat) (c : Core) (th : Thread) (pc : Nat) (l : List Piece) : Prop :=
  coreOf t d p = { c with threads := put c.threads c.cur { th with pc := pc }, issued := c.issued + 1, since := c.since + 1 } ∧
    (∀ q, q ≠ p → coreOf t d q = coreOf s d q) ∧ (side t.pod (otherDie d)).cores = (side s.pod (otherDie d)).cores ∧
    KeepsBut (.podCores :: l) s t

/-- An instruction of core p's current thread faults with a status: it takes no other effect (R288). -/
def Faults (i : Instr) (s : State) (d : Die) (p : Nat) (st : BitVec 5) : Prop :=
  exec i s = .next (putCore d p (settle (coreOf s d p) (curThread s d p) (.fault st)) s)

/-- A core runs no stage program and will start none. -/
def NoStage (c : Core) : Prop := c.mainSaved = none ∧ ∀ i, c.item = some i → i.stage = none

/-- No other thread holds the matrix unit. -/
def MatrixFree (c : Core) : Prop := ∀ h, c.matrixHeld = some h → h = c.cur

/-- The rows of the opcode table that are pod-core instructions. -/
def podRows : List (Die → Nat → PodF → Instr) :=
  [.podNop, .podEnd, .podJmp, .podBeq, .podBne, .podBlt, .podBltu, .podBar, .podFault, .podRdflg, .podRdpace, .podRdtime, .podInfo,
   .podAdd, .podSub, .podMul, .podAnd, .podOr, .podXor, .podShl, .podShr, .podSra, .podMin, .podMax, .podSlt, .podSltu, .podAddi, .podLi,
   .podLim, .podLit, .podSld, .podSst, .podVld, .podVst, .podVldb, .podVadd, .podVsub, .podVmul, .podVfma, .podVmin, .podVmax, .podVexp2,
   .podVlog2, .podVrcp, .podVrsq, .podVcmplt, .podVsel, .podVbcs, .podVmvs, .podVradd, .podVrmax, .podVidx, .podVcvt, .podMzero, .podMma,
   .podMsc, .podMst, .podMld, .podMtv, .podSrd, .podSwr, .podXpd, .podXpq, .podCpz]

/-- The CLASS and OP of each pod-core row (R300). -/
def podCodes : List (Nat × Nat × (Die → Nat → PodF → Instr)) :=
  [(0, 0x00, .podNop), (0, 0x01, .podEnd), (0, 0x02, .podJmp), (0, 0x03, .podBeq), (0, 0x04, .podBne), (0, 0x05, .podBlt),
   (0, 0x06, .podBltu), (0, 0x07, .podBar), (0, 0x08, .podFault), (0, 0x09, .podRdflg), (0, 0x0A, .podRdpace), (0, 0x0B, .podRdtime),
   (0, 0x0C, .podInfo), (1, 0x00, .podAdd), (1, 0x01, .podSub), (1, 0x02, .podMul), (1, 0x03, .podAnd), (1, 0x04, .podOr),
   (1, 0x05, .podXor), (1, 0x06, .podShl), (1, 0x07, .podShr), (1, 0x08, .podSra), (1, 0x09, .podMin), (1, 0x0A, .podMax),
   (1, 0x0B, .podSlt), (1, 0x0C, .podSltu), (1, 0x10, .podAddi), (1, 0x11, .podLi), (1, 0x12, .podLim), (1, 0x13, .podLit),
   (2, 0x00, .podSld), (2, 0x01, .podSst), (2, 0x02, .podVld), (2, 0x03, .podVst), (2, 0x04, .podVldb), (3, 0x00, .podVadd),
   (3, 0x01, .podVsub), (3, 0x02, .podVmul), (3, 0x03, .podVfma), (3, 0x04, .podVmin), (3, 0x05, .podVmax), (3, 0x06, .podVexp2),
   (3, 0x07, .podVlog2), (3, 0x08, .podVrcp), (3, 0x09, .podVrsq), (3, 0x0A, .podVcmplt), (3, 0x0B, .podVsel), (3, 0x0C, .podVbcs),
   (3, 0x0D, .podVmvs), (3, 0x0E, .podVradd), (3, 0x0F, .podVrmax), (3, 0x10, .podVidx), (3, 0x11, .podVcvt), (4, 0x00, .podMzero),
   (4, 0x01, .podMma), (4, 0x02, .podMsc), (4, 0x03, .podMst), (4, 0x04, .podMld), (4, 0x05, .podMtv), (5, 0x00, .podSrd),
   (5, 0x01, .podSwr), (6, 0x00, .podXpd), (6, 0x01, .podXpq), (6, 0x02, .podCpz)]

/-- Core p of a die is the only one that may issue an instruction. -/
def OnlyIssuer (s : State) (d : Die) (p : Nat) : Prop :=
  p ∈ listedCores s d ∧ (listedCores s d).Nodup ∧ canIssue (coreOf s d p) = true ∧
    ∀ (e : Die) (q : Nat), q ∈ listedCores s e → canIssue (coreOf s e q) = true → e = d ∧ q = p

/-- The signed value of a byte. -/
def signedByte (b : Byte) : Int := b.toInt

/-- The value of a lane register as a function of the lane's number. -/
def laneOf (th : Thread) (n i : Nat) : BitVec 32 := nth (vreg th n) i 0

/-- From s to t an instruction has given register D of the current thread lanes, or'ing flags into the sticky flags; every other register is as
before. -/
def LanesDone (s t : State) (d : Die) (p dst : Nat) (v : Nat → BitVec 32) (fl : Nat → Nat) : Prop :=
  let c := coreOf s d p
  let th := curThread s d p
  ∃ th', Issued s t d p { c with vecs := c.vecs + 1 } th' (th.pc + 1) [] ∧
    (∀ k < 64, laneOf th' dst k = v k) ∧ (∀ n k, n ≠ dst → k < 64 → laneOf th' n k = laneOf th n k) ∧
    th'.flags = th.flags ||| BitVec.ofNat 5 ((rangeFrom 0 64).foldl (fun a k => a ||| fl k) 0) ∧
    th'.sreg = th.sreg ∧ th'.tile = th.tile ∧ th'.scale = th.scale

/-- One level of the tree of R297: y(i) is x(2i) op x(2i + 1). -/
def pairLevel (op : BitVec 32 → BitVec 32 → BitVec 32) (x : Nat → BitVec 32) : Nat → BitVec 32 := fun i => op (x (2 * i)) (x (2 * i + 1))

/-- Six levels of the tree over 64 lanes. -/
def treeOf (op : BitVec 32 → BitVec 32 → BitVec 32) (x : Nat → BitVec 32) : BitVec 32 :=
  pairLevel op (pairLevel op (pairLevel op (pairLevel op (pairLevel op (pairLevel op x))))) 0

/-! Objects and moves -/

/-- What making and charging an object changes, and what counts its request. -/
def makeParts : List Piece := takeParts ++ countParts ++ journalParts ++ [.objs, .gens, .ctxs, .evQueue, .mem, .poison]

/-- What a move's slot and its copying change beside the object itself: the copying, and what it asks of trays and of flash. -/
def movingParts : List Piece :=
  sendParts ++ trayParts ++ [.tierMoves, .tierCopies, .tierNextCopy, .vols, .ftlStaging, .ftlMapCache, .ftlStatus, .evQueue]

/-- No copying is under way, and no request waits at any home. -/
def NothingCopies (s : State) : Prop := ∀ d : Die, (side s.tier d).copies = [] ∧ (side s.home d).waiting = []

/-- Every object but one is as before. -/
def OtherObjs (s t : State) (id : Nat) : Prop := ∀ i, i ≠ id → get? t.objs i = get? s.objs i

/-- The bytes of an object read zero. -/
def ReadsZero (t : State) (a n : Nat) : Prop := ∀ x, a ≤ x → x < a + n → readByte t x = 0

/-- Nothing waits at a die's home. -/
def HomeQuiet (s : State) (d : Die) : Prop := (side s.home d).waiting = []

/-! Sessions and attention -/

/-- The session a request names by its handle (R246). -/
def sesId (f : Frame) : Nat := fld f.addr.toNat 51 32

/-- A session request reaches a home that takes it, from a source its context admits, and none with its key is outstanding (R126). -/
def SesTaken (s : State) (d : Die) (f : Frame) : Prop :=
  TakesNow s d f [] ∧ admitted (takeHome d f s) d f = true ∧ outstanding s d (keyOf f) = false

/-- No compute operation of a die has the number of the next one, and no copying the number of the next copying or that operation's purpose. -/
def FreshOp (s : State) (d : Die) : Prop :=
  (∀ o ∈ (side s.col d).ops, o.id ≠ (side s.col d).nextOp) ∧
    ∀ j ∈ (side s.tier d).copies, j.id ≠ (side s.tier d).nextCopy ∧ j.why ≠ .read (side s.col d).nextOp

/-- The rows of an ATT_APPEND that its ADDR names: the range they are read from (R343). -/
def rowRange (s : State) (x : Session) (f : Frame) : List (Nat × Nat) :=
  if le f.payload 8 8 = 0 then [] else [localRange s (le f.payload 8 8) (le f.payload 2 2 * x.groups * 2 * rowBytes x)]

/-- The headers of the pages a session lists. -/
def headRanges (s : State) (ps : List PageEnt) : List (Nat × Nat) := (ps.filterMap (fun p => get? s.objs p.obj)).map (fun o => (o.addr, 64))

/-- No operation of a session waits on either die. -/
def NoneWaits (s : State) (ses : Nat) : Prop := ∀ d, ∀ o ∈ (side s.col d).ops, o.waits.isSome = true → opOn o ses = false

/-- Every session but one is as before. -/
def OtherSes (s t : State) (ses : Nat) : Prop := ∀ i, i ≠ ses → get? t.sessions i = get? s.sessions i

/-- What accepting a compute operation changes. -/
def opParts : List Piece := takeParts ++ countParts ++ [.colOps, .colNextOp]

/-- An ATT_APPEND that appends passes its checks (R342): the session is AWAKE, is x, and no earlier APPEND of the layer waits. -/
def AppendReady (s : State) (d : Die) (f : Frame) (x : Session) : Prop :=
  isSub f 0 = true ∧ SesTaken s d f ∧ sesHandleOk f = true ∧ le f.payload 0 2 < 4096 ∧ zeroAt f.payload 16 16 = true ∧
    1 ≤ le f.payload 2 2 ∧ le f.payload 2 2 ≤ 4096 ∧ sesOf s (sesId f) = some x ∧ le f.payload 0 2 < x.layers ∧
    f.payload.length = 32 + (if le f.payload 8 8 = 0 then le f.payload 2 2 * x.groups * 2 * rowBytes x else 0) ∧
    ownsSes s f x.owner x.ext = true ∧ x.st = .awake ∧ extActive s d x.ext = true ∧ opRoom s d = true ∧ FreshOp s d ∧
    appendAhead s d (sesId f) (le f.payload 0 2) (side s.col d).nextOp = false

/-! The meter and the module -/

/-- The log has room for the records of the period that ends now (R433). -/
def PeriodFits (s : State) : Prop :=
  logSize (s.mtr.log.filter (fun r => decide (s.mtr.released ≤ r.pos))) +
    184 * (s.mtr.quants.filter (fun q => (reported (settleQuant q.2 (periodEnd s (meterMs s)))).any (· != 0))).length + 29864 ≤ logCap

/-- Nothing is held in escrow. -/
def NoEscrow (s : State) : Prop := ∀ d, (side s.mtr.escrow d).segs = [] ∧ (side s.mtr.escrow d).agg = []

/-- An authorisation that a command waits for is read with a status: its bytes, and the state after the reading (R413). -/
def AuthRead (s s1 : State) (w : AuthWait) (st : BitVec 5) (b : Bytes) : Prop :=
  s.cfg.authWait = some w ∧ svcRead s.cfg.activeSp w.req.ctx.toNat (le w.req.args 0 8) (authLength w.code)
    (modCfg s (fun c => { c with authWait := none })) = (st, b, s1)

/-- R37 has run on both dies: what was staged lies in the flush region, the journal tails on media. -/
def Flushed (s t : State) : Prop :=
  ∀ d, (side t.ftl d).flushRegion = (side s.ftl d).staging ∧ (side t.ftl d).mediaLsn = (side s.ftl d).nextLsn - 1

/-! What each command may change -/

/-- A part stands in one of some lists. -/
def among (l : List (List Piece)) (p : Piece) : Bool := l.any (·.contains p)

/-- A part stands outside a list. -/
def notAmong (l : List Piece) (p : Piece) : Bool := !(l.contains p)

/-- The parts of the state that a command may change. A command after which requests can be admitted may send frames and admit the frames
behind it; a write of a control register may change whatever the register governs, a reset all that does not outlast it. -/
def mayChange (c : Instr) (p : Piece) : Bool :=
  match c with
  | .echo .. => among [sendParts, ctlAnswerParts] p
  | .bsBegin .. => among [sendParts, ctlAnswerParts, slotParts, [.cfgLastLoadId, .cfgLoadOrder]] p
  | .bsData .. => among [sendParts, ctlAnswerParts, slotParts] p
  | .bsFetch .. | .ctxReset .. => among [sendParts, ctlAnswerParts, jobParts] p
  | .bsFetchComplete .. => among [eventParts, slotParts, [.cfgJobs, .homeStatus, .freeCtr]] p
  | .bsEnd .. => among [sendParts, ctlAnswerParts, slotParts, [.cfgStatus, .cfgJobs, .evQueue]] p
  | .bsAbort .. => among [sendParts, ctlAnswerParts, slotParts, [.cfgJobs, .evQueue]] p
  | .loadAbandon .. => among [eventParts, slotParts, [.cfgStatus, .cfgJobs]] p
  | .bsActivate .. | .moduleReset .. | .powerUp .. => notAmong [.pending, .secSerial, .secSealed, .secDevCert, .secMacBase, .secOwnerKey,
    .secFwArb, .secLeftMeter, .secLeftDebug, .secLeftXfer, .secTapMarks, .secFw0, .secFw1, .secTransfers] p
  | .partialApply | .recordDrainDone .. => among [sendParts, tapParts, journalParts, copyParts, trayParts, [.cfgRecords, .cfgSlotP,
    .cfgDetClass, .cfgApplying, .cfgDraining, .cfgJobs, .lftReseq, .lftNextBarrier, .lftSprayIn, .homeInbox, .homeHot, .cohDir,
    .cohOutstanding, .cohMsgWait, .cohTxnNo, .cohStatus, .cohRecalls, .tierCc, .exts, .objs, .cmpSlots, .evBuckets, .fltComps,
    .fltPromoted, .fltLostTrays]] p
  | .extCreate .. => among [sendParts, tapParts, journalParts, ctlAnswerParts, [.cfgRecords, .cfgConfigGen, .exts, .evQueue]] p
  | .extRevoke .. => among [sendParts, ctlAnswerParts, jobParts, trayParts, [.cfgConfigGen, .cfgStalkWait, .homeHot, .cohDir,
    .cohOutstanding, .cohMsgWait, .cohTxnNo, .cohStatus, .cohRecalls, .tierCc, .exts, .evQueue]] p
  | .extentRevoked .. => among [sendParts, trayParts, [.cfgJobs, .homeHot, .cohDir, .cohOutstanding, .cohMsgWait, .cohTxnNo, .cohStatus,
    .cohRecalls, .tierCc, .exts, .evQueue]] p
  | .grantAdd .. | .grantRemove .. | .ctxCreate .. | .admitAdd .. | .admitRemove .. => among [sendParts, journalParts, ctlAnswerParts,
    [.cfgRecords, .cfgConfigGen, .evQueue]] p
  | .ctxDestroy .. | .replicaPromote .. => among [sendParts, ctlAnswerParts, jobParts, [.cfgConfigGen]] p
  | .ctxDestroyComplete .. => among [eventParts, tapParts, journalParts, [.cfgRecords, .cfgJobs, .mtrBytesCnt]] p
  | .qosSet .. => among [sendParts, journalParts, ctlAnswerParts, [.cfgRecords, .cfgConfigGen, .evQueue, .evBuckets]] p
  | .ctxResetStalkApply .. => among [sendParts, tapParts, journalParts, admitParts, trayParts, serviceParts, byteParts, [.homeWaiting,
    .homeWindows, .homeHot, .homeStatus, .cohDir, .cohOutstanding, .cohMsgWait, .cohTxnNo, .cohStatus, .cohRecalls, .tierStatus, .tierCc,
    .tierMoves, .tierCopies, .objs, .sessions, .ftlMapCache, .podCores, .cmpStatus, .cmpDecodedRaw, .cmpDecodedCoded, .mtrBytesCnt,
    .fltXfers]] p
  | .ctxResetComplete .. => among [eventParts, tapParts, [.cfgJobs, .mtrBytesCnt]] p
  | .portReset .. => among [sendParts, ctlAnswerParts, jobParts, takeParts, [.lftReseq, .lftSprayIn]] p
  | .portResetComplete .. => among [eventParts, [.cfgJobs, .lftPorts, .lftSpray, .lftReseq, .lftBarrierTx, .lftSprayIn, .lftPfcSent,
    .swcFifos, .swcOffFree, .swcQuarantined, .homeInbox, .fltFailedLinks]] p
  | .stop .. | .resume .. | .stopStalkApply .. => among [sendParts, admitParts, [.cfgStalkWait, .swcStops, .swcStopMsgs]] p
  | .fenceAdvance .. => among [sendParts, ctlAnswerParts, jobParts, [.evQueue, .fltStatus, .fltFencing]] p
  | .compCreate .. => among [sendParts, journalParts, ctlAnswerParts, [.cfgRecords, .cfgConfigGen, .evQueue, .fltComps]] p
  | .compCommit .. => among [sendParts, tapParts, journalParts, ctlAnswerParts, jobParts, serviceParts, [.evQueue, .mtrBytesCnt,
    .fltComps]] p
  | .compCommitComplete .. => among [sendParts, tapParts, serviceParts, [.cfgJobs, .evQueue, .mtrBytesCnt, .fltStatus, .fltComps]] p
  | .compRollback .. => among [sendParts, tapParts, ctlAnswerParts, jobParts, serviceParts, [.mtrBytesCnt, .fltComps]] p
  | .attestQuote .. => among [sendParts, ctlAnswerParts, [.evQueue, .secStatus]] p
  | .debugUnlock .. | .meterTariff .. => among [sendParts, ctlAnswerParts, [.cfgAuthWait, .evQueue]] p
  | .ownerKeyTransfer .. => among [sendParts, ctlAnswerParts, [.cfgAuthWait, .evQueue, .secOwnerKey]] p
  | .meterExport .. => among [sendParts, ctlAnswerParts, jobParts, [.swcAgentSeq, .tierNextTag, .colSends, .mtrExports]] p
  | .pepSet .. | .pepClear .. => among [sendParts, ctlAnswerParts, [.fltPepper]] p
  | .registerWrite .. | .registerReadClear .. | .quotaLimitWrite .. | .extSelWrite .. | .objSelWrite .. | .dirSelWrite .. | .coreSelWrite
    .. | .sesSelWrite .. | .fenceSelWrite .. | .switchSelWrite .. | .compSelWrite .. | .podRetireWrite .. | .sampleCfgWrite .. | .ccFlush
    .. | .xferGo .. | .meterDetachWrite .. | .fwBegin .. | .fwEnd .. | .fwAbort .. | .fwCommit .. | .fwApertureWrite .. | .laneSpareWrite
    .. | .pcSpareWrite .. | .ld .. | .st .. => notAmong [.pending, .secSerial, .secSealed, .secDevCert, .secMacBase, .secOwnerKey,
    .secLeftMeter, .secLeftDebug, .secLeftXfer, .secTapMarks, .secTransfers] p
  | .ccFlushDone .. => among [[.tierFlush]] p
  | .frameIngress .. => among [sendParts, admitParts, [.cfgLocalBytes, .cfgTotalBytes, .cfgStalkWait, .lftReseq, .lftSent, .swcStatus,
    .swcSampleDrop, .swcSamplePool, .swcSampleSeq, .swcLfsr, .swcStops, .swcStopMsgs, .homeInbox, .fltFailedLinks]] p
  | .stalkReceive .. => among [[.lftPorts, .lftSprayIn, .lftPfcSent, .swcFifos, .swcOffFree, .swcQuarantined, .swcStalkIn,
    .swcStalkReplay, .swcStalkNext, .swcStalkSeen, .homeCombined]] p
  | .stalkFailure => among [[.modAdmitting, .modStalkFailed]] p
  | .egressSend .. => among [sendParts, admitParts, [.cfgLocalBytes, .cfgTotalBytes, .cfgSpInbox, .lftSent, .swcDeficits, .swcStatus,
    .swcSampleDrop, .swcSamplePool, .swcSampleSeq, .swcLfsr, .swcStalkIn, .swcStalkSeq, .swcStalkReplay, .swcAgentInbox, .homeInbox]] p
  | .releaseForward .. | .acquireHoldTimeout .. | .rateTokenRelease .. | .epochHoldTimeout .. | .pepperHoldExpiry .. => among [sendParts,
    admitParts] p
  | .releaseTimeout .. => among [sendParts, admitParts, [.homeStatus]] p
  | .writeRecordTimeout .. => among [sendParts, admitParts, [.cfgLocalBytes, .cfgTotalBytes, .homeStatus]] p
  | .amo .. | .amoNr .. | .cas .. | .crdS .. | .crdM .. | .cupg .. | .cwb .. | .cevict .. => among [sendParts, tapParts, takeParts,
    trayParts, byteParts, [.cfgSpInbox, .homeWaiting, .homeOrder, .homeStarved, .homeWindows, .homeHot, .homeStatus, .cohDir,
    .cohOutstanding, .cohMsgWait, .cohTxnNo, .cohStatus, .cohRecalls, .tierCc, .tierMoves, .objs, .ftlMapCache, .ftlStatus, .cmpStatus,
    .cmpDecodedRaw, .cmpDecodedCoded, .evQueue, .mtrBytesCnt, .fltXfers]] p
  | .memSync .. => among [sendParts, admitParts, [.cfgLocalBytes, .cfgTotalBytes, .cfgStalkWait, .swcStops, .swcStopMsgs]] p
  | .amoAck .. => among [takeParts, [.swcFifos, .homeWindows, .homeCombined, .homeAckDropped, .homeResumed]] p
  | .combinedRequest .. => among [sendParts, tapParts, takeParts, trayParts, byteParts, [.homeWaiting, .homeOrder, .homeStarved,
    .homeWindows, .homeHot, .homeStatus, .cohDir, .cohOutstanding, .cohMsgWait, .cohTxnNo, .cohStatus, .cohRecalls, .tierCc, .tierMoves,
    .objs, .ftlMapCache, .ftlStatus, .cmpStatus, .cmpDecodedRaw, .cmpDecodedCoded, .evQueue, .mtrBytesCnt, .fltXfers]] p
  | .requestAged .. => among [sendParts, tapParts, trayParts, byteParts, [.homeWaiting, .homeWindows, .homeHot, .homeStatus, .homeAgedIn,
    .homeAgeNo, .cohDir, .cohOutstanding, .cohMsgWait, .cohTxnNo, .cohStatus, .cohRecalls, .tierCc, .tierMoves, .objs, .ftlMapCache,
    .ftlStatus, .cmpStatus, .cmpDecodedRaw, .cmpDecodedCoded, .evQueue, .mtrBytesCnt, .fltXfers]] p
  | .hotlineExit .. => among [[.homeHot]] p
  | .cinvAck .. | .cfwdAck .. => among [sendParts, tapParts, trayParts, byteParts, [.swcAgentInbox, .homeWaiting, .homeWindows, .homeHot,
    .homeStatus, .cohDir, .cohOutstanding, .cohMsgWait, .cohTxnNo, .cohStatus, .cohRecalls, .tierCc, .tierMoves, .objs, .ftlMapCache,
    .ftlStatus, .cmpStatus, .cmpDecodedRaw, .cmpDecodedCoded, .evQueue, .mtrBytesCnt, .fltAckReports, .fltXfers]] p
  | .crecallAck .. => among [sendParts, tapParts, trayParts, directoryParts, byteParts, [.swcAgentInbox, .homeWaiting, .homeWindows,
    .homeStatus, .tierMoves, .objs, .ftlMapCache, .ftlStatus, .cmpStatus, .cmpDecodedRaw, .cmpDecodedCoded, .evQueue, .mtrBytesCnt,
    .fltAckReports, .fltXfers]] p
  | .fenceNotice .. => among [sendParts, tapParts, trayParts, directoryParts, byteParts, [.homeWaiting, .homeWindows, .homeStatus,
    .tierMoves, .objs, .ftlMapCache, .ftlStatus, .cmpStatus, .cmpDecodedRaw, .cmpDecodedCoded, .evQueue, .mtrBytesCnt, .fltXfers]] p
  | .cohAckTimeout .. => among [eventParts, [.cohStatus, .fltAckReports]] p
  | .objCreate .. => among [sendParts, tapParts, journalParts, takeParts, [.cfgSpInbox, .tierStatus, .objs, .gens, .evQueue, .mtrBytesCnt,
    .mem, .poison]] p
  | .objMove .. => among [sendParts, tapParts, takeParts, [.tierStatus, .tierMoves, .evQueue, .mtrBytesCnt]] p
  | .objPin .. | .objUnpin .. => among [sendParts, tapParts, takeParts, [.objs, .mtrBytesCnt]] p
  | .objFree .. => among [sendParts, tapParts, takeParts, trayParts, byteParts, [.homeWaiting, .homeWindows, .homeHot, .homeStatus,
    .cohDir, .cohOutstanding, .cohMsgWait, .cohTxnNo, .cohStatus, .cohRecalls, .tierStatus, .tierCc, .tierMoves, .tierCopies, .objs,
    .ftlMapCache, .ftlStatus, .cmpStatus, .cmpDecodedRaw, .cmpDecodedCoded, .evQueue, .mtrBytesCnt, .fltXfers]] p
  | .objFreeRelease .. => among [eventParts, tapParts, journalParts, byteParts, [.objs]] p
  | .objClone .. => among [sendParts, tapParts, journalParts, takeParts, copyParts, trayParts, [.homeWaiting, .homeWindows, .homeHot,
    .homeStatus, .cohDir, .cohOutstanding, .cohMsgWait, .cohTxnNo, .cohStatus, .cohRecalls, .tierStatus, .tierCc, .tierMoves, .objs,
    .gens, .cmpStatus, .cmpDecodedRaw, .cmpDecodedCoded, .mtrBytesCnt, .fltXfers]] p
  | .moveStart .. => among [sendParts, tapParts, copyParts, trayParts, [.homeWaiting, .homeWindows, .homeHot, .homeStatus, .cohDir,
    .cohOutstanding, .cohMsgWait, .cohTxnNo, .cohStatus, .cohRecalls, .tierStatus, .tierCc, .tierMoves, .objs, .cmpStatus, .cmpDecodedRaw,
    .cmpDecodedCoded, .mtrBytesCnt, .fltXfers]] p
  | .moveSwitchover .. | .refillStart .. => among [[.tierMoves]] p
  | .moveComplete .. => among [sendParts, tapParts, copyParts, trayParts, [.homeWaiting, .homeWindows, .homeHot, .homeStatus, .cohDir,
    .cohOutstanding, .cohMsgWait, .cohTxnNo, .cohStatus, .cohRecalls, .tierSpilled, .tierPrefetched, .tierCc, .tierMoves, .objs,
    .cmpStatus, .cmpDecodedRaw, .cmpDecodedCoded, .mtrBytesCnt, .fltXfers]] p
  | .moveDestFail .. => among [sendParts, tapParts, trayParts, byteParts, [.homeWaiting, .homeWindows, .homeHot, .homeStatus, .cohDir,
    .cohOutstanding, .cohMsgWait, .cohTxnNo, .cohStatus, .cohRecalls, .tierStatus, .tierCc, .tierMoves, .tierCopies, .objs, .ftlMapCache,
    .ftlStatus, .cmpStatus, .cmpDecodedRaw, .cmpDecodedCoded, .evQueue, .mtrBytesCnt, .fltXfers]] p
  | .spillStart .. => among [eventParts, [.tierStatus, .tierMoves, .tierSkip, .tierSpillMore]] p
  | .ccWritebackResponse .. => among [sendParts, tapParts, trayParts, byteParts, [.swcAgentInbox, .homeWaiting, .homeWindows, .homeHot,
    .homeStatus, .cohDir, .cohOutstanding, .cohMsgWait, .cohTxnNo, .cohStatus, .cohRecalls, .tierStatus, .tierCc, .tierFlush, .tierMoves,
    .objs, .ftlMapCache, .ftlStatus, .cmpStatus, .cmpDecodedRaw, .cmpDecodedCoded, .evQueue, .mtrBytesCnt, .fltXfers]] p
  | .trayResponse .. => among [sendParts, tapParts, journalParts, copyParts, trayParts, [.swcAgentInbox, .homeWaiting, .homeWindows,
    .homeHot, .homeStatus, .cohDir, .cohOutstanding, .cohMsgWait, .cohTxnNo, .cohStatus, .cohRecalls, .tierStatus, .tierCc, .tierMoves,
    .objs, .ftlBlocks, .ftlTemps, .cmpStatus, .cmpDecodedRaw, .cmpDecodedCoded, .mtrBytesCnt, .fltXfers]] p
  | .sesWake .. => among [sendParts, tapParts, takeParts, [.tierStatus, .tierMoves, .sessions, .colOps, .colNextOp, .evQueue,
    .mtrBytesCnt]] p
  | .sesWakeLayerDone .. | .sesWakeDone .. | .ringReuse .. => among [sendParts, tapParts, journalParts, copyParts, trayParts, tierParts,
    [.homeWindows, .homeHot, .cohDir, .cohOutstanding, .cohMsgWait, .cohTxnNo, .cohStatus, .cohRecalls, .tierCc, .gens, .sessions,
    .podQueue, .colOps, .colSends, .colSkipped, .colReadBlocks, .mtrBytesCnt, .fltXfers, .freeCtr]] p
  | .sesSleep .. => among [sendParts, tapParts, takeParts, [.tierMoves, .sessions, .colOps, .colNextOp, .mtrBytesCnt]] p
  | .sesSleepDone .. => among [sendParts, tapParts, journalParts, copyParts, trayParts, [.homeWaiting, .homeWindows, .homeHot,
    .homeStatus, .cohDir, .cohOutstanding, .cohMsgWait, .cohTxnNo, .cohStatus, .cohRecalls, .tierStatus, .tierCc, .tierMoves, .objs,
    .gens, .sessions, .colOps, .cmpStatus, .cmpDecodedRaw, .cmpDecodedCoded, .mtrBytesCnt, .fltXfers]] p
  | .stagingSlotWaitEnd .. => among [sendParts, tapParts, trayParts, byteParts, [.homeWaiting, .homeWindows, .homeHot, .homeStatus,
    .cohDir, .cohOutstanding, .cohMsgWait, .cohTxnNo, .cohStatus, .cohRecalls, .tierCc, .tierMoves, .objs, .ftlMapCache, .ftlStatus,
    .cmpStatus, .cmpDecodedRaw, .cmpDecodedCoded, .evQueue, .mtrBytesCnt, .fltXfers]] p
  | .slcProgram .. => among [sendParts, journalParts, trayParts, [.vols, .ftlStaging, .ftlBlocks, .ftlProgs, .ftlNextProg, .evQueue]] p
  | .slcProgramDone .. => among [sendParts, tapParts, journalParts, copyParts, trayParts, [.swcAgentInbox, .homeWaiting, .homeWindows,
    .homeHot, .homeStatus, .cohDir, .cohOutstanding, .cohMsgWait, .cohTxnNo, .cohStatus, .cohRecalls, .tierStatus, .tierCc, .tierMoves,
    .objs, .ftlBlocks, .ftlProgs, .ftlNextProg, .ftlRelocs, .ftlMapLeft, .ftlCloseSeq, .cmpStatus, .cmpDecodedRaw, .cmpDecodedCoded,
    .mtrBytesCnt, .fltXfers]] p
  | .programAborted .. => among [sendParts, journalParts, trayParts, [.swcAgentInbox, .vols, .ftlStaging, .ftlBlocks, .ftlProgs,
    .ftlNextProg, .ftlRelocs, .ftlDue, .ftlMapLeft, .evQueue]] p
  | .flashReadResponse .. => among [sendParts, tapParts, journalParts, copyParts, trayParts, [.swcAgentInbox, .homeWaiting, .homeWindows,
    .homeHot, .homeStatus, .cohDir, .cohOutstanding, .cohMsgWait, .cohTxnNo, .cohStatus, .cohRecalls, .tierStatus, .tierCc, .tierMoves,
    .objs, .ftlBlocks, .ftlProgs, .ftlNextProg, .ftlRelocs, .ftlDue, .ftlEraseWait, .cmpStatus, .cmpDecodedRaw, .cmpDecodedCoded,
    .mtrBytesCnt, .fltXfers]] p
  | .relocationStart .. => among [sendParts, journalParts, trayParts, [.ftlBlocks, .ftlProgs, .ftlNextProg, .ftlRelocs, .ftlCollects,
    .evQueue]] p
  | .relocationClose .. => among [sendParts, journalParts, trayParts, [.vols, .ftlBlocks, .ftlProgs, .ftlNextProg, .ftlRelocs,
    .ftlCollects, .ftlMapCache, .ftlClosing, .ftlCloseSeq, .evQueue]] p
  | .blockEraseDone .. => among [sendParts, journalParts, trayParts, [.swcAgentInbox, .vols, .ftlBlocks, .ftlDue, .evQueue]] p
  | .ouviMerge .. => among [sendParts, journalParts, trayParts, [.vols, .ftlBlocks, .ftlProgs, .ftlNextProg, .ftlRelocs, .ftlDue,
    .ftlEraseWait, .evQueue]] p
  | .retentionHour .. => among [sendParts, journalParts, trayParts, [.ftlDue, .ftlHours, .evQueue]] p
  | .checkpointStart .. => among [sendParts, journalParts, trayParts, [.vols, .ftlBlocks, .ftlProgs, .ftlNextProg, .ftlMapLeft, .ftlCkptX,
    .ftlCkptY, .ftlCkptRun, .evQueue]] p
  | .checkpointEnd .. => among [sendParts, tapParts, journalParts, trayParts, [.homeWaiting, .vols, .ftlBlocks, .ftlProgs, .ftlNextProg,
    .ftlDue, .ftlMapLeft, .ftlClosing, .ftlEraseWait, .ftlMediaLsn, .ftlCkptX, .ftlCkptY, .ftlCkptRun, .evQueue, .secTapMarks,
    .mtrBytesCnt]] p
  | .journalRingWaitEnd .. => among [sendParts, journalParts, trayParts, [.vols, .ftlBlocks, .ftlDue, .ftlClosing, .ftlEraseWait,
    .evQueue]] p
  | .mapRebuild .. | .mapRebuildDone .. => among [[.vols]] p
  | .volumeBringup .. => among [sendParts, journalParts, trayParts, [.vols, .ftlBlocks, .evQueue]] p
  | .workItemStart .. => among [[.podCores, .podQueue, .podTurns, .freeCtr]] p
  | .workItemEnd .. => among [sendParts, tapParts, copyParts, trayParts, serviceParts, [.homeStatus, .podCores, .podVacant, .podStatus,
    .podItems, .colStatus, .colChunks, .colAttStatus, .mtrBytesCnt, .freeCtr]] p
  | .threadSwitchQuantum .. | .podNop .. | .podEnd .. | .podJmp .. | .podBeq .. | .podBne .. | .podBlt .. | .podBltu .. | .podBar .. |
    .podFault .. | .podRdflg .. | .podRdpace .. | .podRdtime .. | .podInfo .. | .podAdd .. | .podSub .. | .podMul .. | .podAnd .. | .podOr
    .. | .podXor .. | .podShl .. | .podShr .. | .podSra .. | .podMin .. | .podMax .. | .podSlt .. | .podSltu .. | .podAddi .. | .podLi ..
    | .podLim .. | .podLit .. | .podSld .. | .podSst .. | .podVst .. | .podVldb .. | .podVadd .. | .podVsub .. | .podVmul .. | .podVfma ..
    | .podVmin .. | .podVmax .. | .podVexp2 .. | .podVlog2 .. | .podVrcp .. | .podVrsq .. | .podVcmplt .. | .podVsel .. | .podVbcs .. |
    .podVmvs .. | .podVradd .. | .podVrmax .. | .podVidx .. | .podVcvt .. | .podMzero .. | .podMma .. | .podMsc .. | .podMst .. | .podMld
    .. | .podMtv .. | .podCpz .. => among [[.podCores]] p
  | .budgetExhausted .. => among [eventParts, [.podCores, .podStatus]] p
  | .streamComplete .. => among [[.swcAgentInbox, .podCores, .freeCtr]] p
  | .streamRetry .. => among [sendParts, [.podCores]] p
  | .coreRetire .. | .selftest .. => among [eventParts, [.podCores, .podVacant, .podQueue, .podStatus]] p
  | .podVld .. => among [[.podCores, .freeCtr]] p
  | .podSrd .. | .podSwr .. => among [sendParts, [.swcAgentSeq, .podCores]] p
  | .podXpd .. => among [eventParts, [.podCores, .cmpStatus, .cmpDecodedRaw, .cmpDecodedCoded, .freeCtr]] p
  | .podXpq .. => among [eventParts, [.podCores, .cmpStatus, .cmpDecodedRaw, .cmpDecodedCoded]] p
  | .colReduce .. => among [sendParts, tapParts, takeParts, serviceParts, [.swcAgentSeq, .tierNextTag, .colNextOp, .colStatus, .evQueue,
    .mtrBytesCnt]] p
  | .colPart .. => among [sendParts, tapParts, takeParts, serviceParts, [.colStatus, .cmpStatus, .cmpDecodedRaw, .cmpDecodedCoded,
    .evQueue, .mtrBytesCnt]] p
  | .chunkCombine .. => among [[.podQueue, .colInstances, .freeCtr]] p
  | .colPartRsp .. => among [sendParts, tapParts, serviceParts, [.swcAgentInbox, .swcAgentSeq, .tierNextTag, .colStatus, .colAttStatus,
    .cmpStatus, .cmpDecodedRaw, .cmpDecodedCoded, .evQueue, .mtrBytesCnt]] p
  | .serviceStoreResponse .. => among [sendParts, tapParts, serviceParts, [.swcAgentInbox, .colStatus, .colAttStatus, .evQueue,
    .mtrBytesCnt, .mtrExports]] p
  | .instanceTimeout .. => among [sendParts, tapParts, serviceParts, [.colStatus, .evQueue, .mtrBytesCnt]] p
  | .colGather .. => among [sendParts, tapParts, takeParts, copyParts, trayParts, [.cfgSpInbox, .homeStatus, .podQueue, .colOps,
    .colNextOp, .mtrBytesCnt, .freeCtr]] p
  | .colFilter .. => among [sendParts, tapParts, takeParts, [.cfgSpInbox, .podQueue, .colOps, .colNextOp, .mtrBytesCnt, .freeCtr]] p
  | .attAppend .. => among [sendParts, tapParts, journalParts, takeParts, copyParts, trayParts, tierParts, [.homeWindows, .homeHot,
    .cohDir, .cohOutstanding, .cohMsgWait, .cohTxnNo, .cohStatus, .cohRecalls, .tierCc, .gens, .sessions, .colOps, .colNextOp,
    .mtrBytesCnt, .fltXfers, .freeCtr]] p
  | .attOpen .. => among [sendParts, tapParts, takeParts, [.tierStatus, .sessions, .evQueue, .mtrBytesCnt]] p
  | .attFork .. => among [sendParts, tapParts, takeParts, copyParts, trayParts, [.tierStatus, .tierMoves, .objs, .sessions, .colOps,
    .colNextOp, .colAttStatus, .mtrBytesCnt, .fltXfers]] p
  | .attClose .. => among [sendParts, tapParts, takeParts, [.sessions, .colOps, .colNextOp, .mtrBytesCnt]] p
  | .attCloseDone .. => among [sendParts, tapParts, journalParts, trayParts, byteParts, [.homeWaiting, .homeWindows, .homeHot,
    .homeStatus, .cohDir, .cohOutstanding, .cohMsgWait, .cohTxnNo, .cohStatus, .cohRecalls, .tierStatus, .tierCc, .tierMoves, .tierCopies,
    .objs, .sessions, .ftlMapCache, .colOps, .cmpStatus, .cmpDecodedRaw, .cmpDecodedCoded, .evQueue, .mtrBytesCnt, .fltXfers]] p
  | .attAttend .. => among [sendParts, tapParts, takeParts, [.swcAgentSeq, .tierMoves, .tierNextTag, .podQueue, .colOps, .colNextOp,
    .colSends, .colAttStatus, .colSkipped, .colReadBlocks, .evQueue, .mtrBytesCnt, .freeCtr]] p
  | .cmpSlotFree .. => among [eventParts, [.cmpSlots, .cmpStatus]] p
  | .eventSend .. => among [sendParts, [.cfgJobs, .evQueue, .evSeq, .evLastAt]] p
  | .countersPeriod .. => among [eventParts, [.evPeriod]] p
  | .auditPass .. => among [eventParts, [.swcOffFree, .swcSuspect, .swcQuarantined, .swcAuditEpoch, .swcSlackUsed, .swcWithhold,
    .swcStatus, .swcPasses, .swcReclaimed]] p
  | .cellEccError .. => among [sendParts, admitParts, [.lftReseq, .swcStatus, .swcDiscarded]] p
  | .linkInit .. => among [eventParts, [.lftPorts, .lftSpray, .lftReseq, .lftBarrierTx, .lftSprayIn, .lftSent, .lftPfcSent, .swcFifos,
    .swcOffFree, .swcQuarantined, .homeInbox, .fltFailedLinks]] p
  | .linkInitSend .. | .linkCreditSend .. | .linkNak .. | .linkNakRepeat .. | .replayTimeout .. => among [[.lftPorts, .lftSent]] p
  | .linkCredit .. => among [[.lftPorts, .fltFailedLinks]] p
  | .sublinkLockLoss .. | .sublinkRxTimeout .. | .sublinkReplayLimit .. | .sublinkBringupTimeout .. => among [eventParts, [.lftPorts,
    .lftSpray, .lftReseq, .lftBarrierTx, .lftSprayIn, .lftPfcSent, .swcFifos, .swcOffFree, .swcQuarantined, .homeInbox, .fltFailedLinks]]
    p
  | .pfcFrame .. | .pfcPauseExpiry .. => among [[.lftPorts]] p
  | .pfcXoffRefresh .. => among [[.lftPfcSent]] p
  | .sprayedFrameResequence .. => among [sendParts, [.lftReseq, .lftSprayIn]] p
  | .reseqAck .. => among [[.lftPorts, .lftSpray, .lftBarrierTx, .lftPfcSent, .swcFifos, .swcOffFree, .swcQuarantined, .swcAgentInbox,
    .homeCombined]] p
  | .reseqAckTimer .. => among [sendParts, [.lftReseq]] p
  | .pathBarrierStart .. => among [[.lftPorts, .lftBarrierTx, .lftNextBarrier, .lftPfcSent, .swcFifos, .swcOffFree, .swcBorn,
    .swcQuarantined, .homeCombined]] p
  | .pathBarrier .. => among [sendParts, [.lftReseq, .lftBarrierRx, .lftSprayIn, .swcAgentInbox]] p
  | .pathBarrierAck .. => among [[.lftPorts, .lftSpray, .lftBarrierTx, .lftLivePaths, .lftPfcSent, .swcFifos, .swcOffFree,
    .swcQuarantined, .swcAgentInbox, .homeCombined]] p
  | .pathBarrierTimeout .. => among [sendParts, [.fltUnreachable]] p
  | .kaHello .. => among [eventParts, [.lftPorts, .lftKaSent, .secStatus, .freeCtr]] p
  | .kaReply .. => among [eventParts, [.lftPorts, .lftKaSent, .secStatus, .fltFailedLinks]] p
  | .kaDone .. => among [eventParts, [.lftPorts, .secStatus, .fltFailedLinks]] p
  | .kaResend .. => among [[.lftPorts, .lftKaSent]] p
  | .linkRekey .. => among [[.lftPorts, .lftKaSent, .freeCtr]] p
  | .paceMeasure .. => among [eventParts, [.modInputMv, .modInputW, .modDies, .modCoolIn, .modCoolOut, .freeCtr]] p
  | .refClockLoss => among [eventParts, [.modStatus, .modDies]] p
  | .refClockReturn => among [eventParts, [.modDies]] p
  | .spTakeover => among [sendParts, [.cfgLastStatus, .cfgCmdSeq, .cfgActiveSp, .cfgSpInbox, .cfgAuthWait, .evQueue]] p
  | .heartbeatSend | .heartbeat .. => among [[.fltReached, .fltHeartbeats]] p
  | .leaseLoss => among [eventParts, [.fltSelfFenced, .fltStatus]] p
  | .leaseRegain => among [eventParts, journalParts, [.lftSpray, .homeWindows, .homeDoubtful, .fltSwitches, .fltGen, .fltSelfFenced]] p
  | .switchDeclareLost .. | .mapGenerationApply .. => among [sendParts, tapParts, journalParts, admitParts, trayParts, directoryParts,
    serviceParts, byteParts, [.cfgLocalBytes, .cfgTotalBytes, .cfgCmdSeq, .cfgJobs, .cfgStalkWait, .lftReseq, .swcStops, .swcStopMsgs,
    .homeWaiting, .homeWindows, .homeDoubtful, .homeStatus, .tierMoves, .objs, .ftlMapCache, .colStatus, .cmpStatus, .cmpDecodedRaw,
    .cmpDecodedCoded, .mtrBytesCnt, .fltSwitches, .fltFence, .fltGen, .fltSelfFenced, .fltStatus, .fltFencing, .fltComps, .fltPromoted,
    .fltXfers]] p
  | .endpointGraceExpire .. => among [eventParts, [.fltStatus, .fltFencing]] p
  | .endpointAckDeadExpire .. => among [eventParts, [.fltStatus, .fltFencing, .fltAckReports]] p
  | .endpointFenced .. => among [eventParts, [.cfgJobs, .fltFencing]] p
  | .trayLost .. => among [sendParts, tapParts, journalParts, trayParts, serviceParts, byteParts, [.homeWaiting, .homeWindows, .homeHot,
    .homeStatus, .cohDir, .cohOutstanding, .cohMsgWait, .cohTxnNo, .cohStatus, .cohRecalls, .tierStatus, .tierCc, .tierMoves, .tierCopies,
    .exts, .objs, .ftlProgs, .ftlRelocs, .ftlDue, .ftlCollects, .ftlMapCache, .cmpStatus, .cmpDecodedRaw, .cmpDecodedCoded, .evQueue,
    .mtrBytesCnt, .fltStatus, .fltComps, .fltXfers, .fltLostTrays]] p
  | .xferIn .. => among [sendParts, tapParts, journalParts, copyParts, trayParts, [.objs, .gens]] p
  | .xferSwitchover .. | .xferResolve .. => among [sendParts, tapParts, journalParts, trayParts, byteParts, [.cfgJobs, .homeWaiting,
    .homeWindows, .homeHot, .homeStatus, .cohDir, .cohOutstanding, .cohMsgWait, .cohTxnNo, .cohStatus, .cohRecalls, .tierCc, .tierMoves,
    .tierCopies, .objs, .ftlMapCache, .cmpStatus, .cmpDecodedRaw, .cmpDecodedCoded, .evQueue, .mtrBytesCnt, .fltStatus, .fltXfers]] p
  | .xferCommitApply .. => among [sendParts, tapParts, journalParts, trayParts, byteParts, [.cfgJobs, .homeWaiting, .homeWindows,
    .homeHot, .homeStatus, .cohDir, .cohOutstanding, .cohMsgWait, .cohTxnNo, .cohStatus, .cohRecalls, .tierCc, .tierMoves, .tierCopies,
    .objs, .ftlMapCache, .cmpStatus, .cmpDecodedRaw, .cmpDecodedCoded, .evQueue, .mtrBytesCnt, .fltStatus, .fltXfers, .freeCtr]] p
  | .tapEventSend .. => among [[.mtrTapSent]] p
  | .meterAck .. => among [[.mtrMeter, .mtrLog, .mtrNewest, .mtrNextPos, .mtrQuants, .mtrTapBuf, .freeCtr]] p
  | .recordPeriodEnd => among [eventParts, logParts, [.mtrSt, .mtrMeter, .mtrStatus, .mtrPeriodStart, .mtrPendingTariff, .mtrQuants]] p
  | .meterAttach .. => among [eventParts, [.mtrSt, .mtrMeter, .mtrKeyErased, .mtrStatus, .mtrLog, .mtrNewest, .mtrNextPos, .mtrReleased,
    .mtrPeriodStart, .mtrPendingTariff, .mtrQuants, .mtrEscrow, .mtrIngested]] p
  | .meterTamper => among [eventParts, logParts, [.mtrSt, .mtrMeter, .mtrKeyErased]] p
  | .meterLinkLoss => among [eventParts, logParts, [.mtrSt]] p
  | .escrowSecond .. => among [eventParts, journalParts, [.mtrStatus, .mtrTapSeq, .mtrEscrow]] p
  | .escrowIngestSegment .. => among [eventParts, journalParts, logParts, [.mtrSt, .mtrMeter, .mtrStatus, .mtrQuants, .mtrTapSeq,
    .mtrIngested]] p
  | .inputLoss => among [logParts, powerOffParts, [.mtrSt, .modInputOk, .modHoldupReady]] p
  | .plannedPowerDown => among [logParts, powerOffParts, [.mtrSt]] p
  | .plannedDownTimeout => among [logParts, [.ftlStaging, .ftlProgs, .ftlMediaLsn, .ftlFlushRegion, .podCores, .podQueue, .colOps,
    .colInstances, .colSends, .mtrSt, .modPower, .modLastDown, .modAdmitting, .modPlanned, .freeCtr]] p
  | .holdupTest .. => among [sendParts, tapParts, [.homeWaiting, .evQueue, .mtrBytesCnt, .modHoldup, .modHoldupLow, .modStatus]] p
  | .thermalHoldEnter .. => among [eventParts, [.modStatus, .modDies, .modCoolIn]] p
  | .thermalHoldExit .. => among [eventParts, [.modDies, .modCoolIn]] p
  | .thermalTrip .. => among [logParts, powerOffParts, [.mtrSt, .modDies]] p
  | .coolantInletHigh .. => among [eventParts, [.modStatus, .modCoolIn]] p
  | .inputLow .. => among [eventParts, [.modInputMv, .modStatus]] p
  | .laneAutoSpare .. => among [[.lftPorts, .modDies]] p
  | .laneRetrainDone .. => among [eventParts, [.lftPorts, .modStatus, .modLanes]] p
  | .pcAutoSpare .. => among [eventParts, [.modStatus, .modPcLeft, .modPcCopy]] p
  | .pcSpareSwitchover .. => among [eventParts, [.modStatus, .modPcCopy]] p
  | .rowRepair .. => among [eventParts, [.modStatus, .modRowBusy]] p
  | .linkTrainingDone .. => among [[.lftPorts, .lftKaSent, .fltFailedLinks, .freeCtr]] p
  | .inputReturn .. => among [[.modPower, .modInputOk, .modHoldupReady, .modInputMv]] p
  | .extRevokeStalkApply .. => among [sendParts, trayParts, [.cfgStalkWait, .homeHot, .cohDir, .cohOutstanding, .cohMsgWait, .cohTxnNo,
    .cohStatus, .cohRecalls, .tierCc, .exts, .evQueue]] p
  | .compRollbackComplete .. => among [sendParts, tapParts, journalParts, serviceParts, [.cfgJobs, .evQueue, .mtrBytesCnt, .fltComps]] p
  | .meterExportDone .. => among [eventParts, [.cfgJobs, .mtrReleased, .mtrExports]] p
  | .authorisationReadDone => notAmong [.pending, .secSerial, .secSealed, .secDevCert, .secMacBase, .secFwArb, .secTapMarks, .secFw0,
    .secFw1] p
  | .mapPageLoadDone .. => among [sendParts, tapParts, journalParts, copyParts, trayParts, [.homeWaiting, .homeWindows, .homeHot,
    .homeStatus, .cohDir, .cohOutstanding, .cohMsgWait, .cohTxnNo, .cohStatus, .cohRecalls, .tierStatus, .tierCc, .tierMoves, .objs,
    .cmpStatus, .cmpDecodedRaw, .cmpDecodedCoded, .mtrBytesCnt, .fltXfers]] p
  | .journalTailOnMedia .. => among [sendParts, tapParts, journalParts, trayParts, [.homeWaiting, .vols, .ftlBlocks, .ftlDue, .ftlClosing,
    .ftlEraseWait, .ftlMediaLsn, .evQueue, .mtrBytesCnt]] p
  | .localFractionUpdate .. => among [[.cfgLocalFrac, .cfgLocalBytes, .cfgTotalBytes, .freeCtr]] p
  | .fecDegradeCheck .. => among [eventParts, [.lftPorts, .freeCtr]] p
  | .tapBytesFlush .. => among [tapParts, [.mtrBytesCnt]] p
  | .flashTrayBusy .. => among [sendParts, [.swcAgentInbox]] p
  | .rowRepairDone .. => among [sendParts, tapParts, trayParts, byteParts, [.homeWaiting, .homeWindows, .homeHot, .homeStatus, .cohDir,
    .cohOutstanding, .cohMsgWait, .cohTxnNo, .cohStatus, .cohRecalls, .tierCc, .tierMoves, .objs, .ftlMapCache, .ftlStatus, .cmpStatus,
    .cmpDecodedRaw, .cmpDecodedCoded, .evQueue, .mtrBytesCnt, .fltXfers, .modStatus, .modRows, .modRowBusy, .modRowsOut, .freeCtr]] p

end Machine
end Sys2Proof
end

