-- ==== Sys2Proof/Certificates/Slice0/Obligations.lean ====
section
/-! DEFINITION. The statements for the provers. Where a statement says that a command completes, the state it names is the command's own
effect; how its answer or its event goes on to the fabric is the switch core's business. -/

section Slice0
open Sys2Proof Sys2Proof.Machine

/-- For every state whose queue has a command at its front, the step is that command's effect on the state with the queue's rest. (The queue
is this model's own: log 3.) (R20, R107) -/
def Obligations.StepRunsTheFrontCommand : Prop :=
  ∀ (s : State) (c : Instr) (r : List Instr), s.pending = c :: r → step s = exec c { s with pending := r }

/-- For every state with an empty queue: where no pod core may issue an instruction, no copying is under way and no operation waits for its
data, the step is that time passes: the interval timer of each die counts one, and nothing but the dies' measurements and the token
buckets differs, of the measurements only the timers. Where exactly one core may issue, and the word at the program counter of its
current thread has the CLASS and OP of a row of R300, the step is that row's command, with the fields that R299 places in the word, and
then copying goes on, the operations that wait for data take it, and time passes; where no row has its CLASS and OP, the thread faults
with FORMAT in place of that command. That cores run, copying goes on and time passes then is the model's choice (log 3). (R48, R285,
R299, R300, R301, R390) -/
def Obligations.EmptyQueueStepRunsCoresAndTime : Prop :=
  (∀ (s : State), s.pending = [] → (∀ (d : Die) (p : Nat), p ∈ listedCores s d → canIssue (coreOf s d p) = false) →
    (∀ d : Die, (side s.tier d).copies = [] ∧ ∀ o ∈ (side s.col d).ops, o.waits ≠ some .data) → step s = .next (passTime s)) ∧
  (∀ (s : State), (passTime s).mod.dies.d0 = { s.mod.dies.d0 with timer := s.mod.dies.d0.timer + 1 } ∧
    (passTime s).mod.dies.d1 = { s.mod.dies.d1 with timer := s.mod.dies.d1.timer + 1 } ∧ KeepsBut [.modDies, .evBuckets] s (passTime s)) ∧
  (∀ (s : State) (d : Die) (p v : Nat), s.pending = [] → OnlyIssuer s d p → podWord (coreOf s d p) = some v →
    (∀ x ∈ podCodes, v / 2 ^ 58 % 64 = x.1 → v / 2 ^ 52 % 64 = x.2.1 →
      ∃ t, exec (x.2.2 d p
          { d := BitVec.ofNat 5 (v / 2 ^ 47), a := BitVec.ofNat 5 (v / 2 ^ 42), b := BitVec.ofNat 5 (v / 2 ^ 37),
            c := BitVec.ofNat 5 (v / 2 ^ 32), fmt := BitVec.ofNat 4 (v / 2 ^ 28), rnd := BitVec.ofNat 2 (v / 2 ^ 26),
            sat := decide (v / 2 ^ 25 % 2 = 1), bit24 := decide (v / 2 ^ 24 % 2 = 1), imm := BitVec.ofNat 24 v }) s = .next t ∧
        step s = .next (passTime (resumeData .d1 (resumeData .d0 (pump t))))) ∧
    ((∀ x ∈ podCodes, v / 2 ^ 58 % 64 = x.1 → v / 2 ^ 52 % 64 ≠ x.2.1) →
      step s = .next (passTime (resumeData .d1 (resumeData .d0 (pump
        (putCore d p (settle (coreOf s d p) (curThread s d p) (.fault Sts.format)) s)))))))

/-- For every command and every state, the command answers a next state, and that state agrees with the first in every part of the state
that the command may not change. (mayChange names the parts per command; in particular no command changes the queue, and none but the
moves, stores, frees and resets listed there changes memory.) (R23, R105, R111, R172, R291, R493) -/
def Obligations.EveryCommandChangesOnlyItsParts : Prop :=
  ∀ (c : Instr) (s : State), ∃ t, exec c s = .next t ∧ ∀ p : Piece, mayChange c p = false → p.same s t

/-- From every state whose memory is in its canonical form (addresses strictly rising, no entry equal to what an unlisted byte reads as),
every step that answers a next state leaves memory in that form. (R171, R25) -/
def Obligations.MemoryKeepsItsForm : Prop :=
  ∀ (s t : State), Memory.wf s → step s = .next t → Memory.wf t

/-- The memory of the state after reset lists nothing, and is in its canonical form; no command waits. (What an unlisted byte reads as is
the model's choice, log 5.) (R25, R39) -/
def Obligations.MemoryFormAtReset : Prop :=
  Memory.wf State.reset ∧ State.reset.mem = [] ∧ State.reset.pending = []

/-- In the state after reset each register listed reads the value its table gives: CFG.IDENT 0x2096_B000_0000_1FFF, CFG.ETHERTYPE
0x88B5_88B6, SWC.BUF_FREE 0xC_0000, SWC.ARB_WEIGHT 0x02_0404_0402, SWC.SAMPLE_CFG 0x8000, HOM.MEM_CFG 0x1_0014, COH.DIR_CFG 0x0A,
TIER.CFG, TIER.T0_FREE 0x1B8_0000, FTL.CFG, POD.CFG, POD.CORES, COL.CFG 0x1388, ATT.CFG 0x40, FLT.CFG 0x1432, MOD.REPAIR_CFG 7,
MOD.PC_STATE with two spares, each on both dies where the block stands on both; every sticky status register reads zero. (R114, R147,
R167, R196, R228, R253, R279, R316, R337, R365, R470, R491) -/
def Obligations.RegistersAtReset : Prop :=
  (∀ x ∈ ([(0x00000000, 0x2096B00000001FFF), (0x00000008, 0), (0x00000010, 0), (0x00000018, 0), (0x00000028, 0x88B588B6), (0x00000030, 0),
      (0x03000000, 0xC0000), (0x03800000, 0xC0000), (0x03000030, 0x0204040402), (0x03800030, 0x0204040402), (0x03000040, 0x8000),
      (0x03800040, 0x8000), (0x03000058, 0), (0x04002000, 0x10014), (0x04002100, 0x10014), (0x04002020, 0), (0x04002030, 0)] ++
      [(0x05000000, 0x0A), (0x05000100, 0x0A), (0x06000000, 0x30204000200), (0x06000100, 0x30204000200), (0x06000018, 0x1B80000), (0x06000118, 0x1B80000),
      (0x07000000, 0x086020408013C80D), (0x07100000, 0x086020408013C80D), (0x07000028, 0), (0x07000030, 0)] ++
      [(0x08000000, 0x003C0400), (0x09000000, 0x003C0400), (0x08000018, 0x100200), (0x09000018, 0x100200), (0x0A000000, 0x1388), (0x0A000100, 0x1388),
      (0x0B000000, 0x40), (0x0B000100, 0x40)] ++
      [(0x0E000008, 0), (0x0F000000, 0), (0x10000000, 0x1432), (0x10000008, 0), (0x11001010, 7), (0x11002000, 0x0200000000000000),
      (0x12000000, 0)] : List (Nat × Nat)), regRead State.reset x.1 = some x.2) ∧
  (∀ r : StReg, stGet State.reset r = {})

/-- For every step that answers a next state, BS_ARB and FW_ARB are at least what they were, and the lifetime counters for tariffs, debug
and ownership transfers are at most what they were. (R97, R410, R14, R412) -/
def Obligations.RootStoreCountersAreMonotone : Prop :=
  ∀ (s t : State), step s = .next t → s.sec.bsArb ≤ t.sec.bsArb ∧ s.sec.fwArb ≤ t.sec.fwArb ∧ t.sec.leftMeter ≤ s.sec.leftMeter ∧
    t.sec.leftDebug ≤ s.sec.leftDebug ∧ t.sec.leftXfer ≤ s.sec.leftXfer

/-- No step changes the serial number, the seal, the device certificate or the MAC base. No command but OWNER_KEY_TRANSFER and
AUTHORISATION_READ_DONE changes the owner key; none but AUTHORISATION_READ_DONE changes a lifetime counter; FW_ARB changes only by a
store that a register takes (ST, REGISTER_WRITE, the rows that name a store to a register). (R41, R403, R405, R410, R411, R412, R413) -/
def Obligations.IdentityIsFixed : Prop :=
  (∀ (s t : State), step s = .next t → t.sec.serial = s.sec.serial ∧ t.sec.sealed = s.sec.sealed ∧ t.sec.devCert = s.sec.devCert ∧
    t.sec.macBase = s.sec.macBase) ∧
  (∀ (c : Instr) (s t : State), exec c s = .next t →
    ((∀ r, c ≠ .ownerKeyTransfer r) → c ≠ .authorisationReadDone → t.sec.ownerKey = s.sec.ownerKey) ∧
    (c ≠ .authorisationReadDone → t.sec.leftMeter = s.sec.leftMeter ∧ t.sec.leftDebug = s.sec.leftDebug ∧ t.sec.leftXfer = s.sec.leftXfer) ∧
    (mayChange c .secFwArb = false → t.sec.fwArb = s.sec.fwArb))

/-- For every frame, the first 28 bytes of its header are 28 bytes, and each field reads back from its place in network byte order: the
version and the four flags from byte 0, the opcode from byte 1, the class and status from byte 2, the hop count and slot from byte 3,
SRC_EP and CTX from bytes 4 to 7, SEQ and the reserved byte from bytes 8 to 11, TAG from 12, FENCE from 14, ADDR from 16, LENGTH from 24
and OPSPEC from 26. Two frames with equal header bytes differ at most in their payload. (R121, R15) -/
def Obligations.HeaderFieldsStandWhereTheyBelong : Prop :=
  (∀ f : Frame, (headerBytes f).length = 28 ∧
    beNat (slice (headerBytes f) 0 1) = f.version.toNat * 16 + b2n f.cmp * 8 + b2n f.rel * 4 + b2n f.acq * 2 + b2n f.last ∧
    slice (headerBytes f) 1 1 = [f.opcode] ∧ beNat (slice (headerBytes f) 2 1) = f.tc.toNat * 32 + f.status.toNat ∧
    beNat (slice (headerBytes f) 3 1) = f.hop.toNat * 16 + f.slot.toNat ∧
    beNat (slice (headerBytes f) 4 4) = f.srcEp.toNat * 4096 + f.ctx.toNat ∧
    beNat (slice (headerBytes f) 8 4) = f.seq.toNat * 256 + f.rsvd.toNat ∧ beNat (slice (headerBytes f) 12 2) = f.tag.toNat ∧
    beNat (slice (headerBytes f) 14 2) = f.fence.toNat ∧ beNat (slice (headerBytes f) 16 8) = f.addr.toNat ∧
    beNat (slice (headerBytes f) 24 2) = f.length.toNat ∧ beNat (slice (headerBytes f) 26 2) = f.opspec.toNat) ∧
  (∀ f g : Frame, headerBytes f = headerBytes g → { f with payload := [] } = { g with payload := [] })

/-- For every COMMAND below 65,536 and every control command whose fields fit their places in the control body, the frame of the command
decodes to that command and that COMMAND. (R106, R107, R15) -/
def Obligations.ControlFramesDecodeToTheirCommand : Prop :=
  ∀ (code : Nat) (r : CtlReq), code < 65536 → r.bodyFormat < 65536 → r.argLength < 2 ^ 32 → r.zero12 < 2 ^ 32 → r.lftLen < 65536 →
    r.die = portDie r.port → ctlOf r.port (ctlFrame code r) = r ∧ ctlCode (ctlFrame code r) = code

/-- For every control command but STOP and RESUME (those are refused at an ingress), in every state in which the service processor is not
reading an authorisation, neither the stalk nor a full journal makes the command wait, and the body header, the address or the admission
refuses the command with a status: the command completes, and the next state differs from the one before at most in the service
processor's input queue and in what sending the refusal may change. No held response and no newest executed CMD_SEQ changes. (R493,
R105, R106, R107, R108) -/
def Obligations.ControlCommandRefusedHasNoEffect : Prop :=
  ∀ p ∈ ctlCommands, ∀ (s : State) (r : CtlReq) (st : BitVec 5), s.cfg.authWait = none → ctlWaits s p.1 = false →
    ctlRefused s p.1 r = some st →
    ∃ t, exec (p.2 r) s = .next t ∧ KeepsBut (.cfgSpInbox :: sendParts) s t

/-- For every control command but STOP and RESUME that passes checks 1 to 3, in every state in which no authorisation is being read and
neither the stalk nor a full journal makes the command wait: if a held response of its source has its CMD_SEQ, or its CMD_SEQ is not
newer than the newest executed one, the command completes and the next state differs at most in the service processor's input queue and
in what sending a response may change: the command is not executed again, and the table of held responses is as before. For every
control command but STOP and RESUME that passes checks 1 to 4 of R493, in every state in which no authorisation is being read, neither
the stalk nor a full journal makes the command wait, and the same command does not wait for the other die: if the arguments' length or
layout, a partial in application, a full CONFIG_GEN or 256 jobs refuse it with a status, the command completes, the newest held response
of its source has that status, and nothing else changes but the input queue, LAST_STATUS and what sending a response may change. (R109,
R493, R492) -/
def Obligations.ControlCommandRefusedAtChecksFourToSix : Prop :=
  (∀ p ∈ ctlCommands, ∀ (s : State) (r : CtlReq) (x : HeldRsp ⊕ BitVec 5), s.cfg.authWait = none →
    ctlWaits s p.1 = false → ctlRefused s p.1 r = none →
    seqCheck s r = some x → ∃ t, exec (p.2 r) s = .next t ∧ KeepsBut (.cfgSpInbox :: sendParts) s t) ∧
  (∀ p ∈ ctlCommands, ∀ (s : State) (r : CtlReq) (st : BitVec 5), s.cfg.authWait = none →
    ctlWaits s p.1 = false → ctlRefused s p.1 r = none →
    s.cfg.stalkWait.any (fun x => x.req.srcEp == r.srcEp && x.req.cmdSeq == r.cmdSeq) = false → seqCheck s r = none →
    firstBad [argBad s p.1 r, ctlBusy s p.1] = some st →
    ∃ t, exec (p.2 r) s = .next t ∧ Answered t p.1 r st [] ∧
      KeepsBut (.cfgSpInbox :: .cfgCmdSeq :: .cfgLastStatus :: sendParts) s t)

/-- In every state in which each source has at most 16 held responses, after any control command but STOP and RESUME each source again has
at most 16 held responses. (R109) -/
def Obligations.HeldResponsesAreTheLastSixteen : Prop :=
  ∀ p ∈ ctlCommands, ∀ (s t : State) (r : CtlReq), exec (p.2 r) s = .next t →
    (∀ c ∈ s.cfg.cmdSeq, c.2.held.length ≤ 16) → ∀ c ∈ t.cfg.cmdSeq, c.2.held.length ≤ 16

/-- In every state and for every request that is ready (checks 1 to 6 of R493 pass): ECHO answers its arguments. BS_BEGIN of a slot that is
not the active one and not LOADING, with a length in its limits, puts that slot in LOADING, empty, under the LOAD_ID after the last one
(1 after 0xFFFE), and answers it. BS_DATA under the LOAD_ID of a LOADING slot, inside its TOTAL_LENGTH, writes each byte at its offset
and no other. BS_FETCH starts a job that names its load, offset, source and length; BS_FETCH_COMPLETE of such a job whose read is OK
writes the bytes read at the offset. BS_END makes the slot VERIFIED where every check passes, else INVALID with the failing check's
status in LAST_STATUS. BS_ABORT, and the abandonment of a load, leave the slot EMPTY. (R95, R96, R107, R109, R492) -/
def Obligations.BitstreamLoadCommandsComplete : Prop :=
  (∀ (s : State) (r : CtlReq), CtlReady s 0x01 r → ∃ t, exec (.echo r) s = .next t ∧ Answered t 0x01 r Sts.ok r.args) ∧
  (∀ (s : State) (r : CtlReq) (x : Slot), CtlReady s 0x10 r → slotNum (le r.args 0 1) = some x →
    ¬(x = s.cfg.active ∧ s.cfg.unconfigured = false) → (slotOf s x).phase ≠ .loading →
    30064 ≤ le r.args 8 8 → le r.args 8 8 ≤ slotLimit (x == .p) →
    let n := if s.cfg.lastLoadId = 0xFFFE then 1 else s.cfg.lastLoadId + 1
    ∃ t, exec (.bsBegin r) s = .next t ∧ Answered t 0x10 r Sts.ok (toLE 2 n ++ zeros 6) ∧ t.cfg.lastLoadId = n ∧
      slotOf t x = { phase := .loading, loadId := n, total := le r.args 8 8 }) ∧
  (∀ (s : State) (r : CtlReq) (x : Slot), CtlReady s 0x11 r → loadSlot s (argLoadId r) = some x →
    le r.args 8 8 + (r.args.drop 16).length ≤ (slotOf s x).total →
    ∃ t, exec (.bsData r) s = .next t ∧ Answered t 0x11 r Sts.ok [] ∧
      (∀ i, i < (r.args.drop 16).length → get? (slotOf t x).bytes (le r.args 8 8 + i) = (r.args.drop 16)[i]?) ∧
      (∀ a, a < le r.args 8 8 ∨ le r.args 8 8 + (r.args.drop 16).length ≤ a → get? (slotOf t x).bytes a = get? (slotOf s x).bytes a)) ∧
  (∀ (s : State) (r : CtlReq) (x : Slot), CtlReady s 0x12 r → loadSlot s (argLoadId r) = some x →
    le r.args 8 8 + le r.args 24 8 ≤ (slotOf s x).total →
    ∃ t, exec (.bsFetch r) s = .next t ∧ JobAccepted s t 0x12 r [argLoadId r, le r.args 8 8, le r.args 16 8, le r.args 24 8]) ∧
  (∀ (s s1 : State) (job : Nat) (j : Job) (x : Slot) (id off src n : Nat) (b : Bytes), jobOf s job = some j → j.code = 0x12 →
    j.args = [id, off, src, n] → loadSlot s id = some x → svcRead s.cfg.activeSp j.ctx src n s = (Sts.ok, b, s1) →
    ∃ t, exec (.bsFetchComplete job) s = .next t ∧ (∀ i, i < b.length → get? (slotOf t x).bytes (off + i) = b[i]?)) ∧
  (∀ (s : State) (r : CtlReq) (x : Slot), CtlReady s 0x13 r → loadSlot s (argLoadId r) = some x →
    ∃ t, exec (.bsEnd r) s = .next t ∧ match verifySlot s (x == .p) (slotOf s x) with
      | none => Answered t 0x13 r Sts.ok [] ∧ slotOf t x = { slotOf s x with phase := .verified }
      | some st => Answered t 0x13 r st [] ∧ (st ≠ Sts.ok → t.cfg.lastStatus = st) ∧ slotOf t x = { slotOf s x with phase := .invalid }) ∧
  (∀ (s : State) (r : CtlReq) (x : Slot), CtlReady s 0x14 r → loadSlot s (argLoadId r) = some x →
    ∃ t, exec (.bsAbort r) s = .next t ∧ Answered t 0x14 r Sts.ok [] ∧ slotOf t x = {}) ∧
  (∀ (s : State) (x : Slot), (slotOf s x).phase = .loading →
    ∃ t, exec (.loadAbandon x) s = .next t ∧ slotOf t x = {} ∧ t.cfg.status.bits.getLsbD 4 = true)

/-- In every state and for every ready request whose record change passes the validation of R100: EXT_CREATE, GRANT_ADD, CTX_CREATE (of a
context but 0), ADMIT_ADD, QOS_SET (an ADD, or a REPLACE where the record exists) and COMP_CREATE answer OK with no results, leave the
record of the KEY with the body the command carries, and add one to CFG.CONFIG_GEN; the extent is ACTIVE, the context ACTIVE on both
dies with zero limits. GRANT_REMOVE and ADMIT_REMOVE leave no record of their key and add one to CONFIG_GEN. (R106, R107, R68, R69,
R378, R380, R381, R388, R463) -/
def Obligations.RecordCommandsComplete : Prop :=
  (∀ (s : State) (r : CtlReq), CtlReady s 0x20 r → validate s false [bodyChange .add RT.extent r] = none →
    ∃ t, exec (.extCreate r) s = .next t ∧ Answered t 0x20 r Sts.ok [] ∧ recOf t RT.extent (le r.args 0 8) = some (r.args.drop 8) ∧
      t.cfg.configGen = s.cfg.configGen + 1 ∧ (getD t.exts (le r.args 0 8) {}).phase = ⟨.active, .active⟩) ∧
  (∀ (s : State) (r : CtlReq), CtlReady s 0x22 r → validate s false [bodyChange .add RT.grant r] = none →
    ∃ t, exec (.grantAdd r) s = .next t ∧ Answered t 0x22 r Sts.ok [] ∧ recOf t RT.grant (le r.args 0 8) = some (r.args.drop 8) ∧
      t.cfg.configGen = s.cfg.configGen + 1) ∧
  (∀ (s : State) (r : CtlReq), CtlReady s 0x23 r → validate s false [⟨.delete, RT.grant, le r.args 0 4, []⟩] = none →
    ∃ t, exec (.grantRemove r) s = .next t ∧ Answered t 0x23 r Sts.ok [] ∧ recOf t RT.grant (le r.args 0 4) = none ∧
      t.cfg.configGen = s.cfg.configGen + 1) ∧
  (∀ (s : State) (r : CtlReq), CtlReady s 0x30 r → le r.args 0 8 ≠ 0 → validate s false [bodyChange .add RT.context r] = none →
    ∃ t, exec (.ctxCreate r) s = .next t ∧ Answered t 0x30 r Sts.ok [] ∧ recOf t RT.context (le r.args 0 8) = some (r.args.drop 8) ∧
      t.cfg.configGen = s.cfg.configGen + 1 ∧ (ctxOf t (le r.args 0 8)).phase = ⟨.active, .active⟩ ∧
      (ctxOf t (le r.args 0 8)).limits = [0, 0, 0]) ∧
  (∀ (s : State) (r : CtlReq), CtlReady s 0x32 r → validate s false [bodyChange .add RT.admitRec r] = none →
    ∃ t, exec (.admitAdd r) s = .next t ∧ Answered t 0x32 r Sts.ok [] ∧ recOf t RT.admitRec (le r.args 0 8) = some (r.args.drop 8) ∧
      t.cfg.configGen = s.cfg.configGen + 1) ∧
  (∀ (s : State) (r : CtlReq), CtlReady s 0x33 r → validate s false [⟨.delete, RT.admitRec, le r.args 0 8, []⟩] = none →
    ∃ t, exec (.admitRemove r) s = .next t ∧ Answered t 0x33 r Sts.ok [] ∧ recOf t RT.admitRec (le r.args 0 8) = none ∧
      t.cfg.configGen = s.cfg.configGen + 1) ∧
  (∀ (s : State) (r : CtlReq), CtlReady s 0x34 r →
    validate s false [bodyChange (if (recOf s RT.qos (le r.args 0 8)).isSome then .replace else .add) RT.qos r] = none →
    ∃ t, exec (.qosSet r) s = .next t ∧ Answered t 0x34 r Sts.ok [] ∧ recOf t RT.qos (le r.args 0 8) = some (r.args.drop 8) ∧
      t.cfg.configGen = s.cfg.configGen + 1) ∧
  (∀ (s : State) (r : CtlReq), CtlReady s 0x61 r → validate s false [bodyChange .add RT.composition r] = none →
    ∃ t, exec (.compCreate r) s = .next t ∧ Answered t 0x61 r Sts.ok [] ∧ recOf t RT.composition (le r.args 0 8) = some (r.args.drop 8) ∧
      t.cfg.configGen = s.cfg.configGen + 1)

/-- In every state: a ready CTX_RESET of an ACTIVE context other than 0, or a ready CTX_DESTROY of one that no extent, RANK_GROUP or
PARTITION names, starts its job and puts the context in RESETTING or DESTROYING on the die of the active service processor, the other
die holding it as before; CTX_DESTROY adds one to CONFIG_GEN. CTX_RESET_STALK_APPLY of a context that one die holds so and the other as
ACTIVE or FREE puts both dies in that state and removes the context's soak rules. With both dies in it and all its work over,
CTX_RESET_COMPLETE makes the context ACTIVE on both dies and counts the reset, up to 0xFFFF; CTX_DESTROY_COMPLETE, with room in both
journals, makes it FREE on both dies and leaves no CONTEXT or QOS record of it, no ADMIT record of its set and no grant to it.
EVENT_SEND sends the stream's first entry as an EVENT frame when its gap has passed and TC6 has a way, and discards one without a
destination with NO_DEST; COUNTERS_PERIOD advances the period and queues a COUNTERS event for each ACTIVE context with COUNTERS set;
CMP_SLOT_FREE of a RETIRING slot that nothing references makes it FREE, keeping its generation, and tells context 0. (R378, R381, R393,
R394, R396, R468, R107, R374, R383, R385, R387, R399) -/
def Obligations.ContextLifeAndEventCommandsComplete : Prop :=
  ((∀ (s : State) (r : CtlReq), CtlReady s 0x40 r → ctxEndBad s (le r.args 0 4) = none →
    ∃ t, exec (.ctxReset r) s = .next t ∧ JobAccepted s t 0x40 r [le r.args 0 4] ∧ ctxPhase t s.cfg.activeSp (le r.args 0 4) = .resetting ∧
      ctxPhase t (otherDie s.cfg.activeSp) (le r.args 0 4) = ctxPhase s (otherDie s.cfg.activeSp) (le r.args 0 4)) ∧
  (∀ (s : State) (r : CtlReq), CtlReady s 0x31 r → ctxEndBad s (le r.args 0 4) = none → ctxNamed s (le r.args 0 4) = false →
    ∃ t, exec (.ctxDestroy r) s = .next t ∧ JobAccepted s t 0x31 r [le r.args 0 4] ∧ t.cfg.configGen = s.cfg.configGen + 1 ∧
      ctxPhase t s.cfg.activeSp (le r.args 0 4) = .destroying ∧
      ctxPhase t (otherDie s.cfg.activeSp) (le r.args 0 4) = ctxPhase s (otherDie s.cfg.activeSp) (le r.args 0 4)) ∧
  (∀ (s : State) (c : Nat) (d : Die) (p : CtxPhase), c ≠ 0 → (p = .resetting ∨ p = .destroying) → ctxPhase s d c = p →
    (ctxPhase s (otherDie d) c = .active ∨ ctxPhase s (otherDie d) c = .free) →
    ∃ t, exec (.ctxResetStalkApply c) s = .next t ∧ ctxPhase t .d0 c = p ∧ ctxPhase t .d1 c = p ∧
      ∀ x ∈ t.flt.pepper, ¬(x.2.soak = true ∧ x.2.ctx = c)) ∧
  (∀ (s : State) (c : Nat), ctxPhase s .d0 c = .resetting → ctxPhase s .d1 c = .resetting → ctxQuiet s .d0 c = true →
    ctxQuiet s .d1 c = true →
    ∃ t, exec (.ctxResetComplete c) s = .next t ∧ (ctxOf t c).phase = ⟨.active, .active⟩ ∧
      (ctxOf t c).resets = (if (ctxOf s c).resets < 0xFFFF then (ctxOf s c).resets + 1 else 0xFFFF)) ∧
  (∀ (s : State) (c : Nat), ctxPhase s .d0 c = .destroying → ctxPhase s .d1 c = .destroying → ctxQuiet s .d0 c = true →
    ctxQuiet s .d1 c = true →
    ringFull s .d0 (2 ^ 20) = false → ringFull s .d1 (2 ^ 20) = false →
    ∃ t, exec (.ctxDestroyComplete c) s = .next t ∧ (ctxOf t c).phase = ⟨.free, .free⟩ ∧ recOf t RT.context c = none ∧
      recOf t RT.qos c = none ∧ (∀ r ∈ recsOf t RT.admitRec, r.key / 256 ≠ c) ∧ (∀ r ∈ recsOf t RT.grant, le r.body 4 2 % 4096 ≠ c))) ∧
  ((∀ (s : State) (d : Die) (ctx : Nat) (e : EvEntry), headEvent s d ctx = some e →
    (e.dest.getD (eventEp s ctx) = 0 → ∃ t, exec (.eventSend d ctx) s = .next t ∧ (ctxOf t ctx).evStatus.bits.getLsbD 4 = true) ∧
    (e.dest.getD (eventEp s ctx) ≠ 0 → (∀ t0, get? (side s.ev d).lastAt ctx = some t0 → t0 + eventGap s ctx ≤ timerOf s d) →
      eventWay s (e.dest.getD (eventEp s ctx)) (cellsOf (eventFrame s d e (e.dest.getD (eventEp s ctx))).payload.length) = true →
      ∃ u, exec (.eventSend d ctx) s = .next (sendFrom d (eventFrame s d e (e.dest.getD (eventEp s ctx))) u) ∧
        (side u.ev d).queue = dropFirst (fun y => y.stream == ctx) (side s.ev d).queue ∧
        getD (side u.ev d).seq ctx 0 = getD (side s.ev d).seq ctx 0 + 1 ∧ (ctxOf u ctx).sent = ((ctxOf s ctx).sent + 1) % 2 ^ 32)) ∧
  (∀ (s : State) (d : Die), ∃ t, exec (.countersPeriod d) s = .next t ∧ (side t.ev d).period = (side s.ev d).period + 1 ∧
    ∀ r ∈ recsOf s RT.context, countersOn s r.key = true → ctxPhase s d r.key = .active →
      Emitted s t d r.key 0x31 (countersData s d r.key (side s.ev d).period)) ∧
  (∀ (s : State) (slot : Nat), (getD s.cmp.slots slot {}).phase = .retiring → slotRefs s slot = 0 →
    ∃ t, exec (.cmpSlotFree slot) s = .next t ∧
      getD t.cmp.slots slot {} = { phase := .free, tables := 0, gen := (getD s.cmp.slots slot {}).gen, lengths := [] } ∧
      (side t.cmp.status s.cfg.activeSp).bits.getLsbD 2 = true ∧
      Emitted s t s.cfg.activeSp 0 0x40 ([BitVec.ofNat 8 slot, 0#8] ++ toLE 2 (getD s.cmp.slots slot {}).gen ++ zeros 4)))

/-- In every state: a ready BS_ACTIVATE of a VERIFIED slot A or B with NOW 0 makes it the preferred slot and is answered with the next JOB
number. A ready BS_ACTIVATE of a VERIFIED slot P whose partial passes R100 starts its job, adds one to CONFIG_GEN, raises the anti-
rollback counter to the partial's ROLLBACK_VERSION if that is higher, and leaves the partial's changes to be applied in the order of
R101; one that fails R100 is answered with the failing status, sets ACTIVATE_FAIL, and no record changes. PARTIAL_APPLY with no change
left and nothing draining ends the application: slot P is EMPTY and the determinism class is the partial's; with one change left that
needs no drain, the record set is that of the change, and the application ends too. RECORD_DRAIN_DONE of the one draining record of an
application with no change left, its requests over, gives the record its new body, or deletes it, and ends the application. (R98, R100,
R101, R102, R104, R97, R107, R114) -/
def Obligations.ActivationCommandsComplete : Prop :=
  (∀ (s : State) (r : CtlReq) (x : Slot), CtlReady s 0x15 r → slotNum (le r.args 0 1) = some x → x ≠ .p →
    (slotOf s x).phase = .verified → le r.args 1 1 = 0 →
    ∃ t, exec (.bsActivate r) s = .next t ∧ Answered t 0x15 r Sts.ok (toLE 4 s.cfg.nextJob ++ zeros 4) ∧ t.cfg.preferred = x) ∧
  (∀ (s : State) (r : CtlReq), CtlReady s 0x15 r → slotNum (le r.args 0 1) = some .p → s.cfg.slotP.phase = .verified →
    let b := bsBytes s.cfg.slotP
    let cs := (readChanges true b).getD []
    (partialBad s b cs = none → ∃ t, exec (.bsActivate r) s = .next t ∧ JobAccepted s t 0x15 r [] ∧
      t.cfg.configGen = s.cfg.configGen + 1 ∧ t.sec.bsArb = Nat.max s.sec.bsArb (le b 20 4) ∧ t.cfg.records = s.cfg.records ∧
      t.cfg.applying = some ⟨s.cfg.nextJob, r.srcEp.toNat, r.ctx.toNat, s.cfg.configGen + 1, le b 16 4, applyOrder cs⟩) ∧
    (∀ st, partialBad s b cs = some st → ∃ t, exec (.bsActivate r) s = .next t ∧ Answered t 0x15 r st [] ∧
      t.cfg.status.bits.getLsbD 2 = true ∧ t.cfg.records = s.cfg.records ∧ t.cfg.configGen = s.cfg.configGen)) ∧
  (∀ (s : State) (a : Applying), s.cfg.applying = some a → a.changes = [] → s.cfg.draining = [] →
    ∃ t, exec .partialApply s = .next t ∧ t.cfg.applying = none ∧ t.cfg.slotP = {} ∧ t.cfg.detClass = a.detClass ∧
      t.cfg.records = s.cfg.records) ∧
  (∀ (s : State) (a : Applying) (c : Change), s.cfg.applying = some a → a.changes = [c] → s.cfg.draining = [] → needsDrain s c = false →
    ∃ t, exec .partialApply s = .next t ∧ t.cfg.applying = none ∧ t.cfg.slotP = {} ∧ t.cfg.detClass = a.detClass ∧
      t.cfg.records = applyChange s.cfg.records c) ∧
  (∀ (s : State) (a : Applying) (x : Drain), s.cfg.applying = some a → a.changes = [] → s.cfg.draining = [x] →
    drainQuiet (drainKick x s) x = true →
    ∃ t, exec (.recordDrainDone x.type x.key) s = .next t ∧ t.cfg.applying = none ∧ t.cfg.draining = [] ∧
      recOf t x.type x.key = (if x.next.isEmpty then none else some x.next))

/-- In every state: a ready EXT_REVOKE of an extent that is ACTIVE on the die of the active service processor starts its job, adds one to
CONFIG_GEN, and holds the extent as REVOKING on that die; its response, OK with the JOB number, is held and waits for the other die.
EXT_REVOKE_STALK_APPLY of an extent that one die holds as REVOKING and the other as ACTIVE makes it REVOKING on both. EXTENT_REVOKED of
an extent that both dies hold as REVOKING, with its admitted work, its recalls and its write-backs over, makes it REVOKED on both.
(R452, R453, R67, R107) -/
def Obligations.RevocationCommandsComplete : Prop :=
  (∀ (s : State) (r : CtlReq) (e : ExtV), CtlReady s 0x21 r → extOf s (le r.args 0 4) = some e →
    extPhase s s.cfg.activeSp (le r.args 0 4) = .active →
    ∃ t, exec (.extRevoke r) s = .next t ∧ JobAccepted s t 0x21 r [le r.args 0 4] ∧ t.cfg.configGen = s.cfg.configGen + 1 ∧
      extPhase t s.cfg.activeSp (le r.args 0 4) = .revoking ∧
      (⟨0x21, r, 0, toLE 4 s.cfg.nextJob ++ zeros 4⟩ : StalkWait) ∈ t.cfg.stalkWait) ∧
  (∀ (s : State) (i : Nat) (e : ExtV) (d : Die), extOf s i = some e → extPhase s d i = .revoking → extPhase s (otherDie d) i = .active →
    ∃ t, exec (.extRevokeStalkApply i) s = .next t ∧ extPhase t .d0 i = .revoking ∧ extPhase t .d1 i = .revoking) ∧
  (∀ (s : State) (i : Nat) (e : ExtV), extOf s i = some e → extPhase s .d0 i = .revoking → extPhase s .d1 i = .revoking →
    extWork (revokeProgress e s) e = false → extLines (revokeProgress e s) e.die e = [] → ccDirtyIn (revokeProgress e s) e.die e = [] →
    ∃ t, exec (.extentRevoked i) s = .next t ∧ extPhase t .d0 i = .revoked ∧ extPhase t .d1 i = .revoked)

/-- In every state: LINK_TRAINING_DONE of a sub-link of the running device that is down begins the key agreement on a MACsec port, else the
LINK_INIT exchange on a credit-mode port, and on a PFC port puts the sub-link in service. LINK_INIT_SEND in the LINK_INIT exchange, the
peer's LINK_INIT still missing, sends one LINK_INIT with this end's payload. A peer's LINK_INIT of 48 bytes in the exchange that passes
the checks of step 4 is noted with its eight limits and answered with one LINK_CREDIT; one that fails sets PEER_MISMATCH and leaves the
sub-link as it is. A LINK_INIT in service takes the sub-link out of service, empties its replay buffer and restarts at step 3. The first
LINK_CREDIT of 32 bytes after the peer's LINK_INIT puts the sub-link in service with LSEQ 0; one in service replaces the counters of
cells returned. (R137, R138, R134, R144, R418) -/
def Obligations.LinkBringUpCompletes : Prop :=
  (∀ (s : State) (p k : Nat), subThere s p k = true → (subOf s p k).phase = .down →
    ∃ t, exec (.linkTrainingDone p k) s = .next t ∧
      (subOf t p k).phase = (if portMacsec s p then .keying else if portPfc s p then .up else .init)) ∧
  (∀ (s : State) (p k : Nat), (subOf s p k).phase = .init → (subOf s p k).peerInit = false →
    ∃ t x, exec (.linkInitSend p k) s = .next t ∧ t.lft.sent = s.lft.sent ++ [x] ∧ x.port = p ∧ x.sub = k ∧
      x.frame.opcode = Opc.linkInit ∧ x.frame.payload = initPayload s p k) ∧
  (∀ (s : State) (p k mac : Nat) (f : Frame), portPfc s p = false → f.payload.length = 48 → (subOf s p k).phase = .init →
    initOk s p f.payload = true →
    ∃ t x, exec (.linkInit p k f mac) s = .next t ∧ (subOf t p k).peerInit = true ∧ (subOf t p k).phase = .init ∧
      (∀ tc, tc < 8 → nth (subOf t p k).limits tc 0 = le f.payload (16 + 4 * tc) 4) ∧
      t.lft.sent = s.lft.sent ++ [x] ∧ x.frame.opcode = Opc.linkCredit) ∧
  (∀ (s : State) (p k mac : Nat) (f : Frame), portPfc s p = false → f.payload.length = 48 → (subOf s p k).phase = .init →
    initOk s p f.payload = false →
    ∃ t, exec (.linkInit p k f mac) s = .next t ∧ subOf t p k = subOf s p k ∧ (portOf t p).errStatus.bits.getLsbD 11 = true) ∧
  (∀ (s : State) (p k mac : Nat) (f : Frame), portPfc s p = false → f.payload.length = 48 → (subOf s p k).phase = .up →
    ∃ t, exec (.linkInit p k f mac) s = .next t ∧ (subOf t p k).phase = .init ∧ (subOf t p k).replay = [] ∧
      (portOf t p).errStatus.bits.getLsbD 9 = true) ∧
  (∀ (s : State) (p k : Nat) (f : Frame), portPfc s p = false → f.payload.length = 32 →
    (subOf s p k).phase = .up ∨ ((subOf s p k).phase = .init ∧ (subOf s p k).peerInit = true) →
    ∃ t, exec (.linkCredit p k f) s = .next t ∧ (subOf t p k).phase = .up ∧
      ((subOf s p k).phase = .init → (subOf t p k).txSeq = 0) ∧
      ∀ tc, tc < 8 → nth (subOf t p k).cellsReturned tc 0 = le f.payload (4 * tc) 4)

/-- In every state: LINK_CREDIT_SEND of a credit-mode sub-link in service, while the auditor withholds nothing, the write record is not full
and no CREDIT_HOLD rule waits, moves each class's unreturned cells into its cumulative counter modulo 2^32 and sends one LINK_CREDIT. A
LINK_NAK of 4 bytes in service resends, in order, every held frame from the named LSEQ onward; REPLAY_TIMEOUT resends every held frame;
neither consumes credit. LINK_NAK_REPEAT in service, a LINK_NAK sent and no progress, sends one LINK_NAK that names the LSEQ expected
next. (R134, R136, R133) -/
def Obligations.CreditReturnAndReplayComplete : Prop :=
  (∀ (s : State) (p k : Nat), portPfc s p = false → (subOf s p k).phase = .up → (side s.swc (portDie p)).withhold = false →
    writeRecFull s p = false → (subOf s p k).creditHold = [0, 0, 0, 0, 0, 0, 0, 0] →
    ∃ t x, exec (.linkCreditSend p k) s = .next t ∧ t.lft.sent = s.lft.sent ++ [x] ∧ x.port = p ∧ x.sub = k ∧
      x.frame.opcode = Opc.linkCredit ∧ x.frame.payload = (subOf t p k).returned.flatMap (fun v => toLE 4 (v % 2 ^ 32)) ∧
      ∀ tc, tc < 8 → nth (subOf t p k).unreturned tc 0 = 0 ∧
        nth (subOf t p k).returned tc 0 = (nth (subOf s p k).returned tc 0 + nth (subOf s p k).unreturned tc 0) % 2 ^ 32) ∧
  (∀ (s : State) (p k : Nat) (f : Frame), portPfc s p = false → f.payload.length = 4 → (subOf s p k).phase = .up →
    ∃ t, exec (.linkNak p k f) s = .next t ∧ (subOf t p k).cellsSent = (subOf s p k).cellsSent ∧
      (t.lft.sent.map (·.frame)) = s.lft.sent.map (·.frame) ++
        ((subOf s p k).replay.filter (fun h => h.lseq.toNat == le f.payload 0 4 % 2 ^ 24 ||
          newer 24 h.lseq.toNat (le f.payload 0 4 % 2 ^ 24))).map (·.frame)) ∧
  (∀ (s : State) (p k : Nat), (subOf s p k).phase = .up →
    ∃ t, exec (.replayTimeout p k) s = .next t ∧ (subOf t p k).cellsSent = (subOf s p k).cellsSent ∧
      (t.lft.sent.map (·.frame)) = s.lft.sent.map (·.frame) ++ (subOf s p k).replay.map (·.frame)) ∧
  (∀ (s : State) (p k : Nat), (subOf s p k).phase = .up → (subOf s p k).nakSent = true →
    ∃ t x, exec (.linkNakRepeat p k) s = .next t ∧ t.lft.sent = s.lft.sent ++ [x] ∧ x.port = p ∧ x.sub = k ∧
      x.frame.opcode = Opc.linkNak ∧ x.frame.payload = toLE 4 (subOf s p k).rxSeq.toNat)

/-- In every state: the loss of lock of a sub-link that is not down, 100 us without a frame in service, the eighth replay in service, and
100 ms of bring-up each leave the sub-link down with an empty replay buffer and set LINK_DOWN; the replay limit also sets
REPLAY_EXHAUST. A ready PORT_RESET starts its job, empties the port's write record, notes the reset, and leaves every sub-link of the
port down; PORT_RESET_COMPLETE of a port in reset ends it, leaving the sub-links in service as they are where all of them are.
FEC_DEGRADE_CHECK counts between one codeword for 15 corrected symbols and one for each, and sets FEC_DEGRADE where more than one symbol
in 10^5 was corrected. In every state: a PFC frame on a PFC-mode sub-link in service with a nonzero pause stops the egress of its
priority and one of zero quanta resumes it; the end of a pause resumes the priority; PFC_XOFF_REFRESH sends one PFC frame of quanta
0xFFFF for each class that is paused, in rising order, and nothing else changes. (R138, R147, R397, R115, R139) -/
def Obligations.SubLinksLeaveServiceAndPfcCommandsComplete : Prop :=
  ((∀ (s : State) (p k : Nat), (subOf s p k).phase ≠ .down →
    ∃ t, exec (.sublinkLockLoss p k) s = .next t ∧ subOf t p k = {} ∧ (portOf t p).errStatus.bits.getLsbD 9 = true) ∧
  (∀ (s : State) (p k : Nat), (subOf s p k).phase = .up →
    ∃ t, exec (.sublinkRxTimeout p k) s = .next t ∧ subOf t p k = {} ∧ (portOf t p).errStatus.bits.getLsbD 9 = true) ∧
  (∀ (s : State) (p k : Nat), (subOf s p k).phase = .up → 8 ≤ (subOf s p k).replays →
    ∃ t, exec (.sublinkReplayLimit p k) s = .next t ∧ subOf t p k = {} ∧ (portOf t p).errStatus.bits.getLsbD 9 = true ∧
      (portOf t p).errStatus.bits.getLsbD 10 = true) ∧
  (∀ (s : State) (p k : Nat), (subOf s p k).phase = .keying ∨ (subOf s p k).phase = .init →
    ∃ t, exec (.sublinkBringupTimeout p k) s = .next t ∧ subOf t p k = {} ∧ (portOf t p).errStatus.bits.getLsbD 9 = true) ∧
  (∀ (s : State) (r : CtlReq), CtlReady s 0x41 r →
    ∃ t, exec (.portReset r) s = .next t ∧ JobAccepted s t 0x41 r [le r.args 0 4] ∧
      (portOf t (le r.args 0 4)).resetJob = some s.cfg.nextJob ∧ (portOf t (le r.args 0 4)).writeRec = [] ∧
      ∀ k ∈ portSubs s (le r.args 0 4), subOf t (le r.args 0 4) k = {}) ∧
  (∀ (s : State) (p : Nat), (portOf s p).resetJob.isSome = true →
    ∃ t, exec (.portResetComplete p) s = .next t ∧ (portOf t p).resetJob = none ∧
      ((portSubs s p).all (fun k => (subOf s p k).phase == .up) = true → (portOf t p).subs = (portOf s p).subs)) ∧
  (∀ (s : State) (p symbols corrected : Nat),
    ∃ t w, exec (.fecDegradeCheck p symbols corrected) s = .next t ∧ ceilDiv corrected 15 ≤ w ∧ w ≤ corrected ∧
      (portOf t p).fecCorr = satAdd (portOf s p).fecCorr w (2 ^ 64 - 1) ∧
      (symbols < corrected * 100000 → (portOf t p).errStatus.bits.getLsbD 7 = true))) ∧
  ((∀ (s : State) (p k prio quanta : Nat), portPfc s p = true → (subOf s p k).phase = .up → prio < (subOf s p k).paused.length →
    ∃ t, exec (.pfcFrame p k prio quanta) s = .next t ∧ nth (subOf t p k).paused prio false = decide (quanta ≠ 0)) ∧
  (∀ (s : State) (p k prio : Nat),
    ∃ t, exec (.pfcPauseExpiry p k prio) s = .next t ∧ nth (subOf t p k).paused prio false = false) ∧
  (∀ (s : State) (p k : Nat), portPfc s p = true → (subOf s p k).phase = .up →
    ∃ t, exec (.pfcXoffRefresh p k) s = .next t ∧ KeepsBut [.lftPfcSent] s t ∧
      t.lft.pfcSent = s.lft.pfcSent ++ ((rangeFrom 0 8).filter (fun tc => nth (subOf s p k).xoff tc false)).map (fun tc => (p, k, tc, 0xFFFF))))

/-- In every state of a MACsec sub-link in step 2 of its bring-up, or in service with keys: KA_HELLO of a non-Kwamar peer (1,600 bytes),
which this end has not answered yet, is answered with one KA_REPLY. KA_REPLY at the initiator that waits for it, of the right length,
with its identity accepted and its signature verified, is answered with KA_DONE and installs keys; without, nothing is sent, the
agreement ends, and PEER_MISMATCH and LINK_AUTH_FAIL are set. KA_DONE at the responder with the right confirmation installs keys.
KA_RESEND sends the hello or reply that was sent last again, whole. LINK_REKEY in service on the initiator's side starts a new agreement
with a KA_HELLO. With the keys a sub-link in step 2 goes on to step 3, or on a PFC port into service. (R418, R419, R420, R137, R139,
R144) -/
def Obligations.KeyAgreementCommandsComplete : Prop :=
  (∀ (s : State) (p k : Nat) (msg : Bytes), kaMay s p k = true → kaInitiator s p = false → portRole s p ≠ 4 → msg.length = 1600 →
    ¬((subOf s p k).ka.hello = msg ∧ (subOf s p k).ka.lastSent = 2) →
    ∃ t, exec (.kaHello p k msg) s = .next t ∧ (subOf t p k).ka.hello = msg ∧ (subOf t p k).ka.lastSent = 2 ∧
      t.lft.kaSent = s.lft.kaSent ++ (kaFrames 2 (subOf t p k).ka.reply).map (fun f => (p, k, f))) ∧
  (∀ (s : State) (p k : Nat) (msg : Bytes), kaMay s p k = true → kaInitiator s p = true → (subOf s p k).ka.lastSent = 1 →
    msg.length = 1600 + identLen + 29792 →
    let good := identOk s p (slice msg 1600 identLen) &&
      identSigned (slice msg 1600 identLen) (kaHash (subOf s p k).ka.hello ++ msg.take (1600 + identLen)) (msg.drop (1600 + identLen))
    ∃ t, exec (.kaReply p k msg) s = .next t ∧
      (good = true → (subOf t p k).ka.keyed = true ∧ (subOf t p k).ka.lastSent = 3 ∧
        t.lft.kaSent = s.lft.kaSent ++ (kaFrames 3 (subOf t p k).ka.done).map (fun f => (p, k, f)) ∧
        ((subOf s p k).phase = .keying → (subOf t p k).phase = (if portPfc s p then .up else .init)) ∧
        ((subOf s p k).phase = .up → (subOf t p k).phase = .up)) ∧
      (good = false → (subOf t p k).phase = (subOf s p k).phase ∧ (subOf t p k).ka.lastSent = 0 ∧ t.lft.kaSent = s.lft.kaSent ∧
        (portOf t p).errStatus.bits.getLsbD 11 = true ∧ t.sec.status.bits.getLsbD 4 = true)) ∧
  (∀ (s : State) (p k : Nat) (msg : Bytes), kaMay s p k = true → kaInitiator s p = false → (subOf s p k).ka.lastSent = 2 →
    msg = fit (Config.kmac256 (Config.kemEncaps ((subOf s p k).ka.hello.take 1568) (subOf s p k).ka.secret).2
      (kaHash ((subOf s p k).ka.hello ++ (subOf s p k).ka.reply)) 32 10) 32 →
    ∃ t, exec (.kaDone p k msg) s = .next t ∧ (subOf t p k).ka.keyed = true ∧
      ((subOf s p k).phase = .keying → (subOf t p k).phase = (if portPfc s p then .up else .init)) ∧
      ((subOf s p k).phase = .up → (subOf t p k).phase = .up)) ∧
  (∀ (s : State) (p k : Nat), kaMay s p k = true → (subOf s p k).ka.lastSent = 1 →
    ∃ t, exec (.kaResend p k) s = .next t ∧
      t.lft.kaSent = s.lft.kaSent ++ (kaFrames 1 (subOf s p k).ka.hello).map (fun f => (p, k, f))) ∧
  (∀ (s : State) (p k : Nat), kaMay s p k = true → (subOf s p k).ka.lastSent = 2 →
    ∃ t, exec (.kaResend p k) s = .next t ∧
      t.lft.kaSent = s.lft.kaSent ++ (kaFrames 2 (subOf s p k).ka.reply).map (fun f => (p, k, f))) ∧
  (∀ (s : State) (p k : Nat), (subOf s p k).phase = .up → kaMay s p k = true → kaInitiator s p = true →
    ∃ t, exec (.linkRekey p k) s = .next t ∧ (subOf t p k).ka.lastSent = 1 ∧ (subOf t p k).phase = .up ∧
      t.lft.kaSent = s.lft.kaSent ++ (kaFrames 1 (subOf t p k).ka.hello).map (fun f => (p, k, f)))

/-- In every state: a sprayed frame on its way to this die's resequencer, alone there, whose position is not the next one while that one is
empty, is held at SPREAD_SEQ modulo 64 and NEXT stays; at the next position, with nothing held, it is released and NEXT goes up by one
modulo 2^32. RESEQ_ACK_TIMER with a release not acknowledged acknowledges it. A RESEQ_ACK of 8 bytes for TC0 to TC2 makes its NEXT the
acknowledged point of the stream. In every state: PATH_BARRIER_START toward another switch whose live paths are not those in use opens a
barrier under the next BARRIER_ID for the paths live now. A PATH_BARRIER of 12 bytes with a path count, no sprayed frame of that switch
still on its way to its resequencer and none of its class crossing the stalk, is counted for its class when it is the first of its
barrier; when it is the last of all classes, NEXT of every sprayed class with a slot becomes that class's barrier value and the
collection ends. The PATH_BARRIER_ACK of the one barrier open makes its paths the paths in use and closes it. PATH_BARRIER_TIMEOUT
leaves no request held by the barrier. (R142, R143) -/
def Obligations.ResequencingAndPathBarriersComplete : Prop :=
  ((∀ (s : State) (d : Die) (a : Nat) (x : Desc), s.lft.sprayIn = [(a, x)] → reseqDie s (epSwitch x.frame.srcEp.toNat) = d →
    let sw := epSwitch x.frame.srcEp.toNat
    let tc := x.frame.tc.toNat
    let pos := x.trailer.spreadSeq.toNat % 64
    (pos ≠ (reseqOf s sw tc).next % 64 → get? (reseqOf s sw tc).held ((reseqOf s sw tc).next % 64) = none →
      ∃ t y, exec (.sprayedFrameResequence d x.frame) s = .next t ∧ t.lft.sprayIn = [] ∧ get? (reseqOf t sw tc).held pos = some y ∧
        y.frame = x.frame ∧ (reseqOf t sw tc).next = (reseqOf s sw tc).next) ∧
    (pos = (reseqOf s sw tc).next % 64 → (reseqOf s sw tc).held = [] →
      ∃ t, exec (.sprayedFrameResequence d x.frame) s = .next t ∧ t.lft.sprayIn = [] ∧ (reseqOf t sw tc).held = [] ∧
        (reseqOf t sw tc).next = ((reseqOf s sw tc).next + 1) % 2 ^ 32)) ∧
  (∀ (s : State) (sw tc : Nat), (reseqOf s sw tc).unacked ≠ 0 →
    ∃ t, exec (.reseqAckTimer sw tc) s = .next t ∧ (reseqOf t sw tc).unacked = 0 ∧ (reseqOf t sw tc).next = (reseqOf s sw tc).next) ∧
  (∀ (s : State) (d : Die) (f : Frame), le f.payload 0 1 ≤ 2 → f.payload.length = 8 →
    ∃ t, exec (.reseqAck d f) s = .next t ∧
      (getD t.lft.spray (epSwitch f.srcEp.toNat * 8 + le f.payload 0 1) {}).acked = le f.payload 4 4)) ∧
  ((∀ (s : State) (sw : Nat), answersFor s sw = false → get? s.lft.barrierTx sw = none → liveNow s sw ≠ getD s.lft.livePaths sw [] →
    ∃ t b, exec (.pathBarrierStart sw) s = .next t ∧ get? t.lft.barrierTx sw = some b ∧ b.id = s.lft.nextBarrier ∧ b.paths = liveNow s sw ∧
      t.lft.nextBarrier = (s.lft.nextBarrier + 1) % 2 ^ 32) ∧
  (∀ (s : State) (d : Die) (f : Frame), f.payload.length = 12 → le f.payload 4 1 ≠ 0 →
    let sw := epSwitch f.srcEp.toNat
    crossing s sw f.tc.toNat = false → s.lft.sprayIn.all (fun x => epSwitch x.2.frame.srcEp.toNat != sw) = true →
    (get? s.lft.barrierRx sw = none →
      ∃ t b, exec (.pathBarrier d f) s = .next t ∧ get? t.lft.barrierRx sw = some b ∧ b.id = le f.payload 0 4 ∧
        nth b.got f.tc.toNat 0 = 1 ∧ nth b.values f.tc.toNat 0 = le f.payload 8 4) ∧
    (∀ b, s.lft.barrierRx = [(sw, b)] → b.id = le f.payload 0 4 →
      (modAt b.got f.tc.toNat (· + 1)).all (fun c => decide (le f.payload 4 1 ≤ c)) = true →
      ∃ t, exec (.pathBarrier d f) s = .next t ∧ t.lft.barrierRx = [] ∧
        ∀ tc, tc < 3 → hasSlot s sw tc = true →
          (reseqOf t sw tc).next = nth (setAt b.values f.tc.toNat (le f.payload 8 4)) tc 0)) ∧
  (∀ (s : State) (d : Die) (f : Frame) (b : BarrierTx), s.lft.barrierTx = [(epSwitch f.srcEp.toNat, b)] → b.id = le f.payload 0 4 →
    ∃ t, exec (.pathBarrierAck d f) s = .next t ∧ t.lft.barrierTx = [] ∧ get? t.lft.livePaths (epSwitch f.srcEp.toNat) = some b.paths) ∧
  (∀ (s : State) (sw : Nat) (b : BarrierTx), get? s.lft.barrierTx sw = some b →
    ∃ t b', exec (.pathBarrierTimeout sw) s = .next t ∧ get? t.lft.barrierTx sw = some b' ∧ b'.id = b.id ∧ b'.paths = b.paths ∧
      ∀ x ∈ b'.held, isReq x.2.frame.opcode = false))

/-- For every request, responder die, opcode, status, payload and OPSPEC the response's CTX, SEQ, TAG and FENCE are the request's; its ADDR
is endpoint-routed to the request's SRC_EP; its SRC_EP is the responder's endpoint, index 0xFE or 0xFF by the die on this switch; its
HOP is 0. The answer of a port's ingress is such a response of the port's die. (R124) -/
def Obligations.ResponsesCopyTheirRequest : Prop :=
  (∀ (s : State) (d : Die) (req : Frame) (opc : Byte) (st : BitVec 5) (b : Bytes) (ops : BitVec 16),
    (mkRsp s d req opc st b ops).ctx = req.ctx ∧ (mkRsp s d req opc st b ops).seq = req.seq ∧ (mkRsp s d req opc st b ops).tag = req.tag ∧
    (mkRsp s d req opc st b ops).fence = req.fence ∧ addrEp (mkRsp s d req opc st b ops).addr.toNat = req.srcEp.toNat ∧
    (mkRsp s d req opc st b ops).hop = 0 ∧
    (mkRsp s d req opc st b ops).srcEp = BitVec.ofNat 20 (s.cfg.switchId * 256 + (match d with | .d0 => 0xFE | .d1 => 0xFF))) ∧
  (∀ (s : State) (p : Nat) (f : Frame) (st : BitVec 5) (ops : BitVec 16),
    ∃ o, answerBad p f st ops s = sendRaw (portDie p) (mkRsp s (portDie p) f o st [] ops) s)

/-- In every state: FRAME_INGRESS of an LD without acquire or release, on the wire as its sub-link expects it, that passes the checks of an
ingress, finds cells in its ingress allocation, and that nothing there holds, for an output of the port's own die whose FIFO of its
class is empty, leaves that FIFO holding exactly that frame, stamped with the port's endpoint; a frame with a wrong HCRC on a sub-link
in service enters no FIFO, sets HDR_CRC_FAIL of its port, and changes nothing but the port, what its links have sent, and the counting
of an event. (R26, R56, R57, R118, R121, R132, R133, R136, R152, R153, R154) -/
def Obligations.AFrameThatPassesReachesItsOutput : Prop :=
  (∀ (s : State) (p k : Nat) (w : WireFrame) (o : Output), OnWire s p k w → w.frame.opcode = Opc.ld → w.frame.acq = false → w.frame.rel = false →
    w.frame.payload = [] → sampleOn s p 0 = false → w.frame.length = 0 → NothingHolds s p (stamped s p k w.frame) →
    PassesChecks s p w.etherType (stamped s p k w.frame) → ingressRoom s p k w.frame = true → answersFor s (destSwitch w.frame) = true →
    destOf s (stamped s p k w.frame) 0 = some (portDie p, o) → fifoOf s (portDie p) o w.frame.tc.toNat = [] →
    ∃ t x, exec (.frameIngress p k w) s = .next t ∧ fifoOf t (portDie p) o w.frame.tc.toNat = [x] ∧ x.frame = stamped s p k w.frame) ∧
  (∀ (s : State) (p k : Nat) (w : WireFrame), subThere s p k = true → (subOf s p k).phase = .up → wireBad s p k w = none →
    w.etherType = s.cfg.ethLft → w.hcrc ≠ hcrcOf w.frame →
    ∃ t, exec (.frameIngress p k w) s = .next t ∧ KeepsBut [.lftPorts, .lftSent, .ctxs, .evQueue] s t ∧
      (stGet t (.prt p)).bits.getLsbD 4 = true)

/-- In every state where no STOP or RESUME is on its way to the other die and whose command passes its checks: a STOP of a selector that the
accepting die does not hold, with fewer than 64 entries there, adds the entry to that die, sends it to the other and keeps the answer
until then; of one it holds, it changes nothing but what sending the answer changes; a RESUME of a selector the die holds takes the
entry out there, sends it to the other die and keeps the answer; of one it does not hold, changes nothing but what the answer changes.
STOP_STALK_APPLY of the oldest message of a die takes it, and adds or takes out its entry there. (That the next STOP or RESUME waits for
the other die is this model's choice, log 61.) (R163, R164, R165, R166) -/
def Obligations.StopAndResumeComplete : Prop :=
  (∀ (s : State) (r : CtlReq) (e : BitVec 64), stopBusy s = false → stopBad s r = none → e = BitVec.ofNat 64 (le r.args 0 8) →
    ((side s.swc r.die).stops.contains e = false → (side s.swc r.die).stops.length < 64 →
      ∃ t, exec (.stop r) s = .next t ∧ (side t.swc r.die).stops = (side s.swc r.die).stops ++ [e] ∧
        (side t.swc (otherDie r.die)).stops = (side s.swc (otherDie r.die)).stops ∧ (side t.swc (otherDie r.die)).stopMsgs = [(true, e)] ∧
        t.cfg.stalkWait = s.cfg.stalkWait ++ [⟨0x50, r, 0, []⟩]) ∧
    ((side s.swc r.die).stops.contains e = true → ∃ t, exec (.stop r) s = .next t ∧ KeepsBut sendParts s t) ∧
    ((side s.swc r.die).stops.contains e = true →
      ∃ t, exec (.resume r) s = .next t ∧ (side t.swc r.die).stops = dropFirst (· == e) (side s.swc r.die).stops ∧
        (side t.swc (otherDie r.die)).stopMsgs = [(false, e)] ∧ t.cfg.stalkWait = s.cfg.stalkWait ++ [⟨0x51, r, 0, []⟩]) ∧
    ((side s.swc r.die).stops.contains e = false → ∃ t, exec (.resume r) s = .next t ∧ KeepsBut sendParts s t)) ∧
  (∀ (s : State) (d : Die) (add : Bool) (e : BitVec 64) (rest : List (Bool × BitVec 64)), (side s.swc d).stopMsgs = (add, e) :: rest →
    ∃ t, exec (.stopStalkApply d) s = .next t ∧ (side t.swc d).stopMsgs = rest ∧
      (side t.swc d).stops = if add then (side s.swc d).stops ++ [e] else dropFirst (· == e) (side s.swc d).stops)

/-- In every state where no head of an output's FIFOs is to be discarded and the die's agents hold nothing back: EGRESS_SEND of an output
with no frame that may leave changes nothing; where the scheduler picks a class, the frame of that class's FIFO that may leave (its
head, or of TC7 the first of the other half) goes out: of the home unit's output into the home's input with the requests combined into
it, and out of the FIFO, the rest of which stays in its order; of the stalk onto the other die as its newest message, under the next
sequence number and with its CRC, held for replay until it is received; of a sub-link onto the wire as the newest frame sent there, with
HOP one higher on a port between switches and as it was elsewhere. STALK_RECEIVE of the oldest message of a class, intact, not received
before, of no sprayed frame and no multicast, for an output of that die whose FIFO of its class is empty, leaves it the one frame of
that FIFO, no longer on the stalk and no longer held for replay. STALK_FAILURE ends admission on both dies. (R29, R127, R152, R153,
R155, R160, R30) -/
def Obligations.EgressAndStalkComplete : Prop :=
  (∀ (s : State) (d : Die) (o : Output), (side s.swc d).agentHold = [] → deadTc s d o = none → pickTc s d o = none →
    exec (.egressSend d o) s = .next s) ∧
  (∀ (s s1 : State) (d : Die) (tc i : Nat) (x : Desc), (side s.swc d).agentHold = [] → deadTc s d .home = none →
    pickTc s d .home = some (tc, s1) → readyAt s d .home tc = some i → (fifoOf s d .home tc)[i]? = some x →
    ∃ t, exec (.egressSend d .home) s = .next t ∧ (side t.home d).inbox = (side s.home d).inbox ++ [x] ∧
      fifoOf t d .home tc = dropAt (fifoOf s d .home tc) i) ∧
  (∀ (s s1 : State) (d : Die) (tc i : Nat) (x : Desc), (side s.swc d).agentHold = [] → deadTc s d .stalk = none →
    pickTc s d .stalk = some (tc, s1) → readyAt s d .stalk tc = some i → (fifoOf s d .stalk tc)[i]? = some x →
    ∃ t y, exec (.egressSend d .stalk) s = .next t ∧ y.frame = x.frame ∧ y.more = x.more ∧
      (side t.swc (otherDie d)).stalkIn = (side s.swc (otherDie d)).stalkIn ++ [⟨(side s.swc d).stalkSeq, x.frame.tc.toNat, y, stalkCrc x.frame⟩] ∧
      (side t.swc d).stalkReplay = (side s.swc d).stalkReplay ++ [⟨(side s.swc d).stalkSeq, x.frame.tc.toNat, y, stalkCrc x.frame⟩] ∧
      (side t.swc d).stalkSeq = (side s.swc d).stalkSeq + 1) ∧
  (∀ (s s1 : State) (d : Die) (p k tc i : Nat) (x : Desc), (side s.swc d).agentHold = [] → deadTc s d (.sub p k) = none →
    pickTc s d (.sub p k) = some (tc, s1) → readyAt s d (.sub p k) tc = some i → (fifoOf s d (.sub p k) tc)[i]? = some x →
    ∃ t y, exec (.egressSend d (.sub p k)) s = .next t ∧ t.lft.sent = s.lft.sent ++ [y] ∧ y.port = p ∧ y.sub = k ∧
      y.frame = if portRole s p = 4 then { x.frame with hop := x.frame.hop + 1 } else x.frame) ∧
  (∀ (s : State) (d : Die) (tc : Nat) (m : StalkMsg) (o : Output), (side s.swc d).stalkIn.find? (fun y => y.tc == tc) = some m →
    m.crc = stalkCrc m.desc.frame → (side s.swc d).stalkNext ≤ m.seq → m.seq ∉ (side s.swc d).stalkSeen → m.desc.copies = [] →
    m.desc.via = none → m.desc.trailer.sprayed = false →
    destOf s m.desc.frame m.desc.trailer.path.toNat = some (d, o) → fifoOf s d o m.desc.frame.tc.toNat = [] →
    ∃ t, exec (.stalkReceive d tc) s = .next t ∧ fifoOf t d o m.desc.frame.tc.toNat = [m.desc] ∧
      (side t.swc d).stalkIn = dropFirst (fun y => y.tc == tc) (side s.swc d).stalkIn ∧
      ∀ y ∈ (side t.swc (otherDie d)).stalkReplay, y.seq ≠ m.seq) ∧
  (∀ (s : State), ∃ t, exec .stalkFailure s = .next t ∧ t.mod.stalkFailed = true ∧ t.mod.admitting.d0 = false ∧ t.mod.admitting.d1 = false ∧
    KeepsBut [.modAdmitting, .modStalkFailed] s t)

/-- In every state: RELEASE_FORWARD of a held release none of whose earlier writes is still recorded takes it out of the held releases and
lets it leave its ingress; RELEASE_TIMEOUT of a held release sets RELEASE_TIMEOUT and ends it ABORTED; ACQUIRE_HOLD_TIMEOUT of a request
held behind an acquire ends it ABORTED; WRITE_RECORD_TIMEOUT of a recorded write drops its entry and sets RELEASE_TIMEOUT;
PEPPER_HOLD_EXPIRY lets the frame go on to the rate check, EPOCH_HOLD_TIMEOUT fails it; what waited behind each goes on afterwards.
RATE_TOKEN_RELEASE adds the tokens to the bucket, up to 2^20, and then lets the requests go that find enough. MEM_SYNC of its source at
its attachment port, passing its checks with nothing held and no earlier write of its source and context recorded, is answered OK; with
one recorded it is held as a release. (R176, R177, R178, R179, R390, R450, R467) -/
def Obligations.HeldFramesMoveOn : Prop :=
  (∀ (s : State) (p : Nat) (k : ReqKey) (x : HeldRelease), (portOf s p).releases.find? (fun y => keyOf y.held.desc.frame == k &&
      !y.waits.any (fun o => (openWrites s p).contains o)) = some x →
    ∃ u, exec (.releaseForward p k) s = .next (settlePort p (stageLeave p x.held u)) ∧ KeepsBut [.lftPorts] s u ∧
      (portOf u p).releases = (portOf s p).releases.filter (fun z => z.held.order != x.held.order)) ∧
  (∀ (s : State) (p : Nat) (k : ReqKey) (x : HeldRelease), (portOf s p).releases.find? (fun y => keyOf y.held.desc.frame == k) = some x →
    ∃ t u, exec (.releaseTimeout p k) s = .next t ∧ t = endAt p (fun h => h.order == x.held.order && keyOf h.desc.frame == k) Sts.aborted u ∧
      (side t.home (portDie p)).status.bits.getLsbD 7 = true ∧ portOf u p = portOf s p) ∧
  (∀ (s : State) (p : Nat) (k : ReqKey) (x : HeldFrame), (portOf s p).behind.find? (fun h => keyOf h.desc.frame == k && heldByAcquire s p h) = some x →
    exec (.acquireHoldTimeout p k) s = .next (endAt p (fun h => h.order == x.order && keyOf h.desc.frame == k) Sts.aborted s)) ∧
  (∀ (s : State) (p : Nat) (k : ReqKey), (portOf s p).writeRec.any (fun e => e.key == k) = true →
    ∃ t u, exec (.writeRecordTimeout p k) s = .next t ∧ t = recordMoved p u ∧
      (portOf u p).writeRec = (portOf s p).writeRec.filter (fun e => e.key != k) ∧ (side t.home (portDie p)).status.bits.getLsbD 7 = true) ∧
  (∀ (s : State) (p i : Nat) (h : HeldFrame), (portOf s p).pepHeld[i]? = some h →
    ∃ u, exec (.pepperHoldExpiry p i) s = .next (settlePort p (stageRate p h u)) ∧ KeepsBut [.lftPorts] s u ∧
      (portOf u p).pepHeld = dropAt (portOf s p).pepHeld i) ∧
  (∀ (s : State) (p i : Nat) (h : HeldFrame), (portOf s p).epochHeld[i]? = some h →
    ∃ u, exec (.epochHoldTimeout p i) s = .next (settlePort p (failFence p h u)) ∧ KeepsBut [.lftPorts] s u ∧
      (portOf u p).epochHeld = dropAt (portOf s p).epochHeld i) ∧
  (∀ (s : State) (d : Die) (c tc n : Nat), ∃ u k, exec (.rateTokenRelease d c tc n) s = .next (releaseRated k d c tc u) ∧
    bucketOf u d c tc = min (2 ^ 20) (bucketOf s d c tc + n) ∧ KeepsBut [.evBuckets] s u) ∧
  (∀ (s : State) (p k : Nat) (f : Frame), (portSubs s p).find? (fun j => subEp s p j == f.srcEp.toNat) = some k → f.opcode = Opc.memSync →
    subThere s p k = true → attachment s p = true → NothingHolds s p f → PassesChecks s p s.cfg.ethLft f → memSyncBad f = none →
    f.payload = [] → s.flt.selfFenced = false →
    ((∀ e ∈ (portOf s p).writeRec, ¬(e.key.srcEp = f.srcEp.toNat ∧ e.key.ctx = f.ctx.toNat)) →
      ∃ u, exec (.memSync p f) s = .next (refuse (portDie p) f Sts.ok u) ∧ KeepsBut ([.cfgLocalBytes, .cfgTotalBytes] ++ sendParts) s u) ∧
    (∀ e ∈ (portOf s p).writeRec, e.key.srcEp = f.srcEp.toNat → e.key.ctx = f.ctx.toNat → e.order ≤ (portOf s p).order → e.key ≠ keyOf f →
      ∃ t, exec (.memSync p f) s = .next t ∧ ∃ x ∈ (portOf t p).releases, x.held.desc.frame = f ∧ e.order ∈ x.waits))

/-- In every state: AUDIT_PASS of a die advances its audit epoch and its count of passes by one; a cell off the free list that no descriptor
names and that was not taken in this epoch is suspected under it, and is free again where the pass before suspected it too; a cell that
a descriptor names and that stands on the free list is quarantined. CELL_ECC_ERROR of a frame of a FIFO: a corrected one sets
CELL_ECC_CORR and leaves the frame as it is; an uncorrectable one sets CELL_ECC_UNCORR, and in the payload of a response it makes the
response POISON in its place, of anything else and in any header it takes the frame out of the FIFO. LOCAL_FRACTION_UPDATE of a die that
has counted bytes leaves the fraction in thousandths and starts both counts anew. (R114, R156, R157, R158, R159) -/
def Obligations.AuditAndCellErrorsComplete : Prop :=
  (∀ (s : State) (d : Die), ∃ t, exec (.auditPass d) s = .next t ∧ (side t.swc d).auditEpoch = ((side s.swc d).auditEpoch + 1) % 65536 ∧
    (side t.swc d).passes = ((side s.swc d).passes + 1) % 2 ^ 32 ∧
    (∀ c, c ∈ (side s.swc d).offFree → c ∉ usedCells s d → get? (side s.swc d).born c ≠ some (((side s.swc d).auditEpoch + 1) % 65536) →
      (get? (side s.swc d).suspect c = some ((((side s.swc d).auditEpoch + 1) % 65536 + 65535) % 65536) → c ∉ (side t.swc d).offFree) ∧
      (get? (side s.swc d).suspect c ≠ some ((((side s.swc d).auditEpoch + 1) % 65536 + 65535) % 65536) →
        c ∈ (side t.swc d).offFree ∧ get? (side t.swc d).suspect c = some (((side s.swc d).auditEpoch + 1) % 65536))) ∧
    (∀ c, c ∉ (side s.swc d).offFree → c ∈ usedCells s d → get? (side s.swc d).born c ≠ some (((side s.swc d).auditEpoch + 1) % 65536) →
      c ∈ (side t.swc d).quarantined)) ∧
  (∀ (s : State) (d : Die) (o : Output) (tc i : Nat) (x : Desc), (fifoOf s d o tc)[i]? = some x →
    (∃ t, exec (.cellEccError d (.fifo o) tc i .corrected) s = .next t ∧ (side t.swc d).status.bits.getLsbD 3 = true ∧
      fifoOf t d o tc = fifoOf s d o tc) ∧
    ∀ kind, kind ≠ .corrected → ∃ t, exec (.cellEccError d (.fifo o) tc i kind) s = .next t ∧ (side t.swc d).status.bits.getLsbD 4 = true ∧
      fifoOf t d o tc = if kind = .payload ∧ isRsp x.frame.opcode = true
        then setAt (fifoOf s d o tc) i { x with frame := { x.frame with status := Sts.poison } } else dropAt (fifoOf s d o tc) i) ∧
  (∀ (s : State) (d : Die), side s.cfg.totalBytes d ≠ 0 →
    ∃ t, exec (.localFractionUpdate d) s = .next t ∧ side t.cfg.localFrac d = side s.cfg.localBytes d * 1000 / side s.cfg.totalBytes d ∧
      side t.cfg.localBytes d = 0 ∧ side t.cfg.totalBytes d = 0 ∧ KeepsBut [.cfgLocalFrac, .cfgLocalBytes, .cfgTotalBytes] s t)

/-- In every state with a request that its home takes, that passes checks 1 to 7, and whose bytes lie in T0 with nothing to wait for: an LD
without CMP_OK of bytes not poisoned, in which no uncorrectable error of module DRAM is found, is answered OK with those bytes, and no
byte of memory and no poison marker changes; an LD that touches a poisoned granule is answered POISON and changes no byte; one that
finds an uncorrectable error in a granule poisons that granule and is answered POISON; an ST without CMP, of a range that cuts no
poisoned granule, is answered OK, leaves its payload at the address it stores to, every byte outside as before, and no granule of the
range poisoned. Beside memory, poison and the answer each changes only what serving a request changes; what waits at the home is as
before. (R168, R170, R171, R172, R193, R194) -/
def Obligations.LoadsAndStoresComplete : Prop :=
  (∀ (s : State) (d : Die) (f : Frame) (ecc : List Nat), MemTaken s d f → f.opcode = Opc.ld → bitAt f.opspec.toNat 15 = false →
    MemServed (takeHome d f s) d f → FromT0 s d f →
    (poisonedIn s (localAddr s f.addr.toNat) (accessLen f) = false → ¬EccIn s f ecc →
      ∃ u, exec (.ld d ⟨f, ecc⟩) s = .next (answer d f Sts.ok (readMem s (localAddr s f.addr.toNat) (accessLen f)) u) ∧ KeepsBut homeParts s u) ∧
    (poisonedIn s (localAddr s f.addr.toNat) (accessLen f) = true → ¬EccIn s f ecc →
      ∃ u, exec (.ld d ⟨f, ecc⟩) s = .next (answer d f Sts.poison [] u) ∧ (side u.home d).status.bits.getLsbD 1 = true ∧ KeepsBut homeParts s u) ∧
    (EccIn s f ecc →
      ∃ u, exec (.ld d ⟨f, ecc⟩) s = .next (answer d f Sts.poison [] u) ∧ (side u.home d).status.bits.getLsbD 0 = true ∧
        (side u.home d).status.bits.getLsbD 1 = true ∧ KeepsBut (.poison :: homeParts) s u ∧
        (∀ g ∈ ecc, g ∈ linesOf (localAddr s f.addr.toNat) (accessLen f) → g ∈ u.poison) ∧
        ∀ g, g ∉ ecc → (g ∈ u.poison ↔ g ∈ s.poison))) ∧
  (∀ (s : State) (d : Die) (f : Frame), MemTaken s d f → f.opcode = Opc.st → f.cmp = false → MemServed (takeHome d f s) d f → FromT0 s d f →
    poisonPart s (localAddr s f.addr.toNat) (accessLen f) = false →
    ∃ u, exec (.st d f) s = .next (answer d f Sts.ok [] u) ∧ KeepsBut ([.mem, .poison] ++ homeParts) s u ∧
      readMem u (localAddr s f.addr.toNat) (accessLen f) = f.payload ∧ OutsideKept s u (localAddr s f.addr.toNat) (accessLen f) ∧
      poisonedIn u (localAddr s f.addr.toNat) (accessLen f) = false)

/-- In every state with a request that its home takes, that passes checks 1 to 7, and whose bytes lie in T0 with nothing to wait for, not
poisoned: an AMO or AMO_NR that its window shows to be new leaves at its address the function of the old value and its operand (R169), a
CAS leaves the new value there if the old one equals the compared one, and the old one otherwise; every byte outside is as before; AMO
and CAS are answered with the old bytes, AMO_NR with none; and the window holds the atomic's entry. One that its window knows is
answered from the window, and changes no byte and no window. (R169, R170, R171, R172, R180, R181, R182) -/
def Obligations.AtomicsComplete : Prop :=
  (∀ (s : State) (d : Die) (f : Frame) (c : Instr), (f.opcode = Opc.amo ∧ c = .amo d f) ∨ (f.opcode = Opc.amoNr ∧ c = .amoNr d f) →
    MemTaken s d f → MemServed (takeHome d f s) d f → FromT0 s d f → winCheck s d f = none →
    poisonedIn s (localAddr s f.addr.toNat) (accessLen f) = false →
    ∃ u, exec c s = .next (answer d f Sts.ok (if f.opcode = Opc.amoNr then [] else readMem s (localAddr s f.addr.toNat) (accessLen f)) u) ∧
      readMem u (localAddr s f.addr.toNat) (accessLen f) = toLE (accessLen f) (amoResult (f.opspec.toNat / 256) (accessLen f)
        (leNat (readMem s (localAddr s f.addr.toNat) (accessLen f))) (leNat f.payload)) ∧
      OutsideKept s u (localAddr s f.addr.toNat) (accessLen f) ∧ KeepsBut ([.mem, .poison, .homeWindows] ++ homeParts) s u ∧
      ∃ w, get? (side u.home d).windows (winKey f) = some w ∧
        ⟨f.seq, f.opcode, f.addr, readMem s (localAddr s f.addr.toNat) (accessLen f), Sts.ok⟩ ∈ w.entries) ∧
  (∀ (s : State) (d : Die) (f : Frame), f.opcode = Opc.cas → MemTaken s d f → MemServed (takeHome d f s) d f → FromT0 s d f →
    winCheck s d f = none → poisonedIn s (localAddr s f.addr.toNat) (accessLen f) = false →
    ∃ u, exec (.cas d f) s = .next (answer d f Sts.ok (readMem s (localAddr s f.addr.toNat) (accessLen f)) u) ∧
      readMem u (localAddr s f.addr.toNat) (accessLen f) =
        (if readMem s (localAddr s f.addr.toNat) (accessLen f) = f.payload.take (accessLen f) then f.payload.drop (accessLen f)
          else readMem s (localAddr s f.addr.toNat) (accessLen f)) ∧
      OutsideKept s u (localAddr s f.addr.toNat) (accessLen f) ∧ KeepsBut ([.mem, .poison, .homeWindows] ++ homeParts) s u ∧
      ∃ w, get? (side u.home d).windows (winKey f) = some w ∧
        ⟨f.seq, f.opcode, f.addr, readMem s (localAddr s f.addr.toNat) (accessLen f), Sts.ok⟩ ∈ w.entries) ∧
  (∀ (s : State) (d : Die) (f : Frame) (c : Instr) (st : BitVec 5) (b : Bytes), (f.opcode = Opc.amo ∧ c = .amo d f) ∨
      (f.opcode = Opc.amoNr ∧ c = .amoNr d f) ∨ (f.opcode = Opc.cas ∧ c = .cas d f) → MemTaken s d f → MemServed (takeHome d f s) d f →
    FromT0 s d f → winCheck s d f = some (st, b) →
    ∃ u, exec c s = .next (answer d f st b u) ∧ KeepsBut homeParts s u)

/-- An LD or ST passes the alignment check exactly if it has no bytes or its range crosses no 4,096-byte boundary, whatever byte it starts
at; a zero-length ST always passes; an AMO, AMO_NR or CAS exactly if its offset is a multiple of its size. In every state with a request
of these five that its home takes, well formed and of no request outstanding there, and that breaks its rule, the request is answered
ALIGN, and nothing changes but that it leaves the home's input and its ingress allocation. An access of the control window follows R9:
well formed, but not of exactly 8 bytes at a multiple of 8, and no store to the firmware aperture, it is refused ALIGN. (R170) -/
def Obligations.MisalignedRequestsHaveNoEffect : Prop :=
  (∀ f : Frame, (f.opcode = Opc.ld ∨ f.opcode = Opc.st) →
    (memAligned f = true ↔ accessLen f = 0 ∨ addrOff f.addr.toNat % 4096 + accessLen f ≤ 4096)) ∧
  (∀ f : Frame, f.opcode = Opc.amo ∨ f.opcode = Opc.amoNr ∨ f.opcode = Opc.cas →
    (memAligned f = true ↔ addrOff f.addr.toNat % accessLen f = 0)) ∧
  (∀ f : Frame, f.opcode = Opc.st → accessLen f = 0 → memAligned f = true) ∧
  (∀ (s : State) (d : Die) (f : Frame) (c : Instr) (ecc : List Nat), (f.opcode = Opc.ld ∧ c = .ld d ⟨f, ecc⟩) ∨
      (f.opcode = Opc.st ∧ c = .st d f) ∨ (f.opcode = Opc.amo ∧ c = .amo d f) ∨ (f.opcode = Opc.amoNr ∧ c = .amoNr d f) ∨ (f.opcode = Opc.cas ∧ c = .cas d f) →
    MemTaken s d f → memFormBad f = none → outstanding (takeHome d f s) d (keyOf f) = false → memAligned f = false →
    exec c s = .next (refuse d f Sts.align (takeHome d f s)) ∧ KeepsBut takeParts s (takeHome d f s)) ∧
  (∀ (s : State) (f : Frame), regFormBad f = none → ¬(f.opcode = Opc.st ∧ inAperture (regOff f) = true) →
    ¬(accessLen f = 8 ∧ regOff f % 8 = 0) → regBad s f = some Sts.align)

/-- In every state: an AMO_ACK that its home takes, of 8 bytes, from a source its context admits, to an address of an extent, moves the
acknowledgement point of that source's window forward if its sequence number is newer and drops the entries up to it, and with RESUME
creates the window of a source that has none; any other is counted as discarded and changes no window. A COMBINED_REQUEST of one
combined request that its home takes, whose constituents all pass their checks and find a tracker each, and whose bytes lie in T0 with
nothing to wait for, is performed in list order, as one act. REQUEST_AGED of a waiting request that was not aged puts it before all that
are not and behind those aged before it, sets AGED, and then serves what need not wait behind others any longer; of one that waits at
the home's input it gives that one its number in the order of ageing and sets AGED. HOTLINE_EXIT takes the line out of the hot-line
buffer and changes nothing else. (R182, R184, R186, R187, R188, R190, R191, R192) -/
def Obligations.CombinedAndAgedRequestsComplete : Prop :=
  (∀ (s : State) (d : Die) (f : Frame), TakesNow s d f [] →
    (f.payload.length = 8 → ctxAdmits s d f = true →
      (extAt s (transOff s f.addr.toNat)).elim false (fun e => extPhase s d e.idx != .free) = true →
      (∀ w, get? (side s.home d).windows (winKey f) = some w → newer 24 (BitVec.ofNat 24 (le f.payload 0 3)).toNat w.ack.toNat = true →
        ∃ t v, exec (.amoAck d f) s = .next t ∧ get? (side t.home d).windows (winKey f) = some v ∧ v.ack = BitVec.ofNat 24 (le f.payload 0 3) ∧
          v.entries = w.entries.filter (fun e => newer 24 e.seq.toNat v.ack.toNat) ∧ KeepsBut (.homeWindows :: takeParts) s t) ∧
      (get? (side s.home d).windows (winKey f) = none → bitAt (le f.payload 3 1) 0 = true →
        ∃ t, exec (.amoAck d f) s = .next t ∧ get? (side t.home d).windows (winKey f) = some ⟨BitVec.ofNat 24 (le f.payload 0 3), []⟩)) ∧
    (f.payload.length ≠ 8 ∨ ctxAdmits s d f = false ∨ (extAt s (transOff s f.addr.toNat)).elim false (fun e => extPhase s d e.idx != .free) = false →
      ∃ t, exec (.amoAck d f) s = .next t ∧ (side t.home d).ackDropped = (side s.home d).ackDropped + 1 ∧
        KeepsBut (.homeAckDropped :: takeParts) s t)) ∧
  (∀ (s : State) (d : Die) (f : Frame) (more : List Frame), oneCombined f more = true → TakesNow s d f more → agedNo s d (f :: more) = 0 →
    (∀ g ∈ f :: more, (g.opcode = Opc.ld ∨ g.opcode = Opc.amo ∨ g.opcode = Opc.amoNr) ∧ memBad (takeHomeAll d (f :: more) s) d g = none) →
    (findTrackers (takeHomeAll d (f :: more) s) d (trackers s d) (f :: more)).2 = [] → FromT0 s d f →
    ∃ u, exec (.combinedRequest d (f :: more)) s = .next (performAll d (f :: more) u) ∧ KeepsBut homeParts s u) ∧
  (∀ (s : State) (d : Die) (k : ReqKey),
    (∀ w, (side s.home d).waiting.find? (fun x => (x.frame :: x.more).any (fun f => keyOf f == k) && x.aged == 0) = some w →
      ∃ t, exec (.requestAged d k) s = .next (settleBehind d t) ∧ (side t.home d).status.bits.getLsbD 4 = true ∧
        KeepsBut [.homeWaiting, .homeAgeNo, .homeStatus] s t ∧ (side t.home d).ageNo = (side s.home d).ageNo + 1 ∧
        (side t.home d).waiting =
          ((side s.home d).waiting.filter (fun x => x.order != w.order)).filter (fun x => x.aged != 0 && decide (x.aged < (side t.home d).ageNo)) ++
            [{ w with aged := (side t.home d).ageNo }] ++
            ((side s.home d).waiting.filter (fun x => x.order != w.order)).filter (fun x => x.aged == 0 || decide ((side t.home d).ageNo ≤ x.aged))) ∧
    (∀ x, (side s.home d).waiting.find? (fun y => (y.frame :: y.more).any (fun f => keyOf f == k) && y.aged == 0) = none →
      (side s.home d).inbox.find? (fun y => (y.frame :: y.more).any (fun f => keyOf f == k) && agedNo s d (y.frame :: y.more) == 0) = some x →
      ∃ t, exec (.requestAged d k) s = .next t ∧ (side t.home d).status.bits.getLsbD 4 = true ∧
        (side t.home d).agedIn = (side s.home d).agedIn ++ [(k, (side s.home d).ageNo + 1)] ∧
        KeepsBut [.homeAgedIn, .homeAgeNo, .homeStatus] s t)) ∧
  (∀ (s : State) (d : Die) (line : Nat), ∃ t, exec (.hotlineExit d line) s = .next t ∧ get? (side t.home d).hot line = none ∧
    (∀ k, k ≠ line → get? (side t.home d).hot k = get? (side s.home d).hot k) ∧ KeepsBut [.homeHot] s t)

/-- In every state with a coherence request that its home takes and serves, from member i of the line's domain: CRD_S and CRD_M of a line in
I with room in its directory set are answered with the line, which is then S with i as sharer, or M with i as owner; CRD_S of a line in
S, with i recorded or fewer than four sharers, is answered with the line and i is a sharer; CUPG of the only sharer is granted and the
line is M; CRD_M of a line others share starts the invalidation of exactly those; CRD_S of a line in M that another owns starts a
forward from the owner; CWB of the owner leaves its 64 bytes in memory, every other byte as before, and the line in I; CEVICT of a
sharer takes its pointer away. Each but CWB leaves memory as it was. (R203, R205, R208, R209, R210, R212, R213) -/
def Obligations.CoherenceRequestsComplete : Prop :=
  (∀ (s : State) (d : Die) (f : Frame) (i : Nat) (share : Bool) (c : Instr),
    (share = true ∧ f.opcode = Opc.crdS ∧ c = .crdS d f) ∨ (share = false ∧ f.opcode = Opc.crdM ∧ c = .crdM d f) →
    MemTaken s d f → CohServed (takeHome d f s) d f → memberIdx s d (cohDomain s d f) f.srcEp.toNat = some i →
    dirOf s d (cohLine s f) = none → (dirWays s d (Config.dirSetOf (cohLine s f))).length < 16 →
    ∃ u n, exec c s = .next (dropWaiting d n (cohRsp d f (if share then Opc.cdataS else Opc.cdataM) Sts.ok 0 (lineBytes s (cohLine s f)) u)) ∧
      dirOf u d (cohLine s f) = some { st := if share then .s else .m, domain := cohDomain s d f, ptrs := [i], lastAccept := n } ∧
      u.mem = s.mem) ∧
  (∀ (s : State) (d : Die) (f : Frame) (i : Nat) (e : DirEntry), f.opcode = Opc.crdS → MemTaken s d f → CohServed (takeHome d f s) d f →
    memberIdx s d (cohDomain s d f) f.srcEp.toNat = some i → dirOf s d (cohLine s f) = some e → e.st = .s →
    e.ptrs.contains i = true ∨ e.ptrs.length < 4 →
    ∃ u n, exec (.crdS d f) s = .next (dropWaiting d n (cohRsp d f Opc.cdataS Sts.ok 0 (lineBytes s (cohLine s f)) u)) ∧ u.mem = s.mem ∧
      dirOf u d (cohLine s f) = some { e with lastAccept := n, ptrs := if e.ptrs.contains i then e.ptrs else e.ptrs ++ [i] }) ∧
  (∀ (s : State) (d : Die) (f : Frame) (i : Nat) (e : DirEntry), f.opcode = Opc.cupg → MemTaken s d f → CohServed (takeHome d f s) d f →
    memberIdx s d (cohDomain s d f) f.srcEp.toNat = some i → dirOf s d (cohLine s f) = some e → e.st = .s → e.domain = cohDomain s d f →
    e.ptrs = [i] →
    ∃ u n, exec (.cupg d f) s = .next (dropWaiting d n (cohRsp d f Opc.cgrant Sts.ok 0 [] u)) ∧ u.mem = s.mem ∧
      dirOf u d (cohLine s f) = some { e with lastAccept := n, st := .m, fenced := [] }) ∧
  (∀ (s : State) (d : Die) (f : Frame) (i : Nat) (e : DirEntry), f.opcode = Opc.crdM → MemTaken s d f → CohServed (takeHome d f s) d f →
    memberIdx s d (cohDomain s d f) f.srcEp.toNat = some i → dirOf s d (cohLine s f) = some e → e.st = .s → e.domain = cohDomain s d f →
    e.ptrs.any (· != i) = true →
    ∃ t n b, exec (.crdM d f) s = .next t ∧ t.mem = s.mem ∧ dirOf t d (cohLine s f) = some
      { e with
        lastAccept := n
        st := .sI
        txn := some
          { num := (side s.coh d).txnNo
            kind := .inv false
            req := some f
            awaited := (e.ptrs.filter (fun p => p != i)).map (memberEp s d e.domain)
            owner := none
            reserved := b } }) ∧
  (∀ (s : State) (d : Die) (f : Frame) (i x : Nat) (e : DirEntry), f.opcode = Opc.crdS → MemTaken s d f → CohServed (takeHome d f s) d f →
    memberIdx s d (cohDomain s d f) f.srcEp.toNat = some i → dirOf s d (cohLine s f) = some e → e.st = .m → (holdersOf s d e).headD 0 = x →
    x ≠ f.srcEp.toNat →
    ∃ t n b, exec (.crdS d f) s = .next t ∧ t.mem = s.mem ∧ dirOf t d (cohLine s f) = some
      { e with
        lastAccept := n
        st := .mF
        txn := some { num := (side s.coh d).txnNo, kind := .fwdS, req := some f, awaited := [x], owner := some x, reserved := b } }) ∧
  (∀ (s : State) (d : Die) (f : Frame) (e : DirEntry), f.opcode = Opc.cwb → MemTaken s d f → CohServed (takeHome d f s) d f →
    dirOf s d (cohLine s f) = some e → e.st = .m → (holdersOf s d e).headD 0 = f.srcEp.toNat →
    ∃ u n, exec (.cwb d f) s = .next (dropWaiting d n (cohRsp d f Opc.cwbAck Sts.ok 0 [] u)) ∧ dirOf u d (cohLine s f) = none ∧
      readMem u (lineAddr (cohLine s f)) 64 = f.payload ∧ OutsideKept s u (lineAddr (cohLine s f)) 64) ∧
  (∀ (s : State) (d : Die) (f : Frame) (e : DirEntry), f.opcode = Opc.cevict → MemTaken s d f → CohServed (takeHome d f s) d f →
    dirOf s d (cohLine s f) = some e → e.st = .s →
    ∃ u n, exec (.cevict d f) s = .next (dropWaiting d n (cohRsp d f Opc.cwbAck Sts.ok 0 [] u)) ∧ u.mem = s.mem ∧
      dirOf u d (cohLine s f) = if (e.ptrs.filter (fun p => memberEp s d e.domain p != f.srcEp.toNat)).isEmpty then none
        else some { e with ptrs := e.ptrs.filter (fun p => memberEp s d e.domain p != f.srcEp.toNat) })

/-- In every state in which no request at the home waits for a line, for a way of the directory or behind another: the CINV_ACK of an
awaited endpoint is counted, and the last one leaves the line M with the requester as owner, unless it has been fenced or the home lost;
a CFWD_ACK of the owner with the line's 64 bytes leaves them in memory, where the home has not been lost, and the line as the forward
ends, shared or owned; the last CRECALL_ACK of a recall, from the owner, with the line's 64 bytes and no copy kept, leaves them in
memory, where the home has not been lost, and the line in I. FENCE_NOTICE of an endpoint, where nothing waits, leaves no replay window
of it, and takes a line it owned to I, poisoned. (R207, R214, R216, R222, R183) -/
def Obligations.AcknowledgementsComplete : Prop :=
  (∀ (s : State) (d : Die) (f : Frame) (line : Nat) (e : DirEntry) (t : Txn), NoLineWaits s d →
    txnOf s d f.tag.toNat f.srcEp.toNat = some (line, e, t) → e.st = .sI → t.awaited.contains f.srcEp.toNat = true →
    (t.awaited.filter (fun x => x != f.srcEp.toNat) ≠ [] →
      ∃ r, exec (.cinvAck d f) s = .next r ∧ r.mem = s.mem ∧
        dirOf r d line = some { e with txn := some { t with awaited := t.awaited.filter (fun x => x != f.srcEp.toNat) } }) ∧
    (t.awaited.filter (fun x => x != f.srcEp.toNat) = [] → t.reqFenced = false → lineLost s line = false → ∀ q i, t.req = some q →
      memberIdx s d e.domain q.srcEp.toNat = some i →
      ∃ r, exec (.cinvAck d f) s = .next r ∧ r.mem = s.mem ∧
        dirOf r d line = some { e with st := .m, ptrs := [i], fenced := [], txn := none })) ∧
  (∀ (s : State) (d : Die) (f : Frame) (line : Nat) (e : DirEntry) (t : Txn), NoLineWaits s d → LineAtHand s line →
    txnOf s d f.tag.toNat f.srcEp.toNat = some (line, e, t) → e.st = .mF → t.owner = some f.srcEp.toNat → f.payload.length = 64 →
    lineLost s line = false →
    ∃ r, exec (.cfwdAck d f) s = .next r ∧ readMem r (lineAddr line) 64 = f.payload ∧ OutsideKept s r (lineAddr line) 64 ∧
      dirOf r d line = afterForward s d e t f.srcEp.toNat (!f.opspec.getLsbD 0)) ∧
  (∀ (s : State) (d : Die) (f : Frame) (line : Nat) (e : DirEntry) (t : Txn), NoLineWaits s d → LineAtHand s line →
    txnOf s d f.tag.toNat f.srcEp.toNat = some (line, e, t) → e.st = .rc → t.owner = some f.srcEp.toNat →
    t.awaited.contains f.srcEp.toNat = true → t.awaited.filter (fun x => x != f.srcEp.toNat) = [] → f.payload.length = 64 →
    f.opspec.getLsbD 0 = true → lineLost s line = false →
    ∃ r, exec (.crecallAck d f) s = .next r ∧ readMem r (lineAddr line) 64 = f.payload ∧ OutsideKept s r (lineAddr line) 64 ∧
      dirOf r d line = none) ∧
  (∀ (s : State) (d : Die) (ep : Nat), (side s.home d).waiting = [] →
    ∃ t, exec (.fenceNotice d ep) s = .next t ∧ (∀ w ∈ (side t.home d).windows, w.1 / 4096 % 2 ^ 20 ≠ ep) ∧
      (∀ line e, (side s.coh d).dir = [(line, e)] → e.st = .m → (holdersOf s d e).contains ep = true →
        dirOf t d line = none ∧ line ∈ t.poison))

/-- In every state with an object request that its home takes and that passes its checks: OBJ_CREATE is answered with the handle and address
of a new object, RESIDENT, owned by the request's context, with OWNERSHIP_EPOCH 1 and REFCOUNT 1, PIN_COUNT 1 exactly if PIN is set, the
next generation of its ID, and bytes that read zero; OBJ_CLONE makes a new object of the source's size, owned by the issuer, and starts
copying the source to it, granule by granule; with both in T0 and no other copying it is answered at once with the clone's handle and
address, and the clone holds the source's bytes; OBJ_MOVE to the tier the object occupies is answered OK at once, to another one whose
quota and room it fits it queues behind all queued moves and the object stays; OBJ_PIN adds one to PIN_COUNT, OBJ_UNPIN subtracts one
and at 0 completes with LENGTH; OBJ_FREE puts the object in FREEING; OBJ_FREE_RELEASE, once no admitted access is pending and the
journal has room for the record of a DURABLE one, leaves no object of the ID. No other object changes. (R70, R75, R79, R236, R237, R238,
R239, R240) -/
def Obligations.ObjectRequestsComplete : Prop :=
  (∀ (s : State) (d : Die) (f : Frame) (e : ExtV) (id tier loc a : Nat), f.opcode = Opc.objCreate → toSp f = false →
    TakesNow s d f [] → createFormBad f = none → outstanding (takeHome d f s) d (keyOf f) = false →
    admitted (takeHome d f s) d f = true → extAt s (transOff s f.addr.toNat) = some e → extPhase s d e.idx = .active → e.classT = true →
    bitAt (rightsOn s e f.ctx.toNat) 3 = true →
    allocate (takeHome d f s) e f.ctx.toNat (le f.payload 0 8) (le f.payload 9 1)
      (if bitAt (le f.payload 10 1) 0 then some (transOff s f.addr.toNat) else none) = .inr (id, tier, loc, a) →
    ∃ u o, exec (.objCreate d f) s = .next (answer d f Sts.ok (toLE 8 (handleOf s id (getD s.gens id 0 + 1)) ++
        toLE 8 (s.cfg.switchId * 2 ^ 52 + a)) u) ∧
      get? u.objs id = some o ∧ o.st = .resident ∧ o.owner = f.ctx.toNat ∧ o.tier = tier ∧ o.size = le f.payload 0 8 ∧
      o.addr = s.cfg.switchId * 2 ^ 52 + a ∧ o.epoch = 1 ∧ o.refcount = 1 ∧ o.kind = le f.payload 8 1 ∧
      o.pins = b2n (bitAt (le f.payload 10 1) 1) ∧ o.gen = getD s.gens id 0 + 1 ∧ OtherObjs s u id ∧
      ReadsZero u o.addr o.size ∧ KeepsBut makeParts s u) ∧
  (∀ (s : State) (d : Die) (f : Frame) (e : ExtV) (id : Nat) (o : Obj), f.opcode = Opc.objMove → TakesNow s d f [] →
    f.payload.length = 8 → le f.payload 0 1 ≤ 2 → zeroAt f.payload 1 3 = true → outstanding (takeHome d f s) d (keyOf f) = false →
    objChecks (takeHome d f s) d f (le f.payload 4 4) false = .inr (id, o, e) → policyPermits e (le f.payload 0 1) = true →
    moveOf s d id = none → o.st ≠ .moving →
    (o.tier = le f.payload 0 1 → ∃ u, exec (.objMove d f) s = .next (answer d f Sts.ok [] u) ∧
      KeepsBut (takeParts ++ countParts) s u) ∧
    (o.tier ≠ le f.payload 0 1 → chargeFits (takeHome d f s) o.owner (le f.payload 0 1) o.size = true →
      (roomIn (takeHome d f s) d (le f.payload 0 1) o.size).isSome = true → (queuedMoves s d).length < 4096 →
      ∃ t, exec (.objMove d f) s = .next t ∧
        (side t.tier d).moves = (side s.tier d).moves ++ [{ obj := id, dest := le f.payload 0 1, who := .frame f, ctx := f.ctx.toNat }] ∧
        KeepsBut (.tierMoves :: takeParts ++ countParts) s t)) ∧
  (∀ (s : State) (d : Die) (f : Frame) (e : ExtV) (id : Nat) (o : Obj), f.payload = [] → TakesNow s d f [] → get? s.objs id = some o →
    outstanding (takeHome d f s) d (keyOf f) = false → objChecks (takeHome d f s) d f 0 false = .inr (id, o, e) →
    (f.opcode = Opc.objPin → o.pins + 1 < 0xFFFF → ∃ u, exec (.objPin d f) s = .next (answer d f Sts.ok [] u) ∧
      get? u.objs id = some { o with pins := o.pins + 1 } ∧ OtherObjs s u id ∧
      KeepsBut (.objs :: takeParts ++ countParts) s u) ∧
    (f.opcode = Opc.objUnpin → o.pins ≠ 0 → ∃ u, exec (.objUnpin d f) s = .next (answer d f Sts.ok [] u) ∧
      get? u.objs id = some { o with pins := o.pins - 1 } ∧ OtherObjs s u id ∧
      KeepsBut (.objs :: takeParts ++ countParts) s u) ∧
    (f.opcode = Opc.objUnpin → o.pins = 0 → exec (.objUnpin d f) s = .next (refuse d f Sts.length (takeHome d f s)))) ∧
  (∀ (s : State) (d : Die) (f : Frame) (e : ExtV) (id : Nat) (o : Obj), f.opcode = Opc.objFree → TakesNow s d f [] →
    f.payload.length = 8 → zeroAt f.payload 0 4 = true → get? s.objs id = some o → outstanding (takeHome d f s) d (keyOf f) = false →
    objChecks (takeHome d f s) d f (le f.payload 4 4) true = .inr (id, o, e) → listedPage s id = false → moveOf s d id = none →
    ∃ u, exec (.objFree d f) s = .next (answer d f Sts.ok [] u) ∧ get? u.objs id = some { o with st := .freeing } ∧ OtherObjs s u id ∧
      KeepsBut (.objs :: takeParts ++ countParts) s u) ∧
  (∀ (s : State) (id : Nat) (o : Obj), get? s.objs id = some o → o.st = .freeing → accessPending s o = false →
    (∀ e, extOf s o.ext = some e → e.durable = true → ringFull s e.die 4096 = false) →
    ∃ t, exec (.objFreeRelease id) s = .next t ∧ get? t.objs id = none ∧ OtherObjs s t id ∧
      ((extOf s o.ext).isSome = true → ReadsZero t o.addr o.size)) ∧
  (∀ (s : State) (d : Die) (f : Frame) (se e : ExtV) (id nid tier loc a : Nat) (o : Obj), f.opcode = Opc.objClone → TakesNow s d f [] →
    f.payload.length = 16 → le f.payload 8 1 ≤ 3 → le f.payload 9 1 ≤ 1 → zeroAt f.payload 10 6 = true →
    outstanding (takeHome d f s) d (keyOf f) = false → admitted (takeHome d f s) d f = true → handleObj s f.addr.toNat = some (id, o) →
    extOf s o.ext = some se → addrSwitch (le f.payload 0 8) = addrSwitch f.addr.toNat → extAt s (addrOff (le f.payload 0 8)) = some e →
    extPhase s d e.idx = .active → e.classT = true → extPhase s d se.idx = .active → o.homeLost = false →
    bitAt (rightsOn s se f.ctx.toNat) 0 = true → bitAt (rightsOn s e f.ctx.toNat) 3 = true →
    allocate (takeHome d f s) e f.ctx.toNat o.size (le f.payload 8 1)
      (if bitAt (le f.payload 9 1) 0 then some (addrOff (le f.payload 0 8)) else none) = .inr (nid, tier, loc, a) → nid ≠ id →
    (∃ u c, exec (.objClone d f) s = .next (pump (startCopy d (.clone f nid) (cloneSteps o c) u)) ∧ get? u.objs nid = some c ∧
      c.st = .resident ∧ c.owner = f.ctx.toNat ∧ c.tier = tier ∧ c.size = o.size ∧ c.addr = s.cfg.switchId * 2 ^ 52 + a ∧ c.epoch = 1 ∧
      c.refcount = 1 ∧ c.pins = 0 ∧ c.gen = getD s.gens nid 0 + 1 ∧ (∀ i, i ≠ nid → i ≠ id → get? u.objs i = get? s.objs i) ∧
      KeepsBut makeParts s u) ∧
    (o.tier = 0 → tier = 0 → NothingCopies s →
      o.addr + granules o.size * 4096 ≤ s.cfg.switchId * 2 ^ 52 + a ∨ s.cfg.switchId * 2 ^ 52 + a + granules o.size * 4096 ≤ o.addr →
      ∃ u, exec (.objClone d f) s = .next (answer d f Sts.ok (toLE 8 (handleOf s nid (getD s.gens nid 0 + 1)) ++
          toLE 8 (s.cfg.switchId * 2 ^ 52 + a)) u) ∧
        readMem u (s.cfg.switchId * 2 ^ 52 + a) o.size = readMem s o.addr o.size))

/-- In every state: MOVE_START of the next move, to another tier whose quota and room the object fits, gives it a slot and a location, its
copying starts, and the object is MOVING in its old tier, no byte changed; of the move of a session's packs, a slot; MOVE_SWITCHOVER
makes that move switching over, once its copying is done and no further pass is due, and no other, for requests that the home takes from
then on; MOVE_COMPLETE of one whose copying is done with no granule dirty leaves the object RESIDENT in the destination and the move
gone; MOVE_DEST_FAIL leaves it in the source, the move gone, and MOVE_ABORTED set; SPILL_START of a die below its low watermark, none
under way, only adds moves out of T0, of unpinned resident objects, to T1 or T2, and sets SPILL_BLOCKED where there is no victim;
REFILL_START only adds moves into T0 of unpinned objects outside it; CC_WRITEBACK_RESPONSE with OK for the encrypted bytes the line
still holds leaves the line clean, with another failing status dirty and CC_WB_ERR set; TRAY_RESPONSE with OK fills a line of the class
C cache with the decrypted bytes, hands an LD's data units, decrypted, to the request they were read for, makes the request take effect
whose bytes it has stored, or takes a tray's temperatures. (R232, R235, R239, R240, R241, R242, R243, R245, R256) -/
def Obligations.MovesAndTrayAnswersComplete : Prop :=
  (∀ (s : State) (d : Die) (m : Move) (o : Obj) (loc : Nat), nextMove s d = some m → packMove m = false → m.dirty = [] →
    moveOf s d m.obj = some m → get? s.objs m.obj = some o → o.tier ≠ m.dest → chargeFits s o.owner m.dest o.size = true → roomIn s d m.dest o.size = some loc →
    ∃ t, exec (.moveStart d) s = .next t ∧ get? t.objs m.obj = some { o with st := .moving } ∧ OtherObjs s t m.obj ∧
      (side t.tier d).moves = (side s.tier d).moves.map (fun x => if x.obj = m.obj then { x with started := true, loc := loc } else x) ∧
      t.mem = s.mem ∧ (jobFor t d (.move m.obj)).isSome = true ∧ KeepsBut (.objs :: .poison :: countParts ++ movingParts) s t) ∧
  (∀ (s : State) (d : Die) (m : Move), nextMove s d = some m → packMove m = true →
    ∃ t, exec (.moveStart d) s = .next t ∧ KeepsBut [.tierMoves] s t ∧
      (side t.tier d).moves = (side s.tier d).moves.map (fun x => if x.obj = m.obj then { x with started := true, loc := 0 } else x)) ∧
  (∀ (s : State) (obj : Nat), ∃ t, exec (.moveSwitchover obj) s = .next t ∧ KeepsBut [.tierMoves] s t ∧
    ∀ d, (side t.tier d).moves = (side s.tier d).moves.map (fun m =>
      if m.obj = obj ∧ m.started = true ∧ m.switching = false ∧ copied s d (.move obj) = true ∧ passDue m = false ∧ packMove m = false then
        { m with switching := true, since := nextOrder s d } else m)) ∧
  (∀ (s : State) (d : Die) (obj : Nat) (m : Move) (o : Obj), moveOf s d obj = some m → moveOf s (otherDie d) obj = none → m.switching = true →
    m.dirty = [] → copied s d (.move obj) = true → HomeQuiet s d → get? s.objs obj = some o →
    ∃ t, exec (.moveComplete obj) s = .next t ∧
      get? t.objs obj = some { o with tier := m.dest, loc := m.loc, st := .resident, blank := false, written := [] } ∧
      OtherObjs s t obj ∧ (side t.tier d).moves = (side s.tier d).moves.filter (fun x => x.obj != obj)) ∧
  (∀ (s : State) (d : Die) (obj : Nat) (m : Move) (o : Obj), moveOf s d obj = some m → moveOf s (otherDie d) obj = none → m.started = true →
    packMove m = false → HomeQuiet s d → get? s.objs obj = some o →
    ∃ t, exec (.moveDestFail obj) s = .next t ∧ get? t.objs obj = some { o with st := if o.st = .moving then .resident else o.st } ∧
      OtherObjs s t obj ∧ (side t.tier d).moves = (side s.tier d).moves.filter (fun x => x.obj != obj) ∧
      (side t.tier d).status.bits.getLsbD 2 = true) ∧
  (∀ (s : State) (d : Die), ∃ t l, exec (.spillStart d) s = .next t ∧ (side t.tier d).moves = (side s.tier d).moves ++ l ∧
    (∀ m ∈ l, m.who = .spill ∧ m.started = false ∧ (m.dest = 1 ∨ m.dest = 2) ∧
      ∃ o, get? s.objs m.obj = some o ∧ o.tier = 0 ∧ o.pins = 0 ∧ o.st = .resident) ∧
    KeepsBut [.tierStatus, .tierMoves, .tierSkip, .tierSpillMore, .ctxs, .evQueue] s t ∧
    ((side s.mtr.escrow d).stopped = false → (side s.tier d).spillEn = true → (side s.tier d).spillMore = false → (side s.tier d).moves = [] →
      t0Free s d < (side s.tier d).lowWm * 512 → t0Free s d < (side s.tier d).highWm * 512 →
      (∀ id, spillable (modTier s d (fun x => { x with skip := [] })) d id = false) →
      l = [] ∧ (side t.tier d).status.bits.getLsbD 1 = true)) ∧
  (∀ (s : State) (d : Die), ∃ t l, exec (.refillStart d) s = .next t ∧ (side t.tier d).moves = (side s.tier d).moves ++ l ∧
    (∀ m ∈ l, m.who = .refill ∧ m.started = false ∧ m.dest = 0 ∧ ∃ o, get? s.objs m.obj = some o ∧ o.tier ≠ 0 ∧ o.pins = 0) ∧
    KeepsBut [.tierMoves] s t) ∧
  (∀ (s : State) (d : Die) (f : Frame) (r : TrayReq) (line : Nat) (c : CcLine), trayReqOf s d f = some r → r.why = .writeback line →
    HomeQuiet s d → get? (side s.tier d).cc line = some c →
    (f.status = Sts.ok → sealMem s (line * 64) (lineBytes s line) = r.frame.payload →
      ∃ t, exec (.ccWritebackResponse d f) s = .next t ∧ get? (side t.tier d).cc line = some { c with dirty := false } ∧
        line ∉ (side t.tier d).flush ∧ ∀ x ∈ (side t.tier d).trayReqs, x.tag ≠ r.tag) ∧
    (f.status ≠ Sts.ok → f.status ≠ Sts.retry →
      ∃ t, exec (.ccWritebackResponse d f) s = .next t ∧ get? (side t.tier d).cc line = some c ∧
        (side t.tier d).status.bits.getLsbD 6 = true)) ∧
  (∀ (s : State) (d : Die) (f : Frame) (r : TrayReq), trayReqOf s d f = some r → f.status = Sts.ok →
    (∀ line, r.why = .fill line → HomeQuiet s d → f.payload.length = 64 →
      ∃ t c, exec (.trayResponse d f) s = .next t ∧ get? (side t.tier d).cc line = some c ∧ c.dirty = false ∧
        readMem t (lineAddr line) 64 = openMem s (lineAddr line) f.payload ∧ OutsideKept s t (lineAddr line) 64) ∧
    (∀ q w, r.why = .home q → r.frame.opcode = Opc.ld → waitingFor s d q = some w → w.done = false →
      ∃ u, exec (.trayResponse d f) s = .next (settleBehind d (serve d w.order true u)) ∧
        u = writeMem (dropTrayReq d r.tag (takeAgent d f s)) (unitsAround (localAddr s q.addr.toNat) (accessLen q)).1
          (openMem s (unitsAround (localAddr s q.addr.toNat) (accessLen q)).1
            (f.payload.take (unitsAround (localAddr s q.addr.toNat) (accessLen q)).2))) ∧
    (∀ q w, r.why = .home q → r.frame.opcode ≠ Opc.ld → waitingFor s d q = some w →
      ∃ u, exec (.trayResponse d f) s = .next (settleBehind d (performAll d (w.frame :: w.more) u)) ∧ waitingAt u d w.order = none ∧
        KeepsBut [.swcAgentInbox, .tierTrayReqs, .tierCc, .objs, .homeWaiting] s u) ∧
    (∀ port, r.why = .sense port →
      ∃ t, exec (.trayResponse d f) s = .next t ∧ get? (side t.ftl d).temps port = some (f.payload.map (·.toInt)) ∧
        KeepsBut [.swcAgentInbox, .tierTrayReqs, .ftlTemps] s t))

/-- In every state, with room in the die's journal ring where a record is due: SLC_PROGRAM of an ONLINE volume with four staged units starts
the program of those four on the block of the first stripe position that has one, at its next page; the OK of its fourth chunk maps
every unit, while nothing copies or waits, to its chunk of that page and frees its slot unless it was written again; PROGRAM_ABORTED of
such a page, with no map page left to program, retires the block and ends its programs, and one of a relocation sets TARGET_FAIL; while
nothing copies, no relocation is under way and no erase waits, an OK flash read of a unit that still lies where it was read puts the
tray's bytes, decrypted, in it, counts a read, notes the level, and queues a refresh at ECC_REFRESH; a failing one is asked again at the
next level, or at RETRY_MAX poisons every granule of the unit; BLOCK_ERASE_DONE with OK leaves the block FREE, with another status
RETIRED, and of a tray being formatted issues the erase of the next block, which counts it; RETRY sends the tray's request again;
STAGING_SLOT_WAIT_END serves the write that waits longest when a slot is free; RETENTION_HOUR advances the clock and makes every
programmed block of the refresh age that is not of the map area due. (R193, R256, R260, R261, R262, R266, R267, R268, R269, R270, R271) -/
def Obligations.FlashProgramsReadsAndErasesComplete : Prop :=
  (∀ (s : State) (d : Die) (vol k key : Nat) (fresh : Bool) (us : List Nat),
    us = (((side s.ftl d).staging.filter (fun x => x.vol == vol && x.prog.isNone)).map (·.unit)).take 4 → us.length = 4 →
    volDie s vol = d → (getD s.vols vol {}).st = .online → ringFull s d 512 = false →
    (rangeFrom (getD s.vols vol {}).rr (64 * (recOf s RT.ftlVolume vol).elim 0 (fun b => le b 2 1))).find?
      (fun j => (slcBlock s d vol j).isSome) = some k → slcBlock s d vol k = some (key, fresh) →
    ∃ t, exec (.slcProgram d vol) s = .next t ∧
      (side t.ftl d).progs = (side s.ftl d).progs ++
        [{ id := (side s.ftl d).nextProg, vol := vol, port := key / 2 ^ 20, blk := key % 2 ^ 20,
           page := if fresh then 0 else (blkOf s d key).nextPage, units := us }] ∧
      (side t.ftl d).staging = (side s.ftl d).staging.map (fun y =>
        if y.vol = vol ∧ us.contains y.unit then { y with prog := some (side s.ftl d).nextProg, again := false } else y)) ∧
  (∀ (s : State) (d : Die) (f : Frame) (r : TrayReq) (id : Nat) (p : Prog), trayReqOf s d f = some r → r.why = .program id 3 →
    f.status = Sts.ok → ringFull s d 512 = false → (side s.ftl d).progs.find? (fun p => p.id == id) = some p → p.id = id → p.reloc = none →
    p.maps = [] → p.units.Nodup → NothingCopies s →
    ∃ t, exec (.slcProgramDone d f) s = .next t ∧
      (∀ i < p.units.length, get? (getD t.vols p.vol {}).map (nth p.units i 0) =
        some (mapEntry true (volTrayIdx s p.vol p.port) p.blk p.page i)) ∧
      (∀ u, u ∉ p.units → get? (getD t.vols p.vol {}).map u = get? (getD s.vols p.vol {}).map u) ∧
      (∀ y ∈ (side t.ftl d).staging, y.vol = p.vol → y.unit ∈ p.units → y.prog ≠ some id)) ∧
  (∀ (s : State) (d : Die) (f : Frame) (r : TrayReq) (id chunk : Nat) (p : Prog), trayReqOf s d f = some r → r.why = .program id chunk →
    f.status ≠ Sts.ok → f.status ≠ Sts.retry → ringFull s d 512 = false → (side s.ftl d).progs.find? (fun p => p.id == id) = some p →
    ∃ t, exec (.programAborted d f) s = .next t ∧ (side t.ftl d).status.bits.getLsbD 2 = true ∧
      (p.reloc = none → p.maps = [] → (side s.ftl d).mapLeft = [] → (blkOf t d (blkKey p.port p.blk)).st = .retired ∧
        ∀ q ∈ (side t.ftl d).progs, q.port = p.port → q.blk ≠ p.blk) ∧
      (p.reloc ≠ none → (side t.ftl d).status.bits.getLsbD 1 = true)) ∧
  (∀ (s : State) (d : Die) (f : Frame) (r : TrayReq) (vol unit level att a : Nat), trayReqOf s d f = some r →
    r.why = .flashRead vol unit level att → NothingCopies s → (side s.ftl d).relocs = [] → (side s.ftl d).eraseWait = [] →
    unitAddr s vol unit = some a →
    (f.status = Sts.ok → readStill s d vol unit r = true → f.payload.length = 4096 →
      ∃ t, exec (.flashReadResponse d f) s = .next t ∧ readMem t a 4096 = openMem s a f.payload ∧ OutsideKept s t a 4096 ∧
        blkOf t d (blkKey r.port (fld r.frame.addr.toNat 43 24)) =
          (let b := blkOf s d (blkKey r.port (fld r.frame.addr.toNat 43 24))
           { b with lastLevel := level, readSince := true, reads := b.reads + 1 }) ∧
        ((side s.ftl d).eccRefresh ≤ f.opspec.toNat →
          (r.port, RelocKind.refresh, blkKey r.port (fld r.frame.addr.toNat 43 24)) ∈ (side t.ftl d).due)) ∧
    (f.status ≠ Sts.ok → f.status ≠ Sts.retry → att < (side s.ftl d).retryMax → (unitWhere s vol unit).isSome = true →
      ∃ t, exec (.flashReadResponse d f) s = .next t ∧ (side t.ftl d).status.bits.getLsbD 3 = true ∧
        ∃ x ∈ (side t.tier d).trayReqs, x.why = .flashRead vol unit ((level + 1) % 16) (att + 1)) ∧
    (f.status ≠ Sts.ok → f.status ≠ Sts.retry → (side s.ftl d).retryMax ≤ att → readStill s d vol unit r = true →
      ∃ t, exec (.flashReadResponse d f) s = .next t ∧ (side t.ftl d).status.bits.getLsbD 4 = true ∧
        ∀ g ∈ touched a 4096, g ∈ t.poison)) ∧
  (∀ (s : State) (d : Die) (f : Frame) (r : TrayReq) (port blk : Nat), trayReqOf s d f = some r → r.why = .erase port blk →
    f.status ≠ Sts.retry → ringFull s d 512 = false →
    ∃ t, exec (.blockEraseDone d f) s = .next t ∧
      (f.status = Sts.ok → blkOf t d (blkKey port blk) =
        { blkOf s d (blkKey port blk) with st := .free, slc := false, reads := 0, nextPage := 0, closedAt := 0, area := false }) ∧
      (f.status ≠ Sts.ok → (blkOf t d (blkKey port blk)).st = .retired) ∧
      (∀ vol idx, volOfPort s port = some vol → formatting s vol port blk = some idx → blk + 1 < trayBlocks →
        (blkOf t d (blkKey port (blk + 1))).eraseCount = (blkOf s d (blkKey port (blk + 1))).eraseCount + 1 ∧
        ∃ x ∈ (side t.tier d).trayReqs, x.why = .erase port (blk + 1))) ∧
  (∀ (s : State) (d : Die) (f : Frame) (r : TrayReq), trayReqOf s d f = some r → f.status = Sts.retry →
    exec (.flashTrayBusy d f) s = .next (sendPort d r.port r.frame (takeAgent d f s))) ∧
  (∀ (s : State) (d : Die),
    (stageRoom s d = false → exec (.stagingSlotWaitEnd d) s = .next s) ∧
    (∀ w, stageRoom s d = true → (side s.home d).waiting.find? (fun w => w.wait == .staging) = some w →
      exec (.stagingSlotWaitEnd d) s = .next (settleBehind d (serve d w.order false s)))) ∧
  (∀ (s : State) (d : Die), ∃ t, exec (.retentionHour d) s = .next t ∧ (side t.ftl d).hours = ((side s.ftl d).hours + 1) % 2 ^ 32 ∧
    ∀ b ∈ (side s.ftl d).blocks, b.2.st = .closed ∨ b.2.st = .openBlk → b.2.area = false →
      b.2.progHours + 168 * (side s.ftl d).retainW ≤ ((side s.ftl d).hours + 1) % 2 ^ 32 →
      (b.1 / 2 ^ 20, RelocKind.refresh, b.1) ∈ (side t.ftl d).due)

/-- In every state, with room in the die's journal ring where a record is due: RELOCATION_START of a tray of a NATIVE volume starts the
first kind in priority order that is due, from the sources R269 chooses, with a new dense target; RELOCATION_CLOSE of a full target of a
NATIVE volume, with no read or program of it open, closes it, maps each noted unit whose entry is still the copied one to its copy and
no other unit, and ends the relocation; OUVI_MERGE with no log block free merges the oldest group by group, or, where that holds no
unit, takes it out of the log blocks, to be erased; MAP_REBUILD puts an online NATIVE volume into MAP_REBUILD, MAP_REBUILD_DONE brings
it back; VOLUME_BRINGUP of a configured volume that is not being formatted reads IDENTIFY from each of its trays, and where no further
tray answers leaves it OFFLINE with the reason, ONLINE, or FORMATTING with the first block of each new tray being erased;
MAP_PAGE_LOAD_DONE, while nothing copies or waits, takes the page off those to load and changes nothing else; CHECKPOINT_START begins a
checkpoint at the next LSN, with the records and the blocks in the other area; CHECKPOINT_END, once the changed map pages are in the map
area, completes its area with the digest, leaves no record older than its start in the ring, and stores the die's TAP_SEQ mark;
JOURNAL_TAIL_ON_MEDIA advances the LSN on media and issues the erases it frees; JOURNAL_RING_WAIT_END, with no closed target and no
erase waiting, moves the waiting records into the ring in order where they all fit. (R259, R263, R264, R265, R269, R270, R275, R276,
R277, R278) -/
def Obligations.RelocationsMapsAndTheJournalComplete : Prop :=
  (∀ (s : State) (port vol tgt : Nat) (k : RelocKind) (before after : List RelocKind),
    [RelocKind.rescue, .refresh, .fold, .collect, .wear] = before ++ k :: after → volOfPort s port = some vol → volOuvi s vol = false →
    ringFull s (portDie port) 512 = false → (∀ j ∈ before, nextSources s (portDie port) vol port j = []) →
    nextSources s (portDie port) vol port k ≠ [] → relocOf s (portDie port) port k = none →
    targetBlock s (portDie port) vol port = some tgt →
    ∃ t r, exec (.relocationStart port) s = .next t ∧ relocOf t (portDie port) port k = some r ∧ r.vol = vol ∧
      r.sources = nextSources s (portDie port) vol port k ∧ r.target = tgt ∧ (blkOf t (portDie port) tgt).st = .openBlk ∧
      (blkOf t (portDie port) tgt).slc = false) ∧
  (∀ (s : State) (port : Nat) (kind : RelocKind) (r : Reloc), relocOf s (portDie port) port kind = some r →
    relocBusy s (portDie port) r = false → r.cur = [] → 768 ≤ (blkOf s (portDie port) r.target).nextPage →
    ringFull s (portDie port) (64 + 16 * r.notes.length) = false → volOuvi s r.vol = false → (r.notes.map (·.1)).Nodup →
    ∃ t, exec (.relocationClose port kind) s = .next t ∧ relocOf t (portDie port) port kind = none ∧
      (blkOf t (portDie port) r.target).st = .closed ∧
      (∀ n ∈ r.notes, get? (getD t.vols r.vol {}).map n.1 =
        if srcEntry s r.vol n.1 = n.2.1 then some n.2.2 else get? (getD s.vols r.vol {}).map n.1) ∧
      (∀ u, u ∉ r.notes.map (·.1) → get? (getD t.vols r.vol {}).map u = get? (getD s.vols r.vol {}).map u)) ∧
  (∀ (s : State) (vol key : Nat) (rest : List Nat), volOuvi s vol = true → (getD s.vols vol {}).logs = key :: rest →
    maxLogs s vol ≤ rest.length + 1 → relocOf s (volDie s vol) (key / 2 ^ 20) .merge = none → ringFull s (volDie s vol) 512 = false →
    (∀ g more tgt, groupsIn s vol key = g :: more → targetBlock s (volDie s vol) vol (key / 2 ^ 20) = some tgt →
      ∃ t r, exec (.ouviMerge vol) s = .next t ∧ relocOf t (volDie s vol) (key / 2 ^ 20) .merge = some r ∧ r.sources = [key] ∧ r.group = g ∧
        r.more = more ∧ r.target = tgt) ∧
    (groupsIn s vol key = [] → ∃ t, exec (.ouviMerge vol) s = .next t ∧ (blkOf t (volDie s vol) key).st = .erasePending ∧
      (getD t.vols vol {}).logs = (key :: rest).filter (fun k => k != key))) ∧
  (∀ (s : State) (vol : Nat), (getD s.vols vol {}).st = .online → volOuvi s vol = false →
    ∃ t, exec (.mapRebuild vol) s = .next t ∧ (getD t.vols vol {}).st = .rebuild ∧
      (getD t.vols vol {}).map = (getD s.vols vol {}).map ∧ KeepsBut [.vols] s t) ∧
  (∀ (s : State) (vol : Nat), (getD s.vols vol {}).st = .rebuild →
    ∃ t, exec (.mapRebuildDone vol) s = .next t ∧ (getD t.vols vol {}).st = .online ∧
      (getD t.vols vol {}).map = (getD s.vols vol {}).map ∧ KeepsBut [.vols] s t) ∧
  (∀ (s : State) (vol : Nat) (b : Bytes), recOf s RT.ftlVolume vol = some b → (getD s.vols vol {}).st ≠ .formatting →
    (∃ t, exec (.volumeBringup vol false) s = .next t ∧ (getD t.vols vol {}).asking = true ∧ (getD t.vols vol {}).ident = [] ∧
      ∀ i < le b 2 1, ∃ x ∈ (side t.tier (dieOf (le b 0 1))).trayReqs, x.why = .identify vol i ∧ x.port = volPort s vol i) ∧
    ((getD s.vols vol {}).asking = true → ∃ t, exec (.volumeBringup vol true) s = .next t ∧ (getD t.vols vol {}).asking = false ∧
      (getD t.vols vol {}).reason = offlineReason s vol ∧
      (offlineReason s vol ≠ 0 → (getD t.vols vol {}).st = .offline) ∧
      (∀ new, new = (((getD s.vols vol {}).ident.filter (fun i => get? (getD s.vols vol {}).serials i.1 != some (le i.2 0 8))).map (·.1)) →
        offlineReason s vol = 0 →
        (getD t.vols vol {}).st = (if new.isEmpty then .online else .formatting) ∧
        ∀ i ∈ new, ∃ x ∈ (side t.tier (dieOf (le b 0 1))).trayReqs, x.why = .erase (volPort s vol i) 0))) ∧
  (∀ (s : State) (vol page : Nat), NothingCopies s →
    ∃ t, exec (.mapPageLoadDone vol page) s = .next t ∧ KeepsBut [.vols] s t ∧
      (getD t.vols vol {}).toLoad = (getD s.vols vol {}).toLoad.filter (fun p => p != page)) ∧
  (∀ (s : State) (d : Die), (side s.ftl d).ckptRun = none → ringCap ≤ 2 * (side s.ftl d).ringBytes ∨ 2 ^ 24 ≤ (side s.ftl d).sinceCkpt →
    ∃ t, exec (.checkpointStart d) s = .next t ∧
      (side t.ftl d).ckptRun = some ((side s.ftl d).ckptX.valid &&
        (!(side s.ftl d).ckptY.valid || decide ((side s.ftl d).ckptY.start < (side s.ftl d).ckptX.start)), (side s.ftl d).nextLsn) ∧
      ∀ toY, (side t.ftl d).ckptRun = some (toY, (side s.ftl d).nextLsn) →
        (if toY then (side t.ftl d).ckptY else (side t.ftl d).ckptX).valid = false ∧
        (if toY then (side t.ftl d).ckptY else (side t.ftl d).ckptX).records = s.cfg.records ∧
        (if toY then (side t.ftl d).ckptY else (side t.ftl d).ckptX).blocks = (side s.ftl d).blocks) ∧
  (∀ (s : State) (d : Die) (toY : Bool) (start : Nat), (side s.ftl d).ckptRun = some (toY, start) → start ≤ (side s.ftl d).nextLsn →
    (side s.ftl d).mapLeft = [] → (∀ p ∈ (side s.ftl d).progs, p.maps = []) →
    ∃ t, exec (.checkpointEnd d) s = .next t ∧ (side t.ftl d).ckptRun = none ∧
      (if toY then (side t.ftl d).ckptY else (side t.ftl d).ckptX).valid = true ∧
      (if toY then (side t.ftl d).ckptY else (side t.ftl d).ckptX).digest = ckptDigest d start ∧
      (∀ r ∈ (side t.ftl d).ring, start ≤ r.lsn) ∧ side t.sec.tapMarks d = side s.mtr.tapSeq d) ∧
  (∀ (s : State) (d : Die) (lsn : Nat), ∃ t, exec (.journalTailOnMedia d lsn) s = .next t ∧
    (side t.ftl d).mediaLsn = max (side s.ftl d).mediaLsn (min lsn ((side s.ftl d).nextLsn - 1)) ∧
    ∀ x ∈ (side s.ftl d).eraseWait, x.1 ≤ (side t.ftl d).mediaLsn → blockRead s d x.2.2 = false → x ∉ (side t.ftl d).eraseWait) ∧
  (∀ (s : State) (d : Die), (side s.ftl d).closing = [] → (side s.ftl d).eraseWait = [] →
    (side s.ftl d).ringBytes + sumOf ((side s.ftl d).ringWait.map jSize) ≤ ringCap →
    ∃ t, exec (.journalRingWaitEnd d) s = .next t ∧ (side t.ftl d).ringWait = [] ∧
      (side t.ftl d).ring.map (·.body) = (side s.ftl d).ring.map (·.body) ++ (side s.ftl d).ringWait)

/-- In every state with a SES_WAKE or SES_SLEEP of a registered session from its owner that passes its checks: SES_WAKE of an AWAKE session
is answered OK with PAGES and TOKENS and SES_SLEEP of one ASLEEP OK, with no other effect; SES_SLEEP of an AWAKE session, into a pack
extent that is suitable and active, with quota for the packs, leaves it SLEEPING with its move queued; SES_WAKE of one ASLEEP, into a
suitable and active extent, below the awake limit and with quota for its pages, leaves it WAKING with no layer resident and its move
queued. SES_SLEEP_DONE, with a slot and no earlier operation of the session in flight, makes the packs and starts copying the pages into
them; once the copying is over it leaves the session ASLEEP with those packs, no page with an object, and answers OK; where a pack finds
no room or its copying fails the session is AWAKE with its pages as before and SLEEP_FAIL set. SES_WAKE_LAYER_DONE, with a slot, creates
the next layer's pages and starts filling them from its pack, and once they are filled, or where the layer has no pages, makes that
layer resident; SES_WAKE_DONE with every layer resident leaves it AWAKE in the extent it woke into and answers OK. (R246, R247, R248,
R249, R250) -/
def Obligations.SessionsWakeAndSleep : Prop :=
  (∀ (s : State) (d : Die) (f : Frame) (x : Session), SesTaken s d f → f.payload.length = 8 → fld f.addr.toNat 31 0 = 0 →
    le f.payload 0 4 < 2 ^ 20 → sesOf s (sesId f) = some x → ownsSes s f x.owner x.ext = true →
    (f.opcode = Opc.sesWake → zeroAt f.payload 4 4 = true → x.st = .awake →
      exec (.sesWake d f) s = .next (answer d f Sts.ok (toLE 4 x.pages.length ++ toLE 4 (tokensOf x)) (takeHome d f s))) ∧
    (f.opcode = Opc.sesSleep → (le f.payload 4 1 = 1 ∨ le f.payload 4 1 = 2) → zeroAt f.payload 5 3 = true →
      (x.st = .asleep → exec (.sesSleep d f) s = .next (answer d f Sts.ok [] (takeHome d f s))) ∧
      (∀ e, x.st = .awake → extOf s (le f.payload 0 4) = some e → e.classT = true → policyPermits e (le f.payload 4 1) = true →
        e.owner = x.owner → extActive s d e.idx = true → extActive s d x.ext = true → opRoom s d = true → queueRoom s d = true →
        overLimit s x.owner (le f.payload 4 1) (packGranules x) = false →
        ∃ t, exec (.sesSleep d f) s = .next t ∧ get? t.sessions (sesId f) = some { x with
            st := .sleeping, packExt := e.idx, packTier := le f.payload 4 1, newPacks := [], req := some f } ∧ OtherSes s t (sesId f) ∧
          sesMove (sesId f) (le f.payload 4 1) x.owner (.sleep (sesId f)) ∈ (side t.tier d).moves ∧
          KeepsBut ([.sessions, .ctxs, .tierMoves] ++ opParts) s t)) ∧
    (∀ e n0 n1, f.opcode = Opc.sesWake → zeroAt f.payload 4 4 = true → x.st = .asleep → extOf s (le f.payload 0 4) = some e →
      wakesInto s x e = true → extActive s d e.idx = true → awakeCount s < 65536 → opRoom s d = true → queueRoom s d = true →
      wakeCharges s x e = some (n0, n1) →
      ∃ t, exec (.sesWake d f) s = .next t ∧ get? t.sessions (sesId f) = some { x with
          st := .waking, wakeExt := e.idx, resident := 0, chargeT0 := n0, chargeT1 := n1, req := some f } ∧ OtherSes s t (sesId f) ∧
        n0 + n1 = x.pages.length ∧ sesMove (sesId f) 0 x.owner (.wake (sesId f)) ∈ (side t.tier d).moves ∧
        KeepsBut ([.sessions, .ctxs, .tierMoves] ++ opParts) s t)) ∧
  (∀ (s : State) (ses : Nat) (d : Die) (o : Op) (x : Session) (e : ExtV), sesOp s (.sleep ses) = some (d, o) → get? s.sessions ses = some x →
    x.st = .sleeping → earlierOps s d ses o.id = false → sesMoving s d ses = true → extOf s x.packExt = some e →
    (∀ steps u c, jobFor s d (.sleep ses) = none → e.durable = false ∨ ringFull s e.die 4096 = false →
      makePacks x ses e (rangeFrom 0 x.layers) s = some (steps, u) → c = startCopy d (.sleep ses) steps u →
      copyEnded c d (.sleep ses) = false → exec (.sesSleepDone ses) s = .next c) ∧
    (∀ j, jobFor s d (.sleep ses) = some j → j.steps = [] → j.failed = none → (e.durable || x.image) = false ∨ ringFull s d 4096 = false →
      ∃ v y, exec (.sesSleepDone ses) s = .next (answer d o.frame Sts.ok [] v) ∧ get? v.sessions ses = some y ∧ y.st = .asleep ∧
        y.pages = x.pages.map (fun p => { p with obj := noObj }) ∧ y.packs = x.newPacks ∧ y.image = e.durable ∧ y.owner = x.owner ∧
        OtherSes s v ses ∧ (∀ q ∈ (side v.col d).ops, q.id ≠ o.id)) ∧
    (∀ st, (∃ j, jobFor s d (.sleep ses) = some j ∧ j.failed = some st) ∨
        (st = Sts.retry ∧ jobFor s d (.sleep ses) = none ∧ (e.durable = false ∨ ringFull s e.die 4096 = false) ∧
          makePacks x ses e (rangeFrom 0 x.layers) s = none) →
      ∃ v, exec (.sesSleepDone ses) s = .next (answer d o.frame st [] v) ∧
        get? v.sessions ses = some { x with st := .awake, newPacks := [], req := none } ∧ OtherSes s v ses ∧
        (x.newPacks = [] → v.objs = s.objs ∧ v.mem = s.mem) ∧ (side v.tier d).status.bits.getLsbD 4 = true)) ∧
  (∀ (s : State) (ses : Nat) (d : Die) (o : Op) (x : Session) (e : ExtV), sesOp s (.wake ses) = some (d, o) → get? s.sessions ses = some x →
    x.st = .waking → NoneWaits s ses →
    (x.resident < x.layers → sesMoving s d ses = true →
      (packOrder x x.resident = [] → jobFor s d (.wake ses) = none → extOf s x.wakeExt = some e → ∃ t, exec (.sesWakeLayerDone ses) s = .next t ∧
        get? t.sessions ses = some { x with resident := x.resident + 1 } ∧ OtherSes s t ses ∧ KeepsBut [.sessions] s t) ∧
      (∀ id pack steps u c, packOrder x x.resident ≠ [] → jobFor s d (.wake ses) = none → extOf s x.wakeExt = some e →
        get? x.packs x.resident = some id → get? s.objs id = some pack → pack.homeLost = false →
        wakePages x ses e pack 0 (packOrder x x.resident) s = some (steps, u) → c = startCopy d (.wake ses) (fetchObj pack ++ steps) u →
        copyEnded c d (.wake ses) = false → exec (.sesWakeLayerDone ses) s = .next c) ∧
      (∀ j, jobFor s d (.wake ses) = some j → j.steps = [] → j.failed = none → ∃ t, exec (.sesWakeLayerDone ses) s = .next t ∧
        get? t.sessions ses = some { x with resident := x.resident + 1 } ∧ OtherSes s t ses ∧ jobFor t d (.wake ses) = none ∧
        KeepsBut [.sessions, .tierCopies] s t)) ∧
    (x.layers ≤ x.resident → x.image = false ∨ ringFull s d 4096 = false →
      ∃ v y, exec (.sesWakeDone ses) s = .next (answer d o.frame Sts.ok (toLE 4 x.pages.length ++ toLE 4 (tokensOf x)) v) ∧
      get? v.sessions ses = some y ∧ y.st = .awake ∧ y.ext = x.wakeExt ∧ y.pages = x.pages ∧ (x.image = true → y.packs = x.packs) ∧
      (x.image = false → y.packs = []) ∧ OtherSes s v ses ∧ ∀ q ∈ (side v.col d).ops, q.id ≠ o.id))

/-- In every state with a request that passes its checks: OPEN registers a session AWAKE with the geometry of its body, every LEN 0 and no
pages; FORK registers one with the source's geometry, every LEN at PREFIX and the source's pages below PREFIX, each with its REFCOUNT
raised for every listing, and is answered at once where their headers lie in T0; APPEND with a FIRST_TOKEN other than LEN, its rows at
hand, is answered STALE with LEN and changes no session and no memory; APPEND of one token inline, to a session of one head group, into
a page that is listed, not shared and in T0, leaves the K and V rows in the page and LEN one higher; CLOSE is accepted and answered
later; ATT_CLOSE_DONE, with no earlier operation in flight, leaves the ID unregistered and answers OK; ATT_ATTEND of one entry that need
not wait, whose window is held and that needs at least one item, holds the snapshot taken now and exactly the items of R356; RING_REUSE
performs an APPEND that waits for nothing any more, its data at hand, and changes nothing where none waits. (R340, R342, R343, R344,
R346, R347, R349, R350, R354, R356) -/
def Obligations.AttentionCommandsComplete : Prop :=
  (∀ (s : State) (d : Die) (f : Frame) (e : ExtV), isSub f 1 = true → SesTaken s d f → openFormBad s f = none →
    extOf s (le f.payload 0 4) = some e → get? s.sessions (sesId f) = none → ownsSes s f e.owner e.idx = true →
    extActive s d e.idx = true → opRoom s d = true → awakeCount s < 65536 →
    ∃ u x, exec (.attOpen d f) s = .next (attAnswer d f Sts.ok 0 u) ∧ get? u.sessions (sesId f) = some x ∧ x.st = .awake ∧
      x.owner = e.owner ∧ x.ext = e.idx ∧ x.layers = le f.payload 4 2 ∧ x.groups = le f.payload 6 2 ∧ x.dim = le f.payload 8 2 ∧
      x.qheads = le f.payload 10 1 ∧ x.log2 = le f.payload 11 1 ∧ x.fmt = le f.payload 12 1 ∧ x.service = le f.payload 13 1 ∧
      x.ringExtra = le f.payload 14 1 ∧ x.window = le f.payload 16 4 ∧ x.pages = [] ∧ (∀ l, lenOf x l = 0) ∧ OtherSes s u (sesId f) ∧
      KeepsBut (.sessions :: (takeParts ++ countParts)) s u) ∧
  (∀ (s : State) (d : Die) (f : Frame) (x : Session), isSub f 3 = true → SesTaken s d f → f.payload.length = 16 → sesHandleOk f = true →
    le f.payload 0 4 < 2 ^ 20 → zeroAt f.payload 8 8 = true → get? s.sessions (sesId f) = none → sesOf s (le f.payload 0 4) = some x →
    ownsSes s f x.owner x.ext = true → x.st = .awake → extActive s d x.ext = true → opRoom s d = true → x.window = 0 →
    le f.payload 4 4 ≤ tokensOf x → awakeCount s < 65536 →
    indexRoom s d (x.pages.filter (fun p => decide (p.first < le f.payload 4 4))).length = true → FreshOp s d → 1 ≤ x.layers →
    fetchSteps s d (headRanges s (x.pages.filter (fun p => decide (p.first < le f.payload 4 4)))) = [] →
    ∃ u y, exec (.attFork d f) s = .next (attAnswer d f Sts.ok (le f.payload 4 4) u) ∧ get? u.sessions (sesId f) = some y ∧ y.st = .awake ∧
      (∀ l < x.layers, lenOf y l = le f.payload 4 4) ∧ y.pages = x.pages.filter (fun p => decide (p.first < le f.payload 4 4)) ∧
      y.layers = x.layers ∧ y.groups = x.groups ∧ y.dim = x.dim ∧ y.ext = x.ext ∧ y.service = x.service ∧ OtherSes s u (sesId f) ∧
      (∀ id o, get? s.objs id = some o → ∃ q, get? u.objs id = some q ∧
        q.refcount = o.refcount + (y.pages.filter (fun p => p.obj == id)).length)) ∧
  (∀ (s : State) (d : Die) (f : Frame) (x : Session), AppendReady s d f x → le f.payload 4 4 ≠ lenOf x (le f.payload 0 2) →
    fetchSteps s d (rowRange s x f) = [] →
    ∃ u, exec (.attAppend d f) s = .next (attAnswer d f Sts.stale (lenOf x (le f.payload 0 2)) u) ∧ KeepsBut opParts s u) ∧
  (∀ (s : State) (d : Die) (f : Frame) (x : Session) (p : PageEnt) (o : Obj) (first start : Nat), AppendReady s d f x →
    first = lenOf x (le f.payload 0 2) → le f.payload 4 4 = first → first + 1 ≤ 0xFFFFFFFE → x.groups = 1 → le f.payload 2 2 = 1 →
    le f.payload 8 8 = 0 → start = first / 2 ^ x.log2 * 2 ^ x.log2 →
    x.pages.find? (fun q => q.layer == le f.payload 0 2 && q.group == 0 && q.first == start) = some p → get? s.objs p.obj = some o →
    o.refcount ≤ 1 → fetchSteps s d (appendRanges s x f (fun _ => false)) = [] →
    ∃ u y, exec (.attAppend d f) s = .next (attAnswer d f Sts.ok (first + 1) u) ∧ get? u.sessions (sesId f) = some y ∧
      lenOf y (le f.payload 0 2) = first + 1 ∧ (∀ l, l ≠ le f.payload 0 2 → lenOf y l = lenOf x l) ∧ y.pages = x.pages ∧
      OtherSes s u (sesId f) ∧
      readMem u (o.addr + 64 + (first - start) * rowBytes x) (rowBytes x) = slice f.payload 32 (rowBytes x) ∧
      readMem u (o.addr + 64 + 2 ^ x.log2 * rowBytes x + (first - start) * rowBytes x) (rowBytes x) =
        slice f.payload (32 + rowBytes x) (rowBytes x)) ∧
  (∀ (s : State) (d : Die) (f : Frame) (x : Session), isSub f 2 = true → SesTaken s d f → f.payload = [] → sesHandleOk f = true →
    sesOf s (sesId f) = some x → ownsSes s f x.owner x.ext = true → x.st = .awake ∨ x.st = .asleep → extActive s d x.ext = true ∨ extPhase s d x.ext = .revoked →
    opRoom s d = true →
    ∃ t, exec (.attClose d f) s = .next t ∧ get? t.sessions (sesId f) = some { x with closing := some f } ∧ OtherSes s t (sesId f) ∧
      KeepsBut (.sessions :: opParts) s t) ∧
  (∀ (s : State) (ses : Nat) (d : Die) (o : Op) (x : Session), sesOp s (.close ses) = some (d, o) → get? s.sessions ses = some x →
    earlierOps s d ses o.id = false → x.image = false ∨ ringFull s d 4096 = false →
    ∃ u, exec (.attCloseDone ses) s = .next (attAnswer d o.frame Sts.ok (tokensOf x) u) ∧ get? u.sessions ses = none ∧ OtherSes s u ses ∧
      ∀ q ∈ (side u.col d).ops, q.id ≠ o.id) ∧
  (∀ (s : State) (d : Die) (f : Frame) (x : Session) (e : ExtV) (sn : Snap) (items : List AttItem), f.opcode = Opc.attAttend → SesTaken s d f →
    attFormBad f = none → le f.payload 9 1 = 1 → sesOf s (sesId f) = some x → attGeomBad s d f.payload [x] = none → x.st = .awake →
    extActive s d x.ext = true → extOf s x.ext = some e → bitAt (rightsOn s e f.ctx.toNat) 0 = true → opRoom s d = true →
    serviceServes s d x.service = true → FreshOp s d → appendAhead s d (sesId f) (le f.payload 0 2) (side s.col d).nextOp = false →
    sn = snapOf s (attView f.payload) (nth (attEntries f.payload) 0 (0, 0, 0)) → windowLost x (attView f.payload) sn = false →
    items = (attGroups (attView f.payload) x.qheads [sn]).flatMap (fun g => (groupItems x sn g.1 g.2.1 g.2.2).1) → items ≠ [] →
    ∃ t o, exec (.attAttend d f) s = .next t ∧ opOf t d (side s.col d).nextOp = some o ∧ o.frame = f ∧ o.snaps = [sn] ∧ o.items = items ∧
      o.left = rangeFrom 0 items.length ∧ o.waits = none ∧ t.sessions = s.sessions ∧ t.objs = s.objs ∧ t.mem = s.mem) ∧
  (∀ (s : State) (ses : Nat), NoneWaits s ses → exec (.ringReuse ses) s = .next s) ∧
  (∀ (s : State) (ses : Nat) (o : Op) (x : Session), s.col.d0.ops = [o] → s.col.d1.ops = [] → o.kind = .append →
    o.waits.isSome = true → o.fetched = false → opOn o ses = true → appendWait s .d0 o.id o.frame = none → get? s.sessions ses = some x →
    jobFor s .d0 (.read o.id) = none → fetchSteps s .d0 (rowRange s x o.frame ++ appendRanges s x o.frame (fun _ => false)) = [] →
    exec (.ringReuse ses) s = .next (appendNow .d0 o.id (modOp .d0 o.id (fun y => { y with waits := some .data }) s)))

/-- In every state in which a pod core may issue an instruction of its current thread, with the unused fields of the word zero: NOP moves
the pc on; JMP goes to IMM, inside the code, and faults FORMAT outside; BEQ, BNE, BLT and BLTU go to IMM, inside the code, exactly if
their test holds of s[A] and s[B]; RDFLG moves the flags to s[D] and clears them; RDPACE and RDTIME read the die's pace and interval
timer; INFO with 0x10 marks the item; where no stage program runs or will start, END ends the thread, FAULT faults it with IMM bits 4:0,
BAR holds it while some other thread of the item has neither reached a barrier nor ended, and lets every thread that waits go on when
all have. A write of s0 has no effect, one of another scalar register changes that one only. An instruction of any row with bit 24 set
faults FORMAT. (R283, R285, R287, R288, R299, R300, R301) -/
def Obligations.PodControlInstructionsComplete : Prop :=
  (∀ (th : Thread) (n m : Nat) (v : Word), sreg (setSreg th n v) m = if m = 0 then 0 else if m = n then v else sreg th m) ∧
  (∀ (s : State) (d : Die) (p : Nat) (w : PodF), canIssue (coreOf s d p) = true → w.bit24 = true →
    ∀ i ∈ podRows, Faults (i d p w) s d p Sts.format) ∧
  (∀ (s : State) (d : Die) (p : Nat) (w : PodF), canIssue (coreOf s d p) = true →
    fieldsOk w false false false false false false false false = true →
    (∃ t, exec (.podNop d p w) s = .next t ∧ Issued s t d p (coreOf s d p) (curThread s d p) ((curThread s d p).pc + 1) []) ∧
    (NoStage (coreOf s d p) → ∃ t, exec (.podEnd d p w) s = .next t ∧ KeepsBut [.podCores] s t ∧
      threadOf (coreOf t d p) (coreOf s d p).cur = { curThread s d p with st := .ended } ∧ (coreOf t d p).issued = (coreOf s d p).issued + 1) ∧
    (NoStage (coreOf s d p) →
      (∃ i, i ≠ (coreOf s d p).cur ∧ live (threadOf (coreOf s d p) i) = true ∧ (threadOf (coreOf s d p) i).st ≠ .atBar) →
      ∃ t, exec (.podBar d p w) s = .next t ∧ KeepsBut [.podCores] s t ∧
        threadOf (coreOf t d p) (coreOf s d p).cur = { curThread s d p with pc := (curThread s d p).pc + 1, st := .atBar }) ∧
    (NoStage (coreOf s d p) →
      (put (coreOf s d p).threads (coreOf s d p).cur { curThread s d p with st := .atBar }).all (fun x => x.2.st == .atBar || !live x.2) = true →
      ∃ t, exec (.podBar d p w) s = .next t ∧ KeepsBut [.podCores] s t ∧ (coreOf t d p).cur = (coreOf s d p).cur ∧
        threadOf (coreOf t d p) (coreOf s d p).cur = { curThread s d p with pc := (curThread s d p).pc + 1 } ∧
        ∀ i, (threadOf (coreOf s d p) i).st = .atBar → i ≠ (coreOf s d p).cur → (threadOf (coreOf t d p) i).st = .ready)) ∧
  (∀ (s : State) (d : Die) (p : Nat) (w : PodF), canIssue (coreOf s d p) = true →
    fieldsOk w false false false false false false false true = true →
    (w.imm.toNat < 2 ^ 13 →
      (w.imm.toNat < codeWords (coreOf s d p) →
        ∃ t, exec (.podJmp d p w) s = .next t ∧ Issued s t d p (coreOf s d p) (curThread s d p) w.imm.toNat []) ∧
      (codeWords (coreOf s d p) ≤ w.imm.toNat → Faults (.podJmp d p w) s d p Sts.format)) ∧
    (w.imm = 0x10 → ∃ t, exec (.podInfo d p w) s = .next t ∧
      Issued s t d p { coreOf s d p with info := true } (curThread s d p) ((curThread s d p).pc + 1) []) ∧
    (w.imm ≠ 0x10 → Faults (.podInfo d p w) s d p Sts.format) ∧
    (NoStage (coreOf s d p) → w.imm.toNat < 32 → ∃ t, exec (.podFault d p w) s = .next t ∧ KeepsBut [.podCores] s t ∧
      threadOf (coreOf t d p) (coreOf s d p).cur = { curThread s d p with st := .faulted (BitVec.ofNat 5 w.imm.toNat) })) ∧
  (∀ x ∈ ([(.podBeq, fun a b => decide (a = b)), (.podBne, fun a b => decide (a ≠ b)), (.podBlt, fun a b => decide (a.toInt < b.toInt)),
      (.podBltu, fun a b => decide (a.toNat < b.toNat))] : List ((Die → Nat → PodF → Instr) × (Word → Word → Bool))),
    ∀ (s : State) (d : Die) (p : Nat) (w : PodF), canIssue (coreOf s d p) = true →
      fieldsOk w false true true false false false false true = true → w.imm.toNat < 2 ^ 13 → w.imm.toNat < codeWords (coreOf s d p) →
      ∃ t, exec (x.1 d p w) s = .next t ∧ Issued s t d p (coreOf s d p) (curThread s d p)
        (if x.2 (sreg (curThread s d p) w.a.toNat) (sreg (curThread s d p) w.b.toNat) then w.imm.toNat else (curThread s d p).pc + 1) []) ∧
  (∀ (s : State) (d : Die) (p : Nat) (w : PodF), canIssue (coreOf s d p) = true →
    fieldsOk w true false false false false false false false = true →
    (∃ t, exec (.podRdflg d p w) s = .next t ∧ Issued s t d p (coreOf s d p)
      { setSreg (curThread s d p) w.d.toNat ((curThread s d p).flags.setWidth 64) with flags := 0 } ((curThread s d p).pc + 1) []) ∧
    (∃ t, exec (.podRdpace d p w) s = .next t ∧ Issued s t d p (coreOf s d p)
      (setSreg (curThread s d p) w.d.toNat (BitVec.ofNat 64 (side s.mod.dies d).pace)) ((curThread s d p).pc + 1) []) ∧
    (∃ t, exec (.podRdtime d p w) s = .next t ∧ Issued s t d p (coreOf s d p)
      (setSreg (curThread s d p) w.d.toNat (BitVec.ofNat 64 (timerOf s d))) ((curThread s d p).pc + 1) []))

/-- In every state in which a pod core may issue an instruction of its current thread, with the unused fields of the word zero: ADD, SUB,
MUL, AND, OR, XOR, SHL, SHR, SRA, MIN, MAX, SLT and SLTU leave s[D] at the function of s[A] and s[B] that R300 gives, shifts by s[B] mod
64, MIN, MAX and SLT signed; ADDI adds the sign extension of IMM; LI is that extension; LIM puts IMM into bits 47:24 and zeros above,
keeping bits 23:0; LIT puts IMM bits 15:0 into bits 63:48 and keeps the rest. SLD and SST move 8 bytes between a register and scratch at
s[A] + sext(IMM); one with a byte outside scratch faults LENGTH, one inside but not aligned ALIGN. Bytes written to scratch read back,
and no other byte of scratch changes. Each moves the pc on, and changes nothing else. (R283, R288, R300, R301) -/
def Obligations.PodScalarInstructionsComplete : Prop :=
  (∀ (c : Core) (a : Nat) (b : Bytes), scratchGet (scratchPut c a b) a b.length = b ∧
    ∀ x, x < a ∨ a + b.length ≤ x → scratchByte (scratchPut c a b) x = scratchByte c x) ∧
  (∀ x ∈ ([(.podAdd, fun a b => BitVec.ofNat 64 (a.toNat + b.toNat)), (.podSub, fun a b => BitVec.ofInt 64 (a.toNat - b.toNat)),
      (.podMul, fun a b => BitVec.ofNat 64 (a.toNat * b.toNat)), (.podAnd, fun a b => a &&& b), (.podOr, fun a b => a ||| b),
      (.podXor, fun a b => a ^^^ b), (.podShl, fun a b => BitVec.ofNat 64 (a.toNat * 2 ^ (b.toNat % 64))),
      (.podShr, fun a b => BitVec.ofNat 64 (a.toNat / 2 ^ (b.toNat % 64))), (.podSra, fun a b => BitVec.ofInt 64 (a.toInt / 2 ^ (b.toNat % 64))),
      (.podMin, fun a b => if a.toInt < b.toInt then a else b), (.podMax, fun a b => if a.toInt < b.toInt then b else a),
      (.podSlt, fun a b => if a.toInt < b.toInt then 1 else 0), (.podSltu, fun a b => if a.toNat < b.toNat then 1 else 0)] :
        List ((Die → Nat → PodF → Instr) × (Word → Word → Word))),
    ∀ (s : State) (d : Die) (p : Nat) (w : PodF), canIssue (coreOf s d p) = true →
      fieldsOk w true true true false false false false false = true →
      ∃ t, exec (x.1 d p w) s = .next t ∧ Issued s t d p (coreOf s d p)
        (setSreg (curThread s d p) w.d.toNat (x.2 (sreg (curThread s d p) w.a.toNat) (sreg (curThread s d p) w.b.toNat)))
        ((curThread s d p).pc + 1) []) ∧
  (∀ (s : State) (d : Die) (p : Nat) (w : PodF), canIssue (coreOf s d p) = true →
    (fieldsOk w true true false false false false false true = true →
      ∃ t, exec (.podAddi d p w) s = .next t ∧ Issued s t d p (coreOf s d p) (setSreg (curThread s d p) w.d.toNat
        (sreg (curThread s d p) w.a.toNat + w.imm.signExtend 64)) ((curThread s d p).pc + 1) []) ∧
    (fieldsOk w true false false false false false false true = true →
      (∃ t, exec (.podLi d p w) s = .next t ∧ Issued s t d p (coreOf s d p) (setSreg (curThread s d p) w.d.toNat (w.imm.signExtend 64))
        ((curThread s d p).pc + 1) []) ∧
      (∃ t v, exec (.podLim d p w) s = .next t ∧ Issued s t d p (coreOf s d p) (setSreg (curThread s d p) w.d.toNat v)
        ((curThread s d p).pc + 1) [] ∧
        (∀ i < 24, v.getLsbD i = (sreg (curThread s d p) w.d.toNat).getLsbD i ∧ v.getLsbD (24 + i) = w.imm.getLsbD i) ∧
        (∀ i < 16, v.getLsbD (48 + i) = false)) ∧
      (w.imm.toNat < 2 ^ 16 →
        ∃ t v, exec (.podLit d p w) s = .next t ∧ Issued s t d p (coreOf s d p) (setSreg (curThread s d p) w.d.toNat v)
          ((curThread s d p).pc + 1) [] ∧
          (∀ i < 48, v.getLsbD i = (sreg (curThread s d p) w.d.toNat).getLsbD i) ∧ (∀ i < 16, v.getLsbD (48 + i) = w.imm.getLsbD i)) ∧
      (2 ^ 16 ≤ w.imm.toNat → Faults (.podLit d p w) s d p Sts.format))) ∧
  (∀ (s : State) (d : Die) (p : Nat) (w : PodF) (a : Nat), canIssue (coreOf s d p) = true →
    a = (sreg (curThread s d p) w.a.toNat + w.imm.signExtend 64).toNat →
    (fieldsOk w true true false false false false false true = true →
      (a + 8 ≤ 0x40000 → a % 8 = 0 → ∃ t, exec (.podSld d p w) s = .next t ∧ Issued s t d p (coreOf s d p)
        (setSreg (curThread s d p) w.d.toNat (BitVec.ofNat 64 (leNat (scratchGet (coreOf s d p) a 8)))) ((curThread s d p).pc + 1) []) ∧
      (0x40000 < a + 8 → Faults (.podSld d p w) s d p Sts.length) ∧
      (a + 8 ≤ 0x40000 → a % 8 ≠ 0 → Faults (.podSld d p w) s d p Sts.align)) ∧
    (fieldsOk w false true true false false false false true = true →
      (a + 8 ≤ 0x40000 → a % 8 = 0 → ∃ t, exec (.podSst d p w) s = .next t ∧ Issued s t d p
        (scratchPut (coreOf s d p) a (toLE 8 (sreg (curThread s d p) w.b.toNat).toNat)) (curThread s d p) ((curThread s d p).pc + 1) []) ∧
      (0x40000 < a + 8 → Faults (.podSst d p w) s d p Sts.length) ∧
      (a + 8 ≤ 0x40000 → a % 8 ≠ 0 → Faults (.podSst d p w) s d p Sts.align)))

/-- In every state in which a pod core may issue an instruction of its current thread, with the unused fields of the word zero and register
numbers below 16: VADD, VSUB, VMUL, VMIN, VMAX and VCMPLT give v[D], lane by lane, the function of v[A] and v[B] for FP32 or INT32; VFMA
a times b plus c rounded once; VEXP2, VLOG2, VRCP and VRSQ theirs; VSEL the lane of A where the lane of C is not zero and of B
elsewhere; VBCS s[A] bits 31:0; VIDX s[A] + i; VCVT the converted lane; each or's the flags of its lanes into the sticky flags and
changes no other register. VMVS gives s[D] one lane. VLD gives v[D] the 64 elements at s[A] + sext(IMM), widened (an MX element beyond
FP32 takes a free value, a DESIGN CHOICE, log 32); VST stores v[B] narrowed or quantised; VLDB gives every lane 4 bytes; each of the
three faults LENGTH with a byte outside scratch and ALIGN off a multiple of 4. (R288, R292, R293, R294, R295, R296, R300, R301) -/
def Obligations.PodVectorInstructionsComplete : Prop :=
  (∀ x ∈ ([(.podVadd, true, fAdd, fun a b => a + b), (.podVsub, true, fSub, fun a b => a - b), (.podVmul, true, fMul, fun a b => a * b),
      (.podVmin, true, fun _ a b => (fMin a b, 0), fun a b => if a.toInt < b.toInt then a else b),
      (.podVmax, true, fun _ a b => (fMax a b, 0), fun a b => if a.toInt < b.toInt then b else a),
      (.podVcmplt, false, fun _ a b => (if numLt (ofFp32 a) (ofFp32 b) then 0xFFFFFFFF else 0, 0),
        fun a b => if a.toInt < b.toInt then 0xFFFFFFFF else 0)] :
      List ((Die → Nat → PodF → Instr) × Bool × (Nat → BitVec 32 → BitVec 32 → BitVec 32 × Nat) × (BitVec 32 → BitVec 32 → BitVec 32))),
    ∀ (s : State) (d : Die) (p : Nat) (w : PodF), canIssue (coreOf s d p) = true →
      fieldsOk w true true true false true x.2.1 false false = true → w.d.toNat < 16 → w.a.toNat < 16 → w.b.toNat < 16 →
      (w.fmt = 0 → ∃ t, exec (x.1 d p w) s = .next t ∧ LanesDone s t d p w.d.toNat
        (fun i => (x.2.2.1 w.rnd.toNat (laneOf (curThread s d p) w.a.toNat i) (laneOf (curThread s d p) w.b.toNat i)).1)
        (fun i => (x.2.2.1 w.rnd.toNat (laneOf (curThread s d p) w.a.toNat i) (laneOf (curThread s d p) w.b.toNat i)).2)) ∧
      (w.fmt = 0xB → ∃ t, exec (x.1 d p w) s = .next t ∧ LanesDone s t d p w.d.toNat
        (fun i => x.2.2.2 (laneOf (curThread s d p) w.a.toNat i) (laneOf (curThread s d p) w.b.toNat i)) (fun _ => 0))) ∧
  (∀ x ∈ ([(.podVexp2, fExp2), (.podVlog2, fLog2), (.podVrcp, fRcp), (.podVrsq, fRsq)] :
      List ((Die → Nat → PodF → Instr) × (Nat → BitVec 32 → BitVec 32 × Nat))),
    ∀ (s : State) (d : Die) (p : Nat) (w : PodF), canIssue (coreOf s d p) = true →
      fieldsOk w true true false false false true false false = true → w.d.toNat < 16 → w.a.toNat < 16 →
      ∃ t, exec (x.1 d p w) s = .next t ∧ LanesDone s t d p w.d.toNat (fun i => (x.2 w.rnd.toNat (laneOf (curThread s d p) w.a.toNat i)).1)
        (fun i => (x.2 w.rnd.toNat (laneOf (curThread s d p) w.a.toNat i)).2)) ∧
  (∀ (s : State) (d : Die) (p : Nat) (w : PodF), canIssue (coreOf s d p) = true → w.d.toNat < 16 →
    (w.a.toNat < 16 → w.b.toNat < 16 → w.c.toNat < 16 →
      (fieldsOk w true true true true true true false false = true → w.fmt = 0 → ∃ t, exec (.podVfma d p w) s = .next t ∧ LanesDone s t d p w.d.toNat
        (fun i => (fFma w.rnd.toNat (laneOf (curThread s d p) w.a.toNat i) (laneOf (curThread s d p) w.b.toNat i)
          (laneOf (curThread s d p) w.c.toNat i)).1)
        (fun i => (fFma w.rnd.toNat (laneOf (curThread s d p) w.a.toNat i) (laneOf (curThread s d p) w.b.toNat i)
          (laneOf (curThread s d p) w.c.toNat i)).2)) ∧
      (fieldsOk w true true true true false false false false = true → ∃ t, exec (.podVsel d p w) s = .next t ∧ LanesDone s t d p w.d.toNat
        (fun i => if laneOf (curThread s d p) w.c.toNat i = 0 then laneOf (curThread s d p) w.b.toNat i else laneOf (curThread s d p) w.a.toNat i)
        (fun _ => 0))) ∧
    (fieldsOk w true true false false false false false false = true → ∃ t, exec (.podVbcs d p w) s = .next t ∧ LanesDone s t d p w.d.toNat
      (fun _ => BitVec.ofNat 32 (sreg (curThread s d p) w.a.toNat).toNat) (fun _ => 0)) ∧
    (fieldsOk w true true false false true false false false = true → w.fmt = 0xB → ∃ t, exec (.podVidx d p w) s = .next t ∧ LanesDone s t d p w.d.toNat
      (fun i => BitVec.ofNat 32 ((sreg (curThread s d p) w.a.toNat).toNat + i)) (fun _ => 0)) ∧
    (fieldsOk w true true false false true false false false = true → w.fmt = 0 → ∃ t, exec (.podVidx d p w) s = .next t ∧ LanesDone s t d p w.d.toNat
      (fun i => (toFp32 0 (ofInt (sreg (curThread s d p) w.a.toNat + BitVec.ofNat 64 i).toInt)).1) (fun _ => 0)) ∧
    (fieldsOk w true true false false true true true false = true → w.a.toNat < 16 → w.fmt.toNat ≤ 4 ∨ w.fmt = 0xB →
      ∃ t, exec (.podVcvt d p w) s = .next t ∧ LanesDone s t d p w.d.toNat (fun i => (cvtLane w.fmt.toNat w.rnd.toNat w.sat (laneOf (curThread s d p) w.a.toNat i)).1)
        (fun i => (cvtLane w.fmt.toNat w.rnd.toNat w.sat (laneOf (curThread s d p) w.a.toNat i)).2))) ∧
  (∀ (s : State) (d : Die) (p : Nat) (w : PodF), canIssue (coreOf s d p) = true → w.a.toNat < 16 → w.imm.toNat < 64 →
    fieldsOk w true true false false false false false true = true →
    ∃ t, exec (.podVmvs d p w) s = .next t ∧ Issued s t d p { coreOf s d p with vecs := (coreOf s d p).vecs + 1 }
      (setSreg (curThread s d p) w.d.toNat (BitVec.ofNat 64 (laneOf (curThread s d p) w.a.toNat w.imm.toNat).toNat))
      ((curThread s d p).pc + 1) []) ∧
  (∀ (s : State) (d : Die) (p : Nat) (w : PodF) (a : Nat), canIssue (coreOf s d p) = true → w.d.toNat < 16 → w.fmt.toNat ≤ 0xB →
    a = (sreg (curThread s d p) w.a.toNat + w.imm.signExtend 64).toNat →
    fieldsOk w true true false true true false false true = true →
    (a + 8 * elemBits w.fmt.toNat ≤ 0x40000 → a % 4 = 0 →
      (isMx w.fmt.toNat = true → (sreg (curThread s d p) w.c.toNat).toNat + 2 ≤ 0x40000) →
      ∃ t th, exec (.podVld d p w) s = .next t ∧ Issued s t d p (coreOf s d p) th ((curThread s d p).pc + 1) [.freeCtr] ∧
        (∀ i < 64, ∀ v, widen w.fmt.toNat
            (if isMx w.fmt.toNat then (nth (scratchGet (coreOf s d p) (sreg (curThread s d p) w.c.toNat).toNat 2) (i / 32) 0).toNat else 0)
            (elemAt (scratchGet (coreOf s d p) a (8 * elemBits w.fmt.toNat)) (elemBits w.fmt.toNat) i) = some v →
          laneOf th w.d.toNat i = v) ∧
        (∀ n i, n ≠ w.d.toNat → i < 64 → laneOf th n i = laneOf (curThread s d p) n i) ∧ th.sreg = (curThread s d p).sreg) ∧
    (0x40000 < a + 8 * elemBits w.fmt.toNat → Faults (.podVld d p w) s d p Sts.length) ∧
    (a + 8 * elemBits w.fmt.toNat ≤ 0x40000 → a % 4 ≠ 0 → Faults (.podVld d p w) s d p Sts.align)) ∧
  (∀ (s : State) (d : Die) (p : Nat) (w : PodF) (a : Nat), canIssue (coreOf s d p) = true → w.b.toNat < 16 → w.fmt.toNat ≤ 0xB →
    a = (sreg (curThread s d p) w.a.toNat + w.imm.signExtend 64).toNat →
    fieldsOk w false true true true true true true true = true →
    (a + 8 * elemBits w.fmt.toNat ≤ 0x40000 → a % 4 = 0 →
      (isMx w.fmt.toNat = false → ∃ t, exec (.podVst d p w) s = .next t ∧
        Issued s t d p (scratchPut (coreOf s d p) a (packElems (elemBits w.fmt.toNat)
          ((vreg (curThread s d p) w.b.toNat).map (fun v => (narrow w.fmt.toNat w.rnd.toNat w.sat v).1))))
          (addFlags (curThread s d p) ((vreg (curThread s d p) w.b.toNat).foldl
            (fun f v => f ||| (narrow w.fmt.toNat w.rnd.toNat w.sat v).2) 0)) ((curThread s d p).pc + 1) []) ∧
      (isMx w.fmt.toNat = true → (sreg (curThread s d p) w.c.toNat).toNat + 2 ≤ 0x40000 →
        ∃ t fl, exec (.podVst d p w) s = .next t ∧ Issued s t d p (scratchPut (scratchPut (coreOf s d p) a
            (packElems (elemBits w.fmt.toNat) ((quantise w.fmt.toNat w.rnd.toNat ((vreg (curThread s d p) w.b.toNat).take 32)).2.1 ++
              (quantise w.fmt.toNat w.rnd.toNat ((vreg (curThread s d p) w.b.toNat).drop 32)).2.1)))
            (sreg (curThread s d p) w.c.toNat).toNat
            [BitVec.ofNat 8 (quantise w.fmt.toNat w.rnd.toNat ((vreg (curThread s d p) w.b.toNat).take 32)).1,
             BitVec.ofNat 8 (quantise w.fmt.toNat w.rnd.toNat ((vreg (curThread s d p) w.b.toNat).drop 32)).1])
          (addFlags (curThread s d p) fl) ((curThread s d p).pc + 1) [])) ∧
    (0x40000 < a + 8 * elemBits w.fmt.toNat → Faults (.podVst d p w) s d p Sts.length) ∧
    (a + 8 * elemBits w.fmt.toNat ≤ 0x40000 → a % 4 ≠ 0 → Faults (.podVst d p w) s d p Sts.align)) ∧
  (∀ (s : State) (d : Die) (p : Nat) (w : PodF) (a : Nat), canIssue (coreOf s d p) = true → w.d.toNat < 16 →
    a = (sreg (curThread s d p) w.a.toNat + w.imm.signExtend 64).toNat → fieldsOk w true true false false false false false true = true →
    (a + 4 ≤ 0x40000 → a % 4 = 0 → ∃ t th, exec (.podVldb d p w) s = .next t ∧
      Issued s t d p (coreOf s d p) th ((curThread s d p).pc + 1) [] ∧
      (∀ i < 64, laneOf th w.d.toNat i = BitVec.ofNat 32 (leNat (scratchGet (coreOf s d p) a 4))) ∧
      (∀ n i, n ≠ w.d.toNat → i < 64 → laneOf th n i = laneOf (curThread s d p) n i) ∧ th.sreg = (curThread s d p).sreg) ∧
    (0x40000 < a + 4 → Faults (.podVldb d p w) s d p Sts.length) ∧ (a + 4 ≤ 0x40000 → a % 4 ≠ 0 → Faults (.podVldb d p w) s d p Sts.align))

/-- In every state in which a pod core may issue an instruction of its current thread, with the unused fields of the word zero, register
numbers below 16 and FMT FP32 or INT32: VRADD and VRMAX give every lane of v[D] the value that six levels of pairs make of the lanes of
v[A], each level combining x(2i) with x(2i + 1), by addition or by the larger; no other register of the thread changes. (R297) -/
def Obligations.VectorReductionsFollowTheTree : Prop :=
  ∀ (s : State) (d : Die) (p : Nat) (w : PodF), canIssue (coreOf s d p) = true →
    fieldsOk w true true false false true false false false = true → w.d.toNat < 16 → w.a.toNat < 16 → w.fmt = 0 ∨ w.fmt = 0xB →
    ∀ x ∈ ([(.podVradd, fun a b => if w.fmt = 0 then (fAdd 0 a b).1 else a + b),
        (.podVrmax, fun a b => if w.fmt = 0 then fMax a b else if a.toInt < b.toInt then b else a)] :
      List ((Die → Nat → PodF → Instr) × (BitVec 32 → BitVec 32 → BitVec 32))),
    ∃ t th, exec (x.1 d p w) s = .next t ∧
      Issued s t d p { coreOf s d p with vecs := (coreOf s d p).vecs + 1 } th ((curThread s d p).pc + 1) [] ∧
      (∀ k < 64, laneOf th w.d.toNat k = treeOf x.2 (laneOf (curThread s d p) w.a.toNat)) ∧
      (∀ n k, n ≠ w.d.toNat → k < 64 → laneOf th n k = laneOf (curThread s d p) n k) ∧
      th.sreg = (curThread s d p).sreg ∧ th.tile = (curThread s d p).tile ∧ th.scale = (curThread s d p).scale

/-- In every state in which a pod core may issue an instruction of its current thread, with the unused fields of the word zero: where no
other thread holds the matrix unit, MZERO clears tile m[D], MSC gives it the 32 scales at s[A], MST stores it row by row in 1,024 bytes,
MLD loads it from there, MTV gives v[D] four of its rows, MMA from scratch, with all its rows and columns inside scratch, gives each
element the exact sum rounded once, for INT8 the sum modulo 2^32; SRD and SWR of 1 to 4,096 bytes inside scratch, not in the control
window, send an LD or ST in TC3 from the die's agent for the item's context, under its next SEQ, and the thread waits; XPD and XPQ of a
block that decodes put its bytes into scratch or at the end of the operand queue, s[D] the raw length; XPD and XPQ of one that does not
fault CODEC; CPZ puts the coded block into scratch, s[D] its length. (R283, R298, R300, R301, R302, R304, R370, R373) -/
def Obligations.PodMatrixStreamAndCodecInstructionsComplete : Prop :=
  (∀ (s : State) (d : Die) (p : Nat) (w : PodF), canIssue (coreOf s d p) = true → MatrixFree (coreOf s d p) → w.d.toNat < 4 →
    (fieldsOk w true false false false false false false false = true →
      ∃ t th, exec (.podMzero d p w) s = .next t ∧ Issued s t d p (coreOf s d p) th ((curThread s d p).pc + 1) [] ∧
        tileOf th w.d.toNat = List.replicate 256 0 ∧ (∀ n, n ≠ w.d.toNat → tileOf th n = tileOf (curThread s d p) n) ∧
        th.sreg = (curThread s d p).sreg ∧ th.vreg = (curThread s d p).vreg) ∧
    (fieldsOk w true true false false false false false false = true →
      ((sreg (curThread s d p) w.a.toNat).toNat + 32 ≤ 0x40000 →
        ∃ t th, exec (.podMsc d p w) s = .next t ∧ Issued s t d p (coreOf s d p) th ((curThread s d p).pc + 1) [] ∧
          sgets th.scale (32 * w.d.toNat) 32 = scratchGet (coreOf s d p) (sreg (curThread s d p) w.a.toNat).toNat 32 ∧
          th.tile = (curThread s d p).tile ∧ th.sreg = (curThread s d p).sreg) ∧
      ((sreg (curThread s d p) w.a.toNat).toNat + 1024 ≤ 0x40000 →
        (∃ t, exec (.podMst d p w) s = .next t ∧ Issued s t d p (scratchPut (coreOf s d p) (sreg (curThread s d p) w.a.toNat).toNat
            ((tileOf (curThread s d p) w.d.toNat).flatMap (fun v => toLE 4 v.toNat))) (curThread s d p) ((curThread s d p).pc + 1) []) ∧
        (∃ t th, exec (.podMld d p w) s = .next t ∧ Issued s t d p (coreOf s d p) th ((curThread s d p).pc + 1) [] ∧
          (∀ i < 256, nth (tileOf th w.d.toNat) i 0 =
            BitVec.ofNat 32 (leNat (scratchGet (coreOf s d p) ((sreg (curThread s d p) w.a.toNat).toNat + 4 * i) 4))) ∧
          (∀ n, n ≠ w.d.toNat → tileOf th n = tileOf (curThread s d p) n) ∧ th.sreg = (curThread s d p).sreg)) ∧
      (0x40000 < (sreg (curThread s d p) w.a.toNat).toNat + 32 → Faults (.podMsc d p w) s d p Sts.length ∧
        Faults (.podMst d p w) s d p Sts.length ∧ Faults (.podMld d p w) s d p Sts.length))) ∧
  (∀ (s : State) (d : Die) (p : Nat) (w : PodF), canIssue (coreOf s d p) = true → MatrixFree (coreOf s d p) → w.d.toNat < 16 →
    w.a.toNat < 4 → w.imm.toNat < 4 → fieldsOk w true true false false false false false true = true →
    ∃ t th, exec (.podMtv d p w) s = .next t ∧ Issued s t d p (coreOf s d p) th ((curThread s d p).pc + 1) [] ∧
      (∀ k < 64, laneOf th w.d.toNat k = nth (tileOf (curThread s d p) w.a.toNat) (64 * w.imm.toNat + k) 0) ∧
      (∀ n k, n ≠ w.d.toNat → k < 64 → laneOf th n k = laneOf (curThread s d p) n k)) ∧
  (∀ (s : State) (d : Die) (p : Nat) (w : PodF) (sa sb a b : Nat), canIssue (coreOf s d p) = true → MatrixFree (coreOf s d p) →
    fieldsOk w true true true true true false false true = true → w.d.toNat < 4 → w.imm = 0 → 1 ≤ w.fmt.toNat → w.fmt.toNat ≤ 0xA →
    a = (sreg (curThread s d p) w.a.toNat).toNat → b = (sreg (curThread s d p) w.b.toNat).toNat →
    sa = (sreg (curThread s d p) w.c.toNat).toNat % 2 ^ 18 → sb = (sreg (curThread s d p) w.c.toNat).toNat / 2 ^ 32 % 2 ^ 18 →
    a + 15 * sa + mmaSeg w.fmt.toNat ≤ 0x40000 → b + 15 * sb + mmaSeg w.fmt.toNat ≤ 0x40000 →
    ∃ t th, exec (.podMma d p w) s = .next t ∧ (coreOf t d p).beats = (coreOf s d p).beats + 1 ∧ (coreOf t d p).matrixHeld = none ∧
      threadOf (coreOf t d p) (coreOf s d p).cur = { th with pc := (curThread s d p).pc + 1 } ∧ KeepsBut [.podCores] s t ∧
      th.sreg = (curThread s d p).sreg ∧ th.vreg = (curThread s d p).vreg ∧
      ∀ i < 16, ∀ j < 16,
        (w.fmt = 0xA → ((nth (tileOf th w.d.toNat) (16 * i + j) 0).toNat : Int) =
          ((nth (tileOf (curThread s d p) w.d.toNat) (16 * i + j) 0).toNat +
            (signedByte (scratchByte (coreOf s d p) (a + i * sa)) * signedByte (scratchByte (coreOf s d p) (b + j * sb)) +
             signedByte (scratchByte (coreOf s d p) (a + i * sa + 1)) * signedByte (scratchByte (coreOf s d p) (b + j * sb + 1)))) % 2 ^ 32) ∧
        (w.fmt ≠ 0xA → nth (tileOf th w.d.toNat) (16 * i + j) 0 = (mmaFloat (nth (tileOf (curThread s d p) w.d.toNat) (16 * i + j) 0)
          (segElems w.fmt.toNat (sget (curThread s d p).scale (32 * w.d.toNat + i)).toNat
            (scratchGet (coreOf s d p) (a + i * sa) (mmaSeg w.fmt.toNat)))
          (segElems w.fmt.toNat (sget (curThread s d p).scale (32 * w.d.toNat + 16 + j)).toNat
            (scratchGet (coreOf s d p) (b + j * sb) (mmaSeg w.fmt.toNat)))).1)) ∧
  (∀ (s s1 : State) (d : Die) (p n x : Nat) (w : PodF) (f : Frame) (seq : BitVec 24), canIssue (coreOf s d p) = true →
    x = (sreg (curThread s d p) w.b.toNat).toNat → n = (sreg (curThread s d p) w.c.toNat).toNat → 1 ≤ n → n ≤ 4096 → x + n ≤ 0x40000 →
    inWindow (addrOff (sreg (curThread s d p) w.a.toNat).toNat) = false →
    nextSeq d ((coreOf s d p).item.elim 0 (·.ctx)) s = (seq, s1) →
    f = { tc := 3, srcEp := BitVec.ofNat 20 (agentEp s d), ctx := BitVec.ofNat 12 ((coreOf s d p).item.elim 0 (·.ctx)), seq := seq,
          tag := BitVec.ofNat 16 (p * 16 + (coreOf s d p).cur), fence := agentFence s d, addr := sreg (curThread s d p) w.a.toNat } →
    (fieldsOk w true true true true false false false true = true → w.imm.toNat < 2 → ∀ q,
      q = { f with opcode := Opc.ld, opspec := BitVec.ofNat 16 (n + w.imm.toNat * 2 ^ 15) } →
      exec (.podSrd d p w) s = .next (putCore d p (settle (coreOf s d p)
        { curThread s d p with streamReq := some q, streamDst := x, streamReg := w.d.toNat, retryWait := false } .stream) (sendFrom d q s1))) ∧
    (fieldsOk w true true true true false false false false = true → ∀ q,
      q = { f with opcode := Opc.st, length := BitVec.ofNat 16 n, payload := scratchGet (coreOf s d p) x n } →
      exec (.podSwr d p w) s = .next (putCore d p (settle (coreOf s d p)
        { curThread s d p with streamReq := some q, streamDst := x, streamReg := w.d.toNat, retryWait := false } .stream) (sendFrom d q s1)))) ∧
  (∀ (s : State) (d : Die) (p a n : Nat) (w : PodF), canIssue (coreOf s d p) = true → a = (sreg (curThread s d p) w.a.toNat).toNat →
    n = (sreg (curThread s d p) w.b.toNat).toNat → a + n ≤ 0x40000 →
    (fieldsOk w true true true true false false false false = true →
      (∀ raw u, decodeAt d none none (scratchGet (coreOf s d p) a n) s = (some raw, u) →
        (sreg (curThread s d p) w.c.toNat).toNat + raw.length ≤ 0x40000 →
        ∃ t, exec (.podXpd d p w) s = .next t ∧ Issued s t d p (scratchPut (coreOf s d p) (sreg (curThread s d p) w.c.toNat).toNat raw)
          (setSreg (curThread s d p) w.d.toNat (BitVec.ofNat 64 raw.length)) ((curThread s d p).pc + 1)
          [.cmpStatus, .cmpDecodedRaw, .cmpDecodedCoded, .ctxs, .evQueue]) ∧
      (∀ u, decodeAt d none none (scratchGet (coreOf s d p) a n) s = (none, u) → NoStage (coreOf s d p) →
        ∃ t, exec (.podXpd d p w) s = .next t ∧
          threadOf (coreOf t d p) (coreOf s d p).cur = { curThread s d p with st := .faulted Sts.codec })) ∧
    (fieldsOk w true true true false false false false false = true → (coreOf s d p).queue = [] →
      (∀ raw u, decodeAt d none none (scratchGet (coreOf s d p) a n) s = (some raw, u) →
        ∃ t, exec (.podXpq d p w) s = .next t ∧ (coreOf t d p).queue = raw ∧ (coreOf t d p).queueOwner = some (coreOf s d p).cur ∧
          threadOf (coreOf t d p) (coreOf s d p).cur =
            { setSreg (curThread s d p) w.d.toNat (BitVec.ofNat 64 raw.length) with pc := (curThread s d p).pc + 1 }) ∧
      (∀ u, decodeAt d none none (scratchGet (coreOf s d p) a n) s = (none, u) → NoStage (coreOf s d p) →
        ∃ t, exec (.podXpq d p w) s = .next t ∧
          threadOf (coreOf t d p) (coreOf s d p).cur = { curThread s d p with st := .faulted Sts.codec })) ∧
    (∀ b, fieldsOk w true true true true false false false true = true → w.imm.toNat < 32 → 1 ≤ n → n ≤ 4096 →
      (bitAt w.imm.toNat 4 = true ∨ (decodingBook s (w.imm.toNat % 16)).isSome = true) →
      b = encodeBlock s (w.imm.toNat % 16) (bitAt w.imm.toNat 4) (scratchGet (coreOf s d p) a n) →
      (sreg (curThread s d p) w.c.toNat).toNat + b.length ≤ 0x40000 →
      ∃ t, exec (.podCpz d p w) s = .next t ∧ Issued s t d p (scratchPut (coreOf s d p) (sreg (curThread s d p) w.c.toNat).toNat b)
        (setSreg (curThread s d p) w.d.toNat (BitVec.ofNat 64 b.length)) ((curThread s d p).pc + 1) []))

/-- In every state: WORK_ITEM_START on an idle core that serves a slot, outside thermal hold, takes its next item off the queue, its program
into the program store: each of its threads starts at ENTRY with s1 its index, s2 the count, s3 the item's index and every other
register zero, scratch beyond byte 255 reads zero where the context changes, and the operand queue is empty; WORK_ITEM_END of an item
all of whose threads have ended, whose data is at hand and that need not wait with its partials counts it, and frees the core unless it
is to retire; THREAD_SWITCH_QUANTUM after 1,024 instructions makes the next ready thread in ascending index current; BUDGET_EXHAUSTED
stops every live thread with ABORTED; STREAM_COMPLETE with OK makes the waiting thread ready, an SRD's bytes in scratch and s[D] their
count, with RETRY keeps it waiting, and STREAM_RETRY then sends it again, with another status faults it, and for a thread that was
stopped only ends the access; CORE_RETIRE retires the core and gives its slot to the lowest unused spare, or, for a corrected error,
only sets its bit; a SELFTEST that passes leaves a core of no context, one that fails retires it. (R281, R284, R285, R289, R290, R303,
R308, R310) -/
def Obligations.WorkItemsComplete : Prop :=
  (∀ (s : State) (d : Die) (p k i : Nat) (round : Bool) (it : Item), (coreOf s d p).slot = some k → (coreOf s d p).st = .idle →
    (side s.mod.dies d).thermalHold = false → nextItem s d k = some (i, round) → (side s.pod d).queue[i]? = some it →
    ∃ t, exec (.workItemStart d p) s = .next t ∧ (side t.pod d).queue = dropAt (side s.pod d).queue i ∧ (coreOf t d p).st = .running ∧
      (coreOf t d p).item = some it ∧ (coreOf t d p).store = it.code ∧ (coreOf t d p).queue = [] ∧ (coreOf t d p).issued = 0 ∧ (coreOf t d p).slot = some k ∧
      (∀ j < it.threads, (threadOf (coreOf t d p) j).pc = it.entry ∧ (threadOf (coreOf t d p) j).st = .ready ∧
        (∀ n, sreg (threadOf (coreOf t d p) j) n = if n = 1 then BitVec.ofNat 64 j else if n = 2 then BitVec.ofNat 64 it.threads
          else if n = 3 then BitVec.ofNat 64 it.index else 0) ∧ (threadOf (coreOf t d p) j).vreg = [] ∧
        (threadOf (coreOf t d p) j).tile = [] ∧ (threadOf (coreOf t d p) j).scale = [] ∧ (threadOf (coreOf t d p) j).flags = 0) ∧
      (∀ j, it.threads ≤ j → threadOf (coreOf t d p) j = {}) ∧
      ((coreOf s d p).lastCtx ≠ some it.ctx → ∀ a, 256 ≤ a → scratchByte (coreOf t d p) a = 0) ∧
      KeepsBut [.podCores, .podQueue, .podTurns, .freeCtr] s t) ∧
  (∀ (s : State) (d : Die) (p : Nat) (it : Item), (coreOf s d p).item = some it → (coreOf s d p).st = .running →
    itemOver (coreOf s d p) = true → aheadHeld s d it.kind = false → jobFor s d (.item it.kind) = none →
    fetchSteps s d (itemRanges s d it.kind) = [] →
    ∃ t, exec (.workItemEnd d p) s = .next t ∧ (side t.pod d).items = ((side s.pod d).items + 1) % 2 ^ 64 ∧
      ((coreOf s d p).retireAfter = false → (coreOf t d p).st = .idle ∧ (coreOf t d p).item = none ∧
        (coreOf t d p).slot = (coreOf s d p).slot) ∧
      ((coreOf s d p).retireAfter = true → (coreOf t d p).st = .retired)) ∧
  (∀ (s : State) (d : Die) (p j : Nat), (coreOf s d p).st = .running → 1024 ≤ (coreOf s d p).since → nextReady (coreOf s d p) = some j →
    ∃ t, exec (.threadSwitchQuantum d p) s = .next t ∧ coreOf t d p = { coreOf s d p with cur := j, since := 0 } ∧
      KeepsBut [.podCores] s t) ∧
  (∀ (s : State) (d : Die) (p : Nat), (coreOf s d p).st = .running → (coreOf s d p).item.isSome = true →
    (coreOf s d p).budget * 65536 ≤ (coreOf s d p).issued →
    ∃ t, exec (.budgetExhausted d p) s = .next t ∧ (side t.pod d).status.bits.getLsbD 1 = true ∧
      (∀ j, live (threadOf (coreOf s d p) j) = true → (threadOf (coreOf t d p) j).st = .faulted Sts.aborted) ∧
      (∀ j, live (threadOf (coreOf s d p) j) = false → (threadOf (coreOf t d p) j).st = (threadOf (coreOf s d p) j).st) ∧
      KeepsBut [.podCores, .podStatus, .ctxs, .evQueue] s t) ∧
  (∀ (s : State) (d : Die) (p j : Nat) (q f : Frame), (threadOf (coreOf s d p) j).streamReq = some q → (threadOf (coreOf s d p) j).st = .stream →
    f.opcode = rspOpc q.opcode → f.tag = q.tag →
    (f.status = Sts.ok → q.opcode = Opc.ld → f.cmp = false →
      ∃ t, exec (.streamComplete d p j f) s = .next t ∧ (threadOf (coreOf t d p) j).st = .ready ∧
        (threadOf (coreOf t d p) j).streamReq = none ∧
        scratchGet (coreOf t d p) (threadOf (coreOf s d p) j).streamDst f.payload.length = f.payload ∧
        sreg (threadOf (coreOf t d p) j) (threadOf (coreOf s d p) j).streamReg =
          (if (threadOf (coreOf s d p) j).streamReg = 0 then 0 else BitVec.ofNat 64 f.payload.length) ∧
        KeepsBut [.swcAgentInbox, .podCores] s t) ∧
    (f.status = Sts.ok → q.opcode = Opc.st →
      ∃ t, exec (.streamComplete d p j f) s = .next t ∧ (threadOf (coreOf t d p) j).st = .ready ∧
        sreg (threadOf (coreOf t d p) j) (threadOf (coreOf s d p) j).streamReg = 0 ∧
        (coreOf t d p).scratch = (coreOf s d p).scratch ∧ KeepsBut [.swcAgentInbox, .podCores] s t) ∧
    (f.status = Sts.retry →
      ∃ t, exec (.streamComplete d p j f) s = .next t ∧ threadOf (coreOf t d p) j = { threadOf (coreOf s d p) j with retryWait := true } ∧
        KeepsBut [.swcAgentInbox, .podCores] s t) ∧
    (stsIn f.status ≠ Sts.ok → stsIn f.status ≠ Sts.retry → NoStage (coreOf s d p) →
      ∃ t, exec (.streamComplete d p j f) s = .next t ∧ (threadOf (coreOf t d p) j).st = .faulted (stsIn f.status))) ∧
  (∀ (s : State) (d : Die) (p j : Nat) (q f : Frame), (threadOf (coreOf s d p) j).streamReq = some q →
    (∃ v, (threadOf (coreOf s d p) j).st = .faulted v) → f.opcode = rspOpc q.opcode → f.tag = q.tag →
    ∃ t, exec (.streamComplete d p j f) s = .next t ∧ threadOf (coreOf t d p) j = { threadOf (coreOf s d p) j with streamReq := none } ∧
      KeepsBut [.swcAgentInbox, .podCores] s t) ∧
  (∀ (s : State) (d : Die) (p j : Nat) (q : Frame), (threadOf (coreOf s d p) j).streamReq = some q →
    (threadOf (coreOf s d p) j).retryWait = true → (threadOf (coreOf s d p) j).st = .stream →
    ∃ u, exec (.streamRetry d p j) s = .next (sendFrom d q u) ∧ KeepsBut [.podCores] s u ∧
      threadOf (coreOf u d p) j = { threadOf (coreOf s d p) j with retryWait := false }) ∧
  (∀ (s : State) (d : Die) (p : Nat), p < 528 → exec (.coreRetire d p .scratchCorr) s = .next (setStatus (.pod d) 4 s)) ∧
  (∀ (s : State) (d : Die) (p k q : Nat) (cause : RetireCause), p < 528 → cause ≠ .scratchCorr → (coreOf s d p).slot = some k → (coreOf s d p).st ≠ .retired →
    (coreOf s d p).st ≠ .spare → q < 528 → (coreOf s d q).st = .spare → (∀ x < q, (coreOf s d x).st ≠ .spare) →
    ∃ t, exec (.coreRetire d p cause) s = .next t ∧ (coreOf t d p).st = .retired ∧ (coreOf t d p).slot = none ∧
      coreOf t d q = { st := .idle, slot := some k, store := (coreOf s d p).store } ∧ (side t.pod d).status.bits.getLsbD 2 = true ∧
      (∀ i, (coreOf s d p).item = some i → (side t.pod d).queue = i :: (side s.pod d).queue) ∧
      KeepsBut [.podCores, .podVacant, .podQueue, .podStatus, .ctxs, .evQueue] s t) ∧
  (∀ (s : State) (d : Die) (p : Nat), p < 528 → (coreOf s d p).st = .idle → (side s.pod d).selftestS ≠ 0 →
    (∃ t, exec (.selftest d p true) s = .next t ∧ coreOf t d p = { coreOf s d p with lastCtx := none } ∧ KeepsBut [.podCores] s t) ∧
    (∃ t, exec (.selftest d p false) s = .next t ∧ (coreOf t d p).st = .retired ∧ (side t.pod d).status.bits.getLsbD 6 = true ∧
      (side t.pod d).status.bits.getLsbD 2 = true))

/-- In every state: a COL_REDUCE that passes its checks opens its instance with the descriptor's fields, or joins it where they equal the
instance's, and where they differ MISMATCH is set; a COL_PART of the right endpoint, in the window, for a chunk that has no result, is
held as its lanes widened, one beyond the window is answered RETRY and WINDOW_RETRY set, one whose result is held is answered with it;
CHUNK_COMBINE of a chunk held from every position queues one work item for it; the lanes of several operands combine one operand after
another, from the first on; COL_PART_RSP with RETRY is sent again; SERVICE_STORE_RESPONSE with OK takes one store off its descriptor,
and the last one answers a descriptor that has no failure OK with its result; INSTANCE_TIMEOUT leaves no such instance, counts it among
the completed, and sets TIMEOUT; COL_GATHER, its index list at hand, queues an item for every 64 rows, or with an index outside the
table is answered LENGTH; COL_FILTER queues its items. (R320, R321, R322, R323, R324, R325, R326, R328, R330, R331, R332, R333) -/
def Obligations.CollectivesComplete : Prop :=
  (∀ (s : State) (d : Die) (f : Frame) (body : Bytes) (node pos group inst : Nat), f.opcode = Opc.colReduce → TakesNow s d f [] →
    reduceFormBad f = none → outstanding s d (keyOf f) = false →
    group = fld f.addr.toNat 51 42 → inst = le f.payload 0 4 → reduceChecks (takeHome d f s) d f = .inr (body, node, pos) →
    opRoom s d = true → serviceServes s d (nodeEnt body node).2.2 = true → FreshOp s d →
    (instOf s d group node inst = none →
      ((side s.col d).instances.filter (fun i => i.group == group && i.node == node)).length < (grpView body).open_ →
      ∃ t i p, exec (.colReduce d f) s = .next t ∧ instOf t d group node inst = some i ∧ i.descs = [p] ∧ p.pos = pos ∧ p.frame = f ∧
        fieldsOf i = instFields f.payload ∧ i.done = 0 ∧ i.failed = false ∧ i.parts = [] ∧ (opOf t d (side s.col d).nextOp).isSome = true) ∧
    (∀ i, instOf s d group node inst = some i → i.descs.any (fun q => q.pos == pos) = false → i.failed = false →
      (fieldsOf i = instFields f.payload → ∃ t j p, exec (.colReduce d f) s = .next t ∧ instOf t d group node inst = some j ∧
        j.descs = i.descs ++ [p] ∧ p.pos = pos ∧ p.frame = f ∧ j.parts = i.parts ∧ j.failed = false) ∧
      (fieldsOf i ≠ instFields f.payload → ∃ t, exec (.colReduce d f) s = .next t ∧ (side t.col d).status.bits.getLsbD 1 = true))) ∧
  (∀ (s : State) (d : Die) (f : Frame) (body : Bytes) (node : Nat) (rest : Die × Nat) (i : Instance) (p : PosDesc) (chunk : Nat),
    f.opcode = Opc.colPart → TakesNow s d f [] → outstanding s d (keyOf f) = false → heldPart s d f = false → recOf s RT.rankGroup (fld f.addr.toNat 51 42) = some body →
    partNode s body f.srcEp.toNat f.opspec.toNat = some (node, rest) → positionEp body node f.opspec.toNat = some f.srcEp.toNat →
    (side s.col d).instances.find? (fun x => x.group == fld f.addr.toNat 51 42 && x.node == node &&
      x.inst % 2 ^ 16 == fld f.addr.toNat 41 26) = some i →
    i.descs.find? (fun q => q.pos == f.opspec.toNat) = some p → p.pull = false → i.failed = false → chunk = fld f.addr.toNat 25 0 →
    chunk < chunkCount i → f.cmp = false → childFail i f = false → f.payload.length = chunkElems i chunk * elemBits (partFmt i) / 8 →
    i.parts.any (fun q => q.pos == p.pos && q.chunk == chunk) = false →
    (i.done + (grpView i.body).window ≤ chunk → ∃ t, exec (.colPart d f) s = .next t ∧ (side t.col d).status.bits.getLsbD 6 = true) ∧
    (chunk < i.done + (grpView i.body).window →
      (∀ r, resultOf i chunk = some r →
        exec (.colPart d f) s = .next (partRsp d f r.status (if p.ret then r.bytes else []) (takeHome d f s))) ∧
      (resultOf i chunk = none → i.done ≤ chunk → ∃ t j, exec (.colPart d f) s = .next t ∧ instOf t d i.group i.node i.inst = some j ∧
        j.parts = i.parts ++ [⟨p.pos, chunk, some f, lanesOf (partFmt i) (chunkElems i chunk) f.payload, Sts.ok⟩] ∧
        KeepsBut (.colInstances :: (takeParts ++ countParts)) s t))) ∧
  (∀ (s : State) (d : Die) (g n k c : Nat) (i : Instance), instOf s d g n k = some i → i.failed = false → c < chunkCount i → i.done ≤ c →
    c < i.done + (grpView i.body).window → i.running.contains c = false → i.upSent.contains c = false → resultOf i c = none →
    chunkReady i c = true →
    ∃ t j it, exec (.chunkCombine d g n k c) s = .next t ∧ instOf t d g n k = some j ∧ j.running = i.running ++ [c] ∧
      (side t.pod d).queue = (side s.pod d).queue ++ [it] ∧ it.kind = .chunk g n k c ∧ it.index = c ∧ KeepsBut [.podQueue, .colInstances, .freeCtr] s t) ∧
  (∀ (op n k : Nat) (int : Bool) (h : List (BitVec 32)) (l : List (List (BitVec 32))), (∀ x ∈ h :: l, x.length = n) → k < n →
    nth (combineLanes op int (h :: l)) k 0 = l.foldl (fun acc x => reduceOp op int acc (nth x k 0)) (nth h k 0)) ∧
  (∀ (s : State) (d : Die) (f : Frame) (x : SvcSend) (g n k c : Nat), svcSent s d f = some x → x.what = .part g n k c → f.status = Sts.retry →
    exec (.colPartRsp d f) s = .next (sendFrom d x.frame (takeAgent d f s))) ∧
  (∀ (s : State) (d : Die) (f : Frame) (x : SvcSend) (id : Nat) (o : Op), svcSent s d f = some x → x.what = .store id →
    opOf s d id = some o → f.status = Sts.ok →
    (2 ≤ o.stores → (∀ g n k p, o.kind ≠ .reduce g n k p) → ∃ t, exec (.serviceStoreResponse d f) s = .next t ∧
      opOf t d id = some { o with stores := o.stores - 1 } ∧ KeepsBut [.swcAgentInbox, .colOps, .colSends] s t) ∧
    (o.stores = 1 → o.left = [] → o.waits = none → o.faults = [] → o.storeFaults = [] → o.info = Sts.ok →
      (∀ g n k p, o.kind ≠ .reduce g n k p) →
      ∃ u, exec (.serviceStoreResponse d f) s = .next (answer d o.frame Sts.ok o.result u) ∧ opOf u d id = none)) ∧
  (∀ (s : State) (d : Die) (g n k : Nat) (i : Instance), instOf s d g n k = some i →
    ∃ t, exec (.instanceTimeout d g n k) s = .next t ∧ instOf t d g n k = none ∧ (completedAt t d g n).contains k = true ∧
      (side t.col d).status.bits.getLsbD 2 = true) ∧
  (∀ (s s1 : State) (d : Die) (f : Frame) (raw : Bytes) (u : State), f.opcode = Opc.colGather → TakesNow s d f [] → toSp f = false →
    gatherFormBad f = none → outstanding s d (keyOf f) = false → serviceHere s d (le f.payload 18 1) 2 = true →
    tableBad (takeHome d f s) d f (tableSpan (le f.payload 12 4) (le f.payload 24 8) (le f.payload 16 2)) = none → opRoom s d = true →
    serviceServes s d (le f.payload 18 1) = true → FreshOp s d →
    fetchSteps s d [localRange s (le f.payload 0 8) (4 * le f.payload 8 4)] = [] →
    s1 = modOp d (side s.col d).nextOp (fun y => { y with waits := some .data }) (modOp d (side s.col d).nextOp
      (fun o => { o with plan := some (planOf (takeHome d f s) (le f.payload 18 1) f.ctx.toNat) })
      (newOp d .gather f (rangeFrom 0 (ceilDiv (le f.payload 8 4) 64)) (takeHome d f s)).2) →
    svcRead d f.ctx.toNat (le f.payload 0 8) (4 * le f.payload 8 4) s1 = (Sts.ok, raw, u) →
    ((∃ i < le f.payload 8 4, le f.payload 12 4 ≤ le raw (4 * i) 4) →
      ∃ v, exec (.colGather d f) s = .next (answer d f Sts.length [] v) ∧ opOf v d (side s.col d).nextOp = none ∧ v.mem = s.mem) ∧
    ((∀ i < le f.payload 8 4, le raw (4 * i) 4 < le f.payload 12 4) →
      ∃ t o l, exec (.colGather d f) s = .next t ∧ opOf t d (side s.col d).nextOp = some o ∧ o.frame = f ∧
        o.idxs = (rangeFrom 0 (le f.payload 8 4)).map (fun i => le raw (4 * i) 4) ∧ (side t.pod d).queue = (side s.pod d).queue ++ l ∧
        l.map (·.index) = rangeFrom 0 (ceilDiv (le f.payload 8 4) 64) ∧ t.mem = s.mem)) ∧
  (∀ (s : State) (d : Die) (f : Frame), f.opcode = Opc.colFilter → TakesNow s d f [] → toSp f = false → filterFormBad f = none →
    outstanding s d (keyOf f) = false →
    serviceHere s d (le f.payload 31 1) 3 = true → (le f.payload 29 1 % 4 = 1 → (stageOf s (le f.payload 31 1)).isSome = true) →
    tableBad (takeHome d f s) d f (tableSpan (le f.payload 16 4) (le f.payload 32 8) (le f.payload 24 2)) = none → opRoom s d = true →
    serviceServes s d (le f.payload 31 1) = true → FreshOp s d →
    ∃ t o l, exec (.colFilter d f) s = .next t ∧ opOf t d (side s.col d).nextOp = some o ∧ o.frame = f ∧ o.kind = .filter ∧
      (side t.pod d).queue = (side s.pod d).queue ++ l ∧
      l.map (·.index) = rangeFrom 0 (ceilDiv (le f.payload 16 4) (min 1024 (131072 / le f.payload 24 2))) ∧
      KeepsBut ([.podQueue, .freeCtr] ++ opParts) s t)

/-- In every state, a store of 8 bytes that passes the checks of an access and whose value the register takes leaves that register reading
the value's defined fields, and changes beside it only what serving an access changes: SWC.ARB_WEIGHT, SAMPLE_PORTS and SAMPLE_DEST;
HOM.MEM_CFG with a nonzero AGE_US; COH.DIR_CFG; TIER.CFG with LOW_WM of at least 1 below HIGH_WM of at most 56,320; FTL.CFG with no zero
field, GC_LOW below GC_HIGH and RETRY_MAX of at most 16; FTL.LEVEL_MAP0 and LEVEL_MAP1; POD.CFG, COL.CFG and ATT.CFG with a nonzero
budget, timeout, look-ahead; CMP.CTX_CODE of every context; SEC.FW_WINDOW_BASE; FLT.CFG with no zero field; FLT.XFER_SRC and XFER_DST;
MOD.REPAIR_CFG. (A RETRY_MAX above 16 is refused by this model's reading of R17; the clause does not speak of it.) (R9, R10, R167, R196,
R228, R253, R279, R316, R337, R365, R423, R470) -/
def Obligations.PlainRegisterWritesReadBack : Prop :=
  (∀ d : Die, StoresBack (0x03000030 + dieNum d * 0x800000) (fun _ => true) (· % 2 ^ 40) [.swcArbWeight]) ∧
  StoresBack 0x03000048 (fun _ => true) (· % 2 ^ 33) [.swcSamplePorts] ∧ StoresBack 0x03800048 (fun _ => true) (· % 2 ^ 32) [.swcSamplePorts] ∧
  (∀ d : Die, StoresBack (0x03000050 + dieNum d * 0x800000) (fun _ => true) (· % 2 ^ 20) [.swcSampleDest]) ∧
  (∀ d : Die, StoresBack (0x04002000 + dieNum d * 0x100) (fun v => v % 256 != 0) (fun v => v % 256 + v / 2 ^ 16 % 2 * 2 ^ 16)
    [.homeCombineEn, .homeAgeUs]) ∧
  (∀ d : Die, StoresBack (0x05000000 + dieNum d * 0x100) (fun v => v % 256 != 0) (· % 256) [.cohAckTimeoutMs]) ∧
  (∀ d : Die, StoresBack (0x06000000 + dieNum d * 0x100)
    (fun v => v % 2 ^ 16 != 0 && decide (v % 2 ^ 16 < v / 2 ^ 16 % 2 ^ 16) && decide (v / 2 ^ 16 % 2 ^ 16 ≤ 56320))
    (fun v => v % 2 ^ 36 + v / 2 ^ 40 % 4 * 2 ^ 40) [.tierRefillEn, .tierSpillEn, .tierPrefetchDepth, .tierHighWm, .tierLowWm]) ∧
  (∀ d : Die, StoresBack (0x07000000 + dieNum d * 0x100000)
    (fun v => (rangeFrom 0 8).all (fun k => v / 256 ^ k % 256 != 0) && decide (v / 256 ^ 4 % 256 < v / 256 ^ 3 % 256) &&
      decide (v / 256 ^ 7 % 256 ≤ 16))
    id [.ftlRetryMax, .ftlEccRefresh, .ftlFoldLow, .ftlGcLow, .ftlGcHigh, .ftlWearSpread16, .ftlDisturbK, .ftlRetainW]) ∧
  (∀ d : Die, StoresBack (0x07000008 + dieNum d * 0x100000) (fun _ => true) id [.ftlLevelMap0]) ∧
  (∀ d : Die, StoresBack (0x07000010 + dieNum d * 0x100000) (fun _ => true) id [.ftlLevelMap1]) ∧
  (∀ d : Die, StoresBack (0x08000000 + dieNum d * 0x1000000) (fun v => v % 2 ^ 16 != 0) (· % 2 ^ 32) [.podSelftestS, .podBudget]) ∧
  (∀ d : Die, StoresBack (0x0A000000 + dieNum d * 0x100) (fun v => v % 2 ^ 16 != 0) (· % 2 ^ 16) [.colInstTimeout]) ∧
  (∀ d : Die, StoresBack (0x0B000000 + dieNum d * 0x100) (fun v => v % 256 != 0) (· % 256) [.colAhead]) ∧
  (∀ c : Nat, c < 4096 → StoresBack (0x0C010000 + 8 * c) (fun _ => true) (fun v => v % 16 + v / 256 % 2 * 256) [.cmpCtxCode]) ∧
  StoresBack 0x0E000050 (fun _ => true) (fun v => v / 2 ^ 16 % 2 ^ 12 * 2 ^ 16) [.secWindowBase] ∧
  StoresBack 0x10000000 (fun v => v % 256 != 0 && v / 256 % 256 != 0) (· % 2 ^ 16) [.fltAckDeadMs, .fltGraceMs] ∧
  StoresBack 0x10000040 (fun _ => true) id [.fltXferSrc] ∧ StoresBack 0x10000048 (fun _ => true) id [.fltXferDst] ∧
  StoresBack 0x11001010 (fun _ => true) (· % 8) [.modAutoRow, .modAutoPc, .modAutoLane]

/-- In every state with an access that passes its checks: a store to a sticky status register clears those of its bits that the value has at
one and no others, and leaves its hit counter; a load of a hit counter answers with the counter and leaves it zero; a load of a port's
FEC_CORR, FEC_UNCORR or REPLAY_COUNT, of a die's SAMPLE_DROP or of PEP.HITS answers with what it read and leaves it reading zero. A
store of a LIMIT other than 0xFFFF_FFFF to a quota register of a context leaves that limit there (a context's record holds three). (R11,
R12, R13, R423, R438) -/
def Obligations.StatusRegistersClearByOnesAndCountersByReading : Prop :=
  (∀ (s : State) (f : Frame) (r : StReg), RegReady s f → f.opcode = Opc.st → stAt (regOff f) = some r →
    ∃ u, exec (.registerWrite f) s = .next (regAnswer f Sts.ok [] u) ∧ (stGet u r).hit = (stGet s r).hit ∧
      (stGet u r).bits = (stGet s r).bits &&& ~~~(BitVec.ofNat 16 (le f.payload 0 8) &&& BitVec.ofNat 16 (stMask r))) ∧
  (∀ (s : State) (f : Frame) (r : StReg), RegReady s f → f.opcode = Opc.ld → stAt (regOff f) = none → hitAt (regOff f) = some r →
    ∃ u, exec (.registerReadClear f) s = .next (regAnswer f Sts.ok (toLE 8 (stGet s r).hit.toNat) u) ∧ (stGet u r).hit = 0 ∧ (stGet u r).bits = (stGet s r).bits) ∧
  (∀ (s : State) (f : Frame), RegReady s f → f.opcode = Opc.ld →
    (∃ p o, p ≤ 64 ∧ o ∈ [0x18, 0x20, 0x28] ∧ regOff f = (if p = 64 then 0x02000000 else 0x01000000 + p * 0x40000) + o) ∨
      regOff f ∈ [0x03000058, 0x03800058, 0x12000008] →
    ∃ u, exec (.registerReadClear f) s = .next (regAnswer f Sts.ok (toLE 8 ((regRead s (regOff f)).getD 0)) u) ∧ regRead u (regOff f) = some 0) ∧
  (∀ (s : State) (f : Frame) (c tier : Nat), RegReady s f → f.opcode = Opc.st → c < 4096 → tier < 3 →
    regOff f = 0x0D000100 + c * 0x1000 + tier * 8 → le f.payload 0 8 % 2 ^ 32 ≠ 0xFFFFFFFF → (ctxOf s c).limits.length = 3 →
    ∃ t, exec (.quotaLimitWrite f) s = .next t ∧ limitOf t c tier = le f.payload 0 8 % 2 ^ 32 ∧ KeepsBut (regParts ++ eventParts) s t)

/-- In every state with a store that passes its checks, of value v: EXT_SEL of an extent that is not there leaves the selector without VALID
and a zero record, of one that is ACTIVE sets VALID and gives its base; OBJ_SEL of an object that is not there leaves no VALID and a
zero record, of one that is there VALID, its address, epoch and reference count; DIR_SEL of a line without an entry leaves no VALID and
zero records, of one with an entry VALID, its home state and how many pointers it holds; CORE_SEL of a physical core below 528 sets
VALID and gives its state, slot, service, context and live threads, of another clears VALID and the record; SES_SEL of a registered
session sets VALID and gives its tokens and pages, of another clears VALID and the record; FENCE_SEL sets VALID exactly for an endpoint
whose switch is in the map, and gives its fence epoch and whether its fencing goes on; SWITCH_SEL exactly for a switch in the map, and
gives its state and the switch that answers for it; COMP_SEL exactly for a registered composition, and gives FAILED, the cause and the
step epoch, of another a zero record. Each changes nothing else but what serving an access changes. (R85, R86, R228, R316, R365, R470) -/
def Obligations.SelectWindowsTakeASnapshot : Prop :=
  (∀ (s : State) (f : Frame), RegReady s f → f.opcode = Opc.st → regOff f = 0x04001000 →
    ∃ t, exec (.extSelWrite f) s = .next t ∧ KeepsBut (regParts ++ [.extSel, .extRec]) s t ∧ t.extSel.toNat % 2 ^ 24 = le f.payload 0 8 % 2 ^ 24 ∧
      (extOf s (le f.payload 0 8 % 2 ^ 24) = none → t.extSel.getLsbD 63 = false ∧ t.extRec = [0, 0, 0]) ∧
      (∀ e, extOf s (le f.payload 0 8 % 2 ^ 24) = some e → extPhase s e.die (le f.payload 0 8 % 2 ^ 24) = .active →
        e.base < 2 ^ 52 → e.size < 2 ^ 52 → t.extSel.getLsbD 63 = true ∧
        ((nth t.extRec 0 0).toNat / 2 ^ 33 = e.base / 2 ^ 21))) ∧
  (∀ (s : State) (f : Frame), RegReady s f → f.opcode = Opc.st → regOff f = 0x04001100 →
    ∃ t, exec (.objSelWrite f) s = .next t ∧ KeepsBut (regParts ++ [.objSel, .objRec, .freeCtr]) s t ∧
      t.objSel.toNat % 2 ^ 24 = le f.payload 0 8 % 2 ^ 24 ∧
      (get? s.objs (le f.payload 0 8 % 2 ^ 24) = none → t.objSel.getLsbD 63 = false ∧ t.objRec = [0, 0, 0, 0, 0, 0, 0, 0]) ∧
      (∀ o, get? s.objs (le f.payload 0 8 % 2 ^ 24) = some o → t.objSel.getLsbD 63 = true ∧ nth t.objRec 1 0 = BitVec.ofNat 64 o.addr ∧
        nth t.objRec 3 0 = BitVec.ofNat 64 (o.epoch * 2 ^ 32 + o.refcount))) ∧
  (∀ (s : State) (f : Frame) (d : Die), RegReady s f → f.opcode = Opc.st → regOff f = 0x05000028 + dieNum d * 0x100 →
    ∃ t, exec (.dirSelWrite f) s = .next t ∧ KeepsBut (regParts ++ [.cohSel, .cohRec0, .cohRec1]) s t ∧
      (side t.coh d).sel.toNat % 2 ^ 46 = le f.payload 0 8 % 2 ^ 46 ∧
      (get? (side s.coh d).dir (s.cfg.switchId * 2 ^ 46 + le f.payload 0 8 % 2 ^ 46) = none →
        (side t.coh d).sel.getLsbD 63 = false ∧ (side t.coh d).rec0 = 0 ∧ (side t.coh d).rec1 = 0) ∧
      (∀ e, get? (side s.coh d).dir (s.cfg.switchId * 2 ^ 46 + le f.payload 0 8 % 2 ^ 46) = some e → e.domain < 32 →
        (side t.coh d).sel.getLsbD 63 = true ∧ (side t.coh d).rec0.toNat / 2 ^ 15 % 8 = lineCode e.st ∧
          (side t.coh d).rec0.toNat / 2 ^ 7 % 8 = min e.ptrs.length 4)) ∧
  (∀ (s : State) (f : Frame) (d : Die), RegReady s f → f.opcode = Opc.st → regOff f = 0x08000020 + dieNum d * 0x1000000 →
    ∃ t, exec (.coreSelWrite f) s = .next t ∧ KeepsBut (regParts ++ [.podSel, .podSelRec]) s t ∧
      (side t.pod d).sel.toNat % 1024 = le f.payload 0 8 % 1024 ∧
      (528 ≤ le f.payload 0 8 % 1024 → (side t.pod d).sel.getLsbD 63 = false ∧ (side t.pod d).selRec = 0) ∧
      (le f.payload 0 8 % 1024 < 528 → (side t.pod d).sel.getLsbD 63 = true ∧ ∀ c, c = coreOf s d (le f.payload 0 8 % 1024) →
        (side t.pod d).selRec = BitVec.ofNat 64 (coreCode c.st * 2 ^ 61 + c.slot.getD 0 * 2 ^ 52 + c.item.elim 0 (·.service) * 2 ^ 46 +
          c.item.elim c.lastShown (·.ctx) * 2 ^ 34 + liveCount c * 2 ^ 29))) ∧
  (∀ (s : State) (f : Frame), RegReady s f → f.opcode = Opc.st → regOff f = 0x0B001000 →
    ∃ t, exec (.sesSelWrite f) s = .next t ∧ KeepsBut (regParts ++ [.sesSel, .sesRec]) s t ∧
      t.sesSel.getLsbD 63 = (get? s.sessions (le f.payload 0 8 % 2 ^ 20)).isSome ∧ t.sesSel.toNat % 2 ^ 20 = le f.payload 0 8 % 2 ^ 20 ∧
      (get? s.sessions (le f.payload 0 8 % 2 ^ 20) = none → t.sesRec = [0, 0, 0]) ∧
      (∀ x, get? s.sessions (le f.payload 0 8 % 2 ^ 20) = some x →
        nth t.sesRec 2 0 = BitVec.ofNat 64 (tokensOf x * 2 ^ 32 + x.pages.length))) ∧
  (∀ (s : State) (f : Frame), RegReady s f → f.opcode = Opc.st → regOff f = 0x10000020 →
    ∃ t, exec (.fenceSelWrite f) s = .next t ∧ KeepsBut (regParts ++ [.fltFenceSel, .fltFenceRec]) s t ∧
      t.flt.fenceSel.getLsbD 63 = (get? s.flt.switches (epSwitch (le f.payload 0 8 % 2 ^ 20))).isSome ∧
      ((get? s.flt.switches (epSwitch (le f.payload 0 8 % 2 ^ 20))).isSome = true →
        t.flt.fenceRec.toNat / 2 ^ 48 = (getD s.flt.fence (le f.payload 0 8 % 2 ^ 20) 0).toNat ∧
        t.flt.fenceRec.getLsbD 47 = s.flt.fencing.any (fun x => x.ep == le f.payload 0 8 % 2 ^ 20))) ∧
  (∀ (s : State) (f : Frame), RegReady s f → f.opcode = Opc.st → regOff f = 0x10000030 →
    ∃ t, exec (.switchSelWrite f) s = .next t ∧ KeepsBut (regParts ++ [.fltSwitchSel, .fltSwitchRec]) s t ∧
      t.flt.switchSel.getLsbD 63 = (get? s.flt.switches (le f.payload 0 8 % 4096)).isSome ∧
      (∀ e, get? s.flt.switches (le f.payload 0 8 % 4096) = some e → e.answer < 4096 →
        t.flt.switchRec.toNat / 2 ^ 62 = switchCode e.st ∧ t.flt.switchRec.toNat / 2 ^ 50 % 4096 = e.answer)) ∧
  (∀ (s : State) (f : Frame), RegReady s f → f.opcode = Opc.st → regOff f = 0x10000060 →
    ∃ t, exec (.compSelWrite f) s = .next t ∧ KeepsBut (regParts ++ [.fltCompSel, .fltCompRec]) s t ∧
      t.flt.compSel.getLsbD 63 = (recOf s RT.composition (le f.payload 0 8 % 1024)).isSome ∧
      (recOf s RT.composition (le f.payload 0 8 % 1024) = none → t.flt.compRec = 0) ∧
      ((recOf s RT.composition (le f.payload 0 8 % 1024)).isSome = true → ∀ c, c = compOf s (le f.payload 0 8 % 1024) →
        t.flt.compRec = BitVec.ofNat 64 (b2n c.failed * 2 ^ 63 + c.cause * 2 ^ 60 + c.epoch)))

/-- In every state with a store that passes its checks, of value v: SAMPLE_CFG with LOG2_N from 1 to 24 and no PAYLOAD takes its six fields;
POD.RETIRE of a core without an item and not running retires it at once, of one with an item marks it to retire when the item ends;
CC_FLUSH with a one flushes every line dirty then, and CC_FLUSH_DONE of a die with no dirty line left ends the flush; XFER_GO with a
one, while fewer than 256 jobs run, gives the transfer the next job number; DETACH with a one and a meter present starts the escrow of
both dies; LANE_SPARE of a port of the die, with a spare lane left, takes a spare and holds the lane's sub-link for retraining; PC_SPARE
of a stack with a spare left takes it and begins the copy. (R167, R281, R316, R253, R460, R442, R436, R485, R487, R491) -/
def Obligations.ServiceRegisterCommandsComplete : Prop :=
  (∀ (s : State) (f : Frame) (d : Die), RegReady s f → f.opcode = Opc.st → regOff f = 0x03000040 + dieNum d * 0x800000 →
    1 ≤ fld (le f.payload 0 8) 15 11 → fld (le f.payload 0 8) 15 11 ≤ 24 → bitAt (le f.payload 0 8) 3 = false →
    ∃ t, exec (.sampleCfgWrite f) s = .next t ∧ (side t.swc d).log2n = fld (le f.payload 0 8) 15 11 ∧
      (side t.swc d).trunc = fld (le f.payload 0 8) 10 8 ∧ (side t.swc d).payload = false ∧ (side t.swc d).egress = bitAt (le f.payload 0 8) 2 ∧
      (side t.swc d).ingress = bitAt (le f.payload 0 8) 1 ∧ (side t.swc d).enable = bitAt (le f.payload 0 8) 0) ∧
  (∀ (s : State) (f : Frame) (d : Die) (p : Nat), RegReady s f → f.opcode = Opc.st → regOff f = 0x08000030 + dieNum d * 0x1000000 →
    le f.payload 0 8 % 1024 = p → p < 528 →
    ((coreOf s d p).item = none → (coreOf s d p).st ≠ .running →
      ∃ t, exec (.podRetireWrite f) s = .next t ∧ (coreOf t d p).st = .retired ∧
        ((coreOf s d p).st ≠ .retired → (coreOf t d p).slot = none ∧ (side t.pod d).status.bits.getLsbD 2 = true)) ∧
    ((coreOf s d p).item.isSome = true → ∃ t, exec (.podRetireWrite f) s = .next t ∧ coreOf t d p = { coreOf s d p with retireAfter := true })) ∧
  (∀ (s : State) (f : Frame) (d : Die), RegReady s f → f.opcode = Opc.st → regOff f = 0x06000048 + dieNum d * 0x100 →
    bitAt (le f.payload 0 8) 0 = true →
    ∃ t, exec (.ccFlush f) s = .next t ∧ (side t.tier d).cc = (side s.tier d).cc ∧
      ∀ x ∈ (side s.tier d).cc, x.2.dirty = true → x.1 ∈ (side t.tier d).flush) ∧
  (∀ (s : State) (d : Die), (∀ x ∈ (side s.tier d).cc, x.2.dirty = false) →
    ∃ t, exec (.ccFlushDone d) s = .next t ∧ (side t.tier d).flush = [] ∧ KeepsBut [.tierFlush] s t) ∧
  (∀ (s : State) (f : Frame), RegReady s f → f.opcode = Opc.st → regOff f = 0x10000050 → bitAt (le f.payload 0 8) 0 = true →
    jobsFull s = false → ringFull s .d0 64 = false → ringFull s .d1 64 = false → ∃ t, exec (.xferGo f) s = .next t ∧ t.flt.xferJob = s.cfg.nextJob ∧ t.cfg.nextJob = (s.cfg.nextJob + 1) % 2 ^ 32 ∧
      t.flt.xferSrc = s.flt.xferSrc ∧ t.flt.xferDst = s.flt.xferDst) ∧
  (∀ (s : State) (f : Frame), RegReady s f → f.opcode = Opc.st → regOff f = 0x0F000010 → bitAt (le f.payload 0 8) 0 = true →
    meterPresent s = true → ∃ u, exec (.meterDetachWrite f) s = .next (regAnswer f Sts.ok [] u) ∧ u.mtr.escrow.d0.on = true ∧ u.mtr.escrow.d1.on = true ∧
      u.mtr.st = s.mtr.st) ∧
  (∀ (s : State) (f : Frame) (d : Die) (port lane : Nat), RegReady s f → f.opcode = Opc.st → regOff f = 0x11000010 + dieNum d * 0x100 →
    fld (le f.payload 0 8) 15 8 = port → le f.payload 0 8 % 8 = lane → port ≤ 64 → portDie port = d → (side s.mod.dies d).spareLanes ≠ 0 →
    ∃ u, exec (.laneSpareWrite f) s = .next (regAnswer f Sts.ok [] u) ∧ (side u.mod.dies d).spareLanes + 1 = (side s.mod.dies d).spareLanes ∧
      (subOf u port (laneSub s port lane)).retraining = some lane) ∧
  (∀ (s : State) (f : Frame), RegReady s f → f.opcode = Opc.st → regOff f = 0x11001018 → nth s.mod.pcLeft (fld (le f.payload 0 8) 9 8) 0 ≠ 0 →
    ∃ t, exec (.pcSpareWrite f) s = .next t ∧ (fld (le f.payload 0 8) 9 8, fld (le f.payload 0 8) 5 0) ∈ t.mod.pcCopy ∧
      nth t.mod.pcLeft (fld (le f.payload 0 8) 9 8) 0 + 1 = nth s.mod.pcLeft (fld (le f.payload 0 8) 9 8) 0)

/-- In every state with a store to SEC.FW_CTL that passes its checks: BEGIN of a slot that is not the running one, on a sealed module, with
no load under way and a length of at most 268,435,456 leaves that slot LOADING at that length with no byte; END of a LOADING slot leaves
it VERIFIED where its image passes END's checks, else INVALID with SEC.STATUS bit 0; ABORT of a LOADING slot leaves it EMPTY; COMMIT
raises FW_ARB to the running image's FW_SVN where that is higher, with SEC.STATUS bit 1, and leaves it otherwise. A store of at most
4,096 bytes to the aperture, while a load is under way and within its length, leaves the slot that is loading with those bytes written
at the window base plus the aperture offset. (R405, R407, R408, R409, R410) -/
def Obligations.FirmwareRegisterCommandsComplete : Prop :=
  (∀ (s : State) (f : Frame) (v : Nat), RegReady s f → f.opcode = Opc.st → regOff f = 0x0E000048 → le f.payload 0 8 = v →
    (fld v 63 60 = 1 → (s.sec.fwSlot == fld v 56 56) = false → s.sec.unsealed = false → fwLoading s = false → fld v 28 0 ≤ 268435456 →
      ∃ t, exec (.fwBegin f) s = .next t ∧ fwSlotOf t (fld v 56 56) = { phase := .loading, total := fld v 28 0 }) ∧
    (fld v 63 60 = 2 → (fwSlotOf s (fld v 56 56)).phase = .loading →
      ∃ t, exec (.fwEnd f) s = .next t ∧
        (fwEndBad s (fwSlotOf s (fld v 56 56)) = none → (fwSlotOf t (fld v 56 56)).phase = .verified) ∧
        ((fwEndBad s (fwSlotOf s (fld v 56 56))).isSome = true →
          (fwSlotOf t (fld v 56 56)).phase = .invalid ∧ t.sec.status.bits.getLsbD 0 = true)) ∧
    (fld v 63 60 = 3 → (fwSlotOf s (fld v 56 56)).phase = .loading →
      ∃ t, exec (.fwAbort f) s = .next t ∧ fwSlotOf t (fld v 56 56) = {}) ∧
    (fld v 63 60 = 4 → ∃ t, exec (.fwCommit f) s = .next t ∧ t.sec.fwArb = max s.sec.fwArb s.sec.fwSvn ∧
      (s.sec.fwArb < s.sec.fwSvn → t.sec.status.bits.getLsbD 1 = true))) ∧
  (∀ (s : State) (f : Frame) (k : Nat), RegReady s f → f.opcode = Opc.st → inAperture (regOff f) = true →
    (if s.sec.fw0.phase = .loading then 0 else 1) = k → fwLoading s = true →
    s.sec.windowBase * 65536 + (regOff f - 0x0E100000) + f.payload.length ≤ (fwSlotOf s k).total →
    ∃ t, exec (.fwApertureWrite f) s = .next t ∧ fwSlotOf t k = { fwSlotOf s k with
      bytes := putBytes (fwSlotOf s k).bytes (s.sec.windowBase * 65536 + (regOff f - 0x0E100000)) f.payload })

/-- In every state and for every ready request: ATTEST_QUOTE answers the results that quoteResults gives (QUOTE, its signature and both
certificates), or RETRY with QUOTE_RETRY set within 100 ms of the context's last; METER_TARIFF without a meter answers RETRY;
DEBUG_UNLOCK, METER_TARIFF with a meter present, and a transfer of the owner key with no partial in application are DENIED with a
lifetime counter at 0, else the reading of their argument begins; OWNER_KEY_TRANSFER of a key installs it in an empty slot and is DENIED
in a full one; METER_EXPORT of records the log holds starts a job, and its end with RELEASE and no failed store lets every record up to
the last SEAL of the range be overwritten. The authorisation read and good: DEBUG_UNLOCK unlocks the authorised SCOPE and lowers its
counter by one; a transfer writes the new key, lowers its counter by one and counts one transfer; METER_TARIFF makes the set the one
that comes into force next and lowers both counters by one. Bad, each answers the failing check's status and changes no key, counter or
tariff, with AUTH_FAIL for the first two. MODULE_RESET leaves no job, the owner key as it was and, where the journal's checkpoint reads,
LAST_DOWN 3: a module that boots is in RUN from its slot, any other in recovery. (R14, R398, R411, R412, R413, R414, R415, R417, R432,
R434, R435) -/
def Obligations.SecurityAndMeterControlCommandsComplete : Prop :=
  (∀ (s : State) (r : CtlReq), CtlReady s 0x70 r →
    (quoteDue s r.ctx.toNat = true → ∃ t, exec (.attestQuote r) s = .next t ∧ Answered t 0x70 r Sts.ok (quoteResults s r.ctx.toNat r.args)) ∧
    (quoteDue s r.ctx.toNat = false →
      ∃ t, exec (.attestQuote r) s = .next t ∧ Answered t 0x70 r Sts.retry [] ∧ t.sec.status.bits.getLsbD 2 = true)) ∧
  (∀ (s : State) (r : CtlReq), CtlReady s 0x71 r →
    (s.sec.leftDebug = 0 → ∃ t, exec (.debugUnlock r) s = .next t ∧ Answered t 0x71 r Sts.denied [] ∧ t.sec = s.sec) ∧
    (s.sec.leftDebug ≠ 0 → ∃ t, exec (.debugUnlock r) s = .next t ∧ t.cfg.authWait = some ⟨0x71, r⟩ ∧
      KeepsBut [.cfgSpInbox, .cfgMirrorLog, .cfgAuthWait] s t)) ∧
  (∀ (s : State) (r : CtlReq), CtlReady s 0x72 r →
    (r.argLength = 64 → s.sec.ownerKey = none →
      ∃ t, exec (.ownerKeyTransfer r) s = .next t ∧ Answered t 0x72 r Sts.ok [] ∧ t.sec = { s.sec with ownerKey := some r.args }) ∧
    (r.argLength = 64 → s.sec.ownerKey ≠ none →
      ∃ t, exec (.ownerKeyTransfer r) s = .next t ∧ Answered t 0x72 r Sts.denied [] ∧ t.sec = s.sec) ∧
    (r.argLength ≠ 64 → s.cfg.applying = none → s.sec.leftXfer = 0 →
      ∃ t, exec (.ownerKeyTransfer r) s = .next t ∧ Answered t 0x72 r Sts.denied [] ∧ t.sec = s.sec) ∧
    (r.argLength ≠ 64 → s.cfg.applying = none → s.sec.leftXfer ≠ 0 →
      ∃ t, exec (.ownerKeyTransfer r) s = .next t ∧ t.cfg.authWait = some ⟨0x72, r⟩ ∧ KeepsBut [.cfgSpInbox, .cfgMirrorLog, .cfgAuthWait] s t)) ∧
  (∀ (s : State) (r : CtlReq), CtlReady s 0x80 r →
    (meterPresent s = false → ∃ t, exec (.meterTariff r) s = .next t ∧ Answered t 0x80 r Sts.retry [] ∧ t.mtr = s.mtr) ∧
    (meterPresent s = true → s.sec.leftMeter = 0 ∨ s.mtr.meter.elim 0 (·.left) = 0 →
      ∃ t, exec (.meterTariff r) s = .next t ∧ Answered t 0x80 r Sts.denied [] ∧ t.mtr = s.mtr) ∧
    (meterPresent s = true → s.sec.leftMeter ≠ 0 → s.mtr.meter.elim 0 (·.left) ≠ 0 →
      ∃ t, exec (.meterTariff r) s = .next t ∧ t.cfg.authWait = some ⟨0x80, r⟩ ∧ KeepsBut [.cfgSpInbox, .cfgMirrorLog, .cfgAuthWait] s t)) ∧
  (∀ (s : State) (r : CtlReq), CtlReady s 0x81 r → meterPresent s = true → s.mtr.released ≤ le r.args 0 8 →
    le r.args 0 8 + le r.args 8 4 ≤ s.mtr.nextPos → ∃ t, exec (.meterExport r) s = .next t ∧ JobAccepted s t 0x81 r []) ∧
  (∀ (s : State) (job : Nat) (x : Export), s.mtr.exports.find? (fun y => y.job == job) = some x → x.left = 0 →
    ∃ t, exec (.meterExportDone job) s = .next t ∧ (∀ y ∈ t.mtr.exports, y.job ≠ job) ∧
      (x.release = true → x.failed = [] → ∀ r ∈ exportRecs s x.first x.count, r.type = 2 → r.pos < t.mtr.released)) ∧
  (∀ (s s1 : State) (w : AuthWait) (b : Bytes), AuthRead s s1 w Sts.ok b →
    (w.code = 0x71 → ∃ t, exec .authorisationReadDone s = .next t ∧ match authBad s1 1 s1.sec.leftDebug b with
      | none => Answered t 0x71 w.req Sts.ok [] ∧ t.sec.unlocked = true ∧ t.sec.scope = BitVec.ofNat 2 (le b 88 8) ∧
          t.sec.leftDebug = s1.sec.leftDebug - 1
      | some e => Answered t 0x71 w.req e [] ∧ t.sec.status.bits.getLsbD 3 = true ∧ t.sec.unlocked = s1.sec.unlocked ∧
          t.sec.leftDebug = s1.sec.leftDebug) ∧
    (w.code = 0x72 → ∃ t, exec .authorisationReadDone s = .next t ∧ match authBad s1 2 s1.sec.leftXfer b with
      | none => t.sec.ownerKey = some (slice b 24 64) ∧ t.sec.leftXfer = s1.sec.leftXfer - 1 ∧ t.sec.transfers = s1.sec.transfers + 1
      | some e => Answered t 0x72 w.req e [] ∧ t.sec.status.bits.getLsbD 3 = true ∧ t.sec.ownerKey = s1.sec.ownerKey ∧
          t.sec.leftXfer = s1.sec.leftXfer) ∧
    (w.code = 0x80 → meterPresent s1 = true → ∃ t, exec .authorisationReadDone s = .next t ∧ match tariffBad s1 b with
      | none => Answered t 0x80 w.req Sts.ok [] ∧ t.mtr.pendingTariff = b ∧ t.mtr.tariffDigest = tariffDigestOf b ∧
          t.sec.leftMeter = s1.sec.leftMeter - 1 ∧ t.mtr.meter.elim 0 (·.left) = s1.mtr.meter.elim 0 (·.left) - 1
      | some e => Answered t 0x80 w.req e [] ∧ t.mtr = s1.mtr ∧ t.sec.leftMeter = s1.sec.leftMeter)) ∧
  (∀ (s : State) (r : CtlReq), CtlReady s 0x42 r → ∃ t, exec (.moduleReset r) s = .next t ∧
    t.mod.lastDown = (if journalOk s .d0 = true then 3 else 0) ∧ t.cfg.jobs = [] ∧ t.sec.ownerKey = s.sec.ownerKey ∧
    (∀ k, s.sec.sealed = true → s.sec.pufFail = false → bootSlot s = some k → t.mod.power = .run ∧ t.sec.recovery = false ∧ t.sec.fwSlot = k) ∧
    (s.sec.sealed = false ∨ s.sec.pufFail = true ∨ bootSlot s = none → t.mod.power = .starting ∧ t.sec.recovery = true))

/-- In every state: TAP_EVENT_SEND of a die that does not escrow sends its first event not yet sent; METER_ACK by the attached meter takes
out of the die's buffer the events sent up to its TAP_SEQ and no other; METER_ATTACH of a good meter makes it the meter, ATTACHED and
sending live where nothing is in escrow, else INGESTING, and writes ATTACH; a bad one sets ATTACH_REFUSED; METER_TAMPER erases the key
and both dies escrow; METER_LINK_LOSS leaves the meter absent and both dies escrowing; RECORD_PERIOD_END writes a SEAL last and brings
an accepted tariff into force where the log has room, else the device treats the meter as absent; ESCROW_SECOND adds 1,000 ms and
empties the sums; ESCROW_INGEST_SEGMENT releases the oldest segment, setting ESCROW_BAD where it fails its check, and with none left on
either die the meter is ATTACHED and the dies send live; TAP_BYTES_FLUSH empties the count. (R425, R426, R427, R430, R431, R433, R435,
R436, R437, R438, R439, R441) -/
def Obligations.MeterLogAndEscrowCommandsComplete : Prop :=
  (∀ (s : State) (d : Die) (e : TapEv), escrowing s d = false →
    (side s.mtr.tapBuf d).find? (fun x => decide (side s.mtr.tapSent d ≤ x.seq)) = some e →
    ∃ t, exec (.tapEventSend d) s = .next t ∧ side t.mtr.tapSent d = e.seq + 1 ∧ KeepsBut [.mtrTapSent] s t) ∧
  (∀ (s : State) (d : Die) (n : Nat), s.mtr.st = .attached →
    ∃ t, exec (.meterAck d n) s = .next t ∧ side t.mtr.tapBuf d =
      (side s.mtr.tapBuf d).filter (fun e => !(decide (e.seq ≤ n) && decide (e.seq < side s.mtr.tapSent d)))) ∧
  (∀ (s : State) (m : MeterIdent), (meterPresent s = true → s.mtr.escrow.d0.on = true) →
    ∃ t, exec (.meterAttach m) s = .next t ∧
      (m.tampered = false → Config.certOk m.cert = true → s.mtr.keyErased = false →
        t.mtr.meter = some m ∧ (∃ x, t.mtr.log.getLast? = some x ∧ x.type = 7) ∧
        (NoEscrow s → t.mtr.st = .attached ∧ ∀ d, (side t.mtr.escrow d).on = false) ∧ (¬ NoEscrow s → t.mtr.st = .ingesting)) ∧
      (m.tampered = true ∨ Config.certOk m.cert = false →
        t.mtr.status.bits.getLsbD 3 = true ∧ KeepsBut [.mtrStatus, .ctxs, .evQueue] s t)) ∧
  (∀ (s : State), meterPresent s = true →
    (∃ t, exec .meterTamper s = .next t ∧ t.mtr.st = .tampered ∧ t.mtr.keyErased = true ∧ ∀ d, (side t.mtr.escrow d).on = true) ∧
    (s.mtr.escrow.d0.on = s.mtr.escrow.d1.on →
      ∃ t, exec .meterLinkLoss s = .next t ∧ t.mtr.st = .absent ∧ ∀ d, (side t.mtr.escrow d).on = true)) ∧
  (∀ (s : State), s.mtr.st = .attached →
    (PeriodFits s → ∃ t x, exec .recordPeriodEnd s = .next t ∧ t.mtr.log.getLast? = some x ∧ x.type = 2 ∧ t.mtr.pendingTariff = [] ∧
      t.mtr.periodStart = periodEnd s (meterMs s) ∧
      (s.mtr.pendingTariff ≠ [] → ∀ m, t.mtr.meter = some m → m.tariff = s.mtr.pendingTariff)) ∧
    (¬ PeriodFits s → ∃ t, exec .recordPeriodEnd s = .next t ∧ t.mtr.st = .absent ∧ t.mtr.log = s.mtr.log ∧
      ∀ d, (side t.mtr.escrow d).on = true)) ∧
  (∀ (s : State) (d : Die), escrowing s d = true →
    ∃ t, exec (.escrowSecond d) s = .next t ∧ (side t.mtr.escrow d).ms = (side s.mtr.escrow d).ms + 1000 ∧ (side t.mtr.escrow d).agg = []) ∧
  (∀ (s : State) (d : Die), s.mtr.st = .ingesting → ringFull s d 64 = false →
    (∀ g r, (side s.mtr.escrow d).segs = g :: r → r ≠ [] →
      ∃ t, exec (.escrowIngestSegment d) s = .next t ∧ (side t.mtr.escrow d).segs = r ∧ t.mtr.st = .ingesting ∧
        (segmentOk s (closeSeg d g) d = false → t.mtr.status.bits.getLsbD 4 = true)) ∧
    (s.mtr.escrow.d0.segs = [] → s.mtr.escrow.d1.segs = [] →
      ∃ t, exec (.escrowIngestSegment d) s = .next t ∧ t.mtr.st = .attached ∧ ∀ e, (side t.mtr.escrow e).on = false)) ∧
  (∀ (s : State) (d : Die) (ctx tc dir : Nat), ∃ t, exec (.tapBytesFlush d ctx tc dir) s = .next t ∧
    getD (side t.mtr.bytesCnt d) (ctx * 16 + (dir % 2 * 8 + tc % 8)) 0 = 0 ∧
    KeepsBut [.mtrBytesCnt, .mtrTapSeq, .mtrTapBuf, .mtrEscrow] s t)

/-- In every state: INPUT_LOSS in RUN ends in OFF with what was staged in the flush region, the journal tails on media and LAST_DOWN 1;
INPUT_RETURN in range puts an OFF module in STANDBY; POWER_UP from STANDBY with input in range boots a sealed module with a working PUF
and a bootable image into RUN from that slot with no job, else into recovery; PLANNED_POWER_DOWN in RUN stops admission, and with no
work left, or at PLANNED_DOWN_TIMEOUT, the module flushes and is in STANDBY with LAST_DOWN 0; HOLDUP_TEST stores its result, below 20 ms
with HOLDUP_LOW and its event; THERMAL_HOLD_ENTER above 105 °C sets the hold, THERMAL_HOLD_EXIT at 100 °C ends it; THERMAL_TRIP at 110
°C ends in OFF with LAST_DOWN 2; COOLANT_INLET_HIGH above 40 °C and INPUT_LOW from 44 V to below 48 V set their status bits and send
their events. (R37, R408, R475, R476, R477, R478, R479, R483, R490) -/
def Obligations.PowerAndThermalCommandsComplete : Prop :=
  (∀ s : State, (∃ t, exec .inputLoss s = .next t ∧ t.mod.power = .off ∧ t.mod.inputOk = false ∧
    (s.mod.power = .run → Flushed s t ∧ t.mod.lastDown = 1))) ∧
  (∀ (s : State) (mv : Nat), s.mod.power = .off → 44000 ≤ mv → mv ≤ 62000 →
    ∃ t, exec (.inputReturn mv) s = .next t ∧ t.mod = { s.mod with power := .standby, inputOk := true, holdupReady := true, inputMv := mv } ∧
      KeepsBut [.modPower, .modInputOk, .modHoldupReady, .modInputMv] s t) ∧
  (∀ (s : State) (p : PowerUpIn), s.mod.power = .standby → 44000 ≤ p.inputMv → p.inputMv ≤ 62000 →
    ∃ t, exec (.powerUp p) s = .next t ∧
      (∀ k, s.sec.sealed = true → p.pufOk = true → bootSlot s = some k → t.mod.power = .run ∧ t.sec.recovery = false ∧ t.sec.fwSlot = k ∧
        t.cfg.jobs = [] ∧ t.mod.admitting = ⟨true, true⟩ ∧ t.cfg.activeSp = .d0) ∧
      (s.sec.sealed = false ∨ p.pufOk = false ∨ bootSlot s = none → t.mod.power = .starting ∧ t.sec.recovery = true)) ∧
  (∀ s : State, s.mod.power = .run →
    (workLeft s = false → ∃ t, exec .plannedPowerDown s = .next t ∧ t.mod.power = .standby ∧ t.mod.lastDown = 0 ∧ Flushed s t) ∧
    (workLeft s = true → ∃ t, exec .plannedPowerDown s = .next t ∧ t.mod.power = .run ∧ t.mod.planned = true ∧
      t.mod.admitting = ⟨false, false⟩ ∧ KeepsBut [.modAdmitting, .modEn, .modPlanned] s t) ∧
    (s.mod.planned = true → ∃ t, exec .plannedDownTimeout s = .next t ∧ t.mod.power = .standby ∧ t.mod.lastDown = 0 ∧ Flushed s t ∧
      ∀ d, (side t.col d).ops = [])) ∧
  (∀ (s : State) (v : Nat), (v < 200 → ∃ t, exec (.holdupTest v) s = .next t ∧ t.mod.holdup = v ∧ t.mod.holdupLow = true ∧
      t.mod.status.bits.getLsbD 3 = true ∧ Emitted s t s.cfg.activeSp 0 0x72 (toLE 2 v ++ zeros 6)) ∧
    (200 ≤ v → ∃ t, exec (.holdupTest v) s = .next t ∧ t.mod.holdup = Nat.min v 0xFFFF ∧ t.mod.holdupLow = false)) ∧
  (∀ (s : State) (d : Die) (tj inlet : Int),
    (105 < tj → (side s.mod.dies d).thermalHold = false → ∃ t, exec (.thermalHoldEnter d tj inlet) s = .next t ∧
      (side t.mod.dies d).thermalHold = true ∧ (side t.mod.dies d).tj = tj ∧ t.mod.coolIn = inlet ∧ t.mod.status.bits.getLsbD 0 = true ∧
      Emitted s t d 0 0x71 (toLE 1 (dieNum d) ++ [tempByte tj, tempByte inlet, 1#8] ++ zeros 4)) ∧
    (tj ≤ 100 → (side s.mod.dies d).thermalHold = true → ∃ t, exec (.thermalHoldExit d tj inlet) s = .next t ∧
      (side t.mod.dies d).thermalHold = false ∧ (side t.mod.dies d).tj = tj ∧ t.mod.coolIn = inlet ∧
      Emitted s t d 0 0x71 (toLE 1 (dieNum d) ++ [tempByte tj, tempByte inlet, 0#8] ++ zeros 4)) ∧
    (110 ≤ tj → s.mod.power = .run → ∃ t, exec (.thermalTrip d tj) s = .next t ∧ t.mod.power = .off ∧ t.mod.lastDown = 2 ∧ Flushed s t)) ∧
  (∀ (s : State) (inlet : Int), 40 < inlet → ∃ t, exec (.coolantInletHigh inlet) s = .next t ∧ t.mod.coolIn = inlet ∧
    t.mod.status.bits.getLsbD 7 = true ∧ Emitted s t .d0 0 0x71 (toLE 1 0 ++ [tempByte s.mod.dies.d0.tj, tempByte inlet,
      BitVec.ofNat 8 (b2n s.mod.dies.d0.thermalHold)] ++ zeros 4)) ∧
  (∀ (s : State) (mv : Nat), 44000 ≤ mv → mv < 48000 → ∃ t, exec (.inputLow mv) s = .next t ∧ t.mod.inputMv = mv ∧
    t.mod.status.bits.getLsbD 2 = true ∧ Emitted s t s.cfg.activeSp 0 0x76 (toLE 2 mv ++ zeros 6))

/-- In every state: PACE_MEASURE stores the pace, lowers a MIN_PACE already measured to it and sets PACE_LOW below 160,000 and clears it
from there on, with an event when that changes; REF_CLOCK_LOSS and REF_CLOCK_RETURN leave both dies off, or on, the reference, each die
that changes sending its event; LANE_AUTO_SPARE of a degraded port with AUTO_LANE and a spare lane starts retraining the lane on a
spare, and LANE_RETRAIN_DONE ends it with LANE_SPARED set; PC_AUTO_SPARE with AUTO_PC and a spare starts the copy and takes the spare,
else sets SPARES_OUT, and PC_SPARE_SWITCHOVER ends the copy with PC_SPARED set; ROW_REPAIR with AUTO_ROW holds the row, or sets
SPARES_OUT where the stack has none left, and ROW_REPAIR_DONE lets it go, counts it and sets ROW_REPAIRED; SP_TAKEOVER makes the standby
the active one, with no control request that has no commit record in the mirror log and no reading of an authorisation left, and sends
its event. (R33, R40, R45, R47, R49, R485, R487, R488, R490) -/
def Obligations.ClockRepairAndTakeoverCommandsComplete : Prop :=
  (∀ (s : State) (d : Die) (pace : Nat), ∃ t, exec (.paceMeasure d pace) s = .next t ∧ (side t.mod.dies d).pace = pace % 2 ^ 24 ∧
    (side t.mod.dies d).paceLow = decide (pace % 2 ^ 24 < 160000) ∧
    ((side s.mod.dies d).minPace ≠ 0 → (side t.mod.dies d).minPace = Nat.min (side s.mod.dies d).minPace (pace % 2 ^ 24)) ∧
    ((side s.mod.dies d).paceLow ≠ decide (pace % 2 ^ 24 < 160000) →
      Emitted s t d 0 0x10 (toLE 1 (b2n (decide (pace % 2 ^ 24 < 160000))) ++ zeros 3 ++ toLE 4 (pace % 2 ^ 24)))) ∧
  (∀ s : State, (∃ t, exec .refClockLoss s = .next t ∧ (∀ d, (side t.mod.dies d).refLost = true) ∧
      ∀ d, (side s.mod.dies d).refLost = false → t.mod.status.bits.getLsbD 1 = true ∧ Emitted s t d 0 0x11 [1#8]) ∧
    (∃ t, exec .refClockReturn s = .next t ∧ (∀ d, (side t.mod.dies d).refLost = false) ∧
      ∀ d, (side s.mod.dies d).refLost = true → Emitted s t d 0 0x11 [0#8])) ∧
  (∀ (s : State) (port lane : Nat), port ≤ 64 → lane ≤ 7 →
    (s.mod.autoLane = true → (portOf s port).errStatus.bits.getLsbD 7 = true → (subOf s port (laneSub s port lane)).retraining = none →
      (side s.mod.dies (portDie port)).spareLanes ≠ 0 →
      ∃ t, exec (.laneAutoSpare port lane) s = .next t ∧ (subOf t port (laneSub s port lane)).retraining = some lane ∧
        (side t.mod.dies (portDie port)).spareLanes = (side s.mod.dies (portDie port)).spareLanes - 1) ∧
    ((subOf s port (laneSub s port lane)).retraining = some lane →
      ∃ t, exec (.laneRetrainDone port lane) s = .next t ∧ (subOf t port (laneSub s port lane)).retraining = none ∧
        t.mod.lanes = s.mod.lanes ++ [(port, lane)] ∧ t.mod.status.bits.getLsbD 4 = true)) ∧
  (∀ (s : State) (stack pc : Nat), stack ≤ 3 → pc ≤ 63 →
    (s.mod.autoPc = true → s.mod.pcCopy.contains (stack, pc) = false →
      ∃ t, exec (.pcAutoSpare stack pc) s = .next t ∧
        (nth s.mod.pcLeft stack 0 ≠ 0 → t.mod.pcCopy = s.mod.pcCopy ++ [(stack, pc)] ∧
          nth t.mod.pcLeft stack 0 = nth s.mod.pcLeft stack 0 - 1) ∧
        (nth s.mod.pcLeft stack 0 = 0 → t.mod.status.bits.getLsbD 8 = true ∧ t.mod.pcCopy = s.mod.pcCopy)) ∧
    (s.mod.pcCopy.contains (stack, pc) = true →
      ∃ t, exec (.pcSpareSwitchover stack pc) s = .next t ∧ t.mod.pcCopy = dropFirst (fun x => x == (stack, pc)) s.mod.pcCopy ∧
        t.mod.status.bits.getLsbD 5 = true)) ∧
  (∀ (s : State) (stack row : Nat), stack ≤ 3 →
    (s.mod.autoRow = true → s.mod.rowBusy.contains (stack, row) = false →
      ∃ t, exec (.rowRepair stack row) s = .next t ∧
        (s.mod.rowsOut.contains stack = false → t.mod.rowBusy = s.mod.rowBusy ++ [(stack, row)]) ∧
        (s.mod.rowsOut.contains stack = true → t.mod.status.bits.getLsbD 8 = true ∧ t.mod.rowBusy = s.mod.rowBusy)) ∧
    (s.mod.rowBusy.contains (stack, row) = true → (∀ d, HomeQuiet s d) →
      ∃ t, exec (.rowRepairDone stack row) s = .next t ∧ t.mod.rowBusy = dropFirst (fun x => x == (stack, row)) s.mod.rowBusy ∧
        t.mod.rows = modAt s.mod.rows stack (fun n => satAdd n 1 0xFFFFFFFF) ∧ t.mod.status.bits.getLsbD 6 = true)) ∧
  (∀ s : State, ∃ t, exec .spTakeover s = .next t ∧ t.cfg.activeSp = otherDie s.cfg.activeSp ∧ t.cfg.authWait = none ∧
    (∀ f ∈ t.cfg.spInbox, f.opcode = Opc.ctlReq →
      s.cfg.mirrorLog.any (fun m => m.1 == f.srcEp.toNat && m.2.1 == beNat (slice f.payload 4 4)) = true) ∧ Emitted s t (otherDie s.cfg.activeSp) 0 0x13 [])

/-- In every state: a ready FENCE_ADVANCE of an endpoint that is no agent and whose switch is LIVE starts its job, and where no fencing of
it is under way begins one that reports to the job. ENDPOINT_GRACE_EXPIRE of an endpoint whose sub-links here are all out of service,
none of their ports in reset, and ENDPOINT_ACK_DEAD_EXPIRE of one reported under R226, begin its fencing where none is under way, and
set FLT.STATUS bit 0. ENDPOINT_FENCED of a fencing whose epoch is committed ends it and emits ENDPOINT_FENCED. COH_ACK_TIMEOUT of an
endpoint that a transaction awaits reports it to the detector and sets COH.STATUS bit 5. In every state: with space in die 0's journal
ring (R276), MAP_GENERATION_APPLY of a generation above the one applied makes it the generation applied; of one change it gives the
switch its new state and answering switch, or the endpoint its new fence epoch, whose commands executed so far are forgotten, and
changes no other endpoint's. A generation not above it changes no entry and no epoch. With that space, SWITCH_DECLARE_LOST on a keeper,
of another switch that is LIVE, advances the generation by one and, where no replica set with AUTO has its primary on that switch, makes
the switch LOST; every endpoint of it has its fence epoch advanced by one. HEARTBEAT_SEND begins to count answers anew; the first
HEARTBEAT of a keeper after it counts one. LEASE_LOSS of a switch not self-fenced self-fences it and sets FLT.STATUS bit 1. With that
space, LEASE_REGAIN of a self-fenced switch ends self-fencing where its entry is LIVE and answered by itself; where its entry is LOST,
it is LIVE again, every replay window is gone and the switch is doubtful on both dies; where its entry is PROMOTED it stays self-fenced.
(R448, R449, R226, R444, R109, R445, R446, R447, R455) -/
def Obligations.FencingAndFederationMapCommandsComplete : Prop :=
  ((∀ (s : State) (r : CtlReq), CtlReady s 0x60 r → epIndex (le r.args 0 4) < 0xFE → liveSwitch s (epSwitch (le r.args 0 4)) = true →
    ∃ t, exec (.fenceAdvance r) s = .next t ∧ JobAccepted s t 0x60 r [le r.args 0 4] ∧
      (s.flt.fencing.any (fun x => x.ep == le r.args 0 4) = false → (⟨le r.args 0 4, none, some s.cfg.nextJob⟩ : Fencing) ∈ t.flt.fencing)) ∧
  (∀ (s : State) (ep : Nat), linksOf s ep ≠ [] →
    (linksOf s ep).any (fun l => (subOf s l.1 l.2).phase == .up || (portOf s l.1).resetJob.isSome) = false →
    s.flt.fencing.any (fun x => x.ep == ep) = false →
    ∃ t, exec (.endpointGraceExpire ep) s = .next t ∧ (⟨ep, none, none⟩ : Fencing) ∈ t.flt.fencing ∧ t.flt.status.bits.getLsbD 0 = true) ∧
  (∀ (s : State) (ep : Nat), s.flt.ackReports.contains ep = true → s.flt.fencing.any (fun x => x.ep == ep) = false →
    ∃ t, exec (.endpointAckDeadExpire ep) s = .next t ∧ (⟨ep, none, none⟩ : Fencing) ∈ t.flt.fencing ∧
      t.flt.status.bits.getLsbD 0 = true ∧ ep ∉ t.flt.ackReports) ∧
  (∀ (s : State) (ep : Nat) (x : Fencing) (e : BitVec 16), s.flt.fencing.find? (fun y => y.ep == ep) = some x → x.epoch = some e →
    ∃ t, exec (.endpointFenced ep) s = .next t ∧ (∀ y ∈ t.flt.fencing, y.ep ≠ ep) ∧
      Emitted s t s.cfg.activeSp 0 0x60 (toLE 4 ep ++ toLE 2 e.toNat ++ zeros 2 ++ toLE 8 s.flt.gen)) ∧
  (∀ (s : State) (d : Die) (ep : Nat), (side s.coh d).dir.any (fun x => x.2.txn.elim false (fun t => t.awaited.contains ep)) = true →
    ∃ t, exec (.cohAckTimeout d ep) s = .next t ∧ ep ∈ t.flt.ackReports ∧ (side t.coh d).status.bits.getLsbD 5 = true)) ∧
  ((∀ (s : State) (gen : Nat) (sw to_ : Nat) (st : SwitchSt), s.flt.gen < gen → ringFull s .d0 64 = false →
    ∃ t, exec (.mapGenerationApply gen [.switch sw st to_]) s = .next t ∧ t.flt.gen = gen ∧ get? t.flt.switches sw = some ⟨st, to_⟩) ∧
  (∀ (s : State) (gen ep : Nat) (e : BitVec 16), s.flt.gen < gen → ringFull s .d0 64 = false →
    ∃ t, exec (.mapGenerationApply gen [.fence ep e]) s = .next t ∧ t.flt.gen = gen ∧ get? t.flt.fence ep = some e ∧ get? t.cfg.cmdSeq ep = none ∧
      ∀ k, k ≠ ep → get? t.flt.fence k = get? s.flt.fence k ∧ get? t.cfg.cmdSeq k = get? s.cfg.cmdSeq k) ∧
  (∀ (s : State) (gen : Nat) (cs : List MapChange), gen ≤ s.flt.gen →
    ∃ t, exec (.mapGenerationApply gen cs) s = .next t ∧ t.flt.gen = s.flt.gen ∧ t.flt.switches = s.flt.switches ∧ t.flt.fence = s.flt.fence) ∧
  (∀ (s : State) (sw : Nat), isKeeper s = true → switchSt s sw = some .live → sw ≠ s.cfg.switchId → ringFull s .d0 64 = false →
    ∃ t, exec (.switchDeclareLost sw) s = .next t ∧ t.flt.gen = s.flt.gen + 1 ∧
      ((recsOf s RT.replicaSet).all (fun r => !(bitAt (le r.body 1 1) 0 && primaryOf r.body == sw)) = true → switchSt t sw = some .lost) ∧
      ∀ i, i < 256 → getD t.flt.fence (sw * 256 + i) 0 = getD s.flt.fence (sw * 256 + i) 0 + 1) ∧
  (∀ (s : State), ∃ t, exec .heartbeatSend s = .next t ∧ t.flt.reached = 0 ∧ t.flt.heartbeats = []) ∧
  (∀ (s : State) (sw : Nat), (recOf s RT.mapKeeper sw).isSome = true → s.flt.heartbeats.contains sw = false →
    ∃ t, exec (.heartbeat sw) s = .next t ∧ t.flt.reached = s.flt.reached + 1 ∧ sw ∈ t.flt.heartbeats) ∧
  (∀ (s : State), s.flt.selfFenced = false →
    ∃ t, exec .leaseLoss s = .next t ∧ t.flt.selfFenced = true ∧ t.flt.status.bits.getLsbD 1 = true) ∧
  (∀ (s : State) (e : SwEnt), s.flt.selfFenced = true → get? s.flt.switches s.cfg.switchId = some e → ringFull s .d0 64 = false →
    (e.st = .live → e.answer = s.cfg.switchId → ∃ t, exec .leaseRegain s = .next t ∧ t.flt.selfFenced = false) ∧
    (e.st = .lost → ∃ t, exec .leaseRegain s = .next t ∧ t.flt.selfFenced = false ∧ switchSt t s.cfg.switchId = some .live ∧
      t.home.d0.windows = [] ∧ t.home.d1.windows = [] ∧ s.cfg.switchId ∈ t.home.d0.doubtful ∧ s.cfg.switchId ∈ t.home.d1.doubtful) ∧
    (e.st = .promoted → ∃ t, exec .leaseRegain s = .next t ∧ t.flt.selfFenced = true)))

/-- In every state: a ready COMP_COMMIT of a registered composition that is not FAILED, at its step epoch e with e + 1 below 0xFFFF_FFFF,
none of its commits under way, starts its job and takes the composition to epoch e + 1. COMP_COMMIT_COMPLETE of a composition with a
commit under way ends it: where every listed switch is LIVE each has journaled the epoch; else the composition is FAILED. A ready
COMP_ROLLBACK of a registered composition with no rollback under way starts its job, and, with space in die 0's journal ring,
COMP_ROLLBACK_COMPLETE leaves the composition RUNNING at the least step epoch that a listed LIVE switch has journaled. A ready
REPLICA_PROMOTE of a set with a member on a LIVE switch, whose primary's switch no other switch answers for, starts its job and adds one
to CONFIG_GEN. (R463, R464, R465, R466, R458, R107) -/
def Obligations.CompositionCommandsComplete : Prop :=
  (∀ (s : State) (r : CtlReq) (b : Bytes), CtlReady s 0x62 r → recOf s RT.composition (le r.args 0 2) = some b →
    (compOf s (le r.args 0 2)).failed = false → le r.args 4 4 = (compOf s (le r.args 0 2)).epoch →
    (compOf s (le r.args 0 2)).epoch + 1 < 0xFFFFFFFF → (compOf s (le r.args 0 2)).commitJob = none →
    ∃ t, exec (.compCommit r) s = .next t ∧ JobAccepted s t 0x62 r [le r.args 0 2] ∧
      (compOf t (le r.args 0 2)).epoch = (compOf s (le r.args 0 2)).epoch + 1 ∧ (compOf t (le r.args 0 2)).commitJob = some s.cfg.nextJob) ∧
  (∀ (s : State) (c n : Nat) (b : Bytes), (compOf s c).commitJob = some n → recOf s RT.composition c = some b →
    ∃ t, exec (.compCommitComplete c) s = .next t ∧ (compOf t c).commitJob = (otherJobs s 0x62 c n).head? ∧
      ((compSwitches b).all (liveSwitch s) = true → otherJobs s 0x62 c n = [] → ∀ k ∈ compSwitches b, get? (compOf t c).journaled k = some (compOf s c).epoch) ∧
      ((compSwitches b).all (liveSwitch s) = false → (compOf t c).failed = true)) ∧
  (∀ (s : State) (r : CtlReq) (b : Bytes), CtlReady s 0x63 r → recOf s RT.composition (le r.args 0 2) = some b →
    (compOf s (le r.args 0 2)).rollbackJob = none →
    ∃ t, exec (.compRollback r) s = .next t ∧ JobAccepted s t 0x63 r [le r.args 0 2] ∧
      (compOf t (le r.args 0 2)).rollbackJob = some s.cfg.nextJob) ∧
  (∀ (s : State) (c n : Nat) (b : Bytes), (compOf s c).rollbackJob = some n → recOf s RT.composition c = some b → ringFull s .d0 64 = false →
    ∃ t, exec (.compRollbackComplete c) s = .next t ∧ (compOf t c).failed = false ∧ (compOf t c).rollbackJob = (otherJobs s 0x63 c n).head? ∧
      (compOf t c).epoch = leastJournaled s c b) ∧
  (∀ (s : State) (r : CtlReq) (b : Bytes) (m : Nat), CtlReady s 0x64 r → recOf s RT.replicaSet (le r.args 0 2) = some b →
    chosenMember s b = some m →
    (get? s.flt.switches (primaryOf b)).elim true (fun x => x.st != .promoted || x.answer == m) = true →
    ∃ t, exec (.replicaPromote r) s = .next t ∧ JobAccepted s t 0x64 r [le r.args 0 2] ∧ t.cfg.configGen = s.cfg.configGen + 1)

/-- In every state: TRAY_LOST of a port with a TRAY record that was not lost before, with space in its die's journal ring for the records it
may write, notes the tray as lost and sets FLT.STATUS bit 3. XFER_IN that passes the destination's checks, whose transfer has not come
before, with space in the journal ring, creates an INBOUND object with the transfer's owner, tier, kind and size at epoch e + 1.
XFER_SWITCHOVER of a transfer not yet committed, with space in the ring, no access admitted before it unperformed and the object's bytes
read, commits it, and of one whose bytes cannot be read ends it. XFER_COMMIT_APPLY at the source ends the committed transfer of that
job, and its object is gone (objects stand once in the table); at the destination, where no such transfer is under way, the INBOUND
object of that ID becomes RESIDENT once its bytes are in its tier. XFER_RESOLVE of a source that had not committed frees the INBOUND
objects of its handle, and of one that had makes none of them stay INBOUND once its bytes are in its tier. In every state: a ready
PEP_SET under context 0 with the debug unlock's PEPPER scope, or in soak mode under the context it affects with a kind that soak mode
permits, installs its rule under its number; any other ready PEP_SET is DENIED and changes no rule. A ready PEP_CLEAR under context 0
with that scope leaves no rule of its number, or none at all for 0xFF; without the scope it is DENIED and changes no rule; under another
context it leaves no soak rule of that context among those it names, and no other rule changes. (R456, R460, R461, R462, R467, R468) -/
def Obligations.TransferLossAndPepperCommandsComplete : Prop :=
  ((∀ (s : State) (port : Nat) (b : Bytes), recOf s RT.tray port = some b → s.flt.lostTrays.contains port = false →
    ringFull s (portDie port) (2 ^ 20) = false →
    ∃ t, exec (.trayLost port) s = .next t ∧ port ∈ t.flt.lostTrays ∧ t.flt.status.bits.getLsbD 3 = true) ∧
  (∀ (s : State) (x : XferIn) (e : ExtV) (id : Nat), xferInBad s x = none → extOf s x.ext = some e → freeObjId s = some id →
    s.objs.any (fun o => o.2.st == .inbound && o.2.oldHandle == x.oldHandle.toNat) = false → ringFull s e.die 64 = false →
    ∃ t o, exec (.xferIn x) s = .next t ∧ get? t.objs id = some o ∧ o.st = .inbound ∧ o.owner = x.owner ∧ o.tier = x.tier ∧
      o.kind = x.kind ∧ o.size = x.size ∧ o.ext = x.ext ∧ o.epoch = x.epoch + 1) ∧
  (∀ (s : State) (job : Nat) (x : Xfer) (o : Obj) (e : ExtV), s.flt.xfers.find? (fun y => y.job == job) = some x → x.committed = false →
    get? s.objs x.obj = some o → extOf s o.ext = some e → ringFull s e.die 64 = false → accessOpen s e.die x.obj = false →
    copied s e.die (.xfer job) = true →
    ∃ t, exec (.xferSwitchover job) s = .next t ∧
      t.flt.xfers.find? (fun y => y.job == job) = some { x with switching := true, committed := true, dirty := [] }) ∧
  (∀ (s : State) (job : Nat) (x : Xfer) (o : Obj) (e : ExtV) (j : CopyJob), s.flt.xfers.find? (fun y => y.job == job) = some x →
    get? s.objs x.obj = some o → extOf s o.ext = some e → jobFor s e.die (.xfer job) = some j → j.failed.isSome = true →
    ∃ t, exec (.xferSwitchover job) s = .next t ∧ ∀ y ∈ t.flt.xfers, y.job ≠ job) ∧
  (∀ (s : State) (job : Nat) (x : Xfer), s.flt.xfers.find? (fun y => y.job == job && y.committed) = some x →
    ∃ t, exec (.xferCommitApply job) s = .next t ∧ (∀ y ∈ t.flt.xfers, y.job ≠ job) ∧
      ((s.objs.filter (fun p => p.1 == x.obj)).length ≤ 1 → get? t.objs x.obj = none)) ∧
  (∀ (s : State) (id : Nat) (o : Obj) (e : ExtV), s.flt.xfers.find? (fun y => y.job == id && y.committed) = none →
    get? s.objs id = some o → o.st = .inbound → extOf s o.ext = some e →
    copyEnded s e.die (.out id) = true → ∃ t, exec (.xferCommitApply id) s = .next t ∧ get? t.objs id = some { o with st := .resident, oldHandle := 0 }) ∧
  (∀ (s : State) (a : XferAnswer) (id : Nat) (o : Obj) (e : ExtV), s.objs = [(id, o)] → o.st = .inbound →
    o.oldHandle = a.oldHandle.toNat → extOf s o.ext = some e → s.flt.xfers = [] →
    copyEnded s e.die (.out id) = true →
    ∃ t, exec (.xferResolve [a]) s = .next t ∧
      (get? t.objs id).map (·.st) = (if a.committed = true then some ObjSt.resident else none))) ∧
  ((∀ (s : State) (r : CtlReq), CtlReady s 0x90 r →
    let a := r.args
    let soak := le a 6 2 ≠ 0 ∧ r.ctx.toNat = le a 6 2 ∧ (le a 1 1 = 1 ∨ le a 1 1 = 2 ∨ le a 1 1 = 4)
    let debug := s.sec.unlocked = true ∧ s.sec.scope.getLsbD 0 = true ∧ r.ctx.toNat = 0
    (soak ∨ debug → ∃ t x, exec (.pepSet r) s = .next t ∧ Answered t 0x90 r Sts.ok [] ∧ get? t.flt.pepper (le a 0 1) = some x ∧
      x.kind = le a 1 1 ∧ x.mask = le a 2 1 ∧ x.port = le a 4 2 ∧ x.ctx = le a 6 2 ∧ x.magnitude = le a 8 4 ∧ x.log2 = le a 12 1 ∧
      x.lfsr = BitVec.ofNat 64 (le a 16 8) ∧ (x.soak = true ↔ soak)) ∧
    (¬soak → ¬debug → ∃ t, exec (.pepSet r) s = .next t ∧ Answered t 0x90 r Sts.denied [] ∧ t.flt.pepper = s.flt.pepper)) ∧
  (∀ (s : State) (r : CtlReq), CtlReady s 0x91 r →
    let n := le r.args 0 1
    let debug := s.sec.unlocked = true ∧ s.sec.scope.getLsbD 0 = true
    (r.ctx.toNat = 0 → debug → ∃ t, exec (.pepClear r) s = .next t ∧ Answered t 0x91 r Sts.ok [] ∧
      ∀ x, x ∈ t.flt.pepper ↔ x ∈ s.flt.pepper ∧ n ≠ 0xFF ∧ x.1 ≠ n) ∧
    (r.ctx.toNat = 0 → ¬debug → ∃ t, exec (.pepClear r) s = .next t ∧ Answered t 0x91 r Sts.denied [] ∧ t.flt.pepper = s.flt.pepper) ∧
    (r.ctx.toNat ≠ 0 → ∃ t, exec (.pepClear r) s = .next t ∧ Answered t 0x91 r Sts.ok [] ∧
      ∀ x, x ∈ t.flt.pepper ↔ x ∈ s.flt.pepper ∧ ¬((n = 0xFF ∨ x.1 = n) ∧ x.2.soak = true ∧ x.2.ctx = r.ctx.toNat))))

end Slice0
end

