-- ==== Sys2Proof/Laws/Keeps.lean ====
section
/-! SUPPORT. What a change of the state may do: the parts it may change, by a mask, and what it does to every state (memory keeps its
canonical form, the anti-rollback counters never fall, the lifetime counters never rise); the laws of this relation, and the changes of
one part. -/

namespace Sys2Proof
namespace Machine

/-- The number of a part. -/
def Piece.num (p : Piece) : Nat := p.ctorIdx

/-- Of the counters of the root store, two never fall and three never rise. -/
def SecMono (x y : SecState) : Prop :=
  x.bsArb ≤ y.bsArb ∧ x.fwArb ≤ y.fwArb ∧ y.leftMeter ≤ x.leftMeter ∧ y.leftDebug ≤ x.leftDebug ∧ y.leftXfer ≤ x.leftXfer

theorem SecMono.refl (x : SecState) : SecMono x x := ⟨le_rfl, le_rfl, le_rfl, le_rfl, le_rfl⟩

/-- What every change does. -/
structure Mono (s t : State) : Prop where
  mem : memWf s.mem = true → memWf t.mem = true
  sec : SecMono s.sec t.sec

theorem Mono.refl (s : State) : Mono s s := ⟨id, SecMono.refl _⟩

theorem Mono.trans {s t u : State} (h : Mono s t) (k : Mono t u) : Mono s u :=
  ⟨fun w => k.mem (h.mem w), ⟨h.sec.1.trans k.sec.1, h.sec.2.1.trans k.sec.2.1, k.sec.2.2.1.trans h.sec.2.2.1,
    k.sec.2.2.2.1.trans h.sec.2.2.2.1, k.sec.2.2.2.2.trans h.sec.2.2.2.2⟩⟩

theorem Mono.of_same {s t : State} (h : t.mem = s.mem) (k : t.sec = s.sec) : Mono s t :=
  ⟨fun w => by rw [h]; exact w, by rw [k]; exact SecMono.refl _⟩

/-- At most the parts whose bits are set in a mask differ, and the change is one of those that every change is. -/
structure Keeps (m : Nat) (s t : State) : Prop where
  same : ∀ p : Piece, m.testBit p.num = false → p.same s t
  mono : Mono s t


/-- The state a step ends in, or the state it came from where it stops. -/
def after (o : Host.Outcome State Fault Refusal) (s : State) : State :=
  match o with
  | .next t => t
  | _ => s

/-- One mask lies within another. -/
abbrev Sub (a b : Nat) : Prop := a &&& b = a

theorem Piece.same_refl (p : Piece) (s : State) : p.same s s := by cases p <;> first | rfl | exact ⟨rfl, rfl⟩

theorem Piece.same_trans {p : Piece} {s t u : State} (h : p.same s t) (k : p.same t u) : p.same s u := by
  cases p <;> first | exact Eq.trans k h | exact ⟨k.1.trans h.1, k.2.trans h.2⟩

theorem Keeps.refl (m : Nat) (s : State) : Keeps m s s := ⟨fun p _ => p.same_refl s, Mono.refl s⟩

theorem Keeps.trans {m : Nat} {s t u : State} (h : Keeps m s t) (k : Keeps m t u) : Keeps m s u :=
  ⟨fun p hp => Piece.same_trans (h.same p hp) (k.same p hp), h.mono.trans k.mono⟩

theorem Keeps.wider {a b : Nat} {s t : State} (hs : Sub a b) (h : Keeps a s t) : Keeps b s t := by
  refine ⟨fun p hp => h.same p ?_, h.mono⟩
  have e : (a &&& b).testBit p.num = a.testBit p.num := by rw [hs]
  rw [Nat.testBit_and, hp, Bool.and_false] at e
  exact e.symm

/-- What changes at most the parts of a mask can follow any change under a larger mask. -/
theorem Keeps.lift {a m : Nat} {s0 s t : State} (hs : Sub a m) (h : Keeps a s t) (k : Keeps m s0 s) : Keeps m s0 t :=
  k.trans (h.wider hs)

theorem keeps_foldl {α : Type} {m : Nat} {s0 s : State} {l : List α} {f : State → α → State}
    (h : ∀ t x, Keeps m t (f t x)) (k : Keeps m s0 s) : Keeps m s0 (l.foldl f s) := by
  induction l generalizing s with
  | nil => exact k
  | cons x r ih => exact ih (k.trans (h _ x))

theorem keeps_if {m : Nat} {s0 x y : State} {c : Prop} [Decidable c] (h : c → Keeps m s0 x) (k : ¬c → Keeps m s0 y) :
    Keeps m s0 (if c then x else y) := by by_cases hc : c <;> simp [hc, h, k]

theorem keeps_elim {α : Type} {m : Nat} {s0 x : State} {o : Option α} {f : α → State} (h : Keeps m s0 x) (k : ∀ v, Keeps m s0 (f v)) :
    Keeps m s0 (o.elim x f) := by cases o <;> simp [h, k]

theorem keeps_if_fst {β : Type} {m : Nat} {s0 : State} {x y : State × β} {c : Prop} [Decidable c] (h : c → Keeps m s0 x.1)
    (k : ¬c → Keeps m s0 y.1) : Keeps m s0 (if c then x else y).1 := by by_cases hc : c <;> simp [hc, h, k]

theorem keeps_if_snd {β : Type} {m : Nat} {s0 : State} {x y : β × State} {c : Prop} [Decidable c] (h : c → Keeps m s0 x.2)
    (k : ¬c → Keeps m s0 y.2) : Keeps m s0 (if c then x else y).2 := by by_cases hc : c <;> simp [hc, h, k]

theorem keeps_if_mid {β γ : Type} {m : Nat} {s0 : State} {x y : β × State × γ} {c : Prop} [Decidable c]
    (h : c → Keeps m s0 x.2.1) (k : ¬c → Keeps m s0 y.2.1) : Keeps m s0 (if c then x else y).2.1 := by
  by_cases hc : c <;> simp [hc, h, k]

theorem keeps_if_third {β γ : Type} {m : Nat} {s0 : State} {x y : β × γ × State} {c : Prop} [Decidable c]
    (h : c → Keeps m s0 x.2.2) (k : ¬c → Keeps m s0 y.2.2) : Keeps m s0 (if c then x else y).2.2 := by
  by_cases hc : c <;> simp [hc, h, k]

theorem keeps_if_did {m : Nat} {s0 : State} {x y : Did} {c : Prop} [Decidable c] (h : c → Keeps m s0 x.s)
    (k : ¬c → Keeps m s0 y.s) : Keeps m s0 (if c then x else y).s := by by_cases hc : c <;> simp [hc, h, k]

theorem keeps_if_after {m : Nat} {s0 s : State} {x y : Host.Outcome State Fault Refusal} {c : Prop} [Decidable c]
    (h : c → Keeps m s0 (after x s)) (k : ¬c → Keeps m s0 (after y s)) : Keeps m s0 (after (if c then x else y) s) := by
  by_cases hc : c <;> simp [hc, h, k]

theorem keeps_foldl_snd {α β : Type} {m : Nat} {s0 : State} {a : β × State} {l : List α} {f : β × State → α → β × State}
    (h : ∀ t x, Keeps m t.2 (f t x).2) (k : Keeps m s0 a.2) : Keeps m s0 (l.foldl f a).2 := by
  induction l generalizing a with
  | nil => exact k
  | cons x r ih => exact ih (k.trans (h _ x))

theorem keeps_foldl_third {α β γ : Type} {m : Nat} {s0 : State} {a : β × γ × State} {l : List α} {f : β × γ × State → α → β × γ × State}
    (h : ∀ t x, Keeps m t.2.2 (f t x).2.2) (k : Keeps m s0 a.2.2) : Keeps m s0 (l.foldl f a).2.2 := by
  induction l generalizing a with
  | nil => exact k
  | cons x r ih => exact ih (k.trans (h _ x))

theorem keeps_foldl_mid {α β γ : Type} {m : Nat} {s0 : State} {a : β × State × γ} {l : List α} {f : β × State × γ → α → β × State × γ}
    (h : ∀ t x, Keeps m t.2.1 (f t x).2.1) (k : Keeps m s0 a.2.1) : Keeps m s0 (l.foldl f a).2.1 := by
  induction l generalizing a with
  | nil => exact k
  | cons x r ih => exact ih (k.trans (h _ x))

theorem keeps_foldl_fst {α β : Type} {m : Nat} {s0 : State} {a : State × β} {l : List α} {f : State × β → α → State × β}
    (h : ∀ t x, Keeps m t.1 (f t x).1) (k : Keeps m s0 a.1) : Keeps m s0 (l.foldl f a).1 := by
  induction l generalizing a with
  | nil => exact k
  | cons x r ih => exact ih (k.trans (h _ x))

theorem sub_or {a b c : Nat} (h : Sub a b) : Sub (a ||| c) (b ||| c) := by
  unfold Sub at *
  apply Nat.eq_of_testBit_eq
  intro i
  have e : (a &&& b).testBit i = a.testBit i := by rw [h]
  rw [Nat.testBit_and] at e
  simp only [Nat.testBit_and, Nat.testBit_or]
  revert e
  cases a.testBit i <;> cases b.testBit i <;> cases c.testBit i <;> simp

theorem sub_trans {a b c : Nat} (h : Sub a b) (k : Sub b c) : Sub a c := by
  unfold Sub at *
  rw [← h, Nat.and_assoc, k]

theorem sub_or_left {a b c : Nat} (h : Sub a b) : Sub a (b ||| c) := by
  unfold Sub at *
  apply Nat.eq_of_testBit_eq
  intro i
  have e : (a &&& b).testBit i = a.testBit i := by rw [h]
  rw [Nat.testBit_and] at e
  simp only [Nat.testBit_and, Nat.testBit_or]
  revert e
  cases a.testBit i <;> cases b.testBit i <;> cases c.testBit i <;> simp

theorem keepsBut_of {m : Nat} {l : List Piece} {s t : State} (h : Keeps m s t)
    (hl : ∀ p : Piece, p ∉ l → m.testBit p.num = false) : KeepsBut l s t := fun p hp => h.same p (hl p hp)

/-- CfgState changed at most where a mask says so. -/
structure CfgKeeps (m : Nat) (x y : CfgState) : Prop where
  records : m.testBit 1 = true ∨ y.records = x.records
  slotA : m.testBit 2 = true ∨ y.slotA = x.slotA
  slotB : m.testBit 3 = true ∨ y.slotB = x.slotB
  slotP : m.testBit 4 = true ∨ y.slotP = x.slotP
  lastLoadId : m.testBit 5 = true ∨ y.lastLoadId = x.lastLoadId
  loadOrder : m.testBit 6 = true ∨ y.loadOrder = x.loadOrder
  preferred : m.testBit 7 = true ∨ y.preferred = x.preferred
  active : m.testBit 8 = true ∨ y.active = x.active
  fallback : m.testBit 9 = true ∨ y.fallback = x.fallback
  cameUnconfigured : m.testBit 10 = true ∨ y.cameUnconfigured = x.cameUnconfigured
  unconfigured : m.testBit 11 = true ∨ y.unconfigured = x.unconfigured
  switchId : m.testBit 12 = true ∨ y.switchId = x.switchId
  activeId : m.testBit 13 = true ∨ y.activeId = x.activeId
  detClass : m.testBit 14 = true ∨ y.detClass = x.detClass
  configGen : m.testBit 15 = true ∨ y.configGen = x.configGen
  ethCtl : m.testBit 16 = true ∨ y.ethCtl = x.ethCtl
  ethLft : m.testBit 17 = true ∨ y.ethLft = x.ethLft
  localFrac : m.testBit 18 = true ∨ y.localFrac = x.localFrac
  localBytes : m.testBit 19 = true ∨ y.localBytes = x.localBytes
  totalBytes : m.testBit 20 = true ∨ y.totalBytes = x.totalBytes
  status : m.testBit 21 = true ∨ y.status = x.status
  lastStatus : m.testBit 22 = true ∨ y.lastStatus = x.lastStatus
  applying : m.testBit 23 = true ∨ y.applying = x.applying
  draining : m.testBit 24 = true ∨ y.draining = x.draining
  cmdSeq : m.testBit 25 = true ∨ y.cmdSeq = x.cmdSeq
  jobs : m.testBit 26 = true ∨ y.jobs = x.jobs
  nextJob : m.testBit 27 = true ∨ y.nextJob = x.nextJob
  activeSp : m.testBit 28 = true ∨ y.activeSp = x.activeSp
  spInbox : m.testBit 29 = true ∨ y.spInbox = x.spInbox
  authWait : m.testBit 30 = true ∨ y.authWait = x.authWait
  stalkWait : m.testBit 31 = true ∨ y.stalkWait = x.stalkWait
  mirrorLog : m.testBit 32 = true ∨ y.mirrorLog = x.mirrorLog

theorem CfgKeeps.refl (m : Nat) (x : CfgState) : CfgKeeps m x x := by constructor <;> exact .inr rfl

/-- LftState changed at most where a mask says so. -/
structure LftKeeps (m : Nat) (x y : LftState) : Prop where
  ports : m.testBit 33 = true ∨ y.ports = x.ports
  spray : m.testBit 34 = true ∨ y.spray = x.spray
  reseq : m.testBit 35 = true ∨ y.reseq = x.reseq
  barrierTx : m.testBit 36 = true ∨ y.barrierTx = x.barrierTx
  barrierRx : m.testBit 37 = true ∨ y.barrierRx = x.barrierRx
  nextBarrier : m.testBit 38 = true ∨ y.nextBarrier = x.nextBarrier
  livePaths : m.testBit 39 = true ∨ y.livePaths = x.livePaths
  sprayIn : m.testBit 40 = true ∨ y.sprayIn = x.sprayIn
  sent : m.testBit 41 = true ∨ y.sent = x.sent
  kaSent : m.testBit 42 = true ∨ y.kaSent = x.kaSent
  pfcSent : m.testBit 43 = true ∨ y.pfcSent = x.pfcSent

theorem LftKeeps.refl (m : Nat) (x : LftState) : LftKeeps m x x := by constructor <;> exact .inr rfl

/-- SwcState changed at most where a mask says so. -/
structure SwcKeeps (m : Nat) (x y : SwcState) : Prop where
  fifos : m.testBit 44 = true ∨ y.fifos = x.fifos
  deficits : m.testBit 45 = true ∨ y.deficits = x.deficits
  offFree : m.testBit 46 = true ∨ y.offFree = x.offFree
  born : m.testBit 47 = true ∨ y.born = x.born
  suspect : m.testBit 48 = true ∨ y.suspect = x.suspect
  quarantined : m.testBit 49 = true ∨ y.quarantined = x.quarantined
  auditEpoch : m.testBit 50 = true ∨ y.auditEpoch = x.auditEpoch
  slackUsed : m.testBit 51 = true ∨ y.slackUsed = x.slackUsed
  withhold : m.testBit 52 = true ∨ y.withhold = x.withhold
  status : m.testBit 53 = true ∨ y.status = x.status
  passes : m.testBit 54 = true ∨ y.passes = x.passes
  reclaimed : m.testBit 55 = true ∨ y.reclaimed = x.reclaimed
  arbWeight : m.testBit 56 = true ∨ y.arbWeight = x.arbWeight
  log2n : m.testBit 57 = true ∨ y.log2n = x.log2n
  trunc : m.testBit 58 = true ∨ y.trunc = x.trunc
  payload : m.testBit 59 = true ∨ y.payload = x.payload
  egress : m.testBit 60 = true ∨ y.egress = x.egress
  ingress : m.testBit 61 = true ∨ y.ingress = x.ingress
  enable : m.testBit 62 = true ∨ y.enable = x.enable
  samplePorts : m.testBit 63 = true ∨ y.samplePorts = x.samplePorts
  sampleDest : m.testBit 64 = true ∨ y.sampleDest = x.sampleDest
  sampleDrop : m.testBit 65 = true ∨ y.sampleDrop = x.sampleDrop
  samplePool : m.testBit 66 = true ∨ y.samplePool = x.samplePool
  sampleSeq : m.testBit 67 = true ∨ y.sampleSeq = x.sampleSeq
  lfsr : m.testBit 68 = true ∨ y.lfsr = x.lfsr
  stops : m.testBit 69 = true ∨ y.stops = x.stops
  stalkIn : m.testBit 70 = true ∨ y.stalkIn = x.stalkIn
  stalkSeq : m.testBit 71 = true ∨ y.stalkSeq = x.stalkSeq
  stalkReplay : m.testBit 72 = true ∨ y.stalkReplay = x.stalkReplay
  stalkNext : m.testBit 73 = true ∨ y.stalkNext = x.stalkNext
  stalkSeen : m.testBit 74 = true ∨ y.stalkSeen = x.stalkSeen
  stopMsgs : m.testBit 75 = true ∨ y.stopMsgs = x.stopMsgs
  agentInbox : m.testBit 76 = true ∨ y.agentInbox = x.agentInbox
  agentHold : m.testBit 77 = true ∨ y.agentHold = x.agentHold
  agentSeq : m.testBit 78 = true ∨ y.agentSeq = x.agentSeq
  discarded : m.testBit 79 = true ∨ y.discarded = x.discarded

theorem SwcKeeps.refl (m : Nat) (x : SwcState) : SwcKeeps m x x := by constructor <;> exact .inr rfl

/-- HomeState changed at most where a mask says so. -/
structure HomeKeeps (m : Nat) (x y : HomeState) : Prop where
  inbox : m.testBit 80 = true ∨ y.inbox = x.inbox
  waiting : m.testBit 81 = true ∨ y.waiting = x.waiting
  order : m.testBit 82 = true ∨ y.order = x.order
  starved : m.testBit 83 = true ∨ y.starved = x.starved
  windows : m.testBit 84 = true ∨ y.windows = x.windows
  doubtful : m.testBit 85 = true ∨ y.doubtful = x.doubtful
  hot : m.testBit 86 = true ∨ y.hot = x.hot
  combineEn : m.testBit 87 = true ∨ y.combineEn = x.combineEn
  ageUs : m.testBit 88 = true ∨ y.ageUs = x.ageUs
  status : m.testBit 89 = true ∨ y.status = x.status
  combined : m.testBit 90 = true ∨ y.combined = x.combined
  agedIn : m.testBit 91 = true ∨ y.agedIn = x.agedIn
  ageNo : m.testBit 92 = true ∨ y.ageNo = x.ageNo
  ackDropped : m.testBit 93 = true ∨ y.ackDropped = x.ackDropped
  resumed : m.testBit 94 = true ∨ y.resumed = x.resumed

theorem HomeKeeps.refl (m : Nat) (x : HomeState) : HomeKeeps m x x := by constructor <;> exact .inr rfl

/-- CohState changed at most where a mask says so. -/
structure CohKeeps (m : Nat) (x y : CohState) : Prop where
  dir : m.testBit 95 = true ∨ y.dir = x.dir
  outstanding : m.testBit 96 = true ∨ y.outstanding = x.outstanding
  msgWait : m.testBit 97 = true ∨ y.msgWait = x.msgWait
  txnNo : m.testBit 98 = true ∨ y.txnNo = x.txnNo
  fenceTags : m.testBit 99 = true ∨ y.fenceTags = x.fenceTags
  ackTimeoutMs : m.testBit 100 = true ∨ y.ackTimeoutMs = x.ackTimeoutMs
  status : m.testBit 101 = true ∨ y.status = x.status
  recalls : m.testBit 102 = true ∨ y.recalls = x.recalls
  sel : m.testBit 103 = true ∨ y.sel = x.sel
  rec0 : m.testBit 104 = true ∨ y.rec0 = x.rec0
  rec1 : m.testBit 105 = true ∨ y.rec1 = x.rec1

theorem CohKeeps.refl (m : Nat) (x : CohState) : CohKeeps m x x := by constructor <;> exact .inr rfl

/-- TierState changed at most where a mask says so. -/
structure TierKeeps (m : Nat) (x y : TierState) : Prop where
  refillEn : m.testBit 106 = true ∨ y.refillEn = x.refillEn
  spillEn : m.testBit 107 = true ∨ y.spillEn = x.spillEn
  prefetchDepth : m.testBit 108 = true ∨ y.prefetchDepth = x.prefetchDepth
  highWm : m.testBit 109 = true ∨ y.highWm = x.highWm
  lowWm : m.testBit 110 = true ∨ y.lowWm = x.lowWm
  status : m.testBit 111 = true ∨ y.status = x.status
  spilled : m.testBit 112 = true ∨ y.spilled = x.spilled
  prefetched : m.testBit 113 = true ∨ y.prefetched = x.prefetched
  cc : m.testBit 114 = true ∨ y.cc = x.cc
  flush : m.testBit 115 = true ∨ y.flush = x.flush
  moves : m.testBit 116 = true ∨ y.moves = x.moves
  skip : m.testBit 117 = true ∨ y.skip = x.skip
  trayReqs : m.testBit 118 = true ∨ y.trayReqs = x.trayReqs
  nextTag : m.testBit 119 = true ∨ y.nextTag = x.nextTag
  copies : m.testBit 120 = true ∨ y.copies = x.copies
  nextCopy : m.testBit 121 = true ∨ y.nextCopy = x.nextCopy
  spillMore : m.testBit 122 = true ∨ y.spillMore = x.spillMore

theorem TierKeeps.refl (m : Nat) (x : TierState) : TierKeeps m x x := by constructor <;> exact .inr rfl

/-- FtlState changed at most where a mask says so. -/
structure FtlKeeps (m : Nat) (x y : FtlState) : Prop where
  staging : m.testBit 128 = true ∨ y.staging = x.staging
  blocks : m.testBit 129 = true ∨ y.blocks = x.blocks
  progs : m.testBit 130 = true ∨ y.progs = x.progs
  nextProg : m.testBit 131 = true ∨ y.nextProg = x.nextProg
  relocs : m.testBit 132 = true ∨ y.relocs = x.relocs
  due : m.testBit 133 = true ∨ y.due = x.due
  collects : m.testBit 134 = true ∨ y.collects = x.collects
  mapCache : m.testBit 135 = true ∨ y.mapCache = x.mapCache
  mapLeft : m.testBit 136 = true ∨ y.mapLeft = x.mapLeft
  closing : m.testBit 137 = true ∨ y.closing = x.closing
  eraseWait : m.testBit 138 = true ∨ y.eraseWait = x.eraseWait
  closeSeq : m.testBit 139 = true ∨ y.closeSeq = x.closeSeq
  temps : m.testBit 140 = true ∨ y.temps = x.temps
  hours : m.testBit 141 = true ∨ y.hours = x.hours
  nextLsn : m.testBit 142 = true ∨ y.nextLsn = x.nextLsn
  ring : m.testBit 143 = true ∨ y.ring = x.ring
  ringBytes : m.testBit 144 = true ∨ y.ringBytes = x.ringBytes
  mediaLsn : m.testBit 145 = true ∨ y.mediaLsn = x.mediaLsn
  sinceCkpt : m.testBit 146 = true ∨ y.sinceCkpt = x.sinceCkpt
  ckptX : m.testBit 147 = true ∨ y.ckptX = x.ckptX
  ckptY : m.testBit 148 = true ∨ y.ckptY = x.ckptY
  ckptRun : m.testBit 149 = true ∨ y.ckptRun = x.ckptRun
  ringWait : m.testBit 150 = true ∨ y.ringWait = x.ringWait
  flushRegion : m.testBit 151 = true ∨ y.flushRegion = x.flushRegion
  retryMax : m.testBit 152 = true ∨ y.retryMax = x.retryMax
  eccRefresh : m.testBit 153 = true ∨ y.eccRefresh = x.eccRefresh
  foldLow : m.testBit 154 = true ∨ y.foldLow = x.foldLow
  gcLow : m.testBit 155 = true ∨ y.gcLow = x.gcLow
  gcHigh : m.testBit 156 = true ∨ y.gcHigh = x.gcHigh
  wearSpread16 : m.testBit 157 = true ∨ y.wearSpread16 = x.wearSpread16
  disturbK : m.testBit 158 = true ∨ y.disturbK = x.disturbK
  retainW : m.testBit 159 = true ∨ y.retainW = x.retainW
  levelMap0 : m.testBit 160 = true ∨ y.levelMap0 = x.levelMap0
  levelMap1 : m.testBit 161 = true ∨ y.levelMap1 = x.levelMap1
  status : m.testBit 162 = true ∨ y.status = x.status
  replayFail : m.testBit 163 = true ∨ y.replayFail = x.replayFail

theorem FtlKeeps.refl (m : Nat) (x : FtlState) : FtlKeeps m x x := by constructor <;> exact .inr rfl

/-- PodState changed at most where a mask says so. -/
structure PodKeeps (m : Nat) (x y : PodState) : Prop where
  cores : m.testBit 164 = true ∨ y.cores = x.cores
  vacant : m.testBit 165 = true ∨ y.vacant = x.vacant
  queue : m.testBit 166 = true ∨ y.queue = x.queue
  turns : m.testBit 167 = true ∨ y.turns = x.turns
  selftestS : m.testBit 168 = true ∨ y.selftestS = x.selftestS
  budget : m.testBit 169 = true ∨ y.budget = x.budget
  status : m.testBit 170 = true ∨ y.status = x.status
  sel : m.testBit 171 = true ∨ y.sel = x.sel
  selRec : m.testBit 172 = true ∨ y.selRec = x.selRec
  items : m.testBit 173 = true ∨ y.items = x.items

theorem PodKeeps.refl (m : Nat) (x : PodState) : PodKeeps m x x := by constructor <;> exact .inr rfl

/-- ColState changed at most where a mask says so. -/
structure ColKeeps (m : Nat) (x y : ColState) : Prop where
  ops : m.testBit 174 = true ∨ y.ops = x.ops
  nextOp : m.testBit 175 = true ∨ y.nextOp = x.nextOp
  instances : m.testBit 176 = true ∨ y.instances = x.instances
  completed : m.testBit 177 = true ∨ y.completed = x.completed
  sends : m.testBit 178 = true ∨ y.sends = x.sends
  instTimeout : m.testBit 179 = true ∨ y.instTimeout = x.instTimeout
  status : m.testBit 180 = true ∨ y.status = x.status
  chunks : m.testBit 181 = true ∨ y.chunks = x.chunks
  ahead : m.testBit 182 = true ∨ y.ahead = x.ahead
  attStatus : m.testBit 183 = true ∨ y.attStatus = x.attStatus
  skipped : m.testBit 184 = true ∨ y.skipped = x.skipped
  readBlocks : m.testBit 185 = true ∨ y.readBlocks = x.readBlocks

theorem ColKeeps.refl (m : Nat) (x : ColState) : ColKeeps m x x := by constructor <;> exact .inr rfl

/-- CmpState changed at most where a mask says so. -/
structure CmpKeeps (m : Nat) (x y : CmpState) : Prop where
  slots : m.testBit 186 = true ∨ y.slots = x.slots
  status : m.testBit 187 = true ∨ y.status = x.status
  decodedRaw : m.testBit 188 = true ∨ y.decodedRaw = x.decodedRaw
  decodedCoded : m.testBit 189 = true ∨ y.decodedCoded = x.decodedCoded
  ctxCode : m.testBit 190 = true ∨ y.ctxCode = x.ctxCode

theorem CmpKeeps.refl (m : Nat) (x : CmpState) : CmpKeeps m x x := by constructor <;> exact .inr rfl

/-- EvState changed at most where a mask says so. -/
structure EvKeeps (m : Nat) (x y : EvState) : Prop where
  queue : m.testBit 192 = true ∨ y.queue = x.queue
  seq : m.testBit 193 = true ∨ y.seq = x.seq
  lastAt : m.testBit 194 = true ∨ y.lastAt = x.lastAt
  period : m.testBit 195 = true ∨ y.period = x.period
  buckets : m.testBit 196 = true ∨ y.buckets = x.buckets

theorem EvKeeps.refl (m : Nat) (x : EvState) : EvKeeps m x x := by constructor <;> exact .inr rfl

/-- SecState changed at most where a mask says so. -/
structure SecKeeps (m : Nat) (x y : SecState) : Prop where
  serial : m.testBit 197 = true ∨ y.serial = x.serial
  sealed : m.testBit 198 = true ∨ y.sealed = x.sealed
  devCert : m.testBit 199 = true ∨ y.devCert = x.devCert
  macBase : m.testBit 200 = true ∨ y.macBase = x.macBase
  ownerKey : m.testBit 201 = true ∨ y.ownerKey = x.ownerKey
  fwArb : m.testBit 202 = true ∨ y.fwArb = x.fwArb
  bsArb : m.testBit 203 = true ∨ y.bsArb = x.bsArb
  leftMeter : m.testBit 204 = true ∨ y.leftMeter = x.leftMeter
  leftDebug : m.testBit 205 = true ∨ y.leftDebug = x.leftDebug
  leftXfer : m.testBit 206 = true ∨ y.leftXfer = x.leftXfer
  tapMarks : m.testBit 207 = true ∨ y.tapMarks = x.tapMarks
  fw0 : m.testBit 208 = true ∨ y.fw0 = x.fw0
  fw1 : m.testBit 209 = true ∨ y.fw1 = x.fw1
  fwSlot : m.testBit 210 = true ∨ y.fwSlot = x.fwSlot
  fwSvn : m.testBit 211 = true ∨ y.fwSvn = x.fwSvn
  fwImage : m.testBit 212 = true ∨ y.fwImage = x.fwImage
  recovery : m.testBit 213 = true ∨ y.recovery = x.recovery
  pufFail : m.testBit 214 = true ∨ y.pufFail = x.pufFail
  unsealed : m.testBit 215 = true ∨ y.unsealed = x.unsealed
  unlocked : m.testBit 216 = true ∨ y.unlocked = x.unlocked
  scope : m.testBit 217 = true ∨ y.scope = x.scope
  transfers : m.testBit 218 = true ∨ y.transfers = x.transfers
  windowBase : m.testBit 219 = true ∨ y.windowBase = x.windowBase
  status : m.testBit 220 = true ∨ y.status = x.status

theorem SecKeeps.refl (m : Nat) (x : SecState) : SecKeeps m x x := by constructor <;> exact .inr rfl

/-- MtrState changed at most where a mask says so. -/
structure MtrKeeps (m : Nat) (x y : MtrState) : Prop where
  st : m.testBit 221 = true ∨ y.st = x.st
  meter : m.testBit 222 = true ∨ y.meter = x.meter
  keyErased : m.testBit 223 = true ∨ y.keyErased = x.keyErased
  detach : m.testBit 224 = true ∨ y.detach = x.detach
  status : m.testBit 225 = true ∨ y.status = x.status
  log : m.testBit 226 = true ∨ y.log = x.log
  newest : m.testBit 227 = true ∨ y.newest = x.newest
  nextPos : m.testBit 228 = true ∨ y.nextPos = x.nextPos
  released : m.testBit 229 = true ∨ y.released = x.released
  periodStart : m.testBit 230 = true ∨ y.periodStart = x.periodStart
  pendingTariff : m.testBit 231 = true ∨ y.pendingTariff = x.pendingTariff
  quants : m.testBit 232 = true ∨ y.quants = x.quants
  tariffDigest : m.testBit 233 = true ∨ y.tariffDigest = x.tariffDigest
  changes : m.testBit 234 = true ∨ y.changes = x.changes
  tapSeq : m.testBit 235 = true ∨ y.tapSeq = x.tapSeq
  tapBuf : m.testBit 236 = true ∨ y.tapBuf = x.tapBuf
  tapSent : m.testBit 237 = true ∨ y.tapSent = x.tapSent
  bytesCnt : m.testBit 238 = true ∨ y.bytesCnt = x.bytesCnt
  escrow : m.testBit 239 = true ∨ y.escrow = x.escrow
  ingested : m.testBit 240 = true ∨ y.ingested = x.ingested
  exports : m.testBit 241 = true ∨ y.exports = x.exports

theorem MtrKeeps.refl (m : Nat) (x : MtrState) : MtrKeeps m x x := by constructor <;> exact .inr rfl

/-- FltState changed at most where a mask says so. -/
structure FltKeeps (m : Nat) (x y : FltState) : Prop where
  switches : m.testBit 242 = true ∨ y.switches = x.switches
  fence : m.testBit 243 = true ∨ y.fence = x.fence
  gen : m.testBit 244 = true ∨ y.gen = x.gen
  reached : m.testBit 245 = true ∨ y.reached = x.reached
  selfFenced : m.testBit 246 = true ∨ y.selfFenced = x.selfFenced
  ackDeadMs : m.testBit 247 = true ∨ y.ackDeadMs = x.ackDeadMs
  graceMs : m.testBit 248 = true ∨ y.graceMs = x.graceMs
  status : m.testBit 249 = true ∨ y.status = x.status
  fenceSel : m.testBit 250 = true ∨ y.fenceSel = x.fenceSel
  fenceRec : m.testBit 251 = true ∨ y.fenceRec = x.fenceRec
  switchSel : m.testBit 252 = true ∨ y.switchSel = x.switchSel
  switchRec : m.testBit 253 = true ∨ y.switchRec = x.switchRec
  compSel : m.testBit 254 = true ∨ y.compSel = x.compSel
  compRec : m.testBit 255 = true ∨ y.compRec = x.compRec
  xferSrc : m.testBit 256 = true ∨ y.xferSrc = x.xferSrc
  xferDst : m.testBit 257 = true ∨ y.xferDst = x.xferDst
  xferJob : m.testBit 258 = true ∨ y.xferJob = x.xferJob
  fencing : m.testBit 259 = true ∨ y.fencing = x.fencing
  ackReports : m.testBit 260 = true ∨ y.ackReports = x.ackReports
  comps : m.testBit 261 = true ∨ y.comps = x.comps
  promoted : m.testBit 262 = true ∨ y.promoted = x.promoted
  xfers : m.testBit 263 = true ∨ y.xfers = x.xfers
  lostTrays : m.testBit 264 = true ∨ y.lostTrays = x.lostTrays
  heartbeats : m.testBit 265 = true ∨ y.heartbeats = x.heartbeats
  unreachable : m.testBit 266 = true ∨ y.unreachable = x.unreachable
  failedLinks : m.testBit 267 = true ∨ y.failedLinks = x.failedLinks
  pepper : m.testBit 268 = true ∨ y.pepper = x.pepper
  pepHits : m.testBit 269 = true ∨ y.pepHits = x.pepHits

theorem FltKeeps.refl (m : Nat) (x : FltState) : FltKeeps m x x := by constructor <;> exact .inr rfl

/-- ModState changed at most where a mask says so. -/
structure ModKeeps (m : Nat) (x y : ModState) : Prop where
  power : m.testBit 270 = true ∨ y.power = x.power
  en : m.testBit 271 = true ∨ y.en = x.en
  inputOk : m.testBit 272 = true ∨ y.inputOk = x.inputOk
  holdupReady : m.testBit 273 = true ∨ y.holdupReady = x.holdupReady
  lastDown : m.testBit 274 = true ∨ y.lastDown = x.lastDown
  inputMv : m.testBit 275 = true ∨ y.inputMv = x.inputMv
  inputW : m.testBit 276 = true ∨ y.inputW = x.inputW
  holdup : m.testBit 277 = true ∨ y.holdup = x.holdup
  holdupLow : m.testBit 278 = true ∨ y.holdupLow = x.holdupLow
  macBase : m.testBit 279 = true ∨ y.macBase = x.macBase
  autoRow : m.testBit 280 = true ∨ y.autoRow = x.autoRow
  autoPc : m.testBit 281 = true ∨ y.autoPc = x.autoPc
  autoLane : m.testBit 282 = true ∨ y.autoLane = x.autoLane
  led : m.testBit 283 = true ∨ y.led = x.led
  status : m.testBit 284 = true ∨ y.status = x.status
  dies : m.testBit 285 = true ∨ y.dies = x.dies
  coolIn : m.testBit 286 = true ∨ y.coolIn = x.coolIn
  coolOut : m.testBit 287 = true ∨ y.coolOut = x.coolOut
  lanes : m.testBit 288 = true ∨ y.lanes = x.lanes
  pcLeft : m.testBit 289 = true ∨ y.pcLeft = x.pcLeft
  pcCopy : m.testBit 290 = true ∨ y.pcCopy = x.pcCopy
  rows : m.testBit 291 = true ∨ y.rows = x.rows
  rowBusy : m.testBit 292 = true ∨ y.rowBusy = x.rowBusy
  rowsOut : m.testBit 293 = true ∨ y.rowsOut = x.rowsOut
  admitting : m.testBit 294 = true ∨ y.admitting = x.admitting
  stalkFailed : m.testBit 295 = true ∨ y.stalkFailed = x.stalkFailed
  planned : m.testBit 296 = true ∨ y.planned = x.planned

theorem ModKeeps.refl (m : Nat) (x : ModState) : ModKeeps m x x := by constructor <;> exact .inr rfl

/-- A part outside a mask is as it was. -/
theorem same_of {m i : Nat} {P : Prop} (h : m.testBit i = true ∨ P) (hp : m.testBit i = false) : P :=
  h.resolve_left (by rw [hp]; decide)

/-- A state whose every part is as a mask says. -/
theorem Keeps.ofParts {m : Nat} {s t : State}
    (h0 : (m.testBit 0 = true ∨ t.pending = s.pending))
    (h1 : CfgKeeps m s.cfg t.cfg)
    (h2 : LftKeeps m s.lft t.lft)
    (h3 : (SwcKeeps m s.swc.d0 t.swc.d0 ∧ SwcKeeps m s.swc.d1 t.swc.d1))
    (h4 : (HomeKeeps m s.home.d0 t.home.d0 ∧ HomeKeeps m s.home.d1 t.home.d1))
    (h5 : (CohKeeps m s.coh.d0 t.coh.d0 ∧ CohKeeps m s.coh.d1 t.coh.d1))
    (h6 : (TierKeeps m s.tier.d0 t.tier.d0 ∧ TierKeeps m s.tier.d1 t.tier.d1))
    (h7 : (m.testBit 123 = true ∨ t.exts = s.exts))
    (h8 : (m.testBit 124 = true ∨ t.objs = s.objs))
    (h9 : (m.testBit 125 = true ∨ t.gens = s.gens))
    (h10 : (m.testBit 126 = true ∨ t.sessions = s.sessions))
    (h11 : (m.testBit 127 = true ∨ t.vols = s.vols))
    (h12 : (FtlKeeps m s.ftl.d0 t.ftl.d0 ∧ FtlKeeps m s.ftl.d1 t.ftl.d1))
    (h13 : (PodKeeps m s.pod.d0 t.pod.d0 ∧ PodKeeps m s.pod.d1 t.pod.d1))
    (h14 : (ColKeeps m s.col.d0 t.col.d0 ∧ ColKeeps m s.col.d1 t.col.d1))
    (h15 : CmpKeeps m s.cmp t.cmp)
    (h16 : (m.testBit 191 = true ∨ t.ctxs = s.ctxs))
    (h17 : (EvKeeps m s.ev.d0 t.ev.d0 ∧ EvKeeps m s.ev.d1 t.ev.d1))
    (h18 : SecKeeps m s.sec t.sec)
    (h19 : MtrKeeps m s.mtr t.mtr)
    (h20 : FltKeeps m s.flt t.flt)
    (h21 : ModKeeps m s.mod t.mod)
    (h22 : (m.testBit 297 = true ∨ t.extSel = s.extSel))
    (h23 : (m.testBit 298 = true ∨ t.extRec = s.extRec))
    (h24 : (m.testBit 299 = true ∨ t.objSel = s.objSel))
    (h25 : (m.testBit 300 = true ∨ t.objRec = s.objRec))
    (h26 : (m.testBit 301 = true ∨ t.sesSel = s.sesSel))
    (h27 : (m.testBit 302 = true ∨ t.sesRec = s.sesRec))
    (h28 : (m.testBit 303 = true ∨ t.mem = s.mem))
    (h29 : (m.testBit 304 = true ∨ t.poison = s.poison))
    (h30 : (m.testBit 305 = true ∨ t.freeCtr = s.freeCtr))
    (mono : Mono s t) : Keeps m s t := by
  refine ⟨?_, mono⟩
  intro p hp
  cases p
  · exact h0.resolve_left (by rw [show m.testBit 0 = false from hp]; decide)
  · exact same_of h1.records hp
  · exact same_of h1.slotA hp
  · exact same_of h1.slotB hp
  · exact same_of h1.slotP hp
  · exact same_of h1.lastLoadId hp
  · exact same_of h1.loadOrder hp
  · exact same_of h1.preferred hp
  · exact same_of h1.active hp
  · exact same_of h1.fallback hp
  · exact same_of h1.cameUnconfigured hp
  · exact same_of h1.unconfigured hp
  · exact same_of h1.switchId hp
  · exact same_of h1.activeId hp
  · exact same_of h1.detClass hp
  · exact same_of h1.configGen hp
  · exact same_of h1.ethCtl hp
  · exact same_of h1.ethLft hp
  · exact same_of h1.localFrac hp
  · exact same_of h1.localBytes hp
  · exact same_of h1.totalBytes hp
  · exact same_of h1.status hp
  · exact same_of h1.lastStatus hp
  · exact same_of h1.applying hp
  · exact same_of h1.draining hp
  · exact same_of h1.cmdSeq hp
  · exact same_of h1.jobs hp
  · exact same_of h1.nextJob hp
  · exact same_of h1.activeSp hp
  · exact same_of h1.spInbox hp
  · exact same_of h1.authWait hp
  · exact same_of h1.stalkWait hp
  · exact same_of h1.mirrorLog hp
  · exact same_of h2.ports hp
  · exact same_of h2.spray hp
  · exact same_of h2.reseq hp
  · exact same_of h2.barrierTx hp
  · exact same_of h2.barrierRx hp
  · exact same_of h2.nextBarrier hp
  · exact same_of h2.livePaths hp
  · exact same_of h2.sprayIn hp
  · exact same_of h2.sent hp
  · exact same_of h2.kaSent hp
  · exact same_of h2.pfcSent hp
  · exact ⟨same_of h3.1.fifos hp, same_of h3.2.fifos hp⟩
  · exact ⟨same_of h3.1.deficits hp, same_of h3.2.deficits hp⟩
  · exact ⟨same_of h3.1.offFree hp, same_of h3.2.offFree hp⟩
  · exact ⟨same_of h3.1.born hp, same_of h3.2.born hp⟩
  · exact ⟨same_of h3.1.suspect hp, same_of h3.2.suspect hp⟩
  · exact ⟨same_of h3.1.quarantined hp, same_of h3.2.quarantined hp⟩
  · exact ⟨same_of h3.1.auditEpoch hp, same_of h3.2.auditEpoch hp⟩
  · exact ⟨same_of h3.1.slackUsed hp, same_of h3.2.slackUsed hp⟩
  · exact ⟨same_of h3.1.withhold hp, same_of h3.2.withhold hp⟩
  · exact ⟨same_of h3.1.status hp, same_of h3.2.status hp⟩
  · exact ⟨same_of h3.1.passes hp, same_of h3.2.passes hp⟩
  · exact ⟨same_of h3.1.reclaimed hp, same_of h3.2.reclaimed hp⟩
  · exact ⟨same_of h3.1.arbWeight hp, same_of h3.2.arbWeight hp⟩
  · exact ⟨same_of h3.1.log2n hp, same_of h3.2.log2n hp⟩
  · exact ⟨same_of h3.1.trunc hp, same_of h3.2.trunc hp⟩
  · exact ⟨same_of h3.1.payload hp, same_of h3.2.payload hp⟩
  · exact ⟨same_of h3.1.egress hp, same_of h3.2.egress hp⟩
  · exact ⟨same_of h3.1.ingress hp, same_of h3.2.ingress hp⟩
  · exact ⟨same_of h3.1.enable hp, same_of h3.2.enable hp⟩
  · exact ⟨same_of h3.1.samplePorts hp, same_of h3.2.samplePorts hp⟩
  · exact ⟨same_of h3.1.sampleDest hp, same_of h3.2.sampleDest hp⟩
  · exact ⟨same_of h3.1.sampleDrop hp, same_of h3.2.sampleDrop hp⟩
  · exact ⟨same_of h3.1.samplePool hp, same_of h3.2.samplePool hp⟩
  · exact ⟨same_of h3.1.sampleSeq hp, same_of h3.2.sampleSeq hp⟩
  · exact ⟨same_of h3.1.lfsr hp, same_of h3.2.lfsr hp⟩
  · exact ⟨same_of h3.1.stops hp, same_of h3.2.stops hp⟩
  · exact ⟨same_of h3.1.stalkIn hp, same_of h3.2.stalkIn hp⟩
  · exact ⟨same_of h3.1.stalkSeq hp, same_of h3.2.stalkSeq hp⟩
  · exact ⟨same_of h3.1.stalkReplay hp, same_of h3.2.stalkReplay hp⟩
  · exact ⟨same_of h3.1.stalkNext hp, same_of h3.2.stalkNext hp⟩
  · exact ⟨same_of h3.1.stalkSeen hp, same_of h3.2.stalkSeen hp⟩
  · exact ⟨same_of h3.1.stopMsgs hp, same_of h3.2.stopMsgs hp⟩
  · exact ⟨same_of h3.1.agentInbox hp, same_of h3.2.agentInbox hp⟩
  · exact ⟨same_of h3.1.agentHold hp, same_of h3.2.agentHold hp⟩
  · exact ⟨same_of h3.1.agentSeq hp, same_of h3.2.agentSeq hp⟩
  · exact ⟨same_of h3.1.discarded hp, same_of h3.2.discarded hp⟩
  · exact ⟨same_of h4.1.inbox hp, same_of h4.2.inbox hp⟩
  · exact ⟨same_of h4.1.waiting hp, same_of h4.2.waiting hp⟩
  · exact ⟨same_of h4.1.order hp, same_of h4.2.order hp⟩
  · exact ⟨same_of h4.1.starved hp, same_of h4.2.starved hp⟩
  · exact ⟨same_of h4.1.windows hp, same_of h4.2.windows hp⟩
  · exact ⟨same_of h4.1.doubtful hp, same_of h4.2.doubtful hp⟩
  · exact ⟨same_of h4.1.hot hp, same_of h4.2.hot hp⟩
  · exact ⟨same_of h4.1.combineEn hp, same_of h4.2.combineEn hp⟩
  · exact ⟨same_of h4.1.ageUs hp, same_of h4.2.ageUs hp⟩
  · exact ⟨same_of h4.1.status hp, same_of h4.2.status hp⟩
  · exact ⟨same_of h4.1.combined hp, same_of h4.2.combined hp⟩
  · exact ⟨same_of h4.1.agedIn hp, same_of h4.2.agedIn hp⟩
  · exact ⟨same_of h4.1.ageNo hp, same_of h4.2.ageNo hp⟩
  · exact ⟨same_of h4.1.ackDropped hp, same_of h4.2.ackDropped hp⟩
  · exact ⟨same_of h4.1.resumed hp, same_of h4.2.resumed hp⟩
  · exact ⟨same_of h5.1.dir hp, same_of h5.2.dir hp⟩
  · exact ⟨same_of h5.1.outstanding hp, same_of h5.2.outstanding hp⟩
  · exact ⟨same_of h5.1.msgWait hp, same_of h5.2.msgWait hp⟩
  · exact ⟨same_of h5.1.txnNo hp, same_of h5.2.txnNo hp⟩
  · exact ⟨same_of h5.1.fenceTags hp, same_of h5.2.fenceTags hp⟩
  · exact ⟨same_of h5.1.ackTimeoutMs hp, same_of h5.2.ackTimeoutMs hp⟩
  · exact ⟨same_of h5.1.status hp, same_of h5.2.status hp⟩
  · exact ⟨same_of h5.1.recalls hp, same_of h5.2.recalls hp⟩
  · exact ⟨same_of h5.1.sel hp, same_of h5.2.sel hp⟩
  · exact ⟨same_of h5.1.rec0 hp, same_of h5.2.rec0 hp⟩
  · exact ⟨same_of h5.1.rec1 hp, same_of h5.2.rec1 hp⟩
  · exact ⟨same_of h6.1.refillEn hp, same_of h6.2.refillEn hp⟩
  · exact ⟨same_of h6.1.spillEn hp, same_of h6.2.spillEn hp⟩
  · exact ⟨same_of h6.1.prefetchDepth hp, same_of h6.2.prefetchDepth hp⟩
  · exact ⟨same_of h6.1.highWm hp, same_of h6.2.highWm hp⟩
  · exact ⟨same_of h6.1.lowWm hp, same_of h6.2.lowWm hp⟩
  · exact ⟨same_of h6.1.status hp, same_of h6.2.status hp⟩
  · exact ⟨same_of h6.1.spilled hp, same_of h6.2.spilled hp⟩
  · exact ⟨same_of h6.1.prefetched hp, same_of h6.2.prefetched hp⟩
  · exact ⟨same_of h6.1.cc hp, same_of h6.2.cc hp⟩
  · exact ⟨same_of h6.1.flush hp, same_of h6.2.flush hp⟩
  · exact ⟨same_of h6.1.moves hp, same_of h6.2.moves hp⟩
  · exact ⟨same_of h6.1.skip hp, same_of h6.2.skip hp⟩
  · exact ⟨same_of h6.1.trayReqs hp, same_of h6.2.trayReqs hp⟩
  · exact ⟨same_of h6.1.nextTag hp, same_of h6.2.nextTag hp⟩
  · exact ⟨same_of h6.1.copies hp, same_of h6.2.copies hp⟩
  · exact ⟨same_of h6.1.nextCopy hp, same_of h6.2.nextCopy hp⟩
  · exact ⟨same_of h6.1.spillMore hp, same_of h6.2.spillMore hp⟩
  · exact h7.resolve_left (by rw [show m.testBit 123 = false from hp]; decide)
  · exact h8.resolve_left (by rw [show m.testBit 124 = false from hp]; decide)
  · exact h9.resolve_left (by rw [show m.testBit 125 = false from hp]; decide)
  · exact h10.resolve_left (by rw [show m.testBit 126 = false from hp]; decide)
  · exact h11.resolve_left (by rw [show m.testBit 127 = false from hp]; decide)
  · exact ⟨same_of h12.1.staging hp, same_of h12.2.staging hp⟩
  · exact ⟨same_of h12.1.blocks hp, same_of h12.2.blocks hp⟩
  · exact ⟨same_of h12.1.progs hp, same_of h12.2.progs hp⟩
  · exact ⟨same_of h12.1.nextProg hp, same_of h12.2.nextProg hp⟩
  · exact ⟨same_of h12.1.relocs hp, same_of h12.2.relocs hp⟩
  · exact ⟨same_of h12.1.due hp, same_of h12.2.due hp⟩
  · exact ⟨same_of h12.1.collects hp, same_of h12.2.collects hp⟩
  · exact ⟨same_of h12.1.mapCache hp, same_of h12.2.mapCache hp⟩
  · exact ⟨same_of h12.1.mapLeft hp, same_of h12.2.mapLeft hp⟩
  · exact ⟨same_of h12.1.closing hp, same_of h12.2.closing hp⟩
  · exact ⟨same_of h12.1.eraseWait hp, same_of h12.2.eraseWait hp⟩
  · exact ⟨same_of h12.1.closeSeq hp, same_of h12.2.closeSeq hp⟩
  · exact ⟨same_of h12.1.temps hp, same_of h12.2.temps hp⟩
  · exact ⟨same_of h12.1.hours hp, same_of h12.2.hours hp⟩
  · exact ⟨same_of h12.1.nextLsn hp, same_of h12.2.nextLsn hp⟩
  · exact ⟨same_of h12.1.ring hp, same_of h12.2.ring hp⟩
  · exact ⟨same_of h12.1.ringBytes hp, same_of h12.2.ringBytes hp⟩
  · exact ⟨same_of h12.1.mediaLsn hp, same_of h12.2.mediaLsn hp⟩
  · exact ⟨same_of h12.1.sinceCkpt hp, same_of h12.2.sinceCkpt hp⟩
  · exact ⟨same_of h12.1.ckptX hp, same_of h12.2.ckptX hp⟩
  · exact ⟨same_of h12.1.ckptY hp, same_of h12.2.ckptY hp⟩
  · exact ⟨same_of h12.1.ckptRun hp, same_of h12.2.ckptRun hp⟩
  · exact ⟨same_of h12.1.ringWait hp, same_of h12.2.ringWait hp⟩
  · exact ⟨same_of h12.1.flushRegion hp, same_of h12.2.flushRegion hp⟩
  · exact ⟨same_of h12.1.retryMax hp, same_of h12.2.retryMax hp⟩
  · exact ⟨same_of h12.1.eccRefresh hp, same_of h12.2.eccRefresh hp⟩
  · exact ⟨same_of h12.1.foldLow hp, same_of h12.2.foldLow hp⟩
  · exact ⟨same_of h12.1.gcLow hp, same_of h12.2.gcLow hp⟩
  · exact ⟨same_of h12.1.gcHigh hp, same_of h12.2.gcHigh hp⟩
  · exact ⟨same_of h12.1.wearSpread16 hp, same_of h12.2.wearSpread16 hp⟩
  · exact ⟨same_of h12.1.disturbK hp, same_of h12.2.disturbK hp⟩
  · exact ⟨same_of h12.1.retainW hp, same_of h12.2.retainW hp⟩
  · exact ⟨same_of h12.1.levelMap0 hp, same_of h12.2.levelMap0 hp⟩
  · exact ⟨same_of h12.1.levelMap1 hp, same_of h12.2.levelMap1 hp⟩
  · exact ⟨same_of h12.1.status hp, same_of h12.2.status hp⟩
  · exact ⟨same_of h12.1.replayFail hp, same_of h12.2.replayFail hp⟩
  · exact ⟨same_of h13.1.cores hp, same_of h13.2.cores hp⟩
  · exact ⟨same_of h13.1.vacant hp, same_of h13.2.vacant hp⟩
  · exact ⟨same_of h13.1.queue hp, same_of h13.2.queue hp⟩
  · exact ⟨same_of h13.1.turns hp, same_of h13.2.turns hp⟩
  · exact ⟨same_of h13.1.selftestS hp, same_of h13.2.selftestS hp⟩
  · exact ⟨same_of h13.1.budget hp, same_of h13.2.budget hp⟩
  · exact ⟨same_of h13.1.status hp, same_of h13.2.status hp⟩
  · exact ⟨same_of h13.1.sel hp, same_of h13.2.sel hp⟩
  · exact ⟨same_of h13.1.selRec hp, same_of h13.2.selRec hp⟩
  · exact ⟨same_of h13.1.items hp, same_of h13.2.items hp⟩
  · exact ⟨same_of h14.1.ops hp, same_of h14.2.ops hp⟩
  · exact ⟨same_of h14.1.nextOp hp, same_of h14.2.nextOp hp⟩
  · exact ⟨same_of h14.1.instances hp, same_of h14.2.instances hp⟩
  · exact ⟨same_of h14.1.completed hp, same_of h14.2.completed hp⟩
  · exact ⟨same_of h14.1.sends hp, same_of h14.2.sends hp⟩
  · exact ⟨same_of h14.1.instTimeout hp, same_of h14.2.instTimeout hp⟩
  · exact ⟨same_of h14.1.status hp, same_of h14.2.status hp⟩
  · exact ⟨same_of h14.1.chunks hp, same_of h14.2.chunks hp⟩
  · exact ⟨same_of h14.1.ahead hp, same_of h14.2.ahead hp⟩
  · exact ⟨same_of h14.1.attStatus hp, same_of h14.2.attStatus hp⟩
  · exact ⟨same_of h14.1.skipped hp, same_of h14.2.skipped hp⟩
  · exact ⟨same_of h14.1.readBlocks hp, same_of h14.2.readBlocks hp⟩
  · exact same_of h15.slots hp
  · exact same_of h15.status hp
  · exact same_of h15.decodedRaw hp
  · exact same_of h15.decodedCoded hp
  · exact same_of h15.ctxCode hp
  · exact h16.resolve_left (by rw [show m.testBit 191 = false from hp]; decide)
  · exact ⟨same_of h17.1.queue hp, same_of h17.2.queue hp⟩
  · exact ⟨same_of h17.1.seq hp, same_of h17.2.seq hp⟩
  · exact ⟨same_of h17.1.lastAt hp, same_of h17.2.lastAt hp⟩
  · exact ⟨same_of h17.1.period hp, same_of h17.2.period hp⟩
  · exact ⟨same_of h17.1.buckets hp, same_of h17.2.buckets hp⟩
  · exact same_of h18.serial hp
  · exact same_of h18.sealed hp
  · exact same_of h18.devCert hp
  · exact same_of h18.macBase hp
  · exact same_of h18.ownerKey hp
  · exact same_of h18.fwArb hp
  · exact same_of h18.bsArb hp
  · exact same_of h18.leftMeter hp
  · exact same_of h18.leftDebug hp
  · exact same_of h18.leftXfer hp
  · exact same_of h18.tapMarks hp
  · exact same_of h18.fw0 hp
  · exact same_of h18.fw1 hp
  · exact same_of h18.fwSlot hp
  · exact same_of h18.fwSvn hp
  · exact same_of h18.fwImage hp
  · exact same_of h18.recovery hp
  · exact same_of h18.pufFail hp
  · exact same_of h18.unsealed hp
  · exact same_of h18.unlocked hp
  · exact same_of h18.scope hp
  · exact same_of h18.transfers hp
  · exact same_of h18.windowBase hp
  · exact same_of h18.status hp
  · exact same_of h19.st hp
  · exact same_of h19.meter hp
  · exact same_of h19.keyErased hp
  · exact same_of h19.detach hp
  · exact same_of h19.status hp
  · exact same_of h19.log hp
  · exact same_of h19.newest hp
  · exact same_of h19.nextPos hp
  · exact same_of h19.released hp
  · exact same_of h19.periodStart hp
  · exact same_of h19.pendingTariff hp
  · exact same_of h19.quants hp
  · exact same_of h19.tariffDigest hp
  · exact same_of h19.changes hp
  · exact same_of h19.tapSeq hp
  · exact same_of h19.tapBuf hp
  · exact same_of h19.tapSent hp
  · exact same_of h19.bytesCnt hp
  · exact same_of h19.escrow hp
  · exact same_of h19.ingested hp
  · exact same_of h19.exports hp
  · exact same_of h20.switches hp
  · exact same_of h20.fence hp
  · exact same_of h20.gen hp
  · exact same_of h20.reached hp
  · exact same_of h20.selfFenced hp
  · exact same_of h20.ackDeadMs hp
  · exact same_of h20.graceMs hp
  · exact same_of h20.status hp
  · exact same_of h20.fenceSel hp
  · exact same_of h20.fenceRec hp
  · exact same_of h20.switchSel hp
  · exact same_of h20.switchRec hp
  · exact same_of h20.compSel hp
  · exact same_of h20.compRec hp
  · exact same_of h20.xferSrc hp
  · exact same_of h20.xferDst hp
  · exact same_of h20.xferJob hp
  · exact same_of h20.fencing hp
  · exact same_of h20.ackReports hp
  · exact same_of h20.comps hp
  · exact same_of h20.promoted hp
  · exact same_of h20.xfers hp
  · exact same_of h20.lostTrays hp
  · exact same_of h20.heartbeats hp
  · exact same_of h20.unreachable hp
  · exact same_of h20.failedLinks hp
  · exact same_of h20.pepper hp
  · exact same_of h20.pepHits hp
  · exact same_of h21.power hp
  · exact same_of h21.en hp
  · exact same_of h21.inputOk hp
  · exact same_of h21.holdupReady hp
  · exact same_of h21.lastDown hp
  · exact same_of h21.inputMv hp
  · exact same_of h21.inputW hp
  · exact same_of h21.holdup hp
  · exact same_of h21.holdupLow hp
  · exact same_of h21.macBase hp
  · exact same_of h21.autoRow hp
  · exact same_of h21.autoPc hp
  · exact same_of h21.autoLane hp
  · exact same_of h21.led hp
  · exact same_of h21.status hp
  · exact same_of h21.dies hp
  · exact same_of h21.coolIn hp
  · exact same_of h21.coolOut hp
  · exact same_of h21.lanes hp
  · exact same_of h21.pcLeft hp
  · exact same_of h21.pcCopy hp
  · exact same_of h21.rows hp
  · exact same_of h21.rowBusy hp
  · exact same_of h21.rowsOut hp
  · exact same_of h21.admitting hp
  · exact same_of h21.stalkFailed hp
  · exact same_of h21.planned hp
  · exact h22.resolve_left (by rw [show m.testBit 297 = false from hp]; decide)
  · exact h23.resolve_left (by rw [show m.testBit 298 = false from hp]; decide)
  · exact h24.resolve_left (by rw [show m.testBit 299 = false from hp]; decide)
  · exact h25.resolve_left (by rw [show m.testBit 300 = false from hp]; decide)
  · exact h26.resolve_left (by rw [show m.testBit 301 = false from hp]; decide)
  · exact h27.resolve_left (by rw [show m.testBit 302 = false from hp]; decide)
  · exact h28.resolve_left (by rw [show m.testBit 303 = false from hp]; decide)
  · exact h29.resolve_left (by rw [show m.testBit 304 = false from hp]; decide)
  · exact h30.resolve_left (by rw [show m.testBit 305 = false from hp]; decide)

theorem modCfg_keeps {m : Nat} {s0 s : State} {g : CfgState → CfgState} (h : CfgKeeps m s.cfg (g s.cfg)) (k : Keeps m s0 s) : Keeps m s0 (modCfg s g) := by
  refine Keeps.lift (a := m) (Nat.and_self m) ?_ k
  exact Keeps.ofParts (.inr rfl) h (LftKeeps.refl m _) ⟨SwcKeeps.refl m _, SwcKeeps.refl m _⟩ ⟨HomeKeeps.refl m _, HomeKeeps.refl m _⟩ ⟨CohKeeps.refl m _, CohKeeps.refl m _⟩ ⟨TierKeeps.refl m _, TierKeeps.refl m _⟩ (.inr rfl) (.inr rfl) (.inr rfl) (.inr rfl) (.inr rfl) ⟨FtlKeeps.refl m _, FtlKeeps.refl m _⟩ ⟨PodKeeps.refl m _, PodKeeps.refl m _⟩ ⟨ColKeeps.refl m _, ColKeeps.refl m _⟩ (CmpKeeps.refl m _) (.inr rfl) ⟨EvKeeps.refl m _, EvKeeps.refl m _⟩ (SecKeeps.refl m _) (MtrKeeps.refl m _) (FltKeeps.refl m _) (ModKeeps.refl m _) (.inr rfl) (.inr rfl) (.inr rfl) (.inr rfl) (.inr rfl) (.inr rfl) (.inr rfl) (.inr rfl) (.inr rfl) (Mono.of_same rfl rfl)

theorem modLft_keeps {m : Nat} {s0 s : State} {g : LftState → LftState} (h : LftKeeps m s.lft (g s.lft)) (k : Keeps m s0 s) : Keeps m s0 (modLft s g) := by
  refine Keeps.lift (a := m) (Nat.and_self m) ?_ k
  exact Keeps.ofParts (.inr rfl) (CfgKeeps.refl m _) h ⟨SwcKeeps.refl m _, SwcKeeps.refl m _⟩ ⟨HomeKeeps.refl m _, HomeKeeps.refl m _⟩ ⟨CohKeeps.refl m _, CohKeeps.refl m _⟩ ⟨TierKeeps.refl m _, TierKeeps.refl m _⟩ (.inr rfl) (.inr rfl) (.inr rfl) (.inr rfl) (.inr rfl) ⟨FtlKeeps.refl m _, FtlKeeps.refl m _⟩ ⟨PodKeeps.refl m _, PodKeeps.refl m _⟩ ⟨ColKeeps.refl m _, ColKeeps.refl m _⟩ (CmpKeeps.refl m _) (.inr rfl) ⟨EvKeeps.refl m _, EvKeeps.refl m _⟩ (SecKeeps.refl m _) (MtrKeeps.refl m _) (FltKeeps.refl m _) (ModKeeps.refl m _) (.inr rfl) (.inr rfl) (.inr rfl) (.inr rfl) (.inr rfl) (.inr rfl) (.inr rfl) (.inr rfl) (.inr rfl) (Mono.of_same rfl rfl)

theorem modSwc_keeps {m : Nat} {s0 s : State} {d : Die} {g : SwcState → SwcState} (h : SwcKeeps m (side s.swc d) (g (side s.swc d))) (k : Keeps m s0 s) : Keeps m s0 (modSwc s d g) := by
  refine Keeps.lift (a := m) (Nat.and_self m) ?_ k
  cases d
  · exact Keeps.ofParts (.inr rfl) (CfgKeeps.refl m _) (LftKeeps.refl m _) ⟨h, SwcKeeps.refl m _⟩ ⟨HomeKeeps.refl m _, HomeKeeps.refl m _⟩ ⟨CohKeeps.refl m _, CohKeeps.refl m _⟩ ⟨TierKeeps.refl m _, TierKeeps.refl m _⟩ (.inr rfl) (.inr rfl) (.inr rfl) (.inr rfl) (.inr rfl) ⟨FtlKeeps.refl m _, FtlKeeps.refl m _⟩ ⟨PodKeeps.refl m _, PodKeeps.refl m _⟩ ⟨ColKeeps.refl m _, ColKeeps.refl m _⟩ (CmpKeeps.refl m _) (.inr rfl) ⟨EvKeeps.refl m _, EvKeeps.refl m _⟩ (SecKeeps.refl m _) (MtrKeeps.refl m _) (FltKeeps.refl m _) (ModKeeps.refl m _) (.inr rfl) (.inr rfl) (.inr rfl) (.inr rfl) (.inr rfl) (.inr rfl) (.inr rfl) (.inr rfl) (.inr rfl) (Mono.of_same rfl rfl)
  · exact Keeps.ofParts (.inr rfl) (CfgKeeps.refl m _) (LftKeeps.refl m _) ⟨SwcKeeps.refl m _, h⟩ ⟨HomeKeeps.refl m _, HomeKeeps.refl m _⟩ ⟨CohKeeps.refl m _, CohKeeps.refl m _⟩ ⟨TierKeeps.refl m _, TierKeeps.refl m _⟩ (.inr rfl) (.inr rfl) (.inr rfl) (.inr rfl) (.inr rfl) ⟨FtlKeeps.refl m _, FtlKeeps.refl m _⟩ ⟨PodKeeps.refl m _, PodKeeps.refl m _⟩ ⟨ColKeeps.refl m _, ColKeeps.refl m _⟩ (CmpKeeps.refl m _) (.inr rfl) ⟨EvKeeps.refl m _, EvKeeps.refl m _⟩ (SecKeeps.refl m _) (MtrKeeps.refl m _) (FltKeeps.refl m _) (ModKeeps.refl m _) (.inr rfl) (.inr rfl) (.inr rfl) (.inr rfl) (.inr rfl) (.inr rfl) (.inr rfl) (.inr rfl) (.inr rfl) (Mono.of_same rfl rfl)

theorem modHome_keeps {m : Nat} {s0 s : State} {d : Die} {g : HomeState → HomeState} (h : HomeKeeps m (side s.home d) (g (side s.home d))) (k : Keeps m s0 s) : Keeps m s0 (modHome s d g) := by
  refine Keeps.lift (a := m) (Nat.and_self m) ?_ k
  cases d
  · exact Keeps.ofParts (.inr rfl) (CfgKeeps.refl m _) (LftKeeps.refl m _) ⟨SwcKeeps.refl m _, SwcKeeps.refl m _⟩ ⟨h, HomeKeeps.refl m _⟩ ⟨CohKeeps.refl m _, CohKeeps.refl m _⟩ ⟨TierKeeps.refl m _, TierKeeps.refl m _⟩ (.inr rfl) (.inr rfl) (.inr rfl) (.inr rfl) (.inr rfl) ⟨FtlKeeps.refl m _, FtlKeeps.refl m _⟩ ⟨PodKeeps.refl m _, PodKeeps.refl m _⟩ ⟨ColKeeps.refl m _, ColKeeps.refl m _⟩ (CmpKeeps.refl m _) (.inr rfl) ⟨EvKeeps.refl m _, EvKeeps.refl m _⟩ (SecKeeps.refl m _) (MtrKeeps.refl m _) (FltKeeps.refl m _) (ModKeeps.refl m _) (.inr rfl) (.inr rfl) (.inr rfl) (.inr rfl) (.inr rfl) (.inr rfl) (.inr rfl) (.inr rfl) (.inr rfl) (Mono.of_same rfl rfl)
  · exact Keeps.ofParts (.inr rfl) (CfgKeeps.refl m _) (LftKeeps.refl m _) ⟨SwcKeeps.refl m _, SwcKeeps.refl m _⟩ ⟨HomeKeeps.refl m _, h⟩ ⟨CohKeeps.refl m _, CohKeeps.refl m _⟩ ⟨TierKeeps.refl m _, TierKeeps.refl m _⟩ (.inr rfl) (.inr rfl) (.inr rfl) (.inr rfl) (.inr rfl) ⟨FtlKeeps.refl m _, FtlKeeps.refl m _⟩ ⟨PodKeeps.refl m _, PodKeeps.refl m _⟩ ⟨ColKeeps.refl m _, ColKeeps.refl m _⟩ (CmpKeeps.refl m _) (.inr rfl) ⟨EvKeeps.refl m _, EvKeeps.refl m _⟩ (SecKeeps.refl m _) (MtrKeeps.refl m _) (FltKeeps.refl m _) (ModKeeps.refl m _) (.inr rfl) (.inr rfl) (.inr rfl) (.inr rfl) (.inr rfl) (.inr rfl) (.inr rfl) (.inr rfl) (.inr rfl) (Mono.of_same rfl rfl)

theorem modCoh_keeps {m : Nat} {s0 s : State} {d : Die} {g : CohState → CohState} (h : CohKeeps m (side s.coh d) (g (side s.coh d))) (k : Keeps m s0 s) : Keeps m s0 (modCoh s d g) := by
  refine Keeps.lift (a := m) (Nat.and_self m) ?_ k
  cases d
  · exact Keeps.ofParts (.inr rfl) (CfgKeeps.refl m _) (LftKeeps.refl m _) ⟨SwcKeeps.refl m _, SwcKeeps.refl m _⟩ ⟨HomeKeeps.refl m _, HomeKeeps.refl m _⟩ ⟨h, CohKeeps.refl m _⟩ ⟨TierKeeps.refl m _, TierKeeps.refl m _⟩ (.inr rfl) (.inr rfl) (.inr rfl) (.inr rfl) (.inr rfl) ⟨FtlKeeps.refl m _, FtlKeeps.refl m _⟩ ⟨PodKeeps.refl m _, PodKeeps.refl m _⟩ ⟨ColKeeps.refl m _, ColKeeps.refl m _⟩ (CmpKeeps.refl m _) (.inr rfl) ⟨EvKeeps.refl m _, EvKeeps.refl m _⟩ (SecKeeps.refl m _) (MtrKeeps.refl m _) (FltKeeps.refl m _) (ModKeeps.refl m _) (.inr rfl) (.inr rfl) (.inr rfl) (.inr rfl) (.inr rfl) (.inr rfl) (.inr rfl) (.inr rfl) (.inr rfl) (Mono.of_same rfl rfl)
  · exact Keeps.ofParts (.inr rfl) (CfgKeeps.refl m _) (LftKeeps.refl m _) ⟨SwcKeeps.refl m _, SwcKeeps.refl m _⟩ ⟨HomeKeeps.refl m _, HomeKeeps.refl m _⟩ ⟨CohKeeps.refl m _, h⟩ ⟨TierKeeps.refl m _, TierKeeps.refl m _⟩ (.inr rfl) (.inr rfl) (.inr rfl) (.inr rfl) (.inr rfl) ⟨FtlKeeps.refl m _, FtlKeeps.refl m _⟩ ⟨PodKeeps.refl m _, PodKeeps.refl m _⟩ ⟨ColKeeps.refl m _, ColKeeps.refl m _⟩ (CmpKeeps.refl m _) (.inr rfl) ⟨EvKeeps.refl m _, EvKeeps.refl m _⟩ (SecKeeps.refl m _) (MtrKeeps.refl m _) (FltKeeps.refl m _) (ModKeeps.refl m _) (.inr rfl) (.inr rfl) (.inr rfl) (.inr rfl) (.inr rfl) (.inr rfl) (.inr rfl) (.inr rfl) (.inr rfl) (Mono.of_same rfl rfl)

theorem modTier_keeps {m : Nat} {s0 s : State} {d : Die} {g : TierState → TierState} (h : TierKeeps m (side s.tier d) (g (side s.tier d))) (k : Keeps m s0 s) : Keeps m s0 (modTier s d g) := by
  refine Keeps.lift (a := m) (Nat.and_self m) ?_ k
  cases d
  · exact Keeps.ofParts (.inr rfl) (CfgKeeps.refl m _) (LftKeeps.refl m _) ⟨SwcKeeps.refl m _, SwcKeeps.refl m _⟩ ⟨HomeKeeps.refl m _, HomeKeeps.refl m _⟩ ⟨CohKeeps.refl m _, CohKeeps.refl m _⟩ ⟨h, TierKeeps.refl m _⟩ (.inr rfl) (.inr rfl) (.inr rfl) (.inr rfl) (.inr rfl) ⟨FtlKeeps.refl m _, FtlKeeps.refl m _⟩ ⟨PodKeeps.refl m _, PodKeeps.refl m _⟩ ⟨ColKeeps.refl m _, ColKeeps.refl m _⟩ (CmpKeeps.refl m _) (.inr rfl) ⟨EvKeeps.refl m _, EvKeeps.refl m _⟩ (SecKeeps.refl m _) (MtrKeeps.refl m _) (FltKeeps.refl m _) (ModKeeps.refl m _) (.inr rfl) (.inr rfl) (.inr rfl) (.inr rfl) (.inr rfl) (.inr rfl) (.inr rfl) (.inr rfl) (.inr rfl) (Mono.of_same rfl rfl)
  · exact Keeps.ofParts (.inr rfl) (CfgKeeps.refl m _) (LftKeeps.refl m _) ⟨SwcKeeps.refl m _, SwcKeeps.refl m _⟩ ⟨HomeKeeps.refl m _, HomeKeeps.refl m _⟩ ⟨CohKeeps.refl m _, CohKeeps.refl m _⟩ ⟨TierKeeps.refl m _, h⟩ (.inr rfl) (.inr rfl) (.inr rfl) (.inr rfl) (.inr rfl) ⟨FtlKeeps.refl m _, FtlKeeps.refl m _⟩ ⟨PodKeeps.refl m _, PodKeeps.refl m _⟩ ⟨ColKeeps.refl m _, ColKeeps.refl m _⟩ (CmpKeeps.refl m _) (.inr rfl) ⟨EvKeeps.refl m _, EvKeeps.refl m _⟩ (SecKeeps.refl m _) (MtrKeeps.refl m _) (FltKeeps.refl m _) (ModKeeps.refl m _) (.inr rfl) (.inr rfl) (.inr rfl) (.inr rfl) (.inr rfl) (.inr rfl) (.inr rfl) (.inr rfl) (.inr rfl) (Mono.of_same rfl rfl)

theorem modFtl_keeps {m : Nat} {s0 s : State} {d : Die} {g : FtlState → FtlState} (h : FtlKeeps m (side s.ftl d) (g (side s.ftl d))) (k : Keeps m s0 s) : Keeps m s0 (modFtl s d g) := by
  refine Keeps.lift (a := m) (Nat.and_self m) ?_ k
  cases d
  · exact Keeps.ofParts (.inr rfl) (CfgKeeps.refl m _) (LftKeeps.refl m _) ⟨SwcKeeps.refl m _, SwcKeeps.refl m _⟩ ⟨HomeKeeps.refl m _, HomeKeeps.refl m _⟩ ⟨CohKeeps.refl m _, CohKeeps.refl m _⟩ ⟨TierKeeps.refl m _, TierKeeps.refl m _⟩ (.inr rfl) (.inr rfl) (.inr rfl) (.inr rfl) (.inr rfl) ⟨h, FtlKeeps.refl m _⟩ ⟨PodKeeps.refl m _, PodKeeps.refl m _⟩ ⟨ColKeeps.refl m _, ColKeeps.refl m _⟩ (CmpKeeps.refl m _) (.inr rfl) ⟨EvKeeps.refl m _, EvKeeps.refl m _⟩ (SecKeeps.refl m _) (MtrKeeps.refl m _) (FltKeeps.refl m _) (ModKeeps.refl m _) (.inr rfl) (.inr rfl) (.inr rfl) (.inr rfl) (.inr rfl) (.inr rfl) (.inr rfl) (.inr rfl) (.inr rfl) (Mono.of_same rfl rfl)
  · exact Keeps.ofParts (.inr rfl) (CfgKeeps.refl m _) (LftKeeps.refl m _) ⟨SwcKeeps.refl m _, SwcKeeps.refl m _⟩ ⟨HomeKeeps.refl m _, HomeKeeps.refl m _⟩ ⟨CohKeeps.refl m _, CohKeeps.refl m _⟩ ⟨TierKeeps.refl m _, TierKeeps.refl m _⟩ (.inr rfl) (.inr rfl) (.inr rfl) (.inr rfl) (.inr rfl) ⟨FtlKeeps.refl m _, h⟩ ⟨PodKeeps.refl m _, PodKeeps.refl m _⟩ ⟨ColKeeps.refl m _, ColKeeps.refl m _⟩ (CmpKeeps.refl m _) (.inr rfl) ⟨EvKeeps.refl m _, EvKeeps.refl m _⟩ (SecKeeps.refl m _) (MtrKeeps.refl m _) (FltKeeps.refl m _) (ModKeeps.refl m _) (.inr rfl) (.inr rfl) (.inr rfl) (.inr rfl) (.inr rfl) (.inr rfl) (.inr rfl) (.inr rfl) (.inr rfl) (Mono.of_same rfl rfl)

theorem modPod_keeps {m : Nat} {s0 s : State} {d : Die} {g : PodState → PodState} (h : PodKeeps m (side s.pod d) (g (side s.pod d))) (k : Keeps m s0 s) : Keeps m s0 (modPod s d g) := by
  refine Keeps.lift (a := m) (Nat.and_self m) ?_ k
  cases d
  · exact Keeps.ofParts (.inr rfl) (CfgKeeps.refl m _) (LftKeeps.refl m _) ⟨SwcKeeps.refl m _, SwcKeeps.refl m _⟩ ⟨HomeKeeps.refl m _, HomeKeeps.refl m _⟩ ⟨CohKeeps.refl m _, CohKeeps.refl m _⟩ ⟨TierKeeps.refl m _, TierKeeps.refl m _⟩ (.inr rfl) (.inr rfl) (.inr rfl) (.inr rfl) (.inr rfl) ⟨FtlKeeps.refl m _, FtlKeeps.refl m _⟩ ⟨h, PodKeeps.refl m _⟩ ⟨ColKeeps.refl m _, ColKeeps.refl m _⟩ (CmpKeeps.refl m _) (.inr rfl) ⟨EvKeeps.refl m _, EvKeeps.refl m _⟩ (SecKeeps.refl m _) (MtrKeeps.refl m _) (FltKeeps.refl m _) (ModKeeps.refl m _) (.inr rfl) (.inr rfl) (.inr rfl) (.inr rfl) (.inr rfl) (.inr rfl) (.inr rfl) (.inr rfl) (.inr rfl) (Mono.of_same rfl rfl)
  · exact Keeps.ofParts (.inr rfl) (CfgKeeps.refl m _) (LftKeeps.refl m _) ⟨SwcKeeps.refl m _, SwcKeeps.refl m _⟩ ⟨HomeKeeps.refl m _, HomeKeeps.refl m _⟩ ⟨CohKeeps.refl m _, CohKeeps.refl m _⟩ ⟨TierKeeps.refl m _, TierKeeps.refl m _⟩ (.inr rfl) (.inr rfl) (.inr rfl) (.inr rfl) (.inr rfl) ⟨FtlKeeps.refl m _, FtlKeeps.refl m _⟩ ⟨PodKeeps.refl m _, h⟩ ⟨ColKeeps.refl m _, ColKeeps.refl m _⟩ (CmpKeeps.refl m _) (.inr rfl) ⟨EvKeeps.refl m _, EvKeeps.refl m _⟩ (SecKeeps.refl m _) (MtrKeeps.refl m _) (FltKeeps.refl m _) (ModKeeps.refl m _) (.inr rfl) (.inr rfl) (.inr rfl) (.inr rfl) (.inr rfl) (.inr rfl) (.inr rfl) (.inr rfl) (.inr rfl) (Mono.of_same rfl rfl)

theorem modCol_keeps {m : Nat} {s0 s : State} {d : Die} {g : ColState → ColState} (h : ColKeeps m (side s.col d) (g (side s.col d))) (k : Keeps m s0 s) : Keeps m s0 (modCol s d g) := by
  refine Keeps.lift (a := m) (Nat.and_self m) ?_ k
  cases d
  · exact Keeps.ofParts (.inr rfl) (CfgKeeps.refl m _) (LftKeeps.refl m _) ⟨SwcKeeps.refl m _, SwcKeeps.refl m _⟩ ⟨HomeKeeps.refl m _, HomeKeeps.refl m _⟩ ⟨CohKeeps.refl m _, CohKeeps.refl m _⟩ ⟨TierKeeps.refl m _, TierKeeps.refl m _⟩ (.inr rfl) (.inr rfl) (.inr rfl) (.inr rfl) (.inr rfl) ⟨FtlKeeps.refl m _, FtlKeeps.refl m _⟩ ⟨PodKeeps.refl m _, PodKeeps.refl m _⟩ ⟨h, ColKeeps.refl m _⟩ (CmpKeeps.refl m _) (.inr rfl) ⟨EvKeeps.refl m _, EvKeeps.refl m _⟩ (SecKeeps.refl m _) (MtrKeeps.refl m _) (FltKeeps.refl m _) (ModKeeps.refl m _) (.inr rfl) (.inr rfl) (.inr rfl) (.inr rfl) (.inr rfl) (.inr rfl) (.inr rfl) (.inr rfl) (.inr rfl) (Mono.of_same rfl rfl)
  · exact Keeps.ofParts (.inr rfl) (CfgKeeps.refl m _) (LftKeeps.refl m _) ⟨SwcKeeps.refl m _, SwcKeeps.refl m _⟩ ⟨HomeKeeps.refl m _, HomeKeeps.refl m _⟩ ⟨CohKeeps.refl m _, CohKeeps.refl m _⟩ ⟨TierKeeps.refl m _, TierKeeps.refl m _⟩ (.inr rfl) (.inr rfl) (.inr rfl) (.inr rfl) (.inr rfl) ⟨FtlKeeps.refl m _, FtlKeeps.refl m _⟩ ⟨PodKeeps.refl m _, PodKeeps.refl m _⟩ ⟨ColKeeps.refl m _, h⟩ (CmpKeeps.refl m _) (.inr rfl) ⟨EvKeeps.refl m _, EvKeeps.refl m _⟩ (SecKeeps.refl m _) (MtrKeeps.refl m _) (FltKeeps.refl m _) (ModKeeps.refl m _) (.inr rfl) (.inr rfl) (.inr rfl) (.inr rfl) (.inr rfl) (.inr rfl) (.inr rfl) (.inr rfl) (.inr rfl) (Mono.of_same rfl rfl)

theorem modEv_keeps {m : Nat} {s0 s : State} {d : Die} {g : EvState → EvState} (h : EvKeeps m (side s.ev d) (g (side s.ev d))) (k : Keeps m s0 s) : Keeps m s0 (modEv s d g) := by
  refine Keeps.lift (a := m) (Nat.and_self m) ?_ k
  cases d
  · exact Keeps.ofParts (.inr rfl) (CfgKeeps.refl m _) (LftKeeps.refl m _) ⟨SwcKeeps.refl m _, SwcKeeps.refl m _⟩ ⟨HomeKeeps.refl m _, HomeKeeps.refl m _⟩ ⟨CohKeeps.refl m _, CohKeeps.refl m _⟩ ⟨TierKeeps.refl m _, TierKeeps.refl m _⟩ (.inr rfl) (.inr rfl) (.inr rfl) (.inr rfl) (.inr rfl) ⟨FtlKeeps.refl m _, FtlKeeps.refl m _⟩ ⟨PodKeeps.refl m _, PodKeeps.refl m _⟩ ⟨ColKeeps.refl m _, ColKeeps.refl m _⟩ (CmpKeeps.refl m _) (.inr rfl) ⟨h, EvKeeps.refl m _⟩ (SecKeeps.refl m _) (MtrKeeps.refl m _) (FltKeeps.refl m _) (ModKeeps.refl m _) (.inr rfl) (.inr rfl) (.inr rfl) (.inr rfl) (.inr rfl) (.inr rfl) (.inr rfl) (.inr rfl) (.inr rfl) (Mono.of_same rfl rfl)
  · exact Keeps.ofParts (.inr rfl) (CfgKeeps.refl m _) (LftKeeps.refl m _) ⟨SwcKeeps.refl m _, SwcKeeps.refl m _⟩ ⟨HomeKeeps.refl m _, HomeKeeps.refl m _⟩ ⟨CohKeeps.refl m _, CohKeeps.refl m _⟩ ⟨TierKeeps.refl m _, TierKeeps.refl m _⟩ (.inr rfl) (.inr rfl) (.inr rfl) (.inr rfl) (.inr rfl) ⟨FtlKeeps.refl m _, FtlKeeps.refl m _⟩ ⟨PodKeeps.refl m _, PodKeeps.refl m _⟩ ⟨ColKeeps.refl m _, ColKeeps.refl m _⟩ (CmpKeeps.refl m _) (.inr rfl) ⟨EvKeeps.refl m _, h⟩ (SecKeeps.refl m _) (MtrKeeps.refl m _) (FltKeeps.refl m _) (ModKeeps.refl m _) (.inr rfl) (.inr rfl) (.inr rfl) (.inr rfl) (.inr rfl) (.inr rfl) (.inr rfl) (.inr rfl) (.inr rfl) (Mono.of_same rfl rfl)

theorem modSec_keeps {m : Nat} {s0 s : State} {g : SecState → SecState} (h : SecKeeps m s.sec (g s.sec)) (hsec : SecMono s.sec (g s.sec)) (k : Keeps m s0 s) : Keeps m s0 (modSec s g) := by
  refine Keeps.lift (a := m) (Nat.and_self m) ?_ k
  exact Keeps.ofParts (.inr rfl) (CfgKeeps.refl m _) (LftKeeps.refl m _) ⟨SwcKeeps.refl m _, SwcKeeps.refl m _⟩ ⟨HomeKeeps.refl m _, HomeKeeps.refl m _⟩ ⟨CohKeeps.refl m _, CohKeeps.refl m _⟩ ⟨TierKeeps.refl m _, TierKeeps.refl m _⟩ (.inr rfl) (.inr rfl) (.inr rfl) (.inr rfl) (.inr rfl) ⟨FtlKeeps.refl m _, FtlKeeps.refl m _⟩ ⟨PodKeeps.refl m _, PodKeeps.refl m _⟩ ⟨ColKeeps.refl m _, ColKeeps.refl m _⟩ (CmpKeeps.refl m _) (.inr rfl) ⟨EvKeeps.refl m _, EvKeeps.refl m _⟩ h (MtrKeeps.refl m _) (FltKeeps.refl m _) (ModKeeps.refl m _) (.inr rfl) (.inr rfl) (.inr rfl) (.inr rfl) (.inr rfl) (.inr rfl) (.inr rfl) (.inr rfl) (.inr rfl) ⟨id, hsec⟩

theorem modMtr_keeps {m : Nat} {s0 s : State} {g : MtrState → MtrState} (h : MtrKeeps m s.mtr (g s.mtr)) (k : Keeps m s0 s) : Keeps m s0 (modMtr s g) := by
  refine Keeps.lift (a := m) (Nat.and_self m) ?_ k
  exact Keeps.ofParts (.inr rfl) (CfgKeeps.refl m _) (LftKeeps.refl m _) ⟨SwcKeeps.refl m _, SwcKeeps.refl m _⟩ ⟨HomeKeeps.refl m _, HomeKeeps.refl m _⟩ ⟨CohKeeps.refl m _, CohKeeps.refl m _⟩ ⟨TierKeeps.refl m _, TierKeeps.refl m _⟩ (.inr rfl) (.inr rfl) (.inr rfl) (.inr rfl) (.inr rfl) ⟨FtlKeeps.refl m _, FtlKeeps.refl m _⟩ ⟨PodKeeps.refl m _, PodKeeps.refl m _⟩ ⟨ColKeeps.refl m _, ColKeeps.refl m _⟩ (CmpKeeps.refl m _) (.inr rfl) ⟨EvKeeps.refl m _, EvKeeps.refl m _⟩ (SecKeeps.refl m _) h (FltKeeps.refl m _) (ModKeeps.refl m _) (.inr rfl) (.inr rfl) (.inr rfl) (.inr rfl) (.inr rfl) (.inr rfl) (.inr rfl) (.inr rfl) (.inr rfl) (Mono.of_same rfl rfl)

theorem modFlt_keeps {m : Nat} {s0 s : State} {g : FltState → FltState} (h : FltKeeps m s.flt (g s.flt)) (k : Keeps m s0 s) : Keeps m s0 (modFlt s g) := by
  refine Keeps.lift (a := m) (Nat.and_self m) ?_ k
  exact Keeps.ofParts (.inr rfl) (CfgKeeps.refl m _) (LftKeeps.refl m _) ⟨SwcKeeps.refl m _, SwcKeeps.refl m _⟩ ⟨HomeKeeps.refl m _, HomeKeeps.refl m _⟩ ⟨CohKeeps.refl m _, CohKeeps.refl m _⟩ ⟨TierKeeps.refl m _, TierKeeps.refl m _⟩ (.inr rfl) (.inr rfl) (.inr rfl) (.inr rfl) (.inr rfl) ⟨FtlKeeps.refl m _, FtlKeeps.refl m _⟩ ⟨PodKeeps.refl m _, PodKeeps.refl m _⟩ ⟨ColKeeps.refl m _, ColKeeps.refl m _⟩ (CmpKeeps.refl m _) (.inr rfl) ⟨EvKeeps.refl m _, EvKeeps.refl m _⟩ (SecKeeps.refl m _) (MtrKeeps.refl m _) h (ModKeeps.refl m _) (.inr rfl) (.inr rfl) (.inr rfl) (.inr rfl) (.inr rfl) (.inr rfl) (.inr rfl) (.inr rfl) (.inr rfl) (Mono.of_same rfl rfl)

theorem modMod_keeps {m : Nat} {s0 s : State} {g : ModState → ModState} (h : ModKeeps m s.mod (g s.mod)) (k : Keeps m s0 s) : Keeps m s0 (modMod s g) := by
  refine Keeps.lift (a := m) (Nat.and_self m) ?_ k
  exact Keeps.ofParts (.inr rfl) (CfgKeeps.refl m _) (LftKeeps.refl m _) ⟨SwcKeeps.refl m _, SwcKeeps.refl m _⟩ ⟨HomeKeeps.refl m _, HomeKeeps.refl m _⟩ ⟨CohKeeps.refl m _, CohKeeps.refl m _⟩ ⟨TierKeeps.refl m _, TierKeeps.refl m _⟩ (.inr rfl) (.inr rfl) (.inr rfl) (.inr rfl) (.inr rfl) ⟨FtlKeeps.refl m _, FtlKeeps.refl m _⟩ ⟨PodKeeps.refl m _, PodKeeps.refl m _⟩ ⟨ColKeeps.refl m _, ColKeeps.refl m _⟩ (CmpKeeps.refl m _) (.inr rfl) ⟨EvKeeps.refl m _, EvKeeps.refl m _⟩ (SecKeeps.refl m _) (MtrKeeps.refl m _) (FltKeeps.refl m _) h (.inr rfl) (.inr rfl) (.inr rfl) (.inr rfl) (.inr rfl) (.inr rfl) (.inr rfl) (.inr rfl) (.inr rfl) (Mono.of_same rfl rfl)

theorem set_cfg_keeps {m : Nat} {z s : State} {v0 : CfgState} (h0 : CfgKeeps m s.cfg v0) (k : Keeps m z s) :
    Keeps m z { s with cfg := v0 } :=
  Keeps.lift (a := m) (s := s) (Nat.and_self m) (Keeps.ofParts (.inr rfl) h0 (LftKeeps.refl m _) ⟨SwcKeeps.refl m _, SwcKeeps.refl m _⟩ ⟨HomeKeeps.refl m _, HomeKeeps.refl m _⟩ ⟨CohKeeps.refl m _, CohKeeps.refl m _⟩ ⟨TierKeeps.refl m _, TierKeeps.refl m _⟩ (.inr rfl) (.inr rfl) (.inr rfl) (.inr rfl) (.inr rfl) ⟨FtlKeeps.refl m _, FtlKeeps.refl m _⟩ ⟨PodKeeps.refl m _, PodKeeps.refl m _⟩ ⟨ColKeeps.refl m _, ColKeeps.refl m _⟩ (CmpKeeps.refl m _) (.inr rfl) ⟨EvKeeps.refl m _, EvKeeps.refl m _⟩ (SecKeeps.refl m _) (MtrKeeps.refl m _) (FltKeeps.refl m _) (ModKeeps.refl m _) (.inr rfl) (.inr rfl) (.inr rfl) (.inr rfl) (.inr rfl) (.inr rfl) (.inr rfl) (.inr rfl) (.inr rfl) (Mono.of_same rfl rfl)) k

theorem set_cfg_lft_swc_pod_ev_sec_mod_keeps {m : Nat} {z s : State} {v0 : CfgState} {v1 : LftState} {v2 : Two SwcState} {v3 : Two PodState} {v4 : Two EvState} {v5 : SecState} {v6 : ModState} (h0 : CfgKeeps m s.cfg v0) (h1 : LftKeeps m s.lft v1) (h2 : SwcKeeps m s.swc.d0 v2.d0 ∧ SwcKeeps m s.swc.d1 v2.d1) (h3 : PodKeeps m s.pod.d0 v3.d0 ∧ PodKeeps m s.pod.d1 v3.d1) (h4 : EvKeeps m s.ev.d0 v4.d0 ∧ EvKeeps m s.ev.d1 v4.d1) (h5 : SecKeeps m s.sec v5) (h6 : ModKeeps m s.mod v6) (hsec : SecMono s.sec v5) (k : Keeps m z s) :
    Keeps m z { s with cfg := v0, lft := v1, swc := v2, pod := v3, ev := v4, sec := v5, mod := v6 } :=
  Keeps.lift (a := m) (s := s) (Nat.and_self m) (Keeps.ofParts (.inr rfl) h0 h1 h2 ⟨HomeKeeps.refl m _, HomeKeeps.refl m _⟩ ⟨CohKeeps.refl m _, CohKeeps.refl m _⟩ ⟨TierKeeps.refl m _, TierKeeps.refl m _⟩ (.inr rfl) (.inr rfl) (.inr rfl) (.inr rfl) (.inr rfl) ⟨FtlKeeps.refl m _, FtlKeeps.refl m _⟩ h3 ⟨ColKeeps.refl m _, ColKeeps.refl m _⟩ (CmpKeeps.refl m _) (.inr rfl) h4 h5 (MtrKeeps.refl m _) (FltKeeps.refl m _) h6 (.inr rfl) (.inr rfl) (.inr rfl) (.inr rfl) (.inr rfl) (.inr rfl) (.inr rfl) (.inr rfl) (.inr rfl) ⟨id, hsec⟩) k

theorem set_cmp_keeps {m : Nat} {z s : State} {v0 : CmpState} (h0 : CmpKeeps m s.cmp v0) (k : Keeps m z s) :
    Keeps m z { s with cmp := v0 } :=
  Keeps.lift (a := m) (s := s) (Nat.and_self m) (Keeps.ofParts (.inr rfl) (CfgKeeps.refl m _) (LftKeeps.refl m _) ⟨SwcKeeps.refl m _, SwcKeeps.refl m _⟩ ⟨HomeKeeps.refl m _, HomeKeeps.refl m _⟩ ⟨CohKeeps.refl m _, CohKeeps.refl m _⟩ ⟨TierKeeps.refl m _, TierKeeps.refl m _⟩ (.inr rfl) (.inr rfl) (.inr rfl) (.inr rfl) (.inr rfl) ⟨FtlKeeps.refl m _, FtlKeeps.refl m _⟩ ⟨PodKeeps.refl m _, PodKeeps.refl m _⟩ ⟨ColKeeps.refl m _, ColKeeps.refl m _⟩ h0 (.inr rfl) ⟨EvKeeps.refl m _, EvKeeps.refl m _⟩ (SecKeeps.refl m _) (MtrKeeps.refl m _) (FltKeeps.refl m _) (ModKeeps.refl m _) (.inr rfl) (.inr rfl) (.inr rfl) (.inr rfl) (.inr rfl) (.inr rfl) (.inr rfl) (.inr rfl) (.inr rfl) (Mono.of_same rfl rfl)) k

theorem set_ctxs_keeps {m : Nat} {z s : State} {v0 : Dict Ctx} (h0 : m.testBit 191 = true) (k : Keeps m z s) :
    Keeps m z { s with ctxs := v0 } :=
  Keeps.lift (a := m) (s := s) (Nat.and_self m) (Keeps.ofParts (.inr rfl) (CfgKeeps.refl m _) (LftKeeps.refl m _) ⟨SwcKeeps.refl m _, SwcKeeps.refl m _⟩ ⟨HomeKeeps.refl m _, HomeKeeps.refl m _⟩ ⟨CohKeeps.refl m _, CohKeeps.refl m _⟩ ⟨TierKeeps.refl m _, TierKeeps.refl m _⟩ (.inr rfl) (.inr rfl) (.inr rfl) (.inr rfl) (.inr rfl) ⟨FtlKeeps.refl m _, FtlKeeps.refl m _⟩ ⟨PodKeeps.refl m _, PodKeeps.refl m _⟩ ⟨ColKeeps.refl m _, ColKeeps.refl m _⟩ (CmpKeeps.refl m _) (.inl h0) ⟨EvKeeps.refl m _, EvKeeps.refl m _⟩ (SecKeeps.refl m _) (MtrKeeps.refl m _) (FltKeeps.refl m _) (ModKeeps.refl m _) (.inr rfl) (.inr rfl) (.inr rfl) (.inr rfl) (.inr rfl) (.inr rfl) (.inr rfl) (.inr rfl) (.inr rfl) (Mono.of_same rfl rfl)) k

theorem set_extSel_extRec_keeps {m : Nat} {z s : State} {v0 : Word} {v1 : List Word} (h0 : m.testBit 297 = true) (h1 : m.testBit 298 = true) (k : Keeps m z s) :
    Keeps m z { s with extSel := v0, extRec := v1 } :=
  Keeps.lift (a := m) (s := s) (Nat.and_self m) (Keeps.ofParts (.inr rfl) (CfgKeeps.refl m _) (LftKeeps.refl m _) ⟨SwcKeeps.refl m _, SwcKeeps.refl m _⟩ ⟨HomeKeeps.refl m _, HomeKeeps.refl m _⟩ ⟨CohKeeps.refl m _, CohKeeps.refl m _⟩ ⟨TierKeeps.refl m _, TierKeeps.refl m _⟩ (.inr rfl) (.inr rfl) (.inr rfl) (.inr rfl) (.inr rfl) ⟨FtlKeeps.refl m _, FtlKeeps.refl m _⟩ ⟨PodKeeps.refl m _, PodKeeps.refl m _⟩ ⟨ColKeeps.refl m _, ColKeeps.refl m _⟩ (CmpKeeps.refl m _) (.inr rfl) ⟨EvKeeps.refl m _, EvKeeps.refl m _⟩ (SecKeeps.refl m _) (MtrKeeps.refl m _) (FltKeeps.refl m _) (ModKeeps.refl m _) (.inl h0) (.inl h1) (.inr rfl) (.inr rfl) (.inr rfl) (.inr rfl) (.inr rfl) (.inr rfl) (.inr rfl) (Mono.of_same rfl rfl)) k

theorem set_exts_keeps {m : Nat} {z s : State} {v0 : Dict ExtState} (h0 : m.testBit 123 = true) (k : Keeps m z s) :
    Keeps m z { s with exts := v0 } :=
  Keeps.lift (a := m) (s := s) (Nat.and_self m) (Keeps.ofParts (.inr rfl) (CfgKeeps.refl m _) (LftKeeps.refl m _) ⟨SwcKeeps.refl m _, SwcKeeps.refl m _⟩ ⟨HomeKeeps.refl m _, HomeKeeps.refl m _⟩ ⟨CohKeeps.refl m _, CohKeeps.refl m _⟩ ⟨TierKeeps.refl m _, TierKeeps.refl m _⟩ (.inl h0) (.inr rfl) (.inr rfl) (.inr rfl) (.inr rfl) ⟨FtlKeeps.refl m _, FtlKeeps.refl m _⟩ ⟨PodKeeps.refl m _, PodKeeps.refl m _⟩ ⟨ColKeeps.refl m _, ColKeeps.refl m _⟩ (CmpKeeps.refl m _) (.inr rfl) ⟨EvKeeps.refl m _, EvKeeps.refl m _⟩ (SecKeeps.refl m _) (MtrKeeps.refl m _) (FltKeeps.refl m _) (ModKeeps.refl m _) (.inr rfl) (.inr rfl) (.inr rfl) (.inr rfl) (.inr rfl) (.inr rfl) (.inr rfl) (.inr rfl) (.inr rfl) (Mono.of_same rfl rfl)) k

theorem set_flt_keeps {m : Nat} {z s : State} {v0 : FltState} (h0 : FltKeeps m s.flt v0) (k : Keeps m z s) :
    Keeps m z { s with flt := v0 } :=
  Keeps.lift (a := m) (s := s) (Nat.and_self m) (Keeps.ofParts (.inr rfl) (CfgKeeps.refl m _) (LftKeeps.refl m _) ⟨SwcKeeps.refl m _, SwcKeeps.refl m _⟩ ⟨HomeKeeps.refl m _, HomeKeeps.refl m _⟩ ⟨CohKeeps.refl m _, CohKeeps.refl m _⟩ ⟨TierKeeps.refl m _, TierKeeps.refl m _⟩ (.inr rfl) (.inr rfl) (.inr rfl) (.inr rfl) (.inr rfl) ⟨FtlKeeps.refl m _, FtlKeeps.refl m _⟩ ⟨PodKeeps.refl m _, PodKeeps.refl m _⟩ ⟨ColKeeps.refl m _, ColKeeps.refl m _⟩ (CmpKeeps.refl m _) (.inr rfl) ⟨EvKeeps.refl m _, EvKeeps.refl m _⟩ (SecKeeps.refl m _) (MtrKeeps.refl m _) h0 (ModKeeps.refl m _) (.inr rfl) (.inr rfl) (.inr rfl) (.inr rfl) (.inr rfl) (.inr rfl) (.inr rfl) (.inr rfl) (.inr rfl) (Mono.of_same rfl rfl)) k

theorem set_freeCtr_keeps {m : Nat} {z s : State} {v0 : Nat} (h0 : m.testBit 305 = true) (k : Keeps m z s) :
    Keeps m z { s with freeCtr := v0 } :=
  Keeps.lift (a := m) (s := s) (Nat.and_self m) (Keeps.ofParts (.inr rfl) (CfgKeeps.refl m _) (LftKeeps.refl m _) ⟨SwcKeeps.refl m _, SwcKeeps.refl m _⟩ ⟨HomeKeeps.refl m _, HomeKeeps.refl m _⟩ ⟨CohKeeps.refl m _, CohKeeps.refl m _⟩ ⟨TierKeeps.refl m _, TierKeeps.refl m _⟩ (.inr rfl) (.inr rfl) (.inr rfl) (.inr rfl) (.inr rfl) ⟨FtlKeeps.refl m _, FtlKeeps.refl m _⟩ ⟨PodKeeps.refl m _, PodKeeps.refl m _⟩ ⟨ColKeeps.refl m _, ColKeeps.refl m _⟩ (CmpKeeps.refl m _) (.inr rfl) ⟨EvKeeps.refl m _, EvKeeps.refl m _⟩ (SecKeeps.refl m _) (MtrKeeps.refl m _) (FltKeeps.refl m _) (ModKeeps.refl m _) (.inr rfl) (.inr rfl) (.inr rfl) (.inr rfl) (.inr rfl) (.inr rfl) (.inr rfl) (.inr rfl) (.inl h0) (Mono.of_same rfl rfl)) k

theorem set_lft_keeps {m : Nat} {z s : State} {v0 : LftState} (h0 : LftKeeps m s.lft v0) (k : Keeps m z s) :
    Keeps m z { s with lft := v0 } :=
  Keeps.lift (a := m) (s := s) (Nat.and_self m) (Keeps.ofParts (.inr rfl) (CfgKeeps.refl m _) h0 ⟨SwcKeeps.refl m _, SwcKeeps.refl m _⟩ ⟨HomeKeeps.refl m _, HomeKeeps.refl m _⟩ ⟨CohKeeps.refl m _, CohKeeps.refl m _⟩ ⟨TierKeeps.refl m _, TierKeeps.refl m _⟩ (.inr rfl) (.inr rfl) (.inr rfl) (.inr rfl) (.inr rfl) ⟨FtlKeeps.refl m _, FtlKeeps.refl m _⟩ ⟨PodKeeps.refl m _, PodKeeps.refl m _⟩ ⟨ColKeeps.refl m _, ColKeeps.refl m _⟩ (CmpKeeps.refl m _) (.inr rfl) ⟨EvKeeps.refl m _, EvKeeps.refl m _⟩ (SecKeeps.refl m _) (MtrKeeps.refl m _) (FltKeeps.refl m _) (ModKeeps.refl m _) (.inr rfl) (.inr rfl) (.inr rfl) (.inr rfl) (.inr rfl) (.inr rfl) (.inr rfl) (.inr rfl) (.inr rfl) (Mono.of_same rfl rfl)) k

theorem set_lft_swc_home_keeps {m : Nat} {z s : State} {v0 : LftState} {v1 : Two SwcState} {v2 : Two HomeState} (h0 : LftKeeps m s.lft v0) (h1 : SwcKeeps m s.swc.d0 v1.d0 ∧ SwcKeeps m s.swc.d1 v1.d1) (h2 : HomeKeeps m s.home.d0 v2.d0 ∧ HomeKeeps m s.home.d1 v2.d1) (k : Keeps m z s) :
    Keeps m z { s with lft := v0, swc := v1, home := v2 } :=
  Keeps.lift (a := m) (s := s) (Nat.and_self m) (Keeps.ofParts (.inr rfl) (CfgKeeps.refl m _) h0 h1 h2 ⟨CohKeeps.refl m _, CohKeeps.refl m _⟩ ⟨TierKeeps.refl m _, TierKeeps.refl m _⟩ (.inr rfl) (.inr rfl) (.inr rfl) (.inr rfl) (.inr rfl) ⟨FtlKeeps.refl m _, FtlKeeps.refl m _⟩ ⟨PodKeeps.refl m _, PodKeeps.refl m _⟩ ⟨ColKeeps.refl m _, ColKeeps.refl m _⟩ (CmpKeeps.refl m _) (.inr rfl) ⟨EvKeeps.refl m _, EvKeeps.refl m _⟩ (SecKeeps.refl m _) (MtrKeeps.refl m _) (FltKeeps.refl m _) (ModKeeps.refl m _) (.inr rfl) (.inr rfl) (.inr rfl) (.inr rfl) (.inr rfl) (.inr rfl) (.inr rfl) (.inr rfl) (.inr rfl) (Mono.of_same rfl rfl)) k

theorem set_mem_keeps {m : Nat} {z s : State} {v0 : List Host.Cell} (h0 : m.testBit 303 = true) (hmem : memWf s.mem = true → memWf v0 = true) (k : Keeps m z s) :
    Keeps m z { s with mem := v0 } :=
  Keeps.lift (a := m) (s := s) (Nat.and_self m) (Keeps.ofParts (.inr rfl) (CfgKeeps.refl m _) (LftKeeps.refl m _) ⟨SwcKeeps.refl m _, SwcKeeps.refl m _⟩ ⟨HomeKeeps.refl m _, HomeKeeps.refl m _⟩ ⟨CohKeeps.refl m _, CohKeeps.refl m _⟩ ⟨TierKeeps.refl m _, TierKeeps.refl m _⟩ (.inr rfl) (.inr rfl) (.inr rfl) (.inr rfl) (.inr rfl) ⟨FtlKeeps.refl m _, FtlKeeps.refl m _⟩ ⟨PodKeeps.refl m _, PodKeeps.refl m _⟩ ⟨ColKeeps.refl m _, ColKeeps.refl m _⟩ (CmpKeeps.refl m _) (.inr rfl) ⟨EvKeeps.refl m _, EvKeeps.refl m _⟩ (SecKeeps.refl m _) (MtrKeeps.refl m _) (FltKeeps.refl m _) (ModKeeps.refl m _) (.inr rfl) (.inr rfl) (.inr rfl) (.inr rfl) (.inr rfl) (.inr rfl) (.inl h0) (.inr rfl) (.inr rfl) ⟨hmem, SecMono.refl _⟩) k

theorem set_mem_poison_keeps {m : Nat} {z s : State} {v0 : List Host.Cell} {v1 : List Nat} (h0 : m.testBit 303 = true) (h1 : m.testBit 304 = true) (hmem : memWf s.mem = true → memWf v0 = true) (k : Keeps m z s) :
    Keeps m z { s with mem := v0, poison := v1 } :=
  Keeps.lift (a := m) (s := s) (Nat.and_self m) (Keeps.ofParts (.inr rfl) (CfgKeeps.refl m _) (LftKeeps.refl m _) ⟨SwcKeeps.refl m _, SwcKeeps.refl m _⟩ ⟨HomeKeeps.refl m _, HomeKeeps.refl m _⟩ ⟨CohKeeps.refl m _, CohKeeps.refl m _⟩ ⟨TierKeeps.refl m _, TierKeeps.refl m _⟩ (.inr rfl) (.inr rfl) (.inr rfl) (.inr rfl) (.inr rfl) ⟨FtlKeeps.refl m _, FtlKeeps.refl m _⟩ ⟨PodKeeps.refl m _, PodKeeps.refl m _⟩ ⟨ColKeeps.refl m _, ColKeeps.refl m _⟩ (CmpKeeps.refl m _) (.inr rfl) ⟨EvKeeps.refl m _, EvKeeps.refl m _⟩ (SecKeeps.refl m _) (MtrKeeps.refl m _) (FltKeeps.refl m _) (ModKeeps.refl m _) (.inr rfl) (.inr rfl) (.inr rfl) (.inr rfl) (.inr rfl) (.inr rfl) (.inl h0) (.inl h1) (.inr rfl) ⟨hmem, SecMono.refl _⟩) k

theorem set_mod_keeps {m : Nat} {z s : State} {v0 : ModState} (h0 : ModKeeps m s.mod v0) (k : Keeps m z s) :
    Keeps m z { s with mod := v0 } :=
  Keeps.lift (a := m) (s := s) (Nat.and_self m) (Keeps.ofParts (.inr rfl) (CfgKeeps.refl m _) (LftKeeps.refl m _) ⟨SwcKeeps.refl m _, SwcKeeps.refl m _⟩ ⟨HomeKeeps.refl m _, HomeKeeps.refl m _⟩ ⟨CohKeeps.refl m _, CohKeeps.refl m _⟩ ⟨TierKeeps.refl m _, TierKeeps.refl m _⟩ (.inr rfl) (.inr rfl) (.inr rfl) (.inr rfl) (.inr rfl) ⟨FtlKeeps.refl m _, FtlKeeps.refl m _⟩ ⟨PodKeeps.refl m _, PodKeeps.refl m _⟩ ⟨ColKeeps.refl m _, ColKeeps.refl m _⟩ (CmpKeeps.refl m _) (.inr rfl) ⟨EvKeeps.refl m _, EvKeeps.refl m _⟩ (SecKeeps.refl m _) (MtrKeeps.refl m _) (FltKeeps.refl m _) h0 (.inr rfl) (.inr rfl) (.inr rfl) (.inr rfl) (.inr rfl) (.inr rfl) (.inr rfl) (.inr rfl) (.inr rfl) (Mono.of_same rfl rfl)) k

theorem set_mtr_keeps {m : Nat} {z s : State} {v0 : MtrState} (h0 : MtrKeeps m s.mtr v0) (k : Keeps m z s) :
    Keeps m z { s with mtr := v0 } :=
  Keeps.lift (a := m) (s := s) (Nat.and_self m) (Keeps.ofParts (.inr rfl) (CfgKeeps.refl m _) (LftKeeps.refl m _) ⟨SwcKeeps.refl m _, SwcKeeps.refl m _⟩ ⟨HomeKeeps.refl m _, HomeKeeps.refl m _⟩ ⟨CohKeeps.refl m _, CohKeeps.refl m _⟩ ⟨TierKeeps.refl m _, TierKeeps.refl m _⟩ (.inr rfl) (.inr rfl) (.inr rfl) (.inr rfl) (.inr rfl) ⟨FtlKeeps.refl m _, FtlKeeps.refl m _⟩ ⟨PodKeeps.refl m _, PodKeeps.refl m _⟩ ⟨ColKeeps.refl m _, ColKeeps.refl m _⟩ (CmpKeeps.refl m _) (.inr rfl) ⟨EvKeeps.refl m _, EvKeeps.refl m _⟩ (SecKeeps.refl m _) h0 (FltKeeps.refl m _) (ModKeeps.refl m _) (.inr rfl) (.inr rfl) (.inr rfl) (.inr rfl) (.inr rfl) (.inr rfl) (.inr rfl) (.inr rfl) (.inr rfl) (Mono.of_same rfl rfl)) k

theorem set_objSel_objRec_keeps {m : Nat} {z s : State} {v0 : Word} {v1 : List Word} (h0 : m.testBit 299 = true) (h1 : m.testBit 300 = true) (k : Keeps m z s) :
    Keeps m z { s with objSel := v0, objRec := v1 } :=
  Keeps.lift (a := m) (s := s) (Nat.and_self m) (Keeps.ofParts (.inr rfl) (CfgKeeps.refl m _) (LftKeeps.refl m _) ⟨SwcKeeps.refl m _, SwcKeeps.refl m _⟩ ⟨HomeKeeps.refl m _, HomeKeeps.refl m _⟩ ⟨CohKeeps.refl m _, CohKeeps.refl m _⟩ ⟨TierKeeps.refl m _, TierKeeps.refl m _⟩ (.inr rfl) (.inr rfl) (.inr rfl) (.inr rfl) (.inr rfl) ⟨FtlKeeps.refl m _, FtlKeeps.refl m _⟩ ⟨PodKeeps.refl m _, PodKeeps.refl m _⟩ ⟨ColKeeps.refl m _, ColKeeps.refl m _⟩ (CmpKeeps.refl m _) (.inr rfl) ⟨EvKeeps.refl m _, EvKeeps.refl m _⟩ (SecKeeps.refl m _) (MtrKeeps.refl m _) (FltKeeps.refl m _) (ModKeeps.refl m _) (.inr rfl) (.inr rfl) (.inl h0) (.inl h1) (.inr rfl) (.inr rfl) (.inr rfl) (.inr rfl) (.inr rfl) (Mono.of_same rfl rfl)) k

theorem set_objs_keeps {m : Nat} {z s : State} {v0 : Dict Obj} (h0 : m.testBit 124 = true) (k : Keeps m z s) :
    Keeps m z { s with objs := v0 } :=
  Keeps.lift (a := m) (s := s) (Nat.and_self m) (Keeps.ofParts (.inr rfl) (CfgKeeps.refl m _) (LftKeeps.refl m _) ⟨SwcKeeps.refl m _, SwcKeeps.refl m _⟩ ⟨HomeKeeps.refl m _, HomeKeeps.refl m _⟩ ⟨CohKeeps.refl m _, CohKeeps.refl m _⟩ ⟨TierKeeps.refl m _, TierKeeps.refl m _⟩ (.inr rfl) (.inl h0) (.inr rfl) (.inr rfl) (.inr rfl) ⟨FtlKeeps.refl m _, FtlKeeps.refl m _⟩ ⟨PodKeeps.refl m _, PodKeeps.refl m _⟩ ⟨ColKeeps.refl m _, ColKeeps.refl m _⟩ (CmpKeeps.refl m _) (.inr rfl) ⟨EvKeeps.refl m _, EvKeeps.refl m _⟩ (SecKeeps.refl m _) (MtrKeeps.refl m _) (FltKeeps.refl m _) (ModKeeps.refl m _) (.inr rfl) (.inr rfl) (.inr rfl) (.inr rfl) (.inr rfl) (.inr rfl) (.inr rfl) (.inr rfl) (.inr rfl) (Mono.of_same rfl rfl)) k

theorem set_objs_gens_mem_keeps {m : Nat} {z s : State} {v0 : Dict Obj} {v1 : Dict Nat} {v2 : List Host.Cell} (h0 : m.testBit 124 = true) (h1 : m.testBit 125 = true) (h2 : m.testBit 303 = true) (hmem : memWf s.mem = true → memWf v2 = true) (k : Keeps m z s) :
    Keeps m z { s with objs := v0, gens := v1, mem := v2 } :=
  Keeps.lift (a := m) (s := s) (Nat.and_self m) (Keeps.ofParts (.inr rfl) (CfgKeeps.refl m _) (LftKeeps.refl m _) ⟨SwcKeeps.refl m _, SwcKeeps.refl m _⟩ ⟨HomeKeeps.refl m _, HomeKeeps.refl m _⟩ ⟨CohKeeps.refl m _, CohKeeps.refl m _⟩ ⟨TierKeeps.refl m _, TierKeeps.refl m _⟩ (.inr rfl) (.inl h0) (.inl h1) (.inr rfl) (.inr rfl) ⟨FtlKeeps.refl m _, FtlKeeps.refl m _⟩ ⟨PodKeeps.refl m _, PodKeeps.refl m _⟩ ⟨ColKeeps.refl m _, ColKeeps.refl m _⟩ (CmpKeeps.refl m _) (.inr rfl) ⟨EvKeeps.refl m _, EvKeeps.refl m _⟩ (SecKeeps.refl m _) (MtrKeeps.refl m _) (FltKeeps.refl m _) (ModKeeps.refl m _) (.inr rfl) (.inr rfl) (.inr rfl) (.inr rfl) (.inr rfl) (.inr rfl) (.inl h2) (.inr rfl) (.inr rfl) ⟨hmem, SecMono.refl _⟩) k

theorem set_objs_mem_keeps {m : Nat} {z s : State} {v0 : Dict Obj} {v1 : List Host.Cell} (h0 : m.testBit 124 = true) (h1 : m.testBit 303 = true) (hmem : memWf s.mem = true → memWf v1 = true) (k : Keeps m z s) :
    Keeps m z { s with objs := v0, mem := v1 } :=
  Keeps.lift (a := m) (s := s) (Nat.and_self m) (Keeps.ofParts (.inr rfl) (CfgKeeps.refl m _) (LftKeeps.refl m _) ⟨SwcKeeps.refl m _, SwcKeeps.refl m _⟩ ⟨HomeKeeps.refl m _, HomeKeeps.refl m _⟩ ⟨CohKeeps.refl m _, CohKeeps.refl m _⟩ ⟨TierKeeps.refl m _, TierKeeps.refl m _⟩ (.inr rfl) (.inl h0) (.inr rfl) (.inr rfl) (.inr rfl) ⟨FtlKeeps.refl m _, FtlKeeps.refl m _⟩ ⟨PodKeeps.refl m _, PodKeeps.refl m _⟩ ⟨ColKeeps.refl m _, ColKeeps.refl m _⟩ (CmpKeeps.refl m _) (.inr rfl) ⟨EvKeeps.refl m _, EvKeeps.refl m _⟩ (SecKeeps.refl m _) (MtrKeeps.refl m _) (FltKeeps.refl m _) (ModKeeps.refl m _) (.inr rfl) (.inr rfl) (.inr rfl) (.inr rfl) (.inr rfl) (.inr rfl) (.inl h1) (.inr rfl) (.inr rfl) ⟨hmem, SecMono.refl _⟩) k

theorem set_pending_keeps {m : Nat} {z s : State} {v0 : List Instr} (h0 : m.testBit 0 = true) (k : Keeps m z s) :
    Keeps m z { s with pending := v0 } :=
  Keeps.lift (a := m) (s := s) (Nat.and_self m) (Keeps.ofParts (.inl h0) (CfgKeeps.refl m _) (LftKeeps.refl m _) ⟨SwcKeeps.refl m _, SwcKeeps.refl m _⟩ ⟨HomeKeeps.refl m _, HomeKeeps.refl m _⟩ ⟨CohKeeps.refl m _, CohKeeps.refl m _⟩ ⟨TierKeeps.refl m _, TierKeeps.refl m _⟩ (.inr rfl) (.inr rfl) (.inr rfl) (.inr rfl) (.inr rfl) ⟨FtlKeeps.refl m _, FtlKeeps.refl m _⟩ ⟨PodKeeps.refl m _, PodKeeps.refl m _⟩ ⟨ColKeeps.refl m _, ColKeeps.refl m _⟩ (CmpKeeps.refl m _) (.inr rfl) ⟨EvKeeps.refl m _, EvKeeps.refl m _⟩ (SecKeeps.refl m _) (MtrKeeps.refl m _) (FltKeeps.refl m _) (ModKeeps.refl m _) (.inr rfl) (.inr rfl) (.inr rfl) (.inr rfl) (.inr rfl) (.inr rfl) (.inr rfl) (.inr rfl) (.inr rfl) (Mono.of_same rfl rfl)) k

theorem set_poison_keeps {m : Nat} {z s : State} {v0 : List Nat} (h0 : m.testBit 304 = true) (k : Keeps m z s) :
    Keeps m z { s with poison := v0 } :=
  Keeps.lift (a := m) (s := s) (Nat.and_self m) (Keeps.ofParts (.inr rfl) (CfgKeeps.refl m _) (LftKeeps.refl m _) ⟨SwcKeeps.refl m _, SwcKeeps.refl m _⟩ ⟨HomeKeeps.refl m _, HomeKeeps.refl m _⟩ ⟨CohKeeps.refl m _, CohKeeps.refl m _⟩ ⟨TierKeeps.refl m _, TierKeeps.refl m _⟩ (.inr rfl) (.inr rfl) (.inr rfl) (.inr rfl) (.inr rfl) ⟨FtlKeeps.refl m _, FtlKeeps.refl m _⟩ ⟨PodKeeps.refl m _, PodKeeps.refl m _⟩ ⟨ColKeeps.refl m _, ColKeeps.refl m _⟩ (CmpKeeps.refl m _) (.inr rfl) ⟨EvKeeps.refl m _, EvKeeps.refl m _⟩ (SecKeeps.refl m _) (MtrKeeps.refl m _) (FltKeeps.refl m _) (ModKeeps.refl m _) (.inr rfl) (.inr rfl) (.inr rfl) (.inr rfl) (.inr rfl) (.inr rfl) (.inr rfl) (.inl h0) (.inr rfl) (Mono.of_same rfl rfl)) k

theorem set_sec_keeps {m : Nat} {z s : State} {v0 : SecState} (h0 : SecKeeps m s.sec v0) (hsec : SecMono s.sec v0) (k : Keeps m z s) :
    Keeps m z { s with sec := v0 } :=
  Keeps.lift (a := m) (s := s) (Nat.and_self m) (Keeps.ofParts (.inr rfl) (CfgKeeps.refl m _) (LftKeeps.refl m _) ⟨SwcKeeps.refl m _, SwcKeeps.refl m _⟩ ⟨HomeKeeps.refl m _, HomeKeeps.refl m _⟩ ⟨CohKeeps.refl m _, CohKeeps.refl m _⟩ ⟨TierKeeps.refl m _, TierKeeps.refl m _⟩ (.inr rfl) (.inr rfl) (.inr rfl) (.inr rfl) (.inr rfl) ⟨FtlKeeps.refl m _, FtlKeeps.refl m _⟩ ⟨PodKeeps.refl m _, PodKeeps.refl m _⟩ ⟨ColKeeps.refl m _, ColKeeps.refl m _⟩ (CmpKeeps.refl m _) (.inr rfl) ⟨EvKeeps.refl m _, EvKeeps.refl m _⟩ h0 (MtrKeeps.refl m _) (FltKeeps.refl m _) (ModKeeps.refl m _) (.inr rfl) (.inr rfl) (.inr rfl) (.inr rfl) (.inr rfl) (.inr rfl) (.inr rfl) (.inr rfl) (.inr rfl) ⟨id, hsec⟩) k

theorem set_sesSel_sesRec_keeps {m : Nat} {z s : State} {v0 : Word} {v1 : List Word} (h0 : m.testBit 301 = true) (h1 : m.testBit 302 = true) (k : Keeps m z s) :
    Keeps m z { s with sesSel := v0, sesRec := v1 } :=
  Keeps.lift (a := m) (s := s) (Nat.and_self m) (Keeps.ofParts (.inr rfl) (CfgKeeps.refl m _) (LftKeeps.refl m _) ⟨SwcKeeps.refl m _, SwcKeeps.refl m _⟩ ⟨HomeKeeps.refl m _, HomeKeeps.refl m _⟩ ⟨CohKeeps.refl m _, CohKeeps.refl m _⟩ ⟨TierKeeps.refl m _, TierKeeps.refl m _⟩ (.inr rfl) (.inr rfl) (.inr rfl) (.inr rfl) (.inr rfl) ⟨FtlKeeps.refl m _, FtlKeeps.refl m _⟩ ⟨PodKeeps.refl m _, PodKeeps.refl m _⟩ ⟨ColKeeps.refl m _, ColKeeps.refl m _⟩ (CmpKeeps.refl m _) (.inr rfl) ⟨EvKeeps.refl m _, EvKeeps.refl m _⟩ (SecKeeps.refl m _) (MtrKeeps.refl m _) (FltKeeps.refl m _) (ModKeeps.refl m _) (.inr rfl) (.inr rfl) (.inr rfl) (.inr rfl) (.inl h0) (.inl h1) (.inr rfl) (.inr rfl) (.inr rfl) (Mono.of_same rfl rfl)) k

theorem set_sessions_keeps {m : Nat} {z s : State} {v0 : Dict Session} (h0 : m.testBit 126 = true) (k : Keeps m z s) :
    Keeps m z { s with sessions := v0 } :=
  Keeps.lift (a := m) (s := s) (Nat.and_self m) (Keeps.ofParts (.inr rfl) (CfgKeeps.refl m _) (LftKeeps.refl m _) ⟨SwcKeeps.refl m _, SwcKeeps.refl m _⟩ ⟨HomeKeeps.refl m _, HomeKeeps.refl m _⟩ ⟨CohKeeps.refl m _, CohKeeps.refl m _⟩ ⟨TierKeeps.refl m _, TierKeeps.refl m _⟩ (.inr rfl) (.inr rfl) (.inr rfl) (.inl h0) (.inr rfl) ⟨FtlKeeps.refl m _, FtlKeeps.refl m _⟩ ⟨PodKeeps.refl m _, PodKeeps.refl m _⟩ ⟨ColKeeps.refl m _, ColKeeps.refl m _⟩ (CmpKeeps.refl m _) (.inr rfl) ⟨EvKeeps.refl m _, EvKeeps.refl m _⟩ (SecKeeps.refl m _) (MtrKeeps.refl m _) (FltKeeps.refl m _) (ModKeeps.refl m _) (.inr rfl) (.inr rfl) (.inr rfl) (.inr rfl) (.inr rfl) (.inr rfl) (.inr rfl) (.inr rfl) (.inr rfl) (Mono.of_same rfl rfl)) k

theorem set_vols_keeps {m : Nat} {z s : State} {v0 : Dict Volume} (h0 : m.testBit 127 = true) (k : Keeps m z s) :
    Keeps m z { s with vols := v0 } :=
  Keeps.lift (a := m) (s := s) (Nat.and_self m) (Keeps.ofParts (.inr rfl) (CfgKeeps.refl m _) (LftKeeps.refl m _) ⟨SwcKeeps.refl m _, SwcKeeps.refl m _⟩ ⟨HomeKeeps.refl m _, HomeKeeps.refl m _⟩ ⟨CohKeeps.refl m _, CohKeeps.refl m _⟩ ⟨TierKeeps.refl m _, TierKeeps.refl m _⟩ (.inr rfl) (.inr rfl) (.inr rfl) (.inr rfl) (.inl h0) ⟨FtlKeeps.refl m _, FtlKeeps.refl m _⟩ ⟨PodKeeps.refl m _, PodKeeps.refl m _⟩ ⟨ColKeeps.refl m _, ColKeeps.refl m _⟩ (CmpKeeps.refl m _) (.inr rfl) ⟨EvKeeps.refl m _, EvKeeps.refl m _⟩ (SecKeeps.refl m _) (MtrKeeps.refl m _) (FltKeeps.refl m _) (ModKeeps.refl m _) (.inr rfl) (.inr rfl) (.inr rfl) (.inr rfl) (.inr rfl) (.inr rfl) (.inr rfl) (.inr rfl) (.inr rfl) (Mono.of_same rfl rfl)) k

/-- The mask of what a change of a sticky register touches. -/
def StReg.mask (r : StReg) : Nat :=
  match r with
  | .cfg => 0x200000
  | .prt _ => 0x200000000
  | .swc _ => 0x20000000000000
  | .mem _ => 0x20000000000000000000000
  | .coh _ => 0x20000000000000000000000000
  | .tier _ => 0x8000000000000000000000000000
  | .ftl _ => 0x40000000000000000000000000000000000000000
  | .pod _ => 0x4000000000000000000000000000000000000000000
  | .col _ => 0x1000000000000000000000000000000000000000000000
  | .att _ => 0x8000000000000000000000000000000000000000000000
  | .cmp _ => 0x80000000000000000000000000000000000000000000000
  | .ctx _ => 0x800000000000000000000000000000000000000000000000
  | .sec => 0x10000000000000000000000000000000000000000000000000000000
  | .mtr => 0x200000000000000000000000000000000000000000000000000000000
  | .flt => 0x200000000000000000000000000000000000000000000000000000000000000
  | .mod => 0x100000000000000000000000000000000000000000000000000000000000000000000000
@[simp] theorem StReg.mask_cfg : StReg.mask (.cfg) = 0x200000 := rfl
@[simp] theorem StReg.mask_prt {x : Nat} : StReg.mask (.prt x) = 0x200000000 := rfl
@[simp] theorem StReg.mask_swc {x : Die} : StReg.mask (.swc x) = 0x20000000000000 := rfl
@[simp] theorem StReg.mask_mem {x : Die} : StReg.mask (.mem x) = 0x20000000000000000000000 := rfl
@[simp] theorem StReg.mask_coh {x : Die} : StReg.mask (.coh x) = 0x20000000000000000000000000 := rfl
@[simp] theorem StReg.mask_tier {x : Die} : StReg.mask (.tier x) = 0x8000000000000000000000000000 := rfl
@[simp] theorem StReg.mask_ftl {x : Die} : StReg.mask (.ftl x) = 0x40000000000000000000000000000000000000000 := rfl
@[simp] theorem StReg.mask_pod {x : Die} : StReg.mask (.pod x) = 0x4000000000000000000000000000000000000000000 := rfl
@[simp] theorem StReg.mask_col {x : Die} : StReg.mask (.col x) = 0x1000000000000000000000000000000000000000000000 := rfl
@[simp] theorem StReg.mask_att {x : Die} : StReg.mask (.att x) = 0x8000000000000000000000000000000000000000000000 := rfl
@[simp] theorem StReg.mask_cmp {x : Die} : StReg.mask (.cmp x) = 0x80000000000000000000000000000000000000000000000 := rfl
@[simp] theorem StReg.mask_ctx {x : Nat} : StReg.mask (.ctx x) = 0x800000000000000000000000000000000000000000000000 := rfl
@[simp] theorem StReg.mask_sec : StReg.mask (.sec) = 0x10000000000000000000000000000000000000000000000000000000 := rfl
@[simp] theorem StReg.mask_mtr : StReg.mask (.mtr) = 0x200000000000000000000000000000000000000000000000000000000 := rfl
@[simp] theorem StReg.mask_flt : StReg.mask (.flt) = 0x200000000000000000000000000000000000000000000000000000000000000 := rfl
@[simp] theorem StReg.mask_mod : StReg.mask (.mod) = 0x100000000000000000000000000000000000000000000000000000000000000000000000 := rfl

theorem sub_mask {a m : Nat} {r : StReg} (h : Sub a m) (k : Sub 0x100000000200000210000000889004040000000000008020020000000020000200200000 m) : Sub (a ||| r.mask) m := by
  have e : Sub r.mask 0x100000000200000210000000889004040000000000008020020000000020000200200000 := by cases r <;> (simp only [StReg.mask]; decide)
  have q := sub_trans e k
  unfold Sub at *
  rw [Nat.and_or_distrib_right, h, q]

theorem stUpd_keeps {m : Nat} {z s : State} {r : StReg} {g : Sticky → Sticky} (hm : Sub (0x0 ||| r.mask) m)
    (k : Keeps m z s) : Keeps m z (stUpd s r g) := by
  rw [Nat.zero_or] at hm
  cases r with
  | cfg =>
    refine Keeps.lift (a := 0x200000) hm ?_ k
    show Keeps 0x200000 s (modCfg s (fun x => { x with status := g x.status }))
    refine modCfg_keeps ?_ (Keeps.refl _ _)
    constructor <;> first | exact .inl (by decide) | exact .inr rfl
  | prt x =>
    refine Keeps.lift (a := 0x200000000) hm ?_ k
    refine set_lft_keeps ?_ (Keeps.refl _ _)
    constructor <;> first | exact .inl (by decide) | exact .inr rfl
  | swc x =>
    refine Keeps.lift (a := 0x20000000000000) hm ?_ k
    show Keeps 0x20000000000000 s (modSwc s x _)
    refine modSwc_keeps ?_ (Keeps.refl _ _)
    constructor <;> first | exact .inl (by decide) | exact .inr rfl
  | mem x =>
    refine Keeps.lift (a := 0x20000000000000000000000) hm ?_ k
    show Keeps 0x20000000000000000000000 s (modHome s x _)
    refine modHome_keeps ?_ (Keeps.refl _ _)
    constructor <;> first | exact .inl (by decide) | exact .inr rfl
  | coh x =>
    refine Keeps.lift (a := 0x20000000000000000000000000) hm ?_ k
    show Keeps 0x20000000000000000000000000 s (modCoh s x _)
    refine modCoh_keeps ?_ (Keeps.refl _ _)
    constructor <;> first | exact .inl (by decide) | exact .inr rfl
  | tier x =>
    refine Keeps.lift (a := 0x8000000000000000000000000000) hm ?_ k
    show Keeps 0x8000000000000000000000000000 s (modTier s x _)
    refine modTier_keeps ?_ (Keeps.refl _ _)
    constructor <;> first | exact .inl (by decide) | exact .inr rfl
  | ftl x =>
    refine Keeps.lift (a := 0x40000000000000000000000000000000000000000) hm ?_ k
    show Keeps 0x40000000000000000000000000000000000000000 s (modFtl s x _)
    refine modFtl_keeps ?_ (Keeps.refl _ _)
    constructor <;> first | exact .inl (by decide) | exact .inr rfl
  | pod x =>
    refine Keeps.lift (a := 0x4000000000000000000000000000000000000000000) hm ?_ k
    show Keeps 0x4000000000000000000000000000000000000000000 s (modPod s x _)
    refine modPod_keeps ?_ (Keeps.refl _ _)
    constructor <;> first | exact .inl (by decide) | exact .inr rfl
  | col x =>
    refine Keeps.lift (a := 0x1000000000000000000000000000000000000000000000) hm ?_ k
    show Keeps 0x1000000000000000000000000000000000000000000000 s (modCol s x _)
    refine modCol_keeps ?_ (Keeps.refl _ _)
    constructor <;> first | exact .inl (by decide) | exact .inr rfl
  | att x =>
    refine Keeps.lift (a := 0x8000000000000000000000000000000000000000000000) hm ?_ k
    show Keeps 0x8000000000000000000000000000000000000000000000 s (modCol s x _)
    refine modCol_keeps ?_ (Keeps.refl _ _)
    constructor <;> first | exact .inl (by decide) | exact .inr rfl
  | cmp x =>
    refine Keeps.lift (a := 0x80000000000000000000000000000000000000000000000) hm ?_ k
    refine set_cmp_keeps ?_ (Keeps.refl _ _)
    constructor <;> first | exact .inl (by decide) | exact .inr rfl
  | ctx x =>
    refine Keeps.lift (a := 0x800000000000000000000000000000000000000000000000) hm ?_ k
    exact set_ctxs_keeps (by decide) (Keeps.refl _ _)
  | sec =>
    refine Keeps.lift (a := 0x10000000000000000000000000000000000000000000000000000000) hm ?_ k
    show Keeps 0x10000000000000000000000000000000000000000000000000000000 s (modSec s (fun x => { x with status := g x.status }))
    refine modSec_keeps ?_ (SecMono.refl _) (Keeps.refl _ _)
    constructor <;> first | exact .inl (by decide) | exact .inr rfl
  | mtr =>
    refine Keeps.lift (a := 0x200000000000000000000000000000000000000000000000000000000) hm ?_ k
    show Keeps 0x200000000000000000000000000000000000000000000000000000000 s (modMtr s (fun x => { x with status := g x.status }))
    refine modMtr_keeps ?_ (Keeps.refl _ _)
    constructor <;> first | exact .inl (by decide) | exact .inr rfl
  | flt =>
    refine Keeps.lift (a := 0x200000000000000000000000000000000000000000000000000000000000000) hm ?_ k
    show Keeps 0x200000000000000000000000000000000000000000000000000000000000000 s (modFlt s (fun x => { x with status := g x.status }))
    refine modFlt_keeps ?_ (Keeps.refl _ _)
    constructor <;> first | exact .inl (by decide) | exact .inr rfl
  | mod =>
    refine Keeps.lift (a := 0x100000000000000000000000000000000000000000000000000000000000000000000000) hm ?_ k
    show Keeps 0x100000000000000000000000000000000000000000000000000000000000000000000000 s (modMod s (fun x => { x with status := g x.status }))
    refine modMod_keeps ?_ (Keeps.refl _ _)
    constructor <;> first | exact .inl (by decide) | exact .inr rfl

end Machine
end Sys2Proof
end

