-- ==== Sys2Proof/Laws/Memory.lean ====
section
/-! SUPPORT. Pooled memory: every operation keeps the canonical form, what a byte reads after a store, and what a store leaves alone. -/

namespace Sys2Proof
namespace Machine

theorem memWf_cons {a : Nat} {v : Byte} {r : List Host.Cell} :
    memWf ((a, v) :: r) = true ↔ v ≠ 0 ∧ (∀ c ∈ r, a < c.1) ∧ memWf r = true := by
  simp [memWf, and_assoc]

theorem memWf_tail {c : Host.Cell} {r : List Host.Cell} (h : memWf (c :: r) = true) : memWf r = true :=
  (memWf_cons.1 h).2.2

/-- What holds of every cell holds of every cell after an entry has been taken out. -/
theorem del_all {t : List Host.Cell} {k : Nat} {P : Host.Cell → Prop} (h : ∀ c ∈ t, P c) : ∀ c ∈ del t k, P c := by
  induction t with
  | nil => exact h
  | cons x r ih =>
    obtain ⟨j, w⟩ := x
    rw [del]
    split
    · exact ih (fun d hd => h d (List.mem_cons_of_mem _ hd))
    · intro c hc
      rcases List.mem_cons.1 hc with e | hc
      · exact e ▸ h _ (List.mem_cons_self ..)
      · exact ih (fun d hd => h d (List.mem_cons_of_mem _ hd)) c hc

/-- What holds of every cell and of a new one holds of every cell after the new one has been put in. -/
theorem put_all {t : List Host.Cell} {k : Nat} {v : Byte} {P : Host.Cell → Prop} (h : ∀ c ∈ t, P c) (hk : P (k, v)) :
    ∀ c ∈ put t k v, P c := by
  induction t with
  | nil => simpa [put] using hk
  | cons x r ih =>
    obtain ⟨j, w⟩ := x
    have hr : ∀ c ∈ r, P c := fun c hc => h c (List.mem_cons_of_mem _ hc)
    have hx : P (j, w) := h _ (List.mem_cons_self ..)
    rw [put]
    split
    · intro c hc
      rcases List.mem_cons.1 hc with e | hc
      · exact e ▸ hk
      · exact h c hc
    · split
      · intro c hc
        rcases List.mem_cons.1 hc with e | hc
        · exact e ▸ hk
        · exact hr c hc
      · intro c hc
        rcases List.mem_cons.1 hc with e | hc
        · exact e ▸ hx
        · exact ih hr c hc

theorem memWf_del {t : List Host.Cell} {k : Nat} (h : memWf t = true) : memWf (del t k) = true := by
  induction t with
  | nil => exact h
  | cons x r ih =>
    obtain ⟨j, w⟩ := x
    obtain ⟨h1, h2, h3⟩ := memWf_cons.1 h
    rw [del]
    split
    · exact ih h3
    · exact memWf_cons.2 ⟨h1, del_all h2, ih h3⟩

theorem memWf_put {t : List Host.Cell} {k : Nat} {v : Byte} (hv : v ≠ 0) (h : memWf t = true) : memWf (put t k v) = true := by
  induction t with
  | nil =>
    rw [put]
    exact memWf_cons.2 ⟨hv, by simp, rfl⟩
  | cons x r ih =>
    obtain ⟨j, w⟩ := x
    obtain ⟨h1, h2, h3⟩ := memWf_cons.1 h
    rw [put]
    split
    · rename_i hk
      refine memWf_cons.2 ⟨hv, ?_, h⟩
      intro c hc
      rcases List.mem_cons.1 hc with e | hc
      · rw [e]; exact hk
      · exact lt_trans hk (h2 c hc)
    · split
      · rename_i e
        exact memWf_cons.2 ⟨hv, fun c hc => e ▸ h2 c hc, h3⟩
      · rename_i hlt hne
        exact memWf_cons.2 ⟨h1, put_all h2 (by show j < k; omega), ih h3⟩

theorem memWf_sput {t : List Host.Cell} {k : Nat} {v : Byte} (h : memWf t = true) : memWf (sput t k v) = true := by
  unfold sput
  split
  · exact memWf_del h
  · rename_i hv
    exact memWf_put hv h

theorem memWf_memPut {m : List Host.Cell} {a : Nat} {b : Bytes} (h : memWf m = true) : memWf (memPut m a b) = true := by
  induction b generalizing m a with
  | nil => exact h
  | cons v r ih => exact ih (memWf_sput h)

theorem memWf_filter {m : List Host.Cell} {p : Host.Cell → Bool} (h : memWf m = true) : memWf (m.filter p) = true := by
  induction m with
  | nil => exact h
  | cons x r ih =>
    obtain ⟨h1, h2, h3⟩ := memWf_cons.1 h
    rw [List.filter_cons]
    split
    · exact memWf_cons.2 ⟨h1, fun c hc => h2 c (List.mem_filter.1 hc).1, ih h3⟩
    · exact ih h3

theorem memWf_memClear {m : List Host.Cell} {a n : Nat} (h : memWf m = true) : memWf (memClear m a n) = true := memWf_filter h

/-! Reading after a store -/

theorem get?_of_lt {α : Type} {t : Dict α} {k : Nat} (h : ∀ c ∈ t, k < c.1) : get? t k = none := by
  induction t with
  | nil => rfl
  | cons x r ih =>
    obtain ⟨j, w⟩ := x
    have hj : k < j := h (j, w) (List.mem_cons_self ..)
    rw [get?, if_neg (by omega)]
    exact ih (fun c hc => h c (List.mem_cons_of_mem _ hc))

theorem get?_del_same {α : Type} {t : Dict α} {k : Nat} : get? (del t k) k = none := by
  induction t with
  | nil => rfl
  | cons x r ih =>
    obtain ⟨j, w⟩ := x
    rw [del]
    split
    · exact ih
    · rename_i e
      rw [get?, if_neg e]
      exact ih

theorem get?_del_other {α : Type} {t : Dict α} {k a : Nat} (h : a ≠ k) : get? (del t k) a = get? t a := by
  induction t with
  | nil => rfl
  | cons x r ih =>
    obtain ⟨j, w⟩ := x
    rw [del]
    split
    · rename_i e
      rw [get?, if_neg (by omega), ih]
    · rw [get?, get?, ih]

theorem get?_put_same {α : Type} {t : Dict α} {k : Nat} {v : α} : get? (put t k v) k = some v := by
  induction t with
  | nil => simp [put, get?]
  | cons x r ih =>
    obtain ⟨j, w⟩ := x
    rw [put]
    split
    · simp [get?]
    · split
      · simp [get?]
      · rename_i e
        rw [get?, if_neg e]
        exact ih

theorem get?_put_other {α : Type} {t : Dict α} {k a : Nat} {v : α} (h : a ≠ k) : get? (put t k v) a = get? t a := by
  induction t with
  | nil => simp [put, get?, Ne.symm h]
  | cons x r ih =>
    obtain ⟨j, w⟩ := x
    rw [put]
    split
    · rw [get?, if_neg (Ne.symm h)]
    · split
      · rename_i e
        rw [get?, get?, if_neg (Ne.symm h), if_neg (by omega)]
      · rw [get?, get?, ih]

theorem getD_sput_same {t : List Host.Cell} {k : Nat} {v : Byte} : getD (sput t k v) k memDefault = v := by
  unfold getD sput
  split
  · rename_i e
    rw [get?_del_same, e]
    rfl
  · rw [get?_put_same]
    rfl

theorem getD_sput_other {t : List Host.Cell} {k a : Nat} {v : Byte} (h : a ≠ k) :
    getD (sput t k v) a memDefault = getD t a memDefault := by
  unfold getD sput
  split
  · rw [get?_del_other h]
  · rw [get?_put_other h]

/-- A byte outside the stored bytes reads as before. -/
theorem getD_memPut_other {m : List Host.Cell} {a x : Nat} {b : Bytes} (h : x < a ∨ a + b.length ≤ x) :
    getD (memPut m a b) x memDefault = getD m x memDefault := by
  induction b generalizing m a with
  | nil => rfl
  | cons v r ih =>
    rw [List.length_cons] at h
    rw [memPut, ih (by omega), getD_sput_other (by omega)]

/-- A stored byte reads back. -/
theorem getD_memPut_same {m : List Host.Cell} {a i : Nat} {b : Bytes} (h : i < b.length) :
    getD (memPut m a b) (a + i) memDefault = b[i] := by
  induction b generalizing m a i with
  | nil => simp at h
  | cons v r ih =>
    rw [memPut]
    cases i with
    | zero =>
      rw [getD_memPut_other (by omega), Nat.add_zero, getD_sput_same]
      rfl
    | succ j =>
      have e : a + (j + 1) = a + 1 + j := by omega
      rw [e, ih (by simpa using h)]
      rfl

theorem readByte_writeMem_other {s : State} {a x : Nat} {b : Bytes} (h : x < a ∨ a + b.length ≤ x) :
    readByte (writeMem s a b) x = readByte s x := getD_memPut_other h

theorem readByte_writeMem_same {s : State} {a i : Nat} {b : Bytes} (h : i < b.length) :
    readByte (writeMem s a b) (a + i) = b[i] := getD_memPut_same h

theorem rangeFrom_length {lo n : Nat} : (rangeFrom lo n).length = n := by
  induction n generalizing lo with
  | zero => rfl
  | succ k ih => simp [rangeFrom, ih]

theorem getElem_rangeFrom {lo n i : Nat} (h : i < (rangeFrom lo n).length) : (rangeFrom lo n)[i] = lo + i := by
  induction n generalizing lo i with
  | zero => simp [rangeFrom] at h
  | succ k ih =>
    cases i with
    | zero => simp [rangeFrom]
    | succ j =>
      simp only [rangeFrom, List.getElem_cons_succ]
      rw [ih]
      omega

/-- Bytes stored from an address read back from it. -/
theorem readMem_writeMem_same {s : State} {a : Nat} {b : Bytes} :
    readMem (writeMem s a b) a b.length = b := by
  refine List.ext_getElem (by simp [readMem, rangeFrom_length]) ?_
  intro i h1 h2
  simp only [readMem, List.getElem_map, getElem_rangeFrom]
  exact readByte_writeMem_same h2

end Machine
end Sys2Proof
end

