-- ==== Sys2Proof/Laws/FrameOps.lean ====
section
/-! SUPPORT. Frames of the functions of Machine/Ops.lean: the parts of the state that each may change, as a mask (Laws/Keeps.lean). -/

namespace Sys2Proof
namespace Machine
set_option linter.unusedTactic false
set_option linter.unreachableTactic false
set_option linter.tactic.unusedName false
variable {km : Nat} {kz : State}

theorem writeMem_keeps {s : State} {a : Nat} {b : Bytes} (hm : Sub 0x8000000000000000000000000000000000000000000000000000000000000000000000000000 km) (hk :
    Keeps km kz s) : Keeps km kz (writeMem s a b) := by
  refine Keeps.lift hm ?_ hk
  unfold writeMem
  repeat' first
    | with_reducible exact Keeps.refl _ _
    | with_reducible refine (set_mem_keeps (by decide) ?_) ?_
    | exact memWf_memPut
    | exact memWf_memClear
    | exact memWf_filter

theorem clearPoison_keeps {s : State} {a n : Nat} (hm : Sub 0x10000000000000000000000000000000000000000000000000000000000000000000000000000 km) (hk :
    Keeps km kz s) : Keeps km kz (clearPoison s a n) := by
  refine Keeps.lift hm ?_ hk
  unfold clearPoison
  repeat' first
    | with_reducible exact Keeps.refl _ _
    | with_reducible refine (set_poison_keeps (by decide)) ?_
    | dsimp only

theorem modPort_keeps {s : State} {p : Nat} {g : PortState → PortState} (hm : Sub 0x200000000 km) (hk :
    Keeps km kz s) : Keeps km kz (modPort s p g) := by
  refine Keeps.lift hm ?_ hk
  unfold modPort
  repeat' first
    | with_reducible exact Keeps.refl _ _
    | with_reducible refine (set_lft_keeps ?_) ?_
    | dsimp only
    | (constructor <;> first | exact .inl (by decide) | exact .inr rfl)

theorem modSub_keeps {s : State} {p k : Nat} {g : SubState → SubState} (hm : Sub 0x200000000 km) (hk :
    Keeps km kz s) : Keeps km kz (modSub s p k g) := by
  refine Keeps.lift hm ?_ hk
  unfold modSub
  repeat' first
    | with_reducible exact Keeps.refl _ _
    | with_reducible refine (modPort_keeps (hm := by decide)) ?_
    | dsimp only

theorem modDie_keeps {s : State} {d : Die} {g : DieMod → DieMod} (hm : Sub 0x200000000000000000000000000000000000000000000000000000000000000000000000 km) (hk :
    Keeps km kz s) : Keeps km kz (modDie s d g) := by
  refine Keeps.lift hm ?_ hk
  unfold modDie
  repeat' first
    | with_reducible exact Keeps.refl _ _
    | with_reducible refine (modMod_keeps ?_) ?_
    | dsimp only
    | (constructor <;> first | exact .inl (by decide) | exact .inr rfl)

theorem modCtx_keeps {s : State} {c : Nat} {g : Ctx → Ctx} (hm : Sub 0x800000000000000000000000000000000000000000000000 km) (hk :
    Keeps km kz s) : Keeps km kz (modCtx s c g) := by
  refine Keeps.lift hm ?_ hk
  unfold modCtx
  repeat' first
    | with_reducible exact Keeps.refl _ _
    | with_reducible refine (set_ctxs_keeps (by decide)) ?_
    | dsimp only

theorem modObj_keeps {s : State} {id : Nat} {g : Obj → Obj} (hm : Sub 0x10000000000000000000000000000000 km) (hk :
    Keeps km kz s) : Keeps km kz (modObj s id g) := by
  refine Keeps.lift hm ?_ hk
  unfold modObj
  repeat' first
    | with_reducible exact Keeps.refl _ _
    | with_reducible refine (set_objs_keeps (by decide)) ?_
    | dsimp only
    | (simp only [id, Keeps.refl]; done)

theorem modExt_keeps {s : State} {i : Nat} {g : ExtState → ExtState} (hm : Sub 0x8000000000000000000000000000000 km) (hk :
    Keeps km kz s) : Keeps km kz (modExt s i g) := by
  refine Keeps.lift hm ?_ hk
  unfold modExt
  repeat' first
    | with_reducible exact Keeps.refl _ _
    | with_reducible refine (set_exts_keeps (by decide)) ?_
    | dsimp only

theorem modSes_keeps {s : State} {i : Nat} {g : Session → Session} (hm : Sub 0x40000000000000000000000000000000 km) (hk :
    Keeps km kz s) : Keeps km kz (modSes s i g) := by
  refine Keeps.lift hm ?_ hk
  unfold modSes
  repeat' first
    | with_reducible exact Keeps.refl _ _
    | with_reducible refine (set_sessions_keeps (by decide)) ?_
    | dsimp only

theorem modVol_keeps {s : State} {v : Nat} {g : Volume → Volume} (hm : Sub 0x80000000000000000000000000000000 km) (hk :
    Keeps km kz s) : Keeps km kz (modVol s v g) := by
  refine Keeps.lift hm ?_ hk
  unfold modVol
  repeat' first
    | with_reducible exact Keeps.refl _ _
    | with_reducible refine (set_vols_keeps (by decide)) ?_
    | dsimp only

theorem drawFree_keeps {s : State} (hm : Sub 0x20000000000000000000000000000000000000000000000000000000000000000000000000000 km) (hk :
    Keeps km kz s) : Keeps km kz (drawFree s).2 := by
  refine Keeps.lift hm ?_ hk
  unfold drawFree
  repeat' first
    | with_reducible exact Keeps.refl _ _
    | with_reducible refine (set_freeCtr_keeps (by decide)) ?_
    | dsimp only

theorem drawFree_of_eq {s : State}{v0} {v1 : State} (heq : drawFree s = (v0, v1)) (hm : Sub 0x20000000000000000000000000000000000000000000000000000000000000000000000000000 km) (hk :
    Keeps km kz s) : Keeps km kz v1 := by
  have h := drawFree_keeps (kz := kz) (s := s) hm hk
  rw [heq] at h
  exact h

theorem evStatus_keeps {s : State} {c bit : Nat} (hm : Sub 0x800000000000000000000000000000000000000000000000 km) (hk :
    Keeps km kz s) : Keeps km kz (evStatus s c bit) := by
  refine Keeps.lift hm ?_ hk
  unfold evStatus
  repeat' first
    | with_reducible exact Keeps.refl _ _
    | with_reducible refine (stUpd_keeps (hm := by first | decide | (simp only [StReg.mask]; decide))) ?_
    | dsimp only

theorem enqueueOnce_keeps {d : Die} {e : EvEntry} {s : State} (hm : Sub 0x1800000000000000000000000000000000000000000000000 km) (hk :
    Keeps km kz s) : Keeps km kz (enqueueOnce d e s).2.1 := by
  refine Keeps.lift hm ?_ hk
  unfold enqueueOnce
  repeat' first
    | with_reducible exact Keeps.refl _ _
    | with_reducible refine (evStatus_keeps (hm := by decide)) ?_
    | with_reducible refine (modEv_keeps ?_) ?_
    | with_reducible refine (modCtx_keeps (hm := by decide)) ?_
    | with_reducible refine keeps_if (fun _ => ?_) (fun _ => ?_)
    | with_reducible refine keeps_if_mid (fun _ => ?_) (fun _ => ?_)
    | dsimp only
    | split
    | (constructor <;> first | exact .inl (by decide) | exact .inr rfl)

theorem enqueueOnce_of_eq {d : Die} {e : EvEntry} {s : State}{v0 v2} {v1 : State} (heq : enqueueOnce d e s = (v0, v1, v2)) (hm : Sub 0x1800000000000000000000000000000000000000000000000 km) (hk :
    Keeps km kz s) : Keeps km kz v1 := by
  have h := enqueueOnce_keeps (kz := kz) (s := s) hm hk (d := d) (e := e)
  rw [heq] at h
  exact h

theorem enqueue_keeps {d : Die} {e : EvEntry} {s : State} (hm : Sub 0x1800000000000000000000000000000000000000000000000 km) (hk :
    Keeps km kz s) : Keeps km kz (enqueue d e s).1 := by
  refine Keeps.lift hm ?_ hk
  unfold enqueue
  repeat' first
    | with_reducible exact Keeps.refl _ _
    | with_reducible refine (enqueueOnce_keeps (hm := by decide)) ?_
    | with_reducible refine (enqueueOnce_of_eq (heq := by assumption) (hm := by decide)) ?_
    | with_reducible refine keeps_if (fun _ => ?_) (fun _ => ?_)
    | with_reducible refine keeps_if_fst (fun _ => ?_) (fun _ => ?_)
    | with_reducible refine keeps_if_mid (fun _ => ?_) (fun _ => ?_)
    | dsimp only
    | split
    | (simp only [Prod.ext_iff] at *; casesm* _ ∧ _; subst_vars)

theorem enqueue_of_eq {d : Die} {e : EvEntry} {s : State}{v1} {v0 : State} (heq : enqueue d e s = (v0, v1)) (hm : Sub 0x1800000000000000000000000000000000000000000000000 km) (hk :
    Keeps km kz s) : Keeps km kz v0 := by
  have h := enqueue_keeps (kz := kz) (s := s) hm hk (d := d) (e := e)
  rw [heq] at h
  exact h

theorem statusEvent_keeps {r : StReg} {s : State} (hm : Sub (0x1800000000000000000000000000000000000000000000000 ||| r.mask) km) (hk :
    Keeps km kz s) : Keeps km kz (statusEvent r s) := by
  refine Keeps.lift hm ?_ hk
  unfold statusEvent
  repeat' first
    | with_reducible exact Keeps.refl _ _
    | with_reducible refine (enqueue_keeps (hm := by first | decide | exact sub_or (by decide) | exact sub_or_left (by decide) | (simp only [StReg.mask]; exact sub_or_left (by decide)))) ?_
    | with_reducible refine (enqueue_of_eq (heq := by assumption) (hm := by first | decide | exact sub_or (by decide) | exact sub_or_left (by decide) | (simp only [StReg.mask]; exact sub_or_left (by decide)))) ?_
    | dsimp only

theorem setStatus_keeps {r : StReg} {bit : Nat} {s : State} (hm : Sub (0x1800000000000000000000000000000000000000000000000 ||| r.mask) km) (hk :
    Keeps km kz s) : Keeps km kz (setStatus r bit s) := by
  refine Keeps.lift hm ?_ hk
  unfold setStatus
  repeat' first
    | with_reducible exact Keeps.refl _ _
    | with_reducible refine (statusEvent_keeps (hm := by first | decide | exact sub_or (by decide) | exact sub_or_left (by decide) | (simp only [StReg.mask]; exact sub_or_left (by decide)))) ?_
    | with_reducible refine (stUpd_keeps (hm := by first | decide | exact sub_or (by decide) | exact sub_or_left (by decide) | (simp only [StReg.mask]; exact sub_or_left (by decide)))) ?_
    | dsimp only

theorem queueEntry_keeps {d : Die} {e : EvEntry} {s : State} (hm : Sub 0x1800000000000000000000000000000000000000000000000 km) (hk :
    Keeps km kz s) : Keeps km kz (queueEntry d e s) := by
  refine Keeps.lift hm ?_ hk
  unfold queueEntry
  repeat' first
    | with_reducible exact Keeps.refl _ _
    | with_reducible refine (enqueue_keeps (hm := by first | decide | (simp only [StReg.mask]; decide))) ?_
    | with_reducible refine (enqueue_of_eq (heq := by assumption) (hm := by first | decide | (simp only [StReg.mask]; decide))) ?_
    | with_reducible refine (statusEvent_keeps (hm := by first | decide | (simp only [StReg.mask]; decide))) ?_
    | with_reducible refine (keeps_foldl_snd (fun _ _ => ?_)) ?_
    | with_reducible refine (keeps_foldl_fst (fun _ _ => ?_)) ?_
    | with_reducible refine (keeps_foldl_third (fun _ _ => ?_)) ?_
    | with_reducible refine (keeps_foldl_mid (fun _ _ => ?_)) ?_
    | with_reducible refine (keeps_foldl (fun _ _ => ?_)) ?_
    | with_reducible refine keeps_if (fun _ => ?_) (fun _ => ?_)
    | with_reducible refine keeps_if_fst (fun _ => ?_) (fun _ => ?_)
    | dsimp only
    | split
    | (simp only [Prod.ext_iff] at *; casesm* _ ∧ _; subst_vars)

theorem event_keeps {d : Die} {c code : Nat} {data : Bytes} {s : State} (hm : Sub 0x1800000000000000000000000000000000000000000000000 km) (hk :
    Keeps km kz s) : Keeps km kz (event d c code data s) := by
  refine Keeps.lift hm ?_ hk
  unfold event
  repeat' first
    | with_reducible exact Keeps.refl _ _
    | with_reducible refine (queueEntry_keeps (hm := by decide)) ?_

theorem spEvent_keeps {c code : Nat} {data : Bytes} {s : State} (hm : Sub 0x1800000000000000000000000000000000000000000000000 km) (hk :
    Keeps km kz s) : Keeps km kz (spEvent c code data s) := by
  refine Keeps.lift hm ?_ hk
  unfold spEvent
  repeat' first
    | with_reducible exact Keeps.refl _ _
    | with_reducible refine (event_keeps (hm := by decide)) ?_

theorem overQuota_keeps {c tier : Nat} {s : State} (hm : Sub 0x1800000000000000000000000000000000000000000000000 km) (hk :
    Keeps km kz s) : Keeps km kz (overQuota c tier s) := by
  refine Keeps.lift hm ?_ hk
  unfold overQuota
  repeat' first
    | with_reducible exact Keeps.refl _ _
    | with_reducible refine (setStatus_keeps (hm := by first | decide | (simp only [StReg.mask]; decide))) ?_
    | with_reducible refine (spEvent_keeps (hm := by first | decide | (simp only [StReg.mask]; decide))) ?_
    | with_reducible refine (queueEntry_keeps (hm := by first | decide | (simp only [StReg.mask]; decide))) ?_
    | dsimp only

theorem newJob_keeps {code ep ctx : Nat} {args : List Nat} {s : State} (hm : Sub 0xc000000 km) (hk :
    Keeps km kz s) : Keeps km kz (newJob code ep ctx args s).2 := by
  refine Keeps.lift hm ?_ hk
  unfold newJob
  repeat' first
    | with_reducible exact Keeps.refl _ _
    | with_reducible refine (modCfg_keeps ?_) ?_
    | dsimp only
    | (constructor <;> first | exact .inl (by decide) | exact .inr rfl)

theorem newJob_of_eq {code ep ctx : Nat} {args : List Nat} {s : State}{v0} {v1 : State} (heq : newJob code ep ctx args s = (v0, v1)) (hm : Sub 0xc000000 km) (hk :
    Keeps km kz s) : Keeps km kz v1 := by
  have h := newJob_keeps (kz := kz) (s := s) hm hk (code := code) (ep := ep) (ctx := ctx) (args := args)
  rw [heq] at h
  exact h

theorem jobDone_keeps {n : Nat} {status : BitVec 5} {detail : Nat} {s : State} (hm : Sub 0x1800000000000000000000000000000000000000004000000 km) (hk :
    Keeps km kz s) : Keeps km kz (jobDone n status detail s) := by
  refine Keeps.lift hm ?_ hk
  unfold jobDone
  repeat' first
    | with_reducible exact Keeps.refl _ _
    | with_reducible refine (modCfg_keeps ?_) ?_
    | with_reducible refine (queueEntry_keeps (hm := by decide)) ?_
    | with_reducible refine keeps_if (fun _ => ?_) (fun _ => ?_)
    | dsimp only
    | split
    | (constructor <;> first | exact .inl (by decide) | exact .inr rfl)
    | (simp only [Prod.ext_iff] at *; casesm* _ ∧ _; subst_vars)

theorem tapLive_keeps {d : Die} {kind sub ctx : Nat} {value : BitVec 64} {s : State} (hm : Sub 0x180000000000000000000000000000000000000000000000000000000000 km) (hk :
    Keeps km kz s) : Keeps km kz (tapLive d kind sub ctx value s) := by
  refine Keeps.lift hm ?_ hk
  unfold tapLive
  repeat' first
    | with_reducible exact Keeps.refl _ _
    | with_reducible refine (modMtr_keeps ?_) ?_
    | dsimp only
    | (constructor <;> first | exact .inl (by decide) | exact .inr rfl)

theorem tapEscrow_keeps {d : Die} {kind sub ctx : Nat} {value : BitVec 64} {s : State} (hm : Sub 0x880000000000000000000000000000000000000000000000000000000000 km) (hk :
    Keeps km kz s) : Keeps km kz (tapEscrow d kind sub ctx value s) := by
  refine Keeps.lift hm ?_ hk
  unfold tapEscrow
  repeat' first
    | with_reducible exact Keeps.refl _ _
    | with_reducible refine (modMtr_keeps ?_) ?_
    | dsimp only
    | (constructor <;> first | exact .inl (by decide) | exact .inr rfl)

theorem tap_keeps {d : Die} {kind sub ctx : Nat} {value : BitVec 64} {s : State} (hm : Sub 0x980000000000000000000000000000000000000000000000000000000000 km) (hk :
    Keeps km kz s) : Keeps km kz (tap d kind sub ctx value s) := by
  refine Keeps.lift hm ?_ hk
  unfold tap
  repeat' first
    | with_reducible exact Keeps.refl _ _
    | with_reducible refine (modMtr_keeps ?_) ?_
    | with_reducible refine (tapEscrow_keeps (hm := by decide)) ?_
    | with_reducible refine (tapLive_keeps (hm := by decide)) ?_
    | with_reducible refine keeps_if (fun _ => ?_) (fun _ => ?_)
    | dsimp only
    | split
    | (constructor <;> first | exact .inl (by decide) | exact .inr rfl)

theorem tapFlush_keeps {d : Die} {ctx sub : Nat} {s : State} (hm : Sub 0xd80000000000000000000000000000000000000000000000000000000000 km) (hk :
    Keeps km kz s) : Keeps km kz (tapFlush d ctx sub s) := by
  refine Keeps.lift hm ?_ hk
  unfold tapFlush
  repeat' first
    | with_reducible exact Keeps.refl _ _
    | with_reducible refine (tap_keeps (hm := by decide)) ?_
    | with_reducible refine (modMtr_keeps ?_) ?_
    | with_reducible refine keeps_if (fun _ => ?_) (fun _ => ?_)
    | dsimp only
    | split
    | (constructor <;> first | exact .inl (by decide) | exact .inr rfl)

theorem tapBytes_keeps {d : Die} {ctx tc dir len : Nat} {s : State} (hm : Sub 0xd80000000000000000000000000000000000000000000000000000000000 km) (hk :
    Keeps km kz s) : Keeps km kz (tapBytes d ctx tc dir len s) := by
  refine Keeps.lift hm ?_ hk
  unfold tapBytes
  repeat' first
    | with_reducible exact Keeps.refl _ _
    | with_reducible refine (modMtr_keeps ?_) ?_
    | with_reducible refine (tapFlush_keeps (hm := by decide)) ?_
    | with_reducible refine keeps_if (fun _ => ?_) (fun _ => ?_)
    | dsimp only
    | split
    | (constructor <;> first | exact .inl (by decide) | exact .inr rfl)

theorem chargeTap_keeps {d : Die} {c tier : Nat} {v : BitVec 64} {s : State} (hm : Sub 0x980000000000000000000000000000000000000000000000000000000000 km) (hk :
    Keeps km kz s) : Keeps km kz (chargeTap d c tier v s) := by
  refine Keeps.lift hm ?_ hk
  unfold chargeTap
  repeat' first
    | with_reducible exact Keeps.refl _ _
    | with_reducible refine (tap_keeps (hm := by decide)) ?_

theorem takeCharge_keeps {d : Die} {c tier g : Nat} {s : State} (hm : Sub 0x980000000000800000000000000000000000000000000000000000000000 km) (hk :
    Keeps km kz s) : Keeps km kz (takeCharge d c tier g s) := by
  refine Keeps.lift hm ?_ hk
  unfold takeCharge
  repeat' first
    | with_reducible exact Keeps.refl _ _
    | with_reducible refine (chargeTap_keeps (hm := by decide)) ?_
    | with_reducible refine (modCtx_keeps (hm := by decide)) ?_
    | with_reducible refine keeps_if (fun _ => ?_) (fun _ => ?_)
    | dsimp only
    | split

theorem dropCharge_keeps {d : Die} {c tier g : Nat} {s : State} (hm : Sub 0x980000000000800000000000000000000000000000000000000000000000 km) (hk :
    Keeps km kz s) : Keeps km kz (dropCharge d c tier g s) := by
  refine Keeps.lift hm ?_ hk
  unfold dropCharge
  repeat' first
    | with_reducible exact Keeps.refl _ _
    | with_reducible refine (modCtx_keeps (hm := by decide)) ?_
    | with_reducible refine (chargeTap_keeps (hm := by decide)) ?_
    | with_reducible refine keeps_if (fun _ => ?_) (fun _ => ?_)
    | dsimp only
    | split

theorem countWait_keeps {c : Nat} {quota : Bool} {s : State} (hm : Sub 0x800000000000000000000000000000000000000000000000 km) (hk :
    Keeps km kz s) : Keeps km kz (countWait c quota s) := by
  refine Keeps.lift hm ?_ hk
  unfold countWait
  repeat' first
    | with_reducible exact Keeps.refl _ _
    | with_reducible refine (modCtx_keeps (hm := by decide)) ?_
    | with_reducible refine keeps_if (fun _ => ?_) (fun _ => ?_)
    | dsimp only
    | split

theorem quotaWait_keeps {f : Frame} {st : BitVec 5} {s : State} (hm : Sub 0x800000000000000000000000000000000000000000000000 km) (hk :
    Keeps km kz s) : Keeps km kz (quotaWait f st s) := by
  refine Keeps.lift hm ?_ hk
  unfold quotaWait
  repeat' first
    | with_reducible exact Keeps.refl _ _
    | with_reducible refine (countWait_keeps (hm := by decide)) ?_
    | with_reducible refine keeps_if (fun _ => ?_) (fun _ => ?_)
    | split

theorem allocCells_keeps {d : Die} {n : Nat} {s : State} (hm : Sub 0xc00000000000 km) (hk :
    Keeps km kz s) : Keeps km kz (allocCells d n s).2 := by
  refine Keeps.lift hm ?_ hk
  unfold allocCells
  repeat' first
    | with_reducible exact Keeps.refl _ _
    | with_reducible refine (modSwc_keeps ?_) ?_
    | with_reducible refine (keeps_foldl_snd (fun _ _ => ?_)) ?_
    | with_reducible refine (keeps_foldl_fst (fun _ _ => ?_)) ?_
    | with_reducible refine (keeps_foldl_third (fun _ _ => ?_)) ?_
    | with_reducible refine (keeps_foldl_mid (fun _ _ => ?_)) ?_
    | with_reducible refine (keeps_foldl (fun _ _ => ?_)) ?_
    | dsimp only
    | (constructor <;> first | exact .inl (by decide) | exact .inr rfl)
    | (simp only [Prod.ext_iff] at *; casesm* _ ∧ _; subst_vars)

theorem allocCells_of_eq {d : Die} {n : Nat} {s : State}{v0} {v1 : State} (heq : allocCells d n s = (v0, v1)) (hm : Sub 0xc00000000000 km) (hk :
    Keeps km kz s) : Keeps km kz v1 := by
  have h := allocCells_keeps (kz := kz) (s := s) hm hk (d := d) (n := n)
  rw [heq] at h
  exact h

theorem freeCells_keeps {d : Die} {cells : List Nat} {s : State} (hm : Sub 0x2400000000000 km) (hk :
    Keeps km kz s) : Keeps km kz (freeCells d cells s) := by
  refine Keeps.lift hm ?_ hk
  unfold freeCells
  repeat' first
    | with_reducible exact Keeps.refl _ _
    | with_reducible refine (modSwc_keeps ?_) ?_
    | with_reducible refine keeps_if (fun _ => ?_) (fun _ => ?_)
    | dsimp only
    | split
    | (constructor <;> first | exact .inl (by decide) | exact .inr rfl)

theorem sendPfc_keeps {p k tc quanta : Nat} {s : State} (hm : Sub 0x80000000000 km) (hk :
    Keeps km kz s) : Keeps km kz (sendPfc p k tc quanta s) := by
  refine Keeps.lift hm ?_ hk
  unfold sendPfc
  repeat' first
    | with_reducible exact Keeps.refl _ _
    | with_reducible refine (modLft_keeps ?_) ?_
    | dsimp only
    | (constructor <;> first | exact .inl (by decide) | exact .inr rfl)

theorem pfcXon_keeps {p k tc : Nat} {s : State} (hm : Sub 0x80200000000 km) (hk : Keeps km kz s) : Keeps km kz (pfcXon p k tc s) := by
  refine Keeps.lift hm ?_ hk
  unfold pfcXon
  repeat' first
    | with_reducible exact Keeps.refl _ _
    | with_reducible refine (sendPfc_keeps (hm := by decide)) ?_
    | with_reducible refine (modSub_keeps (hm := by decide)) ?_
    | with_reducible refine keeps_if (fun _ => ?_) (fun _ => ?_)
    | dsimp only
    | split

theorem pfcXoff_keeps {p k tc : Nat} {s : State} (hm : Sub 0x80200000000 km) (hk : Keeps km kz s) : Keeps km kz (pfcXoff p k tc s) := by
  refine Keeps.lift hm ?_ hk
  unfold pfcXoff
  repeat' first
    | with_reducible exact Keeps.refl _ _
    | with_reducible refine (sendPfc_keeps (hm := by decide)) ?_
    | with_reducible refine (modSub_keeps (hm := by decide)) ?_
    | with_reducible refine keeps_if (fun _ => ?_) (fun _ => ?_)
    | dsimp only
    | split

theorem leaveIngress_keeps {x : Desc} {s : State} (hm : Sub 0x80200000000 km) (hk : Keeps km kz s) : Keeps km kz (leaveIngress x s) := by
  refine Keeps.lift hm ?_ hk
  unfold leaveIngress
  repeat' first
    | with_reducible exact Keeps.refl _ _
    | with_reducible refine (modSub_keeps (hm := by decide)) ?_
    | with_reducible refine (pfcXon_keeps (hm := by decide)) ?_
    | with_reducible refine keeps_if (fun _ => ?_) (fun _ => ?_)
    | dsimp only
    | split
    | (simp only [Prod.ext_iff] at *; casesm* _ ∧ _; subst_vars)

theorem setFifo_keeps {s : State} {d : Die} {o : Output} {tc : Nat} {q : List Desc} (hm : Sub 0x100000000000 km) (hk :
    Keeps km kz s) : Keeps km kz (setFifo s d o tc q) := by
  refine Keeps.lift hm ?_ hk
  unfold setFifo
  repeat' first
    | with_reducible exact Keeps.refl _ _
    | with_reducible refine (modSwc_keeps ?_) ?_
    | with_reducible refine keeps_if (fun _ => ?_) (fun _ => ?_)
    | dsimp only
    | split
    | (constructor <;> first | exact .inl (by decide) | exact .inr rfl)

theorem pushOut_keeps {d : Die} {o : Output} {x : Desc} {s : State} (hm : Sub 0x40000000002580200000000 km) (hk :
    Keeps km kz s) : Keeps km kz (pushOut d o x s) := by
  refine Keeps.lift hm ?_ hk
  unfold pushOut
  repeat' first
    | with_reducible exact Keeps.refl _ _
    | with_reducible refine (setFifo_keeps (hm := by decide)) ?_
    | with_reducible refine (modHome_keeps ?_) ?_
    | with_reducible refine (freeCells_keeps (hm := by decide)) ?_
    | with_reducible refine (leaveIngress_keeps (hm := by decide)) ?_
    | with_reducible refine keeps_if (fun _ => ?_) (fun _ => ?_)
    | dsimp only
    | split
    | (constructor <;> first | exact .inl (by decide) | exact .inr rfl)
    | (simp only [Prod.ext_iff] at *; casesm* _ ∧ _; subst_vars)

theorem putOnWay_keeps {d : Die} {x : Desc} {path : Nat} {s : State} (hm : Sub 0x40000000002580200000000 km) (hk :
    Keeps km kz s) : Keeps km kz (putOnWay d x path s) := by
  refine Keeps.lift hm ?_ hk
  unfold putOnWay
  repeat' first
    | with_reducible exact Keeps.refl _ _
    | with_reducible refine (pushOut_keeps (hm := by decide)) ?_
    | with_reducible refine (freeCells_keeps (hm := by decide)) ?_
    | with_reducible refine (leaveIngress_keeps (hm := by decide)) ?_
    | with_reducible refine keeps_if (fun _ => ?_) (fun _ => ?_)
    | split
    | (simp only [Prod.ext_iff] at *; casesm* _ ∧ _; subst_vars)

theorem sprayOut_keeps {d : Die} {x : Desc} {sw shift : Nat} {s : State} (hm : Sub 0x40000000002580600000000 km) (hk :
    Keeps km kz s) : Keeps km kz (sprayOut d x sw shift s) := by
  refine Keeps.lift hm ?_ hk
  unfold sprayOut
  repeat' first
    | with_reducible exact Keeps.refl _ _
    | with_reducible refine (modLft_keeps ?_) ?_
    | with_reducible refine (putOnWay_keeps (hm := by decide)) ?_
    | dsimp only
    | (constructor <;> first | exact .inl (by decide) | exact .inr rfl)

theorem enter_keeps {d : Die} {x : Desc} {shift : Nat} {s : State} (hm : Sub 0x40000000002581600000000 km) (hk :
    Keeps km kz s) : Keeps km kz (enter d x shift s) := by
  refine Keeps.lift hm ?_ hk
  unfold enter
  repeat' first
    | with_reducible exact Keeps.refl _ _
    | with_reducible refine (putOnWay_keeps (hm := by decide)) ?_
    | with_reducible refine (modLft_keeps ?_) ?_
    | with_reducible refine (sprayOut_keeps (hm := by decide)) ?_
    | with_reducible refine keeps_if (fun _ => ?_) (fun _ => ?_)
    | dsimp only
    | split
    | (constructor <;> first | exact .inl (by decide) | exact .inr rfl)
    | (simp only [Prod.ext_iff] at *; casesm* _ ∧ _; subst_vars)

theorem launch_keeps {d : Die} {x : Desc} {s : State} (hm : Sub 0x40000000002d81600000000 km) (hk :
    Keeps km kz s) : Keeps km kz (launch d x s) := by
  refine Keeps.lift hm ?_ hk
  unfold launch
  repeat' first
    | with_reducible exact Keeps.refl _ _
    | with_reducible refine (allocCells_keeps (hm := by decide)) ?_
    | with_reducible refine (allocCells_of_eq (heq := by assumption) (hm := by decide)) ?_
    | with_reducible refine (enter_keeps (hm := by decide)) ?_
    | with_reducible refine (pushOut_keeps (hm := by decide)) ?_
    | with_reducible refine (freeCells_keeps (hm := by decide)) ?_
    | with_reducible refine (keeps_foldl_snd (fun _ _ => ?_)) ?_
    | with_reducible refine (keeps_foldl_fst (fun _ _ => ?_)) ?_
    | with_reducible refine (keeps_foldl_third (fun _ _ => ?_)) ?_
    | with_reducible refine (keeps_foldl_mid (fun _ _ => ?_)) ?_
    | with_reducible refine (keeps_foldl (fun _ _ => ?_)) ?_
    | with_reducible refine keeps_if (fun _ => ?_) (fun _ => ?_)
    | with_reducible refine keeps_if_snd (fun _ => ?_) (fun _ => ?_)
    | dsimp only
    | split
    | (simp only [Prod.ext_iff] at *; casesm* _ ∧ _; subst_vars)

theorem submit_keeps {d : Die} {x : Desc} {s : State} (hm : Sub 0x800000000000000000000000040020000002d81600000000 km) (hk :
    Keeps km kz s) : Keeps km kz (submit d x s) := by
  refine Keeps.lift hm ?_ hk
  unfold submit
  repeat' first
    | with_reducible exact Keeps.refl _ _
    | with_reducible refine (countWait_keeps (hm := by decide)) ?_
    | with_reducible refine (modSwc_keeps ?_) ?_
    | with_reducible refine (launch_keeps (hm := by decide)) ?_
    | with_reducible refine keeps_if (fun _ => ?_) (fun _ => ?_)
    | dsimp only
    | split
    | (constructor <;> first | exact .inl (by decide) | exact .inr rfl)

theorem sendRaw_keeps {d : Die} {f : Frame} {s : State} (hm : Sub 0x800000000000000000000000040020000002d81600000000 km) (hk :
    Keeps km kz s) : Keeps km kz (sendRaw d f s) := by
  refine Keeps.lift hm ?_ hk
  unfold sendRaw
  repeat' first
    | with_reducible exact Keeps.refl _ _
    | with_reducible refine (submit_keeps (hm := by decide)) ?_

theorem sendCopies_keeps {d : Die} {l : List Frame} {s : State} (hm : Sub 0x800000000000000000000000040020000002d81600000000 km) (hk :
    Keeps km kz s) : Keeps km kz (sendCopies d l s) := by
  refine Keeps.lift hm ?_ hk
  unfold sendCopies
  repeat' first
    | with_reducible exact Keeps.refl _ _
    | with_reducible refine (submit_keeps (hm := by decide)) ?_
    | with_reducible refine (keeps_foldl_snd (fun _ _ => ?_)) ?_
    | with_reducible refine (keeps_foldl_fst (fun _ _ => ?_)) ?_
    | with_reducible refine (keeps_foldl_third (fun _ _ => ?_)) ?_
    | with_reducible refine (keeps_foldl_mid (fun _ _ => ?_)) ?_
    | with_reducible refine (keeps_foldl (fun _ _ => ?_)) ?_
    | with_reducible refine keeps_if (fun _ => ?_) (fun _ => ?_)
    | dsimp only
    | split
    | (simp only [Prod.ext_iff] at *; casesm* _ ∧ _; subst_vars)

theorem releaseAgents_keeps {fuel : Nat} {d : Die} {s : State} (hm : Sub 0x40020000002d81600000000 km) (hk :
    Keeps km kz s) : Keeps km kz (releaseAgents fuel d s) := by
  refine Keeps.lift hm ?_ hk
  clear hk
  induction fuel generalizing s with
  | zero => exact Keeps.refl _ _
  | succ k ih =>
    unfold releaseAgents
    dsimp only
    split
    · exact Keeps.refl _ _
    · refine Keeps.trans (launch_keeps (by decide) (modSwc_keeps ?_ (Keeps.refl _ _))) ih
      constructor <;> first | exact .inl (by decide) | exact .inr rfl

theorem nextSeq_keeps {d : Die} {ctx : Nat} {s : State} (hm : Sub 0x40000000000000000000 km) (hk :
    Keeps km kz s) : Keeps km kz (nextSeq d ctx s).2 := by
  refine Keeps.lift hm ?_ hk
  unfold nextSeq
  repeat' first
    | with_reducible exact Keeps.refl _ _
    | with_reducible refine (modSwc_keeps ?_) ?_
    | dsimp only
    | (constructor <;> first | exact .inl (by decide) | exact .inr rfl)

theorem nextSeq_of_eq {d : Die} {ctx : Nat} {s : State}{v0} {v1 : State} (heq : nextSeq d ctx s = (v0, v1)) (hm : Sub 0x40000000000000000000 km) (hk :
    Keeps km kz s) : Keeps km kz v1 := by
  have h := nextSeq_keeps (kz := kz) (s := s) hm hk (d := d) (ctx := ctx)
  rw [heq] at h
  exact h

theorem useTag_keeps {d : Die} {tag : Nat} {s : State} (hm : Sub 0x800000000000000000000000000000 km) (hk :
    Keeps km kz s) : Keeps km kz (useTag d tag s) := by
  refine Keeps.lift hm ?_ hk
  unfold useTag
  repeat' first
    | (extract_lets; try clear_value *)
    | with_reducible refine (modTier_keeps ?_) ?_
    | with_reducible exact Keeps.refl _ _
    | dsimp only
    | (constructor <;> first | exact .inl (by decide) | exact .inr rfl)

theorem sendAll_keeps {d : Die} {l : List Frame} {s : State} (hm : Sub 0x800000000000000000000000040020000002d81600000000 km) (hk :
    Keeps km kz s) : Keeps km kz (sendAll d l s) := by
  refine Keeps.lift hm ?_ hk
  unfold sendAll
  repeat' first
    | with_reducible exact Keeps.refl _ _
    | with_reducible refine (sendRaw_keeps (hm := by decide)) ?_
    | with_reducible refine (keeps_foldl_snd (fun _ _ => ?_)) ?_
    | with_reducible refine (keeps_foldl_fst (fun _ _ => ?_)) ?_
    | with_reducible refine (keeps_foldl_third (fun _ _ => ?_)) ?_
    | with_reducible refine (keeps_foldl_mid (fun _ _ => ?_)) ?_
    | with_reducible refine (keeps_foldl (fun _ _ => ?_)) ?_
    | dsimp only
    | (simp only [Prod.ext_iff] at *; casesm* _ ∧ _; subst_vars)

theorem answer_keeps {d : Die} {req : Frame} {status : BitVec 5} {payload : Bytes} {s : State} (hm : Sub 0xd80000000000800000000000000000000000040020000002d81600000000 km) (hk :
    Keeps km kz s) : Keeps km kz (answer d req status payload s) := by
  refine Keeps.lift hm ?_ hk
  unfold answer
  repeat' first
    | with_reducible exact Keeps.refl _ _
    | with_reducible refine (sendAll_keeps (hm := by decide)) ?_
    | with_reducible refine (tapBytes_keeps (hm := by decide)) ?_
    | with_reducible refine keeps_if (fun _ => ?_) (fun _ => ?_)
    | split

theorem refuse_keeps {d : Die} {req : Frame} {status : BitVec 5} {s : State} (hm : Sub 0x800000000000000000000000040020000002d81600000000 km) (hk :
    Keeps km kz s) : Keeps km kz (refuse d req status s) := by
  refine Keeps.lift hm ?_ hk
  unfold refuse
  repeat' first
    | with_reducible exact Keeps.refl _ _
    | with_reducible refine (sendRaw_keeps (hm := by decide)) ?_

theorem refuseEach_keeps {d : Die} {x : Desc} {st : BitVec 5} {s : State} (hm : Sub 0x800000000000000000000000040020000002d81600000000 km) (hk :
    Keeps km kz s) : Keeps km kz (refuseEach d x st s) := by
  refine Keeps.lift hm ?_ hk
  unfold refuseEach
  repeat' first
    | with_reducible exact Keeps.refl _ _
    | with_reducible refine (refuse_keeps (hm := by decide)) ?_
    | with_reducible refine (keeps_foldl_snd (fun _ _ => ?_)) ?_
    | with_reducible refine (keeps_foldl_fst (fun _ _ => ?_)) ?_
    | with_reducible refine (keeps_foldl_third (fun _ _ => ?_)) ?_
    | with_reducible refine (keeps_foldl_mid (fun _ _ => ?_)) ?_
    | with_reducible refine (keeps_foldl (fun _ _ => ?_)) ?_
    | dsimp only
    | (simp only [Prod.ext_iff] at *; casesm* _ ∧ _; subst_vars)

theorem forward_keeps {d : Die} {x : Desc} {shift : Nat} {s : State} (hm : Sub 0x800000000000000000000000040020000002d81600000000 km) (hk :
    Keeps km kz s) : Keeps km kz (forward d x shift s) := by
  refine Keeps.lift hm ?_ hk
  unfold forward
  repeat' first
    | with_reducible exact Keeps.refl _ _
    | with_reducible refine (refuse_keeps (hm := by decide)) ?_
    | with_reducible refine (freeCells_keeps (hm := by decide)) ?_
    | with_reducible refine (leaveIngress_keeps (hm := by decide)) ?_
    | with_reducible refine (enter_keeps (hm := by decide)) ?_
    | with_reducible refine keeps_if (fun _ => ?_) (fun _ => ?_)
    | split

theorem transit_keeps {d : Die} {x : Desc} {s : State} (hm : Sub 0x800000000000000000000000040020000002d81600000000 km) (hk :
    Keeps km kz s) : Keeps km kz (transit d x s) := by
  refine Keeps.lift hm ?_ hk
  unfold transit
  repeat' first
    | with_reducible exact Keeps.refl _ _
    | with_reducible refine (refuseEach_keeps (hm := by decide)) ?_
    | with_reducible refine (freeCells_keeps (hm := by decide)) ?_
    | with_reducible refine (leaveIngress_keeps (hm := by decide)) ?_
    | with_reducible refine (putOnWay_keeps (hm := by decide)) ?_
    | with_reducible refine keeps_if (fun _ => ?_) (fun _ => ?_)
    | split

theorem sendFrom_keeps {d : Die} {f : Frame} {s : State} (hm : Sub 0x800000000000000000000000040020000002d81600000000 km) (hk :
    Keeps km kz s) : Keeps km kz (sendFrom d f s) := by
  refine Keeps.lift hm ?_ hk
  unfold sendFrom
  repeat' first
    | with_reducible exact Keeps.refl _ _
    | with_reducible refine (refuse_keeps (hm := by decide)) ?_
    | with_reducible refine (sendRaw_keeps (hm := by decide)) ?_
    | with_reducible refine keeps_if (fun _ => ?_) (fun _ => ?_)
    | split

theorem dropInbox_keeps {d : Die} {fs : List Frame} {s : State} (hm : Sub 0x80100000000000000000000 km) (hk :
    Keeps km kz s) : Keeps km kz (dropInbox d fs s) := by
  refine Keeps.lift hm ?_ hk
  unfold dropInbox
  repeat' first
    | with_reducible exact Keeps.refl _ _
    | with_reducible refine (modHome_keeps ?_) ?_
    | dsimp only
    | (constructor <;> first | exact .inl (by decide) | exact .inr rfl)

theorem takeHomeAll_keeps {d : Die} {fs : List Frame} {s : State} (hm : Sub 0x80100000002480200000000 km) (hk :
    Keeps km kz s) : Keeps km kz (takeHomeAll d fs s) := by
  refine Keeps.lift hm ?_ hk
  unfold takeHomeAll
  repeat' first
    | with_reducible exact Keeps.refl _ _
    | with_reducible refine (freeCells_keeps (hm := by decide)) ?_
    | with_reducible refine (leaveIngress_keeps (hm := by decide)) ?_
    | with_reducible refine (dropInbox_keeps (hm := by decide)) ?_
    | with_reducible refine keeps_if (fun _ => ?_) (fun _ => ?_)
    | split

theorem takeHome_keeps {d : Die} {f : Frame} {s : State} (hm : Sub 0x80100000002480200000000 km) (hk :
    Keeps km kz s) : Keeps km kz (takeHome d f s) := by
  refine Keeps.lift hm ?_ hk
  unfold takeHome
  repeat' first
    | with_reducible exact Keeps.refl _ _
    | with_reducible refine (takeHomeAll_keeps (hm := by decide)) ?_

theorem takeSp_keeps {f : Frame} {s : State} (hm : Sub 0x20000000 km) (hk : Keeps km kz s) : Keeps km kz (takeSp f s) := by
  refine Keeps.lift hm ?_ hk
  unfold takeSp
  repeat' first
    | with_reducible exact Keeps.refl _ _
    | with_reducible refine (modCfg_keeps ?_) ?_
    | dsimp only
    | (constructor <;> first | exact .inl (by decide) | exact .inr rfl)

theorem windowMisuse_keeps {f : Frame} {s : State} (hm : Sub 0x800000000000000000000000040020000002d81620000000 km) (hk :
    Keeps km kz s) : Keeps km kz (windowMisuse f s) := by
  refine Keeps.lift hm ?_ hk
  unfold windowMisuse
  repeat' first
    | with_reducible exact Keeps.refl _ _
    | with_reducible refine (refuse_keeps (hm := by decide)) ?_
    | with_reducible refine (takeSp_keeps (hm := by decide)) ?_
    | with_reducible refine keeps_if (fun _ => ?_) (fun _ => ?_)
    | split

theorem takeAgent_keeps {d : Die} {f : Frame} {s : State} (hm : Sub 0x10000000000000000000 km) (hk :
    Keeps km kz s) : Keeps km kz (takeAgent d f s) := by
  refine Keeps.lift hm ?_ hk
  unfold takeAgent
  repeat' first
    | with_reducible exact Keeps.refl _ _
    | with_reducible refine (modSwc_keeps ?_) ?_
    | dsimp only
    | (constructor <;> first | exact .inl (by decide) | exact .inr rfl)

theorem sendCtlRsp_keeps {d : Die} {code : Nat} {r : CtlReq} {status : BitVec 5} {detail : Nat} {results : Bytes} {s : State} (hm : Sub 0x800000000000000000000000040020000002d81600000000 km) (hk :
    Keeps km kz s) : Keeps km kz (sendCtlRsp d code r status detail results s) := by
  refine Keeps.lift hm ?_ hk
  unfold sendCtlRsp
  repeat' first
    | with_reducible exact Keeps.refl _ _
    | with_reducible refine (sendAll_keeps (hm := by decide)) ?_

theorem holdRsp_keeps {code : Nat} {r : CtlReq} {status : BitVec 5} {detail : Nat} {results : Bytes} {s : State} (hm : Sub 0x2000000 km) (hk :
    Keeps km kz s) : Keeps km kz (holdRsp code r status detail results s) := by
  refine Keeps.lift hm ?_ hk
  unfold holdRsp
  repeat' first
    | with_reducible exact Keeps.refl _ _
    | with_reducible refine (modCfg_keeps ?_) ?_
    | with_reducible refine keeps_elim ?_ (fun _ => ?_)
    | dsimp only
    | (constructor <;> first | exact .inl (by decide) | exact .inr rfl)

theorem ctlAnswer_keeps {code : Nat} {r : CtlReq} {status : BitVec 5} {detail : Nat} {results : Bytes} {s0 : State} (hm : Sub 0x800000000000000000000000040020000002d81602400000 km) (hk :
    Keeps km kz s0) : Keeps km kz (ctlAnswer code r status detail results s0) := by
  refine Keeps.lift hm ?_ hk
  unfold ctlAnswer
  repeat' first
    | with_reducible exact Keeps.refl _ _
    | with_reducible refine (modCfg_keeps ?_) ?_
    | with_reducible refine (holdRsp_keeps (hm := by decide)) ?_
    | with_reducible refine (sendCtlRsp_keeps (hm := by decide)) ?_
    | with_reducible refine keeps_if (fun _ => ?_) (fun _ => ?_)
    | dsimp only
    | split
    | (constructor <;> first | exact .inl (by decide) | exact .inr rfl)

theorem jobAnswer_keeps {code : Nat} {r : CtlReq} {job : Nat} {s : State} (hm : Sub 0x800000000000000000000000040020000002d81602400000 km) (hk :
    Keeps km kz s) : Keeps km kz (jobAnswer code r job s) := by
  refine Keeps.lift hm ?_ hk
  unfold jobAnswer
  repeat' first
    | with_reducible exact Keeps.refl _ _
    | with_reducible refine (ctlAnswer_keeps (hm := by decide)) ?_

theorem ringPut_keeps {d : Die} {b : JBody} {s : State} (hm : Sub 0x1800000040005c00000000000000000000000000000000000 km) (hk :
    Keeps km kz s) : Keeps km kz (ringPut d b s) := by
  refine Keeps.lift hm ?_ hk
  unfold ringPut
  repeat' first
    | with_reducible exact Keeps.refl _ _
    | with_reducible refine (modFtl_keeps ?_) ?_
    | with_reducible refine (setStatus_keeps (hm := by first | decide | (simp only [StReg.mask]; decide))) ?_
    | with_reducible refine keeps_if (fun _ => ?_) (fun _ => ?_)
    | dsimp only
    | split
    | (constructor <;> first | exact .inl (by decide) | exact .inr rfl)

theorem journal_keeps {d : Die} {b : JBody} {s : State} (hm : Sub 0x1800000040045c00000000000000000000000000000000000 km) (hk :
    Keeps km kz s) : Keeps km kz (journal d b s) := by
  refine Keeps.lift hm ?_ hk
  unfold journal
  repeat' first
    | with_reducible exact Keeps.refl _ _
    | with_reducible refine (modFtl_keeps ?_) ?_
    | with_reducible refine (ringPut_keeps (hm := by decide)) ?_
    | with_reducible refine keeps_if (fun _ => ?_) (fun _ => ?_)
    | dsimp only
    | split
    | (constructor <;> first | exact .inl (by decide) | exact .inr rfl)

end Machine
end Sys2Proof
end

