-- ==== Sys2Proof/Laws/FrameRecords.lean ====
section
/-! SUPPORT. Frames of the functions of Machine/Records.lean: the parts of the state that each may change, as a mask (Laws/Keeps.lean). -/

namespace Sys2Proof
namespace Machine
set_option linter.unusedTactic false
set_option linter.unreachableTactic false
set_option linter.tactic.unusedName false
variable {km : Nat} {kz : State}

theorem placeExt_keeps {e : ExtV} {s : State} (hm : Sub 0x980000000000800000000000000008000000000000000000000000000000 km) (hk :
    Keeps km kz s) : Keeps km kz (placeExt e s) := by
  refine Keeps.lift hm ?_ hk
  unfold placeExt
  repeat' first
    | with_reducible exact Keeps.refl _ _
    | with_reducible refine (takeCharge_keeps (hm := by decide)) ?_
    | with_reducible refine (modExt_keeps (hm := by decide)) ?_
    | with_reducible refine keeps_if (fun _ => ?_) (fun _ => ?_)
    | dsimp only
    | split

theorem withChanges_keeps {s : State} {cs : List Change} (hm : Sub 0x2 km) (hk : Keeps km kz s) : Keeps km kz (withChanges s cs) := by
  refine Keeps.lift hm ?_ hk
  unfold withChanges
  repeat' first
    | with_reducible exact Keeps.refl _ _
    | with_reducible refine (modCfg_keeps ?_) ?_
    | with_reducible refine (keeps_foldl_snd (fun _ _ => ?_)) ?_
    | with_reducible refine (keeps_foldl_fst (fun _ _ => ?_)) ?_
    | with_reducible refine (keeps_foldl_third (fun _ _ => ?_)) ?_
    | with_reducible refine (keeps_foldl_mid (fun _ _ => ?_)) ?_
    | with_reducible refine (keeps_foldl (fun _ _ => ?_)) ?_
    | dsimp only
    | (constructor <;> first | exact .inl (by decide) | exact .inr rfl)
    | (simp only [Prod.ext_iff] at *; casesm* _ ∧ _; subst_vars)

end Machine
end Sys2Proof
end

