-- ==== Sys2Proof/Laws/FrameTrays.lean ====
section
/-! SUPPORT. Frames of the functions of Machine/Trays.lean: the parts of the state that each may change, as a mask (Laws/Keeps.lean). -/

namespace Sys2Proof
namespace Machine
set_option linter.unusedTactic false
set_option linter.unreachableTactic false
set_option linter.tactic.unusedName false
variable {km : Nat} {kz : State}

theorem sendPort_keeps {d : Die} {port : Nat} {f : Frame} {s : State} (hm : Sub 0x800000000000000000000000040020000002d81600000000 km) (hk :
    Keeps km kz s) : Keeps km kz (sendPort d port f s) := by
  refine Keeps.lift hm ?_ hk
  unfold sendPort
  repeat' first
    | with_reducible exact Keeps.refl _ _
    | with_reducible refine (submit_keeps (hm := by decide)) ?_

theorem askTray_keeps {d : Die} {port : Nat} {opc : Byte} {tc addr opspec : Nat} {payload : Bytes} {why : TrayFor} {s : State} (hm : Sub 0x800000000000000000c00000040060000002d81600000000 km) (hk :
    Keeps km kz s) : Keeps km kz (askTray d port opc tc addr opspec payload why s) := by
  refine Keeps.lift hm ?_ hk
  unfold askTray
  repeat' first
    | with_reducible exact Keeps.refl _ _
    | with_reducible refine (nextSeq_keeps (hm := by decide)) ?_
    | with_reducible refine (nextSeq_of_eq (heq := by assumption) (hm := by decide)) ?_
    | with_reducible refine (sendPort_keeps (hm := by decide)) ?_
    | with_reducible refine (modTier_keeps ?_) ?_
    | with_reducible refine (useTag_keeps (hm := by decide)) ?_
    | with_reducible refine keeps_if (fun _ => ?_) (fun _ => ?_)
    | with_reducible refine keeps_if_snd (fun _ => ?_) (fun _ => ?_)
    | dsimp only
    | split
    | (constructor <;> first | exact .inl (by decide) | exact .inr rfl)
    | (simp only [Prod.ext_iff] at *; casesm* _ ∧ _; subst_vars)

theorem dropTrayReq_keeps {d : Die} {tag : Nat} {s : State} (hm : Sub 0x400000000000000000000000000000 km) (hk :
    Keeps km kz s) : Keeps km kz (dropTrayReq d tag s) := by
  refine Keeps.lift hm ?_ hk
  unfold dropTrayReq
  repeat' first
    | with_reducible exact Keeps.refl _ _
    | with_reducible refine (modTier_keeps ?_) ?_
    | dsimp only
    | (constructor <;> first | exact .inl (by decide) | exact .inr rfl)

theorem ccPut_keeps {d : Die} {line : Nat} {c : CcLine} {s : State} (hm : Sub 0x40000000000000000000000000000 km) (hk :
    Keeps km kz s) : Keeps km kz (ccPut d line c s) := by
  refine Keeps.lift hm ?_ hk
  unfold ccPut
  repeat' first
    | with_reducible exact Keeps.refl _ _
    | with_reducible refine (modTier_keeps ?_) ?_
    | dsimp only
    | (constructor <;> first | exact .inl (by decide) | exact .inr rfl)

theorem ccWriteback_keeps {d : Die} {line : Nat} {s : State} (hm : Sub 0x800000000000000000c00000040060000002d81600000000 km) (hk :
    Keeps km kz s) : Keeps km kz (ccWriteback d line s) := by
  refine Keeps.lift hm ?_ hk
  unfold ccWriteback
  repeat' first
    | with_reducible exact Keeps.refl _ _
    | with_reducible refine (askTray_keeps (hm := by decide)) ?_
    | with_reducible refine keeps_if (fun _ => ?_) (fun _ => ?_)
    | dsimp only
    | split
    | (simp only [Prod.ext_iff] at *; casesm* _ ∧ _; subst_vars)

theorem ccMakeWay_keeps {d : Die} {line : Nat} {s : State} (hm : Sub 0x800000000000000000c40000040060000002d81600000000 km) (hk :
    Keeps km kz s) : Keeps km kz (ccMakeWay d line s).2 := by
  refine Keeps.lift hm ?_ hk
  unfold ccMakeWay
  repeat' first
    | with_reducible exact Keeps.refl _ _
    | with_reducible refine (ccWriteback_keeps (hm := by decide)) ?_
    | with_reducible refine (modTier_keeps ?_) ?_
    | with_reducible refine keeps_if (fun _ => ?_) (fun _ => ?_)
    | with_reducible refine keeps_if_snd (fun _ => ?_) (fun _ => ?_)
    | dsimp only
    | split
    | (constructor <;> first | exact .inl (by decide) | exact .inr rfl)
    | (simp only [Prod.ext_iff] at *; casesm* _ ∧ _; subst_vars)

theorem ccMakeWay_of_eq {d : Die} {line : Nat} {s : State}{v0} {v1 : State} (heq : ccMakeWay d line s = (v0, v1)) (hm : Sub 0x800000000000000000c40000040060000002d81600000000 km) (hk :
    Keeps km kz s) : Keeps km kz v1 := by
  have h := ccMakeWay_keeps (kz := kz) (s := s) hm hk (d := d) (line := line)
  rw [heq] at h
  exact h

theorem ccFill_keeps {d : Die} {ext line : Nat} {s : State} (hm : Sub 0x800000000000000000c40000040060000002d81600000000 km) (hk :
    Keeps km kz s) : Keeps km kz (ccFill d ext line s) := by
  refine Keeps.lift hm ?_ hk
  unfold ccFill
  repeat' first
    | with_reducible exact Keeps.refl _ _
    | with_reducible refine (ccMakeWay_keeps (hm := by decide)) ?_
    | with_reducible refine (ccMakeWay_of_eq (heq := by assumption) (hm := by decide)) ?_
    | with_reducible refine (askTray_keeps (hm := by decide)) ?_
    | with_reducible refine keeps_if (fun _ => ?_) (fun _ => ?_)
    | with_reducible refine keeps_if_snd (fun _ => ?_) (fun _ => ?_)
    | split
    | (simp only [Prod.ext_iff] at *; casesm* _ ∧ _; subst_vars)

theorem ccReady_keeps {d : Die} {ext : Nat} {lines : List Nat} {s : State} (hm : Sub 0x800000000000000000c40000040060000002d81600000000 km) (hk :
    Keeps km kz s) : Keeps km kz (ccReady d ext lines s).2 := by
  refine Keeps.lift hm ?_ hk
  unfold ccReady
  repeat' first
    | with_reducible exact Keeps.refl _ _
    | with_reducible refine (ccFill_keeps (hm := by decide)) ?_
    | with_reducible refine (keeps_foldl_snd (fun _ _ => ?_)) ?_
    | with_reducible refine (keeps_foldl_fst (fun _ _ => ?_)) ?_
    | with_reducible refine (keeps_foldl_third (fun _ _ => ?_)) ?_
    | with_reducible refine (keeps_foldl_mid (fun _ _ => ?_)) ?_
    | with_reducible refine (keeps_foldl (fun _ _ => ?_)) ?_
    | with_reducible refine keeps_if (fun _ => ?_) (fun _ => ?_)
    | with_reducible refine keeps_if_snd (fun _ => ?_) (fun _ => ?_)
    | dsimp only
    | split
    | (simp only [Prod.ext_iff] at *; casesm* _ ∧ _; subst_vars)

theorem ccReady_of_eq {d : Die} {ext : Nat} {lines : List Nat} {s : State}{v0} {v1 : State} (heq : ccReady d ext lines s = (v0, v1)) (hm : Sub 0x800000000000000000c40000040060000002d81600000000 km) (hk :
    Keeps km kz s) : Keeps km kz v1 := by
  have h := ccReady_keeps (kz := kz) (s := s) hm hk (d := d) (ext := ext) (lines := lines)
  rw [heq] at h
  exact h

theorem ccTouch_keeps {d : Die} {lines : List Nat} {dirty : Bool} {order : Nat} {s : State} (hm : Sub 0x40000000000000000000000000000 km) (hk :
    Keeps km kz s) : Keeps km kz (ccTouch d lines dirty order s) := by
  refine Keeps.lift hm ?_ hk
  unfold ccTouch
  repeat' first
    | with_reducible exact Keeps.refl _ _
    | with_reducible refine (modTier_keeps ?_) ?_
    | with_reducible refine (keeps_foldl_snd (fun _ _ => ?_)) ?_
    | with_reducible refine (keeps_foldl_fst (fun _ _ => ?_)) ?_
    | with_reducible refine (keeps_foldl_third (fun _ _ => ?_)) ?_
    | with_reducible refine (keeps_foldl_mid (fun _ _ => ?_)) ?_
    | with_reducible refine (keeps_foldl (fun _ _ => ?_)) ?_
    | dsimp only
    | (constructor <;> first | exact .inl (by decide) | exact .inr rfl)
    | (simp only [Prod.ext_iff] at *; casesm* _ ∧ _; subst_vars)

theorem modBlk_keeps {s : State} {d : Die} {key : Nat} {g : Blk → Blk} (hm : Sub 0x200000000000000000000000000000000 km) (hk :
    Keeps km kz s) : Keeps km kz (modBlk s d key g) := by
  refine Keeps.lift hm ?_ hk
  unfold modBlk
  repeat' first
    | with_reducible exact Keeps.refl _ _
    | with_reducible refine (modFtl_keeps ?_) ?_
    | dsimp only
    | (constructor <;> first | exact .inl (by decide) | exact .inr rfl)

theorem stageWrite_keeps {d : Die} {vol unit : Nat} {durable : Bool} {s : State} (hm : Sub 0x180000000000000000000000000000000 km) (hk :
    Keeps km kz s) : Keeps km kz (stageWrite d vol unit durable s) := by
  refine Keeps.lift hm ?_ hk
  unfold stageWrite
  repeat' first
    | with_reducible exact Keeps.refl _ _
    | with_reducible refine (modVol_keeps (hm := by decide)) ?_
    | with_reducible refine (modFtl_keeps ?_) ?_
    | with_reducible refine keeps_if (fun _ => ?_) (fun _ => ?_)
    | dsimp only
    | split
    | (constructor <;> first | exact .inl (by decide) | exact .inr rfl)

theorem readUnit_keeps {d : Die} {vol unit level att : Nat} {s : State} (hm : Sub 0x800000000000000000c00000040060000002d81600000000 km) (hk :
    Keeps km kz s) : Keeps km kz (readUnit d vol unit level att s) := by
  refine Keeps.lift hm ?_ hk
  unfold readUnit
  repeat' first
    | with_reducible exact Keeps.refl _ _
    | with_reducible refine (askTray_keeps (hm := by decide)) ?_
    | with_reducible refine keeps_if (fun _ => ?_) (fun _ => ?_)
    | split
    | (simp only [Prod.ext_iff] at *; casesm* _ ∧ _; subst_vars)

theorem startRead_keeps {d : Die} {vol unit : Nat} {s : State} (hm : Sub 0x800000000000000000c00000040060000002d81600000000 km) (hk :
    Keeps km kz s) : Keeps km kz (startRead d vol unit s) := by
  refine Keeps.lift hm ?_ hk
  unfold startRead
  repeat' first
    | with_reducible exact Keeps.refl _ _
    | with_reducible refine (readUnit_keeps (hm := by decide)) ?_
    | with_reducible refine keeps_if (fun _ => ?_) (fun _ => ?_)
    | split
    | (simp only [Prod.ext_iff] at *; casesm* _ ∧ _; subst_vars)

theorem mapPut_keeps {d : Die} {vol page : Nat} {changed : Bool} {s : State} (hm : Sub 0x800000000000008000c00000040060000002d81600000000 km) (hk :
    Keeps km kz s) : Keeps km kz (mapPut d vol page changed s) := by
  refine Keeps.lift hm ?_ hk
  unfold mapPut
  repeat' first
    | with_reducible exact Keeps.refl _ _
    | with_reducible refine (modFtl_keeps ?_) ?_
    | with_reducible refine (askTray_keeps (hm := by decide)) ?_
    | with_reducible refine keeps_if (fun _ => ?_) (fun _ => ?_)
    | dsimp only
    | split
    | (constructor <;> first | exact .inl (by decide) | exact .inr rfl)
    | (simp only [Prod.ext_iff] at *; casesm* _ ∧ _; subst_vars)

theorem mapReady_keeps {d : Die} {vol page : Nat} {s : State} (hm : Sub 0x800000000000008000c00000040060000002d81600000000 km) (hk :
    Keeps km kz s) : Keeps km kz (mapReady d vol page s).2 := by
  refine Keeps.lift hm ?_ hk
  unfold mapReady
  repeat' first
    | with_reducible exact Keeps.refl _ _
    | with_reducible refine (askTray_keeps (hm := by decide)) ?_
    | with_reducible refine (mapPut_keeps (hm := by decide)) ?_
    | with_reducible refine keeps_if (fun _ => ?_) (fun _ => ?_)
    | with_reducible refine keeps_if_snd (fun _ => ?_) (fun _ => ?_)
    | dsimp only
    | split
    | (simp only [Prod.ext_iff] at *; casesm* _ ∧ _; subst_vars)

theorem mapReady_of_eq {d : Die} {vol page : Nat} {s : State}{v0} {v1 : State} (heq : mapReady d vol page s = (v0, v1)) (hm : Sub 0x800000000000008000c00000040060000002d81600000000 km) (hk :
    Keeps km kz s) : Keeps km kz v1 := by
  have h := mapReady_keeps (kz := kz) (s := s) hm hk (d := d) (vol := vol) (page := page)
  rw [heq] at h
  exact h

end Machine
end Sys2Proof
end

