-- ==== Sys2Proof/Laws/FrameCohCore.lean ====
section
/-! SUPPORT. Frames of the functions of Machine/CohCore.lean: the parts of the state that each may change, as a mask (Laws/Keeps.lean). -/

namespace Sys2Proof
namespace Machine
set_option linter.unusedTactic false
set_option linter.unreachableTactic false
set_option linter.tactic.unusedName false
variable {km : Nat} {kz : State}

theorem setDir_keeps {d : Die} {line : Nat} {e : DirEntry} {s : State} (hm : Sub 0x800000000000000000000000 km) (hk :
    Keeps km kz s) : Keeps km kz (setDir d line e s) := by
  refine Keeps.lift hm ?_ hk
  unfold setDir
  repeat' first
    | with_reducible exact Keeps.refl _ _
    | with_reducible refine (modCoh_keeps ?_) ?_
    | dsimp only
    | (constructor <;> first | exact .inl (by decide) | exact .inr rfl)

theorem delDir_keeps {d : Die} {line : Nat} {s : State} (hm : Sub 0x800000000000000000000000 km) (hk :
    Keeps km kz s) : Keeps km kz (delDir d line s) := by
  refine Keeps.lift hm ?_ hk
  unfold delDir
  repeat' first
    | with_reducible exact Keeps.refl _ _
    | with_reducible refine (modCoh_keeps ?_) ?_
    | dsimp only
    | (constructor <;> first | exact .inl (by decide) | exact .inr rfl)

theorem poisonLine_keeps {d : Die} {line : Nat} {s : State} (hm : Sub 0x10000000000000000000000000001800000000000000000000020020000000000000000000000 km) (hk :
    Keeps km kz s) : Keeps km kz (poisonLine d line s) := by
  refine Keeps.lift hm ?_ hk
  unfold poisonLine
  repeat' first
    | with_reducible exact Keeps.refl _ _
    | with_reducible refine (setStatus_keeps (hm := by first | decide | (simp only [StReg.mask]; decide))) ?_
    | with_reducible refine (set_poison_keeps (by decide)) ?_

theorem countSent_keeps {d : Die} {f : Frame} {s : State} (hm : Sub 0x41000000000000000000000000 km) (hk :
    Keeps km kz s) : Keeps km kz (countSent d f s) := by
  refine Keeps.lift hm ?_ hk
  unfold countSent
  repeat' first
    | with_reducible exact Keeps.refl _ _
    | with_reducible refine (modCoh_keeps ?_) ?_
    | with_reducible refine keeps_if (fun _ => ?_) (fun _ => ?_)
    | dsimp only
    | split
    | (constructor <;> first | exact .inl (by decide) | exact .inr rfl)

theorem sendCoh_keeps {d : Die} {f : Frame} {s : State} (hm : Sub 0x800000000000000000000043040020000002d81600000000 km) (hk :
    Keeps km kz s) : Keeps km kz (sendCoh d f s) := by
  refine Keeps.lift hm ?_ hk
  unfold sendCoh
  repeat' first
    | with_reducible exact Keeps.refl _ _
    | with_reducible refine (sendFrom_keeps (hm := by decide)) ?_
    | with_reducible refine (countSent_keeps (hm := by decide)) ?_
    | with_reducible refine (modCoh_keeps ?_) ?_
    | with_reducible refine keeps_if (fun _ => ?_) (fun _ => ?_)
    | dsimp only
    | split
    | (constructor <;> first | exact .inl (by decide) | exact .inr rfl)

theorem cohAnswered_keeps {d : Die} {ep : Nat} {s : State} (hm : Sub 0x100000000000000000800000000000000000000043040020000002d81600000000 km) (hk :
    Keeps km kz s) : Keeps km kz (cohAnswered d ep s) := by
  refine Keeps.lift hm ?_ hk
  unfold cohAnswered
  repeat' first
    | with_reducible exact Keeps.refl _ _
    | with_reducible refine (modFlt_keeps ?_) ?_
    | with_reducible refine (modCoh_keeps ?_) ?_
    | with_reducible refine (sendCoh_keeps (hm := by decide)) ?_
    | with_reducible refine keeps_if (fun _ => ?_) (fun _ => ?_)
    | dsimp only
    | split
    | (constructor <;> first | exact .inl (by decide) | exact .inr rfl)
    | (simp only [Prod.ext_iff] at *; casesm* _ ∧ _; subst_vars)

theorem sendCohAll_keeps {d : Die} {opc : Byte} {targets : List Nat} {txn : Nat} {ctx : BitVec 12} {opspec : Nat} {payload : Bytes} {s : State} (hm : Sub 0x800000000000000000000043040020000002d81600000000 km) (hk :
    Keeps km kz s) : Keeps km kz (sendCohAll d opc targets txn ctx opspec payload s) := by
  refine Keeps.lift hm ?_ hk
  unfold sendCohAll
  repeat' first
    | with_reducible exact Keeps.refl _ _
    | with_reducible refine (sendCopies_keeps (hm := by decide)) ?_
    | with_reducible refine (countSent_keeps (hm := by decide)) ?_
    | with_reducible refine (modCoh_keeps ?_) ?_
    | with_reducible refine (keeps_foldl_snd (fun _ _ => ?_)) ?_
    | with_reducible refine (keeps_foldl_fst (fun _ _ => ?_)) ?_
    | with_reducible refine (keeps_foldl_third (fun _ _ => ?_)) ?_
    | with_reducible refine (keeps_foldl_mid (fun _ _ => ?_)) ?_
    | with_reducible refine (keeps_foldl (fun _ _ => ?_)) ?_
    | dsimp only
    | (constructor <;> first | exact .inl (by decide) | exact .inr rfl)
    | (simp only [Prod.ext_iff] at *; casesm* _ ∧ _; subst_vars)

theorem nextTxn_keeps {d : Die} {s : State} (hm : Sub 0x4000000000000000000000000 km) (hk :
    Keeps km kz s) : Keeps km kz (nextTxn d s).2 := by
  refine Keeps.lift hm ?_ hk
  unfold nextTxn
  repeat' first
    | with_reducible exact Keeps.refl _ _
    | with_reducible refine (modCoh_keeps ?_) ?_
    | dsimp only
    | (constructor <;> first | exact .inl (by decide) | exact .inr rfl)

theorem nextTxn_of_eq {d : Die} {s : State}{v0} {v1 : State} (heq : nextTxn d s = (v0, v1)) (hm : Sub 0x4000000000000000000000000 km) (hk :
    Keeps km kz s) : Keeps km kz v1 := by
  have h := nextTxn_keeps (kz := kz) (s := s) hm hk (d := d)
  rw [heq] at h
  exact h

theorem finishRecall_keeps {d : Die} {line : Nat} {s : State} (hm : Sub 0x1800000000000000000000020800000000000000000000000 km) (hk :
    Keeps km kz s) : Keeps km kz (finishRecall d line s) := by
  refine Keeps.lift hm ?_ hk
  unfold finishRecall
  repeat' first
    | with_reducible exact Keeps.refl _ _
    | with_reducible refine (setStatus_keeps (hm := by first | decide | (simp only [StReg.mask]; decide))) ?_
    | with_reducible refine (setDir_keeps (hm := by first | decide | (simp only [StReg.mask]; decide))) ?_
    | with_reducible refine (delDir_keeps (hm := by first | decide | (simp only [StReg.mask]; decide))) ?_
    | with_reducible refine keeps_if (fun _ => ?_) (fun _ => ?_)
    | dsimp only
    | split

theorem startRecall_keeps {d : Die} {line reason : Nat} {keepS : Bool} {ctx : BitVec 12} {s : State} (hm : Sub 0x1800000000000000000000067840020000002d81600000000 km) (hk :
    Keeps km kz s) : Keeps km kz (startRecall d line reason keepS ctx s) := by
  refine Keeps.lift hm ?_ hk
  unfold startRecall
  repeat' first
    | with_reducible exact Keeps.refl _ _
    | with_reducible refine (nextTxn_keeps (hm := by decide)) ?_
    | with_reducible refine (nextTxn_of_eq (heq := by assumption) (hm := by decide)) ?_
    | with_reducible refine (setDir_keeps (hm := by decide)) ?_
    | with_reducible refine (finishRecall_keeps (hm := by decide)) ?_
    | with_reducible refine (sendCohAll_keeps (hm := by decide)) ?_
    | with_reducible refine keeps_if (fun _ => ?_) (fun _ => ?_)
    | with_reducible refine keeps_if_snd (fun _ => ?_) (fun _ => ?_)
    | dsimp only
    | split
    | (simp only [Prod.ext_iff] at *; casesm* _ ∧ _; subst_vars)

theorem dirRoom_keeps {d : Die} {line : Nat} {ctx : BitVec 12} {s : State} (hm : Sub 0x1800000000000000000000067840020000002d81600000000 km) (hk :
    Keeps km kz s) : Keeps km kz (dirRoom d line ctx s).2 := by
  refine Keeps.lift hm ?_ hk
  unfold dirRoom
  repeat' first
    | with_reducible exact Keeps.refl _ _
    | with_reducible refine (setStatus_keeps (hm := by first | decide | (simp only [StReg.mask]; decide))) ?_
    | with_reducible refine (startRecall_keeps (hm := by first | decide | (simp only [StReg.mask]; decide))) ?_
    | with_reducible refine keeps_if (fun _ => ?_) (fun _ => ?_)
    | with_reducible refine keeps_if_snd (fun _ => ?_) (fun _ => ?_)
    | dsimp only
    | split
    | (simp only [Prod.ext_iff] at *; casesm* _ ∧ _; subst_vars)

theorem dirRoom_of_eq {d : Die} {line : Nat} {ctx : BitVec 12} {s : State}{v0} {v1 : State} (heq : dirRoom d line ctx s = (v0, v1)) (hm : Sub 0x1800000000000000000000067840020000002d81600000000 km) (hk :
    Keeps km kz s) : Keeps km kz v1 := by
  have h := dirRoom_keeps (kz := kz) (s := s) hm hk (d := d) (line := line) (ctx := ctx)
  rw [heq] at h
  exact h

theorem cohRsp_keeps {d : Die} {req : Frame} {opc : Byte} {status : BitVec 5} {opspec : Nat} {payload : Bytes} {s : State} (hm : Sub 0xd80000000000800000000000000000000000040020000002d81600000000 km) (hk :
    Keeps km kz s) : Keeps km kz (cohRsp d req opc status opspec payload s) := by
  refine Keeps.lift hm ?_ hk
  unfold cohRsp
  repeat' first
    | with_reducible exact Keeps.refl _ _
    | with_reducible refine (sendFrom_keeps (hm := by decide)) ?_
    | with_reducible refine (tapBytes_keeps (hm := by decide)) ?_

theorem lineRoom_keeps {d : Die} {line : Nat} {s : State} (hm : Sub 0x800000000000000000c40000040060000002d81600000000 km) (hk :
    Keeps km kz s) : Keeps km kz (lineRoom d line s).2 := by
  refine Keeps.lift hm ?_ hk
  unfold lineRoom
  repeat' first
    | with_reducible exact Keeps.refl _ _
    | with_reducible refine (ccMakeWay_keeps (hm := by decide)) ?_
    | with_reducible refine (ccMakeWay_of_eq (heq := by assumption) (hm := by decide)) ?_
    | with_reducible refine keeps_if (fun _ => ?_) (fun _ => ?_)
    | with_reducible refine keeps_if_snd (fun _ => ?_) (fun _ => ?_)
    | dsimp only
    | split

theorem lineRoom_of_eq {d : Die} {line : Nat} {s : State}{v0} {v1 : State} (heq : lineRoom d line s = (v0, v1)) (hm : Sub 0x800000000000000000c40000040060000002d81600000000 km) (hk :
    Keeps km kz s) : Keeps km kz v1 := by
  have h := lineRoom_keeps (kz := kz) (s := s) hm hk (d := d) (line := line)
  rw [heq] at h
  exact h

theorem writeLine_keeps {d : Die} {line : Nat} {b : Bytes} {s : State} (hm : Sub 0x8000000000000000000000000000000000000000000000040000000000000000000000000000 km) (hk :
    Keeps km kz s) : Keeps km kz (writeLine d line b s) := by
  refine Keeps.lift hm ?_ hk
  unfold writeLine
  repeat' first
    | with_reducible exact Keeps.refl _ _
    | with_reducible refine (writeMem_keeps (hm := by decide)) ?_
    | with_reducible refine (ccPut_keeps (hm := by decide)) ?_
    | with_reducible refine keeps_if (fun _ => ?_) (fun _ => ?_)
    | dsimp only
    | split

theorem grantM_keeps {d : Die} {line : Nat} {e : DirEntry} {t : Txn} {s : State} (hm : Sub 0xd80000000000800000000000000000000000840020000002d81600000000 km) (hk :
    Keeps km kz s) : Keeps km kz (grantM d line e t s) := by
  refine Keeps.lift hm ?_ hk
  unfold grantM
  repeat' first
    | with_reducible exact Keeps.refl _ _
    | with_reducible refine (delDir_keeps (hm := by decide)) ?_
    | with_reducible refine (setDir_keeps (hm := by decide)) ?_
    | with_reducible refine (cohRsp_keeps (hm := by decide)) ?_
    | with_reducible refine keeps_if (fun _ => ?_) (fun _ => ?_)
    | dsimp only
    | split

theorem finishInv_keeps {d : Die} {line : Nat} {e : DirEntry} {t : Txn} {s : State} (hm : Sub 0xd80000000000800000000000000000000000840020000002d81600000000 km) (hk :
    Keeps km kz s) : Keeps km kz (finishInv d line e t s) := by
  refine Keeps.lift hm ?_ hk
  unfold finishInv
  repeat' first
    | with_reducible exact Keeps.refl _ _
    | with_reducible refine (delDir_keeps (hm := by decide)) ?_
    | with_reducible refine (refuse_keeps (hm := by decide)) ?_
    | with_reducible refine (grantM_keeps (hm := by decide)) ?_
    | with_reducible refine keeps_if (fun _ => ?_) (fun _ => ?_)
    | split

theorem enterAb_keeps {d : Die} {line : Nat} {e : DirEntry} {t : Txn} {reason : Nat} {s : State} (hm : Sub 0x10000000000000000d80000000001800000000000000000000063860020000002d81600000000 km) (hk :
    Keeps km kz s) : Keeps km kz (enterAb d line e t reason s) := by
  refine Keeps.lift hm ?_ hk
  unfold enterAb
  repeat' first
    | with_reducible exact Keeps.refl _ _
    | with_reducible refine (delDir_keeps (hm := by first | decide | (simp only [StReg.mask]; decide))) ?_
    | with_reducible refine (poisonLine_keeps (hm := by first | decide | (simp only [StReg.mask]; decide))) ?_
    | with_reducible refine (setStatus_keeps (hm := by first | decide | (simp only [StReg.mask]; decide))) ?_
    | with_reducible refine (setDir_keeps (hm := by first | decide | (simp only [StReg.mask]; decide))) ?_
    | with_reducible refine (cohRsp_keeps (hm := by first | decide | (simp only [StReg.mask]; decide))) ?_
    | with_reducible refine (sendCoh_keeps (hm := by first | decide | (simp only [StReg.mask]; decide))) ?_
    | with_reducible refine keeps_if (fun _ => ?_) (fun _ => ?_)
    | dsimp only
    | split

end Machine
end Sys2Proof
end

