-- ==== Sys2Proof/Laws/FrameCodec.lean ====
section
/-! SUPPORT. Frames of the functions of Machine/Codec.lean: the parts of the state that each may change, as a mask (Laws/Keeps.lean). -/

namespace Sys2Proof
namespace Machine
set_option linter.unusedTactic false
set_option linter.unreachableTactic false
set_option linter.tactic.unusedName false
variable {km : Nat} {kz : State}

theorem decodeAt_keeps {d : Die} {declared lftSlot : Option Nat} {b : Bytes} {s : State} (hm : Sub 0x1b80000000000000000000000000000000000000000000000 km) (hk :
    Keeps km kz s) : Keeps km kz (decodeAt d declared lftSlot b s).2 := by
  refine Keeps.lift hm ?_ hk
  clear hk
  unfold decodeAt
  extract_lets late s1
  clear_value late
  have h1 : Keeps 0x1b80000000000000000000000000000000000000000000000 s s1 := keeps_if (fun _ => (setStatus_keeps (by simp only [StReg.mask]; decide)) (Keeps.refl _ _)) (fun _ => Keeps.refl _ _)
  clear_value s1
  split
  · refine (set_cmp_keeps ?_) h1
    constructor <;> first | exact .inl (by decide) | exact .inr rfl
  · exact (setStatus_keeps (by simp only [StReg.mask]; decide)) h1

theorem decodeAt_of_eq {d : Die} {declared lftSlot : Option Nat} {b : Bytes} {s : State}{v0} {v1 : State} (heq : decodeAt d declared lftSlot b s = (v0, v1)) (hm : Sub 0x1b80000000000000000000000000000000000000000000000 km) (hk :
    Keeps km kz s) : Keeps km kz v1 := by
  have h := decodeAt_keeps (kz := kz) (s := s) hm hk (d := d) (declared := declared) (lftSlot := lftSlot) (b := b)
  rw [heq] at h
  exact h

end Machine
end Sys2Proof
end

