-- ==== Sys2Proof/Laws/FrameHome.lean ====
section
/-! SUPPORT. Frames of the functions of Machine/Home.lean: the parts of the state that each may change, as a mask (Laws/Keeps.lean). -/

namespace Sys2Proof
namespace Machine
set_option linter.unusedTactic false
set_option linter.unreachableTactic false
set_option linter.tactic.unusedName false
variable {km : Nat} {kz : State}

theorem noTracker_keeps {d : Die} {f : Frame} {s : State} (hm : Sub 0x800000000000000000000000040820000002d81600000000 km) (hk :
    Keeps km kz s) : Keeps km kz (noTracker d f s) := by
  refine Keeps.lift hm ?_ hk
  unfold noTracker
  repeat' first
    | with_reducible exact Keeps.refl _ _
    | with_reducible refine (modHome_keeps ?_) ?_
    | with_reducible refine (refuse_keeps (hm := by decide)) ?_
    | with_reducible refine (countWait_keeps (hm := by decide)) ?_
    | dsimp only
    | (constructor <;> first | exact .inl (by decide) | exact .inr rfl)

theorem winStatus_keeps {d : Die} {f : Frame} {st : BitVec 5} {s : State} (hm : Sub 0x1800000000000000000000000020000000000000000000000 km) (hk :
    Keeps km kz s) : Keeps km kz (winStatus d f st s) := by
  refine Keeps.lift hm ?_ hk
  unfold winStatus
  repeat' first
    | with_reducible exact Keeps.refl _ _
    | with_reducible refine (setStatus_keeps (hm := by first | decide | (simp only [StReg.mask]; decide))) ?_
    | with_reducible refine keeps_elim ?_ (fun _ => ?_)
    | with_reducible refine keeps_if (fun _ => ?_) (fun _ => ?_)
    | dsimp only
    | split

theorem winEnter_keeps {d : Die} {f : Frame} {old : Bytes} {s : State} (hm : Sub 0x1000000000000000000000 km) (hk :
    Keeps km kz s) : Keeps km kz (winEnter d f old s) := by
  refine Keeps.lift hm ?_ hk
  unfold winEnter
  repeat' first
    | with_reducible exact Keeps.refl _ _
    | with_reducible refine (modHome_keeps ?_) ?_
    | dsimp only
    | (constructor <;> first | exact .inl (by decide) | exact .inr rfl)

theorem noteDirty_keeps {d : Die} {id g : Nat} {s : State} (hm : Sub 0x800000000000000000000000000000000000100000000000000000000000000000 km) (hk :
    Keeps km kz s) : Keeps km kz (noteDirty d id g s) := by
  refine Keeps.lift hm ?_ hk
  unfold noteDirty
  repeat' first
    | with_reducible exact Keeps.refl _ _
    | with_reducible refine (modFlt_keeps ?_) ?_
    | with_reducible refine (modTier_keeps ?_) ?_
    | with_reducible refine keeps_if (fun _ => ?_) (fun _ => ?_)
    | dsimp only
    | split
    | (constructor <;> first | exact .inl (by decide) | exact .inr rfl)
    | (simp only [id, Keeps.refl]; done)

theorem noteWrite_keeps {d : Die} {a n : Nat} {s : State} (hm : Sub 0x800000000000000000000000000000000180140000000000000000000000000000 km) (hk :
    Keeps km kz s) : Keeps km kz (noteWrite d a n s) := by
  refine Keeps.lift hm ?_ hk
  unfold noteWrite
  repeat' first
    | with_reducible exact Keeps.refl _ _
    | with_reducible refine (ccTouch_keeps (hm := by decide)) ?_
    | with_reducible refine (noteDirty_keeps (hm := by decide)) ?_
    | with_reducible refine (stageWrite_keeps (hm := by decide)) ?_
    | with_reducible refine keeps_if (fun _ => ?_) (fun _ => ?_)
    | dsimp only
    | split
    | (simp only [Prod.ext_iff] at *; casesm* _ ∧ _; subst_vars)
    | (simp only [id, Keeps.refl]; done)

theorem storeAt_keeps {d : Die} {a : Nat} {b : Bytes} {s : State} (hm : Sub 0x18000000000800000000000000000000000000000000180140000000000000000000000000000 km) (hk :
    Keeps km kz s) : Keeps km kz (storeAt d a b s) := by
  refine Keeps.lift hm ?_ hk
  unfold storeAt
  repeat' first
    | with_reducible exact Keeps.refl _ _
    | with_reducible refine (noteWrite_keeps (hm := by decide)) ?_
    | with_reducible refine (clearPoison_keeps (hm := by decide)) ?_
    | with_reducible refine (writeMem_keeps (hm := by decide)) ?_

theorem readPoison_keeps {d : Die} {s : State} (hm : Sub 0x1800000000000000000000000020000000000000000000000 km) (hk :
    Keeps km kz s) : Keeps km kz (readPoison d s) := by
  refine Keeps.lift hm ?_ hk
  unfold readPoison
  repeat' first
    | with_reducible exact Keeps.refl _ _
    | with_reducible refine (setStatus_keeps (hm := by first | decide | (simp only [StReg.mask]; decide))) ?_

theorem memEffect_keeps {d : Die} {f : Frame} {s : State} (hm : Sub 0x18000000000800000000000000001b80000000000000180140000021000000000000000000000 km) (hk :
    Keeps km kz s) : Keeps km kz (memEffect d f s).2.2 := by
  refine Keeps.lift hm ?_ hk
  unfold memEffect
  repeat' first
    | with_reducible exact Keeps.refl _ _
    | with_reducible refine (readPoison_keeps (hm := by decide)) ?_
    | with_reducible refine (decodeAt_keeps (hm := by decide)) ?_
    | with_reducible refine (decodeAt_of_eq (heq := by assumption) (hm := by decide)) ?_
    | with_reducible refine (storeAt_keeps (hm := by decide)) ?_
    | with_reducible refine (winStatus_keeps (hm := by decide)) ?_
    | with_reducible refine (winEnter_keeps (hm := by decide)) ?_
    | with_reducible refine keeps_if (fun _ => ?_) (fun _ => ?_)
    | with_reducible refine keeps_if_snd (fun _ => ?_) (fun _ => ?_)
    | with_reducible refine keeps_if_third (fun _ => ?_) (fun _ => ?_)
    | dsimp only
    | split
    | (simp only [Prod.ext_iff] at *; casesm* _ ∧ _; subst_vars)

theorem memEffect_of_eq {d : Die} {f : Frame} {s : State}{v0 v1} {v2 : State} (heq : memEffect d f s = (v0, v1, v2)) (hm : Sub 0x18000000000800000000000000001b80000000000000180140000021000000000000000000000 km) (hk :
    Keeps km kz s) : Keeps km kz v2 := by
  have h := memEffect_keeps (kz := kz) (s := s) hm hk (d := d) (f := f)
  rw [heq] at h
  exact h

theorem memAnswer_keeps {d : Die} {f : Frame} {st : BitVec 5} {p : Bytes} {s : State} (hm : Sub 0xd80000000000800000000000000000000000040020000002d81600000000 km) (hk :
    Keeps km kz s) : Keeps km kz (memAnswer d f st p s) := by
  refine Keeps.lift hm ?_ hk
  unfold memAnswer
  repeat' first
    | with_reducible exact Keeps.refl _ _
    | with_reducible refine (sendFrom_keeps (hm := by decide)) ?_
    | with_reducible refine (tapBytes_keeps (hm := by decide)) ?_
    | with_reducible refine (answer_keeps (hm := by decide)) ?_
    | with_reducible refine keeps_if (fun _ => ?_) (fun _ => ?_)
    | split
    | (simp only [Prod.ext_iff] at *; casesm* _ ∧ _; subst_vars)

theorem linesWait_keeps {d : Die} {ctx : BitVec 12} {load : Bool} {lines : List Nat} {s : State} (hm : Sub 0x1800000000000000000000067840020000002d81600000000 km) (hk :
    Keeps km kz s) : Keeps km kz (linesWait d ctx load lines s).2 := by
  refine Keeps.lift hm ?_ hk
  clear hk
  induction lines generalizing s with
  | nil => exact Keeps.refl _ _
  | cons l r ih =>
    unfold linesWait
    split
    · exact ih
    · refine keeps_if_snd (fun _ => ih) (fun _ => ?_)
      refine keeps_if_snd (fun _ => Keeps.refl _ _) (fun _ => ?_)
      refine keeps_if_snd (fun _ => (startRecall_keeps (by decide)) (Keeps.refl _ _)) (fun _ => ?_)
      exact Keeps.trans ((startRecall_keeps (by decide)) (Keeps.refl _ _)) ih

theorem linesWait_of_eq {d : Die} {ctx : BitVec 12} {load : Bool} {lines : List Nat} {s : State}{v0} {v1 : State} (heq : linesWait d ctx load lines s = (v0, v1)) (hm : Sub 0x1800000000000000000000067840020000002d81600000000 km) (hk :
    Keeps km kz s) : Keeps km kz v1 := by
  have h := linesWait_keeps (kz := kz) (s := s) hm hk (d := d) (ctx := ctx) (load := load) (lines := lines)
  rw [heq] at h
  exact h

theorem loadT1_keeps {d : Die} {group granule : Nat} {f : Frame} {s : State} (hm : Sub 0x800000000000000000c00000040060000002d81600000000 km) (hk :
    Keeps km kz s) : Keeps km kz (loadT1 d group granule f s) := by
  refine Keeps.lift hm ?_ hk
  unfold loadT1
  repeat' first
    | with_reducible exact Keeps.refl _ _
    | with_reducible refine (askTray_keeps (hm := by decide)) ?_
    | with_reducible refine keeps_if (fun _ => ?_) (fun _ => ?_)
    | dsimp only
    | split
    | (simp only [Prod.ext_iff] at *; casesm* _ ∧ _; subst_vars)

theorem tryAll_keeps {d : Die} {fs : List Frame} {s : State} (hm : Sub 0x18000000000800000000000000001b80000000000000180140000021000000000000000000000 km) (hk :
    Keeps km kz s) : Keeps km kz (tryAll d fs s).2 := by
  refine Keeps.lift hm ?_ hk
  unfold tryAll
  repeat' first
    | with_reducible exact Keeps.refl _ _
    | with_reducible refine (memEffect_keeps (hm := by decide)) ?_
    | with_reducible refine (memEffect_of_eq (heq := by assumption) (hm := by decide)) ?_
    | with_reducible refine (keeps_foldl_snd (fun _ _ => ?_)) ?_
    | with_reducible refine (keeps_foldl_fst (fun _ _ => ?_)) ?_
    | with_reducible refine (keeps_foldl_third (fun _ _ => ?_)) ?_
    | with_reducible refine (keeps_foldl_mid (fun _ _ => ?_)) ?_
    | with_reducible refine (keeps_foldl (fun _ _ => ?_)) ?_
    | with_reducible refine keeps_if (fun _ => ?_) (fun _ => ?_)
    | with_reducible refine keeps_if_snd (fun _ => ?_) (fun _ => ?_)
    | with_reducible refine keeps_if_third (fun _ => ?_) (fun _ => ?_)
    | dsimp only
    | split
    | (simp only [Prod.ext_iff] at *; casesm* _ ∧ _; subst_vars)

theorem tryAll_of_eq {d : Die} {fs : List Frame} {s : State}{v0} {v1 : State} (heq : tryAll d fs s = (v0, v1)) (hm : Sub 0x18000000000800000000000000001b80000000000000180140000021000000000000000000000 km) (hk :
    Keeps km kz s) : Keeps km kz v1 := by
  have h := tryAll_keeps (kz := kz) (s := s) hm hk (d := d) (fs := fs)
  rw [heq] at h
  exact h

theorem storeT1_keeps {d : Die} {group granule : Nat} {f : Frame} {more : List Frame} {s : State} (hm : Sub 0x18000000000800000000000000001b80000000000000180d40000061060000002d81600000000 km) (hk :
    Keeps km kz s) : Keeps km kz (storeT1 d group granule f more s) := by
  refine Keeps.lift hm ?_ hk
  unfold storeT1
  repeat' first
    | with_reducible exact Keeps.refl _ _
    | with_reducible refine (askTray_keeps (hm := by decide)) ?_
    | with_reducible refine (tryAll_keeps (hm := by decide)) ?_
    | with_reducible refine (tryAll_of_eq (heq := by assumption) (hm := by decide)) ?_
    | with_reducible refine keeps_if (fun _ => ?_) (fun _ => ?_)
    | with_reducible refine keeps_if_snd (fun _ => ?_) (fun _ => ?_)
    | dsimp only
    | split
    | (simp only [Prod.ext_iff] at *; casesm* _ ∧ _; subst_vars)

theorem memWait_keeps {d : Die} {f : Frame} {more : List Frame} {order : Nat} {have_ : Bool} {s : State} (hm : Sub 0x18000000000800000000000000001b80000040000008180d40067861060000002d81600000000 km) (hk :
    Keeps km kz s) : Keeps km kz (memWait d f more order have_ s).2 := by
  refine Keeps.lift hm ?_ hk
  unfold memWait
  repeat' first
    | with_reducible exact Keeps.refl _ _
    | with_reducible refine (linesWait_keeps (hm := by first | decide | (simp only [StReg.mask]; decide))) ?_
    | with_reducible refine (linesWait_of_eq (heq := by assumption) (hm := by first | decide | (simp only [StReg.mask]; decide))) ?_
    | with_reducible refine (ccReady_keeps (hm := by first | decide | (simp only [StReg.mask]; decide))) ?_
    | with_reducible refine (ccReady_of_eq (heq := by assumption) (hm := by first | decide | (simp only [StReg.mask]; decide))) ?_
    | with_reducible refine (loadT1_keeps (hm := by first | decide | (simp only [StReg.mask]; decide))) ?_
    | with_reducible refine (storeT1_keeps (hm := by first | decide | (simp only [StReg.mask]; decide))) ?_
    | with_reducible refine (setStatus_keeps (hm := by first | decide | (simp only [StReg.mask]; decide))) ?_
    | with_reducible refine (mapReady_keeps (hm := by first | decide | (simp only [StReg.mask]; decide))) ?_
    | with_reducible refine (mapReady_of_eq (heq := by assumption) (hm := by first | decide | (simp only [StReg.mask]; decide))) ?_
    | with_reducible refine (startRead_keeps (hm := by first | decide | (simp only [StReg.mask]; decide))) ?_
    | with_reducible refine keeps_if (fun _ => ?_) (fun _ => ?_)
    | with_reducible refine keeps_if_snd (fun _ => ?_) (fun _ => ?_)
    | dsimp only
    | split
    | (simp only [Prod.ext_iff] at *; casesm* _ ∧ _; subst_vars)
    | (simp only [id, Keeps.refl]; done)

theorem memWait_of_eq {d : Die} {f : Frame} {more : List Frame} {order : Nat} {have_ : Bool} {s : State}{v0} {v1 : State} (heq : memWait d f more order have_ s = (v0, v1)) (hm : Sub 0x18000000000800000000000000001b80000040000008180d40067861060000002d81600000000 km) (hk :
    Keeps km kz s) : Keeps km kz v1 := by
  have h := memWait_keeps (kz := kz) (s := s) hm hk (d := d) (f := f) (more := more) (order := order) (have_ := have_)
  rw [heq] at h
  exact h

theorem dropWaiting_keeps {d : Die} {order : Nat} {s : State} (hm : Sub 0x200000000000000000000 km) (hk :
    Keeps km kz s) : Keeps km kz (dropWaiting d order s) := by
  refine Keeps.lift hm ?_ hk
  unfold dropWaiting
  repeat' first
    | with_reducible exact Keeps.refl _ _
    | with_reducible refine (modHome_keeps ?_) ?_
    | dsimp only
    | (constructor <;> first | exact .inl (by decide) | exact .inr rfl)

theorem setWaiting_keeps {d : Die} {order : Nat} {g : Waiting → Waiting} {s : State} (hm : Sub 0x200000000000000000000 km) (hk :
    Keeps km kz s) : Keeps km kz (setWaiting d order g s) := by
  refine Keeps.lift hm ?_ hk
  unfold setWaiting
  repeat' first
    | with_reducible exact Keeps.refl _ _
    | with_reducible refine (modHome_keeps ?_) ?_
    | with_reducible refine keeps_if (fun _ => ?_) (fun _ => ?_)
    | dsimp only
    | split
    | (constructor <;> first | exact .inl (by decide) | exact .inr rfl)

theorem enterHot_keeps {d : Die} {line : Nat} {s : State} (hm : Sub 0x1800000000000000000000000024000000000000000000000 km) (hk :
    Keeps km kz s) : Keeps km kz (enterHot d line s) := by
  refine Keeps.lift hm ?_ hk
  unfold enterHot
  repeat' first
    | with_reducible exact Keeps.refl _ _
    | with_reducible refine (modHome_keeps ?_) ?_
    | with_reducible refine (setStatus_keeps (hm := by first | decide | (simp only [StReg.mask]; decide))) ?_
    | with_reducible refine (keeps_foldl_snd (fun _ _ => ?_)) ?_
    | with_reducible refine (keeps_foldl_fst (fun _ _ => ?_)) ?_
    | with_reducible refine (keeps_foldl_third (fun _ _ => ?_)) ?_
    | with_reducible refine (keeps_foldl_mid (fun _ _ => ?_)) ?_
    | with_reducible refine (keeps_foldl (fun _ _ => ?_)) ?_
    | with_reducible refine keeps_if (fun _ => ?_) (fun _ => ?_)
    | dsimp only
    | split
    | (constructor <;> first | exact .inl (by decide) | exact .inr rfl)
    | (simp only [Prod.ext_iff] at *; casesm* _ ∧ _; subst_vars)

theorem noteHot_keeps {d : Die} {w : Waiting} {s : State} (hm : Sub 0x1800000000000000000000000024000000000000000000000 km) (hk :
    Keeps km kz s) : Keeps km kz (noteHot d w s) := by
  refine Keeps.lift hm ?_ hk
  unfold noteHot
  repeat' first
    | with_reducible exact Keeps.refl _ _
    | with_reducible refine (enterHot_keeps (hm := by decide)) ?_
    | with_reducible refine (keeps_foldl_snd (fun _ _ => ?_)) ?_
    | with_reducible refine (keeps_foldl_fst (fun _ _ => ?_)) ?_
    | with_reducible refine (keeps_foldl_third (fun _ _ => ?_)) ?_
    | with_reducible refine (keeps_foldl_mid (fun _ _ => ?_)) ?_
    | with_reducible refine (keeps_foldl (fun _ _ => ?_)) ?_
    | dsimp only
    | (simp only [Prod.ext_iff] at *; casesm* _ ∧ _; subst_vars)

theorem useHot_keeps {d : Die} {lines : List Nat} {s : State} (hm : Sub 0x4000000000000000000000 km) (hk :
    Keeps km kz s) : Keeps km kz (useHot d lines s) := by
  refine Keeps.lift hm ?_ hk
  unfold useHot
  repeat' first
    | with_reducible exact Keeps.refl _ _
    | with_reducible refine (modHome_keeps ?_) ?_
    | with_reducible refine keeps_if (fun _ => ?_) (fun _ => ?_)
    | dsimp only
    | split
    | (constructor <;> first | exact .inl (by decide) | exact .inr rfl)

theorem performAll_keeps {d : Die} {fs : List Frame} {s : State} (hm : Sub 0x18000000000800000d80000000001b80000000000000180140000061020000002d81600000000 km) (hk :
    Keeps km kz s) : Keeps km kz (performAll d fs s) := by
  refine Keeps.lift hm ?_ hk
  unfold performAll
  repeat' first
    | with_reducible exact Keeps.refl _ _
    | with_reducible refine (memEffect_keeps (hm := by decide)) ?_
    | with_reducible refine (memEffect_of_eq (heq := by assumption) (hm := by decide)) ?_
    | with_reducible refine (memAnswer_keeps (hm := by decide)) ?_
    | with_reducible refine (keeps_foldl_snd (fun _ _ => ?_)) ?_
    | with_reducible refine (keeps_foldl_fst (fun _ _ => ?_)) ?_
    | with_reducible refine (keeps_foldl_third (fun _ _ => ?_)) ?_
    | with_reducible refine (keeps_foldl_mid (fun _ _ => ?_)) ?_
    | with_reducible refine (keeps_foldl (fun _ _ => ?_)) ?_
    | with_reducible refine keeps_if (fun _ => ?_) (fun _ => ?_)
    | with_reducible refine keeps_if_third (fun _ => ?_) (fun _ => ?_)
    | dsimp only
    | split
    | (simp only [Prod.ext_iff] at *; casesm* _ ∧ _; subst_vars)

theorem writeT1_keeps {d : Die} {w : Waiting} {g gr : Nat} {s : State} (hm : Sub 0x18000000000800000d80000000001b80000000000000180d40000061260000002d81600000000 km) (hk :
    Keeps km kz s) : Keeps km kz (writeT1 d w g gr s) := by
  refine Keeps.lift hm ?_ hk
  unfold writeT1
  repeat' first
    | with_reducible exact Keeps.refl _ _
    | with_reducible refine (tryAll_keeps (hm := by decide)) ?_
    | with_reducible refine (tryAll_of_eq (heq := by assumption) (hm := by decide)) ?_
    | with_reducible refine (storeT1_keeps (hm := by decide)) ?_
    | with_reducible refine (setWaiting_keeps (hm := by decide)) ?_
    | with_reducible refine (performAll_keeps (hm := by decide)) ?_
    | with_reducible refine (dropWaiting_keeps (hm := by decide)) ?_
    | with_reducible refine keeps_if (fun _ => ?_) (fun _ => ?_)
    | with_reducible refine keeps_if_snd (fun _ => ?_) (fun _ => ?_)
    | dsimp only
    | split

theorem noteAccess_keeps {d : Die} {f : Frame} {order : Nat} {s : State} (hm : Sub 0x10040000000000000000000000000000 km) (hk :
    Keeps km kz s) : Keeps km kz (noteAccess d f order s) := by
  refine Keeps.lift hm ?_ hk
  unfold noteAccess
  repeat' first
    | with_reducible exact Keeps.refl _ _
    | with_reducible refine (modObj_keeps (hm := by decide)) ?_
    | with_reducible refine (ccTouch_keeps (hm := by decide)) ?_
    | with_reducible refine keeps_if (fun _ => ?_) (fun _ => ?_)
    | dsimp only
    | split
    | (simp only [Prod.ext_iff] at *; casesm* _ ∧ _; subst_vars)
    | (simp only [id, Keeps.refl]; done)

theorem performMedia_keeps {d : Die} {w : Waiting} {s : State} (hm : Sub 0x18000000000800000d80000000001b80000000000000180140000061220000002d81600000000 km) (hk :
    Keeps km kz s) : Keeps km kz (performMedia d w s) := by
  refine Keeps.lift hm ?_ hk
  unfold performMedia
  repeat' first
    | with_reducible exact Keeps.refl _ _
    | with_reducible refine (memEffect_keeps (hm := by decide)) ?_
    | with_reducible refine (memEffect_of_eq (heq := by assumption) (hm := by decide)) ?_
    | with_reducible refine (memAnswer_keeps (hm := by decide)) ?_
    | with_reducible refine (dropWaiting_keeps (hm := by decide)) ?_
    | with_reducible refine (setWaiting_keeps (hm := by decide)) ?_
    | with_reducible refine (keeps_foldl_snd (fun _ _ => ?_)) ?_
    | with_reducible refine (keeps_foldl_fst (fun _ _ => ?_)) ?_
    | with_reducible refine (keeps_foldl_third (fun _ _ => ?_)) ?_
    | with_reducible refine (keeps_foldl_mid (fun _ _ => ?_)) ?_
    | with_reducible refine (keeps_foldl (fun _ _ => ?_)) ?_
    | with_reducible refine keeps_if (fun _ => ?_) (fun _ => ?_)
    | with_reducible refine keeps_if_third (fun _ => ?_) (fun _ => ?_)
    | dsimp only
    | split
    | (simp only [Prod.ext_iff] at *; casesm* _ ∧ _; subst_vars)

theorem answerMedia_keeps {d : Die} {s : State} (hm : Sub 0xd80000000000800000000000000000000000040220000002d81600000000 km) (hk :
    Keeps km kz s) : Keeps km kz (answerMedia d s) := by
  refine Keeps.lift hm ?_ hk
  unfold answerMedia
  repeat' first
    | with_reducible exact Keeps.refl _ _
    | with_reducible refine (memAnswer_keeps (hm := by decide)) ?_
    | with_reducible refine (dropWaiting_keeps (hm := by decide)) ?_
    | with_reducible refine (keeps_foldl_snd (fun _ _ => ?_)) ?_
    | with_reducible refine (keeps_foldl_fst (fun _ _ => ?_)) ?_
    | with_reducible refine (keeps_foldl_third (fun _ _ => ?_)) ?_
    | with_reducible refine (keeps_foldl_mid (fun _ _ => ?_)) ?_
    | with_reducible refine (keeps_foldl (fun _ _ => ?_)) ?_
    | with_reducible refine keeps_elim ?_ (fun _ => ?_)
    | dsimp only
    | (simp only [Prod.ext_iff] at *; casesm* _ ∧ _; subst_vars)

theorem serveMem_keeps {d : Die} {w : Waiting} {have_ : Bool} {s : State} (hm : Sub 0x18000000000800000d80000000001b80000040000008190d40067865260000002d81600000000 km) (hk :
    Keeps km kz s) : Keeps km kz (serveMem d w have_ s) := by
  refine Keeps.lift hm ?_ hk
  unfold serveMem
  repeat' first
    | with_reducible exact Keeps.refl _ _
    | with_reducible refine (refuse_keeps (hm := by decide)) ?_
    | with_reducible refine (dropWaiting_keeps (hm := by decide)) ?_
    | with_reducible refine (memWait_keeps (hm := by decide)) ?_
    | with_reducible refine (memWait_of_eq (heq := by assumption) (hm := by decide)) ?_
    | with_reducible refine (noteHot_keeps (hm := by decide)) ?_
    | with_reducible refine (setWaiting_keeps (hm := by decide)) ?_
    | with_reducible refine (writeT1_keeps (hm := by decide)) ?_
    | with_reducible refine (performMedia_keeps (hm := by decide)) ?_
    | with_reducible refine (noteAccess_keeps (hm := by decide)) ?_
    | with_reducible refine (performAll_keeps (hm := by decide)) ?_
    | with_reducible refine (keeps_foldl_snd (fun _ _ => ?_)) ?_
    | with_reducible refine (keeps_foldl_fst (fun _ _ => ?_)) ?_
    | with_reducible refine (keeps_foldl_third (fun _ _ => ?_)) ?_
    | with_reducible refine (keeps_foldl_mid (fun _ _ => ?_)) ?_
    | with_reducible refine (keeps_foldl (fun _ _ => ?_)) ?_
    | with_reducible refine keeps_if (fun _ => ?_) (fun _ => ?_)
    | with_reducible refine keeps_if_snd (fun _ => ?_) (fun _ => ?_)
    | dsimp only
    | split
    | (simp only [Prod.ext_iff] at *; casesm* _ ∧ _; subst_vars)

theorem lineReady_keeps {d : Die} {line : Nat} {s : State} (hm : Sub 0x800000000000000000c40000040060000002d81600000000 km) (hk :
    Keeps km kz s) : Keeps km kz (lineReady d line s).2 := by
  refine Keeps.lift hm ?_ hk
  unfold lineReady
  repeat' first
    | with_reducible exact Keeps.refl _ _
    | with_reducible refine (ccReady_keeps (hm := by decide)) ?_
    | with_reducible refine (ccReady_of_eq (heq := by assumption) (hm := by decide)) ?_
    | with_reducible refine keeps_if (fun _ => ?_) (fun _ => ?_)
    | with_reducible refine keeps_if_snd (fun _ => ?_) (fun _ => ?_)
    | dsimp only
    | split
    | (simp only [Prod.ext_iff] at *; casesm* _ ∧ _; subst_vars)

theorem lineReady_of_eq {d : Die} {line : Nat} {s : State}{v0} {v1 : State} (heq : lineReady d line s = (v0, v1)) (hm : Sub 0x800000000000000000c40000040060000002d81600000000 km) (hk :
    Keeps km kz s) : Keeps km kz v1 := by
  have h := lineReady_keeps (kz := kz) (s := s) hm hk (d := d) (line := line)
  rw [heq] at h
  exact h

theorem giveLine_keeps {d : Die} {line : Nat} {f : Frame} {opc : Byte} {e : DirEntry} {s : State} (hm : Sub 0xd80000000000800000000000000000c40000840060000002d81600000000 km) (hk :
    Keeps km kz s) : Keeps km kz (giveLine d line f opc e s).2 := by
  refine Keeps.lift hm ?_ hk
  unfold giveLine
  repeat' first
    | with_reducible exact Keeps.refl _ _
    | with_reducible refine (lineReady_keeps (hm := by decide)) ?_
    | with_reducible refine (lineReady_of_eq (heq := by assumption) (hm := by decide)) ?_
    | with_reducible refine (cohRsp_keeps (hm := by decide)) ?_
    | with_reducible refine (setDir_keeps (hm := by decide)) ?_
    | with_reducible refine keeps_if (fun _ => ?_) (fun _ => ?_)
    | with_reducible refine keeps_if_snd (fun _ => ?_) (fun _ => ?_)
    | dsimp only
    | split
    | (simp only [Prod.ext_iff] at *; casesm* _ ∧ _; subst_vars)

theorem giveLine_of_eq {d : Die} {line : Nat} {f : Frame} {opc : Byte} {e : DirEntry} {s : State}{v0} {v1 : State} (heq : giveLine d line f opc e s = (v0, v1)) (hm : Sub 0xd80000000000800000000000000000c40000840060000002d81600000000 km) (hk :
    Keeps km kz s) : Keeps km kz v1 := by
  have h := giveLine_keeps (kz := kz) (s := s) hm hk (d := d) (line := line) (f := f) (opc := opc) (e := e)
  rw [heq] at h
  exact h

theorem startTxn_keeps {d : Die} {line : Nat} {e : DirEntry} {st : LineSt} {kind : TxnKind} {f : Frame} {awaited : List Nat} {owner : Option Nat} {s : State} (hm : Sub 0x4800000000000000000000000 km) (hk :
    Keeps km kz s) : Keeps km kz (startTxn d line e st kind f awaited owner s).2 := by
  refine Keeps.lift hm ?_ hk
  unfold startTxn
  repeat' first
    | with_reducible exact Keeps.refl _ _
    | with_reducible refine (nextTxn_keeps (hm := by decide)) ?_
    | with_reducible refine (nextTxn_of_eq (heq := by assumption) (hm := by decide)) ?_
    | with_reducible refine (setDir_keeps (hm := by decide)) ?_
    | with_reducible refine keeps_if (fun _ => ?_) (fun _ => ?_)
    | with_reducible refine keeps_if_snd (fun _ => ?_) (fun _ => ?_)
    | dsimp only
    | split
    | (simp only [Prod.ext_iff] at *; casesm* _ ∧ _; subst_vars)

theorem startTxn_of_eq {d : Die} {line : Nat} {e : DirEntry} {st : LineSt} {kind : TxnKind} {f : Frame} {awaited : List Nat} {owner : Option Nat} {s : State}{v0} {v1 : State} (heq : startTxn d line e st kind f awaited owner s = (v0, v1)) (hm : Sub 0x4800000000000000000000000 km) (hk :
    Keeps km kz s) : Keeps km kz v1 := by
  have h := startTxn_keeps (kz := kz) (s := s) hm hk (d := d) (line := line) (e := e) (st := st) (kind := kind) (f := f) (awaited := awaited) (owner := owner)
  rw [heq] at h
  exact h

theorem invalidate_keeps {d : Die} {line : Nat} {e : DirEntry} {f : Frame} {grant : Bool} {targets : List Nat} {s : State} (hm : Sub 0xd80000000000800000000000000000c40047840060000002d81600000000 km) (hk :
    Keeps km kz s) : Keeps km kz (invalidate d line e f grant targets s).2 := by
  refine Keeps.lift hm ?_ hk
  unfold invalidate
  repeat' first
    | with_reducible exact Keeps.refl _ _
    | with_reducible refine (lineReady_keeps (hm := by decide)) ?_
    | with_reducible refine (lineReady_of_eq (heq := by assumption) (hm := by decide)) ?_
    | with_reducible refine (cohRsp_keeps (hm := by decide)) ?_
    | with_reducible refine (setDir_keeps (hm := by decide)) ?_
    | with_reducible refine (startTxn_keeps (hm := by decide)) ?_
    | with_reducible refine (startTxn_of_eq (heq := by assumption) (hm := by decide)) ?_
    | with_reducible refine (sendCohAll_keeps (hm := by decide)) ?_
    | with_reducible refine keeps_if (fun _ => ?_) (fun _ => ?_)
    | with_reducible refine keeps_if_snd (fun _ => ?_) (fun _ => ?_)
    | dsimp only
    | split
    | (simp only [Prod.ext_iff] at *; casesm* _ ∧ _; subst_vars)

theorem invalidate_of_eq {d : Die} {line : Nat} {e : DirEntry} {f : Frame} {grant : Bool} {targets : List Nat} {s : State}{v0} {v1 : State} (heq : invalidate d line e f grant targets s = (v0, v1)) (hm : Sub 0xd80000000000800000000000000000c40047840060000002d81600000000 km) (hk :
    Keeps km kz s) : Keeps km kz v1 := by
  have h := invalidate_keeps (kz := kz) (s := s) hm hk (d := d) (line := line) (e := e) (f := f) (grant := grant) (targets := targets)
  rw [heq] at h
  exact h

theorem cohServe_keeps {d : Die} {line dom i order : Nat} {f : Frame} {s : State} (hm : Sub 0xd80000000001800000000000000000c40067840060000002d81600000000 km) (hk :
    Keeps km kz s) : Keeps km kz (cohServe d line dom i order f s).2 := by
  refine Keeps.lift hm ?_ hk
  unfold cohServe
  repeat' first
    | with_reducible exact Keeps.refl _ _
    | with_reducible refine (lineReady_keeps (hm := by first | decide | (simp only [StReg.mask]; decide))) ?_
    | with_reducible refine (lineReady_of_eq (heq := by assumption) (hm := by first | decide | (simp only [StReg.mask]; decide))) ?_
    | with_reducible refine (dirRoom_keeps (hm := by first | decide | (simp only [StReg.mask]; decide))) ?_
    | with_reducible refine (dirRoom_of_eq (heq := by assumption) (hm := by first | decide | (simp only [StReg.mask]; decide))) ?_
    | with_reducible refine (giveLine_keeps (hm := by first | decide | (simp only [StReg.mask]; decide))) ?_
    | with_reducible refine (giveLine_of_eq (heq := by assumption) (hm := by first | decide | (simp only [StReg.mask]; decide))) ?_
    | with_reducible refine (setStatus_keeps (hm := by first | decide | (simp only [StReg.mask]; decide))) ?_
    | with_reducible refine (invalidate_keeps (hm := by first | decide | (simp only [StReg.mask]; decide))) ?_
    | with_reducible refine (invalidate_of_eq (heq := by assumption) (hm := by first | decide | (simp only [StReg.mask]; decide))) ?_
    | with_reducible refine (refuse_keeps (hm := by first | decide | (simp only [StReg.mask]; decide))) ?_
    | with_reducible refine (startTxn_keeps (hm := by first | decide | (simp only [StReg.mask]; decide))) ?_
    | with_reducible refine (startTxn_of_eq (heq := by assumption) (hm := by first | decide | (simp only [StReg.mask]; decide))) ?_
    | with_reducible refine (sendCoh_keeps (hm := by first | decide | (simp only [StReg.mask]; decide))) ?_
    | with_reducible refine keeps_if (fun _ => ?_) (fun _ => ?_)
    | with_reducible refine keeps_if_snd (fun _ => ?_) (fun _ => ?_)
    | dsimp only
    | split
    | (simp only [Prod.ext_iff] at *; casesm* _ ∧ _; subst_vars)

theorem cohServe_of_eq {d : Die} {line dom i order : Nat} {f : Frame} {s : State}{v0} {v1 : State} (heq : cohServe d line dom i order f s = (v0, v1)) (hm : Sub 0xd80000000001800000000000000000c40067840060000002d81600000000 km) (hk :
    Keeps km kz s) : Keeps km kz v1 := by
  have h := cohServe_keeps (kz := kz) (s := s) hm hk (d := d) (line := line) (dom := dom) (i := i) (order := order) (f := f)
  rw [heq] at h
  exact h

theorem cohRelease_keeps {d : Die} {line : Nat} {f : Frame} {s : State} (hm : Sub 0x8000000000000000d80000000001800000000000000000c40020840060000002d81600000000 km) (hk :
    Keeps km kz s) : Keeps km kz (cohRelease d line f s).2 := by
  refine Keeps.lift hm ?_ hk
  unfold cohRelease
  repeat' first
    | with_reducible exact Keeps.refl _ _
    | with_reducible refine (cohRsp_keeps (hm := by first | decide | (simp only [StReg.mask]; decide))) ?_
    | with_reducible refine (delDir_keeps (hm := by first | decide | (simp only [StReg.mask]; decide))) ?_
    | with_reducible refine (setDir_keeps (hm := by first | decide | (simp only [StReg.mask]; decide))) ?_
    | with_reducible refine (lineRoom_keeps (hm := by first | decide | (simp only [StReg.mask]; decide))) ?_
    | with_reducible refine (lineRoom_of_eq (heq := by assumption) (hm := by first | decide | (simp only [StReg.mask]; decide))) ?_
    | with_reducible refine (writeLine_keeps (hm := by first | decide | (simp only [StReg.mask]; decide))) ?_
    | with_reducible refine (setStatus_keeps (hm := by first | decide | (simp only [StReg.mask]; decide))) ?_
    | with_reducible refine (refuse_keeps (hm := by first | decide | (simp only [StReg.mask]; decide))) ?_
    | with_reducible refine keeps_if (fun _ => ?_) (fun _ => ?_)
    | with_reducible refine keeps_if_snd (fun _ => ?_) (fun _ => ?_)
    | dsimp only
    | split
    | (simp only [Prod.ext_iff] at *; casesm* _ ∧ _; subst_vars)

theorem cohRelease_of_eq {d : Die} {line : Nat} {f : Frame} {s : State}{v0} {v1 : State} (heq : cohRelease d line f s = (v0, v1)) (hm : Sub 0x8000000000000000d80000000001800000000000000000c40020840060000002d81600000000 km) (hk :
    Keeps km kz s) : Keeps km kz v1 := by
  have h := cohRelease_keeps (kz := kz) (s := s) hm hk (d := d) (line := line) (f := f)
  rw [heq] at h
  exact h

theorem serveCoh_keeps {d : Die} {w : Waiting} {s : State} (hm : Sub 0x8000000000000000d80000000001800000000000000000c40067864260000002d81600000000 km) (hk :
    Keeps km kz s) : Keeps km kz (serveCoh d w s) := by
  refine Keeps.lift hm ?_ hk
  unfold serveCoh
  repeat' first
    | with_reducible exact Keeps.refl _ _
    | with_reducible refine (cohRelease_keeps (hm := by decide)) ?_
    | with_reducible refine (cohRelease_of_eq (heq := by assumption) (hm := by decide)) ?_
    | with_reducible refine (readPoison_keeps (hm := by decide)) ?_
    | with_reducible refine (refuse_keeps (hm := by decide)) ?_
    | with_reducible refine (cohServe_keeps (hm := by decide)) ?_
    | with_reducible refine (cohServe_of_eq (heq := by assumption) (hm := by decide)) ?_
    | with_reducible refine (noteHot_keeps (hm := by decide)) ?_
    | with_reducible refine (setWaiting_keeps (hm := by decide)) ?_
    | with_reducible refine (dropWaiting_keeps (hm := by decide)) ?_
    | with_reducible refine keeps_elim ?_ (fun _ => ?_)
    | with_reducible refine keeps_if (fun _ => ?_) (fun _ => ?_)
    | with_reducible refine keeps_if_snd (fun _ => ?_) (fun _ => ?_)
    | dsimp only
    | split
    | (simp only [Prod.ext_iff] at *; casesm* _ ∧ _; subst_vars)

theorem serve_keeps {d : Die} {order : Nat} {have_ : Bool} {s : State} (hm : Sub 0x18000000000800000d80000000001b80000040000008190d40067865260000002d81600000000 km) (hk :
    Keeps km kz s) : Keeps km kz (serve d order have_ s) := by
  refine Keeps.lift hm ?_ hk
  unfold serve
  repeat' first
    | with_reducible exact Keeps.refl _ _
    | with_reducible refine (serveCoh_keeps (hm := by decide)) ?_
    | with_reducible refine (serveMem_keeps (hm := by decide)) ?_
    | with_reducible refine keeps_if (fun _ => ?_) (fun _ => ?_)
    | split

theorem settleBehind_keeps {d : Die} {s : State} (hm : Sub 0x18000000000800000d80000000001b80000040000008190d40067865260000002d81600000000 km) (hk :
    Keeps km kz s) : Keeps km kz (settleBehind d s) := by
  refine Keeps.lift hm ?_ hk
  unfold settleBehind
  repeat' first
    | with_reducible exact Keeps.refl _ _
    | with_reducible refine (serve_keeps (hm := by decide)) ?_
    | with_reducible refine (keeps_foldl_snd (fun _ _ => ?_)) ?_
    | with_reducible refine (keeps_foldl_fst (fun _ _ => ?_)) ?_
    | with_reducible refine (keeps_foldl_third (fun _ _ => ?_)) ?_
    | with_reducible refine (keeps_foldl_mid (fun _ _ => ?_)) ?_
    | with_reducible refine (keeps_foldl (fun _ _ => ?_)) ?_
    | with_reducible refine keeps_if (fun _ => ?_) (fun _ => ?_)
    | dsimp only
    | split
    | (simp only [Prod.ext_iff] at *; casesm* _ ∧ _; subst_vars)

theorem resume_keeps {d : Die} {p : Waiting → Bool} {have_ : Bool} {s : State} (hm : Sub 0x18000000000800000d80000000001b80000040000008190d40067865260000002d81600000000 km) (hk :
    Keeps km kz s) : Keeps km kz (resume d p have_ s) := by
  refine Keeps.lift hm ?_ hk
  unfold resume
  repeat' first
    | with_reducible exact Keeps.refl _ _
    | with_reducible refine (settleBehind_keeps (hm := by decide)) ?_
    | with_reducible refine (serve_keeps (hm := by decide)) ?_
    | with_reducible refine (keeps_foldl_snd (fun _ _ => ?_)) ?_
    | with_reducible refine (keeps_foldl_fst (fun _ _ => ?_)) ?_
    | with_reducible refine (keeps_foldl_third (fun _ _ => ?_)) ?_
    | with_reducible refine (keeps_foldl_mid (fun _ _ => ?_)) ?_
    | with_reducible refine (keeps_foldl (fun _ _ => ?_)) ?_
    | dsimp only
    | (simp only [Prod.ext_iff] at *; casesm* _ ∧ _; subst_vars)

theorem resumeLines_keeps {d : Die} {s : State} (hm : Sub 0x18000000000800000d80000000001b80000040000008190d40067865260000002d81600000000 km) (hk :
    Keeps km kz s) : Keeps km kz (resumeLines d s) := by
  refine Keeps.lift hm ?_ hk
  unfold resumeLines
  repeat' first
    | with_reducible exact Keeps.refl _ _
    | with_reducible refine (resume_keeps (hm := by decide)) ?_
    | with_reducible refine keeps_if (fun _ => ?_) (fun _ => ?_)
    | dsimp only
    | split

theorem enterHome_keeps {d : Die} {f : Frame} {more : List Frame} {reserved : List ReqKey} {aged : Nat} {s : State} (hm : Sub 0x18000000000800000d80000000001b80000040000008190d40067865660000002d81600000000 km) (hk :
    Keeps km kz s) : Keeps km kz (enterHome d f more reserved aged s) := by
  refine Keeps.lift hm ?_ hk
  unfold enterHome
  repeat' first
    | with_reducible exact Keeps.refl _ _
    | with_reducible refine (modHome_keeps ?_) ?_
    | with_reducible refine (serve_keeps (hm := by first | decide | (simp only [StReg.mask]; decide))) ?_
    | with_reducible refine (useHot_keeps (hm := by first | decide | (simp only [StReg.mask]; decide))) ?_
    | with_reducible refine (setStatus_keeps (hm := by first | decide | (simp only [StReg.mask]; decide))) ?_
    | with_reducible refine (countWait_keeps (hm := by first | decide | (simp only [StReg.mask]; decide))) ?_
    | with_reducible refine keeps_if (fun _ => ?_) (fun _ => ?_)
    | dsimp only
    | split
    | (constructor <;> first | exact .inl (by decide) | exact .inr rfl)

theorem atHome_keeps {d : Die} {f : Frame} {more : List Frame} {go : State → State} {s : State} (h_go : ∀ x0, Keeps km x0 (go x0)) (hm : Sub 0xc0100000002580200000000 km) (hk :
    Keeps km kz s) : Keeps km kz (atHome d f more go s) := by
  refine Keeps.lift (Nat.and_self km) ?_ hk
  unfold atHome
  repeat' first
    | with_reducible exact Keeps.refl _ _
    | with_reducible refine (putOnWay_keeps (hm := by exact sub_trans (by decide) hm)) ?_
    | with_reducible refine (dropInbox_keeps (hm := by exact sub_trans (by decide) hm)) ?_
    | with_reducible refine (takeHomeAll_keeps (hm := by exact sub_trans (by decide) hm)) ?_
    | with_reducible refine (Keeps.lift (Nat.and_self km) (h_go _)) ?_
    | with_reducible refine keeps_if (fun _ => ?_) (fun _ => ?_)
    | dsimp only
    | split

theorem findEcc_keeps {d : Die} {f : Frame} {ecc : List Nat} {s : State} (hm : Sub 0x10000000000000000000000000001800000000000000000000000020000000000000000000000 km) (hk :
    Keeps km kz s) : Keeps km kz (findEcc d f ecc s) := by
  refine Keeps.lift hm ?_ hk
  unfold findEcc
  extract_lets inT0 bad
  clear_value inT0 bad
  refine keeps_if (fun _ => Keeps.refl _ _) (fun _ => ?_)
  exact (setStatus_keeps (by simp only [StReg.mask]; decide)) ((set_poison_keeps (by decide)) (Keeps.refl _ _))

theorem takeMem_keeps {d : Die} {f : Frame} {ecc : List Nat} {aged : Nat} {s : State} (hm : Sub 0x18000000000800000d80000000001b80000040000008190d40067865e60000002d81600000000 km) (hk :
    Keeps km kz s) : Keeps km kz (takeMem d f ecc aged s) := by
  refine Keeps.lift hm ?_ hk
  unfold takeMem
  repeat' first
    | with_reducible exact Keeps.refl _ _
    | with_reducible refine (refuse_keeps (hm := by decide)) ?_
    | with_reducible refine (noTracker_keeps (hm := by decide)) ?_
    | with_reducible refine (enterHome_keeps (hm := by decide)) ?_
    | with_reducible refine (findEcc_keeps (hm := by decide)) ?_
    | with_reducible refine (tapBytes_keeps (hm := by decide)) ?_
    | with_reducible refine keeps_if (fun _ => ?_) (fun _ => ?_)
    | split

theorem acceptMem_keeps {d : Die} {f : Frame} {ecc : List Nat} {s : State} (hm : Sub 0x18000000000800000d80000000001b80000040000008190d400678e5f60000002d81620000000 km) (hk :
    Keeps km kz s) : Keeps km kz (acceptMem d f ecc s) := by
  refine Keeps.lift hm ?_ hk
  unfold acceptMem
  repeat' first
    | with_reducible exact Keeps.refl _ _
    | with_reducible refine (windowMisuse_keeps (hm := by decide)) ?_
    | with_reducible refine (atHome_keeps (hm := by decide) (h_go := fun _ => ?_)) ?_
    | with_reducible refine (takeMem_keeps (hm := by decide)) ?_
    | with_reducible refine keeps_if (fun _ => ?_) (fun _ => ?_)
    | split

end Machine
end Sys2Proof
end

