-- ==== Sys2Proof/Laws/FrameCopies.lean ====
section
/-! SUPPORT. Frames of the functions of Machine/Copies.lean: the parts of the state that each may change, as a mask (Laws/Keeps.lean). -/

namespace Sys2Proof
namespace Machine
set_option linter.unusedTactic false
set_option linter.unreachableTactic false
set_option linter.tactic.unusedName false
variable {km : Nat} {kz : State}

theorem keeps_after_objOk {s d : State} (hk : Keeps km kz s) : Keeps km kz (after (objOk s) d) := hk

theorem t0Short_keeps {d : Die} {tier : Nat} {s : State} (hm : Sub 0x1800000000000000000008000000000000000000000000000 km) (hk :
    Keeps km kz s) : Keeps km kz (t0Short d tier s) := by
  refine Keeps.lift hm ?_ hk
  unfold t0Short
  repeat' first
    | with_reducible exact Keeps.refl _ _
    | with_reducible refine (setStatus_keeps (hm := by first | decide | (simp only [StReg.mask]; decide))) ?_
    | with_reducible refine keeps_if (fun _ => ?_) (fun _ => ?_)
    | split

theorem noteShort_keeps {e : ExtV} {owner size tier : Nat} {st : BitVec 5} {s : State} (hm : Sub 0x1800000000000000000008000000000000000000000000000 km) (hk :
    Keeps km kz s) : Keeps km kz (noteShort e owner size tier st s) := by
  refine Keeps.lift hm ?_ hk
  unfold noteShort
  repeat' first
    | with_reducible exact Keeps.refl _ _
    | with_reducible refine (setStatus_keeps (hm := by first | decide | (simp only [StReg.mask]; decide))) ?_
    | with_reducible refine keeps_if (fun _ => ?_) (fun _ => ?_)
    | split

theorem journalObj_keeps {d : Die} {e : ExtV} {id : Nat} {s : State} (hm : Sub 0x1800000040045c00000000000000000000000000000000000 km) (hk :
    Keeps km kz s) : Keeps km kz (journalObj d e id s) := by
  refine Keeps.lift hm ?_ hk
  unfold journalObj
  repeat' first
    | with_reducible exact Keeps.refl _ _
    | with_reducible refine (journal_keeps (hm := by decide)) ?_
    | with_reducible refine keeps_if (fun _ => ?_) (fun _ => ?_)
    | split
    | (simp only [id, Keeps.refl]; done)

theorem placeObj_keeps {e : ExtV} {id : Nat} {o : Obj} {s : State} (hm : Sub 0x18000000000000000000000000001800000040045c00030000000000000000000000000000000 km) (hk :
    Keeps km kz s) : Keeps km kz (placeObj e id o s) := by
  refine Keeps.lift hm ?_ hk
  unfold placeObj
  repeat' first
    | with_reducible exact Keeps.refl _ _
    | with_reducible refine (journalObj_keeps (hm := by decide)) ?_
    | with_reducible refine (clearPoison_keeps (hm := by decide)) ?_
    | with_reducible refine (set_objs_gens_mem_keeps (by decide) (by decide) (by decide) ?_) ?_
    | dsimp only
    | exact memWf_memPut
    | exact memWf_memClear
    | exact memWf_filter
    | (simp only [id, Keeps.refl]; done)

theorem makeObj_keeps {e : ExtV} {id : Nat} {o : Obj} {s : State} (hm : Sub 0x18000000000000000980000000001800000040045c00030000000000000000000000000000000 km) (hk :
    Keeps km kz s) : Keeps km kz (makeObj e id o s) := by
  refine Keeps.lift hm ?_ hk
  unfold makeObj
  repeat' first
    | with_reducible exact Keeps.refl _ _
    | with_reducible refine (placeObj_keeps (hm := by decide)) ?_
    | with_reducible refine (takeCharge_keeps (hm := by decide)) ?_
    | (simp only [id, Keeps.refl]; done)

theorem unmapUnits_keeps {d : Die} {loc n : Nat} {s : State} (hm : Sub 0x180000000000000000000000000000000 km) (hk :
    Keeps km kz s) : Keeps km kz (unmapUnits d loc n s) := by
  refine Keeps.lift hm ?_ hk
  unfold unmapUnits
  repeat' first
    | with_reducible exact Keeps.refl _ _
    | with_reducible refine (modFtl_keeps ?_) ?_
    | with_reducible refine (modVol_keeps (hm := by decide)) ?_
    | with_reducible refine (keeps_foldl_snd (fun _ _ => ?_)) ?_
    | with_reducible refine (keeps_foldl_fst (fun _ _ => ?_)) ?_
    | with_reducible refine (keeps_foldl_third (fun _ _ => ?_)) ?_
    | with_reducible refine (keeps_foldl_mid (fun _ _ => ?_)) ?_
    | with_reducible refine (keeps_foldl (fun _ _ => ?_)) ?_
    | with_reducible refine keeps_if (fun _ => ?_) (fun _ => ?_)
    | dsimp only
    | split
    | (constructor <;> first | exact .inl (by decide) | exact .inr rfl)
    | (simp only [Prod.ext_iff] at *; casesm* _ ∧ _; subst_vars)

theorem dropObj_keeps {id : Nat} {s : State} (hm : Sub 0x18000000000000000980000000001800000040045c00190000000000000000000000000000000 km) (hk :
    Keeps km kz s) : Keeps km kz (dropObj id s) := by
  refine Keeps.lift hm ?_ hk
  clear hk
  unfold dropObj
  split
  · exact Keeps.refl _ _
  · split
    · exact (set_objs_keeps (by decide)) (Keeps.refl _ _)
    · extract_lets s1 s2 s3
      have h1 : Keeps 0x18000000000000000980000000001800000040045c00190000000000000000000000000000000 s s1 := (dropCharge_keeps (by decide)) (Keeps.refl _ _)
      have h2 : Keeps 0x18000000000000000980000000001800000040045c00190000000000000000000000000000000 s s2 := keeps_if (fun _ => (unmapUnits_keeps (by decide)) h1) (fun _ => h1)
      clear_value s2
      have h3 : Keeps 0x18000000000000000980000000001800000040045c00190000000000000000000000000000000 s s3 := set_objs_mem_keeps (by decide) (by decide) memWf_memClear h2
      clear_value s3
      exact (journalObj_keeps (by decide)) ((clearPoison_keeps (by decide)) h3)

theorem copyRange_keeps {src dst n : Nat} {s : State} (hm : Sub 0x18000000000000000000000000000000000000000000000000000000000000000000000000000 km) (hk :
    Keeps km kz s) : Keeps km kz (copyRange src dst n s) := by
  refine Keeps.lift hm ?_ hk
  unfold copyRange
  repeat' first
    | with_reducible exact Keeps.refl _ _
    | with_reducible refine (writeMem_keeps (hm := by decide)) ?_
    | with_reducible refine (set_poison_keeps (by decide)) ?_
    | with_reducible refine (keeps_foldl_snd (fun _ _ => ?_)) ?_
    | with_reducible refine (keeps_foldl_fst (fun _ _ => ?_)) ?_
    | with_reducible refine (keeps_foldl_third (fun _ _ => ?_)) ?_
    | with_reducible refine (keeps_foldl_mid (fun _ _ => ?_)) ?_
    | with_reducible refine (keeps_foldl (fun _ _ => ?_)) ?_
    | dsimp only
    | (simp only [Prod.ext_iff] at *; casesm* _ ∧ _; subst_vars)

theorem modJob_keeps {d : Die} {id : Nat} {g : CopyJob → CopyJob} {s : State} (hm : Sub 0x1000000000000000000000000000000 km) (hk :
    Keeps km kz s) : Keeps km kz (modJob d id g s) := by
  refine Keeps.lift hm ?_ hk
  unfold modJob
  repeat' first
    | with_reducible exact Keeps.refl _ _
    | with_reducible refine (modTier_keeps ?_) ?_
    | with_reducible refine keeps_if (fun _ => ?_) (fun _ => ?_)
    | dsimp only
    | split
    | (constructor <;> first | exact .inl (by decide) | exact .inr rfl)
    | (simp only [id, Keeps.refl]; done)

theorem dropJob_keeps {d : Die} {why : CopyFor} {s : State} (hm : Sub 0x1000000000000000000000000000000 km) (hk :
    Keeps km kz s) : Keeps km kz (dropJob d why s) := by
  refine Keeps.lift hm ?_ hk
  unfold dropJob
  repeat' first
    | with_reducible exact Keeps.refl _ _
    | with_reducible refine (modTier_keeps ?_) ?_
    | dsimp only
    | (constructor <;> first | exact .inl (by decide) | exact .inr rfl)

theorem stepGo_keeps {d : Die} {j : CopyJob} {st : CopyStep} {s : State} (hm : Sub 0x18000000000000000000000000001800000040000008181c00000040060000002d81600000000 km) (hk :
    Keeps km kz s) : Keeps km kz (stepGo d j st s).2 := by
  refine Keeps.lift hm ?_ hk
  unfold stepGo
  repeat' first
    | with_reducible exact Keeps.refl _ _
    | with_reducible refine (modJob_keeps (hm := by first | decide | (simp only [StReg.mask]; decide))) ?_
    | with_reducible refine (copyRange_keeps (hm := by first | decide | (simp only [StReg.mask]; decide))) ?_
    | with_reducible refine (askTray_keeps (hm := by first | decide | (simp only [StReg.mask]; decide))) ?_
    | with_reducible refine (mapReady_keeps (hm := by first | decide | (simp only [StReg.mask]; decide))) ?_
    | with_reducible refine (mapReady_of_eq (heq := by assumption) (hm := by first | decide | (simp only [StReg.mask]; decide))) ?_
    | with_reducible refine (startRead_keeps (hm := by first | decide | (simp only [StReg.mask]; decide))) ?_
    | with_reducible refine (stageWrite_keeps (hm := by first | decide | (simp only [StReg.mask]; decide))) ?_
    | with_reducible refine (setStatus_keeps (hm := by first | decide | (simp only [StReg.mask]; decide))) ?_
    | with_reducible refine keeps_elim ?_ (fun _ => ?_)
    | with_reducible refine keeps_if (fun _ => ?_) (fun _ => ?_)
    | with_reducible refine keeps_if_snd (fun _ => ?_) (fun _ => ?_)
    | dsimp only
    | split
    | (simp only [Prod.ext_iff] at *; casesm* _ ∧ _; subst_vars)
    | (simp only [id, Keeps.refl]; done)

theorem stepGo_of_eq {d : Die} {j : CopyJob} {st : CopyStep} {s : State}{v0} {v1 : State} (heq : stepGo d j st s = (v0, v1)) (hm : Sub 0x18000000000000000000000000001800000040000008181c00000040060000002d81600000000 km) (hk :
    Keeps km kz s) : Keeps km kz v1 := by
  have h := stepGo_keeps (kz := kz) (s := s) hm hk (d := d) (j := j) (st := st)
  rw [heq] at h
  exact h

theorem copyGo_keeps {fuel : Nat} {d : Die} {id : Nat} {s : State} (hm : Sub 0x18000000000000000000000000001800000040000008181c00000040060000002d81600000000 km) (hk :
    Keeps km kz s) : Keeps km kz (copyGo fuel d id s) := by
  refine Keeps.lift hm ?_ hk
  clear hk
  induction fuel generalizing s with
  | zero => exact Keeps.refl _ _
  | succ n ih =>
    unfold copyGo
    split
    · exact Keeps.refl _ _
    · split
      · split
        · rename_i heq
          exact Keeps.trans ((modJob_keeps (by decide)) ((stepGo_of_eq heq (by decide)) (Keeps.refl _ _))) ih
        · rename_i heq
          exact (stepGo_of_eq heq (by decide)) (Keeps.refl _ _)
      · exact Keeps.refl _ _

theorem startCopy_keeps {d : Die} {why : CopyFor} {steps : List CopyStep} {s : State} (hm : Sub 0x18000000000000000000000000001800000040000008183c00000040060000002d81600000000 km) (hk :
    Keeps km kz s) : Keeps km kz (startCopy d why steps s) := by
  refine Keeps.lift hm ?_ hk
  unfold startCopy
  repeat' first
    | with_reducible exact Keeps.refl _ _
    | with_reducible refine (copyGo_keeps (hm := by decide)) ?_
    | with_reducible refine (modTier_keeps ?_) ?_
    | dsimp only
    | (constructor <;> first | exact .inl (by decide) | exact .inr rfl)
    | (simp only [id, Keeps.refl]; done)

theorem withData_keeps {d : Die} {why : CopyFor} {ranges : List (Nat × Nat)} {go : State → State} {s : State} (h_go : ∀ x0, Keeps km x0 (go x0)) (hm : Sub 0x18000000000000000000000000001800000040000008183c00000040060000002d81600000000 km) (hk :
    Keeps km kz s) : Keeps km kz (withData d why ranges go s) := by
  refine Keeps.lift (Nat.and_self km) ?_ hk
  unfold withData
  repeat' first
    | with_reducible exact Keeps.refl _ _
    | with_reducible refine (dropJob_keeps (hm := by exact sub_trans (by decide) hm)) ?_
    | with_reducible refine (startCopy_keeps (hm := by exact sub_trans (by decide) hm)) ?_
    | with_reducible refine (Keeps.lift (Nat.and_self km) (h_go _)) ?_
    | with_reducible refine keeps_if (fun _ => ?_) (fun _ => ?_)
    | dsimp only
    | split
    | (simp only [Prod.ext_iff] at *; casesm* _ ∧ _; subst_vars)

theorem answerMove_keeps {d : Die} {m : Move} {st : BitVec 5} {s : State} (hm : Sub 0xd80000000000800000000000000000000000040020000002d81600000000 km) (hk :
    Keeps km kz s) : Keeps km kz (answerMove d m st s) := by
  refine Keeps.lift hm ?_ hk
  unfold answerMove
  repeat' first
    | with_reducible exact Keeps.refl _ _
    | with_reducible refine (answer_keeps (hm := by decide)) ?_
    | with_reducible refine (quotaWait_keeps (hm := by decide)) ?_
    | with_reducible refine keeps_if (fun _ => ?_) (fun _ => ?_)
    | split

theorem leavePlace_keeps {d : Die} {tier loc n : Nat} {s : State} (hm : Sub 0x180000000000000000000000000000000 km) (hk :
    Keeps km kz s) : Keeps km kz (leavePlace d tier loc n s) := by
  refine Keeps.lift hm ?_ hk
  unfold leavePlace
  repeat' first
    | with_reducible exact Keeps.refl _ _
    | with_reducible refine (unmapUnits_keeps (hm := by decide)) ?_
    | with_reducible refine keeps_if (fun _ => ?_) (fun _ => ?_)
    | split

theorem dropMove_keeps {d : Die} {m : Move} {s : State} (hm : Sub 0x1100000000000000000000000000000 km) (hk :
    Keeps km kz s) : Keeps km kz (dropMove d m s) := by
  refine Keeps.lift hm ?_ hk
  unfold dropMove
  repeat' first
    | with_reducible exact Keeps.refl _ _
    | with_reducible refine (dropJob_keeps (hm := by decide)) ?_
    | with_reducible refine (modTier_keeps ?_) ?_
    | with_reducible refine keeps_if (fun _ => ?_) (fun _ => ?_)
    | dsimp only
    | split
    | (constructor <;> first | exact .inl (by decide) | exact .inr rfl)

theorem endMove_keeps {d : Die} {m : Move} {st : BitVec 5} {s : State} (hm : Sub 0x18000000000800000d80000000001b80000040000008191d48067865260000002d81600000000 km) (hk :
    Keeps km kz s) : Keeps km kz (endMove d m st s) := by
  refine Keeps.lift hm ?_ hk
  unfold endMove
  repeat' first
    | with_reducible exact Keeps.refl _ _
    | with_reducible refine (dropMove_keeps (hm := by first | decide | (simp only [StReg.mask]; decide))) ?_
    | with_reducible refine (modObj_keeps (hm := by first | decide | (simp only [StReg.mask]; decide))) ?_
    | with_reducible refine (dropCharge_keeps (hm := by first | decide | (simp only [StReg.mask]; decide))) ?_
    | with_reducible refine (leavePlace_keeps (hm := by first | decide | (simp only [StReg.mask]; decide))) ?_
    | with_reducible refine (answerMove_keeps (hm := by first | decide | (simp only [StReg.mask]; decide))) ?_
    | with_reducible refine (setStatus_keeps (hm := by first | decide | (simp only [StReg.mask]; decide))) ?_
    | with_reducible refine (resume_keeps (hm := by first | decide | (simp only [StReg.mask]; decide))) ?_
    | with_reducible refine keeps_if (fun _ => ?_) (fun _ => ?_)
    | dsimp only
    | split

theorem queueMove_keeps {d : Die} {m : Move} {s : State} (hm : Sub 0x100000000000000000000000000000 km) (hk :
    Keeps km kz s) : Keeps km kz (queueMove d m s) := by
  refine Keeps.lift hm ?_ hk
  unfold queueMove
  repeat' first
    | with_reducible exact Keeps.refl _ _
    | with_reducible refine (modTier_keeps ?_) ?_
    | with_reducible refine keeps_if (fun _ => ?_) (fun _ => ?_)
    | dsimp only
    | split
    | (constructor <;> first | exact .inl (by decide) | exact .inr rfl)

theorem recopy_keeps {d : Die} {m : Move} {s : State} (hm : Sub 0x18000000000000000000000000001800000040000008183d00000040060000002d81600000000 km) (hk :
    Keeps km kz s) : Keeps km kz (recopy d m s) := by
  refine Keeps.lift hm ?_ hk
  unfold recopy
  repeat' first
    | with_reducible exact Keeps.refl _ _
    | with_reducible refine (startCopy_keeps (hm := by decide)) ?_
    | with_reducible refine (modTier_keeps ?_) ?_
    | with_reducible refine keeps_if (fun _ => ?_) (fun _ => ?_)
    | dsimp only
    | split
    | (constructor <;> first | exact .inl (by decide) | exact .inr rfl)

theorem passOver_keeps {d : Die} {obj : Nat} {s : State} (hm : Sub 0x18000000000000000000000000001800000040000008183d00000040060000002d81600000000 km) (hk :
    Keeps km kz s) : Keeps km kz (passOver d obj s) := by
  refine Keeps.lift hm ?_ hk
  unfold passOver
  repeat' first
    | with_reducible exact Keeps.refl _ _
    | with_reducible refine (recopy_keeps (hm := by decide)) ?_
    | with_reducible refine keeps_if (fun _ => ?_) (fun _ => ?_)
    | split

theorem copyFails_keeps {d : Die} {j : CopyJob} {st : BitVec 5} {s : State} (hm : Sub 0x18000000000800000d80000000001b80000040045c08191d48067865260000002d81600000000 km) (hk :
    Keeps km kz s) : Keeps km kz (copyFails d j st s) := by
  refine Keeps.lift hm ?_ hk
  unfold copyFails
  repeat' first
    | with_reducible exact Keeps.refl _ _
    | with_reducible refine (endMove_keeps (hm := by decide)) ?_
    | with_reducible refine (dropJob_keeps (hm := by decide)) ?_
    | with_reducible refine (refuse_keeps (hm := by decide)) ?_
    | with_reducible refine (dropObj_keeps (hm := by decide)) ?_
    | with_reducible refine (modJob_keeps (hm := by decide)) ?_
    | with_reducible refine keeps_elim ?_ (fun _ => ?_)
    | with_reducible refine keeps_if (fun _ => ?_) (fun _ => ?_)
    | dsimp only
    | split
    | (simp only [id, Keeps.refl]; done)

theorem copyOver_keeps {d : Die} {id : Nat} {s : State} (hm : Sub 0x18000000000800000d80000000001b80000040045c08193d48067865260000002d81600000000 km) (hk :
    Keeps km kz s) : Keeps km kz (copyOver d id s) := by
  refine Keeps.lift hm ?_ hk
  unfold copyOver
  repeat' first
    | with_reducible exact Keeps.refl _ _
    | with_reducible refine (copyFails_keeps (hm := by decide)) ?_
    | with_reducible refine (passOver_keeps (hm := by decide)) ?_
    | with_reducible refine (dropJob_keeps (hm := by decide)) ?_
    | with_reducible refine (resume_keeps (hm := by decide)) ?_
    | with_reducible refine (answer_keeps (hm := by decide)) ?_
    | with_reducible refine keeps_elim ?_ (fun _ => ?_)
    | with_reducible refine keeps_if (fun _ => ?_) (fun _ => ?_)
    | dsimp only
    | split
    | (simp only [id, Keeps.refl]; done)

theorem pumpDie_keeps {d : Die} {s : State} (hm : Sub 0x18000000000800000d80000000001b80000040045c08193d48067865260000002d81600000000 km) (hk :
    Keeps km kz s) : Keeps km kz (pumpDie d s) := by
  refine Keeps.lift hm ?_ hk
  unfold pumpDie
  repeat' first
    | with_reducible exact Keeps.refl _ _
    | with_reducible refine (copyOver_keeps (hm := by decide)) ?_
    | with_reducible refine (copyGo_keeps (hm := by decide)) ?_
    | with_reducible refine (keeps_foldl_snd (fun _ _ => ?_)) ?_
    | with_reducible refine (keeps_foldl_fst (fun _ _ => ?_)) ?_
    | with_reducible refine (keeps_foldl_third (fun _ _ => ?_)) ?_
    | with_reducible refine (keeps_foldl_mid (fun _ _ => ?_)) ?_
    | with_reducible refine (keeps_foldl (fun _ _ => ?_)) ?_
    | dsimp only
    | (simp only [Prod.ext_iff] at *; casesm* _ ∧ _; subst_vars)
    | (simp only [id, Keeps.refl]; done)

theorem pump_keeps {s : State} (hm : Sub 0x18000000000800000d80000000001b80000040045c08193d48067865260000002d81600000000 km) (hk :
    Keeps km kz s) : Keeps km kz (pump s) := by
  refine Keeps.lift hm ?_ hk
  unfold pump
  repeat' first
    | with_reducible exact Keeps.refl _ _
    | with_reducible refine (pumpDie_keeps (hm := by decide)) ?_

theorem execMoveStart_keeps {d : Die} {s : State} : Keeps 0x18000000000800000d80000000001b80000040000008193d48067865260000002d81600000000 s (after (execMoveStart d s) s) := by
  unfold execMoveStart
  repeat' first
    | with_reducible exact Keeps.refl _ _
    | with_reducible refine (modTier_keeps ?_) ?_
    | with_reducible refine (endMove_keeps (hm := by decide)) ?_
    | with_reducible refine (t0Short_keeps (hm := by decide)) ?_
    | with_reducible refine (takeCharge_keeps (hm := by decide)) ?_
    | with_reducible refine (modObj_keeps (hm := by decide)) ?_
    | with_reducible refine (passOver_keeps (hm := by decide)) ?_
    | with_reducible refine (startCopy_keeps (hm := by decide)) ?_
    | with_reducible refine keeps_if (fun _ => ?_) (fun _ => ?_)
    | with_reducible refine keeps_if_after (fun _ => ?_) (fun _ => ?_)
    | dsimp only
    | split
    | with_reducible refine keeps_after_objOk ?_
    | (constructor <;> first | exact .inl (by decide) | exact .inr rfl)

theorem execMoveSwitchover_keeps {obj : Nat} {s : State} : Keeps 0x100000000000000000000000000000 s (after (execMoveSwitchover obj s) s) := by
  unfold execMoveSwitchover
  repeat' first
    | with_reducible exact Keeps.refl _ _
    | with_reducible refine (modTier_keeps ?_) ?_
    | with_reducible refine keeps_if (fun _ => ?_) (fun _ => ?_)
    | with_reducible refine keeps_if_after (fun _ => ?_) (fun _ => ?_)
    | dsimp only
    | split
    | with_reducible refine keeps_after_objOk ?_
    | (constructor <;> first | exact .inl (by decide) | exact .inr rfl)

theorem finishMove_keeps {d : Die} {m : Move} {s : State} (hm : Sub 0x18000000000800000d80000000001b80000040000008191d70067865260000002d81600000000 km) (hk :
    Keeps km kz s) : Keeps km kz (finishMove d m s) := by
  refine Keeps.lift hm ?_ hk
  unfold finishMove
  repeat' first
    | with_reducible exact Keeps.refl _ _
    | with_reducible refine (modObj_keeps (hm := by decide)) ?_
    | with_reducible refine (leavePlace_keeps (hm := by decide)) ?_
    | with_reducible refine (modTier_keeps ?_) ?_
    | with_reducible refine (dropMove_keeps (hm := by decide)) ?_
    | with_reducible refine (answerMove_keeps (hm := by decide)) ?_
    | with_reducible refine (dropCharge_keeps (hm := by decide)) ?_
    | with_reducible refine (resume_keeps (hm := by decide)) ?_
    | with_reducible refine keeps_if (fun _ => ?_) (fun _ => ?_)
    | dsimp only
    | split
    | (constructor <;> first | exact .inl (by decide) | exact .inr rfl)

theorem execMoveComplete_keeps {obj : Nat} {s : State} : Keeps 0x18000000000800000d80000000001b80000040000008193d70067865260000002d81600000000 s (after (execMoveComplete obj s) s) := by
  unfold execMoveComplete
  repeat' first
    | with_reducible exact Keeps.refl _ _
    | with_reducible refine (recopy_keeps (hm := by decide)) ?_
    | with_reducible refine (finishMove_keeps (hm := by decide)) ?_
    | with_reducible refine keeps_if (fun _ => ?_) (fun _ => ?_)
    | with_reducible refine keeps_if_after (fun _ => ?_) (fun _ => ?_)
    | dsimp only
    | split
    | with_reducible refine keeps_after_objOk ?_

theorem execMoveDestFail_keeps {obj : Nat} {s : State} : Keeps 0x18000000000800000d80000000001b80000040000008191d48067865260000002d81600000000 s (after (execMoveDestFail obj s) s) := by
  unfold execMoveDestFail
  repeat' first
    | with_reducible exact Keeps.refl _ _
    | with_reducible refine (endMove_keeps (hm := by decide)) ?_
    | with_reducible refine keeps_if (fun _ => ?_) (fun _ => ?_)
    | with_reducible refine keeps_if_after (fun _ => ?_) (fun _ => ?_)
    | dsimp only
    | split
    | with_reducible refine keeps_after_objOk ?_

theorem noteWritten_keeps {a : Nat} {s : State} (hm : Sub 0x10000000000000000000000000000000 km) (hk :
    Keeps km kz s) : Keeps km kz (noteWritten a s) := by
  refine Keeps.lift hm ?_ hk
  unfold noteWritten
  repeat' first
    | with_reducible exact Keeps.refl _ _
    | with_reducible refine (modObj_keeps (hm := by decide)) ?_
    | with_reducible refine keeps_if (fun _ => ?_) (fun _ => ?_)
    | dsimp only
    | split
    | (simp only [Prod.ext_iff] at *; casesm* _ ∧ _; subst_vars)
    | (simp only [id, Keeps.refl]; done)

theorem copyAnswered_keeps {d : Die} {id : Nat} {f : Frame} {s : State} (hm : Sub 0x18000000000800000d80000000001b80000040045c08193d48067865260000002d81600000000 km) (hk :
    Keeps km kz s) : Keeps km kz (copyAnswered d id f s) := by
  refine Keeps.lift hm ?_ hk
  clear hk
  unfold copyAnswered
  split
  · exact Keeps.refl _ _
  · rename_i j _
    extract_lets st
    clear_value st
    split
    · refine keeps_if (fun _ => copyFails_keeps (by decide) (Keeps.refl _ _)) (fun _ => ?_)
      extract_lets s1
      refine pump_keeps (by decide) (modJob_keeps (by decide) ?_)
      exact keeps_if (fun _ => writeMem_keeps (by decide) (Keeps.refl _ _))
        (fun _ => setStatus_keeps (by simp only [StReg.mask]; decide) (set_poison_keeps (by decide) (Keeps.refl _ _)))
    · refine keeps_if (fun _ => pump_keeps (by decide) (modJob_keeps (by decide) (noteWritten_keeps (by decide) (Keeps.refl _ _))))
        (fun _ => copyFails_keeps (by decide) (Keeps.refl _ _))
    · exact Keeps.refl _ _

theorem copyRead_keeps {vol unit : Nat} {s : State} (hm : Sub 0x18000000000800000d80000000001b80000040045c08193d48067865260000002d81600000000 km) (hk :
    Keeps km kz s) : Keeps km kz (copyRead vol unit s) := by
  refine Keeps.lift hm ?_ hk
  unfold copyRead
  repeat' first
    | with_reducible exact Keeps.refl _ _
    | with_reducible refine (modTier_keeps ?_) ?_
    | with_reducible refine (pump_keeps (hm := by decide)) ?_
    | with_reducible refine keeps_if (fun _ => ?_) (fun _ => ?_)
    | dsimp only
    | split
    | (constructor <;> first | exact .inl (by decide) | exact .inr rfl)

end Machine
end Sys2Proof
end

