-- ==== Sys2Proof/Laws/FrameObjects.lean ====
section
/-! SUPPORT. Frames of the functions of Machine/Objects.lean: the parts of the state that each may change, as a mask (Laws/Keeps.lean). -/

namespace Sys2Proof
namespace Machine
set_option linter.unusedTactic false
set_option linter.unreachableTactic false
set_option linter.tactic.unusedName false
variable {km : Nat} {kz : State}

theorem countReq_keeps {d : Die} {f : Frame} {s : State} (hm : Sub 0xd80000000000000000000000000000000000000000000000000000000000 km) (hk :
    Keeps km kz s) : Keeps km kz (countReq d f s) := by
  refine Keeps.lift hm ?_ hk
  unfold countReq
  repeat' first
    | with_reducible exact Keeps.refl _ _
    | with_reducible refine (tapBytes_keeps (hm := by decide)) ?_

theorem createObj_keeps {d : Die} {f : Frame} {s : State} (hm : Sub 0x18000000000000000d80000000001800000040045c00030008000040020000002d81600000000 km) (hk :
    Keeps km kz s) : Keeps km kz (createObj d f s) := by
  refine Keeps.lift hm ?_ hk
  unfold createObj
  repeat' first
    | with_reducible exact Keeps.refl _ _
    | with_reducible refine (refuse_keeps (hm := by decide)) ?_
    | with_reducible refine (noteShort_keeps (hm := by decide)) ?_
    | with_reducible refine (quotaWait_keeps (hm := by decide)) ?_
    | with_reducible refine (makeObj_keeps (hm := by decide)) ?_
    | with_reducible refine (countReq_keeps (hm := by decide)) ?_
    | with_reducible refine (answer_keeps (hm := by decide)) ?_
    | with_reducible refine keeps_if (fun _ => ?_) (fun _ => ?_)
    | dsimp only
    | split
    | (simp only [Prod.ext_iff] at *; casesm* _ ∧ _; subst_vars)
    | (simp only [id, Keeps.refl]; done)

theorem execObjCreate_keeps {d : Die} {f : Frame} {s : State} : Keeps 0x18000000000000000d80000000001800000040045c000300080000c0120000002d81620000000 s (after (execObjCreate d f s) s) := by
  unfold execObjCreate
  repeat' first
    | with_reducible exact Keeps.refl _ _
    | with_reducible refine (windowMisuse_keeps (hm := by decide)) ?_
    | with_reducible refine (atHome_keeps (hm := by decide) (h_go := fun _ => ?_)) ?_
    | with_reducible refine (createObj_keeps (hm := by decide)) ?_
    | with_reducible refine keeps_if (fun _ => ?_) (fun _ => ?_)
    | with_reducible refine keeps_if_after (fun _ => ?_) (fun _ => ?_)
    | split
    | with_reducible refine keeps_after_objOk ?_

theorem moveObj_keeps {d : Die} {f : Frame} {s : State} (hm : Sub 0xd80000000001800000000000000000108000040020000002d81600000000 km) (hk :
    Keeps km kz s) : Keeps km kz (moveObj d f s) := by
  refine Keeps.lift hm ?_ hk
  unfold moveObj
  repeat' first
    | with_reducible exact Keeps.refl _ _
    | with_reducible refine (refuse_keeps (hm := by decide)) ?_
    | with_reducible refine (answer_keeps (hm := by decide)) ?_
    | with_reducible refine (countReq_keeps (hm := by decide)) ?_
    | with_reducible refine (countWait_keeps (hm := by decide)) ?_
    | with_reducible refine (t0Short_keeps (hm := by decide)) ?_
    | with_reducible refine (queueMove_keeps (hm := by decide)) ?_
    | with_reducible refine keeps_if (fun _ => ?_) (fun _ => ?_)
    | dsimp only
    | split
    | (simp only [Prod.ext_iff] at *; casesm* _ ∧ _; subst_vars)
    | (simp only [id, Keeps.refl]; done)

theorem execObjMove_keeps {d : Die} {f : Frame} {s : State} : Keeps 0xd800000000018000000000000000001080000c0120000002d81600000000 s (after (execObjMove d f s) s) := by
  unfold execObjMove
  repeat' first
    | with_reducible exact Keeps.refl _ _
    | with_reducible refine (atHome_keeps (hm := by decide) (h_go := fun _ => ?_)) ?_
    | with_reducible refine (moveObj_keeps (hm := by decide)) ?_
    | with_reducible refine keeps_if (fun _ => ?_) (fun _ => ?_)
    | with_reducible refine keeps_if_after (fun _ => ?_) (fun _ => ?_)
    | split
    | with_reducible refine keeps_after_objOk ?_

theorem pinReq_keeps {d : Die} {f : Frame} {g : Nat → Option Nat} {s : State} (hm : Sub 0xd80000000000800000000000000010000000040020000002d81600000000 km) (hk :
    Keeps km kz s) : Keeps km kz (pinReq d f g s) := by
  refine Keeps.lift hm ?_ hk
  unfold pinReq
  repeat' first
    | with_reducible exact Keeps.refl _ _
    | with_reducible refine (refuse_keeps (hm := by decide)) ?_
    | with_reducible refine (answer_keeps (hm := by decide)) ?_
    | with_reducible refine (countReq_keeps (hm := by decide)) ?_
    | with_reducible refine (modObj_keeps (hm := by decide)) ?_
    | with_reducible refine keeps_if (fun _ => ?_) (fun _ => ?_)
    | dsimp only
    | split
    | (simp only [Prod.ext_iff] at *; casesm* _ ∧ _; subst_vars)
    | (simp only [id, Keeps.refl]; done)

theorem execObjPin_keeps {d : Die} {f : Frame} {s : State} : Keeps 0xd800000000008000000000000000100000000c0120000002d81600000000 s (after (execObjPin d f s) s) := by
  unfold execObjPin
  repeat' first
    | with_reducible exact Keeps.refl _ _
    | with_reducible refine (atHome_keeps (hm := by decide) (h_go := fun _ => ?_)) ?_
    | with_reducible refine (pinReq_keeps (hm := by decide)) ?_
    | with_reducible refine keeps_if (fun _ => ?_) (fun _ => ?_)
    | with_reducible refine keeps_if_after (fun _ => ?_) (fun _ => ?_)
    | dsimp only
    | split
    | with_reducible refine keeps_after_objOk ?_

theorem execObjUnpin_keeps {d : Die} {f : Frame} {s : State} : Keeps 0xd800000000008000000000000000100000000c0120000002d81600000000 s (after (execObjUnpin d f s) s) := by
  unfold execObjUnpin
  repeat' first
    | with_reducible exact Keeps.refl _ _
    | with_reducible refine (atHome_keeps (hm := by decide) (h_go := fun _ => ?_)) ?_
    | with_reducible refine (pinReq_keeps (hm := by decide)) ?_
    | with_reducible refine keeps_if (fun _ => ?_) (fun _ => ?_)
    | with_reducible refine keeps_if_after (fun _ => ?_) (fun _ => ?_)
    | dsimp only
    | split
    | with_reducible refine keeps_after_objOk ?_

theorem endMoveOf_keeps {d : Die} {id : Nat} {s : State} (hm : Sub 0x18000000000800000d80000000001b80000040000008191d48067865260000002d81600000000 km) (hk :
    Keeps km kz s) : Keeps km kz (endMoveOf d id s) := by
  refine Keeps.lift hm ?_ hk
  unfold endMoveOf
  repeat' first
    | with_reducible exact Keeps.refl _ _
    | with_reducible refine (endMove_keeps (hm := by decide)) ?_
    | with_reducible refine keeps_if (fun _ => ?_) (fun _ => ?_)
    | split
    | (simp only [id, Keeps.refl]; done)

theorem freeObj_keeps {d : Die} {f : Frame} {s : State} (hm : Sub 0x18000000000800000d80000000001b80000040000008191d48067865260000002d81600000000 km) (hk :
    Keeps km kz s) : Keeps km kz (freeObj d f s) := by
  refine Keeps.lift hm ?_ hk
  unfold freeObj
  repeat' first
    | with_reducible exact Keeps.refl _ _
    | with_reducible refine (refuse_keeps (hm := by decide)) ?_
    | with_reducible refine (endMoveOf_keeps (hm := by decide)) ?_
    | with_reducible refine (answer_keeps (hm := by decide)) ?_
    | with_reducible refine (countReq_keeps (hm := by decide)) ?_
    | with_reducible refine (modObj_keeps (hm := by decide)) ?_
    | with_reducible refine keeps_if (fun _ => ?_) (fun _ => ?_)
    | dsimp only
    | split
    | (simp only [Prod.ext_iff] at *; casesm* _ ∧ _; subst_vars)
    | (simp only [id, Keeps.refl]; done)

theorem execObjFree_keeps {d : Die} {f : Frame} {s : State} : Keeps 0x18000000000800000d80000000001b80000040000008191d480678e5360000002d81600000000 s (after (execObjFree d f s) s) := by
  unfold execObjFree
  repeat' first
    | with_reducible exact Keeps.refl _ _
    | with_reducible refine (atHome_keeps (hm := by decide) (h_go := fun _ => ?_)) ?_
    | with_reducible refine (freeObj_keeps (hm := by decide)) ?_
    | with_reducible refine keeps_if (fun _ => ?_) (fun _ => ?_)
    | with_reducible refine keeps_if_after (fun _ => ?_) (fun _ => ?_)
    | split
    | with_reducible refine keeps_after_objOk ?_

theorem execObjFreeRelease_keeps {obj : Nat} {s : State} : Keeps 0x18000000000000000980000000001800000040045c00190000000000000000000000000000000 s (after (execObjFreeRelease obj s) s) := by
  unfold execObjFreeRelease
  repeat' first
    | with_reducible exact Keeps.refl _ _
    | with_reducible refine (dropObj_keeps (hm := by decide)) ?_
    | with_reducible refine keeps_elim ?_ (fun _ => ?_)
    | with_reducible refine keeps_if (fun _ => ?_) (fun _ => ?_)
    | with_reducible refine keeps_if_after (fun _ => ?_) (fun _ => ?_)
    | dsimp only
    | split
    | with_reducible refine keeps_after_objOk ?_

theorem cloneObj_keeps {d : Die} {f : Frame} {s : State} (hm : Sub 0x18000000000800000d80000000001b80000040045c081b3d48067865260000002d81600000000 km) (hk :
    Keeps km kz s) : Keeps km kz (cloneObj d f s) := by
  refine Keeps.lift hm ?_ hk
  unfold cloneObj
  repeat' first
    | with_reducible exact Keeps.refl _ _
    | with_reducible refine (refuse_keeps (hm := by decide)) ?_
    | with_reducible refine (noteShort_keeps (hm := by decide)) ?_
    | with_reducible refine (quotaWait_keeps (hm := by decide)) ?_
    | with_reducible refine (makeObj_keeps (hm := by decide)) ?_
    | with_reducible refine (countReq_keeps (hm := by decide)) ?_
    | with_reducible refine (modObj_keeps (hm := by decide)) ?_
    | with_reducible refine (pump_keeps (hm := by decide)) ?_
    | with_reducible refine (startCopy_keeps (hm := by decide)) ?_
    | with_reducible refine keeps_if (fun _ => ?_) (fun _ => ?_)
    | dsimp only
    | split
    | (simp only [Prod.ext_iff] at *; casesm* _ ∧ _; subst_vars)
    | (simp only [id, Keeps.refl]; done)

theorem execObjClone_keeps {d : Die} {f : Frame} {s : State} : Keeps 0x18000000000800000d80000000001b80000040045c081b3d480678e5360000002d81600000000 s (after (execObjClone d f s) s) := by
  unfold execObjClone
  repeat' first
    | with_reducible exact Keeps.refl _ _
    | with_reducible refine (atHome_keeps (hm := by decide) (h_go := fun _ => ?_)) ?_
    | with_reducible refine (cloneObj_keeps (hm := by decide)) ?_
    | with_reducible refine keeps_if (fun _ => ?_) (fun _ => ?_)
    | with_reducible refine keeps_if_after (fun _ => ?_) (fun _ => ?_)
    | split
    | with_reducible refine keeps_after_objOk ?_

theorem spillLoop_keeps {fuel : Nat} {d : Die} {s : State} (hm : Sub 0x1800000000000000004308000000000000000000000000000 km) (hk :
    Keeps km kz s) : Keeps km kz (spillLoop fuel d s) := by
  refine Keeps.lift hm ?_ hk
  clear hk
  have hmt : ∀ (t : State) (g : TierState → TierState), TierKeeps 0x1800000000000000004308000000000000000000000000000 (side t.tier d) (g (side t.tier d)) → Keeps 0x1800000000000000004308000000000000000000000000000 t (modTier t d g) :=
    fun t g h => modTier_keeps h (Keeps.refl _ _)
  induction fuel generalizing s with
  | zero => exact Keeps.refl _ _
  | succ k ih =>
    unfold spillLoop
    extract_lets t
    refine keeps_if (fun _ => Keeps.refl _ _) (fun _ => ?_)
    refine keeps_if (fun _ => hmt _ _ (by constructor <;> first | exact .inl (by decide) | exact .inr rfl)) (fun _ => ?_)
    split
    · exact (setStatus_keeps (by simp only [StReg.mask]; decide)) (Keeps.refl _ _)
    · split
      · exact Keeps.refl _ _
      · split
        · exact Keeps.refl _ _
        · extract_lets fits go s1
          have go_keeps : ∀ tier, Keeps 0x1800000000000000004308000000000000000000000000000 s (go tier) := fun tier => (queueMove_keeps (by decide)) (Keeps.refl _ _)
          refine Keeps.trans (t := s1) ?_ ih
          refine keeps_if (fun _ => go_keeps _) (fun _ => keeps_if (fun _ => go_keeps _) (fun _ => ?_))
          exact hmt _ _ (by constructor <;> first | exact .inl (by decide) | exact .inr rfl)

theorem execSpillStart_keeps {d : Die} {s : State} : Keeps 0x1800000000000000004308000000000000000000000000000 s (after (execSpillStart d s) s) := by
  unfold execSpillStart
  repeat' first
    | with_reducible exact Keeps.refl _ _
    | with_reducible refine (spillLoop_keeps (hm := by decide)) ?_
    | with_reducible refine (modTier_keeps ?_) ?_
    | with_reducible refine keeps_if (fun _ => ?_) (fun _ => ?_)
    | with_reducible refine keeps_if_after (fun _ => ?_) (fun _ => ?_)
    | dsimp only
    | split
    | with_reducible refine keeps_after_objOk ?_
    | (constructor <;> first | exact .inl (by decide) | exact .inr rfl)

theorem refillLoop_keeps {fuel : Nat} {d : Die} {s : State} (hm : Sub 0x100000000000000000000000000000 km) (hk :
    Keeps km kz s) : Keeps km kz (refillLoop fuel d s) := by
  refine Keeps.lift hm ?_ hk
  clear hk
  induction fuel generalizing s with
  | zero => exact Keeps.refl _ _
  | succ k ih =>
    unfold refillLoop
    extract_lets ps out inT0 ses
    clear_value ses
    split
    · exact Keeps.refl _ _
    · extract_lets cs
      split
      · exact Keeps.refl _ _
      · split
        · exact Keeps.refl _ _
        · refine keeps_if (fun _ => Keeps.refl _ _) (fun _ => ?_)
          exact Keeps.trans ((queueMove_keeps (by decide)) (Keeps.refl _ _)) ih

theorem execRefillStart_keeps {d : Die} {s : State} : Keeps 0x100000000000000000000000000000 s (after (execRefillStart d s) s) := by
  unfold execRefillStart
  repeat' first
    | with_reducible exact Keeps.refl _ _
    | with_reducible refine (refillLoop_keeps (hm := by decide)) ?_
    | with_reducible refine keeps_if (fun _ => ?_) (fun _ => ?_)
    | with_reducible refine keeps_if_after (fun _ => ?_) (fun _ => ?_)
    | dsimp only
    | split
    | with_reducible refine keeps_after_objOk ?_

theorem prefetch_keeps {d : Die} {ses layer : Nat} {s : State} (hm : Sub 0x100000000000000000000000000000 km) (hk :
    Keeps km kz s) : Keeps km kz (prefetch d ses layer s) := by
  refine Keeps.lift hm ?_ hk
  unfold prefetch
  repeat' first
    | with_reducible exact Keeps.refl _ _
    | with_reducible refine (queueMove_keeps (hm := by decide)) ?_
    | with_reducible refine (keeps_foldl_snd (fun _ _ => ?_)) ?_
    | with_reducible refine (keeps_foldl_fst (fun _ _ => ?_)) ?_
    | with_reducible refine (keeps_foldl_third (fun _ _ => ?_)) ?_
    | with_reducible refine (keeps_foldl_mid (fun _ _ => ?_)) ?_
    | with_reducible refine (keeps_foldl (fun _ _ => ?_)) ?_
    | with_reducible refine keeps_if (fun _ => ?_) (fun _ => ?_)
    | dsimp only
    | split
    | (simp only [Prod.ext_iff] at *; casesm* _ ∧ _; subst_vars)

theorem resumeCc_keeps {d : Die} {s : State} (hm : Sub 0x18000000000800000d80000000001b80000040000008190d40067865260000002d81600000000 km) (hk :
    Keeps km kz s) : Keeps km kz (resumeCc d s) := by
  refine Keeps.lift hm ?_ hk
  unfold resumeCc
  repeat' first
    | with_reducible exact Keeps.refl _ _
    | with_reducible refine (resume_keeps (hm := by decide)) ?_
    | with_reducible refine keeps_if (fun _ => ?_) (fun _ => ?_)
    | dsimp only
    | split

theorem execCcWritebackResponse_keeps {d : Die} {f : Frame} {s0 : State} : Keeps 0x18000000000800000d80000000001b80000040000008190dc8067865270000002d81600000000 s0 (after (execCcWritebackResponse d f s0) s0) := by
  unfold execCcWritebackResponse
  repeat' first
    | with_reducible exact Keeps.refl _ _
    | with_reducible refine (takeAgent_keeps (hm := by first | decide | (simp only [StReg.mask]; decide))) ?_
    | with_reducible refine (sendPort_keeps (hm := by first | decide | (simp only [StReg.mask]; decide))) ?_
    | with_reducible refine (dropTrayReq_keeps (hm := by first | decide | (simp only [StReg.mask]; decide))) ?_
    | with_reducible refine (modTier_keeps ?_) ?_
    | with_reducible refine (resumeCc_keeps (hm := by first | decide | (simp only [StReg.mask]; decide))) ?_
    | with_reducible refine (ccWriteback_keeps (hm := by first | decide | (simp only [StReg.mask]; decide))) ?_
    | with_reducible refine (setStatus_keeps (hm := by first | decide | (simp only [StReg.mask]; decide))) ?_
    | with_reducible refine keeps_if (fun _ => ?_) (fun _ => ?_)
    | with_reducible refine keeps_if_after (fun _ => ?_) (fun _ => ?_)
    | dsimp only
    | split
    | with_reducible refine keeps_after_objOk ?_
    | (constructor <;> first | exact .inl (by decide) | exact .inr rfl)

theorem poisonLines_keeps {d : Die} {lines : List Nat} {s : State} (hm : Sub 0x10000000000000000000000000001800000000000000000000000020000000000000000000000 km) (hk :
    Keeps km kz s) : Keeps km kz (poisonLines d lines s) := by
  refine Keeps.lift hm ?_ hk
  unfold poisonLines
  repeat' first
    | with_reducible exact Keeps.refl _ _
    | with_reducible refine (setStatus_keeps (hm := by first | decide | (simp only [StReg.mask]; decide))) ?_
    | with_reducible refine (set_poison_keeps (by decide)) ?_
    | with_reducible refine (keeps_foldl_snd (fun _ _ => ?_)) ?_
    | with_reducible refine (keeps_foldl_fst (fun _ _ => ?_)) ?_
    | with_reducible refine (keeps_foldl_third (fun _ _ => ?_)) ?_
    | with_reducible refine (keeps_foldl_mid (fun _ _ => ?_)) ?_
    | with_reducible refine (keeps_foldl (fun _ _ => ?_)) ?_
    | dsimp only
    | (simp only [Prod.ext_iff] at *; casesm* _ ∧ _; subst_vars)

theorem homeTray_keeps {d : Die} {r : TrayReq} {q f : Frame} {s : State} (hm : Sub 0x18000000000800000d80000000001b80000040000008190d40067865260000002d81600000000 km) (hk :
    Keeps km kz s) : Keeps km kz (homeTray d r q f s) := by
  refine Keeps.lift hm ?_ hk
  clear hk
  unfold homeTray
  split
  · exact Keeps.refl _ _
  · rename_i w _
    extract_lets a u st load
    clear_value a u st load
    have done : ∀ t, Keeps 0x18000000000800000d80000000001b80000040000008190d40067865260000002d81600000000 s t → Keeps 0x18000000000800000d80000000001b80000040000008190d40067865260000002d81600000000 s (settleBehind d t) := fun t k => settleBehind_keeps (by decide) k
    refine keeps_if (fun _ => done _ (serve_keeps (by decide) (writeMem_keeps (by decide) (Keeps.refl _ _)))) (fun _ => ?_)
    refine keeps_if (fun _ => done _ (performAll_keeps (by decide) (noteAccess_keeps (by decide) (dropWaiting_keeps (by decide)
      (noteWritten_keeps (by decide) (Keeps.refl _ _)))))) (fun _ => ?_)
    refine keeps_if (fun _ => done _ (serve_keeps (by decide) (poisonLines_keeps (by decide) (Keeps.refl _ _)))) (fun _ => ?_)
    exact done _ (keeps_foldl (fun t x => refuse_keeps (by decide) (Keeps.refl _ _)) (dropWaiting_keeps (by decide) (Keeps.refl _ _)))

theorem fillDone_keeps {d : Die} {line : Nat} {f : Frame} {s : State} (hm : Sub 0x18000000000800000d80000000001b80000040000008190d40067865260000002d81600000000 km) (hk :
    Keeps km kz s) : Keeps km kz (fillDone d line f s) := by
  refine Keeps.lift hm ?_ hk
  clear hk
  unfold fillDone
  extract_lets order
  clear_value order
  refine keeps_if (fun _ => ?_) (fun _ => ?_)
  · exact (resumeCc_keeps (by decide)) ((ccPut_keeps (by decide)) ((writeMem_keeps (by decide)) (Keeps.refl _ _)))
  refine keeps_if (fun _ => ?_) (fun _ => ?_)
  · refine (resumeCc_keeps (by decide)) ((ccPut_keeps (by decide)) ((setStatus_keeps (by simp only [StReg.mask]; decide)) ?_))
    generalize insertNat line s.poison = q
    exact (set_poison_keeps (by decide)) (Keeps.refl _ _)
  · refine (keeps_foldl (fun t w => ?_)) (Keeps.refl _ _)
    refine keeps_if (fun _ => ?_) (fun _ => Keeps.refl _ _)
    refine (keeps_foldl (fun u x => ?_)) ((dropWaiting_keeps (by decide)) (Keeps.refl _ _))
    exact (refuse_keeps (by decide)) (Keeps.refl _ _)

end Machine
end Sys2Proof
end

