-- ==== Sys2Proof/Laws/FramePodCore.lean ====
section
/-! SUPPORT. Frames of the functions of Machine/PodCore.lean: the parts of the state that each may change, as a mask (Laws/Keeps.lean). -/

namespace Sys2Proof
namespace Machine
set_option linter.unusedTactic false
set_option linter.unreachableTactic false
set_option linter.tactic.unusedName false
variable {km : Nat} {kz : State}

theorem putCore_keeps {d : Die} {p : Nat} {c : Core} {s : State} (hm : Sub 0x100000000000000000000000000000000000000000 km) (hk :
    Keeps km kz s) : Keeps km kz (putCore d p c s) := by
  refine Keeps.lift hm ?_ hk
  unfold putCore
  repeat' first
    | with_reducible exact Keeps.refl _ _
    | with_reducible refine (modPod_keeps ?_) ?_
    | dsimp only
    | (constructor <;> first | exact .inl (by decide) | exact .inr rfl)

theorem issue_keeps {d : Die} {p : Nat} {ok : Bool} {g : State → Core → Thread → Did} {s : State} (h_g : ∀ x0 x1 x2, Keeps km x0 (g x0 x1 x2).s) (hm : Sub 0x100000000000000000000000000000000000000000 km) (hk :
    Keeps km kz s) : Keeps km kz (issue d p ok g s) := by
  refine Keeps.lift (Nat.and_self km) ?_ hk
  unfold issue
  repeat' first
    | with_reducible exact Keeps.refl _ _
    | with_reducible refine (putCore_keeps (hm := by exact sub_trans (by decide) hm)) ?_
    | with_reducible refine (Did.s_keeps (hm := by exact sub_trans (by decide) hm)) ?_
    | with_reducible refine (Keeps.lift (Nat.and_self km) (h_g _ _ _)) ?_
    | extract_lets
    | split
    | dsimp only

theorem pure1_keeps {g : Thread → Thread × Fate} {s : State} {c : Core} {t : Thread} (hm : Sub 0x0 km) (hk :
    Keeps km kz s) : Keeps km kz (pure1 g s c t).s := by
  refine Keeps.lift hm ?_ hk
  unfold pure1
  repeat' first
    | with_reducible exact Keeps.refl _ _
    | dsimp only

theorem queueItem_keeps {d : Die} {i : Item} {s : State} (hm : Sub 0x20000000000000000000000000000000000400000000000000000000000000000000000000000 km) (hk :
    Keeps km kz s) : Keeps km kz (queueItem d i s) := by
  refine Keeps.lift hm ?_ hk
  unfold queueItem
  repeat' first
    | with_reducible exact Keeps.refl _ _
    | with_reducible refine (drawFree_keeps (hm := by decide)) ?_
    | with_reducible refine (drawFree_of_eq (heq := by assumption) (hm := by decide)) ?_
    | with_reducible refine (modPod_keeps ?_) ?_
    | with_reducible refine keeps_if (fun _ => ?_) (fun _ => ?_)
    | with_reducible refine keeps_if_snd (fun _ => ?_) (fun _ => ?_)
    | dsimp only
    | split
    | (constructor <;> first | exact .inl (by decide) | exact .inr rfl)
    | (simp only [Prod.ext_iff] at *; casesm* _ ∧ _; subst_vars)

theorem startItem_keeps {d : Die} {p : Nat} {i : Item} {s : State} (hm : Sub 0x20000000000000000000000000000000000100000000000000000000000000000000000000000 km) (hk :
    Keeps km kz s) : Keeps km kz (startItem d p i s) := by
  refine Keeps.lift hm ?_ hk
  unfold startItem
  repeat' first
    | with_reducible exact Keeps.refl _ _
    | with_reducible refine (putCore_keeps (hm := by decide)) ?_
    | with_reducible refine (set_freeCtr_keeps (by decide)) ?_
    | with_reducible refine keeps_if (fun _ => ?_) (fun _ => ?_)
    | dsimp only
    | split

theorem retireCore_keeps {d : Die} {p : Nat} {s : State} (hm : Sub 0x1800004700000000000000000000000000000000000000000 km) (hk :
    Keeps km kz s) : Keeps km kz (retireCore d p s) := by
  refine Keeps.lift hm ?_ hk
  unfold retireCore
  repeat' first
    | with_reducible exact Keeps.refl _ _
    | with_reducible refine (putCore_keeps (hm := by first | decide | (simp only [StReg.mask]; decide))) ?_
    | with_reducible refine (setStatus_keeps (hm := by first | decide | (simp only [StReg.mask]; decide))) ?_
    | with_reducible refine (modPod_keeps ?_) ?_
    | with_reducible refine keeps_if (fun _ => ?_) (fun _ => ?_)
    | dsimp only
    | split
    | (constructor <;> first | exact .inl (by decide) | exact .inr rfl)
    | (simp only [Prod.ext_iff] at *; casesm* _ ∧ _; subst_vars)

theorem freeCore_keeps {d : Die} {p : Nat} {s : State} (hm : Sub 0x1800004700000000000000000000000000000000000000000 km) (hk :
    Keeps km kz s) : Keeps km kz (freeCore d p s) := by
  refine Keeps.lift hm ?_ hk
  unfold freeCore
  repeat' first
    | with_reducible exact Keeps.refl _ _
    | with_reducible refine (putCore_keeps (hm := by decide)) ?_
    | with_reducible refine (retireCore_keeps (hm := by decide)) ?_
    | with_reducible refine keeps_if (fun _ => ?_) (fun _ => ?_)
    | dsimp only
    | split

theorem stopCtxItems_keeps {d : Die} {ctx : Nat} {s : State} (hm : Sub 0x500000000000000000000000000000000000000000 km) (hk :
    Keeps km kz s) : Keeps km kz (stopCtxItems d ctx s) := by
  refine Keeps.lift hm ?_ hk
  unfold stopCtxItems
  repeat' first
    | with_reducible exact Keeps.refl _ _
    | with_reducible refine (modPod_keeps ?_) ?_
    | with_reducible refine keeps_if (fun _ => ?_) (fun _ => ?_)
    | dsimp only
    | split
    | (constructor <;> first | exact .inl (by decide) | exact .inr rfl)

end Machine
end Sys2Proof
end

