-- ==== Sys2Proof/Laws/FrameServices.lean ====
section
/-! SUPPORT. Frames of the functions of Machine/Services.lean: the parts of the state that each may change, as a mask (Laws/Keeps.lean). -/

namespace Sys2Proof
namespace Machine
set_option linter.unusedTactic false
set_option linter.unreachableTactic false
set_option linter.tactic.unusedName false
variable {km : Nat} {kz : State}

theorem keeps_after_svcOk {s d : State} (hk : Keeps km kz s) : Keeps km kz (after (svcOk s) d) := hk

theorem keeps_after_svcReq {km : Nat} {opc : Byte} {d : Die} {f : Frame} {go : State → State} {s : State} (h_go : ∀ x0, Keeps km x0 (go x0)) (hm : Sub 0xc0100000002580200000000 km) : Keeps km s (after (svcReq opc d f go s) s) := by
  unfold svcReq
  repeat' first
    | with_reducible exact Keeps.refl _ _
    | with_reducible refine (atHome_keeps (hm := by exact sub_trans (by decide) hm) (h_go := fun _ => ?_)) ?_
    | with_reducible refine (Keeps.lift (Nat.and_self km) (h_go _)) ?_
    | with_reducible refine keeps_if (fun _ => ?_) (fun _ => ?_)
    | with_reducible refine keeps_if_after (fun _ => ?_) (fun _ => ?_)
    | dsimp only
    | split
    | with_reducible refine keeps_after_svcOk ?_

theorem svcPiece_keeps {d : Die} {ctx a n : Nat} {s : State} (hm : Sub 0x20000000000000000000000000001800000000000000000000000020000000000000000000000 km) (hk :
    Keeps km kz s) : Keeps km kz (svcPiece d ctx a n s).2.2 := by
  refine Keeps.lift hm ?_ hk
  clear hk
  unfold svcPiece
  refine keeps_if_third (fun _ => ?_) (fun _ => ?_)
  · have key : ∀ q : Nat, Keeps 0x20000000000000000000000000001800000000000000000000000020000000000000000000000 s { s with freeCtr := q } := fun q => (set_freeCtr_keeps (by decide)) (Keeps.refl _ _)
    exact key _
  refine keeps_if_third (fun _ => Keeps.refl _ _) (fun _ => ?_)
  extract_lets h f
  split
  · exact Keeps.refl _ _
  · exact keeps_if_third (fun _ => (readPoison_keeps (by decide)) (Keeps.refl _ _)) (fun _ => Keeps.refl _ _)

theorem svcPiece_of_eq {d : Die} {ctx a n : Nat} {s : State}{v0 v1} {v2 : State} (heq : svcPiece d ctx a n s = (v0, v1, v2)) (hm : Sub 0x20000000000000000000000000001800000000000000000000000020000000000000000000000 km) (hk :
    Keeps km kz s) : Keeps km kz v2 := by
  have h := svcPiece_keeps (kz := kz) (s := s) hm hk (d := d) (ctx := ctx) (a := a) (n := n)
  rw [heq] at h
  exact h

theorem svcRead_keeps {d : Die} {ctx a n : Nat} {s : State} (hm : Sub 0x20000000000000000000000000001800000000000000000000000020000000000000000000000 km) (hk :
    Keeps km kz s) : Keeps km kz (svcRead d ctx a n s).2.2 := by
  refine Keeps.lift hm ?_ hk
  unfold svcRead
  repeat' first
    | (extract_lets; try clear_value *)
    | with_reducible refine keeps_if (fun _ => ?_) (fun _ => ?_)
    | with_reducible refine keeps_if_third (fun _ => ?_) (fun _ => ?_)
    | split
    | with_reducible refine (svcPiece_keeps (hm := by decide)) ?_
    | with_reducible refine (svcPiece_of_eq (heq := by assumption) (hm := by decide)) ?_
    | with_reducible refine (keeps_foldl_snd (fun _ _ => ?_)) ?_
    | with_reducible refine (keeps_foldl_fst (fun _ _ => ?_)) ?_
    | with_reducible refine (keeps_foldl_third (fun _ _ => ?_)) ?_
    | with_reducible refine (keeps_foldl_mid (fun _ _ => ?_)) ?_
    | with_reducible refine (keeps_foldl (fun _ _ => ?_)) ?_
    | with_reducible exact Keeps.refl _ _
    | dsimp only
    | (simp only [Prod.ext_iff] at *; casesm* _ ∧ _; subst_vars)

theorem svcRead_of_eq {d : Die} {ctx a n : Nat} {s : State}{v0 v1} {v2 : State} (heq : svcRead d ctx a n s = (v0, v1, v2)) (hm : Sub 0x20000000000000000000000000001800000000000000000000000020000000000000000000000 km) (hk :
    Keeps km kz s) : Keeps km kz v2 := by
  have h := svcRead_keeps (kz := kz) (s := s) hm hk (d := d) (ctx := ctx) (a := a) (n := n)
  rw [heq] at h
  exact h

theorem svcTake_keeps {d : Die} {what : SvcWhat} {f : Frame} {s : State} (hm : Sub 0x400000000000000800000000040000000000000000000 km) (hk :
    Keeps km kz s) : Keeps km kz (svcTake d what f s).2 := by
  refine Keeps.lift hm ?_ hk
  unfold svcTake
  repeat' first
    | with_reducible exact Keeps.refl _ _
    | with_reducible refine (nextSeq_keeps (hm := by decide)) ?_
    | with_reducible refine (nextSeq_of_eq (heq := by assumption) (hm := by decide)) ?_
    | with_reducible refine (modCol_keeps ?_) ?_
    | with_reducible refine (useTag_keeps (hm := by decide)) ?_
    | with_reducible refine keeps_if (fun _ => ?_) (fun _ => ?_)
    | with_reducible refine keeps_if_snd (fun _ => ?_) (fun _ => ?_)
    | dsimp only
    | split
    | (constructor <;> first | exact .inl (by decide) | exact .inr rfl)
    | (simp only [Prod.ext_iff] at *; casesm* _ ∧ _; subst_vars)

theorem svcTake_of_eq {d : Die} {what : SvcWhat} {f : Frame} {s : State}{v0} {v1 : State} (heq : svcTake d what f s = (v0, v1)) (hm : Sub 0x400000000000000800000000040000000000000000000 km) (hk :
    Keeps km kz s) : Keeps km kz v1 := by
  have h := svcTake_keeps (kz := kz) (s := s) hm hk (d := d) (what := what) (f := f)
  rw [heq] at h
  exact h

theorem svcSend_keeps {d : Die} {what : SvcWhat} {f : Frame} {s : State} (hm : Sub 0x800400000000000000800000040060000002d81600000000 km) (hk :
    Keeps km kz s) : Keeps km kz (svcSend d what f s) := by
  refine Keeps.lift hm ?_ hk
  unfold svcSend
  repeat' first
    | with_reducible exact Keeps.refl _ _
    | with_reducible refine (svcTake_keeps (hm := by decide)) ?_
    | with_reducible refine (svcTake_of_eq (heq := by assumption) (hm := by decide)) ?_
    | with_reducible refine (sendFrom_keeps (hm := by decide)) ?_
    | with_reducible refine keeps_if (fun _ => ?_) (fun _ => ?_)
    | with_reducible refine keeps_if_snd (fun _ => ?_) (fun _ => ?_)
    | split
    | (simp only [Prod.ext_iff] at *; casesm* _ ∧ _; subst_vars)

theorem svcSendAll_keeps {d : Die} {l : List (SvcWhat × Frame)} {s : State} (hm : Sub 0x800400000000000000800000040060000002d81600000000 km) (hk :
    Keeps km kz s) : Keeps km kz (svcSendAll d l s) := by
  refine Keeps.lift hm ?_ hk
  unfold svcSendAll
  repeat' first
    | with_reducible exact Keeps.refl _ _
    | with_reducible refine (svcTake_keeps (hm := by decide)) ?_
    | with_reducible refine (svcTake_of_eq (heq := by assumption) (hm := by decide)) ?_
    | with_reducible refine (sendCopies_keeps (hm := by decide)) ?_
    | with_reducible refine (sendFrom_keeps (hm := by decide)) ?_
    | with_reducible refine (keeps_foldl_snd (fun _ _ => ?_)) ?_
    | with_reducible refine (keeps_foldl_fst (fun _ _ => ?_)) ?_
    | with_reducible refine (keeps_foldl_third (fun _ _ => ?_)) ?_
    | with_reducible refine (keeps_foldl_mid (fun _ _ => ?_)) ?_
    | with_reducible refine (keeps_foldl (fun _ _ => ?_)) ?_
    | with_reducible refine keeps_if (fun _ => ?_) (fun _ => ?_)
    | with_reducible refine keeps_if_snd (fun _ => ?_) (fun _ => ?_)
    | dsimp only
    | split
    | (simp only [Prod.ext_iff] at *; casesm* _ ∧ _; subst_vars)

theorem svcDrop_keeps {d : Die} {x : SvcSend} {s : State} (hm : Sub 0x400000000000000000000000000000000000000000000 km) (hk :
    Keeps km kz s) : Keeps km kz (svcDrop d x s) := by
  refine Keeps.lift hm ?_ hk
  unfold svcDrop
  repeat' first
    | with_reducible exact Keeps.refl _ _
    | with_reducible refine (modCol_keeps ?_) ?_
    | dsimp only
    | (constructor <;> first | exact .inl (by decide) | exact .inr rfl)

theorem modOp_keeps {d : Die} {id : Nat} {g : Op → Op} {s : State} (hm : Sub 0x40000000000000000000000000000000000000000000 km) (hk :
    Keeps km kz s) : Keeps km kz (modOp d id g s) := by
  refine Keeps.lift hm ?_ hk
  unfold modOp
  repeat' first
    | with_reducible exact Keeps.refl _ _
    | with_reducible refine (modCol_keeps ?_) ?_
    | with_reducible refine keeps_if (fun _ => ?_) (fun _ => ?_)
    | dsimp only
    | split
    | (constructor <;> first | exact .inl (by decide) | exact .inr rfl)
    | (simp only [id, Keeps.refl]; done)

theorem newOp_keeps {d : Die} {kind : OpKind} {f : Frame} {left : List Nat} {s : State} (hm : Sub 0xd800000000000000c0000000000000000000000000000000000000000000 km) (hk :
    Keeps km kz s) : Keeps km kz (newOp d kind f left s).2 := by
  refine Keeps.lift hm ?_ hk
  unfold newOp
  repeat' first
    | with_reducible exact Keeps.refl _ _
    | with_reducible refine (countReq_keeps (hm := by decide)) ?_
    | with_reducible refine (modCol_keeps ?_) ?_
    | dsimp only
    | (constructor <;> first | exact .inl (by decide) | exact .inr rfl)
    | (simp only [id, Keeps.refl]; done)

theorem newOp_of_eq {d : Die} {kind : OpKind} {f : Frame} {left : List Nat} {s : State}{v0} {v1 : State} (heq : newOp d kind f left s = (v0, v1)) (hm : Sub 0xd800000000000000c0000000000000000000000000000000000000000000 km) (hk :
    Keeps km kz s) : Keeps km kz v1 := by
  have h := newOp_keeps (kz := kz) (s := s) hm hk (d := d) (kind := kind) (f := f) (left := left)
  rw [heq] at h
  exact h

theorem endOp_keeps {d : Die} {id : Nat} {st : BitVec 5} {payload : Bytes} {s : State} (hm : Sub 0xd80000000000800040000000000000000000040020000002d81600000000 km) (hk :
    Keeps km kz s) : Keeps km kz (endOp d id st payload s) := by
  refine Keeps.lift hm ?_ hk
  unfold endOp
  repeat' first
    | with_reducible exact Keeps.refl _ _
    | with_reducible refine (answer_keeps (hm := by decide)) ?_
    | with_reducible refine (modCol_keeps ?_) ?_
    | with_reducible refine keeps_if (fun _ => ?_) (fun _ => ?_)
    | dsimp only
    | split
    | (constructor <;> first | exact .inl (by decide) | exact .inr rfl)
    | (simp only [id, Keeps.refl]; done)

theorem completeOp_keeps {d : Die} {id : Nat} {s : State} (hm : Sub 0xd80000000001808040000000000000000000040020000002d81600000000 km) (hk :
    Keeps km kz s) : Keeps km kz (completeOp d id s) := by
  refine Keeps.lift hm ?_ hk
  unfold completeOp
  repeat' first
    | with_reducible exact Keeps.refl _ _
    | with_reducible refine (endOp_keeps (hm := by first | decide | (simp only [StReg.mask]; decide))) ?_
    | with_reducible refine (setStatus_keeps (hm := by first | decide | (simp only [StReg.mask]; decide))) ?_
    | with_reducible refine keeps_if (fun _ => ?_) (fun _ => ?_)
    | dsimp only
    | split
    | (simp only [id, Keeps.refl]; done)

theorem opStores_keeps {d : Die} {l : List (Nat × Nat)} {b : Bytes} {s : State} (hm : Sub 0x800440000000000000800000040060000002d81600000000 km) (hk :
    Keeps km kz s) : Keeps km kz (opStores d l b s) := by
  refine Keeps.lift hm ?_ hk
  unfold opStores
  repeat' first
    | with_reducible exact Keeps.refl _ _
    | with_reducible refine (svcSendAll_keeps (hm := by decide)) ?_
    | with_reducible refine (modOp_keeps (hm := by decide)) ?_
    | with_reducible refine (keeps_foldl_snd (fun _ _ => ?_)) ?_
    | with_reducible refine (keeps_foldl_fst (fun _ _ => ?_)) ?_
    | with_reducible refine (keeps_foldl_third (fun _ _ => ?_)) ?_
    | with_reducible refine (keeps_foldl_mid (fun _ _ => ?_)) ?_
    | with_reducible refine (keeps_foldl (fun _ _ => ?_)) ?_
    | dsimp only
    | (simp only [Prod.ext_iff] at *; casesm* _ ∧ _; subst_vars)

theorem opStore_keeps {d : Die} {id a : Nat} {b : Bytes} {s : State} (hm : Sub 0x800440000000000000800000040060000002d81600000000 km) (hk :
    Keeps km kz s) : Keeps km kz (opStore d id a b s) := by
  refine Keeps.lift hm ?_ hk
  unfold opStore
  repeat' first
    | with_reducible exact Keeps.refl _ _
    | with_reducible refine (opStores_keeps (hm := by decide)) ?_
    | (simp only [id, Keeps.refl]; done)

end Machine
end Sys2Proof
end

