-- ==== Sys2Proof/Laws/FrameCollect.lean ====
section
/-! SUPPORT. Frames of the functions of Machine/Collect.lean: the parts of the state that each may change, as a mask (Laws/Keeps.lean). -/

namespace Sys2Proof
namespace Machine
set_option linter.unusedTactic false
set_option linter.unreachableTactic false
set_option linter.tactic.unusedName false
variable {km : Nat} {kz : State}

theorem modInst_keeps {d : Die} {group node inst : Nat} {g : Instance → Instance} {s : State} (hm : Sub 0x100000000000000000000000000000000000000000000 km) (hk :
    Keeps km kz s) : Keeps km kz (modInst d group node inst g s) := by
  refine Keeps.lift hm ?_ hk
  unfold modInst
  repeat' first
    | with_reducible exact Keeps.refl _ _
    | with_reducible refine (modCol_keeps ?_) ?_
    | with_reducible refine keeps_if (fun _ => ?_) (fun _ => ?_)
    | dsimp only
    | split
    | (constructor <;> first | exact .inl (by decide) | exact .inr rfl)

theorem dropInstance_keeps {d : Die} {i : Instance} {s : State} (hm : Sub 0x700400000000000000000000000000000000000000000 km) (hk :
    Keeps km kz s) : Keeps km kz (dropInstance d i s) := by
  refine Keeps.lift hm ?_ hk
  unfold dropInstance
  repeat' first
    | with_reducible exact Keeps.refl _ _
    | with_reducible refine (modPod_keeps ?_) ?_
    | with_reducible refine (modCol_keeps ?_) ?_
    | with_reducible refine keeps_if (fun _ => ?_) (fun _ => ?_)
    | dsimp only
    | split
    | (constructor <;> first | exact .inl (by decide) | exact .inr rfl)

theorem partRsp_keeps {d : Die} {f : Frame} {st : BitVec 5} {b : Bytes} {s : State} (hm : Sub 0xd80000000000800000000000000000000000040020000002d81600000000 km) (hk :
    Keeps km kz s) : Keeps km kz (partRsp d f st b s) := by
  refine Keeps.lift hm ?_ hk
  unfold partRsp
  repeat' first
    | with_reducible exact Keeps.refl _ _
    | with_reducible refine (sendFrom_keeps (hm := by decide)) ?_
    | with_reducible refine (tapBytes_keeps (hm := by decide)) ?_
    | with_reducible refine (answer_keeps (hm := by decide)) ?_
    | with_reducible refine keeps_if (fun _ => ?_) (fun _ => ?_)
    | split
    | (simp only [Prod.ext_iff] at *; casesm* _ ∧ _; subst_vars)

theorem closeInstance_keeps {d : Die} {group node inst : Nat} {s : State} (hm : Sub 0x700400000000000000000000000000000000000000000 km) (hk :
    Keeps km kz s) : Keeps km kz (closeInstance d group node inst s) := by
  refine Keeps.lift hm ?_ hk
  unfold closeInstance
  repeat' first
    | with_reducible exact Keeps.refl _ _
    | with_reducible refine (dropInstance_keeps (hm := by decide)) ?_
    | with_reducible refine keeps_if (fun _ => ?_) (fun _ => ?_)
    | split

theorem answerParts_keeps {d : Die} {i : Instance} {p : Part → Bool} {st : BitVec 5} {s : State} (hm : Sub 0xd80000000000800100000000000000000000040020000002d81600000000 km) (hk :
    Keeps km kz s) : Keeps km kz (answerParts d i p st s) := by
  refine Keeps.lift hm ?_ hk
  unfold answerParts
  repeat' first
    | with_reducible exact Keeps.refl _ _
    | with_reducible refine (modInst_keeps (hm := by decide)) ?_
    | with_reducible refine (partRsp_keeps (hm := by decide)) ?_
    | with_reducible refine (keeps_foldl_snd (fun _ _ => ?_)) ?_
    | with_reducible refine (keeps_foldl_fst (fun _ _ => ?_)) ?_
    | with_reducible refine (keeps_foldl_third (fun _ _ => ?_)) ?_
    | with_reducible refine (keeps_foldl_mid (fun _ _ => ?_)) ?_
    | with_reducible refine (keeps_foldl (fun _ _ => ?_)) ?_
    | with_reducible refine keeps_if (fun _ => ?_) (fun _ => ?_)
    | dsimp only
    | split
    | (simp only [Prod.ext_iff] at *; casesm* _ ∧ _; subst_vars)

theorem endInstance_keeps {d : Die} {i : Instance} {st : BitVec 5} {s : State} (hm : Sub 0xd80000000000800140000000000000000000040020000002d81600000000 km) (hk :
    Keeps km kz s) : Keeps km kz (endInstance d i st s) := by
  refine Keeps.lift hm ?_ hk
  unfold endInstance
  repeat' first
    | with_reducible exact Keeps.refl _ _
    | with_reducible refine (endOp_keeps (hm := by decide)) ?_
    | with_reducible refine (answerParts_keeps (hm := by decide)) ?_
    | with_reducible refine (keeps_foldl_snd (fun _ _ => ?_)) ?_
    | with_reducible refine (keeps_foldl_fst (fun _ _ => ?_)) ?_
    | with_reducible refine (keeps_foldl_third (fun _ _ => ?_)) ?_
    | with_reducible refine (keeps_foldl_mid (fun _ _ => ?_)) ?_
    | with_reducible refine (keeps_foldl (fun _ _ => ?_)) ?_
    | dsimp only
    | (simp only [Prod.ext_iff] at *; casesm* _ ∧ _; subst_vars)

theorem abortInstance_keeps {d : Die} {i : Instance} {st : BitVec 5} {s : State} (hm : Sub 0xd80000000000800740400000000000000000040020000002d81600000000 km) (hk :
    Keeps km kz s) : Keeps km kz (abortInstance d i st s) := by
  refine Keeps.lift hm ?_ hk
  unfold abortInstance
  repeat' first
    | with_reducible exact Keeps.refl _ _
    | with_reducible refine (dropInstance_keeps (hm := by decide)) ?_
    | with_reducible refine (endInstance_keeps (hm := by decide)) ?_

theorem abortInstances_keeps {d : Die} {p : Instance → Bool} {st : BitVec 5} {s : State} (hm : Sub 0xd80000000000800740400000000000000000040020000002d81600000000 km) (hk :
    Keeps km kz s) : Keeps km kz (abortInstances d p st s) := by
  refine Keeps.lift hm ?_ hk
  unfold abortInstances
  repeat' first
    | with_reducible exact Keeps.refl _ _
    | with_reducible refine (abortInstance_keeps (hm := by decide)) ?_
    | with_reducible refine (keeps_foldl_snd (fun _ _ => ?_)) ?_
    | with_reducible refine (keeps_foldl_fst (fun _ _ => ?_)) ?_
    | with_reducible refine (keeps_foldl_third (fun _ _ => ?_)) ?_
    | with_reducible refine (keeps_foldl_mid (fun _ _ => ?_)) ?_
    | with_reducible refine (keeps_foldl (fun _ _ => ?_)) ?_
    | dsimp only
    | (simp only [Prod.ext_iff] at *; casesm* _ ∧ _; subst_vars)

theorem failInstance_keeps {d : Die} {i : Instance} {s : State} (hm : Sub 0xd80000000001801740400000000000000000040020000002d81600000000 km) (hk :
    Keeps km kz s) : Keeps km kz (failInstance d i s) := by
  refine Keeps.lift hm ?_ hk
  unfold failInstance
  repeat' first
    | with_reducible exact Keeps.refl _ _
    | with_reducible refine (modInst_keeps (hm := by first | decide | (simp only [StReg.mask]; decide))) ?_
    | with_reducible refine (closeInstance_keeps (hm := by first | decide | (simp only [StReg.mask]; decide))) ?_
    | with_reducible refine (setStatus_keeps (hm := by first | decide | (simp only [StReg.mask]; decide))) ?_
    | with_reducible refine (endInstance_keeps (hm := by first | decide | (simp only [StReg.mask]; decide))) ?_
    | dsimp only

theorem sendChildDesc_keeps {d : Die} {i : Instance} {s : State} (hm : Sub 0x800400000000000000800000040060000002d81600000000 km) (hk :
    Keeps km kz s) : Keeps km kz (sendChildDesc d i s) := by
  refine Keeps.lift hm ?_ hk
  unfold sendChildDesc
  repeat' first
    | with_reducible exact Keeps.refl _ _
    | with_reducible refine (svcSend_keeps (hm := by decide)) ?_
    | with_reducible refine keeps_if (fun _ => ?_) (fun _ => ?_)
    | dsimp only
    | split
    | (simp only [Prod.ext_iff] at *; casesm* _ ∧ _; subst_vars)

theorem takeReduce_keeps {d : Die} {f : Frame} {s : State} (hm : Sub 0xd800000000018017c0400000000000800000040060000002d81600000000 km) (hk :
    Keeps km kz s) : Keeps km kz (takeReduce d f s) := by
  refine Keeps.lift hm ?_ hk
  unfold takeReduce
  repeat' first
    | with_reducible exact Keeps.refl _ _
    | with_reducible refine (refuse_keeps (hm := by decide)) ?_
    | with_reducible refine (newOp_keeps (hm := by decide)) ?_
    | with_reducible refine (newOp_of_eq (heq := by assumption) (hm := by decide)) ?_
    | with_reducible refine (sendChildDesc_keeps (hm := by decide)) ?_
    | with_reducible refine (modCol_keeps ?_) ?_
    | with_reducible refine (modInst_keeps (hm := by decide)) ?_
    | with_reducible refine (closeInstance_keeps (hm := by decide)) ?_
    | with_reducible refine (endOp_keeps (hm := by decide)) ?_
    | with_reducible refine (failInstance_keeps (hm := by decide)) ?_
    | with_reducible refine keeps_elim ?_ (fun _ => ?_)
    | with_reducible refine keeps_if (fun _ => ?_) (fun _ => ?_)
    | with_reducible refine keeps_if_snd (fun _ => ?_) (fun _ => ?_)
    | dsimp only
    | split
    | (constructor <;> first | exact .inl (by decide) | exact .inr rfl)
    | (simp only [Prod.ext_iff] at *; casesm* _ ∧ _; subst_vars)

theorem execColReduce_keeps {d : Die} {f : Frame} {s : State} : Keeps 0xd800000000018017c04000000000008000000c0160000002d81600000000 s (after (execColReduce d f s) s) := by
  unfold execColReduce
  repeat' first
    | with_reducible exact Keeps.refl _ _
    | with_reducible refine (takeReduce_keeps (hm := by decide)) ?_
    | with_reducible refine keeps_after_svcReq (h_go := fun _ => ?_) (hm := by decide)

theorem holdPart_keeps {d : Die} {i : Instance} {pos chunk : Nat} {f : Frame} {s : State} (hm : Sub 0x1b80100000000000000000000000000000000000000000000 km) (hk :
    Keeps km kz s) : Keeps km kz (holdPart d i pos chunk f s) := by
  refine Keeps.lift hm ?_ hk
  unfold holdPart
  repeat' first
    | with_reducible exact Keeps.refl _ _
    | with_reducible refine (modInst_keeps (hm := by decide)) ?_
    | with_reducible refine (decodeAt_keeps (hm := by decide)) ?_
    | with_reducible refine (decodeAt_of_eq (heq := by assumption) (hm := by decide)) ?_
    | with_reducible refine keeps_if (fun _ => ?_) (fun _ => ?_)
    | with_reducible refine keeps_if_snd (fun _ => ?_) (fun _ => ?_)
    | dsimp only
    | split
    | (simp only [Prod.ext_iff] at *; casesm* _ ∧ _; subst_vars)

theorem partAt_keeps {d : Die} {i : Instance} {p : PosDesc} {f : Frame} {s : State} (hm : Sub 0xd80000000001b81740400000000000000000040020000002d81600000000 km) (hk :
    Keeps km kz s) : Keeps km kz (partAt d i p f s) := by
  refine Keeps.lift hm ?_ hk
  unfold partAt
  repeat' first
    | with_reducible exact Keeps.refl _ _
    | with_reducible refine (refuse_keeps (hm := by first | decide | (simp only [StReg.mask]; decide))) ?_
    | with_reducible refine (setStatus_keeps (hm := by first | decide | (simp only [StReg.mask]; decide))) ?_
    | with_reducible refine (partRsp_keeps (hm := by first | decide | (simp only [StReg.mask]; decide))) ?_
    | with_reducible refine (closeInstance_keeps (hm := by first | decide | (simp only [StReg.mask]; decide))) ?_
    | with_reducible refine (endOp_keeps (hm := by first | decide | (simp only [StReg.mask]; decide))) ?_
    | with_reducible refine (holdPart_keeps (hm := by first | decide | (simp only [StReg.mask]; decide))) ?_
    | with_reducible refine (countReq_keeps (hm := by first | decide | (simp only [StReg.mask]; decide))) ?_
    | with_reducible refine keeps_if (fun _ => ?_) (fun _ => ?_)
    | dsimp only
    | split

theorem takePart_keeps {d : Die} {f : Frame} {s : State} (hm : Sub 0xd80000000001b81740400000000000000000040020000002d81600000000 km) (hk :
    Keeps km kz s) : Keeps km kz (takePart d f s) := by
  refine Keeps.lift hm ?_ hk
  unfold takePart
  repeat' first
    | with_reducible exact Keeps.refl _ _
    | with_reducible refine (refuse_keeps (hm := by decide)) ?_
    | with_reducible refine (partAt_keeps (hm := by decide)) ?_
    | with_reducible refine keeps_if (fun _ => ?_) (fun _ => ?_)
    | dsimp only
    | split
    | (simp only [Prod.ext_iff] at *; casesm* _ ∧ _; subst_vars)

theorem execColPart_keeps {d : Die} {f : Frame} {s : State} : Keeps 0xd80000000001b817404000000000000000000c0120000002d81600000000 s (after (execColPart d f s) s) := by
  unfold execColPart
  repeat' first
    | with_reducible exact Keeps.refl _ _
    | with_reducible refine (takePart_keeps (hm := by decide)) ?_
    | with_reducible refine keeps_after_svcReq (h_go := fun _ => ?_) (hm := by decide)

theorem execChunkCombine_keeps {d : Die} {group node inst chunk : Nat} {s : State} : Keeps 0x20000000000000000000000000000000100400000000000000000000000000000000000000000 s (after (execChunkCombine d group node inst chunk s) s) := by
  unfold execChunkCombine
  repeat' first
    | with_reducible exact Keeps.refl _ _
    | with_reducible refine (queueItem_keeps (hm := by decide)) ?_
    | with_reducible refine (modInst_keeps (hm := by decide)) ?_
    | with_reducible refine keeps_if (fun _ => ?_) (fun _ => ?_)
    | with_reducible refine keeps_if_after (fun _ => ?_) (fun _ => ?_)
    | dsimp only
    | split
    | with_reducible refine keeps_after_svcOk ?_
    | (simp only [Prod.ext_iff] at *; casesm* _ ∧ _; subst_vars)

theorem contributions_keeps {d : Die} {i : Instance} {chunk : Nat} {s : State} (hm : Sub 0x20000000000000000000000000001800000000000000000000000020000000000000000000000 km) (hk :
    Keeps km kz s) : Keeps km kz (contributions d i chunk s).2 := by
  refine Keeps.lift hm ?_ hk
  unfold contributions
  repeat' first
    | with_reducible exact Keeps.refl _ _
    | with_reducible refine (svcRead_keeps (hm := by decide)) ?_
    | with_reducible refine (svcRead_of_eq (heq := by assumption) (hm := by decide)) ?_
    | with_reducible refine (keeps_foldl_snd (fun _ _ => ?_)) ?_
    | with_reducible refine (keeps_foldl_fst (fun _ _ => ?_)) ?_
    | with_reducible refine (keeps_foldl_third (fun _ _ => ?_)) ?_
    | with_reducible refine (keeps_foldl_mid (fun _ _ => ?_)) ?_
    | with_reducible refine (keeps_foldl (fun _ _ => ?_)) ?_
    | extract_lets
    | split
    | dsimp only
    | (simp only [Prod.ext_iff] at *; casesm* _ ∧ _; subst_vars)

theorem contributions_of_eq {d : Die} {i : Instance} {chunk : Nat} {s : State}{v0} {v1 : State} (heq : contributions d i chunk s = (v0, v1)) (hm : Sub 0x20000000000000000000000000001800000000000000000000000020000000000000000000000 km) (hk :
    Keeps km kz s) : Keeps km kz v1 := by
  have h := contributions_keeps (kz := kz) (s := s) hm hk (d := d) (i := i) (chunk := chunk)
  rw [heq] at h
  exact h

theorem endDescs_keeps {d : Die} {group node inst : Nat} {s : State} (hm : Sub 0xd80000000001808740400000000000000000040020000002d81600000000 km) (hk :
    Keeps km kz s) : Keeps km kz (endDescs d group node inst s) := by
  refine Keeps.lift hm ?_ hk
  unfold endDescs
  repeat' first
    | with_reducible exact Keeps.refl _ _
    | with_reducible refine (closeInstance_keeps (hm := by decide)) ?_
    | with_reducible refine (completeOp_keeps (hm := by decide)) ?_
    | with_reducible refine (modOp_keeps (hm := by decide)) ?_
    | with_reducible refine (keeps_foldl_snd (fun _ _ => ?_)) ?_
    | with_reducible refine (keeps_foldl_fst (fun _ _ => ?_)) ?_
    | with_reducible refine (keeps_foldl_third (fun _ _ => ?_)) ?_
    | with_reducible refine (keeps_foldl_mid (fun _ _ => ?_)) ?_
    | with_reducible refine (keeps_foldl (fun _ _ => ?_)) ?_
    | with_reducible refine keeps_if (fun _ => ?_) (fun _ => ?_)
    | dsimp only
    | split
    | (simp only [Prod.ext_iff] at *; casesm* _ ∧ _; subst_vars)

theorem deliver_keeps {d : Die} {i : Instance} {chunk : Nat} {st : BitVec 5} {b : Bytes} {s : State} (hm : Sub 0xd80000000001809740400000000000800000040060000002d81600000000 km) (hk :
    Keeps km kz s) : Keeps km kz (deliver d i chunk st b s) := by
  refine Keeps.lift hm ?_ hk
  unfold deliver
  repeat' first
    | with_reducible exact Keeps.refl _ _
    | with_reducible refine (modInst_keeps (hm := by first | decide | (simp only [StReg.mask]; decide))) ?_
    | with_reducible refine (setStatus_keeps (hm := by first | decide | (simp only [StReg.mask]; decide))) ?_
    | with_reducible refine (partRsp_keeps (hm := by first | decide | (simp only [StReg.mask]; decide))) ?_
    | with_reducible refine (opStores_keeps (hm := by first | decide | (simp only [StReg.mask]; decide))) ?_
    | with_reducible refine (endDescs_keeps (hm := by first | decide | (simp only [StReg.mask]; decide))) ?_
    | with_reducible refine (keeps_foldl_snd (fun _ _ => ?_)) ?_
    | with_reducible refine (keeps_foldl_fst (fun _ _ => ?_)) ?_
    | with_reducible refine (keeps_foldl_third (fun _ _ => ?_)) ?_
    | with_reducible refine (keeps_foldl_mid (fun _ _ => ?_)) ?_
    | with_reducible refine (keeps_foldl (fun _ _ => ?_)) ?_
    | with_reducible refine keeps_elim ?_ (fun _ => ?_)
    | with_reducible refine keeps_if (fun _ => ?_) (fun _ => ?_)
    | dsimp only
    | split
    | (simp only [Prod.ext_iff] at *; casesm* _ ∧ _; subst_vars)

theorem chunkEnd_keeps {d : Die} {group node inst chunk : Nat} {st : BitVec 5} {s : State} (hm : Sub 0x20000000000000000d8000000000180b740400000000000800000060060000002d81600000000 km) (hk :
    Keeps km kz s) : Keeps km kz (chunkEnd d group node inst chunk st s) := by
  refine Keeps.lift hm ?_ hk
  unfold chunkEnd
  repeat' first
    | with_reducible exact Keeps.refl _ _
    | with_reducible refine (contributions_keeps (hm := by decide)) ?_
    | with_reducible refine (contributions_of_eq (heq := by assumption) (hm := by decide)) ?_
    | with_reducible refine (modCol_keeps ?_) ?_
    | with_reducible refine (deliver_keeps (hm := by decide)) ?_
    | with_reducible refine (modInst_keeps (hm := by decide)) ?_
    | with_reducible refine (svcSend_keeps (hm := by decide)) ?_
    | extract_lets
    | split
    | dsimp only
    | (constructor <;> first | exact .inl (by decide) | exact .inr rfl)
    | (simp only [Prod.ext_iff] at *; casesm* _ ∧ _; subst_vars)

theorem execColPartRsp_keeps {d : Die} {f : Frame} {s0 : State} : Keeps 0xd80000000001b89740400000000000800000040070000002d81600000000 s0 (after (execColPartRsp d f s0) s0) := by
  unfold execColPartRsp
  repeat' first
    | with_reducible exact Keeps.refl _ _
    | with_reducible refine (takeAgent_keeps (hm := by decide)) ?_
    | with_reducible refine (sendFrom_keeps (hm := by decide)) ?_
    | with_reducible refine (svcDrop_keeps (hm := by decide)) ?_
    | with_reducible refine (decodeAt_keeps (hm := by decide)) ?_
    | with_reducible refine (decodeAt_of_eq (heq := by assumption) (hm := by decide)) ?_
    | with_reducible refine (deliver_keeps (hm := by decide)) ?_
    | with_reducible refine (failInstance_keeps (hm := by decide)) ?_
    | with_reducible refine (abortInstance_keeps (hm := by decide)) ?_
    | with_reducible refine keeps_if (fun _ => ?_) (fun _ => ?_)
    | with_reducible refine keeps_if_after (fun _ => ?_) (fun _ => ?_)
    | with_reducible refine keeps_if_snd (fun _ => ?_) (fun _ => ?_)
    | dsimp only
    | split
    | with_reducible refine keeps_after_svcOk ?_
    | (simp only [Prod.ext_iff] at *; casesm* _ ∧ _; subst_vars)

theorem execServiceStoreResponse_keeps {d : Die} {f : Frame} {s0 : State} : Keeps 0x2d80000000001809740400000000000000000040030000002d81600000000 s0 (after (execServiceStoreResponse d f s0) s0) := by
  unfold execServiceStoreResponse
  repeat' first
    | with_reducible exact Keeps.refl _ _
    | with_reducible refine (takeAgent_keeps (hm := by first | decide | (simp only [StReg.mask]; decide))) ?_
    | with_reducible refine (sendFrom_keeps (hm := by first | decide | (simp only [StReg.mask]; decide))) ?_
    | with_reducible refine (modOp_keeps (hm := by first | decide | (simp only [StReg.mask]; decide))) ?_
    | with_reducible refine (svcDrop_keeps (hm := by first | decide | (simp only [StReg.mask]; decide))) ?_
    | with_reducible refine (setStatus_keeps (hm := by first | decide | (simp only [StReg.mask]; decide))) ?_
    | with_reducible refine (completeOp_keeps (hm := by first | decide | (simp only [StReg.mask]; decide))) ?_
    | with_reducible refine (closeInstance_keeps (hm := by first | decide | (simp only [StReg.mask]; decide))) ?_
    | with_reducible refine (modMtr_keeps ?_) ?_
    | with_reducible refine keeps_if (fun _ => ?_) (fun _ => ?_)
    | with_reducible refine keeps_if_after (fun _ => ?_) (fun _ => ?_)
    | dsimp only
    | split
    | with_reducible refine keeps_after_svcOk ?_
    | (constructor <;> first | exact .inl (by decide) | exact .inr rfl)
    | (simp only [Prod.ext_iff] at *; casesm* _ ∧ _; subst_vars)
    | (simp only [id, Keeps.refl]; done)

theorem execInstanceTimeout_keeps {d : Die} {group node inst : Nat} {s : State} : Keeps 0xd80000000001801740400000000000000000040020000002d81600000000 s (after (execInstanceTimeout d group node inst s) s) := by
  unfold execInstanceTimeout
  repeat' first
    | with_reducible exact Keeps.refl _ _
    | with_reducible refine (setStatus_keeps (hm := by first | decide | (simp only [StReg.mask]; decide))) ?_
    | with_reducible refine (abortInstance_keeps (hm := by first | decide | (simp only [StReg.mask]; decide))) ?_
    | with_reducible refine keeps_if (fun _ => ?_) (fun _ => ?_)
    | with_reducible refine keeps_if_after (fun _ => ?_) (fun _ => ?_)
    | split
    | with_reducible refine keeps_after_svcOk ?_

theorem startGather_keeps {d : Die} {id : Nat} {s : State} (hm : Sub 0x20000000000000000d80000000001800040400000000000000000060020000002d81600000000 km) (hk :
    Keeps km kz s) : Keeps km kz (startGather d id s) := by
  refine Keeps.lift hm ?_ hk
  unfold startGather
  repeat' first
    | with_reducible exact Keeps.refl _ _
    | with_reducible refine (svcRead_keeps (hm := by decide)) ?_
    | with_reducible refine (svcRead_of_eq (heq := by assumption) (hm := by decide)) ?_
    | with_reducible refine (endOp_keeps (hm := by decide)) ?_
    | with_reducible refine (queueItem_keeps (hm := by decide)) ?_
    | with_reducible refine (modOp_keeps (hm := by decide)) ?_
    | with_reducible refine (keeps_foldl_snd (fun _ _ => ?_)) ?_
    | with_reducible refine (keeps_foldl_fst (fun _ _ => ?_)) ?_
    | with_reducible refine (keeps_foldl_third (fun _ _ => ?_)) ?_
    | with_reducible refine (keeps_foldl_mid (fun _ _ => ?_)) ?_
    | with_reducible refine (keeps_foldl (fun _ _ => ?_)) ?_
    | with_reducible refine keeps_if (fun _ => ?_) (fun _ => ?_)
    | with_reducible refine keeps_if_third (fun _ => ?_) (fun _ => ?_)
    | dsimp only
    | split
    | (simp only [Prod.ext_iff] at *; casesm* _ ∧ _; subst_vars)
    | (simp only [id, Keeps.refl]; done)

theorem tryGather_keeps {d : Die} {id : Nat} {s : State} (hm : Sub 0x38000000000000000d80000000001800040440000008183c00000060060000002d81600000000 km) (hk :
    Keeps km kz s) : Keeps km kz (tryGather d id s) := by
  refine Keeps.lift hm ?_ hk
  unfold tryGather
  repeat' first
    | with_reducible exact Keeps.refl _ _
    | with_reducible refine (withData_keeps (hm := by decide) (h_go := fun _ => ?_)) ?_
    | with_reducible refine (startGather_keeps (hm := by decide)) ?_
    | with_reducible refine (modOp_keeps (hm := by decide)) ?_
    | with_reducible refine keeps_if (fun _ => ?_) (fun _ => ?_)
    | dsimp only
    | split
    | (simp only [Prod.ext_iff] at *; casesm* _ ∧ _; subst_vars)
    | (simp only [id, Keeps.refl]; done)

theorem takeGather_keeps {d : Die} {f : Frame} {s : State} (hm : Sub 0x38000000000000000d800000000018000c0440000008183c00000060060000002d81600000000 km) (hk :
    Keeps km kz s) : Keeps km kz (takeGather d f s) := by
  refine Keeps.lift hm ?_ hk
  unfold takeGather
  repeat' first
    | with_reducible exact Keeps.refl _ _
    | with_reducible refine (refuse_keeps (hm := by decide)) ?_
    | with_reducible refine (newOp_keeps (hm := by decide)) ?_
    | with_reducible refine (newOp_of_eq (heq := by assumption) (hm := by decide)) ?_
    | with_reducible refine (tryGather_keeps (hm := by decide)) ?_
    | with_reducible refine (modOp_keeps (hm := by decide)) ?_
    | with_reducible refine keeps_if (fun _ => ?_) (fun _ => ?_)
    | with_reducible refine keeps_if_snd (fun _ => ?_) (fun _ => ?_)
    | dsimp only
    | split
    | (simp only [Prod.ext_iff] at *; casesm* _ ∧ _; subst_vars)
    | (simp only [id, Keeps.refl]; done)

theorem execColGather_keeps {d : Die} {f : Frame} {s : State} : Keeps 0x38000000000000000d800000000018000c0440000008183c000000e0160000002d81620000000 s (after (execColGather d f s) s) := by
  unfold execColGather
  repeat' first
    | with_reducible exact Keeps.refl _ _
    | with_reducible refine (windowMisuse_keeps (hm := by decide)) ?_
    | with_reducible refine (takeGather_keeps (hm := by decide)) ?_
    | with_reducible refine keeps_if (fun _ => ?_) (fun _ => ?_)
    | with_reducible refine keeps_if_after (fun _ => ?_) (fun _ => ?_)
    | split
    | with_reducible refine keeps_after_svcOk ?_
    | with_reducible refine keeps_after_svcReq (h_go := fun _ => ?_) (hm := by decide)

theorem readRows_keeps {d : Die} {ctx base stride rb : Nat} {rows : List Nat} {s : State} (hm : Sub 0x20000000000000000000000000001800000000000000000000000020000000000000000000000 km) (hk :
    Keeps km kz s) : Keeps km kz (readRows d ctx base stride rb rows s).2.2 := by
  refine Keeps.lift hm ?_ hk
  unfold readRows
  repeat' first
    | with_reducible exact Keeps.refl _ _
    | with_reducible refine (svcRead_keeps (hm := by decide)) ?_
    | with_reducible refine (svcRead_of_eq (heq := by assumption) (hm := by decide)) ?_
    | with_reducible refine (keeps_foldl_snd (fun _ _ => ?_)) ?_
    | with_reducible refine (keeps_foldl_fst (fun _ _ => ?_)) ?_
    | with_reducible refine (keeps_foldl_third (fun _ _ => ?_)) ?_
    | with_reducible refine (keeps_foldl_mid (fun _ _ => ?_)) ?_
    | with_reducible refine (keeps_foldl (fun _ _ => ?_)) ?_
    | with_reducible refine keeps_if (fun _ => ?_) (fun _ => ?_)
    | with_reducible refine keeps_if_third (fun _ => ?_) (fun _ => ?_)
    | dsimp only
    | split
    | (simp only [Prod.ext_iff] at *; casesm* _ ∧ _; subst_vars)

theorem readRows_of_eq {d : Die} {ctx base stride rb : Nat} {rows : List Nat} {s : State}{v0 v1} {v2 : State} (heq : readRows d ctx base stride rb rows s = (v0, v1, v2)) (hm : Sub 0x20000000000000000000000000001800000000000000000000000020000000000000000000000 km) (hk :
    Keeps km kz s) : Keeps km kz v2 := by
  have h := readRows_keeps (kz := kz) (s := s) hm hk (d := d) (ctx := ctx) (base := base) (stride := stride) (rb := rb) (rows := rows)
  rw [heq] at h
  exact h

theorem gatherEnd_keeps {d : Die} {id k : Nat} {st : BitVec 5} {s : State} (hm : Sub 0x20000000000000000d80000000001808440000000000000800000060060000002d81600000000 km) (hk :
    Keeps km kz s) : Keeps km kz (gatherEnd d id k st s) := by
  refine Keeps.lift hm ?_ hk
  clear hk
  unfold gatherEnd
  split
  · exact Keeps.refl _ _
  · extract_lets b rb rows dests
    split
    rename_i rst data s1 h1
    extract_lets bad s2 s3
    have k1 : Keeps 0x20000000000000000d80000000001808440000000000000800000060060000002d81600000000 s s1 := readRows_of_eq (heq := h1) (by decide) (Keeps.refl _ _)
    have k2 : Keeps 0x20000000000000000d80000000001808440000000000000800000060060000002d81600000000 s s2 := modOp_keeps (by decide) k1
    clear_value s2 dests bad
    refine (completeOp_keeps (by decide)) ?_
    refine keeps_if (fun _ => (opStores_keeps (by decide)) k2) (fun _ => ?_)
    with_reducible refine (keeps_foldl (fun t a => ?_)) k2
    with_reducible refine (keeps_foldl (fun u i => ?_)) (Keeps.refl _ _)
    extract_lets u1 row
    clear_value row
    have k3 : Keeps 0x20000000000000000d80000000001808440000000000000800000060060000002d81600000000 u u1 := (set_freeCtr_keeps (by decide)) (Keeps.refl _ _)
    clear_value u1
    with_reducible refine keeps_if (fun _ => ?_) (fun _ => k3)
    with_reducible exact (opStore_keeps (by decide)) k3

theorem takeFilter_keeps {d : Die} {f : Frame} {s : State} (hm : Sub 0x20000000000000000d800000000008000c0400000000000000000040020000002d81600000000 km) (hk :
    Keeps km kz s) : Keeps km kz (takeFilter d f s) := by
  refine Keeps.lift hm ?_ hk
  unfold takeFilter
  repeat' first
    | with_reducible exact Keeps.refl _ _
    | with_reducible refine (refuse_keeps (hm := by decide)) ?_
    | with_reducible refine (newOp_keeps (hm := by decide)) ?_
    | with_reducible refine (newOp_of_eq (heq := by assumption) (hm := by decide)) ?_
    | with_reducible refine (queueItem_keeps (hm := by decide)) ?_
    | with_reducible refine (keeps_foldl_snd (fun _ _ => ?_)) ?_
    | with_reducible refine (keeps_foldl_fst (fun _ _ => ?_)) ?_
    | with_reducible refine (keeps_foldl_third (fun _ _ => ?_)) ?_
    | with_reducible refine (keeps_foldl_mid (fun _ _ => ?_)) ?_
    | with_reducible refine (keeps_foldl (fun _ _ => ?_)) ?_
    | with_reducible refine keeps_if (fun _ => ?_) (fun _ => ?_)
    | with_reducible refine keeps_if_snd (fun _ => ?_) (fun _ => ?_)
    | dsimp only
    | split
    | (simp only [Prod.ext_iff] at *; casesm* _ ∧ _; subst_vars)
    | (simp only [id, Keeps.refl]; done)

theorem execColFilter_keeps {d : Die} {f : Frame} {s : State} : Keeps 0x20000000000000000d800000000008000c04000000000000000000c0120000002d81620000000 s (after (execColFilter d f s) s) := by
  unfold execColFilter
  repeat' first
    | with_reducible exact Keeps.refl _ _
    | with_reducible refine (windowMisuse_keeps (hm := by decide)) ?_
    | with_reducible refine (takeFilter_keeps (hm := by decide)) ?_
    | with_reducible refine keeps_if (fun _ => ?_) (fun _ => ?_)
    | with_reducible refine keeps_if_after (fun _ => ?_) (fun _ => ?_)
    | split
    | with_reducible refine keeps_after_svcOk ?_
    | with_reducible refine keeps_after_svcReq (h_go := fun _ => ?_) (hm := by decide)

theorem filterWrite_keeps {d : Die} {o : Op} {s : State} (hm : Sub 0x1801440000000000000800000040060000002d81600000000 km) (hk :
    Keeps km kz s) : Keeps km kz (filterWrite d o s) := by
  refine Keeps.lift hm ?_ hk
  unfold filterWrite
  repeat' first
    | with_reducible exact Keeps.refl _ _
    | with_reducible refine (setStatus_keeps (hm := by first | decide | (simp only [StReg.mask]; decide))) ?_
    | with_reducible refine (modOp_keeps (hm := by first | decide | (simp only [StReg.mask]; decide))) ?_
    | with_reducible refine (opStore_keeps (hm := by first | decide | (simp only [StReg.mask]; decide))) ?_
    | with_reducible refine keeps_if (fun _ => ?_) (fun _ => ?_)
    | dsimp only
    | split
    | (simp only [id, Keeps.refl]; done)

theorem filterEnd_keeps {d : Die} {id k : Nat} {c : Core} {st : BitVec 5} {s : State} (hm : Sub 0x20000000000000000d80000000001809440000000000000800000060060000002d81600000000 km) (hk :
    Keeps km kz s) : Keeps km kz (filterEnd d id k c st s) := by
  refine Keeps.lift hm ?_ hk
  unfold filterEnd
  repeat' first
    | with_reducible exact Keeps.refl _ _
    | with_reducible refine (readRows_keeps (hm := by decide)) ?_
    | with_reducible refine (readRows_of_eq (heq := by assumption) (hm := by decide)) ?_
    | with_reducible refine (modOp_keeps (hm := by decide)) ?_
    | with_reducible refine (completeOp_keeps (hm := by decide)) ?_
    | with_reducible refine (filterWrite_keeps (hm := by decide)) ?_
    | with_reducible refine keeps_elim ?_ (fun _ => ?_)
    | with_reducible refine keeps_if (fun _ => ?_) (fun _ => ?_)
    | with_reducible refine keeps_if_third (fun _ => ?_) (fun _ => ?_)
    | dsimp only
    | split
    | (simp only [Prod.ext_iff] at *; casesm* _ ∧ _; subst_vars)
    | (simp only [id, Keeps.refl]; done)

end Machine
end Sys2Proof
end

