-- ==== Sys2Proof/Laws/FrameSessions.lean ====
section
/-! SUPPORT. Frames of the functions of Machine/Sessions.lean: the parts of the state that each may change, as a mask (Laws/Keeps.lean). -/

namespace Sys2Proof
namespace Machine
set_option linter.unusedTactic false
set_option linter.unreachableTactic false
set_option linter.tactic.unusedName false
variable {km : Nat} {kz : State}

theorem keeps_after_sesOk {s d : State} (hk : Keeps km kz s) : Keeps km kz (after (sesOk s) d) := hk

theorem fillAt_keeps {d : Die} {a : Nat} {b : Bytes} {s : State} (hm : Sub 0x18000000000800000000000000000000000000000000000100000000000000000000000000000 km) (hk :
    Keeps km kz s) : Keeps km kz (fillAt d a b s) := by
  refine Keeps.lift hm ?_ hk
  unfold fillAt
  repeat' first
    | with_reducible exact Keeps.refl _ _
    | with_reducible refine (clearPoison_keeps (hm := by decide)) ?_
    | with_reducible refine (writeMem_keeps (hm := by decide)) ?_
    | with_reducible refine (noteDirty_keeps (hm := by decide)) ?_
    | with_reducible refine (keeps_foldl_snd (fun _ _ => ?_)) ?_
    | with_reducible refine (keeps_foldl_fst (fun _ _ => ?_)) ?_
    | with_reducible refine (keeps_foldl_third (fun _ _ => ?_)) ?_
    | with_reducible refine (keeps_foldl_mid (fun _ _ => ?_)) ?_
    | with_reducible refine (keeps_foldl (fun _ _ => ?_)) ?_
    | with_reducible refine keeps_if (fun _ => ?_) (fun _ => ?_)
    | dsimp only
    | split
    | (simp only [Prod.ext_iff] at *; casesm* _ ∧ _; subst_vars)
    | (simp only [id, Keeps.refl]; done)

theorem writeHeader_keeps {d : Die} {x : Session} {ses : Nat} {p : PageEnt} {valid flags : Nat} {s : State} (hm : Sub 0x18000000000800000000000000000000000000000000000100000000000000000000000000000 km) (hk :
    Keeps km kz s) : Keeps km kz (writeHeader d x ses p valid flags s) := by
  refine Keeps.lift hm ?_ hk
  unfold writeHeader
  repeat' first
    | with_reducible exact Keeps.refl _ _
    | with_reducible refine (fillAt_keeps (hm := by decide)) ?_
    | with_reducible refine keeps_if (fun _ => ?_) (fun _ => ?_)
    | split

theorem createPage_of_eq {x : Session} {ses layer group : Nat} {s : State} {v0 : Nat} {v1 : State} (heq : createPage x ses layer group s = .inr (v0, v1)) (hm : Sub 0x18000000000000000980000000001800000040045c00030000000000000000000000000000000 km) (hk :
    Keeps km kz s) : Keeps km kz v1 := by
  refine Keeps.lift hm ?_ hk
  clear hk
  unfold createPage at heq
  split at heq
  · cases heq
  · split at heq
    · cases heq
    · rename_i e _ _ id tier loc a _
      have h : v1 = _ := (Prod.mk.inj (Sum.inr.inj heq)).2.symm
      subst h
      exact (makeObj_keeps (by decide)) (Keeps.refl _ _)

theorem refPage_keeps {id : Nat} {g : Nat → Nat} {s : State} (hm : Sub 0x10000000000000000000000000000000 km) (hk :
    Keeps km kz s) : Keeps km kz (refPage id g s) := by
  refine Keeps.lift hm ?_ hk
  unfold refPage
  repeat' first
    | with_reducible exact Keeps.refl _ _
    | with_reducible refine (modObj_keeps (hm := by decide)) ?_
    | dsimp only
    | (simp only [id, Keeps.refl]; done)

theorem unlistPage_keeps {id : Nat} {s : State} (hm : Sub 0x18000000000800000d80000000001b80000040045c08191d48067865260000002d81600000000 km) (hk :
    Keeps km kz s) : Keeps km kz (unlistPage id s) := by
  refine Keeps.lift hm ?_ hk
  unfold unlistPage
  repeat' first
    | with_reducible exact Keeps.refl _ _
    | with_reducible refine (refPage_keeps (hm := by decide)) ?_
    | with_reducible refine (endMoveOf_keeps (hm := by decide)) ?_
    | with_reducible refine (modObj_keeps (hm := by decide)) ?_
    | with_reducible refine (dropObj_keeps (hm := by decide)) ?_
    | with_reducible refine keeps_if (fun _ => ?_) (fun _ => ?_)
    | dsimp only
    | split
    | (simp only [id, Keeps.refl]; done)

theorem replacePage_keeps {ses : Nat} {old new : PageEnt} {s : State} (hm : Sub 0x40000000000000000000000000000000 km) (hk :
    Keeps km kz s) : Keeps km kz (replacePage ses old new s) := by
  refine Keeps.lift hm ?_ hk
  unfold replacePage
  repeat' first
    | with_reducible exact Keeps.refl _ _
    | with_reducible refine (modSes_keeps (hm := by decide)) ?_
    | with_reducible refine keeps_if (fun _ => ?_) (fun _ => ?_)
    | dsimp only
    | split

theorem cowPage_of_eq {d : Die} {ses layer : Nat} {p : PageEnt} {s v1 : State} (heq : cowPage d ses layer p s = .inr v1) (hm : Sub 0x18000000000800000d80000000001b88000040045c081f1d48067865260000002d81600000000 km) (hk :
    Keeps km kz s) : Keeps km kz v1 := by
  refine Keeps.lift hm ?_ hk
  clear hk
  unfold cowPage at heq
  split at heq
  · rename_i x o _ _
    split at heq
    · cases heq
    · rename_i id s1 h1
      extract_lets addr s2 q s3 at heq
      have h : v1 = _ := (Sum.inr.inj heq).symm
      have k1 : Keeps 0x18000000000800000d80000000001b88000040045c081f1d48067865260000002d81600000000 s s1 := (createPage_of_eq h1 (by decide)) (Keeps.refl _ _)
      have k2 : Keeps 0x18000000000800000d80000000001b88000040045c081f1d48067865260000002d81600000000 s s2 := (copyRange_keeps (by decide)) k1
      have k3 : Keeps 0x18000000000800000d80000000001b88000040045c081f1d48067865260000002d81600000000 s s3 := (writeHeader_keeps (by decide)) k2
      clear_value s3
      subst h
      exact (setStatus_keeps (by simp only [StReg.mask]; decide)) ((unlistPage_keeps (by decide)) ((replacePage_keeps (by decide)) k3))
  · cases heq

theorem preparePage_of_eq {d : Die} {ses layer group first : Nat} {s v1 : State} (heq : preparePage d ses layer group first s = .inr v1) (hm : Sub 0x18000000000800000d80000000001b88000040045c081f1d48067865260000002d81600000000 km) (hk :
    Keeps km kz s) : Keeps km kz v1 := by
  refine Keeps.lift hm ?_ hk
  clear hk
  unfold preparePage at heq
  split at heq
  · cases heq
  · rename_i x _
    extract_lets l full at heq
    clear_value full l
    split at heq
    · split at heq
      · exact (cowPage_of_eq heq (by decide)) (Keeps.refl _ _)
      · cases heq
        exact Keeps.refl _ _
    · split at heq
      · split at heq
        · have h : v1 = _ := (Sum.inr.inj heq).symm
          subst h
          exact (writeHeader_keeps (by decide)) ((modSes_keeps (by decide)) (Keeps.refl _ _))
        · cases heq
          exact Keeps.refl _ _
      · split at heq
        · cases heq
        · split at heq
          · cases heq
          · rename_i id s1 h1
            extract_lets q s2 at heq
            have h : v1 = _ := (Sum.inr.inj heq).symm
            have k1 : Keeps 0x18000000000800000d80000000001b88000040045c081f1d48067865260000002d81600000000 s s1 := (createPage_of_eq h1 (by decide)) (Keeps.refl _ _)
            have k2 : Keeps 0x18000000000800000d80000000001b88000040045c081f1d48067865260000002d81600000000 s s2 := by
              show Keeps _ _ (match (if full then l.head? else none) with | some p => _ | none => _)
              split
              · exact (unlistPage_keeps (by decide)) ((modSes_keeps (by decide)) k1)
              · exact k1
            clear_value s2
            subst h
            exact (writeHeader_keeps (by decide)) ((modSes_keeps (by decide)) k2)

theorem preparePages_of_eq {d : Die} {ses layer : Nat} {l : List (Nat × Nat)} {s v1 : State} (heq : preparePages d ses layer l s = .inr v1) (hm : Sub 0x18000000000800000d80000000001b88000040045c081f1d48067865260000002d81600000000 km) (hk :
    Keeps km kz s) : Keeps km kz v1 := by
  refine Keeps.lift hm ?_ hk
  clear hk
  induction l generalizing s with
  | nil =>
    cases heq
    exact Keeps.refl _ _
  | cons p r ih =>
    unfold preparePages at heq
    split at heq
    · cases heq
    · rename_i s1 h1
      exact Keeps.trans ((preparePage_of_eq h1 (by decide)) (Keeps.refl _ _)) (ih heq)

theorem writeRow_keeps {d : Die} {x : Session} {layer group tok : Nat} {kRow vRow : Bytes} {s : State} (hm : Sub 0x18000000000800000000000000000000000000000000000100000000000000000000000000000 km) (hk :
    Keeps km kz s) : Keeps km kz (writeRow d x layer group tok kRow vRow s) := by
  refine Keeps.lift hm ?_ hk
  unfold writeRow
  repeat' first
    | with_reducible exact Keeps.refl _ _
    | with_reducible refine (fillAt_keeps (hm := by decide)) ?_
    | with_reducible refine keeps_if (fun _ => ?_) (fun _ => ?_)
    | dsimp only
    | split

theorem writeRows_keeps {d : Die} {x : Session} {layer first n : Nat} {rows : Bytes} {s : State} (hm : Sub 0x18000000000800000000000000000000000000000000000100000000000000000000000000000 km) (hk :
    Keeps km kz s) : Keeps km kz (writeRows d x layer first n rows s) := by
  refine Keeps.lift hm ?_ hk
  unfold writeRows
  repeat' first
    | with_reducible exact Keeps.refl _ _
    | with_reducible refine (writeRow_keeps (hm := by decide)) ?_
    | with_reducible refine (keeps_foldl_snd (fun _ _ => ?_)) ?_
    | with_reducible refine (keeps_foldl_fst (fun _ _ => ?_)) ?_
    | with_reducible refine (keeps_foldl_third (fun _ _ => ?_)) ?_
    | with_reducible refine (keeps_foldl_mid (fun _ _ => ?_)) ?_
    | with_reducible refine (keeps_foldl (fun _ _ => ?_)) ?_
    | dsimp only
    | (simp only [Prod.ext_iff] at *; casesm* _ ∧ _; subst_vars)

theorem attAnswer_keeps {d : Die} {f : Frame} {st : BitVec 5} {n : Nat} {s : State} (hm : Sub 0xd80000000000800000000000000000000000040020000002d81600000000 km) (hk :
    Keeps km kz s) : Keeps km kz (attAnswer d f st n s) := by
  refine Keeps.lift hm ?_ hk
  unfold attAnswer
  repeat' first
    | with_reducible exact Keeps.refl _ _
    | with_reducible refine (answer_keeps (hm := by decide)) ?_

theorem performAppend_keeps {d : Die} {f : Frame} {s : State} (hm : Sub 0x38000000000800000d80000000001b88000040045c081f1d48067865260000002d81600000000 km) (hk :
    Keeps km kz s) : Keeps km kz (performAppend d f s).2.2 := by
  refine Keeps.lift hm ?_ hk
  clear hk
  unfold performAppend
  extract_lets b ses layer n first
  clear_value b ses layer n first
  split
  · exact Keeps.refl _ _
  · rename_i x _
    extract_lets len
    refine keeps_if_third (fun _ => Keeps.refl _ _) (fun _ => ?_)
    refine keeps_if_third (fun _ => Keeps.refl _ _) (fun _ => ?_)
    split
    rename_i rst rows s0 h0
    have k0 : Keeps 0x38000000000800000d80000000001b88000040045c081f1d48067865260000002d81600000000 s s0 := by
      split at h0
      · cases h0
        exact Keeps.refl _ _
      · exact (svcRead_of_eq h0 (by decide)) (Keeps.refl _ _)
    refine keeps_if_third (fun _ => k0) (fun _ => ?_)
    split
    · have kt : ∀ b : Bool, Keeps 0x38000000000800000d80000000001b88000040045c081f1d48067865260000002d81600000000 s (if b = true then setStatus (.tier d) 0 s else s) := fun _ =>
        keeps_if (fun _ => (setStatus_keeps (by simp only [StReg.mask]; decide)) (Keeps.refl _ _)) (fun _ => Keeps.refl _ _)
      exact keeps_if (fun _ => (setStatus_keeps (by simp only [StReg.mask]; decide)) (kt _)) (fun _ => kt _)
    · rename_i s1 h1
      have k1 : Keeps 0x38000000000800000d80000000001b88000040045c081f1d48067865260000002d81600000000 s s1 := (preparePages_of_eq h1 (by decide)) k0
      split
      · exact Keeps.refl _ _
      · rename_i y _
        extract_lets s2 k s3
        have k2 : Keeps 0x38000000000800000d80000000001b88000040045c081f1d48067865260000002d81600000000 s s2 := (writeRows_keeps (by decide)) k1
        have k3 : Keeps 0x38000000000800000d80000000001b88000040045c081f1d48067865260000002d81600000000 s s3 := by
          refine (keeps_foldl (fun t p => ?_)) k2
          split
          · exact (writeHeader_keeps (by decide)) (Keeps.refl _ _)
          · exact Keeps.refl _ _
        clear_value s3
        exact (modSes_keeps (by decide)) k3

theorem performAppend_of_eq {d : Die} {f : Frame} {s : State}{v0 v1} {v2 : State} (heq : performAppend d f s = (v0, v1, v2)) (hm : Sub 0x38000000000800000d80000000001b88000040045c081f1d48067865260000002d81600000000 km) (hk :
    Keeps km kz s) : Keeps km kz v2 := by
  have h := performAppend_keeps (kz := kz) (s := s) hm hk (d := d) (f := f)
  rw [heq] at h
  exact h

theorem writeOver_keeps {d : Die} {id : Nat} {s : State} (hm : Sub 0xd80000000000800040000000000001000000040020000002d81600000000 km) (hk :
    Keeps km kz s) : Keeps km kz (writeOver d id s) := by
  refine Keeps.lift hm ?_ hk
  unfold writeOver
  repeat' first
    | with_reducible exact Keeps.refl _ _
    | with_reducible refine (attAnswer_keeps (hm := by decide)) ?_
    | with_reducible refine (dropJob_keeps (hm := by decide)) ?_
    | with_reducible refine (modCol_keeps ?_) ?_
    | with_reducible refine keeps_elim ?_ (fun _ => ?_)
    | with_reducible refine keeps_if (fun _ => ?_) (fun _ => ?_)
    | dsimp only
    | split
    | (constructor <;> first | exact .inl (by decide) | exact .inr rfl)
    | (simp only [id, Keeps.refl]; done)

theorem putOut_keeps {d : Die} {id n : Nat} {ranges : List (Nat × Nat)} {s : State} (hm : Sub 0x18000000000000000d80000000001800040040000008183c00000040060000002d81600000000 km) (hk :
    Keeps km kz s) : Keeps km kz (putOut d id n ranges s) := by
  refine Keeps.lift hm ?_ hk
  unfold putOut
  repeat' first
    | with_reducible exact Keeps.refl _ _
    | with_reducible refine (writeOver_keeps (hm := by decide)) ?_
    | with_reducible refine (startCopy_keeps (hm := by decide)) ?_
    | with_reducible refine (modOp_keeps (hm := by decide)) ?_
    | dsimp only
    | (simp only [id, Keeps.refl]; done)

theorem appendNow_keeps {d : Die} {id : Nat} {s : State} (hm : Sub 0x38000000000800000d80000000001b88040040045c081f3d48067865260000002d81600000000 km) (hk :
    Keeps km kz s) : Keeps km kz (appendNow d id s) := by
  refine Keeps.lift hm ?_ hk
  unfold appendNow
  repeat' first
    | with_reducible exact Keeps.refl _ _
    | with_reducible refine (performAppend_keeps (hm := by decide)) ?_
    | with_reducible refine (performAppend_of_eq (heq := by assumption) (hm := by decide)) ?_
    | with_reducible refine (attAnswer_keeps (hm := by decide)) ?_
    | with_reducible refine (modCol_keeps ?_) ?_
    | with_reducible refine (putOut_keeps (hm := by decide)) ?_
    | with_reducible refine keeps_elim ?_ (fun _ => ?_)
    | with_reducible refine keeps_if (fun _ => ?_) (fun _ => ?_)
    | with_reducible refine keeps_if_third (fun _ => ?_) (fun _ => ?_)
    | dsimp only
    | split
    | (constructor <;> first | exact .inl (by decide) | exact .inr rfl)
    | (simp only [Prod.ext_iff] at *; casesm* _ ∧ _; subst_vars)
    | (simp only [id, Keeps.refl]; done)

theorem tryAppend_keeps {d : Die} {id : Nat} {s : State} (hm : Sub 0x38000000000800000d80000000001b88040040045c081f3d48067865260000002d81600000000 km) (hk :
    Keeps km kz s) : Keeps km kz (tryAppend d id s) := by
  refine Keeps.lift hm ?_ hk
  unfold tryAppend
  repeat' first
    | with_reducible exact Keeps.refl _ _
    | with_reducible refine (writeOver_keeps (hm := by decide)) ?_
    | with_reducible refine (modOp_keeps (hm := by decide)) ?_
    | with_reducible refine (appendNow_keeps (hm := by decide)) ?_
    | with_reducible refine (withData_keeps (hm := by decide) (h_go := fun _ => ?_)) ?_
    | with_reducible refine keeps_if (fun _ => ?_) (fun _ => ?_)
    | dsimp only
    | split
    | (simp only [Prod.ext_iff] at *; casesm* _ ∧ _; subst_vars)
    | (simp only [id, Keeps.refl]; done)

theorem forkNow_keeps {d : Die} {id ses : Nat} {s : State} (hm : Sub 0x18000000000800000d80000000001800040040000008183d00000040060000002d81600000000 km) (hk :
    Keeps km kz s) : Keeps km kz (forkNow d id ses s) := by
  refine Keeps.lift hm ?_ hk
  unfold forkNow
  repeat' first
    | with_reducible exact Keeps.refl _ _
    | with_reducible refine (putOut_keeps (hm := by decide)) ?_
    | with_reducible refine (fillAt_keeps (hm := by decide)) ?_
    | with_reducible refine (keeps_foldl_snd (fun _ _ => ?_)) ?_
    | with_reducible refine (keeps_foldl_fst (fun _ _ => ?_)) ?_
    | with_reducible refine (keeps_foldl_third (fun _ _ => ?_)) ?_
    | with_reducible refine (keeps_foldl_mid (fun _ _ => ?_)) ?_
    | with_reducible refine (keeps_foldl (fun _ _ => ?_)) ?_
    | with_reducible refine keeps_if (fun _ => ?_) (fun _ => ?_)
    | dsimp only
    | split
    | (simp only [Prod.ext_iff] at *; casesm* _ ∧ _; subst_vars)
    | (simp only [id, Keeps.refl]; done)

theorem tryFork_keeps {d : Die} {id ses : Nat} {s : State} (hm : Sub 0x18000000000800000d80000000001800040040000008183d00000040060000002d81600000000 km) (hk :
    Keeps km kz s) : Keeps km kz (tryFork d id ses s) := by
  refine Keeps.lift hm ?_ hk
  unfold tryFork
  repeat' first
    | with_reducible exact Keeps.refl _ _
    | with_reducible refine (writeOver_keeps (hm := by decide)) ?_
    | with_reducible refine (withData_keeps (hm := by decide) (h_go := fun _ => ?_)) ?_
    | with_reducible refine (forkNow_keeps (hm := by decide)) ?_
    | with_reducible refine (modOp_keeps (hm := by decide)) ?_
    | with_reducible refine keeps_if (fun _ => ?_) (fun _ => ?_)
    | dsimp only
    | split
    | (simp only [Prod.ext_iff] at *; casesm* _ ∧ _; subst_vars)
    | (simp only [id, Keeps.refl]; done)

theorem noteRing_keeps {d : Die} {id ses layer : Nat} {s : State} (hm : Sub 0x1808000000000000000000000000000000000000000000000 km) (hk :
    Keeps km kz s) : Keeps km kz (noteRing d id ses layer s) := by
  refine Keeps.lift hm ?_ hk
  unfold noteRing
  repeat' first
    | with_reducible exact Keeps.refl _ _
    | with_reducible refine (setStatus_keeps (hm := by first | decide | (simp only [StReg.mask]; decide))) ?_
    | with_reducible refine keeps_if (fun _ => ?_) (fun _ => ?_)
    | split
    | (simp only [id, Keeps.refl]; done)

theorem takeAppend_keeps {d : Die} {f : Frame} {s : State} (hm : Sub 0x38000000000800000d80000000001b880c0040045c081f3d48067865260000002d81600000000 km) (hk :
    Keeps km kz s) : Keeps km kz (takeAppend d f s) := by
  refine Keeps.lift hm ?_ hk
  unfold takeAppend
  repeat' first
    | with_reducible exact Keeps.refl _ _
    | with_reducible refine (refuse_keeps (hm := by decide)) ?_
    | with_reducible refine (attAnswer_keeps (hm := by decide)) ?_
    | with_reducible refine (newOp_keeps (hm := by decide)) ?_
    | with_reducible refine (newOp_of_eq (heq := by assumption) (hm := by decide)) ?_
    | with_reducible refine (noteRing_keeps (hm := by decide)) ?_
    | with_reducible refine (tryAppend_keeps (hm := by decide)) ?_
    | with_reducible refine keeps_if (fun _ => ?_) (fun _ => ?_)
    | with_reducible refine keeps_if_snd (fun _ => ?_) (fun _ => ?_)
    | dsimp only
    | split
    | (simp only [Prod.ext_iff] at *; casesm* _ ∧ _; subst_vars)
    | (simp only [id, Keeps.refl]; done)

theorem keeps_after_subReq {km sub : Nat} {d : Die} {f : Frame} {go : State → State} {s : State} (h_go : ∀ x0, Keeps km x0 (go x0)) (hm : Sub 0xc0100000002580200000000 km) : Keeps km s (after (subReq sub d f go s) s) := by
  unfold subReq
  repeat' first
    | with_reducible exact Keeps.refl _ _
    | with_reducible refine (atHome_keeps (hm := by exact sub_trans (by decide) hm) (h_go := fun _ => ?_)) ?_
    | with_reducible refine (Keeps.lift (Nat.and_self km) (h_go _)) ?_
    | with_reducible refine keeps_if (fun _ => ?_) (fun _ => ?_)
    | with_reducible refine keeps_if_after (fun _ => ?_) (fun _ => ?_)
    | dsimp only
    | split
    | with_reducible refine keeps_after_sesOk ?_

theorem execAttAppend_keeps {d : Die} {f : Frame} {s : State} : Keeps 0x38000000000800000d80000000001b880c0040045c081f3d480678e5360000002d81600000000 s (after (execAttAppend d f s) s) := by
  unfold execAttAppend
  repeat' first
    | with_reducible exact Keeps.refl _ _
    | with_reducible refine (takeAppend_keeps (hm := by decide)) ?_
    | with_reducible refine keeps_after_subReq (h_go := fun _ => ?_) (hm := by decide)

theorem takeOpen_keeps {d : Die} {f : Frame} {s : State} (hm : Sub 0xd80000000001800000000000000040008000040020000002d81600000000 km) (hk :
    Keeps km kz s) : Keeps km kz (takeOpen d f s) := by
  refine Keeps.lift hm ?_ hk
  clear hk
  unfold takeOpen
  extract_lets b ses
  clear_value b ses
  have kr : ∀ st, Keeps 0xd80000000001800000000000000040008000040020000002d81600000000 s (refuse d f st s) := fun st => refuse_keeps (by decide) (Keeps.refl _ _)
  split
  · exact kr _
  · split
    · exact kr _
    · iterate 5 refine keeps_if (fun _ => kr _) (fun _ => ?_)
      refine keeps_if (fun _ => refuse_keeps (by decide) (setStatus_keeps (by simp only [StReg.mask]; decide) (Keeps.refl _ _))) (fun _ => ?_)
      extract_lets x
      clear_value x
      exact attAnswer_keeps (by decide) (countReq_keeps (by decide) (set_sessions_keeps (by decide) (Keeps.refl _ _)))

theorem execAttOpen_keeps {d : Die} {f : Frame} {s : State} : Keeps 0xd800000000018000000000000000400080000c0120000002d81600000000 s (after (execAttOpen d f s) s) := by
  unfold execAttOpen
  repeat' first
    | (extract_lets; try clear_value *)
    | with_reducible refine (takeOpen_keeps (hm := by decide)) ?_
    | with_reducible exact Keeps.refl _ _
    | with_reducible refine keeps_after_subReq (h_go := fun _ => ?_) (hm := by decide)

theorem takeFork_keeps {d : Die} {f : Frame} {s : State} (hm : Sub 0x18000000000800000d800000000018080c00400000081d3d08000040060000002d81600000000 km) (hk :
    Keeps km kz s) : Keeps km kz (takeFork d f s) := by
  refine Keeps.lift hm ?_ hk
  clear hk
  unfold takeFork
  extract_lets b ses prefix_
  clear_value b ses prefix_
  have kr : ∀ st, Keeps 0x18000000000800000d800000000018080c00400000081d3d08000040060000002d81600000000 s (refuse d f st s) := fun st => refuse_keeps (by decide) (Keeps.refl _ _)
  have ka : ∀ st n, Keeps 0x18000000000800000d800000000018080c00400000081d3d08000040060000002d81600000000 s (attAnswer d f st n s) := fun st n => attAnswer_keeps (by decide) (Keeps.refl _ _)
  iterate 4 refine keeps_if (fun _ => kr _) (fun _ => ?_)
  split
  · exact kr _
  · iterate 6 refine keeps_if (fun _ => ka _ _) (fun _ => ?_)
    refine keeps_if (fun _ => attAnswer_keeps (by decide) (setStatus_keeps (by simp only [StReg.mask]; decide) (Keeps.refl _ _))) (fun _ => ?_)
    extract_lets ps y
    refine keeps_if (fun _ => attAnswer_keeps (by decide) (setStatus_keeps (by simp only [StReg.mask]; decide) (Keeps.refl _ _))) (fun _ => ?_)
    clear_value y ps
    split
    rename_i id s1 h1
    have k1 : Keeps 0x18000000000800000d800000000018080c00400000081d3d08000040060000002d81600000000 s s1 := newOp_of_eq h1 (by decide) (set_sessions_keeps (by decide) (Keeps.refl _ _))
    exact tryFork_keeps (by decide) (keeps_foldl (fun t p => refPage_keeps (by decide) (Keeps.refl _ _)) k1)

theorem execAttFork_keeps {d : Die} {f : Frame} {s : State} : Keeps 0x18000000000800000d800000000018080c00400000081d3d080000c0160000002d81600000000 s (after (execAttFork d f s) s) := by
  unfold execAttFork
  repeat' first
    | (extract_lets; try clear_value *)
    | with_reducible refine (takeFork_keeps (hm := by decide)) ?_
    | with_reducible exact Keeps.refl _ _
    | with_reducible refine keeps_after_subReq (h_go := fun _ => ?_) (hm := by decide)

theorem takeClose_keeps {d : Die} {f : Frame} {s : State} (hm : Sub 0xd800000000008000c0000000000040000000040020000002d81600000000 km) (hk :
    Keeps km kz s) : Keeps km kz (takeClose d f s) := by
  refine Keeps.lift hm ?_ hk
  unfold takeClose
  repeat' first
    | with_reducible exact Keeps.refl _ _
    | with_reducible refine (refuse_keeps (hm := by decide)) ?_
    | with_reducible refine (attAnswer_keeps (hm := by decide)) ?_
    | with_reducible refine (newOp_keeps (hm := by decide)) ?_
    | with_reducible refine (newOp_of_eq (heq := by assumption) (hm := by decide)) ?_
    | with_reducible refine (modSes_keeps (hm := by decide)) ?_
    | with_reducible refine keeps_if (fun _ => ?_) (fun _ => ?_)
    | with_reducible refine keeps_if_snd (fun _ => ?_) (fun _ => ?_)
    | dsimp only
    | split
    | (simp only [Prod.ext_iff] at *; casesm* _ ∧ _; subst_vars)

theorem execAttClose_keeps {d : Die} {f : Frame} {s : State} : Keeps 0xd800000000008000c00000000000400000000c0120000002d81600000000 s (after (execAttClose d f s) s) := by
  unfold execAttClose
  repeat' first
    | with_reducible exact Keeps.refl _ _
    | with_reducible refine (takeClose_keeps (hm := by decide)) ?_
    | with_reducible refine keeps_after_subReq (h_go := fun _ => ?_) (hm := by decide)

theorem freePacks_keeps {x : Session} {s : State} (hm : Sub 0x18000000000000000980000000001800000040045c00190000000000000000000000000000000 km) (hk :
    Keeps km kz s) : Keeps km kz (freePacks x s) := by
  refine Keeps.lift hm ?_ hk
  unfold freePacks
  repeat' first
    | with_reducible exact Keeps.refl _ _
    | with_reducible refine (dropObj_keeps (hm := by decide)) ?_
    | with_reducible refine (keeps_foldl_snd (fun _ _ => ?_)) ?_
    | with_reducible refine (keeps_foldl_fst (fun _ _ => ?_)) ?_
    | with_reducible refine (keeps_foldl_third (fun _ _ => ?_)) ?_
    | with_reducible refine (keeps_foldl_mid (fun _ _ => ?_)) ?_
    | with_reducible refine (keeps_foldl (fun _ _ => ?_)) ?_
    | dsimp only
    | (simp only [Prod.ext_iff] at *; casesm* _ ∧ _; subst_vars)

theorem execAttCloseDone_keeps {ses : Nat} {s : State} : Keeps 0x18000000000800000d80000000001b80040040045c081d1d48067865260000002d81600000000 s (after (execAttCloseDone ses s) s) := by
  unfold execAttCloseDone
  split
  · rename_i d o x _ _
    extract_lets s1 s2 s3
    have k1 : Keeps 0x18000000000800000d80000000001b80040040045c081d1d48067865260000002d81600000000 s s1 := by
      refine (keeps_foldl (fun t p => (unlistPage_keeps (by decide)) (Keeps.refl _ _))) ?_
      exact (set_sessions_keeps (by decide)) (Keeps.refl _ _)
    have k2 : Keeps 0x18000000000800000d80000000001b80040040045c081d1d48067865260000002d81600000000 s s2 := (freePacks_keeps (by decide)) k1
    have k3 : Keeps 0x18000000000800000d80000000001b80040040045c081d1d48067865260000002d81600000000 s s3 := keeps_if (fun _ => (journal_keeps (by decide)) k2) (fun _ => k2)
    clear_value s3
    refine keeps_if_after (fun _ => keeps_after_sesOk (Keeps.refl _ _)) (fun _ => ?_)
    refine keeps_after_sesOk ((attAnswer_keeps (by decide)) ((modCol_keeps ?_) k3))
    constructor <;> first | exact .inl (by decide) | exact .inr rfl
  · exact keeps_after_sesOk (Keeps.refl _ _)

theorem endSesMove_keeps {d : Die} {ses : Nat} {s : State} (hm : Sub 0x1100000000000000000000000000000 km) (hk :
    Keeps km kz s) : Keeps km kz (endSesMove d ses s) := by
  refine Keeps.lift hm ?_ hk
  unfold endSesMove
  repeat' first
    | with_reducible exact Keeps.refl _ _
    | with_reducible refine (dropMove_keeps (hm := by decide)) ?_
    | with_reducible refine keeps_elim ?_ (fun _ => ?_)
    | dsimp only

theorem takeSleep_keeps {d : Die} {f : Frame} {s : State} (hm : Sub 0xd800000000008000c0000000000040100000040020000002d81600000000 km) (hk :
    Keeps km kz s) : Keeps km kz (takeSleep d f s) := by
  refine Keeps.lift hm ?_ hk
  unfold takeSleep
  repeat' first
    | with_reducible exact Keeps.refl _ _
    | with_reducible refine (refuse_keeps (hm := by decide)) ?_
    | with_reducible refine (answer_keeps (hm := by decide)) ?_
    | with_reducible refine (countWait_keeps (hm := by decide)) ?_
    | with_reducible refine (newOp_keeps (hm := by decide)) ?_
    | with_reducible refine (newOp_of_eq (heq := by assumption) (hm := by decide)) ?_
    | with_reducible refine (queueMove_keeps (hm := by decide)) ?_
    | with_reducible refine (takeCharge_keeps (hm := by decide)) ?_
    | with_reducible refine (modSes_keeps (hm := by decide)) ?_
    | with_reducible refine keeps_if (fun _ => ?_) (fun _ => ?_)
    | with_reducible refine keeps_if_snd (fun _ => ?_) (fun _ => ?_)
    | dsimp only
    | split
    | (simp only [Prod.ext_iff] at *; casesm* _ ∧ _; subst_vars)

theorem execSesSleep_keeps {d : Die} {f : Frame} {s : State} : Keeps 0xd800000000008000c00000000000401000000c0120000002d81600000000 s (after (execSesSleep d f s) s) := by
  unfold execSesSleep
  repeat' first
    | with_reducible exact Keeps.refl _ _
    | with_reducible refine (takeSleep_keeps (hm := by decide)) ?_
    | with_reducible refine keeps_after_svcReq (h_go := fun _ => ?_) (hm := by decide)

theorem makePack_of_eq {x : Session} {ses layer : Nat} {e : ExtV} {s : State} {v0 : List CopyStep} {v1 : State} (heq : makePack x ses layer e s = some (v0, v1)) (hm : Sub 0x18000000000000000000000000001800000040045c00070000000000000000000000000000000 km) (hk :
    Keeps km kz s) : Keeps km kz v1 := by
  refine Keeps.lift hm ?_ hk
  clear hk
  unfold makePack at heq
  extract_lets ps size at heq
  split at heq
  · cases heq
    exact Keeps.refl _ _
  · split at heq
    · extract_lets addr o steps at heq
      clear_value steps o
      cases heq
      exact (modSes_keeps (by decide)) ((placeObj_keeps (by decide)) (Keeps.refl _ _))
    · cases heq

theorem makePacks_of_eq {x : Session} {ses : Nat} {e : ExtV} {layers : List Nat} {s : State} {v0 : List CopyStep} {v1 : State} (heq : makePacks x ses e layers s = some (v0, v1)) (hm : Sub 0x18000000000000000000000000001800000040045c00070000000000000000000000000000000 km) (hk :
    Keeps km kz s) : Keeps km kz v1 := by
  refine Keeps.lift hm ?_ hk
  clear hk
  induction layers generalizing s v0 v1 with
  | nil =>
    cases heq
    exact Keeps.refl _ _
  | cons p r ih =>
    unfold makePacks at heq
    split at heq
    · cases heq
    · rename_i h1
      obtain ⟨q, hq, e⟩ := Option.map_eq_some_iff.mp heq
      cases e
      exact Keeps.trans ((makePack_of_eq h1 (by decide)) (Keeps.refl _ _)) (ih hq)

theorem sleepFails_keeps {d : Die} {ses : Nat} {o : Op} {x : Session} {st : BitVec 5} {s : State} (hm : Sub 0x18000000000000000d80000000001800040040045c001d1108000040020000002d81600000000 km) (hk :
    Keeps km kz s) : Keeps km kz (sleepFails d ses o x st s) := by
  refine Keeps.lift hm ?_ hk
  unfold sleepFails
  repeat' first
    | with_reducible exact Keeps.refl _ _
    | with_reducible refine (endSesMove_keeps (hm := by first | decide | (simp only [StReg.mask]; decide))) ?_
    | with_reducible refine (dropCharge_keeps (hm := by first | decide | (simp only [StReg.mask]; decide))) ?_
    | with_reducible refine (dropObj_keeps (hm := by first | decide | (simp only [StReg.mask]; decide))) ?_
    | with_reducible refine (modSes_keeps (hm := by first | decide | (simp only [StReg.mask]; decide))) ?_
    | with_reducible refine (answer_keeps (hm := by first | decide | (simp only [StReg.mask]; decide))) ?_
    | with_reducible refine (setStatus_keeps (hm := by first | decide | (simp only [StReg.mask]; decide))) ?_
    | with_reducible refine (modCol_keeps ?_) ?_
    | with_reducible refine (keeps_foldl_snd (fun _ _ => ?_)) ?_
    | with_reducible refine (keeps_foldl_fst (fun _ _ => ?_)) ?_
    | with_reducible refine (keeps_foldl_third (fun _ _ => ?_)) ?_
    | with_reducible refine (keeps_foldl_mid (fun _ _ => ?_)) ?_
    | with_reducible refine (keeps_foldl (fun _ _ => ?_)) ?_
    | with_reducible refine keeps_elim ?_ (fun _ => ?_)
    | dsimp only
    | (constructor <;> first | exact .inl (by decide) | exact .inr rfl)
    | (simp only [Prod.ext_iff] at *; casesm* _ ∧ _; subst_vars)
    | (simp only [id, Keeps.refl]; done)

theorem sleepEnds_keeps {d : Die} {ses : Nat} {o : Op} {x : Session} {e : ExtV} {s : State} (hm : Sub 0x18000000000800000d80000000001b80040040045c081d1d48067865260000002d81600000000 km) (hk :
    Keeps km kz s) : Keeps km kz (sleepEnds d ses o x e s) := by
  refine Keeps.lift hm ?_ hk
  unfold sleepEnds
  repeat' first
    | with_reducible exact Keeps.refl _ _
    | with_reducible refine (unlistPage_keeps (hm := by decide)) ?_
    | with_reducible refine (modSes_keeps (hm := by decide)) ?_
    | with_reducible refine (freePacks_keeps (hm := by decide)) ?_
    | with_reducible refine (modCol_keeps ?_) ?_
    | with_reducible refine (endSesMove_keeps (hm := by decide)) ?_
    | with_reducible refine (answer_keeps (hm := by decide)) ?_
    | with_reducible refine (journal_keeps (hm := by decide)) ?_
    | with_reducible refine (keeps_foldl_snd (fun _ _ => ?_)) ?_
    | with_reducible refine (keeps_foldl_fst (fun _ _ => ?_)) ?_
    | with_reducible refine (keeps_foldl_third (fun _ _ => ?_)) ?_
    | with_reducible refine (keeps_foldl_mid (fun _ _ => ?_)) ?_
    | with_reducible refine (keeps_foldl (fun _ _ => ?_)) ?_
    | with_reducible refine keeps_if (fun _ => ?_) (fun _ => ?_)
    | dsimp only
    | split
    | (constructor <;> first | exact .inl (by decide) | exact .inr rfl)
    | (simp only [Prod.ext_iff] at *; casesm* _ ∧ _; subst_vars)
    | (simp only [id, Keeps.refl]; done)

theorem sleepOver_keeps {d : Die} {ses : Nat} {o : Op} {e : ExtV} {s : State} (hm : Sub 0x18000000000800000d80000000001b80040040045c081d1d48067865260000002d81600000000 km) (hk :
    Keeps km kz s) : Keeps km kz (sleepOver d ses o e s) := by
  refine Keeps.lift hm ?_ hk
  unfold sleepOver
  repeat' first
    | with_reducible exact Keeps.refl _ _
    | with_reducible refine (sleepFails_keeps (hm := by decide)) ?_
    | with_reducible refine (sleepEnds_keeps (hm := by decide)) ?_
    | with_reducible refine keeps_if (fun _ => ?_) (fun _ => ?_)
    | split

theorem execSesSleepDone_keeps {ses : Nat} {s : State} : Keeps 0x18000000000800000d80000000001b80040040045c081f3d48067865260000002d81600000000 s (after (execSesSleepDone ses s) s) := by
  unfold execSesSleepDone
  split
  · refine keeps_if_after (fun _ => keeps_after_sesOk (Keeps.refl _ _)) (fun _ => ?_)
    split
    · exact keeps_after_sesOk (Keeps.refl _ _)
    · refine keeps_if_after (fun _ => keeps_after_sesOk (sleepOver_keeps (by decide) (Keeps.refl _ _))) (fun _ => ?_)
      refine keeps_if_after (fun _ => keeps_after_sesOk (Keeps.refl _ _)) (fun _ => ?_)
      split
      · exact keeps_after_sesOk (sleepFails_keeps (by decide) (Keeps.refl _ _))
      · rename_i h1
        exact keeps_after_sesOk (sleepOver_keeps (by decide) (startCopy_keeps (by decide) (makePacks_of_eq h1 (by decide) (Keeps.refl _ _))))
  · exact keeps_after_sesOk (Keeps.refl _ _)

theorem takeWake_keeps {d : Die} {f : Frame} {s : State} (hm : Sub 0xd800000000018000c0000000000040108000040020000002d81600000000 km) (hk :
    Keeps km kz s) : Keeps km kz (takeWake d f s) := by
  refine Keeps.lift hm ?_ hk
  unfold takeWake
  repeat' first
    | with_reducible exact Keeps.refl _ _
    | with_reducible refine (refuse_keeps (hm := by first | decide | (simp only [StReg.mask]; decide))) ?_
    | with_reducible refine (answer_keeps (hm := by first | decide | (simp only [StReg.mask]; decide))) ?_
    | with_reducible refine (setStatus_keeps (hm := by first | decide | (simp only [StReg.mask]; decide))) ?_
    | with_reducible refine (countWait_keeps (hm := by first | decide | (simp only [StReg.mask]; decide))) ?_
    | with_reducible refine (newOp_keeps (hm := by first | decide | (simp only [StReg.mask]; decide))) ?_
    | with_reducible refine (newOp_of_eq (heq := by assumption) (hm := by first | decide | (simp only [StReg.mask]; decide))) ?_
    | with_reducible refine (queueMove_keeps (hm := by first | decide | (simp only [StReg.mask]; decide))) ?_
    | with_reducible refine (takeCharge_keeps (hm := by first | decide | (simp only [StReg.mask]; decide))) ?_
    | with_reducible refine (modSes_keeps (hm := by first | decide | (simp only [StReg.mask]; decide))) ?_
    | with_reducible refine keeps_if (fun _ => ?_) (fun _ => ?_)
    | with_reducible refine keeps_if_snd (fun _ => ?_) (fun _ => ?_)
    | dsimp only
    | split
    | (simp only [Prod.ext_iff] at *; casesm* _ ∧ _; subst_vars)

theorem execSesWake_keeps {d : Die} {f : Frame} {s : State} : Keeps 0xd800000000018000c00000000000401080000c0120000002d81600000000 s (after (execSesWake d f s) s) := by
  unfold execSesWake
  repeat' first
    | with_reducible exact Keeps.refl _ _
    | with_reducible refine (takeWake_keeps (hm := by decide)) ?_
    | with_reducible refine keeps_after_svcReq (h_go := fun _ => ?_) (hm := by decide)

theorem wakePage_of_eq {x : Session} {ses : Nat} {e : ExtV} {pack : Obj} {i : Nat} {p : PageEnt} {s : State} {v0 : List CopyStep} {v1 : State} (heq : wakePage x ses e pack i p s = some (v0, v1)) (hm : Sub 0x18000000000000000000000000001800000040045c00070000000000000000000000000000000 km) (hk :
    Keeps km kz s) : Keeps km kz v1 := by
  refine Keeps.lift hm ?_ hk
  clear hk
  unfold wakePage at heq
  extract_lets tier at heq
  split at heq
  · extract_lets addr o at heq
    clear_value o
    cases heq
    exact (replacePage_keeps (by decide)) ((placeObj_keeps (by decide)) (Keeps.refl _ _))
  · cases heq

theorem wakePages_of_eq {x : Session} {ses : Nat} {e : ExtV} {pack : Obj} {i : Nat} {l : List PageEnt} {s : State} {v0 : List CopyStep} {v1 : State} (heq : wakePages x ses e pack i l s = some (v0, v1)) (hm : Sub 0x18000000000000000000000000001800000040045c00070000000000000000000000000000000 km) (hk :
    Keeps km kz s) : Keeps km kz v1 := by
  refine Keeps.lift hm ?_ hk
  clear hk
  induction l generalizing s i v0 v1 with
  | nil =>
    cases heq
    exact Keeps.refl _ _
  | cons p r ih =>
    unfold wakePages at heq
    split at heq
    · cases heq
    · rename_i h1
      obtain ⟨q, hq, e⟩ := Option.map_eq_some_iff.mp heq
      cases e
      exact Keeps.trans ((wakePage_of_eq h1 (by decide)) (Keeps.refl _ _)) (ih hq)

theorem wakeFails_keeps {d : Die} {ses : Nat} {o : Op} {x : Session} {st : BitVec 5} {s : State} (hm : Sub 0x18000000000000000d80000000001800040040045c001d1108000040020000002d81600000000 km) (hk :
    Keeps km kz s) : Keeps km kz (wakeFails d ses o x st s) := by
  refine Keeps.lift hm ?_ hk
  unfold wakeFails
  repeat' first
    | with_reducible exact Keeps.refl _ _
    | with_reducible refine (dropCharge_keeps (hm := by first | decide | (simp only [StReg.mask]; decide))) ?_
    | with_reducible refine (dropObj_keeps (hm := by first | decide | (simp only [StReg.mask]; decide))) ?_
    | with_reducible refine (modSes_keeps (hm := by first | decide | (simp only [StReg.mask]; decide))) ?_
    | with_reducible refine (endOp_keeps (hm := by first | decide | (simp only [StReg.mask]; decide))) ?_
    | with_reducible refine (answer_keeps (hm := by first | decide | (simp only [StReg.mask]; decide))) ?_
    | with_reducible refine (setStatus_keeps (hm := by first | decide | (simp only [StReg.mask]; decide))) ?_
    | with_reducible refine (modCol_keeps ?_) ?_
    | with_reducible refine (endSesMove_keeps (hm := by first | decide | (simp only [StReg.mask]; decide))) ?_
    | with_reducible refine (keeps_foldl_snd (fun _ _ => ?_)) ?_
    | with_reducible refine (keeps_foldl_fst (fun _ _ => ?_)) ?_
    | with_reducible refine (keeps_foldl_third (fun _ _ => ?_)) ?_
    | with_reducible refine (keeps_foldl_mid (fun _ _ => ?_)) ?_
    | with_reducible refine (keeps_foldl (fun _ _ => ?_)) ?_
    | dsimp only
    | (constructor <;> first | exact .inl (by decide) | exact .inr rfl)
    | (simp only [Prod.ext_iff] at *; casesm* _ ∧ _; subst_vars)
    | (simp only [id, Keeps.refl]; done)

end Machine
end Sys2Proof
end

