-- ==== Sys2Proof/Laws/FrameAttend.lean ====
section
/-! SUPPORT. Frames of the functions of Machine/Attend.lean: the parts of the state that each may change, as a mask (Laws/Keeps.lean). -/

namespace Sys2Proof
namespace Machine
set_option linter.unusedTactic false
set_option linter.unreachableTactic false
set_option linter.tactic.unusedName false
variable {km : Nat} {kz : State}

theorem readQuery_keeps {d : Die} {o : Op} {x : Session} {v : AttV} {row : Nat} {s : State} (hm : Sub 0x20000000000000000000000000001800000000000000000000000020000000000000000000000 km) (hk :
    Keeps km kz s) : Keeps km kz (readQuery d o x v row s).2.2 := by
  refine Keeps.lift hm ?_ hk
  unfold readQuery
  repeat' first
    | with_reducible exact Keeps.refl _ _
    | with_reducible refine (svcRead_keeps (hm := by decide)) ?_
    | with_reducible refine (svcRead_of_eq (heq := by assumption) (hm := by decide)) ?_
    | with_reducible refine keeps_if (fun _ => ?_) (fun _ => ?_)
    | with_reducible refine keeps_if_third (fun _ => ?_) (fun _ => ?_)
    | dsimp only
    | split
    | (simp only [Prod.ext_iff] at *; casesm* _ ∧ _; subst_vars)

theorem readQuery_of_eq {d : Die} {o : Op} {x : Session} {v : AttV} {row : Nat} {s : State}{v0 v1} {v2 : State} (heq : readQuery d o x v row s = (v0, v1, v2)) (hm : Sub 0x20000000000000000000000000001800000000000000000000000020000000000000000000000 km) (hk :
    Keeps km kz s) : Keeps km kz v2 := by
  have h := readQuery_keeps (kz := kz) (s := s) hm hk (d := d) (o := o) (x := x) (v := v) (row := row)
  rw [heq] at h
  exact h

theorem itemPartials_keeps {d : Die} {o : Op} {it : AttItem} {s : State} (hm : Sub 0x20000000000000000000000000001808000000000000000000000020000000000000000000000 km) (hk :
    Keeps km kz s) : Keeps km kz (itemPartials d o it s).2.2 := by
  refine Keeps.lift hm ?_ hk
  unfold itemPartials
  repeat' first
    | with_reducible exact Keeps.refl _ _
    | with_reducible refine (setStatus_keeps (hm := by first | decide | (simp only [StReg.mask]; decide))) ?_
    | with_reducible refine (readQuery_keeps (hm := by first | decide | (simp only [StReg.mask]; decide))) ?_
    | with_reducible refine (readQuery_of_eq (heq := by assumption) (hm := by first | decide | (simp only [StReg.mask]; decide))) ?_
    | with_reducible refine (keeps_foldl_snd (fun _ _ => ?_)) ?_
    | with_reducible refine (keeps_foldl_fst (fun _ _ => ?_)) ?_
    | with_reducible refine (keeps_foldl_third (fun _ _ => ?_)) ?_
    | with_reducible refine (keeps_foldl_mid (fun _ _ => ?_)) ?_
    | with_reducible refine (keeps_foldl (fun _ _ => ?_)) ?_
    | with_reducible refine keeps_elim ?_ (fun _ => ?_)
    | with_reducible refine keeps_if (fun _ => ?_) (fun _ => ?_)
    | with_reducible refine keeps_if_third (fun _ => ?_) (fun _ => ?_)
    | dsimp only
    | split
    | (simp only [Prod.ext_iff] at *; casesm* _ ∧ _; subst_vars)

theorem itemPartials_of_eq {d : Die} {o : Op} {it : AttItem} {s : State}{v0 v1} {v2 : State} (heq : itemPartials d o it s = (v0, v1, v2)) (hm : Sub 0x20000000000000000000000000001808000000000000000000000020000000000000000000000 km) (hk :
    Keeps km kz s) : Keeps km kz v2 := by
  have h := itemPartials_keeps (kz := kz) (s := s) hm hk (d := d) (o := o) (it := it)
  rw [heq] at h
  exact h

theorem tileDone_keeps {d : Die} {id entry g tg : Nat} {s : State} (hm : Sub 0x800440000000000000800000040060000002d81600000000 km) (hk :
    Keeps km kz s) : Keeps km kz (tileDone d id entry g tg s) := by
  refine Keeps.lift hm ?_ hk
  unfold tileDone
  repeat' first
    | with_reducible exact Keeps.refl _ _
    | with_reducible refine (modOp_keeps (hm := by decide)) ?_
    | with_reducible refine (opStore_keeps (hm := by decide)) ?_
    | with_reducible refine (keeps_foldl_snd (fun _ _ => ?_)) ?_
    | with_reducible refine (keeps_foldl_fst (fun _ _ => ?_)) ?_
    | with_reducible refine (keeps_foldl_third (fun _ _ => ?_)) ?_
    | with_reducible refine (keeps_foldl_mid (fun _ _ => ?_)) ?_
    | with_reducible refine (keeps_foldl (fun _ _ => ?_)) ?_
    | with_reducible refine keeps_if (fun _ => ?_) (fun _ => ?_)
    | dsimp only
    | split
    | (simp only [Prod.ext_iff] at *; casesm* _ ∧ _; subst_vars)
    | (simp only [id, Keeps.refl]; done)

theorem finishAttend_keeps {d : Die} {id : Nat} {s : State} (hm : Sub 0xd80000000001808040000000000000000000040020000002d81600000000 km) (hk :
    Keeps km kz s) : Keeps km kz (finishAttend d id s) := by
  refine Keeps.lift hm ?_ hk
  unfold finishAttend
  repeat' first
    | with_reducible exact Keeps.refl _ _
    | with_reducible refine (completeOp_keeps (hm := by decide)) ?_
    | with_reducible refine (modOp_keeps (hm := by decide)) ?_
    | with_reducible refine keeps_if (fun _ => ?_) (fun _ => ?_)
    | dsimp only
    | split
    | (simp only [Prod.ext_iff] at *; casesm* _ ∧ _; subst_vars)
    | (simp only [id, Keeps.refl]; done)

theorem attendEnd_keeps {d : Die} {id k : Nat} {st : BitVec 5} {s : State} (hm : Sub 0x20000000000000000d80000000001808440000000000000800000060060000002d81600000000 km) (hk :
    Keeps km kz s) : Keeps km kz (attendEnd d id k st s) := by
  refine Keeps.lift hm ?_ hk
  unfold attendEnd
  repeat' first
    | with_reducible exact Keeps.refl _ _
    | with_reducible refine (itemPartials_keeps (hm := by decide)) ?_
    | with_reducible refine (itemPartials_of_eq (heq := by assumption) (hm := by decide)) ?_
    | with_reducible refine (modOp_keeps (hm := by decide)) ?_
    | with_reducible refine (finishAttend_keeps (hm := by decide)) ?_
    | with_reducible refine (tileDone_keeps (hm := by decide)) ?_
    | with_reducible refine keeps_elim ?_ (fun _ => ?_)
    | with_reducible refine keeps_if (fun _ => ?_) (fun _ => ?_)
    | with_reducible refine keeps_if_third (fun _ => ?_) (fun _ => ?_)
    | dsimp only
    | split
    | (simp only [Prod.ext_iff] at *; casesm* _ ∧ _; subst_vars)
    | (simp only [id, Keeps.refl]; done)

theorem startAttend_keeps {d : Die} {id : Nat} {s : State} (hm : Sub 0x20000000000000000d80000000001838440400000000000800000040060000002d81600000000 km) (hk :
    Keeps km kz s) : Keeps km kz (startAttend d id s) := by
  refine Keeps.lift hm ?_ hk
  unfold startAttend
  repeat' first
    | with_reducible exact Keeps.refl _ _
    | with_reducible refine (endOp_keeps (hm := by first | decide | (simp only [StReg.mask]; decide))) ?_
    | with_reducible refine (setStatus_keeps (hm := by first | decide | (simp only [StReg.mask]; decide))) ?_
    | with_reducible refine (modCol_keeps ?_) ?_
    | with_reducible refine (modOp_keeps (hm := by first | decide | (simp only [StReg.mask]; decide))) ?_
    | with_reducible refine (queueItem_keeps (hm := by first | decide | (simp only [StReg.mask]; decide))) ?_
    | with_reducible refine (finishAttend_keeps (hm := by first | decide | (simp only [StReg.mask]; decide))) ?_
    | with_reducible refine (tileDone_keeps (hm := by first | decide | (simp only [StReg.mask]; decide))) ?_
    | with_reducible refine (keeps_foldl_snd (fun _ _ => ?_)) ?_
    | with_reducible refine (keeps_foldl_fst (fun _ _ => ?_)) ?_
    | with_reducible refine (keeps_foldl_third (fun _ _ => ?_)) ?_
    | with_reducible refine (keeps_foldl_mid (fun _ _ => ?_)) ?_
    | with_reducible refine (keeps_foldl (fun _ _ => ?_)) ?_
    | with_reducible refine keeps_elim ?_ (fun _ => ?_)
    | with_reducible refine keeps_if (fun _ => ?_) (fun _ => ?_)
    | dsimp only
    | split
    | (constructor <;> first | exact .inl (by decide) | exact .inr rfl)
    | (simp only [Prod.ext_iff] at *; casesm* _ ∧ _; subst_vars)
    | (simp only [id, Keeps.refl]; done)

theorem tryAttend_keeps {d : Die} {id : Nat} {s : State} (hm : Sub 0x20000000000000000d80000000001838440400000000000800000040060000002d81600000000 km) (hk :
    Keeps km kz s) : Keeps km kz (tryAttend d id s) := by
  refine Keeps.lift hm ?_ hk
  unfold tryAttend
  repeat' first
    | with_reducible exact Keeps.refl _ _
    | with_reducible refine (modOp_keeps (hm := by decide)) ?_
    | with_reducible refine (startAttend_keeps (hm := by decide)) ?_
    | with_reducible refine keeps_if (fun _ => ?_) (fun _ => ?_)
    | dsimp only
    | split
    | (simp only [Prod.ext_iff] at *; casesm* _ ∧ _; subst_vars)
    | (simp only [id, Keeps.refl]; done)

theorem resumeOps_keeps {d : Die} {ses : Nat} {s : State} (hm : Sub 0x38000000000800000d80000000001bb8440440045c081f3d48067865260000002d81600000000 km) (hk :
    Keeps km kz s) : Keeps km kz (resumeOps d ses s) := by
  refine Keeps.lift hm ?_ hk
  unfold resumeOps
  repeat' first
    | with_reducible exact Keeps.refl _ _
    | with_reducible refine (tryAppend_keeps (hm := by decide)) ?_
    | with_reducible refine (tryAttend_keeps (hm := by decide)) ?_
    | with_reducible refine (tryFork_keeps (hm := by decide)) ?_
    | with_reducible refine (keeps_foldl_snd (fun _ _ => ?_)) ?_
    | with_reducible refine (keeps_foldl_fst (fun _ _ => ?_)) ?_
    | with_reducible refine (keeps_foldl_third (fun _ _ => ?_)) ?_
    | with_reducible refine (keeps_foldl_mid (fun _ _ => ?_)) ?_
    | with_reducible refine (keeps_foldl (fun _ _ => ?_)) ?_
    | with_reducible refine keeps_if (fun _ => ?_) (fun _ => ?_)
    | dsimp only
    | split
    | (simp only [Prod.ext_iff] at *; casesm* _ ∧ _; subst_vars)
    | (simp only [id, Keeps.refl]; done)

theorem resumeData_keeps {d : Die} {s : State} (hm : Sub 0x38000000000800000d80000000001bb8440440045c081f3d48067865260000002d81600000000 km) (hk :
    Keeps km kz s) : Keeps km kz (resumeData d s) := by
  refine Keeps.lift hm ?_ hk
  unfold resumeData
  repeat' first
    | with_reducible exact Keeps.refl _ _
    | with_reducible refine (tryGather_keeps (hm := by decide)) ?_
    | with_reducible refine (tryAppend_keeps (hm := by decide)) ?_
    | with_reducible refine (resumeOps_keeps (hm := by decide)) ?_
    | with_reducible refine (tryFork_keeps (hm := by decide)) ?_
    | with_reducible refine (keeps_foldl_snd (fun _ _ => ?_)) ?_
    | with_reducible refine (keeps_foldl_fst (fun _ _ => ?_)) ?_
    | with_reducible refine (keeps_foldl_third (fun _ _ => ?_)) ?_
    | with_reducible refine (keeps_foldl_mid (fun _ _ => ?_)) ?_
    | with_reducible refine (keeps_foldl (fun _ _ => ?_)) ?_
    | with_reducible refine keeps_if (fun _ => ?_) (fun _ => ?_)
    | dsimp only
    | split
    | (simp only [Prod.ext_iff] at *; casesm* _ ∧ _; subst_vars)
    | (simp only [id, Keeps.refl]; done)

theorem takeAttend_keeps {d : Die} {f : Frame} {s : State} (hm : Sub 0x20000000000000000d800000000018384c0400000000000900000040060000002d81600000000 km) (hk :
    Keeps km kz s) : Keeps km kz (takeAttend d f s) := by
  refine Keeps.lift hm ?_ hk
  unfold takeAttend
  repeat' first
    | with_reducible exact Keeps.refl _ _
    | with_reducible refine (refuse_keeps (hm := by decide)) ?_
    | with_reducible refine (newOp_keeps (hm := by decide)) ?_
    | with_reducible refine (newOp_of_eq (heq := by assumption) (hm := by decide)) ?_
    | with_reducible refine (modOp_keeps (hm := by decide)) ?_
    | with_reducible refine (tryAttend_keeps (hm := by decide)) ?_
    | with_reducible refine (prefetch_keeps (hm := by decide)) ?_
    | with_reducible refine (keeps_foldl_snd (fun _ _ => ?_)) ?_
    | with_reducible refine (keeps_foldl_fst (fun _ _ => ?_)) ?_
    | with_reducible refine (keeps_foldl_third (fun _ _ => ?_)) ?_
    | with_reducible refine (keeps_foldl_mid (fun _ _ => ?_)) ?_
    | with_reducible refine (keeps_foldl (fun _ _ => ?_)) ?_
    | with_reducible refine keeps_elim ?_ (fun _ => ?_)
    | with_reducible refine keeps_if (fun _ => ?_) (fun _ => ?_)
    | with_reducible refine keeps_if_snd (fun _ => ?_) (fun _ => ?_)
    | dsimp only
    | split
    | (simp only [Prod.ext_iff] at *; casesm* _ ∧ _; subst_vars)
    | (simp only [id, Keeps.refl]; done)

theorem execAttAttend_keeps {d : Die} {f : Frame} {s : State} : Keeps 0x20000000000000000d800000000018384c04000000000009000000c0160000002d81600000000 s (after (execAttAttend d f s) s) := by
  unfold execAttAttend
  repeat' first
    | with_reducible exact Keeps.refl _ _
    | with_reducible refine (takeAttend_keeps (hm := by decide)) ?_
    | with_reducible refine keeps_after_svcReq (h_go := fun _ => ?_) (hm := by decide)

theorem execRingReuse_keeps {ses : Nat} {s : State} : Keeps 0x38000000000800000d80000000001bb8440440045c081f3d48067865260000002d81600000000 s (after (execRingReuse ses s) s) := by
  unfold execRingReuse
  repeat' first
    | with_reducible exact Keeps.refl _ _
    | with_reducible refine (resumeOps_keeps (hm := by decide)) ?_
    | with_reducible refine keeps_after_sesOk ?_

theorem layerDone_keeps {d : Die} {ses : Nat} {s : State} (hm : Sub 0x38000000000800000d80000000001bb8440440045c081f3d48067865260000002d81600000000 km) (hk :
    Keeps km kz s) : Keeps km kz (layerDone d ses s) := by
  refine Keeps.lift hm ?_ hk
  unfold layerDone
  repeat' first
    | with_reducible exact Keeps.refl _ _
    | with_reducible refine (resumeOps_keeps (hm := by decide)) ?_
    | with_reducible refine (modSes_keeps (hm := by decide)) ?_
    | with_reducible refine (dropJob_keeps (hm := by decide)) ?_
    | dsimp only

theorem wakeOver_keeps {d : Die} {ses : Nat} {o : Op} {s : State} (hm : Sub 0x38000000000800000d80000000001bb8440440045c081f3d48067865260000002d81600000000 km) (hk :
    Keeps km kz s) : Keeps km kz (wakeOver d ses o s) := by
  refine Keeps.lift hm ?_ hk
  unfold wakeOver
  repeat' first
    | with_reducible exact Keeps.refl _ _
    | with_reducible refine (wakeFails_keeps (hm := by decide)) ?_
    | with_reducible refine (layerDone_keeps (hm := by decide)) ?_
    | with_reducible refine keeps_if (fun _ => ?_) (fun _ => ?_)
    | split

theorem execSesWakeLayerDone_keeps {ses : Nat} {s : State} : Keeps 0x38000000000800000d80000000001bb8440440045c081f3d48067865260000002d81600000000 s (after (execSesWakeLayerDone ses s) s) := by
  unfold execSesWakeLayerDone
  split
  · refine keeps_if_after (fun _ => keeps_after_sesOk (Keeps.refl _ _)) (fun _ => ?_)
    refine keeps_if_after (fun _ => keeps_after_sesOk (wakeOver_keeps (by decide) (Keeps.refl _ _))) (fun _ => ?_)
    extract_lets ps
    split
    · exact keeps_after_sesOk (Keeps.refl _ _)
    · exact keeps_after_sesOk (keeps_if (fun _ => layerDone_keeps (by decide) (Keeps.refl _ _)) (fun _ => wakeFails_keeps (by decide) (Keeps.refl _ _)))
    · refine keeps_if_after (fun _ => keeps_after_sesOk (layerDone_keeps (by decide) (Keeps.refl _ _))) (fun _ => ?_)
      refine keeps_if_after (fun _ => keeps_after_sesOk (wakeFails_keeps (by decide) (Keeps.refl _ _))) (fun _ => ?_)
      split
      · exact keeps_after_sesOk (Keeps.refl _ _)
      · rename_i h1
        exact keeps_after_sesOk (wakeOver_keeps (by decide) (startCopy_keeps (by decide) (wakePages_of_eq h1 (by decide) (Keeps.refl _ _))))
  · exact keeps_after_sesOk (Keeps.refl _ _)

theorem execSesWakeDone_keeps {ses : Nat} {s : State} : Keeps 0x38000000000800000d80000000001bb8440440045c081f3d48067865260000002d81600000000 s (after (execSesWakeDone ses s) s) := by
  unfold execSesWakeDone
  repeat' first
    | with_reducible exact Keeps.refl _ _
    | with_reducible refine (endSesMove_keeps (hm := by decide)) ?_
    | with_reducible refine (freePacks_keeps (hm := by decide)) ?_
    | with_reducible refine (modSes_keeps (hm := by decide)) ?_
    | with_reducible refine (journal_keeps (hm := by decide)) ?_
    | with_reducible refine (modCol_keeps ?_) ?_
    | with_reducible refine (resumeOps_keeps (hm := by decide)) ?_
    | with_reducible refine (answer_keeps (hm := by decide)) ?_
    | with_reducible refine keeps_if (fun _ => ?_) (fun _ => ?_)
    | with_reducible refine keeps_if_after (fun _ => ?_) (fun _ => ?_)
    | dsimp only
    | split
    | with_reducible refine keeps_after_sesOk ?_
    | (constructor <;> first | exact .inl (by decide) | exact .inr rfl)
    | (simp only [Prod.ext_iff] at *; casesm* _ ∧ _; subst_vars)
    | (simp only [id, Keeps.refl]; done)

theorem countWork_keeps {d : Die} {ctx : Nat} {c : Core} {s : State} (hm : Sub 0x980000000000800000000000000000000000000000000000000000000000 km) (hk :
    Keeps km kz s) : Keeps km kz (countWork d ctx c s) := by
  refine Keeps.lift hm ?_ hk
  unfold countWork
  repeat' first
    | with_reducible exact Keeps.refl _ _
    | with_reducible refine (modCtx_keeps (hm := by decide)) ?_
    | with_reducible refine (tap_keeps (hm := by decide)) ?_
    | dsimp only

theorem endItem_keeps {d : Die} {core : Nat} {i : Item} {s : State} (hm : Sub 0x20000000000000000d8000000000180b764700000000000800000060060000002d81600000000 km) (hk :
    Keeps km kz s) : Keeps km kz (endItem d core i s) := by
  refine Keeps.lift hm ?_ hk
  unfold endItem
  repeat' first
    | with_reducible exact Keeps.refl _ _
    | with_reducible refine (modPod_keeps ?_) ?_
    | with_reducible refine (freeCore_keeps (hm := by decide)) ?_
    | with_reducible refine (countWork_keeps (hm := by decide)) ?_
    | with_reducible refine (chunkEnd_keeps (hm := by decide)) ?_
    | with_reducible refine (gatherEnd_keeps (hm := by decide)) ?_
    | with_reducible refine (filterEnd_keeps (hm := by decide)) ?_
    | with_reducible refine (attendEnd_keeps (hm := by decide)) ?_
    | with_reducible refine keeps_if (fun _ => ?_) (fun _ => ?_)
    | dsimp only
    | split
    | (constructor <;> first | exact .inl (by decide) | exact .inr rfl)
    | (simp only [id, Keeps.refl]; done)

theorem execWorkItemEnd_keeps {d : Die} {core : Nat} {s : State} : Keeps 0x38000000000000000d8000000000180b764740000008183c00000060060000002d81600000000 s (after (execWorkItemEnd d core s) s) := by
  unfold execWorkItemEnd
  repeat' first
    | with_reducible exact Keeps.refl _ _
    | with_reducible refine (withData_keeps (hm := by decide) (h_go := fun _ => ?_)) ?_
    | with_reducible refine (endItem_keeps (hm := by decide)) ?_
    | with_reducible refine keeps_if (fun _ => ?_) (fun _ => ?_)
    | with_reducible refine keeps_if_after (fun _ => ?_) (fun _ => ?_)
    | dsimp only
    | split
    | with_reducible refine keeps_after_sesOk ?_
    | (simp only [Prod.ext_iff] at *; casesm* _ ∧ _; subst_vars)

theorem stopOps_keeps {d : Die} {p : Op → Bool} {st : BitVec 5} {s : State} (hm : Sub 0xd80000000000800740400000000000000000040020000002d81600000000 km) (hk :
    Keeps km kz s) : Keeps km kz (stopOps d p st s) := by
  refine Keeps.lift hm ?_ hk
  unfold stopOps
  repeat' first
    | with_reducible exact Keeps.refl _ _
    | with_reducible refine (modPod_keeps ?_) ?_
    | with_reducible refine (endOp_keeps (hm := by decide)) ?_
    | with_reducible refine (abortInstance_keeps (hm := by decide)) ?_
    | with_reducible refine (keeps_foldl_snd (fun _ _ => ?_)) ?_
    | with_reducible refine (keeps_foldl_fst (fun _ _ => ?_)) ?_
    | with_reducible refine (keeps_foldl_third (fun _ _ => ?_)) ?_
    | with_reducible refine (keeps_foldl_mid (fun _ _ => ?_)) ?_
    | with_reducible refine (keeps_foldl (fun _ _ => ?_)) ?_
    | with_reducible refine keeps_if (fun _ => ?_) (fun _ => ?_)
    | dsimp only
    | split
    | (constructor <;> first | exact .inl (by decide) | exact .inr rfl)
    | (simp only [Prod.ext_iff] at *; casesm* _ ∧ _; subst_vars)
    | (simp only [id, Keeps.refl]; done)

end Machine
end Sys2Proof
end

