-- ==== Sys2Proof/Laws/FrameContexts.lean ====
section
/-! SUPPORT. Frames of the functions of Machine/Contexts.lean: the parts of the state that each may change, as a mask (Laws/Keeps.lean). -/

namespace Sys2Proof
namespace Machine
set_option linter.unusedTactic false
set_option linter.unreachableTactic false
set_option linter.tactic.unusedName false
variable {km : Nat} {kz : State}

theorem keeps_after_ctxOk {s d : State} (hk : Keeps km kz s) : Keeps km kz (after (ctxOk s) d) := hk

theorem letGo_keeps {d : Die} {x : Desc} {s : State} (hm : Sub 0x2480200000000 km) (hk : Keeps km kz s) : Keeps km kz (letGo d x s) := by
  refine Keeps.lift hm ?_ hk
  unfold letGo
  repeat' first
    | with_reducible exact Keeps.refl _ _
    | with_reducible refine (freeCells_keeps (hm := by decide)) ?_
    | with_reducible refine (leaveIngress_keeps (hm := by decide)) ?_

theorem endHeld_keeps {d : Die} {st : BitVec 5} {h : HeldFrame} {s : State} (hm : Sub 0x800000000000000000000000040020000002d81600000000 km) (hk :
    Keeps km kz s) : Keeps km kz (endHeld d st h s) := by
  refine Keeps.lift hm ?_ hk
  unfold endHeld
  repeat' first
    | with_reducible exact Keeps.refl _ _
    | with_reducible refine (letGo_keeps (hm := by decide)) ?_
    | with_reducible refine (refuseEach_keeps (hm := by decide)) ?_
    | with_reducible refine keeps_if (fun _ => ?_) (fun _ => ?_)
    | dsimp only
    | split

theorem endAllHeld_keeps {port : Nat} {p : HeldFrame → Bool} {st : BitVec 5} {s : State} (hm : Sub 0x800000000000000000000000040020000002d81600000000 km) (hk :
    Keeps km kz s) : Keeps km kz (endAllHeld port p st s) := by
  refine Keeps.lift hm ?_ hk
  unfold endAllHeld
  repeat' first
    | with_reducible exact Keeps.refl _ _
    | with_reducible refine (endHeld_keeps (hm := by decide)) ?_
    | with_reducible refine (modPort_keeps (hm := by decide)) ?_
    | with_reducible refine (keeps_foldl_snd (fun _ _ => ?_)) ?_
    | with_reducible refine (keeps_foldl_fst (fun _ _ => ?_)) ?_
    | with_reducible refine (keeps_foldl_third (fun _ _ => ?_)) ?_
    | with_reducible refine (keeps_foldl_mid (fun _ _ => ?_)) ?_
    | with_reducible refine (keeps_foldl (fun _ _ => ?_)) ?_
    | dsimp only
    | (simp only [Prod.ext_iff] at *; casesm* _ ∧ _; subst_vars)

theorem execEventSend_keeps {d : Die} {ctx : Nat} {s : State} : Keeps 0x7800000000000000000000000040020000002d81604000000 s (after (execEventSend d ctx s) s) := by
  unfold execEventSend
  split
  · exact keeps_after_ctxOk (Keeps.refl _ _)
  · rename_i e _
    extract_lets v dest gone
    have kg : ∀ t, Keeps 0x7800000000000000000000000040020000002d81604000000 t (gone t) := by
      intro t
      refine (modEv_keeps ?_) (Keeps.refl _ _)
      constructor <;> first | exact .inl (by decide) | exact .inr rfl
    have ks : ∀ t, Keeps 0x7800000000000000000000000040020000002d81604000000 s t → Keeps 0x7800000000000000000000000040020000002d81604000000 s (execEventSend.send d ctx s e dest t) := by
      intro t kt
      unfold execEventSend.send
      extract_lets f t1 t2 t3
      have k1 : Keeps 0x7800000000000000000000000040020000002d81604000000 s t1 := by
        refine (modEv_keeps ?_) kt
        constructor <;> first | exact .inl (by decide) | exact .inr rfl
      have k2 : Keeps 0x7800000000000000000000000040020000002d81604000000 s t2 := (modCtx_keeps (by decide)) k1
      have k3 : Keeps 0x7800000000000000000000000040020000002d81604000000 s t3 := by
        refine keeps_if (fun _ => ?_) (fun _ => k2)
        refine (modCfg_keeps ?_) k2
        constructor <;> first | exact .inl (by decide) | exact .inr rfl
      exact keeps_if (fun _ => Keeps.refl _ _) (fun _ => (sendFrom_keeps (by decide)) k3)
    clear_value gone
    refine keeps_if_after (fun _ => keeps_after_ctxOk ((statusEvent_keeps (by simp only [StReg.mask]; decide))
      ((evStatus_keeps (by decide)) (kg _)))) (fun _ => ?_)
    split
    · exact keeps_if_after (fun _ => keeps_after_ctxOk (Keeps.refl _ _)) (fun _ => keeps_after_ctxOk (ks _ (kg _)))
    · exact keeps_after_ctxOk (ks _ (kg _))

theorem execCountersPeriod_keeps {d : Die} {s : State} : Keeps 0x9800000000000000000000000000000000000000000000000 s (after (execCountersPeriod d s) s) := by
  unfold execCountersPeriod
  repeat' first
    | with_reducible exact Keeps.refl _ _
    | with_reducible refine (modEv_keeps ?_) ?_
    | with_reducible refine (event_keeps (hm := by decide)) ?_
    | with_reducible refine (keeps_foldl_snd (fun _ _ => ?_)) ?_
    | with_reducible refine (keeps_foldl_fst (fun _ _ => ?_)) ?_
    | with_reducible refine (keeps_foldl_third (fun _ _ => ?_)) ?_
    | with_reducible refine (keeps_foldl_mid (fun _ _ => ?_)) ?_
    | with_reducible refine (keeps_foldl (fun _ _ => ?_)) ?_
    | dsimp only
    | with_reducible refine keeps_after_ctxOk ?_
    | (constructor <;> first | exact .inl (by decide) | exact .inr rfl)
    | (simp only [Prod.ext_iff] at *; casesm* _ ∧ _; subst_vars)

theorem execCmpSlotFree_keeps {slot : Nat} {s : State} : Keeps 0x18c0000000000000000000000000000000000000000000000 s (after (execCmpSlotFree slot s) s) := by
  unfold execCmpSlotFree
  extract_lets c src s1
  have k1 : Keeps 0x18c0000000000000000000000000000000000000000000000 s s1 := by
    refine (set_cmp_keeps ?_) (Keeps.refl _ _)
    constructor <;> first | exact .inl (by decide) | exact .inr rfl
  clear_value s1
  refine keeps_if_after (fun _ => keeps_after_ctxOk (Keeps.refl _ _)) (fun _ => ?_)
  exact keeps_after_ctxOk ((spEvent_keeps (by decide)) ((setStatus_keeps (by simp only [StReg.mask]; decide)) k1))

theorem endCtxMoves_keeps {d : Die} {c : Nat} {s : State} (hm : Sub 0x18000000000800000d80000000001b80000040000008191d48067865260000002d81600000000 km) (hk :
    Keeps km kz s) : Keeps km kz (endCtxMoves d c s) := by
  refine Keeps.lift hm ?_ hk
  unfold endCtxMoves
  repeat' first
    | with_reducible exact Keeps.refl _ _
    | with_reducible refine (endMove_keeps (hm := by decide)) ?_
    | with_reducible refine (keeps_foldl_snd (fun _ _ => ?_)) ?_
    | with_reducible refine (keeps_foldl_fst (fun _ _ => ?_)) ?_
    | with_reducible refine (keeps_foldl_third (fun _ _ => ?_)) ?_
    | with_reducible refine (keeps_foldl_mid (fun _ _ => ?_)) ?_
    | with_reducible refine (keeps_foldl (fun _ _ => ?_)) ?_
    | with_reducible refine keeps_elim ?_ (fun _ => ?_)
    | dsimp only
    | (simp only [Prod.ext_iff] at *; casesm* _ ∧ _; subst_vars)

theorem endCtxWakes_keeps {d : Die} {c : Nat} {s : State} (hm : Sub 0x18000000000000000d80000000001800040040045c001d1108000040020000002d81600000000 km) (hk :
    Keeps km kz s) : Keeps km kz (endCtxWakes d c s) := by
  refine Keeps.lift hm ?_ hk
  unfold endCtxWakes
  repeat' first
    | with_reducible exact Keeps.refl _ _
    | with_reducible refine (wakeFails_keeps (hm := by decide)) ?_
    | with_reducible refine (keeps_foldl_snd (fun _ _ => ?_)) ?_
    | with_reducible refine (keeps_foldl_fst (fun _ _ => ?_)) ?_
    | with_reducible refine (keeps_foldl_third (fun _ _ => ?_)) ?_
    | with_reducible refine (keeps_foldl_mid (fun _ _ => ?_)) ?_
    | with_reducible refine (keeps_foldl (fun _ _ => ?_)) ?_
    | with_reducible refine keeps_if (fun _ => ?_) (fun _ => ?_)
    | dsimp only
    | split
    | (simp only [Prod.ext_iff] at *; casesm* _ ∧ _; subst_vars)

theorem cancelEvents_keeps {d : Die} {c : Nat} {s : State} (hm : Sub 0x1800000000000000000000000000000000000000000000000 km) (hk :
    Keeps km kz s) : Keeps km kz (cancelEvents d c s) := by
  refine Keeps.lift hm ?_ hk
  unfold cancelEvents
  repeat' first
    | with_reducible exact Keeps.refl _ _
    | with_reducible refine (setStatus_keeps (hm := by first | decide | (simp only [StReg.mask]; decide))) ?_
    | with_reducible refine (modEv_keeps ?_) ?_
    | with_reducible refine keeps_if (fun _ => ?_) (fun _ => ?_)
    | dsimp only
    | split
    | (constructor <;> first | exact .inl (by decide) | exact .inr rfl)

theorem endCtxInstances_keeps {d : Die} {c : Nat} {s : State} (hm : Sub 0xd80000000000800740400000000000000000040020000002d81600000000 km) (hk :
    Keeps km kz s) : Keeps km kz (endCtxInstances d c s) := by
  refine Keeps.lift hm ?_ hk
  unfold endCtxInstances
  repeat' first
    | with_reducible exact Keeps.refl _ _
    | with_reducible refine (abortInstance_keeps (hm := by decide)) ?_
    | with_reducible refine (keeps_foldl_snd (fun _ _ => ?_)) ?_
    | with_reducible refine (keeps_foldl_fst (fun _ _ => ?_)) ?_
    | with_reducible refine (keeps_foldl_third (fun _ _ => ?_)) ?_
    | with_reducible refine (keeps_foldl_mid (fun _ _ => ?_)) ?_
    | with_reducible refine (keeps_foldl (fun _ _ => ?_)) ?_
    | dsimp only
    | (simp only [Prod.ext_iff] at *; casesm* _ ∧ _; subst_vars)

theorem endCtxWork_keeps {d : Die} {c : Nat} {s : State} (hm : Sub 0x18000000000800000d80000000011b80740540045c081d1d48067865260000002d81600000000 km) (hk :
    Keeps km kz s) : Keeps km kz (endCtxWork d c s) := by
  refine Keeps.lift hm ?_ hk
  unfold endCtxWork
  repeat' first
    | with_reducible exact Keeps.refl _ _
    | with_reducible refine (endAllHeld_keeps (hm := by decide)) ?_
    | with_reducible refine (endCtxWakes_keeps (hm := by decide)) ?_
    | with_reducible refine (endCtxMoves_keeps (hm := by decide)) ?_
    | with_reducible refine (endCtxInstances_keeps (hm := by decide)) ?_
    | with_reducible refine (stopOps_keeps (hm := by decide)) ?_
    | with_reducible refine (stopCtxItems_keeps (hm := by decide)) ?_
    | with_reducible refine (modHome_keeps ?_) ?_
    | with_reducible refine (modPort_keeps (hm := by decide)) ?_
    | with_reducible refine (cancelEvents_keeps (hm := by decide)) ?_
    | with_reducible refine (modEv_keeps ?_) ?_
    | with_reducible refine (keeps_foldl_snd (fun _ _ => ?_)) ?_
    | with_reducible refine (keeps_foldl_fst (fun _ _ => ?_)) ?_
    | with_reducible refine (keeps_foldl_third (fun _ _ => ?_)) ?_
    | with_reducible refine (keeps_foldl_mid (fun _ _ => ?_)) ?_
    | with_reducible refine (keeps_foldl (fun _ _ => ?_)) ?_
    | dsimp only
    | (constructor <;> first | exact .inl (by decide) | exact .inr rfl)
    | (simp only [Prod.ext_iff] at *; casesm* _ ∧ _; subst_vars)

theorem flushBytes_keeps {d : Die} {c : Nat} {s : State} (hm : Sub 0xd80000000000000000000000000000000000000000000000000000000000 km) (hk :
    Keeps km kz s) : Keeps km kz (flushBytes d c s) := by
  refine Keeps.lift hm ?_ hk
  unfold flushBytes
  repeat' first
    | with_reducible exact Keeps.refl _ _
    | with_reducible refine (tapFlush_keeps (hm := by decide)) ?_
    | with_reducible refine (keeps_foldl_snd (fun _ _ => ?_)) ?_
    | with_reducible refine (keeps_foldl_fst (fun _ _ => ?_)) ?_
    | with_reducible refine (keeps_foldl_third (fun _ _ => ?_)) ?_
    | with_reducible refine (keeps_foldl_mid (fun _ _ => ?_)) ?_
    | with_reducible refine (keeps_foldl (fun _ _ => ?_)) ?_
    | dsimp only
    | (simp only [Prod.ext_iff] at *; casesm* _ ∧ _; subst_vars)

theorem tapMarksOf_keeps {d : Die} {c : Nat} {s : State} (hm : Sub 0xd80000000000000000000000000000000000000000000000000000000000 km) (hk :
    Keeps km kz s) : Keeps km kz (tapMarksOf d c s) := by
  refine Keeps.lift hm ?_ hk
  unfold tapMarksOf
  repeat' first
    | with_reducible exact Keeps.refl _ _
    | with_reducible refine (tap_keeps (hm := by decide)) ?_
    | with_reducible refine (flushBytes_keeps (hm := by decide)) ?_
    | with_reducible refine (keeps_foldl_snd (fun _ _ => ?_)) ?_
    | with_reducible refine (keeps_foldl_fst (fun _ _ => ?_)) ?_
    | with_reducible refine (keeps_foldl_third (fun _ _ => ?_)) ?_
    | with_reducible refine (keeps_foldl_mid (fun _ _ => ?_)) ?_
    | with_reducible refine (keeps_foldl (fun _ _ => ?_)) ?_
    | dsimp only
    | (simp only [Prod.ext_iff] at *; casesm* _ ∧ _; subst_vars)

theorem overAgain_keeps {c : Nat} {s : State} (hm : Sub 0x1800000000000000000000000000000000000000000000000 km) (hk :
    Keeps km kz s) : Keeps km kz (overAgain c s) := by
  refine Keeps.lift hm ?_ hk
  unfold overAgain
  repeat' first
    | with_reducible exact Keeps.refl _ _
    | with_reducible refine (overQuota_keeps (hm := by decide)) ?_
    | with_reducible refine (modCtx_keeps (hm := by decide)) ?_
    | with_reducible refine (keeps_foldl_snd (fun _ _ => ?_)) ?_
    | with_reducible refine (keeps_foldl_fst (fun _ _ => ?_)) ?_
    | with_reducible refine (keeps_foldl_third (fun _ _ => ?_)) ?_
    | with_reducible refine (keeps_foldl_mid (fun _ _ => ?_)) ?_
    | with_reducible refine (keeps_foldl (fun _ _ => ?_)) ?_
    | with_reducible refine keeps_if (fun _ => ?_) (fun _ => ?_)
    | dsimp only
    | split
    | (simp only [Prod.ext_iff] at *; casesm* _ ∧ _; subst_vars)

theorem execCtxResetComplete_keeps {ctx : Nat} {s : State} : Keeps 0xd80000000001800000000000000000000000000000000000000004000000 s (after (execCtxResetComplete ctx s) s) := by
  unfold execCtxResetComplete
  refine keeps_if_after (fun _ => keeps_after_ctxOk (Keeps.refl _ _)) (fun _ => ?_)
  extract_lets s1 n job s2 s3
  have k1 : Keeps 0xd80000000001800000000000000000000000000000000000000004000000 s s1 := (tapMarksOf_keeps (by decide)) ((tapMarksOf_keeps (by decide)) (Keeps.refl _ _))
  have k2 : Keeps 0xd80000000001800000000000000000000000000000000000000004000000 s s2 := (modCtx_keeps (by decide)) k1
  have k3 : Keeps 0xd80000000001800000000000000000000000000000000000000004000000 s s3 := (overAgain_keeps (by decide)) k2
  clear_value s3
  refine keeps_after_ctxOk ((spEvent_keeps (by decide)) ?_)
  exact keeps_elim k3 (fun j => (jobDone_keeps (by decide)) k3)

theorem journalCfg_keeps {s0 : State} {cs : List Change} {s : State} (hm : Sub 0x1800000040045c00000000000000000000000000000000000 km) (hk :
    Keeps km kz s) : Keeps km kz (journalCfg s0 cs s) := by
  refine Keeps.lift hm ?_ hk
  unfold journalCfg
  repeat' first
    | with_reducible exact Keeps.refl _ _
    | with_reducible refine (journal_keeps (hm := by decide)) ?_
    | with_reducible refine keeps_if (fun _ => ?_) (fun _ => ?_)
    | dsimp only
    | split

theorem execCtxDestroyComplete_keeps {ctx : Nat} {s : State} : Keeps 0xd80000000001800000040045c00000000000000000000000000004000002 s (after (execCtxDestroyComplete ctx s) s) := by
  unfold execCtxDestroyComplete
  refine keeps_if_after (fun _ => keeps_after_ctxOk (Keeps.refl _ _)) (fun _ => ?_)
  extract_lets s1 gone cs job s2 s3
  have k1 : Keeps 0xd80000000001800000040045c00000000000000000000000000004000002 s s1 := (tapMarksOf_keeps (by decide)) ((tapMarksOf_keeps (by decide)) (Keeps.refl _ _))
  clear_value gone cs
  have k2 : Keeps 0xd80000000001800000040045c00000000000000000000000000004000002 s s2 := (journalCfg_keeps (by decide)) ((withChanges_keeps (by decide)) k1)
  have k3 : Keeps 0xd80000000001800000040045c00000000000000000000000000004000002 s s3 := (modCtx_keeps (by decide)) k2
  clear_value s3
  exact keeps_after_ctxOk (keeps_elim k3 (fun j => (jobDone_keeps (by decide)) k3))

end Machine
end Sys2Proof
end

