-- ==== Sys2Proof/Laws/FrameCtlCore.lean ====
section
/-! SUPPORT. Frames of the functions of Machine/CtlCore.lean: the parts of the state that each may change, as a mask (Laws/Keeps.lean). -/

namespace Sys2Proof
namespace Machine
set_option linter.unusedTactic false
set_option linter.unreachableTactic false
set_option linter.tactic.unusedName false
variable {km : Nat} {kz : State}

theorem keeps_after_ctlOk {s d : State} (hk : Keeps km kz s) : Keeps km kz (after (ctlOk s) d) := hk

theorem mirror_keeps {code : Nat} {r : CtlReq} {s : State} (hm : Sub 0x100000000 km) (hk :
    Keeps km kz s) : Keeps km kz (mirror code r s) := by
  refine Keeps.lift hm ?_ hk
  unfold mirror
  repeat' first
    | with_reducible exact Keeps.refl _ _
    | with_reducible refine (modCfg_keeps ?_) ?_
    | dsimp only
    | (constructor <;> first | exact .inl (by decide) | exact .inr rfl)

theorem runCtl_keeps {code : Nat} {r : CtlReq} {own : State → State} {s0 : State} (h_own : ∀ x0, Keeps km x0 (own x0)) (hm : Sub 0x800000000000000000000000040020000002d81722400000 km) (hk :
    Keeps km kz s0) : Keeps km kz (runCtl code r own s0) := by
  refine Keeps.lift (Nat.and_self km) ?_ hk
  unfold runCtl
  repeat' first
    | with_reducible exact Keeps.refl _ _
    | with_reducible refine (takeSp_keeps (hm := by exact sub_trans (by decide) hm)) ?_
    | with_reducible refine (sendCtlRsp_keeps (hm := by exact sub_trans (by decide) hm)) ?_
    | with_reducible refine (ctlAnswer_keeps (hm := by exact sub_trans (by decide) hm)) ?_
    | with_reducible refine (mirror_keeps (hm := by exact sub_trans (by decide) hm)) ?_
    | with_reducible refine (Keeps.lift (Nat.and_self km) (h_own _)) ?_
    | extract_lets
    | split
    | dsimp only

theorem ctlEnd_keeps {code : Nat} {r : CtlReq} {st : BitVec 5} {s : State} (hm : Sub 0x800000000000000000000000040020000002d81602400000 km) (hk :
    Keeps km kz s) : Keeps km kz (ctlEnd code r st s) := by
  refine Keeps.lift hm ?_ hk
  unfold ctlEnd
  repeat' first
    | with_reducible exact Keeps.refl _ _
    | with_reducible refine (ctlAnswer_keeps (hm := by decide)) ?_

theorem countGen_keeps {s : State} (hm : Sub 0x8000 km) (hk : Keeps km kz s) : Keeps km kz (countGen s) := by
  refine Keeps.lift hm ?_ hk
  unfold countGen
  repeat' first
    | with_reducible exact Keeps.refl _ _
    | with_reducible refine (modCfg_keeps ?_) ?_
    | dsimp only
    | (constructor <;> first | exact .inl (by decide) | exact .inr rfl)

theorem recordCmd_keeps {code : Nat} {r : CtlReq} {c : Change} {after : State → State} {s : State} (h_after : ∀ x0, Keeps km x0 (after x0)) (hm : Sub 0x1800000040045c00000000000040020000002d81602408002 km) (hk :
    Keeps km kz s) : Keeps km kz (recordCmd code r c after s) := by
  refine Keeps.lift (Nat.and_self km) ?_ hk
  unfold recordCmd
  repeat' first
    | with_reducible exact Keeps.refl _ _
    | with_reducible refine (ctlEnd_keeps (hm := by exact sub_trans (by decide) hm)) ?_
    | with_reducible refine (countGen_keeps (hm := by exact sub_trans (by decide) hm)) ?_
    | with_reducible refine (withChanges_keeps (hm := by exact sub_trans (by decide) hm)) ?_
    | with_reducible refine (journalCfg_keeps (hm := by exact sub_trans (by decide) hm)) ?_
    | with_reducible refine (Keeps.lift (Nat.and_self km) (h_after _)) ?_
    | with_reducible refine keeps_if (fun _ => ?_) (fun _ => ?_)
    | (extract_lets; try clear_value *)
    | split
    | dsimp only

end Machine
end Sys2Proof
end

