-- ==== Sys2Proof/Laws/FrameSecurity.lean ====
section
/-! SUPPORT. Frames of the functions of Machine/Security.lean: the parts of the state that each may change, as a mask (Laws/Keeps.lean). -/

namespace Sys2Proof
namespace Machine
set_option linter.unusedTactic false
set_option linter.unreachableTactic false
set_option linter.tactic.unusedName false
variable {km : Nat} {kz : State}

theorem modFw_keeps {s : State} {k : Nat} {g : SlotState → SlotState} (hm : Sub 0x30000000000000000000000000000000000000000000000000000 km) (hk :
    Keeps km kz s) : Keeps km kz (modFw s k g) := by
  refine Keeps.lift hm ?_ hk
  unfold modFw
  repeat' first
    | with_reducible exact Keeps.refl _ _
    | with_reducible refine (modSec_keeps ?_ ?_) ?_
    | with_reducible refine keeps_if (fun _ => ?_) (fun _ => ?_)
    | dsimp only
    | split
    | (constructor <;> first | exact .inl (by decide) | exact .inr rfl)
    | with_reducible exact SecMono.refl _
    | exact ⟨le_rfl, le_rfl, le_rfl, le_rfl, le_rfl⟩

theorem fwBegin_keeps {k total : Nat} {s : State} (hm : Sub 0x30000000000000000000000000000000000000000000000000000 km) (hk :
    Keeps km kz s) : Keeps km kz (fwBegin k total s).2 := by
  refine Keeps.lift hm ?_ hk
  unfold fwBegin
  repeat' first
    | with_reducible exact Keeps.refl _ _
    | with_reducible refine (modFw_keeps (hm := by decide)) ?_
    | with_reducible refine keeps_if (fun _ => ?_) (fun _ => ?_)
    | with_reducible refine keeps_if_snd (fun _ => ?_) (fun _ => ?_)
    | dsimp only
    | split

theorem fwBegin_of_eq {k total : Nat} {s : State}{v0} {v1 : State} (heq : fwBegin k total s = (v0, v1)) (hm : Sub 0x30000000000000000000000000000000000000000000000000000 km) (hk :
    Keeps km kz s) : Keeps km kz v1 := by
  have h := fwBegin_keeps (kz := kz) (s := s) hm hk (k := k) (total := total)
  rw [heq] at h
  exact h

theorem fwEnd_keeps {k : Nat} {s : State} (hm : Sub 0x10030001800000000000000000000000000000000000000000000000 km) (hk :
    Keeps km kz s) : Keeps km kz (fwEnd k s).2 := by
  refine Keeps.lift hm ?_ hk
  unfold fwEnd
  repeat' first
    | with_reducible exact Keeps.refl _ _
    | with_reducible refine (setStatus_keeps (hm := by first | decide | (simp only [StReg.mask]; decide))) ?_
    | with_reducible refine (modFw_keeps (hm := by first | decide | (simp only [StReg.mask]; decide))) ?_
    | with_reducible refine keeps_if (fun _ => ?_) (fun _ => ?_)
    | with_reducible refine keeps_if_snd (fun _ => ?_) (fun _ => ?_)
    | dsimp only
    | split
    | (simp only [Prod.ext_iff] at *; casesm* _ ∧ _; subst_vars)

theorem fwEnd_of_eq {k : Nat} {s : State}{v0} {v1 : State} (heq : fwEnd k s = (v0, v1)) (hm : Sub 0x10030001800000000000000000000000000000000000000000000000 km) (hk :
    Keeps km kz s) : Keeps km kz v1 := by
  have h := fwEnd_keeps (kz := kz) (s := s) hm hk (k := k)
  rw [heq] at h
  exact h

theorem fwAbort_keeps {k : Nat} {s : State} (hm : Sub 0x30000000000000000000000000000000000000000000000000000 km) (hk :
    Keeps km kz s) : Keeps km kz (fwAbort k s).2 := by
  refine Keeps.lift hm ?_ hk
  unfold fwAbort
  repeat' first
    | with_reducible exact Keeps.refl _ _
    | with_reducible refine (modFw_keeps (hm := by decide)) ?_
    | with_reducible refine keeps_if (fun _ => ?_) (fun _ => ?_)
    | with_reducible refine keeps_if_snd (fun _ => ?_) (fun _ => ?_)
    | dsimp only
    | split

theorem fwAbort_of_eq {k : Nat} {s : State}{v0} {v1 : State} (heq : fwAbort k s = (v0, v1)) (hm : Sub 0x30000000000000000000000000000000000000000000000000000 km) (hk :
    Keeps km kz s) : Keeps km kz v1 := by
  have h := fwAbort_keeps (kz := kz) (s := s) hm hk (k := k)
  rw [heq] at h
  exact h

theorem fwCommit_keeps {s : State} (hm : Sub 0x10000401800000000000000000000000000000000000000000000000 km) (hk :
    Keeps km kz s) : Keeps km kz (fwCommit s).2 := by
  refine Keeps.lift hm ?_ hk
  clear hk
  unfold fwCommit
  refine keeps_if_snd (fun h => ?_) (fun _ => Keeps.refl _ _)
  refine setStatus_keeps (by simp only [StReg.mask]; decide) (modSec_keeps ?_ ⟨le_rfl, le_of_lt h, le_rfl, le_rfl, le_rfl⟩ (Keeps.refl _ _))
  constructor <;> first | exact .inl (by decide) | exact .inr rfl

theorem fwCommit_of_eq {s : State}{v0} {v1 : State} (heq : fwCommit s = (v0, v1)) (hm : Sub 0x10000401800000000000000000000000000000000000000000000000 km) (hk :
    Keeps km kz s) : Keeps km kz v1 := by
  have h := fwCommit_keeps (kz := kz) (s := s) hm hk
  rw [heq] at h
  exact h

theorem fwCtlWrite_keeps {v : Nat} {s : State} (hm : Sub 0x10030401800000000000000000000000000000000000000000000000 km) (hk :
    Keeps km kz s) : Keeps km kz (fwCtlWrite v s).2 := by
  refine Keeps.lift hm ?_ hk
  unfold fwCtlWrite
  repeat' first
    | with_reducible exact Keeps.refl _ _
    | with_reducible refine (fwBegin_keeps (hm := by decide)) ?_
    | with_reducible refine (fwBegin_of_eq (heq := by assumption) (hm := by decide)) ?_
    | with_reducible refine (fwEnd_keeps (hm := by decide)) ?_
    | with_reducible refine (fwEnd_of_eq (heq := by assumption) (hm := by decide)) ?_
    | with_reducible refine (fwAbort_keeps (hm := by decide)) ?_
    | with_reducible refine (fwAbort_of_eq (heq := by assumption) (hm := by decide)) ?_
    | with_reducible refine (fwCommit_keeps (hm := by decide)) ?_
    | with_reducible refine (fwCommit_of_eq (heq := by assumption) (hm := by decide)) ?_
    | with_reducible refine keeps_if (fun _ => ?_) (fun _ => ?_)
    | with_reducible refine keeps_if_snd (fun _ => ?_) (fun _ => ?_)
    | dsimp only
    | split

theorem fwCtlWrite_of_eq {v : Nat} {s : State}{v0} {v1 : State} (heq : fwCtlWrite v s = (v0, v1)) (hm : Sub 0x10030401800000000000000000000000000000000000000000000000 km) (hk :
    Keeps km kz s) : Keeps km kz v1 := by
  have h := fwCtlWrite_keeps (kz := kz) (s := s) hm hk (v := v)
  rw [heq] at h
  exact h

theorem apertureWrite_keeps {off : Nat} {b : Bytes} {s : State} (hm : Sub 0x30000000000000000000000000000000000000000000000000000 km) (hk :
    Keeps km kz s) : Keeps km kz (apertureWrite off b s).2 := by
  refine Keeps.lift hm ?_ hk
  unfold apertureWrite
  repeat' first
    | with_reducible exact Keeps.refl _ _
    | with_reducible refine (modFw_keeps (hm := by decide)) ?_
    | with_reducible refine keeps_if (fun _ => ?_) (fun _ => ?_)
    | with_reducible refine keeps_if_snd (fun _ => ?_) (fun _ => ?_)
    | dsimp only
    | split

theorem apertureWrite_of_eq {off : Nat} {b : Bytes} {s : State}{v0} {v1 : State} (heq : apertureWrite off b s = (v0, v1)) (hm : Sub 0x30000000000000000000000000000000000000000000000000000 km) (hk :
    Keeps km kz s) : Keeps km kz v1 := by
  have h := apertureWrite_keeps (kz := kz) (s := s) hm hk (off := off) (b := b)
  rw [heq] at h
  exact h

theorem rwlChange_keeps {off counter : Nat} {s : State} (hm : Sub 0x1800000000000000000000000000000000000000000000000 km) (hk :
    Keeps km kz s) : Keeps km kz (rwlChange off counter s) := by
  refine Keeps.lift hm ?_ hk
  unfold rwlChange
  repeat' first
    | with_reducible exact Keeps.refl _ _
    | with_reducible refine (spEvent_keeps (hm := by decide)) ?_

theorem rwlAccepted_keeps {off counter : Nat} {s : State} (hm : Sub 0x1800000040045c00000000000000000000000000000000000 km) (hk :
    Keeps km kz s) : Keeps km kz (rwlAccepted off counter s) := by
  refine Keeps.lift hm ?_ hk
  unfold rwlAccepted
  repeat' first
    | with_reducible exact Keeps.refl _ _
    | with_reducible refine (rwlChange_keeps (hm := by decide)) ?_
    | with_reducible refine (journal_keeps (hm := by decide)) ?_

theorem rwlBegin_keeps {code : Nat} {r : CtlReq} {off left : Nat} {s : State} (hm : Sub 0x1800000000000000000000000040020000002d81642400000 km) (hk :
    Keeps km kz s) : Keeps km kz (rwlBegin code r off left s) := by
  refine Keeps.lift hm ?_ hk
  unfold rwlBegin
  repeat' first
    | with_reducible exact Keeps.refl _ _
    | with_reducible refine (ctlEnd_keeps (hm := by decide)) ?_
    | with_reducible refine (rwlChange_keeps (hm := by decide)) ?_
    | with_reducible refine (modCfg_keeps ?_) ?_
    | with_reducible refine keeps_if (fun _ => ?_) (fun _ => ?_)
    | dsimp only
    | split
    | (constructor <;> first | exact .inl (by decide) | exact .inr rfl)

theorem unlockRead_keeps {r : CtlReq} {st : BitVec 5} {b : Bytes} {s : State} (hm : Sub 0x13002001800000040045c00000000000040020000002d81602400000 km) (hk :
    Keeps km kz s) : Keeps km kz (unlockRead r st b s) := by
  refine Keeps.lift hm ?_ hk
  clear hk
  unfold unlockRead
  split
  · exact ctlEnd_keeps (by decide) (setStatus_keeps (by simp only [StReg.mask]; decide) (Keeps.refl _ _))
  · extract_lets s1
    have k1 : Keeps 0x13002001800000040045c00000000000040020000002d81602400000 s s1 := by
      refine modSec_keeps ?_ ⟨le_rfl, le_rfl, le_rfl, Nat.sub_le _ _, le_rfl⟩ (Keeps.refl _ _)
      constructor <;> first | exact .inl (by decide) | exact .inr rfl
    clear_value s1
    exact ctlEnd_keeps (by decide) (rwlAccepted_keeps (by decide) k1)

theorem attestOwn_keeps {r : CtlReq} {s : State} (hm : Sub 0x10000001800000000000000000000000040020000002d81602400000 km) (hk :
    Keeps km kz s) : Keeps km kz (attestOwn r s) := by
  refine Keeps.lift hm ?_ hk
  unfold attestOwn
  repeat' first
    | with_reducible exact Keeps.refl _ _
    | with_reducible refine (ctlEnd_keeps (hm := by first | decide | (simp only [StReg.mask]; decide))) ?_
    | with_reducible refine (setStatus_keeps (hm := by first | decide | (simp only [StReg.mask]; decide))) ?_
    | with_reducible refine (ctlAnswer_keeps (hm := by first | decide | (simp only [StReg.mask]; decide))) ?_
    | with_reducible refine (modCtx_keeps (hm := by first | decide | (simp only [StReg.mask]; decide))) ?_
    | with_reducible refine keeps_if (fun _ => ?_) (fun _ => ?_)
    | dsimp only
    | split

theorem execAttestQuote_keeps {r : CtlReq} {s : State} : Keeps 0x10000001800000000000000000000000040020000002d81722400000 s (after (execAttestQuote r s) s) := by
  unfold execAttestQuote
  repeat' first
    | with_reducible exact Keeps.refl _ _
    | with_reducible refine (runCtl_keeps (hm := by decide) (h_own := fun _ => ?_)) ?_
    | with_reducible refine (attestOwn_keeps (hm := by decide)) ?_
    | with_reducible refine keeps_after_ctlOk ?_

theorem execDebugUnlock_keeps {r : CtlReq} {s : State} : Keeps 0x1800000000000000000000000040020000002d81762400000 s (after (execDebugUnlock r s) s) := by
  unfold execDebugUnlock
  repeat' first
    | with_reducible exact Keeps.refl _ _
    | with_reducible refine (runCtl_keeps (hm := by decide) (h_own := fun _ => ?_)) ?_
    | with_reducible refine (rwlBegin_keeps (hm := by decide)) ?_
    | dsimp only
    | with_reducible refine keeps_after_ctlOk ?_

end Machine
end Sys2Proof
end

