-- ==== Sys2Proof/Laws/FrameLink.lean ====
section
/-! SUPPORT. Frames of the functions of Machine/Link.lean: the parts of the state that each may change, as a mask (Laws/Keeps.lean). -/

namespace Sys2Proof
namespace Machine
set_option linter.unusedTactic false
set_option linter.unreachableTactic false
set_option linter.tactic.unusedName false
variable {km : Nat} {kz : State}

theorem keeps_after_linkOk {s d : State} (hk : Keeps km kz s) : Keeps km kz (after (linkOk s) d) := hk

theorem countDiscard_keeps {p n : Nat} {s : State} (hm : Sub 0x200000000 km) (hk : Keeps km kz s) : Keeps km kz (countDiscard p n s) := by
  refine Keeps.lift hm ?_ hk
  unfold countDiscard
  repeat' first
    | with_reducible exact Keeps.refl _ _
    | with_reducible refine (modPort_keeps (hm := by decide)) ?_
    | dsimp only

theorem putWire_keeps {p k : Nat} {t : Trailer} {f : Frame} {more : List Frame} {corrupt : Bool} {s : State} (hm : Sub 0x20200000000 km) (hk :
    Keeps km kz s) : Keeps km kz (putWire p k t f more corrupt s) := by
  refine Keeps.lift hm ?_ hk
  unfold putWire
  repeat' first
    | with_reducible exact Keeps.refl _ _
    | with_reducible refine (modSub_keeps (hm := by decide)) ?_
    | with_reducible refine (modLft_keeps ?_) ?_
    | with_reducible refine keeps_if (fun _ => ?_) (fun _ => ?_)
    | dsimp only
    | split
    | (constructor <;> first | exact .inl (by decide) | exact .inr rfl)

theorem sendLink_keeps {p k : Nat} {opc : Byte} {payload : Bytes} {s : State} (hm : Sub 0x20200000000 km) (hk :
    Keeps km kz s) : Keeps km kz (sendLink p k opc payload s) := by
  refine Keeps.lift hm ?_ hk
  unfold sendLink
  repeat' first
    | with_reducible exact Keeps.refl _ _
    | with_reducible refine (putWire_keeps (hm := by decide)) ?_
    | dsimp only

theorem sendCredit_keeps {p k : Nat} {s : State} (hm : Sub 0x20200000000 km) (hk : Keeps km kz s) : Keeps km kz (sendCredit p k s) := by
  refine Keeps.lift hm ?_ hk
  unfold sendCredit
  repeat' first
    | with_reducible exact Keeps.refl _ _
    | with_reducible refine (sendLink_keeps (hm := by decide)) ?_
    | dsimp only

theorem sendNak_keeps {p k : Nat} {s : State} (hm : Sub 0x20200000000 km) (hk : Keeps km kz s) : Keeps km kz (sendNak p k s) := by
  refine Keeps.lift hm ?_ hk
  unfold sendNak
  repeat' first
    | with_reducible exact Keeps.refl _ _
    | with_reducible refine (sendLink_keeps (hm := by decide)) ?_
    | with_reducible refine (modSub_keeps (hm := by decide)) ?_
    | dsimp only

theorem resendFrames_keeps {p k : Nat} {fs : List SentFrame} {s : State} (hm : Sub 0x20200000000 km) (hk :
    Keeps km kz s) : Keeps km kz (resendFrames p k fs s) := by
  refine Keeps.lift hm ?_ hk
  unfold resendFrames
  repeat' first
    | with_reducible exact Keeps.refl _ _
    | with_reducible refine (putWire_keeps (hm := by decide)) ?_
    | with_reducible refine (modSub_keeps (hm := by decide)) ?_
    | with_reducible refine (modPort_keeps (hm := by decide)) ?_
    | with_reducible refine (keeps_foldl_snd (fun _ _ => ?_)) ?_
    | with_reducible refine (keeps_foldl_fst (fun _ _ => ?_)) ?_
    | with_reducible refine (keeps_foldl_third (fun _ _ => ?_)) ?_
    | with_reducible refine (keeps_foldl_mid (fun _ _ => ?_)) ?_
    | with_reducible refine (keeps_foldl (fun _ _ => ?_)) ?_
    | with_reducible refine keeps_if (fun _ => ?_) (fun _ => ?_)
    | dsimp only
    | split
    | (simp only [Prod.ext_iff] at *; casesm* _ ∧ _; subst_vars)

theorem takeAck_keeps {p k : Nat} {ack : BitVec 24} {s : State} (hm : Sub 0x200000000 km) (hk :
    Keeps km kz s) : Keeps km kz (takeAck p k ack s) := by
  refine Keeps.lift hm ?_ hk
  unfold takeAck
  repeat' first
    | with_reducible exact Keeps.refl _ _
    | with_reducible refine (modSub_keeps (hm := by decide)) ?_
    | with_reducible refine keeps_if (fun _ => ?_) (fun _ => ?_)
    | dsimp only
    | split

theorem mapDescs_keeps {g : Desc → Desc} {s : State} (hm : Sub 0x100000000111e00000000 km) (hk :
    Keeps km kz s) : Keeps km kz (mapDescs g s) := by
  refine Keeps.lift hm ?_ hk
  clear hk
  unfold mapDescs
  extract_lets held pairs port swc home
  have kw : ∀ w, SwcKeeps 0x100000000111e00000000 w (swc w) := by
    intro w
    constructor <;> first | exact .inl (by decide) | exact .inr rfl
  have kh : ∀ w, HomeKeeps 0x100000000111e00000000 w (home w) := by
    intro w
    constructor <;> first | exact .inl (by decide) | exact .inr rfl
  clear_value held pairs port swc home
  refine (set_lft_swc_home_keeps ?_ ⟨kw _, kw _⟩ ⟨kh _, kh _⟩) (Keeps.refl _ _)
  constructor <;> first | exact .inl (by decide) | exact .inr rfl

theorem forgetSource_keeps {p k : Nat} {s : State} (hm : Sub 0x100000000111e00000000 km) (hk :
    Keeps km kz s) : Keeps km kz (forgetSource p k s) := by
  refine Keeps.lift hm ?_ hk
  unfold forgetSource
  repeat' first
    | with_reducible exact Keeps.refl _ _
    | with_reducible refine (mapDescs_keeps (hm := by decide)) ?_
    | with_reducible refine keeps_if (fun _ => ?_) (fun _ => ?_)
    | dsimp only
    | split

theorem discardQueued_keeps {d : Die} {p : Nat} {gone : Output → Desc → Bool} {s : State} (hm : Sub 0x2580200000000 km) (hk :
    Keeps km kz s) : Keeps km kz (discardQueued d p gone s) := by
  refine Keeps.lift hm ?_ hk
  unfold discardQueued
  repeat' first
    | with_reducible exact Keeps.refl _ _
    | with_reducible refine (modSwc_keeps ?_) ?_
    | with_reducible refine (countDiscard_keeps (hm := by decide)) ?_
    | with_reducible refine (letGo_keeps (hm := by decide)) ?_
    | with_reducible refine (keeps_foldl_snd (fun _ _ => ?_)) ?_
    | with_reducible refine (keeps_foldl_fst (fun _ _ => ?_)) ?_
    | with_reducible refine (keeps_foldl_third (fun _ _ => ?_)) ?_
    | with_reducible refine (keeps_foldl_mid (fun _ _ => ?_)) ?_
    | with_reducible refine (keeps_foldl (fun _ _ => ?_)) ?_
    | dsimp only
    | (constructor <;> first | exact .inl (by decide) | exact .inr rfl)
    | (simp only [Prod.ext_iff] at *; casesm* _ ∧ _; subst_vars)

theorem clearSub_keeps {p k : Nat} {s : State} (hm : Sub 0x100000002591e00000000 km) (hk :
    Keeps km kz s) : Keeps km kz (clearSub p k s) := by
  refine Keeps.lift hm ?_ hk
  unfold clearSub
  repeat' first
    | with_reducible exact Keeps.refl _ _
    | with_reducible refine (discardQueued_keeps (hm := by decide)) ?_
    | with_reducible refine (modSub_keeps (hm := by decide)) ?_
    | with_reducible refine (forgetSource_keeps (hm := by decide)) ?_
    | with_reducible refine (countDiscard_keeps (hm := by decide)) ?_
    | dsimp only

theorem linkDown_keeps {p k : Nat} {s : State} (hm : Sub 0x8000000000000000001800000000000000000000000000100000002591e00000000 km) (hk :
    Keeps km kz s) : Keeps km kz (linkDown p k s) := by
  refine Keeps.lift hm ?_ hk
  unfold linkDown
  repeat' first
    | with_reducible exact Keeps.refl _ _
    | with_reducible refine (modFlt_keeps ?_) ?_
    | with_reducible refine (setStatus_keeps (hm := by first | decide | (simp only [StReg.mask]; decide))) ?_
    | with_reducible refine (clearSub_keeps (hm := by first | decide | (simp only [StReg.mask]; decide))) ?_
    | dsimp only
    | (constructor <;> first | exact .inl (by decide) | exact .inr rfl)

theorem linkUp_keeps {p k : Nat} {s : State} (hm : Sub 0x8000000000000000000000000000000000000000000000000000000000000000000 km) (hk :
    Keeps km kz s) : Keeps km kz (linkUp p k s) := by
  refine Keeps.lift hm ?_ hk
  unfold linkUp
  repeat' first
    | with_reducible exact Keeps.refl _ _
    | with_reducible refine (modFlt_keeps ?_) ?_
    | dsimp only
    | (constructor <;> first | exact .inl (by decide) | exact .inr rfl)

theorem execSublinkLockLoss_keeps {port sub : Nat} {s : State} : Keeps 0x8000000000000000001800000000000000000000000000100000002591e00000000 s (after (execSublinkLockLoss port sub s) s) := by
  unfold execSublinkLockLoss
  repeat' first
    | with_reducible exact Keeps.refl _ _
    | with_reducible refine (linkDown_keeps (hm := by decide)) ?_
    | with_reducible refine keeps_if (fun _ => ?_) (fun _ => ?_)
    | with_reducible refine keeps_if_after (fun _ => ?_) (fun _ => ?_)
    | split
    | with_reducible refine keeps_after_linkOk ?_

theorem execSublinkRxTimeout_keeps {port sub : Nat} {s : State} : Keeps 0x8000000000000000001800000000000000000000000000100000002591e00000000 s (after (execSublinkRxTimeout port sub s) s) := by
  unfold execSublinkRxTimeout
  repeat' first
    | with_reducible exact Keeps.refl _ _
    | with_reducible refine (linkDown_keeps (hm := by decide)) ?_
    | with_reducible refine keeps_if (fun _ => ?_) (fun _ => ?_)
    | with_reducible refine keeps_if_after (fun _ => ?_) (fun _ => ?_)
    | split
    | with_reducible refine keeps_after_linkOk ?_

theorem execSublinkReplayLimit_keeps {port sub : Nat} {s : State} : Keeps 0x8000000000000000001800000000000000000000000000100000002591e00000000 s (after (execSublinkReplayLimit port sub s) s) := by
  unfold execSublinkReplayLimit
  repeat' first
    | with_reducible exact Keeps.refl _ _
    | with_reducible refine (setStatus_keeps (hm := by first | decide | (simp only [StReg.mask]; decide))) ?_
    | with_reducible refine (linkDown_keeps (hm := by first | decide | (simp only [StReg.mask]; decide))) ?_
    | with_reducible refine keeps_if (fun _ => ?_) (fun _ => ?_)
    | with_reducible refine keeps_if_after (fun _ => ?_) (fun _ => ?_)
    | dsimp only
    | split
    | with_reducible refine keeps_after_linkOk ?_

theorem execSublinkBringupTimeout_keeps {port sub : Nat} {s : State} : Keeps 0x8000000000000000001800000000000000000000000000100000002591e00000000 s (after (execSublinkBringupTimeout port sub s) s) := by
  unfold execSublinkBringupTimeout
  repeat' first
    | with_reducible exact Keeps.refl _ _
    | with_reducible refine (linkDown_keeps (hm := by decide)) ?_
    | with_reducible refine keeps_if (fun _ => ?_) (fun _ => ?_)
    | with_reducible refine keeps_if_after (fun _ => ?_) (fun _ => ?_)
    | dsimp only
    | split
    | with_reducible refine keeps_after_linkOk ?_

theorem kaSend_keeps {p k msg : Nat} {b : Bytes} {s : State} (hm : Sub 0x40200000000 km) (hk :
    Keeps km kz s) : Keeps km kz (kaSend p k msg b s) := by
  refine Keeps.lift hm ?_ hk
  unfold kaSend
  repeat' first
    | with_reducible exact Keeps.refl _ _
    | with_reducible refine (modLft_keeps ?_) ?_
    | with_reducible refine (modSub_keeps (hm := by decide)) ?_
    | dsimp only
    | (constructor <;> first | exact .inl (by decide) | exact .inr rfl)

theorem startKa_keeps {p k : Nat} {s : State} (hm : Sub 0x20000000000000000000000000000000000000000000000000000000000000000040200000000 km) (hk :
    Keeps km kz s) : Keeps km kz (startKa p k s) := by
  refine Keeps.lift hm ?_ hk
  unfold startKa
  repeat' first
    | with_reducible exact Keeps.refl _ _
    | with_reducible refine (drawFree_keeps (hm := by decide)) ?_
    | with_reducible refine (drawFree_of_eq (heq := by assumption) (hm := by decide)) ?_
    | with_reducible refine (kaSend_keeps (hm := by decide)) ?_
    | with_reducible refine (modSub_keeps (hm := by decide)) ?_
    | with_reducible refine keeps_if (fun _ => ?_) (fun _ => ?_)
    | with_reducible refine keeps_if_snd (fun _ => ?_) (fun _ => ?_)
    | dsimp only
    | split
    | (simp only [Prod.ext_iff] at *; casesm* _ ∧ _; subst_vars)

theorem afterKeys_keeps {p k : Nat} {s : State} (hm : Sub 0x8000000000000000000000000000000000000000000000000000000000200000000 km) (hk :
    Keeps km kz s) : Keeps km kz (afterKeys p k s) := by
  refine Keeps.lift hm ?_ hk
  unfold afterKeys
  repeat' first
    | with_reducible exact Keeps.refl _ _
    | with_reducible refine (linkUp_keeps (hm := by decide)) ?_
    | with_reducible refine (modSub_keeps (hm := by decide)) ?_
    | with_reducible refine keeps_if (fun _ => ?_) (fun _ => ?_)
    | dsimp only
    | split

theorem installKeys_keeps {p k : Nat} {ss t : Bytes} {s : State} (hm : Sub 0x8000000000000000000000000000000000000000000000000000000000200000000 km) (hk :
    Keeps km kz s) : Keeps km kz (installKeys p k ss t s) := by
  refine Keeps.lift hm ?_ hk
  unfold installKeys
  repeat' first
    | with_reducible exact Keeps.refl _ _
    | with_reducible refine (modSub_keeps (hm := by decide)) ?_
    | with_reducible refine (afterKeys_keeps (hm := by decide)) ?_
    | with_reducible refine keeps_if (fun _ => ?_) (fun _ => ?_)
    | dsimp only
    | split

theorem kaRefuse_keeps {p k : Nat} {s : State} (hm : Sub 0x10000001800000000000000000000000000000000000000200000000 km) (hk :
    Keeps km kz s) : Keeps km kz (kaRefuse p k s) := by
  refine Keeps.lift hm ?_ hk
  unfold kaRefuse
  repeat' first
    | with_reducible exact Keeps.refl _ _
    | with_reducible refine (setStatus_keeps (hm := by first | decide | (simp only [StReg.mask]; decide))) ?_
    | with_reducible refine (modSub_keeps (hm := by first | decide | (simp only [StReg.mask]; decide))) ?_
    | dsimp only

theorem execKaHello_keeps {port sub : Nat} {msg : Bytes} {s : State} : Keeps 0x20000000000000000000010000001800000000000000000000000000000000000040200000000 s (after (execKaHello port sub msg s) s) := by
  unfold execKaHello
  repeat' first
    | with_reducible exact Keeps.refl _ _
    | with_reducible refine (kaSend_keeps (hm := by decide)) ?_
    | with_reducible refine (kaRefuse_keeps (hm := by decide)) ?_
    | with_reducible refine (drawFree_keeps (hm := by decide)) ?_
    | with_reducible refine (drawFree_of_eq (heq := by assumption) (hm := by decide)) ?_
    | with_reducible refine (modSub_keeps (hm := by decide)) ?_
    | with_reducible refine keeps_if (fun _ => ?_) (fun _ => ?_)
    | with_reducible refine keeps_if_after (fun _ => ?_) (fun _ => ?_)
    | with_reducible refine keeps_if_snd (fun _ => ?_) (fun _ => ?_)
    | dsimp only
    | split
    | with_reducible refine keeps_after_linkOk ?_
    | (simp only [Prod.ext_iff] at *; casesm* _ ∧ _; subst_vars)

theorem execKaReply_keeps {port sub : Nat} {msg : Bytes} {s : State} : Keeps 0x8000000000010000001800000000000000000000000000000000000040200000000 s (after (execKaReply port sub msg s) s) := by
  unfold execKaReply
  refine keeps_if_after (fun _ => keeps_after_linkOk (Keeps.refl _ _)) (fun _ => ?_)
  refine keeps_if_after (fun _ => keeps_after_linkOk ((kaRefuse_keeps (by decide)) (Keeps.refl _ _))) (fun _ => ?_)
  exact keeps_after_linkOk ((installKeys_keeps (by decide)) ((kaSend_keeps (by decide)) ((modSub_keeps (by decide)) (Keeps.refl _ _))))

theorem execKaDone_keeps {port sub : Nat} {msg : Bytes} {s : State} : Keeps 0x8000000000010000001800000000000000000000000000000000000000200000000 s (after (execKaDone port sub msg s) s) := by
  unfold execKaDone
  extract_lets x t ss
  clear_value x t ss
  refine keeps_if_after (fun _ => keeps_after_linkOk (Keeps.refl _ _)) (fun _ => ?_)
  refine keeps_if_after (fun _ => ?_) (fun _ => keeps_after_linkOk ((kaRefuse_keeps (by decide)) (Keeps.refl _ _)))
  exact keeps_after_linkOk ((installKeys_keeps (by decide)) ((modSub_keeps (by decide)) (Keeps.refl _ _)))

theorem execKaResend_keeps {port sub : Nat} {s : State} : Keeps 0x40200000000 s (after (execKaResend port sub s) s) := by
  unfold execKaResend
  repeat' first
    | with_reducible exact Keeps.refl _ _
    | with_reducible refine (kaSend_keeps (hm := by decide)) ?_
    | with_reducible refine keeps_if (fun _ => ?_) (fun _ => ?_)
    | with_reducible refine keeps_if_after (fun _ => ?_) (fun _ => ?_)
    | dsimp only
    | split
    | with_reducible refine keeps_after_linkOk ?_

theorem execLinkRekey_keeps {port sub : Nat} {s : State} : Keeps 0x20000000000000000000000000000000000000000000000000000000000000000040200000000 s (after (execLinkRekey port sub s) s) := by
  unfold execLinkRekey
  repeat' first
    | with_reducible exact Keeps.refl _ _
    | with_reducible refine (startKa_keeps (hm := by decide)) ?_
    | with_reducible refine keeps_if (fun _ => ?_) (fun _ => ?_)
    | with_reducible refine keeps_if_after (fun _ => ?_) (fun _ => ?_)
    | split
    | with_reducible refine keeps_after_linkOk ?_

theorem execLinkTrainingDone_keeps {port sub : Nat} {s : State} : Keeps 0x20000000008000000000000000000000000000000000000000000000000000000040200000000 s (after (execLinkTrainingDone port sub s) s) := by
  unfold execLinkTrainingDone
  repeat' first
    | with_reducible exact Keeps.refl _ _
    | with_reducible refine (modSub_keeps (hm := by decide)) ?_
    | with_reducible refine (startKa_keeps (hm := by decide)) ?_
    | with_reducible refine (afterKeys_keeps (hm := by decide)) ?_
    | with_reducible refine keeps_if (fun _ => ?_) (fun _ => ?_)
    | with_reducible refine keeps_if_after (fun _ => ?_) (fun _ => ?_)
    | dsimp only
    | split
    | with_reducible refine keeps_after_linkOk ?_

theorem execLinkInitSend_keeps {port sub : Nat} {s : State} : Keeps 0x20200000000 s (after (execLinkInitSend port sub s) s) := by
  unfold execLinkInitSend
  repeat' first
    | with_reducible exact Keeps.refl _ _
    | with_reducible refine (sendLink_keeps (hm := by decide)) ?_
    | with_reducible refine keeps_if (fun _ => ?_) (fun _ => ?_)
    | with_reducible refine keeps_if_after (fun _ => ?_) (fun _ => ?_)
    | dsimp only
    | split
    | with_reducible refine keeps_after_linkOk ?_

theorem checkInit_keeps {p k : Nat} {b : Bytes} {srcMac : Nat} {s : State} (hm : Sub 0x1800000000000000000000000000000000000020200000000 km) (hk :
    Keeps km kz s) : Keeps km kz (checkInit p k b srcMac s) := by
  refine Keeps.lift hm ?_ hk
  unfold checkInit
  repeat' first
    | with_reducible exact Keeps.refl _ _
    | with_reducible refine (setStatus_keeps (hm := by first | decide | (simp only [StReg.mask]; decide))) ?_
    | with_reducible refine (modSub_keeps (hm := by first | decide | (simp only [StReg.mask]; decide))) ?_
    | with_reducible refine (sendCredit_keeps (hm := by first | decide | (simp only [StReg.mask]; decide))) ?_
    | with_reducible refine keeps_if (fun _ => ?_) (fun _ => ?_)
    | dsimp only
    | split

theorem takeInit_keeps {p k : Nat} {f : Frame} {srcMac : Nat} {s : State} (hm : Sub 0x80000000000000000018000000000000000000000000001000000025b1e00000000 km) (hk :
    Keeps km kz s) : Keeps km kz (takeInit p k f srcMac s) := by
  refine Keeps.lift hm ?_ hk
  unfold takeInit
  repeat' first
    | with_reducible exact Keeps.refl _ _
    | with_reducible refine (countDiscard_keeps (hm := by decide)) ?_
    | with_reducible refine (checkInit_keeps (hm := by decide)) ?_
    | with_reducible refine (linkDown_keeps (hm := by decide)) ?_
    | with_reducible refine (modSub_keeps (hm := by decide)) ?_
    | with_reducible refine keeps_if (fun _ => ?_) (fun _ => ?_)
    | dsimp only
    | split
    | (simp only [Prod.ext_iff] at *; casesm* _ ∧ _; subst_vars)

theorem execLinkInit_keeps {port sub : Nat} {f : Frame} {srcMac : Nat} {s : State} : Keeps 0x80000000000000000018000000000000000000000000001000000025b1e00000000 s (after (execLinkInit port sub f srcMac s) s) := by
  unfold execLinkInit
  repeat' first
    | with_reducible exact Keeps.refl _ _
    | with_reducible refine (takeInit_keeps (hm := by decide)) ?_
    | with_reducible refine keeps_after_linkOk ?_

theorem takeCredit_keeps {p k : Nat} {f : Frame} {s : State} (hm : Sub 0x8000000000000000000000000000000000000000000000000000000000200000000 km) (hk :
    Keeps km kz s) : Keeps km kz (takeCredit p k f s) := by
  refine Keeps.lift hm ?_ hk
  unfold takeCredit
  repeat' first
    | with_reducible exact Keeps.refl _ _
    | with_reducible refine (countDiscard_keeps (hm := by decide)) ?_
    | with_reducible refine (modSub_keeps (hm := by decide)) ?_
    | with_reducible refine (linkUp_keeps (hm := by decide)) ?_
    | with_reducible refine keeps_if (fun _ => ?_) (fun _ => ?_)
    | dsimp only
    | split

theorem execLinkCredit_keeps {port sub : Nat} {f : Frame} {s : State} : Keeps 0x8000000000000000000000000000000000000000000000000000000000200000000 s (after (execLinkCredit port sub f s) s) := by
  unfold execLinkCredit
  repeat' first
    | with_reducible exact Keeps.refl _ _
    | with_reducible refine (takeCredit_keeps (hm := by decide)) ?_
    | with_reducible refine keeps_after_linkOk ?_

theorem execLinkCreditSend_keeps {port sub : Nat} {s : State} : Keeps 0x20200000000 s (after (execLinkCreditSend port sub s) s) := by
  unfold execLinkCreditSend
  repeat' first
    | with_reducible exact Keeps.refl _ _
    | with_reducible refine (sendCredit_keeps (hm := by decide)) ?_
    | with_reducible refine (modSub_keeps (hm := by decide)) ?_
    | with_reducible refine keeps_if (fun _ => ?_) (fun _ => ?_)
    | with_reducible refine keeps_if_after (fun _ => ?_) (fun _ => ?_)
    | dsimp only
    | split
    | with_reducible refine keeps_after_linkOk ?_

theorem takeNak_keeps {p k : Nat} {f : Frame} {s : State} (hm : Sub 0x20200000000 km) (hk :
    Keeps km kz s) : Keeps km kz (takeNak p k f s) := by
  refine Keeps.lift hm ?_ hk
  unfold takeNak
  repeat' first
    | with_reducible exact Keeps.refl _ _
    | with_reducible refine (countDiscard_keeps (hm := by decide)) ?_
    | with_reducible refine (resendFrames_keeps (hm := by decide)) ?_
    | with_reducible refine keeps_if (fun _ => ?_) (fun _ => ?_)
    | dsimp only
    | split

theorem execLinkNak_keeps {port sub : Nat} {f : Frame} {s : State} : Keeps 0x20200000000 s (after (execLinkNak port sub f s) s) := by
  unfold execLinkNak
  repeat' first
    | with_reducible exact Keeps.refl _ _
    | with_reducible refine (takeNak_keeps (hm := by decide)) ?_
    | with_reducible refine keeps_after_linkOk ?_

theorem execLinkNakRepeat_keeps {port sub : Nat} {s : State} : Keeps 0x20200000000 s (after (execLinkNakRepeat port sub s) s) := by
  unfold execLinkNakRepeat
  repeat' first
    | with_reducible exact Keeps.refl _ _
    | with_reducible refine (sendNak_keeps (hm := by decide)) ?_
    | with_reducible refine keeps_if (fun _ => ?_) (fun _ => ?_)
    | with_reducible refine keeps_if_after (fun _ => ?_) (fun _ => ?_)
    | dsimp only
    | split
    | with_reducible refine keeps_after_linkOk ?_

theorem execReplayTimeout_keeps {port sub : Nat} {s : State} : Keeps 0x20200000000 s (after (execReplayTimeout port sub s) s) := by
  unfold execReplayTimeout
  repeat' first
    | with_reducible exact Keeps.refl _ _
    | with_reducible refine (resendFrames_keeps (hm := by decide)) ?_
    | with_reducible refine keeps_if (fun _ => ?_) (fun _ => ?_)
    | with_reducible refine keeps_if_after (fun _ => ?_) (fun _ => ?_)
    | dsimp only
    | split
    | with_reducible refine keeps_after_linkOk ?_

theorem execPfcFrame_keeps {port sub prio quanta : Nat} {s : State} : Keeps 0x200000000 s (after (execPfcFrame port sub prio quanta s) s) := by
  unfold execPfcFrame
  repeat' first
    | with_reducible exact Keeps.refl _ _
    | with_reducible refine (modSub_keeps (hm := by decide)) ?_
    | with_reducible refine keeps_if (fun _ => ?_) (fun _ => ?_)
    | with_reducible refine keeps_if_after (fun _ => ?_) (fun _ => ?_)
    | dsimp only
    | split
    | with_reducible refine keeps_after_linkOk ?_

theorem execPfcPauseExpiry_keeps {port sub prio : Nat} {s : State} : Keeps 0x200000000 s (after (execPfcPauseExpiry port sub prio s) s) := by
  unfold execPfcPauseExpiry
  repeat' first
    | with_reducible exact Keeps.refl _ _
    | with_reducible refine (modSub_keeps (hm := by decide)) ?_
    | dsimp only
    | with_reducible refine keeps_after_linkOk ?_

theorem execPfcXoffRefresh_keeps {port sub : Nat} {s : State} : Keeps 0x80000000000 s (after (execPfcXoffRefresh port sub s) s) := by
  unfold execPfcXoffRefresh
  repeat' first
    | with_reducible exact Keeps.refl _ _
    | with_reducible refine (sendPfc_keeps (hm := by decide)) ?_
    | with_reducible refine (keeps_foldl_snd (fun _ _ => ?_)) ?_
    | with_reducible refine (keeps_foldl_fst (fun _ _ => ?_)) ?_
    | with_reducible refine (keeps_foldl_third (fun _ _ => ?_)) ?_
    | with_reducible refine (keeps_foldl_mid (fun _ _ => ?_)) ?_
    | with_reducible refine (keeps_foldl (fun _ _ => ?_)) ?_
    | with_reducible refine keeps_if (fun _ => ?_) (fun _ => ?_)
    | with_reducible refine keeps_if_after (fun _ => ?_) (fun _ => ?_)
    | dsimp only
    | split
    | with_reducible refine keeps_after_linkOk ?_
    | (simp only [Prod.ext_iff] at *; casesm* _ ∧ _; subst_vars)

theorem execFecDegradeCheck_keeps {port symbols corrected : Nat} {s : State} : Keeps 0x20000000000000000000000000001800000000000000000000000000000000000000200000000 s (after (execFecDegradeCheck port symbols corrected s) s) := by
  unfold execFecDegradeCheck
  repeat' first
    | with_reducible exact Keeps.refl _ _
    | with_reducible refine (drawFree_keeps (hm := by first | decide | (simp only [StReg.mask]; decide))) ?_
    | with_reducible refine (drawFree_of_eq (heq := by assumption) (hm := by first | decide | (simp only [StReg.mask]; decide))) ?_
    | with_reducible refine (modPort_keeps (hm := by first | decide | (simp only [StReg.mask]; decide))) ?_
    | with_reducible refine (setStatus_keeps (hm := by first | decide | (simp only [StReg.mask]; decide))) ?_
    | with_reducible refine keeps_if (fun _ => ?_) (fun _ => ?_)
    | with_reducible refine keeps_if_after (fun _ => ?_) (fun _ => ?_)
    | with_reducible refine keeps_if_snd (fun _ => ?_) (fun _ => ?_)
    | dsimp only
    | split
    | with_reducible refine keeps_after_linkOk ?_
    | (simp only [Prod.ext_iff] at *; casesm* _ ∧ _; subst_vars)

theorem discardIngress_keeps {p : Nat} {s : State} (hm : Sub 0x80100000002480a00000000 km) (hk :
    Keeps km kz s) : Keeps km kz (discardIngress p s) := by
  refine Keeps.lift hm ?_ hk
  unfold discardIngress
  repeat' first
    | with_reducible exact Keeps.refl _ _
    | with_reducible refine (dropInbox_keeps (hm := by decide)) ?_
    | with_reducible refine (modLft_keeps ?_) ?_
    | with_reducible refine (countDiscard_keeps (hm := by decide)) ?_
    | with_reducible refine (letGo_keeps (hm := by decide)) ?_
    | with_reducible refine (keeps_foldl_snd (fun _ _ => ?_)) ?_
    | with_reducible refine (keeps_foldl_fst (fun _ _ => ?_)) ?_
    | with_reducible refine (keeps_foldl_third (fun _ _ => ?_)) ?_
    | with_reducible refine (keeps_foldl_mid (fun _ _ => ?_)) ?_
    | with_reducible refine (keeps_foldl (fun _ _ => ?_)) ?_
    | with_reducible refine keeps_elim ?_ (fun _ => ?_)
    | dsimp only
    | (constructor <;> first | exact .inl (by decide) | exact .inr rfl)
    | (simp only [Prod.ext_iff] at *; casesm* _ ∧ _; subst_vars)

theorem resetPort_keeps {p job : Nat} {s : State} (hm : Sub 0x80100000002591e00000000 km) (hk :
    Keeps km kz s) : Keeps km kz (resetPort p job s) := by
  refine Keeps.lift hm ?_ hk
  unfold resetPort
  repeat' first
    | with_reducible exact Keeps.refl _ _
    | with_reducible refine (modPort_keeps (hm := by decide)) ?_
    | with_reducible refine (modLft_keeps ?_) ?_
    | with_reducible refine (countDiscard_keeps (hm := by decide)) ?_
    | with_reducible refine (letGo_keeps (hm := by decide)) ?_
    | with_reducible refine (discardQueued_keeps (hm := by decide)) ?_
    | with_reducible refine (discardIngress_keeps (hm := by decide)) ?_
    | with_reducible refine (modSub_keeps (hm := by decide)) ?_
    | with_reducible refine (forgetSource_keeps (hm := by decide)) ?_
    | with_reducible refine (keeps_foldl_snd (fun _ _ => ?_)) ?_
    | with_reducible refine (keeps_foldl_fst (fun _ _ => ?_)) ?_
    | with_reducible refine (keeps_foldl_third (fun _ _ => ?_)) ?_
    | with_reducible refine (keeps_foldl_mid (fun _ _ => ?_)) ?_
    | with_reducible refine (keeps_foldl (fun _ _ => ?_)) ?_
    | with_reducible refine keeps_elim ?_ (fun _ => ?_)
    | with_reducible refine keeps_if (fun _ => ?_) (fun _ => ?_)
    | dsimp only
    | split
    | (constructor <;> first | exact .inl (by decide) | exact .inr rfl)
    | (simp only [Prod.ext_iff] at *; casesm* _ ∧ _; subst_vars)

theorem portResetOwn_keeps {r : CtlReq} {s : State} (hm : Sub 0x8000000000000000000000000c0120000002d91e0e400000 km) (hk :
    Keeps km kz s) : Keeps km kz (portResetOwn r s) := by
  refine Keeps.lift hm ?_ hk
  unfold portResetOwn
  repeat' first
    | with_reducible exact Keeps.refl _ _
    | with_reducible refine (newJob_keeps (hm := by decide)) ?_
    | with_reducible refine (newJob_of_eq (heq := by assumption) (hm := by decide)) ?_
    | with_reducible refine (resetPort_keeps (hm := by decide)) ?_
    | with_reducible refine (jobAnswer_keeps (hm := by decide)) ?_
    | with_reducible refine keeps_if (fun _ => ?_) (fun _ => ?_)
    | with_reducible refine keeps_if_snd (fun _ => ?_) (fun _ => ?_)
    | dsimp only
    | split
    | (simp only [Prod.ext_iff] at *; casesm* _ ∧ _; subst_vars)

theorem execPortReset_keeps {r : CtlReq} {s : State} : Keeps 0x8000000000000000000000000c0120000002d91f2e400000 s (after (execPortReset r s) s) := by
  unfold execPortReset
  repeat' first
    | with_reducible exact Keeps.refl _ _
    | with_reducible refine (runCtl_keeps (hm := by decide) (h_own := fun _ => ?_)) ?_
    | with_reducible refine (portResetOwn_keeps (hm := by decide)) ?_
    | with_reducible refine keeps_after_linkOk ?_

theorem execPortResetComplete_keeps {port : Nat} {s : State} : Keeps 0x8000000000000000001800000000000000000000000000100000002591e04000000 s (after (execPortResetComplete port s) s) := by
  unfold execPortResetComplete
  repeat' first
    | with_reducible exact Keeps.refl _ _
    | with_reducible refine (modPort_keeps (hm := by decide)) ?_
    | with_reducible refine (linkDown_keeps (hm := by decide)) ?_
    | with_reducible refine (jobDone_keeps (hm := by decide)) ?_
    | with_reducible refine (keeps_foldl_snd (fun _ _ => ?_)) ?_
    | with_reducible refine (keeps_foldl_fst (fun _ _ => ?_)) ?_
    | with_reducible refine (keeps_foldl_third (fun _ _ => ?_)) ?_
    | with_reducible refine (keeps_foldl_mid (fun _ _ => ?_)) ?_
    | with_reducible refine (keeps_foldl (fun _ _ => ?_)) ?_
    | with_reducible refine keeps_if (fun _ => ?_) (fun _ => ?_)
    | with_reducible refine keeps_if_after (fun _ => ?_) (fun _ => ?_)
    | dsimp only
    | split
    | with_reducible refine keeps_after_linkOk ?_
    | (simp only [Prod.ext_iff] at *; casesm* _ ∧ _; subst_vars)

end Machine
end Sys2Proof
end

