-- ==== Sys2Proof/Laws/FramePaths.lean ====
section
/-! SUPPORT. Frames of the functions of Machine/Paths.lean: the parts of the state that each may change, as a mask (Laws/Keeps.lean). -/

namespace Sys2Proof
namespace Machine
set_option linter.unusedTactic false
set_option linter.unreachableTactic false
set_option linter.tactic.unusedName false
variable {km : Nat} {kz : State}

theorem modReseq_keeps {s : State} {sw tc : Nat} {g : Reseq → Reseq} (hm : Sub 0x800000000 km) (hk :
    Keeps km kz s) : Keeps km kz (modReseq s sw tc g) := by
  refine Keeps.lift hm ?_ hk
  unfold modReseq
  repeat' first
    | with_reducible exact Keeps.refl _ _
    | with_reducible refine (modLft_keeps ?_) ?_
    | dsimp only
    | (constructor <;> first | exact .inl (by decide) | exact .inr rfl)

theorem sendReseqAck_keeps {sw tc : Nat} {s : State} (hm : Sub 0x800000000000000000000000040020000002d81e00000000 km) (hk :
    Keeps km kz s) : Keeps km kz (sendReseqAck sw tc s) := by
  refine Keeps.lift hm ?_ hk
  unfold sendReseqAck
  repeat' first
    | with_reducible exact Keeps.refl _ _
    | with_reducible refine (modReseq_keeps (hm := by decide)) ?_
    | with_reducible refine (sendRaw_keeps (hm := by decide)) ?_
    | dsimp only

theorem releaseAt_keeps {sw tc pos : Nat} {s : State} (hm : Sub 0x40000000002580a00000000 km) (hk :
    Keeps km kz s) : Keeps km kz (releaseAt sw tc pos s) := by
  refine Keeps.lift hm ?_ hk
  unfold releaseAt
  repeat' first
    | with_reducible exact Keeps.refl _ _
    | with_reducible refine (putOnWay_keeps (hm := by decide)) ?_
    | with_reducible refine (modReseq_keeps (hm := by decide)) ?_
    | with_reducible refine keeps_if (fun _ => ?_) (fun _ => ?_)
    | dsimp only
    | split

theorem releaseRun_keeps {n sw tc : Nat} {s : State} (hm : Sub 0x800000000000000000000000040020000002d81e00000000 km) (hk :
    Keeps km kz s) : Keeps km kz (releaseRun n sw tc s) := by
  refine Keeps.lift hm ?_ hk
  clear hk
  induction n generalizing s with
  | zero => exact Keeps.refl _ _
  | succ k ih =>
    unfold releaseRun
    extract_lets r s1
    have k1 : Keeps 0x800000000000000000000000040020000002d81e00000000 s s1 := (modReseq_keeps (by decide)) ((releaseAt_keeps (by decide)) (Keeps.refl _ _))
    clear_value s1
    refine keeps_if (fun _ => Keeps.refl _ _) (fun _ => Keeps.trans ?_ ih)
    exact keeps_if (fun _ => (sendReseqAck_keeps (by decide)) k1) (fun _ => k1)

theorem resequence_keeps {x : Desc} {s : State} (hm : Sub 0x800000000000000000000000040020000002d81e00000000 km) (hk :
    Keeps km kz s) : Keeps km kz (resequence x s) := by
  refine Keeps.lift hm ?_ hk
  unfold resequence
  repeat' first
    | with_reducible exact Keeps.refl _ _
    | with_reducible refine (releaseRun_keeps (hm := by decide)) ?_
    | with_reducible refine (modReseq_keeps (hm := by decide)) ?_
    | dsimp only

theorem steer_keeps {d : Die} {x : Desc} {s : State} (hm : Sub 0x40000000002590200000000 km) (hk :
    Keeps km kz s) : Keeps km kz (steer d x s) := by
  refine Keeps.lift hm ?_ hk
  unfold steer
  repeat' first
    | with_reducible exact Keeps.refl _ _
    | with_reducible refine (modLft_keeps ?_) ?_
    | with_reducible refine (pushOut_keeps (hm := by decide)) ?_
    | with_reducible refine keeps_if (fun _ => ?_) (fun _ => ?_)
    | dsimp only
    | split
    | (constructor <;> first | exact .inl (by decide) | exact .inr rfl)

theorem execSprayedFrameResequence_keeps {d : Die} {f : Frame} {s : State} : Keeps 0x800000000000000000000000040020000002d91e00000000 s (after (execSprayedFrameResequence d f s) s) := by
  unfold execSprayedFrameResequence
  repeat' first
    | with_reducible exact Keeps.refl _ _
    | with_reducible refine (resequence_keeps (hm := by decide)) ?_
    | with_reducible refine (modLft_keeps ?_) ?_
    | with_reducible refine keeps_if (fun _ => ?_) (fun _ => ?_)
    | with_reducible refine keeps_if_after (fun _ => ?_) (fun _ => ?_)
    | dsimp only
    | split
    | with_reducible refine keeps_after_linkOk ?_
    | (constructor <;> first | exact .inl (by decide) | exact .inr rfl)
    | (simp only [Prod.ext_iff] at *; casesm* _ ∧ _; subst_vars)

theorem execReseqAckTimer_keeps {sw tc : Nat} {s : State} : Keeps 0x800000000000000000000000040020000002d81e00000000 s (after (execReseqAckTimer sw tc s) s) := by
  unfold execReseqAckTimer
  repeat' first
    | with_reducible exact Keeps.refl _ _
    | with_reducible refine (sendReseqAck_keeps (hm := by decide)) ?_
    | with_reducible refine keeps_if (fun _ => ?_) (fun _ => ?_)
    | with_reducible refine keeps_if_after (fun _ => ?_) (fun _ => ?_)
    | split
    | with_reducible refine keeps_after_linkOk ?_

theorem releaseWindow_keeps {sw tc : Nat} {s : State} (hm : Sub 0x40000000002581600000000 km) (hk :
    Keeps km kz s) : Keeps km kz (releaseWindow sw tc s) := by
  refine Keeps.lift hm ?_ hk
  unfold releaseWindow
  repeat' first
    | with_reducible exact Keeps.refl _ _
    | with_reducible refine (enter_keeps (hm := by decide)) ?_
    | with_reducible refine (modLft_keeps ?_) ?_
    | with_reducible refine (keeps_foldl_snd (fun _ _ => ?_)) ?_
    | with_reducible refine (keeps_foldl_fst (fun _ _ => ?_)) ?_
    | with_reducible refine (keeps_foldl_third (fun _ _ => ?_)) ?_
    | with_reducible refine (keeps_foldl_mid (fun _ _ => ?_)) ?_
    | with_reducible refine (keeps_foldl (fun _ _ => ?_)) ?_
    | dsimp only
    | (constructor <;> first | exact .inl (by decide) | exact .inr rfl)
    | (simp only [Prod.ext_iff] at *; casesm* _ ∧ _; subst_vars)

theorem execReseqAck_keeps {d : Die} {f : Frame} {s : State} : Keeps 0x40010000002581600000000 s (after (execReseqAck d f s) s) := by
  unfold execReseqAck
  repeat' first
    | with_reducible exact Keeps.refl _ _
    | with_reducible refine (takeAgent_keeps (hm := by decide)) ?_
    | with_reducible refine (modLft_keeps ?_) ?_
    | with_reducible refine (releaseWindow_keeps (hm := by decide)) ?_
    | with_reducible refine keeps_if (fun _ => ?_) (fun _ => ?_)
    | with_reducible refine keeps_if_after (fun _ => ?_) (fun _ => ?_)
    | dsimp only
    | split
    | with_reducible refine keeps_after_linkOk ?_
    | (constructor <;> first | exact .inl (by decide) | exact .inr rfl)

theorem sendBarrier_keeps {sw id n tc path : Nat} {s : State} (hm : Sub 0x40000000002d80200000000 km) (hk :
    Keeps km kz s) : Keeps km kz (sendBarrier sw id n tc path s) := by
  refine Keeps.lift hm ?_ hk
  unfold sendBarrier
  repeat' first
    | with_reducible exact Keeps.refl _ _
    | with_reducible refine (allocCells_keeps (hm := by decide)) ?_
    | with_reducible refine (allocCells_of_eq (heq := by assumption) (hm := by decide)) ?_
    | with_reducible refine (pushOut_keeps (hm := by decide)) ?_
    | with_reducible refine keeps_if (fun _ => ?_) (fun _ => ?_)
    | with_reducible refine keeps_if_snd (fun _ => ?_) (fun _ => ?_)
    | dsimp only
    | split
    | (simp only [Prod.ext_iff] at *; casesm* _ ∧ _; subst_vars)
    | (simp only [id, Keeps.refl]; done)

theorem startBarrier_keeps {sw : Nat} {s : State} (hm : Sub 0x40000000002d85200000000 km) (hk :
    Keeps km kz s) : Keeps km kz (startBarrier sw s) := by
  refine Keeps.lift hm ?_ hk
  unfold startBarrier
  repeat' first
    | with_reducible exact Keeps.refl _ _
    | with_reducible refine (modLft_keeps ?_) ?_
    | with_reducible refine (sendBarrier_keeps (hm := by decide)) ?_
    | with_reducible refine (keeps_foldl_snd (fun _ _ => ?_)) ?_
    | with_reducible refine (keeps_foldl_fst (fun _ _ => ?_)) ?_
    | with_reducible refine (keeps_foldl_third (fun _ _ => ?_)) ?_
    | with_reducible refine (keeps_foldl_mid (fun _ _ => ?_)) ?_
    | with_reducible refine (keeps_foldl (fun _ _ => ?_)) ?_
    | with_reducible refine keeps_elim ?_ (fun _ => ?_)
    | with_reducible refine keeps_if (fun _ => ?_) (fun _ => ?_)
    | dsimp only
    | split
    | (constructor <;> first | exact .inl (by decide) | exact .inr rfl)
    | (simp only [Prod.ext_iff] at *; casesm* _ ∧ _; subst_vars)
    | (simp only [id, Keeps.refl]; done)

theorem execPathBarrierStart_keeps {sw : Nat} {s : State} : Keeps 0x40000000002d85200000000 s (after (execPathBarrierStart sw s) s) := by
  unfold execPathBarrierStart
  repeat' first
    | with_reducible exact Keeps.refl _ _
    | with_reducible refine (startBarrier_keeps (hm := by decide)) ?_
    | with_reducible refine keeps_if (fun _ => ?_) (fun _ => ?_)
    | with_reducible refine keeps_if_after (fun _ => ?_) (fun _ => ?_)
    | dsimp only
    | split
    | with_reducible refine keeps_after_linkOk ?_

theorem releaseHeld_keeps {sw tc : Nat} {s : State} (hm : Sub 0x40000000002580a00000000 km) (hk :
    Keeps km kz s) : Keeps km kz (releaseHeld sw tc s) := by
  refine Keeps.lift hm ?_ hk
  unfold releaseHeld
  repeat' first
    | with_reducible exact Keeps.refl _ _
    | with_reducible refine (releaseAt_keeps (hm := by decide)) ?_
    | with_reducible refine (keeps_foldl_snd (fun _ _ => ?_)) ?_
    | with_reducible refine (keeps_foldl_fst (fun _ _ => ?_)) ?_
    | with_reducible refine (keeps_foldl_third (fun _ _ => ?_)) ?_
    | with_reducible refine (keeps_foldl_mid (fun _ _ => ?_)) ?_
    | with_reducible refine (keeps_foldl (fun _ _ => ?_)) ?_
    | dsimp only
    | (simp only [Prod.ext_iff] at *; casesm* _ ∧ _; subst_vars)

theorem passBarrier_keeps {sw tc value : Nat} {s : State} (hm : Sub 0x800000000000000000000000040020000002d81e00000000 km) (hk :
    Keeps km kz s) : Keeps km kz (passBarrier sw tc value s) := by
  refine Keeps.lift hm ?_ hk
  unfold passBarrier
  repeat' first
    | with_reducible exact Keeps.refl _ _
    | with_reducible refine (modReseq_keeps (hm := by decide)) ?_
    | with_reducible refine (releaseHeld_keeps (hm := by decide)) ?_
    | with_reducible refine (sendReseqAck_keeps (hm := by decide)) ?_
    | with_reducible refine keeps_if (fun _ => ?_) (fun _ => ?_)
    | dsimp only
    | split

theorem execPathBarrier_keeps {d : Die} {f : Frame} {s : State} : Keeps 0x800000000000000000000000040030000002d93e00000000 s (after (execPathBarrier d f s) s) := by
  unfold execPathBarrier
  repeat' first
    | with_reducible exact Keeps.refl _ _
    | with_reducible refine (takeAgent_keeps (hm := by decide)) ?_
    | with_reducible refine (resequence_keeps (hm := by decide)) ?_
    | with_reducible refine (modLft_keeps ?_) ?_
    | with_reducible refine (passBarrier_keeps (hm := by decide)) ?_
    | with_reducible refine (sendRaw_keeps (hm := by decide)) ?_
    | with_reducible refine (keeps_foldl_snd (fun _ _ => ?_)) ?_
    | with_reducible refine (keeps_foldl_fst (fun _ _ => ?_)) ?_
    | with_reducible refine (keeps_foldl_third (fun _ _ => ?_)) ?_
    | with_reducible refine (keeps_foldl_mid (fun _ _ => ?_)) ?_
    | with_reducible refine (keeps_foldl (fun _ _ => ?_)) ?_
    | with_reducible refine keeps_if (fun _ => ?_) (fun _ => ?_)
    | with_reducible refine keeps_if_after (fun _ => ?_) (fun _ => ?_)
    | dsimp only
    | split
    | with_reducible refine keeps_after_linkOk ?_
    | (constructor <;> first | exact .inl (by decide) | exact .inr rfl)
    | (simp only [Prod.ext_iff] at *; casesm* _ ∧ _; subst_vars)
    | (simp only [id, Keeps.refl]; done)

theorem execPathBarrierAck_keeps {d : Die} {f : Frame} {s : State} : Keeps 0x40010000002589600000000 s (after (execPathBarrierAck d f s) s) := by
  unfold execPathBarrierAck
  repeat' first
    | with_reducible exact Keeps.refl _ _
    | with_reducible refine (takeAgent_keeps (hm := by decide)) ?_
    | with_reducible refine (modLft_keeps ?_) ?_
    | with_reducible refine (enter_keeps (hm := by decide)) ?_
    | with_reducible refine (releaseWindow_keeps (hm := by decide)) ?_
    | with_reducible refine (keeps_foldl_snd (fun _ _ => ?_)) ?_
    | with_reducible refine (keeps_foldl_fst (fun _ _ => ?_)) ?_
    | with_reducible refine (keeps_foldl_third (fun _ _ => ?_)) ?_
    | with_reducible refine (keeps_foldl_mid (fun _ _ => ?_)) ?_
    | with_reducible refine (keeps_foldl (fun _ _ => ?_)) ?_
    | with_reducible refine keeps_if (fun _ => ?_) (fun _ => ?_)
    | with_reducible refine keeps_if_after (fun _ => ?_) (fun _ => ?_)
    | dsimp only
    | split
    | with_reducible refine keeps_after_linkOk ?_
    | (constructor <;> first | exact .inl (by decide) | exact .inr rfl)
    | (simp only [Prod.ext_iff] at *; casesm* _ ∧ _; subst_vars)
    | (simp only [id, Keeps.refl]; done)

theorem execPathBarrierTimeout_keeps {sw : Nat} {s : State} : Keeps 0x4000000000000000000800000000000000000000000040020000002d81600000000 s (after (execPathBarrierTimeout sw s) s) := by
  unfold execPathBarrierTimeout
  repeat' first
    | with_reducible exact Keeps.refl _ _
    | with_reducible refine (modFlt_keeps ?_) ?_
    | with_reducible refine (modLft_keeps ?_) ?_
    | with_reducible refine (refuse_keeps (hm := by decide)) ?_
    | with_reducible refine (letGo_keeps (hm := by decide)) ?_
    | with_reducible refine (keeps_foldl_snd (fun _ _ => ?_)) ?_
    | with_reducible refine (keeps_foldl_fst (fun _ _ => ?_)) ?_
    | with_reducible refine (keeps_foldl_third (fun _ _ => ?_)) ?_
    | with_reducible refine (keeps_foldl_mid (fun _ _ => ?_)) ?_
    | with_reducible refine (keeps_foldl (fun _ _ => ?_)) ?_
    | with_reducible refine keeps_if (fun _ => ?_) (fun _ => ?_)
    | with_reducible refine keeps_if_after (fun _ => ?_) (fun _ => ?_)
    | dsimp only
    | split
    | with_reducible refine keeps_after_linkOk ?_
    | (constructor <;> first | exact .inl (by decide) | exact .inr rfl)
    | (simp only [Prod.ext_iff] at *; casesm* _ ∧ _; subst_vars)

end Machine
end Sys2Proof
end

