-- ==== Sys2Proof/Laws/FrameBitstream.lean ====
section
/-! SUPPORT. Frames of the functions of Machine/Bitstream.lean: the parts of the state that each may change, as a mask (Laws/Keeps.lean). -/

namespace Sys2Proof
namespace Machine
set_option linter.unusedTactic false
set_option linter.unreachableTactic false
set_option linter.tactic.unusedName false
variable {km : Nat} {kz : State}

theorem modSlot_keeps {s : State} {x : Slot} {g : SlotState → SlotState} (hm : Sub 0x1c km) (hk :
    Keeps km kz s) : Keeps km kz (modSlot s x g) := by
  refine Keeps.lift hm ?_ hk
  unfold modSlot
  repeat' first
    | with_reducible exact Keeps.refl _ _
    | with_reducible refine (modCfg_keeps ?_) ?_
    | with_reducible refine keeps_if (fun _ => ?_) (fun _ => ?_)
    | dsimp only
    | split
    | (constructor <;> first | exact .inl (by decide) | exact .inr rfl)
    | (simp only [Prod.ext_iff] at *; casesm* _ ∧ _; subst_vars)

theorem raiseArb_keeps {v : Nat} {s : State} (hm : Sub 0x801800000000000000000000000000000000000000000200000 km) (hk :
    Keeps km kz s) : Keeps km kz (raiseArb v s) := by
  refine Keeps.lift hm ?_ hk
  clear hk
  unfold raiseArb
  refine keeps_if (fun h => ?_) (fun _ => Keeps.refl _ _)
  refine setStatus_keeps (by simp only [StReg.mask]; decide) (modSec_keeps ?_ ⟨le_of_lt h, le_rfl, le_rfl, le_rfl, le_rfl⟩ (Keeps.refl _ _))
  constructor <;> first | exact .inl (by decide) | exact .inr rfl

end Machine
end Sys2Proof
end

