-- ==== Sys2Proof/Laws/FrameCoherence.lean ====
section
/-! SUPPORT. Frames of the functions of Machine/Coherence.lean: the parts of the state that each may change, as a mask (Laws/Keeps.lean). -/

namespace Sys2Proof
namespace Machine
set_option linter.unusedTactic false
set_option linter.unreachableTactic false
set_option linter.tactic.unusedName false
variable {km : Nat} {kz : State}

theorem keeps_after_homeOk {s d : State} (hk : Keeps km kz s) : Keeps km kz (after (homeOk s) d) := hk

theorem execAmo_keeps {d : Die} {f : Frame} {s : State} : Keeps 0x18000000000800000d80000000001b80000040000008190d400678e5f60000002d81620000000 s (after (execAmo d f s) s) := by
  unfold execAmo
  repeat' first
    | with_reducible exact Keeps.refl _ _
    | with_reducible refine (acceptMem_keeps (hm := by decide)) ?_
    | with_reducible refine keeps_if (fun _ => ?_) (fun _ => ?_)
    | with_reducible refine keeps_if_after (fun _ => ?_) (fun _ => ?_)
    | split
    | with_reducible refine keeps_after_homeOk ?_

theorem execAmoNr_keeps {d : Die} {f : Frame} {s : State} : Keeps 0x18000000000800000d80000000001b80000040000008190d400678e5f60000002d81620000000 s (after (execAmoNr d f s) s) := by
  unfold execAmoNr
  repeat' first
    | with_reducible exact Keeps.refl _ _
    | with_reducible refine (acceptMem_keeps (hm := by decide)) ?_
    | with_reducible refine keeps_if (fun _ => ?_) (fun _ => ?_)
    | with_reducible refine keeps_if_after (fun _ => ?_) (fun _ => ?_)
    | split
    | with_reducible refine keeps_after_homeOk ?_

theorem execCas_keeps {d : Die} {f : Frame} {s : State} : Keeps 0x18000000000800000d80000000001b80000040000008190d400678e5f60000002d81620000000 s (after (execCas d f s) s) := by
  unfold execCas
  repeat' first
    | with_reducible exact Keeps.refl _ _
    | with_reducible refine (acceptMem_keeps (hm := by decide)) ?_
    | with_reducible refine keeps_if (fun _ => ?_) (fun _ => ?_)
    | with_reducible refine keeps_if_after (fun _ => ?_) (fun _ => ?_)
    | split
    | with_reducible refine keeps_after_homeOk ?_

theorem takeAmoAck_keeps {d : Die} {f : Frame} {s : State} (hm : Sub 0x601000000000000000000000 km) (hk :
    Keeps km kz s) : Keeps km kz (takeAmoAck d f s) := by
  refine Keeps.lift hm ?_ hk
  unfold takeAmoAck
  repeat' first
    | with_reducible exact Keeps.refl _ _
    | with_reducible refine (modHome_keeps ?_) ?_
    | with_reducible refine keeps_elim ?_ (fun _ => ?_)
    | with_reducible refine keeps_if (fun _ => ?_) (fun _ => ?_)
    | dsimp only
    | split
    | (constructor <;> first | exact .inl (by decide) | exact .inr rfl)
    | (simp only [Prod.ext_iff] at *; casesm* _ ∧ _; subst_vars)

theorem execAmoAck_keeps {d : Die} {f : Frame} {s : State} : Keeps 0x6c1100000002580200000000 s (after (execAmoAck d f s) s) := by
  unfold execAmoAck
  repeat' first
    | with_reducible exact Keeps.refl _ _
    | with_reducible refine (atHome_keeps (hm := by decide) (h_go := fun _ => ?_)) ?_
    | with_reducible refine (takeAmoAck_keeps (hm := by decide)) ?_
    | with_reducible refine keeps_after_homeOk ?_

theorem takeCombined_keeps {d : Die} {f : Frame} {more : List Frame} {aged : Nat} {s : State} (hm : Sub 0x18000000000800000d80000000001b80000040000008190d40067865e60000002d81600000000 km) (hk :
    Keeps km kz s) : Keeps km kz (takeCombined d f more aged s) := by
  refine Keeps.lift hm ?_ hk
  unfold takeCombined
  repeat' first
    | with_reducible exact Keeps.refl _ _
    | with_reducible refine (refuse_keeps (hm := by decide)) ?_
    | with_reducible refine (tapBytes_keeps (hm := by decide)) ?_
    | with_reducible refine (noTracker_keeps (hm := by decide)) ?_
    | with_reducible refine (enterHome_keeps (hm := by decide)) ?_
    | with_reducible refine (keeps_foldl_snd (fun _ _ => ?_)) ?_
    | with_reducible refine (keeps_foldl_fst (fun _ _ => ?_)) ?_
    | with_reducible refine (keeps_foldl_third (fun _ _ => ?_)) ?_
    | with_reducible refine (keeps_foldl_mid (fun _ _ => ?_)) ?_
    | with_reducible refine (keeps_foldl (fun _ _ => ?_)) ?_
    | with_reducible refine keeps_if (fun _ => ?_) (fun _ => ?_)
    | dsimp only
    | split
    | (simp only [Prod.ext_iff] at *; casesm* _ ∧ _; subst_vars)

theorem execCombinedRequest_keeps {d : Die} {fs : List Frame} {s : State} : Keeps 0x18000000000800000d80000000001b80000040000008190d400678e5f60000002d81600000000 s (after (execCombinedRequest d fs s) s) := by
  unfold execCombinedRequest
  repeat' first
    | with_reducible exact Keeps.refl _ _
    | with_reducible refine (atHome_keeps (hm := by decide) (h_go := fun _ => ?_)) ?_
    | with_reducible refine (takeCombined_keeps (hm := by decide)) ?_
    | with_reducible refine keeps_if (fun _ => ?_) (fun _ => ?_)
    | with_reducible refine keeps_if_after (fun _ => ?_) (fun _ => ?_)
    | split
    | with_reducible refine keeps_after_homeOk ?_

theorem execRequestAged_keeps {d : Die} {k : ReqKey} {s : State} : Keeps 0x18000000000800000d80000000001b80000040000008190d400679e5260000002d81600000000 s (after (execRequestAged d k s) s) := by
  unfold execRequestAged
  repeat' first
    | with_reducible exact Keeps.refl _ _
    | with_reducible refine (settleBehind_keeps (hm := by first | decide | (simp only [StReg.mask]; decide))) ?_
    | with_reducible refine (setStatus_keeps (hm := by first | decide | (simp only [StReg.mask]; decide))) ?_
    | with_reducible refine (modHome_keeps ?_) ?_
    | with_reducible refine keeps_if (fun _ => ?_) (fun _ => ?_)
    | with_reducible refine keeps_if_after (fun _ => ?_) (fun _ => ?_)
    | dsimp only
    | split
    | with_reducible refine keeps_after_homeOk ?_
    | (constructor <;> first | exact .inl (by decide) | exact .inr rfl)
    | (simp only [Prod.ext_iff] at *; casesm* _ ∧ _; subst_vars)

theorem execHotlineExit_keeps {d : Die} {line : Nat} {s : State} : Keeps 0x4000000000000000000000 s (after (execHotlineExit d line s) s) := by
  unfold execHotlineExit
  repeat' first
    | with_reducible exact Keeps.refl _ _
    | with_reducible refine (modHome_keeps ?_) ?_
    | dsimp only
    | with_reducible refine keeps_after_homeOk ?_
    | (constructor <;> first | exact .inl (by decide) | exact .inr rfl)

theorem takeCoh_keeps {d : Die} {f : Frame} {aged : Nat} {s : State} (hm : Sub 0x18000000000800000d80000000001b80000040000008190d40067865e60000002d81600000000 km) (hk :
    Keeps km kz s) : Keeps km kz (takeCoh d f aged s) := by
  refine Keeps.lift hm ?_ hk
  unfold takeCoh
  repeat' first
    | with_reducible exact Keeps.refl _ _
    | with_reducible refine (refuse_keeps (hm := by decide)) ?_
    | with_reducible refine (noTracker_keeps (hm := by decide)) ?_
    | with_reducible refine (readPoison_keeps (hm := by decide)) ?_
    | with_reducible refine (resumeLines_keeps (hm := by decide)) ?_
    | with_reducible refine (enterHome_keeps (hm := by decide)) ?_
    | with_reducible refine (tapBytes_keeps (hm := by decide)) ?_
    | with_reducible refine keeps_if (fun _ => ?_) (fun _ => ?_)
    | split

theorem acceptCoh_keeps {d : Die} {f : Frame} {s : State} (hm : Sub 0x18000000000800000d80000000001b80000040000008190d400678e5f60000002d81620000000 km) (hk :
    Keeps km kz s) : Keeps km kz (acceptCoh d f s) := by
  refine Keeps.lift hm ?_ hk
  unfold acceptCoh
  repeat' first
    | with_reducible exact Keeps.refl _ _
    | with_reducible refine (windowMisuse_keeps (hm := by decide)) ?_
    | with_reducible refine (atHome_keeps (hm := by decide) (h_go := fun _ => ?_)) ?_
    | with_reducible refine (takeCoh_keeps (hm := by decide)) ?_
    | with_reducible refine keeps_if (fun _ => ?_) (fun _ => ?_)
    | split

theorem execCrdS_keeps {d : Die} {f : Frame} {s : State} : Keeps 0x18000000000800000d80000000001b80000040000008190d400678e5f60000002d81620000000 s (after (execCrdS d f s) s) := by
  unfold execCrdS
  repeat' first
    | with_reducible exact Keeps.refl _ _
    | with_reducible refine (acceptCoh_keeps (hm := by decide)) ?_
    | with_reducible refine keeps_if (fun _ => ?_) (fun _ => ?_)
    | with_reducible refine keeps_if_after (fun _ => ?_) (fun _ => ?_)
    | split
    | with_reducible refine keeps_after_homeOk ?_

theorem execCrdM_keeps {d : Die} {f : Frame} {s : State} : Keeps 0x18000000000800000d80000000001b80000040000008190d400678e5f60000002d81620000000 s (after (execCrdM d f s) s) := by
  unfold execCrdM
  repeat' first
    | with_reducible exact Keeps.refl _ _
    | with_reducible refine (acceptCoh_keeps (hm := by decide)) ?_
    | with_reducible refine keeps_if (fun _ => ?_) (fun _ => ?_)
    | with_reducible refine keeps_if_after (fun _ => ?_) (fun _ => ?_)
    | split
    | with_reducible refine keeps_after_homeOk ?_

theorem execCupg_keeps {d : Die} {f : Frame} {s : State} : Keeps 0x18000000000800000d80000000001b80000040000008190d400678e5f60000002d81620000000 s (after (execCupg d f s) s) := by
  unfold execCupg
  repeat' first
    | with_reducible exact Keeps.refl _ _
    | with_reducible refine (acceptCoh_keeps (hm := by decide)) ?_
    | with_reducible refine keeps_if (fun _ => ?_) (fun _ => ?_)
    | with_reducible refine keeps_if_after (fun _ => ?_) (fun _ => ?_)
    | split
    | with_reducible refine keeps_after_homeOk ?_

theorem execCwb_keeps {d : Die} {f : Frame} {s : State} : Keeps 0x18000000000800000d80000000001b80000040000008190d400678e5f60000002d81620000000 s (after (execCwb d f s) s) := by
  unfold execCwb
  repeat' first
    | with_reducible exact Keeps.refl _ _
    | with_reducible refine (acceptCoh_keeps (hm := by decide)) ?_
    | with_reducible refine keeps_if (fun _ => ?_) (fun _ => ?_)
    | with_reducible refine keeps_if_after (fun _ => ?_) (fun _ => ?_)
    | split
    | with_reducible refine keeps_after_homeOk ?_

theorem execCevict_keeps {d : Die} {f : Frame} {s : State} : Keeps 0x18000000000800000d80000000001b80000040000008190d400678e5f60000002d81620000000 s (after (execCevict d f s) s) := by
  unfold execCevict
  repeat' first
    | with_reducible exact Keeps.refl _ _
    | with_reducible refine (acceptCoh_keeps (hm := by decide)) ?_
    | with_reducible refine keeps_if (fun _ => ?_) (fun _ => ?_)
    | with_reducible refine keeps_if_after (fun _ => ?_) (fun _ => ?_)
    | split
    | with_reducible refine keeps_after_homeOk ?_

theorem unexpected_keeps {d : Die} {s : State} (hm : Sub 0x1800000000000000000000020000000000000000000000000 km) (hk :
    Keeps km kz s) : Keeps km kz (unexpected d s) := by
  refine Keeps.lift hm ?_ hk
  unfold unexpected
  repeat' first
    | with_reducible exact Keeps.refl _ _
    | with_reducible refine (setStatus_keeps (hm := by first | decide | (simp only [StReg.mask]; decide))) ?_

theorem countInv_keeps {d : Die} {line src : Nat} {e : DirEntry} {t : Txn} {s : State} (hm : Sub 0xd80000000000800000000000000000000000840020000002d81600000000 km) (hk :
    Keeps km kz s) : Keeps km kz (countInv d line src e t s) := by
  refine Keeps.lift hm ?_ hk
  unfold countInv
  repeat' first
    | with_reducible exact Keeps.refl _ _
    | with_reducible refine (finishInv_keeps (hm := by decide)) ?_
    | with_reducible refine (setDir_keeps (hm := by decide)) ?_
    | with_reducible refine keeps_if (fun _ => ?_) (fun _ => ?_)
    | dsimp only
    | split

theorem takeLine_keeps {d : Die} {line : Nat} {b : Bytes} {s : State} (hm : Sub 0x8000000000000000000000000000000000000000000000040000000000000000000000000000 km) (hk :
    Keeps km kz s) : Keeps km kz (takeLine d line b s) := by
  refine Keeps.lift hm ?_ hk
  unfold takeLine
  repeat' first
    | with_reducible exact Keeps.refl _ _
    | with_reducible refine (writeLine_keeps (hm := by decide)) ?_
    | with_reducible refine keeps_if (fun _ => ?_) (fun _ => ?_)
    | split

theorem countRecall_keeps {d : Die} {line src : Nat} {e : DirEntry} {t : Txn} {b : Bytes} {kept fenced : Bool} {s : State} (hm : Sub 0x18000000000000000000000000001800000000000000000040020820000000000000000000000 km) (hk :
    Keeps km kz s) : Keeps km kz (countRecall d line src e t b kept fenced s) := by
  refine Keeps.lift hm ?_ hk
  unfold countRecall
  repeat' first
    | with_reducible exact Keeps.refl _ _
    | with_reducible refine (takeLine_keeps (hm := by decide)) ?_
    | with_reducible refine (poisonLine_keeps (hm := by decide)) ?_
    | with_reducible refine (setDir_keeps (hm := by decide)) ?_
    | with_reducible refine (finishRecall_keeps (hm := by decide)) ?_
    | with_reducible refine keeps_if (fun _ => ?_) (fun _ => ?_)
    | dsimp only
    | split

theorem execCinvAck_keeps {d : Die} {f : Frame} {s0 : State} : Keeps 0x18000000000900000d80000000001b80000040000008190d40067865270000002d81600000000 s0 (after (execCinvAck d f s0) s0) := by
  unfold execCinvAck
  repeat' first
    | with_reducible exact Keeps.refl _ _
    | with_reducible refine (takeAgent_keeps (hm := by decide)) ?_
    | with_reducible refine (resumeLines_keeps (hm := by decide)) ?_
    | with_reducible refine (countInv_keeps (hm := by decide)) ?_
    | with_reducible refine (cohAnswered_keeps (hm := by decide)) ?_
    | with_reducible refine (unexpected_keeps (hm := by decide)) ?_
    | with_reducible refine keeps_if (fun _ => ?_) (fun _ => ?_)
    | with_reducible refine keeps_if_after (fun _ => ?_) (fun _ => ?_)
    | dsimp only
    | split
    | with_reducible refine keeps_after_homeOk ?_
    | (simp only [Prod.ext_iff] at *; casesm* _ ∧ _; subst_vars)

theorem keeps_after_withRoom {km : Nat} {d : Die} {line : Nat} {b : Bytes} {s go : State} (hm : Sub 0x800000000000000000c40000040060000002d81600000000 km) (hg : Keeps km s go) :
    Keeps km s (after (withRoom d line b s go) s) := by
  unfold withRoom
  split
  · exact keeps_after_homeOk hg
  · rename_i heq
    split at heq
    · exact keeps_after_homeOk (lineRoom_of_eq heq (sub_trans (by decide) hm) (Keeps.refl _ _))
    · cases heq

theorem forwardAcked_keeps {d : Die} {line src : Nat} {e : DirEntry} {t : Txn} {f : Frame} {s : State} (hm : Sub 0x18000000000000000d80000000001800000000000000000040063860020000002d81600000000 km) (hk :
    Keeps km kz s) : Keeps km kz (forwardAcked d line src e t f s) := by
  refine Keeps.lift hm ?_ hk
  unfold forwardAcked
  repeat' first
    | with_reducible exact Keeps.refl _ _
    | with_reducible refine (takeLine_keeps (hm := by decide)) ?_
    | with_reducible refine (setDir_keeps (hm := by decide)) ?_
    | with_reducible refine (delDir_keeps (hm := by decide)) ?_
    | with_reducible refine (poisonLine_keeps (hm := by decide)) ?_
    | with_reducible refine (enterAb_keeps (hm := by decide)) ?_
    | with_reducible refine keeps_if (fun _ => ?_) (fun _ => ?_)
    | dsimp only
    | split

theorem afterRoom_keeps {d : Die} {line : Nat} {b : Bytes} {s : State} (hm : Sub 0x800000000000000000c40000040060000002d81600000000 km) (hk :
    Keeps km kz s) : Keeps km kz (afterRoom d line b s) := by
  refine Keeps.lift hm ?_ hk
  unfold afterRoom
  repeat' first
    | with_reducible exact Keeps.refl _ _
    | with_reducible refine (lineRoom_keeps (hm := by decide)) ?_
    | with_reducible refine (lineRoom_of_eq (heq := by assumption) (hm := by decide)) ?_
    | with_reducible refine keeps_if (fun _ => ?_) (fun _ => ?_)
    | with_reducible refine keeps_if_snd (fun _ => ?_) (fun _ => ?_)
    | split

theorem execCfwdAck_keeps {d : Die} {f : Frame} {s : State} : Keeps 0x18000000000900000d80000000001b80000040000008190d40067865270000002d81600000000 s (after (execCfwdAck d f s) s) := by
  unfold execCfwdAck
  repeat' first
    | with_reducible exact Keeps.refl _ _
    | with_reducible refine (takeAgent_keeps (hm := by decide)) ?_
    | with_reducible refine (unexpected_keeps (hm := by decide)) ?_
    | with_reducible refine (afterRoom_keeps (hm := by decide)) ?_
    | with_reducible refine (resumeLines_keeps (hm := by decide)) ?_
    | with_reducible refine (forwardAcked_keeps (hm := by decide)) ?_
    | with_reducible refine (cohAnswered_keeps (hm := by decide)) ?_
    | with_reducible refine (setDir_keeps (hm := by decide)) ?_
    | with_reducible refine (takeLine_keeps (hm := by decide)) ?_
    | with_reducible refine keeps_if (fun _ => ?_) (fun _ => ?_)
    | with_reducible refine keeps_if_after (fun _ => ?_) (fun _ => ?_)
    | dsimp only
    | split
    | with_reducible refine keeps_after_homeOk ?_
    | with_reducible refine keeps_after_withRoom (hm := by decide) ?_
    | (simp only [Prod.ext_iff] at *; casesm* _ ∧ _; subst_vars)

theorem abandonAcked_keeps {d : Die} {line : Nat} {t : Txn} {b : Bytes} {s : State} (hm : Sub 0x18000000000000000000000000001800000000000000000040020820000000000000000000000 km) (hk :
    Keeps km kz s) : Keeps km kz (abandonAcked d line t b s) := by
  refine Keeps.lift hm ?_ hk
  unfold abandonAcked
  repeat' first
    | with_reducible exact Keeps.refl _ _
    | with_reducible refine (delDir_keeps (hm := by decide)) ?_
    | with_reducible refine (takeLine_keeps (hm := by decide)) ?_
    | with_reducible refine (poisonLine_keeps (hm := by decide)) ?_
    | with_reducible refine keeps_if (fun _ => ?_) (fun _ => ?_)
    | split

theorem execCrecallAck_keeps {d : Die} {f : Frame} {s : State} : Keeps 0x18000000000900000d80000000001b80000040000008190d4006f865270000002d81600000000 s (after (execCrecallAck d f s) s) := by
  unfold execCrecallAck
  repeat' first
    | with_reducible exact Keeps.refl _ _
    | with_reducible refine (takeAgent_keeps (hm := by decide)) ?_
    | with_reducible refine (cohAnswered_keeps (hm := by decide)) ?_
    | with_reducible refine (modCoh_keeps ?_) ?_
    | with_reducible refine (unexpected_keeps (hm := by decide)) ?_
    | with_reducible refine (afterRoom_keeps (hm := by decide)) ?_
    | with_reducible refine (resumeLines_keeps (hm := by decide)) ?_
    | with_reducible refine (countRecall_keeps (hm := by decide)) ?_
    | with_reducible refine (abandonAcked_keeps (hm := by decide)) ?_
    | with_reducible refine keeps_if (fun _ => ?_) (fun _ => ?_)
    | with_reducible refine keeps_if_after (fun _ => ?_) (fun _ => ?_)
    | dsimp only
    | split
    | with_reducible refine keeps_after_homeOk ?_
    | with_reducible refine keeps_after_withRoom (hm := by decide) ?_
    | (constructor <;> first | exact .inl (by decide) | exact .inr rfl)
    | (simp only [Prod.ext_iff] at *; casesm* _ ∧ _; subst_vars)

theorem fenceRecall_keeps {d : Die} {line ep : Nat} {asOwner : Bool} {s : State} (hm : Sub 0x80000000000000000000004f040020000002d81600000000 km) (hk :
    Keeps km kz s) : Keeps km kz (fenceRecall d line ep asOwner s) := by
  refine Keeps.lift hm ?_ hk
  unfold fenceRecall
  repeat' first
    | with_reducible exact Keeps.refl _ _
    | with_reducible refine (nextTxn_keeps (hm := by decide)) ?_
    | with_reducible refine (nextTxn_of_eq (heq := by assumption) (hm := by decide)) ?_
    | with_reducible refine (sendCoh_keeps (hm := by decide)) ?_
    | with_reducible refine (modCoh_keeps ?_) ?_
    | with_reducible refine keeps_if (fun _ => ?_) (fun _ => ?_)
    | with_reducible refine keeps_if_snd (fun _ => ?_) (fun _ => ?_)
    | dsimp only
    | split
    | (constructor <;> first | exact .inl (by decide) | exact .inr rfl)
    | (simp only [Prod.ext_iff] at *; casesm* _ ∧ _; subst_vars)

theorem fenceState_keeps {d : Die} {ep line : Nat} {e : DirEntry} {s : State} (hm : Sub 0x18000000000000000d80000000001800000000000000000040063860020000002d81600000000 km) (hk :
    Keeps km kz s) : Keeps km kz (fenceState d ep line e s) := by
  refine Keeps.lift hm ?_ hk
  unfold fenceState
  repeat' first
    | with_reducible exact Keeps.refl _ _
    | with_reducible refine (delDir_keeps (hm := by decide)) ?_
    | with_reducible refine (setDir_keeps (hm := by decide)) ?_
    | with_reducible refine (poisonLine_keeps (hm := by decide)) ?_
    | with_reducible refine (countInv_keeps (hm := by decide)) ?_
    | with_reducible refine (enterAb_keeps (hm := by decide)) ?_
    | with_reducible refine (countRecall_keeps (hm := by decide)) ?_
    | with_reducible refine keeps_elim ?_ (fun _ => ?_)
    | with_reducible refine keeps_if (fun _ => ?_) (fun _ => ?_)
    | dsimp only
    | split

theorem fenceLine_keeps {d : Die} {ep line : Nat} {e : DirEntry} {s : State} (hm : Sub 0x18000000000000000d8000000000180000000000000000004006f860020000002d81600000000 km) (hk :
    Keeps km kz s) : Keeps km kz (fenceLine d ep line e s) := by
  refine Keeps.lift hm ?_ hk
  unfold fenceLine
  repeat' first
    | with_reducible exact Keeps.refl _ _
    | with_reducible refine (fenceRecall_keeps (hm := by decide)) ?_
    | with_reducible refine (fenceState_keeps (hm := by decide)) ?_
    | with_reducible refine keeps_if (fun _ => ?_) (fun _ => ?_)
    | split

theorem fenceWaiting_keeps {d : Die} {ep : Nat} {s : State} (hm : Sub 0x800000000000000000000000040220000002d81600000000 km) (hk :
    Keeps km kz s) : Keeps km kz (fenceWaiting d ep s) := by
  refine Keeps.lift hm ?_ hk
  unfold fenceWaiting
  repeat' first
    | with_reducible exact Keeps.refl _ _
    | with_reducible refine (refuse_keeps (hm := by decide)) ?_
    | with_reducible refine (dropWaiting_keeps (hm := by decide)) ?_
    | with_reducible refine (setWaiting_keeps (hm := by decide)) ?_
    | with_reducible refine (keeps_foldl_snd (fun _ _ => ?_)) ?_
    | with_reducible refine (keeps_foldl_fst (fun _ _ => ?_)) ?_
    | with_reducible refine (keeps_foldl_third (fun _ _ => ?_)) ?_
    | with_reducible refine (keeps_foldl_mid (fun _ _ => ?_)) ?_
    | with_reducible refine (keeps_foldl (fun _ _ => ?_)) ?_
    | with_reducible refine keeps_if (fun _ => ?_) (fun _ => ?_)
    | dsimp only
    | split
    | (simp only [Prod.ext_iff] at *; casesm* _ ∧ _; subst_vars)

theorem fenceHome_keeps {d : Die} {ep : Nat} {s : State} (hm : Sub 0x18000000000800000d80000000001b80000040000008190d4006f865260000002d81600000000 km) (hk :
    Keeps km kz s) : Keeps km kz (fenceHome d ep s) := by
  refine Keeps.lift hm ?_ hk
  unfold fenceHome
  repeat' first
    | with_reducible exact Keeps.refl _ _
    | with_reducible refine (fenceWaiting_keeps (hm := by decide)) ?_
    | with_reducible refine (modCoh_keeps ?_) ?_
    | with_reducible refine (modHome_keeps ?_) ?_
    | with_reducible refine (fenceLine_keeps (hm := by decide)) ?_
    | with_reducible refine (resumeLines_keeps (hm := by decide)) ?_
    | with_reducible refine (keeps_foldl_snd (fun _ _ => ?_)) ?_
    | with_reducible refine (keeps_foldl_fst (fun _ _ => ?_)) ?_
    | with_reducible refine (keeps_foldl_third (fun _ _ => ?_)) ?_
    | with_reducible refine (keeps_foldl_mid (fun _ _ => ?_)) ?_
    | with_reducible refine (keeps_foldl (fun _ _ => ?_)) ?_
    | dsimp only
    | (constructor <;> first | exact .inl (by decide) | exact .inr rfl)
    | (simp only [Prod.ext_iff] at *; casesm* _ ∧ _; subst_vars)

theorem execFenceNotice_keeps {d : Die} {ep : Nat} {s : State} : Keeps 0x18000000000800000d80000000001b80000040000008190d4006f865260000002d81600000000 s (after (execFenceNotice d ep s) s) := by
  unfold execFenceNotice
  repeat' first
    | with_reducible exact Keeps.refl _ _
    | with_reducible refine (fenceHome_keeps (hm := by decide)) ?_
    | with_reducible refine keeps_after_homeOk ?_

theorem execCohAckTimeout_keeps {d : Die} {ep : Nat} {s : State} : Keeps 0x100000000000000001800000000000000000000020000000000000000000000000 s (after (execCohAckTimeout d ep s) s) := by
  unfold execCohAckTimeout
  repeat' first
    | with_reducible exact Keeps.refl _ _
    | with_reducible refine (setStatus_keeps (hm := by first | decide | (simp only [StReg.mask]; decide))) ?_
    | with_reducible refine (modFlt_keeps ?_) ?_
    | with_reducible refine keeps_elim ?_ (fun _ => ?_)
    | with_reducible refine keeps_if (fun _ => ?_) (fun _ => ?_)
    | with_reducible refine keeps_if_after (fun _ => ?_) (fun _ => ?_)
    | dsimp only
    | split
    | with_reducible refine keeps_after_homeOk ?_
    | (constructor <;> first | exact .inl (by decide) | exact .inr rfl)

end Machine
end Sys2Proof
end

