-- ==== Sys2Proof/Laws/FrameMeter.lean ====
section
/-! SUPPORT. Frames of the functions of Machine/Meter.lean: the parts of the state that each may change, as a mask (Laws/Keeps.lean). -/

namespace Sys2Proof
namespace Machine
set_option linter.unusedTactic false
set_option linter.unreachableTactic false
set_option linter.tactic.unusedName false
variable {km : Nat} {kz : State}

theorem keeps_after_mtrOk {s d : State} (hk : Keeps km kz s) : Keeps km kz (after (mtrOk s) d) := hk

theorem addLog_keeps {type flags : Nat} {body : Bytes} {s : State} (hm : Sub 0x1c00000000000000000000000000000000000000000000000000000000 km) (hk :
    Keeps km kz s) : Keeps km kz (addLog type flags body s) := by
  refine Keeps.lift hm ?_ hk
  unfold addLog
  repeat' first
    | with_reducible exact Keeps.refl _ _
    | with_reducible refine (modMtr_keeps ?_) ?_
    | with_reducible refine keeps_if (fun _ => ?_) (fun _ => ?_)
    | dsimp only
    | split
    | (constructor <;> first | exact .inl (by decide) | exact .inr rfl)

theorem addSeal_keeps {s : State} (hm : Sub 0x1c00000000000000000000000000000000000000000000000000000000 km) (hk :
    Keeps km kz s) : Keeps km kz (addSeal s) := by
  refine Keeps.lift hm ?_ hk
  unfold addSeal
  repeat' first
    | with_reducible exact Keeps.refl _ _
    | with_reducible refine (addLog_keeps (hm := by decide)) ?_
    | dsimp only

theorem checkLog_keeps {s : State} (hm : Sub 0x200000001800000000000000000000000000000000000000000000000 km) (hk :
    Keeps km kz s) : Keeps km kz (checkLog s) := by
  refine Keeps.lift hm ?_ hk
  unfold checkLog
  repeat' first
    | with_reducible exact Keeps.refl _ _
    | with_reducible refine (spEvent_keeps (hm := by first | decide | (simp only [StReg.mask]; decide))) ?_
    | with_reducible refine (setStatus_keeps (hm := by first | decide | (simp only [StReg.mask]; decide))) ?_
    | with_reducible refine keeps_if (fun _ => ?_) (fun _ => ?_)
    | dsimp only
    | split

theorem setMeterMs_keeps {t : Nat} {s : State} (hm : Sub 0x40000000000000000000000000000000000000000000000000000000 km) (hk :
    Keeps km kz s) : Keeps km kz (setMeterMs t s) := by
  refine Keeps.lift hm ?_ hk
  unfold setMeterMs
  repeat' first
    | with_reducible exact Keeps.refl _ _
    | with_reducible refine (modMtr_keeps ?_) ?_
    | dsimp only
    | (constructor <;> first | exact .inl (by decide) | exact .inr rfl)

theorem meterTicks_keeps {s : State} (hm : Sub 0x20000000000000000000040000000000000000000000000000000000000000000000000000000 km) (hk :
    Keeps km kz s) : Keeps km kz (meterTicks s) := by
  refine Keeps.lift hm ?_ hk
  unfold meterTicks
  repeat' first
    | with_reducible exact Keeps.refl _ _
    | with_reducible refine (drawFree_keeps (hm := by decide)) ?_
    | with_reducible refine (drawFree_of_eq (heq := by assumption) (hm := by decide)) ?_
    | with_reducible refine (setMeterMs_keeps (hm := by decide)) ?_
    | with_reducible refine keeps_if (fun _ => ?_) (fun _ => ?_)
    | with_reducible refine keeps_if_snd (fun _ => ?_) (fun _ => ?_)
    | dsimp only
    | split
    | (simp only [Prod.ext_iff] at *; casesm* _ ∧ _; subst_vars)

theorem modQuant_keeps {c : Nat} {g : Quant → Quant} {s : State} (hm : Sub 0x10000000000000000000000000000000000000000000000000000000000 km) (hk :
    Keeps km kz s) : Keeps km kz (modQuant c g s) := by
  refine Keeps.lift hm ?_ hk
  unfold modQuant
  repeat' first
    | with_reducible exact Keeps.refl _ _
    | with_reducible refine (modMtr_keeps ?_) ?_
    | dsimp only
    | (constructor <;> first | exact .inl (by decide) | exact .inr rfl)

theorem integrate_keeps {t : Nat} {e : TapEv} {s : State} (hm : Sub 0x11c00000000000000000000000000000000000000000000000000000000 km) (hk :
    Keeps km kz s) : Keeps km kz (integrate t e s) := by
  refine Keeps.lift hm ?_ hk
  unfold integrate
  repeat' first
    | with_reducible exact Keeps.refl _ _
    | with_reducible refine (modQuant_keeps (hm := by decide)) ?_
    | with_reducible refine (addLog_keeps (hm := by decide)) ?_
    | with_reducible refine keeps_if (fun _ => ?_) (fun _ => ?_)
    | dsimp only
    | split

theorem addPeriod_keeps {flags startMs endMs c : Nat} {s : State} (hm : Sub 0x11c00000000000000000000000000000000000000000000000000000000 km) (hk :
    Keeps km kz s) : Keeps km kz (addPeriod flags startMs endMs c s) := by
  refine Keeps.lift hm ?_ hk
  unfold addPeriod
  repeat' first
    | with_reducible exact Keeps.refl _ _
    | with_reducible refine (modQuant_keeps (hm := by decide)) ?_
    | with_reducible refine (addLog_keeps (hm := by decide)) ?_
    | with_reducible refine keeps_elim ?_ (fun _ => ?_)
    | with_reducible refine keeps_if (fun _ => ?_) (fun _ => ?_)
    | dsimp only
    | split

theorem addPeriods_keeps {flags startMs endMs : Nat} {s : State} (hm : Sub 0x11c00000000000000000000000000000000000000000000000000000000 km) (hk :
    Keeps km kz s) : Keeps km kz (addPeriods flags startMs endMs s) := by
  refine Keeps.lift hm ?_ hk
  unfold addPeriods
  repeat' first
    | with_reducible exact Keeps.refl _ _
    | with_reducible refine (addPeriod_keeps (hm := by decide)) ?_
    | with_reducible refine (keeps_foldl_snd (fun _ _ => ?_)) ?_
    | with_reducible refine (keeps_foldl_fst (fun _ _ => ?_)) ?_
    | with_reducible refine (keeps_foldl_third (fun _ _ => ?_)) ?_
    | with_reducible refine (keeps_foldl_mid (fun _ _ => ?_)) ?_
    | with_reducible refine (keeps_foldl (fun _ _ => ?_)) ?_
    | dsimp only
    | (simp only [Prod.ext_iff] at *; casesm* _ ∧ _; subst_vars)

theorem execTapEventSend_keeps {d : Die} {s : State} : Keeps 0x200000000000000000000000000000000000000000000000000000000000 s (after (execTapEventSend d s) s) := by
  unfold execTapEventSend
  repeat' first
    | with_reducible exact Keeps.refl _ _
    | with_reducible refine (modMtr_keeps ?_) ?_
    | with_reducible refine keeps_if (fun _ => ?_) (fun _ => ?_)
    | with_reducible refine keeps_if_after (fun _ => ?_) (fun _ => ?_)
    | dsimp only
    | split
    | with_reducible refine keeps_after_mtrOk ?_
    | (constructor <;> first | exact .inl (by decide) | exact .inr rfl)

theorem execMeterAck_keeps {d : Die} {tapSeq : Nat} {s : State} : Keeps 0x20000000000000000111c40000000000000000000000000000000000000000000000000000000 s (after (execMeterAck d tapSeq s) s) := by
  unfold execMeterAck
  repeat' first
    | with_reducible exact Keeps.refl _ _
    | with_reducible refine (modMtr_keeps ?_) ?_
    | with_reducible refine (meterTicks_keeps (hm := by decide)) ?_
    | with_reducible refine (integrate_keeps (hm := by decide)) ?_
    | with_reducible refine (keeps_foldl_snd (fun _ _ => ?_)) ?_
    | with_reducible refine (keeps_foldl_fst (fun _ _ => ?_)) ?_
    | with_reducible refine (keeps_foldl_third (fun _ _ => ?_)) ?_
    | with_reducible refine (keeps_foldl_mid (fun _ _ => ?_)) ?_
    | with_reducible refine (keeps_foldl (fun _ _ => ?_)) ?_
    | with_reducible refine keeps_elim ?_ (fun _ => ?_)
    | with_reducible refine keeps_if (fun _ => ?_) (fun _ => ?_)
    | with_reducible refine keeps_if_after (fun _ => ?_) (fun _ => ?_)
    | dsimp only
    | split
    | with_reducible refine keeps_after_mtrOk ?_
    | (constructor <;> first | exact .inl (by decide) | exact .inr rfl)
    | (simp only [Prod.ext_iff] at *; casesm* _ ∧ _; subst_vars)

theorem startEscrow_keeps {d : Die} {s : State} (hm : Sub 0x900000000000000000000000000000000000000000000000000000000000 km) (hk :
    Keeps km kz s) : Keeps km kz (startEscrow d s) := by
  refine Keeps.lift hm ?_ hk
  unfold startEscrow
  repeat' first
    | with_reducible exact Keeps.refl _ _
    | with_reducible refine (modMtr_keeps ?_) ?_
    | with_reducible refine (keeps_foldl_snd (fun _ _ => ?_)) ?_
    | with_reducible refine (keeps_foldl_fst (fun _ _ => ?_)) ?_
    | with_reducible refine (keeps_foldl_third (fun _ _ => ?_)) ?_
    | with_reducible refine (keeps_foldl_mid (fun _ _ => ?_)) ?_
    | with_reducible refine (keeps_foldl (fun _ _ => ?_)) ?_
    | with_reducible refine keeps_if (fun _ => ?_) (fun _ => ?_)
    | dsimp only
    | split
    | (constructor <;> first | exact .inl (by decide) | exact .inr rfl)
    | (simp only [Prod.ext_iff] at *; casesm* _ ∧ _; subst_vars)

theorem detachMeter_keeps {reason : Nat} {s : State} (hm : Sub 0x901c00000001800000000000000000000000000000000000000000000000 km) (hk :
    Keeps km kz s) : Keeps km kz (detachMeter reason s) := by
  refine Keeps.lift hm ?_ hk
  unfold detachMeter
  repeat' first
    | with_reducible exact Keeps.refl _ _
    | with_reducible refine (addSeal_keeps (hm := by decide)) ?_
    | with_reducible refine (addLog_keeps (hm := by decide)) ?_
    | with_reducible refine (spEvent_keeps (hm := by decide)) ?_
    | with_reducible refine (startEscrow_keeps (hm := by decide)) ?_
    | dsimp only

theorem detachWrite_keeps {s : State} (hm : Sub 0x901c00000001800000000000000000000000000000000000000000000000 km) (hk :
    Keeps km kz s) : Keeps km kz (detachWrite s) := by
  refine Keeps.lift hm ?_ hk
  unfold detachWrite
  repeat' first
    | with_reducible exact Keeps.refl _ _
    | with_reducible refine (detachMeter_keeps (hm := by decide)) ?_
    | with_reducible refine keeps_if (fun _ => ?_) (fun _ => ?_)
    | split

theorem execMeterLinkLoss_keeps {s : State} : Keeps 0x901c20000001800000000000000000000000000000000000000000000000 s (after (execMeterLinkLoss s) s) := by
  unfold execMeterLinkLoss
  repeat' first
    | with_reducible exact Keeps.refl _ _
    | with_reducible refine (detachMeter_keeps (hm := by decide)) ?_
    | with_reducible refine (modMtr_keeps ?_) ?_
    | with_reducible refine keeps_if (fun _ => ?_) (fun _ => ?_)
    | with_reducible refine keeps_if_after (fun _ => ?_) (fun _ => ?_)
    | dsimp only
    | split
    | with_reducible refine keeps_after_mtrOk ?_
    | (constructor <;> first | exact .inl (by decide) | exact .inr rfl)

theorem execMeterTamper_keeps {s : State} : Keeps 0x901ce0000001800000000000000000000000000000000000000000000000 s (after (execMeterTamper s) s) := by
  unfold execMeterTamper
  repeat' first
    | with_reducible exact Keeps.refl _ _
    | with_reducible refine (detachMeter_keeps (hm := by decide)) ?_
    | with_reducible refine (spEvent_keeps (hm := by decide)) ?_
    | with_reducible refine (modMtr_keeps ?_) ?_
    | with_reducible refine keeps_if (fun _ => ?_) (fun _ => ?_)
    | with_reducible refine keeps_if_after (fun _ => ?_) (fun _ => ?_)
    | dsimp only
    | split
    | with_reducible refine keeps_after_mtrOk ?_
    | (constructor <;> first | exact .inl (by decide) | exact .inr rfl)

theorem execMeterAttach_keeps {m : MeterIdent} {s : State} : Keeps 0x181fee0000001800000000000000000000000000000000000000000000000 s (after (execMeterAttach m s) s) := by
  unfold execMeterAttach
  repeat' first
    | with_reducible exact Keeps.refl _ _
    | with_reducible refine (setStatus_keeps (hm := by first | decide | (simp only [StReg.mask]; decide))) ?_
    | with_reducible refine (modMtr_keeps ?_) ?_
    | with_reducible refine (addLog_keeps (hm := by first | decide | (simp only [StReg.mask]; decide))) ?_
    | with_reducible refine (spEvent_keeps (hm := by first | decide | (simp only [StReg.mask]; decide))) ?_
    | with_reducible refine keeps_elim ?_ (fun _ => ?_)
    | with_reducible refine keeps_if (fun _ => ?_) (fun _ => ?_)
    | with_reducible refine keeps_if_after (fun _ => ?_) (fun _ => ?_)
    | dsimp only
    | split
    | with_reducible refine keeps_after_mtrOk ?_
    | (constructor <;> first | exact .inl (by decide) | exact .inr rfl)

theorem escrowGrown_keeps {d : Die} {s : State} (hm : Sub 0x800200000001800000000000000000000000000000000000000000000000 km) (hk :
    Keeps km kz s) : Keeps km kz (escrowGrown d s) := by
  refine Keeps.lift hm ?_ hk
  unfold escrowGrown
  repeat' first
    | with_reducible exact Keeps.refl _ _
    | with_reducible refine (setStatus_keeps (hm := by first | decide | (simp only [StReg.mask]; decide))) ?_
    | with_reducible refine (event_keeps (hm := by first | decide | (simp only [StReg.mask]; decide))) ?_
    | with_reducible refine (modMtr_keeps ?_) ?_
    | with_reducible refine keeps_if (fun _ => ?_) (fun _ => ?_)
    | dsimp only
    | split
    | (constructor <;> first | exact .inl (by decide) | exact .inr rfl)

theorem execEscrowSecond_keeps {d : Die} {s : State} : Keeps 0x880200000001800000040045c00000000000000000000000000000000000 s (after (execEscrowSecond d s) s) := by
  unfold execEscrowSecond
  repeat' first
    | with_reducible exact Keeps.refl _ _
    | with_reducible refine (tapEscrow_keeps (hm := by decide)) ?_
    | with_reducible refine (modMtr_keeps ?_) ?_
    | with_reducible refine (escrowGrown_keeps (hm := by decide)) ?_
    | with_reducible refine (journal_keeps (hm := by decide)) ?_
    | with_reducible refine (keeps_foldl_snd (fun _ _ => ?_)) ?_
    | with_reducible refine (keeps_foldl_fst (fun _ _ => ?_)) ?_
    | with_reducible refine (keeps_foldl_third (fun _ _ => ?_)) ?_
    | with_reducible refine (keeps_foldl_mid (fun _ _ => ?_)) ?_
    | with_reducible refine (keeps_foldl (fun _ _ => ?_)) ?_
    | with_reducible refine keeps_if (fun _ => ?_) (fun _ => ?_)
    | with_reducible refine keeps_if_after (fun _ => ?_) (fun _ => ?_)
    | dsimp only
    | split
    | with_reducible refine keeps_after_mtrOk ?_
    | (constructor <;> first | exact .inl (by decide) | exact .inr rfl)
    | (simp only [Prod.ext_iff] at *; casesm* _ ∧ _; subst_vars)

theorem ingestSegment_keeps {d : Die} {g : Segment} {s : State} (hm : Sub 0x1011c40000000000000000000000000000000000000000000000000000000 km) (hk :
    Keeps km kz s) : Keeps km kz (ingestSegment d g s) := by
  refine Keeps.lift hm ?_ hk
  unfold ingestSegment
  repeat' first
    | with_reducible exact Keeps.refl _ _
    | with_reducible refine (integrate_keeps (hm := by decide)) ?_
    | with_reducible refine (modMtr_keeps ?_) ?_
    | with_reducible refine (keeps_foldl_snd (fun _ _ => ?_)) ?_
    | with_reducible refine (keeps_foldl_fst (fun _ _ => ?_)) ?_
    | with_reducible refine (keeps_foldl_third (fun _ _ => ?_)) ?_
    | with_reducible refine (keeps_foldl_mid (fun _ _ => ?_)) ?_
    | with_reducible refine (keeps_foldl (fun _ _ => ?_)) ?_
    | with_reducible refine keeps_elim ?_ (fun _ => ?_)
    | with_reducible refine keeps_if (fun _ => ?_) (fun _ => ?_)
    | dsimp only
    | split
    | (constructor <;> first | exact .inl (by decide) | exact .inr rfl)
    | (simp only [Prod.ext_iff] at *; casesm* _ ∧ _; subst_vars)

theorem endEscrow_keeps {d : Die} {s : State} (hm : Sub 0x980000000000000000000000000000000000000000000000000000000000 km) (hk :
    Keeps km kz s) : Keeps km kz (endEscrow d s) := by
  refine Keeps.lift hm ?_ hk
  unfold endEscrow
  repeat' first
    | with_reducible exact Keeps.refl _ _
    | with_reducible refine (modMtr_keeps ?_) ?_
    | with_reducible refine (tapLive_keeps (hm := by decide)) ?_
    | with_reducible refine (keeps_foldl_snd (fun _ _ => ?_)) ?_
    | with_reducible refine (keeps_foldl_fst (fun _ _ => ?_)) ?_
    | with_reducible refine (keeps_foldl_third (fun _ _ => ?_)) ?_
    | with_reducible refine (keeps_foldl_mid (fun _ _ => ?_)) ?_
    | with_reducible refine (keeps_foldl (fun _ _ => ?_)) ?_
    | dsimp only
    | (constructor <;> first | exact .inl (by decide) | exact .inr rfl)
    | (simp only [Prod.ext_iff] at *; casesm* _ ∧ _; subst_vars)

theorem addInterval_keeps {d : Die} {s : State} (hm : Sub 0x1c00000000000000000000000000000000000000000000000000000000 km) (hk :
    Keeps km kz s) : Keeps km kz (addInterval d s) := by
  refine Keeps.lift hm ?_ hk
  unfold addInterval
  repeat' first
    | with_reducible exact Keeps.refl _ _
    | with_reducible refine (addLog_keeps (hm := by decide)) ?_
    | dsimp only

theorem execEscrowIngestSegment_keeps {d : Die} {s : State} : Keeps 0x1991e60000001800000040045c00000000000000000000000000000000000 s (after (execEscrowIngestSegment d s) s) := by
  unfold execEscrowIngestSegment
  have kf : ∀ t, Keeps 0x1991e60000001800000040045c00000000000000000000000000000000000 s t → Keeps 0x1991e60000001800000040045c00000000000000000000000000000000000 s (execEscrowIngestSegment.finish t) := by
    intro t kt
    unfold execEscrowIngestSegment.finish
    refine keeps_if (fun _ => kt) (fun _ => ?_)
    extract_lets t1 t2 i0 i1
    have k1 : Keeps 0x1991e60000001800000040045c00000000000000000000000000000000000 s t1 := (addPeriods_keeps (by decide)) kt
    have k2 : Keeps 0x1991e60000001800000040045c00000000000000000000000000000000000 s t2 := by
      refine (modMtr_keeps ?_) ((addInterval_keeps (by decide)) ((addInterval_keeps (by decide)) k1))
      constructor <;> first | exact .inl (by decide) | exact .inr rfl
    clear_value t2
    exact (spEvent_keeps (by decide)) ((endEscrow_keeps (by decide)) ((endEscrow_keeps (by decide)) k2))
  refine keeps_if_after (fun _ => keeps_after_mtrOk (Keeps.refl _ _)) (fun _ => ?_)
  split
  · exact keeps_after_mtrOk (kf _ (Keeps.refl _ _))
  · extract_lets g ok s1 s2
    clear_value g ok
    have k1 : Keeps 0x1991e60000001800000040045c00000000000000000000000000000000000 s s1 := keeps_if (fun _ => (ingestSegment_keeps (by decide)) (Keeps.refl _ _))
      (fun _ => (setStatus_keeps (by simp only [StReg.mask]; decide)) (Keeps.refl _ _))
    clear_value s1
    refine keeps_after_mtrOk (kf _ ?_)
    refine journal_keeps (by decide) ((modMtr_keeps ?_) k1)
    constructor <;> first | exact .inl (by decide) | exact .inr rfl

theorem execRecordPeriodEnd_keeps {s : State} : Keeps 0x91de60000001800000000000000000000000000000000000000000000000 s (after (execRecordPeriodEnd s) s) := by
  unfold execRecordPeriodEnd
  repeat' first
    | with_reducible exact Keeps.refl _ _
    | with_reducible refine (modMtr_keeps ?_) ?_
    | with_reducible refine (startEscrow_keeps (hm := by first | decide | (simp only [StReg.mask]; decide))) ?_
    | with_reducible refine (addSeal_keeps (hm := by first | decide | (simp only [StReg.mask]; decide))) ?_
    | with_reducible refine (addPeriods_keeps (hm := by first | decide | (simp only [StReg.mask]; decide))) ?_
    | with_reducible refine (setMeterMs_keeps (hm := by first | decide | (simp only [StReg.mask]; decide))) ?_
    | with_reducible refine (checkLog_keeps (hm := by first | decide | (simp only [StReg.mask]; decide))) ?_
    | with_reducible refine (setStatus_keeps (hm := by first | decide | (simp only [StReg.mask]; decide))) ?_
    | with_reducible refine keeps_if (fun _ => ?_) (fun _ => ?_)
    | with_reducible refine keeps_if_after (fun _ => ?_) (fun _ => ?_)
    | dsimp only
    | split
    | with_reducible refine keeps_after_mtrOk ?_
    | (constructor <;> first | exact .inl (by decide) | exact .inr rfl)

theorem tariffOwn_keeps {r : CtlReq} {s : State} (hm : Sub 0x1800000000000000000000000040020000002d81642400000 km) (hk :
    Keeps km kz s) : Keeps km kz (tariffOwn r s) := by
  refine Keeps.lift hm ?_ hk
  unfold tariffOwn
  repeat' first
    | with_reducible exact Keeps.refl _ _
    | with_reducible refine (ctlEnd_keeps (hm := by decide)) ?_
    | with_reducible refine (rwlBegin_keeps (hm := by decide)) ?_
    | with_reducible refine keeps_elim ?_ (fun _ => ?_)
    | with_reducible refine keeps_if (fun _ => ?_) (fun _ => ?_)
    | split

theorem tariffRead_keeps {r : CtlReq} {st : BitVec 5} {b : Bytes} {s : State} (hm : Sub 0x69c40001001800000040045c00000000000040020000002d81602400000 km) (hk :
    Keeps km kz s) : Keeps km kz (tariffRead r st b s) := by
  refine Keeps.lift hm ?_ hk
  clear hk
  unfold tariffRead
  split
  · exact ctlEnd_keeps (by decide) (Keeps.refl _ _)
  · extract_lets old new root own s1 s2
    have k1 : Keeps 0x69c40001001800000040045c00000000000040020000002d81602400000 s s1 := addSeal_keeps (by decide) (addLog_keeps (by decide) (Keeps.refl _ _))
    have q : Keeps 0x1c00000000000000000000000000000000000000000000000000000000 s s1 := addSeal_keeps (by decide) (addLog_keeps (by decide) (Keeps.refl _ _))
    have e1 : s1.sec.leftMeter = s.sec.leftMeter := q.same .secLeftMeter rfl
    have k2 : Keeps 0x69c40001001800000040045c00000000000040020000002d81602400000 s s2 := by
      refine modMtr_keeps ?_ (modSec_keeps ?_ ⟨le_rfl, le_rfl, ?_, le_rfl, le_rfl⟩ k1)
      · constructor <;> first | exact .inl (by decide) | exact .inr rfl
      · constructor <;> first | exact .inl (by decide) | exact .inr rfl
      · show s.sec.leftMeter - 1 ≤ s1.sec.leftMeter
        rw [e1]
        exact Nat.sub_le _ _
    clear_value s2
    exact ctlEnd_keeps (by decide) (rwlAccepted_keeps (by decide) k2)

theorem execMeterTariff_keeps {r : CtlReq} {s : State} : Keeps 0x1800000000000000000000000040020000002d81762400000 s (after (execMeterTariff r s) s) := by
  unfold execMeterTariff
  repeat' first
    | with_reducible exact Keeps.refl _ _
    | with_reducible refine (runCtl_keeps (hm := by decide) (h_own := fun _ => ?_)) ?_
    | with_reducible refine (tariffOwn_keeps (hm := by decide)) ?_
    | with_reducible refine keeps_after_ctlOk ?_

theorem exportOwn_keeps {r : CtlReq} {s : State} (hm : Sub 0x2000000000000800400000000000000800000040060000002d8160e400000 km) (hk :
    Keeps km kz s) : Keeps km kz (exportOwn r s) := by
  refine Keeps.lift hm ?_ hk
  unfold exportOwn
  repeat' first
    | with_reducible exact Keeps.refl _ _
    | with_reducible refine (ctlEnd_keeps (hm := by decide)) ?_
    | with_reducible refine (newJob_keeps (hm := by decide)) ?_
    | with_reducible refine (newJob_of_eq (heq := by assumption) (hm := by decide)) ?_
    | with_reducible refine (modMtr_keeps ?_) ?_
    | with_reducible refine (svcSend_keeps (hm := by decide)) ?_
    | with_reducible refine (jobAnswer_keeps (hm := by decide)) ?_
    | with_reducible refine (keeps_foldl_snd (fun _ _ => ?_)) ?_
    | with_reducible refine (keeps_foldl_fst (fun _ _ => ?_)) ?_
    | with_reducible refine (keeps_foldl_third (fun _ _ => ?_)) ?_
    | with_reducible refine (keeps_foldl_mid (fun _ _ => ?_)) ?_
    | with_reducible refine (keeps_foldl (fun _ _ => ?_)) ?_
    | with_reducible refine keeps_if (fun _ => ?_) (fun _ => ?_)
    | with_reducible refine keeps_if_snd (fun _ => ?_) (fun _ => ?_)
    | dsimp only
    | split
    | (constructor <;> first | exact .inl (by decide) | exact .inr rfl)
    | (simp only [Prod.ext_iff] at *; casesm* _ ∧ _; subst_vars)

theorem execMeterExport_keeps {r : CtlReq} {s : State} : Keeps 0x2000000000000800400000000000000800000040060000002d8172e400000 s (after (execMeterExport r s) s) := by
  unfold execMeterExport
  repeat' first
    | with_reducible exact Keeps.refl _ _
    | with_reducible refine (runCtl_keeps (hm := by decide) (h_own := fun _ => ?_)) ?_
    | with_reducible refine (exportOwn_keeps (hm := by decide)) ?_
    | with_reducible refine keeps_after_ctlOk ?_

theorem execMeterExportDone_keeps {job : Nat} {s : State} : Keeps 0x2002000000001800000000000000000000000000000000000000004000000 s (after (execMeterExportDone job s) s) := by
  unfold execMeterExportDone
  repeat' first
    | with_reducible exact Keeps.refl _ _
    | with_reducible refine (modMtr_keeps ?_) ?_
    | with_reducible refine (jobDone_keeps (hm := by decide)) ?_
    | with_reducible refine (keeps_foldl_snd (fun _ _ => ?_)) ?_
    | with_reducible refine (keeps_foldl_fst (fun _ _ => ?_)) ?_
    | with_reducible refine (keeps_foldl_third (fun _ _ => ?_)) ?_
    | with_reducible refine (keeps_foldl_mid (fun _ _ => ?_)) ?_
    | with_reducible refine (keeps_foldl (fun _ _ => ?_)) ?_
    | with_reducible refine keeps_if (fun _ => ?_) (fun _ => ?_)
    | with_reducible refine keeps_if_after (fun _ => ?_) (fun _ => ?_)
    | dsimp only
    | split
    | with_reducible refine keeps_after_mtrOk ?_
    | (constructor <;> first | exact .inl (by decide) | exact .inr rfl)
    | (simp only [Prod.ext_iff] at *; casesm* _ ∧ _; subst_vars)

theorem execTapBytesFlush_keeps {d : Die} {ctx tc dir : Nat} {s : State} : Keeps 0xd80000000000000000000000000000000000000000000000000000000000 s (after (execTapBytesFlush d ctx tc dir s) s) := by
  unfold execTapBytesFlush
  repeat' first
    | with_reducible exact Keeps.refl _ _
    | with_reducible refine (tapFlush_keeps (hm := by decide)) ?_
    | with_reducible refine keeps_after_mtrOk ?_

end Machine
end Sys2Proof
end

