-- ==== Sys2Proof/Laws/FrameFailures.lean ====
section
/-! SUPPORT. Frames of the functions of Machine/Failures.lean: the parts of the state that each may change, as a mask (Laws/Keeps.lean). -/

namespace Sys2Proof
namespace Machine
set_option linter.unusedTactic false
set_option linter.unreachableTactic false
set_option linter.tactic.unusedName false
variable {km : Nat} {kz : State}

theorem keeps_after_fltOk {s d : State} (hk : Keeps km kz s) : Keeps km kz (after (fltOk s) d) := hk

theorem fltBit_keeps {bit : Nat} {s : State} (hm : Sub 0x200000000000001800000000000000000000000000000000000000000000000 km) (hk :
    Keeps km kz s) : Keeps km kz (fltBit bit s) := by
  refine Keeps.lift hm ?_ hk
  unfold fltBit
  repeat' first
    | with_reducible exact Keeps.refl _ _
    | with_reducible refine (setStatus_keeps (hm := by first | decide | (simp only [StReg.mask]; decide))) ?_

theorem declare_keeps {ep : Nat} {job : Option Nat} {s : State} (hm : Sub 0x80200000000000001800000000000000000000000000000000000000000000000 km) (hk :
    Keeps km kz s) : Keeps km kz (declare ep job s) := by
  refine Keeps.lift hm ?_ hk
  unfold declare
  repeat' first
    | with_reducible exact Keeps.refl _ _
    | with_reducible refine (modFlt_keeps ?_) ?_
    | with_reducible refine (fltBit_keeps (hm := by decide)) ?_
    | with_reducible refine keeps_if (fun _ => ?_) (fun _ => ?_)
    | dsimp only
    | split
    | (constructor <;> first | exact .inl (by decide) | exact .inr rfl)

theorem execEndpointGraceExpire_keeps {ep : Nat} {s : State} : Keeps 0x80200000000000001800000000000000000000000000000000000000000000000 s (after (execEndpointGraceExpire ep s) s) := by
  unfold execEndpointGraceExpire
  repeat' first
    | with_reducible exact Keeps.refl _ _
    | with_reducible refine (declare_keeps (hm := by decide)) ?_
    | with_reducible refine keeps_if (fun _ => ?_) (fun _ => ?_)
    | with_reducible refine keeps_if_after (fun _ => ?_) (fun _ => ?_)
    | dsimp only
    | split
    | with_reducible refine keeps_after_fltOk ?_

theorem execEndpointAckDeadExpire_keeps {ep : Nat} {s : State} : Keeps 0x180200000000000001800000000000000000000000000000000000000000000000 s (after (execEndpointAckDeadExpire ep s) s) := by
  unfold execEndpointAckDeadExpire
  repeat' first
    | with_reducible exact Keeps.refl _ _
    | with_reducible refine (declare_keeps (hm := by decide)) ?_
    | with_reducible refine (modFlt_keeps ?_) ?_
    | with_reducible refine keeps_if (fun _ => ?_) (fun _ => ?_)
    | with_reducible refine keeps_if_after (fun _ => ?_) (fun _ => ?_)
    | dsimp only
    | split
    | with_reducible refine keeps_after_fltOk ?_
    | (constructor <;> first | exact .inl (by decide) | exact .inr rfl)

theorem fenceOwn_keeps {r : CtlReq} {s : State} (hm : Sub 0x80200000000000001800000000000000000000000040020000002d8160e400000 km) (hk :
    Keeps km kz s) : Keeps km kz (fenceOwn r s) := by
  refine Keeps.lift hm ?_ hk
  unfold fenceOwn
  repeat' first
    | with_reducible exact Keeps.refl _ _
    | with_reducible refine (ctlEnd_keeps (hm := by decide)) ?_
    | with_reducible refine (newJob_keeps (hm := by decide)) ?_
    | with_reducible refine (newJob_of_eq (heq := by assumption) (hm := by decide)) ?_
    | with_reducible refine (jobAnswer_keeps (hm := by decide)) ?_
    | with_reducible refine (declare_keeps (hm := by decide)) ?_
    | with_reducible refine keeps_if (fun _ => ?_) (fun _ => ?_)
    | with_reducible refine keeps_if_snd (fun _ => ?_) (fun _ => ?_)
    | dsimp only
    | split
    | (simp only [Prod.ext_iff] at *; casesm* _ ∧ _; subst_vars)

theorem execFenceAdvance_keeps {r : CtlReq} {s : State} : Keeps 0x80200000000000001800000000000000000000000040020000002d8172e400000 s (after (execFenceAdvance r s) s) := by
  unfold execFenceAdvance
  repeat' first
    | with_reducible exact Keeps.refl _ _
    | with_reducible refine (runCtl_keeps (hm := by decide) (h_own := fun _ => ?_)) ?_
    | with_reducible refine (fenceOwn_keeps (hm := by decide)) ?_
    | with_reducible refine keeps_after_ctlOk ?_

theorem execEndpointFenced_keeps {ep : Nat} {s : State} : Keeps 0x80000000000000001800000000000000000000000000000000000000004000000 s (after (execEndpointFenced ep s) s) := by
  unfold execEndpointFenced
  repeat' first
    | with_reducible exact Keeps.refl _ _
    | with_reducible refine (modFlt_keeps ?_) ?_
    | with_reducible refine (spEvent_keeps (hm := by decide)) ?_
    | with_reducible refine (jobDone_keeps (hm := by decide)) ?_
    | with_reducible refine keeps_if (fun _ => ?_) (fun _ => ?_)
    | with_reducible refine keeps_if_after (fun _ => ?_) (fun _ => ?_)
    | dsimp only
    | split
    | with_reducible refine keeps_after_fltOk ?_
    | (constructor <;> first | exact .inl (by decide) | exact .inr rfl)

theorem modComp_keeps {c : Nat} {g : Comp → Comp} {s : State} (hm : Sub 0x200000000000000000000000000000000000000000000000000000000000000000 km) (hk :
    Keeps km kz s) : Keeps km kz (modComp c g s) := by
  refine Keeps.lift hm ?_ hk
  unfold modComp
  repeat' first
    | with_reducible exact Keeps.refl _ _
    | with_reducible refine (modFlt_keeps ?_) ?_
    | dsimp only
    | (constructor <;> first | exact .inl (by decide) | exact .inr rfl)

theorem endCompWork_keeps {d : Die} {c : Nat} {s : State} (hm : Sub 0xd80000000000800740400000000000000000040020000002d81600000000 km) (hk :
    Keeps km kz s) : Keeps km kz (endCompWork d c s) := by
  refine Keeps.lift hm ?_ hk
  unfold endCompWork
  repeat' first
    | with_reducible exact Keeps.refl _ _
    | with_reducible refine (stopOps_keeps (hm := by decide)) ?_
    | with_reducible refine (abortInstances_keeps (hm := by decide)) ?_
    | dsimp only

theorem failComp_keeps {c cause : Nat} {s : State} (hm : Sub 0x200200d80000000001800740400000000000000000040020000002d81600000000 km) (hk :
    Keeps km kz s) : Keeps km kz (failComp c cause s) := by
  refine Keeps.lift hm ?_ hk
  unfold failComp
  repeat' first
    | with_reducible exact Keeps.refl _ _
    | with_reducible refine (fltBit_keeps (hm := by decide)) ?_
    | with_reducible refine (modComp_keeps (hm := by decide)) ?_
    | with_reducible refine (endCompWork_keeps (hm := by decide)) ?_
    | with_reducible refine (spEvent_keeps (hm := by decide)) ?_
    | with_reducible refine keeps_if (fun _ => ?_) (fun _ => ?_)
    | dsimp only
    | split

theorem failComps_keeps {p : Bytes → Bool} {cause : Nat} {s : State} (hm : Sub 0x200200d80000000001800740400000000000000000040020000002d81600000000 km) (hk :
    Keeps km kz s) : Keeps km kz (failComps p cause s) := by
  refine Keeps.lift hm ?_ hk
  unfold failComps
  repeat' first
    | with_reducible exact Keeps.refl _ _
    | with_reducible refine (failComp_keeps (hm := by decide)) ?_
    | with_reducible refine (keeps_foldl_snd (fun _ _ => ?_)) ?_
    | with_reducible refine (keeps_foldl_fst (fun _ _ => ?_)) ?_
    | with_reducible refine (keeps_foldl_third (fun _ _ => ?_)) ?_
    | with_reducible refine (keeps_foldl_mid (fun _ _ => ?_)) ?_
    | with_reducible refine (keeps_foldl (fun _ _ => ?_)) ?_
    | dsimp only
    | (simp only [Prod.ext_iff] at *; casesm* _ ∧ _; subst_vars)

theorem compCreateOwn_keeps {r : CtlReq} {s : State} (hm : Sub 0x200000000000000001800000040045c00000000000040020000002d81602408002 km) (hk :
    Keeps km kz s) : Keeps km kz (compCreateOwn r s) := by
  refine Keeps.lift hm ?_ hk
  unfold compCreateOwn
  repeat' first
    | with_reducible exact Keeps.refl _ _
    | with_reducible refine (recordCmd_keeps (hm := by decide) (h_after := fun _ => ?_)) ?_
    | with_reducible refine (modComp_keeps (hm := by decide)) ?_
    | dsimp only

theorem execCompCreate_keeps {r : CtlReq} {s : State} : Keeps 0x200000000000000001800000040045c00000000000040020000002d81722408002 s (after (execCompCreate r s) s) := by
  unfold execCompCreate
  repeat' first
    | with_reducible exact Keeps.refl _ _
    | with_reducible refine (runCtl_keeps (hm := by decide) (h_own := fun _ => ?_)) ?_
    | with_reducible refine (compCreateOwn_keeps (hm := by decide)) ?_
    | with_reducible refine keeps_after_ctlOk ?_

theorem commitOwn_keeps {r : CtlReq} {s : State} (hm : Sub 0x200000d80000000001800740440045c00000000000040020000002d8160e400000 km) (hk :
    Keeps km kz s) : Keeps km kz (commitOwn r s) := by
  refine Keeps.lift hm ?_ hk
  unfold commitOwn
  repeat' first
    | with_reducible exact Keeps.refl _ _
    | with_reducible refine (ctlEnd_keeps (hm := by decide)) ?_
    | with_reducible refine (newJob_keeps (hm := by decide)) ?_
    | with_reducible refine (newJob_of_eq (heq := by assumption) (hm := by decide)) ?_
    | with_reducible refine (modComp_keeps (hm := by decide)) ?_
    | with_reducible refine (journal_keeps (hm := by decide)) ?_
    | with_reducible refine (jobAnswer_keeps (hm := by decide)) ?_
    | with_reducible refine (abortInstances_keeps (hm := by decide)) ?_
    | with_reducible refine keeps_if (fun _ => ?_) (fun _ => ?_)
    | with_reducible refine keeps_if_snd (fun _ => ?_) (fun _ => ?_)
    | dsimp only
    | split
    | (simp only [Prod.ext_iff] at *; casesm* _ ∧ _; subst_vars)

theorem execCompCommit_keeps {r : CtlReq} {s : State} : Keeps 0x200000d80000000001800740440045c00000000000040020000002d8172e400000 s (after (execCompCommit r s) s) := by
  unfold execCompCommit
  repeat' first
    | with_reducible exact Keeps.refl _ _
    | with_reducible refine (runCtl_keeps (hm := by decide) (h_own := fun _ => ?_)) ?_
    | with_reducible refine (commitOwn_keeps (hm := by decide)) ?_
    | with_reducible refine keeps_after_ctlOk ?_

theorem execCompCommitComplete_keeps {c : Nat} {s : State} : Keeps 0x200200d80000000001800740400000000000000000040020000002d81604000000 s (after (execCompCommitComplete c s) s) := by
  unfold execCompCommitComplete
  repeat' first
    | with_reducible exact Keeps.refl _ _
    | with_reducible refine (modComp_keeps (hm := by decide)) ?_
    | with_reducible refine (jobDone_keeps (hm := by decide)) ?_
    | with_reducible refine (failComp_keeps (hm := by decide)) ?_
    | with_reducible refine (keeps_foldl_snd (fun _ _ => ?_)) ?_
    | with_reducible refine (keeps_foldl_fst (fun _ _ => ?_)) ?_
    | with_reducible refine (keeps_foldl_third (fun _ _ => ?_)) ?_
    | with_reducible refine (keeps_foldl_mid (fun _ _ => ?_)) ?_
    | with_reducible refine (keeps_foldl (fun _ _ => ?_)) ?_
    | with_reducible refine keeps_if (fun _ => ?_) (fun _ => ?_)
    | with_reducible refine keeps_if_after (fun _ => ?_) (fun _ => ?_)
    | dsimp only
    | split
    | with_reducible refine keeps_after_fltOk ?_
    | (simp only [Prod.ext_iff] at *; casesm* _ ∧ _; subst_vars)

theorem rollbackOwn_keeps {r : CtlReq} {s : State} (hm : Sub 0x200000d80000000000800740400000000000000000040020000002d8160e400000 km) (hk :
    Keeps km kz s) : Keeps km kz (rollbackOwn r s) := by
  refine Keeps.lift hm ?_ hk
  unfold rollbackOwn
  repeat' first
    | with_reducible exact Keeps.refl _ _
    | with_reducible refine (ctlEnd_keeps (hm := by decide)) ?_
    | with_reducible refine (newJob_keeps (hm := by decide)) ?_
    | with_reducible refine (newJob_of_eq (heq := by assumption) (hm := by decide)) ?_
    | with_reducible refine (jobAnswer_keeps (hm := by decide)) ?_
    | with_reducible refine (endCompWork_keeps (hm := by decide)) ?_
    | with_reducible refine (modComp_keeps (hm := by decide)) ?_
    | with_reducible refine keeps_if (fun _ => ?_) (fun _ => ?_)
    | with_reducible refine keeps_if_snd (fun _ => ?_) (fun _ => ?_)
    | dsimp only
    | split
    | (simp only [Prod.ext_iff] at *; casesm* _ ∧ _; subst_vars)

theorem execCompRollback_keeps {r : CtlReq} {s : State} : Keeps 0x200000d80000000000800740400000000000000000040020000002d8172e400000 s (after (execCompRollback r s) s) := by
  unfold execCompRollback
  repeat' first
    | with_reducible exact Keeps.refl _ _
    | with_reducible refine (runCtl_keeps (hm := by decide) (h_own := fun _ => ?_)) ?_
    | with_reducible refine (rollbackOwn_keeps (hm := by decide)) ?_
    | with_reducible refine keeps_after_ctlOk ?_

theorem execCompRollbackComplete_keeps {c : Nat} {s : State} : Keeps 0x200000d80000000001800740440045c00000000000040020000002d81604000000 s (after (execCompRollbackComplete c s) s) := by
  unfold execCompRollbackComplete
  repeat' first
    | with_reducible exact Keeps.refl _ _
    | with_reducible refine (modComp_keeps (hm := by decide)) ?_
    | with_reducible refine (jobDone_keeps (hm := by decide)) ?_
    | with_reducible refine (journal_keeps (hm := by decide)) ?_
    | with_reducible refine (endCompWork_keeps (hm := by decide)) ?_
    | with_reducible refine (keeps_foldl_snd (fun _ _ => ?_)) ?_
    | with_reducible refine (keeps_foldl_fst (fun _ _ => ?_)) ?_
    | with_reducible refine (keeps_foldl_third (fun _ _ => ?_)) ?_
    | with_reducible refine (keeps_foldl_mid (fun _ _ => ?_)) ?_
    | with_reducible refine (keeps_foldl (fun _ _ => ?_)) ?_
    | with_reducible refine keeps_if (fun _ => ?_) (fun _ => ?_)
    | with_reducible refine keeps_if_after (fun _ => ?_) (fun _ => ?_)
    | dsimp only
    | split
    | with_reducible refine keeps_after_fltOk ?_
    | (simp only [Prod.ext_iff] at *; casesm* _ ∧ _; subst_vars)

theorem xferEnd_keeps {job : Nat} {st : BitVec 5} {old new : Nat} {s : State} (hm : Sub 0x800200000000000001800000000000000000000000000000000000000004000000 km) (hk :
    Keeps km kz s) : Keeps km kz (xferEnd job st old new s) := by
  refine Keeps.lift hm ?_ hk
  unfold xferEnd
  repeat' first
    | with_reducible exact Keeps.refl _ _
    | with_reducible refine (modFlt_keeps ?_) ?_
    | with_reducible refine (spEvent_keeps (hm := by decide)) ?_
    | with_reducible refine (jobDone_keeps (hm := by decide)) ?_
    | with_reducible refine (fltBit_keeps (hm := by decide)) ?_
    | with_reducible refine keeps_if (fun _ => ?_) (fun _ => ?_)
    | dsimp only
    | split
    | (constructor <;> first | exact .inl (by decide) | exact .inr rfl)

theorem xferAbort_keeps {x : Xfer} {s : State} (hm : Sub 0x18000000000800200d80000000001b80000040000008190d40067865260000002d81604000000 km) (hk :
    Keeps km kz s) : Keeps km kz (xferAbort x s) := by
  refine Keeps.lift hm ?_ hk
  unfold xferAbort
  repeat' first
    | with_reducible exact Keeps.refl _ _
    | with_reducible refine (modObj_keeps (hm := by decide)) ?_
    | with_reducible refine (xferEnd_keeps (hm := by decide)) ?_
    | with_reducible refine (resume_keeps (hm := by decide)) ?_
    | with_reducible refine keeps_if (fun _ => ?_) (fun _ => ?_)
    | dsimp only
    | split

theorem homeLostEvents_keeps {sw : Nat} {s : State} (hm : Sub 0x1800000000000000000000000000000000000000000000000 km) (hk :
    Keeps km kz s) : Keeps km kz (homeLostEvents sw s) := by
  refine Keeps.lift hm ?_ hk
  unfold homeLostEvents
  repeat' first
    | with_reducible exact Keeps.refl _ _
    | with_reducible refine (queueEntry_keeps (hm := by decide)) ?_
    | with_reducible refine (keeps_foldl_snd (fun _ _ => ?_)) ?_
    | with_reducible refine (keeps_foldl_fst (fun _ _ => ?_)) ?_
    | with_reducible refine (keeps_foldl_third (fun _ _ => ?_)) ?_
    | with_reducible refine (keeps_foldl_mid (fun _ _ => ?_)) ?_
    | with_reducible refine (keeps_foldl (fun _ _ => ?_)) ?_
    | with_reducible refine keeps_elim ?_ (fun _ => ?_)
    | with_reducible refine keeps_if (fun _ => ?_) (fun _ => ?_)
    | dsimp only
    | split
    | (simp only [Prod.ext_iff] at *; casesm* _ ∧ _; subst_vars)

theorem resendLost_keeps {d : Die} {sw : Nat} {s : State} (hm : Sub 0x800000000000000000000000040020000002d81600000000 km) (hk :
    Keeps km kz s) : Keeps km kz (resendLost d sw s) := by
  refine Keeps.lift hm ?_ hk
  unfold resendLost
  repeat' first
    | with_reducible exact Keeps.refl _ _
    | with_reducible refine (sendFrom_keeps (hm := by decide)) ?_
    | with_reducible refine (keeps_foldl_snd (fun _ _ => ?_)) ?_
    | with_reducible refine (keeps_foldl_fst (fun _ _ => ?_)) ?_
    | with_reducible refine (keeps_foldl_third (fun _ _ => ?_)) ?_
    | with_reducible refine (keeps_foldl_mid (fun _ _ => ?_)) ?_
    | with_reducible refine (keeps_foldl (fun _ _ => ?_)) ?_
    | dsimp only
    | (simp only [Prod.ext_iff] at *; casesm* _ ∧ _; subst_vars)

theorem xfersLost_keeps {sw : Nat} {s : State} (hm : Sub 0x18000000000800200d80000000001b80000040000008190d40067865260000002d81604000000 km) (hk :
    Keeps km kz s) : Keeps km kz (xfersLost sw s) := by
  refine Keeps.lift hm ?_ hk
  unfold xfersLost
  repeat' first
    | with_reducible exact Keeps.refl _ _
    | with_reducible refine (xferEnd_keeps (hm := by decide)) ?_
    | with_reducible refine (modObj_keeps (hm := by decide)) ?_
    | with_reducible refine (xferAbort_keeps (hm := by decide)) ?_
    | with_reducible refine (keeps_foldl_snd (fun _ _ => ?_)) ?_
    | with_reducible refine (keeps_foldl_fst (fun _ _ => ?_)) ?_
    | with_reducible refine (keeps_foldl_third (fun _ _ => ?_)) ?_
    | with_reducible refine (keeps_foldl_mid (fun _ _ => ?_)) ?_
    | with_reducible refine (keeps_foldl (fun _ _ => ?_)) ?_
    | with_reducible refine keeps_if (fun _ => ?_) (fun _ => ?_)
    | dsimp only
    | split
    | (simp only [Prod.ext_iff] at *; casesm* _ ∧ _; subst_vars)

theorem selfFence_keeps {s : State} (hm : Sub 0x240000000000001800000000000000000000000000000000000000000000000 km) (hk :
    Keeps km kz s) : Keeps km kz (selfFence s) := by
  refine Keeps.lift hm ?_ hk
  unfold selfFence
  repeat' first
    | with_reducible exact Keeps.refl _ _
    | with_reducible refine (spEvent_keeps (hm := by decide)) ?_
    | with_reducible refine (fltBit_keeps (hm := by decide)) ?_
    | with_reducible refine (modFlt_keeps ?_) ?_
    | with_reducible refine keeps_if (fun _ => ?_) (fun _ => ?_)
    | dsimp only
    | split
    | (constructor <;> first | exact .inl (by decide) | exact .inr rfl)

theorem dropStreams_keeps {sw : Nat} {s : State} (hm : Sub 0x2480a00000000 km) (hk : Keeps km kz s) : Keeps km kz (dropStreams sw s) := by
  refine Keeps.lift hm ?_ hk
  unfold dropStreams
  repeat' first
    | with_reducible exact Keeps.refl _ _
    | with_reducible refine (letGo_keeps (hm := by decide)) ?_
    | with_reducible refine (modLft_keeps ?_) ?_
    | with_reducible refine (keeps_foldl_snd (fun _ _ => ?_)) ?_
    | with_reducible refine (keeps_foldl_fst (fun _ _ => ?_)) ?_
    | with_reducible refine (keeps_foldl_third (fun _ _ => ?_)) ?_
    | with_reducible refine (keeps_foldl_mid (fun _ _ => ?_)) ?_
    | with_reducible refine (keeps_foldl (fun _ _ => ?_)) ?_
    | dsimp only
    | (constructor <;> first | exact .inl (by decide) | exact .inr rfl)
    | (simp only [Prod.ext_iff] at *; casesm* _ ∧ _; subst_vars)

theorem applySwitch_keeps {sw : Nat} {st : SwitchSt} {to_ : Nat} {s : State} (hm : Sub 0x18000000000a00244d80000000001b80740440000008190d40067865260000002d81e04000000 km) (hk :
    Keeps km kz s) : Keeps km kz (applySwitch sw st to_ s) := by
  refine Keeps.lift hm ?_ hk
  unfold applySwitch
  repeat' first
    | with_reducible exact Keeps.refl _ _
    | with_reducible refine (modFlt_keeps ?_) ?_
    | with_reducible refine (selfFence_keeps (hm := by decide)) ?_
    | with_reducible refine (dropStreams_keeps (hm := by decide)) ?_
    | with_reducible refine (xfersLost_keeps (hm := by decide)) ?_
    | with_reducible refine (failComps_keeps (hm := by decide)) ?_
    | with_reducible refine (spEvent_keeps (hm := by decide)) ?_
    | with_reducible refine (fltBit_keeps (hm := by decide)) ?_
    | with_reducible refine (homeLostEvents_keeps (hm := by decide)) ?_
    | with_reducible refine (abortInstances_keeps (hm := by decide)) ?_
    | with_reducible refine (resendLost_keeps (hm := by decide)) ?_
    | with_reducible refine keeps_elim ?_ (fun _ => ?_)
    | with_reducible refine keeps_if (fun _ => ?_) (fun _ => ?_)
    | dsimp only
    | split
    | (constructor <;> first | exact .inl (by decide) | exact .inr rfl)

theorem fenceOnDie_keeps {d : Die} {ep : Nat} {s : State} (hm : Sub 0x18000000000800000d80000000001b81740440000008190d4006f865260000002d81600000000 km) (hk :
    Keeps km kz s) : Keeps km kz (fenceOnDie d ep s) := by
  refine Keeps.lift hm ?_ hk
  unfold fenceOnDie
  repeat' first
    | with_reducible exact Keeps.refl _ _
    | with_reducible refine (fenceHome_keeps (hm := by first | decide | (simp only [StReg.mask]; decide))) ?_
    | with_reducible refine (stopOps_keeps (hm := by first | decide | (simp only [StReg.mask]; decide))) ?_
    | with_reducible refine (setStatus_keeps (hm := by first | decide | (simp only [StReg.mask]; decide))) ?_
    | with_reducible refine (abortInstances_keeps (hm := by first | decide | (simp only [StReg.mask]; decide))) ?_
    | with_reducible refine keeps_if (fun _ => ?_) (fun _ => ?_)
    | dsimp only
    | split

theorem applyFence_keeps {ep : Nat} {e : BitVec 16} {s : State} (hm : Sub 0x18000000000a80208d80000000001b81740440000008190d4006f865260000002d81602000000 km) (hk :
    Keeps km kz s) : Keeps km kz (applyFence ep e s) := by
  refine Keeps.lift hm ?_ hk
  unfold applyFence
  repeat' first
    | with_reducible exact Keeps.refl _ _
    | with_reducible refine (modFlt_keeps ?_) ?_
    | with_reducible refine (modCfg_keeps ?_) ?_
    | with_reducible refine (failComps_keeps (hm := by decide)) ?_
    | with_reducible refine (fenceOnDie_keeps (hm := by decide)) ?_
    | with_reducible refine keeps_if (fun _ => ?_) (fun _ => ?_)
    | dsimp only
    | split
    | (constructor <;> first | exact .inl (by decide) | exact .inr rfl)

theorem applyPromote_keeps {n : Nat} {s : State} (hm : Sub 0x400000000000000001800000000000000000000000002000000000000004000000 km) (hk :
    Keeps km kz s) : Keeps km kz (applyPromote n s) := by
  refine Keeps.lift hm ?_ hk
  unfold applyPromote
  repeat' first
    | with_reducible exact Keeps.refl _ _
    | with_reducible refine (modHome_keeps ?_) ?_
    | with_reducible refine (spEvent_keeps (hm := by decide)) ?_
    | with_reducible refine (modFlt_keeps ?_) ?_
    | with_reducible refine (jobDone_keeps (hm := by decide)) ?_
    | with_reducible refine keeps_elim ?_ (fun _ => ?_)
    | with_reducible refine keeps_if (fun _ => ?_) (fun _ => ?_)
    | dsimp only
    | split
    | (constructor <;> first | exact .inl (by decide) | exact .inr rfl)
    | (simp only [Prod.ext_iff] at *; casesm* _ ∧ _; subst_vars)

theorem applyMapChange_keeps {c : MapChange} {s : State} (hm : Sub 0x18000000000e8024cd80000000001b81740440000008190d4006f867260000002d81e06000000 km) (hk :
    Keeps km kz s) : Keeps km kz (applyMapChange c s) := by
  refine Keeps.lift hm ?_ hk
  unfold applyMapChange
  repeat' first
    | with_reducible exact Keeps.refl _ _
    | with_reducible refine (applySwitch_keeps (hm := by decide)) ?_
    | with_reducible refine (applyFence_keeps (hm := by decide)) ?_
    | with_reducible refine (applyPromote_keeps (hm := by decide)) ?_
    | with_reducible refine keeps_if (fun _ => ?_) (fun _ => ?_)
    | split

theorem applyGeneration_keeps {gen : Nat} {changes : List MapChange} {s : State} (hm : Sub 0x18000000000e8025cd80000000001b81740440045c08190d4006f867260000002d81e06000000 km) (hk :
    Keeps km kz s) : Keeps km kz (applyGeneration gen changes s) := by
  refine Keeps.lift hm ?_ hk
  unfold applyGeneration
  repeat' first
    | with_reducible exact Keeps.refl _ _
    | with_reducible refine (journal_keeps (hm := by decide)) ?_
    | with_reducible refine (modFlt_keeps ?_) ?_
    | with_reducible refine (applyMapChange_keeps (hm := by decide)) ?_
    | with_reducible refine (keeps_foldl_snd (fun _ _ => ?_)) ?_
    | with_reducible refine (keeps_foldl_fst (fun _ _ => ?_)) ?_
    | with_reducible refine (keeps_foldl_third (fun _ _ => ?_)) ?_
    | with_reducible refine (keeps_foldl_mid (fun _ _ => ?_)) ?_
    | with_reducible refine (keeps_foldl (fun _ _ => ?_)) ?_
    | with_reducible refine keeps_if (fun _ => ?_) (fun _ => ?_)
    | dsimp only
    | split
    | (constructor <;> first | exact .inl (by decide) | exact .inr rfl)
    | (simp only [Prod.ext_iff] at *; casesm* _ ∧ _; subst_vars)

theorem promoteOwn_keeps {r : CtlReq} {s : State} (hm : Sub 0x800000000000000000000000040020000002d8160e408000 km) (hk :
    Keeps km kz s) : Keeps km kz (promoteOwn r s) := by
  refine Keeps.lift hm ?_ hk
  unfold promoteOwn
  repeat' first
    | with_reducible exact Keeps.refl _ _
    | with_reducible refine (ctlEnd_keeps (hm := by decide)) ?_
    | with_reducible refine (newJob_keeps (hm := by decide)) ?_
    | with_reducible refine (newJob_of_eq (heq := by assumption) (hm := by decide)) ?_
    | with_reducible refine (jobAnswer_keeps (hm := by decide)) ?_
    | with_reducible refine (countGen_keeps (hm := by decide)) ?_
    | with_reducible refine keeps_elim ?_ (fun _ => ?_)
    | with_reducible refine keeps_if (fun _ => ?_) (fun _ => ?_)
    | with_reducible refine keeps_if_snd (fun _ => ?_) (fun _ => ?_)
    | dsimp only
    | split
    | (simp only [Prod.ext_iff] at *; casesm* _ ∧ _; subst_vars)

theorem execReplicaPromote_keeps {r : CtlReq} {s : State} : Keeps 0x800000000000000000000000040020000002d8172e408000 s (after (execReplicaPromote r s) s) := by
  unfold execReplicaPromote
  repeat' first
    | with_reducible exact Keeps.refl _ _
    | with_reducible refine (runCtl_keeps (hm := by decide) (h_own := fun _ => ?_)) ?_
    | with_reducible refine (promoteOwn_keeps (hm := by decide)) ?_
    | with_reducible refine keeps_after_ctlOk ?_

theorem execHeartbeatSend_keeps {s : State} : Keeps 0x2000020000000000000000000000000000000000000000000000000000000000000 s (after (execHeartbeatSend s) s) := by
  unfold execHeartbeatSend
  repeat' first
    | with_reducible exact Keeps.refl _ _
    | with_reducible refine (modFlt_keeps ?_) ?_
    | dsimp only
    | with_reducible refine keeps_after_fltOk ?_
    | (constructor <;> first | exact .inl (by decide) | exact .inr rfl)

theorem execHeartbeat_keeps {sw : Nat} {s : State} : Keeps 0x2000020000000000000000000000000000000000000000000000000000000000000 s (after (execHeartbeat sw s) s) := by
  unfold execHeartbeat
  repeat' first
    | with_reducible exact Keeps.refl _ _
    | with_reducible refine (modFlt_keeps ?_) ?_
    | with_reducible refine keeps_if (fun _ => ?_) (fun _ => ?_)
    | with_reducible refine keeps_if_after (fun _ => ?_) (fun _ => ?_)
    | dsimp only
    | split
    | with_reducible refine keeps_after_fltOk ?_
    | (constructor <;> first | exact .inl (by decide) | exact .inr rfl)

theorem execLeaseLoss_keeps {s : State} : Keeps 0x240000000000001800000000000000000000000000000000000000000000000 s (after (execLeaseLoss s) s) := by
  unfold execLeaseLoss
  repeat' first
    | with_reducible exact Keeps.refl _ _
    | with_reducible refine (selfFence_keeps (hm := by decide)) ?_
    | with_reducible refine keeps_after_fltOk ?_

theorem renumber_keeps {s : State} (hm : Sub 0x400000000 km) (hk : Keeps km kz s) : Keeps km kz (renumber s) := by
  refine Keeps.lift hm ?_ hk
  unfold renumber
  repeat' first
    | with_reducible exact Keeps.refl _ _
    | with_reducible refine (modLft_keeps ?_) ?_
    | dsimp only
    | (constructor <;> first | exact .inl (by decide) | exact .inr rfl)

theorem execLeaseRegain_keeps {s : State} : Keeps 0x54000000000001800000040045c00000000000003000000000000400000000 s (after (execLeaseRegain s) s) := by
  unfold execLeaseRegain
  repeat' first
    | with_reducible exact Keeps.refl _ _
    | with_reducible refine (spEvent_keeps (hm := by decide)) ?_
    | with_reducible refine (modFlt_keeps ?_) ?_
    | with_reducible refine (renumber_keeps (hm := by decide)) ?_
    | with_reducible refine (modHome_keeps ?_) ?_
    | with_reducible refine (journal_keeps (hm := by decide)) ?_
    | with_reducible refine keeps_if (fun _ => ?_) (fun _ => ?_)
    | with_reducible refine keeps_if_after (fun _ => ?_) (fun _ => ?_)
    | dsimp only
    | split
    | with_reducible refine keeps_after_fltOk ?_
    | (constructor <;> first | exact .inl (by decide) | exact .inr rfl)
    | (simp only [Prod.ext_iff] at *; casesm* _ ∧ _; subst_vars)

theorem revokeProgress_keeps {e : ExtV} {s : State} (hm : Sub 0x1800000000000000000c40067844060000002d81600000000 km) (hk :
    Keeps km kz s) : Keeps km kz (revokeProgress e s) := by
  refine Keeps.lift hm ?_ hk
  unfold revokeProgress
  repeat' first
    | with_reducible exact Keeps.refl _ _
    | with_reducible refine (modHome_keeps ?_) ?_
    | with_reducible refine (startRecall_keeps (hm := by decide)) ?_
    | with_reducible refine (modTier_keeps ?_) ?_
    | with_reducible refine (ccWriteback_keeps (hm := by decide)) ?_
    | with_reducible refine (keeps_foldl_snd (fun _ _ => ?_)) ?_
    | with_reducible refine (keeps_foldl_fst (fun _ _ => ?_)) ?_
    | with_reducible refine (keeps_foldl_third (fun _ _ => ?_)) ?_
    | with_reducible refine (keeps_foldl_mid (fun _ _ => ?_)) ?_
    | with_reducible refine (keeps_foldl (fun _ _ => ?_)) ?_
    | with_reducible refine keeps_if (fun _ => ?_) (fun _ => ?_)
    | dsimp only
    | split
    | (constructor <;> first | exact .inl (by decide) | exact .inr rfl)
    | (simp only [Prod.ext_iff] at *; casesm* _ ∧ _; subst_vars)

theorem setRevoking_keeps {d : Die} {i : Nat} {s : State} (hm : Sub 0x8000000000000000000000000000000 km) (hk :
    Keeps km kz s) : Keeps km kz (setRevoking d i s) := by
  refine Keeps.lift hm ?_ hk
  unfold setRevoking
  repeat' first
    | with_reducible exact Keeps.refl _ _
    | with_reducible refine (modExt_keeps (hm := by decide)) ?_
    | dsimp only

theorem revokeOwn_keeps {r : CtlReq} {s : State} (hm : Sub 0x1800000000000000008c40067844060000002d8168e408000 km) (hk :
    Keeps km kz s) : Keeps km kz (revokeOwn r s) := by
  refine Keeps.lift hm ?_ hk
  unfold revokeOwn
  repeat' first
    | with_reducible exact Keeps.refl _ _
    | with_reducible refine (ctlEnd_keeps (hm := by decide)) ?_
    | with_reducible refine (newJob_keeps (hm := by decide)) ?_
    | with_reducible refine (newJob_of_eq (heq := by assumption) (hm := by decide)) ?_
    | with_reducible refine (countGen_keeps (hm := by decide)) ?_
    | with_reducible refine (modExt_keeps (hm := by decide)) ?_
    | with_reducible refine (setRevoking_keeps (hm := by decide)) ?_
    | with_reducible refine (revokeProgress_keeps (hm := by decide)) ?_
    | with_reducible refine (modCfg_keeps ?_) ?_
    | with_reducible refine (holdRsp_keeps (hm := by decide)) ?_
    | with_reducible refine keeps_if (fun _ => ?_) (fun _ => ?_)
    | with_reducible refine keeps_if_snd (fun _ => ?_) (fun _ => ?_)
    | dsimp only
    | split
    | (constructor <;> first | exact .inl (by decide) | exact .inr rfl)
    | (simp only [Prod.ext_iff] at *; casesm* _ ∧ _; subst_vars)

theorem execExtRevoke_keeps {r : CtlReq} {s : State} : Keeps 0x1800000000000000008c40067844060000002d817ae408000 s (after (execExtRevoke r s) s) := by
  unfold execExtRevoke
  repeat' first
    | with_reducible exact Keeps.refl _ _
    | with_reducible refine (runCtl_keeps (hm := by decide) (h_own := fun _ => ?_)) ?_
    | with_reducible refine (revokeOwn_keeps (hm := by decide)) ?_
    | with_reducible refine keeps_after_ctlOk ?_

theorem execExtRevokeStalkApply_keeps {i : Nat} {s : State} : Keeps 0x1800000000000000008c40067844060000002d81680000000 s (after (execExtRevokeStalkApply i s) s) := by
  unfold execExtRevokeStalkApply
  repeat' first
    | with_reducible exact Keeps.refl _ _
    | with_reducible refine (revokeProgress_keeps (hm := by decide)) ?_
    | with_reducible refine (setRevoking_keeps (hm := by decide)) ?_
    | with_reducible refine (sendCtlRsp_keeps (hm := by decide)) ?_
    | with_reducible refine (modCfg_keeps ?_) ?_
    | with_reducible refine keeps_if (fun _ => ?_) (fun _ => ?_)
    | with_reducible refine keeps_if_after (fun _ => ?_) (fun _ => ?_)
    | dsimp only
    | split
    | with_reducible refine keeps_after_fltOk ?_
    | (constructor <;> first | exact .inl (by decide) | exact .inr rfl)
    | (simp only [Prod.ext_iff] at *; casesm* _ ∧ _; subst_vars)

theorem execExtentRevoked_keeps {i : Nat} {s : State} : Keeps 0x1800000000000000008c40067844060000002d81604000000 s (after (execExtentRevoked i s) s) := by
  unfold execExtentRevoked
  repeat' first
    | with_reducible exact Keeps.refl _ _
    | with_reducible refine (revokeProgress_keeps (hm := by decide)) ?_
    | with_reducible refine (modTier_keeps ?_) ?_
    | with_reducible refine (modExt_keeps (hm := by decide)) ?_
    | with_reducible refine (jobDone_keeps (hm := by decide)) ?_
    | with_reducible refine (event_keeps (hm := by decide)) ?_
    | with_reducible refine keeps_if (fun _ => ?_) (fun _ => ?_)
    | with_reducible refine keeps_if_after (fun _ => ?_) (fun _ => ?_)
    | dsimp only
    | split
    | with_reducible refine keeps_after_fltOk ?_
    | (constructor <;> first | exact .inl (by decide) | exact .inr rfl)
    | (simp only [Prod.ext_iff] at *; casesm* _ ∧ _; subst_vars)

theorem loseObj_keeps {d : Die} {id : Nat} {s0 : State} (hm : Sub 0x18000000000a00200d80000000001b80740440045c08191d48067865260000002d81600000000 km) (hk :
    Keeps km kz s0) : Keeps km kz (loseObj d id s0) := by
  refine Keeps.lift hm ?_ hk
  clear hk
  unfold loseObj
  extract_lets poisonT s
  clear_value poisonT
  have k0 : Keeps 0x18000000000a00200d80000000001b80740440045c08191d48067865260000002d81600000000 s0 s := by
    show Keeps _ _ (match moveOf s0 d id with | some m => _ | none => _)
    split
    · exact (endMove_keeps (by decide)) (Keeps.refl _ _)
    · exact Keeps.refl _ _
  clear_value s
  split
  · exact k0
  · rename_i o _
    split
    · rename_i e tier loc _
      extract_lets n s1 s2 s3 s4
      have k1 : Keeps 0x18000000000a00200d80000000001b80740440045c08191d48067865260000002d81600000000 s0 s1 := (dropCharge_keeps (by decide)) ((takeCharge_keeps (by decide)) k0)
      have k2 : Keeps 0x18000000000a00200d80000000001b80740440045c08191d48067865260000002d81600000000 s0 s2 := keeps_if (fun _ => (unmapUnits_keeps (by decide)) k1) (fun _ => k1)
      have k3 : Keeps 0x18000000000a00200d80000000001b80740440045c08191d48067865260000002d81600000000 s0 s3 := (modObj_keeps (by decide)) k2
      have k4 : Keeps 0x18000000000a00200d80000000001b80740440045c08191d48067865260000002d81600000000 s0 s4 := set_mem_poison_keeps (by decide) (by decide) memWf_memClear k3
      clear_value s4
      exact (journalObj_keeps (by decide)) ((setStatus_keeps (by simp only [StReg.mask]; decide)) k4)
    · have k1 : Keeps 0x18000000000a00200d80000000001b80740440045c08191d48067865260000002d81600000000 s0 (modObj s id (fun x => { x with homeLost := true })) := (modObj_keeps (by decide)) k0
      split
      · exact (failComp_keeps (by decide)) k1
      · exact k1

theorem loseExtent_keeps {d : Die} {e : ExtV} {s : State} (hm : Sub 0x200200d80000000001800740400000000008000000040020000002d81600000000 km) (hk :
    Keeps km kz s) : Keeps km kz (loseExtent d e s) := by
  refine Keeps.lift hm ?_ hk
  unfold loseExtent
  repeat' first
    | with_reducible exact Keeps.refl _ _
    | with_reducible refine (modExt_keeps (hm := by decide)) ?_
    | with_reducible refine (setRevoking_keeps (hm := by decide)) ?_
    | with_reducible refine (failComp_keeps (hm := by decide)) ?_
    | with_reducible refine keeps_if (fun _ => ?_) (fun _ => ?_)
    | dsimp only
    | split

theorem settleLost_keeps {d : Die} {s : State} (hm : Sub 0x18000000000800000d80000000001b80000040000008190d40067865260000002d81600000000 km) (hk :
    Keeps km kz s) : Keeps km kz (settleLost d s) := by
  refine Keeps.lift hm ?_ hk
  unfold settleLost
  repeat' first
    | with_reducible exact Keeps.refl _ _
    | with_reducible refine (settleBehind_keeps (hm := by decide)) ?_
    | with_reducible refine (refuse_keeps (hm := by decide)) ?_
    | with_reducible refine (dropWaiting_keeps (hm := by decide)) ?_
    | with_reducible refine (serve_keeps (hm := by decide)) ?_
    | with_reducible refine (keeps_foldl_snd (fun _ _ => ?_)) ?_
    | with_reducible refine (keeps_foldl_fst (fun _ _ => ?_)) ?_
    | with_reducible refine (keeps_foldl_third (fun _ _ => ?_)) ?_
    | with_reducible refine (keeps_foldl_mid (fun _ _ => ?_)) ?_
    | with_reducible refine (keeps_foldl (fun _ _ => ?_)) ?_
    | with_reducible refine keeps_if (fun _ => ?_) (fun _ => ?_)
    | dsimp only
    | split
    | (simp only [Prod.ext_iff] at *; casesm* _ ∧ _; subst_vars)

theorem unformat_keeps {port : Nat} {s : State} (hm : Sub 0x80000000000000000000000000000000 km) (hk :
    Keeps km kz s) : Keeps km kz (unformat port s) := by
  refine Keeps.lift hm ?_ hk
  unfold unformat
  repeat' first
    | with_reducible exact Keeps.refl _ _
    | with_reducible refine (set_vols_keeps (by decide)) ?_
    | with_reducible refine keeps_elim ?_ (fun _ => ?_)
    | with_reducible refine keeps_if (fun _ => ?_) (fun _ => ?_)
    | dsimp only
    | split

theorem execTrayLost_keeps {port : Nat} {s : State} : Keeps 0x18000000001a00200d80000000001b80740440045c0f599d48067865260000002d81600000000 s (after (execTrayLost port s) s) := by
  unfold execTrayLost
  repeat' first
    | with_reducible exact Keeps.refl _ _
    | with_reducible refine (fltBit_keeps (hm := by decide)) ?_
    | with_reducible refine (modFlt_keeps ?_) ?_
    | with_reducible refine (modTier_keeps ?_) ?_
    | with_reducible refine (modFtl_keeps ?_) ?_
    | with_reducible refine (endMove_keeps (hm := by decide)) ?_
    | with_reducible refine (copyFails_keeps (hm := by decide)) ?_
    | with_reducible refine (unformat_keeps (hm := by decide)) ?_
    | with_reducible refine (loseObj_keeps (hm := by decide)) ?_
    | with_reducible refine (loseExtent_keeps (hm := by decide)) ?_
    | with_reducible refine (revokeProgress_keeps (hm := by decide)) ?_
    | with_reducible refine (settleLost_keeps (hm := by decide)) ?_
    | with_reducible refine (keeps_foldl_snd (fun _ _ => ?_)) ?_
    | with_reducible refine (keeps_foldl_fst (fun _ _ => ?_)) ?_
    | with_reducible refine (keeps_foldl_third (fun _ _ => ?_)) ?_
    | with_reducible refine (keeps_foldl_mid (fun _ _ => ?_)) ?_
    | with_reducible refine (keeps_foldl (fun _ _ => ?_)) ?_
    | with_reducible refine keeps_elim ?_ (fun _ => ?_)
    | with_reducible refine keeps_if (fun _ => ?_) (fun _ => ?_)
    | with_reducible refine keeps_if_after (fun _ => ?_) (fun _ => ?_)
    | dsimp only
    | split
    | with_reducible refine keeps_after_fltOk ?_
    | (constructor <;> first | exact .inl (by decide) | exact .inr rfl)
    | (simp only [Prod.ext_iff] at *; casesm* _ ∧ _; subst_vars)
    | (simp only [id, Keeps.refl]; done)

theorem xferVerdict_keeps {s : State} (hm : Sub 0x20000000000000000000000000000000000000000000000000000000000000000000000000000 km) (hk :
    Keeps km kz s) : Keeps km kz (xferVerdict s).2 := by
  refine Keeps.lift hm ?_ hk
  unfold xferVerdict
  repeat' first
    | with_reducible exact Keeps.refl _ _
    | with_reducible refine (drawFree_keeps (hm := by decide)) ?_
    | with_reducible refine (drawFree_of_eq (heq := by assumption) (hm := by decide)) ?_
    | with_reducible refine keeps_if (fun _ => ?_) (fun _ => ?_)
    | with_reducible refine keeps_if_snd (fun _ => ?_) (fun _ => ?_)
    | dsimp only
    | split
    | (simp only [Prod.ext_iff] at *; casesm* _ ∧ _; subst_vars)

theorem xferVerdict_of_eq {s : State}{v0} {v1 : State} (heq : xferVerdict s = (v0, v1)) (hm : Sub 0x20000000000000000000000000000000000000000000000000000000000000000000000000000 km) (hk :
    Keeps km kz s) : Keeps km kz v1 := by
  have h := xferVerdict_keeps (kz := kz) (s := s) hm hk
  rw [heq] at h
  exact h

theorem xferGo_keeps {ep : Nat} {s : State} (hm : Sub 0x38000000000840200000000000001800000040045c08193c00000040060000002d8160c000000 km) (hk :
    Keeps km kz s) : Keeps km kz (xferGo ep s).2 := by
  refine Keeps.lift hm ?_ hk
  clear hk
  unfold xferGo
  refine keeps_if_snd (fun _ => Keeps.refl _ _) (fun _ => ?_)
  extract_lets h dst ext epoch
  clear_value h dst ext epoch
  split
  rename_i n s0 h0
  have k0 : Keeps 0x38000000000840200000000000001800000040045c08193c00000040060000002d8160c000000 s s0 := (newJob_of_eq h0 (by decide)) (Keeps.refl _ _)
  extract_lets s1
  have k1 : Keeps 0x38000000000840200000000000001800000040045c08193c00000040060000002d8160c000000 s s1 := by
    refine (modFlt_keeps ?_) k0
    constructor <;> first | exact .inl (by decide) | exact .inr rfl
  clear_value s1
  split
  · exact (xferEnd_keeps (by decide)) k1
  · split
    · rename_i s2 h2
      exact (xferEnd_keeps (by decide)) ((xferVerdict_of_eq h2 (by decide)) k1)
    · rename_i s2 h2
      have k2 : Keeps 0x38000000000840200000000000001800000040045c08193c00000040060000002d8160c000000 s s2 := (xferVerdict_of_eq h2 (by decide)) k1
      extract_lets d s3
      have k3 : Keeps 0x38000000000840200000000000001800000040045c08193c00000040060000002d8160c000000 s s3 := by
        refine (journal_keeps (by decide)) ((modObj_keeps (by decide)) ((modFlt_keeps ?_) k2))
        constructor <;> first | exact .inl (by decide) | exact .inr rfl
      clear_value s3
      exact keeps_elim k3 (fun _ => startCopy_keeps (by decide) k3)

theorem xferGo_of_eq {ep : Nat} {s : State}{v0} {v1 : State} (heq : xferGo ep s = (v0, v1)) (hm : Sub 0x38000000000840200000000000001800000040045c08193c00000040060000002d8160c000000 km) (hk :
    Keeps km kz s) : Keeps km kz v1 := by
  have h := xferGo_keeps (kz := kz) (s := s) hm hk (ep := ep)
  rw [heq] at h
  exact h

theorem execXferIn_keeps {x : XferIn} {s : State} : Keeps 0x18000000000000000980000000001800000040045c081b3c00000040060000002d81600000000 s (after (execXferIn x s) s) := by
  unfold execXferIn
  refine keeps_if_after (fun _ => keeps_after_fltOk (Keeps.refl _ _)) (fun _ => ?_)
  split
  · exact keeps_after_fltOk (Keeps.refl _ _)
  · rename_i e _
    split
    · rename_i id loc off _ _ _
      refine keeps_if_after (fun _ => keeps_after_fltOk (Keeps.refl _ _)) (fun _ => ?_)
      extract_lets addr o s1 s2
      clear_value o addr
      have k1 : Keeps 0x18000000000000000980000000001800000040045c081b3c00000040060000002d81600000000 s s1 := (writeMem_keeps (by decide)) ((makeObj_keeps (by decide)) (Keeps.refl _ _))
      have k2 : Keeps 0x18000000000000000980000000001800000040045c081b3c00000040060000002d81600000000 s s2 := (set_poison_keeps (by decide)) k1
      clear_value s2
      exact keeps_after_fltOk ((journal_keeps (by decide)) ((startCopy_keeps (by decide)) k2))
    · exact keeps_after_fltOk (Keeps.refl _ _)

theorem execXferSwitchover_keeps {job : Nat} {s : State} : Keeps 0x18000000000800200d80000000001b80000040045c08191d40067865260000002d81604000000 s (after (execXferSwitchover job s) s) := by
  unfold execXferSwitchover
  repeat' first
    | with_reducible exact Keeps.refl _ _
    | with_reducible refine (dropJob_keeps (hm := by decide)) ?_
    | with_reducible refine (xferAbort_keeps (hm := by decide)) ?_
    | with_reducible refine (journal_keeps (hm := by decide)) ?_
    | with_reducible refine (modFlt_keeps ?_) ?_
    | with_reducible refine keeps_elim ?_ (fun _ => ?_)
    | with_reducible refine keeps_if (fun _ => ?_) (fun _ => ?_)
    | with_reducible refine keeps_if_after (fun _ => ?_) (fun _ => ?_)
    | dsimp only
    | split
    | with_reducible refine keeps_after_fltOk ?_
    | (constructor <;> first | exact .inl (by decide) | exact .inr rfl)

theorem inboundResident_keeps {id : Nat} {s : State} (hm : Sub 0x1800000040045c00011000000000000000000000000000000 km) (hk :
    Keeps km kz s) : Keeps km kz (inboundResident id s) := by
  refine Keeps.lift hm ?_ hk
  unfold inboundResident
  repeat' first
    | with_reducible exact Keeps.refl _ _
    | with_reducible refine (journal_keeps (hm := by decide)) ?_
    | with_reducible refine (modObj_keeps (hm := by decide)) ?_
    | with_reducible refine (dropJob_keeps (hm := by decide)) ?_
    | with_reducible refine keeps_if (fun _ => ?_) (fun _ => ?_)
    | dsimp only
    | split
    | (simp only [id, Keeps.refl]; done)

theorem staleWaiting_keeps {d : Die} {id : Nat} {s : State} (hm : Sub 0x18000000000800000d80000000001b80000040000008190d40067865260000002d81600000000 km) (hk :
    Keeps km kz s) : Keeps km kz (staleWaiting d id s) := by
  refine Keeps.lift hm ?_ hk
  unfold staleWaiting
  repeat' first
    | with_reducible exact Keeps.refl _ _
    | with_reducible refine (settleBehind_keeps (hm := by decide)) ?_
    | with_reducible refine (refuse_keeps (hm := by decide)) ?_
    | with_reducible refine (dropWaiting_keeps (hm := by decide)) ?_
    | with_reducible refine (keeps_foldl_snd (fun _ _ => ?_)) ?_
    | with_reducible refine (keeps_foldl_fst (fun _ _ => ?_)) ?_
    | with_reducible refine (keeps_foldl_third (fun _ _ => ?_)) ?_
    | with_reducible refine (keeps_foldl_mid (fun _ _ => ?_)) ?_
    | with_reducible refine (keeps_foldl (fun _ _ => ?_)) ?_
    | dsimp only
    | (simp only [Prod.ext_iff] at *; casesm* _ ∧ _; subst_vars)
    | (simp only [id, Keeps.refl]; done)

theorem execXferCommitApply_keeps {job : Nat} {s : State} : Keeps 0x38000000000800200d80000000001b80000040045c08191d40067865260000002d81604000000 s (after (execXferCommitApply job s) s) := by
  unfold execXferCommitApply
  repeat' first
    | with_reducible exact Keeps.refl _ _
    | with_reducible refine (drawFree_keeps (hm := by decide)) ?_
    | with_reducible refine (drawFree_of_eq (heq := by assumption) (hm := by decide)) ?_
    | with_reducible refine (staleWaiting_keeps (hm := by decide)) ?_
    | with_reducible refine (xferEnd_keeps (hm := by decide)) ?_
    | with_reducible refine (dropObj_keeps (hm := by decide)) ?_
    | with_reducible refine (inboundResident_keeps (hm := by decide)) ?_
    | with_reducible refine keeps_if (fun _ => ?_) (fun _ => ?_)
    | with_reducible refine keeps_if_after (fun _ => ?_) (fun _ => ?_)
    | with_reducible refine keeps_if_snd (fun _ => ?_) (fun _ => ?_)
    | dsimp only
    | split
    | with_reducible refine keeps_after_fltOk ?_
    | (simp only [Prod.ext_iff] at *; casesm* _ ∧ _; subst_vars)

theorem execXferResolve_keeps {answers : List XferAnswer} {s : State} : Keeps 0x18000000000800200d80000000001b80000040045c08191d40067865260000002d81604000000 s (after (execXferResolve answers s) s) := by
  unfold execXferResolve
  repeat' first
    | with_reducible exact Keeps.refl _ _
    | with_reducible refine (inboundResident_keeps (hm := by decide)) ?_
    | with_reducible refine (dropObj_keeps (hm := by decide)) ?_
    | with_reducible refine (dropJob_keeps (hm := by decide)) ?_
    | with_reducible refine (xferAbort_keeps (hm := by decide)) ?_
    | with_reducible refine (keeps_foldl_snd (fun _ _ => ?_)) ?_
    | with_reducible refine (keeps_foldl_fst (fun _ _ => ?_)) ?_
    | with_reducible refine (keeps_foldl_third (fun _ _ => ?_)) ?_
    | with_reducible refine (keeps_foldl_mid (fun _ _ => ?_)) ?_
    | with_reducible refine (keeps_foldl (fun _ _ => ?_)) ?_
    | with_reducible refine keeps_if (fun _ => ?_) (fun _ => ?_)
    | with_reducible refine keeps_if_after (fun _ => ?_) (fun _ => ?_)
    | dsimp only
    | split
    | with_reducible refine keeps_after_fltOk ?_
    | (simp only [Prod.ext_iff] at *; casesm* _ ∧ _; subst_vars)

theorem pepSetOwn_keeps {r : CtlReq} {s : State} (hm : Sub 0x10000000000000000000800000000000000000000000040020000002d81602400000 km) (hk :
    Keeps km kz s) : Keeps km kz (pepSetOwn r s) := by
  refine Keeps.lift hm ?_ hk
  unfold pepSetOwn
  repeat' first
    | with_reducible exact Keeps.refl _ _
    | with_reducible refine (ctlEnd_keeps (hm := by decide)) ?_
    | with_reducible refine (modFlt_keeps ?_) ?_
    | with_reducible refine keeps_if (fun _ => ?_) (fun _ => ?_)
    | dsimp only
    | split
    | (constructor <;> first | exact .inl (by decide) | exact .inr rfl)

theorem execPepSet_keeps {r : CtlReq} {s : State} : Keeps 0x10000000000000000000800000000000000000000000040020000002d81722400000 s (after (execPepSet r s) s) := by
  unfold execPepSet
  repeat' first
    | with_reducible exact Keeps.refl _ _
    | with_reducible refine (runCtl_keeps (hm := by decide) (h_own := fun _ => ?_)) ?_
    | with_reducible refine (pepSetOwn_keeps (hm := by decide)) ?_
    | with_reducible refine keeps_after_ctlOk ?_

theorem pepClearOwn_keeps {r : CtlReq} {s : State} (hm : Sub 0x10000000000000000000800000000000000000000000040020000002d81602400000 km) (hk :
    Keeps km kz s) : Keeps km kz (pepClearOwn r s) := by
  refine Keeps.lift hm ?_ hk
  unfold pepClearOwn
  repeat' first
    | with_reducible exact Keeps.refl _ _
    | with_reducible refine (ctlEnd_keeps (hm := by decide)) ?_
    | with_reducible refine (modFlt_keeps ?_) ?_
    | with_reducible refine keeps_if (fun _ => ?_) (fun _ => ?_)
    | dsimp only
    | split
    | (constructor <;> first | exact .inl (by decide) | exact .inr rfl)

theorem execPepClear_keeps {r : CtlReq} {s : State} : Keeps 0x10000000000000000000800000000000000000000000040020000002d81722400000 s (after (execPepClear r s) s) := by
  unfold execPepClear
  repeat' first
    | with_reducible exact Keeps.refl _ _
    | with_reducible refine (runCtl_keeps (hm := by decide) (h_own := fun _ => ?_)) ?_
    | with_reducible refine (pepClearOwn_keeps (hm := by decide)) ?_
    | with_reducible refine keeps_after_ctlOk ?_

end Machine
end Sys2Proof
end

