-- ==== Sys2Proof/Laws/FrameFlash.lean ====
section
/-! SUPPORT. Frames of the functions of Machine/Flash.lean: the parts of the state that each may change, as a mask (Laws/Keeps.lean). -/

namespace Sys2Proof
namespace Machine
set_option linter.unusedTactic false
set_option linter.unreachableTactic false
set_option linter.tactic.unusedName false
variable {km : Nat} {kz : State}

theorem keeps_after_ftlOk {s d : State} (hk : Keeps km kz s) : Keeps km kz (after (ftlOk s) d) := hk

theorem openBlock_keeps {d : Die} {vol key : Nat} {slc : Bool} {s : State} (hm : Sub 0x1800000040045c00200000000000000000000000000000000 km) (hk :
    Keeps km kz s) : Keeps km kz (openBlock d vol key slc s) := by
  refine Keeps.lift hm ?_ hk
  unfold openBlock
  repeat' first
    | with_reducible exact Keeps.refl _ _
    | with_reducible refine (journal_keeps (hm := by decide)) ?_
    | with_reducible refine (modBlk_keeps (hm := by decide)) ?_
    | dsimp only

theorem makeDue_keeps {d : Die} {port : Nat} {kind : RelocKind} {key : Nat} {s : State} (hm : Sub 0x2000000000000000000000000000000000 km) (hk :
    Keeps km kz s) : Keeps km kz (makeDue d port kind key s) := by
  refine Keeps.lift hm ?_ hk
  unfold makeDue
  repeat' first
    | with_reducible exact Keeps.refl _ _
    | with_reducible refine (modFtl_keeps ?_) ?_
    | with_reducible refine keeps_if (fun _ => ?_) (fun _ => ?_)
    | dsimp only
    | split
    | (constructor <;> first | exact .inl (by decide) | exact .inr rfl)

theorem retireBlk_keeps {d : Die} {vol key : Nat} {s : State} (hm : Sub 0x1800000040045c02280000000000000000000000000000000 km) (hk :
    Keeps km kz s) : Keeps km kz (retireBlk d vol key s) := by
  refine Keeps.lift hm ?_ hk
  unfold retireBlk
  repeat' first
    | with_reducible exact Keeps.refl _ _
    | with_reducible refine (modVol_keeps (hm := by first | decide | (simp only [StReg.mask]; decide))) ?_
    | with_reducible refine (setStatus_keeps (hm := by first | decide | (simp only [StReg.mask]; decide))) ?_
    | with_reducible refine (journal_keeps (hm := by first | decide | (simp only [StReg.mask]; decide))) ?_
    | with_reducible refine (modBlk_keeps (hm := by first | decide | (simp only [StReg.mask]; decide))) ?_
    | with_reducible refine (makeDue_keeps (hm := by first | decide | (simp only [StReg.mask]; decide))) ?_
    | with_reducible refine (keeps_foldl_snd (fun _ _ => ?_)) ?_
    | with_reducible refine (keeps_foldl_fst (fun _ _ => ?_)) ?_
    | with_reducible refine (keeps_foldl_third (fun _ _ => ?_)) ?_
    | with_reducible refine (keeps_foldl_mid (fun _ _ => ?_)) ?_
    | with_reducible refine (keeps_foldl (fun _ _ => ?_)) ?_
    | with_reducible refine keeps_if (fun _ => ?_) (fun _ => ?_)
    | dsimp only
    | split
    | (simp only [Prod.ext_iff] at *; casesm* _ ∧ _; subst_vars)

theorem programPage_keeps {d : Die} {vol key : Nat} {units maps : List Nat} {reloc : Option RelocKind} {s : State} (hm : Sub 0x800000000000000e00c00000040060000002d81600000000 km) (hk :
    Keeps km kz s) : Keeps km kz (programPage d vol key units maps reloc s) := by
  refine Keeps.lift hm ?_ hk
  unfold programPage
  repeat' first
    | with_reducible exact Keeps.refl _ _
    | with_reducible refine (modFtl_keeps ?_) ?_
    | with_reducible refine (modBlk_keeps (hm := by decide)) ?_
    | with_reducible refine (askTray_keeps (hm := by decide)) ?_
    | with_reducible refine (keeps_foldl_snd (fun _ _ => ?_)) ?_
    | with_reducible refine (keeps_foldl_fst (fun _ _ => ?_)) ?_
    | with_reducible refine (keeps_foldl_third (fun _ _ => ?_)) ?_
    | with_reducible refine (keeps_foldl_mid (fun _ _ => ?_)) ?_
    | with_reducible refine (keeps_foldl (fun _ _ => ?_)) ?_
    | with_reducible refine keeps_if (fun _ => ?_) (fun _ => ?_)
    | dsimp only
    | split
    | (constructor <;> first | exact .inl (by decide) | exact .inr rfl)
    | (simp only [Prod.ext_iff] at *; casesm* _ ∧ _; subst_vars)
    | (simp only [id, Keeps.refl]; done)

theorem execSlcProgram_keeps {d : Die} {vol : Nat} {s : State} : Keeps 0x1800000040045c00f80c00000040060000002d81600000000 s (after (execSlcProgram d vol s) s) := by
  unfold execSlcProgram
  repeat' first
    | with_reducible exact Keeps.refl _ _
    | with_reducible refine (openBlock_keeps (hm := by decide)) ?_
    | with_reducible refine (modVol_keeps (hm := by decide)) ?_
    | with_reducible refine (modFtl_keeps ?_) ?_
    | with_reducible refine (programPage_keeps (hm := by decide)) ?_
    | with_reducible refine keeps_elim ?_ (fun _ => ?_)
    | with_reducible refine keeps_if (fun _ => ?_) (fun _ => ?_)
    | with_reducible refine keeps_if_after (fun _ => ?_) (fun _ => ?_)
    | dsimp only
    | split
    | with_reducible refine keeps_after_ftlOk ?_
    | (constructor <;> first | exact .inl (by decide) | exact .inr rfl)
    | (simp only [Prod.ext_iff] at *; casesm* _ ∧ _; subst_vars)
    | (simp only [id, Keeps.refl]; done)

theorem setMap_keeps {vol unit : Nat} {e : BitVec 64} {s : State} (hm : Sub 0x800000000000008080c00000040060000002d81600000000 km) (hk :
    Keeps km kz s) : Keeps km kz (setMap vol unit e s) := by
  refine Keeps.lift hm ?_ hk
  unfold setMap
  repeat' first
    | with_reducible exact Keeps.refl _ _
    | with_reducible refine (modVol_keeps (hm := by decide)) ?_
    | with_reducible refine (mapPut_keeps (hm := by decide)) ?_
    | with_reducible refine keeps_if (fun _ => ?_) (fun _ => ?_)
    | dsimp only
    | split

theorem resend_keeps {d : Die} {r : TrayReq} {s : State} (hm : Sub 0x800000000000000000000000040020000002d81600000000 km) (hk :
    Keeps km kz s) : Keeps km kz (resend d r s) := by
  refine Keeps.lift hm ?_ hk
  unfold resend
  repeat' first
    | with_reducible exact Keeps.refl _ _
    | with_reducible refine (sendPort_keeps (hm := by decide)) ?_

theorem execFlashTrayBusy_keeps {d : Die} {f : Frame} {s0 : State} : Keeps 0x800000000000000000000000040030000002d81600000000 s0 (after (execFlashTrayBusy d f s0) s0) := by
  unfold execFlashTrayBusy
  repeat' first
    | with_reducible exact Keeps.refl _ _
    | with_reducible refine (resend_keeps (hm := by decide)) ?_
    | with_reducible refine (takeAgent_keeps (hm := by decide)) ?_
    | with_reducible refine keeps_if (fun _ => ?_) (fun _ => ?_)
    | with_reducible refine keeps_if_after (fun _ => ?_) (fun _ => ?_)
    | split
    | with_reducible refine keeps_after_ftlOk ?_

theorem slcDone_keeps {d : Die} {p : Prog} {s : State} (hm : Sub 0x18000000000800000d80000000001b80000040045c08190d40067865260000002d81600000000 km) (hk :
    Keeps km kz s) : Keeps km kz (slcDone d p s) := by
  refine Keeps.lift hm ?_ hk
  unfold slcDone
  repeat' first
    | with_reducible exact Keeps.refl _ _
    | with_reducible refine (journal_keeps (hm := by decide)) ?_
    | with_reducible refine (setMap_keeps (hm := by decide)) ?_
    | with_reducible refine (modFtl_keeps ?_) ?_
    | with_reducible refine (resume_keeps (hm := by decide)) ?_
    | with_reducible refine (keeps_foldl_snd (fun _ _ => ?_)) ?_
    | with_reducible refine (keeps_foldl_fst (fun _ _ => ?_)) ?_
    | with_reducible refine (keeps_foldl_third (fun _ _ => ?_)) ?_
    | with_reducible refine (keeps_foldl_mid (fun _ _ => ?_)) ?_
    | with_reducible refine (keeps_foldl (fun _ _ => ?_)) ?_
    | with_reducible refine keeps_if (fun _ => ?_) (fun _ => ?_)
    | dsimp only
    | split
    | (constructor <;> first | exact .inl (by decide) | exact .inr rfl)
    | (simp only [Prod.ext_iff] at *; casesm* _ ∧ _; subst_vars)
    | (simp only [id, Keeps.refl]; done)

theorem modReloc_keeps {d : Die} {port : Nat} {kind : RelocKind} {g : Reloc → Reloc} {s : State} (hm : Sub 0x1000000000000000000000000000000000 km) (hk :
    Keeps km kz s) : Keeps km kz (modReloc d port kind g s) := by
  refine Keeps.lift hm ?_ hk
  unfold modReloc
  repeat' first
    | with_reducible exact Keeps.refl _ _
    | with_reducible refine (modFtl_keeps ?_) ?_
    | with_reducible refine keeps_if (fun _ => ?_) (fun _ => ?_)
    | dsimp only
    | split
    | (constructor <;> first | exact .inl (by decide) | exact .inr rfl)

theorem relocProgram_keeps {d : Die} {r : Reloc} {s : State} (hm : Sub 0x800000000000001e00c00000040060000002d81600000000 km) (hk :
    Keeps km kz s) : Keeps km kz (relocProgram d r s) := by
  refine Keeps.lift hm ?_ hk
  unfold relocProgram
  repeat' first
    | with_reducible exact Keeps.refl _ _
    | with_reducible refine (modReloc_keeps (hm := by decide)) ?_
    | with_reducible refine (programPage_keeps (hm := by decide)) ?_
    | dsimp only

theorem relocGo_keeps {d : Die} {port : Nat} {kind : RelocKind} {s : State} (hm : Sub 0x800000000000001e00c00000040060000002d81600000000 km) (hk :
    Keeps km kz s) : Keeps km kz (relocGo d port kind s) := by
  refine Keeps.lift hm ?_ hk
  unfold relocGo
  repeat' first
    | with_reducible exact Keeps.refl _ _
    | with_reducible refine (relocProgram_keeps (hm := by decide)) ?_
    | with_reducible refine (modReloc_keeps (hm := by decide)) ?_
    | with_reducible refine (startRead_keeps (hm := by decide)) ?_
    | with_reducible refine (keeps_foldl_snd (fun _ _ => ?_)) ?_
    | with_reducible refine (keeps_foldl_fst (fun _ _ => ?_)) ?_
    | with_reducible refine (keeps_foldl_third (fun _ _ => ?_)) ?_
    | with_reducible refine (keeps_foldl_mid (fun _ _ => ?_)) ?_
    | with_reducible refine (keeps_foldl (fun _ _ => ?_)) ?_
    | with_reducible refine keeps_if (fun _ => ?_) (fun _ => ?_)
    | dsimp only
    | split
    | (simp only [Prod.ext_iff] at *; casesm* _ ∧ _; subst_vars)

theorem relocRead_keeps {d : Die} {vol unit : Nat} {s : State} (hm : Sub 0x800000000000001e00c00000040060000002d81600000000 km) (hk :
    Keeps km kz s) : Keeps km kz (relocRead d vol unit s) := by
  refine Keeps.lift hm ?_ hk
  unfold relocRead
  repeat' first
    | with_reducible exact Keeps.refl _ _
    | with_reducible refine (relocGo_keeps (hm := by decide)) ?_
    | with_reducible refine (modReloc_keeps (hm := by decide)) ?_
    | with_reducible refine (keeps_foldl_snd (fun _ _ => ?_)) ?_
    | with_reducible refine (keeps_foldl_fst (fun _ _ => ?_)) ?_
    | with_reducible refine (keeps_foldl_third (fun _ _ => ?_)) ?_
    | with_reducible refine (keeps_foldl_mid (fun _ _ => ?_)) ?_
    | with_reducible refine (keeps_foldl (fun _ _ => ?_)) ?_
    | with_reducible refine keeps_if (fun _ => ?_) (fun _ => ?_)
    | dsimp only
    | split
    | (simp only [Prod.ext_iff] at *; casesm* _ ∧ _; subst_vars)

theorem areaGo_keeps {d : Die} {s : State} (hm : Sub 0x1800000040045c10e00c00000040060000002d81600000000 km) (hk :
    Keeps km kz s) : Keeps km kz (areaGo d s) := by
  refine Keeps.lift hm ?_ hk
  unfold areaGo
  repeat' first
    | with_reducible exact Keeps.refl _ _
    | with_reducible refine (modBlk_keeps (hm := by decide)) ?_
    | with_reducible refine (openBlock_keeps (hm := by decide)) ?_
    | with_reducible refine (programPage_keeps (hm := by decide)) ?_
    | with_reducible refine (modFtl_keeps ?_) ?_
    | with_reducible refine keeps_if (fun _ => ?_) (fun _ => ?_)
    | dsimp only
    | split
    | (constructor <;> first | exact .inl (by decide) | exact .inr rfl)
    | (simp only [Prod.ext_iff] at *; casesm* _ ∧ _; subst_vars)

theorem areaDone_keeps {d : Die} {p : Prog} {s : State} (hm : Sub 0x1800000040045c10e80c00000040060000002d81600000000 km) (hk :
    Keeps km kz s) : Keeps km kz (areaDone d p s) := by
  refine Keeps.lift hm ?_ hk
  unfold areaDone
  repeat' first
    | with_reducible exact Keeps.refl _ _
    | with_reducible refine (areaGo_keeps (hm := by decide)) ?_
    | with_reducible refine (modVol_keeps (hm := by decide)) ?_
    | with_reducible refine (keeps_foldl_snd (fun _ _ => ?_)) ?_
    | with_reducible refine (keeps_foldl_fst (fun _ _ => ?_)) ?_
    | with_reducible refine (keeps_foldl_third (fun _ _ => ?_)) ?_
    | with_reducible refine (keeps_foldl_mid (fun _ _ => ?_)) ?_
    | with_reducible refine (keeps_foldl (fun _ _ => ?_)) ?_
    | dsimp only
    | (simp only [Prod.ext_iff] at *; casesm* _ ∧ _; subst_vars)

theorem execSlcProgramDone_keeps {d : Die} {f : Frame} {s0 : State} : Keeps 0x18000000000800000d80000000001b80000040045c99f93d48067865270000002d81600000000 s0 (after (execSlcProgramDone d f s0) s0) := by
  unfold execSlcProgramDone
  repeat' first
    | with_reducible exact Keeps.refl _ _
    | with_reducible refine (dropTrayReq_keeps (hm := by decide)) ?_
    | with_reducible refine (takeAgent_keeps (hm := by decide)) ?_
    | with_reducible refine (modFtl_keeps ?_) ?_
    | with_reducible refine (modVol_keeps (hm := by decide)) ?_
    | with_reducible refine (relocGo_keeps (hm := by decide)) ?_
    | with_reducible refine (pump_keeps (hm := by decide)) ?_
    | with_reducible refine (slcDone_keeps (hm := by decide)) ?_
    | with_reducible refine (areaDone_keeps (hm := by decide)) ?_
    | with_reducible refine (modBlk_keeps (hm := by decide)) ?_
    | with_reducible refine keeps_if (fun _ => ?_) (fun _ => ?_)
    | with_reducible refine keeps_if_after (fun _ => ?_) (fun _ => ?_)
    | dsimp only
    | split
    | with_reducible refine keeps_after_ftlOk ?_
    | (constructor <;> first | exact .inl (by decide) | exact .inr rfl)
    | (simp only [Prod.ext_iff] at *; casesm* _ ∧ _; subst_vars)
    | (simp only [id, Keeps.refl]; done)

theorem relocStart_keeps {d : Die} {vol port : Nat} {kind : RelocKind} {sources left : List Nat} {group : Nat} {more : List Nat} {s : State} (hm : Sub 0x1800000040045c01e00c00000040060000002d81600000000 km) (hk :
    Keeps km kz s) : Keeps km kz (relocStart d vol port kind sources left group more s) := by
  refine Keeps.lift hm ?_ hk
  unfold relocStart
  repeat' first
    | with_reducible exact Keeps.refl _ _
    | with_reducible refine (openBlock_keeps (hm := by decide)) ?_
    | with_reducible refine (modFtl_keeps ?_) ?_
    | with_reducible refine (relocGo_keeps (hm := by decide)) ?_
    | with_reducible refine keeps_if (fun _ => ?_) (fun _ => ?_)
    | dsimp only
    | split
    | (constructor <;> first | exact .inl (by decide) | exact .inr rfl)
    | (simp only [Prod.ext_iff] at *; casesm* _ ∧ _; subst_vars)

theorem execProgramAborted_keeps {d : Die} {f : Frame} {s0 : State} : Keeps 0x1800000040045c13f80c00000040070000002d81600000000 s0 (after (execProgramAborted d f s0) s0) := by
  unfold execProgramAborted
  repeat' first
    | with_reducible exact Keeps.refl _ _
    | with_reducible refine (takeAgent_keeps (hm := by first | decide | (simp only [StReg.mask]; decide))) ?_
    | with_reducible refine (dropTrayReq_keeps (hm := by first | decide | (simp only [StReg.mask]; decide))) ?_
    | with_reducible refine (modTier_keeps ?_) ?_
    | with_reducible refine (modFtl_keeps ?_) ?_
    | with_reducible refine (retireBlk_keeps (hm := by first | decide | (simp only [StReg.mask]; decide))) ?_
    | with_reducible refine (modVol_keeps (hm := by first | decide | (simp only [StReg.mask]; decide))) ?_
    | with_reducible refine (areaGo_keeps (hm := by first | decide | (simp only [StReg.mask]; decide))) ?_
    | with_reducible refine (setStatus_keeps (hm := by first | decide | (simp only [StReg.mask]; decide))) ?_
    | with_reducible refine (relocStart_keeps (hm := by first | decide | (simp only [StReg.mask]; decide))) ?_
    | with_reducible refine keeps_elim ?_ (fun _ => ?_)
    | with_reducible refine keeps_if (fun _ => ?_) (fun _ => ?_)
    | with_reducible refine keeps_if_after (fun _ => ?_) (fun _ => ?_)
    | dsimp only
    | split
    | with_reducible refine keeps_after_ftlOk ?_
    | (constructor <;> first | exact .inl (by decide) | exact .inr rfl)
    | (simp only [Prod.ext_iff] at *; casesm* _ ∧ _; subst_vars)
    | (simp only [id, Keeps.refl]; done)

theorem issueErase_keeps {d : Die} {key : Nat} {s : State} (hm : Sub 0x800000000000000200c00000040060000002d81600000000 km) (hk :
    Keeps km kz s) : Keeps km kz (issueErase d key s) := by
  refine Keeps.lift hm ?_ hk
  unfold issueErase
  repeat' first
    | with_reducible exact Keeps.refl _ _
    | with_reducible refine (askTray_keeps (hm := by decide)) ?_
    | with_reducible refine (modBlk_keeps (hm := by decide)) ?_
    | dsimp only

theorem tryErases_keeps {d : Die} {s : State} (hm : Sub 0x1800000040045c42280c00000040060000002d81600000000 km) (hk :
    Keeps km kz s) : Keeps km kz (tryErases d s) := by
  refine Keeps.lift hm ?_ hk
  unfold tryErases
  repeat' first
    | with_reducible exact Keeps.refl _ _
    | with_reducible refine (modFtl_keeps ?_) ?_
    | with_reducible refine (retireBlk_keeps (hm := by decide)) ?_
    | with_reducible refine (issueErase_keeps (hm := by decide)) ?_
    | with_reducible refine (keeps_foldl_snd (fun _ _ => ?_)) ?_
    | with_reducible refine (keeps_foldl_fst (fun _ _ => ?_)) ?_
    | with_reducible refine (keeps_foldl_third (fun _ _ => ?_)) ?_
    | with_reducible refine (keeps_foldl_mid (fun _ _ => ?_)) ?_
    | with_reducible refine (keeps_foldl (fun _ _ => ?_)) ?_
    | with_reducible refine keeps_if (fun _ => ?_) (fun _ => ?_)
    | dsimp only
    | split
    | (constructor <;> first | exact .inl (by decide) | exact .inr rfl)
    | (simp only [Prod.ext_iff] at *; casesm* _ ∧ _; subst_vars)

theorem eraseBlock_keeps {d : Die} {vol key : Nat} {s : State} (hm : Sub 0x1800000040045c42200000000000000000000000000000000 km) (hk :
    Keeps km kz s) : Keeps km kz (eraseBlock d vol key s) := by
  refine Keeps.lift hm ?_ hk
  unfold eraseBlock
  repeat' first
    | with_reducible exact Keeps.refl _ _
    | with_reducible refine (modBlk_keeps (hm := by decide)) ?_
    | with_reducible refine (modFtl_keeps ?_) ?_
    | with_reducible refine (journal_keeps (hm := by decide)) ?_
    | dsimp only
    | (constructor <;> first | exact .inl (by decide) | exact .inr rfl)

theorem settleClosing_keeps {d : Die} {s : State} (hm : Sub 0x1800000040045c62200000000000000000000000000000000 km) (hk :
    Keeps km kz s) : Keeps km kz (settleClosing d s) := by
  refine Keeps.lift hm ?_ hk
  unfold settleClosing
  repeat' first
    | with_reducible exact Keeps.refl _ _
    | with_reducible refine (modFtl_keeps ?_) ?_
    | with_reducible refine (eraseBlock_keeps (hm := by decide)) ?_
    | with_reducible refine (keeps_foldl_snd (fun _ _ => ?_)) ?_
    | with_reducible refine (keeps_foldl_fst (fun _ _ => ?_)) ?_
    | with_reducible refine (keeps_foldl_third (fun _ _ => ?_)) ?_
    | with_reducible refine (keeps_foldl_mid (fun _ _ => ?_)) ?_
    | with_reducible refine (keeps_foldl (fun _ _ => ?_)) ?_
    | with_reducible refine keeps_if (fun _ => ?_) (fun _ => ?_)
    | dsimp only
    | split
    | (constructor <;> first | exact .inl (by decide) | exact .inr rfl)
    | (simp only [Prod.ext_iff] at *; casesm* _ ∧ _; subst_vars)

theorem execJournalTailOnMedia_keeps {d : Die} {lsn : Nat} {s : State} : Keeps 0xd80000000001800000040047c62280c00000040260000002d81600000000 s (after (execJournalTailOnMedia d lsn s) s) := by
  unfold execJournalTailOnMedia
  repeat' first
    | with_reducible exact Keeps.refl _ _
    | with_reducible refine (modFtl_keeps ?_) ?_
    | with_reducible refine (tryErases_keeps (hm := by decide)) ?_
    | with_reducible refine (settleClosing_keeps (hm := by decide)) ?_
    | with_reducible refine (answerMedia_keeps (hm := by decide)) ?_
    | dsimp only
    | with_reducible refine keeps_after_ftlOk ?_
    | (constructor <;> first | exact .inl (by decide) | exact .inr rfl)

theorem senseVol_keeps {d : Die} {vol : Nat} {s : State} (hm : Sub 0x800000000000000000c00000040060000002d81600000000 km) (hk :
    Keeps km kz s) : Keeps km kz (senseVol d vol s) := by
  refine Keeps.lift hm ?_ hk
  unfold senseVol
  repeat' first
    | with_reducible exact Keeps.refl _ _
    | with_reducible refine (askTray_keeps (hm := by decide)) ?_
    | with_reducible refine (keeps_foldl_snd (fun _ _ => ?_)) ?_
    | with_reducible refine (keeps_foldl_fst (fun _ _ => ?_)) ?_
    | with_reducible refine (keeps_foldl_third (fun _ _ => ?_)) ?_
    | with_reducible refine (keeps_foldl_mid (fun _ _ => ?_)) ?_
    | with_reducible refine (keeps_foldl (fun _ _ => ?_)) ?_
    | with_reducible refine keeps_elim ?_ (fun _ => ?_)
    | dsimp only
    | (simp only [Prod.ext_iff] at *; casesm* _ ∧ _; subst_vars)

theorem formatGo_keeps {d : Die} {vol idx : Nat} {s : State} (hm : Sub 0x1800000040045c00280c00000040060000002d81600000000 km) (hk :
    Keeps km kz s) : Keeps km kz (formatGo d vol idx s) := by
  refine Keeps.lift hm ?_ hk
  unfold formatGo
  repeat' first
    | with_reducible exact Keeps.refl _ _
    | with_reducible refine (issueErase_keeps (hm := by decide)) ?_
    | with_reducible refine (journal_keeps (hm := by decide)) ?_
    | with_reducible refine (modVol_keeps (hm := by decide)) ?_
    | with_reducible refine (senseVol_keeps (hm := by decide)) ?_
    | with_reducible refine keeps_if (fun _ => ?_) (fun _ => ?_)
    | dsimp only
    | split
    | (simp only [Prod.ext_iff] at *; casesm* _ ∧ _; subst_vars)

theorem execBlockEraseDone_keeps {d : Die} {f : Frame} {s0 : State} : Keeps 0x1800000040045c02280c00000040070000002d81600000000 s0 (after (execBlockEraseDone d f s0) s0) := by
  unfold execBlockEraseDone
  repeat' first
    | with_reducible exact Keeps.refl _ _
    | with_reducible refine (dropTrayReq_keeps (hm := by decide)) ?_
    | with_reducible refine (takeAgent_keeps (hm := by decide)) ?_
    | with_reducible refine (journal_keeps (hm := by decide)) ?_
    | with_reducible refine (modBlk_keeps (hm := by decide)) ?_
    | with_reducible refine (retireBlk_keeps (hm := by decide)) ?_
    | with_reducible refine (formatGo_keeps (hm := by decide)) ?_
    | with_reducible refine (modVol_keeps (hm := by decide)) ?_
    | with_reducible refine keeps_if (fun _ => ?_) (fun _ => ?_)
    | with_reducible refine keeps_if_after (fun _ => ?_) (fun _ => ?_)
    | dsimp only
    | split
    | with_reducible refine keeps_after_ftlOk ?_
    | (simp only [Prod.ext_iff] at *; casesm* _ ∧ _; subst_vars)

theorem tryReloc_of_eq {d : Die} {vol port : Nat} {kind : RelocKind} {s v1 : State} (heq : tryReloc d vol port kind s = some v1) (hm : Sub 0x1800000040045c01e00c00000040060000002d81600000000 km) (hk :
    Keeps km kz s) : Keeps km kz v1 := by
  refine Keeps.lift hm ?_ hk
  unfold tryReloc at heq
  dsimp only at heq
  repeat' (first | contradiction | split at heq)
  all_goals first | (cases heq; done) | cases heq
  repeat' first
    | with_reducible exact Keeps.refl _ _
    | with_reducible refine (relocGo_keeps (hm := by decide)) ?_
    | with_reducible refine (modReloc_keeps (hm := by decide)) ?_
    | with_reducible refine (relocStart_keeps (hm := by decide)) ?_
    | with_reducible refine keeps_if (fun _ => ?_) (fun _ => ?_)
    | dsimp only
    | split
    | (simp only [Prod.ext_iff] at *; casesm* _ ∧ _; subst_vars)

theorem execRelocationStart_keeps {port : Nat} {s : State} : Keeps 0x1800000040045c05e00c00000040060000002d81600000000 s (after (execRelocationStart port s) s) := by
  unfold execRelocationStart
  extract_lets d
  clear_value d
  split
  · exact keeps_after_ftlOk (Keeps.refl _ _)
  · rename_i vol _
    refine keeps_if_after (fun _ => keeps_after_ftlOk (Keeps.refl _ _)) (fun _ => ?_)
    split
    · exact keeps_after_ftlOk (Keeps.refl _ _)
    · rename_i k t h
      have kt : Keeps 0x1800000040045c05e00c00000040060000002d81600000000 s t := by
        obtain ⟨q, _, hq⟩ := List.exists_of_findSome?_eq_some h
        cases hr : tryReloc d vol port q s with
        | none => rw [hr] at hq; cases hq
        | some u =>
          rw [hr] at hq
          have e : u = t := (Prod.mk.inj (Option.some.inj hq)).2
          subst e
          exact (tryReloc_of_eq hr (by decide)) (Keeps.refl _ _)
      refine keeps_if_after (fun _ => keeps_after_ftlOk ((setStatus_keeps (by simp only [StReg.mask]; decide)) kt)) (fun _ => ?_)
      refine keeps_if_after (fun _ => keeps_after_ftlOk ((modFtl_keeps ?_) kt)) (fun _ => keeps_after_ftlOk kt)
      constructor <;> first | exact .inl (by decide) | exact .inr rfl

theorem applyNotes_keeps {vol : Nat} {notes : List (Nat × BitVec 64 × BitVec 64)} {s : State} (hm : Sub 0x800000000000008080c00000040060000002d81600000000 km) (hk :
    Keeps km kz s) : Keeps km kz (applyNotes vol notes s).2 := by
  refine Keeps.lift hm ?_ hk
  unfold applyNotes
  repeat' first
    | with_reducible exact Keeps.refl _ _
    | with_reducible refine (setMap_keeps (hm := by decide)) ?_
    | with_reducible refine (keeps_foldl_snd (fun _ _ => ?_)) ?_
    | with_reducible refine (keeps_foldl_fst (fun _ _ => ?_)) ?_
    | with_reducible refine (keeps_foldl_third (fun _ _ => ?_)) ?_
    | with_reducible refine (keeps_foldl_mid (fun _ _ => ?_)) ?_
    | with_reducible refine (keeps_foldl (fun _ _ => ?_)) ?_
    | with_reducible refine keeps_if (fun _ => ?_) (fun _ => ?_)
    | with_reducible refine keeps_if_snd (fun _ => ?_) (fun _ => ?_)
    | dsimp only
    | split
    | (simp only [Prod.ext_iff] at *; casesm* _ ∧ _; subst_vars)

theorem applyNotes_of_eq {vol : Nat} {notes : List (Nat × BitVec 64 × BitVec 64)} {s : State}{v0} {v1 : State} (heq : applyNotes vol notes s = (v0, v1)) (hm : Sub 0x800000000000008080c00000040060000002d81600000000 km) (hk :
    Keeps km kz s) : Keeps km kz v1 := by
  have h := applyNotes_keeps (kz := kz) (s := s) hm hk (vol := vol) (notes := notes)
  rw [heq] at h
  exact h

theorem applyGroup_keeps {r : Reloc} {s : State} (hm : Sub 0x80000000000000000000000000000000 km) (hk :
    Keeps km kz s) : Keeps km kz (applyGroup r s).2 := by
  refine Keeps.lift hm ?_ hk
  unfold applyGroup
  repeat' first
    | with_reducible exact Keeps.refl _ _
    | with_reducible refine (modVol_keeps (hm := by decide)) ?_
    | with_reducible refine (keeps_foldl_snd (fun _ _ => ?_)) ?_
    | with_reducible refine (keeps_foldl_fst (fun _ _ => ?_)) ?_
    | with_reducible refine (keeps_foldl_third (fun _ _ => ?_)) ?_
    | with_reducible refine (keeps_foldl_mid (fun _ _ => ?_)) ?_
    | with_reducible refine (keeps_foldl (fun _ _ => ?_)) ?_
    | with_reducible refine keeps_if (fun _ => ?_) (fun _ => ?_)
    | with_reducible refine keeps_if_snd (fun _ => ?_) (fun _ => ?_)
    | dsimp only
    | split
    | (simp only [Prod.ext_iff] at *; casesm* _ ∧ _; subst_vars)

theorem applyGroup_of_eq {r : Reloc} {s : State}{v0} {v1 : State} (heq : applyGroup r s = (v0, v1)) (hm : Sub 0x80000000000000000000000000000000 km) (hk :
    Keeps km kz s) : Keeps km kz v1 := by
  have h := applyGroup_keeps (kz := kz) (s := s) hm hk (r := r)
  rw [heq] at h
  exact h

theorem execRelocationClose_keeps {port : Nat} {kind : RelocKind} {s : State} : Keeps 0x1800000040045cade80c00000040060000002d81600000000 s (after (execRelocationClose port kind s) s) := by
  unfold execRelocationClose
  repeat' first
    | with_reducible exact Keeps.refl _ _
    | with_reducible refine (applyGroup_keeps (hm := by decide)) ?_
    | with_reducible refine (applyGroup_of_eq (heq := by assumption) (hm := by decide)) ?_
    | with_reducible refine (applyNotes_keeps (hm := by decide)) ?_
    | with_reducible refine (applyNotes_of_eq (heq := by assumption) (hm := by decide)) ?_
    | with_reducible refine (modBlk_keeps (hm := by decide)) ?_
    | with_reducible refine (journal_keeps (hm := by decide)) ?_
    | with_reducible refine (modFtl_keeps ?_) ?_
    | with_reducible refine (modVol_keeps (hm := by decide)) ?_
    | with_reducible refine (relocStart_keeps (hm := by decide)) ?_
    | with_reducible refine keeps_if (fun _ => ?_) (fun _ => ?_)
    | with_reducible refine keeps_if_after (fun _ => ?_) (fun _ => ?_)
    | with_reducible refine keeps_if_snd (fun _ => ?_) (fun _ => ?_)
    | dsimp only
    | split
    | with_reducible refine keeps_after_ftlOk ?_
    | (constructor <;> first | exact .inl (by decide) | exact .inr rfl)
    | (simp only [Prod.ext_iff] at *; casesm* _ ∧ _; subst_vars)

theorem execOuviMerge_keeps {vol : Nat} {s : State} : Keeps 0x1800000040045c43e80c00000040060000002d81600000000 s (after (execOuviMerge vol s) s) := by
  unfold execOuviMerge
  repeat' first
    | with_reducible exact Keeps.refl _ _
    | with_reducible refine (relocStart_keeps (hm := by decide)) ?_
    | with_reducible refine (eraseBlock_keeps (hm := by decide)) ?_
    | with_reducible refine (modVol_keeps (hm := by decide)) ?_
    | with_reducible refine keeps_if (fun _ => ?_) (fun _ => ?_)
    | with_reducible refine keeps_if_after (fun _ => ?_) (fun _ => ?_)
    | dsimp only
    | split
    | with_reducible refine keeps_after_ftlOk ?_
    | (simp only [Prod.ext_iff] at *; casesm* _ ∧ _; subst_vars)

theorem readOver_keeps {d : Die} {vol unit : Nat} {s : State} (hm : Sub 0x18000000000800000d80000000001b80000040045c4bf93d48067865260000002d81600000000 km) (hk :
    Keeps km kz s) : Keeps km kz (readOver d vol unit s) := by
  refine Keeps.lift hm ?_ hk
  unfold readOver
  repeat' first
    | with_reducible exact Keeps.refl _ _
    | with_reducible refine (copyRead_keeps (hm := by decide)) ?_
    | with_reducible refine (tryErases_keeps (hm := by decide)) ?_
    | with_reducible refine (relocRead_keeps (hm := by decide)) ?_
    | with_reducible refine (resume_keeps (hm := by decide)) ?_
    | dsimp only

theorem poisonUnit_keeps {d : Die} {vol unit : Nat} {s : State} (hm : Sub 0x10000000000000000000000000001800000040000000000000000020000000000000000000000 km) (hk :
    Keeps km kz s) : Keeps km kz (poisonUnit d vol unit s) := by
  refine Keeps.lift hm ?_ hk
  clear hk
  unfold poisonUnit
  extract_lets s1
  have k1 : Keeps 0x10000000000000000000000000001800000040000000000000000020000000000000000000000 s s1 := (setStatus_keeps (by simp only [StReg.mask]; decide)) (Keeps.refl _ _)
  clear_value s1
  split
  · exact k1
  · exact (setStatus_keeps (by simp only [StReg.mask]; decide)) ((set_poison_keeps (by decide)) k1)

theorem execFlashReadResponse_keeps {d : Die} {f : Frame} {s0 : State} : Keeps 0x18000000000800000d80000000001b80000040045c4bf93d48067865270000002d81600000000 s0 (after (execFlashReadResponse d f s0) s0) := by
  unfold execFlashReadResponse
  repeat' first
    | with_reducible exact Keeps.refl _ _
    | with_reducible refine (dropTrayReq_keeps (hm := by first | decide | (simp only [StReg.mask]; decide))) ?_
    | with_reducible refine (takeAgent_keeps (hm := by first | decide | (simp only [StReg.mask]; decide))) ?_
    | with_reducible refine (modBlk_keeps (hm := by first | decide | (simp only [StReg.mask]; decide))) ?_
    | with_reducible refine (makeDue_keeps (hm := by first | decide | (simp only [StReg.mask]; decide))) ?_
    | with_reducible refine (writeMem_keeps (hm := by first | decide | (simp only [StReg.mask]; decide))) ?_
    | with_reducible refine (readOver_keeps (hm := by first | decide | (simp only [StReg.mask]; decide))) ?_
    | with_reducible refine (readUnit_keeps (hm := by first | decide | (simp only [StReg.mask]; decide))) ?_
    | with_reducible refine (setStatus_keeps (hm := by first | decide | (simp only [StReg.mask]; decide))) ?_
    | with_reducible refine (poisonUnit_keeps (hm := by first | decide | (simp only [StReg.mask]; decide))) ?_
    | with_reducible refine keeps_if (fun _ => ?_) (fun _ => ?_)
    | with_reducible refine keeps_if_after (fun _ => ?_) (fun _ => ?_)
    | dsimp only
    | split
    | with_reducible refine keeps_after_ftlOk ?_

theorem execStagingSlotWaitEnd_keeps {d : Die} {s : State} : Keeps 0x18000000000800000d80000000001b80000040000008190d40067865260000002d81600000000 s (after (execStagingSlotWaitEnd d s) s) := by
  unfold execStagingSlotWaitEnd
  repeat' first
    | with_reducible exact Keeps.refl _ _
    | with_reducible refine (settleBehind_keeps (hm := by decide)) ?_
    | with_reducible refine (serve_keeps (hm := by decide)) ?_
    | with_reducible refine keeps_if (fun _ => ?_) (fun _ => ?_)
    | with_reducible refine keeps_if_after (fun _ => ?_) (fun _ => ?_)
    | dsimp only
    | split
    | with_reducible refine keeps_after_ftlOk ?_

theorem execRetentionHour_keeps {d : Die} {s : State} : Keeps 0x1800000040045e02000c00000040060000002d81600000000 s (after (execRetentionHour d s) s) := by
  unfold execRetentionHour
  repeat' first
    | with_reducible exact Keeps.refl _ _
    | with_reducible refine (modFtl_keeps ?_) ?_
    | with_reducible refine (journal_keeps (hm := by decide)) ?_
    | with_reducible refine (makeDue_keeps (hm := by decide)) ?_
    | with_reducible refine (senseVol_keeps (hm := by decide)) ?_
    | with_reducible refine (keeps_foldl_snd (fun _ _ => ?_)) ?_
    | with_reducible refine (keeps_foldl_fst (fun _ _ => ?_)) ?_
    | with_reducible refine (keeps_foldl_third (fun _ _ => ?_)) ?_
    | with_reducible refine (keeps_foldl_mid (fun _ _ => ?_)) ?_
    | with_reducible refine (keeps_foldl (fun _ _ => ?_)) ?_
    | dsimp only
    | with_reducible refine keeps_after_ftlOk ?_
    | (constructor <;> first | exact .inl (by decide) | exact .inr rfl)
    | (simp only [Prod.ext_iff] at *; casesm* _ ∧ _; subst_vars)

theorem execCheckpointStart_keeps {d : Die} {s : State} : Keeps 0x180000004007dc10e80c00000040060000002d81600000000 s (after (execCheckpointStart d s) s) := by
  unfold execCheckpointStart
  repeat' first
    | with_reducible exact Keeps.refl _ _
    | with_reducible refine (modFtl_keeps ?_) ?_
    | with_reducible refine (modVol_keeps (hm := by decide)) ?_
    | with_reducible refine (areaGo_keeps (hm := by decide)) ?_
    | with_reducible refine (ringPut_keeps (hm := by decide)) ?_
    | with_reducible refine (keeps_foldl_snd (fun _ _ => ?_)) ?_
    | with_reducible refine (keeps_foldl_fst (fun _ _ => ?_)) ?_
    | with_reducible refine (keeps_foldl_third (fun _ _ => ?_)) ?_
    | with_reducible refine (keeps_foldl_mid (fun _ _ => ?_)) ?_
    | with_reducible refine (keeps_foldl (fun _ _ => ?_)) ?_
    | with_reducible refine keeps_elim ?_ (fun _ => ?_)
    | with_reducible refine keeps_if (fun _ => ?_) (fun _ => ?_)
    | with_reducible refine keeps_if_after (fun _ => ?_) (fun _ => ?_)
    | dsimp only
    | split
    | with_reducible refine keeps_after_ftlOk ?_
    | (constructor <;> first | exact .inl (by decide) | exact .inr rfl)
    | (simp only [Prod.ext_iff] at *; casesm* _ ∧ _; subst_vars)

theorem execCheckpointEnd_keeps {d : Die} {s : State} : Keeps 0xd8000000800180000004007fc72e80c00000040260000002d81600000000 s (after (execCheckpointEnd d s) s) := by
  unfold execCheckpointEnd
  repeat' first
    | with_reducible exact Keeps.refl _ _
    | with_reducible refine (areaGo_keeps (hm := by decide)) ?_
    | with_reducible refine (ringPut_keeps (hm := by decide)) ?_
    | with_reducible refine (modFtl_keeps ?_) ?_
    | with_reducible refine (eraseBlock_keeps (hm := by decide)) ?_
    | with_reducible refine (answerMedia_keeps (hm := by decide)) ?_
    | with_reducible refine (tryErases_keeps (hm := by decide)) ?_
    | with_reducible refine (settleClosing_keeps (hm := by decide)) ?_
    | with_reducible refine (modSec_keeps ?_ ?_) ?_
    | with_reducible refine (keeps_foldl_snd (fun _ _ => ?_)) ?_
    | with_reducible refine (keeps_foldl_fst (fun _ _ => ?_)) ?_
    | with_reducible refine (keeps_foldl_third (fun _ _ => ?_)) ?_
    | with_reducible refine (keeps_foldl_mid (fun _ _ => ?_)) ?_
    | with_reducible refine (keeps_foldl (fun _ _ => ?_)) ?_
    | with_reducible refine keeps_if (fun _ => ?_) (fun _ => ?_)
    | with_reducible refine keeps_if_after (fun _ => ?_) (fun _ => ?_)
    | dsimp only
    | split
    | with_reducible refine keeps_after_ftlOk ?_
    | (constructor <;> first | exact .inl (by decide) | exact .inr rfl)
    | (simp only [Prod.ext_iff] at *; casesm* _ ∧ _; subst_vars)
    | with_reducible exact SecMono.refl _
    | exact ⟨le_rfl, le_rfl, le_rfl, le_rfl, le_rfl⟩

theorem ringDrain_keeps {l : List JBody} {d : Die} {s : State} (hm : Sub 0x1800000040005c00000000000000000000000000000000000 km) (hk :
    Keeps km kz s) : Keeps km kz (ringDrain l d s).2 := by
  refine Keeps.lift hm ?_ hk
  clear hk
  induction l generalizing s with
  | nil => exact Keeps.refl _ _
  | cons b r ih =>
    unfold ringDrain
    refine keeps_if_snd (fun _ => Keeps.refl _ _) (fun _ => ?_)
    exact Keeps.trans ((ringPut_keeps (by decide)) (Keeps.refl _ _)) ih

theorem ringDrain_of_eq {l : List JBody} {d : Die} {s : State}{v0} {v1 : State} (heq : ringDrain l d s = (v0, v1)) (hm : Sub 0x1800000040005c00000000000000000000000000000000000 km) (hk :
    Keeps km kz s) : Keeps km kz v1 := by
  have h := ringDrain_keeps (kz := kz) (s := s) hm hk (l := l) (d := d)
  rw [heq] at h
  exact h

theorem execJournalRingWaitEnd_keeps {d : Die} {s : State} : Keeps 0x1800000040045c62280c00000040060000002d81600000000 s (after (execJournalRingWaitEnd d s) s) := by
  unfold execJournalRingWaitEnd
  repeat' first
    | with_reducible exact Keeps.refl _ _
    | with_reducible refine (ringDrain_keeps (hm := by decide)) ?_
    | with_reducible refine (ringDrain_of_eq (heq := by assumption) (hm := by decide)) ?_
    | with_reducible refine (modFtl_keeps ?_) ?_
    | with_reducible refine (tryErases_keeps (hm := by decide)) ?_
    | with_reducible refine (settleClosing_keeps (hm := by decide)) ?_
    | with_reducible refine keeps_if (fun _ => ?_) (fun _ => ?_)
    | with_reducible refine keeps_if_after (fun _ => ?_) (fun _ => ?_)
    | with_reducible refine keeps_if_snd (fun _ => ?_) (fun _ => ?_)
    | dsimp only
    | split
    | with_reducible refine keeps_after_ftlOk ?_
    | (constructor <;> first | exact .inl (by decide) | exact .inr rfl)
    | (simp only [Prod.ext_iff] at *; casesm* _ ∧ _; subst_vars)

theorem execMapRebuild_keeps {vol : Nat} {s : State} : Keeps 0x80000000000000000000000000000000 s (after (execMapRebuild vol s) s) := by
  unfold execMapRebuild
  repeat' first
    | with_reducible exact Keeps.refl _ _
    | with_reducible refine (modVol_keeps (hm := by decide)) ?_
    | with_reducible refine keeps_if (fun _ => ?_) (fun _ => ?_)
    | with_reducible refine keeps_if_after (fun _ => ?_) (fun _ => ?_)
    | dsimp only
    | split
    | with_reducible refine keeps_after_ftlOk ?_

theorem execMapRebuildDone_keeps {vol : Nat} {s : State} : Keeps 0x80000000000000000000000000000000 s (after (execMapRebuildDone vol s) s) := by
  unfold execMapRebuildDone
  repeat' first
    | with_reducible exact Keeps.refl _ _
    | with_reducible refine (modVol_keeps (hm := by decide)) ?_
    | with_reducible refine keeps_if (fun _ => ?_) (fun _ => ?_)
    | with_reducible refine keeps_if_after (fun _ => ?_) (fun _ => ?_)
    | dsimp only
    | split
    | with_reducible refine keeps_after_ftlOk ?_

theorem mapOver_keeps {d : Die} {vol page : Nat} {s : State} (hm : Sub 0x18000000000800000d80000000001b80000040045c08193d48067865260000002d81600000000 km) (hk :
    Keeps km kz s) : Keeps km kz (mapOver d vol page s) := by
  refine Keeps.lift hm ?_ hk
  unfold mapOver
  repeat' first
    | with_reducible exact Keeps.refl _ _
    | with_reducible refine (pump_keeps (hm := by decide)) ?_
    | with_reducible refine (resume_keeps (hm := by decide)) ?_
    | dsimp only

theorem execMapPageLoadDone_keeps {vol page : Nat} {s : State} : Keeps 0x18000000000800000d80000000001b80000040045c08193d48067865260000002d81600000000 s (after (execMapPageLoadDone vol page s) s) := by
  unfold execMapPageLoadDone
  repeat' first
    | with_reducible exact Keeps.refl _ _
    | with_reducible refine (modVol_keeps (hm := by decide)) ?_
    | with_reducible refine (mapOver_keeps (hm := by decide)) ?_
    | dsimp only
    | with_reducible refine keeps_after_ftlOk ?_

theorem formatStart_keeps {d : Die} {vol idx : Nat} {s : State} (hm : Sub 0x1800000040045c00280c00000040060000002d81600000000 km) (hk :
    Keeps km kz s) : Keeps km kz (formatStart d vol idx s) := by
  refine Keeps.lift hm ?_ hk
  unfold formatStart
  repeat' first
    | with_reducible exact Keeps.refl _ _
    | with_reducible refine (modFtl_keeps ?_) ?_
    | with_reducible refine (formatGo_keeps (hm := by decide)) ?_
    | with_reducible refine (modVol_keeps (hm := by decide)) ?_
    | dsimp only
    | (constructor <;> first | exact .inl (by decide) | exact .inr rfl)

theorem bringupEnd_keeps {d : Die} {vol : Nat} {s0 : State} (hm : Sub 0x1800000040045c00280c00000040060000002d81600000000 km) (hk :
    Keeps km kz s0) : Keeps km kz (bringupEnd d vol s0) := by
  refine Keeps.lift hm ?_ hk
  unfold bringupEnd
  repeat' first
    | with_reducible exact Keeps.refl _ _
    | with_reducible refine (modVol_keeps (hm := by decide)) ?_
    | with_reducible refine (senseVol_keeps (hm := by decide)) ?_
    | with_reducible refine (formatStart_keeps (hm := by decide)) ?_
    | with_reducible refine (keeps_foldl_snd (fun _ _ => ?_)) ?_
    | with_reducible refine (keeps_foldl_fst (fun _ _ => ?_)) ?_
    | with_reducible refine (keeps_foldl_third (fun _ _ => ?_)) ?_
    | with_reducible refine (keeps_foldl_mid (fun _ _ => ?_)) ?_
    | with_reducible refine (keeps_foldl (fun _ _ => ?_)) ?_
    | with_reducible refine keeps_if (fun _ => ?_) (fun _ => ?_)
    | dsimp only
    | split
    | (simp only [Prod.ext_iff] at *; casesm* _ ∧ _; subst_vars)

theorem execVolumeBringup_keeps {vol : Nat} {waited : Bool} {s : State} : Keeps 0x1800000040045c00280c00000040060000002d81600000000 s (after (execVolumeBringup vol waited s) s) := by
  unfold execVolumeBringup
  repeat' first
    | with_reducible exact Keeps.refl _ _
    | with_reducible refine (bringupEnd_keeps (hm := by decide)) ?_
    | with_reducible refine (askTray_keeps (hm := by decide)) ?_
    | with_reducible refine (modVol_keeps (hm := by decide)) ?_
    | with_reducible refine (keeps_foldl_snd (fun _ _ => ?_)) ?_
    | with_reducible refine (keeps_foldl_fst (fun _ _ => ?_)) ?_
    | with_reducible refine (keeps_foldl_third (fun _ _ => ?_)) ?_
    | with_reducible refine (keeps_foldl_mid (fun _ _ => ?_)) ?_
    | with_reducible refine (keeps_foldl (fun _ _ => ?_)) ?_
    | with_reducible refine keeps_if (fun _ => ?_) (fun _ => ?_)
    | with_reducible refine keeps_if_after (fun _ => ?_) (fun _ => ?_)
    | dsimp only
    | split
    | with_reducible refine keeps_after_ftlOk ?_
    | (simp only [Prod.ext_iff] at *; casesm* _ ∧ _; subst_vars)

theorem identified_keeps {d : Die} {vol idx : Nat} {f : Frame} {s : State} (hm : Sub 0x1800000040045c00280c00000040060000002d81600000000 km) (hk :
    Keeps km kz s) : Keeps km kz (identified d vol idx f s) := by
  refine Keeps.lift hm ?_ hk
  unfold identified
  repeat' first
    | with_reducible exact Keeps.refl _ _
    | with_reducible refine (modVol_keeps (hm := by decide)) ?_
    | with_reducible refine (bringupEnd_keeps (hm := by decide)) ?_
    | with_reducible refine keeps_elim ?_ (fun _ => ?_)
    | with_reducible refine keeps_if (fun _ => ?_) (fun _ => ?_)
    | dsimp only
    | split

theorem execTrayResponse_keeps {d : Die} {f : Frame} {s0 : State} : Keeps 0x18000000000800000d80000000001b80000040045d08393d48067865270000002d81600000000 s0 (after (execTrayResponse d f s0) s0) := by
  unfold execTrayResponse
  repeat' first
    | with_reducible exact Keeps.refl _ _
    | with_reducible refine (takeAgent_keeps (hm := by decide)) ?_
    | with_reducible refine (sendPort_keeps (hm := by decide)) ?_
    | with_reducible refine (dropTrayReq_keeps (hm := by decide)) ?_
    | with_reducible refine (homeTray_keeps (hm := by decide)) ?_
    | with_reducible refine (resumeLines_keeps (hm := by decide)) ?_
    | with_reducible refine (fillDone_keeps (hm := by decide)) ?_
    | with_reducible refine (copyAnswered_keeps (hm := by decide)) ?_
    | with_reducible refine (modFtl_keeps ?_) ?_
    | with_reducible refine (identified_keeps (hm := by decide)) ?_
    | with_reducible refine (mapOver_keeps (hm := by decide)) ?_
    | with_reducible refine (mapPut_keeps (hm := by decide)) ?_
    | with_reducible refine keeps_if (fun _ => ?_) (fun _ => ?_)
    | with_reducible refine keeps_if_after (fun _ => ?_) (fun _ => ?_)
    | dsimp only
    | split
    | with_reducible refine keeps_after_ftlOk ?_
    | (constructor <;> first | exact .inl (by decide) | exact .inr rfl)
    | (simp only [Prod.ext_iff] at *; casesm* _ ∧ _; subst_vars)

end Machine
end Sys2Proof
end

