-- ==== Sys2Proof/Laws/FramePower.lean ====
section
/-! SUPPORT. Frames of the functions of Machine/Power.lean: the parts of the state that each may change, as a mask (Laws/Keeps.lean). -/

namespace Sys2Proof
namespace Machine
set_option linter.unusedTactic false
set_option linter.unreachableTactic false
set_option linter.tactic.unusedName false
variable {km : Nat} {kz : State}

theorem keeps_after_modOk {s d : State} (hk : Keeps km kz s) : Keeps km kz (after (modOk s) d) := hk

theorem modBit_keeps {bit : Nat} {s : State} (hm : Sub 0x100000000000000000000001800000000000000000000000000000000000000000000000 km) (hk :
    Keeps km kz s) : Keeps km kz (modBit bit s) := by
  refine Keeps.lift hm ?_ hk
  unfold modBit
  repeat' first
    | with_reducible exact Keeps.refl _ _
    | with_reducible refine (setStatus_keeps (hm := by first | decide | (simp only [StReg.mask]; decide))) ?_

theorem setAdmit_keeps {b : Bool} {s : State} (hm : Sub 0x40000000000000000000000000000000000000000000000000000000000000000000000000 km) (hk :
    Keeps km kz s) : Keeps km kz (setAdmit b s) := by
  refine Keeps.lift hm ?_ hk
  unfold setAdmit
  repeat' first
    | with_reducible exact Keeps.refl _ _
    | with_reducible refine (modMod_keeps ?_) ?_
    | dsimp only
    | (constructor <;> first | exact .inl (by decide) | exact .inr rfl)

theorem dropMoves_keeps {d : Die} {s : State} (hm : Sub 0x980000000000800000000000000000000000000000000000000000000000 km) (hk :
    Keeps km kz s) : Keeps km kz (dropMoves d s) := by
  refine Keeps.lift hm ?_ hk
  unfold dropMoves
  repeat' first
    | with_reducible exact Keeps.refl _ _
    | with_reducible refine (dropCharge_keeps (hm := by decide)) ?_
    | with_reducible refine (keeps_foldl_snd (fun _ _ => ?_)) ?_
    | with_reducible refine (keeps_foldl_fst (fun _ _ => ?_)) ?_
    | with_reducible refine (keeps_foldl_third (fun _ _ => ?_)) ?_
    | with_reducible refine (keeps_foldl_mid (fun _ _ => ?_)) ?_
    | with_reducible refine (keeps_foldl (fun _ _ => ?_)) ?_
    | with_reducible refine keeps_if (fun _ => ?_) (fun _ => ?_)
    | dsimp only
    | split
    | (simp only [Prod.ext_iff] at *; casesm* _ ∧ _; subst_vars)

theorem dropUnmade_keeps {x : Session} {s : State} (hm : Sub 0x980000000000800000000000000000000000000000000000000000000000 km) (hk :
    Keeps km kz s) : Keeps km kz (dropUnmade x s) := by
  refine Keeps.lift hm ?_ hk
  unfold dropUnmade
  repeat' first
    | with_reducible exact Keeps.refl _ _
    | with_reducible refine (dropCharge_keeps (hm := by decide)) ?_
    | with_reducible refine keeps_elim ?_ (fun _ => ?_)
    | with_reducible refine keeps_if (fun _ => ?_) (fun _ => ?_)
    | dsimp only
    | split

theorem dropLost_keeps {t s : State} (hm : Sub 0x980000000000800000000000000000000000000000000000000000000000 km) (hk :
    Keeps km kz s) : Keeps km kz (dropLost t s) := by
  refine Keeps.lift hm ?_ hk
  unfold dropLost
  repeat' first
    | with_reducible exact Keeps.refl _ _
    | with_reducible refine (dropUnmade_keeps (hm := by decide)) ?_
    | with_reducible refine (dropMoves_keeps (hm := by decide)) ?_
    | with_reducible refine (dropCharge_keeps (hm := by decide)) ?_
    | with_reducible refine (keeps_foldl_snd (fun _ _ => ?_)) ?_
    | with_reducible refine (keeps_foldl_fst (fun _ _ => ?_)) ?_
    | with_reducible refine (keeps_foldl_third (fun _ _ => ?_)) ?_
    | with_reducible refine (keeps_foldl_mid (fun _ _ => ?_)) ?_
    | with_reducible refine (keeps_foldl (fun _ _ => ?_)) ?_
    | with_reducible refine keeps_if (fun _ => ?_) (fun _ => ?_)
    | dsimp only
    | split
    | (simp only [Prod.ext_iff] at *; casesm* _ ∧ _; subst_vars)

theorem addClassC_keeps {old s : State} (hm : Sub 0x980000000000800000000000000008000000000000000000000000000000 km) (hk :
    Keeps km kz s) : Keeps km kz (addClassC old s) := by
  refine Keeps.lift hm ?_ hk
  unfold addClassC
  repeat' first
    | with_reducible exact Keeps.refl _ _
    | with_reducible refine (placeExt_keeps (hm := by decide)) ?_
    | with_reducible refine (keeps_foldl_snd (fun _ _ => ?_)) ?_
    | with_reducible refine (keeps_foldl_fst (fun _ _ => ?_)) ?_
    | with_reducible refine (keeps_foldl_third (fun _ _ => ?_)) ?_
    | with_reducible refine (keeps_foldl_mid (fun _ _ => ?_)) ?_
    | with_reducible refine (keeps_foldl (fun _ _ => ?_)) ?_
    | with_reducible refine keeps_if (fun _ => ?_) (fun _ => ?_)
    | dsimp only
    | split
    | (simp only [Prod.ext_iff] at *; casesm* _ ∧ _; subst_vars)

theorem replayErases_keeps {d : Die} {s : State} (hm : Sub 0x1800000040045c42280c00000040060000002d81600000000 km) (hk :
    Keeps km kz s) : Keeps km kz (replayErases d s) := by
  refine Keeps.lift hm ?_ hk
  unfold replayErases
  repeat' first
    | with_reducible exact Keeps.refl _ _
    | with_reducible refine (modFtl_keeps ?_) ?_
    | with_reducible refine (tryErases_keeps (hm := by decide)) ?_
    | with_reducible refine (eraseBlock_keeps (hm := by decide)) ?_
    | with_reducible refine (modVol_keeps (hm := by decide)) ?_
    | with_reducible refine (keeps_foldl_snd (fun _ _ => ?_)) ?_
    | with_reducible refine (keeps_foldl_fst (fun _ _ => ?_)) ?_
    | with_reducible refine (keeps_foldl_third (fun _ _ => ?_)) ?_
    | with_reducible refine (keeps_foldl_mid (fun _ _ => ?_)) ?_
    | with_reducible refine (keeps_foldl (fun _ _ => ?_)) ?_
    | with_reducible refine keeps_if (fun _ => ?_) (fun _ => ?_)
    | dsimp only
    | split
    | (constructor <;> first | exact .inl (by decide) | exact .inr rfl)
    | (simp only [Prod.ext_iff] at *; casesm* _ ∧ _; subst_vars)

theorem coresAfter_keeps {warm : Bool} {failed : List Nat} {d : Die} {s : State} (hm : Sub 0x1ffffffc000000000000000001f800004700000000000000000000000000000000000000000 km) (hk :
    Keeps km kz s) : Keeps km kz (coresAfter warm failed d s) := by
  refine Keeps.lift hm ?_ hk
  clear hk
  unfold coresAfter
  extract_lets list t
  refine keeps_if (fun _ => ?_) (fun _ => keeps_foldl (fun t p => retireCore_keeps (by decide) (setStatus_keeps (by simp only [StReg.mask]; decide)
    (Keeps.refl _ _))) (Keeps.refl _ _))
  have kt : Keeps 0x1ffffffc000000000000000001f800004700000000000000000000000000000000000000000 s t := keeps_foldl (fun t p => retireCore_keeps (by decide) (Keeps.refl _ _)) (Keeps.refl _ _)
  clear_value t
  have kp : Keeps 0x1ffffffc000000000000000001f800004700000000000000000000000000000000000000000 s (modPod t d (fun v => { v with status := {} })) := by
    refine modPod_keeps ?_ kt
    constructor <;> first | exact .inl (by decide) | exact .inr rfl
  refine kp.trans ⟨?_, Mono.of_same rfl rfl⟩
  intro p hp
  cases p <;> first
    | exact absurd hp (by decide)
    | rfl
    | exact ⟨rfl, rfl⟩

theorem keepCounts_keeps {s t : State} (hm : Sub 0x1f33fffff00000000007ffffff8000fffffffff00200000000 km) (hk :
    Keeps km kz t) : Keeps km kz (keepCounts s t) := by
  refine Keeps.lift hm ?_ hk
  clear hk
  unfold keepCounts
  refine ⟨?_, Mono.of_same rfl rfl⟩
  intro p hp
  cases p <;> first
    | exact absurd hp (by decide)
    | rfl
    | exact ⟨rfl, rfl⟩

theorem comeUp_keeps {failed : Two (List Nat)} {warm : Bool} {s : State} (hm : Sub 0x3fffffffffffffffffffffb20081ffffffffffffffffffffffffffffffffffffffffffffffffe km) (hk :
    Keeps km kz s) : Keeps km kz (comeUp failed warm s) := by
  refine Keeps.lift hm ?_ hk
  clear hk
  unfold comeUp
  extract_lets t sameSet done kept s1 inKept f src s2 s3 s4 told s5 s5a s6 s7 lost
  have k2 : Keeps 0x3fffffffffffffffffffffb20081ffffffffffffffffffffffffffffffffffffffffffffffffe s s2 := by
    refine ⟨?_, memWf_filter, le_rfl, le_rfl, le_rfl, le_rfl, le_rfl⟩
    intro p hp
    clear_value f kept s1 inKept t
    cases p <;> first
      | exact absurd hp (by decide)
      | rfl
      | exact ⟨rfl, rfl⟩
  clear_value s2
  have k3 : Keeps 0x3fffffffffffffffffffffb20081ffffffffffffffffffffffffffffffffffffffffffffffffe s s3 := (addClassC_keeps (by decide)) (keeps_if (fun _ => (keepCounts_keeps (by decide)) k2) (fun _ => k2))
  have k4 : Keeps 0x3fffffffffffffffffffffb20081ffffffffffffffffffffffffffffffffffffffffffffffffe s s4 := (replayErases_keeps (by decide)) ((replayErases_keeps (by decide)) k3)
  have kd : ∀ d u, Keeps 0x3fffffffffffffffffffffb20081ffffffffffffffffffffffffffffffffffffffffffffffffe u (told d u) := fun d u => keeps_if (fun _ => (statusEvent_keeps (by simp only [StReg.mask]; decide)) (Keeps.refl _ _)) (fun _ => Keeps.refl _ _)
  clear_value told s4
  have k5 : Keeps 0x3fffffffffffffffffffffb20081ffffffffffffffffffffffffffffffffffffffffffffffffe s s5 := (coresAfter_keeps (by decide)) ((coresAfter_keeps (by decide)) ((k4.trans (kd _ _)).trans (kd _ _)))
  clear_value s5
  have k5a : Keeps 0x3fffffffffffffffffffffb20081ffffffffffffffffffffffffffffffffffffffffffffffffe s s5a := keeps_if (fun _ => k5) (fun _ => (raiseArb_keeps (by decide)) k5)
  clear_value s5a
  have k6 : Keeps 0x3fffffffffffffffffffffb20081ffffffffffffffffffffffffffffffffffffffffffffffffe s s6 := keeps_if (fun _ => (spEvent_keeps (by decide)) ((setStatus_keeps (by simp only [StReg.mask]; decide)) k5a)) (fun _ => k5a)
  clear_value s6
  have k7 : Keeps 0x3fffffffffffffffffffffb20081ffffffffffffffffffffffffffffffffffffffffffffffffe s s7 := by
    clear_value done
    cases done with
    | none => exact k6
    | some a => exact (spEvent_keeps (by decide)) k6
  clear_value s7
  have kl : ∀ d u, Keeps 0x3fffffffffffffffffffffb20081ffffffffffffffffffffffffffffffffffffffffffffffffe u (lost d u) := fun d u =>
    keeps_if (fun _ => (event_keeps (by decide)) ((modBit_keeps (by decide)) (Keeps.refl _ _))) (fun _ => Keeps.refl _ _)
  clear_value lost
  exact (spEvent_keeps (by decide)) ((k7.trans (kl _ _)).trans (kl _ _))

theorem enterRecovery_keeps {failed : Two (List Nat)} {warm unsealed pufFail : Bool} {s : State} (hm : Sub 0x1ffffffc000000000001be0001f00003ff000000000000000000000fffffffff1ffe6000000 km) (hk :
    Keeps km kz s) : Keeps km kz (enterRecovery failed warm unsealed pufFail s) := by
  refine Keeps.lift hm ?_ hk
  clear hk
  unfold enterRecovery
  extract_lets pod
  refine (set_cfg_lft_swc_pod_ev_sec_mod_keeps ?_ ?_ ⟨?_, ?_⟩ ⟨?_, ?_⟩ ⟨?_, ?_⟩ ?_ ?_ ?_) (Keeps.refl _ _)
  · constructor <;> first | exact .inl (by decide) | exact .inr rfl
  · constructor <;> first | exact .inl (by decide) | exact .inr rfl
  · constructor <;> first | exact .inl (by decide) | exact .inr rfl
  · constructor <;> first | exact .inl (by decide) | exact .inr rfl
  · constructor <;> first | exact .inl (by decide) | exact .inr rfl
  · constructor <;> first | exact .inl (by decide) | exact .inr rfl
  · constructor <;> first | exact .inl (by decide) | exact .inr rfl
  · constructor <;> first | exact .inl (by decide) | exact .inr rfl
  · constructor <;> first | exact .inl (by decide) | exact .inr rfl
  · constructor <;> first | exact .inl (by decide) | exact .inr rfl
  · exact ⟨le_rfl, le_rfl, le_rfl, le_rfl, le_rfl⟩

theorem bootFrom_keeps {k : Nat} {failed : Two (List Nat)} {warm : Bool} {s : State} (hm : Sub 0x3fffffffffffffffffffffbfc081ffffffffffffffffffffffffffffffffffffffffffffffffe km) (hk :
    Keeps km kz s) : Keeps km kz (bootFrom k failed warm s) := by
  refine Keeps.lift hm ?_ hk
  unfold bootFrom
  repeat' first
    | (extract_lets; try clear_value *)
    | with_reducible refine (comeUp_keeps (hm := by decide)) ?_
    | with_reducible refine (modSec_keeps ?_ ?_) ?_
    | with_reducible exact Keeps.refl _ _
    | dsimp only
    | (constructor <;> first | exact .inl (by decide) | exact .inr rfl)
    | with_reducible exact SecMono.refl _
    | exact ⟨le_rfl, le_rfl, le_rfl, le_rfl, le_rfl⟩

theorem boot_keeps {failed : Two (List Nat)} {warm pufOk : Bool} {s : State} (hm : Sub 0x3fffffffffffffffffffffbfc081ffffffffffffffffffffffffffffffffffffffffffffffffe km) (hk :
    Keeps km kz s) : Keeps km kz (boot failed warm pufOk s) := by
  refine Keeps.lift hm ?_ hk
  unfold boot
  repeat' first
    | with_reducible exact Keeps.refl _ _
    | with_reducible refine (enterRecovery_keeps (hm := by decide)) ?_
    | with_reducible refine (bootFrom_keeps (hm := by decide)) ?_
    | with_reducible refine keeps_if (fun _ => ?_) (fun _ => ?_)
    | split

theorem startImage_keeps {k : Nat} {s : State} (hm : Sub 0x3fffffffffffffffffffffbfc081ffffffffffffffffffffffffffffffffffffffffffffffffe km) (hk :
    Keeps km kz s) : Keeps km kz (startImage k s) := by
  refine Keeps.lift hm ?_ hk
  unfold startImage
  repeat' first
    | with_reducible exact Keeps.refl _ _
    | with_reducible refine (bootFrom_keeps (hm := by decide)) ?_
    | with_reducible refine keeps_if (fun _ => ?_) (fun _ => ?_)
    | split

theorem flushDie_keeps {d : Die} {s : State} (hm : Sub 0x82000500000000000000000000000000000000 km) (hk :
    Keeps km kz s) : Keeps km kz (flushDie d s) := by
  refine Keeps.lift hm ?_ hk
  unfold flushDie
  repeat' first
    | with_reducible exact Keeps.refl _ _
    | with_reducible refine (modFtl_keeps ?_) ?_
    | dsimp only
    | (constructor <;> first | exact .inl (by decide) | exact .inr rfl)

theorem flushDown_keeps {cause : Nat} {s : State} (hm : Sub 0x140000400000000900000000000000000000082000500000000000000000000000000000000 km) (hk :
    Keeps km kz s) : Keeps km kz (flushDown cause s) := by
  refine Keeps.lift hm ?_ hk
  unfold flushDown
  repeat' first
    | with_reducible exact Keeps.refl _ _
    | with_reducible refine (setAdmit_keeps (hm := by decide)) ?_
    | with_reducible refine (flushDie_keeps (hm := by decide)) ?_
    | with_reducible refine (modMod_keeps ?_) ?_
    | with_reducible refine (startEscrow_keeps (hm := by decide)) ?_
    | with_reducible refine keeps_if (fun _ => ?_) (fun _ => ?_)
    | dsimp only
    | split
    | (constructor <;> first | exact .inl (by decide) | exact .inr rfl)

theorem meterPowerLoss_keeps {s : State} (hm : Sub 0x20000000000000000001c20000000000000000000000000000000000000000000000000000000 km) (hk :
    Keeps km kz s) : Keeps km kz (meterPowerLoss s) := by
  refine Keeps.lift hm ?_ hk
  unfold meterPowerLoss
  repeat' first
    | with_reducible exact Keeps.refl _ _
    | with_reducible refine (drawFree_keeps (hm := by decide)) ?_
    | with_reducible refine (drawFree_of_eq (heq := by assumption) (hm := by decide)) ?_
    | with_reducible refine (addSeal_keeps (hm := by decide)) ?_
    | with_reducible refine (addLog_keeps (hm := by decide)) ?_
    | with_reducible refine (modMtr_keeps ?_) ?_
    | with_reducible refine keeps_if (fun _ => ?_) (fun _ => ?_)
    | with_reducible refine keeps_if_snd (fun _ => ?_) (fun _ => ?_)
    | dsimp only
    | split
    | (constructor <;> first | exact .inl (by decide) | exact .inr rfl)
    | (simp only [Prod.ext_iff] at *; casesm* _ ∧ _; subst_vars)

theorem execInputLoss_keeps {s : State} : Keeps 0x201400007c0000000901c20000000000000000082000500000000000000000000000000000000 s (after (execInputLoss s) s) := by
  unfold execInputLoss
  repeat' first
    | with_reducible exact Keeps.refl _ _
    | with_reducible refine (modMod_keeps ?_) ?_
    | with_reducible refine (meterPowerLoss_keeps (hm := by decide)) ?_
    | with_reducible refine (flushDown_keeps (hm := by decide)) ?_
    | with_reducible refine keeps_if (fun _ => ?_) (fun _ => ?_)
    | with_reducible refine keeps_if_after (fun _ => ?_) (fun _ => ?_)
    | dsimp only
    | split
    | with_reducible refine keeps_after_modOk ?_
    | (constructor <;> first | exact .inl (by decide) | exact .inr rfl)

theorem execInputReturn_keeps {mv : Nat} {s : State} : Keeps 0xb40000000000000000000000000000000000000000000000000000000000000000000 s (after (execInputReturn mv s) s) := by
  unfold execInputReturn
  repeat' first
    | with_reducible exact Keeps.refl _ _
    | with_reducible refine (modMod_keeps ?_) ?_
    | with_reducible refine keeps_if (fun _ => ?_) (fun _ => ?_)
    | with_reducible refine keeps_if_after (fun _ => ?_) (fun _ => ?_)
    | dsimp only
    | split
    | with_reducible refine keeps_after_modOk ?_
    | (constructor <;> first | exact .inl (by decide) | exact .inr rfl)

theorem execPowerUp_keeps {p : PowerUpIn} {s : State} : Keeps 0x3fffffffffffffffffffffbfc081ffffffffffffffffffffffffffffffffffffffffffffffffe s (after (execPowerUp p s) s) := by
  unfold execPowerUp
  repeat' first
    | with_reducible exact Keeps.refl _ _
    | with_reducible refine (modMod_keeps ?_) ?_
    | with_reducible refine (modDie_keeps (hm := by decide)) ?_
    | with_reducible refine (boot_keeps (hm := by decide)) ?_
    | with_reducible refine keeps_if (fun _ => ?_) (fun _ => ?_)
    | with_reducible refine keeps_if_after (fun _ => ?_) (fun _ => ?_)
    | dsimp only
    | split
    | with_reducible refine keeps_after_modOk ?_
    | (constructor <;> first | exact .inl (by decide) | exact .inr rfl)

theorem endPlanned_keeps {s : State} (hm : Sub 0x20140000440000000901c20000000000000000082000500000000000000000000000000000000 km) (hk :
    Keeps km kz s) : Keeps km kz (endPlanned s) := by
  refine Keeps.lift hm ?_ hk
  unfold endPlanned
  repeat' first
    | with_reducible exact Keeps.refl _ _
    | with_reducible refine (modMod_keeps ?_) ?_
    | with_reducible refine (meterPowerLoss_keeps (hm := by decide)) ?_
    | with_reducible refine (flushDown_keeps (hm := by decide)) ?_
    | dsimp only
    | (constructor <;> first | exact .inl (by decide) | exact .inr rfl)

theorem execPlannedPowerDown_keeps {s : State} : Keeps 0x201400004c0000000901c20000000000000000082000500000000000000000000000000000000 s (after (execPlannedPowerDown s) s) := by
  unfold execPlannedPowerDown
  repeat' first
    | with_reducible exact Keeps.refl _ _
    | with_reducible refine (modMod_keeps ?_) ?_
    | with_reducible refine (setAdmit_keeps (hm := by decide)) ?_
    | with_reducible refine (endPlanned_keeps (hm := by decide)) ?_
    | with_reducible refine keeps_if (fun _ => ?_) (fun _ => ?_)
    | with_reducible refine keeps_if_after (fun _ => ?_) (fun _ => ?_)
    | dsimp only
    | split
    | with_reducible refine keeps_after_modOk ?_
    | (constructor <;> first | exact .inl (by decide) | exact .inr rfl)

theorem stopCompute_keeps {d : Die} {s : State} (hm : Sub 0x540500000000000000000000000000000000000000000 km) (hk :
    Keeps km kz s) : Keeps km kz (stopCompute d s) := by
  refine Keeps.lift hm ?_ hk
  unfold stopCompute
  repeat' first
    | with_reducible exact Keeps.refl _ _
    | with_reducible refine (modCol_keeps ?_) ?_
    | with_reducible refine (modPod_keeps ?_) ?_
    | with_reducible refine keeps_if (fun _ => ?_) (fun _ => ?_)
    | dsimp only
    | split
    | (constructor <;> first | exact .inl (by decide) | exact .inr rfl)

theorem execPlannedDownTimeout_keeps {s : State} : Keeps 0x20140000440000000901c20000000000540500082000500000000000000000000000000000000 s (after (execPlannedDownTimeout s) s) := by
  unfold execPlannedDownTimeout
  repeat' first
    | with_reducible exact Keeps.refl _ _
    | with_reducible refine (endPlanned_keeps (hm := by decide)) ?_
    | with_reducible refine (stopCompute_keeps (hm := by decide)) ?_
    | with_reducible refine keeps_if (fun _ => ?_) (fun _ => ?_)
    | with_reducible refine keeps_if_after (fun _ => ?_) (fun _ => ?_)
    | split
    | with_reducible refine keeps_after_modOk ?_

theorem moduleMarks_keeps {d : Die} {s : State} (hm : Sub 0xd80000000000000000000000000000000000000000000000000000000000 km) (hk :
    Keeps km kz s) : Keeps km kz (moduleMarks d s) := by
  refine Keeps.lift hm ?_ hk
  unfold moduleMarks
  repeat' first
    | with_reducible exact Keeps.refl _ _
    | with_reducible refine (tapFlush_keeps (hm := by decide)) ?_
    | with_reducible refine (tap_keeps (hm := by decide)) ?_
    | with_reducible refine (keeps_foldl_snd (fun _ _ => ?_)) ?_
    | with_reducible refine (keeps_foldl_fst (fun _ _ => ?_)) ?_
    | with_reducible refine (keeps_foldl_third (fun _ _ => ?_)) ?_
    | with_reducible refine (keeps_foldl_mid (fun _ _ => ?_)) ?_
    | with_reducible refine (keeps_foldl (fun _ _ => ?_)) ?_
    | dsimp only
    | (simp only [Prod.ext_iff] at *; casesm* _ ∧ _; subst_vars)

theorem warmReset_keeps {s : State} (hm : Sub 0x3fffffffffffffffffffffbfc081ffffffffffffffffffffffffffffffffffffffffffffffffe km) (hk :
    Keeps km kz s) : Keeps km kz (warmReset s) := by
  refine Keeps.lift hm ?_ hk
  unfold warmReset
  repeat' first
    | with_reducible exact Keeps.refl _ _
    | with_reducible refine (stopCompute_keeps (hm := by decide)) ?_
    | with_reducible refine (setAdmit_keeps (hm := by decide)) ?_
    | with_reducible refine (moduleMarks_keeps (hm := by decide)) ?_
    | with_reducible refine (boot_keeps (hm := by decide)) ?_
    | with_reducible refine (flushDown_keeps (hm := by decide)) ?_
    | dsimp only

theorem sendOut_keeps {r : CtlReq} {s : State} (hm : Sub 0x20000000000 km) (hk : Keeps km kz s) : Keeps km kz (sendOut r s) := by
  refine Keeps.lift hm ?_ hk
  unfold sendOut
  repeat' first
    | with_reducible exact Keeps.refl _ _
    | with_reducible refine (modLft_keeps ?_) ?_
    | with_reducible refine keeps_if (fun _ => ?_) (fun _ => ?_)
    | dsimp only
    | split
    | (constructor <;> first | exact .inl (by decide) | exact .inr rfl)
    | (simp only [Prod.ext_iff] at *; casesm* _ ∧ _; subst_vars)

theorem resetOwn_keeps {r : CtlReq} {s : State} (hm : Sub 0x3fffffffffffffffffffffbfc081ffffffffffffffffffffffffffffffffffffffffffffffffe km) (hk :
    Keeps km kz s) : Keeps km kz (resetOwn r s) := by
  refine Keeps.lift hm ?_ hk
  unfold resetOwn
  repeat' first
    | with_reducible exact Keeps.refl _ _
    | with_reducible refine (warmReset_keeps (hm := by decide)) ?_
    | with_reducible refine (sendOut_keeps (hm := by decide)) ?_
    | with_reducible refine (ctlEnd_keeps (hm := by decide)) ?_

theorem execModuleReset_keeps {r : CtlReq} {s : State} : Keeps 0x3fffffffffffffffffffffbfc081ffffffffffffffffffffffffffffffffffffffffffffffffe s (after (execModuleReset r s) s) := by
  unfold execModuleReset
  repeat' first
    | with_reducible exact Keeps.refl _ _
    | with_reducible refine (runCtl_keeps (hm := by decide) (h_own := fun _ => ?_)) ?_
    | with_reducible refine (resetOwn_keeps (hm := by decide)) ?_
    | with_reducible refine keeps_after_ctlOk ?_

theorem execStalkFailure_keeps {s : State} : Keeps 0xc0000000000000000000000000000000000000000000000000000000000000000000000000 s (after (execStalkFailure s) s) := by
  unfold execStalkFailure
  repeat' first
    | with_reducible exact Keeps.refl _ _
    | with_reducible refine (modMod_keeps ?_) ?_
    | with_reducible refine (setAdmit_keeps (hm := by decide)) ?_
    | dsimp only
    | with_reducible refine keeps_after_modOk ?_
    | (constructor <;> first | exact .inl (by decide) | exact .inr rfl)

theorem execHoldupTest_keeps {tenthMs : Nat} {s : State} : Keeps 0x106000000000d80000000001800000000000000000000000040220000002d81600000000 s (after (execHoldupTest tenthMs s) s) := by
  unfold execHoldupTest
  repeat' first
    | with_reducible exact Keeps.refl _ _
    | with_reducible refine (modMod_keeps ?_) ?_
    | with_reducible refine (spEvent_keeps (hm := by decide)) ?_
    | with_reducible refine (modBit_keeps (hm := by decide)) ?_
    | with_reducible refine (answerMedia_keeps (hm := by decide)) ?_
    | with_reducible refine keeps_if (fun _ => ?_) (fun _ => ?_)
    | with_reducible refine keeps_if_after (fun _ => ?_) (fun _ => ?_)
    | dsimp only
    | split
    | with_reducible refine keeps_after_modOk ?_
    | (constructor <;> first | exact .inl (by decide) | exact .inr rfl)

theorem noteTj_keeps {d : Die} {tj : Int} {s : State} (hm : Sub 0x200000000000000000000000000000000000000000000000000000000000000000000000 km) (hk :
    Keeps km kz s) : Keeps km kz (noteTj d tj s) := by
  refine Keeps.lift hm ?_ hk
  unfold noteTj
  repeat' first
    | with_reducible exact Keeps.refl _ _
    | with_reducible refine (modDie_keeps (hm := by decide)) ?_
    | with_reducible refine keeps_if (fun _ => ?_) (fun _ => ?_)
    | dsimp only
    | split

theorem thermalEvent_keeps {d : Die} {tj inlet : Int} {s : State} (hm : Sub 0x1800000000000000000000000000000000000000000000000 km) (hk :
    Keeps km kz s) : Keeps km kz (thermalEvent d tj inlet s) := by
  refine Keeps.lift hm ?_ hk
  unfold thermalEvent
  repeat' first
    | with_reducible exact Keeps.refl _ _
    | with_reducible refine (event_keeps (hm := by decide)) ?_
    | dsimp only

theorem execThermalHoldEnter_keeps {d : Die} {tj inlet : Int} {s : State} : Keeps 0x700000000000000000000001800000000000000000000000000000000000000000000000 s (after (execThermalHoldEnter d tj inlet s) s) := by
  unfold execThermalHoldEnter
  repeat' first
    | with_reducible exact Keeps.refl _ _
    | with_reducible refine (modMod_keeps ?_) ?_
    | with_reducible refine (modDie_keeps (hm := by decide)) ?_
    | with_reducible refine (noteTj_keeps (hm := by decide)) ?_
    | with_reducible refine (thermalEvent_keeps (hm := by decide)) ?_
    | with_reducible refine (modBit_keeps (hm := by decide)) ?_
    | with_reducible refine keeps_if (fun _ => ?_) (fun _ => ?_)
    | with_reducible refine keeps_if_after (fun _ => ?_) (fun _ => ?_)
    | dsimp only
    | split
    | with_reducible refine keeps_after_modOk ?_
    | (constructor <;> first | exact .inl (by decide) | exact .inr rfl)

theorem execThermalHoldExit_keeps {d : Die} {tj inlet : Int} {s : State} : Keeps 0x600000000000000000000001800000000000000000000000000000000000000000000000 s (after (execThermalHoldExit d tj inlet s) s) := by
  unfold execThermalHoldExit
  repeat' first
    | with_reducible exact Keeps.refl _ _
    | with_reducible refine (modMod_keeps ?_) ?_
    | with_reducible refine (modDie_keeps (hm := by decide)) ?_
    | with_reducible refine (noteTj_keeps (hm := by decide)) ?_
    | with_reducible refine (thermalEvent_keeps (hm := by decide)) ?_
    | with_reducible refine keeps_if (fun _ => ?_) (fun _ => ?_)
    | with_reducible refine keeps_if_after (fun _ => ?_) (fun _ => ?_)
    | dsimp only
    | split
    | with_reducible refine keeps_after_modOk ?_
    | (constructor <;> first | exact .inl (by decide) | exact .inr rfl)

theorem execThermalTrip_keeps {d : Die} {tj : Int} {s : State} : Keeps 0x201402004c0000000901c20000000000000000082000500000000000000000000000000000000 s (after (execThermalTrip d tj s) s) := by
  unfold execThermalTrip
  repeat' first
    | with_reducible exact Keeps.refl _ _
    | with_reducible refine (modMod_keeps ?_) ?_
    | with_reducible refine (meterPowerLoss_keeps (hm := by decide)) ?_
    | with_reducible refine (flushDown_keeps (hm := by decide)) ?_
    | with_reducible refine (noteTj_keeps (hm := by decide)) ?_
    | with_reducible refine keeps_if (fun _ => ?_) (fun _ => ?_)
    | with_reducible refine keeps_if_after (fun _ => ?_) (fun _ => ?_)
    | dsimp only
    | split
    | with_reducible refine keeps_after_modOk ?_
    | (constructor <;> first | exact .inl (by decide) | exact .inr rfl)

theorem execCoolantInletHigh_keeps {inlet : Int} {s : State} : Keeps 0x500000000000000000000001800000000000000000000000000000000000000000000000 s (after (execCoolantInletHigh inlet s) s) := by
  unfold execCoolantInletHigh
  repeat' first
    | with_reducible exact Keeps.refl _ _
    | with_reducible refine (modBit_keeps (hm := by decide)) ?_
    | with_reducible refine (modMod_keeps ?_) ?_
    | with_reducible refine (thermalEvent_keeps (hm := by decide)) ?_
    | with_reducible refine keeps_if (fun _ => ?_) (fun _ => ?_)
    | with_reducible refine keeps_if_after (fun _ => ?_) (fun _ => ?_)
    | dsimp only
    | split
    | with_reducible refine keeps_after_modOk ?_
    | (constructor <;> first | exact .inl (by decide) | exact .inr rfl)

theorem execInputLow_keeps {mv : Nat} {s : State} : Keeps 0x100800000000000000000001800000000000000000000000000000000000000000000000 s (after (execInputLow mv s) s) := by
  unfold execInputLow
  repeat' first
    | with_reducible exact Keeps.refl _ _
    | with_reducible refine (spEvent_keeps (hm := by decide)) ?_
    | with_reducible refine (modBit_keeps (hm := by decide)) ?_
    | with_reducible refine (modMod_keeps ?_) ?_
    | with_reducible refine keeps_if (fun _ => ?_) (fun _ => ?_)
    | with_reducible refine keeps_if_after (fun _ => ?_) (fun _ => ?_)
    | dsimp only
    | split
    | with_reducible refine keeps_after_modOk ?_
    | (constructor <;> first | exact .inl (by decide) | exact .inr rfl)

theorem spareLane_keeps {d : Die} {port lane : Nat} {s : State} (hm : Sub 0x200000000000000000000000000000000000000000000000000000000000000200000000 km) (hk :
    Keeps km kz s) : Keeps km kz (spareLane d port lane s).2 := by
  refine Keeps.lift hm ?_ hk
  unfold spareLane
  repeat' first
    | with_reducible exact Keeps.refl _ _
    | with_reducible refine (modDie_keeps (hm := by decide)) ?_
    | with_reducible refine (modSub_keeps (hm := by decide)) ?_
    | with_reducible refine keeps_if (fun _ => ?_) (fun _ => ?_)
    | with_reducible refine keeps_if_snd (fun _ => ?_) (fun _ => ?_)
    | dsimp only
    | split

theorem spareLane_of_eq {d : Die} {port lane : Nat} {s : State}{v0} {v1 : State} (heq : spareLane d port lane s = (v0, v1)) (hm : Sub 0x200000000000000000000000000000000000000000000000000000000000000200000000 km) (hk :
    Keeps km kz s) : Keeps km kz v1 := by
  have h := spareLane_keeps (kz := kz) (s := s) hm hk (d := d) (port := port) (lane := lane)
  rw [heq] at h
  exact h

theorem execLaneAutoSpare_keeps {port lane : Nat} {s : State} : Keeps 0x200000000000000000000000000000000000000000000000000000000000000200000000 s (after (execLaneAutoSpare port lane s) s) := by
  unfold execLaneAutoSpare
  repeat' first
    | with_reducible exact Keeps.refl _ _
    | with_reducible refine (spareLane_keeps (hm := by decide)) ?_
    | with_reducible refine (spareLane_of_eq (heq := by assumption) (hm := by decide)) ?_
    | with_reducible refine keeps_if (fun _ => ?_) (fun _ => ?_)
    | with_reducible refine keeps_if_after (fun _ => ?_) (fun _ => ?_)
    | with_reducible refine keeps_if_snd (fun _ => ?_) (fun _ => ?_)
    | split
    | with_reducible refine keeps_after_modOk ?_

theorem execLaneRetrainDone_keeps {port lane : Nat} {s : State} : Keeps 0x1100000000000000000000001800000000000000000000000000000000000000200000000 s (after (execLaneRetrainDone port lane s) s) := by
  unfold execLaneRetrainDone
  repeat' first
    | with_reducible exact Keeps.refl _ _
    | with_reducible refine (modMod_keeps ?_) ?_
    | with_reducible refine (modSub_keeps (hm := by decide)) ?_
    | with_reducible refine (event_keeps (hm := by decide)) ?_
    | with_reducible refine (modBit_keeps (hm := by decide)) ?_
    | with_reducible refine keeps_if (fun _ => ?_) (fun _ => ?_)
    | with_reducible refine keeps_if_after (fun _ => ?_) (fun _ => ?_)
    | dsimp only
    | split
    | with_reducible refine keeps_after_modOk ?_
    | (constructor <;> first | exact .inl (by decide) | exact .inr rfl)

theorem sparePc_keeps {stack pc : Nat} {s : State} (hm : Sub 0x6100000000000000000000001800000000000000000000000000000000000000000000000 km) (hk :
    Keeps km kz s) : Keeps km kz (sparePc stack pc s).2 := by
  refine Keeps.lift hm ?_ hk
  unfold sparePc
  repeat' first
    | with_reducible exact Keeps.refl _ _
    | with_reducible refine (modMod_keeps ?_) ?_
    | with_reducible refine (modBit_keeps (hm := by decide)) ?_
    | with_reducible refine keeps_if (fun _ => ?_) (fun _ => ?_)
    | with_reducible refine keeps_if_snd (fun _ => ?_) (fun _ => ?_)
    | dsimp only
    | split
    | (constructor <;> first | exact .inl (by decide) | exact .inr rfl)

theorem sparePc_of_eq {stack pc : Nat} {s : State}{v0} {v1 : State} (heq : sparePc stack pc s = (v0, v1)) (hm : Sub 0x6100000000000000000000001800000000000000000000000000000000000000000000000 km) (hk :
    Keeps km kz s) : Keeps km kz v1 := by
  have h := sparePc_keeps (kz := kz) (s := s) hm hk (stack := stack) (pc := pc)
  rw [heq] at h
  exact h

theorem execPcAutoSpare_keeps {stack pc : Nat} {s : State} : Keeps 0x6100000000000000000000001800000000000000000000000000000000000000000000000 s (after (execPcAutoSpare stack pc s) s) := by
  unfold execPcAutoSpare
  repeat' first
    | with_reducible exact Keeps.refl _ _
    | with_reducible refine (modBit_keeps (hm := by decide)) ?_
    | with_reducible refine (sparePc_keeps (hm := by decide)) ?_
    | with_reducible refine (sparePc_of_eq (heq := by assumption) (hm := by decide)) ?_
    | with_reducible refine keeps_if (fun _ => ?_) (fun _ => ?_)
    | with_reducible refine keeps_if_after (fun _ => ?_) (fun _ => ?_)
    | with_reducible refine keeps_if_snd (fun _ => ?_) (fun _ => ?_)
    | split
    | with_reducible refine keeps_after_modOk ?_

theorem execPcSpareSwitchover_keeps {stack pc : Nat} {s : State} : Keeps 0x4100000000000000000000001800000000000000000000000000000000000000000000000 s (after (execPcSpareSwitchover stack pc s) s) := by
  unfold execPcSpareSwitchover
  repeat' first
    | with_reducible exact Keeps.refl _ _
    | with_reducible refine (modMod_keeps ?_) ?_
    | with_reducible refine (event_keeps (hm := by decide)) ?_
    | with_reducible refine (modBit_keeps (hm := by decide)) ?_
    | with_reducible refine keeps_if (fun _ => ?_) (fun _ => ?_)
    | with_reducible refine keeps_if_after (fun _ => ?_) (fun _ => ?_)
    | dsimp only
    | split
    | with_reducible refine keeps_after_modOk ?_
    | (constructor <;> first | exact .inl (by decide) | exact .inr rfl)

theorem execRowRepair_keeps {stack row : Nat} {s : State} : Keeps 0x10100000000000000000000001800000000000000000000000000000000000000000000000 s (after (execRowRepair stack row s) s) := by
  unfold execRowRepair
  repeat' first
    | with_reducible exact Keeps.refl _ _
    | with_reducible refine (modBit_keeps (hm := by decide)) ?_
    | with_reducible refine (modMod_keeps ?_) ?_
    | with_reducible refine keeps_if (fun _ => ?_) (fun _ => ?_)
    | with_reducible refine keeps_if_after (fun _ => ?_) (fun _ => ?_)
    | dsimp only
    | split
    | with_reducible refine keeps_after_modOk ?_
    | (constructor <;> first | exact .inl (by decide) | exact .inr rfl)

theorem execRowRepairDone_keeps {stack row : Nat} {s : State} : Keeps 0x38038100000800000d80000000001b80000040000008190d40067865260000002d81600000000 s (after (execRowRepairDone stack row s) s) := by
  unfold execRowRepairDone
  repeat' first
    | with_reducible exact Keeps.refl _ _
    | with_reducible refine (drawFree_keeps (hm := by decide)) ?_
    | with_reducible refine (drawFree_of_eq (heq := by assumption) (hm := by decide)) ?_
    | with_reducible refine (modMod_keeps ?_) ?_
    | with_reducible refine (modBit_keeps (hm := by decide)) ?_
    | with_reducible refine (event_keeps (hm := by decide)) ?_
    | with_reducible refine (resume_keeps (hm := by decide)) ?_
    | with_reducible refine keeps_if (fun _ => ?_) (fun _ => ?_)
    | with_reducible refine keeps_if_after (fun _ => ?_) (fun _ => ?_)
    | with_reducible refine keeps_if_snd (fun _ => ?_) (fun _ => ?_)
    | dsimp only
    | split
    | with_reducible refine keeps_after_modOk ?_
    | (constructor <;> first | exact .inl (by decide) | exact .inr rfl)
    | (simp only [Prod.ext_iff] at *; casesm* _ ∧ _; subst_vars)

theorem refreshReadings_keeps {d : Die} {s : State} (hm : Sub 0x20000e01800000000000000000000000000000000000000000000000000000000000000000000 km) (hk :
    Keeps km kz s) : Keeps km kz (refreshReadings d s) := by
  refine Keeps.lift hm ?_ hk
  unfold refreshReadings
  repeat' first
    | with_reducible exact Keeps.refl _ _
    | with_reducible refine (drawFree_keeps (hm := by decide)) ?_
    | with_reducible refine (drawFree_of_eq (heq := by assumption) (hm := by decide)) ?_
    | with_reducible refine (modMod_keeps ?_) ?_
    | with_reducible refine (noteTj_keeps (hm := by decide)) ?_
    | with_reducible refine keeps_if (fun _ => ?_) (fun _ => ?_)
    | with_reducible refine keeps_if_snd (fun _ => ?_) (fun _ => ?_)
    | dsimp only
    | split
    | (constructor <;> first | exact .inl (by decide) | exact .inr rfl)
    | (simp only [Prod.ext_iff] at *; casesm* _ ∧ _; subst_vars)

theorem execPaceMeasure_keeps {d : Die} {pace : Nat} {s0 : State} : Keeps 0x20000e01800000000000000000001800000000000000000000000000000000000000000000000 s0 (after (execPaceMeasure d pace s0) s0) := by
  unfold execPaceMeasure
  repeat' first
    | with_reducible exact Keeps.refl _ _
    | with_reducible refine (refreshReadings_keeps (hm := by decide)) ?_
    | with_reducible refine (modDie_keeps (hm := by decide)) ?_
    | with_reducible refine (event_keeps (hm := by decide)) ?_
    | with_reducible refine keeps_if (fun _ => ?_) (fun _ => ?_)
    | with_reducible refine keeps_if_after (fun _ => ?_) (fun _ => ?_)
    | dsimp only
    | split
    | with_reducible refine keeps_after_modOk ?_

theorem execRefClockLoss_keeps {s : State} : Keeps 0x300000000000000000000001800000000000000000000000000000000000000000000000 s (after (execRefClockLoss s) s) := by
  unfold execRefClockLoss
  repeat' first
    | with_reducible exact Keeps.refl _ _
    | with_reducible refine (event_keeps (hm := by decide)) ?_
    | with_reducible refine (modBit_keeps (hm := by decide)) ?_
    | with_reducible refine (modDie_keeps (hm := by decide)) ?_
    | with_reducible refine keeps_if (fun _ => ?_) (fun _ => ?_)
    | with_reducible refine keeps_if_after (fun _ => ?_) (fun _ => ?_)
    | dsimp only
    | split
    | with_reducible refine keeps_after_modOk ?_

theorem execRefClockReturn_keeps {s : State} : Keeps 0x200000000000000000000001800000000000000000000000000000000000000000000000 s (after (execRefClockReturn s) s) := by
  unfold execRefClockReturn
  repeat' first
    | with_reducible exact Keeps.refl _ _
    | with_reducible refine (event_keeps (hm := by decide)) ?_
    | with_reducible refine (modDie_keeps (hm := by decide)) ?_
    | with_reducible refine keeps_if (fun _ => ?_) (fun _ => ?_)
    | with_reducible refine keeps_if_after (fun _ => ?_) (fun _ => ?_)
    | dsimp only
    | split
    | with_reducible refine keeps_after_modOk ?_

theorem execLocalFractionUpdate_keeps {d : Die} {s : State} : Keeps 0x200000000000000000000000000000000000000000000000000000000000000000000001c0000 s (after (execLocalFractionUpdate d s) s) := by
  unfold execLocalFractionUpdate
  repeat' first
    | with_reducible exact Keeps.refl _ _
    | with_reducible refine (modCfg_keeps ?_) ?_
    | with_reducible refine (drawFree_keeps (hm := by decide)) ?_
    | with_reducible refine (drawFree_of_eq (heq := by assumption) (hm := by decide)) ?_
    | with_reducible refine keeps_if (fun _ => ?_) (fun _ => ?_)
    | with_reducible refine keeps_if_after (fun _ => ?_) (fun _ => ?_)
    | with_reducible refine keeps_if_snd (fun _ => ?_) (fun _ => ?_)
    | dsimp only
    | split
    | with_reducible refine keeps_after_modOk ?_
    | (constructor <;> first | exact .inl (by decide) | exact .inr rfl)
    | (simp only [Prod.ext_iff] at *; casesm* _ ∧ _; subst_vars)

theorem abortCtl_keeps {d : Die} {f : Frame} {s : State} (hm : Sub 0x800000000000000000000000040020000002d81600000000 km) (hk :
    Keeps km kz s) : Keeps km kz (abortCtl d f s) := by
  refine Keeps.lift hm ?_ hk
  unfold abortCtl
  repeat' first
    | with_reducible exact Keeps.refl _ _
    | with_reducible refine (sendAll_keeps (hm := by decide)) ?_

theorem execSpTakeover_keeps {s : State} : Keeps 0x1800000000000000000000000040020000002d81672400000 s (after (execSpTakeover s) s) := by
  unfold execSpTakeover
  repeat' first
    | with_reducible exact Keeps.refl _ _
    | with_reducible refine (modCfg_keeps ?_) ?_
    | with_reducible refine (ctlAnswer_keeps (hm := by decide)) ?_
    | with_reducible refine (spEvent_keeps (hm := by decide)) ?_
    | with_reducible refine (abortCtl_keeps (hm := by decide)) ?_
    | with_reducible refine (keeps_foldl_snd (fun _ _ => ?_)) ?_
    | with_reducible refine (keeps_foldl_fst (fun _ _ => ?_)) ?_
    | with_reducible refine (keeps_foldl_third (fun _ _ => ?_)) ?_
    | with_reducible refine (keeps_foldl_mid (fun _ _ => ?_)) ?_
    | with_reducible refine (keeps_foldl (fun _ _ => ?_)) ?_
    | with_reducible refine keeps_if (fun _ => ?_) (fun _ => ?_)
    | with_reducible refine keeps_if_after (fun _ => ?_) (fun _ => ?_)
    | dsimp only
    | split
    | with_reducible refine keeps_after_modOk ?_
    | (constructor <;> first | exact .inl (by decide) | exact .inr rfl)
    | (simp only [Prod.ext_iff] at *; casesm* _ ∧ _; subst_vars)

end Machine
end Sys2Proof
end

