-- ==== Sys2Proof/Laws/FrameApply.lean ====
section
/-! SUPPORT. Frames of the functions of Machine/Apply.lean: the parts of the state that each may change, as a mask (Laws/Keeps.lean). -/

namespace Sys2Proof
namespace Machine
set_option linter.unusedTactic false
set_option linter.unreachableTactic false
set_option linter.tactic.unusedName false
variable {km : Nat} {kz : State}

theorem addExtent_keeps {i : Nat} {s : State} (hm : Sub 0x980000000000800000000000000008000000000000000000000000000000 km) (hk :
    Keeps km kz s) : Keeps km kz (addExtent i s) := by
  refine Keeps.lift hm ?_ hk
  unfold addExtent
  repeat' first
    | with_reducible exact Keeps.refl _ _
    | with_reducible refine (placeExt_keeps (hm := by decide)) ?_
    | with_reducible refine (modExt_keeps (hm := by decide)) ?_
    | with_reducible refine keeps_if (fun _ => ?_) (fun _ => ?_)
    | dsimp only
    | split

theorem deleteExtent_keeps {e : ExtV} {s : State} (hm : Sub 0x18000000000000000980000000000800000000000000008040000000000000000000000000000 km) (hk :
    Keeps km kz s) : Keeps km kz (deleteExtent e s) := by
  refine Keeps.lift hm ?_ hk
  clear hk
  unfold deleteExtent
  extract_lets s1 at_ s2 inExt
  have k1 : Keeps 0x18000000000000000980000000000800000000000000008040000000000000000000000000000 s s1 := (set_exts_keeps (by decide)) (Keeps.refl _ _)
  refine keeps_if (fun _ => k1) (fun _ => ?_)
  have k2 : Keeps 0x18000000000000000980000000000800000000000000008040000000000000000000000000000 s s2 := (dropCharge_keeps (by decide)) k1
  clear_value inExt s2 at_
  refine (modTier_keeps ?_) (set_mem_poison_keeps (by decide) (by decide) memWf_memClear k2)
  constructor <;> first | exact .inl (by decide) | exact .inr rfl

theorem moveToDie_keeps {old : Die} {e : ExtV} {id : Nat} {s : State} (hm : Sub 0x18000000000000000000000000001800000040045c08193c00000040060000002d81600000000 km) (hk :
    Keeps km kz s) : Keeps km kz (moveToDie old e id s) := by
  refine Keeps.lift hm ?_ hk
  unfold moveToDie
  repeat' first
    | with_reducible exact Keeps.refl _ _
    | with_reducible refine (unmapUnits_keeps (hm := by decide)) ?_
    | with_reducible refine (modObj_keeps (hm := by decide)) ?_
    | with_reducible refine (journalObj_keeps (hm := by decide)) ?_
    | with_reducible refine (startCopy_keeps (hm := by decide)) ?_
    | with_reducible refine keeps_if (fun _ => ?_) (fun _ => ?_)
    | dsimp only
    | split
    | (simp only [id, Keeps.refl]; done)

theorem moveExtent_keeps {old : Die} {i : Nat} {s : State} (hm : Sub 0x18000000000000000000000000001800000040045c0819bc40000040060000002d81600000000 km) (hk :
    Keeps km kz s) : Keeps km kz (moveExtent old i s) := by
  refine Keeps.lift hm ?_ hk
  unfold moveExtent
  repeat' first
    | with_reducible exact Keeps.refl _ _
    | with_reducible refine (moveToDie_keeps (hm := by decide)) ?_
    | with_reducible refine (modExt_keeps (hm := by decide)) ?_
    | with_reducible refine (modTier_keeps ?_) ?_
    | with_reducible refine (keeps_foldl_snd (fun _ _ => ?_)) ?_
    | with_reducible refine (keeps_foldl_fst (fun _ _ => ?_)) ?_
    | with_reducible refine (keeps_foldl_third (fun _ _ => ?_)) ?_
    | with_reducible refine (keeps_foldl_mid (fun _ _ => ?_)) ?_
    | with_reducible refine (keeps_foldl (fun _ _ => ?_)) ?_
    | with_reducible refine keeps_if (fun _ => ?_) (fun _ => ?_)
    | dsimp only
    | split
    | (constructor <;> first | exact .inl (by decide) | exact .inr rfl)
    | (simp only [Prod.ext_iff] at *; casesm* _ ∧ _; subst_vars)
    | (simp only [id, Keeps.refl]; done)

theorem retrainPort_keeps {p : Nat} {s : State} (hm : Sub 0x100000002591e00000000 km) (hk :
    Keeps km kz s) : Keeps km kz (retrainPort p s) := by
  refine Keeps.lift hm ?_ hk
  unfold retrainPort
  repeat' first
    | with_reducible exact Keeps.refl _ _
    | with_reducible refine (clearSub_keeps (hm := by decide)) ?_
    | with_reducible refine (keeps_foldl_snd (fun _ _ => ?_)) ?_
    | with_reducible refine (keeps_foldl_fst (fun _ _ => ?_)) ?_
    | with_reducible refine (keeps_foldl_third (fun _ _ => ?_)) ?_
    | with_reducible refine (keeps_foldl_mid (fun _ _ => ?_)) ?_
    | with_reducible refine (keeps_foldl (fun _ _ => ?_)) ?_
    | dsimp only
    | (simp only [Prod.ext_iff] at *; casesm* _ ∧ _; subst_vars)

theorem freshTray_keeps {p : Nat} {s : State} (hm : Sub 0x1000000000000000000000000000000000000000000000000000000000000000000 km) (hk :
    Keeps km kz s) : Keeps km kz (freshTray p s) := by
  refine Keeps.lift hm ?_ hk
  unfold freshTray
  repeat' first
    | with_reducible exact Keeps.refl _ _
    | with_reducible refine (modFlt_keeps ?_) ?_
    | dsimp only
    | (constructor <;> first | exact .inl (by decide) | exact .inr rfl)

theorem freshBuckets_keeps {c : Nat} {s : State} (hm : Sub 0x10000000000000000000000000000000000000000000000000 km) (hk :
    Keeps km kz s) : Keeps km kz (freshBuckets c s) := by
  refine Keeps.lift hm ?_ hk
  unfold freshBuckets
  repeat' first
    | with_reducible exact Keeps.refl _ _
    | with_reducible refine (modEv_keeps ?_) ?_
    | dsimp only
    | (constructor <;> first | exact .inl (by decide) | exact .inr rfl)

theorem rerouted_keeps {before sw : Nat} {old : List Nat} {s : State} (hm : Sub 0x40000000002d85a00000000 km) (hk :
    Keeps km kz s) : Keeps km kz (rerouted before sw old s) := by
  refine Keeps.lift hm ?_ hk
  unfold rerouted
  repeat' first
    | with_reducible exact Keeps.refl _ _
    | with_reducible refine (releaseHeld_keeps (hm := by decide)) ?_
    | with_reducible refine (startBarrier_keeps (hm := by decide)) ?_
    | with_reducible refine (keeps_foldl_snd (fun _ _ => ?_)) ?_
    | with_reducible refine (keeps_foldl_fst (fun _ _ => ?_)) ?_
    | with_reducible refine (keeps_foldl_third (fun _ _ => ?_)) ?_
    | with_reducible refine (keeps_foldl_mid (fun _ _ => ?_)) ?_
    | with_reducible refine (keeps_foldl (fun _ _ => ?_)) ?_
    | with_reducible refine keeps_if (fun _ => ?_) (fun _ => ?_)
    | dsimp only
    | split
    | (simp only [Prod.ext_iff] at *; casesm* _ ∧ _; subst_vars)

theorem freshCtx_keeps {c : Nat} {s : State} (hm : Sub 0x800000000000000000000000000000000000000000000000 km) (hk :
    Keeps km kz s) : Keeps km kz (freshCtx c s) := by
  refine Keeps.lift hm ?_ hk
  unfold freshCtx
  repeat' first
    | with_reducible exact Keeps.refl _ _
    | with_reducible refine (modCtx_keeps (hm := by decide)) ?_
    | dsimp only

theorem installChange_keeps {c : Change} {s : State} (hm : Sub 0x18000000001600000980000000011840000040045c0819bc40000040160000002d95e00000002 km) (hk :
    Keeps km kz s) : Keeps km kz (installChange c s) := by
  refine Keeps.lift hm ?_ hk
  clear hk
  unfold installChange
  extract_lets old t
  have kt : Keeps 0x18000000001600000980000000011840000040045c0819bc40000040160000002d95e00000002 s t := (withChanges_keeps (by decide)) (Keeps.refl _ _)
  clear_value t old
  refine keeps_if (fun _ => keeps_if (fun _ => kt) (fun _ => (retrainPort_keeps (by decide)) kt)) (fun _ => ?_)
  refine keeps_if (fun _ => (rerouted_keeps (by decide)) kt) (fun _ => ?_)
  refine keeps_if (fun _ => (freshTray_keeps (by decide)) kt) (fun _ => ?_)
  refine keeps_if (fun _ => ?_) (fun _ => ?_)
  · split
    · exact (set_vols_keeps (by decide)) kt
    · exact kt
    · exact (set_vols_keeps (by decide)) kt
  refine keeps_if (fun _ => ?_) (fun _ => ?_)
  · split
    · exact (freshCtx_keeps (by decide)) kt
    · exact (modCtx_keeps (by decide)) kt
    · exact (modCtx_keeps (by decide)) kt
  refine keeps_if (fun _ => (freshBuckets_keeps (by decide)) kt) (fun _ => ?_)
  refine keeps_if (fun _ => ?_) (fun _ => ?_)
  · split
    · exact (addExtent_keeps (by decide)) kt
    · exact keeps_if (fun _ => kt) (fun _ => (moveExtent_keeps (by decide)) kt)
    · exact kt
    · exact (deleteExtent_keeps (by decide)) kt
    · exact kt
  refine keeps_if (fun _ => ?_) (fun _ => ?_)
  · split
    · refine (set_cmp_keeps ?_) kt
      constructor <;> first | exact .inl (by decide) | exact .inr rfl
    · exact kt
    · refine (set_cmp_keeps ?_) kt
      constructor <;> first | exact .inl (by decide) | exact .inr rfl
  refine keeps_if (fun _ => ?_) (fun _ => ?_)
  · split
    · refine (modFlt_keeps ?_) kt
      constructor <;> first | exact .inl (by decide) | exact .inr rfl
    · exact kt
    · refine (modFlt_keeps ?_) kt
      constructor <;> first | exact .inl (by decide) | exact .inr rfl
  · refine keeps_if (fun _ => ?_) (fun _ => kt)
    refine (modFlt_keeps ?_) kt
    constructor <;> first | exact .inl (by decide) | exact .inr rfl

theorem drainKick_keeps {x : Drain} {s : State} (hm : Sub 0x1800000000000000000c00067844060000002d81600000000 km) (hk :
    Keeps km kz s) : Keeps km kz (drainKick x s) := by
  refine Keeps.lift hm ?_ hk
  unfold drainKick
  repeat' first
    | with_reducible exact Keeps.refl _ _
    | with_reducible refine (startRecall_keeps (hm := by decide)) ?_
    | with_reducible refine (ccWriteback_keeps (hm := by decide)) ?_
    | with_reducible refine (modHome_keeps ?_) ?_
    | with_reducible refine (keeps_foldl_snd (fun _ _ => ?_)) ?_
    | with_reducible refine (keeps_foldl_fst (fun _ _ => ?_)) ?_
    | with_reducible refine (keeps_foldl_third (fun _ _ => ?_)) ?_
    | with_reducible refine (keeps_foldl_mid (fun _ _ => ?_)) ?_
    | with_reducible refine (keeps_foldl (fun _ _ => ?_)) ?_
    | with_reducible refine keeps_if (fun _ => ?_) (fun _ => ?_)
    | dsimp only
    | split
    | (constructor <;> first | exact .inl (by decide) | exact .inr rfl)
    | (simp only [Prod.ext_iff] at *; casesm* _ ∧ _; subst_vars)

theorem applyList_keeps {cs : List Change} {s : State} (hm : Sub 0x18000000001600000980000000011840000040045c0819bc40067844160000002d95e01000002 km) (hk :
    Keeps km kz s) : Keeps km kz (applyList cs s).1 := by
  refine Keeps.lift hm ?_ hk
  clear hk
  induction cs generalizing s with
  | nil => exact Keeps.refl _ _
  | cons c r ih =>
    unfold applyList
    refine keeps_if_fst (fun _ => Keeps.refl _ _) (fun _ => ?_)
    refine keeps_if_fst (fun _ => ?_) (fun _ => Keeps.trans ((installChange_keeps (by decide)) (Keeps.refl _ _)) ih)
    refine Keeps.trans ((drainKick_keeps (by decide)) ((modCfg_keeps ?_) (Keeps.refl _ _))) ih
    constructor <;> first | exact .inl (by decide) | exact .inr rfl

theorem applyList_of_eq {cs : List Change} {s : State}{v1} {v0 : State} (heq : applyList cs s = (v0, v1)) (hm : Sub 0x18000000001600000980000000011840000040045c0819bc40067844160000002d95e01000002 km) (hk :
    Keeps km kz s) : Keeps km kz v0 := by
  have h := applyList_keeps (kz := kz) (s := s) hm hk (cs := cs)
  rw [heq] at h
  exact h

theorem finishPartial_keeps {a : Applying} {s : State} (hm : Sub 0x1800000000000000000000000000000000000000004804010 km) (hk :
    Keeps km kz s) : Keeps km kz (finishPartial a s) := by
  refine Keeps.lift hm ?_ hk
  unfold finishPartial
  repeat' first
    | with_reducible exact Keeps.refl _ _
    | with_reducible refine (modCfg_keeps ?_) ?_
    | with_reducible refine (jobDone_keeps (hm := by decide)) ?_
    | with_reducible refine (spEvent_keeps (hm := by decide)) ?_
    | dsimp only
    | (constructor <;> first | exact .inl (by decide) | exact .inr rfl)

theorem applyRun_keeps {s : State} (hm : Sub 0x18000000001600000980000000011840000040045c0819bc40067844160000002d95e05804012 km) (hk :
    Keeps km kz s) : Keeps km kz (applyRun s) := by
  refine Keeps.lift hm ?_ hk
  unfold applyRun
  repeat' first
    | with_reducible exact Keeps.refl _ _
    | with_reducible refine (applyList_keeps (hm := by decide)) ?_
    | with_reducible refine (applyList_of_eq (heq := by assumption) (hm := by decide)) ?_
    | with_reducible refine (modCfg_keeps ?_) ?_
    | with_reducible refine (finishPartial_keeps (hm := by decide)) ?_
    | with_reducible refine keeps_if (fun _ => ?_) (fun _ => ?_)
    | with_reducible refine keeps_if_fst (fun _ => ?_) (fun _ => ?_)
    | dsimp only
    | split
    | (constructor <;> first | exact .inl (by decide) | exact .inr rfl)
    | (simp only [Prod.ext_iff] at *; casesm* _ ∧ _; subst_vars)

theorem keeps_after_cfgOk {s d : State} (hk : Keeps km kz s) : Keeps km kz (after (cfgOk s) d) := hk

theorem execPartialApply_keeps {s : State} : Keeps 0x18000000001600000980000000011840000040045c0819bc40067844160000002d95e05804012 s (after (execPartialApply s) s) := by
  unfold execPartialApply
  repeat' first
    | with_reducible exact Keeps.refl _ _
    | with_reducible refine (applyRun_keeps (hm := by decide)) ?_
    | with_reducible refine keeps_after_cfgOk ?_

theorem execRecordDrainDone_keeps {type key : Nat} {s : State} : Keeps 0x18000000001600000980000000011840000040045c0819bc40067844160000002d95e05804012 s (after (execRecordDrainDone type key s) s) := by
  unfold execRecordDrainDone
  split
  · exact keeps_after_cfgOk (Keeps.refl _ _)
  · rename_i x _
    have k1 : Keeps 0x18000000001600000980000000011840000040045c0819bc40067844160000002d95e05804012 s (drainKick x s) := (drainKick_keeps (by decide)) (Keeps.refl _ _)
    refine keeps_if_after (fun _ => keeps_after_cfgOk k1) (fun _ => ?_)
    refine keeps_after_cfgOk ((applyRun_keeps (by decide)) ((installChange_keeps (by decide)) ((modCfg_keeps ?_) k1)))
    constructor <;> first | exact .inl (by decide) | exact .inr rfl

theorem bsBeginOwn_keeps {r : CtlReq} {s : State} (hm : Sub 0x800000000000000000000000040020000002d8160240007c km) (hk :
    Keeps km kz s) : Keeps km kz (bsBeginOwn r s) := by
  refine Keeps.lift hm ?_ hk
  unfold bsBeginOwn
  repeat' first
    | with_reducible exact Keeps.refl _ _
    | with_reducible refine (ctlEnd_keeps (hm := by decide)) ?_
    | with_reducible refine (modCfg_keeps ?_) ?_
    | with_reducible refine (modSlot_keeps (hm := by decide)) ?_
    | with_reducible refine (ctlAnswer_keeps (hm := by decide)) ?_
    | with_reducible refine keeps_if (fun _ => ?_) (fun _ => ?_)
    | dsimp only
    | split
    | (constructor <;> first | exact .inl (by decide) | exact .inr rfl)
    | (simp only [Prod.ext_iff] at *; casesm* _ ∧ _; subst_vars)

theorem execBsBegin_keeps {r : CtlReq} {s : State} : Keeps 0x800000000000000000000000040020000002d8172240007c s (after (execBsBegin r s) s) := by
  unfold execBsBegin
  repeat' first
    | with_reducible exact Keeps.refl _ _
    | with_reducible refine (runCtl_keeps (hm := by decide) (h_own := fun _ => ?_)) ?_
    | with_reducible refine (bsBeginOwn_keeps (hm := by decide)) ?_
    | with_reducible refine keeps_after_ctlOk ?_

theorem writeSlot_keeps {x : Slot} {off : Nat} {b : Bytes} {s : State} (hm : Sub 0x1c km) (hk :
    Keeps km kz s) : Keeps km kz (writeSlot x off b s) := by
  refine Keeps.lift hm ?_ hk
  unfold writeSlot
  repeat' first
    | with_reducible exact Keeps.refl _ _
    | with_reducible refine (modSlot_keeps (hm := by decide)) ?_
    | dsimp only

theorem bsDataOwn_keeps {r : CtlReq} {s : State} (hm : Sub 0x800000000000000000000000040020000002d8160240001c km) (hk :
    Keeps km kz s) : Keeps km kz (bsDataOwn r s) := by
  refine Keeps.lift hm ?_ hk
  unfold bsDataOwn
  repeat' first
    | with_reducible exact Keeps.refl _ _
    | with_reducible refine (ctlEnd_keeps (hm := by decide)) ?_
    | with_reducible refine (writeSlot_keeps (hm := by decide)) ?_
    | with_reducible refine keeps_if (fun _ => ?_) (fun _ => ?_)
    | dsimp only
    | split

theorem execBsData_keeps {r : CtlReq} {s : State} : Keeps 0x800000000000000000000000040020000002d8172240001c s (after (execBsData r s) s) := by
  unfold execBsData
  repeat' first
    | with_reducible exact Keeps.refl _ _
    | with_reducible refine (runCtl_keeps (hm := by decide) (h_own := fun _ => ?_)) ?_
    | with_reducible refine (bsDataOwn_keeps (hm := by decide)) ?_
    | with_reducible refine keeps_after_ctlOk ?_

theorem bsFetchOwn_keeps {r : CtlReq} {s : State} (hm : Sub 0x800000000000000000000000040020000002d8160e400000 km) (hk :
    Keeps km kz s) : Keeps km kz (bsFetchOwn r s) := by
  refine Keeps.lift hm ?_ hk
  unfold bsFetchOwn
  repeat' first
    | with_reducible exact Keeps.refl _ _
    | with_reducible refine (ctlEnd_keeps (hm := by decide)) ?_
    | with_reducible refine (newJob_keeps (hm := by decide)) ?_
    | with_reducible refine (newJob_of_eq (heq := by assumption) (hm := by decide)) ?_
    | with_reducible refine (jobAnswer_keeps (hm := by decide)) ?_
    | with_reducible refine keeps_if (fun _ => ?_) (fun _ => ?_)
    | with_reducible refine keeps_if_snd (fun _ => ?_) (fun _ => ?_)
    | dsimp only
    | split
    | (simp only [Prod.ext_iff] at *; casesm* _ ∧ _; subst_vars)

theorem execBsFetch_keeps {r : CtlReq} {s : State} : Keeps 0x800000000000000000000000040020000002d8172e400000 s (after (execBsFetch r s) s) := by
  unfold execBsFetch
  repeat' first
    | with_reducible exact Keeps.refl _ _
    | with_reducible refine (runCtl_keeps (hm := by decide) (h_own := fun _ => ?_)) ?_
    | with_reducible refine (bsFetchOwn_keeps (hm := by decide)) ?_
    | with_reducible refine keeps_after_ctlOk ?_

theorem execBsFetchComplete_keeps {job : Nat} {s : State} : Keeps 0x2000000000000000000000000000180000000000000000000000002000000000000000400001c s (after (execBsFetchComplete job s) s) := by
  unfold execBsFetchComplete
  repeat' first
    | with_reducible exact Keeps.refl _ _
    | with_reducible refine (svcRead_keeps (hm := by decide)) ?_
    | with_reducible refine (svcRead_of_eq (heq := by assumption) (hm := by decide)) ?_
    | with_reducible refine (jobDone_keeps (hm := by decide)) ?_
    | with_reducible refine (writeSlot_keeps (hm := by decide)) ?_
    | with_reducible refine keeps_if (fun _ => ?_) (fun _ => ?_)
    | with_reducible refine keeps_if_after (fun _ => ?_) (fun _ => ?_)
    | with_reducible refine keeps_if_third (fun _ => ?_) (fun _ => ?_)
    | split
    | with_reducible refine keeps_after_cfgOk ?_
    | (simp only [Prod.ext_iff] at *; casesm* _ ∧ _; subst_vars)

theorem endFetches_keeps {id : Nat} {s : State} (hm : Sub 0x1800000000000000000000000000000000000000004000000 km) (hk :
    Keeps km kz s) : Keeps km kz (endFetches id s) := by
  refine Keeps.lift hm ?_ hk
  unfold endFetches
  repeat' first
    | with_reducible exact Keeps.refl _ _
    | with_reducible refine (jobDone_keeps (hm := by decide)) ?_
    | with_reducible refine (keeps_foldl_snd (fun _ _ => ?_)) ?_
    | with_reducible refine (keeps_foldl_fst (fun _ _ => ?_)) ?_
    | with_reducible refine (keeps_foldl_third (fun _ _ => ?_)) ?_
    | with_reducible refine (keeps_foldl_mid (fun _ _ => ?_)) ?_
    | with_reducible refine (keeps_foldl (fun _ _ => ?_)) ?_
    | dsimp only
    | (simp only [Prod.ext_iff] at *; casesm* _ ∧ _; subst_vars)
    | (simp only [id, Keeps.refl]; done)

theorem bsEndOwn_keeps {r : CtlReq} {s : State} (hm : Sub 0x1800000000000000000000000040020000002d8160660001c km) (hk :
    Keeps km kz s) : Keeps km kz (bsEndOwn r s) := by
  refine Keeps.lift hm ?_ hk
  unfold bsEndOwn
  repeat' first
    | with_reducible exact Keeps.refl _ _
    | with_reducible refine (ctlEnd_keeps (hm := by first | decide | (simp only [StReg.mask]; decide))) ?_
    | with_reducible refine (endFetches_keeps (hm := by first | decide | (simp only [StReg.mask]; decide))) ?_
    | with_reducible refine (modSlot_keeps (hm := by first | decide | (simp only [StReg.mask]; decide))) ?_
    | with_reducible refine (setStatus_keeps (hm := by first | decide | (simp only [StReg.mask]; decide))) ?_
    | with_reducible refine keeps_if (fun _ => ?_) (fun _ => ?_)
    | dsimp only
    | split

theorem execBsEnd_keeps {r : CtlReq} {s : State} : Keeps 0x1800000000000000000000000040020000002d8172660001c s (after (execBsEnd r s) s) := by
  unfold execBsEnd
  repeat' first
    | with_reducible exact Keeps.refl _ _
    | with_reducible refine (runCtl_keeps (hm := by decide) (h_own := fun _ => ?_)) ?_
    | with_reducible refine (bsEndOwn_keeps (hm := by decide)) ?_
    | with_reducible refine keeps_after_ctlOk ?_

theorem bsAbortOwn_keeps {r : CtlReq} {s : State} (hm : Sub 0x1800000000000000000000000040020000002d8160640001c km) (hk :
    Keeps km kz s) : Keeps km kz (bsAbortOwn r s) := by
  refine Keeps.lift hm ?_ hk
  unfold bsAbortOwn
  repeat' first
    | with_reducible exact Keeps.refl _ _
    | with_reducible refine (ctlEnd_keeps (hm := by decide)) ?_
    | with_reducible refine (endFetches_keeps (hm := by decide)) ?_
    | with_reducible refine (modSlot_keeps (hm := by decide)) ?_
    | with_reducible refine keeps_if (fun _ => ?_) (fun _ => ?_)
    | dsimp only
    | split

theorem execBsAbort_keeps {r : CtlReq} {s : State} : Keeps 0x1800000000000000000000000040020000002d8172640001c s (after (execBsAbort r s) s) := by
  unfold execBsAbort
  repeat' first
    | with_reducible exact Keeps.refl _ _
    | with_reducible refine (runCtl_keeps (hm := by decide) (h_own := fun _ => ?_)) ?_
    | with_reducible refine (bsAbortOwn_keeps (hm := by decide)) ?_
    | with_reducible refine keeps_after_ctlOk ?_

theorem execLoadAbandon_keeps {slot : Slot} {s : State} : Keeps 0x180000000000000000000000000000000000000000420001c s (after (execLoadAbandon slot s) s) := by
  unfold execLoadAbandon
  repeat' first
    | with_reducible exact Keeps.refl _ _
    | with_reducible refine (endFetches_keeps (hm := by first | decide | (simp only [StReg.mask]; decide))) ?_
    | with_reducible refine (modSlot_keeps (hm := by first | decide | (simp only [StReg.mask]; decide))) ?_
    | with_reducible refine (spEvent_keeps (hm := by first | decide | (simp only [StReg.mask]; decide))) ?_
    | with_reducible refine (setStatus_keeps (hm := by first | decide | (simp only [StReg.mask]; decide))) ?_
    | with_reducible refine keeps_if (fun _ => ?_) (fun _ => ?_)
    | with_reducible refine keeps_if_after (fun _ => ?_) (fun _ => ?_)
    | dsimp only
    | split
    | with_reducible refine keeps_after_cfgOk ?_

theorem activatePartial_keeps {r : CtlReq} {s : State} (hm : Sub 0x801800000040045c00000000000040020000002d8160ee08000 km) (hk :
    Keeps km kz s) : Keeps km kz (activatePartial r s) := by
  refine Keeps.lift hm ?_ hk
  unfold activatePartial
  repeat' first
    | with_reducible exact Keeps.refl _ _
    | with_reducible refine (ctlEnd_keeps (hm := by first | decide | (simp only [StReg.mask]; decide))) ?_
    | with_reducible refine (setStatus_keeps (hm := by first | decide | (simp only [StReg.mask]; decide))) ?_
    | with_reducible refine (newJob_keeps (hm := by first | decide | (simp only [StReg.mask]; decide))) ?_
    | with_reducible refine (newJob_of_eq (heq := by assumption) (hm := by first | decide | (simp only [StReg.mask]; decide))) ?_
    | with_reducible refine (journal_keeps (hm := by first | decide | (simp only [StReg.mask]; decide))) ?_
    | with_reducible refine (raiseArb_keeps (hm := by first | decide | (simp only [StReg.mask]; decide))) ?_
    | with_reducible refine (jobAnswer_keeps (hm := by first | decide | (simp only [StReg.mask]; decide))) ?_
    | with_reducible refine (modCfg_keeps ?_) ?_
    | with_reducible refine keeps_if (fun _ => ?_) (fun _ => ?_)
    | with_reducible refine keeps_if_snd (fun _ => ?_) (fun _ => ?_)
    | dsimp only
    | split
    | (constructor <;> first | exact .inl (by decide) | exact .inr rfl)
    | (simp only [Prod.ext_iff] at *; casesm* _ ∧ _; subst_vars)

theorem activateFull_keeps {r : CtlReq} {x : Slot} {s : State} (hm : Sub 0x3fffffffffffffffffffffbfc081ffffffffffffffffffffffffffffffffffffffffffffffffe km) (hk :
    Keeps km kz s) : Keeps km kz (activateFull r x s) := by
  refine Keeps.lift hm ?_ hk
  unfold activateFull
  repeat' first
    | with_reducible exact Keeps.refl _ _
    | with_reducible refine (newJob_keeps (hm := by decide)) ?_
    | with_reducible refine (newJob_of_eq (heq := by assumption) (hm := by decide)) ?_
    | with_reducible refine (jobAnswer_keeps (hm := by decide)) ?_
    | with_reducible refine (countGen_keeps (hm := by decide)) ?_
    | with_reducible refine (journal_keeps (hm := by decide)) ?_
    | with_reducible refine (modCfg_keeps ?_) ?_
    | with_reducible refine (warmReset_keeps (hm := by decide)) ?_
    | with_reducible refine (sendOut_keeps (hm := by decide)) ?_
    | with_reducible refine (jobDone_keeps (hm := by decide)) ?_
    | with_reducible refine keeps_if (fun _ => ?_) (fun _ => ?_)
    | with_reducible refine keeps_if_snd (fun _ => ?_) (fun _ => ?_)
    | dsimp only
    | split
    | (constructor <;> first | exact .inl (by decide) | exact .inr rfl)
    | (simp only [Prod.ext_iff] at *; casesm* _ ∧ _; subst_vars)

theorem bsActivateOwn_keeps {r : CtlReq} {s : State} (hm : Sub 0x3fffffffffffffffffffffbfc081ffffffffffffffffffffffffffffffffffffffffffffffffe km) (hk :
    Keeps km kz s) : Keeps km kz (bsActivateOwn r s) := by
  refine Keeps.lift hm ?_ hk
  unfold bsActivateOwn
  repeat' first
    | with_reducible exact Keeps.refl _ _
    | with_reducible refine (ctlEnd_keeps (hm := by decide)) ?_
    | with_reducible refine (activatePartial_keeps (hm := by decide)) ?_
    | with_reducible refine (activateFull_keeps (hm := by decide)) ?_
    | with_reducible refine keeps_if (fun _ => ?_) (fun _ => ?_)
    | split

theorem execBsActivate_keeps {r : CtlReq} {s : State} : Keeps 0x3fffffffffffffffffffffbfc081ffffffffffffffffffffffffffffffffffffffffffffffffe s (after (execBsActivate r s) s) := by
  unfold execBsActivate
  repeat' first
    | with_reducible exact Keeps.refl _ _
    | with_reducible refine (runCtl_keeps (hm := by decide) (h_own := fun _ => ?_)) ?_
    | with_reducible refine (bsActivateOwn_keeps (hm := by decide)) ?_
    | with_reducible refine keeps_after_ctlOk ?_

end Machine
end Sys2Proof
end

