-- ==== Sys2Proof/Laws/FrameControl.lean ====
section
/-! SUPPORT. Frames of the functions of Machine/Control.lean: the parts of the state that each may change, as a mask (Laws/Keeps.lean). -/

namespace Sys2Proof
namespace Machine
set_option linter.unusedTactic false
set_option linter.unreachableTactic false
set_option linter.tactic.unusedName false
variable {km : Nat} {kz : State}

theorem execEcho_keeps {r : CtlReq} {s : State} : Keeps 0x800000000000000000000000040020000002d81722400000 s (after (execEcho r s) s) := by
  unfold execEcho
  repeat' first
    | with_reducible exact Keeps.refl _ _
    | with_reducible refine (runCtl_keeps (hm := by decide) (h_own := fun _ => ?_)) ?_
    | with_reducible refine (ctlAnswer_keeps (hm := by decide)) ?_
    | with_reducible refine keeps_after_ctlOk ?_

theorem execExtCreate_keeps {r : CtlReq} {s : State} : Keeps 0x980000000001800000040045c00008000000040020000002d81722408002 s (after (execExtCreate r s) s) := by
  unfold execExtCreate
  repeat' first
    | with_reducible exact Keeps.refl _ _
    | with_reducible refine (runCtl_keeps (hm := by decide) (h_own := fun _ => ?_)) ?_
    | with_reducible refine (recordCmd_keeps (hm := by decide) (h_after := fun _ => ?_)) ?_
    | with_reducible refine (addExtent_keeps (hm := by decide)) ?_
    | dsimp only
    | with_reducible refine keeps_after_ctlOk ?_

theorem execGrantAdd_keeps {r : CtlReq} {s : State} : Keeps 0x1800000040045c00000000000040020000002d81722408002 s (after (execGrantAdd r s) s) := by
  unfold execGrantAdd
  repeat' first
    | with_reducible exact Keeps.refl _ _
    | with_reducible refine (runCtl_keeps (hm := by decide) (h_own := fun _ => ?_)) ?_
    | with_reducible refine (recordCmd_keeps (hm := by decide) (h_after := fun _ => ?_)) ?_
    | with_reducible refine keeps_after_ctlOk ?_
    | (simp only [id, Keeps.refl]; done)

theorem execGrantRemove_keeps {r : CtlReq} {s : State} : Keeps 0x1800000040045c00000000000040020000002d81722408002 s (after (execGrantRemove r s) s) := by
  unfold execGrantRemove
  repeat' first
    | with_reducible exact Keeps.refl _ _
    | with_reducible refine (runCtl_keeps (hm := by decide) (h_own := fun _ => ?_)) ?_
    | with_reducible refine (recordCmd_keeps (hm := by decide) (h_after := fun _ => ?_)) ?_
    | with_reducible refine keeps_after_ctlOk ?_
    | (simp only [id, Keeps.refl]; done)

theorem ctxCreateOwn_keeps {r : CtlReq} {s : State} (hm : Sub 0x1800000040045c00000000000040020000002d81602408002 km) (hk :
    Keeps km kz s) : Keeps km kz (ctxCreateOwn r s) := by
  refine Keeps.lift hm ?_ hk
  unfold ctxCreateOwn
  repeat' first
    | with_reducible exact Keeps.refl _ _
    | with_reducible refine (ctlEnd_keeps (hm := by decide)) ?_
    | with_reducible refine (recordCmd_keeps (hm := by decide) (h_after := fun _ => ?_)) ?_
    | with_reducible refine (freshCtx_keeps (hm := by decide)) ?_
    | with_reducible refine keeps_if (fun _ => ?_) (fun _ => ?_)
    | dsimp only
    | split

theorem execCtxCreate_keeps {r : CtlReq} {s : State} : Keeps 0x1800000040045c00000000000040020000002d81722408002 s (after (execCtxCreate r s) s) := by
  unfold execCtxCreate
  repeat' first
    | with_reducible exact Keeps.refl _ _
    | with_reducible refine (runCtl_keeps (hm := by decide) (h_own := fun _ => ?_)) ?_
    | with_reducible refine (ctxCreateOwn_keeps (hm := by decide)) ?_
    | with_reducible refine keeps_after_ctlOk ?_

theorem ctxEnd_keeps {code : Nat} {r : CtlReq} {p : CtxPhase} {s : State} (hm : Sub 0x800000000000000000000000040020000002d8160e400000 km) (hk :
    Keeps km kz s) : Keeps km kz (ctxEnd code r p s) := by
  refine Keeps.lift hm ?_ hk
  unfold ctxEnd
  repeat' first
    | with_reducible exact Keeps.refl _ _
    | with_reducible refine (newJob_keeps (hm := by decide)) ?_
    | with_reducible refine (newJob_of_eq (heq := by assumption) (hm := by decide)) ?_
    | with_reducible refine (jobAnswer_keeps (hm := by decide)) ?_
    | with_reducible refine (modCtx_keeps (hm := by decide)) ?_
    | with_reducible refine keeps_if (fun _ => ?_) (fun _ => ?_)
    | with_reducible refine keeps_if_snd (fun _ => ?_) (fun _ => ?_)
    | dsimp only
    | split
    | (simp only [Prod.ext_iff] at *; casesm* _ ∧ _; subst_vars)

theorem ctxDestroyOwn_keeps {r : CtlReq} {s : State} (hm : Sub 0x800000000000000000000000040020000002d8160e408000 km) (hk :
    Keeps km kz s) : Keeps km kz (ctxDestroyOwn r s) := by
  refine Keeps.lift hm ?_ hk
  unfold ctxDestroyOwn
  repeat' first
    | with_reducible exact Keeps.refl _ _
    | with_reducible refine (ctlEnd_keeps (hm := by decide)) ?_
    | with_reducible refine (ctxEnd_keeps (hm := by decide)) ?_
    | with_reducible refine (countGen_keeps (hm := by decide)) ?_
    | with_reducible refine keeps_if (fun _ => ?_) (fun _ => ?_)
    | dsimp only
    | split

theorem execCtxDestroy_keeps {r : CtlReq} {s : State} : Keeps 0x800000000000000000000000040020000002d8172e408000 s (after (execCtxDestroy r s) s) := by
  unfold execCtxDestroy
  repeat' first
    | with_reducible exact Keeps.refl _ _
    | with_reducible refine (runCtl_keeps (hm := by decide) (h_own := fun _ => ?_)) ?_
    | with_reducible refine (ctxDestroyOwn_keeps (hm := by decide)) ?_
    | with_reducible refine keeps_after_ctlOk ?_

theorem execAdmitAdd_keeps {r : CtlReq} {s : State} : Keeps 0x1800000040045c00000000000040020000002d81722408002 s (after (execAdmitAdd r s) s) := by
  unfold execAdmitAdd
  repeat' first
    | with_reducible exact Keeps.refl _ _
    | with_reducible refine (runCtl_keeps (hm := by decide) (h_own := fun _ => ?_)) ?_
    | with_reducible refine (recordCmd_keeps (hm := by decide) (h_after := fun _ => ?_)) ?_
    | with_reducible refine keeps_after_ctlOk ?_
    | (simp only [id, Keeps.refl]; done)

theorem execAdmitRemove_keeps {r : CtlReq} {s : State} : Keeps 0x1800000040045c00000000000040020000002d81722408002 s (after (execAdmitRemove r s) s) := by
  unfold execAdmitRemove
  repeat' first
    | with_reducible exact Keeps.refl _ _
    | with_reducible refine (runCtl_keeps (hm := by decide) (h_own := fun _ => ?_)) ?_
    | with_reducible refine (recordCmd_keeps (hm := by decide) (h_after := fun _ => ?_)) ?_
    | with_reducible refine keeps_after_ctlOk ?_
    | (simp only [id, Keeps.refl]; done)

theorem qosOwn_keeps {r : CtlReq} {s : State} (hm : Sub 0x11800000040045c00000000000040020000002d81602408002 km) (hk :
    Keeps km kz s) : Keeps km kz (qosOwn r s) := by
  refine Keeps.lift hm ?_ hk
  unfold qosOwn
  repeat' first
    | with_reducible exact Keeps.refl _ _
    | with_reducible refine (recordCmd_keeps (hm := by decide) (h_after := fun _ => ?_)) ?_
    | with_reducible refine (freshBuckets_keeps (hm := by decide)) ?_
    | with_reducible refine keeps_if (fun _ => ?_) (fun _ => ?_)
    | dsimp only
    | split

theorem execQosSet_keeps {r : CtlReq} {s : State} : Keeps 0x11800000040045c00000000000040020000002d81722408002 s (after (execQosSet r s) s) := by
  unfold execQosSet
  repeat' first
    | with_reducible exact Keeps.refl _ _
    | with_reducible refine (runCtl_keeps (hm := by decide) (h_own := fun _ => ?_)) ?_
    | with_reducible refine (qosOwn_keeps (hm := by decide)) ?_
    | with_reducible refine keeps_after_ctlOk ?_

theorem ctxResetOwn_keeps {r : CtlReq} {s : State} (hm : Sub 0x800000000000000000000000040020000002d8160e400000 km) (hk :
    Keeps km kz s) : Keeps km kz (ctxResetOwn r s) := by
  refine Keeps.lift hm ?_ hk
  unfold ctxResetOwn
  repeat' first
    | with_reducible exact Keeps.refl _ _
    | with_reducible refine (ctlEnd_keeps (hm := by decide)) ?_
    | with_reducible refine (ctxEnd_keeps (hm := by decide)) ?_
    | with_reducible refine keeps_if (fun _ => ?_) (fun _ => ?_)
    | split

theorem execCtxReset_keeps {r : CtlReq} {s : State} : Keeps 0x800000000000000000000000040020000002d8172e400000 s (after (execCtxReset r s) s) := by
  unfold execCtxReset
  repeat' first
    | with_reducible exact Keeps.refl _ _
    | with_reducible refine (runCtl_keeps (hm := by decide) (h_own := fun _ => ?_)) ?_
    | with_reducible refine (ctxResetOwn_keeps (hm := by decide)) ?_
    | with_reducible refine keeps_after_ctlOk ?_

theorem ownerKeyOwn_keeps {r : CtlReq} {s : State} (hm : Sub 0x201800000000000000000000000040020000002d81642400000 km) (hk :
    Keeps km kz s) : Keeps km kz (ownerKeyOwn r s) := by
  refine Keeps.lift hm ?_ hk
  unfold ownerKeyOwn
  repeat' first
    | with_reducible exact Keeps.refl _ _
    | with_reducible refine (ctlEnd_keeps (hm := by decide)) ?_
    | with_reducible refine (modSec_keeps ?_ ?_) ?_
    | with_reducible refine (rwlBegin_keeps (hm := by decide)) ?_
    | with_reducible refine keeps_if (fun _ => ?_) (fun _ => ?_)
    | dsimp only
    | split
    | (constructor <;> first | exact .inl (by decide) | exact .inr rfl)
    | with_reducible exact SecMono.refl _
    | exact ⟨le_rfl, le_rfl, le_rfl, le_rfl, le_rfl⟩

theorem execOwnerKeyTransfer_keeps {r : CtlReq} {s : State} : Keeps 0x201800000000000000000000000040020000002d81762400000 s (after (execOwnerKeyTransfer r s) s) := by
  unfold execOwnerKeyTransfer
  repeat' first
    | with_reducible exact Keeps.refl _ _
    | with_reducible refine (runCtl_keeps (hm := by decide) (h_own := fun _ => ?_)) ?_
    | with_reducible refine (ownerKeyOwn_keeps (hm := by decide)) ?_
    | with_reducible refine keeps_after_ctlOk ?_

theorem dropCkpts_keeps {s : State} (hm : Sub 0x38000000000000000000000000000000000000 km) (hk :
    Keeps km kz s) : Keeps km kz (dropCkpts s) := by
  refine Keeps.lift hm ?_ hk
  unfold dropCkpts
  repeat' first
    | with_reducible exact Keeps.refl _ _
    | with_reducible refine (modFtl_keeps ?_) ?_
    | dsimp only
    | (constructor <;> first | exact .inl (by decide) | exact .inr rfl)

theorem transferRead_keeps {r : CtlReq} {st : BitVec 5} {b : Bytes} {s : State} (hm : Sub 0x3fffffffffffffffffffffffc4a1ffffffffffffffffffffffffffffffffffffffffffffffffe km) (hk :
    Keeps km kz s) : Keeps km kz (transferRead r st b s) := by
  refine Keeps.lift hm ?_ hk
  clear hk
  unfold transferRead
  split
  · exact ctlEnd_keeps (by decide) (setStatus_keeps (by simp only [StReg.mask]; decide) (Keeps.refl _ _))
  · extract_lets s1 s2
    have k1 : Keeps 0x3fffffffffffffffffffffffc4a1ffffffffffffffffffffffffffffffffffffffffffffffffe s s1 := by
      refine modSec_keeps ?_ ⟨le_rfl, le_rfl, le_rfl, le_rfl, Nat.sub_le _ _⟩ (Keeps.refl _ _)
      constructor <;> first | exact .inl (by decide) | exact .inr rfl
    have k2 : Keeps 0x3fffffffffffffffffffffffc4a1ffffffffffffffffffffffffffffffffffffffffffffffffe s s2 := rwlAccepted_keeps (by decide) k1
    clear_value s2
    exact warmReset_keeps (by decide) (dropCkpts_keeps (by decide) (sendOut_keeps (by decide) (ctlEnd_keeps (by decide) k2)))

theorem authDone_keeps {w : AuthWait} {s0 : State} (hm : Sub 0x3fffffffffffffffffffffffc7a1ffffffffffffffffffffffffffffffffffffffffffffffffe km) (hk :
    Keeps km kz s0) : Keeps km kz (authDone w s0) := by
  refine Keeps.lift hm ?_ hk
  unfold authDone
  repeat' first
    | with_reducible exact Keeps.refl _ _
    | with_reducible refine (modCfg_keeps ?_) ?_
    | with_reducible refine (svcRead_keeps (hm := by decide)) ?_
    | with_reducible refine (svcRead_of_eq (heq := by assumption) (hm := by decide)) ?_
    | with_reducible refine (unlockRead_keeps (hm := by decide)) ?_
    | with_reducible refine (transferRead_keeps (hm := by decide)) ?_
    | with_reducible refine (tariffRead_keeps (hm := by decide)) ?_
    | with_reducible refine keeps_if (fun _ => ?_) (fun _ => ?_)
    | with_reducible refine keeps_if_third (fun _ => ?_) (fun _ => ?_)
    | dsimp only
    | split
    | (constructor <;> first | exact .inl (by decide) | exact .inr rfl)
    | (simp only [Prod.ext_iff] at *; casesm* _ ∧ _; subst_vars)

theorem execAuthorisationReadDone_keeps {s : State} : Keeps 0x3fffffffffffffffffffffffc7a1ffffffffffffffffffffffffffffffffffffffffffffffffe s (after (execAuthorisationReadDone s) s) := by
  unfold execAuthorisationReadDone
  repeat' first
    | with_reducible exact Keeps.refl _ _
    | with_reducible refine (authDone_keeps (hm := by decide)) ?_
    | with_reducible refine keeps_if (fun _ => ?_) (fun _ => ?_)
    | with_reducible refine keeps_if_after (fun _ => ?_) (fun _ => ?_)
    | split
    | with_reducible refine keeps_after_ctlOk ?_

end Machine
end Sys2Proof
end

