-- ==== Sys2Proof/Laws/FrameIngress.lean ====
section
/-! SUPPORT. Frames of the functions of Machine/Ingress.lean: the parts of the state that each may change, as a mask (Laws/Keeps.lean). -/

namespace Sys2Proof
namespace Machine
set_option linter.unusedTactic false
set_option linter.unreachableTactic false
set_option linter.tactic.unusedName false
variable {km : Nat} {kz : State}

theorem keeps_after_swcOk {s d : State} (hk : Keeps km kz s) : Keeps km kz (after (swcOk s) d) := hk

theorem sendSamples_keeps {d : Die} {s : State} (hm : Sub 0x1800000000000000000000000000000040000000000000000 km) (hk :
    Keeps km kz s) : Keeps km kz (sendSamples d s) := by
  refine Keeps.lift hm ?_ hk
  unfold sendSamples
  repeat' first
    | with_reducible exact Keeps.refl _ _
    | with_reducible refine (queueEntry_keeps (hm := by decide)) ?_
    | with_reducible refine (modSwc_keeps ?_) ?_
    | with_reducible refine keeps_if (fun _ => ?_) (fun _ => ?_)
    | dsimp only
    | split
    | (constructor <;> first | exact .inl (by decide) | exact .inr rfl)

theorem keepSample_keeps {d : Die} {x : Sample} {s : State} (hm : Sub 0x18000000000000000000000000000000e0020000000000000 km) (hk :
    Keeps km kz s) : Keeps km kz (keepSample d x s) := by
  refine Keeps.lift hm ?_ hk
  unfold keepSample
  repeat' first
    | with_reducible exact Keeps.refl _ _
    | with_reducible refine (modSwc_keeps ?_) ?_
    | with_reducible refine (setStatus_keeps (hm := by first | decide | (simp only [StReg.mask]; decide))) ?_
    | with_reducible refine (sendSamples_keeps (hm := by first | decide | (simp only [StReg.mask]; decide))) ?_
    | with_reducible refine keeps_if (fun _ => ?_) (fun _ => ?_)
    | dsimp only
    | split
    | (constructor <;> first | exact .inl (by decide) | exact .inr rfl)

theorem sample_keeps {p k dir : Nat} {addrs : Bytes} {etype : BitVec 16} {f : Frame} {body : Bytes} {s : State} (hm : Sub 0x200000000000000000000000000018000000000000000000000000000001e0020000000000000 km) (hk :
    Keeps km kz s) : Keeps km kz (sample p k dir addrs etype f body s) := by
  refine Keeps.lift hm ?_ hk
  unfold sample
  repeat' first
    | with_reducible exact Keeps.refl _ _
    | with_reducible refine (drawFree_keeps (hm := by decide)) ?_
    | with_reducible refine (drawFree_of_eq (heq := by assumption) (hm := by decide)) ?_
    | with_reducible refine (modSwc_keeps ?_) ?_
    | with_reducible refine (keepSample_keeps (hm := by decide)) ?_
    | with_reducible refine keeps_if (fun _ => ?_) (fun _ => ?_)
    | with_reducible refine keeps_if_snd (fun _ => ?_) (fun _ => ?_)
    | dsimp only
    | split
    | (constructor <;> first | exact .inl (by decide) | exact .inr rfl)
    | (simp only [Prod.ext_iff] at *; casesm* _ ∧ _; subst_vars)

theorem notePn_keeps {p k : Nat} {w : WireFrame} {s : State} (hm : Sub 0x200000000 km) (hk :
    Keeps km kz s) : Keeps km kz (notePn p k w s) := by
  refine Keeps.lift hm ?_ hk
  unfold notePn
  repeat' first
    | with_reducible exact Keeps.refl _ _
    | with_reducible refine (modSub_keeps (hm := by decide)) ?_
    | with_reducible refine keeps_if (fun _ => ?_) (fun _ => ?_)
    | dsimp only
    | split

theorem joinRecord_keeps {p : Nat} {f : Frame} {s : State} (hm : Sub 0x200000000 km) (hk :
    Keeps km kz s) : Keeps km kz (joinRecord p f s) := by
  refine Keeps.lift hm ?_ hk
  unfold joinRecord
  repeat' first
    | with_reducible exact Keeps.refl _ _
    | with_reducible refine (modPort_keeps (hm := by decide)) ?_
    | with_reducible refine keeps_if (fun _ => ?_) (fun _ => ?_)
    | dsimp only
    | split

theorem recordWrite_keeps {p : Nat} {h : HeldFrame} {s : State} (hm : Sub 0x200000000 km) (hk :
    Keeps km kz s) : Keeps km kz (recordWrite p h s) := by
  refine Keeps.lift hm ?_ hk
  unfold recordWrite
  repeat' first
    | with_reducible exact Keeps.refl _ _
    | with_reducible refine (joinRecord_keeps (hm := by decide)) ?_
    | with_reducible refine (modPort_keeps (hm := by decide)) ?_
    | with_reducible refine keeps_if (fun _ => ?_) (fun _ => ?_)
    | dsimp only
    | split

theorem answerBad_keeps {p : Nat} {f : Frame} {st : BitVec 5} {opspec : BitVec 16} {s : State} (hm : Sub 0x800000000000000000000000040020000002d81600000000 km) (hk :
    Keeps km kz s) : Keeps km kz (answerBad p f st opspec s) := by
  refine Keeps.lift hm ?_ hk
  unfold answerBad
  repeat' first
    | with_reducible exact Keeps.refl _ _
    | with_reducible refine (sendRaw_keeps (hm := by decide)) ?_
    | with_reducible refine keeps_if (fun _ => ?_) (fun _ => ?_)
    | dsimp only
    | split

theorem failCheck_keeps {p : Nat} {h : HeldFrame} {st : BitVec 5} {opspec : BitVec 16} {s : State} (hm : Sub 0x800000000000000000000000040020000002d81600000000 km) (hk :
    Keeps km kz s) : Keeps km kz (failCheck p h st opspec s) := by
  refine Keeps.lift hm ?_ hk
  unfold failCheck
  repeat' first
    | with_reducible exact Keeps.refl _ _
    | with_reducible refine (letGo_keeps (hm := by decide)) ?_
    | with_reducible refine (answerBad_keeps (hm := by decide)) ?_
    | with_reducible refine (joinRecord_keeps (hm := by decide)) ?_
    | with_reducible refine (countDiscard_keeps (hm := by decide)) ?_
    | with_reducible refine (keeps_foldl_snd (fun _ _ => ?_)) ?_
    | with_reducible refine (keeps_foldl_fst (fun _ _ => ?_)) ?_
    | with_reducible refine (keeps_foldl_third (fun _ _ => ?_)) ?_
    | with_reducible refine (keeps_foldl_mid (fun _ _ => ?_)) ?_
    | with_reducible refine (keeps_foldl (fun _ _ => ?_)) ?_
    | with_reducible refine keeps_if (fun _ => ?_) (fun _ => ?_)
    | dsimp only
    | split
    | (simp only [Prod.ext_iff] at *; casesm* _ ∧ _; subst_vars)

theorem discard_keeps {p : Nat} {h : HeldFrame} {s : State} (hm : Sub 0x2480200000000 km) (hk :
    Keeps km kz s) : Keeps km kz (discard p h s) := by
  refine Keeps.lift hm ?_ hk
  unfold discard
  repeat' first
    | with_reducible exact Keeps.refl _ _
    | with_reducible refine (countDiscard_keeps (hm := by decide)) ?_
    | with_reducible refine (letGo_keeps (hm := by decide)) ?_

theorem countHold_keeps {h : HeldFrame} {quota : Bool} {s : State} (hm : Sub 0x800000000000000000000000000000000000000000000000 km) (hk :
    Keeps km kz s) : Keeps km kz (countHold h quota s) := by
  refine Keeps.lift hm ?_ hk
  unfold countHold
  repeat' first
    | with_reducible exact Keeps.refl _ _
    | with_reducible refine (countWait_keeps (hm := by decide)) ?_
    | with_reducible refine keeps_if (fun _ => ?_) (fun _ => ?_)
    | split

theorem pepHit_keeps {kind p : Nat} {f : Frame} {s : State} (hm : Sub 0x20000000030000000000000000000000000000000000000000000000000000000000000000000 km) (hk :
    Keeps km kz s) : Keeps km kz (pepHit kind p f s).2 := by
  refine Keeps.lift hm ?_ hk
  unfold pepHit
  repeat' first
    | with_reducible exact Keeps.refl _ _
    | with_reducible refine (drawFree_keeps (hm := by decide)) ?_
    | with_reducible refine (drawFree_of_eq (heq := by assumption) (hm := by decide)) ?_
    | with_reducible refine (modFlt_keeps ?_) ?_
    | with_reducible refine (keeps_foldl_snd (fun _ _ => ?_)) ?_
    | with_reducible refine (keeps_foldl_fst (fun _ _ => ?_)) ?_
    | with_reducible refine (keeps_foldl_third (fun _ _ => ?_)) ?_
    | with_reducible refine (keeps_foldl_mid (fun _ _ => ?_)) ?_
    | with_reducible refine (keeps_foldl (fun _ _ => ?_)) ?_
    | with_reducible refine keeps_if (fun _ => ?_) (fun _ => ?_)
    | with_reducible refine keeps_if_snd (fun _ => ?_) (fun _ => ?_)
    | dsimp only
    | split
    | (constructor <;> first | exact .inl (by decide) | exact .inr rfl)
    | (simp only [Prod.ext_iff] at *; casesm* _ ∧ _; subst_vars)

theorem pepHit_of_eq {kind p : Nat} {f : Frame} {s : State}{v0} {v1 : State} (heq : pepHit kind p f s = (v0, v1)) (hm : Sub 0x20000000030000000000000000000000000000000000000000000000000000000000000000000 km) (hk :
    Keeps km kz s) : Keeps km kz v1 := by
  have h := pepHit_keeps (kz := kz) (s := s) hm hk (kind := kind) (p := p) (f := f)
  rw [heq] at h
  exact h

theorem stageLeave_keeps {p : Nat} {h : HeldFrame} {s : State} (hm : Sub 0x20000000030000000000000000001800000000000000000000000040020000002d91600000000 km) (hk :
    Keeps km kz s) : Keeps km kz (stageLeave p h s) := by
  refine Keeps.lift hm ?_ hk
  unfold stageLeave
  repeat' first
    | with_reducible exact Keeps.refl _ _
    | with_reducible refine (modPort_keeps (hm := by first | decide | (simp only [StReg.mask]; decide))) ?_
    | with_reducible refine (refuse_keeps (hm := by first | decide | (simp only [StReg.mask]; decide))) ?_
    | with_reducible refine (letGo_keeps (hm := by first | decide | (simp only [StReg.mask]; decide))) ?_
    | with_reducible refine (pepHit_keeps (hm := by first | decide | (simp only [StReg.mask]; decide))) ?_
    | with_reducible refine (pepHit_of_eq (heq := by assumption) (hm := by first | decide | (simp only [StReg.mask]; decide))) ?_
    | with_reducible refine (forward_keeps (hm := by first | decide | (simp only [StReg.mask]; decide))) ?_
    | with_reducible refine (steer_keeps (hm := by first | decide | (simp only [StReg.mask]; decide))) ?_
    | with_reducible refine (putOnWay_keeps (hm := by first | decide | (simp only [StReg.mask]; decide))) ?_
    | with_reducible refine (setStatus_keeps (hm := by first | decide | (simp only [StReg.mask]; decide))) ?_
    | with_reducible refine (transit_keeps (hm := by first | decide | (simp only [StReg.mask]; decide))) ?_
    | with_reducible refine keeps_if (fun _ => ?_) (fun _ => ?_)
    | with_reducible refine keeps_if_snd (fun _ => ?_) (fun _ => ?_)
    | dsimp only
    | split
    | (simp only [Prod.ext_iff] at *; casesm* _ ∧ _; subst_vars)

theorem stageRelease_keeps {p : Nat} {h : HeldFrame} {s : State} (hm : Sub 0x20000000030000000000000000001800000000000000000000000040020000002d91600000000 km) (hk :
    Keeps km kz s) : Keeps km kz (stageRelease p h s) := by
  refine Keeps.lift hm ?_ hk
  unfold stageRelease
  repeat' first
    | with_reducible exact Keeps.refl _ _
    | with_reducible refine (countHold_keeps (hm := by decide)) ?_
    | with_reducible refine (modPort_keeps (hm := by decide)) ?_
    | with_reducible refine (stageLeave_keeps (hm := by decide)) ?_
    | with_reducible refine keeps_if (fun _ => ?_) (fun _ => ?_)
    | dsimp only
    | split

theorem drawTokens_keeps {d : Die} {f : Frame} {s : State} (hm : Sub 0x10000000000000000000000000000000000000000000000000 km) (hk :
    Keeps km kz s) : Keeps km kz (drawTokens d f s) := by
  refine Keeps.lift hm ?_ hk
  unfold drawTokens
  repeat' first
    | with_reducible exact Keeps.refl _ _
    | with_reducible refine (modEv_keeps ?_) ?_
    | with_reducible refine keeps_if (fun _ => ?_) (fun _ => ?_)
    | dsimp only
    | split
    | (constructor <;> first | exact .inl (by decide) | exact .inr rfl)

theorem stageRate_keeps {p : Nat} {h : HeldFrame} {s : State} (hm : Sub 0x20000000030000000000000000011800000000000000000000000040020000002d91600000000 km) (hk :
    Keeps km kz s) : Keeps km kz (stageRate p h s) := by
  refine Keeps.lift hm ?_ hk
  unfold stageRate
  repeat' first
    | with_reducible exact Keeps.refl _ _
    | with_reducible refine (countHold_keeps (hm := by decide)) ?_
    | with_reducible refine (modPort_keeps (hm := by decide)) ?_
    | with_reducible refine (stageRelease_keeps (hm := by decide)) ?_
    | with_reducible refine (drawTokens_keeps (hm := by decide)) ?_
    | with_reducible refine keeps_if (fun _ => ?_) (fun _ => ?_)
    | dsimp only
    | split

theorem stagePepper_keeps {p : Nat} {h : HeldFrame} {s : State} (hm : Sub 0x20000000030000000000000000011800000000000000000000000040020000002d91600000000 km) (hk :
    Keeps km kz s) : Keeps km kz (stagePepper p h s) := by
  refine Keeps.lift hm ?_ hk
  unfold stagePepper
  repeat' first
    | with_reducible exact Keeps.refl _ _
    | with_reducible refine (pepHit_keeps (hm := by decide)) ?_
    | with_reducible refine (pepHit_of_eq (heq := by assumption) (hm := by decide)) ?_
    | with_reducible refine (modSub_keeps (hm := by decide)) ?_
    | with_reducible refine (stageRate_keeps (hm := by decide)) ?_
    | with_reducible refine (countHold_keeps (hm := by decide)) ?_
    | with_reducible refine (modPort_keeps (hm := by decide)) ?_
    | with_reducible refine (keeps_foldl_snd (fun _ _ => ?_)) ?_
    | with_reducible refine (keeps_foldl_fst (fun _ _ => ?_)) ?_
    | with_reducible refine (keeps_foldl_third (fun _ _ => ?_)) ?_
    | with_reducible refine (keeps_foldl_mid (fun _ _ => ?_)) ?_
    | with_reducible refine (keeps_foldl (fun _ _ => ?_)) ?_
    | with_reducible refine keeps_if (fun _ => ?_) (fun _ => ?_)
    | with_reducible refine keeps_if_snd (fun _ => ?_) (fun _ => ?_)
    | dsimp only
    | split
    | (simp only [Prod.ext_iff] at *; casesm* _ ∧ _; subst_vars)

theorem stageOrder_keeps {p : Nat} {h : HeldFrame} {s : State} (hm : Sub 0x20000000030000000000000000011800000000000000000000000040020000002d91600000000 km) (hk :
    Keeps km kz s) : Keeps km kz (stageOrder p h s) := by
  refine Keeps.lift hm ?_ hk
  unfold stageOrder
  repeat' first
    | with_reducible exact Keeps.refl _ _
    | with_reducible refine (countHold_keeps (hm := by decide)) ?_
    | with_reducible refine (modPort_keeps (hm := by decide)) ?_
    | with_reducible refine (stagePepper_keeps (hm := by decide)) ?_
    | with_reducible refine keeps_if (fun _ => ?_) (fun _ => ?_)
    | dsimp only
    | split

theorem stageContext_keeps {p : Nat} {h : HeldFrame} {s : State} (hm : Sub 0x20000000030000000000000000011800000000000000000000000040020000002d91600000000 km) (hk :
    Keeps km kz s) : Keeps km kz (stageContext p h s) := by
  refine Keeps.lift hm ?_ hk
  unfold stageContext
  repeat' first
    | with_reducible exact Keeps.refl _ _
    | with_reducible refine (endHeld_keeps (hm := by decide)) ?_
    | with_reducible refine (stageOrder_keeps (hm := by decide)) ?_
    | with_reducible refine keeps_if (fun _ => ?_) (fun _ => ?_)
    | dsimp only
    | split

theorem stageStop_keeps {p : Nat} {h : HeldFrame} {s : State} (hm : Sub 0x20000000030000000000000000011800000000000000000000000040020000002d91600000000 km) (hk :
    Keeps km kz s) : Keeps km kz (stageStop p h s) := by
  refine Keeps.lift hm ?_ hk
  unfold stageStop
  repeat' first
    | with_reducible exact Keeps.refl _ _
    | with_reducible refine (countHold_keeps (hm := by decide)) ?_
    | with_reducible refine (modPort_keeps (hm := by decide)) ?_
    | with_reducible refine (stageContext_keeps (hm := by decide)) ?_
    | with_reducible refine keeps_if (fun _ => ?_) (fun _ => ?_)
    | dsimp only
    | split

theorem settleRun_keeps {fuel p : Nat} {s : State} (hm : Sub 0x20000000030000000000000000011800000000000000000000000040020000002d91600000000 km) (hk :
    Keeps km kz s) : Keeps km kz (settleRun fuel p s) := by
  refine Keeps.lift hm ?_ hk
  clear hk
  induction fuel generalizing s with
  | zero => exact Keeps.refl _ _
  | succ n ih =>
    unfold settleRun
    split
    · exact Keeps.refl _ _
    · refine Keeps.trans ?_ ih
      exact (stagePepper_keeps (by decide)) ((modPort_keeps (by decide)) (Keeps.refl _ _))

theorem settlePort_keeps {p : Nat} {s : State} (hm : Sub 0x20000000030000000000000000011800000000000000000000000040020000002d91600000000 km) (hk :
    Keeps km kz s) : Keeps km kz (settlePort p s) := by
  refine Keeps.lift hm ?_ hk
  unfold settlePort
  repeat' first
    | with_reducible exact Keeps.refl _ _
    | with_reducible refine (settleRun_keeps (hm := by decide)) ?_

theorem execCtxResetStalkApply_keeps {ctx : Nat} {s : State} : Keeps 0x38000000030800000d80000000011b80740540045c081d1d48067865260000002d91600000000 s (after (execCtxResetStalkApply ctx s) s) := by
  unfold execCtxResetStalkApply
  repeat' first
    | with_reducible exact Keeps.refl _ _
    | with_reducible refine (modCtx_keeps (hm := by decide)) ?_
    | with_reducible refine (modFlt_keeps ?_) ?_
    | with_reducible refine (endCtxWork_keeps (hm := by decide)) ?_
    | with_reducible refine (settlePort_keeps (hm := by decide)) ?_
    | with_reducible refine (keeps_foldl_snd (fun _ _ => ?_)) ?_
    | with_reducible refine (keeps_foldl_fst (fun _ _ => ?_)) ?_
    | with_reducible refine (keeps_foldl_third (fun _ _ => ?_)) ?_
    | with_reducible refine (keeps_foldl_mid (fun _ _ => ?_)) ?_
    | with_reducible refine (keeps_foldl (fun _ _ => ?_)) ?_
    | with_reducible refine keeps_if (fun _ => ?_) (fun _ => ?_)
    | with_reducible refine keeps_if_after (fun _ => ?_) (fun _ => ?_)
    | dsimp only
    | split
    | with_reducible refine keeps_after_swcOk ?_
    | (constructor <;> first | exact .inl (by decide) | exact .inr rfl)
    | (simp only [Prod.ext_iff] at *; casesm* _ ∧ _; subst_vars)

theorem countLocal_keeps {p : Nat} {x : Desc} {s : State} (hm : Sub 0x180000 km) (hk : Keeps km kz s) : Keeps km kz (countLocal p x s) := by
  refine Keeps.lift hm ?_ hk
  unfold countLocal
  repeat' first
    | with_reducible exact Keeps.refl _ _
    | with_reducible refine (modCfg_keeps ?_) ?_
    | with_reducible refine keeps_if (fun _ => ?_) (fun _ => ?_)
    | dsimp only
    | split
    | (constructor <;> first | exact .inl (by decide) | exact .inr rfl)
    | (simp only [Prod.ext_iff] at *; casesm* _ ∧ _; subst_vars)

theorem acceptIn_keeps {p : Nat} {h : HeldFrame} {s : State} (hm : Sub 0x20000000030000000000000000011800000000000000000000000040020000002d91600180000 km) (hk :
    Keeps km kz s) : Keeps km kz (acceptIn p h s) := by
  refine Keeps.lift hm ?_ hk
  unfold acceptIn
  repeat' first
    | with_reducible exact Keeps.refl _ _
    | with_reducible refine (failCheck_keeps (hm := by decide)) ?_
    | with_reducible refine (countHold_keeps (hm := by decide)) ?_
    | with_reducible refine (modPort_keeps (hm := by decide)) ?_
    | with_reducible refine (stageStop_keeps (hm := by decide)) ?_
    | with_reducible refine (recordWrite_keeps (hm := by decide)) ?_
    | with_reducible refine (countLocal_keeps (hm := by decide)) ?_
    | with_reducible refine keeps_if (fun _ => ?_) (fun _ => ?_)
    | dsimp only
    | split

theorem drainRec_keeps {fuel p : Nat} {s : State} (hm : Sub 0x20000000030000000000000000011800000000000000000000000040020000002d91600180000 km) (hk :
    Keeps km kz s) : Keeps km kz (drainRec fuel p s) := by
  refine Keeps.lift hm ?_ hk
  clear hk
  induction fuel generalizing s with
  | zero => exact Keeps.refl _ _
  | succ n ih =>
    unfold drainRec
    split
    · exact Keeps.refl _ _
    · refine keeps_if (fun _ => Keeps.refl _ _) (fun _ => Keeps.trans ?_ ih)
      exact (acceptIn_keeps (by decide)) ((modPort_keeps (by decide)) (Keeps.refl _ _))

theorem stageRecord_keeps {p : Nat} {h : HeldFrame} {s : State} (hm : Sub 0x20000000030000000000000000011800000000000000000000000040020000002d91600180000 km) (hk :
    Keeps km kz s) : Keeps km kz (stageRecord p h s) := by
  refine Keeps.lift hm ?_ hk
  unfold stageRecord
  repeat' first
    | with_reducible exact Keeps.refl _ _
    | with_reducible refine (countHold_keeps (hm := by decide)) ?_
    | with_reducible refine (modPort_keeps (hm := by decide)) ?_
    | with_reducible refine (acceptIn_keeps (hm := by decide)) ?_
    | with_reducible refine keeps_if (fun _ => ?_) (fun _ => ?_)
    | dsimp only
    | split

theorem stopXoff_keeps {d : Die} {e : BitVec 64} {s : State} (hm : Sub 0x80200000000 km) (hk :
    Keeps km kz s) : Keeps km kz (stopXoff d e s) := by
  refine Keeps.lift hm ?_ hk
  unfold stopXoff
  repeat' first
    | with_reducible exact Keeps.refl _ _
    | with_reducible refine (sendPfc_keeps (hm := by decide)) ?_
    | with_reducible refine (modSub_keeps (hm := by decide)) ?_
    | with_reducible refine (keeps_foldl_snd (fun _ _ => ?_)) ?_
    | with_reducible refine (keeps_foldl_fst (fun _ _ => ?_)) ?_
    | with_reducible refine (keeps_foldl_third (fun _ _ => ?_)) ?_
    | with_reducible refine (keeps_foldl_mid (fun _ _ => ?_)) ?_
    | with_reducible refine (keeps_foldl (fun _ _ => ?_)) ?_
    | dsimp only
    | (simp only [Prod.ext_iff] at *; casesm* _ ∧ _; subst_vars)

theorem stopXon_keeps {d : Die} {s : State} (hm : Sub 0x80200000000 km) (hk : Keeps km kz s) : Keeps km kz (stopXon d s) := by
  refine Keeps.lift hm ?_ hk
  unfold stopXon
  repeat' first
    | with_reducible exact Keeps.refl _ _
    | with_reducible refine (pfcXon_keeps (hm := by decide)) ?_
    | with_reducible refine (keeps_foldl_snd (fun _ _ => ?_)) ?_
    | with_reducible refine (keeps_foldl_fst (fun _ _ => ?_)) ?_
    | with_reducible refine (keeps_foldl_third (fun _ _ => ?_)) ?_
    | with_reducible refine (keeps_foldl_mid (fun _ _ => ?_)) ?_
    | with_reducible refine (keeps_foldl (fun _ _ => ?_)) ?_
    | dsimp only
    | (simp only [Prod.ext_iff] at *; casesm* _ ∧ _; subst_vars)

theorem drrOrder_keeps {s : State} {p tc : Nat} {q : List HeldFrame} (hm : Sub 0x200000000 km) (hk :
    Keeps km kz s) : Keeps km kz (drrOrder s p tc q).2 := by
  refine Keeps.lift hm ?_ hk
  unfold drrOrder
  repeat' first
    | with_reducible exact Keeps.refl _ _
    | with_reducible refine (modPort_keeps (hm := by decide)) ?_
    | with_reducible refine (keeps_foldl_snd (fun _ _ => ?_)) ?_
    | with_reducible refine (keeps_foldl_fst (fun _ _ => ?_)) ?_
    | with_reducible refine (keeps_foldl_third (fun _ _ => ?_)) ?_
    | with_reducible refine (keeps_foldl_mid (fun _ _ => ?_)) ?_
    | with_reducible refine (keeps_foldl (fun _ _ => ?_)) ?_
    | with_reducible refine keeps_if (fun _ => ?_) (fun _ => ?_)
    | with_reducible refine keeps_if_snd (fun _ => ?_) (fun _ => ?_)
    | dsimp only
    | split
    | (simp only [Prod.ext_iff] at *; casesm* _ ∧ _; subst_vars)

theorem drrOrder_of_eq {s : State} {p tc : Nat} {q : List HeldFrame}{v0} {v1 : State} (heq : drrOrder s p tc q = (v0, v1)) (hm : Sub 0x200000000 km) (hk :
    Keeps km kz s) : Keeps km kz v1 := by
  have h := drrOrder_keeps (kz := kz) (s := s) hm hk (p := p) (tc := tc) (q := q)
  rw [heq] at h
  exact h

theorem releaseStopped_keeps {p : Nat} {s : State} (hm : Sub 0x20000000030000000000000000011800000000000000000000000040020000002d91600000000 km) (hk :
    Keeps km kz s) : Keeps km kz (releaseStopped p s) := by
  refine Keeps.lift hm ?_ hk
  unfold releaseStopped
  repeat' first
    | with_reducible exact Keeps.refl _ _
    | with_reducible refine (drrOrder_keeps (hm := by decide)) ?_
    | with_reducible refine (drrOrder_of_eq (heq := by assumption) (hm := by decide)) ?_
    | with_reducible refine (modPort_keeps (hm := by decide)) ?_
    | with_reducible refine (settlePort_keeps (hm := by decide)) ?_
    | with_reducible refine (stageContext_keeps (hm := by decide)) ?_
    | with_reducible refine (keeps_foldl_snd (fun _ _ => ?_)) ?_
    | with_reducible refine (keeps_foldl_fst (fun _ _ => ?_)) ?_
    | with_reducible refine (keeps_foldl_third (fun _ _ => ?_)) ?_
    | with_reducible refine (keeps_foldl_mid (fun _ _ => ?_)) ?_
    | with_reducible refine (keeps_foldl (fun _ _ => ?_)) ?_
    | with_reducible refine keeps_if (fun _ => ?_) (fun _ => ?_)
    | with_reducible refine keeps_if_snd (fun _ => ?_) (fun _ => ?_)
    | dsimp only
    | split
    | (simp only [Prod.ext_iff] at *; casesm* _ ∧ _; subst_vars)

theorem applyStop_keeps {d : Die} {add : Bool} {e : BitVec 64} {s : State} (hm : Sub 0x20000000030000000000000000011800000000000000000000000040020200002d91600000000 km) (hk :
    Keeps km kz s) : Keeps km kz (applyStop d add e s) := by
  refine Keeps.lift hm ?_ hk
  unfold applyStop
  repeat' first
    | with_reducible exact Keeps.refl _ _
    | with_reducible refine (stopXoff_keeps (hm := by decide)) ?_
    | with_reducible refine (modSwc_keeps ?_) ?_
    | with_reducible refine (stopXon_keeps (hm := by decide)) ?_
    | with_reducible refine (releaseStopped_keeps (hm := by decide)) ?_
    | with_reducible refine (keeps_foldl_snd (fun _ _ => ?_)) ?_
    | with_reducible refine (keeps_foldl_fst (fun _ _ => ?_)) ?_
    | with_reducible refine (keeps_foldl_third (fun _ _ => ?_)) ?_
    | with_reducible refine (keeps_foldl_mid (fun _ _ => ?_)) ?_
    | with_reducible refine (keeps_foldl (fun _ _ => ?_)) ?_
    | with_reducible refine keeps_if (fun _ => ?_) (fun _ => ?_)
    | dsimp only
    | split
    | (constructor <;> first | exact .inl (by decide) | exact .inr rfl)
    | (simp only [Prod.ext_iff] at *; casesm* _ ∧ _; subst_vars)

theorem stopCmd_keeps {add : Bool} {r : CtlReq} {s : State} (hm : Sub 0x20000000030000000000000000011800000000000000000000000040028200002d91680000000 km) (hk :
    Keeps km kz s) : Keeps km kz (stopCmd add r s) := by
  refine Keeps.lift hm ?_ hk
  unfold stopCmd
  repeat' first
    | with_reducible exact Keeps.refl _ _
    | with_reducible refine (sendCtlRsp_keeps (hm := by decide)) ?_
    | with_reducible refine (modSwc_keeps ?_) ?_
    | with_reducible refine (applyStop_keeps (hm := by decide)) ?_
    | with_reducible refine (modCfg_keeps ?_) ?_
    | with_reducible refine keeps_if (fun _ => ?_) (fun _ => ?_)
    | dsimp only
    | split
    | (constructor <;> first | exact .inl (by decide) | exact .inr rfl)
    | (simp only [Prod.ext_iff] at *; casesm* _ ∧ _; subst_vars)

theorem execStop_keeps {r : CtlReq} {s : State} : Keeps 0x20000000030000000000000000011800000000000000000000000040028200002d91680000000 s (after (execStop r s) s) := by
  unfold execStop
  repeat' first
    | with_reducible exact Keeps.refl _ _
    | with_reducible refine (stopCmd_keeps (hm := by decide)) ?_
    | with_reducible refine keeps_if (fun _ => ?_) (fun _ => ?_)
    | with_reducible refine keeps_if_after (fun _ => ?_) (fun _ => ?_)
    | split
    | with_reducible refine keeps_after_swcOk ?_

theorem execResume_keeps {r : CtlReq} {s : State} : Keeps 0x20000000030000000000000000011800000000000000000000000040028200002d91680000000 s (after (execResume r s) s) := by
  unfold execResume
  repeat' first
    | with_reducible exact Keeps.refl _ _
    | with_reducible refine (stopCmd_keeps (hm := by decide)) ?_
    | with_reducible refine keeps_if (fun _ => ?_) (fun _ => ?_)
    | with_reducible refine keeps_if_after (fun _ => ?_) (fun _ => ?_)
    | split
    | with_reducible refine keeps_after_swcOk ?_

theorem execStopStalkApply_keeps {d : Die} {s : State} : Keeps 0x20000000030000000000000000011800000000000000000000000040028200002d91680000000 s (after (execStopStalkApply d s) s) := by
  unfold execStopStalkApply
  repeat' first
    | with_reducible exact Keeps.refl _ _
    | with_reducible refine (applyStop_keeps (hm := by decide)) ?_
    | with_reducible refine (modSwc_keeps ?_) ?_
    | with_reducible refine (sendCtlRsp_keeps (hm := by decide)) ?_
    | with_reducible refine (modCfg_keeps ?_) ?_
    | with_reducible refine keeps_if (fun _ => ?_) (fun _ => ?_)
    | with_reducible refine keeps_if_after (fun _ => ?_) (fun _ => ?_)
    | dsimp only
    | split
    | with_reducible refine keeps_after_swcOk ?_
    | (constructor <;> first | exact .inl (by decide) | exact .inr rfl)
    | (simp only [Prod.ext_iff] at *; casesm* _ ∧ _; subst_vars)

theorem stageControl_keeps {p : Nat} {h : HeldFrame} {s : State} (hm : Sub 0x20000000030000000000000000011800000000000000000000000040028200002d91680180000 km) (hk :
    Keeps km kz s) : Keeps km kz (stageControl p h s) := by
  refine Keeps.lift hm ?_ hk
  unfold stageControl
  repeat' first
    | with_reducible exact Keeps.refl _ _
    | with_reducible refine (stopCmd_keeps (hm := by decide)) ?_
    | with_reducible refine (letGo_keeps (hm := by decide)) ?_
    | with_reducible refine (stageRecord_keeps (hm := by decide)) ?_
    | with_reducible refine keeps_if (fun _ => ?_) (fun _ => ?_)
    | dsimp only
    | split

theorem stageRoute_keeps {p : Nat} {h : HeldFrame} {s : State} (hm : Sub 0x20000000030000000000000000011800000000000000000000000040028200002d91680180000 km) (hk :
    Keeps km kz s) : Keeps km kz (stageRoute p h s) := by
  refine Keeps.lift hm ?_ hk
  unfold stageRoute
  repeat' first
    | with_reducible exact Keeps.refl _ _
    | with_reducible refine (failCheck_keeps (hm := by first | decide | (simp only [StReg.mask]; decide))) ?_
    | with_reducible refine (setStatus_keeps (hm := by first | decide | (simp only [StReg.mask]; decide))) ?_
    | with_reducible refine (stageControl_keeps (hm := by first | decide | (simp only [StReg.mask]; decide))) ?_
    | with_reducible refine keeps_if (fun _ => ?_) (fun _ => ?_)
    | dsimp only
    | split

theorem failFence_keeps {p : Nat} {h : HeldFrame} {s : State} (hm : Sub 0x1800000000000000000000000040020000002d81600000000 km) (hk :
    Keeps km kz s) : Keeps km kz (failFence p h s) := by
  refine Keeps.lift hm ?_ hk
  unfold failFence
  repeat' first
    | with_reducible exact Keeps.refl _ _
    | with_reducible refine (failCheck_keeps (hm := by first | decide | (simp only [StReg.mask]; decide))) ?_
    | with_reducible refine (setStatus_keeps (hm := by first | decide | (simp only [StReg.mask]; decide))) ?_
    | with_reducible refine keeps_if (fun _ => ?_) (fun _ => ?_)
    | dsimp only
    | split

theorem stageFence_keeps {p : Nat} {h : HeldFrame} {s : State} (hm : Sub 0x20000000030000000000000000011800000000000000000000000040028200002d91680180000 km) (hk :
    Keeps km kz s) : Keeps km kz (stageFence p h s) := by
  refine Keeps.lift hm ?_ hk
  unfold stageFence
  repeat' first
    | with_reducible exact Keeps.refl _ _
    | with_reducible refine (countHold_keeps (hm := by first | decide | (simp only [StReg.mask]; decide))) ?_
    | with_reducible refine (modPort_keeps (hm := by first | decide | (simp only [StReg.mask]; decide))) ?_
    | with_reducible refine (failFence_keeps (hm := by first | decide | (simp only [StReg.mask]; decide))) ?_
    | with_reducible refine (answerBad_keeps (hm := by first | decide | (simp only [StReg.mask]; decide))) ?_
    | with_reducible refine (setStatus_keeps (hm := by first | decide | (simp only [StReg.mask]; decide))) ?_
    | with_reducible refine (stageRoute_keeps (hm := by first | decide | (simp only [StReg.mask]; decide))) ?_
    | with_reducible refine (keeps_foldl_snd (fun _ _ => ?_)) ?_
    | with_reducible refine (keeps_foldl_fst (fun _ _ => ?_)) ?_
    | with_reducible refine (keeps_foldl_third (fun _ _ => ?_)) ?_
    | with_reducible refine (keeps_foldl_mid (fun _ _ => ?_)) ?_
    | with_reducible refine (keeps_foldl (fun _ _ => ?_)) ?_
    | with_reducible refine keeps_if (fun _ => ?_) (fun _ => ?_)
    | dsimp only
    | split
    | (simp only [Prod.ext_iff] at *; casesm* _ ∧ _; subst_vars)

theorem stageHeader_keeps {p : Nat} {etype : BitVec 16} {h : HeldFrame} {s : State} (hm : Sub 0x20000000030000000000000000011800000000000000000000000040028200002d91680180000 km) (hk :
    Keeps km kz s) : Keeps km kz (stageHeader p etype h s) := by
  refine Keeps.lift hm ?_ hk
  unfold stageHeader
  repeat' first
    | with_reducible exact Keeps.refl _ _
    | with_reducible refine (discard_keeps (hm := by first | decide | (simp only [StReg.mask]; decide))) ?_
    | with_reducible refine (setStatus_keeps (hm := by first | decide | (simp only [StReg.mask]; decide))) ?_
    | with_reducible refine (failCheck_keeps (hm := by first | decide | (simp only [StReg.mask]; decide))) ?_
    | with_reducible refine (pushOut_keeps (hm := by first | decide | (simp only [StReg.mask]; decide))) ?_
    | with_reducible refine (stageFence_keeps (hm := by first | decide | (simp only [StReg.mask]; decide))) ?_
    | with_reducible refine keeps_if (fun _ => ?_) (fun _ => ?_)
    | dsimp only
    | split
    | (simp only [Prod.ext_iff] at *; casesm* _ ∧ _; subst_vars)

theorem arrive_keeps {p k : Nat} {w : WireFrame} {s : State} (hm : Sub 0x200000000300000000000000000118000000000000000000000000400283e0022d91680180000 km) (hk :
    Keeps km kz s) : Keeps km kz (arrive p k w s) := by
  refine Keeps.lift hm ?_ hk
  unfold arrive
  repeat' first
    | with_reducible exact Keeps.refl _ _
    | with_reducible refine (drawFree_keeps (hm := by decide)) ?_
    | with_reducible refine (drawFree_of_eq (heq := by assumption) (hm := by decide)) ?_
    | with_reducible refine (sample_keeps (hm := by decide)) ?_
    | with_reducible refine (allocCells_keeps (hm := by decide)) ?_
    | with_reducible refine (allocCells_of_eq (heq := by assumption) (hm := by decide)) ?_
    | with_reducible refine (modSub_keeps (hm := by decide)) ?_
    | with_reducible refine (pfcXoff_keeps (hm := by decide)) ?_
    | with_reducible refine (modPort_keeps (hm := by decide)) ?_
    | with_reducible refine (stageHeader_keeps (hm := by decide)) ?_
    | with_reducible refine keeps_if (fun _ => ?_) (fun _ => ?_)
    | with_reducible refine keeps_if_snd (fun _ => ?_) (fun _ => ?_)
    | dsimp only
    | split
    | (simp only [Prod.ext_iff] at *; casesm* _ ∧ _; subst_vars)

theorem corrupted_keeps {p k bit : Nat} {fec : Bool} {s : State} (hm : Sub 0x1800000000000000000000000000000000000020200000000 km) (hk :
    Keeps km kz s) : Keeps km kz (corrupted p k bit fec s) := by
  refine Keeps.lift hm ?_ hk
  unfold corrupted
  repeat' first
    | with_reducible exact Keeps.refl _ _
    | with_reducible refine (countDiscard_keeps (hm := by first | decide | (simp only [StReg.mask]; decide))) ?_
    | with_reducible refine (setStatus_keeps (hm := by first | decide | (simp only [StReg.mask]; decide))) ?_
    | with_reducible refine (modPort_keeps (hm := by first | decide | (simp only [StReg.mask]; decide))) ?_
    | with_reducible refine (sendNak_keeps (hm := by first | decide | (simp only [StReg.mask]; decide))) ?_
    | with_reducible refine keeps_if (fun _ => ?_) (fun _ => ?_)
    | dsimp only
    | split

theorem linkFrame_keeps {p k : Nat} {w : WireFrame} {s : State} (hm : Sub 0x80000000000000000018000000000000000000000000001000000025b1e00000000 km) (hk :
    Keeps km kz s) : Keeps km kz (linkFrame p k w s) := by
  refine Keeps.lift hm ?_ hk
  unfold linkFrame
  repeat' first
    | with_reducible exact Keeps.refl _ _
    | with_reducible refine (countDiscard_keeps (hm := by first | decide | (simp only [StReg.mask]; decide))) ?_
    | with_reducible refine (setStatus_keeps (hm := by first | decide | (simp only [StReg.mask]; decide))) ?_
    | with_reducible refine (takeInit_keeps (hm := by first | decide | (simp only [StReg.mask]; decide))) ?_
    | with_reducible refine (takeCredit_keeps (hm := by first | decide | (simp only [StReg.mask]; decide))) ?_
    | with_reducible refine (takeNak_keeps (hm := by first | decide | (simp only [StReg.mask]; decide))) ?_
    | with_reducible refine keeps_if (fun _ => ?_) (fun _ => ?_)
    | dsimp only
    | split

theorem sequenced_keeps {p k : Nat} {w : WireFrame} {s : State} (hm : Sub 0x200000000300000000000000000118000000000000000000000000400283e0022db1680180000 km) (hk :
    Keeps km kz s) : Keeps km kz (sequenced p k w s) := by
  refine Keeps.lift hm ?_ hk
  unfold sequenced
  repeat' first
    | with_reducible exact Keeps.refl _ _
    | with_reducible refine (arrive_keeps (hm := by decide)) ?_
    | with_reducible refine (countDiscard_keeps (hm := by decide)) ?_
    | with_reducible refine (modSub_keeps (hm := by decide)) ?_
    | with_reducible refine (sendNak_keeps (hm := by decide)) ?_
    | with_reducible refine keeps_if (fun _ => ?_) (fun _ => ?_)
    | dsimp only
    | split

theorem ingress_keeps {p k : Nat} {w : WireFrame} {s : State} (hm : Sub 0x200000000380000000000000000118000000000000000000000000401283e0022db1e80180000 km) (hk :
    Keeps km kz s) : Keeps km kz (ingress p k w s) := by
  refine Keeps.lift hm ?_ hk
  unfold ingress
  repeat' first
    | with_reducible exact Keeps.refl _ _
    | with_reducible refine (corrupted_keeps (hm := by decide)) ?_
    | with_reducible refine (countDiscard_keeps (hm := by decide)) ?_
    | with_reducible refine (notePn_keeps (hm := by decide)) ?_
    | with_reducible refine (takeAck_keeps (hm := by decide)) ?_
    | with_reducible refine (linkFrame_keeps (hm := by decide)) ?_
    | with_reducible refine (sequenced_keeps (hm := by decide)) ?_
    | with_reducible refine keeps_if (fun _ => ?_) (fun _ => ?_)
    | dsimp only
    | split

theorem execFrameIngress_keeps {port sub : Nat} {w : WireFrame} {s : State} : Keeps 0x200000000380000000000000000118000000000000000000000000401283e0022db1e80180000 s (after (execFrameIngress port sub w s) s) := by
  unfold execFrameIngress
  repeat' first
    | with_reducible exact Keeps.refl _ _
    | with_reducible refine (ingress_keeps (hm := by decide)) ?_
    | with_reducible refine keeps_after_swcOk ?_

theorem endAt_keeps {port : Nat} {q : HeldFrame → Bool} {st : BitVec 5} {s : State} (hm : Sub 0x20000000030000000000000000011800000000000000000000000040020000002d91600000000 km) (hk :
    Keeps km kz s) : Keeps km kz (endAt port q st s) := by
  refine Keeps.lift hm ?_ hk
  unfold endAt
  repeat' first
    | with_reducible exact Keeps.refl _ _
    | with_reducible refine (settlePort_keeps (hm := by decide)) ?_
    | with_reducible refine (endAllHeld_keeps (hm := by decide)) ?_
    | dsimp only

theorem recordMoved_keeps {p : Nat} {s : State} (hm : Sub 0x20000000030000000000000000011800000000000000000000000040020000002d91600180000 km) (hk :
    Keeps km kz s) : Keeps km kz (recordMoved p s) := by
  refine Keeps.lift hm ?_ hk
  unfold recordMoved
  repeat' first
    | with_reducible exact Keeps.refl _ _
    | with_reducible refine (settlePort_keeps (hm := by decide)) ?_
    | with_reducible refine (drainRec_keeps (hm := by decide)) ?_

theorem execReleaseForward_keeps {port : Nat} {k : ReqKey} {s : State} : Keeps 0x20000000030000000000000000011800000000000000000000000040020000002d91600000000 s (after (execReleaseForward port k s) s) := by
  unfold execReleaseForward
  repeat' first
    | with_reducible exact Keeps.refl _ _
    | with_reducible refine (settlePort_keeps (hm := by decide)) ?_
    | with_reducible refine (stageLeave_keeps (hm := by decide)) ?_
    | with_reducible refine (modPort_keeps (hm := by decide)) ?_
    | with_reducible refine keeps_if (fun _ => ?_) (fun _ => ?_)
    | with_reducible refine keeps_if_after (fun _ => ?_) (fun _ => ?_)
    | dsimp only
    | split
    | with_reducible refine keeps_after_swcOk ?_

theorem execReleaseTimeout_keeps {port : Nat} {k : ReqKey} {s : State} : Keeps 0x20000000030000000000000000011800000000000000000000000060020000002d91600000000 s (after (execReleaseTimeout port k s) s) := by
  unfold execReleaseTimeout
  repeat' first
    | with_reducible exact Keeps.refl _ _
    | with_reducible refine (endAt_keeps (hm := by first | decide | (simp only [StReg.mask]; decide))) ?_
    | with_reducible refine (setStatus_keeps (hm := by first | decide | (simp only [StReg.mask]; decide))) ?_
    | with_reducible refine keeps_if (fun _ => ?_) (fun _ => ?_)
    | with_reducible refine keeps_if_after (fun _ => ?_) (fun _ => ?_)
    | dsimp only
    | split
    | with_reducible refine keeps_after_swcOk ?_

theorem execAcquireHoldTimeout_keeps {port : Nat} {k : ReqKey} {s : State} : Keeps 0x20000000030000000000000000011800000000000000000000000040020000002d91600000000 s (after (execAcquireHoldTimeout port k s) s) := by
  unfold execAcquireHoldTimeout
  repeat' first
    | with_reducible exact Keeps.refl _ _
    | with_reducible refine (endAt_keeps (hm := by decide)) ?_
    | with_reducible refine keeps_if (fun _ => ?_) (fun _ => ?_)
    | with_reducible refine keeps_if_after (fun _ => ?_) (fun _ => ?_)
    | dsimp only
    | split
    | with_reducible refine keeps_after_swcOk ?_

theorem execWriteRecordTimeout_keeps {port : Nat} {k : ReqKey} {s : State} : Keeps 0x20000000030000000000000000011800000000000000000000000060020000002d91600180000 s (after (execWriteRecordTimeout port k s) s) := by
  unfold execWriteRecordTimeout
  repeat' first
    | with_reducible exact Keeps.refl _ _
    | with_reducible refine (recordMoved_keeps (hm := by first | decide | (simp only [StReg.mask]; decide))) ?_
    | with_reducible refine (setStatus_keeps (hm := by first | decide | (simp only [StReg.mask]; decide))) ?_
    | with_reducible refine (modPort_keeps (hm := by first | decide | (simp only [StReg.mask]; decide))) ?_
    | with_reducible refine keeps_if (fun _ => ?_) (fun _ => ?_)
    | with_reducible refine keeps_if_after (fun _ => ?_) (fun _ => ?_)
    | dsimp only
    | split
    | with_reducible refine keeps_after_swcOk ?_

theorem execMemSync_keeps {port : Nat} {f : Frame} {s : State} : Keeps 0x20000000030000000000000000011800000000000000000000000040028200002d91680180000 s (after (execMemSync port f s) s) := by
  unfold execMemSync
  repeat' first
    | with_reducible exact Keeps.refl _ _
    | with_reducible refine (countDiscard_keeps (hm := by first | decide | (simp only [StReg.mask]; decide))) ?_
    | with_reducible refine (setStatus_keeps (hm := by first | decide | (simp only [StReg.mask]; decide))) ?_
    | with_reducible refine (modPort_keeps (hm := by first | decide | (simp only [StReg.mask]; decide))) ?_
    | with_reducible refine (stageFence_keeps (hm := by first | decide | (simp only [StReg.mask]; decide))) ?_
    | with_reducible refine keeps_if (fun _ => ?_) (fun _ => ?_)
    | with_reducible refine keeps_if_after (fun _ => ?_) (fun _ => ?_)
    | dsimp only
    | split
    | with_reducible refine keeps_after_swcOk ?_

theorem releaseRated_keeps {fuel : Nat} {d : Die} {c tc : Nat} {s : State} (hm : Sub 0x20000000030000000000000000011800000000000000000000000040020000002d91600000000 km) (hk :
    Keeps km kz s) : Keeps km kz (releaseRated fuel d c tc s) := by
  refine Keeps.lift hm ?_ hk
  clear hk
  induction fuel generalizing s with
  | zero => exact Keeps.refl _ _
  | succ n ih =>
    unfold releaseRated
    extract_lets head
    clear_value head
    split
    · exact Keeps.refl _ _
    · split
      · exact Keeps.refl _ _
      · refine Keeps.trans ?_ ih
        exact (settlePort_keeps (by decide)) ((stageRelease_keeps (by decide)) ((drawTokens_keeps (by decide))
          ((modPort_keeps (by decide)) (Keeps.refl _ _))))

theorem execRateTokenRelease_keeps {d : Die} {ctx tc tokens : Nat} {s : State} : Keeps 0x20000000030000000000000000011800000000000000000000000040020000002d91600000000 s (after (execRateTokenRelease d ctx tc tokens s) s) := by
  unfold execRateTokenRelease
  repeat' first
    | with_reducible exact Keeps.refl _ _
    | with_reducible refine (modEv_keeps ?_) ?_
    | with_reducible refine (releaseRated_keeps (hm := by decide)) ?_
    | with_reducible refine keeps_if (fun _ => ?_) (fun _ => ?_)
    | with_reducible refine keeps_if_after (fun _ => ?_) (fun _ => ?_)
    | dsimp only
    | split
    | with_reducible refine keeps_after_swcOk ?_
    | (constructor <;> first | exact .inl (by decide) | exact .inr rfl)

theorem execPepperHoldExpiry_keeps {port idx : Nat} {s : State} : Keeps 0x20000000030000000000000000011800000000000000000000000040020000002d91600000000 s (after (execPepperHoldExpiry port idx s) s) := by
  unfold execPepperHoldExpiry
  repeat' first
    | with_reducible exact Keeps.refl _ _
    | with_reducible refine (settlePort_keeps (hm := by decide)) ?_
    | with_reducible refine (stageRate_keeps (hm := by decide)) ?_
    | with_reducible refine (modPort_keeps (hm := by decide)) ?_
    | with_reducible refine keeps_if (fun _ => ?_) (fun _ => ?_)
    | with_reducible refine keeps_if_after (fun _ => ?_) (fun _ => ?_)
    | dsimp only
    | split
    | with_reducible refine keeps_after_swcOk ?_

theorem execEpochHoldTimeout_keeps {port idx : Nat} {s : State} : Keeps 0x20000000030000000000000000011800000000000000000000000040020000002d91600000000 s (after (execEpochHoldTimeout port idx s) s) := by
  unfold execEpochHoldTimeout
  repeat' first
    | with_reducible exact Keeps.refl _ _
    | with_reducible refine (settlePort_keeps (hm := by decide)) ?_
    | with_reducible refine (failFence_keeps (hm := by decide)) ?_
    | with_reducible refine (modPort_keeps (hm := by decide)) ?_
    | with_reducible refine keeps_if (fun _ => ?_) (fun _ => ?_)
    | with_reducible refine keeps_if_after (fun _ => ?_) (fun _ => ?_)
    | dsimp only
    | split
    | with_reducible refine keeps_after_swcOk ?_

theorem recheckEpochs_keeps {s : State} (hm : Sub 0x20000000030000000000000000011800000000000000000000000040028200002d91680180000 km) (hk :
    Keeps km kz s) : Keeps km kz (recheckEpochs s) := by
  refine Keeps.lift hm ?_ hk
  unfold recheckEpochs
  repeat' first
    | with_reducible exact Keeps.refl _ _
    | with_reducible refine (modPort_keeps (hm := by decide)) ?_
    | with_reducible refine (settlePort_keeps (hm := by decide)) ?_
    | with_reducible refine (stageFence_keeps (hm := by decide)) ?_
    | with_reducible refine (keeps_foldl_snd (fun _ _ => ?_)) ?_
    | with_reducible refine (keeps_foldl_fst (fun _ _ => ?_)) ?_
    | with_reducible refine (keeps_foldl_third (fun _ _ => ?_)) ?_
    | with_reducible refine (keeps_foldl_mid (fun _ _ => ?_)) ?_
    | with_reducible refine (keeps_foldl (fun _ _ => ?_)) ?_
    | dsimp only
    | (simp only [Prod.ext_iff] at *; casesm* _ ∧ _; subst_vars)

theorem execMapGenerationApply_keeps {gen : Nat} {changes : List MapChange} {s : State} : Keeps 0x38000000030e8025cd80000000011b81740440045c08190d4006f867268200002d91e86180000 s (after (execMapGenerationApply gen changes s) s) := by
  unfold execMapGenerationApply
  repeat' first
    | with_reducible exact Keeps.refl _ _
    | with_reducible refine (recheckEpochs_keeps (hm := by decide)) ?_
    | with_reducible refine (applyGeneration_keeps (hm := by decide)) ?_
    | with_reducible refine keeps_after_swcOk ?_

theorem execSwitchDeclareLost_keeps {sw : Nat} {s : State} : Keeps 0x38000000030e8025cd80000000011b81740440045c08190d4006f867268200002d91e86180000 s (after (execSwitchDeclareLost sw s) s) := by
  unfold execSwitchDeclareLost
  repeat' first
    | with_reducible exact Keeps.refl _ _
    | with_reducible refine (recheckEpochs_keeps (hm := by decide)) ?_
    | with_reducible refine (applyGeneration_keeps (hm := by decide)) ?_
    | with_reducible refine keeps_elim ?_ (fun _ => ?_)
    | with_reducible refine keeps_if (fun _ => ?_) (fun _ => ?_)
    | with_reducible refine keeps_if_after (fun _ => ?_) (fun _ => ?_)
    | dsimp only
    | split
    | with_reducible refine keeps_after_swcOk ?_

end Machine
end Sys2Proof
end

