-- ==== Sys2Proof/Laws/FrameEgress.lean ====
section
/-! SUPPORT. Frames of the functions of Machine/Egress.lean: the parts of the state that each may change, as a mask (Laws/Keeps.lean). -/

namespace Sys2Proof
namespace Machine
set_option linter.unusedTactic false
set_option linter.unreachableTactic false
set_option linter.tactic.unusedName false
variable {km : Nat} {kz : State}

theorem rspCopy_of_eq {e : WriteEntry} {s : State} {v0 : Nat} {v1 : State} (heq : rspCopy e s = some (v0, v1)) (hm : Sub 0x20000000000000000000000000000000000000000000000000000000000000000000000000000 km) (hk :
    Keeps km kz s) : Keeps km kz v1 := by
  refine Keeps.lift hm ?_ hk
  unfold rspCopy at heq
  dsimp only at heq
  repeat' (first | contradiction | split at heq)
  all_goals first | (cases heq; done) | cases heq
  repeat' first
    | with_reducible exact Keeps.refl _ _
    | with_reducible refine (drawFree_keeps (hm := by decide)) ?_
    | with_reducible refine (drawFree_of_eq (heq := by assumption) (hm := by decide)) ?_
    | with_reducible refine keeps_if (fun _ => ?_) (fun _ => ?_)
    | with_reducible refine keeps_if_snd (fun _ => ?_) (fun _ => ?_)
    | dsimp only
    | split
    | (simp only [Prod.ext_iff] at *; casesm* _ ∧ _; subst_vars)

theorem noteWriteRsp_keeps {p : Nat} {k : ReqKey} {st : BitVec 5} {s : State} (hm : Sub 0x20000000030000000000000000011800000000000000000000000040020000002d91600180000 km) (hk :
    Keeps km kz s) : Keeps km kz (noteWriteRsp p k st s) := by
  refine Keeps.lift hm ?_ hk
  clear hk
  unfold noteWriteRsp
  split
  · exact Keeps.refl _ _
  · rename_i e s0 h
    have k0 : Keeps 0x20000000030000000000000000011800000000000000000000000040020000002d91600180000 s s0 := by
      obtain ⟨e0, _, h0⟩ := Option.bind_eq_some_iff.mp h
      obtain ⟨c, hc, hcs⟩ := Option.map_eq_some_iff.mp h0
      cases hcs
      exact rspCopy_of_eq hc (by decide) (Keeps.refl _ _)
    refine keeps_if (fun _ => ?_) (fun _ => (modPort_keeps (by decide)) k0)
    extract_lets s1 waiting
    have k1 : Keeps 0x20000000030000000000000000011800000000000000000000000040020000002d91600180000 s s1 := (modPort_keeps (by decide)) k0
    clear_value s1
    exact (recordMoved_keeps (by decide)) (keeps_if (fun _ => (endAt_keeps (by decide)) k1) (fun _ => k1))

theorem noteAcquire_keeps {p : Nat} {k : ReqKey} {s : State} (hm : Sub 0x20000000030000000000000000011800000000000000000000000040020000002d91600000000 km) (hk :
    Keeps km kz s) : Keeps km kz (noteAcquire p k s) := by
  refine Keeps.lift hm ?_ hk
  unfold noteAcquire
  repeat' first
    | with_reducible exact Keeps.refl _ _
    | with_reducible refine (settlePort_keeps (hm := by decide)) ?_
    | with_reducible refine (modPort_keeps (hm := by decide)) ?_
    | with_reducible refine keeps_if (fun _ => ?_) (fun _ => ?_)
    | dsimp only
    | split

theorem noteResponse_keeps {p : Nat} {f : Frame} {s : State} (hm : Sub 0x20000000030000000000000000011800000000000000000000000040020000002d91600180000 km) (hk :
    Keeps km kz s) : Keeps km kz (noteResponse p f s) := by
  refine Keeps.lift hm ?_ hk
  unfold noteResponse
  repeat' first
    | with_reducible exact Keeps.refl _ _
    | with_reducible refine (modPort_keeps (hm := by decide)) ?_
    | with_reducible refine (noteAcquire_keeps (hm := by decide)) ?_
    | with_reducible refine (noteWriteRsp_keeps (hm := by decide)) ?_
    | with_reducible refine keeps_if (fun _ => ?_) (fun _ => ?_)
    | dsimp only
    | split

theorem schedPut_keeps {d : Die} {o : Output} {i v : Nat} {s : State} (hm : Sub 0x200000000000 km) (hk :
    Keeps km kz s) : Keeps km kz (schedPut d o i v s) := by
  refine Keeps.lift hm ?_ hk
  unfold schedPut
  repeat' first
    | with_reducible exact Keeps.refl _ _
    | with_reducible refine (modSwc_keeps ?_) ?_
    | dsimp only
    | (constructor <;> first | exact .inl (by decide) | exact .inr rfl)

theorem beginRound_keeps {d : Die} {o : Output} {s : State} (hm : Sub 0x200000000000 km) (hk :
    Keeps km kz s) : Keeps km kz (beginRound d o s) := by
  refine Keeps.lift hm ?_ hk
  unfold beginRound
  repeat' first
    | with_reducible exact Keeps.refl _ _
    | with_reducible refine (schedPut_keeps (hm := by decide)) ?_
    | with_reducible refine (keeps_foldl_snd (fun _ _ => ?_)) ?_
    | with_reducible refine (keeps_foldl_fst (fun _ _ => ?_)) ?_
    | with_reducible refine (keeps_foldl_third (fun _ _ => ?_)) ?_
    | with_reducible refine (keeps_foldl_mid (fun _ _ => ?_)) ?_
    | with_reducible refine (keeps_foldl (fun _ _ => ?_)) ?_
    | dsimp only
    | (simp only [Prod.ext_iff] at *; casesm* _ ∧ _; subst_vars)

theorem drrPick_of_eq {fuel : Nat} {s : State} {d : Die} {o : Output} {turn : Nat} {defs : List Nat} {v0 : Nat} {w1 : List Nat} {v1 : State} (heq : drrPick fuel s d o turn defs = some (v0, w1, v1)) (hm : Sub 0x200000000000 km) (hk :
    Keeps km kz s) : Keeps km kz v1 := by
  refine Keeps.lift hm ?_ hk
  clear hk
  induction fuel generalizing s turn defs v0 w1 v1 with
  | zero => cases heq
  | succ n ih =>
    unfold drrPick at heq
    extract_lets have_ cost defs1 next t defs2 at heq
    have kt : Keeps 0x200000000000 s t := keeps_if (fun _ => (beginRound_keeps (by decide)) (Keeps.refl _ _)) (fun _ => Keeps.refl _ _)
    clear_value t defs2
    split at heq
    · cases heq
      exact Keeps.refl _ _
    · exact kt.trans (ih heq)

theorem pickLow_of_eq {s : State} {d : Die} {o : Output} {v0 : Nat} {v1 : State} (heq : pickLow s d o = some (v0, v1)) (hm : Sub 0x200000000000 km) (hk :
    Keeps km kz s) : Keeps km kz v1 := by
  refine Keeps.lift hm ?_ hk
  clear hk
  unfold pickLow at heq
  extract_lets ready at heq
  clear_value ready
  split at heq
  · split at heq
    · cases heq
    · rename_i tc defs s1 h1
      have k1 : Keeps 0x200000000000 s s1 := drrPick_of_eq h1 (by decide) (Keeps.refl _ _)
      have h : v1 = _ := (Prod.mk.inj (Option.some.inj heq)).2.symm
      subst h
      exact (keeps_foldl (fun t i => (schedPut_keeps (by decide)) (Keeps.refl _ _))) ((schedPut_keeps (by decide)) k1)
  · cases hr : ready.head? with
    | none => rw [hr] at heq; cases heq
    | some x =>
      rw [hr] at heq
      cases heq
      exact Keeps.refl _ _

theorem pickTc_of_eq {s : State} {d : Die} {o : Output} {v0 : Nat} {v1 : State} (heq : pickTc s d o = some (v0, v1)) (hm : Sub 0x200000000000 km) (hk :
    Keeps km kz s) : Keeps km kz v1 := by
  refine Keeps.lift hm ?_ hk
  clear hk
  unfold pickTc at heq
  extract_lets ready others at heq
  clear_value others ready
  split at heq
  · cases heq
    exact Keeps.refl _ _
  · split at heq
    · cases heq
      exact Keeps.refl _ _
    · split at heq
      · cases heq
        exact Keeps.refl _ _
      · split at heq
        · rename_i x hx
          cases heq
          exact (pickLow_of_eq hx (by decide)) (Keeps.refl _ _)
        · split at heq
          · cases heq
            exact Keeps.refl _ _
          · split at heq
            · cases heq
              exact Keeps.refl _ _
            · cases heq

theorem account_keeps {d : Die} {o : Output} {tc cells : Nat} {s : State} (hm : Sub 0x200000000000 km) (hk :
    Keeps km kz s) : Keeps km kz (account d o tc cells s) := by
  refine Keeps.lift hm ?_ hk
  unfold account
  repeat' first
    | with_reducible exact Keeps.refl _ _
    | with_reducible refine (schedPut_keeps (hm := by decide)) ?_
    | with_reducible refine keeps_if (fun _ => ?_) (fun _ => ?_)
    | dsimp only
    | split

theorem sendSub_keeps {d : Die} {p k : Nat} {x : Desc} {s : State} (hm : Sub 0x200000000300000000000000000118000000000000000000000000400201e0022db1600180000 km) (hk :
    Keeps km kz s) : Keeps km kz (sendSub d p k x s) := by
  refine Keeps.lift hm ?_ hk
  unfold sendSub
  repeat' first
    | with_reducible exact Keeps.refl _ _
    | with_reducible refine (sample_keeps (hm := by decide)) ?_
    | with_reducible refine (pepHit_keeps (hm := by decide)) ?_
    | with_reducible refine (pepHit_of_eq (heq := by assumption) (hm := by decide)) ?_
    | with_reducible refine (modSub_keeps (hm := by decide)) ?_
    | with_reducible refine (modPort_keeps (hm := by decide)) ?_
    | with_reducible refine (putWire_keeps (hm := by decide)) ?_
    | with_reducible refine (noteResponse_keeps (hm := by decide)) ?_
    | with_reducible refine (letGo_keeps (hm := by decide)) ?_
    | with_reducible refine keeps_if (fun _ => ?_) (fun _ => ?_)
    | with_reducible refine keeps_if_snd (fun _ => ?_) (fun _ => ?_)
    | dsimp only
    | split
    | (simp only [Prod.ext_iff] at *; casesm* _ ∧ _; subst_vars)

theorem sendStalk_keeps {d : Die} {x : Desc} {s : State} (hm : Sub 0x1c00002c80200000000 km) (hk :
    Keeps km kz s) : Keeps km kz (sendStalk d x s) := by
  refine Keeps.lift hm ?_ hk
  unfold sendStalk
  repeat' first
    | with_reducible exact Keeps.refl _ _
    | with_reducible refine (letGo_keeps (hm := by decide)) ?_
    | with_reducible refine (allocCells_keeps (hm := by decide)) ?_
    | with_reducible refine (allocCells_of_eq (heq := by assumption) (hm := by decide)) ?_
    | with_reducible refine (modSwc_keeps ?_) ?_
    | with_reducible refine keeps_if (fun _ => ?_) (fun _ => ?_)
    | with_reducible refine keeps_if_snd (fun _ => ?_) (fun _ => ?_)
    | dsimp only
    | split
    | (constructor <;> first | exact .inl (by decide) | exact .inr rfl)
    | (simp only [Prod.ext_iff] at *; casesm* _ ∧ _; subst_vars)

theorem reachSp_keeps {d : Die} {f : Frame} {s : State} (hm : Sub 0x800000000000000000000000040020000002d81620000000 km) (hk :
    Keeps km kz s) : Keeps km kz (reachSp d f s) := by
  refine Keeps.lift hm ?_ hk
  unfold reachSp
  repeat' first
    | with_reducible exact Keeps.refl _ _
    | with_reducible refine (sendCtlRsp_keeps (hm := by decide)) ?_
    | with_reducible refine (modCfg_keeps ?_) ?_
    | with_reducible refine keeps_if (fun _ => ?_) (fun _ => ?_)
    | dsimp only
    | split
    | (constructor <;> first | exact .inl (by decide) | exact .inr rfl)
    | (simp only [Prod.ext_iff] at *; casesm* _ ∧ _; subst_vars)

theorem takeOut_keeps {d : Die} {o : Output} {x : Desc} {s : State} (hm : Sub 0x20000000030000000000000000011800000000000000000000000040131de0022db1620180000 km) (hk :
    Keeps km kz s) : Keeps km kz (takeOut d o x s) := by
  refine Keeps.lift hm ?_ hk
  unfold takeOut
  repeat' first
    | with_reducible exact Keeps.refl _ _
    | with_reducible refine (sendSub_keeps (hm := by decide)) ?_
    | with_reducible refine (sendStalk_keeps (hm := by decide)) ?_
    | with_reducible refine (modHome_keeps ?_) ?_
    | with_reducible refine (reachSp_keeps (hm := by decide)) ?_
    | with_reducible refine (letGo_keeps (hm := by decide)) ?_
    | with_reducible refine (modSwc_keeps ?_) ?_
    | with_reducible refine (keeps_foldl_snd (fun _ _ => ?_)) ?_
    | with_reducible refine (keeps_foldl_fst (fun _ _ => ?_)) ?_
    | with_reducible refine (keeps_foldl_third (fun _ _ => ?_)) ?_
    | with_reducible refine (keeps_foldl_mid (fun _ _ => ?_)) ?_
    | with_reducible refine (keeps_foldl (fun _ _ => ?_)) ?_
    | with_reducible refine keeps_if (fun _ => ?_) (fun _ => ?_)
    | dsimp only
    | split
    | (constructor <;> first | exact .inl (by decide) | exact .inr rfl)
    | (simp only [Prod.ext_iff] at *; casesm* _ ∧ _; subst_vars)

theorem popOut_keeps {d : Die} {o : Output} {tc i : Nat} {s : State} (hm : Sub 0x100000000000 km) (hk :
    Keeps km kz s) : Keeps km kz (popOut d o tc i s) := by
  refine Keeps.lift hm ?_ hk
  unfold popOut
  repeat' first
    | with_reducible exact Keeps.refl _ _
    | with_reducible refine (setFifo_keeps (hm := by decide)) ?_

theorem egress_keeps {d : Die} {o : Output} {s : State} (hm : Sub 0x20000000030000000000000000011800000000000000000000000040131de0022fb1620180000 km) (hk :
    Keeps km kz s) : Keeps km kz (egress d o s) := by
  refine Keeps.lift hm ?_ hk
  clear hk
  unfold egress
  split
  · rename_i tc x p bit _
    have k1 : Keeps 0x20000000030000000000000000011800000000000000000000000040131de0022fb1620180000 s (countDiscard p 1 (letGo d x (popOut d o tc 0 s))) :=
      (countDiscard_keeps (by decide)) ((letGo_keeps (by decide)) ((popOut_keeps (by decide)) (Keeps.refl _ _)))
    exact keeps_elim k1 (fun b => (setStatus_keeps (by simp only [StReg.mask]; decide)) k1)
  · split
    · exact Keeps.refl _ _
    · rename_i tc s1 h1
      extract_lets i
      clear_value i
      have k1 : Keeps 0x20000000030000000000000000011800000000000000000000000040131de0022fb1620180000 s s1 := (pickTc_of_eq h1 (by decide)) (Keeps.refl _ _)
      split
      · exact Keeps.refl _ _
      · exact (takeOut_keeps (by decide)) ((account_keeps (by decide)) ((popOut_keeps (by decide)) k1))

theorem execEgressSend_keeps {d : Die} {out : Output} {s : State} : Keeps 0x20000000030000000000000000011800000000000000000000000040131de0022fb1620180000 s (after (execEgressSend d out s) s) := by
  unfold execEgressSend
  repeat' first
    | with_reducible exact Keeps.refl _ _
    | with_reducible refine (releaseAgents_keeps (hm := by decide)) ?_
    | with_reducible refine (egress_keeps (hm := by decide)) ?_
    | with_reducible refine keeps_after_swcOk ?_

theorem noteStalk_keeps {d : Die} {m : StalkMsg} {s : State} (hm : Sub 0x7000000000000000000 km) (hk :
    Keeps km kz s) : Keeps km kz (noteStalk d m s) := by
  refine Keeps.lift hm ?_ hk
  unfold noteStalk
  repeat' first
    | with_reducible exact Keeps.refl _ _
    | with_reducible refine (modSwc_keeps ?_) ?_
    | with_reducible refine keeps_if (fun _ => ?_) (fun _ => ?_)
    | dsimp only
    | split
    | (constructor <;> first | exact .inl (by decide) | exact .inr rfl)
    | (simp only [Prod.ext_iff] at *; casesm* _ ∧ _; subst_vars)

theorem deliverMsg_keeps {d : Die} {x : Desc} {s : State} (hm : Sub 0x40000000002590200000000 km) (hk :
    Keeps km kz s) : Keeps km kz (deliverMsg d x s) := by
  refine Keeps.lift hm ?_ hk
  unfold deliverMsg
  repeat' first
    | with_reducible exact Keeps.refl _ _
    | with_reducible refine (steer_keeps (hm := by decide)) ?_
    | with_reducible refine (putOnWay_keeps (hm := by decide)) ?_
    | with_reducible refine (keeps_foldl_snd (fun _ _ => ?_)) ?_
    | with_reducible refine (keeps_foldl_fst (fun _ _ => ?_)) ?_
    | with_reducible refine (keeps_foldl_third (fun _ _ => ?_)) ?_
    | with_reducible refine (keeps_foldl_mid (fun _ _ => ?_)) ?_
    | with_reducible refine (keeps_foldl (fun _ _ => ?_)) ?_
    | with_reducible refine keeps_if (fun _ => ?_) (fun _ => ?_)
    | dsimp only
    | split
    | (simp only [Prod.ext_iff] at *; casesm* _ ∧ _; subst_vars)

theorem execStalkReceive_keeps {d : Die} {tc : Nat} {s : State} : Keeps 0x40007400002590200000000 s (after (execStalkReceive d tc s) s) := by
  unfold execStalkReceive
  repeat' first
    | with_reducible exact Keeps.refl _ _
    | with_reducible refine (modSwc_keeps ?_) ?_
    | with_reducible refine (freeCells_keeps (hm := by decide)) ?_
    | with_reducible refine (deliverMsg_keeps (hm := by decide)) ?_
    | with_reducible refine (noteStalk_keeps (hm := by decide)) ?_
    | with_reducible refine keeps_if (fun _ => ?_) (fun _ => ?_)
    | with_reducible refine keeps_if_after (fun _ => ?_) (fun _ => ?_)
    | dsimp only
    | split
    | with_reducible refine keeps_after_swcOk ?_
    | (constructor <;> first | exact .inl (by decide) | exact .inr rfl)
    | (simp only [Prod.ext_iff] at *; casesm* _ ∧ _; subst_vars)

theorem auditCell_keeps {d : Die} {epoch : Nat} {used : List Nat} {old : Dict Nat} {c : Nat} {s : State} (hm : Sub 0x18000000000000000000000000000000000a3400000000000 km) (hk :
    Keeps km kz s) : Keeps km kz (auditCell d epoch used old c s) := by
  refine Keeps.lift hm ?_ hk
  unfold auditCell
  repeat' first
    | with_reducible exact Keeps.refl _ _
    | with_reducible refine (setStatus_keeps (hm := by first | decide | (simp only [StReg.mask]; decide))) ?_
    | with_reducible refine (modSwc_keeps ?_) ?_
    | with_reducible refine keeps_if (fun _ => ?_) (fun _ => ?_)
    | dsimp only
    | split
    | (constructor <;> first | exact .inl (by decide) | exact .inr rfl)

theorem auditSlack_keeps {d : Die} {s : State} (hm : Sub 0x1800000000000000000000000000000000038000000000000 km) (hk :
    Keeps km kz s) : Keeps km kz (auditSlack d s) := by
  refine Keeps.lift hm ?_ hk
  unfold auditSlack
  repeat' first
    | with_reducible exact Keeps.refl _ _
    | with_reducible refine (modSwc_keeps ?_) ?_
    | with_reducible refine (setStatus_keeps (hm := by first | decide | (simp only [StReg.mask]; decide))) ?_
    | with_reducible refine keeps_if (fun _ => ?_) (fun _ => ?_)
    | dsimp only
    | split
    | (constructor <;> first | exact .inl (by decide) | exact .inr rfl)

theorem execAuditPass_keeps {d : Die} {s : State} : Keeps 0x18000000000000000000000000000000000ff400000000000 s (after (execAuditPass d s) s) := by
  unfold execAuditPass
  repeat' first
    | with_reducible exact Keeps.refl _ _
    | with_reducible refine (modSwc_keeps ?_) ?_
    | with_reducible refine (auditSlack_keeps (hm := by decide)) ?_
    | with_reducible refine (auditCell_keeps (hm := by decide)) ?_
    | with_reducible refine (keeps_foldl_snd (fun _ _ => ?_)) ?_
    | with_reducible refine (keeps_foldl_fst (fun _ _ => ?_)) ?_
    | with_reducible refine (keeps_foldl_third (fun _ _ => ?_)) ?_
    | with_reducible refine (keeps_foldl_mid (fun _ _ => ?_)) ?_
    | with_reducible refine (keeps_foldl (fun _ _ => ?_)) ?_
    | dsimp only
    | with_reducible refine keeps_after_swcOk ?_
    | (constructor <;> first | exact .inl (by decide) | exact .inr rfl)
    | (simp only [Prod.ext_iff] at *; casesm* _ ∧ _; subst_vars)

theorem putCell_keeps {d : Die} {c : CellArea} {tc i : Nat} {g : Option Desc} {s : State} (hm : Sub 0x100a00000000 km) (hk :
    Keeps km kz s) : Keeps km kz (putCell d c tc i g s) := by
  refine Keeps.lift hm ?_ hk
  unfold putCell
  repeat' first
    | with_reducible exact Keeps.refl _ _
    | with_reducible refine (setFifo_keeps (hm := by decide)) ?_
    | with_reducible refine (modPort_keeps (hm := by decide)) ?_
    | with_reducible refine (modReseq_keeps (hm := by decide)) ?_
    | with_reducible refine keeps_if (fun _ => ?_) (fun _ => ?_)
    | dsimp only
    | split

theorem countCell_keeps {d : Die} {c : CellArea} {x : Desc} {s : State} (hm : Sub 0x80000000000200000000 km) (hk :
    Keeps km kz s) : Keeps km kz (countCell d c x s) := by
  refine Keeps.lift hm ?_ hk
  unfold countCell
  repeat' first
    | with_reducible exact Keeps.refl _ _
    | with_reducible refine (countDiscard_keeps (hm := by decide)) ?_
    | with_reducible refine (modSwc_keeps ?_) ?_
    | with_reducible refine keeps_if (fun _ => ?_) (fun _ => ?_)
    | dsimp only
    | split
    | (constructor <;> first | exact .inl (by decide) | exact .inr rfl)
    | (simp only [Prod.ext_iff] at *; casesm* _ ∧ _; subst_vars)

theorem execCellEccError_keeps {d : Die} {area : CellArea} {tc pos : Nat} {kind : CellFault} {s : State} : Keeps 0x200000000300000000000000000118000000000000000000000000400a0000022d91e00000000 s (after (execCellEccError d area tc pos kind s) s) := by
  unfold execCellEccError
  split
  · exact keeps_after_swcOk (Keeps.refl _ _)
  · rename_i x _
    split
    · exact keeps_after_swcOk ((setStatus_keeps (by simp only [StReg.mask]; decide)) (Keeps.refl _ _))
    · extract_lets s1 src s2
      have k1 : Keeps 0x200000000300000000000000000118000000000000000000000000400a0000022d91e00000000 s s1 := (setStatus_keeps (by simp only [StReg.mask]; decide)) (Keeps.refl _ _)
      have k2 : Keeps 0x200000000300000000000000000118000000000000000000000000400a0000022d91e00000000 s s2 := (countCell_keeps (by decide)) ((letGo_keeps (by decide)) ((putCell_keeps (by decide)) k1))
      clear_value s1 s2
      refine keeps_if_after (fun _ => keeps_after_swcOk ((putCell_keeps (by decide)) k1)) (fun _ => ?_)
      refine keeps_after_swcOk ?_
      split
      · exact (settlePort_keeps (by decide)) k2
      · exact k2
      · exact k2

end Machine
end Sys2Proof
end

