-- ==== Sys2Proof/Laws/FrameRegisters.lean ====
section
/-! SUPPORT. Frames of the functions of Machine/Registers.lean: the parts of the state that each may change, as a mask (Laws/Keeps.lean). -/

namespace Sys2Proof
namespace Machine
set_option linter.unusedTactic false
set_option linter.unreachableTactic false
set_option linter.tactic.unusedName false
variable {km : Nat} {kz : State}

theorem readClear_keeps {s : State} {off : Nat} (hm : Sub 0x100020000200000210000000889004040000000000008020020000020020000200200000 km) (hk :
    Keeps km kz s) : Keeps km kz (readClear s off) := by
  refine Keeps.lift hm ?_ hk
  clear hk
  unfold readClear
  split
  · exact (stUpd_keeps (sub_mask (by decide) (by decide))) (Keeps.refl _ _)
  · extract_lets p
    clear_value p
    refine keeps_if (fun _ => ?_) (fun _ => ?_)
    · split
      · exact (modPort_keeps (by decide)) (Keeps.refl _ _)
      · exact (modPort_keeps (by decide)) (Keeps.refl _ _)
      · exact (modPort_keeps (by decide)) (Keeps.refl _ _)
      · exact Keeps.refl _ _
    · refine keeps_if (fun _ => ?_) (fun _ => ?_)
      · refine (modSwc_keeps ?_) (Keeps.refl _ _)
        constructor <;> first | exact .inl (by decide) | exact .inr rfl
      refine keeps_if (fun _ => ?_) (fun _ => ?_)
      · refine (modSwc_keeps ?_) (Keeps.refl _ _)
        constructor <;> first | exact .inl (by decide) | exact .inr rfl
      refine keeps_if (fun _ => ?_) (fun _ => Keeps.refl _ _)
      refine (modFlt_keeps ?_) (Keeps.refl _ _)
      constructor <;> first | exact .inl (by decide) | exact .inr rfl

theorem selExt_keeps {v : Nat} {s : State} (hm : Sub 0x600000000000000000000000000000000000000000000000000000000000000000000000000 km) (hk :
    Keeps km kz s) : Keeps km kz (selExt v s) := by
  refine Keeps.lift hm ?_ hk
  clear hk
  unfold selExt
  extract_lets i w
  clear_value w i
  split
  · exact (set_extSel_extRec_keeps (by decide) (by decide)) (Keeps.refl _ _)
  · extract_lets
    refine keeps_if (fun _ => ?_) (fun _ => ?_)
    · exact (set_extSel_extRec_keeps (by decide) (by decide)) (Keeps.refl _ _)
    · extract_lets
      exact (set_extSel_extRec_keeps (by decide) (by decide)) (Keeps.refl _ _)

theorem selObj_keeps {v : Nat} {s : State} (hm : Sub 0x21800000000000000000000000000000000000000000000000000000000000000000000000000 km) (hk :
    Keeps km kz s) : Keeps km kz (selObj v s) := by
  refine Keeps.lift hm ?_ hk
  clear hk
  unfold selObj
  extract_lets id w
  clear_value w id
  split
  · exact (set_objSel_objRec_keeps (by decide) (by decide)) (Keeps.refl _ _)
  · split
    rename_i k s0 h0
    split
    rename_i j s1 h1
    extract_lets st
    clear_value st
    refine (set_objSel_objRec_keeps (by decide) (by decide)) ?_
    exact (drawFree_of_eq h1 (by decide)) ((drawFree_of_eq h0 (by decide)) (Keeps.refl _ _))

theorem selDir_keeps {d : Die} {v : Nat} {s : State} (hm : Sub 0x380000000000000000000000000 km) (hk :
    Keeps km kz s) : Keeps km kz (selDir d v s) := by
  refine Keeps.lift hm ?_ hk
  unfold selDir
  repeat' first
    | with_reducible exact Keeps.refl _ _
    | with_reducible refine (modCoh_keeps ?_) ?_
    | with_reducible refine keeps_elim ?_ (fun _ => ?_)
    | with_reducible refine keeps_if (fun _ => ?_) (fun _ => ?_)
    | dsimp only
    | split
    | (constructor <;> first | exact .inl (by decide) | exact .inr rfl)
    | (simp only [Prod.ext_iff] at *; casesm* _ ∧ _; subst_vars)

theorem selCore_keeps {d : Die} {v : Nat} {s : State} (hm : Sub 0x18000000000000000000000000000000000000000000 km) (hk :
    Keeps km kz s) : Keeps km kz (selCore d v s) := by
  refine Keeps.lift hm ?_ hk
  unfold selCore
  repeat' first
    | with_reducible exact Keeps.refl _ _
    | with_reducible refine (modPod_keeps ?_) ?_
    | with_reducible refine keeps_elim ?_ (fun _ => ?_)
    | with_reducible refine keeps_if (fun _ => ?_) (fun _ => ?_)
    | dsimp only
    | split
    | (constructor <;> first | exact .inl (by decide) | exact .inr rfl)

theorem selSes_keeps {v : Nat} {s : State} (hm : Sub 0x6000000000000000000000000000000000000000000000000000000000000000000000000000 km) (hk :
    Keeps km kz s) : Keeps km kz (selSes v s) := by
  refine Keeps.lift hm ?_ hk
  clear hk
  unfold selSes
  extract_lets i w
  clear_value w i
  split
  · exact (set_sesSel_sesRec_keeps (by decide) (by decide)) (Keeps.refl _ _)
  · exact (set_sesSel_sesRec_keeps (by decide) (by decide)) (Keeps.refl _ _)

theorem selFence_keeps {v : Nat} {s : State} (hm : Sub 0xc00000000000000000000000000000000000000000000000000000000000000 km) (hk :
    Keeps km kz s) : Keeps km kz (selFence v s) := by
  refine Keeps.lift hm ?_ hk
  unfold selFence
  repeat' first
    | with_reducible exact Keeps.refl _ _
    | with_reducible refine (modFlt_keeps ?_) ?_
    | with_reducible refine keeps_if (fun _ => ?_) (fun _ => ?_)
    | dsimp only
    | split
    | (constructor <;> first | exact .inl (by decide) | exact .inr rfl)

theorem selSwitch_keeps {v : Nat} {s : State} (hm : Sub 0x3000000000000000000000000000000000000000000000000000000000000000 km) (hk :
    Keeps km kz s) : Keeps km kz (selSwitch v s) := by
  refine Keeps.lift hm ?_ hk
  unfold selSwitch
  repeat' first
    | with_reducible exact Keeps.refl _ _
    | with_reducible refine (modFlt_keeps ?_) ?_
    | with_reducible refine keeps_if (fun _ => ?_) (fun _ => ?_)
    | dsimp only
    | split
    | (constructor <;> first | exact .inl (by decide) | exact .inr rfl)
    | (simp only [Prod.ext_iff] at *; casesm* _ ∧ _; subst_vars)

theorem selComp_keeps {v : Nat} {s : State} (hm : Sub 0xc000000000000000000000000000000000000000000000000000000000000000 km) (hk :
    Keeps km kz s) : Keeps km kz (selComp v s) := by
  refine Keeps.lift hm ?_ hk
  unfold selComp
  repeat' first
    | with_reducible exact Keeps.refl _ _
    | with_reducible refine (modFlt_keeps ?_) ?_
    | with_reducible refine keeps_if (fun _ => ?_) (fun _ => ?_)
    | dsimp only
    | split
    | (constructor <;> first | exact .inl (by decide) | exact .inr rfl)

theorem sampleCfg_keeps {d : Die} {v : Nat} {s : State} (hm : Sub 0x7e00000000000000 km) (hk :
    Keeps km kz s) : Keeps km kz (sampleCfg d v s).2 := by
  refine Keeps.lift hm ?_ hk
  unfold sampleCfg
  repeat' first
    | with_reducible exact Keeps.refl _ _
    | with_reducible refine (modSwc_keeps ?_) ?_
    | with_reducible refine keeps_if (fun _ => ?_) (fun _ => ?_)
    | with_reducible refine keeps_if_snd (fun _ => ?_) (fun _ => ?_)
    | dsimp only
    | split
    | (constructor <;> first | exact .inl (by decide) | exact .inr rfl)

theorem sampleCfg_of_eq {d : Die} {v : Nat} {s : State}{v0} {v1 : State} (heq : sampleCfg d v s = (v0, v1)) (hm : Sub 0x7e00000000000000 km) (hk :
    Keeps km kz s) : Keeps km kz v1 := by
  have h := sampleCfg_keeps (kz := kz) (s := s) hm hk (d := d) (v := v)
  rw [heq] at h
  exact h

theorem swcWrite_keeps {d : Die} {o v : Nat} {s : State} (hm : Sub 0x1ff00000000000000 km) (hk :
    Keeps km kz s) : Keeps km kz (swcWrite d o v s).2 := by
  refine Keeps.lift hm ?_ hk
  unfold swcWrite
  repeat' first
    | with_reducible exact Keeps.refl _ _
    | with_reducible refine (modSwc_keeps ?_) ?_
    | with_reducible refine (sampleCfg_keeps (hm := by decide)) ?_
    | with_reducible refine (sampleCfg_of_eq (heq := by assumption) (hm := by decide)) ?_
    | with_reducible refine keeps_if (fun _ => ?_) (fun _ => ?_)
    | with_reducible refine keeps_if_snd (fun _ => ?_) (fun _ => ?_)
    | dsimp only
    | split
    | (constructor <;> first | exact .inl (by decide) | exact .inr rfl)
    | (simp only [Prod.ext_iff] at *; casesm* _ ∧ _; subst_vars)

theorem swcWrite_of_eq {d : Die} {o v : Nat} {s : State}{v0} {v1 : State} (heq : swcWrite d o v s = (v0, v1)) (hm : Sub 0x1ff00000000000000 km) (hk :
    Keeps km kz s) : Keeps km kz v1 := by
  have h := swcWrite_keeps (kz := kz) (s := s) hm hk (d := d) (o := o) (v := v)
  rw [heq] at h
  exact h

theorem homWrite_keeps {o v : Nat} {s : State} (hm : Sub 0x21e00000000000000000000000000000000000000000000000000018000000000000000000000 km) (hk :
    Keeps km kz s) : Keeps km kz (homWrite o v s).2 := by
  refine Keeps.lift hm ?_ hk
  clear hk
  unfold homWrite
  refine keeps_if_snd (fun _ => ?_) (fun _ => ?_)
  · show Keeps _ s (selExt v s)
    exact (selExt_keeps (by decide)) (Keeps.refl _ _)
  refine keeps_if_snd (fun _ => ?_) (fun _ => ?_)
  · show Keeps _ s (selObj v s)
    exact (selObj_keeps (by decide)) (Keeps.refl _ _)
  refine keeps_if_snd (fun _ => ?_) (fun _ => Keeps.refl _ _)
  refine keeps_if_snd (fun _ => Keeps.refl _ _) (fun _ => ?_)
  have key : ∀ (d : Die) (b : Bool) (n : Nat),
      Keeps 0x21e00000000000000000000000000000000000000000000000000018000000000000000000000 s (modHome s d (fun h => { h with combineEn := b, ageUs := n })) := by
    intro d b n
    refine (modHome_keeps ?_) (Keeps.refl _ _)
    constructor <;> first | exact .inl (by decide) | exact .inr rfl
  exact key _ _ _

theorem homWrite_of_eq {o v : Nat} {s : State}{v0} {v1 : State} (heq : homWrite o v s = (v0, v1)) (hm : Sub 0x21e00000000000000000000000000000000000000000000000000018000000000000000000000 km) (hk :
    Keeps km kz s) : Keeps km kz v1 := by
  have h := homWrite_keeps (kz := kz) (s := s) hm hk (o := o) (v := v)
  rw [heq] at h
  exact h

theorem cohWrite_keeps {d : Die} {o v : Nat} {s : State} (hm : Sub 0x390000000000000000000000000 km) (hk :
    Keeps km kz s) : Keeps km kz (cohWrite d o v s).2 := by
  refine Keeps.lift hm ?_ hk
  unfold cohWrite
  repeat' first
    | with_reducible exact Keeps.refl _ _
    | with_reducible refine (modCoh_keeps ?_) ?_
    | with_reducible refine (selDir_keeps (hm := by decide)) ?_
    | with_reducible refine keeps_if (fun _ => ?_) (fun _ => ?_)
    | with_reducible refine keeps_if_snd (fun _ => ?_) (fun _ => ?_)
    | dsimp only
    | split
    | (constructor <;> first | exact .inl (by decide) | exact .inr rfl)
    | (simp only [Prod.ext_iff] at *; casesm* _ ∧ _; subst_vars)

theorem cohWrite_of_eq {d : Die} {o v : Nat} {s : State}{v0} {v1 : State} (heq : cohWrite d o v s = (v0, v1)) (hm : Sub 0x390000000000000000000000000 km) (hk :
    Keeps km kz s) : Keeps km kz v1 := by
  have h := cohWrite_keeps (kz := kz) (s := s) hm hk (d := d) (o := o) (v := v)
  rw [heq] at h
  exact h

theorem ccFlushAll_keeps {d : Die} {s : State} (hm : Sub 0x800000000000000000c80000040060000002d81600000000 km) (hk :
    Keeps km kz s) : Keeps km kz (ccFlushAll d s) := by
  refine Keeps.lift hm ?_ hk
  unfold ccFlushAll
  repeat' first
    | with_reducible exact Keeps.refl _ _
    | with_reducible refine (ccWriteback_keeps (hm := by decide)) ?_
    | with_reducible refine (modTier_keeps ?_) ?_
    | with_reducible refine (keeps_foldl_snd (fun _ _ => ?_)) ?_
    | with_reducible refine (keeps_foldl_fst (fun _ _ => ?_)) ?_
    | with_reducible refine (keeps_foldl_third (fun _ _ => ?_)) ?_
    | with_reducible refine (keeps_foldl_mid (fun _ _ => ?_)) ?_
    | with_reducible refine (keeps_foldl (fun _ _ => ?_)) ?_
    | dsimp only
    | (constructor <;> first | exact .inl (by decide) | exact .inr rfl)
    | (simp only [Prod.ext_iff] at *; casesm* _ ∧ _; subst_vars)

theorem tierWrite_keeps {d : Die} {o v : Nat} {s : State} (hm : Sub 0x800000000000000000c87c00040060000002d81600000000 km) (hk :
    Keeps km kz s) : Keeps km kz (tierWrite d o v s).2 := by
  refine Keeps.lift hm ?_ hk
  unfold tierWrite
  repeat' first
    | with_reducible exact Keeps.refl _ _
    | with_reducible refine (modTier_keeps ?_) ?_
    | with_reducible refine (ccFlushAll_keeps (hm := by decide)) ?_
    | with_reducible refine keeps_if (fun _ => ?_) (fun _ => ?_)
    | with_reducible refine keeps_if_snd (fun _ => ?_) (fun _ => ?_)
    | dsimp only
    | split
    | (constructor <;> first | exact .inl (by decide) | exact .inr rfl)
    | (simp only [Prod.ext_iff] at *; casesm* _ ∧ _; subst_vars)

theorem tierWrite_of_eq {d : Die} {o v : Nat} {s : State}{v0} {v1 : State} (heq : tierWrite d o v s = (v0, v1)) (hm : Sub 0x800000000000000000c87c00040060000002d81600000000 km) (hk :
    Keeps km kz s) : Keeps km kz v1 := by
  have h := tierWrite_keeps (kz := kz) (s := s) hm hk (d := d) (o := o) (v := v)
  rw [heq] at h
  exact h

theorem ftlWrite_keeps {d : Die} {o v : Nat} {s : State} (hm : Sub 0x3ff00000000000000000000000000000000000000 km) (hk :
    Keeps km kz s) : Keeps km kz (ftlWrite d o v s).2 := by
  refine Keeps.lift hm ?_ hk
  unfold ftlWrite
  repeat' first
    | with_reducible exact Keeps.refl _ _
    | with_reducible refine (modFtl_keeps ?_) ?_
    | with_reducible refine keeps_if (fun _ => ?_) (fun _ => ?_)
    | with_reducible refine keeps_if_snd (fun _ => ?_) (fun _ => ?_)
    | dsimp only
    | split
    | (constructor <;> first | exact .inl (by decide) | exact .inr rfl)
    | (simp only [Prod.ext_iff] at *; casesm* _ ∧ _; subst_vars)

theorem ftlWrite_of_eq {d : Die} {o v : Nat} {s : State}{v0} {v1 : State} (heq : ftlWrite d o v s = (v0, v1)) (hm : Sub 0x3ff00000000000000000000000000000000000000 km) (hk :
    Keeps km kz s) : Keeps km kz v1 := by
  have h := ftlWrite_keeps (kz := kz) (s := s) hm hk (d := d) (o := o) (v := v)
  rw [heq] at h
  exact h

theorem podRetire_keeps {d : Die} {p : Nat} {s : State} (hm : Sub 0x1800004700000000000000000000000000000000000000000 km) (hk :
    Keeps km kz s) : Keeps km kz (podRetire d p s).2 := by
  refine Keeps.lift hm ?_ hk
  unfold podRetire
  repeat' first
    | with_reducible exact Keeps.refl _ _
    | with_reducible refine (putCore_keeps (hm := by decide)) ?_
    | with_reducible refine (retireCore_keeps (hm := by decide)) ?_
    | with_reducible refine keeps_if (fun _ => ?_) (fun _ => ?_)
    | with_reducible refine keeps_if_snd (fun _ => ?_) (fun _ => ?_)
    | dsimp only
    | split

theorem podRetire_of_eq {d : Die} {p : Nat} {s : State}{v0} {v1 : State} (heq : podRetire d p s = (v0, v1)) (hm : Sub 0x1800004700000000000000000000000000000000000000000 km) (hk :
    Keeps km kz s) : Keeps km kz v1 := by
  have h := podRetire_keeps (kz := kz) (s := s) hm hk (d := d) (p := p)
  rw [heq] at h
  exact h

theorem podWrite_keeps {d : Die} {o v : Nat} {s : State} (hm : Sub 0x180001f700000000000000000000000000000000000000000 km) (hk :
    Keeps km kz s) : Keeps km kz (podWrite d o v s).2 := by
  refine Keeps.lift hm ?_ hk
  unfold podWrite
  repeat' first
    | with_reducible exact Keeps.refl _ _
    | with_reducible refine (modPod_keeps ?_) ?_
    | with_reducible refine (selCore_keeps (hm := by decide)) ?_
    | with_reducible refine (podRetire_keeps (hm := by decide)) ?_
    | with_reducible refine (podRetire_of_eq (heq := by assumption) (hm := by decide)) ?_
    | with_reducible refine keeps_if (fun _ => ?_) (fun _ => ?_)
    | with_reducible refine keeps_if_snd (fun _ => ?_) (fun _ => ?_)
    | dsimp only
    | split
    | (constructor <;> first | exact .inl (by decide) | exact .inr rfl)
    | (simp only [Prod.ext_iff] at *; casesm* _ ∧ _; subst_vars)

theorem podWrite_of_eq {d : Die} {o v : Nat} {s : State}{v0} {v1 : State} (heq : podWrite d o v s = (v0, v1)) (hm : Sub 0x180001f700000000000000000000000000000000000000000 km) (hk :
    Keeps km kz s) : Keeps km kz v1 := by
  have h := podWrite_keeps (kz := kz) (s := s) hm hk (d := d) (o := o) (v := v)
  rw [heq] at h
  exact h

theorem colWrite_keeps {d : Die} {o v : Nat} {s : State} (hm : Sub 0x800000000000000000000000000000000000000000000 km) (hk :
    Keeps km kz s) : Keeps km kz (colWrite d o v s).2 := by
  refine Keeps.lift hm ?_ hk
  unfold colWrite
  repeat' first
    | with_reducible exact Keeps.refl _ _
    | with_reducible refine (modCol_keeps ?_) ?_
    | with_reducible refine keeps_if (fun _ => ?_) (fun _ => ?_)
    | with_reducible refine keeps_if_snd (fun _ => ?_) (fun _ => ?_)
    | dsimp only
    | split
    | (constructor <;> first | exact .inl (by decide) | exact .inr rfl)
    | (simp only [Prod.ext_iff] at *; casesm* _ ∧ _; subst_vars)

theorem colWrite_of_eq {d : Die} {o v : Nat} {s : State}{v0} {v1 : State} (heq : colWrite d o v s = (v0, v1)) (hm : Sub 0x800000000000000000000000000000000000000000000 km) (hk :
    Keeps km kz s) : Keeps km kz v1 := by
  have h := colWrite_keeps (kz := kz) (s := s) hm hk (d := d) (o := o) (v := v)
  rw [heq] at h
  exact h

theorem attWrite_keeps {o v : Nat} {s : State} (hm : Sub 0x6000000000000000000000000000004000000000000000000000000000000000000000000000 km) (hk :
    Keeps km kz s) : Keeps km kz (attWrite o v s).2 := by
  refine Keeps.lift hm ?_ hk
  unfold attWrite
  repeat' first
    | with_reducible exact Keeps.refl _ _
    | with_reducible refine (modCol_keeps ?_) ?_
    | with_reducible refine (selSes_keeps (hm := by decide)) ?_
    | with_reducible refine keeps_if (fun _ => ?_) (fun _ => ?_)
    | with_reducible refine keeps_if_snd (fun _ => ?_) (fun _ => ?_)
    | dsimp only
    | split
    | (constructor <;> first | exact .inl (by decide) | exact .inr rfl)

theorem attWrite_of_eq {o v : Nat} {s : State}{v0} {v1 : State} (heq : attWrite o v s = (v0, v1)) (hm : Sub 0x6000000000000000000000000000004000000000000000000000000000000000000000000000 km) (hk :
    Keeps km kz s) : Keeps km kz v1 := by
  have h := attWrite_keeps (kz := kz) (s := s) hm hk (o := o) (v := v)
  rw [heq] at h
  exact h

theorem cmpWrite_keeps {o v : Nat} {s : State} (hm : Sub 0x400000000000000000000000000000000000000000000000 km) (hk :
    Keeps km kz s) : Keeps km kz (cmpWrite o v s).2 := by
  refine Keeps.lift hm ?_ hk
  clear hk
  unfold cmpWrite
  refine keeps_if_snd (fun _ => ?_) (fun _ => Keeps.refl _ _)
  generalize sput s.cmp.ctxCode ((o - 0x10000) / 8) (BitVec.ofNat 9 (b2n (bitAt v 8) * 256 + v % 16)) = q
  refine (set_cmp_keeps ?_) (Keeps.refl _ _)
  constructor <;> first | exact .inl (by decide) | exact .inr rfl

theorem cmpWrite_of_eq {o v : Nat} {s : State}{v0} {v1 : State} (heq : cmpWrite o v s = (v0, v1)) (hm : Sub 0x400000000000000000000000000000000000000000000000 km) (hk :
    Keeps km kz s) : Keeps km kz v1 := by
  have h := cmpWrite_keeps (kz := kz) (s := s) hm hk (o := o) (v := v)
  rw [heq] at h
  exact h

theorem quotaWrite_keeps {c tier v : Nat} {s : State} (hm : Sub 0x1800000000000000000000000000000000000000000000000 km) (hk :
    Keeps km kz s) : Keeps km kz (quotaWrite c tier v s).2 := by
  refine Keeps.lift hm ?_ hk
  unfold quotaWrite
  repeat' first
    | with_reducible exact Keeps.refl _ _
    | with_reducible refine (modCtx_keeps (hm := by decide)) ?_
    | with_reducible refine (overQuota_keeps (hm := by decide)) ?_
    | with_reducible refine keeps_if (fun _ => ?_) (fun _ => ?_)
    | with_reducible refine keeps_if_snd (fun _ => ?_) (fun _ => ?_)
    | dsimp only
    | split

theorem quotaWrite_of_eq {c tier v : Nat} {s : State}{v0} {v1 : State} (heq : quotaWrite c tier v s = (v0, v1)) (hm : Sub 0x1800000000000000000000000000000000000000000000000 km) (hk :
    Keeps km kz s) : Keeps km kz v1 := by
  have h := quotaWrite_keeps (kz := kz) (s := s) hm hk (c := c) (tier := tier) (v := v)
  rw [heq] at h
  exact h

theorem ctxWrite_keeps {c o v : Nat} {s : State} (hm : Sub 0x1800000000000000000000000000000000000000000000000 km) (hk :
    Keeps km kz s) : Keeps km kz (ctxWrite c o v s).2 := by
  refine Keeps.lift hm ?_ hk
  unfold ctxWrite
  repeat' first
    | with_reducible exact Keeps.refl _ _
    | with_reducible refine (quotaWrite_keeps (hm := by decide)) ?_
    | with_reducible refine (quotaWrite_of_eq (heq := by assumption) (hm := by decide)) ?_
    | with_reducible refine keeps_if (fun _ => ?_) (fun _ => ?_)
    | with_reducible refine keeps_if_snd (fun _ => ?_) (fun _ => ?_)
    | dsimp only
    | split
    | (simp only [Prod.ext_iff] at *; casesm* _ ∧ _; subst_vars)

theorem ctxWrite_of_eq {c o v : Nat} {s : State}{v0} {v1 : State} (heq : ctxWrite c o v s = (v0, v1)) (hm : Sub 0x1800000000000000000000000000000000000000000000000 km) (hk :
    Keeps km kz s) : Keeps km kz v1 := by
  have h := ctxWrite_keeps (kz := kz) (s := s) hm hk (c := c) (o := o) (v := v)
  rw [heq] at h
  exact h

theorem secWrite_keeps {o v : Nat} {s : State} (hm : Sub 0x18030401800000000000000000000000000000000000000000000000 km) (hk :
    Keeps km kz s) : Keeps km kz (secWrite o v s).2 := by
  refine Keeps.lift hm ?_ hk
  unfold secWrite
  repeat' first
    | with_reducible exact Keeps.refl _ _
    | with_reducible refine (fwCtlWrite_keeps (hm := by decide)) ?_
    | with_reducible refine (fwCtlWrite_of_eq (heq := by assumption) (hm := by decide)) ?_
    | with_reducible refine (modSec_keeps ?_ ?_) ?_
    | with_reducible refine keeps_if (fun _ => ?_) (fun _ => ?_)
    | with_reducible refine keeps_if_snd (fun _ => ?_) (fun _ => ?_)
    | dsimp only
    | split
    | (constructor <;> first | exact .inl (by decide) | exact .inr rfl)
    | (simp only [Prod.ext_iff] at *; casesm* _ ∧ _; subst_vars)
    | with_reducible exact SecMono.refl _
    | exact ⟨le_rfl, le_rfl, le_rfl, le_rfl, le_rfl⟩

theorem secWrite_of_eq {o v : Nat} {s : State}{v0} {v1 : State} (heq : secWrite o v s = (v0, v1)) (hm : Sub 0x18030401800000000000000000000000000000000000000000000000 km) (hk :
    Keeps km kz s) : Keeps km kz v1 := by
  have h := secWrite_keeps (kz := kz) (s := s) hm hk (o := o) (v := v)
  rw [heq] at h
  exact h

theorem mtrWrite_keeps {o v : Nat} {s : State} (hm : Sub 0x901c00000001800000000000000000000000000000000000000000000000 km) (hk :
    Keeps km kz s) : Keeps km kz (mtrWrite o v s).2 := by
  refine Keeps.lift hm ?_ hk
  unfold mtrWrite
  repeat' first
    | with_reducible exact Keeps.refl _ _
    | with_reducible refine (detachWrite_keeps (hm := by decide)) ?_
    | with_reducible refine keeps_if (fun _ => ?_) (fun _ => ?_)
    | with_reducible refine keeps_if_snd (fun _ => ?_) (fun _ => ?_)
    | dsimp only
    | split
    | (simp only [Prod.ext_iff] at *; casesm* _ ∧ _; subst_vars)

theorem mtrWrite_of_eq {o v : Nat} {s : State}{v0} {v1 : State} (heq : mtrWrite o v s = (v0, v1)) (hm : Sub 0x901c00000001800000000000000000000000000000000000000000000000 km) (hk :
    Keeps km kz s) : Keeps km kz v1 := by
  have h := mtrWrite_keeps (kz := kz) (s := s) hm hk (o := o) (v := v)
  rw [heq] at h
  exact h

theorem fltWrite_keeps {ep o v : Nat} {s : State} (hm : Sub 0x3800000000087ff80000000000001800000040045c08193c00000040060000002d8160c000000 km) (hk :
    Keeps km kz s) : Keeps km kz (fltWrite ep o v s).2 := by
  refine Keeps.lift hm ?_ hk
  unfold fltWrite
  repeat' first
    | with_reducible exact Keeps.refl _ _
    | with_reducible refine (modFlt_keeps ?_) ?_
    | with_reducible refine (selFence_keeps (hm := by decide)) ?_
    | with_reducible refine (selSwitch_keeps (hm := by decide)) ?_
    | with_reducible refine (xferGo_keeps (hm := by decide)) ?_
    | with_reducible refine (xferGo_of_eq (heq := by assumption) (hm := by decide)) ?_
    | with_reducible refine (selComp_keeps (hm := by decide)) ?_
    | with_reducible refine keeps_if (fun _ => ?_) (fun _ => ?_)
    | with_reducible refine keeps_if_snd (fun _ => ?_) (fun _ => ?_)
    | dsimp only
    | split
    | (constructor <;> first | exact .inl (by decide) | exact .inr rfl)
    | (simp only [Prod.ext_iff] at *; casesm* _ ∧ _; subst_vars)

theorem fltWrite_of_eq {ep o v : Nat} {s : State}{v0} {v1 : State} (heq : fltWrite ep o v s = (v0, v1)) (hm : Sub 0x3800000000087ff80000000000001800000040045c08193c00000040060000002d8160c000000 km) (hk :
    Keeps km kz s) : Keeps km kz v1 := by
  have h := fltWrite_keeps (kz := kz) (s := s) hm hk (ep := ep) (o := o) (v := v)
  rw [heq] at h
  exact h

theorem modWrite_keeps {o v : Nat} {s : State} (hm : Sub 0x63f0000000000000000000001800000000000000000000000000000000000000200000000 km) (hk :
    Keeps km kz s) : Keeps km kz (modWrite o v s).2 := by
  refine Keeps.lift hm ?_ hk
  unfold modWrite
  repeat' first
    | with_reducible exact Keeps.refl _ _
    | with_reducible refine (spareLane_keeps (hm := by decide)) ?_
    | with_reducible refine (spareLane_of_eq (heq := by assumption) (hm := by decide)) ?_
    | with_reducible refine (modMod_keeps ?_) ?_
    | with_reducible refine (sparePc_keeps (hm := by decide)) ?_
    | with_reducible refine (sparePc_of_eq (heq := by assumption) (hm := by decide)) ?_
    | with_reducible refine keeps_if (fun _ => ?_) (fun _ => ?_)
    | with_reducible refine keeps_if_snd (fun _ => ?_) (fun _ => ?_)
    | dsimp only
    | split
    | (constructor <;> first | exact .inl (by decide) | exact .inr rfl)

theorem modWrite_of_eq {o v : Nat} {s : State}{v0} {v1 : State} (heq : modWrite o v s = (v0, v1)) (hm : Sub 0x63f0000000000000000000001800000000000000000000000000000000000000200000000 km) (hk :
    Keeps km kz s) : Keeps km kz v1 := by
  have h := modWrite_keeps (kz := kz) (s := s) hm hk (o := o) (v := v)
  rw [heq] at h
  exact h

theorem regWrite_keeps {ep off v : Nat} {s : State} (hm : Sub 0x3fe063f000087ff80901e18030401c8d81f77ff45c08193c8ffb007806001ff22d8160c200000 km) (hk :
    Keeps km kz s) : Keeps km kz (regWrite ep off v s).2 := by
  refine Keeps.lift hm ?_ hk
  clear hk
  unfold regWrite
  split
  · rename_i r _
    show Keeps 0x3fe063f000087ff80901e18030401c8d81f77ff45c08193c8ffb007806001ff22d8160c200000 s (stUpd s r (fun x => x.clear v (stMask r)))
    exact stUpd_keeps (sub_mask (by decide) (by decide)) (Keeps.refl _ _)
  · refine keeps_if_snd (fun _ => Keeps.refl _ _) (fun _ => ?_)
    extract_lets o
    clear_value o
    split
    · exact (swcWrite_keeps (by decide)) (Keeps.refl _ _)
    · exact (homWrite_keeps (by decide)) (Keeps.refl _ _)
    · exact (cohWrite_keeps (by decide)) (Keeps.refl _ _)
    · exact (tierWrite_keeps (by decide)) (Keeps.refl _ _)
    · exact keeps_if_snd (fun _ => (ftlWrite_keeps (by decide)) (Keeps.refl _ _)) (fun _ => Keeps.refl _ _)
    · exact (podWrite_keeps (by decide)) (Keeps.refl _ _)
    · exact (podWrite_keeps (by decide)) (Keeps.refl _ _)
    · exact (colWrite_keeps (by decide)) (Keeps.refl _ _)
    · exact (attWrite_keeps (by decide)) (Keeps.refl _ _)
    · exact (cmpWrite_keeps (by decide)) (Keeps.refl _ _)
    · exact (ctxWrite_keeps (by decide)) (Keeps.refl _ _)
    · exact (secWrite_keeps (by decide)) (Keeps.refl _ _)
    · exact (mtrWrite_keeps (by decide)) (Keeps.refl _ _)
    · exact (fltWrite_keeps (by decide)) (Keeps.refl _ _)
    · exact (modWrite_keeps (by decide)) (Keeps.refl _ _)
    · exact Keeps.refl _ _

theorem regWrite_of_eq {ep off v : Nat} {s : State}{v0} {v1 : State} (heq : regWrite ep off v s = (v0, v1)) (hm : Sub 0x3fe063f000087ff80901e18030401c8d81f77ff45c08193c8ffb007806001ff22d8160c200000 km) (hk :
    Keeps km kz s) : Keeps km kz v1 := by
  have h := regWrite_keeps (kz := kz) (s := s) hm hk (ep := ep) (off := off) (v := v)
  rw [heq] at h
  exact h

theorem regPerform_keeps {f : Frame} {s : State} (hm : Sub 0x3fe063f002087ff80901e18030401c8d81f77ff45c08193c8ffb007806003ff22d8160c200000 km) (hk :
    Keeps km kz s) : Keeps km kz (regPerform f s).2.2 := by
  refine Keeps.lift hm ?_ hk
  unfold regPerform
  repeat' first
    | (extract_lets; try clear_value *)
    | with_reducible refine keeps_if (fun _ => ?_) (fun _ => ?_)
    | with_reducible refine keeps_if_snd (fun _ => ?_) (fun _ => ?_)
    | with_reducible refine keeps_if_third (fun _ => ?_) (fun _ => ?_)
    | split
    | with_reducible refine (readClear_keeps (hm := by decide)) ?_
    | with_reducible refine (apertureWrite_keeps (hm := by decide)) ?_
    | with_reducible refine (apertureWrite_of_eq (heq := by assumption) (hm := by decide)) ?_
    | with_reducible refine (regWrite_keeps (hm := by decide)) ?_
    | with_reducible refine (regWrite_of_eq (heq := by assumption) (hm := by decide)) ?_
    | with_reducible exact Keeps.refl _ _
    | dsimp only
    | (simp only [Prod.ext_iff] at *; casesm* _ ∧ _; subst_vars)

theorem regPerform_of_eq {f : Frame} {s : State}{v0 v1} {v2 : State} (heq : regPerform f s = (v0, v1, v2)) (hm : Sub 0x3fe063f002087ff80901e18030401c8d81f77ff45c08193c8ffb007806003ff22d8160c200000 km) (hk :
    Keeps km kz s) : Keeps km kz v2 := by
  have h := regPerform_keeps (kz := kz) (s := s) hm hk (f := f)
  rw [heq] at h
  exact h

theorem regAnswer_keeps {f : Frame} {st : BitVec 5} {b : Bytes} {s : State} (hm : Sub 0xd80000000000800000000000000000000000040020000002d81600000000 km) (hk :
    Keeps km kz s) : Keeps km kz (regAnswer f st b s) := by
  refine Keeps.lift hm ?_ hk
  unfold regAnswer
  repeat' first
    | with_reducible exact Keeps.refl _ _
    | with_reducible refine (answer_keeps (hm := by decide)) ?_
    | with_reducible refine (refuse_keeps (hm := by decide)) ?_
    | with_reducible refine keeps_if (fun _ => ?_) (fun _ => ?_)
    | split

theorem recoveryAnswer_keeps {f : Frame} {st : BitVec 5} {b : Bytes} {s : State} (hm : Sub 0x40000000002d80200000000 km) (hk :
    Keeps km kz s) : Keeps km kz (recoveryAnswer f st b s) := by
  refine Keeps.lift hm ?_ hk
  unfold recoveryAnswer
  repeat' first
    | with_reducible exact Keeps.refl _ _
    | with_reducible refine (allocCells_keeps (hm := by decide)) ?_
    | with_reducible refine (allocCells_of_eq (heq := by assumption) (hm := by decide)) ?_
    | with_reducible refine (pushOut_keeps (hm := by decide)) ?_
    | with_reducible refine keeps_if (fun _ => ?_) (fun _ => ?_)
    | with_reducible refine keeps_if_snd (fun _ => ?_) (fun _ => ?_)
    | dsimp only
    | split
    | (simp only [Prod.ext_iff] at *; casesm* _ ∧ _; subst_vars)

theorem recoveryAccess_keeps {f : Frame} {s : State} (hm : Sub 0x3fffffffffffffffffffffbff0c1ffffffffffffffffffffffffffffffffffffffffffffffffe km) (hk :
    Keeps km kz s) : Keeps km kz (recoveryAccess f s) := by
  refine Keeps.lift hm ?_ hk
  unfold recoveryAccess
  repeat' first
    | with_reducible exact Keeps.refl _ _
    | with_reducible refine (recoveryAnswer_keeps (hm := by decide)) ?_
    | with_reducible refine (regPerform_keeps (hm := by decide)) ?_
    | with_reducible refine (regPerform_of_eq (heq := by assumption) (hm := by decide)) ?_
    | with_reducible refine (startImage_keeps (hm := by decide)) ?_
    | with_reducible refine (modLft_keeps ?_) ?_
    | with_reducible refine keeps_if (fun _ => ?_) (fun _ => ?_)
    | with_reducible refine keeps_if_third (fun _ => ?_) (fun _ => ?_)
    | dsimp only
    | split
    | (constructor <;> first | exact .inl (by decide) | exact .inr rfl)
    | (simp only [Prod.ext_iff] at *; casesm* _ ∧ _; subst_vars)

theorem regAccess_keeps {f : Frame} {s0 : State} (hm : Sub 0x3fffffffffffffffffffffbff0c1ffffffffffffffffffffffffffffffffffffffffffffffffe km) (hk :
    Keeps km kz s0) : Keeps km kz (regAccess f s0) := by
  refine Keeps.lift hm ?_ hk
  unfold regAccess
  repeat' first
    | with_reducible exact Keeps.refl _ _
    | with_reducible refine (takeSp_keeps (hm := by decide)) ?_
    | with_reducible refine (recoveryAccess_keeps (hm := by decide)) ?_
    | with_reducible refine (regAnswer_keeps (hm := by decide)) ?_
    | with_reducible refine (regPerform_keeps (hm := by decide)) ?_
    | with_reducible refine (regPerform_of_eq (heq := by assumption) (hm := by decide)) ?_
    | with_reducible refine (tapBytes_keeps (hm := by decide)) ?_
    | with_reducible refine keeps_if (fun _ => ?_) (fun _ => ?_)
    | with_reducible refine keeps_if_third (fun _ => ?_) (fun _ => ?_)
    | dsimp only
    | split
    | (simp only [Prod.ext_iff] at *; casesm* _ ∧ _; subst_vars)

theorem keeps_after_regOk {s d : State} (hk : Keeps km kz s) : Keeps km kz (after (regOk s) d) := hk

theorem regRow_keeps {f : Frame} {p : Nat → Bool} {s : State} (hm : Sub 0x3fffffffffffffffffffffbff0c1ffffffffffffffffffffffffffffffffffffffffffffffffe km) (hk :
    Keeps km kz s) : Keeps km kz (regRow f p s) := by
  refine Keeps.lift hm ?_ hk
  unfold regRow
  repeat' first
    | with_reducible exact Keeps.refl _ _
    | with_reducible refine (regAccess_keeps (hm := by decide)) ?_
    | with_reducible refine keeps_if (fun _ => ?_) (fun _ => ?_)
    | dsimp only
    | split

theorem fwRow_keeps {cmd : Nat} {f : Frame} {s : State} (hm : Sub 0x3fffffffffffffffffffffbff0c1ffffffffffffffffffffffffffffffffffffffffffffffffe km) (hk :
    Keeps km kz s) : Keeps km kz (fwRow cmd f s) := by
  refine Keeps.lift hm ?_ hk
  unfold fwRow
  repeat' first
    | with_reducible exact Keeps.refl _ _
    | with_reducible refine (regRow_keeps (hm := by decide)) ?_
    | with_reducible refine keeps_if (fun _ => ?_) (fun _ => ?_)
    | split

theorem execRegisterWrite_keeps {f : Frame} {s : State} : Keeps 0x3fffffffffffffffffffffbff0c1ffffffffffffffffffffffffffffffffffffffffffffffffe s (after (execRegisterWrite f s) s) := by
  unfold execRegisterWrite
  repeat' first
    | with_reducible exact Keeps.refl _ _
    | with_reducible refine (regRow_keeps (hm := by decide)) ?_
    | dsimp only
    | with_reducible refine keeps_after_regOk ?_

theorem execRegisterReadClear_keeps {f : Frame} {s : State} : Keeps 0x3fffffffffffffffffffffbff0c1ffffffffffffffffffffffffffffffffffffffffffffffffe s (after (execRegisterReadClear f s) s) := by
  unfold execRegisterReadClear
  repeat' first
    | with_reducible exact Keeps.refl _ _
    | with_reducible refine (regAccess_keeps (hm := by decide)) ?_
    | with_reducible refine keeps_if (fun _ => ?_) (fun _ => ?_)
    | with_reducible refine keeps_if_after (fun _ => ?_) (fun _ => ?_)
    | dsimp only
    | split
    | with_reducible refine keeps_after_regOk ?_

theorem execQuotaLimitWrite_keeps {f : Frame} {s : State} : Keeps 0x3fffffffffffffffffffffbff0c1ffffffffffffffffffffffffffffffffffffffffffffffffe s (after (execQuotaLimitWrite f s) s) := by
  unfold execQuotaLimitWrite
  repeat' first
    | with_reducible exact Keeps.refl _ _
    | with_reducible refine (regRow_keeps (hm := by decide)) ?_
    | dsimp only
    | with_reducible refine keeps_after_regOk ?_

theorem execExtSelWrite_keeps {f : Frame} {s : State} : Keeps 0x3fffffffffffffffffffffbff0c1ffffffffffffffffffffffffffffffffffffffffffffffffe s (after (execExtSelWrite f s) s) := by
  unfold execExtSelWrite
  repeat' first
    | with_reducible exact Keeps.refl _ _
    | with_reducible refine (regRow_keeps (hm := by decide)) ?_
    | with_reducible refine keeps_after_regOk ?_

theorem execObjSelWrite_keeps {f : Frame} {s : State} : Keeps 0x3fffffffffffffffffffffbff0c1ffffffffffffffffffffffffffffffffffffffffffffffffe s (after (execObjSelWrite f s) s) := by
  unfold execObjSelWrite
  repeat' first
    | with_reducible exact Keeps.refl _ _
    | with_reducible refine (regRow_keeps (hm := by decide)) ?_
    | with_reducible refine keeps_after_regOk ?_

theorem execDirSelWrite_keeps {f : Frame} {s : State} : Keeps 0x3fffffffffffffffffffffbff0c1ffffffffffffffffffffffffffffffffffffffffffffffffe s (after (execDirSelWrite f s) s) := by
  unfold execDirSelWrite
  repeat' first
    | with_reducible exact Keeps.refl _ _
    | with_reducible refine (regRow_keeps (hm := by decide)) ?_
    | dsimp only
    | with_reducible refine keeps_after_regOk ?_

theorem execCoreSelWrite_keeps {f : Frame} {s : State} : Keeps 0x3fffffffffffffffffffffbff0c1ffffffffffffffffffffffffffffffffffffffffffffffffe s (after (execCoreSelWrite f s) s) := by
  unfold execCoreSelWrite
  repeat' first
    | with_reducible exact Keeps.refl _ _
    | with_reducible refine (regRow_keeps (hm := by decide)) ?_
    | dsimp only
    | with_reducible refine keeps_after_regOk ?_

theorem execSesSelWrite_keeps {f : Frame} {s : State} : Keeps 0x3fffffffffffffffffffffbff0c1ffffffffffffffffffffffffffffffffffffffffffffffffe s (after (execSesSelWrite f s) s) := by
  unfold execSesSelWrite
  repeat' first
    | with_reducible exact Keeps.refl _ _
    | with_reducible refine (regRow_keeps (hm := by decide)) ?_
    | with_reducible refine keeps_after_regOk ?_

theorem execFenceSelWrite_keeps {f : Frame} {s : State} : Keeps 0x3fffffffffffffffffffffbff0c1ffffffffffffffffffffffffffffffffffffffffffffffffe s (after (execFenceSelWrite f s) s) := by
  unfold execFenceSelWrite
  repeat' first
    | with_reducible exact Keeps.refl _ _
    | with_reducible refine (regRow_keeps (hm := by decide)) ?_
    | with_reducible refine keeps_after_regOk ?_

theorem execSwitchSelWrite_keeps {f : Frame} {s : State} : Keeps 0x3fffffffffffffffffffffbff0c1ffffffffffffffffffffffffffffffffffffffffffffffffe s (after (execSwitchSelWrite f s) s) := by
  unfold execSwitchSelWrite
  repeat' first
    | with_reducible exact Keeps.refl _ _
    | with_reducible refine (regRow_keeps (hm := by decide)) ?_
    | with_reducible refine keeps_after_regOk ?_

theorem execCompSelWrite_keeps {f : Frame} {s : State} : Keeps 0x3fffffffffffffffffffffbff0c1ffffffffffffffffffffffffffffffffffffffffffffffffe s (after (execCompSelWrite f s) s) := by
  unfold execCompSelWrite
  repeat' first
    | with_reducible exact Keeps.refl _ _
    | with_reducible refine (regRow_keeps (hm := by decide)) ?_
    | with_reducible refine keeps_after_regOk ?_

theorem execPodRetireWrite_keeps {f : Frame} {s : State} : Keeps 0x3fffffffffffffffffffffbff0c1ffffffffffffffffffffffffffffffffffffffffffffffffe s (after (execPodRetireWrite f s) s) := by
  unfold execPodRetireWrite
  repeat' first
    | with_reducible exact Keeps.refl _ _
    | with_reducible refine (regRow_keeps (hm := by decide)) ?_
    | dsimp only
    | with_reducible refine keeps_after_regOk ?_

theorem execSampleCfgWrite_keeps {f : Frame} {s : State} : Keeps 0x3fffffffffffffffffffffbff0c1ffffffffffffffffffffffffffffffffffffffffffffffffe s (after (execSampleCfgWrite f s) s) := by
  unfold execSampleCfgWrite
  repeat' first
    | with_reducible exact Keeps.refl _ _
    | with_reducible refine (regRow_keeps (hm := by decide)) ?_
    | dsimp only
    | with_reducible refine keeps_after_regOk ?_

theorem execCcFlush_keeps {f : Frame} {s : State} : Keeps 0x3fffffffffffffffffffffbff0c1ffffffffffffffffffffffffffffffffffffffffffffffffe s (after (execCcFlush f s) s) := by
  unfold execCcFlush
  repeat' first
    | with_reducible exact Keeps.refl _ _
    | with_reducible refine (regRow_keeps (hm := by decide)) ?_
    | dsimp only
    | with_reducible refine keeps_after_regOk ?_

theorem execCcFlushDone_keeps {d : Die} {s : State} : Keeps 0x80000000000000000000000000000 s (after (execCcFlushDone d s) s) := by
  unfold execCcFlushDone
  repeat' first
    | with_reducible exact Keeps.refl _ _
    | with_reducible refine (modTier_keeps ?_) ?_
    | with_reducible refine keeps_elim ?_ (fun _ => ?_)
    | dsimp only
    | with_reducible refine keeps_after_regOk ?_
    | (constructor <;> first | exact .inl (by decide) | exact .inr rfl)

theorem execXferGo_keeps {f : Frame} {s : State} : Keeps 0x3fffffffffffffffffffffbff0c1ffffffffffffffffffffffffffffffffffffffffffffffffe s (after (execXferGo f s) s) := by
  unfold execXferGo
  repeat' first
    | with_reducible exact Keeps.refl _ _
    | with_reducible refine (regRow_keeps (hm := by decide)) ?_
    | with_reducible refine keeps_after_regOk ?_

theorem execMeterDetachWrite_keeps {f : Frame} {s : State} : Keeps 0x3fffffffffffffffffffffbff0c1ffffffffffffffffffffffffffffffffffffffffffffffffe s (after (execMeterDetachWrite f s) s) := by
  unfold execMeterDetachWrite
  repeat' first
    | with_reducible exact Keeps.refl _ _
    | with_reducible refine (regRow_keeps (hm := by decide)) ?_
    | with_reducible refine keeps_after_regOk ?_

theorem execFwBegin_keeps {f : Frame} {s : State} : Keeps 0x3fffffffffffffffffffffbff0c1ffffffffffffffffffffffffffffffffffffffffffffffffe s (after (execFwBegin f s) s) := by
  unfold execFwBegin
  repeat' first
    | with_reducible exact Keeps.refl _ _
    | with_reducible refine (fwRow_keeps (hm := by decide)) ?_
    | with_reducible refine keeps_after_regOk ?_

theorem execFwEnd_keeps {f : Frame} {s : State} : Keeps 0x3fffffffffffffffffffffbff0c1ffffffffffffffffffffffffffffffffffffffffffffffffe s (after (execFwEnd f s) s) := by
  unfold execFwEnd
  repeat' first
    | with_reducible exact Keeps.refl _ _
    | with_reducible refine (fwRow_keeps (hm := by decide)) ?_
    | with_reducible refine keeps_after_regOk ?_

theorem execFwAbort_keeps {f : Frame} {s : State} : Keeps 0x3fffffffffffffffffffffbff0c1ffffffffffffffffffffffffffffffffffffffffffffffffe s (after (execFwAbort f s) s) := by
  unfold execFwAbort
  repeat' first
    | with_reducible exact Keeps.refl _ _
    | with_reducible refine (fwRow_keeps (hm := by decide)) ?_
    | with_reducible refine keeps_after_regOk ?_

theorem execFwCommit_keeps {f : Frame} {s : State} : Keeps 0x3fffffffffffffffffffffbff0c1ffffffffffffffffffffffffffffffffffffffffffffffffe s (after (execFwCommit f s) s) := by
  unfold execFwCommit
  repeat' first
    | with_reducible exact Keeps.refl _ _
    | with_reducible refine (fwRow_keeps (hm := by decide)) ?_
    | with_reducible refine keeps_after_regOk ?_

theorem execFwApertureWrite_keeps {f : Frame} {s : State} : Keeps 0x3fffffffffffffffffffffbff0c1ffffffffffffffffffffffffffffffffffffffffffffffffe s (after (execFwApertureWrite f s) s) := by
  unfold execFwApertureWrite
  repeat' first
    | with_reducible exact Keeps.refl _ _
    | with_reducible refine (regRow_keeps (hm := by decide)) ?_
    | with_reducible refine keeps_after_regOk ?_

theorem execLaneSpareWrite_keeps {f : Frame} {s : State} : Keeps 0x3fffffffffffffffffffffbff0c1ffffffffffffffffffffffffffffffffffffffffffffffffe s (after (execLaneSpareWrite f s) s) := by
  unfold execLaneSpareWrite
  repeat' first
    | with_reducible exact Keeps.refl _ _
    | with_reducible refine (regRow_keeps (hm := by decide)) ?_
    | dsimp only
    | with_reducible refine keeps_after_regOk ?_

theorem execPcSpareWrite_keeps {f : Frame} {s : State} : Keeps 0x3fffffffffffffffffffffbff0c1ffffffffffffffffffffffffffffffffffffffffffffffffe s (after (execPcSpareWrite f s) s) := by
  unfold execPcSpareWrite
  repeat' first
    | with_reducible exact Keeps.refl _ _
    | with_reducible refine (regRow_keeps (hm := by decide)) ?_
    | with_reducible refine keeps_after_regOk ?_

end Machine
end Sys2Proof
end

