-- ==== Sys2Proof/Laws/FrameMemCmds.lean ====
section
/-! SUPPORT. Frames of the functions of Machine/MemCmds.lean: the parts of the state that each may change, as a mask (Laws/Keeps.lean). -/

namespace Sys2Proof
namespace Machine
set_option linter.unusedTactic false
set_option linter.unreachableTactic false
set_option linter.tactic.unusedName false
variable {km : Nat} {kz : State}

theorem loadStore_keeps {d : Die} {f : Frame} {ecc : List Nat} {s : State} (hm : Sub 0x3fffffffffffffffffffffbff0c1ffffffffffffffffffffffffffffffffffffffffffffffffe km) (hk :
    Keeps km kz s) : Keeps km kz (loadStore d f ecc s) := by
  refine Keeps.lift hm ?_ hk
  unfold loadStore
  repeat' first
    | with_reducible exact Keeps.refl _ _
    | with_reducible refine (regAccess_keeps (hm := by decide)) ?_
    | with_reducible refine (acceptMem_keeps (hm := by decide)) ?_
    | with_reducible refine keeps_if (fun _ => ?_) (fun _ => ?_)
    | split

theorem execLd_keeps {d : Die} {r : DramRead} {s : State} : Keeps 0x3fffffffffffffffffffffbff0c1ffffffffffffffffffffffffffffffffffffffffffffffffe s (after (execLd d r s) s) := by
  unfold execLd
  show Keeps _ s (if r.frame.opcode = Opc.ld then loadStore d r.frame r.ecc s else s)
  exact keeps_if (fun _ => (loadStore_keeps (by decide)) (Keeps.refl _ _)) (fun _ => Keeps.refl _ _)

theorem execSt_keeps {d : Die} {f : Frame} {s : State} : Keeps 0x3fffffffffffffffffffffbff0c1ffffffffffffffffffffffffffffffffffffffffffffffffe s (after (execSt d f s) s) := by
  unfold execSt
  show Keeps _ s (if f.opcode = Opc.st then loadStore d f [] s else s)
  exact keeps_if (fun _ => (loadStore_keeps (by decide)) (Keeps.refl _ _)) (fun _ => Keeps.refl _ _)

end Machine
end Sys2Proof
end

