-- ==== Sys2Proof/Laws/FramePod.lean ====
section
/-! SUPPORT. Frames of the functions of Machine/Pod.lean: the parts of the state that each may change, as a mask (Laws/Keeps.lean). -/

namespace Sys2Proof
namespace Machine
set_option linter.unusedTactic false
set_option linter.unreachableTactic false
set_option linter.tactic.unusedName false
variable {km : Nat} {kz : State}

theorem keeps_after_ok {s d : State} (hk : Keeps km kz s) : Keeps km kz (after (ok s) d) := hk

theorem ctlIns_keeps {d : Die} {p : Nat} {okW : Bool} {g : Thread → Thread × Fate} {s : State} (hm : Sub 0x100000000000000000000000000000000000000000 km) (hk :
    Keeps km kz s) : Keeps km kz (ctlIns d p okW g s) := by
  refine Keeps.lift hm ?_ hk
  unfold ctlIns
  repeat' first
    | with_reducible exact Keeps.refl _ _
    | with_reducible refine (issue_keeps (hm := by decide) (h_g := fun _ _ _ => ?_)) ?_
    | with_reducible refine (pure1_keeps (hm := by decide)) ?_
    | dsimp only

theorem execPodNop_keeps {d : Die} {core : Nat} {w : PodF} {s : State} : Keeps 0x100000000000000000000000000000000000000000 s (after (execPodNop d core w s) s) := by
  unfold execPodNop
  repeat' first
    | with_reducible exact Keeps.refl _ _
    | with_reducible refine (ctlIns_keeps (hm := by decide)) ?_
    | dsimp only
    | with_reducible refine keeps_after_ok ?_

theorem execPodEnd_keeps {d : Die} {core : Nat} {w : PodF} {s : State} : Keeps 0x100000000000000000000000000000000000000000 s (after (execPodEnd d core w s) s) := by
  unfold execPodEnd
  repeat' first
    | with_reducible exact Keeps.refl _ _
    | with_reducible refine (ctlIns_keeps (hm := by decide)) ?_
    | dsimp only
    | with_reducible refine keeps_after_ok ?_

theorem execPodJmp_keeps {d : Die} {core : Nat} {w : PodF} {s : State} : Keeps 0x100000000000000000000000000000000000000000 s (after (execPodJmp d core w s) s) := by
  unfold execPodJmp
  repeat' first
    | with_reducible exact Keeps.refl _ _
    | with_reducible refine (ctlIns_keeps (hm := by decide)) ?_
    | dsimp only
    | with_reducible refine keeps_after_ok ?_

theorem branchIns_keeps {d : Die} {p : Nat} {w : PodF} {test : Word → Word → Bool} {s : State} (hm : Sub 0x100000000000000000000000000000000000000000 km) (hk :
    Keeps km kz s) : Keeps km kz (branchIns d p w test s) := by
  refine Keeps.lift hm ?_ hk
  unfold branchIns
  repeat' first
    | with_reducible exact Keeps.refl _ _
    | with_reducible refine (ctlIns_keeps (hm := by decide)) ?_
    | with_reducible refine keeps_if (fun _ => ?_) (fun _ => ?_)
    | dsimp only
    | split

theorem execPodBeq_keeps {d : Die} {core : Nat} {w : PodF} {s : State} : Keeps 0x100000000000000000000000000000000000000000 s (after (execPodBeq d core w s) s) := by
  unfold execPodBeq
  repeat' first
    | with_reducible exact Keeps.refl _ _
    | with_reducible refine (branchIns_keeps (hm := by decide)) ?_
    | dsimp only
    | with_reducible refine keeps_after_ok ?_

theorem execPodBne_keeps {d : Die} {core : Nat} {w : PodF} {s : State} : Keeps 0x100000000000000000000000000000000000000000 s (after (execPodBne d core w s) s) := by
  unfold execPodBne
  repeat' first
    | with_reducible exact Keeps.refl _ _
    | with_reducible refine (branchIns_keeps (hm := by decide)) ?_
    | dsimp only
    | with_reducible refine keeps_after_ok ?_

theorem execPodBlt_keeps {d : Die} {core : Nat} {w : PodF} {s : State} : Keeps 0x100000000000000000000000000000000000000000 s (after (execPodBlt d core w s) s) := by
  unfold execPodBlt
  repeat' first
    | with_reducible exact Keeps.refl _ _
    | with_reducible refine (branchIns_keeps (hm := by decide)) ?_
    | dsimp only
    | with_reducible refine keeps_after_ok ?_

theorem execPodBltu_keeps {d : Die} {core : Nat} {w : PodF} {s : State} : Keeps 0x100000000000000000000000000000000000000000 s (after (execPodBltu d core w s) s) := by
  unfold execPodBltu
  repeat' first
    | with_reducible exact Keeps.refl _ _
    | with_reducible refine (branchIns_keeps (hm := by decide)) ?_
    | dsimp only
    | with_reducible refine keeps_after_ok ?_

theorem execPodBar_keeps {d : Die} {core : Nat} {w : PodF} {s : State} : Keeps 0x100000000000000000000000000000000000000000 s (after (execPodBar d core w s) s) := by
  unfold execPodBar
  repeat' first
    | with_reducible exact Keeps.refl _ _
    | with_reducible refine (ctlIns_keeps (hm := by decide)) ?_
    | dsimp only
    | with_reducible refine keeps_after_ok ?_

theorem execPodFault_keeps {d : Die} {core : Nat} {w : PodF} {s : State} : Keeps 0x100000000000000000000000000000000000000000 s (after (execPodFault d core w s) s) := by
  unfold execPodFault
  repeat' first
    | with_reducible exact Keeps.refl _ _
    | with_reducible refine (ctlIns_keeps (hm := by decide)) ?_
    | dsimp only
    | with_reducible refine keeps_after_ok ?_

theorem execPodRdflg_keeps {d : Die} {core : Nat} {w : PodF} {s : State} : Keeps 0x100000000000000000000000000000000000000000 s (after (execPodRdflg d core w s) s) := by
  unfold execPodRdflg
  repeat' first
    | with_reducible exact Keeps.refl _ _
    | with_reducible refine (ctlIns_keeps (hm := by decide)) ?_
    | dsimp only
    | with_reducible refine keeps_after_ok ?_

theorem execPodRdpace_keeps {d : Die} {core : Nat} {w : PodF} {s : State} : Keeps 0x100000000000000000000000000000000000000000 s (after (execPodRdpace d core w s) s) := by
  unfold execPodRdpace
  repeat' first
    | with_reducible exact Keeps.refl _ _
    | with_reducible refine (ctlIns_keeps (hm := by decide)) ?_
    | dsimp only
    | with_reducible refine keeps_after_ok ?_

theorem execPodRdtime_keeps {d : Die} {core : Nat} {w : PodF} {s : State} : Keeps 0x100000000000000000000000000000000000000000 s (after (execPodRdtime d core w s) s) := by
  unfold execPodRdtime
  repeat' first
    | with_reducible exact Keeps.refl _ _
    | with_reducible refine (ctlIns_keeps (hm := by decide)) ?_
    | dsimp only
    | with_reducible refine keeps_after_ok ?_

theorem execPodInfo_keeps {d : Die} {core : Nat} {w : PodF} {s : State} : Keeps 0x100000000000000000000000000000000000000000 s (after (execPodInfo d core w s) s) := by
  unfold execPodInfo
  repeat' first
    | with_reducible exact Keeps.refl _ _
    | with_reducible refine (issue_keeps (hm := by decide) (h_g := fun _ _ _ => ?_)) ?_
    | dsimp only
    | with_reducible refine keeps_after_ok ?_

theorem alu_keeps {d : Die} {p : Nat} {w : PodF} {op : Word → Word → Word} {s : State} (hm : Sub 0x100000000000000000000000000000000000000000 km) (hk :
    Keeps km kz s) : Keeps km kz (alu d p w op s) := by
  refine Keeps.lift hm ?_ hk
  unfold alu
  repeat' first
    | with_reducible exact Keeps.refl _ _
    | with_reducible refine (ctlIns_keeps (hm := by decide)) ?_
    | dsimp only

theorem execPodAdd_keeps {d : Die} {core : Nat} {w : PodF} {s : State} : Keeps 0x100000000000000000000000000000000000000000 s (after (execPodAdd d core w s) s) := by
  unfold execPodAdd
  repeat' first
    | with_reducible exact Keeps.refl _ _
    | with_reducible refine (alu_keeps (hm := by decide)) ?_
    | with_reducible refine keeps_after_ok ?_

theorem execPodSub_keeps {d : Die} {core : Nat} {w : PodF} {s : State} : Keeps 0x100000000000000000000000000000000000000000 s (after (execPodSub d core w s) s) := by
  unfold execPodSub
  repeat' first
    | with_reducible exact Keeps.refl _ _
    | with_reducible refine (alu_keeps (hm := by decide)) ?_
    | with_reducible refine keeps_after_ok ?_

theorem execPodMul_keeps {d : Die} {core : Nat} {w : PodF} {s : State} : Keeps 0x100000000000000000000000000000000000000000 s (after (execPodMul d core w s) s) := by
  unfold execPodMul
  repeat' first
    | with_reducible exact Keeps.refl _ _
    | with_reducible refine (alu_keeps (hm := by decide)) ?_
    | with_reducible refine keeps_after_ok ?_

theorem execPodAnd_keeps {d : Die} {core : Nat} {w : PodF} {s : State} : Keeps 0x100000000000000000000000000000000000000000 s (after (execPodAnd d core w s) s) := by
  unfold execPodAnd
  repeat' first
    | with_reducible exact Keeps.refl _ _
    | with_reducible refine (alu_keeps (hm := by decide)) ?_
    | with_reducible refine keeps_after_ok ?_

theorem execPodOr_keeps {d : Die} {core : Nat} {w : PodF} {s : State} : Keeps 0x100000000000000000000000000000000000000000 s (after (execPodOr d core w s) s) := by
  unfold execPodOr
  repeat' first
    | with_reducible exact Keeps.refl _ _
    | with_reducible refine (alu_keeps (hm := by decide)) ?_
    | with_reducible refine keeps_after_ok ?_

theorem execPodXor_keeps {d : Die} {core : Nat} {w : PodF} {s : State} : Keeps 0x100000000000000000000000000000000000000000 s (after (execPodXor d core w s) s) := by
  unfold execPodXor
  repeat' first
    | with_reducible exact Keeps.refl _ _
    | with_reducible refine (alu_keeps (hm := by decide)) ?_
    | with_reducible refine keeps_after_ok ?_

theorem execPodShl_keeps {d : Die} {core : Nat} {w : PodF} {s : State} : Keeps 0x100000000000000000000000000000000000000000 s (after (execPodShl d core w s) s) := by
  unfold execPodShl
  repeat' first
    | with_reducible exact Keeps.refl _ _
    | with_reducible refine (alu_keeps (hm := by decide)) ?_
    | dsimp only
    | with_reducible refine keeps_after_ok ?_

theorem execPodShr_keeps {d : Die} {core : Nat} {w : PodF} {s : State} : Keeps 0x100000000000000000000000000000000000000000 s (after (execPodShr d core w s) s) := by
  unfold execPodShr
  repeat' first
    | with_reducible exact Keeps.refl _ _
    | with_reducible refine (alu_keeps (hm := by decide)) ?_
    | dsimp only
    | with_reducible refine keeps_after_ok ?_

theorem execPodSra_keeps {d : Die} {core : Nat} {w : PodF} {s : State} : Keeps 0x100000000000000000000000000000000000000000 s (after (execPodSra d core w s) s) := by
  unfold execPodSra
  repeat' first
    | with_reducible exact Keeps.refl _ _
    | with_reducible refine (alu_keeps (hm := by decide)) ?_
    | dsimp only
    | with_reducible refine keeps_after_ok ?_

theorem execPodMin_keeps {d : Die} {core : Nat} {w : PodF} {s : State} : Keeps 0x100000000000000000000000000000000000000000 s (after (execPodMin d core w s) s) := by
  unfold execPodMin
  repeat' first
    | with_reducible exact Keeps.refl _ _
    | with_reducible refine (alu_keeps (hm := by decide)) ?_
    | with_reducible refine keeps_if (fun _ => ?_) (fun _ => ?_)
    | with_reducible refine keeps_if_after (fun _ => ?_) (fun _ => ?_)
    | dsimp only
    | split
    | with_reducible refine keeps_after_ok ?_

theorem execPodMax_keeps {d : Die} {core : Nat} {w : PodF} {s : State} : Keeps 0x100000000000000000000000000000000000000000 s (after (execPodMax d core w s) s) := by
  unfold execPodMax
  repeat' first
    | with_reducible exact Keeps.refl _ _
    | with_reducible refine (alu_keeps (hm := by decide)) ?_
    | with_reducible refine keeps_if (fun _ => ?_) (fun _ => ?_)
    | with_reducible refine keeps_if_after (fun _ => ?_) (fun _ => ?_)
    | dsimp only
    | split
    | with_reducible refine keeps_after_ok ?_

theorem execPodSlt_keeps {d : Die} {core : Nat} {w : PodF} {s : State} : Keeps 0x100000000000000000000000000000000000000000 s (after (execPodSlt d core w s) s) := by
  unfold execPodSlt
  repeat' first
    | with_reducible exact Keeps.refl _ _
    | with_reducible refine (alu_keeps (hm := by decide)) ?_
    | with_reducible refine keeps_if (fun _ => ?_) (fun _ => ?_)
    | with_reducible refine keeps_if_after (fun _ => ?_) (fun _ => ?_)
    | dsimp only
    | split
    | with_reducible refine keeps_after_ok ?_

theorem execPodSltu_keeps {d : Die} {core : Nat} {w : PodF} {s : State} : Keeps 0x100000000000000000000000000000000000000000 s (after (execPodSltu d core w s) s) := by
  unfold execPodSltu
  repeat' first
    | with_reducible exact Keeps.refl _ _
    | with_reducible refine (alu_keeps (hm := by decide)) ?_
    | with_reducible refine keeps_if (fun _ => ?_) (fun _ => ?_)
    | with_reducible refine keeps_if_after (fun _ => ?_) (fun _ => ?_)
    | dsimp only
    | split
    | with_reducible refine keeps_after_ok ?_

theorem execPodAddi_keeps {d : Die} {core : Nat} {w : PodF} {s : State} : Keeps 0x100000000000000000000000000000000000000000 s (after (execPodAddi d core w s) s) := by
  unfold execPodAddi
  repeat' first
    | with_reducible exact Keeps.refl _ _
    | with_reducible refine (ctlIns_keeps (hm := by decide)) ?_
    | dsimp only
    | with_reducible refine keeps_after_ok ?_

theorem immIns_keeps {d : Die} {p : Nat} {w : PodF} {okW : Bool} {g : Word → Word} {s : State} (hm : Sub 0x100000000000000000000000000000000000000000 km) (hk :
    Keeps km kz s) : Keeps km kz (immIns d p w okW g s) := by
  refine Keeps.lift hm ?_ hk
  unfold immIns
  repeat' first
    | with_reducible exact Keeps.refl _ _
    | with_reducible refine (ctlIns_keeps (hm := by decide)) ?_
    | dsimp only

theorem execPodLi_keeps {d : Die} {core : Nat} {w : PodF} {s : State} : Keeps 0x100000000000000000000000000000000000000000 s (after (execPodLi d core w s) s) := by
  unfold execPodLi
  repeat' first
    | with_reducible exact Keeps.refl _ _
    | with_reducible refine (immIns_keeps (hm := by decide)) ?_
    | dsimp only
    | with_reducible refine keeps_after_ok ?_

theorem execPodLim_keeps {d : Die} {core : Nat} {w : PodF} {s : State} : Keeps 0x100000000000000000000000000000000000000000 s (after (execPodLim d core w s) s) := by
  unfold execPodLim
  repeat' first
    | with_reducible exact Keeps.refl _ _
    | with_reducible refine (immIns_keeps (hm := by decide)) ?_
    | dsimp only
    | with_reducible refine keeps_after_ok ?_

theorem execPodLit_keeps {d : Die} {core : Nat} {w : PodF} {s : State} : Keeps 0x100000000000000000000000000000000000000000 s (after (execPodLit d core w s) s) := by
  unfold execPodLit
  repeat' first
    | with_reducible exact Keeps.refl _ _
    | with_reducible refine (immIns_keeps (hm := by decide)) ?_
    | dsimp only
    | with_reducible refine keeps_after_ok ?_

theorem execPodSld_keeps {d : Die} {core : Nat} {w : PodF} {s : State} : Keeps 0x100000000000000000000000000000000000000000 s (after (execPodSld d core w s) s) := by
  unfold execPodSld
  repeat' first
    | with_reducible exact Keeps.refl _ _
    | with_reducible refine (issue_keeps (hm := by decide) (h_g := fun _ _ _ => ?_)) ?_
    | with_reducible refine keeps_if (fun _ => ?_) (fun _ => ?_)
    | with_reducible refine keeps_if_after (fun _ => ?_) (fun _ => ?_)
    | dsimp only
    | split
    | with_reducible refine keeps_after_ok ?_

theorem execPodSst_keeps {d : Die} {core : Nat} {w : PodF} {s : State} : Keeps 0x100000000000000000000000000000000000000000 s (after (execPodSst d core w s) s) := by
  unfold execPodSst
  repeat' first
    | with_reducible exact Keeps.refl _ _
    | with_reducible refine (issue_keeps (hm := by decide) (h_g := fun _ _ _ => ?_)) ?_
    | with_reducible refine keeps_if (fun _ => ?_) (fun _ => ?_)
    | with_reducible refine keeps_if_after (fun _ => ?_) (fun _ => ?_)
    | dsimp only
    | split
    | with_reducible refine keeps_after_ok ?_

theorem fillLanes_keeps {l : List (Option (BitVec 32))} {s : State} (hm : Sub 0x20000000000000000000000000000000000000000000000000000000000000000000000000000 km) (hk :
    Keeps km kz s) : Keeps km kz (fillLanes l s).2 := by
  refine Keeps.lift hm ?_ hk
  clear hk
  induction l generalizing s with
  | nil => exact Keeps.refl _ _
  | cons v r ih =>
    cases v with
    | some x =>
      unfold fillLanes
      exact ih
    | none =>
      unfold fillLanes
      have key : ∀ q : Nat, Keeps 0x20000000000000000000000000000000000000000000000000000000000000000000000000000 s { s with freeCtr := q } := fun q => (set_freeCtr_keeps (by decide)) (Keeps.refl _ _)
      exact Keeps.trans (key _) ih

theorem fillLanes_of_eq {l : List (Option (BitVec 32))} {s : State}{v0} {v1 : State} (heq : fillLanes l s = (v0, v1)) (hm : Sub 0x20000000000000000000000000000000000000000000000000000000000000000000000000000 km) (hk :
    Keeps km kz s) : Keeps km kz v1 := by
  have h := fillLanes_keeps (kz := kz) (s := s) hm hk (l := l)
  rw [heq] at h
  exact h

theorem execPodVld_keeps {d : Die} {core : Nat} {w : PodF} {s : State} : Keeps 0x20000000000000000000000000000000000100000000000000000000000000000000000000000 s (after (execPodVld d core w s) s) := by
  unfold execPodVld
  repeat' first
    | with_reducible exact Keeps.refl _ _
    | with_reducible refine (issue_keeps (hm := by decide) (h_g := fun _ _ _ => ?_)) ?_
    | with_reducible refine (fillLanes_keeps (hm := by decide)) ?_
    | with_reducible refine (fillLanes_of_eq (heq := by assumption) (hm := by decide)) ?_
    | with_reducible refine keeps_if (fun _ => ?_) (fun _ => ?_)
    | with_reducible refine keeps_if_after (fun _ => ?_) (fun _ => ?_)
    | with_reducible refine keeps_if_snd (fun _ => ?_) (fun _ => ?_)
    | dsimp only
    | split
    | with_reducible refine keeps_after_ok ?_
    | (simp only [Prod.ext_iff] at *; casesm* _ ∧ _; subst_vars)

theorem execPodVst_keeps {d : Die} {core : Nat} {w : PodF} {s : State} : Keeps 0x100000000000000000000000000000000000000000 s (after (execPodVst d core w s) s) := by
  unfold execPodVst
  repeat' first
    | with_reducible exact Keeps.refl _ _
    | with_reducible refine (issue_keeps (hm := by decide) (h_g := fun _ _ _ => ?_)) ?_
    | with_reducible refine keeps_if (fun _ => ?_) (fun _ => ?_)
    | with_reducible refine keeps_if_after (fun _ => ?_) (fun _ => ?_)
    | dsimp only
    | split
    | with_reducible refine keeps_after_ok ?_
    | (simp only [Prod.ext_iff] at *; casesm* _ ∧ _; subst_vars)

theorem execPodVldb_keeps {d : Die} {core : Nat} {w : PodF} {s : State} : Keeps 0x100000000000000000000000000000000000000000 s (after (execPodVldb d core w s) s) := by
  unfold execPodVldb
  repeat' first
    | with_reducible exact Keeps.refl _ _
    | with_reducible refine (issue_keeps (hm := by decide) (h_g := fun _ _ _ => ?_)) ?_
    | with_reducible refine keeps_if (fun _ => ?_) (fun _ => ?_)
    | with_reducible refine keeps_if_after (fun _ => ?_) (fun _ => ?_)
    | dsimp only
    | split
    | with_reducible refine keeps_after_ok ?_

theorem vecDone_keeps {c : Core} {t : Thread} {dst : Nat} {l : List (BitVec 32 × Nat)} {s : State} (hm : Sub 0x0 km) (hk :
    Keeps km kz s) : Keeps km kz (vecDone c t dst l s).s := by
  refine Keeps.lift hm ?_ hk
  unfold vecDone
  repeat' first
    | with_reducible exact Keeps.refl _ _
    | with_reducible refine (keeps_foldl_snd (fun _ _ => ?_)) ?_
    | with_reducible refine (keeps_foldl_fst (fun _ _ => ?_)) ?_
    | with_reducible refine (keeps_foldl_third (fun _ _ => ?_)) ?_
    | with_reducible refine (keeps_foldl_mid (fun _ _ => ?_)) ?_
    | with_reducible refine (keeps_foldl (fun _ _ => ?_)) ?_
    | dsimp only
    | (simp only [Prod.ext_iff] at *; casesm* _ ∧ _; subst_vars)

theorem vec2_keeps {d : Die} {p : Nat} {w : PodF} {rndUsed : Bool} {op : BitVec 32 → BitVec 32 → BitVec 32 × Nat} {s : State} (hm : Sub 0x100000000000000000000000000000000000000000 km) (hk :
    Keeps km kz s) : Keeps km kz (vec2 d p w rndUsed op s) := by
  refine Keeps.lift hm ?_ hk
  unfold vec2
  repeat' first
    | with_reducible exact Keeps.refl _ _
    | with_reducible refine (issue_keeps (hm := by decide) (h_g := fun _ _ _ => ?_)) ?_
    | with_reducible refine (vecDone_keeps (hm := by decide)) ?_
    | dsimp only

theorem execPodVadd_keeps {d : Die} {core : Nat} {w : PodF} {s : State} : Keeps 0x100000000000000000000000000000000000000000 s (after (execPodVadd d core w s) s) := by
  unfold execPodVadd
  repeat' first
    | with_reducible exact Keeps.refl _ _
    | with_reducible refine (vec2_keeps (hm := by decide)) ?_
    | with_reducible refine keeps_after_ok ?_

theorem execPodVsub_keeps {d : Die} {core : Nat} {w : PodF} {s : State} : Keeps 0x100000000000000000000000000000000000000000 s (after (execPodVsub d core w s) s) := by
  unfold execPodVsub
  repeat' first
    | with_reducible exact Keeps.refl _ _
    | with_reducible refine (vec2_keeps (hm := by decide)) ?_
    | with_reducible refine keeps_after_ok ?_

theorem execPodVmul_keeps {d : Die} {core : Nat} {w : PodF} {s : State} : Keeps 0x100000000000000000000000000000000000000000 s (after (execPodVmul d core w s) s) := by
  unfold execPodVmul
  repeat' first
    | with_reducible exact Keeps.refl _ _
    | with_reducible refine (vec2_keeps (hm := by decide)) ?_
    | with_reducible refine keeps_after_ok ?_

theorem execPodVmin_keeps {d : Die} {core : Nat} {w : PodF} {s : State} : Keeps 0x100000000000000000000000000000000000000000 s (after (execPodVmin d core w s) s) := by
  unfold execPodVmin
  repeat' first
    | with_reducible exact Keeps.refl _ _
    | with_reducible refine (vec2_keeps (hm := by decide)) ?_
    | with_reducible refine keeps_if (fun _ => ?_) (fun _ => ?_)
    | with_reducible refine keeps_if_after (fun _ => ?_) (fun _ => ?_)
    | dsimp only
    | split
    | with_reducible refine keeps_after_ok ?_

theorem execPodVmax_keeps {d : Die} {core : Nat} {w : PodF} {s : State} : Keeps 0x100000000000000000000000000000000000000000 s (after (execPodVmax d core w s) s) := by
  unfold execPodVmax
  repeat' first
    | with_reducible exact Keeps.refl _ _
    | with_reducible refine (vec2_keeps (hm := by decide)) ?_
    | with_reducible refine keeps_if (fun _ => ?_) (fun _ => ?_)
    | with_reducible refine keeps_if_after (fun _ => ?_) (fun _ => ?_)
    | dsimp only
    | split
    | with_reducible refine keeps_after_ok ?_

theorem execPodVfma_keeps {d : Die} {core : Nat} {w : PodF} {s : State} : Keeps 0x100000000000000000000000000000000000000000 s (after (execPodVfma d core w s) s) := by
  unfold execPodVfma
  repeat' first
    | with_reducible exact Keeps.refl _ _
    | with_reducible refine (issue_keeps (hm := by decide) (h_g := fun _ _ _ => ?_)) ?_
    | with_reducible refine (vecDone_keeps (hm := by decide)) ?_
    | dsimp only
    | with_reducible refine keeps_after_ok ?_

theorem vec1_keeps {d : Die} {p : Nat} {w : PodF} {op : Nat → BitVec 32 → BitVec 32 × Nat} {s : State} (hm : Sub 0x100000000000000000000000000000000000000000 km) (hk :
    Keeps km kz s) : Keeps km kz (vec1 d p w op s) := by
  refine Keeps.lift hm ?_ hk
  unfold vec1
  repeat' first
    | with_reducible exact Keeps.refl _ _
    | with_reducible refine (issue_keeps (hm := by decide) (h_g := fun _ _ _ => ?_)) ?_
    | with_reducible refine (vecDone_keeps (hm := by decide)) ?_
    | dsimp only

theorem execPodVexp2_keeps {d : Die} {core : Nat} {w : PodF} {s : State} : Keeps 0x100000000000000000000000000000000000000000 s (after (execPodVexp2 d core w s) s) := by
  unfold execPodVexp2
  repeat' first
    | with_reducible exact Keeps.refl _ _
    | with_reducible refine (vec1_keeps (hm := by decide)) ?_
    | with_reducible refine keeps_after_ok ?_

theorem execPodVlog2_keeps {d : Die} {core : Nat} {w : PodF} {s : State} : Keeps 0x100000000000000000000000000000000000000000 s (after (execPodVlog2 d core w s) s) := by
  unfold execPodVlog2
  repeat' first
    | with_reducible exact Keeps.refl _ _
    | with_reducible refine (vec1_keeps (hm := by decide)) ?_
    | with_reducible refine keeps_after_ok ?_

theorem execPodVrcp_keeps {d : Die} {core : Nat} {w : PodF} {s : State} : Keeps 0x100000000000000000000000000000000000000000 s (after (execPodVrcp d core w s) s) := by
  unfold execPodVrcp
  repeat' first
    | with_reducible exact Keeps.refl _ _
    | with_reducible refine (vec1_keeps (hm := by decide)) ?_
    | with_reducible refine keeps_after_ok ?_

theorem execPodVrsq_keeps {d : Die} {core : Nat} {w : PodF} {s : State} : Keeps 0x100000000000000000000000000000000000000000 s (after (execPodVrsq d core w s) s) := by
  unfold execPodVrsq
  repeat' first
    | with_reducible exact Keeps.refl _ _
    | with_reducible refine (vec1_keeps (hm := by decide)) ?_
    | with_reducible refine keeps_after_ok ?_

theorem execPodVcmplt_keeps {d : Die} {core : Nat} {w : PodF} {s : State} : Keeps 0x100000000000000000000000000000000000000000 s (after (execPodVcmplt d core w s) s) := by
  unfold execPodVcmplt
  repeat' first
    | with_reducible exact Keeps.refl _ _
    | with_reducible refine (vec2_keeps (hm := by decide)) ?_
    | with_reducible refine keeps_if (fun _ => ?_) (fun _ => ?_)
    | with_reducible refine keeps_if_after (fun _ => ?_) (fun _ => ?_)
    | dsimp only
    | split
    | with_reducible refine keeps_after_ok ?_

theorem execPodVsel_keeps {d : Die} {core : Nat} {w : PodF} {s : State} : Keeps 0x100000000000000000000000000000000000000000 s (after (execPodVsel d core w s) s) := by
  unfold execPodVsel
  repeat' first
    | with_reducible exact Keeps.refl _ _
    | with_reducible refine (issue_keeps (hm := by decide) (h_g := fun _ _ _ => ?_)) ?_
    | with_reducible refine (vecDone_keeps (hm := by decide)) ?_
    | with_reducible refine keeps_if (fun _ => ?_) (fun _ => ?_)
    | with_reducible refine keeps_if_after (fun _ => ?_) (fun _ => ?_)
    | with_reducible refine keeps_if_did (fun _ => ?_) (fun _ => ?_)
    | dsimp only
    | split
    | with_reducible refine keeps_after_ok ?_

theorem execPodVbcs_keeps {d : Die} {core : Nat} {w : PodF} {s : State} : Keeps 0x100000000000000000000000000000000000000000 s (after (execPodVbcs d core w s) s) := by
  unfold execPodVbcs
  repeat' first
    | with_reducible exact Keeps.refl _ _
    | with_reducible refine (issue_keeps (hm := by decide) (h_g := fun _ _ _ => ?_)) ?_
    | with_reducible refine (vecDone_keeps (hm := by decide)) ?_
    | dsimp only
    | with_reducible refine keeps_after_ok ?_

theorem execPodVmvs_keeps {d : Die} {core : Nat} {w : PodF} {s : State} : Keeps 0x100000000000000000000000000000000000000000 s (after (execPodVmvs d core w s) s) := by
  unfold execPodVmvs
  repeat' first
    | with_reducible exact Keeps.refl _ _
    | with_reducible refine (issue_keeps (hm := by decide) (h_g := fun _ _ _ => ?_)) ?_
    | dsimp only
    | with_reducible refine keeps_after_ok ?_

theorem vecTree_keeps {d : Die} {p : Nat} {w : PodF} {op : BitVec 32 → BitVec 32 → BitVec 32 × Nat} {s : State} (hm : Sub 0x100000000000000000000000000000000000000000 km) (hk :
    Keeps km kz s) : Keeps km kz (vecTree d p w op s) := by
  refine Keeps.lift hm ?_ hk
  unfold vecTree
  repeat' first
    | with_reducible exact Keeps.refl _ _
    | with_reducible refine (issue_keeps (hm := by decide) (h_g := fun _ _ _ => ?_)) ?_
    | with_reducible refine (vecDone_keeps (hm := by decide)) ?_
    | dsimp only

theorem execPodVradd_keeps {d : Die} {core : Nat} {w : PodF} {s : State} : Keeps 0x100000000000000000000000000000000000000000 s (after (execPodVradd d core w s) s) := by
  unfold execPodVradd
  repeat' first
    | with_reducible exact Keeps.refl _ _
    | with_reducible refine (vecTree_keeps (hm := by decide)) ?_
    | with_reducible refine keeps_if (fun _ => ?_) (fun _ => ?_)
    | with_reducible refine keeps_if_after (fun _ => ?_) (fun _ => ?_)
    | dsimp only
    | split
    | with_reducible refine keeps_after_ok ?_

theorem execPodVrmax_keeps {d : Die} {core : Nat} {w : PodF} {s : State} : Keeps 0x100000000000000000000000000000000000000000 s (after (execPodVrmax d core w s) s) := by
  unfold execPodVrmax
  repeat' first
    | with_reducible exact Keeps.refl _ _
    | with_reducible refine (vecTree_keeps (hm := by decide)) ?_
    | with_reducible refine keeps_if (fun _ => ?_) (fun _ => ?_)
    | with_reducible refine keeps_if_after (fun _ => ?_) (fun _ => ?_)
    | dsimp only
    | split
    | with_reducible refine keeps_after_ok ?_

theorem execPodVidx_keeps {d : Die} {core : Nat} {w : PodF} {s : State} : Keeps 0x100000000000000000000000000000000000000000 s (after (execPodVidx d core w s) s) := by
  unfold execPodVidx
  repeat' first
    | with_reducible exact Keeps.refl _ _
    | with_reducible refine (issue_keeps (hm := by decide) (h_g := fun _ _ _ => ?_)) ?_
    | with_reducible refine (vecDone_keeps (hm := by decide)) ?_
    | with_reducible refine keeps_if (fun _ => ?_) (fun _ => ?_)
    | with_reducible refine keeps_if_after (fun _ => ?_) (fun _ => ?_)
    | with_reducible refine keeps_if_did (fun _ => ?_) (fun _ => ?_)
    | dsimp only
    | split
    | with_reducible refine keeps_after_ok ?_

theorem execPodVcvt_keeps {d : Die} {core : Nat} {w : PodF} {s : State} : Keeps 0x100000000000000000000000000000000000000000 s (after (execPodVcvt d core w s) s) := by
  unfold execPodVcvt
  repeat' first
    | with_reducible exact Keeps.refl _ _
    | with_reducible refine (issue_keeps (hm := by decide) (h_g := fun _ _ _ => ?_)) ?_
    | with_reducible refine (vecDone_keeps (hm := by decide)) ?_
    | dsimp only
    | with_reducible refine keeps_after_ok ?_

theorem matrix_keeps {d : Die} {p : Nat} {okW : Bool} {g : State → Core → Thread → Did} {s : State} (h_g : ∀ x0 x1 x2, Keeps km x0 (g x0 x1 x2).s) (hm : Sub 0x100000000000000000000000000000000000000000 km) (hk :
    Keeps km kz s) : Keeps km kz (matrix d p okW g s) := by
  refine Keeps.lift (Nat.and_self km) ?_ hk
  unfold matrix
  repeat' first
    | with_reducible exact Keeps.refl _ _
    | with_reducible refine (issue_keeps (hm := by exact sub_trans (by decide) hm) (h_g := fun _ _ _ => ?_)) ?_
    | with_reducible refine (Keeps.lift (Nat.and_self km) (h_g _ _ _)) ?_
    | extract_lets
    | split
    | dsimp only

theorem execPodMzero_keeps {d : Die} {core : Nat} {w : PodF} {s : State} : Keeps 0x100000000000000000000000000000000000000000 s (after (execPodMzero d core w s) s) := by
  unfold execPodMzero
  repeat' first
    | with_reducible exact Keeps.refl _ _
    | with_reducible refine (matrix_keeps (hm := by decide) (h_g := fun _ _ _ => ?_)) ?_
    | dsimp only
    | with_reducible refine keeps_after_ok ?_

theorem execPodMma_keeps {d : Die} {core : Nat} {w : PodF} {s : State} : Keeps 0x100000000000000000000000000000000000000000 s (after (execPodMma d core w s) s) := by
  unfold execPodMma
  repeat' first
    | with_reducible exact Keeps.refl _ _
    | with_reducible refine (matrix_keeps (hm := by decide) (h_g := fun _ _ _ => ?_)) ?_
    | with_reducible refine (keeps_foldl_snd (fun _ _ => ?_)) ?_
    | with_reducible refine (keeps_foldl_fst (fun _ _ => ?_)) ?_
    | with_reducible refine (keeps_foldl_third (fun _ _ => ?_)) ?_
    | with_reducible refine (keeps_foldl_mid (fun _ _ => ?_)) ?_
    | with_reducible refine (keeps_foldl (fun _ _ => ?_)) ?_
    | with_reducible refine keeps_if (fun _ => ?_) (fun _ => ?_)
    | with_reducible refine keeps_if_after (fun _ => ?_) (fun _ => ?_)
    | dsimp only
    | split
    | with_reducible refine keeps_after_ok ?_
    | (simp only [Prod.ext_iff] at *; casesm* _ ∧ _; subst_vars)

theorem execPodMsc_keeps {d : Die} {core : Nat} {w : PodF} {s : State} : Keeps 0x100000000000000000000000000000000000000000 s (after (execPodMsc d core w s) s) := by
  unfold execPodMsc
  repeat' first
    | with_reducible exact Keeps.refl _ _
    | with_reducible refine (matrix_keeps (hm := by decide) (h_g := fun _ _ _ => ?_)) ?_
    | with_reducible refine keeps_if (fun _ => ?_) (fun _ => ?_)
    | with_reducible refine keeps_if_after (fun _ => ?_) (fun _ => ?_)
    | dsimp only
    | split
    | with_reducible refine keeps_after_ok ?_

theorem execPodMst_keeps {d : Die} {core : Nat} {w : PodF} {s : State} : Keeps 0x100000000000000000000000000000000000000000 s (after (execPodMst d core w s) s) := by
  unfold execPodMst
  repeat' first
    | with_reducible exact Keeps.refl _ _
    | with_reducible refine (matrix_keeps (hm := by decide) (h_g := fun _ _ _ => ?_)) ?_
    | with_reducible refine keeps_if (fun _ => ?_) (fun _ => ?_)
    | with_reducible refine keeps_if_after (fun _ => ?_) (fun _ => ?_)
    | dsimp only
    | split
    | with_reducible refine keeps_after_ok ?_

theorem execPodMld_keeps {d : Die} {core : Nat} {w : PodF} {s : State} : Keeps 0x100000000000000000000000000000000000000000 s (after (execPodMld d core w s) s) := by
  unfold execPodMld
  repeat' first
    | with_reducible exact Keeps.refl _ _
    | with_reducible refine (matrix_keeps (hm := by decide) (h_g := fun _ _ _ => ?_)) ?_
    | with_reducible refine keeps_if (fun _ => ?_) (fun _ => ?_)
    | with_reducible refine keeps_if_after (fun _ => ?_) (fun _ => ?_)
    | dsimp only
    | split
    | with_reducible refine keeps_after_ok ?_

theorem execPodMtv_keeps {d : Die} {core : Nat} {w : PodF} {s : State} : Keeps 0x100000000000000000000000000000000000000000 s (after (execPodMtv d core w s) s) := by
  unfold execPodMtv
  repeat' first
    | with_reducible exact Keeps.refl _ _
    | with_reducible refine (matrix_keeps (hm := by decide) (h_g := fun _ _ _ => ?_)) ?_
    | dsimp only
    | with_reducible refine keeps_after_ok ?_

theorem streamIns_keeps {d : Die} {p : Nat} {okW : Bool} {w : PodF} {req : Core → Nat → Nat → Frame → Frame} {s : State} (hm : Sub 0x800000100000000000000000040060000002d81600000000 km) (hk :
    Keeps km kz s) : Keeps km kz (streamIns d p okW w req s) := by
  refine Keeps.lift hm ?_ hk
  unfold streamIns
  repeat' first
    | with_reducible exact Keeps.refl _ _
    | with_reducible refine (issue_keeps (hm := by decide) (h_g := fun _ _ _ => ?_)) ?_
    | with_reducible refine (nextSeq_keeps (hm := by decide)) ?_
    | with_reducible refine (nextSeq_of_eq (heq := by assumption) (hm := by decide)) ?_
    | with_reducible refine (sendFrom_keeps (hm := by decide)) ?_
    | with_reducible refine keeps_elim ?_ (fun _ => ?_)
    | with_reducible refine keeps_if (fun _ => ?_) (fun _ => ?_)
    | with_reducible refine keeps_if_snd (fun _ => ?_) (fun _ => ?_)
    | dsimp only
    | split
    | (simp only [Prod.ext_iff] at *; casesm* _ ∧ _; subst_vars)

theorem execPodSrd_keeps {d : Die} {core : Nat} {w : PodF} {s : State} : Keeps 0x800000100000000000000000040060000002d81600000000 s (after (execPodSrd d core w s) s) := by
  unfold execPodSrd
  repeat' first
    | with_reducible exact Keeps.refl _ _
    | with_reducible refine (streamIns_keeps (hm := by decide)) ?_
    | dsimp only
    | with_reducible refine keeps_after_ok ?_

theorem execPodSwr_keeps {d : Die} {core : Nat} {w : PodF} {s : State} : Keeps 0x800000100000000000000000040060000002d81600000000 s (after (execPodSwr d core w s) s) := by
  unfold execPodSwr
  repeat' first
    | with_reducible exact Keeps.refl _ _
    | with_reducible refine (streamIns_keeps (hm := by decide)) ?_
    | dsimp only
    | with_reducible refine keeps_after_ok ?_

theorem execStreamComplete_keeps {d : Die} {core thread : Nat} {f : Frame} {s0 : State} : Keeps 0x20000000000000000000000000000000000100000000000000000000010000000000000000000 s0 (after (execStreamComplete d core thread f s0) s0) := by
  unfold execStreamComplete
  have key : ∀ (u : State) (q : Nat), Keeps 0x20000000000000000000000000000000000100000000000000000000010000000000000000000 u { u with freeCtr := q } := fun u q => (set_freeCtr_keeps (by decide)) (Keeps.refl _ _)
  extract_lets s c t
  have k0 : Keeps 0x20000000000000000000000000000000000100000000000000000000010000000000000000000 s0 s := (takeAgent_keeps (by decide)) (Keeps.refl _ _)
  clear_value s t c
  have kp : ∀ x, Keeps 0x20000000000000000000000000000000000100000000000000000000010000000000000000000 s0 (putCore d core x s) := fun _ => (putCore_keeps (by decide)) k0
  split
  · exact keeps_after_ok k0
  · extract_lets st load
    clear_value st load
    refine keeps_if_after (fun _ => keeps_after_ok k0) (fun _ => ?_)
    refine keeps_if_after (fun _ => keeps_after_ok (kp _)) (fun _ => ?_)
    refine keeps_if_after (fun _ => keeps_after_ok (kp _)) (fun _ => ?_)
    refine keeps_if_after (fun _ => keeps_after_ok (kp _)) (fun _ => ?_)
    exact keeps_after_ok ((putCore_keeps (by decide)) (k0.trans (key _ _)))

theorem execStreamRetry_keeps {d : Die} {core thread : Nat} {s : State} : Keeps 0x800000100000000000000000040020000002d81600000000 s (after (execStreamRetry d core thread s) s) := by
  unfold execStreamRetry
  repeat' first
    | with_reducible exact Keeps.refl _ _
    | with_reducible refine (sendFrom_keeps (hm := by decide)) ?_
    | with_reducible refine (putCore_keeps (hm := by decide)) ?_
    | with_reducible refine keeps_if (fun _ => ?_) (fun _ => ?_)
    | with_reducible refine keeps_if_after (fun _ => ?_) (fun _ => ?_)
    | dsimp only
    | split
    | with_reducible refine keeps_after_ok ?_

theorem execPodXpd_keeps {d : Die} {core : Nat} {w : PodF} {s : State} : Keeps 0x20000000000000000000000000001b80000100000000000000000000000000000000000000000 s (after (execPodXpd d core w s) s) := by
  unfold execPodXpd
  have key : ∀ (u : State) (q : Nat), Keeps 0x20000000000000000000000000001b80000100000000000000000000000000000000000000000 u { u with freeCtr := q } := fun u q => (set_freeCtr_keeps (by decide)) (Keeps.refl _ _)
  refine keeps_after_ok ((issue_keeps (h_g := fun s c t => ?_) (hm := by decide)) (Keeps.refl _ _))
  extract_lets a n dst b
  clear_value a n dst b
  refine keeps_if_did (fun _ => Keeps.refl _ _) (fun _ => ?_)
  split
  · rename_i raw s1 h1
    have k1 : Keeps 0x20000000000000000000000000001b80000100000000000000000000000000000000000000000 s s1 := (decodeAt_of_eq h1 (by decide)) (Keeps.refl _ _)
    exact keeps_if_did (fun _ => k1) (fun _ => k1)
  · rename_i s1 h1
    have k1 : Keeps 0x20000000000000000000000000001b80000100000000000000000000000000000000000000000 s s1 := (decodeAt_of_eq h1 (by decide)) (Keeps.refl _ _)
    exact k1.trans (key _ _)

theorem execPodXpq_keeps {d : Die} {core : Nat} {w : PodF} {s : State} : Keeps 0x1b80000100000000000000000000000000000000000000000 s (after (execPodXpq d core w s) s) := by
  unfold execPodXpq
  repeat' first
    | with_reducible exact Keeps.refl _ _
    | with_reducible refine (issue_keeps (hm := by decide) (h_g := fun _ _ _ => ?_)) ?_
    | with_reducible refine (decodeAt_keeps (hm := by decide)) ?_
    | with_reducible refine (decodeAt_of_eq (heq := by assumption) (hm := by decide)) ?_
    | with_reducible refine keeps_if (fun _ => ?_) (fun _ => ?_)
    | with_reducible refine keeps_if_after (fun _ => ?_) (fun _ => ?_)
    | with_reducible refine keeps_if_snd (fun _ => ?_) (fun _ => ?_)
    | dsimp only
    | split
    | with_reducible refine keeps_after_ok ?_
    | (simp only [Prod.ext_iff] at *; casesm* _ ∧ _; subst_vars)

theorem execPodCpz_keeps {d : Die} {core : Nat} {w : PodF} {s : State} : Keeps 0x100000000000000000000000000000000000000000 s (after (execPodCpz d core w s) s) := by
  unfold execPodCpz
  repeat' first
    | with_reducible exact Keeps.refl _ _
    | with_reducible refine (issue_keeps (hm := by decide) (h_g := fun _ _ _ => ?_)) ?_
    | with_reducible refine keeps_if (fun _ => ?_) (fun _ => ?_)
    | with_reducible refine keeps_if_after (fun _ => ?_) (fun _ => ?_)
    | dsimp only
    | split
    | with_reducible refine keeps_after_ok ?_

theorem execWorkItemStart_keeps {d : Die} {core : Nat} {s : State} : Keeps 0x20000000000000000000000000000000000d00000000000000000000000000000000000000000 s (after (execWorkItemStart d core s) s) := by
  unfold execWorkItemStart
  repeat' first
    | with_reducible exact Keeps.refl _ _
    | with_reducible refine (startItem_keeps (hm := by decide)) ?_
    | with_reducible refine (modPod_keeps ?_) ?_
    | with_reducible refine keeps_if (fun _ => ?_) (fun _ => ?_)
    | with_reducible refine keeps_if_after (fun _ => ?_) (fun _ => ?_)
    | dsimp only
    | split
    | with_reducible refine keeps_after_ok ?_
    | (constructor <;> first | exact .inl (by decide) | exact .inr rfl)
    | (simp only [Prod.ext_iff] at *; casesm* _ ∧ _; subst_vars)

theorem execThreadSwitchQuantum_keeps {d : Die} {core : Nat} {s : State} : Keeps 0x100000000000000000000000000000000000000000 s (after (execThreadSwitchQuantum d core s) s) := by
  unfold execThreadSwitchQuantum
  repeat' first
    | with_reducible exact Keeps.refl _ _
    | with_reducible refine (putCore_keeps (hm := by decide)) ?_
    | with_reducible refine keeps_if (fun _ => ?_) (fun _ => ?_)
    | with_reducible refine keeps_if_after (fun _ => ?_) (fun _ => ?_)
    | dsimp only
    | split
    | with_reducible refine keeps_after_ok ?_

theorem execBudgetExhausted_keeps {d : Die} {core : Nat} {s : State} : Keeps 0x1800004100000000000000000000000000000000000000000 s (after (execBudgetExhausted d core s) s) := by
  unfold execBudgetExhausted
  repeat' first
    | with_reducible exact Keeps.refl _ _
    | with_reducible refine (setStatus_keeps (hm := by first | decide | (simp only [StReg.mask]; decide))) ?_
    | with_reducible refine (putCore_keeps (hm := by first | decide | (simp only [StReg.mask]; decide))) ?_
    | with_reducible refine keeps_if (fun _ => ?_) (fun _ => ?_)
    | with_reducible refine keeps_if_after (fun _ => ?_) (fun _ => ?_)
    | dsimp only
    | split
    | with_reducible refine keeps_after_ok ?_

theorem execCoreRetire_keeps {d : Die} {core : Nat} {cause : RetireCause} {s : State} : Keeps 0x1800004700000000000000000000000000000000000000000 s (after (execCoreRetire d core cause s) s) := by
  unfold execCoreRetire
  repeat' first
    | with_reducible exact Keeps.refl _ _
    | with_reducible refine (setStatus_keeps (hm := by first | decide | (simp only [StReg.mask]; decide))) ?_
    | with_reducible refine (retireCore_keeps (hm := by first | decide | (simp only [StReg.mask]; decide))) ?_
    | with_reducible refine keeps_if (fun _ => ?_) (fun _ => ?_)
    | with_reducible refine keeps_if_after (fun _ => ?_) (fun _ => ?_)
    | split
    | with_reducible refine keeps_after_ok ?_

theorem execSelftest_keeps {d : Die} {core : Nat} {passed : Bool} {s : State} : Keeps 0x1800004700000000000000000000000000000000000000000 s (after (execSelftest d core passed s) s) := by
  unfold execSelftest
  repeat' first
    | with_reducible exact Keeps.refl _ _
    | with_reducible refine (putCore_keeps (hm := by first | decide | (simp only [StReg.mask]; decide))) ?_
    | with_reducible refine (retireCore_keeps (hm := by first | decide | (simp only [StReg.mask]; decide))) ?_
    | with_reducible refine (setStatus_keeps (hm := by first | decide | (simp only [StReg.mask]; decide))) ?_
    | with_reducible refine keeps_if (fun _ => ?_) (fun _ => ?_)
    | with_reducible refine keeps_if_after (fun _ => ?_) (fun _ => ?_)
    | dsimp only
    | split
    | with_reducible refine keeps_after_ok ?_

end Machine
end Sys2Proof
end

