-- ==== Sys2Proof/Laws/FramePodRun.lean ====
section
/-! SUPPORT. Frames of the functions of Machine/PodRun.lean: the parts of the state that each may change, as a mask (Laws/Keeps.lean). -/

namespace Sys2Proof
namespace Machine
set_option linter.unusedTactic false
set_option linter.unreachableTactic false
set_option linter.tactic.unusedName false
variable {km : Nat} {kz : State}

/-- The frame of every instruction of a list. -/
def PodFrames (l : List (Nat × PodExec)) : Prop :=
  ∀ x ∈ l, ∀ (d : Die) (p : Nat) (w : PodF) (s : State), Keeps 0x3fffffffffffffffffffffbff0c1ffffffffffffffffffffffffffffffffffffffffffffffffe s (after (x.2 d p w s) s)

theorem podControl_frames : PodFrames podControl := by
  unfold PodFrames podControl
  refine List.forall_mem_cons.2 ⟨fun _ _ _ _ => Keeps.lift (by decide) execPodNop_keeps (Keeps.refl _ _), ?_⟩
  refine List.forall_mem_cons.2 ⟨fun _ _ _ _ => Keeps.lift (by decide) execPodEnd_keeps (Keeps.refl _ _), ?_⟩
  refine List.forall_mem_cons.2 ⟨fun _ _ _ _ => Keeps.lift (by decide) execPodJmp_keeps (Keeps.refl _ _), ?_⟩
  refine List.forall_mem_cons.2 ⟨fun _ _ _ _ => Keeps.lift (by decide) execPodBeq_keeps (Keeps.refl _ _), ?_⟩
  refine List.forall_mem_cons.2 ⟨fun _ _ _ _ => Keeps.lift (by decide) execPodBne_keeps (Keeps.refl _ _), ?_⟩
  refine List.forall_mem_cons.2 ⟨fun _ _ _ _ => Keeps.lift (by decide) execPodBlt_keeps (Keeps.refl _ _), ?_⟩
  refine List.forall_mem_cons.2 ⟨fun _ _ _ _ => Keeps.lift (by decide) execPodBltu_keeps (Keeps.refl _ _), ?_⟩
  refine List.forall_mem_cons.2 ⟨fun _ _ _ _ => Keeps.lift (by decide) execPodBar_keeps (Keeps.refl _ _), ?_⟩
  refine List.forall_mem_cons.2 ⟨fun _ _ _ _ => Keeps.lift (by decide) execPodFault_keeps (Keeps.refl _ _), ?_⟩
  refine List.forall_mem_cons.2 ⟨fun _ _ _ _ => Keeps.lift (by decide) execPodRdflg_keeps (Keeps.refl _ _), ?_⟩
  refine List.forall_mem_cons.2 ⟨fun _ _ _ _ => Keeps.lift (by decide) execPodRdpace_keeps (Keeps.refl _ _), ?_⟩
  refine List.forall_mem_cons.2 ⟨fun _ _ _ _ => Keeps.lift (by decide) execPodRdtime_keeps (Keeps.refl _ _), ?_⟩
  refine List.forall_mem_cons.2 ⟨fun _ _ _ _ => Keeps.lift (by decide) execPodInfo_keeps (Keeps.refl _ _), ?_⟩
  exact fun _ h => absurd h List.not_mem_nil

theorem podScalar_frames : PodFrames podScalar := by
  unfold PodFrames podScalar
  refine List.forall_mem_cons.2 ⟨fun _ _ _ _ => Keeps.lift (by decide) execPodAdd_keeps (Keeps.refl _ _), ?_⟩
  refine List.forall_mem_cons.2 ⟨fun _ _ _ _ => Keeps.lift (by decide) execPodSub_keeps (Keeps.refl _ _), ?_⟩
  refine List.forall_mem_cons.2 ⟨fun _ _ _ _ => Keeps.lift (by decide) execPodMul_keeps (Keeps.refl _ _), ?_⟩
  refine List.forall_mem_cons.2 ⟨fun _ _ _ _ => Keeps.lift (by decide) execPodAnd_keeps (Keeps.refl _ _), ?_⟩
  refine List.forall_mem_cons.2 ⟨fun _ _ _ _ => Keeps.lift (by decide) execPodOr_keeps (Keeps.refl _ _), ?_⟩
  refine List.forall_mem_cons.2 ⟨fun _ _ _ _ => Keeps.lift (by decide) execPodXor_keeps (Keeps.refl _ _), ?_⟩
  refine List.forall_mem_cons.2 ⟨fun _ _ _ _ => Keeps.lift (by decide) execPodShl_keeps (Keeps.refl _ _), ?_⟩
  refine List.forall_mem_cons.2 ⟨fun _ _ _ _ => Keeps.lift (by decide) execPodShr_keeps (Keeps.refl _ _), ?_⟩
  refine List.forall_mem_cons.2 ⟨fun _ _ _ _ => Keeps.lift (by decide) execPodSra_keeps (Keeps.refl _ _), ?_⟩
  refine List.forall_mem_cons.2 ⟨fun _ _ _ _ => Keeps.lift (by decide) execPodMin_keeps (Keeps.refl _ _), ?_⟩
  refine List.forall_mem_cons.2 ⟨fun _ _ _ _ => Keeps.lift (by decide) execPodMax_keeps (Keeps.refl _ _), ?_⟩
  refine List.forall_mem_cons.2 ⟨fun _ _ _ _ => Keeps.lift (by decide) execPodSlt_keeps (Keeps.refl _ _), ?_⟩
  refine List.forall_mem_cons.2 ⟨fun _ _ _ _ => Keeps.lift (by decide) execPodSltu_keeps (Keeps.refl _ _), ?_⟩
  refine List.forall_mem_cons.2 ⟨fun _ _ _ _ => Keeps.lift (by decide) execPodAddi_keeps (Keeps.refl _ _), ?_⟩
  refine List.forall_mem_cons.2 ⟨fun _ _ _ _ => Keeps.lift (by decide) execPodLi_keeps (Keeps.refl _ _), ?_⟩
  refine List.forall_mem_cons.2 ⟨fun _ _ _ _ => Keeps.lift (by decide) execPodLim_keeps (Keeps.refl _ _), ?_⟩
  refine List.forall_mem_cons.2 ⟨fun _ _ _ _ => Keeps.lift (by decide) execPodLit_keeps (Keeps.refl _ _), ?_⟩
  exact fun _ h => absurd h List.not_mem_nil

theorem podScratch_frames : PodFrames podScratch := by
  unfold PodFrames podScratch
  refine List.forall_mem_cons.2 ⟨fun _ _ _ _ => Keeps.lift (by decide) execPodSld_keeps (Keeps.refl _ _), ?_⟩
  refine List.forall_mem_cons.2 ⟨fun _ _ _ _ => Keeps.lift (by decide) execPodSst_keeps (Keeps.refl _ _), ?_⟩
  refine List.forall_mem_cons.2 ⟨fun _ _ _ _ => Keeps.lift (by decide) execPodVld_keeps (Keeps.refl _ _), ?_⟩
  refine List.forall_mem_cons.2 ⟨fun _ _ _ _ => Keeps.lift (by decide) execPodVst_keeps (Keeps.refl _ _), ?_⟩
  refine List.forall_mem_cons.2 ⟨fun _ _ _ _ => Keeps.lift (by decide) execPodVldb_keeps (Keeps.refl _ _), ?_⟩
  exact fun _ h => absurd h List.not_mem_nil

theorem podVector_frames : PodFrames podVector := by
  unfold PodFrames podVector
  refine List.forall_mem_cons.2 ⟨fun _ _ _ _ => Keeps.lift (by decide) execPodVadd_keeps (Keeps.refl _ _), ?_⟩
  refine List.forall_mem_cons.2 ⟨fun _ _ _ _ => Keeps.lift (by decide) execPodVsub_keeps (Keeps.refl _ _), ?_⟩
  refine List.forall_mem_cons.2 ⟨fun _ _ _ _ => Keeps.lift (by decide) execPodVmul_keeps (Keeps.refl _ _), ?_⟩
  refine List.forall_mem_cons.2 ⟨fun _ _ _ _ => Keeps.lift (by decide) execPodVfma_keeps (Keeps.refl _ _), ?_⟩
  refine List.forall_mem_cons.2 ⟨fun _ _ _ _ => Keeps.lift (by decide) execPodVmin_keeps (Keeps.refl _ _), ?_⟩
  refine List.forall_mem_cons.2 ⟨fun _ _ _ _ => Keeps.lift (by decide) execPodVmax_keeps (Keeps.refl _ _), ?_⟩
  refine List.forall_mem_cons.2 ⟨fun _ _ _ _ => Keeps.lift (by decide) execPodVexp2_keeps (Keeps.refl _ _), ?_⟩
  refine List.forall_mem_cons.2 ⟨fun _ _ _ _ => Keeps.lift (by decide) execPodVlog2_keeps (Keeps.refl _ _), ?_⟩
  refine List.forall_mem_cons.2 ⟨fun _ _ _ _ => Keeps.lift (by decide) execPodVrcp_keeps (Keeps.refl _ _), ?_⟩
  refine List.forall_mem_cons.2 ⟨fun _ _ _ _ => Keeps.lift (by decide) execPodVrsq_keeps (Keeps.refl _ _), ?_⟩
  refine List.forall_mem_cons.2 ⟨fun _ _ _ _ => Keeps.lift (by decide) execPodVcmplt_keeps (Keeps.refl _ _), ?_⟩
  refine List.forall_mem_cons.2 ⟨fun _ _ _ _ => Keeps.lift (by decide) execPodVsel_keeps (Keeps.refl _ _), ?_⟩
  refine List.forall_mem_cons.2 ⟨fun _ _ _ _ => Keeps.lift (by decide) execPodVbcs_keeps (Keeps.refl _ _), ?_⟩
  refine List.forall_mem_cons.2 ⟨fun _ _ _ _ => Keeps.lift (by decide) execPodVmvs_keeps (Keeps.refl _ _), ?_⟩
  refine List.forall_mem_cons.2 ⟨fun _ _ _ _ => Keeps.lift (by decide) execPodVradd_keeps (Keeps.refl _ _), ?_⟩
  refine List.forall_mem_cons.2 ⟨fun _ _ _ _ => Keeps.lift (by decide) execPodVrmax_keeps (Keeps.refl _ _), ?_⟩
  refine List.forall_mem_cons.2 ⟨fun _ _ _ _ => Keeps.lift (by decide) execPodVidx_keeps (Keeps.refl _ _), ?_⟩
  refine List.forall_mem_cons.2 ⟨fun _ _ _ _ => Keeps.lift (by decide) execPodVcvt_keeps (Keeps.refl _ _), ?_⟩
  exact fun _ h => absurd h List.not_mem_nil

theorem podMatrix_frames : PodFrames podMatrix := by
  unfold PodFrames podMatrix
  refine List.forall_mem_cons.2 ⟨fun _ _ _ _ => Keeps.lift (by decide) execPodMzero_keeps (Keeps.refl _ _), ?_⟩
  refine List.forall_mem_cons.2 ⟨fun _ _ _ _ => Keeps.lift (by decide) execPodMma_keeps (Keeps.refl _ _), ?_⟩
  refine List.forall_mem_cons.2 ⟨fun _ _ _ _ => Keeps.lift (by decide) execPodMsc_keeps (Keeps.refl _ _), ?_⟩
  refine List.forall_mem_cons.2 ⟨fun _ _ _ _ => Keeps.lift (by decide) execPodMst_keeps (Keeps.refl _ _), ?_⟩
  refine List.forall_mem_cons.2 ⟨fun _ _ _ _ => Keeps.lift (by decide) execPodMld_keeps (Keeps.refl _ _), ?_⟩
  refine List.forall_mem_cons.2 ⟨fun _ _ _ _ => Keeps.lift (by decide) execPodMtv_keeps (Keeps.refl _ _), ?_⟩
  exact fun _ h => absurd h List.not_mem_nil

theorem podStream_frames : PodFrames podStream := by
  unfold PodFrames podStream
  refine List.forall_mem_cons.2 ⟨fun _ _ _ _ => Keeps.lift (by decide) execPodSrd_keeps (Keeps.refl _ _), ?_⟩
  refine List.forall_mem_cons.2 ⟨fun _ _ _ _ => Keeps.lift (by decide) execPodSwr_keeps (Keeps.refl _ _), ?_⟩
  exact fun _ h => absurd h List.not_mem_nil

theorem podCodec_frames : PodFrames podCodec := by
  unfold PodFrames podCodec
  refine List.forall_mem_cons.2 ⟨fun _ _ _ _ => Keeps.lift (by decide) execPodXpd_keeps (Keeps.refl _ _), ?_⟩
  refine List.forall_mem_cons.2 ⟨fun _ _ _ _ => Keeps.lift (by decide) execPodXpq_keeps (Keeps.refl _ _), ?_⟩
  refine List.forall_mem_cons.2 ⟨fun _ _ _ _ => Keeps.lift (by decide) execPodCpz_keeps (Keeps.refl _ _), ?_⟩
  exact fun _ h => absurd h List.not_mem_nil

theorem podMeaning_frame {cls op : Nat} {g : PodExec} (h : podMeaning cls op = some g) (d : Die) (p : Nat) (w : PodF) (s : State) :
    Keeps 0x3fffffffffffffffffffffbff0c1ffffffffffffffffffffffffffffffffffffffffffffffffe s (after (g d p w s) s) := by
  have hall : ∀ l ∈ podOps, PodFrames l := by
    unfold podOps
    refine List.forall_mem_cons.2 ⟨podControl_frames, ?_⟩
    refine List.forall_mem_cons.2 ⟨podScalar_frames, ?_⟩
    refine List.forall_mem_cons.2 ⟨podScratch_frames, ?_⟩
    refine List.forall_mem_cons.2 ⟨podVector_frames, ?_⟩
    refine List.forall_mem_cons.2 ⟨podMatrix_frames, ?_⟩
    refine List.forall_mem_cons.2 ⟨podStream_frames, ?_⟩
    refine List.forall_mem_cons.2 ⟨podCodec_frames, ?_⟩
    exact fun _ h => absurd h List.not_mem_nil
  unfold podMeaning at h
  obtain ⟨x, hx, rfl⟩ := Option.map_eq_some_iff.1 h
  have hm := List.mem_of_find?_eq_some hx
  have hl : PodFrames (nth podOps cls []) := by
    unfold nth
    cases hg : podOps[cls]? with
    | none => exact fun _ h => absurd h List.not_mem_nil
    | some l => exact hall l (List.mem_of_getElem? hg)
  exact hl x hm d p w s

theorem runCore_keeps {d : Die} {p : Nat} {s : State} (hm : Sub 0x3fffffffffffffffffffffbff0c1ffffffffffffffffffffffffffffffffffffffffffffffffe km) (hk :
    Keeps km kz s) : Keeps km kz (runCore d p s) := by
  refine Keeps.lift hm ?_ hk
  have hbad : Keeps 0x3fffffffffffffffffffffbff0c1ffffffffffffffffffffffffffffffffffffffffffffffffe s (issue d p false (fun s c t => ⟨s, c, t, .next⟩) s) :=
    issue_keeps (fun _ _ _ => Keeps.refl _ _) (by decide) (Keeps.refl _ _)
  unfold runCore
  dsimp only
  split
  · exact hbad
  · rename_i v _
    split
    · exact hbad
    · rename_i g hg
      have h := podMeaning_frame hg d p (podFields v) s
      split
      · rename_i t ht
        rw [ht] at h
        exact h
      · exact Keeps.refl _ _

theorem runCores_keeps {s : State} (hm : Sub 0x3fffffffffffffffffffffbff0c1ffffffffffffffffffffffffffffffffffffffffffffffffe km) (hk :
    Keeps km kz s) : Keeps km kz (runCores s) := by
  unfold runCores
  generalize issuers s = l
  induction l generalizing s with
  | nil => exact hk
  | cons x r ih => exact ih (runCore_keeps hm hk)

end Machine
end Sys2Proof
end

