-- ==== Sys2Proof/Laws/FrameIdle.lean ====
section
/-! SUPPORT. Frames of the functions of Machine/Idle.lean: the parts of the state that each may change, as a mask (Laws/Keeps.lean). -/

namespace Sys2Proof
namespace Machine
set_option linter.unusedTactic false
set_option linter.unreachableTactic false
set_option linter.tactic.unusedName false
variable {km : Nat} {kz : State}

theorem passTime_keeps {s : State} (hm : Sub 0x200000000000000000000010000000000000000000000000000000000000000000000000 km) (hk :
    Keeps km kz s) : Keeps km kz (passTime s) := by
  refine Keeps.lift hm ?_ hk
  unfold passTime
  repeat' first
    | with_reducible exact Keeps.refl _ _
    | with_reducible refine (modEv_keeps ?_) ?_
    | with_reducible refine (modDie_keeps (hm := by decide)) ?_
    | dsimp only
    | (constructor <;> first | exact .inl (by decide) | exact .inr rfl)

theorem idle_keeps {s : State} (hm : Sub 0x3fffffffffffffffffffffbff0c1ffffffffffffffffffffffffffffffffffffffffffffffffe km) (hk :
    Keeps km kz s) : Keeps km kz (idle s) := by
  refine Keeps.lift hm ?_ hk
  unfold idle
  repeat' first
    | with_reducible exact Keeps.refl _ _
    | with_reducible refine (passTime_keeps (hm := by decide)) ?_
    | with_reducible refine (resumeData_keeps (hm := by decide)) ?_
    | with_reducible refine (pump_keeps (hm := by decide)) ?_
    | with_reducible refine (runCores_keeps (hm := by decide)) ?_

end Machine
end Sys2Proof
end

