-- ==== Sys2Proof/Laws/State.lean ====
section
/-! SUPPORT. What each update of the state leaves in each field. -/

namespace Sys2Proof
namespace Machine

/-! modCfg -/

@[simp] theorem modCfg_pending (s : State) (g : CfgState → CfgState) : (modCfg s g).pending = s.pending := rfl
@[simp] theorem modCfg_cfg (s : State) (g : CfgState → CfgState) : (modCfg s g).cfg = g s.cfg := rfl
@[simp] theorem modCfg_lft (s : State) (g : CfgState → CfgState) : (modCfg s g).lft = s.lft := rfl
@[simp] theorem modCfg_swc (s : State) (g : CfgState → CfgState) : (modCfg s g).swc = s.swc := rfl
@[simp] theorem modCfg_home (s : State) (g : CfgState → CfgState) : (modCfg s g).home = s.home := rfl
@[simp] theorem modCfg_coh (s : State) (g : CfgState → CfgState) : (modCfg s g).coh = s.coh := rfl
@[simp] theorem modCfg_tier (s : State) (g : CfgState → CfgState) : (modCfg s g).tier = s.tier := rfl
@[simp] theorem modCfg_exts (s : State) (g : CfgState → CfgState) : (modCfg s g).exts = s.exts := rfl
@[simp] theorem modCfg_objs (s : State) (g : CfgState → CfgState) : (modCfg s g).objs = s.objs := rfl
@[simp] theorem modCfg_gens (s : State) (g : CfgState → CfgState) : (modCfg s g).gens = s.gens := rfl
@[simp] theorem modCfg_sessions (s : State) (g : CfgState → CfgState) : (modCfg s g).sessions = s.sessions := rfl
@[simp] theorem modCfg_vols (s : State) (g : CfgState → CfgState) : (modCfg s g).vols = s.vols := rfl
@[simp] theorem modCfg_ftl (s : State) (g : CfgState → CfgState) : (modCfg s g).ftl = s.ftl := rfl
@[simp] theorem modCfg_pod (s : State) (g : CfgState → CfgState) : (modCfg s g).pod = s.pod := rfl
@[simp] theorem modCfg_col (s : State) (g : CfgState → CfgState) : (modCfg s g).col = s.col := rfl
@[simp] theorem modCfg_cmp (s : State) (g : CfgState → CfgState) : (modCfg s g).cmp = s.cmp := rfl
@[simp] theorem modCfg_ctxs (s : State) (g : CfgState → CfgState) : (modCfg s g).ctxs = s.ctxs := rfl
@[simp] theorem modCfg_ev (s : State) (g : CfgState → CfgState) : (modCfg s g).ev = s.ev := rfl
@[simp] theorem modCfg_sec (s : State) (g : CfgState → CfgState) : (modCfg s g).sec = s.sec := rfl
@[simp] theorem modCfg_mtr (s : State) (g : CfgState → CfgState) : (modCfg s g).mtr = s.mtr := rfl
@[simp] theorem modCfg_flt (s : State) (g : CfgState → CfgState) : (modCfg s g).flt = s.flt := rfl
@[simp] theorem modCfg_mod (s : State) (g : CfgState → CfgState) : (modCfg s g).mod = s.mod := rfl
@[simp] theorem modCfg_extSel (s : State) (g : CfgState → CfgState) : (modCfg s g).extSel = s.extSel := rfl
@[simp] theorem modCfg_extRec (s : State) (g : CfgState → CfgState) : (modCfg s g).extRec = s.extRec := rfl
@[simp] theorem modCfg_objSel (s : State) (g : CfgState → CfgState) : (modCfg s g).objSel = s.objSel := rfl
@[simp] theorem modCfg_objRec (s : State) (g : CfgState → CfgState) : (modCfg s g).objRec = s.objRec := rfl
@[simp] theorem modCfg_sesSel (s : State) (g : CfgState → CfgState) : (modCfg s g).sesSel = s.sesSel := rfl
@[simp] theorem modCfg_sesRec (s : State) (g : CfgState → CfgState) : (modCfg s g).sesRec = s.sesRec := rfl
@[simp] theorem modCfg_mem (s : State) (g : CfgState → CfgState) : (modCfg s g).mem = s.mem := rfl
@[simp] theorem modCfg_poison (s : State) (g : CfgState → CfgState) : (modCfg s g).poison = s.poison := rfl
@[simp] theorem modCfg_freeCtr (s : State) (g : CfgState → CfgState) : (modCfg s g).freeCtr = s.freeCtr := rfl

/-! modLft -/

@[simp] theorem modLft_pending (s : State) (g : LftState → LftState) : (modLft s g).pending = s.pending := rfl
@[simp] theorem modLft_cfg (s : State) (g : LftState → LftState) : (modLft s g).cfg = s.cfg := rfl
@[simp] theorem modLft_lft (s : State) (g : LftState → LftState) : (modLft s g).lft = g s.lft := rfl
@[simp] theorem modLft_swc (s : State) (g : LftState → LftState) : (modLft s g).swc = s.swc := rfl
@[simp] theorem modLft_home (s : State) (g : LftState → LftState) : (modLft s g).home = s.home := rfl
@[simp] theorem modLft_coh (s : State) (g : LftState → LftState) : (modLft s g).coh = s.coh := rfl
@[simp] theorem modLft_tier (s : State) (g : LftState → LftState) : (modLft s g).tier = s.tier := rfl
@[simp] theorem modLft_exts (s : State) (g : LftState → LftState) : (modLft s g).exts = s.exts := rfl
@[simp] theorem modLft_objs (s : State) (g : LftState → LftState) : (modLft s g).objs = s.objs := rfl
@[simp] theorem modLft_gens (s : State) (g : LftState → LftState) : (modLft s g).gens = s.gens := rfl
@[simp] theorem modLft_sessions (s : State) (g : LftState → LftState) : (modLft s g).sessions = s.sessions := rfl
@[simp] theorem modLft_vols (s : State) (g : LftState → LftState) : (modLft s g).vols = s.vols := rfl
@[simp] theorem modLft_ftl (s : State) (g : LftState → LftState) : (modLft s g).ftl = s.ftl := rfl
@[simp] theorem modLft_pod (s : State) (g : LftState → LftState) : (modLft s g).pod = s.pod := rfl
@[simp] theorem modLft_col (s : State) (g : LftState → LftState) : (modLft s g).col = s.col := rfl
@[simp] theorem modLft_cmp (s : State) (g : LftState → LftState) : (modLft s g).cmp = s.cmp := rfl
@[simp] theorem modLft_ctxs (s : State) (g : LftState → LftState) : (modLft s g).ctxs = s.ctxs := rfl
@[simp] theorem modLft_ev (s : State) (g : LftState → LftState) : (modLft s g).ev = s.ev := rfl
@[simp] theorem modLft_sec (s : State) (g : LftState → LftState) : (modLft s g).sec = s.sec := rfl
@[simp] theorem modLft_mtr (s : State) (g : LftState → LftState) : (modLft s g).mtr = s.mtr := rfl
@[simp] theorem modLft_flt (s : State) (g : LftState → LftState) : (modLft s g).flt = s.flt := rfl
@[simp] theorem modLft_mod (s : State) (g : LftState → LftState) : (modLft s g).mod = s.mod := rfl
@[simp] theorem modLft_extSel (s : State) (g : LftState → LftState) : (modLft s g).extSel = s.extSel := rfl
@[simp] theorem modLft_extRec (s : State) (g : LftState → LftState) : (modLft s g).extRec = s.extRec := rfl
@[simp] theorem modLft_objSel (s : State) (g : LftState → LftState) : (modLft s g).objSel = s.objSel := rfl
@[simp] theorem modLft_objRec (s : State) (g : LftState → LftState) : (modLft s g).objRec = s.objRec := rfl
@[simp] theorem modLft_sesSel (s : State) (g : LftState → LftState) : (modLft s g).sesSel = s.sesSel := rfl
@[simp] theorem modLft_sesRec (s : State) (g : LftState → LftState) : (modLft s g).sesRec = s.sesRec := rfl
@[simp] theorem modLft_mem (s : State) (g : LftState → LftState) : (modLft s g).mem = s.mem := rfl
@[simp] theorem modLft_poison (s : State) (g : LftState → LftState) : (modLft s g).poison = s.poison := rfl
@[simp] theorem modLft_freeCtr (s : State) (g : LftState → LftState) : (modLft s g).freeCtr = s.freeCtr := rfl

/-! modSwc -/

@[simp] theorem modSwc_pending (s : State) (d : Die) (g : SwcState → SwcState) : (modSwc s d g).pending = s.pending := rfl
@[simp] theorem modSwc_cfg (s : State) (d : Die) (g : SwcState → SwcState) : (modSwc s d g).cfg = s.cfg := rfl
@[simp] theorem modSwc_lft (s : State) (d : Die) (g : SwcState → SwcState) : (modSwc s d g).lft = s.lft := rfl
@[simp] theorem modSwc_swc (s : State) (d : Die) (g : SwcState → SwcState) : (modSwc s d g).swc = upd s.swc d g := rfl
@[simp] theorem modSwc_home (s : State) (d : Die) (g : SwcState → SwcState) : (modSwc s d g).home = s.home := rfl
@[simp] theorem modSwc_coh (s : State) (d : Die) (g : SwcState → SwcState) : (modSwc s d g).coh = s.coh := rfl
@[simp] theorem modSwc_tier (s : State) (d : Die) (g : SwcState → SwcState) : (modSwc s d g).tier = s.tier := rfl
@[simp] theorem modSwc_exts (s : State) (d : Die) (g : SwcState → SwcState) : (modSwc s d g).exts = s.exts := rfl
@[simp] theorem modSwc_objs (s : State) (d : Die) (g : SwcState → SwcState) : (modSwc s d g).objs = s.objs := rfl
@[simp] theorem modSwc_gens (s : State) (d : Die) (g : SwcState → SwcState) : (modSwc s d g).gens = s.gens := rfl
@[simp] theorem modSwc_sessions (s : State) (d : Die) (g : SwcState → SwcState) : (modSwc s d g).sessions = s.sessions := rfl
@[simp] theorem modSwc_vols (s : State) (d : Die) (g : SwcState → SwcState) : (modSwc s d g).vols = s.vols := rfl
@[simp] theorem modSwc_ftl (s : State) (d : Die) (g : SwcState → SwcState) : (modSwc s d g).ftl = s.ftl := rfl
@[simp] theorem modSwc_pod (s : State) (d : Die) (g : SwcState → SwcState) : (modSwc s d g).pod = s.pod := rfl
@[simp] theorem modSwc_col (s : State) (d : Die) (g : SwcState → SwcState) : (modSwc s d g).col = s.col := rfl
@[simp] theorem modSwc_cmp (s : State) (d : Die) (g : SwcState → SwcState) : (modSwc s d g).cmp = s.cmp := rfl
@[simp] theorem modSwc_ctxs (s : State) (d : Die) (g : SwcState → SwcState) : (modSwc s d g).ctxs = s.ctxs := rfl
@[simp] theorem modSwc_ev (s : State) (d : Die) (g : SwcState → SwcState) : (modSwc s d g).ev = s.ev := rfl
@[simp] theorem modSwc_sec (s : State) (d : Die) (g : SwcState → SwcState) : (modSwc s d g).sec = s.sec := rfl
@[simp] theorem modSwc_mtr (s : State) (d : Die) (g : SwcState → SwcState) : (modSwc s d g).mtr = s.mtr := rfl
@[simp] theorem modSwc_flt (s : State) (d : Die) (g : SwcState → SwcState) : (modSwc s d g).flt = s.flt := rfl
@[simp] theorem modSwc_mod (s : State) (d : Die) (g : SwcState → SwcState) : (modSwc s d g).mod = s.mod := rfl
@[simp] theorem modSwc_extSel (s : State) (d : Die) (g : SwcState → SwcState) : (modSwc s d g).extSel = s.extSel := rfl
@[simp] theorem modSwc_extRec (s : State) (d : Die) (g : SwcState → SwcState) : (modSwc s d g).extRec = s.extRec := rfl
@[simp] theorem modSwc_objSel (s : State) (d : Die) (g : SwcState → SwcState) : (modSwc s d g).objSel = s.objSel := rfl
@[simp] theorem modSwc_objRec (s : State) (d : Die) (g : SwcState → SwcState) : (modSwc s d g).objRec = s.objRec := rfl
@[simp] theorem modSwc_sesSel (s : State) (d : Die) (g : SwcState → SwcState) : (modSwc s d g).sesSel = s.sesSel := rfl
@[simp] theorem modSwc_sesRec (s : State) (d : Die) (g : SwcState → SwcState) : (modSwc s d g).sesRec = s.sesRec := rfl
@[simp] theorem modSwc_mem (s : State) (d : Die) (g : SwcState → SwcState) : (modSwc s d g).mem = s.mem := rfl
@[simp] theorem modSwc_poison (s : State) (d : Die) (g : SwcState → SwcState) : (modSwc s d g).poison = s.poison := rfl
@[simp] theorem modSwc_freeCtr (s : State) (d : Die) (g : SwcState → SwcState) : (modSwc s d g).freeCtr = s.freeCtr := rfl

/-! modHome -/

@[simp] theorem modHome_pending (s : State) (d : Die) (g : HomeState → HomeState) : (modHome s d g).pending = s.pending := rfl
@[simp] theorem modHome_cfg (s : State) (d : Die) (g : HomeState → HomeState) : (modHome s d g).cfg = s.cfg := rfl
@[simp] theorem modHome_lft (s : State) (d : Die) (g : HomeState → HomeState) : (modHome s d g).lft = s.lft := rfl
@[simp] theorem modHome_swc (s : State) (d : Die) (g : HomeState → HomeState) : (modHome s d g).swc = s.swc := rfl
@[simp] theorem modHome_home (s : State) (d : Die) (g : HomeState → HomeState) : (modHome s d g).home = upd s.home d g := rfl
@[simp] theorem modHome_coh (s : State) (d : Die) (g : HomeState → HomeState) : (modHome s d g).coh = s.coh := rfl
@[simp] theorem modHome_tier (s : State) (d : Die) (g : HomeState → HomeState) : (modHome s d g).tier = s.tier := rfl
@[simp] theorem modHome_exts (s : State) (d : Die) (g : HomeState → HomeState) : (modHome s d g).exts = s.exts := rfl
@[simp] theorem modHome_objs (s : State) (d : Die) (g : HomeState → HomeState) : (modHome s d g).objs = s.objs := rfl
@[simp] theorem modHome_gens (s : State) (d : Die) (g : HomeState → HomeState) : (modHome s d g).gens = s.gens := rfl
@[simp] theorem modHome_sessions (s : State) (d : Die) (g : HomeState → HomeState) : (modHome s d g).sessions = s.sessions := rfl
@[simp] theorem modHome_vols (s : State) (d : Die) (g : HomeState → HomeState) : (modHome s d g).vols = s.vols := rfl
@[simp] theorem modHome_ftl (s : State) (d : Die) (g : HomeState → HomeState) : (modHome s d g).ftl = s.ftl := rfl
@[simp] theorem modHome_pod (s : State) (d : Die) (g : HomeState → HomeState) : (modHome s d g).pod = s.pod := rfl
@[simp] theorem modHome_col (s : State) (d : Die) (g : HomeState → HomeState) : (modHome s d g).col = s.col := rfl
@[simp] theorem modHome_cmp (s : State) (d : Die) (g : HomeState → HomeState) : (modHome s d g).cmp = s.cmp := rfl
@[simp] theorem modHome_ctxs (s : State) (d : Die) (g : HomeState → HomeState) : (modHome s d g).ctxs = s.ctxs := rfl
@[simp] theorem modHome_ev (s : State) (d : Die) (g : HomeState → HomeState) : (modHome s d g).ev = s.ev := rfl
@[simp] theorem modHome_sec (s : State) (d : Die) (g : HomeState → HomeState) : (modHome s d g).sec = s.sec := rfl
@[simp] theorem modHome_mtr (s : State) (d : Die) (g : HomeState → HomeState) : (modHome s d g).mtr = s.mtr := rfl
@[simp] theorem modHome_flt (s : State) (d : Die) (g : HomeState → HomeState) : (modHome s d g).flt = s.flt := rfl
@[simp] theorem modHome_mod (s : State) (d : Die) (g : HomeState → HomeState) : (modHome s d g).mod = s.mod := rfl
@[simp] theorem modHome_extSel (s : State) (d : Die) (g : HomeState → HomeState) : (modHome s d g).extSel = s.extSel := rfl
@[simp] theorem modHome_extRec (s : State) (d : Die) (g : HomeState → HomeState) : (modHome s d g).extRec = s.extRec := rfl
@[simp] theorem modHome_objSel (s : State) (d : Die) (g : HomeState → HomeState) : (modHome s d g).objSel = s.objSel := rfl
@[simp] theorem modHome_objRec (s : State) (d : Die) (g : HomeState → HomeState) : (modHome s d g).objRec = s.objRec := rfl
@[simp] theorem modHome_sesSel (s : State) (d : Die) (g : HomeState → HomeState) : (modHome s d g).sesSel = s.sesSel := rfl
@[simp] theorem modHome_sesRec (s : State) (d : Die) (g : HomeState → HomeState) : (modHome s d g).sesRec = s.sesRec := rfl
@[simp] theorem modHome_mem (s : State) (d : Die) (g : HomeState → HomeState) : (modHome s d g).mem = s.mem := rfl
@[simp] theorem modHome_poison (s : State) (d : Die) (g : HomeState → HomeState) : (modHome s d g).poison = s.poison := rfl
@[simp] theorem modHome_freeCtr (s : State) (d : Die) (g : HomeState → HomeState) : (modHome s d g).freeCtr = s.freeCtr := rfl

/-! modCoh -/

@[simp] theorem modCoh_pending (s : State) (d : Die) (g : CohState → CohState) : (modCoh s d g).pending = s.pending := rfl
@[simp] theorem modCoh_cfg (s : State) (d : Die) (g : CohState → CohState) : (modCoh s d g).cfg = s.cfg := rfl
@[simp] theorem modCoh_lft (s : State) (d : Die) (g : CohState → CohState) : (modCoh s d g).lft = s.lft := rfl
@[simp] theorem modCoh_swc (s : State) (d : Die) (g : CohState → CohState) : (modCoh s d g).swc = s.swc := rfl
@[simp] theorem modCoh_home (s : State) (d : Die) (g : CohState → CohState) : (modCoh s d g).home = s.home := rfl
@[simp] theorem modCoh_coh (s : State) (d : Die) (g : CohState → CohState) : (modCoh s d g).coh = upd s.coh d g := rfl
@[simp] theorem modCoh_tier (s : State) (d : Die) (g : CohState → CohState) : (modCoh s d g).tier = s.tier := rfl
@[simp] theorem modCoh_exts (s : State) (d : Die) (g : CohState → CohState) : (modCoh s d g).exts = s.exts := rfl
@[simp] theorem modCoh_objs (s : State) (d : Die) (g : CohState → CohState) : (modCoh s d g).objs = s.objs := rfl
@[simp] theorem modCoh_gens (s : State) (d : Die) (g : CohState → CohState) : (modCoh s d g).gens = s.gens := rfl
@[simp] theorem modCoh_sessions (s : State) (d : Die) (g : CohState → CohState) : (modCoh s d g).sessions = s.sessions := rfl
@[simp] theorem modCoh_vols (s : State) (d : Die) (g : CohState → CohState) : (modCoh s d g).vols = s.vols := rfl
@[simp] theorem modCoh_ftl (s : State) (d : Die) (g : CohState → CohState) : (modCoh s d g).ftl = s.ftl := rfl
@[simp] theorem modCoh_pod (s : State) (d : Die) (g : CohState → CohState) : (modCoh s d g).pod = s.pod := rfl
@[simp] theorem modCoh_col (s : State) (d : Die) (g : CohState → CohState) : (modCoh s d g).col = s.col := rfl
@[simp] theorem modCoh_cmp (s : State) (d : Die) (g : CohState → CohState) : (modCoh s d g).cmp = s.cmp := rfl
@[simp] theorem modCoh_ctxs (s : State) (d : Die) (g : CohState → CohState) : (modCoh s d g).ctxs = s.ctxs := rfl
@[simp] theorem modCoh_ev (s : State) (d : Die) (g : CohState → CohState) : (modCoh s d g).ev = s.ev := rfl
@[simp] theorem modCoh_sec (s : State) (d : Die) (g : CohState → CohState) : (modCoh s d g).sec = s.sec := rfl
@[simp] theorem modCoh_mtr (s : State) (d : Die) (g : CohState → CohState) : (modCoh s d g).mtr = s.mtr := rfl
@[simp] theorem modCoh_flt (s : State) (d : Die) (g : CohState → CohState) : (modCoh s d g).flt = s.flt := rfl
@[simp] theorem modCoh_mod (s : State) (d : Die) (g : CohState → CohState) : (modCoh s d g).mod = s.mod := rfl
@[simp] theorem modCoh_extSel (s : State) (d : Die) (g : CohState → CohState) : (modCoh s d g).extSel = s.extSel := rfl
@[simp] theorem modCoh_extRec (s : State) (d : Die) (g : CohState → CohState) : (modCoh s d g).extRec = s.extRec := rfl
@[simp] theorem modCoh_objSel (s : State) (d : Die) (g : CohState → CohState) : (modCoh s d g).objSel = s.objSel := rfl
@[simp] theorem modCoh_objRec (s : State) (d : Die) (g : CohState → CohState) : (modCoh s d g).objRec = s.objRec := rfl
@[simp] theorem modCoh_sesSel (s : State) (d : Die) (g : CohState → CohState) : (modCoh s d g).sesSel = s.sesSel := rfl
@[simp] theorem modCoh_sesRec (s : State) (d : Die) (g : CohState → CohState) : (modCoh s d g).sesRec = s.sesRec := rfl
@[simp] theorem modCoh_mem (s : State) (d : Die) (g : CohState → CohState) : (modCoh s d g).mem = s.mem := rfl
@[simp] theorem modCoh_poison (s : State) (d : Die) (g : CohState → CohState) : (modCoh s d g).poison = s.poison := rfl
@[simp] theorem modCoh_freeCtr (s : State) (d : Die) (g : CohState → CohState) : (modCoh s d g).freeCtr = s.freeCtr := rfl

/-! modTier -/

@[simp] theorem modTier_pending (s : State) (d : Die) (g : TierState → TierState) : (modTier s d g).pending = s.pending := rfl
@[simp] theorem modTier_cfg (s : State) (d : Die) (g : TierState → TierState) : (modTier s d g).cfg = s.cfg := rfl
@[simp] theorem modTier_lft (s : State) (d : Die) (g : TierState → TierState) : (modTier s d g).lft = s.lft := rfl
@[simp] theorem modTier_swc (s : State) (d : Die) (g : TierState → TierState) : (modTier s d g).swc = s.swc := rfl
@[simp] theorem modTier_home (s : State) (d : Die) (g : TierState → TierState) : (modTier s d g).home = s.home := rfl
@[simp] theorem modTier_coh (s : State) (d : Die) (g : TierState → TierState) : (modTier s d g).coh = s.coh := rfl
@[simp] theorem modTier_tier (s : State) (d : Die) (g : TierState → TierState) : (modTier s d g).tier = upd s.tier d g := rfl
@[simp] theorem modTier_exts (s : State) (d : Die) (g : TierState → TierState) : (modTier s d g).exts = s.exts := rfl
@[simp] theorem modTier_objs (s : State) (d : Die) (g : TierState → TierState) : (modTier s d g).objs = s.objs := rfl
@[simp] theorem modTier_gens (s : State) (d : Die) (g : TierState → TierState) : (modTier s d g).gens = s.gens := rfl
@[simp] theorem modTier_sessions (s : State) (d : Die) (g : TierState → TierState) : (modTier s d g).sessions = s.sessions := rfl
@[simp] theorem modTier_vols (s : State) (d : Die) (g : TierState → TierState) : (modTier s d g).vols = s.vols := rfl
@[simp] theorem modTier_ftl (s : State) (d : Die) (g : TierState → TierState) : (modTier s d g).ftl = s.ftl := rfl
@[simp] theorem modTier_pod (s : State) (d : Die) (g : TierState → TierState) : (modTier s d g).pod = s.pod := rfl
@[simp] theorem modTier_col (s : State) (d : Die) (g : TierState → TierState) : (modTier s d g).col = s.col := rfl
@[simp] theorem modTier_cmp (s : State) (d : Die) (g : TierState → TierState) : (modTier s d g).cmp = s.cmp := rfl
@[simp] theorem modTier_ctxs (s : State) (d : Die) (g : TierState → TierState) : (modTier s d g).ctxs = s.ctxs := rfl
@[simp] theorem modTier_ev (s : State) (d : Die) (g : TierState → TierState) : (modTier s d g).ev = s.ev := rfl
@[simp] theorem modTier_sec (s : State) (d : Die) (g : TierState → TierState) : (modTier s d g).sec = s.sec := rfl
@[simp] theorem modTier_mtr (s : State) (d : Die) (g : TierState → TierState) : (modTier s d g).mtr = s.mtr := rfl
@[simp] theorem modTier_flt (s : State) (d : Die) (g : TierState → TierState) : (modTier s d g).flt = s.flt := rfl
@[simp] theorem modTier_mod (s : State) (d : Die) (g : TierState → TierState) : (modTier s d g).mod = s.mod := rfl
@[simp] theorem modTier_extSel (s : State) (d : Die) (g : TierState → TierState) : (modTier s d g).extSel = s.extSel := rfl
@[simp] theorem modTier_extRec (s : State) (d : Die) (g : TierState → TierState) : (modTier s d g).extRec = s.extRec := rfl
@[simp] theorem modTier_objSel (s : State) (d : Die) (g : TierState → TierState) : (modTier s d g).objSel = s.objSel := rfl
@[simp] theorem modTier_objRec (s : State) (d : Die) (g : TierState → TierState) : (modTier s d g).objRec = s.objRec := rfl
@[simp] theorem modTier_sesSel (s : State) (d : Die) (g : TierState → TierState) : (modTier s d g).sesSel = s.sesSel := rfl
@[simp] theorem modTier_sesRec (s : State) (d : Die) (g : TierState → TierState) : (modTier s d g).sesRec = s.sesRec := rfl
@[simp] theorem modTier_mem (s : State) (d : Die) (g : TierState → TierState) : (modTier s d g).mem = s.mem := rfl
@[simp] theorem modTier_poison (s : State) (d : Die) (g : TierState → TierState) : (modTier s d g).poison = s.poison := rfl
@[simp] theorem modTier_freeCtr (s : State) (d : Die) (g : TierState → TierState) : (modTier s d g).freeCtr = s.freeCtr := rfl

/-! modFtl -/

@[simp] theorem modFtl_pending (s : State) (d : Die) (g : FtlState → FtlState) : (modFtl s d g).pending = s.pending := rfl
@[simp] theorem modFtl_cfg (s : State) (d : Die) (g : FtlState → FtlState) : (modFtl s d g).cfg = s.cfg := rfl
@[simp] theorem modFtl_lft (s : State) (d : Die) (g : FtlState → FtlState) : (modFtl s d g).lft = s.lft := rfl
@[simp] theorem modFtl_swc (s : State) (d : Die) (g : FtlState → FtlState) : (modFtl s d g).swc = s.swc := rfl
@[simp] theorem modFtl_home (s : State) (d : Die) (g : FtlState → FtlState) : (modFtl s d g).home = s.home := rfl
@[simp] theorem modFtl_coh (s : State) (d : Die) (g : FtlState → FtlState) : (modFtl s d g).coh = s.coh := rfl
@[simp] theorem modFtl_tier (s : State) (d : Die) (g : FtlState → FtlState) : (modFtl s d g).tier = s.tier := rfl
@[simp] theorem modFtl_exts (s : State) (d : Die) (g : FtlState → FtlState) : (modFtl s d g).exts = s.exts := rfl
@[simp] theorem modFtl_objs (s : State) (d : Die) (g : FtlState → FtlState) : (modFtl s d g).objs = s.objs := rfl
@[simp] theorem modFtl_gens (s : State) (d : Die) (g : FtlState → FtlState) : (modFtl s d g).gens = s.gens := rfl
@[simp] theorem modFtl_sessions (s : State) (d : Die) (g : FtlState → FtlState) : (modFtl s d g).sessions = s.sessions := rfl
@[simp] theorem modFtl_vols (s : State) (d : Die) (g : FtlState → FtlState) : (modFtl s d g).vols = s.vols := rfl
@[simp] theorem modFtl_ftl (s : State) (d : Die) (g : FtlState → FtlState) : (modFtl s d g).ftl = upd s.ftl d g := rfl
@[simp] theorem modFtl_pod (s : State) (d : Die) (g : FtlState → FtlState) : (modFtl s d g).pod = s.pod := rfl
@[simp] theorem modFtl_col (s : State) (d : Die) (g : FtlState → FtlState) : (modFtl s d g).col = s.col := rfl
@[simp] theorem modFtl_cmp (s : State) (d : Die) (g : FtlState → FtlState) : (modFtl s d g).cmp = s.cmp := rfl
@[simp] theorem modFtl_ctxs (s : State) (d : Die) (g : FtlState → FtlState) : (modFtl s d g).ctxs = s.ctxs := rfl
@[simp] theorem modFtl_ev (s : State) (d : Die) (g : FtlState → FtlState) : (modFtl s d g).ev = s.ev := rfl
@[simp] theorem modFtl_sec (s : State) (d : Die) (g : FtlState → FtlState) : (modFtl s d g).sec = s.sec := rfl
@[simp] theorem modFtl_mtr (s : State) (d : Die) (g : FtlState → FtlState) : (modFtl s d g).mtr = s.mtr := rfl
@[simp] theorem modFtl_flt (s : State) (d : Die) (g : FtlState → FtlState) : (modFtl s d g).flt = s.flt := rfl
@[simp] theorem modFtl_mod (s : State) (d : Die) (g : FtlState → FtlState) : (modFtl s d g).mod = s.mod := rfl
@[simp] theorem modFtl_extSel (s : State) (d : Die) (g : FtlState → FtlState) : (modFtl s d g).extSel = s.extSel := rfl
@[simp] theorem modFtl_extRec (s : State) (d : Die) (g : FtlState → FtlState) : (modFtl s d g).extRec = s.extRec := rfl
@[simp] theorem modFtl_objSel (s : State) (d : Die) (g : FtlState → FtlState) : (modFtl s d g).objSel = s.objSel := rfl
@[simp] theorem modFtl_objRec (s : State) (d : Die) (g : FtlState → FtlState) : (modFtl s d g).objRec = s.objRec := rfl
@[simp] theorem modFtl_sesSel (s : State) (d : Die) (g : FtlState → FtlState) : (modFtl s d g).sesSel = s.sesSel := rfl
@[simp] theorem modFtl_sesRec (s : State) (d : Die) (g : FtlState → FtlState) : (modFtl s d g).sesRec = s.sesRec := rfl
@[simp] theorem modFtl_mem (s : State) (d : Die) (g : FtlState → FtlState) : (modFtl s d g).mem = s.mem := rfl
@[simp] theorem modFtl_poison (s : State) (d : Die) (g : FtlState → FtlState) : (modFtl s d g).poison = s.poison := rfl
@[simp] theorem modFtl_freeCtr (s : State) (d : Die) (g : FtlState → FtlState) : (modFtl s d g).freeCtr = s.freeCtr := rfl

/-! modPod -/

@[simp] theorem modPod_pending (s : State) (d : Die) (g : PodState → PodState) : (modPod s d g).pending = s.pending := rfl
@[simp] theorem modPod_cfg (s : State) (d : Die) (g : PodState → PodState) : (modPod s d g).cfg = s.cfg := rfl
@[simp] theorem modPod_lft (s : State) (d : Die) (g : PodState → PodState) : (modPod s d g).lft = s.lft := rfl
@[simp] theorem modPod_swc (s : State) (d : Die) (g : PodState → PodState) : (modPod s d g).swc = s.swc := rfl
@[simp] theorem modPod_home (s : State) (d : Die) (g : PodState → PodState) : (modPod s d g).home = s.home := rfl
@[simp] theorem modPod_coh (s : State) (d : Die) (g : PodState → PodState) : (modPod s d g).coh = s.coh := rfl
@[simp] theorem modPod_tier (s : State) (d : Die) (g : PodState → PodState) : (modPod s d g).tier = s.tier := rfl
@[simp] theorem modPod_exts (s : State) (d : Die) (g : PodState → PodState) : (modPod s d g).exts = s.exts := rfl
@[simp] theorem modPod_objs (s : State) (d : Die) (g : PodState → PodState) : (modPod s d g).objs = s.objs := rfl
@[simp] theorem modPod_gens (s : State) (d : Die) (g : PodState → PodState) : (modPod s d g).gens = s.gens := rfl
@[simp] theorem modPod_sessions (s : State) (d : Die) (g : PodState → PodState) : (modPod s d g).sessions = s.sessions := rfl
@[simp] theorem modPod_vols (s : State) (d : Die) (g : PodState → PodState) : (modPod s d g).vols = s.vols := rfl
@[simp] theorem modPod_ftl (s : State) (d : Die) (g : PodState → PodState) : (modPod s d g).ftl = s.ftl := rfl
@[simp] theorem modPod_pod (s : State) (d : Die) (g : PodState → PodState) : (modPod s d g).pod = upd s.pod d g := rfl
@[simp] theorem modPod_col (s : State) (d : Die) (g : PodState → PodState) : (modPod s d g).col = s.col := rfl
@[simp] theorem modPod_cmp (s : State) (d : Die) (g : PodState → PodState) : (modPod s d g).cmp = s.cmp := rfl
@[simp] theorem modPod_ctxs (s : State) (d : Die) (g : PodState → PodState) : (modPod s d g).ctxs = s.ctxs := rfl
@[simp] theorem modPod_ev (s : State) (d : Die) (g : PodState → PodState) : (modPod s d g).ev = s.ev := rfl
@[simp] theorem modPod_sec (s : State) (d : Die) (g : PodState → PodState) : (modPod s d g).sec = s.sec := rfl
@[simp] theorem modPod_mtr (s : State) (d : Die) (g : PodState → PodState) : (modPod s d g).mtr = s.mtr := rfl
@[simp] theorem modPod_flt (s : State) (d : Die) (g : PodState → PodState) : (modPod s d g).flt = s.flt := rfl
@[simp] theorem modPod_mod (s : State) (d : Die) (g : PodState → PodState) : (modPod s d g).mod = s.mod := rfl
@[simp] theorem modPod_extSel (s : State) (d : Die) (g : PodState → PodState) : (modPod s d g).extSel = s.extSel := rfl
@[simp] theorem modPod_extRec (s : State) (d : Die) (g : PodState → PodState) : (modPod s d g).extRec = s.extRec := rfl
@[simp] theorem modPod_objSel (s : State) (d : Die) (g : PodState → PodState) : (modPod s d g).objSel = s.objSel := rfl
@[simp] theorem modPod_objRec (s : State) (d : Die) (g : PodState → PodState) : (modPod s d g).objRec = s.objRec := rfl
@[simp] theorem modPod_sesSel (s : State) (d : Die) (g : PodState → PodState) : (modPod s d g).sesSel = s.sesSel := rfl
@[simp] theorem modPod_sesRec (s : State) (d : Die) (g : PodState → PodState) : (modPod s d g).sesRec = s.sesRec := rfl
@[simp] theorem modPod_mem (s : State) (d : Die) (g : PodState → PodState) : (modPod s d g).mem = s.mem := rfl
@[simp] theorem modPod_poison (s : State) (d : Die) (g : PodState → PodState) : (modPod s d g).poison = s.poison := rfl
@[simp] theorem modPod_freeCtr (s : State) (d : Die) (g : PodState → PodState) : (modPod s d g).freeCtr = s.freeCtr := rfl

/-! modCol -/

@[simp] theorem modCol_pending (s : State) (d : Die) (g : ColState → ColState) : (modCol s d g).pending = s.pending := rfl
@[simp] theorem modCol_cfg (s : State) (d : Die) (g : ColState → ColState) : (modCol s d g).cfg = s.cfg := rfl
@[simp] theorem modCol_lft (s : State) (d : Die) (g : ColState → ColState) : (modCol s d g).lft = s.lft := rfl
@[simp] theorem modCol_swc (s : State) (d : Die) (g : ColState → ColState) : (modCol s d g).swc = s.swc := rfl
@[simp] theorem modCol_home (s : State) (d : Die) (g : ColState → ColState) : (modCol s d g).home = s.home := rfl
@[simp] theorem modCol_coh (s : State) (d : Die) (g : ColState → ColState) : (modCol s d g).coh = s.coh := rfl
@[simp] theorem modCol_tier (s : State) (d : Die) (g : ColState → ColState) : (modCol s d g).tier = s.tier := rfl
@[simp] theorem modCol_exts (s : State) (d : Die) (g : ColState → ColState) : (modCol s d g).exts = s.exts := rfl
@[simp] theorem modCol_objs (s : State) (d : Die) (g : ColState → ColState) : (modCol s d g).objs = s.objs := rfl
@[simp] theorem modCol_gens (s : State) (d : Die) (g : ColState → ColState) : (modCol s d g).gens = s.gens := rfl
@[simp] theorem modCol_sessions (s : State) (d : Die) (g : ColState → ColState) : (modCol s d g).sessions = s.sessions := rfl
@[simp] theorem modCol_vols (s : State) (d : Die) (g : ColState → ColState) : (modCol s d g).vols = s.vols := rfl
@[simp] theorem modCol_ftl (s : State) (d : Die) (g : ColState → ColState) : (modCol s d g).ftl = s.ftl := rfl
@[simp] theorem modCol_pod (s : State) (d : Die) (g : ColState → ColState) : (modCol s d g).pod = s.pod := rfl
@[simp] theorem modCol_col (s : State) (d : Die) (g : ColState → ColState) : (modCol s d g).col = upd s.col d g := rfl
@[simp] theorem modCol_cmp (s : State) (d : Die) (g : ColState → ColState) : (modCol s d g).cmp = s.cmp := rfl
@[simp] theorem modCol_ctxs (s : State) (d : Die) (g : ColState → ColState) : (modCol s d g).ctxs = s.ctxs := rfl
@[simp] theorem modCol_ev (s : State) (d : Die) (g : ColState → ColState) : (modCol s d g).ev = s.ev := rfl
@[simp] theorem modCol_sec (s : State) (d : Die) (g : ColState → ColState) : (modCol s d g).sec = s.sec := rfl
@[simp] theorem modCol_mtr (s : State) (d : Die) (g : ColState → ColState) : (modCol s d g).mtr = s.mtr := rfl
@[simp] theorem modCol_flt (s : State) (d : Die) (g : ColState → ColState) : (modCol s d g).flt = s.flt := rfl
@[simp] theorem modCol_mod (s : State) (d : Die) (g : ColState → ColState) : (modCol s d g).mod = s.mod := rfl
@[simp] theorem modCol_extSel (s : State) (d : Die) (g : ColState → ColState) : (modCol s d g).extSel = s.extSel := rfl
@[simp] theorem modCol_extRec (s : State) (d : Die) (g : ColState → ColState) : (modCol s d g).extRec = s.extRec := rfl
@[simp] theorem modCol_objSel (s : State) (d : Die) (g : ColState → ColState) : (modCol s d g).objSel = s.objSel := rfl
@[simp] theorem modCol_objRec (s : State) (d : Die) (g : ColState → ColState) : (modCol s d g).objRec = s.objRec := rfl
@[simp] theorem modCol_sesSel (s : State) (d : Die) (g : ColState → ColState) : (modCol s d g).sesSel = s.sesSel := rfl
@[simp] theorem modCol_sesRec (s : State) (d : Die) (g : ColState → ColState) : (modCol s d g).sesRec = s.sesRec := rfl
@[simp] theorem modCol_mem (s : State) (d : Die) (g : ColState → ColState) : (modCol s d g).mem = s.mem := rfl
@[simp] theorem modCol_poison (s : State) (d : Die) (g : ColState → ColState) : (modCol s d g).poison = s.poison := rfl
@[simp] theorem modCol_freeCtr (s : State) (d : Die) (g : ColState → ColState) : (modCol s d g).freeCtr = s.freeCtr := rfl

/-! modEv -/

@[simp] theorem modEv_pending (s : State) (d : Die) (g : EvState → EvState) : (modEv s d g).pending = s.pending := rfl
@[simp] theorem modEv_cfg (s : State) (d : Die) (g : EvState → EvState) : (modEv s d g).cfg = s.cfg := rfl
@[simp] theorem modEv_lft (s : State) (d : Die) (g : EvState → EvState) : (modEv s d g).lft = s.lft := rfl
@[simp] theorem modEv_swc (s : State) (d : Die) (g : EvState → EvState) : (modEv s d g).swc = s.swc := rfl
@[simp] theorem modEv_home (s : State) (d : Die) (g : EvState → EvState) : (modEv s d g).home = s.home := rfl
@[simp] theorem modEv_coh (s : State) (d : Die) (g : EvState → EvState) : (modEv s d g).coh = s.coh := rfl
@[simp] theorem modEv_tier (s : State) (d : Die) (g : EvState → EvState) : (modEv s d g).tier = s.tier := rfl
@[simp] theorem modEv_exts (s : State) (d : Die) (g : EvState → EvState) : (modEv s d g).exts = s.exts := rfl
@[simp] theorem modEv_objs (s : State) (d : Die) (g : EvState → EvState) : (modEv s d g).objs = s.objs := rfl
@[simp] theorem modEv_gens (s : State) (d : Die) (g : EvState → EvState) : (modEv s d g).gens = s.gens := rfl
@[simp] theorem modEv_sessions (s : State) (d : Die) (g : EvState → EvState) : (modEv s d g).sessions = s.sessions := rfl
@[simp] theorem modEv_vols (s : State) (d : Die) (g : EvState → EvState) : (modEv s d g).vols = s.vols := rfl
@[simp] theorem modEv_ftl (s : State) (d : Die) (g : EvState → EvState) : (modEv s d g).ftl = s.ftl := rfl
@[simp] theorem modEv_pod (s : State) (d : Die) (g : EvState → EvState) : (modEv s d g).pod = s.pod := rfl
@[simp] theorem modEv_col (s : State) (d : Die) (g : EvState → EvState) : (modEv s d g).col = s.col := rfl
@[simp] theorem modEv_cmp (s : State) (d : Die) (g : EvState → EvState) : (modEv s d g).cmp = s.cmp := rfl
@[simp] theorem modEv_ctxs (s : State) (d : Die) (g : EvState → EvState) : (modEv s d g).ctxs = s.ctxs := rfl
@[simp] theorem modEv_ev (s : State) (d : Die) (g : EvState → EvState) : (modEv s d g).ev = upd s.ev d g := rfl
@[simp] theorem modEv_sec (s : State) (d : Die) (g : EvState → EvState) : (modEv s d g).sec = s.sec := rfl
@[simp] theorem modEv_mtr (s : State) (d : Die) (g : EvState → EvState) : (modEv s d g).mtr = s.mtr := rfl
@[simp] theorem modEv_flt (s : State) (d : Die) (g : EvState → EvState) : (modEv s d g).flt = s.flt := rfl
@[simp] theorem modEv_mod (s : State) (d : Die) (g : EvState → EvState) : (modEv s d g).mod = s.mod := rfl
@[simp] theorem modEv_extSel (s : State) (d : Die) (g : EvState → EvState) : (modEv s d g).extSel = s.extSel := rfl
@[simp] theorem modEv_extRec (s : State) (d : Die) (g : EvState → EvState) : (modEv s d g).extRec = s.extRec := rfl
@[simp] theorem modEv_objSel (s : State) (d : Die) (g : EvState → EvState) : (modEv s d g).objSel = s.objSel := rfl
@[simp] theorem modEv_objRec (s : State) (d : Die) (g : EvState → EvState) : (modEv s d g).objRec = s.objRec := rfl
@[simp] theorem modEv_sesSel (s : State) (d : Die) (g : EvState → EvState) : (modEv s d g).sesSel = s.sesSel := rfl
@[simp] theorem modEv_sesRec (s : State) (d : Die) (g : EvState → EvState) : (modEv s d g).sesRec = s.sesRec := rfl
@[simp] theorem modEv_mem (s : State) (d : Die) (g : EvState → EvState) : (modEv s d g).mem = s.mem := rfl
@[simp] theorem modEv_poison (s : State) (d : Die) (g : EvState → EvState) : (modEv s d g).poison = s.poison := rfl
@[simp] theorem modEv_freeCtr (s : State) (d : Die) (g : EvState → EvState) : (modEv s d g).freeCtr = s.freeCtr := rfl

/-! modSec -/

@[simp] theorem modSec_pending (s : State) (g : SecState → SecState) : (modSec s g).pending = s.pending := rfl
@[simp] theorem modSec_cfg (s : State) (g : SecState → SecState) : (modSec s g).cfg = s.cfg := rfl
@[simp] theorem modSec_lft (s : State) (g : SecState → SecState) : (modSec s g).lft = s.lft := rfl
@[simp] theorem modSec_swc (s : State) (g : SecState → SecState) : (modSec s g).swc = s.swc := rfl
@[simp] theorem modSec_home (s : State) (g : SecState → SecState) : (modSec s g).home = s.home := rfl
@[simp] theorem modSec_coh (s : State) (g : SecState → SecState) : (modSec s g).coh = s.coh := rfl
@[simp] theorem modSec_tier (s : State) (g : SecState → SecState) : (modSec s g).tier = s.tier := rfl
@[simp] theorem modSec_exts (s : State) (g : SecState → SecState) : (modSec s g).exts = s.exts := rfl
@[simp] theorem modSec_objs (s : State) (g : SecState → SecState) : (modSec s g).objs = s.objs := rfl
@[simp] theorem modSec_gens (s : State) (g : SecState → SecState) : (modSec s g).gens = s.gens := rfl
@[simp] theorem modSec_sessions (s : State) (g : SecState → SecState) : (modSec s g).sessions = s.sessions := rfl
@[simp] theorem modSec_vols (s : State) (g : SecState → SecState) : (modSec s g).vols = s.vols := rfl
@[simp] theorem modSec_ftl (s : State) (g : SecState → SecState) : (modSec s g).ftl = s.ftl := rfl
@[simp] theorem modSec_pod (s : State) (g : SecState → SecState) : (modSec s g).pod = s.pod := rfl
@[simp] theorem modSec_col (s : State) (g : SecState → SecState) : (modSec s g).col = s.col := rfl
@[simp] theorem modSec_cmp (s : State) (g : SecState → SecState) : (modSec s g).cmp = s.cmp := rfl
@[simp] theorem modSec_ctxs (s : State) (g : SecState → SecState) : (modSec s g).ctxs = s.ctxs := rfl
@[simp] theorem modSec_ev (s : State) (g : SecState → SecState) : (modSec s g).ev = s.ev := rfl
@[simp] theorem modSec_sec (s : State) (g : SecState → SecState) : (modSec s g).sec = g s.sec := rfl
@[simp] theorem modSec_mtr (s : State) (g : SecState → SecState) : (modSec s g).mtr = s.mtr := rfl
@[simp] theorem modSec_flt (s : State) (g : SecState → SecState) : (modSec s g).flt = s.flt := rfl
@[simp] theorem modSec_mod (s : State) (g : SecState → SecState) : (modSec s g).mod = s.mod := rfl
@[simp] theorem modSec_extSel (s : State) (g : SecState → SecState) : (modSec s g).extSel = s.extSel := rfl
@[simp] theorem modSec_extRec (s : State) (g : SecState → SecState) : (modSec s g).extRec = s.extRec := rfl
@[simp] theorem modSec_objSel (s : State) (g : SecState → SecState) : (modSec s g).objSel = s.objSel := rfl
@[simp] theorem modSec_objRec (s : State) (g : SecState → SecState) : (modSec s g).objRec = s.objRec := rfl
@[simp] theorem modSec_sesSel (s : State) (g : SecState → SecState) : (modSec s g).sesSel = s.sesSel := rfl
@[simp] theorem modSec_sesRec (s : State) (g : SecState → SecState) : (modSec s g).sesRec = s.sesRec := rfl
@[simp] theorem modSec_mem (s : State) (g : SecState → SecState) : (modSec s g).mem = s.mem := rfl
@[simp] theorem modSec_poison (s : State) (g : SecState → SecState) : (modSec s g).poison = s.poison := rfl
@[simp] theorem modSec_freeCtr (s : State) (g : SecState → SecState) : (modSec s g).freeCtr = s.freeCtr := rfl

/-! modMtr -/

@[simp] theorem modMtr_pending (s : State) (g : MtrState → MtrState) : (modMtr s g).pending = s.pending := rfl
@[simp] theorem modMtr_cfg (s : State) (g : MtrState → MtrState) : (modMtr s g).cfg = s.cfg := rfl
@[simp] theorem modMtr_lft (s : State) (g : MtrState → MtrState) : (modMtr s g).lft = s.lft := rfl
@[simp] theorem modMtr_swc (s : State) (g : MtrState → MtrState) : (modMtr s g).swc = s.swc := rfl
@[simp] theorem modMtr_home (s : State) (g : MtrState → MtrState) : (modMtr s g).home = s.home := rfl
@[simp] theorem modMtr_coh (s : State) (g : MtrState → MtrState) : (modMtr s g).coh = s.coh := rfl
@[simp] theorem modMtr_tier (s : State) (g : MtrState → MtrState) : (modMtr s g).tier = s.tier := rfl
@[simp] theorem modMtr_exts (s : State) (g : MtrState → MtrState) : (modMtr s g).exts = s.exts := rfl
@[simp] theorem modMtr_objs (s : State) (g : MtrState → MtrState) : (modMtr s g).objs = s.objs := rfl
@[simp] theorem modMtr_gens (s : State) (g : MtrState → MtrState) : (modMtr s g).gens = s.gens := rfl
@[simp] theorem modMtr_sessions (s : State) (g : MtrState → MtrState) : (modMtr s g).sessions = s.sessions := rfl
@[simp] theorem modMtr_vols (s : State) (g : MtrState → MtrState) : (modMtr s g).vols = s.vols := rfl
@[simp] theorem modMtr_ftl (s : State) (g : MtrState → MtrState) : (modMtr s g).ftl = s.ftl := rfl
@[simp] theorem modMtr_pod (s : State) (g : MtrState → MtrState) : (modMtr s g).pod = s.pod := rfl
@[simp] theorem modMtr_col (s : State) (g : MtrState → MtrState) : (modMtr s g).col = s.col := rfl
@[simp] theorem modMtr_cmp (s : State) (g : MtrState → MtrState) : (modMtr s g).cmp = s.cmp := rfl
@[simp] theorem modMtr_ctxs (s : State) (g : MtrState → MtrState) : (modMtr s g).ctxs = s.ctxs := rfl
@[simp] theorem modMtr_ev (s : State) (g : MtrState → MtrState) : (modMtr s g).ev = s.ev := rfl
@[simp] theorem modMtr_sec (s : State) (g : MtrState → MtrState) : (modMtr s g).sec = s.sec := rfl
@[simp] theorem modMtr_mtr (s : State) (g : MtrState → MtrState) : (modMtr s g).mtr = g s.mtr := rfl
@[simp] theorem modMtr_flt (s : State) (g : MtrState → MtrState) : (modMtr s g).flt = s.flt := rfl
@[simp] theorem modMtr_mod (s : State) (g : MtrState → MtrState) : (modMtr s g).mod = s.mod := rfl
@[simp] theorem modMtr_extSel (s : State) (g : MtrState → MtrState) : (modMtr s g).extSel = s.extSel := rfl
@[simp] theorem modMtr_extRec (s : State) (g : MtrState → MtrState) : (modMtr s g).extRec = s.extRec := rfl
@[simp] theorem modMtr_objSel (s : State) (g : MtrState → MtrState) : (modMtr s g).objSel = s.objSel := rfl
@[simp] theorem modMtr_objRec (s : State) (g : MtrState → MtrState) : (modMtr s g).objRec = s.objRec := rfl
@[simp] theorem modMtr_sesSel (s : State) (g : MtrState → MtrState) : (modMtr s g).sesSel = s.sesSel := rfl
@[simp] theorem modMtr_sesRec (s : State) (g : MtrState → MtrState) : (modMtr s g).sesRec = s.sesRec := rfl
@[simp] theorem modMtr_mem (s : State) (g : MtrState → MtrState) : (modMtr s g).mem = s.mem := rfl
@[simp] theorem modMtr_poison (s : State) (g : MtrState → MtrState) : (modMtr s g).poison = s.poison := rfl
@[simp] theorem modMtr_freeCtr (s : State) (g : MtrState → MtrState) : (modMtr s g).freeCtr = s.freeCtr := rfl

/-! modFlt -/

@[simp] theorem modFlt_pending (s : State) (g : FltState → FltState) : (modFlt s g).pending = s.pending := rfl
@[simp] theorem modFlt_cfg (s : State) (g : FltState → FltState) : (modFlt s g).cfg = s.cfg := rfl
@[simp] theorem modFlt_lft (s : State) (g : FltState → FltState) : (modFlt s g).lft = s.lft := rfl
@[simp] theorem modFlt_swc (s : State) (g : FltState → FltState) : (modFlt s g).swc = s.swc := rfl
@[simp] theorem modFlt_home (s : State) (g : FltState → FltState) : (modFlt s g).home = s.home := rfl
@[simp] theorem modFlt_coh (s : State) (g : FltState → FltState) : (modFlt s g).coh = s.coh := rfl
@[simp] theorem modFlt_tier (s : State) (g : FltState → FltState) : (modFlt s g).tier = s.tier := rfl
@[simp] theorem modFlt_exts (s : State) (g : FltState → FltState) : (modFlt s g).exts = s.exts := rfl
@[simp] theorem modFlt_objs (s : State) (g : FltState → FltState) : (modFlt s g).objs = s.objs := rfl
@[simp] theorem modFlt_gens (s : State) (g : FltState → FltState) : (modFlt s g).gens = s.gens := rfl
@[simp] theorem modFlt_sessions (s : State) (g : FltState → FltState) : (modFlt s g).sessions = s.sessions := rfl
@[simp] theorem modFlt_vols (s : State) (g : FltState → FltState) : (modFlt s g).vols = s.vols := rfl
@[simp] theorem modFlt_ftl (s : State) (g : FltState → FltState) : (modFlt s g).ftl = s.ftl := rfl
@[simp] theorem modFlt_pod (s : State) (g : FltState → FltState) : (modFlt s g).pod = s.pod := rfl
@[simp] theorem modFlt_col (s : State) (g : FltState → FltState) : (modFlt s g).col = s.col := rfl
@[simp] theorem modFlt_cmp (s : State) (g : FltState → FltState) : (modFlt s g).cmp = s.cmp := rfl
@[simp] theorem modFlt_ctxs (s : State) (g : FltState → FltState) : (modFlt s g).ctxs = s.ctxs := rfl
@[simp] theorem modFlt_ev (s : State) (g : FltState → FltState) : (modFlt s g).ev = s.ev := rfl
@[simp] theorem modFlt_sec (s : State) (g : FltState → FltState) : (modFlt s g).sec = s.sec := rfl
@[simp] theorem modFlt_mtr (s : State) (g : FltState → FltState) : (modFlt s g).mtr = s.mtr := rfl
@[simp] theorem modFlt_flt (s : State) (g : FltState → FltState) : (modFlt s g).flt = g s.flt := rfl
@[simp] theorem modFlt_mod (s : State) (g : FltState → FltState) : (modFlt s g).mod = s.mod := rfl
@[simp] theorem modFlt_extSel (s : State) (g : FltState → FltState) : (modFlt s g).extSel = s.extSel := rfl
@[simp] theorem modFlt_extRec (s : State) (g : FltState → FltState) : (modFlt s g).extRec = s.extRec := rfl
@[simp] theorem modFlt_objSel (s : State) (g : FltState → FltState) : (modFlt s g).objSel = s.objSel := rfl
@[simp] theorem modFlt_objRec (s : State) (g : FltState → FltState) : (modFlt s g).objRec = s.objRec := rfl
@[simp] theorem modFlt_sesSel (s : State) (g : FltState → FltState) : (modFlt s g).sesSel = s.sesSel := rfl
@[simp] theorem modFlt_sesRec (s : State) (g : FltState → FltState) : (modFlt s g).sesRec = s.sesRec := rfl
@[simp] theorem modFlt_mem (s : State) (g : FltState → FltState) : (modFlt s g).mem = s.mem := rfl
@[simp] theorem modFlt_poison (s : State) (g : FltState → FltState) : (modFlt s g).poison = s.poison := rfl
@[simp] theorem modFlt_freeCtr (s : State) (g : FltState → FltState) : (modFlt s g).freeCtr = s.freeCtr := rfl

/-! modMod -/

@[simp] theorem modMod_pending (s : State) (g : ModState → ModState) : (modMod s g).pending = s.pending := rfl
@[simp] theorem modMod_cfg (s : State) (g : ModState → ModState) : (modMod s g).cfg = s.cfg := rfl
@[simp] theorem modMod_lft (s : State) (g : ModState → ModState) : (modMod s g).lft = s.lft := rfl
@[simp] theorem modMod_swc (s : State) (g : ModState → ModState) : (modMod s g).swc = s.swc := rfl
@[simp] theorem modMod_home (s : State) (g : ModState → ModState) : (modMod s g).home = s.home := rfl
@[simp] theorem modMod_coh (s : State) (g : ModState → ModState) : (modMod s g).coh = s.coh := rfl
@[simp] theorem modMod_tier (s : State) (g : ModState → ModState) : (modMod s g).tier = s.tier := rfl
@[simp] theorem modMod_exts (s : State) (g : ModState → ModState) : (modMod s g).exts = s.exts := rfl
@[simp] theorem modMod_objs (s : State) (g : ModState → ModState) : (modMod s g).objs = s.objs := rfl
@[simp] theorem modMod_gens (s : State) (g : ModState → ModState) : (modMod s g).gens = s.gens := rfl
@[simp] theorem modMod_sessions (s : State) (g : ModState → ModState) : (modMod s g).sessions = s.sessions := rfl
@[simp] theorem modMod_vols (s : State) (g : ModState → ModState) : (modMod s g).vols = s.vols := rfl
@[simp] theorem modMod_ftl (s : State) (g : ModState → ModState) : (modMod s g).ftl = s.ftl := rfl
@[simp] theorem modMod_pod (s : State) (g : ModState → ModState) : (modMod s g).pod = s.pod := rfl
@[simp] theorem modMod_col (s : State) (g : ModState → ModState) : (modMod s g).col = s.col := rfl
@[simp] theorem modMod_cmp (s : State) (g : ModState → ModState) : (modMod s g).cmp = s.cmp := rfl
@[simp] theorem modMod_ctxs (s : State) (g : ModState → ModState) : (modMod s g).ctxs = s.ctxs := rfl
@[simp] theorem modMod_ev (s : State) (g : ModState → ModState) : (modMod s g).ev = s.ev := rfl
@[simp] theorem modMod_sec (s : State) (g : ModState → ModState) : (modMod s g).sec = s.sec := rfl
@[simp] theorem modMod_mtr (s : State) (g : ModState → ModState) : (modMod s g).mtr = s.mtr := rfl
@[simp] theorem modMod_flt (s : State) (g : ModState → ModState) : (modMod s g).flt = s.flt := rfl
@[simp] theorem modMod_mod (s : State) (g : ModState → ModState) : (modMod s g).mod = g s.mod := rfl
@[simp] theorem modMod_extSel (s : State) (g : ModState → ModState) : (modMod s g).extSel = s.extSel := rfl
@[simp] theorem modMod_extRec (s : State) (g : ModState → ModState) : (modMod s g).extRec = s.extRec := rfl
@[simp] theorem modMod_objSel (s : State) (g : ModState → ModState) : (modMod s g).objSel = s.objSel := rfl
@[simp] theorem modMod_objRec (s : State) (g : ModState → ModState) : (modMod s g).objRec = s.objRec := rfl
@[simp] theorem modMod_sesSel (s : State) (g : ModState → ModState) : (modMod s g).sesSel = s.sesSel := rfl
@[simp] theorem modMod_sesRec (s : State) (g : ModState → ModState) : (modMod s g).sesRec = s.sesRec := rfl
@[simp] theorem modMod_mem (s : State) (g : ModState → ModState) : (modMod s g).mem = s.mem := rfl
@[simp] theorem modMod_poison (s : State) (g : ModState → ModState) : (modMod s g).poison = s.poison := rfl
@[simp] theorem modMod_freeCtr (s : State) (g : ModState → ModState) : (modMod s g).freeCtr = s.freeCtr := rfl

/-! modCtx -/

@[simp] theorem modCtx_pending (s : State) (c : Nat) (g : Ctx → Ctx) : (modCtx s c g).pending = s.pending := rfl
@[simp] theorem modCtx_cfg (s : State) (c : Nat) (g : Ctx → Ctx) : (modCtx s c g).cfg = s.cfg := rfl
@[simp] theorem modCtx_lft (s : State) (c : Nat) (g : Ctx → Ctx) : (modCtx s c g).lft = s.lft := rfl
@[simp] theorem modCtx_swc (s : State) (c : Nat) (g : Ctx → Ctx) : (modCtx s c g).swc = s.swc := rfl
@[simp] theorem modCtx_home (s : State) (c : Nat) (g : Ctx → Ctx) : (modCtx s c g).home = s.home := rfl
@[simp] theorem modCtx_coh (s : State) (c : Nat) (g : Ctx → Ctx) : (modCtx s c g).coh = s.coh := rfl
@[simp] theorem modCtx_tier (s : State) (c : Nat) (g : Ctx → Ctx) : (modCtx s c g).tier = s.tier := rfl
@[simp] theorem modCtx_exts (s : State) (c : Nat) (g : Ctx → Ctx) : (modCtx s c g).exts = s.exts := rfl
@[simp] theorem modCtx_objs (s : State) (c : Nat) (g : Ctx → Ctx) : (modCtx s c g).objs = s.objs := rfl
@[simp] theorem modCtx_gens (s : State) (c : Nat) (g : Ctx → Ctx) : (modCtx s c g).gens = s.gens := rfl
@[simp] theorem modCtx_sessions (s : State) (c : Nat) (g : Ctx → Ctx) : (modCtx s c g).sessions = s.sessions := rfl
@[simp] theorem modCtx_vols (s : State) (c : Nat) (g : Ctx → Ctx) : (modCtx s c g).vols = s.vols := rfl
@[simp] theorem modCtx_ftl (s : State) (c : Nat) (g : Ctx → Ctx) : (modCtx s c g).ftl = s.ftl := rfl
@[simp] theorem modCtx_pod (s : State) (c : Nat) (g : Ctx → Ctx) : (modCtx s c g).pod = s.pod := rfl
@[simp] theorem modCtx_col (s : State) (c : Nat) (g : Ctx → Ctx) : (modCtx s c g).col = s.col := rfl
@[simp] theorem modCtx_cmp (s : State) (c : Nat) (g : Ctx → Ctx) : (modCtx s c g).cmp = s.cmp := rfl
@[simp] theorem modCtx_ctxs (s : State) (c : Nat) (g : Ctx → Ctx) : (modCtx s c g).ctxs = changeD s.ctxs c {} g := rfl
@[simp] theorem modCtx_ev (s : State) (c : Nat) (g : Ctx → Ctx) : (modCtx s c g).ev = s.ev := rfl
@[simp] theorem modCtx_sec (s : State) (c : Nat) (g : Ctx → Ctx) : (modCtx s c g).sec = s.sec := rfl
@[simp] theorem modCtx_mtr (s : State) (c : Nat) (g : Ctx → Ctx) : (modCtx s c g).mtr = s.mtr := rfl
@[simp] theorem modCtx_flt (s : State) (c : Nat) (g : Ctx → Ctx) : (modCtx s c g).flt = s.flt := rfl
@[simp] theorem modCtx_mod (s : State) (c : Nat) (g : Ctx → Ctx) : (modCtx s c g).mod = s.mod := rfl
@[simp] theorem modCtx_extSel (s : State) (c : Nat) (g : Ctx → Ctx) : (modCtx s c g).extSel = s.extSel := rfl
@[simp] theorem modCtx_extRec (s : State) (c : Nat) (g : Ctx → Ctx) : (modCtx s c g).extRec = s.extRec := rfl
@[simp] theorem modCtx_objSel (s : State) (c : Nat) (g : Ctx → Ctx) : (modCtx s c g).objSel = s.objSel := rfl
@[simp] theorem modCtx_objRec (s : State) (c : Nat) (g : Ctx → Ctx) : (modCtx s c g).objRec = s.objRec := rfl
@[simp] theorem modCtx_sesSel (s : State) (c : Nat) (g : Ctx → Ctx) : (modCtx s c g).sesSel = s.sesSel := rfl
@[simp] theorem modCtx_sesRec (s : State) (c : Nat) (g : Ctx → Ctx) : (modCtx s c g).sesRec = s.sesRec := rfl
@[simp] theorem modCtx_mem (s : State) (c : Nat) (g : Ctx → Ctx) : (modCtx s c g).mem = s.mem := rfl
@[simp] theorem modCtx_poison (s : State) (c : Nat) (g : Ctx → Ctx) : (modCtx s c g).poison = s.poison := rfl
@[simp] theorem modCtx_freeCtr (s : State) (c : Nat) (g : Ctx → Ctx) : (modCtx s c g).freeCtr = s.freeCtr := rfl

/-! modObj -/

@[simp] theorem modObj_pending (s : State) (i : Nat) (g : Obj → Obj) : (modObj s i g).pending = s.pending := rfl
@[simp] theorem modObj_cfg (s : State) (i : Nat) (g : Obj → Obj) : (modObj s i g).cfg = s.cfg := rfl
@[simp] theorem modObj_lft (s : State) (i : Nat) (g : Obj → Obj) : (modObj s i g).lft = s.lft := rfl
@[simp] theorem modObj_swc (s : State) (i : Nat) (g : Obj → Obj) : (modObj s i g).swc = s.swc := rfl
@[simp] theorem modObj_home (s : State) (i : Nat) (g : Obj → Obj) : (modObj s i g).home = s.home := rfl
@[simp] theorem modObj_coh (s : State) (i : Nat) (g : Obj → Obj) : (modObj s i g).coh = s.coh := rfl
@[simp] theorem modObj_tier (s : State) (i : Nat) (g : Obj → Obj) : (modObj s i g).tier = s.tier := rfl
@[simp] theorem modObj_exts (s : State) (i : Nat) (g : Obj → Obj) : (modObj s i g).exts = s.exts := rfl
@[simp] theorem modObj_objs (s : State) (i : Nat) (g : Obj → Obj) : (modObj s i g).objs = modK s.objs i g := rfl
@[simp] theorem modObj_gens (s : State) (i : Nat) (g : Obj → Obj) : (modObj s i g).gens = s.gens := rfl
@[simp] theorem modObj_sessions (s : State) (i : Nat) (g : Obj → Obj) : (modObj s i g).sessions = s.sessions := rfl
@[simp] theorem modObj_vols (s : State) (i : Nat) (g : Obj → Obj) : (modObj s i g).vols = s.vols := rfl
@[simp] theorem modObj_ftl (s : State) (i : Nat) (g : Obj → Obj) : (modObj s i g).ftl = s.ftl := rfl
@[simp] theorem modObj_pod (s : State) (i : Nat) (g : Obj → Obj) : (modObj s i g).pod = s.pod := rfl
@[simp] theorem modObj_col (s : State) (i : Nat) (g : Obj → Obj) : (modObj s i g).col = s.col := rfl
@[simp] theorem modObj_cmp (s : State) (i : Nat) (g : Obj → Obj) : (modObj s i g).cmp = s.cmp := rfl
@[simp] theorem modObj_ctxs (s : State) (i : Nat) (g : Obj → Obj) : (modObj s i g).ctxs = s.ctxs := rfl
@[simp] theorem modObj_ev (s : State) (i : Nat) (g : Obj → Obj) : (modObj s i g).ev = s.ev := rfl
@[simp] theorem modObj_sec (s : State) (i : Nat) (g : Obj → Obj) : (modObj s i g).sec = s.sec := rfl
@[simp] theorem modObj_mtr (s : State) (i : Nat) (g : Obj → Obj) : (modObj s i g).mtr = s.mtr := rfl
@[simp] theorem modObj_flt (s : State) (i : Nat) (g : Obj → Obj) : (modObj s i g).flt = s.flt := rfl
@[simp] theorem modObj_mod (s : State) (i : Nat) (g : Obj → Obj) : (modObj s i g).mod = s.mod := rfl
@[simp] theorem modObj_extSel (s : State) (i : Nat) (g : Obj → Obj) : (modObj s i g).extSel = s.extSel := rfl
@[simp] theorem modObj_extRec (s : State) (i : Nat) (g : Obj → Obj) : (modObj s i g).extRec = s.extRec := rfl
@[simp] theorem modObj_objSel (s : State) (i : Nat) (g : Obj → Obj) : (modObj s i g).objSel = s.objSel := rfl
@[simp] theorem modObj_objRec (s : State) (i : Nat) (g : Obj → Obj) : (modObj s i g).objRec = s.objRec := rfl
@[simp] theorem modObj_sesSel (s : State) (i : Nat) (g : Obj → Obj) : (modObj s i g).sesSel = s.sesSel := rfl
@[simp] theorem modObj_sesRec (s : State) (i : Nat) (g : Obj → Obj) : (modObj s i g).sesRec = s.sesRec := rfl
@[simp] theorem modObj_mem (s : State) (i : Nat) (g : Obj → Obj) : (modObj s i g).mem = s.mem := rfl
@[simp] theorem modObj_poison (s : State) (i : Nat) (g : Obj → Obj) : (modObj s i g).poison = s.poison := rfl
@[simp] theorem modObj_freeCtr (s : State) (i : Nat) (g : Obj → Obj) : (modObj s i g).freeCtr = s.freeCtr := rfl

/-! modExt -/

@[simp] theorem modExt_pending (s : State) (i : Nat) (g : ExtState → ExtState) : (modExt s i g).pending = s.pending := rfl
@[simp] theorem modExt_cfg (s : State) (i : Nat) (g : ExtState → ExtState) : (modExt s i g).cfg = s.cfg := rfl
@[simp] theorem modExt_lft (s : State) (i : Nat) (g : ExtState → ExtState) : (modExt s i g).lft = s.lft := rfl
@[simp] theorem modExt_swc (s : State) (i : Nat) (g : ExtState → ExtState) : (modExt s i g).swc = s.swc := rfl
@[simp] theorem modExt_home (s : State) (i : Nat) (g : ExtState → ExtState) : (modExt s i g).home = s.home := rfl
@[simp] theorem modExt_coh (s : State) (i : Nat) (g : ExtState → ExtState) : (modExt s i g).coh = s.coh := rfl
@[simp] theorem modExt_tier (s : State) (i : Nat) (g : ExtState → ExtState) : (modExt s i g).tier = s.tier := rfl
@[simp] theorem modExt_exts (s : State) (i : Nat) (g : ExtState → ExtState) : (modExt s i g).exts = changeD s.exts i {} g := rfl
@[simp] theorem modExt_objs (s : State) (i : Nat) (g : ExtState → ExtState) : (modExt s i g).objs = s.objs := rfl
@[simp] theorem modExt_gens (s : State) (i : Nat) (g : ExtState → ExtState) : (modExt s i g).gens = s.gens := rfl
@[simp] theorem modExt_sessions (s : State) (i : Nat) (g : ExtState → ExtState) : (modExt s i g).sessions = s.sessions := rfl
@[simp] theorem modExt_vols (s : State) (i : Nat) (g : ExtState → ExtState) : (modExt s i g).vols = s.vols := rfl
@[simp] theorem modExt_ftl (s : State) (i : Nat) (g : ExtState → ExtState) : (modExt s i g).ftl = s.ftl := rfl
@[simp] theorem modExt_pod (s : State) (i : Nat) (g : ExtState → ExtState) : (modExt s i g).pod = s.pod := rfl
@[simp] theorem modExt_col (s : State) (i : Nat) (g : ExtState → ExtState) : (modExt s i g).col = s.col := rfl
@[simp] theorem modExt_cmp (s : State) (i : Nat) (g : ExtState → ExtState) : (modExt s i g).cmp = s.cmp := rfl
@[simp] theorem modExt_ctxs (s : State) (i : Nat) (g : ExtState → ExtState) : (modExt s i g).ctxs = s.ctxs := rfl
@[simp] theorem modExt_ev (s : State) (i : Nat) (g : ExtState → ExtState) : (modExt s i g).ev = s.ev := rfl
@[simp] theorem modExt_sec (s : State) (i : Nat) (g : ExtState → ExtState) : (modExt s i g).sec = s.sec := rfl
@[simp] theorem modExt_mtr (s : State) (i : Nat) (g : ExtState → ExtState) : (modExt s i g).mtr = s.mtr := rfl
@[simp] theorem modExt_flt (s : State) (i : Nat) (g : ExtState → ExtState) : (modExt s i g).flt = s.flt := rfl
@[simp] theorem modExt_mod (s : State) (i : Nat) (g : ExtState → ExtState) : (modExt s i g).mod = s.mod := rfl
@[simp] theorem modExt_extSel (s : State) (i : Nat) (g : ExtState → ExtState) : (modExt s i g).extSel = s.extSel := rfl
@[simp] theorem modExt_extRec (s : State) (i : Nat) (g : ExtState → ExtState) : (modExt s i g).extRec = s.extRec := rfl
@[simp] theorem modExt_objSel (s : State) (i : Nat) (g : ExtState → ExtState) : (modExt s i g).objSel = s.objSel := rfl
@[simp] theorem modExt_objRec (s : State) (i : Nat) (g : ExtState → ExtState) : (modExt s i g).objRec = s.objRec := rfl
@[simp] theorem modExt_sesSel (s : State) (i : Nat) (g : ExtState → ExtState) : (modExt s i g).sesSel = s.sesSel := rfl
@[simp] theorem modExt_sesRec (s : State) (i : Nat) (g : ExtState → ExtState) : (modExt s i g).sesRec = s.sesRec := rfl
@[simp] theorem modExt_mem (s : State) (i : Nat) (g : ExtState → ExtState) : (modExt s i g).mem = s.mem := rfl
@[simp] theorem modExt_poison (s : State) (i : Nat) (g : ExtState → ExtState) : (modExt s i g).poison = s.poison := rfl
@[simp] theorem modExt_freeCtr (s : State) (i : Nat) (g : ExtState → ExtState) : (modExt s i g).freeCtr = s.freeCtr := rfl

/-! modSes -/

@[simp] theorem modSes_pending (s : State) (i : Nat) (g : Session → Session) : (modSes s i g).pending = s.pending := rfl
@[simp] theorem modSes_cfg (s : State) (i : Nat) (g : Session → Session) : (modSes s i g).cfg = s.cfg := rfl
@[simp] theorem modSes_lft (s : State) (i : Nat) (g : Session → Session) : (modSes s i g).lft = s.lft := rfl
@[simp] theorem modSes_swc (s : State) (i : Nat) (g : Session → Session) : (modSes s i g).swc = s.swc := rfl
@[simp] theorem modSes_home (s : State) (i : Nat) (g : Session → Session) : (modSes s i g).home = s.home := rfl
@[simp] theorem modSes_coh (s : State) (i : Nat) (g : Session → Session) : (modSes s i g).coh = s.coh := rfl
@[simp] theorem modSes_tier (s : State) (i : Nat) (g : Session → Session) : (modSes s i g).tier = s.tier := rfl
@[simp] theorem modSes_exts (s : State) (i : Nat) (g : Session → Session) : (modSes s i g).exts = s.exts := rfl
@[simp] theorem modSes_objs (s : State) (i : Nat) (g : Session → Session) : (modSes s i g).objs = s.objs := rfl
@[simp] theorem modSes_gens (s : State) (i : Nat) (g : Session → Session) : (modSes s i g).gens = s.gens := rfl
@[simp] theorem modSes_sessions (s : State) (i : Nat) (g : Session → Session) : (modSes s i g).sessions = modK s.sessions i g := rfl
@[simp] theorem modSes_vols (s : State) (i : Nat) (g : Session → Session) : (modSes s i g).vols = s.vols := rfl
@[simp] theorem modSes_ftl (s : State) (i : Nat) (g : Session → Session) : (modSes s i g).ftl = s.ftl := rfl
@[simp] theorem modSes_pod (s : State) (i : Nat) (g : Session → Session) : (modSes s i g).pod = s.pod := rfl
@[simp] theorem modSes_col (s : State) (i : Nat) (g : Session → Session) : (modSes s i g).col = s.col := rfl
@[simp] theorem modSes_cmp (s : State) (i : Nat) (g : Session → Session) : (modSes s i g).cmp = s.cmp := rfl
@[simp] theorem modSes_ctxs (s : State) (i : Nat) (g : Session → Session) : (modSes s i g).ctxs = s.ctxs := rfl
@[simp] theorem modSes_ev (s : State) (i : Nat) (g : Session → Session) : (modSes s i g).ev = s.ev := rfl
@[simp] theorem modSes_sec (s : State) (i : Nat) (g : Session → Session) : (modSes s i g).sec = s.sec := rfl
@[simp] theorem modSes_mtr (s : State) (i : Nat) (g : Session → Session) : (modSes s i g).mtr = s.mtr := rfl
@[simp] theorem modSes_flt (s : State) (i : Nat) (g : Session → Session) : (modSes s i g).flt = s.flt := rfl
@[simp] theorem modSes_mod (s : State) (i : Nat) (g : Session → Session) : (modSes s i g).mod = s.mod := rfl
@[simp] theorem modSes_extSel (s : State) (i : Nat) (g : Session → Session) : (modSes s i g).extSel = s.extSel := rfl
@[simp] theorem modSes_extRec (s : State) (i : Nat) (g : Session → Session) : (modSes s i g).extRec = s.extRec := rfl
@[simp] theorem modSes_objSel (s : State) (i : Nat) (g : Session → Session) : (modSes s i g).objSel = s.objSel := rfl
@[simp] theorem modSes_objRec (s : State) (i : Nat) (g : Session → Session) : (modSes s i g).objRec = s.objRec := rfl
@[simp] theorem modSes_sesSel (s : State) (i : Nat) (g : Session → Session) : (modSes s i g).sesSel = s.sesSel := rfl
@[simp] theorem modSes_sesRec (s : State) (i : Nat) (g : Session → Session) : (modSes s i g).sesRec = s.sesRec := rfl
@[simp] theorem modSes_mem (s : State) (i : Nat) (g : Session → Session) : (modSes s i g).mem = s.mem := rfl
@[simp] theorem modSes_poison (s : State) (i : Nat) (g : Session → Session) : (modSes s i g).poison = s.poison := rfl
@[simp] theorem modSes_freeCtr (s : State) (i : Nat) (g : Session → Session) : (modSes s i g).freeCtr = s.freeCtr := rfl

/-! modVol -/

@[simp] theorem modVol_pending (s : State) (v : Nat) (g : Volume → Volume) : (modVol s v g).pending = s.pending := rfl
@[simp] theorem modVol_cfg (s : State) (v : Nat) (g : Volume → Volume) : (modVol s v g).cfg = s.cfg := rfl
@[simp] theorem modVol_lft (s : State) (v : Nat) (g : Volume → Volume) : (modVol s v g).lft = s.lft := rfl
@[simp] theorem modVol_swc (s : State) (v : Nat) (g : Volume → Volume) : (modVol s v g).swc = s.swc := rfl
@[simp] theorem modVol_home (s : State) (v : Nat) (g : Volume → Volume) : (modVol s v g).home = s.home := rfl
@[simp] theorem modVol_coh (s : State) (v : Nat) (g : Volume → Volume) : (modVol s v g).coh = s.coh := rfl
@[simp] theorem modVol_tier (s : State) (v : Nat) (g : Volume → Volume) : (modVol s v g).tier = s.tier := rfl
@[simp] theorem modVol_exts (s : State) (v : Nat) (g : Volume → Volume) : (modVol s v g).exts = s.exts := rfl
@[simp] theorem modVol_objs (s : State) (v : Nat) (g : Volume → Volume) : (modVol s v g).objs = s.objs := rfl
@[simp] theorem modVol_gens (s : State) (v : Nat) (g : Volume → Volume) : (modVol s v g).gens = s.gens := rfl
@[simp] theorem modVol_sessions (s : State) (v : Nat) (g : Volume → Volume) : (modVol s v g).sessions = s.sessions := rfl
@[simp] theorem modVol_vols (s : State) (v : Nat) (g : Volume → Volume) : (modVol s v g).vols = changeD s.vols v {} g := rfl
@[simp] theorem modVol_ftl (s : State) (v : Nat) (g : Volume → Volume) : (modVol s v g).ftl = s.ftl := rfl
@[simp] theorem modVol_pod (s : State) (v : Nat) (g : Volume → Volume) : (modVol s v g).pod = s.pod := rfl
@[simp] theorem modVol_col (s : State) (v : Nat) (g : Volume → Volume) : (modVol s v g).col = s.col := rfl
@[simp] theorem modVol_cmp (s : State) (v : Nat) (g : Volume → Volume) : (modVol s v g).cmp = s.cmp := rfl
@[simp] theorem modVol_ctxs (s : State) (v : Nat) (g : Volume → Volume) : (modVol s v g).ctxs = s.ctxs := rfl
@[simp] theorem modVol_ev (s : State) (v : Nat) (g : Volume → Volume) : (modVol s v g).ev = s.ev := rfl
@[simp] theorem modVol_sec (s : State) (v : Nat) (g : Volume → Volume) : (modVol s v g).sec = s.sec := rfl
@[simp] theorem modVol_mtr (s : State) (v : Nat) (g : Volume → Volume) : (modVol s v g).mtr = s.mtr := rfl
@[simp] theorem modVol_flt (s : State) (v : Nat) (g : Volume → Volume) : (modVol s v g).flt = s.flt := rfl
@[simp] theorem modVol_mod (s : State) (v : Nat) (g : Volume → Volume) : (modVol s v g).mod = s.mod := rfl
@[simp] theorem modVol_extSel (s : State) (v : Nat) (g : Volume → Volume) : (modVol s v g).extSel = s.extSel := rfl
@[simp] theorem modVol_extRec (s : State) (v : Nat) (g : Volume → Volume) : (modVol s v g).extRec = s.extRec := rfl
@[simp] theorem modVol_objSel (s : State) (v : Nat) (g : Volume → Volume) : (modVol s v g).objSel = s.objSel := rfl
@[simp] theorem modVol_objRec (s : State) (v : Nat) (g : Volume → Volume) : (modVol s v g).objRec = s.objRec := rfl
@[simp] theorem modVol_sesSel (s : State) (v : Nat) (g : Volume → Volume) : (modVol s v g).sesSel = s.sesSel := rfl
@[simp] theorem modVol_sesRec (s : State) (v : Nat) (g : Volume → Volume) : (modVol s v g).sesRec = s.sesRec := rfl
@[simp] theorem modVol_mem (s : State) (v : Nat) (g : Volume → Volume) : (modVol s v g).mem = s.mem := rfl
@[simp] theorem modVol_poison (s : State) (v : Nat) (g : Volume → Volume) : (modVol s v g).poison = s.poison := rfl
@[simp] theorem modVol_freeCtr (s : State) (v : Nat) (g : Volume → Volume) : (modVol s v g).freeCtr = s.freeCtr := rfl

/-! modPort -/

@[simp] theorem modPort_pending (s : State) (p : Nat) (g : PortState → PortState) : (modPort s p g).pending = s.pending := rfl
@[simp] theorem modPort_cfg (s : State) (p : Nat) (g : PortState → PortState) : (modPort s p g).cfg = s.cfg := rfl
@[simp] theorem modPort_lft (s : State) (p : Nat) (g : PortState → PortState) : (modPort s p g).lft = { s.lft with ports := changeD s.lft.ports p {} g } := rfl
@[simp] theorem modPort_swc (s : State) (p : Nat) (g : PortState → PortState) : (modPort s p g).swc = s.swc := rfl
@[simp] theorem modPort_home (s : State) (p : Nat) (g : PortState → PortState) : (modPort s p g).home = s.home := rfl
@[simp] theorem modPort_coh (s : State) (p : Nat) (g : PortState → PortState) : (modPort s p g).coh = s.coh := rfl
@[simp] theorem modPort_tier (s : State) (p : Nat) (g : PortState → PortState) : (modPort s p g).tier = s.tier := rfl
@[simp] theorem modPort_exts (s : State) (p : Nat) (g : PortState → PortState) : (modPort s p g).exts = s.exts := rfl
@[simp] theorem modPort_objs (s : State) (p : Nat) (g : PortState → PortState) : (modPort s p g).objs = s.objs := rfl
@[simp] theorem modPort_gens (s : State) (p : Nat) (g : PortState → PortState) : (modPort s p g).gens = s.gens := rfl
@[simp] theorem modPort_sessions (s : State) (p : Nat) (g : PortState → PortState) : (modPort s p g).sessions = s.sessions := rfl
@[simp] theorem modPort_vols (s : State) (p : Nat) (g : PortState → PortState) : (modPort s p g).vols = s.vols := rfl
@[simp] theorem modPort_ftl (s : State) (p : Nat) (g : PortState → PortState) : (modPort s p g).ftl = s.ftl := rfl
@[simp] theorem modPort_pod (s : State) (p : Nat) (g : PortState → PortState) : (modPort s p g).pod = s.pod := rfl
@[simp] theorem modPort_col (s : State) (p : Nat) (g : PortState → PortState) : (modPort s p g).col = s.col := rfl
@[simp] theorem modPort_cmp (s : State) (p : Nat) (g : PortState → PortState) : (modPort s p g).cmp = s.cmp := rfl
@[simp] theorem modPort_ctxs (s : State) (p : Nat) (g : PortState → PortState) : (modPort s p g).ctxs = s.ctxs := rfl
@[simp] theorem modPort_ev (s : State) (p : Nat) (g : PortState → PortState) : (modPort s p g).ev = s.ev := rfl
@[simp] theorem modPort_sec (s : State) (p : Nat) (g : PortState → PortState) : (modPort s p g).sec = s.sec := rfl
@[simp] theorem modPort_mtr (s : State) (p : Nat) (g : PortState → PortState) : (modPort s p g).mtr = s.mtr := rfl
@[simp] theorem modPort_flt (s : State) (p : Nat) (g : PortState → PortState) : (modPort s p g).flt = s.flt := rfl
@[simp] theorem modPort_mod (s : State) (p : Nat) (g : PortState → PortState) : (modPort s p g).mod = s.mod := rfl
@[simp] theorem modPort_extSel (s : State) (p : Nat) (g : PortState → PortState) : (modPort s p g).extSel = s.extSel := rfl
@[simp] theorem modPort_extRec (s : State) (p : Nat) (g : PortState → PortState) : (modPort s p g).extRec = s.extRec := rfl
@[simp] theorem modPort_objSel (s : State) (p : Nat) (g : PortState → PortState) : (modPort s p g).objSel = s.objSel := rfl
@[simp] theorem modPort_objRec (s : State) (p : Nat) (g : PortState → PortState) : (modPort s p g).objRec = s.objRec := rfl
@[simp] theorem modPort_sesSel (s : State) (p : Nat) (g : PortState → PortState) : (modPort s p g).sesSel = s.sesSel := rfl
@[simp] theorem modPort_sesRec (s : State) (p : Nat) (g : PortState → PortState) : (modPort s p g).sesRec = s.sesRec := rfl
@[simp] theorem modPort_mem (s : State) (p : Nat) (g : PortState → PortState) : (modPort s p g).mem = s.mem := rfl
@[simp] theorem modPort_poison (s : State) (p : Nat) (g : PortState → PortState) : (modPort s p g).poison = s.poison := rfl
@[simp] theorem modPort_freeCtr (s : State) (p : Nat) (g : PortState → PortState) : (modPort s p g).freeCtr = s.freeCtr := rfl

/-! writeMem -/

@[simp] theorem writeMem_pending (s : State) (a : Nat) (b : Bytes) : (writeMem s a b).pending = s.pending := rfl
@[simp] theorem writeMem_cfg (s : State) (a : Nat) (b : Bytes) : (writeMem s a b).cfg = s.cfg := rfl
@[simp] theorem writeMem_lft (s : State) (a : Nat) (b : Bytes) : (writeMem s a b).lft = s.lft := rfl
@[simp] theorem writeMem_swc (s : State) (a : Nat) (b : Bytes) : (writeMem s a b).swc = s.swc := rfl
@[simp] theorem writeMem_home (s : State) (a : Nat) (b : Bytes) : (writeMem s a b).home = s.home := rfl
@[simp] theorem writeMem_coh (s : State) (a : Nat) (b : Bytes) : (writeMem s a b).coh = s.coh := rfl
@[simp] theorem writeMem_tier (s : State) (a : Nat) (b : Bytes) : (writeMem s a b).tier = s.tier := rfl
@[simp] theorem writeMem_exts (s : State) (a : Nat) (b : Bytes) : (writeMem s a b).exts = s.exts := rfl
@[simp] theorem writeMem_objs (s : State) (a : Nat) (b : Bytes) : (writeMem s a b).objs = s.objs := rfl
@[simp] theorem writeMem_gens (s : State) (a : Nat) (b : Bytes) : (writeMem s a b).gens = s.gens := rfl
@[simp] theorem writeMem_sessions (s : State) (a : Nat) (b : Bytes) : (writeMem s a b).sessions = s.sessions := rfl
@[simp] theorem writeMem_vols (s : State) (a : Nat) (b : Bytes) : (writeMem s a b).vols = s.vols := rfl
@[simp] theorem writeMem_ftl (s : State) (a : Nat) (b : Bytes) : (writeMem s a b).ftl = s.ftl := rfl
@[simp] theorem writeMem_pod (s : State) (a : Nat) (b : Bytes) : (writeMem s a b).pod = s.pod := rfl
@[simp] theorem writeMem_col (s : State) (a : Nat) (b : Bytes) : (writeMem s a b).col = s.col := rfl
@[simp] theorem writeMem_cmp (s : State) (a : Nat) (b : Bytes) : (writeMem s a b).cmp = s.cmp := rfl
@[simp] theorem writeMem_ctxs (s : State) (a : Nat) (b : Bytes) : (writeMem s a b).ctxs = s.ctxs := rfl
@[simp] theorem writeMem_ev (s : State) (a : Nat) (b : Bytes) : (writeMem s a b).ev = s.ev := rfl
@[simp] theorem writeMem_sec (s : State) (a : Nat) (b : Bytes) : (writeMem s a b).sec = s.sec := rfl
@[simp] theorem writeMem_mtr (s : State) (a : Nat) (b : Bytes) : (writeMem s a b).mtr = s.mtr := rfl
@[simp] theorem writeMem_flt (s : State) (a : Nat) (b : Bytes) : (writeMem s a b).flt = s.flt := rfl
@[simp] theorem writeMem_mod (s : State) (a : Nat) (b : Bytes) : (writeMem s a b).mod = s.mod := rfl
@[simp] theorem writeMem_extSel (s : State) (a : Nat) (b : Bytes) : (writeMem s a b).extSel = s.extSel := rfl
@[simp] theorem writeMem_extRec (s : State) (a : Nat) (b : Bytes) : (writeMem s a b).extRec = s.extRec := rfl
@[simp] theorem writeMem_objSel (s : State) (a : Nat) (b : Bytes) : (writeMem s a b).objSel = s.objSel := rfl
@[simp] theorem writeMem_objRec (s : State) (a : Nat) (b : Bytes) : (writeMem s a b).objRec = s.objRec := rfl
@[simp] theorem writeMem_sesSel (s : State) (a : Nat) (b : Bytes) : (writeMem s a b).sesSel = s.sesSel := rfl
@[simp] theorem writeMem_sesRec (s : State) (a : Nat) (b : Bytes) : (writeMem s a b).sesRec = s.sesRec := rfl
@[simp] theorem writeMem_mem (s : State) (a : Nat) (b : Bytes) : (writeMem s a b).mem = memPut s.mem a b := rfl
@[simp] theorem writeMem_poison (s : State) (a : Nat) (b : Bytes) : (writeMem s a b).poison = s.poison := rfl
@[simp] theorem writeMem_freeCtr (s : State) (a : Nat) (b : Bytes) : (writeMem s a b).freeCtr = s.freeCtr := rfl

/-- The copy of a die after its own change. -/
@[simp] theorem side_upd_same {α : Type} (t : Two α) (d : Die) (g : α → α) : side (upd t d g) d = g (side t d) := by cases d <;> rfl

/-- The copy of a die after the other's change. -/
theorem side_upd_other {α : Type} (t : Two α) (d e : Die) (g : α → α) (h : e ≠ d) : side (upd t d g) e = side t e := by
  cases d <;> cases e <;> first | rfl | exact absurd rfl h

end Machine
end Sys2Proof
end

