-- ==== Sys2Proof/Tests/Slice0.lean ====
section
/-! SUPPORT. Tests: ill-formed commands that WellFormed refuses, checks of single steps against numbers the manual gives, and for each
statement of Obligations.lean small states that meet the hypotheses of its clauses. -/

namespace Sys2Proof
namespace Machine

set_option Elab.async false

/-! Small states -/

/-- Endpoint P13 of switch 42, an accelerator. -/
def tEp : Nat := 42 * 256 + 13

/-- The records of a small configuration of switch 42: P13 an accelerator port, P14 one in PFC mode, P20 toward switch 43, P5 a DRAM tray,
P0 a flash tray, H0; context 5 with EVENT_EP P13 and COUNTERS; P13 admitted under contexts 0 and 5; extent 1 class T AUTO and extent 2 class C
T0_ONLY, owned by context 5; P13 and P12 in domain 0. -/
def tRecords : List Rec := [
  ⟨RT.switch, 0, fit (toLE 2 42 ++ [3, 0]) 32⟩,
  ⟨RT.mapKeeper, 42, fit [0] 8⟩, ⟨RT.mapKeeper, 43, fit [1] 8⟩, ⟨RT.mapKeeper, 44, fit [2] 8⟩,
  ⟨RT.homemapEntry, 42, fit (toLE 2 42) 8⟩, ⟨RT.homemapEntry, 43, fit (toLE 2 43) 8⟩, ⟨RT.homemapEntry, 44, fit (toLE 2 44) 8⟩,
  ⟨RT.port, 0, fit ([3, 1, 0, 0, 0] ++ zeros 7 ++ (toLE 4 16 ++ toLE 4 16 ++ toLE 4 16 ++ toLE 4 16 ++ toLE 4 16 ++ toLE 4 16 ++ toLE 4 16 ++ toLE 4 68)) 64⟩,
  ⟨RT.port, 5, fit ([2, 1, 0, 0, 5] ++ zeros 7 ++ (toLE 4 16 ++ toLE 4 16 ++ toLE 4 16 ++ toLE 4 16 ++ toLE 4 16 ++ toLE 4 16 ++ toLE 4 16 ++ toLE 4 68)) 64⟩,
  ⟨RT.port, 13, fit ([1, 1, 0, 0, 13] ++ zeros 7 ++ (toLE 4 16 ++ toLE 4 16 ++ toLE 4 16 ++ toLE 4 16 ++ toLE 4 16 ++ toLE 4 16 ++ toLE 4 16 ++ toLE 4 68)) 64⟩,
  ⟨RT.port, 14, fit ([1, 1, 1, 0, 14] ++ zeros 7 ++ (toLE 4 16 ++ toLE 4 16 ++ toLE 4 16 ++ toLE 4 16 ++ toLE 4 16 ++ toLE 4 16 ++ toLE 4 16 ++ toLE 4 68)) 64⟩,
  ⟨RT.port, 15, fit ([1, 1, 0, 1, 15] ++ zeros 7 ++ (toLE 4 16 ++ toLE 4 16 ++ toLE 4 16 ++ toLE 4 16 ++ toLE 4 16 ++ toLE 4 16 ++ toLE 4 16 ++ toLE 4 68)) 64⟩,
  ⟨RT.port, 20, fit ([4, 1, 0, 1, 20] ++ zeros 7 ++ (toLE 4 16 ++ toLE 4 16 ++ toLE 4 16 ++ toLE 4 16 ++ toLE 4 16 ++ toLE 4 16 ++ toLE 4 16 ++ toLE 4 68)
    ++ zeros 4 ++ toLE 2 43) 64⟩,
  ⟨RT.port, 64, fit ([5, 0x12, 0, 0, 64] ++ zeros 7 ++ (toLE 4 16 ++ toLE 4 16 ++ toLE 4 16 ++ toLE 4 16 ++ toLE 4 16 ++ toLE 4 16 ++ toLE 4 16 ++ toLE 4 68)) 64⟩,
  ⟨RT.route, 43, fit ([1, 7, 7, 0, 0, 1, 2, 0] ++ [20]) 32⟩,
  ⟨RT.tray, 0, fit [2] 32⟩, ⟨RT.tray, 5, fit ([1, 3] ++ zeros 6 ++ toLE 8 (2 ^ 40)) 32⟩,
  ⟨RT.context, 0, zeros 32⟩, ⟨RT.context, 5, fit (toLE 4 tEp ++ zeros 2 ++ [1]) 32⟩, ⟨RT.context, 6, zeros 32⟩,
  ⟨RT.admitRec, 0, toLE 8 tEp⟩, ⟨RT.admitRec, 5 * 256, toLE 8 tEp⟩,
  ⟨RT.extent, 1, fit (toLE 8 (2 ^ 21) ++ toLE 4 4 ++ toLE 2 5 ++ [1, 0, 0, 0]) 32⟩,
  ⟨RT.extent, 2, fit (toLE 8 (2 ^ 26) ++ toLE 4 4 ++ toLE 2 5 ++ [0, 0, 1, 0]) 32⟩,
  ⟨RT.dirLayout, 0, toLE 2 1 ++ zeros 14 ++ (fit ([0, 0] ++ toLE 2 2 ++ zeros 4 ++ toLE 4 tEp ++ toLE 4 (42 * 256 + 12)) 1032)⟩]

/-- A running, configured device with that configuration. -/
def tState : State := {
  cfg := { unconfigured := false, switchId := 42, activeId := 1, records := tRecords }
  exts := [(1, { phase := ⟨.active, .active⟩ }), (2, { phase := ⟨.active, .active⟩ })]
  ctxs := [(0, { phase := ⟨.active, .active⟩ }), (5, { phase := ⟨.active, .active⟩, limits := [1000, 1000, 1000] }),
    (6, { phase := ⟨.active, .active⟩ })]
  flt := { switches := [(42, ⟨.live, 42⟩), (43, ⟨.live, 43⟩), (44, ⟨.live, 44⟩)] }
  mod := { power := .run, en := true, admitting := ⟨true, true⟩ } }

/-- A control command from P13 under context 0. -/
def tCtl (args : Bytes) : CtlReq := {
  port := 13, srcEp := BitVec.ofNat 20 tEp, cmdSeq := 7, addr := BitVec.ofNat 64 (42 * 2 ^ 52 + winBase)
  argLength := args.length, lftLen := args.length + 16, args := args }

/-- The same under context 5. -/
def tCtl5 (args : Bytes) : CtlReq := { tCtl args with ctx := 5 }

/-- tState with a changed configuration. -/
def tCfg (g : CfgState → CfgState) : State := modCfg tState g

/-- tState with more records. -/
def tRecs (l : List Rec) : State := tCfg (fun c => { c with records := c.records ++ l })

/-! Ill-formed commands -/

theorem test_wf_frameIngress : (Instr.frameIngress 65 0 {}).wf = false ∧ (Instr.frameIngress 64 8 {}).wf = false ∧
    (Instr.frameIngress 64 7 {}).wf = true := by decide
theorem test_wf_egressSend : (Instr.egressSend .d0 (.sub 65 0)).wf = false ∧ (Instr.egressSend .d0 .stalk).wf = true := by decide
theorem test_wf_stalkReceive : (Instr.stalkReceive .d0 8).wf = false ∧ (Instr.stalkReceive .d0 7).wf = true := by decide
theorem test_wf_ld : (Instr.ld .d0 ⟨{ length := 1 }, []⟩).wf = false ∧ (Instr.ld .d0 ⟨{}, []⟩).wf = true := by decide
theorem test_wf_st : (Instr.st .d0 { length := 1 }).wf = false ∧ (Instr.st .d0 { length := 1, payload := [0] }).wf = true := by decide
theorem test_wf_workItemStart : (Instr.workItemStart .d0 528).wf = false ∧ (Instr.workItemStart .d0 527).wf = true := by decide
theorem test_wf_workItemEnd : (Instr.workItemEnd .d0 528).wf = false ∧ (Instr.workItemEnd .d0 527).wf = true := by decide
theorem test_wf_streamComplete : (Instr.streamComplete .d0 0 16 {}).wf = false ∧ (Instr.streamComplete .d0 528 0 {}).wf = false ∧
    (Instr.streamComplete .d0 527 15 {}).wf = true := by decide
theorem test_wf_contexts : (Instr.ctxResetStalkApply 4096).wf = false ∧ (Instr.ctxResetComplete 4096).wf = false ∧
    (Instr.ctxDestroyComplete 4096).wf = false ∧ (Instr.ctxResetComplete 4095).wf = true := by decide
theorem test_wf_endpoints : (Instr.fenceNotice .d0 (2 ^ 20)).wf = false ∧ (Instr.cohAckTimeout .d0 (2 ^ 20)).wf = false ∧
    (Instr.endpointFenced (2 ^ 20)).wf = false ∧ (Instr.fenceNotice .d0 (2 ^ 20 - 1)).wf = true := by decide
theorem test_wf_portResetComplete : (Instr.portResetComplete 65).wf = false ∧ (Instr.portResetComplete 64).wf = true := by decide
theorem test_wf_rateTokenRelease : (Instr.rateTokenRelease .d0 4096 0 1).wf = false ∧ (Instr.rateTokenRelease .d0 0 8 1).wf = false ∧
    (Instr.rateTokenRelease .d0 4095 7 1).wf = true := by decide

/-! General statements and control commands -/

theorem test_witness_StepRunsTheFrontCommand : ({ tState with pending := [.partialApply] } : State).pending = .partialApply :: [] := by decide

theorem test_witness_EmptyQueue : tState.pending = [] ∧ listedCores tState .d0 = [] ∧ listedCores tState .d1 = [] := by decide +kernel

theorem test_witness_ControlFrames : (0x01 : Nat) < 65536 ∧ (tCtl [1]).bodyFormat < 65536 ∧ (tCtl [1]).argLength < 2 ^ 32 ∧
    (tCtl [1]).zero12 < 2 ^ 32 ∧ (tCtl [1]).lftLen < 65536 ∧ (tCtl [1]).die = portDie (tCtl [1]).port := by decide +kernel

/-- A command under a context the source is not admitted to is refused DENIED; one of a wrong length LENGTH (R493 checks 2 and 3). -/
theorem test_witness_Refused : tState.cfg.authWait = none ∧ ctlRefused tState 0x20 (tCtl5 (zeros 8)) = some Sts.denied ∧
    ctlRefused tState 0x20 { tCtl (zeros 8) with argLength := 9 } = some Sts.length ∧
    ctlRefused tState 0x20 { tCtl (zeros 8) with bodyFormat := 2 } = some Sts.format := by decide +kernel

/-- tState where command 7 of P13 was the newest. -/
def tSeq : State := tCfg (fun c => { c with cmdSeq := [(tEp, ⟨7, [⟨7, 1, Sts.ok, 0, []⟩]⟩)] })

theorem test_witness_Repeated : ctlRefused tSeq 0x01 (tCtl []) = none ∧ seqCheck tSeq (tCtl []) = some (.inl ⟨7, 1, Sts.ok, 0, []⟩) ∧
    seqCheck tSeq { tCtl [] with cmdSeq := 6 } = some (.inr Sts.stale) ∧ seqCheck tSeq { tCtl [] with cmdSeq := 8 } = none := by decide +kernel

theorem test_witness_CheckFive : ctlRefused tState 0x21 (tCtl [0, 0, 0x10, 0]) = none ∧ seqCheck tState (tCtl [0, 0, 0x10, 0]) = none ∧
    firstBad [argBad tState 0x21 (tCtl [0, 0, 0x10, 0]), ctlBusy tState 0x21] = some Sts.format ∧ tState.cfg.authWait = none ∧
    tState.cfg.stalkWait.any (fun x => x.req.srcEp == (tCtl [0, 0, 0x10, 0]).srcEp && x.req.cmdSeq == (tCtl [0, 0, 0x10, 0]).cmdSeq) = false := by
  decide +kernel

theorem test_witness_HeldResponses : ∀ c ∈ tSeq.cfg.cmdSeq, c.2.held.length ≤ 16 := by decide +kernel

theorem test_witness_echo : CtlReady tState 0x01 (tCtl [1, 2, 3]) := by unfold CtlReady; decide +kernel

/-- BS_BEGIN of slot B with the least length. -/
theorem test_witness_bsBegin : CtlReady tState 0x10 (tCtl (toLE 8 1 ++ toLE 8 30064)) ∧
    slotNum (le (tCtl (toLE 8 1 ++ toLE 8 30064)).args 0 1) = some .b ∧ ¬(Slot.b = tState.cfg.active ∧ tState.cfg.unconfigured = false) ∧
    (slotOf tState .b).phase ≠ .loading ∧ 30064 ≤ le (tCtl (toLE 8 1 ++ toLE 8 30064)).args 8 8 ∧
    le (tCtl (toLE 8 1 ++ toLE 8 30064)).args 8 8 ≤ slotLimit (Slot.b == .p) := by unfold CtlReady; decide +kernel

/-- tState with load 1 in slot B. -/
def tLoad : State := tCfg (fun c => { c with slotB := { phase := .loading, loadId := 1, total := 30064 }, lastLoadId := 1 })

theorem test_witness_bsData : CtlReady tLoad 0x11 (tCtl (toLE 8 1 ++ toLE 8 30063 ++ [9])) ∧
    loadSlot tLoad (argLoadId (tCtl (toLE 8 1 ++ toLE 8 30063 ++ [9]))) = some .b ∧
    le (toLE 8 1 ++ toLE 8 30063 ++ [9]) 8 8 + ((toLE 8 1 ++ toLE 8 30063 ++ [9]).drop 16).length ≤ (slotOf tLoad .b).total := by
  unfold CtlReady; decide +kernel

theorem test_witness_bsFetch : CtlReady tLoad 0x12 (tCtl (toLE 8 1 ++ toLE 8 0 ++ toLE 8 0 ++ toLE 8 30064)) ∧
    loadSlot tLoad 1 = some .b := by unfold CtlReady; decide +kernel

/-- tState with an object of 4 granules at the start of extent 1, in T0. -/
def tObj : State := { tState with objs := [(1, {
  owner := 5, tier := 0, st := .resident, kind := 0, pins := 0, addr := 42 * 2 ^ 52 + 2 ^ 21, size := 16384, ext := 1, epoch := 1,
  refcount := 1, loc := 0, gen := 1, comp := none, ses := 0, layer := 0, hg := 0 })], gens := [(1, 1)] }

/-- tLoad with a fetch of 8 bytes by context 5 under way. -/
def tFetch : State := { tObj with cfg := { tLoad.cfg with jobs := [⟨1, 0x12, tEp, 5, [1, 0, 42 * 2 ^ 52 + 2 ^ 21, 8]⟩] } }

theorem test_witness_bsFetchComplete : jobOf tFetch 1 = some ⟨1, 0x12, tEp, 5, [1, 0, 42 * 2 ^ 52 + 2 ^ 21, 8]⟩ ∧ loadSlot tFetch 1 = some .b ∧
    ((svcRead tFetch.cfg.activeSp 5 (42 * 2 ^ 52 + 2 ^ 21) 8 tFetch).1 = Sts.ok ∧
      (svcRead tFetch.cfg.activeSp 5 (42 * 2 ^ 52 + 2 ^ 21) 8 tFetch).2.1 = zeros 8) := by decide +kernel

/-- A load whose bytes are not all written fails check 1 of R96. -/
theorem test_witness_bsEnd : CtlReady tLoad 0x13 (tCtl (toLE 8 1)) ∧ loadSlot tLoad 1 = some .b ∧
    (verifySlot tLoad (Slot.b == .p) (slotOf tLoad .b)).isSome = true := by unfold CtlReady; decide +kernel

theorem test_witness_bsAbort : CtlReady tLoad 0x14 (tCtl (toLE 8 1)) ∧ loadSlot tLoad 1 = some .b ∧ (slotOf tLoad .b).phase = .loading := by
  unfold CtlReady; decide +kernel

/-- EXT_CREATE of extent 3, class T. -/
def tExt3 : Bytes := toLE 8 3 ++ fit (toLE 8 (2 ^ 30) ++ toLE 4 1 ++ toLE 2 5 ++ [1, 0, 0, 1]) 32

theorem test_witness_extCreate : CtlReady tState 0x20 (tCtl tExt3) ∧ validate tState false [bodyChange .add RT.extent (tCtl tExt3)] = none := by
  unfold CtlReady; decide +kernel

theorem test_witness_grantAdd : CtlReady tState 0x22 (tCtl (toLE 8 0 ++ toLE 4 1 ++ toLE 2 6 ++ [1, 0])) ∧
    validate tState false [bodyChange .add RT.grant (tCtl (toLE 8 0 ++ toLE 4 1 ++ toLE 2 6 ++ [1, 0]))] = none := by
  unfold CtlReady; decide +kernel

/-- tState with grant 0 of R on extent 1 to context 6. -/
def tGrant : State := tRecs [⟨RT.grant, 0, toLE 4 1 ++ toLE 2 6 ++ [1, 0]⟩]

theorem test_witness_grantRemove : CtlReady tGrant 0x23 (tCtl (toLE 4 0)) ∧ validate tGrant false [⟨.delete, RT.grant, 0, []⟩] = none := by
  unfold CtlReady; decide +kernel

theorem test_witness_ctxCreate : CtlReady tState 0x30 (tCtl (toLE 8 7 ++ zeros 32)) ∧ le (toLE 8 7 ++ zeros 32) 0 8 ≠ 0 ∧
    validate tState false [bodyChange .add RT.context (tCtl (toLE 8 7 ++ zeros 32))] = none := by unfold CtlReady; decide +kernel

theorem test_witness_admitAdd : CtlReady tState 0x32 (tCtl (toLE 8 1537 ++ toLE 8 tEp)) ∧
    validate tState false [bodyChange .add RT.admitRec (tCtl (toLE 8 1537 ++ toLE 8 tEp))] = none := by unfold CtlReady; decide +kernel

theorem test_witness_admitRemove : CtlReady tState 0x33 (tCtl (toLE 8 1280)) ∧
    validate tState false [⟨.delete, RT.admitRec, 1280, []⟩] = none := by unfold CtlReady; decide +kernel

/-- QOS of context 5: weights 1, no rates, 4 trackers. -/
def tQos : Bytes := fit ([1, 1, 1, 1, 1] ++ zeros 15 ++ toLE 2 4) 32

theorem test_witness_qosSet : CtlReady tState 0x34 (tCtl (toLE 8 5 ++ tQos)) ∧ (recOf tState RT.qos 5).isSome = false ∧
    validate tState false [bodyChange .add RT.qos (tCtl (toLE 8 5 ++ tQos))] = none ∧
    validate (tRecs [⟨RT.qos, 5, tQos⟩]) false [bodyChange .replace RT.qos (tCtl (toLE 8 5 ++ tQos))] = none := by unfold CtlReady; decide +kernel

/-- Composition 1 of switch 42 and endpoint P13, context 5. -/
def tComp : Bytes := [1, 0] ++ toLE 2 1 ++ toLE 2 5 ++ zeros 10 ++ toLE 4 42 ++ toLE 4 tEp

theorem test_witness_compCreate : CtlReady tState 0x61 (tCtl (toLE 8 1 ++ tComp)) ∧
    validate tState false [bodyChange .add RT.composition (tCtl (toLE 8 1 ++ tComp))] = none := by unfold CtlReady; decide +kernel

/-! Contexts, events, activation, revocation -/

theorem test_witness_ctxReset : CtlReady tState 0x40 (tCtl (toLE 4 5)) ∧ ctxEndBad tState 5 = none ∧ ctxEndBad tState 0 = some Sts.denied ∧
    ctxEndBad tState 9 = some Sts.nohome := by unfold CtlReady; decide +kernel

theorem test_witness_ctxDestroy : CtlReady tState 0x31 (tCtl (toLE 4 6)) ∧ ctxEndBad tState 6 = none ∧ ctxNamed tState 6 = false ∧
    ctxNamed tState 5 = true := by unfold CtlReady; decide +kernel

/-- tState with context 6 in a phase on each die. -/
def tPhase (p q : CtxPhase) : State := modCtx tState 6 (fun x => { x with phase := ⟨p, q⟩ })

theorem test_witness_stalkApply : ctxPhase (tPhase .resetting .active) .d0 6 = .resetting ∧ ctxPhase (tPhase .resetting .active) .d1 6 = .active ∧
    ctxPhase (tPhase .active .destroying) .d1 6 = .destroying := by decide +kernel

theorem test_witness_ctxResetComplete : ctxPhase (tPhase .resetting .resetting) .d0 6 = .resetting ∧
    ctxPhase (tPhase .resetting .resetting) .d1 6 = .resetting ∧ ctxQuiet (tPhase .resetting .resetting) .d0 6 = true ∧
    ctxQuiet (tPhase .resetting .resetting) .d1 6 = true := by decide +kernel

theorem test_witness_ctxDestroyComplete : ctxPhase (tPhase .destroying .destroying) .d0 6 = .destroying ∧
    ctxPhase (tPhase .destroying .destroying) .d1 6 = .destroying ∧ ctxQuiet (tPhase .destroying .destroying) .d0 6 = true ∧
    ctxQuiet (tPhase .destroying .destroying) .d1 6 = true := by decide +kernel

/-- tState with one event queued for a stream; sub-link 0 of P13 in service with credit for its frame. -/
def tEvent (c : Nat) : State := modEv (modSub tState 13 0 (fun x => { x with phase := .up, limits := [16, 16, 16, 16, 16, 16, 16, 68] })) .d0
  (fun v => { v with queue := [⟨c, c, 0x31, true, none, 1, zeros 8, false⟩] })

theorem test_witness_eventSend_none : headEvent (tEvent 6) .d0 6 = some ⟨6, 6, 0x31, true, none, 1, zeros 8, false⟩ ∧
    (none : Option Nat).getD (eventEp (tEvent 6) 6) = 0 := by decide +kernel

theorem test_witness_eventSend : headEvent (tEvent 5) .d0 5 = some ⟨5, 5, 0x31, true, none, 1, zeros 8, false⟩ ∧ eventEp (tEvent 5) 5 = tEp ∧
    get? (side (tEvent 5).ev .d0).lastAt 5 = none ∧
    eventWay (tEvent 5) tEp (cellsOf (eventFrame (tEvent 5) .d0 ⟨5, 5, 0x31, true, none, 1, zeros 8, false⟩ tEp).payload.length) = true := by
  decide +kernel

theorem test_witness_countersPeriod : countersOn tState 5 = true ∧ countersOn tState 6 = false ∧ ctxPhase tState .d0 5 = .active := by decide +kernel

theorem test_witness_cmpSlotFree :
    let s : State := { tState with cmp := { slots := [(3, { phase := .retiring, tables := 1, gen := 2 })] } }
    (getD s.cmp.slots 3 {}).phase = .retiring ∧ slotRefs s 3 = 0 := by decide +kernel

theorem test_witness_bsActivate :
    let s := tCfg (fun c => { c with slotB := { phase := .verified } })
    CtlReady s 0x15 (tCtl (toLE 8 1)) ∧ slotNum (le (toLE 8 1) 0 1) = some .b ∧ (slotOf s .b).phase = .verified ∧ le (toLE 8 1) 1 1 = 0 := by
  unfold CtlReady; decide +kernel

/-- A VERIFIED partial of no section over base id. -/
def tPartial (base : Nat) : State := tCfg (fun c => { c with slotP := {
  phase := .verified, loadId := 1, total := 256
  bytes := (rangeFrom 0 256).map (fun i => (i, nth (zeros 32 ++ toLE 8 base) i 0)) } })

theorem test_witness_bsActivate_partial : CtlReady (tPartial 1) 0x15 (tCtl (toLE 8 2)) ∧ slotNum (le (toLE 8 2) 0 1) = some .p ∧
    partialBad (tPartial 1) (bsBytes (tPartial 1).cfg.slotP) ((readChanges true (bsBytes (tPartial 1).cfg.slotP)).getD []) = none ∧
    partialBad (tPartial 2) (bsBytes (tPartial 2).cfg.slotP) ((readChanges true (bsBytes (tPartial 2).cfg.slotP)).getD []) = some Sts.stale := by
  unfold CtlReady; decide +kernel

/-- tState applying a partial of some changes, some records draining. -/
def tApply (cs : List Change) (dr : List Drain) : State := tCfg (fun c => { c with applying := some ⟨1, tEp, 0, 1, 0, cs⟩, draining := dr })

theorem test_witness_partialApply : (tApply [] []).cfg.applying = some ⟨1, tEp, 0, 1, 0, []⟩ ∧ (tApply [] []).cfg.draining = [] := by decide +kernel

theorem test_witness_partialApply_one : needsDrain (tApply [⟨.add, RT.admitRec, 1281, toLE 8 (42 * 256 + 12)⟩] [])
    ⟨.add, RT.admitRec, 1281, toLE 8 (42 * 256 + 12)⟩ = false := by decide +kernel

/-- P13's record drains to be deleted, and P13 is quiet. -/
theorem test_witness_recordDrainDone : drainQuiet (drainKick ⟨RT.port, 13, []⟩ (tApply [] [⟨RT.port, 13, []⟩])) ⟨RT.port, 13, []⟩ = true := by decide +kernel

theorem test_witness_extRevoke : CtlReady tState 0x21 (tCtl (toLE 4 2)) ∧ (extOf tState 2).isSome = true ∧
    extPhase tState tState.cfg.activeSp 2 = .active := by unfold CtlReady; decide +kernel

/-- tState with extent 2 in a phase on each die. -/
def tRev (p q : ExtPhase) : State := modExt tState 2 (fun x => { x with phase := ⟨p, q⟩ })

theorem test_witness_extRevokeStalkApply : (extOf (tRev .revoking .active) 2).isSome = true ∧ extPhase (tRev .revoking .active) .d0 2 = .revoking ∧
    extPhase (tRev .revoking .active) .d1 2 = .active := by decide +kernel

theorem test_witness_extentRevoked :
    let s := tRev .revoking .revoking
    let e := extView 2 ((recOf s RT.extent 2).getD [])
    extOf s 2 = some e ∧ extPhase s .d0 2 = .revoking ∧ extPhase s .d1 2 = .revoking ∧ extWork (revokeProgress e s) e = false ∧
      extLines (revokeProgress e s) e.die e = [] ∧ ccDirtyIn (revokeProgress e s) e.die e = [] := by decide +kernel

/-! Links -/

/-- tState with a sub-link changed. -/
def tSub (p k : Nat) (g : SubState → SubState) : State := modSub tState p k g

theorem test_witness_linkTrainingDone : subThere tState 13 0 = true ∧ (subOf tState 13 0).phase = .down ∧ portMacsec tState 13 = false ∧
    portPfc tState 13 = false ∧ subThere tState 14 0 = true ∧ portPfc tState 14 = true ∧ subThere tState 15 0 = true ∧ portMacsec tState 15 = true ∧
    subThere tState 64 0 = true ∧ (subOf tState 64 0).phase = .down := by decide +kernel

theorem test_witness_linkInitSend : (subOf (tSub 13 0 (fun x => { x with phase := .init })) 13 0).phase = .init ∧
    (subOf (tSub 13 0 (fun x => { x with phase := .init })) 13 0).peerInit = false := by decide +kernel

/-- The LINK_INIT frame of an accelerator at P13. -/
def tInit : Frame := { opcode := Opc.linkInit, payload := initPayload (tSub 13 0 (fun x => { x with phase := .init })) 13 0, length := 48 }

theorem test_witness_linkInit : portPfc tState 13 = false ∧ (fit tInit.payload 48).length = 48 ∧ tInit.payload.length = 48 ∧
    initOk (tSub 13 0 (fun x => { x with phase := .init })) 13 tInit.payload = true ∧
    initOk (tSub 13 0 (fun x => { x with phase := .init })) 13 (zeros 48) = false := by decide +kernel

theorem test_witness_linkInit_up : (subOf (tSub 13 0 (fun x => { x with phase := .up })) 13 0).phase = .up ∧ tInit.payload.length = 48 := by decide +kernel

theorem test_witness_linkCredit : (zeros 32).length = 32 ∧ (subOf (tSub 13 0 (fun x => { x with phase := .init, peerInit := true })) 13 0).phase = .init ∧
    (subOf (tSub 13 0 (fun x => { x with phase := .init, peerInit := true })) 13 0).peerInit = true := by decide +kernel

theorem test_witness_linkCreditSend :
    let s := tSub 13 0 (fun x => { x with phase := .up, unreturned := [3, 0, 0, 0, 0, 0, 0, 1] })
    portPfc s 13 = false ∧ (subOf s 13 0).phase = .up ∧ (side s.swc (portDie 13)).withhold = false ∧ writeRecFull s 13 = false ∧
      (subOf s 13 0).creditHold = [0, 0, 0, 0, 0, 0, 0, 0] := by decide +kernel

theorem test_witness_linkNak :
    let s := tSub 13 0 (fun x => { x with phase := .up, nakSent := true, replay := [⟨0xFFFFFF, {}, {}, []⟩, ⟨0, {}, {}, []⟩] })
    portPfc s 13 = false ∧ (subOf s 13 0).phase = .up ∧ (subOf s 13 0).nakSent = true ∧
      ((subOf s 13 0).replay.filter (fun h => h.lseq.toNat == 0 || newer 24 h.lseq.toNat 0)).length = 1 := by decide +kernel

theorem test_witness_linkDown : (subOf (tSub 13 0 (fun x => { x with phase := .up, replays := 8 })) 13 0).phase = .up ∧
    8 ≤ (subOf (tSub 13 0 (fun x => { x with phase := .up, replays := 8 })) 13 0).replays ∧
    (subOf (tSub 13 0 (fun x => { x with phase := .keying })) 13 0).phase = .keying := by decide +kernel

theorem test_witness_portReset : CtlReady tState 0x41 (tCtl (toLE 4 64)) ∧ CtlReady tState 0x41 (tCtl (toLE 4 13)) ∧
    portSubs tState 13 = [0] := by unfold CtlReady; decide +kernel

theorem test_witness_portResetComplete :
    let s := modPort (tSub 13 0 (fun x => { x with phase := .up })) 13 (fun x => { x with resetJob := some 1 })
    (portOf s 13).resetJob.isSome = true ∧ (portSubs s 13).all (fun k => (subOf s 13 k).phase == .up) = true := by decide +kernel

theorem test_witness_pfcFrame :
    let s := tSub 14 0 (fun x => { x with phase := .up, xoff := [false, true, false, false, false, false, false, true] })
    portPfc s 14 = true ∧ (subOf s 14 0).phase = .up ∧ 7 < (subOf s 14 0).paused.length := by decide +kernel

/-- P15 as the responder, P20 toward switch 43 as the initiator. -/
theorem test_witness_kaHello :
    let s := tSub 15 0 (fun x => { x with phase := .keying })
    kaMay s 15 0 = true ∧ kaInitiator s 15 = false ∧ portRole s 15 ≠ 4 ∧ (zeros 1600).length = 1600 ∧
      ¬((subOf s 15 0).ka.hello = zeros 1600 ∧ (subOf s 15 0).ka.lastSent = 2) := by decide +kernel

theorem test_witness_kaReply :
    let s := tSub 20 0 (fun x => { x with phase := .keying, ka := { lastSent := 1 } })
    kaMay s 20 0 = true ∧ kaInitiator s 20 = true ∧ (subOf s 20 0).ka.lastSent = 1 := by decide +kernel

theorem test_witness_kaDone :
    let s := tSub 15 0 (fun x => { x with phase := .keying, ka := { lastSent := 2 } })
    kaMay s 15 0 = true ∧ kaInitiator s 15 = false ∧ (subOf s 15 0).ka.lastSent = 2 := by decide +kernel

theorem test_witness_linkRekey :
    let s := tSub 20 0 (fun x => { x with phase := .up, ka := { keyed := true } })
    (subOf s 20 0).phase = .up ∧ kaMay s 20 0 = true ∧ kaInitiator s 20 = true := by decide +kernel

/-- A sprayed TC1 frame of switch 43 with number n on its way to its resequencer on die 0. -/
def tSpray (n : Nat) : State := modLft tState (fun l => { l with sprayIn := [(0, { frame := { opcode := Opc.ld, tc := 1, srcEp := BitVec.ofNat 20 (43 * 256 + 1) }, trailer := { spreadSeq := BitVec.ofNat 32 n, sprayed := true } })] })

theorem test_witness_sprayed : reseqDie (tSpray 63) 43 = .d0 ∧ (63 : Nat) % 64 ≠ (reseqOf (tSpray 63) 43 1).next % 64 ∧
    get? (reseqOf (tSpray 63) 43 1).held ((reseqOf (tSpray 63) 43 1).next % 64) = none ∧ (0 : Nat) = (reseqOf (tSpray 0) 43 1).next % 64 ∧
    (reseqOf (tSpray 0) 43 1).held = [] ∧ epSwitch (43 * 256 + 1) = 43 := by decide +kernel

theorem test_witness_reseqAckTimer : (reseqOf (modLft tState (fun l => { l with reseq := [(43 * 8 + 1, { next := 5, unacked := 2 })] })) 43 1).unacked ≠ 0 := by
  decide +kernel

theorem test_witness_reseqAck : le (toLE 4 2 ++ toLE 4 9) 0 1 ≤ 2 ∧ (toLE 4 2 ++ toLE 4 9).length = 8 := by decide

theorem test_witness_pathBarrierStart :
    let s := modSub tState 20 0 (fun x => { x with phase := .up })
    answersFor s 43 = false ∧ get? s.lft.barrierTx 43 = none ∧ liveNow s 43 ≠ getD s.lft.livePaths 43 [] := by decide +kernel

/-- The PATH_BARRIER of switch 43's barrier 7 in class 2, of one path, value 9. -/
def tBarrier : Frame := { opcode := Opc.pathBarrier, tc := 2, srcEp := BitVec.ofNat 20 (43 * 256 + 0xFE), payload := toLE 4 7 ++ [1, 0, 0, 0] ++ toLE 4 9 }

theorem test_witness_pathBarrier : tBarrier.payload.length = 12 ∧ le tBarrier.payload 4 1 ≠ 0 ∧ epSwitch tBarrier.srcEp.toNat = 43 ∧
    crossing tState 43 2 = false ∧ tState.lft.sprayIn.all (fun x => epSwitch x.2.frame.srcEp.toNat != 43) = true ∧
    get? tState.lft.barrierRx 43 = none := by decide +kernel

theorem test_witness_pathBarrier_last : (modAt [1, 1, 0, 1, 1, 1, 1, 1] 2 (· + 1)).all (fun c => decide (le tBarrier.payload 4 1 ≤ c)) = true ∧
    hasSlot tState 43 2 = true := by decide +kernel

theorem test_witness_pathBarrierAck :
    let s := modLft tState (fun l => { l with barrierTx := [(43, ⟨7, [20], []⟩)] })
    s.lft.barrierTx = [(epSwitch (43 * 256 + 0xFE), ⟨7, [20], []⟩)] ∧ (7 : Nat) = le (toLE 4 7) 0 4 := by decide +kernel

/-! The switch core and the ingress -/

/-- A load of 64 bytes of extent 1 by P13 under context 5. -/
def tLd : Frame := { opcode := Opc.ld, tc := 0, ctx := 5, seq := 1, tag := 1, addr := BitVec.ofNat 64 (42 * 2 ^ 52 + 2 ^ 21), opspec := 64 }

/-- tObj with sub-link 0 of P13 in service. -/
def tUp : State := modSub tObj 13 0 (fun x => { x with phase := .up, limits := [16, 16, 16, 16, 16, 16, 16, 68] })

/-- That load on the wire of P13. -/
def tWire : WireFrame := { hcrc := hcrcOf tLd, trailer := { seqValid := true }, frame := tLd }

theorem test_witness_frameIngress : OnWire tUp 13 0 tWire ∧ tWire.frame.acq = false ∧ tWire.frame.rel = false ∧ tWire.frame.payload = [] ∧
    sampleOn tUp 13 0 = false ∧ tWire.frame.length = 0 ∧ NothingHolds tUp 13 (stamped tUp 13 0 tLd) := by
  unfold OnWire NothingHolds; decide +kernel

theorem test_witness_frameIngress_checks : PassesChecks tUp 13 tWire.etherType (stamped tUp 13 0 tLd) ∧ answersFor tUp (destSwitch tLd) = true ∧
    destOf tUp (stamped tUp 13 0 tLd) 0 = some (portDie 13, .home) ∧ fifoOf tUp (portDie 13) .home 0 = [] := by
  unfold PassesChecks; decide +kernel

theorem test_witness_frameIngress_hcrc : subThere tUp 13 0 = true ∧ (subOf tUp 13 0).phase = .up ∧ wireBad tUp 13 0 { tWire with hcrc := tWire.hcrc + 1 } = none ∧
    tWire.etherType = tUp.cfg.ethLft ∧ ({ tWire with hcrc := tWire.hcrc + 1 } : WireFrame).hcrc ≠ hcrcOf tWire.frame := by decide +kernel

/-- The load passes P13 and stands in the home unit's FIFO with P13 as its source (R57). -/
theorem test_frameIngress_stamps : (match exec (.frameIngress 13 0 tWire) tUp with
    | .next t => ((fifoOf t .d0 .home 0).map (fun x => x.frame.srcEp.toNat))
    | _ => []) = [tEp] := by decide +kernel

/-- A STOP of every class of P13. -/
def tStop : CtlReq := tCtl (toLE 8 1)

theorem test_witness_stop : stopBusy tState = false ∧ stopBad tState tStop = none ∧ (side tState.swc tStop.die).stops.contains 1 = false ∧
    (side tState.swc tStop.die).stops.length < 64 := by decide +kernel

/-- tState with that selector stopped on both dies. -/
def tStopped : State := modSwc (modSwc tState .d0 (fun x => { x with stops := [1] })) .d1 (fun x => { x with stops := [1] })

theorem test_witness_resume : stopBusy tStopped = false ∧ stopBad tStopped tStop = none ∧
    (side tStopped.swc tStop.die).stops.contains (BitVec.ofNat 64 (le tStop.args 0 8)) = true := by decide +kernel

theorem test_witness_stopStalkApply : (side (modSwc tState .d1 (fun x => { x with stopMsgs := [(true, 1)] })).swc .d1).stopMsgs = (true, 1) :: [] := by
  decide +kernel

/-- tState with a frame queued for an output of die 0. -/
def tQueued (o : Output) : State := setFifo (modSub tState 13 0 (fun x => { x with phase := .up, limits := [16, 16, 16, 16, 16, 16, 16, 68] })) .d0 o 0 [{ frame := tLd }]

theorem test_witness_egressSend_home : deadTc (tQueued .home) .d0 .home = none ∧ (pickTc (tQueued .home) .d0 .home).map (·.1) = some 0 ∧
    (side (tQueued .home).swc .d0).agentHold = [] ∧ readyAt (tQueued .home) .d0 .home 0 = some 0 ∧ (fifoOf (tQueued .home) .d0 .home 0)[0]? = some { frame := tLd } := by decide +kernel

theorem test_witness_egressSend_stalk : deadTc (tQueued .stalk) .d0 .stalk = none ∧ (pickTc (tQueued .stalk) .d0 .stalk).map (·.1) = some 0 ∧
    (side (tQueued .stalk).swc .d0).agentHold = [] ∧ readyAt (tQueued .stalk) .d0 .stalk 0 = some 0 ∧ (fifoOf (tQueued .stalk) .d0 .stalk 0)[0]? = some { frame := tLd } := by decide +kernel

theorem test_witness_egressSend_sub : deadTc (tQueued (.sub 13 0)) .d0 (.sub 13 0) = none ∧
    (pickTc (tQueued (.sub 13 0)) .d0 (.sub 13 0)).map (·.1) = some 0 ∧
    (side (tQueued (.sub 13 0)).swc .d0).agentHold = [] ∧ readyAt (tQueued (.sub 13 0)) .d0 (.sub 13 0) 0 = some 0 ∧
    (fifoOf (tQueued (.sub 13 0)) .d0 (.sub 13 0) 0)[0]? = some { frame := tLd } := by decide +kernel

theorem test_witness_egressSend_idle : (side tState.swc .d0).agentHold = [] ∧ deadTc tState .d0 .home = none ∧ (pickTc tState .d0 .home).isNone = true := by decide +kernel

/-- tState with the load on the stalk toward die 0. -/
def tStalk : State := modSwc tObj .d0 (fun x => { x with stalkIn := [⟨0, 0, { frame := tLd }, stalkCrc tLd⟩] })

theorem test_witness_stalkReceive : (side tStalk.swc .d0).stalkIn.find? (fun y => y.tc == 0) = some ⟨0, 0, { frame := tLd }, stalkCrc tLd⟩ ∧
    (side tStalk.swc .d0).stalkNext ≤ 0 ∧ 0 ∉ (side tStalk.swc .d0).stalkSeen ∧ destOf tStalk tLd 0 = some (.d0, .home) ∧ fifoOf tStalk .d0 .home 0 = [] := by decide +kernel

/-- The load as P13 holds it. -/
def tHeld : HeldFrame := ⟨0, 5, { frame := stamped tState 13 0 tLd }⟩

/-- An earlier load of P13 with ACQ. -/
def tLdAcq : Frame := { tLd with srcEp := BitVec.ofNat 20 tEp, tag := 9, acq := true }

/-- tState with P13 changed. -/
def tPort (g : PortState → PortState) : State := modPort tState 13 g

theorem test_witness_releaseForward :
    let s := tPort (fun x => { x with releases := [⟨tHeld, [3]⟩] })
    (portOf s 13).releases.find? (fun y => keyOf y.held.desc.frame == ⟨tEp, 5, 1⟩ && !y.waits.any (fun o => (openWrites s 13).contains o)) = some ⟨tHeld, [3]⟩ ∧
      (portOf s 13).releases.find? (fun y => keyOf y.held.desc.frame == ⟨tEp, 5, 1⟩) = some ⟨tHeld, [3]⟩ := by decide +kernel

theorem test_witness_acquireHold :
    let s := tPort (fun x => { x with behind := [tHeld], acquires := [⟨0, 2, { frame := tLdAcq }⟩] })
    (portOf s 13).behind.find? (fun h => keyOf h.desc.frame == ⟨tEp, 5, 1⟩ && heldByAcquire s 13 h) = some tHeld := by decide +kernel

theorem test_witness_writeRecord :
    (portOf (tPort (fun x => { x with writeRec := [⟨⟨tEp, 5, 1⟩, false, 1, 1, [], none, 0⟩] })) 13).writeRec.any (fun e => e.key == ⟨tEp, 5, 1⟩) = true := by
  decide +kernel

theorem test_witness_pepperHold : (portOf (tPort (fun x => { x with pepHeld := [tHeld], epochHeld := [tHeld] })) 13).pepHeld[0]? = some tHeld ∧
    (portOf (tPort (fun x => { x with pepHeld := [tHeld], epochHeld := [tHeld] })) 13).epochHeld[0]? = some tHeld := by decide +kernel

/-- A MEM_SYNC of P13 under context 5. -/
def tSync : Frame := { opcode := Opc.memSync, tc := 3, rel := true, acq := true, srcEp := BitVec.ofNat 20 tEp, ctx := 5, tag := 2 }

theorem test_witness_memSync : (portSubs tUp 13).find? (fun j => subEp tUp 13 j == tSync.srcEp.toNat) = some 0 ∧ subThere tUp 13 0 = true ∧
    attachment tUp 13 = true ∧ NothingHolds tUp 13 tSync ∧ PassesChecks tUp 13 tUp.cfg.ethLft tSync ∧ memSyncBad tSync = none ∧
    tSync.payload = [] ∧ tUp.flt.selfFenced = false ∧ (∀ e ∈ (portOf tUp 13).writeRec, ¬(e.key.srcEp = tSync.srcEp.toNat ∧ e.key.ctx = tSync.ctx.toNat)) := by
  unfold NothingHolds PassesChecks; decide +kernel

theorem test_witness_memSync_held :
    let s := modPort tUp 13 (fun x => { x with order := 1, writeRec := [⟨⟨tEp, 5, 1⟩, false, 1, 1, [], none, 0⟩] })
    NothingHolds s 13 tSync ∧ PassesChecks s 13 s.cfg.ethLft tSync ∧ (⟨tEp, 5, 1⟩ : ReqKey) ≠ keyOf tSync ∧ 1 ≤ (portOf s 13).order := by
  unfold NothingHolds PassesChecks; decide +kernel

theorem test_witness_auditPass :
    let s := modSwc tState .d0 (fun x => { x with offFree := [7, 9], suspect := [(9, 0)] })
    7 ∈ (side s.swc .d0).offFree ∧ 7 ∉ usedCells s .d0 ∧ get? (side s.swc .d0).born 7 ≠ some (((side s.swc .d0).auditEpoch + 1) % 65536) ∧
      get? (side s.swc .d0).suspect 9 = some ((((side s.swc .d0).auditEpoch + 1) % 65536 + 65535) % 65536) := by decide +kernel

theorem test_witness_auditPass_used :
    let s := setFifo tState .d0 .home 0 [{ frame := tLd, cells := [7] }]
    7 ∉ (side s.swc .d0).offFree ∧ 7 ∈ usedCells s .d0 := by decide +kernel

theorem test_witness_cellEccError : (fifoOf (tQueued .home) .d0 .home 0)[0]? = some { frame := tLd } := by decide +kernel

theorem test_witness_localFraction : side (tCfg (fun c => { c with totalBytes := ⟨96, 0⟩, localBytes := ⟨32, 0⟩ })).cfg.totalBytes .d0 ≠ 0 := by decide +kernel

/-! Memory requests -/

/-- A load of 64 bytes of tObj's object, as the home sees it. -/
def tLdH : Frame := { tLd with srcEp := BitVec.ofNat 20 tEp, opspec := 64 }

/-- A store of 64 bytes there. -/
def tStH : Frame := { tLdH with opcode := Opc.st, opspec := 0, length := 64, payload := List.replicate 64 0xAB#8 }

/-- An AMO ADD of 4 bytes there. -/
def tAmoH : Frame := { tLdH with opcode := Opc.amo, tc := 3, opspec := 0x0020, length := 4, payload := [1, 0, 0, 0] }

/-- A CAS of 4 bytes there. -/
def tCasH : Frame := { tLdH with opcode := Opc.cas, tc := 3, opspec := 0x0020, length := 8, payload := [0, 0, 0, 0, 9, 0, 0, 0] }

theorem test_witness_ld : MemTaken tObj .d0 tLdH ∧ bitAt tLdH.opspec.toNat 15 = false ∧ MemServed (takeHome .d0 tLdH tObj) .d0 tLdH := by
  unfold MemTaken TakesNow MemServed; decide +kernel

/-- No row of tObj is under repair. -/
theorem tNoRows (a n : Nat) : rowHeld tObj a n = none :=
  List.find?_eq_none.mpr (fun x _ => by show ¬ (List.contains ([] : List (Nat × Nat)) x = true); simp)

/-- The bytes of tObj wait for nothing. -/
theorem tFromT0 (f : Frame) (h : f.addr = tLdH.addr) : FromT0 tObj .d0 f := by
  refine ⟨extView 1 ((recOf tObj RT.extent 1).getD []), ?_, ?_, ?_, ?_, ?_, ?_, ?_⟩
  · rw [h]; decide +kernel
  · rw [h]; decide +kernel
  · exact tNoRows _ _
  · decide +kernel
  · intro _ x _; exact ⟨rfl, rfl, fun _ h => nomatch h⟩
  · intro e; exact absurd e (by decide +kernel)
  · rfl

theorem test_witness_fromT0 : FromT0 tObj .d0 tLdH ∧ FromT0 tObj .d0 tStH ∧ FromT0 tObj .d0 tAmoH ∧ FromT0 tObj .d0 tCasH :=
  ⟨tFromT0 _ rfl, tFromT0 _ rfl, tFromT0 _ rfl, tFromT0 _ rfl⟩

theorem test_witness_ld_poison : poisonedIn tObj (localAddr tObj tLdH.addr.toNat) (accessLen tLdH) = false ∧
    poisonedIn { tObj with poison := [(42 * 2 ^ 52 + 2 ^ 21) / 64] } (localAddr tObj tLdH.addr.toNat) (accessLen tLdH) = true := by decide +kernel

theorem test_witness_st : MemTaken tObj .d0 tStH ∧ tStH.cmp = false ∧ MemServed (takeHome .d0 tStH tObj) .d0 tStH ∧
    poisonPart tObj (localAddr tObj tStH.addr.toNat) (accessLen tStH) = false := by unfold MemTaken TakesNow MemServed; decide +kernel

theorem test_witness_amo : MemTaken tObj .d0 tAmoH ∧ MemServed (takeHome .d0 tAmoH tObj) .d0 tAmoH ∧ winCheck tObj .d0 tAmoH = none ∧
    poisonedIn tObj (localAddr tObj tAmoH.addr.toNat) (accessLen tAmoH) = false := by unfold MemTaken TakesNow MemServed; decide +kernel

theorem test_witness_cas : MemTaken tObj .d0 tCasH ∧ MemServed (takeHome .d0 tCasH tObj) .d0 tCasH ∧ winCheck tObj .d0 tCasH = none := by
  unfold MemTaken TakesNow MemServed; decide +kernel

/-- tObj with that AMO already performed. -/
def tWin : State := modHome tObj .d0 (fun h => { h with windows := [(winKey tAmoH, ⟨0, [⟨1, Opc.amo, tAmoH.addr, [7, 0, 0, 0], Sts.ok⟩]⟩)] })

theorem test_witness_amo_again : MemTaken tWin .d0 tAmoH ∧ MemServed (takeHome .d0 tAmoH tWin) .d0 tAmoH ∧
    winCheck tWin .d0 tAmoH = some (Sts.duplicate, [7, 0, 0, 0]) := by unfold MemTaken TakesNow MemServed; decide +kernel

/-- An AMO at an odd address. -/
def tOdd : Frame := { tAmoH with addr := tAmoH.addr + 1 }

theorem test_witness_misaligned : MemTaken tObj .d0 tOdd ∧ memFormBad tOdd = none ∧ outstanding (takeHome .d0 tOdd tObj) .d0 (keyOf tOdd) = false ∧
    memAligned tOdd = false := by unfold MemTaken TakesNow; decide +kernel

theorem test_witness_window_align : regFormBad { opcode := Opc.ld, opspec := 4 } = none ∧
    ¬(accessLen { opcode := Opc.ld, opspec := 4 } = 8 ∧ regOff { opcode := Opc.ld, opspec := 4 } % 8 = 0) := by decide +kernel

theorem test_witness_amoAck :
    let f : Frame := { opcode := Opc.amoAck, srcEp := BitVec.ofNat 20 tEp, ctx := 5, addr := tLdH.addr, payload := toLE 3 1 ++ [1, 0, 0, 0, 0] }
    serveDie tWin f = .d0 ∧ mustWait tWin .d0 f = false ∧ homeTurn tWin .d0 [f] = true ∧ f.payload.length = 8 ∧ ctxAdmits tWin .d0 f = true ∧
      (extAt tWin (transOff tWin f.addr.toNat)).elim false (fun e => extPhase tWin .d0 e.idx != .free) = true ∧
      (get? (side tWin.home .d0).windows (winKey f)).isSome = true ∧ newer 24 (BitVec.ofNat 24 (le f.payload 0 3)).toNat 0 = true ∧
      get? (side tObj.home .d0).windows (winKey f) = none ∧ bitAt (le f.payload 3 1) 0 = true := by decide +kernel

theorem test_witness_combined : oneCombined tLdH [{ tLdH with tag := 2 }] = true ∧
    TakesNow tObj .d0 tLdH [{ tLdH with tag := 2 }] ∧ agedNo tObj .d0 [tLdH, { tLdH with tag := 2 }] = 0 ∧
    (∀ g ∈ [tLdH, { tLdH with tag := 2 }], g.opcode = Opc.ld ∧ memBad (takeHomeAll .d0 [tLdH, { tLdH with tag := 2 }] tObj) .d0 g = none) ∧
    (findTrackers (takeHomeAll .d0 [tLdH, { tLdH with tag := 2 }] tObj) .d0 (trackers tObj .d0) [tLdH, { tLdH with tag := 2 }]).2 = [] := by
  unfold TakesNow; decide +kernel

/-- A wrong AMO_ACK is not of 8 bytes; an uncorrectable error stands in the granule the load reads; the load waits at the home's input. -/
theorem test_witness_mem_others : (zeros 4).length ≠ 8 ∧ EccIn tObj tLdH [(42 * 2 ^ 52 + 2 ^ 21) / 64] ∧
    ((side (modHome tObj .d0 (fun h => { h with inbox := [{ frame := tLdH }] })).home .d0).inbox.find? (fun y =>
      (y.frame :: y.more).any (fun f => keyOf f == ⟨tEp, 5, 1⟩) && agedNo tObj .d0 (y.frame :: y.more) == 0)).isSome = true := by
  unfold EccIn; decide +kernel

/-- tObj with the load waiting behind another. -/
def tWaits : State := modHome tObj .d0 (fun h => { h with order := 2, waiting := [
  { frame := { tStH with tag := 4 }, wait := .tray, order := 1 }, { frame := tLdH, wait := .behind 0, order := 2 }] })

theorem test_witness_requestAged : (side tWaits.home .d0).waiting.find? (fun x => (x.frame :: x.more).any (fun f => keyOf f == ⟨tEp, 5, 1⟩) && x.aged == 0) =
    some { frame := tLdH, wait := .behind 0, order := 2 } := by decide +kernel

/-! Orders of waiting requests (R174, R192, R204) -/

/-- Behind a request to the same line the load goes on waiting; aged, it is served at once, and the other waits on. -/
theorem test_lineAhead : lineAhead tWaits .d0 2 (linesOf (localAddr tObj tLdH.addr.toNat) 64) = true ∧
    (match exec (.requestAged .d0 ⟨tEp, 5, 1⟩) tWaits with
      | .next t => (side t.home .d0).waiting.map (·.order)
      | _ => []) = [1] := by decide +kernel

/-- FADD of a NaN gives the canonical NaN (R169). -/
theorem test_amo_fadd_nan : amoResult 9 4 0x7F800001 0x3F800000 = 0x7FC00000 := by decide +kernel
/-- Signed and unsigned minimum differ on a negative word (R169). -/
theorem test_amo_min : amoResult 4 4 1 0xFFFFFFFF = 0xFFFFFFFF ∧ amoResult 6 4 1 0xFFFFFFFF = 1 := by decide +kernel

/-! Coherence -/

/-- Line 0 of extent 2. -/
def tLine : Nat := (42 * 2 ^ 52 + 2 ^ 26) / 64

/-- A coherence request of P13 for that line. -/
def tCoh (o : Byte) : Frame := { opcode := o, tc := 4, srcEp := BitVec.ofNat 20 tEp, ctx := 5, tag := 1, addr := BitVec.ofNat 64 (42 * 2 ^ 52 + 2 ^ 26) }

/-- tState with that line's directory entry. -/
def tDir (e : DirEntry) : State := modCoh tState .d0 (fun c => { c with dir := [(tLine, e)] })

/-- Nobody waits and the line of a request is at hand. -/
theorem tCohServed (s : State) (f : Frame) (h : (side s.home .d0).waiting = []) (e : ExtV)
    (k : cohRefusal s .d0 f = none ∧ (findTracker s .d0 f).isSome = true ∧ s.poison.contains (cohLine s f) = false ∧
      extAt s (addrOff (lineAddr (cohLine s f))) = some e ∧ e.policy ≠ 2) : CohServed s .d0 f := by
  refine ⟨k.1, k.2.1, ?_, k.2.2.1, ?_, ?_⟩
  · intro w hw; rw [h] at hw; cases hw
  · intro e' he; rw [k.2.2.2.1] at he; cases he; exact k.2.2.2.2
  · rw [h]; rfl

theorem test_witness_crd : MemTaken tState .d0 (tCoh Opc.crdS) ∧ memberIdx tState .d0 (cohDomain tState .d0 (tCoh Opc.crdS)) tEp = some 0 ∧
    dirOf tState .d0 (cohLine tState (tCoh Opc.crdS)) = none ∧ (dirWays tState .d0 (Config.dirSetOf tLine)).length < 16 ∧ cohLine tState (tCoh Opc.crdM) = tLine := by
  unfold MemTaken TakesNow; decide +kernel

theorem test_witness_crd_served : CohServed (takeHome .d0 (tCoh Opc.crdS) tState) .d0 (tCoh Opc.crdS) ∧
    CohServed (takeHome .d0 (tCoh Opc.crdM) tState) .d0 (tCoh Opc.crdM) :=
  ⟨tCohServed _ _ rfl (extView 2 ((recOf tState RT.extent 2).getD [])) (by decide +kernel),
   tCohServed _ _ rfl (extView 2 ((recOf tState RT.extent 2).getD [])) (by decide +kernel)⟩

theorem test_witness_crdS_shared : dirOf (tDir { st := .s, domain := 0, ptrs := [1] }) .d0 (cohLine tState (tCoh Opc.crdS)) =
    some { st := .s, domain := 0, ptrs := [1] } ∧ CohServed (takeHome .d0 (tCoh Opc.crdS) (tDir { st := .s, domain := 0, ptrs := [1] })) .d0 (tCoh Opc.crdS) :=
  ⟨by decide +kernel, tCohServed _ _ rfl (extView 2 ((recOf tState RT.extent 2).getD [])) (by decide +kernel)⟩

theorem test_witness_cupg : CohServed (takeHome .d0 (tCoh Opc.cupg) (tDir { st := .s, domain := 0, ptrs := [0] })) .d0 (tCoh Opc.cupg) ∧
    cohDomain (tDir { st := .s, domain := 0, ptrs := [0] }) .d0 (tCoh Opc.cupg) = 0 :=
  ⟨tCohServed _ _ rfl (extView 2 ((recOf tState RT.extent 2).getD [])) (by decide +kernel), by decide +kernel⟩

theorem test_witness_crdM_shared : CohServed (takeHome .d0 (tCoh Opc.crdM) (tDir { st := .s, domain := 0, ptrs := [0, 1] })) .d0 (tCoh Opc.crdM) ∧
    [0, 1].any (fun p => p != 0) = true :=
  ⟨tCohServed _ _ rfl (extView 2 ((recOf tState RT.extent 2).getD [])) (by decide +kernel), by decide⟩

theorem test_witness_crdS_owned :
    let s := tDir { st := .m, domain := 0, ptrs := [1] }
    CohServed (takeHome .d0 (tCoh Opc.crdS) s) .d0 (tCoh Opc.crdS) ∧
      ((holdersOf s .d0 { st := .m, domain := 0, ptrs := [1] }).headD 0 = 42 * 256 + 12 ∧ 42 * 256 + 12 ≠ (tCoh Opc.crdS).srcEp.toNat) :=
  ⟨tCohServed _ _ rfl (extView 2 ((recOf tState RT.extent 2).getD [])) (by decide +kernel), by decide +kernel⟩

/-- The CWB of the line. -/
def tCwb : Frame := { tCoh Opc.cwb with length := 64, payload := List.replicate 64 5#8 }

theorem test_witness_cwb :
    let s := tDir { st := .m, domain := 0, ptrs := [0] }
    CohServed (takeHome .d0 tCwb s) .d0 tCwb ∧ (holdersOf s .d0 { st := .m, domain := 0, ptrs := [0] }).headD 0 = tCwb.srcEp.toNat :=
  ⟨tCohServed _ _ rfl (extView 2 ((recOf tState RT.extent 2).getD [])) (by decide +kernel), by decide +kernel⟩

theorem test_witness_cevict : CohServed (takeHome .d0 (tCoh Opc.cevict) (tDir { st := .s, domain := 0, ptrs := [0] })) .d0 (tCoh Opc.cevict) :=
  tCohServed _ _ rfl (extView 2 ((recOf tState RT.extent 2).getD [])) (by decide +kernel)

/-- tDir in a transaction of number 9. -/
def tTxn (st : LineSt) (k : TxnKind) (awaited : List Nat) (owner : Option Nat) : State :=
  tDir { st := st, domain := 0, ptrs := [0, 1], txn := some { num := 9, kind := k, req := some (tCoh Opc.crdM), awaited := awaited, owner := owner } }

theorem tNoWaits (s : State) (h : (side s.home .d0).waiting = []) : NoLineWaits s .d0 := by intro w hw; rw [h] at hw; cases hw

theorem test_witness_cinvAck : NoLineWaits (tTxn .sI (.inv false) [42 * 256 + 12] none) .d0 ∧
    (txnOf (tTxn .sI (.inv false) [42 * 256 + 12] none) .d0 9 (42 * 256 + 12)).map (·.1) = some tLine ∧
    [42 * 256 + 12].filter (fun x => x != 42 * 256 + 12) = [] ∧ lineLost (tTxn .sI (.inv false) [42 * 256 + 12] none) tLine = false ∧
    memberIdx tState .d0 0 (tCoh Opc.crdM).srcEp.toNat = some 0 :=
  ⟨tNoWaits _ rfl, by decide +kernel⟩

theorem test_witness_cinvAck_more : (txnOf (tTxn .sI (.inv false) [42 * 256 + 12, 42 * 256 + 11] none) .d0 9 (42 * 256 + 12)).map (·.1) = some tLine ∧
    [42 * 256 + 12, 42 * 256 + 11].filter (fun x => x != 42 * 256 + 12) ≠ [] := by decide +kernel

theorem tAtHand (s : State) (h : extAt s (addrOff (lineAddr tLine)) = some (extView 2 ((recOf tState RT.extent 2).getD []))) :
    LineAtHand s tLine := by
  intro e he
  rw [h] at he; cases he; decide +kernel

theorem test_witness_cfwdAck : NoLineWaits (tTxn .mF .fwdM [42 * 256 + 12] (some (42 * 256 + 12))) .d0 ∧ LineAtHand (tTxn .mF .fwdM [42 * 256 + 12] (some (42 * 256 + 12))) tLine ∧
    (txnOf (tTxn .mF .fwdM [42 * 256 + 12] (some (42 * 256 + 12))) .d0 9 (42 * 256 + 12)).map (·.1) = some tLine :=
  ⟨tNoWaits _ rfl, tAtHand _ (by decide +kernel), by decide +kernel⟩

theorem test_witness_crecallAck : NoLineWaits (tTxn .rc (.recall 0 false) [42 * 256 + 12] (some (42 * 256 + 12))) .d0 ∧
    LineAtHand (tTxn .rc (.recall 0 false) [42 * 256 + 12] (some (42 * 256 + 12))) tLine ∧
    (txnOf (tTxn .rc (.recall 0 false) [42 * 256 + 12] (some (42 * 256 + 12))) .d0 9 (42 * 256 + 12)).map (·.1) = some tLine ∧
    lineLost (tTxn .rc (.recall 0 false) [42 * 256 + 12] (some (42 * 256 + 12))) tLine = false :=
  ⟨tNoWaits _ rfl, tAtHand _ (by decide +kernel), by decide +kernel⟩

theorem test_witness_fenceNotice : (side (tDir { st := .m, domain := 0, ptrs := [0] }).home .d0).waiting = [] ∧
    (side (tDir { st := .m, domain := 0, ptrs := [0] }).coh .d0).dir = [(tLine, { st := .m, domain := 0, ptrs := [0] })] ∧
    (holdersOf (tDir { st := .m, domain := 0, ptrs := [0] }) .d0 { st := .m, domain := 0, ptrs := [0] }).contains tEp = true := by decide +kernel

/-- The fenced owner is sent one CRECALL as owner with REASON 2, whose acknowledgement is ignored (R216, R222). -/
theorem test_fence_recall : (match exec (.fenceNotice .d0 tEp) (tDir { st := .m, domain := 0, ptrs := [0] }) with
    | .next t => (side t.coh .d0).fenceTags
    | _ => []) = [(tEp, 0)] := by decide +kernel

/-- A CRD_M in S with four sharers sends CINV to the others (R213). -/
theorem test_crdM_awaits : (match exec (.crdM .d0 (tCoh Opc.crdM)) (tDir { st := .s, domain := 0, ptrs := [0, 1] }) with
    | .next t => ((dirOf t .d0 tLine).bind (·.txn)).map (·.awaited)
    | _ => none) = some [42 * 256 + 12] := by decide +kernel

/-! Objects and tiers -/

/-- Extent 1 as the devices see it. -/
def tExt : ExtV := extView 1 ((recOf tState RT.extent 1).getD [])

/-- OBJ_CREATE in extent 1 of a pinned object of 8,192 bytes, tier 0 asked for. -/
def tMake : Frame := {
  opcode := Opc.objCreate, srcEp := BitVec.ofNat 20 tEp, ctx := 5, tag := 2, addr := BitVec.ofNat 64 (42 * 2 ^ 52 + 2 ^ 21),
  length := 32, payload := fit (toLE 8 8192 ++ [0, 0, 2]) 32 }

theorem test_witness_objCreate : tMake.opcode = Opc.objCreate ∧ toSp tMake = false ∧ TakesNow tObj .d0 tMake [] ∧
    createFormBad tMake = none ∧ outstanding (takeHome .d0 tMake tObj) .d0 (keyOf tMake) = false ∧
    admitted (takeHome .d0 tMake tObj) .d0 tMake = true ∧ extAt tObj (transOff tObj tMake.addr.toNat) = some tExt ∧
    extPhase tObj .d0 tExt.idx = .active ∧ tExt.classT = true ∧ bitAt (rightsOn tObj tExt tMake.ctx.toNat) 3 = true ∧
    allocate (takeHome .d0 tMake tObj) tExt 5 8192 0 none = .inr (0, 0, 0, 2 ^ 21 + 16384) := by unfold TakesNow; decide +kernel

/-- The object of tObj. -/
def tO : Obj := (get? tObj.objs 1).getD {
  owner := 0, tier := 0, st := .resident, kind := 0, pins := 0, addr := 0, size := 0, ext := 0, epoch := 0,
  refcount := 0, loc := 0, gen := 0, comp := none, ses := 0, layer := 0, hg := 0 }

/-- A request of context 5 on that object. -/
def tOp (o : Byte) (b : Bytes) : Frame :=
  { opcode := o, srcEp := BitVec.ofNat 20 tEp, ctx := 5, tag := 2, addr := BitVec.ofNat 64 (handleOf tObj 1 1), length := BitVec.ofNat 16 b.length, payload := b }

/-- tState with tO and a DRAM tray in the group of extent 1. -/
def tTier (o : Obj) : State := { tObj with objs := [(1, o)] }

theorem test_witness_objMove_here : le (toLE 8 0) 0 1 ≤ 2 ∧ zeroAt (toLE 8 0) 1 3 = true ∧ outstanding (takeHome .d0 (tOp Opc.objMove (toLE 8 0)) tObj) .d0 (keyOf (tOp Opc.objMove (toLE 8 0))) = false ∧
    objChecks (takeHome .d0 (tOp Opc.objMove (toLE 8 0)) tObj) .d0 (tOp Opc.objMove (toLE 8 0)) 0 false = .inr (1, tO, tExt) ∧
    policyPermits tExt 0 = true ∧ moveOf tObj .d0 1 = none ∧ tO.st ≠ .moving ∧ tO.tier = 0 := by decide +kernel

theorem test_witness_objMove_there :
    objChecks (takeHome .d0 (tOp Opc.objMove (toLE 8 1)) tObj) .d0 (tOp Opc.objMove (toLE 8 1)) 0 false = .inr (1, tO, tExt) ∧
    policyPermits tExt 1 = true ∧ tO.tier ≠ le (toLE 8 1) 0 1 ∧ chargeFits (takeHome .d0 (tOp Opc.objMove (toLE 8 1)) tObj) 5 1 16384 = true ∧
    (roomIn (takeHome .d0 (tOp Opc.objMove (toLE 8 1)) tObj) .d0 1 16384).isSome = true ∧ (queuedMoves tObj .d0).length < 4096 := by decide +kernel

theorem test_witness_objPin : (tOp Opc.objPin []).payload = [] ∧ outstanding (takeHome .d0 (tOp Opc.objPin []) tObj) .d0 (keyOf (tOp Opc.objPin [])) = false ∧
    objChecks (takeHome .d0 (tOp Opc.objPin []) tObj) .d0 (tOp Opc.objPin []) 0 false = .inr (1, tO, tExt) ∧ tO.pins + 1 < 0xFFFF ∧
    objChecks (takeHome .d0 (tOp Opc.objUnpin []) tObj) .d0 (tOp Opc.objUnpin []) 0 false = .inr (1, tO, tExt) ∧ tO.pins = 0 ∧
    objChecks (takeHome .d0 (tOp Opc.objUnpin []) (tTier { tO with pins := 1 })) .d0 (tOp Opc.objUnpin []) 0 false =
      .inr (1, { tO with pins := 1 }, tExt) := by decide +kernel

theorem test_witness_objFree : zeroAt (zeros 8) 0 4 = true ∧ outstanding (takeHome .d0 (tOp Opc.objFree (zeros 8)) tObj) .d0 (keyOf (tOp Opc.objFree (zeros 8))) = false ∧
    objChecks (takeHome .d0 (tOp Opc.objFree (zeros 8)) tObj) .d0 (tOp Opc.objFree (zeros 8)) 0 true = .inr (1, tO, tExt) ∧ listedPage tObj 1 = false ∧
    moveOf tObj .d0 1 = none := by decide +kernel

theorem test_witness_objFreeRelease : get? (tTier { tO with st := .freeing }).objs 1 = some { tO with st := .freeing } ∧
    accessPending (tTier { tO with st := .freeing }) { tO with st := .freeing } = false ∧
    (extOf (tTier { tO with st := .freeing }) tO.ext).isSome = true := by decide +kernel

/-- OBJ_CLONE into extent 1. -/
def tClone : Frame := tOp Opc.objClone (toLE 8 (42 * 2 ^ 52 + 2 ^ 21) ++ zeros 8)

theorem test_witness_objClone : tClone.payload.length = 16 ∧ zeroAt tClone.payload 10 6 = true ∧
    outstanding (takeHome .d0 tClone tObj) .d0 (keyOf tClone) = false ∧ admitted (takeHome .d0 tClone tObj) .d0 tClone = true ∧
    handleObj tObj tClone.addr.toNat = some (1, tO) ∧ extOf tObj tO.ext = some tExt ∧
    addrSwitch (le tClone.payload 0 8) = addrSwitch tClone.addr.toNat ∧ extAt tObj (addrOff (le tClone.payload 0 8)) = some tExt ∧
    bitAt (rightsOn tObj tExt 5) 0 = true ∧ bitAt (rightsOn tObj tExt 5) 3 = true ∧
    allocate (takeHome .d0 tClone tObj) tExt 5 tO.size 0 none = .inr (0, 0, 0, 2 ^ 21 + 16384) ∧
    tO.addr + granules tO.size * 4096 ≤ 42 * 2 ^ 52 + (2 ^ 21 + 16384) := by decide +kernel

/-- tObj with a move of its object to T1, queued or under way. -/
def tMove (started switching : Bool) : State := modTier (tTier { tO with st := if started then .moving else .resident }) .d0 (fun t =>
  { t with moves := [⟨1, 1, 0, started, switching, [], .spill, 5, 0, 0⟩] })

theorem test_witness_moveStart : nextMove (tMove false false) .d0 = some ⟨1, 1, 0, false, false, [], .spill, 5, 0, 0⟩ ∧
    get? (tMove false false).objs 1 = some tO ∧ tO.tier ≠ 1 ∧ chargeFits (tMove false false) 5 1 16384 = true ∧
    (roomIn (tMove false false) .d0 1 16384).isSome = true := by decide +kernel

theorem test_witness_moveComplete : moveOf (tMove true true) .d0 1 = some ⟨1, 1, 0, true, true, [], .spill, 5, 0, 0⟩ ∧
    moveOf (tMove true true) .d1 1 = none ∧ HomeQuiet (tMove true true) .d0 ∧ get? (tMove true true).objs 1 = some { tO with st := .moving } := by
  unfold HomeQuiet; decide +kernel

/-- tState below its low watermark: a T0 of which nothing is free and no object to move. -/
def tFull : State := { tState with
  tier := ⟨{ lowWm := 2 ^ 30, highWm := 2 ^ 31 }, {}⟩ }

theorem test_witness_spillStart : (side tFull.mtr.escrow .d0).stopped = false ∧ (side tFull.tier .d0).spillEn = true ∧ (side tFull.tier .d0).moves = [] ∧
    t0Free tFull .d0 < (side tFull.tier .d0).lowWm * 512 ∧ t0Free tFull .d0 < (side tFull.tier .d0).highWm * 512 := by decide +kernel

theorem test_witness_spillStart_none : ∀ id, spillable (modTier tFull .d0 (fun x => { x with skip := [] })) .d0 id = false := by
  intro id; rfl

/-- tState with a tray request for a reason. -/
def tTray (w : TrayFor) (o : Byte) (b : Bytes) : State := modTier tState .d0 (fun t =>
  { t with trayReqs := [⟨3, 5, { opcode := o, tag := 3, payload := b }, w⟩], cc := [(tLine, ⟨true, 0⟩)] })

theorem test_witness_ccWriteback : trayReqOf (tTray (.writeback tLine) Opc.st (zeros 64)) .d0 { opcode := 0x11, tag := 3 } =
      some ⟨3, 5, { opcode := Opc.st, tag := 3, payload := zeros 64 }, .writeback tLine⟩ ∧ HomeQuiet (tTray (.writeback tLine) Opc.st (zeros 64)) .d0 ∧
    get? (side (tTray (.writeback tLine) Opc.st (zeros 64)).tier .d0).cc tLine = some ⟨true, 0⟩ ∧
    lineBytes (tTray (.writeback tLine) Opc.st (zeros 64)) tLine = zeros 64 := by unfold HomeQuiet; decide +kernel

theorem test_witness_trayFill : trayReqOf (tTray (.fill tLine) Opc.ld []) .d0 { opcode := 0x10, tag := 3, payload := zeros 64 } =
      some ⟨3, 5, { opcode := Opc.ld, tag := 3 }, .fill tLine⟩ ∧ HomeQuiet (tTray (.fill tLine) Opc.ld []) .d0 := by unfold HomeQuiet; decide +kernel

/-- The load waiting for a DRAM tray. -/
def tTrayLd : State := modHome (tTray (.home tLdH) Opc.ld []) .d0 (fun h => { h with waiting := [{ frame := tLdH, wait := .tray, order := 4 }] })

theorem test_witness_trayHome : trayReqOf tTrayLd .d0 { opcode := 0x10, tag := 3, payload := zeros 64 } =
      some ⟨3, 5, { opcode := Opc.ld, tag := 3 }, .home tLdH⟩ ∧ waitingFor tTrayLd .d0 tLdH = some { frame := tLdH, wait := .tray, order := 4 } := by
  decide +kernel

theorem test_witness_traySense : trayReqOf (tTray (.sense 5) Opc.ld []) .d0 { opcode := 0x10, tag := 3, payload := [5] } =
    some ⟨3, 5, { opcode := Opc.ld, tag := 3 }, .sense 5⟩ := by decide +kernel

theorem test_witness_objects_taken : TakesNow tObj .d0 (tOp Opc.objMove (toLE 8 0)) [] ∧ TakesNow tObj .d0 (tOp Opc.objPin []) [] ∧
    TakesNow tObj .d0 (tOp Opc.objFree (zeros 8)) [] ∧ TakesNow tObj .d0 tClone [] ∧ NothingCopies tObj := by
  refine ⟨?_, ?_, ?_, ?_, fun d => by cases d <;> exact ⟨rfl, rfl⟩⟩ <;> unfold TakesNow <;> decide +kernel

theorem test_witness_packMove :
    let m : Move := { obj := 7, dest := 1, who := .sleep 7, ctx := 5 }
    nextMove (modTier tState .d0 (fun t => { t with moves := [m] })) .d0 = some m ∧ packMove m = true := by decide +kernel

theorem test_witness_copied : copied (tMove true true) .d0 (.move 1) = true ∧ passDue ⟨1, 1, 0, true, false, [], .spill, 5, 0, 0⟩ = false ∧
    packMove ⟨1, 1, 0, true, false, [], .spill, 5, 0, 0⟩ = false := by decide +kernel

theorem test_witness_ccWriteback_sealed (b : Bytes) (h : b = sealMem tState (tLine * 64) (lineBytes tState tLine)) :
    sealMem (tTray (.writeback tLine) Opc.st b) (tLine * 64) (lineBytes (tTray (.writeback tLine) Opc.st b) tLine) = b := h.symm

theorem test_witness_trayStored : waitingFor (modHome (tTray (.home tStH) Opc.st []) .d0 (fun h => { h with waiting := [{ frame := tStH, wait := .tray, order := 4 }] })) .d0 tStH =
      some { frame := tStH, wait := .tray, order := 4 } ∧ (Opc.st : Byte) ≠ Opc.ld := by decide +kernel

/-! Flash -/

/-- tState with volume 3 on the tray of P0, page-mapped or OUVI, 50 thousandths of it SLC pool. -/
def tVol (mapping : Nat) (v : Volume) (x : FtlState) : State :=
  { tRecs [⟨RT.ftlVolume, 3, fit ([0, BitVec.ofNat 8 mapping, 1, 0] ++ zeros 16 ++ toLE 2 500 ++ toLE 2 50) 32⟩] with vols := [(3, v)], ftl := ⟨x, {}⟩ }

/-- Four units staged. -/
def tStaged : List StageSlot := [{ vol := 3, unit := 8 }, { vol := 3, unit := 9 }, { vol := 3, unit := 20 }, { vol := 3, unit := 21 }]

theorem test_witness_slcProgram :
    let s := tVol 0 { st := .online } { staging := tStaged }
    (((side s.ftl .d0).staging.filter (fun x => x.vol == 3 && x.prog.isNone)).map (·.unit)).take 4 = [8, 9, 20, 21] ∧ volDie s 3 = .d0 ∧
      (getD s.vols 3 {}).st = .online ∧ ringFull s .d0 512 = false ∧
      (rangeFrom (getD s.vols 3 {}).rr (64 * (recOf s RT.ftlVolume 3).elim 0 (fun b => le b 2 1))).find? (fun j => (slcBlock s .d0 3 j).isSome) = some 0 ∧
      slcBlock s .d0 3 0 = some (0, true) := by decide +kernel

/-- The program of that page in block 7. -/
def tProg (k : Option RelocKind) : Prog := { id := 2, vol := 3, port := 0, blk := 7, page := 1, units := [8, 9, 20, 21], reloc := k }

/-- tVol with a tray request for a reason. -/
def tVolTray (w : TrayFor) (a : Nat) (v : Volume) (x : FtlState) : State :=
  modTier (tVol 0 v x) .d0 (fun t => { t with trayReqs := [⟨3, 0, { opcode := Opc.st, tag := 3, addr := BitVec.ofNat 64 a }, w⟩] })

/-- The tray's answer. -/
def tTrayRsp (st : BitVec 5) : Frame := { opcode := 0x11, tag := 3, status := st }

theorem test_witness_slcProgramDone :
    let s := tVolTray (.program 2 3) 0 { st := .online } { progs := [tProg none] }
    (trayReqOf s .d0 (tTrayRsp Sts.ok)).map (·.why) = some (.program 2 3) ∧ ringFull s .d0 512 = false ∧
      (side s.ftl .d0).progs.find? (fun p => p.id == 2) = some (tProg none) ∧ [8, 9, 20, 21].Nodup ∧ (tProg none).maps = [] ∧ (tProg none).reloc = none ∧ (tProg none).id = 2 := by decide +kernel

theorem test_witness_programAborted : ∀ k, k = none ∨ k = some .refresh →
    let s := tVolTray (.program 2 1) 0 { st := .online } { progs := [tProg k] }
    (trayReqOf s .d0 (tTrayRsp Sts.aborted)).map (·.why) = some (.program 2 1) ∧ ringFull s .d0 512 = false ∧ Sts.aborted ≠ Sts.retry ∧
      (side s.ftl .d0).progs.find? (fun p => p.id == 2) = some (tProg k) ∧ (tProg k).maps = [] ∧ (side s.ftl .d0).mapLeft = [] := by
  intro k hk; rcases hk with rfl | rfl <;> decide +kernel

/-- tObj's object in T2: units 8 to 11 of volume 3, unit 8 mapped to page 1 of block 7. -/
def tCold (att : Nat) : State := { tVolTray (.flashRead 3 8 4 att) (physAddr 0 4 7 1 0) { st := .online, map := [(8, mapEntry false 0 7 1 0)] } {} with
  objs := [(1, { tO with tier := 2, loc := 3 * 2 ^ 56 + 8 })] }

/-- What a flash tray answers a read with. -/
def tFlashRsp (st : BitVec 5) : Frame := { opcode := 0x11, tag := 3, status := st, opspec := 0x70, payload := List.replicate 4096 1#8 }

theorem test_witness_flashRead : (trayReqOf (tCold 0) .d0 (tFlashRsp Sts.ok)).map (·.why) = some (.flashRead 3 8 4 0) ∧ NothingCopies (tCold 0) ∧ NothingCopies (tCold 8) ∧
    (side (tCold 0).ftl .d0).relocs = [] ∧ (side (tCold 0).ftl .d0).eraseWait = [] ∧ unitAddr (tCold 0) 3 8 = some (42 * 2 ^ 52 + 2 ^ 21) ∧
    ((trayReqOf (tCold 0) .d0 (tFlashRsp Sts.ok)).map (readStill (tCold 0) .d0 3 8) = some true) ∧
    ((trayReqOf (tCold 8) .d0 (tFlashRsp Sts.poison)).map (readStill (tCold 8) .d0 3 8) = some true) ∧ (tFlashRsp Sts.ok).payload.length = 4096 ∧ (side (tCold 0).ftl .d0).eccRefresh ≤ 0x70 ∧
    0 < (side (tCold 0).ftl .d0).retryMax ∧ (unitWhere (tCold 0) 3 8).isSome = true ∧ (side (tCold 8).ftl .d0).retryMax ≤ 8 := by
  refine ⟨by decide +kernel, fun d => by cases d <;> exact ⟨rfl, rfl⟩, fun d => by cases d <;> exact ⟨rfl, rfl⟩, ?_⟩; decide +kernel

theorem test_witness_erase : (trayReqOf (tVolTray (.erase 0 7) 0 {} {}) .d0 (tTrayRsp Sts.ok)).map (·.why) = some (.erase 0 7) ∧
    (trayReqOf (tVolTray (.erase 0 7) 0 {} {}) .d0 (tTrayRsp Sts.retry)).isSome = true := by decide +kernel

/-- tState with a store waiting for a staging slot. -/
def tStageWait : State := modHome tState .d0 (fun h => { h with waiting := [{ frame := tStH, wait := .staging, order := 1 }] })

theorem test_witness_stagingWait : stageRoom tStageWait .d0 = true ∧
    ((side tStageWait.home .d0).waiting.find? (fun w => w.wait == .staging)).isSome = true := by decide +kernel

theorem test_witness_stagingFull : stageRoom (tVol 0 {} { staging := List.replicate 8192 { vol := 3, unit := 0 } }) .d0 = false := by
  decide +kernel

theorem test_witness_retentionHour :
    let x : FtlState := { hours := 167 + 168 * 12, blocks := [(7, { st := .closed })] }
    ∀ b ∈ x.blocks, b.2.st = .closed ∧ b.2.progHours + 168 * x.retainW ≤ (x.hours + 1) % 2 ^ 32 := by decide +kernel

/-- Volume 3 with a block 7 of P0 due for refresh that holds unit 8. -/
def tDue : State := tVol 0 { st := .online, map := [(8, mapEntry false 0 7 1 0)] }
  { blocks := [(7, { st := .closed, nextPage := 768 })], due := [(0, .refresh, 7)] }

theorem test_witness_relocationStart : [RelocKind.rescue, .refresh, .fold, .collect, .wear] = [RelocKind.rescue] ++ .refresh :: [.fold, .collect, .wear] ∧
    volOfPort tDue 0 = some 3 ∧ volOuvi tDue 3 = false ∧ ringFull tDue (portDie 0) 512 = false ∧ (∀ j ∈ [RelocKind.rescue], nextSources tDue .d0 3 0 j = []) ∧
    nextSources tDue .d0 3 0 .refresh = [7] ∧ relocOf tDue .d0 0 .refresh = none ∧ (targetBlock tDue .d0 3 0).isSome = true ∧ portDie 0 = .d0 := by
  decide +kernel

/-- The end of that relocation. -/
def tReloc : Reloc := { port := 0, vol := 3, kind := .refresh, sources := [7], target := 9,
                        notes := [(8, mapEntry false 0 7 1 0, mapEntry false 0 9 0 0), (9, 0, mapEntry false 0 9 0 1)] }

/-- Volume 3 at that end. -/
def tClosing : State := tVol 0 { st := .online, map := [(8, mapEntry false 0 7 1 0)] }
  { blocks := [(7, { st := .closed }), (9, { st := .openBlk, nextPage := 768 })], relocs := [tReloc] }

theorem test_witness_relocationClose : relocOf tClosing .d0 0 .refresh = some tReloc ∧ relocBusy tClosing .d0 tReloc = false ∧ tReloc.cur = [] ∧
    768 ≤ (blkOf tClosing .d0 tReloc.target).nextPage ∧ ringFull tClosing .d0 (64 + 16 * tReloc.notes.length) = false ∧ volOuvi tClosing 3 = false ∧
    (tReloc.notes.map (·.1)).Nodup := by decide +kernel

/-- An OUVI volume with all its log blocks in use; the oldest, 7, holds unit 8. -/
def tOuvi (m : Dict (BitVec 64)) : State := tVol 1 { st := .online, logs := 7 :: List.replicate 16383 5, map := m } { blocks := [(7, { st := .closed, slc := true })] }

theorem test_witness_ouviMerge : volOuvi (tOuvi [(8, mapEntry true 0 7 1 0)]) 3 = true ∧ maxLogs (tOuvi [(8, mapEntry true 0 7 1 0)]) 3 ≤ (List.replicate 16383 5).length + 1 ∧
    relocOf (tOuvi [(8, mapEntry true 0 7 1 0)]) .d0 0 .merge = none ∧ ringFull (tOuvi [(8, mapEntry true 0 7 1 0)]) .d0 512 = false ∧
    groupsIn (tOuvi [(8, mapEntry true 0 7 1 0)]) 3 7 = [0] ∧ (targetBlock (tOuvi [(8, mapEntry true 0 7 1 0)]) .d0 3 0).isSome = true ∧
    groupsIn (tOuvi []) 3 7 = [] := by decide +kernel

theorem test_witness_mapRebuild : (getD (tVol 0 { st := .online } {}).vols 3 {}).st = .online ∧ (getD (tVol 0 { st := .rebuild } {}).vols 3 {}).st = .rebuild ∧
    volOuvi (tVol 0 {} {}) 3 = false ∧ NothingCopies (tVol 0 {} {}) := by
  refine ⟨by decide +kernel, by decide +kernel, by decide +kernel, fun d => by cases d <;> exact ⟨rfl, rfl⟩⟩

theorem test_witness_bringup : (recOf (tVol 0 {} {}) RT.ftlVolume 3).isSome = true ∧ (getD (tVol 0 {} {}).vols 3 {}).st ≠ .formatting ∧
    (getD (tVol 0 { asking := true } {}).vols 3 {}).asking = true ∧ offlineReason (tVol 0 { asking := true } {}) 3 ≠ 0 ∧
    offlineReason (tVol 0 { asking := true, ident := [(0, toLE 8 5 ++ zeros 56)] } {}) 3 = 0 := by decide +kernel

theorem test_witness_checkpoint : (side (tVol 0 {} { sinceCkpt := 2 ^ 24 }).ftl .d0).ckptRun = none ∧
    2 ^ 24 ≤ (side (tVol 0 {} { sinceCkpt := 2 ^ 24 }).ftl .d0).sinceCkpt ∧
    (side (tVol 0 {} { nextLsn := 5, ckptRun := some (true, 4) }).ftl .d0).ckptRun = some (true, 4) ∧ 4 ≤ 5 ∧
    (side (tVol 0 {} { nextLsn := 5, ckptRun := some (true, 4) }).ftl .d0).mapLeft = [] ∧
    (side (tVol 0 {} { nextLsn := 5, ckptRun := some (true, 4) }).ftl .d0).progs = [] := by decide +kernel

theorem test_witness_tailOnMedia :
    let s := tVol 0 {} { nextLsn := 9, eraseWait := [(4, 3, 7)] }
    ∀ x ∈ (side s.ftl .d0).eraseWait, x.1 ≤ max (side s.ftl .d0).mediaLsn (min 6 ((side s.ftl .d0).nextLsn - 1)) ∧ blockRead s .d0 x.2.2 = false := by
  decide +kernel

theorem test_witness_ringWait :
    let s := tVol 0 {} { ringWait := [.hours 1] }
    (side s.ftl .d0).closing = [] ∧ (side s.ftl .d0).eraseWait = [] ∧
      (side s.ftl .d0).ringBytes + sumOf ((side s.ftl .d0).ringWait.map jSize) ≤ ringCap := by decide +kernel

/-! Sessions and attention -/

/-- A session of context 5: two layers, one head group, pages of 16 tokens, rows of 16 bytes. -/
def tS : Session := { st := .awake, owner := 5, ext := 1, layers := 2, groups := 1, qheads := 1, log2 := 4, fmt := 1, dim := 16, window := 0, service := 9, ringExtra := 0 }

/-- tObj with session 7, its page of layer 0 in object 1, and a service that attends. -/
def tSes (x : Session) : State := { tObj with
  sessions := [(7, x)], objs := [(1, { tO with kind := 1, size := 576, ses := 7 })]
  cfg := { tObj.cfg with records := tRecords ++ [⟨RT.partition, 0, fit ([0] ++ zeros 15 ++ [1]) 80⟩, ⟨RT.service, 9, fit [4, 0] 32⟩] } }

/-- tS with that page listed and 3 tokens in each layer. -/
def tPaged : Session := { tS with pages := [⟨0, 0, 0, 1⟩], lens := [(0, 3), (1, 3)] }

/-- A request of context 5 on session 7. -/
def tSf (o : Byte) (sub : Nat) (b : Bytes) : Frame := { tOp o b with addr := BitVec.ofNat 64 (42 * 2 ^ 52 + 7 * 2 ^ 32), opspec := BitVec.ofNat 16 sub }

theorem test_witness_sesRequests : SesTaken (tSes tPaged) .d0 (tSf Opc.sesWake 0 (toLE 8 1)) ∧ fld (tSf Opc.sesWake 0 (toLE 8 1)).addr.toNat 31 0 = 0 ∧
    sesId (tSf Opc.sesWake 0 (toLE 8 1)) = 7 ∧ sesOf (tSes tPaged) 7 = some tPaged ∧ ownsSes (tSes tPaged) (tSf Opc.sesWake 0 (toLE 8 1)) 5 1 = true ∧
    zeroAt (toLE 8 1) 4 4 = true ∧ sesOf (tSes { tPaged with st := .asleep }) 7 = some { tPaged with st := .asleep } := by
  unfold SesTaken TakesNow; decide +kernel

theorem test_witness_sesSleep : extOf (tSes tPaged) 1 = some tExt ∧ tExt.classT = true ∧ policyPermits tExt 1 = true ∧ tExt.owner = 5 ∧
    SesTaken (tSes tPaged) .d0 (tSf Opc.sesSleep 0 (toLE 4 1 ++ toLE 4 1)) ∧ le (toLE 4 1 ++ toLE 4 1) 4 1 = 1 ∧ zeroAt (toLE 4 1 ++ toLE 4 1) 5 3 = true ∧
    extActive (tSes tPaged) .d0 tExt.idx = true ∧ opRoom (tSes tPaged) .d0 = true ∧ overLimit (tSes tPaged) 5 1 (packGranules tPaged) = false ∧
    extActive (tSes tPaged) .d0 tPaged.ext = true ∧ queueRoom (tSes tPaged) .d0 = true := by
  unfold SesTaken TakesNow; decide +kernel

theorem test_witness_sesWake : (tExt.policy = 0 ∨ tExt.policy = 1 ∨ tExt.policy = 4) ∧ serviceDie (tSes tPaged) 9 = some tExt.die ∧
    awakeCount (tSes tPaged) < 65536 ∧ wakeCharges (tSes tPaged) { tPaged with st := .asleep } tExt = some (1, 0) ∧
    wakesInto (tSes { tPaged with st := .asleep }) { tPaged with st := .asleep } tExt = true := by decide +kernel

/-- Operation 4 of a kind. -/
def tOpn (k : OpKind) (f : Frame) : Op := { id := 4, kind := k, frame := f, ctx := 5 }

/-- tSes with an operation on die 0. -/
def tSesOp (x : Session) (k : OpKind) (f : Frame) : State := modCol (tSes x) .d0 (fun c => { c with ops := [tOpn k f] })

/-- The same with the session's move in a slot and some copying. -/
def tSesRun (x : Session) (k : OpKind) (f : Frame) (who : MoveBy) (j : List CopyJob) : State := modTier (tSesOp x k f) .d0 (fun t =>
  { t with moves := [{ sesMove 7 1 5 who with started := true }], copies := j, nextCopy := 3 })

/-- Copying that is over, done or failed. -/
def tJob (why : CopyFor) (failed : Option (BitVec 5)) : List CopyJob := [{ id := 2, why := why, steps := [], failed := failed }]

/-- The session going to sleep. -/
def tDozing (tier : Nat) : Session := { tPaged with st := .sleeping, packExt := 1, packTier := tier, req := some (tSf Opc.sesSleep 0 (zeros 8)) }

/-- It dozes, its move in a slot. -/
def tDoze (tier : Nat) (j : List CopyJob) : State := tSesRun (tDozing tier) (.sleep 7) (tSf Opc.sesSleep 0 (zeros 8)) (.sleep 7) j

theorem test_witness_sesSleepDone (tier : Nat) (j : List CopyJob) :
    sesOp (tDoze tier j) (.sleep 7) = some (.d0, tOpn (.sleep 7) (tSf Opc.sesSleep 0 (zeros 8))) ∧
    get? (tDoze tier j).sessions 7 = some (tDozing tier) ∧ (tDozing tier).st = .sleeping ∧ earlierOps (tDoze tier j) .d0 7 4 = false ∧
    sesMoving (tDoze tier j) .d0 7 = true ∧ extOf (tDoze tier j) 1 = some tExt ∧ tExt.durable = false ∧ (tDozing tier).image = false :=
  ⟨rfl, rfl, rfl, rfl, rfl, rfl, rfl, rfl⟩

/-- There is room for packs in T1; the page, in T2 itself, waits until the page of the volume's map is loaded. Without such a volume there is none in T2. -/
theorem test_witness_sesSleepDone_packs :
    let s := { tDoze 1 [] with objs := [(1, { tO with kind := 1, tier := 2, loc := 3 * 2 ^ 56 + 8, size := 576, ses := 7 })], vols := [(3, { toLoad := [0] })] }
    (makePacks (tDozing 1) 7 tExt (rangeFrom 0 2) s).map (fun p => copyEnded (startCopy .d0 (.sleep 7) p.1 p.2) .d0 (.sleep 7)) = some false ∧
    jobFor s .d0 (.sleep 7) = none ∧ makePacks (tDozing 2) 7 tExt (rangeFrom 0 2) (tDoze 2 []) = none ∧
    jobFor (tDoze 1 (tJob (.sleep 7) none)) .d0 (.sleep 7) = some { id := 2, why := .sleep 7, steps := [] } ∧
    jobFor (tDoze 1 (tJob (.sleep 7) (some Sts.poison))) .d0 (.sleep 7) = some { id := 2, why := .sleep 7, steps := [], failed := some Sts.poison } := by
  decide +kernel

/-- The session waking, some layers resident; object 1 is its pack of layer 0. -/
def tWaking (k : Nat) : Session := { tPaged with st := .waking, resident := k, wakeExt := 1, pages := [⟨0, 0, 0, noObj⟩], packs := [(0, 1)], chargeT0 := 1,
                                                 req := some (tSf Opc.sesWake 0 (toLE 8 1)) }

/-- tSes with it. -/
def tWakes (k : Nat) : State := tSesRun (tWaking k) (.wake 7) (tSf Opc.sesWake 0 (toLE 8 1)) (.wake 7) []

theorem test_witness_sesWakeDone : sesOp (tWakes 2) (.wake 7) = some (.d0, tOpn (.wake 7) (tSf Opc.sesWake 0 (toLE 8 1))) ∧
    get? (tWakes 2).sessions 7 = some (tWaking 2) ∧ (tWaking 2).layers ≤ (tWaking 2).resident ∧ extOf (tWakes 0) 1 = some tExt ∧
    packOrder (tWaking 1) 1 = [] ∧ packOrder (tWaking 0) 0 ≠ [] ∧ get? (tWaking 0).packs 0 = some 1 ∧ sesMoving (tWakes 0) .d0 7 = true ∧
    sesMoving (tWakes 1) .d0 7 = true ∧ jobFor (tWakes 1) .d0 (.wake 7) = none ∧ (tWaking 2).image = false ∧ (tWaking 0).st = .waking := by decide +kernel

/-- Its pack in T2, which waits for the page of the map; and the copying over. -/
theorem test_witness_sesWakeLayer :
    let pack : Obj := { tO with kind := 2, tier := 2, loc := 3 * 2 ^ 56 + 8, size := 1088, ses := 7 }
    let s := { tWakes 0 with objs := [(1, pack)], vols := [(3, { toLoad := [0] })] }
    (wakePages (tWaking 0) 7 tExt pack 0 (packOrder (tWaking 0) 0) s).map (fun p =>
      copyEnded (startCopy .d0 (.wake 7) (fetchObj pack ++ p.1) p.2) .d0 (.wake 7)) = some false ∧ jobFor s .d0 (.wake 7) = none ∧
    get? s.objs 1 = some pack ∧ pack.homeLost = false ∧
    jobFor (tSesRun (tWaking 0) (.wake 7) (tSf Opc.sesWake 0 (toLE 8 1)) (.wake 7) (tJob (.wake 7) none)) .d0 (.wake 7) =
      some { id := 2, why := .wake 7, steps := [] } := by decide +kernel

theorem test_witness_NoneWaits (k : Nat) : NoneWaits (tWakes k) 7 := by
  intro d o ho h
  cases d
  · have e : o = tOpn (.wake 7) (tSf Opc.sesWake 0 (toLE 8 1)) := by
      rw [show (side (tWakes k).col .d0).ops = [tOpn (.wake 7) (tSf Opc.sesWake 0 (toLE 8 1))] from rfl] at ho
      exact List.mem_singleton.mp ho
    subst e; cases h
  · rw [show (side (tWakes k).col .d1).ops = [] from rfl] at ho; cases ho

/-- OPEN of session 8 in extent 1. -/
def tOpen : Frame := { tSf Opc.attAppend 1 (fit (toLE 4 1 ++ toLE 2 2 ++ toLE 2 1 ++ toLE 2 16 ++ [1, 4, 1, 9]) 32) with
                       addr := BitVec.ofNat 64 (42 * 2 ^ 52 + 8 * 2 ^ 32) }

theorem test_witness_attOpen : isSub tOpen 1 = true ∧ SesTaken (tSes tPaged) .d0 tOpen ∧ openFormBad (tSes tPaged) tOpen = none ∧
    extOf (tSes tPaged) (le tOpen.payload 0 4) = some tExt ∧ get? (tSes tPaged).sessions (sesId tOpen) = none ∧
    ownsSes (tSes tPaged) tOpen tExt.owner tExt.idx = true := by unfold SesTaken TakesNow; decide +kernel

/-- FORK of session 7 as session 8 at token 2. -/
def tFork : Frame := { tSf Opc.attAppend 3 (toLE 4 7 ++ toLE 4 2 ++ zeros 8) with addr := BitVec.ofNat 64 (42 * 2 ^ 52 + 8 * 2 ^ 32) }

theorem test_witness_attFork : isSub tFork 3 = true ∧ SesTaken (tSes tPaged) .d0 tFork ∧ sesHandleOk tFork = true ∧ zeroAt tFork.payload 8 8 = true ∧
    get? (tSes tPaged).sessions (sesId tFork) = none ∧ sesOf (tSes tPaged) (le tFork.payload 0 4) = some tPaged ∧
    fetchSteps (tSes tPaged) .d0 (headRanges (tSes tPaged) (tPaged.pages.filter (fun p => decide (p.first < le tFork.payload 4 4)))) = [] ∧
    le tFork.payload 4 4 ≤ tokensOf tPaged ∧ indexRoom (tSes tPaged) .d0 (tPaged.pages.filter (fun p => decide (p.first < le tFork.payload 4 4))).length = true := by
  unfold SesTaken TakesNow; decide +kernel

/-- APPEND of one token to layer 0 at a first token. -/
def tApp (first : Nat) : Frame := tSf Opc.attAppend 0 (toLE 2 0 ++ toLE 2 1 ++ toLE 4 first ++ zeros 24 ++ List.replicate 16 1#8 ++ List.replicate 16 2#8)

theorem test_witness_attAppend : ∀ k, k = 3 ∨ k = 2 → AppendReady (tSes tPaged) .d0 (tApp k) tPaged := by
  intro k hk; rcases hk with rfl | rfl <;> (unfold AppendReady SesTaken TakesNow FreshOp; decide +kernel)

theorem test_witness_attAppend_page : lenOf tPaged 0 = 3 ∧ le (tApp 3).payload 4 4 = 3 ∧ le (tApp 2).payload 4 4 ≠ 3 ∧
    tPaged.pages.find? (fun q => q.layer == 0 && q.group == 0 && q.first == 0) = some ⟨0, 0, 0, 1⟩ ∧
    get? (tSes tPaged).objs 1 = some { tO with kind := 1, size := 576, ses := 7 } ∧ tO.refcount ≤ 1 ∧
    fetchSteps (tSes tPaged) .d0 (rowRange (tSes tPaged) tPaged (tApp 2)) = [] ∧
    fetchSteps (tSes tPaged) .d0 (appendRanges (tSes tPaged) tPaged (tApp 3) (fun _ => false)) = [] := by decide +kernel

theorem test_witness_attClose : isSub (tSf Opc.attAppend 2 []) 2 = true ∧ SesTaken (tSes tPaged) .d0 (tSf Opc.attAppend 2 []) ∧
    sesHandleOk (tSf Opc.attAppend 2 []) = true ∧ ownsSes (tSes tPaged) (tSf Opc.attAppend 2 []) 5 1 = true := by unfold SesTaken TakesNow; decide +kernel

theorem test_witness_attCloseDone :
    sesOp (tSesOp tPaged (.close 7) (tSf Opc.attAppend 2 [])) (.close 7) = some (.d0, tOpn (.close 7) (tSf Opc.attAppend 2 [])) ∧
    get? (tSesOp tPaged (.close 7) (tSf Opc.attAppend 2 [])).sessions 7 = some tPaged ∧
    earlierOps (tSesOp tPaged (.close 7) (tSf Opc.attAppend 2 [])) .d0 7 4 = false ∧ tPaged.image = false := by decide +kernel

/-- ATT_ATTEND of layer 0 of session 7 from position 2, one query token. -/
def tAtt : Frame := tSf Opc.attAttend 0 (toLE 2 0 ++ toLE 2 0 ++ toLE 2 1 ++ [1, 1, 8, 1] ++ zeros 2 ++ toLE 4 0x3F800000 ++ toLE 4 1 ++ zeros 44 ++
  (toLE 4 7 ++ toLE 4 2 ++ toLE 4 1 ++ zeros 4))

theorem test_witness_attAttend : tAtt.opcode = Opc.attAttend ∧ SesTaken (tSes tPaged) .d0 tAtt ∧ attFormBad tAtt = none ∧ le tAtt.payload 9 1 = 1 ∧
    sesId tAtt = 7 ∧ attGeomBad (tSes tPaged) .d0 tAtt.payload [tPaged] = none ∧ bitAt (rightsOn (tSes tPaged) tExt 5) 0 = true ∧
    serviceServes (tSes tPaged) .d0 9 = true ∧ appendAhead (tSes tPaged) .d0 7 0 0 = false ∧
    windowLost tPaged (attView tAtt.payload) (snapOf (tSes tPaged) (attView tAtt.payload) (nth (attEntries tAtt.payload) 0 (0, 0, 0))) = false ∧
    (attGroups (attView tAtt.payload) 1 [snapOf (tSes tPaged) (attView tAtt.payload) (nth (attEntries tAtt.payload) 0 (0, 0, 0))]).flatMap
      (fun g => (groupItems tPaged (snapOf (tSes tPaged) (attView tAtt.payload) (nth (attEntries tAtt.payload) 0 (0, 0, 0))) g.1 g.2.1 g.2.2).1) ≠ [] := by
  unfold SesTaken TakesNow; decide +kernel

/-- tSes with an APPEND that waited for a ring page. -/
def tRing : State := modCol (tSes tPaged) .d0 (fun c => { c with ops := [{ tOpn .append (tApp 3) with waits := some (.ring 7 0) }] })

theorem test_witness_ringReuse : (side tRing.col .d1).ops = [] ∧ opOn { tOpn .append (tApp 3) with waits := some (.ring 7 0) } 7 = true ∧
    appendWait tRing .d0 4 (tApp 3) = none ∧ jobFor tRing .d0 (.read 4) = none ∧
    fetchSteps tRing .d0 (rowRange tRing tPaged (tApp 3) ++ appendRanges tRing tPaged (tApp 3) (fun _ => false)) = [] := by decide +kernel

/-! Pod cores -/

/-- A gather item of context 5 with three threads. -/
def tItem : Item := { kind := .gather 4 0, service := 9, ctx := 5, index := 2, code := zeros 64, threads := 3, entry := 0, slots := [3] }

/-- A core running it: s1 = 0x1000, s2 = 16, s3 past the end of scratch, s4 odd, s5 = 0x2000; a coded block of three bytes at 0x1000. -/
def tC : Core := scratchPut {
  st := .running, slot := some 3, item := some tItem, store := zeros 64, budget := 1024, threads := [
    (0, { st := .ready, sreg := sput (sput (sput (sput (sput [] 1 0x1000) 2 16) 3 0x40000) 4 0x1002) 5 0x2000 }), (1, { st := .atBar }), (2, { st := .ready })] }
  0x1000 (encodeBlock tState 0 true [1, 2, 3] ++ zeros 16)

/-- tState with core 3 of die 0 changed. -/
def tCore (c : Core) : State := putCore .d0 3 c tState

/-- A word with registers D, A, B, C. -/
def tW (d a b c : BitVec 5) : PodF := { d := d, a := a, b := b, c := c }

theorem test_witness_podCore : canIssue (coreOf (tCore tC) .d0 3) = true ∧ coreOf (tCore tC) .d0 3 = tC ∧ 0 < codeWords tC ∧ codeWords tC ≤ 100 ∧
    live (threadOf tC 2) = true ∧ (threadOf tC 2).st ≠ .atBar ∧
    (put { tC with threads := [(0, { st := .ready }), (1, { st := .atBar })] }.threads 0 { st := .atBar }).all (fun x => x.2.st == .atBar || !live x.2) = true ∧
    canIssue { tC with threads := [(0, { st := .ready }), (1, { st := .atBar })] } = true := by decide +kernel

theorem test_witness_noStage : NoStage tC ∧ MatrixFree tC := by
  refine ⟨⟨rfl, fun i h => ?_⟩, fun h e => ?_⟩
  · have e : i = tItem := by
      rw [show tC.item = some tItem from rfl] at h
      exact (Option.some.inj h).symm
    rw [e]; rfl
  · rw [show tC.matrixHeld = none from rfl] at e; cases e

/-- Words with every unused field zero; IMM in and out of the code. -/
theorem test_witness_podFields : fieldsOk {} false false false false false false false false = true ∧
    fieldsOk { imm := 3 } false false false false false false false true = true ∧ ({ imm := 3 } : PodF).imm.toNat < codeWords tC ∧
    codeWords tC ≤ ({ imm := 100 } : PodF).imm.toNat ∧ ({ imm := 100 } : PodF).imm.toNat < 2 ^ 13 ∧ ({ imm := 3 } : PodF).imm.toNat < 32 ∧
    ({ bit24 := true } : PodF).bit24 = true ∧ fieldsOk { a := 1, b := 2, imm := 3 } false true true false false false false true = true ∧
    fieldsOk (tW 5 1 2 0) true true true false false false false false = true ∧ fieldsOk (tW 5 1 2 4) true true true true true true false false = true ∧
    fieldsOk { tW 5 1 0 0 with fmt := 0xB } true true false false true false false false = true ∧
    fieldsOk { tW 5 1 0 4 with fmt := 6, imm := 4 } true true false true true false false true = true ∧
    2 ^ 16 ≤ ({ imm := 0x10000 } : PodF).imm.toNat := by decide +kernel

/-- Scratch addresses inside, past the end, and inside but misaligned. -/
theorem test_witness_scratch : curThread (tCore tC) .d0 3 = threadOf tC 0 ∧ (sreg (threadOf tC 0) 1).toNat + 1024 ≤ 0x40000 ∧
    (sreg (threadOf tC 0) 1).toNat % 8 = 0 ∧ 0x40000 < (sreg (threadOf tC 0) 3).toNat + 4 ∧ (sreg (threadOf tC 0) 4).toNat + 256 ≤ 0x40000 ∧
    (sreg (threadOf tC 0) 4).toNat % 4 ≠ 0 ∧ (sreg (threadOf tC 0 ) 1 + (({} : PodF).imm.signExtend 64)).toNat = 0x1000 ∧
    elemBits 5 * 8 + 0x1000 ≤ 0x40000 ∧ isMx 0 = false ∧ isMx 5 = true ∧ (sreg (threadOf tC 0) 2).toNat + 2 ≤ 0x40000 := by decide +kernel

theorem test_witness_mma : fieldsOk { tW 1 1 5 2 with fmt := 0xA } true true true true true false false true = true ∧ (1 : Nat) ≤ (0xA#4).toNat ∧
    (sreg (threadOf tC 0) 2).toNat % 2 ^ 18 = 16 ∧ 0x1000 + 15 * 16 + mmaSeg 0xA ≤ 0x40000 ∧ 0x2000 + 15 * 0 + mmaSeg 0xA ≤ 0x40000 ∧
    (sreg (threadOf tC 0) 2).toNat / 2 ^ 32 % 2 ^ 18 = 0 ∧ mmaSeg 1 ≤ 0x1000 := by decide +kernel

theorem test_witness_srd : 1 ≤ (sreg (threadOf tC 0) 2).toNat ∧ (sreg (threadOf tC 0) 2).toNat ≤ 4096 ∧
    (sreg (threadOf tC 0) 5).toNat + (sreg (threadOf tC 0) 2).toNat ≤ 0x40000 ∧ inWindow (addrOff (sreg (threadOf tC 0) 1).toNat) = false ∧
    fieldsOk (tW 6 1 5 2) true true true true false false false true = true ∧ fieldsOk (tW 6 1 5 2) true true true true false false false false = true := by
  decide +kernel

/-- The block at 0x1000 decodes; a block of zeros does not. -/
theorem test_witness_codec :
    (decodeAt .d0 none none (scratchGet tC 0x1000 (encodeBlock tState 0 true [1, 2, 3]).length) (tCore tC)).1 = some [1, 2, 3] ∧
    (decodeAt .d0 none none [0x77#8] (tCore tC)).1 = none ∧ tC.queue = [] ∧ bitAt 16 4 = true ∧
    (sreg (threadOf tC 0) 5).toNat + (encodeBlock (tCore tC) 0 true (scratchGet tC 0x1000 16)).length ≤ 0x40000 := by decide +kernel

/-- The item queued for core 3. -/
theorem test_witness_workItemStart :
    let s := modPod tState .d0 (fun v => { v with queue := [tItem] })
    (coreOf s .d0 3).slot = some 3 ∧ (coreOf s .d0 3).st = .idle ∧ (side s.mod.dies .d0).thermalHold = false ∧
      (nextItem s .d0 3).map (·.1) = some 0 ∧ (side s.pod .d0).queue[0]? = some tItem ∧ (coreOf s .d0 3).lastCtx ≠ some tItem.ctx := by decide +kernel

theorem test_witness_workItemEnd : ∀ b : Bool,
    let c : Core := { tC with threads := [(0, { st := .ended }), (1, { st := .faulted 3 })], retireAfter := b }
    (coreOf (tCore c) .d0 3).item = some tItem ∧ (coreOf (tCore c) .d0 3).st = .running ∧ itemOver (coreOf (tCore c) .d0 3) = true ∧
      aheadHeld (tCore c) .d0 tItem.kind = false ∧ jobFor (tCore c) .d0 (.item tItem.kind) = none ∧
      fetchSteps (tCore c) .d0 (itemRanges (tCore c) .d0 tItem.kind) = [] := by
  decide +kernel

theorem test_witness_quantum : nextReady { tC with since := 1024 } = some 2 ∧ 1024 ≤ { tC with since := 1024 }.since ∧
    { tC with issued := 1024 * 65536 }.budget * 65536 ≤ { tC with issued := 1024 * 65536 }.issued ∧ live (threadOf tC 5) = false := by decide +kernel

/-- Thread 2 waiting for a stream. -/
def tStream (q : Frame) (r : Bool) : State := tCore { tC with
  threads := [(2, { st := .stream, streamReq := some q, streamDst := 0x2000, streamReg := 6, retryWait := r })] }

theorem test_witness_stream : (threadOf (coreOf (tStream tLdH true) .d0 3) 2).streamReq = some tLdH ∧
    (threadOf (coreOf (tStream tLdH true) .d0 3) 2).st = .stream ∧ rspOpc tLdH.opcode = 0x10 ∧ rspOpc tStH.opcode = 0x11 ∧
    (threadOf (coreOf (tStream tLdH true) .d0 3) 2).retryWait = true ∧ stsIn Sts.poison ≠ Sts.ok ∧ stsIn Sts.poison ≠ Sts.retry := by decide +kernel

/-- A thread that was stopped while its access was under way. -/
theorem test_witness_streamStopped :
    let c : Core := { tC with threads := [(2, { st := .faulted Sts.aborted, streamReq := some tLdH })] }
    (threadOf (coreOf (tCore c) .d0 3) 2).streamReq = some tLdH ∧ (threadOf (coreOf (tCore c) .d0 3) 2).st = .faulted Sts.aborted := by decide +kernel

theorem test_witness_coreRetire : (coreOf (tCore tC) .d0 3).slot = some 3 ∧ (coreOf (tCore tC) .d0 3).st ≠ .retired ∧
    (coreOf (tCore tC) .d0 512).st = .spare ∧ (∀ x < 512, (coreOf (tCore tC) .d0 x).st ≠ .spare) ∧ (coreOf tState .d0 4).st = .idle ∧
    (side tState.pod .d0).selftestS ≠ 0 ∧ RetireCause.scratchEcc ≠ .scratchCorr := by decide +kernel

/-- SHL by 16 (R300). -/
theorem test_pod_shl : (match exec (.podShl .d0 3 (tW 6 1 2 0)) (tCore tC) with
    | .next t => sreg (threadOf (coreOf t .d0 3) 0) 6
    | _ => 0) = 0x10000000 := by decide +kernel

/-- tC's core with a program of one word. -/
def tCoded (v : Nat) : State := tCore { tC with item := some { tItem with code := toLE 8 v }, store := toLE 8 v }

theorem test_witness_onlyIssuer : listedCores (tCoded 0) .d0 = [3] ∧ listedCores (tCoded 0) .d1 = [] ∧
    canIssue (coreOf (tCoded 0) .d0 3) = true ∧ podWord (coreOf (tCoded 0x0463044000000000) .d0 3) = some 0x0463044000000000 ∧
    (tCoded 0).pending = [] ∧ (∀ x ∈ podCodes, (0x0463044000000000 : Nat) / 2 ^ 58 % 64 = x.1 →
      (0x0463044000000000 : Nat) / 2 ^ 52 % 64 = x.2.1 → x.1 = 1 ∧ x.2.1 = 6) ∧
    (∀ x ∈ podCodes, (0x1C00000000000000 : Nat) / 2 ^ 58 % 64 = x.1 → (0x1C00000000000000 : Nat) / 2 ^ 52 % 64 ≠ x.2.1) := by decide +kernel

/-- SHL s6, s1, s2 written out by R299 (CLASS 1, OP 6, D 6, A 1, B 2), run from the program. -/
theorem test_pod_runs : (match step (tCoded 0x0463044000000000) with
    | .next t => (sreg (threadOf (coreOf t .d0 3) 0) 6, (threadOf (coreOf t .d0 3) 0).pc)
    | _ => (0, 0)) = (0x10000000, 1) := by decide +kernel

/-- CLASS 7 is none of R300's: the thread faults with FORMAT. -/
theorem test_pod_unlisted : (match step (tCoded 0x1C00000000000000) with
    | .next t => (threadOf (coreOf t .d0 3) 0).st
    | _ => .idle) = .faulted Sts.format := by decide +kernel

/-! Collectives, gather, filter -/

/-- Rank group 6 of context 5: P13 and P12, one node on die 0 of this switch served by service 1. -/
def tGroup : Bytes := toLE 4 2 ++ [2, 4, 2, 0] ++ toLE 2 5 ++ zeros 2 ++ toLE 4 1 ++ zeros 16 ++ toLE 4 tEp ++ toLE 4 (42 * 256 + 12) ++ toLE 4 (42 + 2 ^ 13)

/-- tObj with it and services 1, 2, 3 that reduce, gather and filter, on partition 0. -/
def tCol : State := { tObj with cfg := { tObj.cfg with records := tRecords ++ [⟨RT.rankGroup, 6, tGroup⟩, ⟨RT.partition, 0, fit ([0] ++ zeros 15 ++ [1]) 80⟩,
  ⟨RT.service, 1, fit [1, 0] 32⟩, ⟨RT.service, 2, fit [2, 0] 32⟩, ⟨RT.service, 3, fit [3, 0] 32⟩, ⟨RT.program, 0, zeros 40⟩] } }

/-- P13's descriptor of instance 9: 2,048 elements pushed, the result returned. -/
def tRed (count : Nat) : Frame := { tOp Opc.colReduce (fit (toLE 4 9 ++ toLE 4 0 ++ toLE 8 count ++ [0, 0, 0, 2] ++ toLE 4 0) 64) with
                                    addr := BitVec.ofNat 64 (42 * 2 ^ 52 + 6 * 2 ^ 42) }

theorem test_witness_colReduce : reduceFormBad (tRed 2048) = none ∧ fld (tRed 2048).addr.toNat 51 42 = 6 ∧
    reduceChecks (takeHome .d0 (tRed 2048) tCol) .d0 (tRed 2048) = .inr (tGroup, 0, 0) ∧ serviceServes tCol .d0 (nodeEnt tGroup 0).2.2 = true ∧
    opRoom tCol .d0 = true ∧ instOf tCol .d0 6 0 9 = none ∧ ((side tCol.col .d0).instances.filter (fun i => i.group == 6 && i.node == 0)).length < (grpView tGroup).open_ := by
  decide +kernel

theorem test_witness_freshOp : FreshOp tCol .d0 ∧ TakesNow tCol .d0 (tRed 2048) [] ∧ outstanding tCol .d0 (keyOf (tRed 2048)) = false := by
  refine ⟨⟨fun o ho => (by cases ho), fun j hj => (by cases hj)⟩, ?_, by decide +kernel⟩; unfold TakesNow; decide +kernel

/-- The instance opened by the other rank: its descriptor at position 1, its contribution to chunk 0, some results. -/
def tInst (parts : List Part) (res : List ChunkRes) : Instance := {
  body := tGroup, group := 6, node := 0, inst := 9, stepEpoch := 0, count := 2048, op := 0, inFmt := 0, outFmt := 0, rnd := 0, sat := false,
  descs := [{ pos := 1, frame := tRed 2048, pull := false, ret := true, store := false, inAddr := 0, outAddr := 0, child := false, op := 1 }],
  parts := parts, results := res }

/-- tCol with an instance. -/
def tHasInst (i : Instance) : State := modCol tCol .d0 (fun c => { c with instances := [i], nextOp := 2 })

theorem test_witness_colReduce_join : instOf (tHasInst (tInst [] [])) .d0 6 0 9 = some (tInst [] []) ∧
    (tInst [] []).descs.any (fun q => q.pos == 0) = false ∧ fieldsOf (tInst [] []) = instFields (tRed 2048).payload ∧
    fieldsOf (tInst [] []) ≠ instFields (tRed 1024).payload ∧ reduceFormBad (tRed 1024) = none ∧
    reduceChecks (takeHome .d0 (tRed 1024) (tHasInst (tInst [] []))) .d0 (tRed 1024) = .inr (tGroup, 0, 0) := by decide +kernel

/-- Rank 1's contribution to a chunk. -/
def tPart (c : Nat) : Frame := { opcode := Opc.colPart, srcEp := BitVec.ofNat 20 (42 * 256 + 12), ctx := 5, opspec := 1, tag := 8,
                                 addr := BitVec.ofNat 64 (42 * 2 ^ 52 + 6 * 2 ^ 42 + 9 * 2 ^ 26 + c), payload := zeros 4096 }

theorem test_witness_colPart : recOf (tHasInst (tInst [] [])) RT.rankGroup 6 = some tGroup ∧
    fld (tPart 1).addr.toNat 51 42 = 6 ∧ fld (tPart 1).addr.toNat 41 26 = 9 ∧ fld (tPart 1).addr.toNat 25 0 = 1 ∧
    (partNode (tHasInst (tInst [] [])) tGroup (tPart 1).srcEp.toNat 1).map (·.1) = some 0 ∧
    positionEp tGroup 0 1 = some (tPart 1).srcEp.toNat ∧ 1 < chunkCount (tInst [] []) ∧ childFail (tInst [] []) (tPart 1) = false ∧
    (tPart 1).payload.length = chunkElems (tInst [] []) 1 * elemBits (partFmt (tInst [] [])) / 8 ∧
    1 < (tInst [] []).done + (grpView tGroup).window ∧ resultOf (tInst [] []) 1 = none ∧ resultOf (tInst [] [⟨1, Sts.ok, [7], []⟩]) 1 = some ⟨1, Sts.ok, [7], []⟩ ∧
    (grpView tGroup).window ≤ 2 ∧ 2 < chunkCount { tInst [] [] with count := 4096 } := by decide +kernel

/-- An instance with both descriptors, both contributions to chunk 0. -/
def tBoth : Instance := { tInst [⟨0, 0, none, [], Sts.ok⟩, ⟨1, 0, none, [], Sts.ok⟩] [] with
  descs := (tInst [] []).descs ++ [{ pos := 0, frame := tRed 2048, pull := false, ret := true, store := false, inAddr := 0, outAddr := 0, child := false, op := 0 }] }

theorem test_witness_chunkCombine : instOf (tHasInst tBoth) .d0 6 0 9 = some tBoth ∧ tBoth.failed = false ∧ 0 < chunkCount tBoth ∧ tBoth.done ≤ 0 ∧
    tBoth.running.contains 0 = false ∧ tBoth.upSent.contains 0 = false ∧ resultOf tBoth 0 = none ∧ chunkReady tBoth 0 = true := by decide +kernel

/-- tCol with a gather whose stores are unanswered, and a chunk sent up. -/
def tSends (stores : Nat) : State := modCol tCol .d0 (fun c => { c with
  sends := [⟨3, { tPart 0 with tag := 3 }, .part 6 0 9 0⟩, ⟨4, { tStH with tag := 4 }, .store 2⟩]
  ops := [{ id := 2, kind := .gather, frame := tRed 4, ctx := 5, stores := stores }] })

theorem test_witness_sends : (svcSent (tSends 2) .d0 { opcode := Opc.colPartRsp, tag := 3, ctx := 5, status := Sts.retry }).map (·.what) = some (.part 6 0 9 0) ∧
    (svcSent (tSends 2) .d0 { opcode := 0x11, tag := 4, ctx := 5 }).map (·.what) = some (.store 2) ∧
    opOf (tSends 2) .d0 2 = some { id := 2, kind := .gather, frame := tRed 4, ctx := 5, stores := 2 } ∧
    opOf (tSends 1) .d0 2 = some { id := 2, kind := .gather, frame := tRed 4, ctx := 5, stores := 1 } := by decide +kernel

theorem test_witness_combine : ∀ x ∈ [[1#32, 2#32], [3#32, 4#32]], x.length = 2 := by decide

/-- COL_GATHER of one row of 64 bytes from a table of some rows at the start of extent 1, its index read from there. -/
def tGather (rows : Nat) : Frame := { tOp Opc.colGather (fit (toLE 8 (42 * 2 ^ 52 + 2 ^ 21) ++ toLE 4 1 ++ toLE 4 rows ++ toLE 2 64 ++ [2, 1] ++ zeros 4 ++
  toLE 8 64 ++ toLE 8 (42 * 2 ^ 52 + 2 ^ 21 + 4096)) 40) with addr := BitVec.ofNat 64 (42 * 2 ^ 52 + 2 ^ 21) }

/-- The gather's operation, its data asked for: where the index list is read. -/
def tGathering (x : State) : State := modOp .d0 0 (fun y => { y with waits := some .data })
  (modOp .d0 0 (fun o => { o with plan := some (planOf (takeHome .d0 (tGather 3) x) 2 5) }) (newOp .d0 .gather (tGather 3) [0] (takeHome .d0 (tGather 3) x)).2)

theorem test_witness_colGather : gatherFormBad (tGather 3) = none ∧ outstanding tCol .d0 (keyOf (tGather 3)) = false ∧ toSp (tGather 3) = false ∧
    opRoom tCol .d0 = true ∧ fetchSteps tCol .d0 [localRange tCol (42 * 2 ^ 52 + 2 ^ 21) 4] = [] ∧
    serviceHere tCol .d0 2 2 = true ∧ serviceServes tCol .d0 2 = true ∧ tableBad (takeHome .d0 (tGather 3) tCol) .d0 (tGather 3) (tableSpan 3 64 64) = none ∧
    (svcRead .d0 5 (42 * 2 ^ 52 + 2 ^ 21) 4 (tGathering tCol)).1 = Sts.ok ∧
    le (svcRead .d0 5 (42 * 2 ^ 52 + 2 ^ 21) 4 (tGathering tCol)).2.1 0 4 = 0 := by decide +kernel

/-- The same with index 9 in memory: outside the table. -/
def tColBad : State := writeMem tCol (42 * 2 ^ 52 + 2 ^ 21) [9, 0, 0, 0]

theorem test_witness_colGather_bad : le (svcRead .d0 5 (42 * 2 ^ 52 + 2 ^ 21) 4 (tGathering tColBad)).2.1 0 4 = 9 ∧
    3 ≤ 9 ∧ (side tCol.col .d0).nextOp = 0 := by decide +kernel

/-- COL_FILTER of 4 rows of 64 bytes in STAGE mode. -/
def tFilter : Frame := { tOp Opc.colFilter (fit (toLE 8 (42 * 2 ^ 52 + 2 ^ 21) ++ toLE 8 (42 * 2 ^ 52 + 2 ^ 21 + 4096) ++ toLE 4 4 ++ toLE 4 4 ++ toLE 2 64 ++ toLE 2 0 ++
  [0, 1, 0, 3] ++ toLE 8 64) 64) with addr := BitVec.ofNat 64 (42 * 2 ^ 52 + 2 ^ 21) }

theorem test_witness_colFilter : filterFormBad tFilter = none ∧ outstanding tCol .d0 (keyOf tFilter) = false ∧ toSp tFilter = false ∧ opRoom tCol .d0 = true ∧
    le tFilter.payload 29 1 % 4 = 1 ∧ (stageOf tCol 3).isSome = true ∧ le tFilter.payload 31 1 = 3 ∧ serviceHere tCol .d0 3 3 = true ∧
    tableBad (takeHome .d0 tFilter tCol) .d0 tFilter (tableSpan 4 64 64) = none ∧ serviceServes tCol .d0 3 = true := by decide +kernel

theorem test_witness_compute_taken : TakesNow tCol .d0 (tGather 3) [] ∧ TakesNow tCol .d0 tFilter [] ∧
    TakesNow (tHasInst (tInst [] [])) .d0 (tPart 1) [] ∧ outstanding (tHasInst (tInst [] [])) .d0 (keyOf (tPart 1)) = false ∧
    heldPart (tHasInst (tInst [] [])) .d0 (tPart 1) = false := by unfold TakesNow; decide +kernel

/-! Registers -/

/-- A store to a register of the window by P13 under context 0. -/
def tRegSt (off v : Nat) : Frame := { opcode := Opc.st, srcEp := BitVec.ofNat 20 tEp, tag := 1, addr := BitVec.ofNat 64 (42 * 2 ^ 52 + winBase + off), length := 8, payload := toLE 8 v }

/-- A load of one. -/
def tRegLd (off : Nat) : Frame := { opcode := Opc.ld, srcEp := BitVec.ofNat 20 tEp, tag := 1, addr := BitVec.ofNat 64 (42 * 2 ^ 52 + winBase + off), opspec := 8 }

/-- An access is ready, and is of that register. -/
theorem test_witness_stores : ∀ x ∈ ([(0x03000030, 5), (0x03800030, 5), (0x03000048, 9), (0x03800048, 9), (0x03000050, tEp), (0x03800050, tEp), (0x04002000, 0x10014),
      (0x04002100, 0x14), (0x05000000, 10), (0x05000100, 10), (0x06000000, 0x4000001), (0x06000100, 0x4000001), (0x07000000, 0x0808080408020408),
      (0x07100000, 0x0808080408020408)] : List (Nat × Nat)), regOff (tRegSt x.1 x.2) = x.1 ∧ RegReady tState (tRegSt x.1 x.2) := by
  unfold RegReady; decide +kernel

theorem test_witness_stores2 : ∀ x ∈ ([(0x07000008, 1), (0x07100010, 1), (0x08000000, 0x3C0400), (0x09000000, 0x3C0400), (0x0A000000, 5), (0x0A000100, 5), (0x0B000000, 5),
      (0x0B000100, 5), (0x0C010000 + 8 * 5, 0x103), (0x0E000050, 0x20000), (0x10000000, 0x3214), (0x10000040, 1), (0x10000048, 1), (0x11001010, 7)] :
      List (Nat × Nat)), regOff (tRegSt x.1 x.2) = x.1 ∧ RegReady tState (tRegSt x.1 x.2) := by unfold RegReady; decide +kernel

/-- The values meet the conditions of their clauses. -/
theorem test_witness_values : (0x4000001 : Nat) % 2 ^ 16 ≠ 0 ∧ (0x4000001 : Nat) % 2 ^ 16 < 0x4000001 / 2 ^ 16 % 2 ^ 16 ∧ 0x4000001 / 2 ^ 16 % 2 ^ 16 ≤ 56320 ∧
    (rangeFrom 0 8).all (fun k => 0x0808080408020408 / 256 ^ k % 256 != 0) = true ∧ 0x0808080408020408 / 256 ^ 4 % 256 < 0x0808080408020408 / 256 ^ 3 % 256 ∧
    0x0808080408020408 / 256 ^ 7 % 256 ≤ 16 := by decide +kernel

theorem test_witness_sticky : RegReady tState (tRegSt 0x04002008 1) ∧ RegReady tState (tRegLd 0x04002010) ∧
    (stAt (regOff (tRegSt 0x04002008 1))).isSome = true ∧ (hitAt (regOff (tRegLd 0x04002010))).isSome = true ∧ stAt (regOff (tRegLd 0x04002010)) = none := by
  unfold RegReady; decide +kernel

theorem test_witness_readClear : ∀ o ∈ [0x01000000 + 13 * 0x40000 + 0x18, 0x01000000 + 13 * 0x40000 + 0x20, 0x02000028, 0x03000058, 0x03800058, 0x12000008],
    RegReady tState (tRegLd o) ∧ regOff (tRegLd o) = o := by unfold RegReady; decide +kernel

theorem test_witness_quotaLimit : RegReady tState (tRegSt (0x0D000100 + 5 * 0x1000 + 8) 7) ∧ regOff (tRegSt (0x0D000100 + 5 * 0x1000 + 8) 7) = 0x0D000100 + 5 * 0x1000 + 8 ∧
    (ctxOf tState 5).limits.length = 3 := by unfold RegReady; decide +kernel

theorem test_witness_selects : ∀ x ∈ ([(0x04001000, 1), (0x04001000, 9), (0x04001100, 1), (0x05000028, tLine % 2 ^ 46), (0x05000128, 1), (0x08000020, 3), (0x08000020, 600),
      (0x0B001000, 7), (0x10000020, tEp), (0x10000030, 43), (0x10000060, 4)] : List (Nat × Nat)),
      regOff (tRegSt x.1 x.2) = x.1 ∧ RegReady tState (tRegSt x.1 x.2) ∧ le (tRegSt x.1 x.2).payload 0 8 = x.2 := by unfold RegReady; decide +kernel

theorem test_witness_selected : extOf tState 9 = none ∧ extOf tState 1 = some tExt ∧ extPhase tState tExt.die 1 = .active ∧ tExt.base < 2 ^ 52 ∧ tExt.size < 2 ^ 52 ∧
    get? tState.objs 1 = none ∧ get? tObj.objs 1 = some tO ∧ get? (side (tDir { st := .m, domain := 0, ptrs := [0] }).coh .d0).dir (42 * 2 ^ 46 + tLine % 2 ^ 46) =
      some { st := .m, domain := 0, ptrs := [0] } ∧ (get? tState.flt.switches (epSwitch tEp)).isSome = true ∧ get? tState.flt.switches 43 = some ⟨.live, 43⟩ ∧
    get? tState.sessions 7 = none ∧ recOf tState RT.composition 4 = none := by decide +kernel

/-- The selects are ready in the states with the things they select. -/
theorem test_witness_selects_there : RegReady tObj (tRegSt 0x04001100 1) ∧ RegReady (tDir { st := .m, domain := 0, ptrs := [0] }) (tRegSt 0x05000028 (tLine % 2 ^ 46)) := by
  unfold RegReady; decide +kernel

theorem test_witness_selects_session : RegReady (tSes tPaged) (tRegSt 0x0B001000 7) ∧ get? (tSes tPaged).sessions 7 = some tPaged ∧
    RegReady (tRecs [⟨RT.composition, 4, zeros 32⟩]) (tRegSt 0x10000060 4) ∧ (recOf (tRecs [⟨RT.composition, 4, zeros 32⟩]) RT.composition 4).isSome = true := by
  unfold RegReady; decide +kernel

theorem test_witness_commands : ∀ x ∈ ([(0x03000040, 2 * 2 ^ 11 + 1), (0x08000030, 3), (0x06000048, 1), (0x10000050, 1), (0x11000010, 13 * 256 + 1), (0x11001018, 256 + 4)] :
      List (Nat × Nat)), regOff (tRegSt x.1 x.2) = x.1 ∧ RegReady tState (tRegSt x.1 x.2) := by unfold RegReady; decide +kernel

theorem test_witness_commands_state : (coreOf tState .d0 3).item = none ∧ (coreOf tState .d0 3).st ≠ .running ∧
    (coreOf (putCore .d0 3 { item := some { kind := .gather 4 0, service := 9, ctx := 5, index := 2, code := [], threads := 3, entry := 0, slots := [3] } } tState) .d0 3).item.isSome = true ∧
    (∀ x ∈ (side tState.tier .d0).cc, x.2.dirty = false) ∧ jobsFull tState = false ∧ ringFull tState .d0 64 = false ∧ ringFull tState .d1 64 = false ∧ portDie 13 = .d0 ∧ (side tState.mod.dies .d0).spareLanes ≠ 0 ∧
    nth tState.mod.pcLeft 1 0 ≠ 0 ∧ fld (256 + 4) 9 8 = 1 ∧ fld (13 * 256 + 1) 15 8 = 13 := by decide +kernel

theorem test_witness_podRetire_busy :
    RegReady (putCore .d0 3 { item := some { kind := .gather 4 0, service := 9, ctx := 5, index := 2, code := [], threads := 3, entry := 0, slots := [3] } } tState) (tRegSt 0x08000030 3) := by
  unfold RegReady; decide +kernel

/-- tState with a meter. -/
def tMtr : State := { tState with mtr := { tState.mtr with st := .attached } }

theorem test_witness_detach : RegReady tMtr (tRegSt 0x0F000010 1) ∧ regOff (tRegSt 0x0F000010 1) = 0x0F000010 ∧ meterPresent tMtr = true := by
  unfold RegReady; decide +kernel

/-- tState with a firmware load in slot 1. -/
def tFw : State := { tState with sec := { tState.sec with fw1 := { phase := .loading, total := 4096 }, fwSvn := 3 } }

theorem test_witness_firmware : ∀ x ∈ ([(0x0E000048, 2 ^ 60 + 2 ^ 56 + 4096), (0x0E000048, 2 * 2 ^ 60 + 2 ^ 56), (0x0E000048, 3 * 2 ^ 60 + 2 ^ 56),
      (0x0E000048, 4 * 2 ^ 60), (0x0E100040, 77)] : List (Nat × Nat)),
      regOff (tRegSt x.1 x.2) = x.1 ∧ RegReady tFw (tRegSt x.1 x.2) ∧ RegReady tState (tRegSt x.1 x.2) := by unfold RegReady; decide +kernel

theorem test_witness_firmware_state : (tState.sec.fwSlot == 1) = false ∧ tState.sec.unsealed = false ∧ fwLoading tState = false ∧
    (fwSlotOf tFw 1).phase = .loading ∧ (fwEndBad tFw (fwSlotOf tFw 1)).isSome = true ∧ tFw.sec.fwArb < tFw.sec.fwSvn ∧ fwLoading tFw = true ∧
    inAperture 0x0E100040 = true ∧ tFw.sec.windowBase * 65536 + 0x40 + 8 ≤ (fwSlotOf tFw 1).total := by decide +kernel

/-! Security and the meter -/

/-- tState with a meter attached, and a lifetime counter of 2 in it. -/
def tMeter (g : MtrState → MtrState) : State := { tState with mtr := g { tState.mtr with st := .attached, meter := some { serial := 3, left := 2 }, nextPos := 6 } }

theorem test_witness_attestQuote : CtlReady tState 0x70 (tCtl (zeros 32)) ∧ quoteDue tState 0 = true ∧
    CtlReady (modCtx tState 5 (fun x => { x with lastQuote := some 0 })) 0x70 (tCtl5 (zeros 32)) ∧ quoteDue (modCtx tState 5 (fun x => { x with lastQuote := some 0 })) 5 = false := by
  unfold CtlReady; decide +kernel

theorem test_witness_debugUnlock : CtlReady tState 0x71 (tCtl (zeros 8)) ∧ tState.sec.leftDebug ≠ 0 ∧
    CtlReady { tState with sec := { tState.sec with leftDebug := 0 } } 0x71 (tCtl (zeros 8)) := by unfold CtlReady; decide +kernel

theorem test_witness_ownerKey : CtlReady tState 0x72 (tCtl (zeros 64)) ∧ (tCtl (zeros 64)).argLength = 64 ∧ tState.sec.ownerKey = none ∧
    CtlReady { tState with sec := { tState.sec with ownerKey := some (zeros 64) } } 0x72 (tCtl (zeros 64)) ∧
    CtlReady { tState with sec := { tState.sec with ownerKey := some (zeros 64) } } 0x72 (tCtl (zeros 8)) ∧ tState.cfg.applying = none ∧
    tState.sec.leftXfer ≠ 0 := by unfold CtlReady; decide +kernel

theorem test_witness_meterTariff : CtlReady tState 0x80 (tCtl (zeros 8)) ∧ meterPresent tState = false ∧ CtlReady (tMeter id) 0x80 (tCtl (zeros 8)) ∧
    meterPresent (tMeter id) = true ∧ (tMeter id).sec.leftMeter ≠ 0 ∧ (tMeter id).mtr.meter.elim 0 (·.left) = 2 ∧
    CtlReady (tMeter (fun m => { m with meter := none })) 0x80 (tCtl (zeros 8)) ∧ (tMeter (fun m => { m with meter := none })).mtr.meter.elim 0 (·.left) = 0 := by
  unfold CtlReady; decide +kernel

/-- METER_EXPORT of records 2 to 4 into tObj's object. -/
def tExportReq : CtlReq := tCtl (toLE 8 2 ++ toLE 4 3 ++ toLE 4 1 ++ toLE 8 (42 * 2 ^ 52 + 2 ^ 21))

theorem test_witness_meterExport : CtlReady (tMeter id) 0x81 tExportReq ∧ (tMeter id).mtr.released ≤ le tExportReq.args 0 8 ∧
    le tExportReq.args 0 8 + le tExportReq.args 8 4 ≤ (tMeter id).mtr.nextPos := by unfold CtlReady; decide +kernel

/-- An export of records 0 to 1 with RELEASE at its end; record 1 is a SEAL. -/
def tExport : State := tMeter (fun m => { m with exports := [⟨4, 0, 2, true, 0, 0, []⟩], log := [⟨0, 1, 0, 0, 0, []⟩, ⟨1, 2, 0, 0, 0, []⟩] })

theorem test_witness_meterExportDone : tExport.mtr.exports.find? (fun y => y.job == 4) = some ⟨4, 0, 2, true, 0, 0, []⟩ ∧
    (exportRecs tExport 0 2).map (·.type) = [1, 2] := by decide +kernel

/-- tState waiting for the authorisation of a DEBUG_UNLOCK in tObj's object. -/
def tAuth (code : Nat) : State := { tObj with
  objs := [(1, { owner := 5, tier := 0, st := .resident, kind := 0, pins := 0, addr := 42 * 2 ^ 52 + 2 ^ 21, size := 32768, ext := 1, epoch := 1,
                 refcount := 1, loc := 0, gen := 1, comp := none, ses := 0, layer := 0, hg := 0 })]
  cfg := { tObj.cfg with authWait := some ⟨code, tCtl5 (toLE 8 (42 * 2 ^ 52 + 2 ^ 21))⟩ } }

theorem test_witness_authRead : (tAuth 0x71).cfg.authWait = some ⟨0x71, tCtl5 (toLE 8 (42 * 2 ^ 52 + 2 ^ 21))⟩ ∧
    (svcRead .d0 5 (42 * 2 ^ 52 + 2 ^ 21) (authLength 0x71) (modCfg (tAuth 0x71) (fun c => { c with authWait := none }))).1 = Sts.ok := by decide +kernel

theorem test_witness_authBad : authBad tObj 1 tObj.sec.leftDebug (zeros 200) = some Sts.format := by decide +kernel

theorem test_witness_moduleReset : CtlReady tState 0x42 (tCtl []) ∧ tState.sec.sealed = true ∧ tState.sec.pufFail = false := by unfold CtlReady; decide +kernel

/-- An event of a tap. -/
def tTap (n : Nat) : TapEv := ⟨1, 0, 5, 0, n, 64⟩

theorem test_witness_tapSend : escrowing (tMeter (fun m => { m with tapBuf := ⟨[tTap 0, tTap 1], []⟩, tapSent := ⟨1, 0⟩ })) .d0 = false ∧
    (side (tMeter (fun m => { m with tapBuf := ⟨[tTap 0, tTap 1], []⟩, tapSent := ⟨1, 0⟩ })).mtr.tapBuf .d0).find? (fun x => decide (1 ≤ x.seq)) = some (tTap 1) ∧
    (tMeter id).mtr.st = .attached := by decide +kernel

theorem test_witness_meterAttach : meterPresent tState = false ∧ tState.mtr.keyErased = false ∧ ({ tampered := true } : MeterIdent).tampered = true ∧
    ({} : MeterIdent).tampered = false := by decide +kernel

theorem test_witness_noEscrow : NoEscrow tState := by intro d; cases d <;> exact ⟨rfl, rfl⟩

/-- tState with a segment in escrow. -/
def tEscrow (st : MtrSt) (l : List Segment) : State := tMeter (fun m => { m with st := st, escrow := ⟨{ on := true, segs := l }, { on := true }⟩ })

theorem test_witness_someEscrow : ¬ NoEscrow (tEscrow .absent [{ num := 0, events := [tTap 0], signed := true }]) ∧ meterPresent (tEscrow .absent [{ num := 0, events := [tTap 0], signed := true }]) = false :=
  ⟨fun h => by have := (h .d0).1; exact absurd this (by decide +kernel), by decide +kernel⟩

theorem test_witness_linkLoss : meterPresent (tMeter id) = true ∧ (tMeter id).mtr.escrow.d0.on = (tMeter id).mtr.escrow.d1.on := by decide +kernel

/-- tMeter with a log that is full and not released. -/
def tFullLog : State := tMeter (fun m => { m with log := [⟨0, 1, 0, 0, 0, List.replicate (2 ^ 36) 0⟩] })

theorem test_witness_periodFull : tFullLog.mtr.st = .attached ∧ ¬ PeriodFits tFullLog := by
  refine ⟨rfl, fun h => ?_⟩
  unfold PeriodFits at h
  rw [show tFullLog.mtr.log.filter (fun r => decide (tFullLog.mtr.released ≤ r.pos)) = [⟨0, 1, 0, 0, 0, List.replicate (2 ^ 36) 0⟩] from rfl] at h
  simp only [logSize, sumOf, List.foldl_cons, List.foldl_nil, Nat.zero_add, List.map_cons, List.map_nil, List.length_replicate, logCap] at h
  omega

theorem test_witness_periodFits : PeriodFits (tMeter id) := by unfold PeriodFits; decide +kernel

theorem test_witness_escrowSecond : escrowing (tEscrow .absent []) .d0 = true := by decide +kernel

theorem test_witness_ingest : (tEscrow .ingesting [{ num := 0, events := [tTap 0], signed := true }, { num := 1, events := [], signed := true }]).mtr.st = .ingesting ∧
    (side (tEscrow .ingesting [{ num := 0, events := [tTap 0], signed := true }, { num := 1, events := [], signed := true }]).mtr.escrow .d0).segs = { num := 0, events := [tTap 0], signed := true } :: [{ num := 1, events := [], signed := true }] ∧
    (tEscrow .ingesting []).mtr.escrow.d0.segs = [] ∧ (tEscrow .ingesting []).mtr.escrow.d1.segs = [] ∧ ringFull (tEscrow .ingesting []) .d0 64 = false := by decide +kernel

/-! The module -/

/-- tState with the module's part changed. -/
def tMod (g : ModState → ModState) : State := { tState with mod := g tState.mod }

theorem test_witness_power : tState.mod.power = .run ∧ (tMod (fun m => { m with power := .off })).mod.power = .off ∧
    (tMod (fun m => { m with power := .standby })).mod.power = .standby ∧ bootSlot (tMod (fun m => { m with power := .standby })) = none ∧
    (44000 : Nat) ≤ ({ inputMv := 54000 } : PowerUpIn).inputMv ∧ ({ inputMv := 54000 } : PowerUpIn).inputMv ≤ 62000 ∧ workLeft tState = false ∧
    workLeft tWaits = true ∧ tWaits.mod.power = .run ∧ (tMod (fun m => { m with planned := true })).mod.planned = true := by decide +kernel

theorem test_witness_thermal : (side tState.mod.dies .d0).thermalHold = false ∧
    (side (tMod (fun m => { m with dies := ⟨{ thermalHold := true }, {}⟩ })).mod.dies .d0).thermalHold = true := by decide +kernel

theorem test_witness_pace : (side (tMod (fun m => { m with dies := ⟨{ minPace := 7, paceLow := true, refLost := true }, {}⟩ })).mod.dies .d0).minPace ≠ 0 ∧
    true ≠ decide (160000 % 2 ^ 24 < 160000) ∧ (side tState.mod.dies .d0).refLost = false ∧
    (side (tMod (fun m => { m with dies := ⟨{ minPace := 7, paceLow := true, refLost := true }, {}⟩ })).mod.dies .d0).refLost = true := by decide +kernel

theorem test_witness_lanes :
    let s := modPort tState 13 (fun x => { x with errStatus := { bits := 0x80 } })
    s.mod.autoLane = true ∧ (portOf s 13).errStatus.bits.getLsbD 7 = true ∧ (subOf s 13 (laneSub s 13 2)).retraining = none ∧
      (side s.mod.dies (portDie 13)).spareLanes ≠ 0 ∧
      (subOf (modSub s 13 (laneSub s 13 2) (fun x => { x with retraining := some 2 })) 13 (laneSub s 13 2)).retraining = some 2 := by decide +kernel

theorem test_witness_repair : tState.mod.autoPc = true ∧ tState.mod.pcCopy.contains (1, 4) = false ∧ nth tState.mod.pcLeft 1 0 ≠ 0 ∧
    nth (tMod (fun m => { m with pcLeft := [0, 0, 0, 0] })).mod.pcLeft 1 0 = 0 ∧ (tMod (fun m => { m with pcCopy := [(1, 4)] })).mod.pcCopy.contains (1, 4) = true ∧
    tState.mod.autoRow = true ∧ tState.mod.rowBusy.contains (1, 9) = false ∧ tState.mod.rowsOut.contains 1 = false ∧
    (tMod (fun m => { m with rowsOut := [1] })).mod.rowsOut.contains 1 = true ∧ (tMod (fun m => { m with rowBusy := [(1, 9)] })).mod.rowBusy.contains (1, 9) = true := by
  decide +kernel

theorem test_witness_HomeQuiet : ∀ d, HomeQuiet (tMod (fun m => { m with rowBusy := [(1, 9)] })) d := by intro d; cases d <;> rfl

/-! Failures, compositions, transfers, pepper -/

/-- tState with the failure detector's part changed. -/
def tFlt (g : FltState → FltState) : State := { tState with flt := g tState.flt }

theorem test_witness_fenceAdvance : CtlReady tState 0x60 (tCtl (toLE 4 tEp)) ∧ epIndex (le (toLE 4 tEp) 0 4) < 0xFE ∧
    liveSwitch tState (epSwitch (le (toLE 4 tEp) 0 4)) = true ∧ tState.flt.fencing.any (fun x => x.ep == tEp) = false := by unfold CtlReady; decide +kernel

theorem test_witness_grace : linksOf tState tEp ≠ [] ∧
    (linksOf tState tEp).any (fun l => (subOf tState l.1 l.2).phase == .up || (portOf tState l.1).resetJob.isSome) = false := by decide +kernel

theorem test_witness_fencing : (tFlt (fun x => { x with ackReports := [tEp] })).flt.ackReports.contains tEp = true ∧
    (tFlt (fun x => { x with fencing := [⟨tEp, some 3, none⟩] })).flt.fencing.find? (fun y => y.ep == tEp) = some ⟨tEp, some 3, none⟩ := by decide +kernel

theorem test_witness_cohAckTimeout : (side (tTxn .sI (.inv false) [42 * 256 + 12] none).coh .d0).dir.any
    (fun x => x.2.txn.elim false (fun t => t.awaited.contains (42 * 256 + 12))) = true := by decide +kernel

theorem test_witness_map : tState.flt.gen < 1 ∧ isKeeper tState = true ∧ switchSt tState 43 = some .live ∧ 43 ≠ tState.cfg.switchId ∧
    (recsOf tState RT.replicaSet).all (fun r => !(bitAt (le r.body 1 1) 0 && primaryOf r.body == 43)) = true ∧
    (recOf tState RT.mapKeeper 43).isSome = true ∧ tState.flt.heartbeats.contains 43 = false ∧ tState.flt.selfFenced = false := by decide +kernel

theorem test_witness_leaseRegain : ∀ st : SwitchSt,
    get? (tFlt (fun x => { x with selfFenced := true, switches := put x.switches 42 ⟨st, 42⟩ })).flt.switches tState.cfg.switchId = some ⟨st, 42⟩ := by
  intro st; rfl

/-- tState with composition 3 of context 5 over this switch and switch 43, and replica set 2 with primary 43 and member 44. -/
def tComp3 (g : FltState → FltState) : State := { tRecs [⟨RT.composition, 3, [2, 0, 0, 0] ++ toLE 2 5 ++ zeros 10 ++ toLE 4 42 ++ toLE 4 43⟩,
  ⟨RT.replicaSet, 2, [2, 0] ++ zeros 14 ++ toLE 2 43 ++ zeros 2 ++ toLE 4 1 ++ toLE 2 44 ++ zeros 2 ++ toLE 4 1⟩] with flt := g tState.flt }

/-- Its record. -/
def tCompBody : Bytes := [2, 0, 0, 0] ++ toLE 2 5 ++ zeros 10 ++ toLE 4 42 ++ toLE 4 43

theorem test_witness_compCommit : CtlReady (tComp3 id) 0x62 (tCtl5 (toLE 2 3 ++ zeros 6)) ∧ recOf (tComp3 id) RT.composition 3 = some tCompBody ∧
    (compOf (tComp3 id) 3).failed = false ∧ le (toLE 2 3 ++ zeros 6) 4 4 = (compOf (tComp3 id) 3).epoch ∧ (compOf (tComp3 id) 3).commitJob = none ∧
    CtlReady (tComp3 id) 0x63 (tCtl (toLE 2 3 ++ zeros 2)) ∧ (compOf (tComp3 id) 3).rollbackJob = none := by unfold CtlReady; decide +kernel

theorem test_witness_compEnds :
    let s := tComp3 (fun x => { x with comps := [(3, { epoch := 1, commitJob := some 4, rollbackJob := some 5 })] })
    (compOf s 3).commitJob = some 4 ∧ (compOf s 3).rollbackJob = some 5 ∧ (compSwitches tCompBody).all (liveSwitch s) = true ∧ otherJobs s 0x62 3 4 = [] ∧
      (compSwitches tCompBody).all (liveSwitch (tComp3 (fun x => { x with switches := [(42, ⟨.live, 42⟩)] }))) = false := by decide +kernel

theorem test_witness_replicaPromote : CtlReady (tComp3 id) 0x64 (tCtl (toLE 2 2 ++ zeros 2)) ∧
    (recOf (tComp3 id) RT.replicaSet 2).bind (chosenMember (tComp3 id)) = some 44 ∧
    (get? (tComp3 id).flt.switches 43).elim true (fun x => x.st != .promoted || x.answer == 44) = true := by unfold CtlReady; decide +kernel

theorem test_witness_trayLost : (recOf tState RT.tray 5).isSome = true ∧ tState.flt.lostTrays.contains 5 = false := by decide +kernel

/-- A transfer's object as it arrives for extent 1. -/
def tXferIn : XferIn := { srcSwitch := 43, oldHandle := 77, ext := 1, size := 8192, owner := 5, tier := 0, kind := 0, epoch := 2, data := [], poison := [] }

theorem test_witness_xferIn : xferInBad tState tXferIn = none ∧ extOf tState 1 = some tExt ∧ freeObjId tState = some 0 ∧
    tState.objs.any (fun o => o.2.st == .inbound && o.2.oldHandle == 77) = false ∧ ringFull tState tExt.die 64 = false := by decide +kernel

/-- A transfer of tObj's object under way. -/
def tXfer (c : Bool) : State := { tObj with flt := { tObj.flt with xfers := [{ job := 4, obj := 1, dstSwitch := 43, dstExt := 2, dirty := [], switching := c, committed := c }] } }

theorem test_witness_xferSwitchover : (tXfer false).flt.xfers.find? (fun y => y.job == 4) =
      some { job := 4, obj := 1, dstSwitch := 43, dstExt := 2, dirty := [], switching := false, committed := false } ∧
    get? (tXfer false).objs 1 = some tO ∧ extOf (tXfer false) tO.ext = some tExt ∧ accessOpen (tXfer false) .d0 1 = false ∧
    ((tXfer true).flt.xfers.find? (fun y => y.job == 4 && y.committed)).isSome = true ∧ ((tXfer true).objs.filter (fun p => p.1 == 1)).length ≤ 1 := by
  decide +kernel

/-- tObj's object INBOUND. -/
def tInbound : State := { tObj with objs := [(1, { tO with st := .inbound, oldHandle := 77 })] }

theorem test_witness_xferResolve : tInbound.objs = [(1, { tO with st := .inbound, oldHandle := 77 })] ∧ (77 : Nat) = (77#64).toNat ∧
    extOf tInbound tO.ext = some tExt ∧ tInbound.flt.xfers = [] := by decide +kernel

/-- PEP_SET of rule 1, on a kind, for a context. -/
def tPep (kind : Byte) (c : Nat) : Bytes := [1, kind, 1, 0] ++ toLE 2 13 ++ toLE 2 c ++ toLE 4 5 ++ [2, 0, 0, 0] ++ toLE 8 9 ++ zeros 8

/-- tState unlocked with the PEPPER scope. -/
def tUnlocked : State := { tState with sec := { tState.sec with unlocked := true, scope := 1 } }

theorem test_witness_pepSet : CtlReady tState 0x90 (tCtl5 (tPep 1 5)) ∧ le (tPep 1 5) 6 2 = 5 ∧ le (tPep 1 5) 1 1 = 1 ∧ CtlReady tUnlocked 0x90 (tCtl (tPep 3 0)) ∧
    tUnlocked.sec.unlocked = true ∧ tUnlocked.sec.scope.getLsbD 0 = true ∧ CtlReady tState 0x90 (tCtl (tPep 1 0)) ∧ tState.sec.unlocked = false ∧
    le (tPep 1 0) 6 2 = 0 := by unfold CtlReady; decide +kernel

theorem test_witness_pepClear : CtlReady tUnlocked 0x91 (tCtl [1, 0, 0, 0]) ∧ CtlReady tState 0x91 (tCtl [1, 0, 0, 0]) ∧
    CtlReady tState 0x91 (tCtl5 [0xFF, 0, 0, 0]) ∧ (tCtl5 [0xFF, 0, 0, 0]).ctx.toNat ≠ 0 := by unfold CtlReady; decide +kernel

/-- There is room in the journal ring in each of those states, and the copying that a clause asks for is over, or has failed. -/
theorem test_witness_ring_room : ringFull tState .d0 64 = false ∧ ringFull tState (portDie 5) (2 ^ 20) = false ∧
    ringFull (tFlt (fun x => { x with selfFenced := true })) .d0 64 = false ∧ ringFull (tComp3 id) .d0 64 = false ∧
    ringFull (tXfer false) tExt.die 64 = false ∧ copied (tXfer false) tExt.die (.xfer 4) = true ∧
    copyEnded tInbound tExt.die (.out 1) = true ∧ tInbound.flt.xfers = [] := by decide +kernel

theorem test_witness_xferFailed :
    let s := modTier (tXfer false) tExt.die (fun t => { t with copies := tJob (.xfer 4) (some Sts.poison) })
    jobFor s tExt.die (.xfer 4) = some { id := 2, why := .xfer 4, steps := [], failed := some Sts.poison } ∧ get? s.objs 1 = some tO ∧
      extOf s tO.ext = some tExt ∧ (s.flt.xfers.find? (fun y => y.job == 4)).isSome = true := by decide +kernel

end Machine
end Sys2Proof
end

/-! SUPPORT and the statements of the family 00_scope: what a step runs, and the frame of every command. -/

namespace Sys2Proof
namespace Machine

/-- Settles O1: a step on a queue with a command at its front is, by its definition, that command's effect. -/
theorem stepRunsTheFrontCommand : Obligations.StepRunsTheFrontCommand := by
  unfold Obligations.StepRunsTheFrontCommand
  intro s c r h
  rw [step, h]

/-! Every command completes -/

/-- A command goes on: it neither stops the machine nor lacks a meaning. -/
def Completes (o : Host.Outcome State Fault Refusal) : Prop := ∃ t, o = .next t

theorem Completes.next (s : State) : Completes (.next s) := ⟨s, rfl⟩

theorem Completes.ite {c : Prop} [Decidable c] {x y : Host.Outcome State Fault Refusal} (hx : Completes x) (hy : Completes y) :
    Completes (if c then x else y) := by
  split
  · exact hx
  · exact hy

theorem withRoom_completes {d : Die} {line : Nat} {b : Bytes} {s go : State} : Completes (withRoom d line b s go) := by
  unfold withRoom
  split
  · exact .next _
  · exact .next _

theorem execCfwdAck_completes {d : Die} {f : Frame} {s : State} : Completes (execCfwdAck d f s) := by
  unfold execCfwdAck
  extract_lets src s1
  split
  · exact .next _
  · exact .ite withRoom_completes (.ite withRoom_completes (.next _))

theorem execCrecallAck_completes {d : Die} {f : Frame} {s : State} : Completes (execCrecallAck d f s) := by
  unfold execCrecallAck
  extract_lets src mine s1
  split
  · exact .ite (.next _) (.next _)
  · exact .ite (.next _) (.ite withRoom_completes (.ite withRoom_completes (.next _)))

theorem execServiceStoreResponse_completes {d : Die} {f : Frame} {s : State} : Completes (execServiceStoreResponse d f s) := by
  unfold execServiceStoreResponse
  extract_lets s0 st bad
  split
  · exact .next _
  · split
    · refine .ite (.next _) ?_
      extract_lets s1 s2 kind s3
      clear_value kind
      split
      · exact .next _
      · exact .next _
    · exact .ite (.next _) (.next _)
    · exact .next _

/-- Every command answers a next state (R105, log 1). The first group ends in its one answer; the second decides something before, and
answers next on each branch; the third hands its answer to another operation. -/
theorem exec_completes (c : Instr) (s : State) : Completes (exec c s) := by
  cases c with
  | echo | bsBegin | bsData | bsFetch | bsEnd | bsAbort | bsActivate | partialApply | extCreate | extRevoke | grantAdd | grantRemove
    | ctxCreate | ctxDestroy | admitAdd | admitRemove | qosSet | ctxReset | portReset | moduleReset | stop | resume | fenceAdvance
    | compCreate | compCommit | compRollback | replicaPromote | attestQuote | debugUnlock | ownerKeyTransfer | meterTariff | meterExport
    | pepSet | pepClear | registerWrite | registerReadClear | quotaLimitWrite | extSelWrite | objSelWrite | dirSelWrite | coreSelWrite
    | sesSelWrite | fenceSelWrite | switchSelWrite | compSelWrite | podRetireWrite | sampleCfgWrite | ccFlush | ccFlushDone | xferGo
    | meterDetachWrite | fwBegin | fwEnd | fwAbort | fwCommit | fwApertureWrite | laneSpareWrite | pcSpareWrite | frameIngress
    | stalkFailure | egressSend | ld | st | amo | amoNr | cas | amoAck | hotlineExit | crdS | crdM | cupg | cwb | cevict | fenceNotice
    | objMove | objPin | objUnpin | objFree | objClone | moveSwitchover | moveComplete | moveDestFail | sesWake | sesSleep | retentionHour
    | journalRingWaitEnd | podNop | podEnd | podJmp | podBeq | podBne | podBlt | podBltu | podBar | podFault | podRdflg | podRdpace
    | podRdtime | podInfo | podAdd | podSub | podMul | podAnd | podOr | podXor | podShl | podShr | podSra | podMin | podMax | podSlt
    | podSltu | podAddi | podLi | podLim | podLit | podSld | podSst | podVld | podVst | podVldb | podVadd | podVsub | podVmul | podVfma
    | podVmin | podVmax | podVexp2 | podVlog2 | podVrcp | podVrsq | podVcmplt | podVsel | podVbcs | podVmvs | podVradd | podVrmax | podVidx
    | podVcvt | podMzero | podMma | podMsc | podMst | podMld | podMtv | podSrd | podSwr | podXpd | podXpq | podCpz | colReduce | colPart
    | attAppend | attOpen | attFork | attClose | ringReuse | attAttend | countersPeriod | rateTokenRelease | auditPass | linkInit
    | linkCredit | linkNak | refClockLoss | refClockReturn | spTakeover | heartbeatSend | leaseLoss | mapGenerationApply | xferResolve
    | mapPageLoadDone | journalTailOnMedia | pfcPauseExpiry | fecDegradeCheck | tapBytesFlush => exact .next _
  | bsFetchComplete | loadAbandon | recordDrainDone | extentRevoked | ctxDestroyComplete | ctxResetStalkApply | ctxResetComplete
    | portResetComplete | compCommitComplete | stalkReceive | releaseForward | releaseTimeout | acquireHoldTimeout | writeRecordTimeout
    | memSync | combinedRequest | requestAged | cinvAck | cohAckTimeout | objCreate | objFreeRelease | moveStart | spillStart | refillStart
    | ccWritebackResponse | trayResponse | sesWakeLayerDone | sesWakeDone | sesSleepDone | stagingSlotWaitEnd | slcProgram | slcProgramDone
    | programAborted | flashReadResponse | relocationStart | relocationClose | blockEraseDone | ouviMerge | checkpointStart | checkpointEnd
    | mapRebuild | volumeBringup | workItemStart | workItemEnd | threadSwitchQuantum | budgetExhausted | streamComplete | streamRetry
    | coreRetire | selftest | chunkCombine | colPartRsp | instanceTimeout | colGather | colFilter | attCloseDone | cmpSlotFree | eventSend
    | cellEccError | linkInitSend | linkCreditSend | linkNakRepeat | replayTimeout | sublinkLockLoss | sublinkRxTimeout | sublinkReplayLimit
    | sublinkBringupTimeout | pfcFrame | pfcXoffRefresh | sprayedFrameResequence | reseqAck | reseqAckTimer | pathBarrierStart | pathBarrier
    | pathBarrierAck | pathBarrierTimeout | kaHello | kaReply | kaDone | kaResend | linkRekey | paceMeasure | heartbeat | leaseRegain
    | switchDeclareLost | endpointGraceExpire | endpointAckDeadExpire | endpointFenced | epochHoldTimeout | trayLost | xferIn
    | xferSwitchover | xferCommitApply | tapEventSend | meterAck | recordPeriodEnd | meterAttach | meterTamper | meterLinkLoss
    | escrowSecond | escrowIngestSegment | inputLoss | powerUp | plannedPowerDown | plannedDownTimeout | holdupTest | thermalHoldEnter
    | thermalHoldExit | thermalTrip | coolantInletHigh | inputLow | laneAutoSpare | laneRetrainDone | pcAutoSpare | pcSpareSwitchover
    | rowRepair | linkTrainingDone | inputReturn | extRevokeStalkApply | stopStalkApply | compRollbackComplete | meterExportDone
    | authorisationReadDone | mapRebuildDone | localFractionUpdate | flashTrayBusy | rowRepairDone | pepperHoldExpiry =>
    dsimp only [exec, execBsFetchComplete, execLoadAbandon, execRecordDrainDone, execExtentRevoked, execCtxDestroyComplete,
      execCtxResetStalkApply, execCtxResetComplete, execPortResetComplete, execCompCommitComplete, execStalkReceive, execReleaseForward,
      execReleaseTimeout, execAcquireHoldTimeout, execWriteRecordTimeout, execMemSync, execCombinedRequest, execRequestAged, execCinvAck,
      execCohAckTimeout, execObjCreate, execObjFreeRelease, execMoveStart, execSpillStart, execRefillStart, execCcWritebackResponse,
      execTrayResponse, execSesWakeLayerDone, execSesWakeDone, execSesSleepDone, execStagingSlotWaitEnd, execSlcProgram, execSlcProgramDone,
      execProgramAborted, execFlashReadResponse, execRelocationStart, execRelocationClose, execBlockEraseDone, execOuviMerge,
      execCheckpointStart, execCheckpointEnd, execMapRebuild, execVolumeBringup, execWorkItemStart, execWorkItemEnd,
      execThreadSwitchQuantum, execBudgetExhausted, execStreamComplete, execStreamRetry, execCoreRetire, execSelftest, execChunkCombine,
      execColPartRsp, execInstanceTimeout, execColGather, execColFilter, execAttCloseDone, execCmpSlotFree, execEventSend, execCellEccError,
      execLinkInitSend, execLinkCreditSend, execLinkNakRepeat, execReplayTimeout, execSublinkLockLoss, execSublinkRxTimeout,
      execSublinkReplayLimit, execSublinkBringupTimeout, execPfcFrame, execPfcXoffRefresh, execSprayedFrameResequence, execReseqAck,
      execReseqAckTimer, execPathBarrierStart, execPathBarrier, execPathBarrierAck, execPathBarrierTimeout, execKaHello, execKaReply,
      execKaDone, execKaResend, execLinkRekey, execPaceMeasure, execHeartbeat, execLeaseRegain, execSwitchDeclareLost,
      execEndpointGraceExpire, execEndpointAckDeadExpire, execEndpointFenced, execEpochHoldTimeout, execTrayLost, execXferIn,
      execXferSwitchover, execXferCommitApply, execTapEventSend, execMeterAck, execRecordPeriodEnd, execMeterAttach, execMeterTamper,
      execMeterLinkLoss, execEscrowSecond, execEscrowIngestSegment, execInputLoss, execPowerUp, execPlannedPowerDown,
      execPlannedDownTimeout, execHoldupTest, execThermalHoldEnter, execThermalHoldExit, execThermalTrip, execCoolantInletHigh,
      execInputLow, execLaneAutoSpare, execLaneRetrainDone, execPcAutoSpare, execPcSpareSwitchover, execRowRepair, execLinkTrainingDone,
      execInputReturn, execExtRevokeStalkApply, execStopStalkApply, execCompRollbackComplete, execMeterExportDone,
      execAuthorisationReadDone, execMapRebuildDone, execLocalFractionUpdate, execFlashTrayBusy, execRowRepairDone, execPepperHoldExpiry]
    repeat' first
      | with_reducible refine Completes.ite ?_ ?_
      | exact .next _
      | split
  | crecallAck => exact execCrecallAck_completes
  | cfwdAck => exact execCfwdAck_completes
  | serviceStoreResponse => exact execServiceStoreResponse_completes

/-! A mask and the list of the parts it stands for -/

theorem Piece.num_injective : Function.Injective Piece.num := fun p q h => by
  have e : Piece.ofNat p.num = Piece.ofNat q.num := by rw [h]
  rwa [Piece.num, Piece.num, Piece.ofNat_ctorIdx, Piece.ofNat_ctorIdx] at e

/-- The mask of a list of parts. -/
def maskOf (l : List Piece) : Nat := l.foldr (fun p m => 2 ^ p.num ||| m) 0

theorem testBit_maskOf (l : List Piece) (p : Piece) : (maskOf l).testBit p.num = l.contains p := by
  induction l with
  | nil => simp [maskOf]
  | cons q r ih =>
    have e : (p == q) = decide (q.num = p.num) := by
      simp [beq_eq_decide, Piece.num_injective.eq_iff, eq_comm]
    rw [List.contains_cons, ← ih, e, maskOf, List.foldr_cons, Nat.testBit_or, Nat.testBit_two_pow]
    rfl

theorem among_eq_contains (ls : List (List Piece)) (p : Piece) : among ls p = ls.flatten.contains p := by
  rw [Bool.eq_iff_iff]
  simp [among]

/-- A change within the mask of some lists leaves alone every part that stands in none of them. -/
theorem same_of_among {m : Nat} {ls : List (List Piece)} {s t : State} (hm : Sub m (maskOf ls.flatten)) (hk : Keeps m s t) :
    ∀ p : Piece, among ls p = false → p.same s t := fun p hp => by
  rw [among_eq_contains, ← testBit_maskOf] at hp
  exact (hk.wider hm).same p hp

/-- A change outside the mask of a list leaves alone every part that stands in it. -/
theorem same_of_notAmong {m : Nat} {l : List Piece} {s t : State} (hm : m &&& maskOf l = 0) (hk : Keeps m s t) :
    ∀ p : Piece, notAmong l p = false → p.same s t := fun p hp => by
  have hl : (maskOf l).testBit p.num = true := by
    rw [testBit_maskOf]
    simpa [notAmong] using hp
  refine hk.same p ?_
  have e : (m &&& maskOf l).testBit p.num = false := by rw [hm, Nat.zero_testBit]
  rwa [Nat.testBit_and, hl, Bool.and_true] at e

/-! The frame of every command -/

/-- What a command may not change stays: the mask of its frame lemma lies within the parts that mayChange names for it. -/
theorem exec_same (c : Instr) (s : State) : ∀ p : Piece, mayChange c p = false → p.same s (after (exec c s) s) := by
  cases c with
  | echo => exact same_of_among (by decide +kernel) execEcho_keeps
  | bsBegin => exact same_of_among (by decide +kernel) execBsBegin_keeps
  | bsData => exact same_of_among (by decide +kernel) execBsData_keeps
  | bsFetch => exact same_of_among (by decide +kernel) execBsFetch_keeps
  | bsFetchComplete => exact same_of_among (by decide +kernel) execBsFetchComplete_keeps
  | bsEnd => exact same_of_among (by decide +kernel) execBsEnd_keeps
  | bsAbort => exact same_of_among (by decide +kernel) execBsAbort_keeps
  | loadAbandon => exact same_of_among (by decide +kernel) execLoadAbandon_keeps
  | bsActivate => exact same_of_notAmong (by decide +kernel) execBsActivate_keeps
  | partialApply => exact same_of_among (by decide +kernel) execPartialApply_keeps
  | recordDrainDone => exact same_of_among (by decide +kernel) execRecordDrainDone_keeps
  | extCreate => exact same_of_among (by decide +kernel) execExtCreate_keeps
  | extRevoke => exact same_of_among (by decide +kernel) execExtRevoke_keeps
  | extentRevoked => exact same_of_among (by decide +kernel) execExtentRevoked_keeps
  | grantAdd => exact same_of_among (by decide +kernel) execGrantAdd_keeps
  | grantRemove => exact same_of_among (by decide +kernel) execGrantRemove_keeps
  | ctxCreate => exact same_of_among (by decide +kernel) execCtxCreate_keeps
  | ctxDestroy => exact same_of_among (by decide +kernel) execCtxDestroy_keeps
  | ctxDestroyComplete => exact same_of_among (by decide +kernel) execCtxDestroyComplete_keeps
  | admitAdd => exact same_of_among (by decide +kernel) execAdmitAdd_keeps
  | admitRemove => exact same_of_among (by decide +kernel) execAdmitRemove_keeps
  | qosSet => exact same_of_among (by decide +kernel) execQosSet_keeps
  | ctxReset => exact same_of_among (by decide +kernel) execCtxReset_keeps
  | ctxResetStalkApply => exact same_of_among (by decide +kernel) execCtxResetStalkApply_keeps
  | ctxResetComplete => exact same_of_among (by decide +kernel) execCtxResetComplete_keeps
  | portReset => exact same_of_among (by decide +kernel) execPortReset_keeps
  | portResetComplete => exact same_of_among (by decide +kernel) execPortResetComplete_keeps
  | moduleReset => exact same_of_notAmong (by decide +kernel) execModuleReset_keeps
  | stop => exact same_of_among (by decide +kernel) execStop_keeps
  | resume => exact same_of_among (by decide +kernel) execResume_keeps
  | fenceAdvance => exact same_of_among (by decide +kernel) execFenceAdvance_keeps
  | compCreate => exact same_of_among (by decide +kernel) execCompCreate_keeps
  | compCommit => exact same_of_among (by decide +kernel) execCompCommit_keeps
  | compCommitComplete => exact same_of_among (by decide +kernel) execCompCommitComplete_keeps
  | compRollback => exact same_of_among (by decide +kernel) execCompRollback_keeps
  | replicaPromote => exact same_of_among (by decide +kernel) execReplicaPromote_keeps
  | attestQuote => exact same_of_among (by decide +kernel) execAttestQuote_keeps
  | debugUnlock => exact same_of_among (by decide +kernel) execDebugUnlock_keeps
  | ownerKeyTransfer => exact same_of_among (by decide +kernel) execOwnerKeyTransfer_keeps
  | meterTariff => exact same_of_among (by decide +kernel) execMeterTariff_keeps
  | meterExport => exact same_of_among (by decide +kernel) execMeterExport_keeps
  | pepSet => exact same_of_among (by decide +kernel) execPepSet_keeps
  | pepClear => exact same_of_among (by decide +kernel) execPepClear_keeps
  | registerWrite => exact same_of_notAmong (by decide +kernel) execRegisterWrite_keeps
  | registerReadClear => exact same_of_notAmong (by decide +kernel) execRegisterReadClear_keeps
  | quotaLimitWrite => exact same_of_notAmong (by decide +kernel) execQuotaLimitWrite_keeps
  | extSelWrite => exact same_of_notAmong (by decide +kernel) execExtSelWrite_keeps
  | objSelWrite => exact same_of_notAmong (by decide +kernel) execObjSelWrite_keeps
  | dirSelWrite => exact same_of_notAmong (by decide +kernel) execDirSelWrite_keeps
  | coreSelWrite => exact same_of_notAmong (by decide +kernel) execCoreSelWrite_keeps
  | sesSelWrite => exact same_of_notAmong (by decide +kernel) execSesSelWrite_keeps
  | fenceSelWrite => exact same_of_notAmong (by decide +kernel) execFenceSelWrite_keeps
  | switchSelWrite => exact same_of_notAmong (by decide +kernel) execSwitchSelWrite_keeps
  | compSelWrite => exact same_of_notAmong (by decide +kernel) execCompSelWrite_keeps
  | podRetireWrite => exact same_of_notAmong (by decide +kernel) execPodRetireWrite_keeps
  | sampleCfgWrite => exact same_of_notAmong (by decide +kernel) execSampleCfgWrite_keeps
  | ccFlush => exact same_of_notAmong (by decide +kernel) execCcFlush_keeps
  | ccFlushDone => exact same_of_among (by decide +kernel) execCcFlushDone_keeps
  | xferGo => exact same_of_notAmong (by decide +kernel) execXferGo_keeps
  | meterDetachWrite => exact same_of_notAmong (by decide +kernel) execMeterDetachWrite_keeps
  | fwBegin => exact same_of_notAmong (by decide +kernel) execFwBegin_keeps
  | fwEnd => exact same_of_notAmong (by decide +kernel) execFwEnd_keeps
  | fwAbort => exact same_of_notAmong (by decide +kernel) execFwAbort_keeps
  | fwCommit => exact same_of_notAmong (by decide +kernel) execFwCommit_keeps
  | fwApertureWrite => exact same_of_notAmong (by decide +kernel) execFwApertureWrite_keeps
  | laneSpareWrite => exact same_of_notAmong (by decide +kernel) execLaneSpareWrite_keeps
  | pcSpareWrite => exact same_of_notAmong (by decide +kernel) execPcSpareWrite_keeps
  | frameIngress => exact same_of_among (by decide +kernel) execFrameIngress_keeps
  | stalkReceive => exact same_of_among (by decide +kernel) execStalkReceive_keeps
  | stalkFailure => exact same_of_among (by decide +kernel) execStalkFailure_keeps
  | egressSend => exact same_of_among (by decide +kernel) execEgressSend_keeps
  | releaseForward => exact same_of_among (by decide +kernel) execReleaseForward_keeps
  | releaseTimeout => exact same_of_among (by decide +kernel) execReleaseTimeout_keeps
  | acquireHoldTimeout => exact same_of_among (by decide +kernel) execAcquireHoldTimeout_keeps
  | writeRecordTimeout => exact same_of_among (by decide +kernel) execWriteRecordTimeout_keeps
  | ld => exact same_of_notAmong (by decide +kernel) execLd_keeps
  | st => exact same_of_notAmong (by decide +kernel) execSt_keeps
  | amo => exact same_of_among (by decide +kernel) execAmo_keeps
  | amoNr => exact same_of_among (by decide +kernel) execAmoNr_keeps
  | cas => exact same_of_among (by decide +kernel) execCas_keeps
  | memSync => exact same_of_among (by decide +kernel) execMemSync_keeps
  | amoAck => exact same_of_among (by decide +kernel) execAmoAck_keeps
  | combinedRequest => exact same_of_among (by decide +kernel) execCombinedRequest_keeps
  | requestAged => exact same_of_among (by decide +kernel) execRequestAged_keeps
  | hotlineExit => exact same_of_among (by decide +kernel) execHotlineExit_keeps
  | crdS => exact same_of_among (by decide +kernel) execCrdS_keeps
  | crdM => exact same_of_among (by decide +kernel) execCrdM_keeps
  | cupg => exact same_of_among (by decide +kernel) execCupg_keeps
  | cwb => exact same_of_among (by decide +kernel) execCwb_keeps
  | cevict => exact same_of_among (by decide +kernel) execCevict_keeps
  | cinvAck => exact same_of_among (by decide +kernel) execCinvAck_keeps
  | cfwdAck => exact same_of_among (by decide +kernel) execCfwdAck_keeps
  | crecallAck => exact same_of_among (by decide +kernel) execCrecallAck_keeps
  | fenceNotice => exact same_of_among (by decide +kernel) execFenceNotice_keeps
  | cohAckTimeout => exact same_of_among (by decide +kernel) execCohAckTimeout_keeps
  | objCreate => exact same_of_among (by decide +kernel) execObjCreate_keeps
  | objMove => exact same_of_among (by decide +kernel) execObjMove_keeps
  | objPin => exact same_of_among (by decide +kernel) execObjPin_keeps
  | objUnpin => exact same_of_among (by decide +kernel) execObjUnpin_keeps
  | objFree => exact same_of_among (by decide +kernel) execObjFree_keeps
  | objFreeRelease => exact same_of_among (by decide +kernel) execObjFreeRelease_keeps
  | objClone => exact same_of_among (by decide +kernel) execObjClone_keeps
  | moveStart => exact same_of_among (by decide +kernel) execMoveStart_keeps
  | moveSwitchover => exact same_of_among (by decide +kernel) execMoveSwitchover_keeps
  | moveComplete => exact same_of_among (by decide +kernel) execMoveComplete_keeps
  | moveDestFail => exact same_of_among (by decide +kernel) execMoveDestFail_keeps
  | spillStart => exact same_of_among (by decide +kernel) execSpillStart_keeps
  | refillStart => exact same_of_among (by decide +kernel) execRefillStart_keeps
  | ccWritebackResponse => exact same_of_among (by decide +kernel) execCcWritebackResponse_keeps
  | trayResponse => exact same_of_among (by decide +kernel) execTrayResponse_keeps
  | sesWake => exact same_of_among (by decide +kernel) execSesWake_keeps
  | sesWakeLayerDone => exact same_of_among (by decide +kernel) execSesWakeLayerDone_keeps
  | sesWakeDone => exact same_of_among (by decide +kernel) execSesWakeDone_keeps
  | sesSleep => exact same_of_among (by decide +kernel) execSesSleep_keeps
  | sesSleepDone => exact same_of_among (by decide +kernel) execSesSleepDone_keeps
  | stagingSlotWaitEnd => exact same_of_among (by decide +kernel) execStagingSlotWaitEnd_keeps
  | slcProgram => exact same_of_among (by decide +kernel) execSlcProgram_keeps
  | slcProgramDone => exact same_of_among (by decide +kernel) execSlcProgramDone_keeps
  | programAborted => exact same_of_among (by decide +kernel) execProgramAborted_keeps
  | flashReadResponse => exact same_of_among (by decide +kernel) execFlashReadResponse_keeps
  | relocationStart => exact same_of_among (by decide +kernel) execRelocationStart_keeps
  | relocationClose => exact same_of_among (by decide +kernel) execRelocationClose_keeps
  | blockEraseDone => exact same_of_among (by decide +kernel) execBlockEraseDone_keeps
  | ouviMerge => exact same_of_among (by decide +kernel) execOuviMerge_keeps
  | retentionHour => exact same_of_among (by decide +kernel) execRetentionHour_keeps
  | checkpointStart => exact same_of_among (by decide +kernel) execCheckpointStart_keeps
  | checkpointEnd => exact same_of_among (by decide +kernel) execCheckpointEnd_keeps
  | journalRingWaitEnd => exact same_of_among (by decide +kernel) execJournalRingWaitEnd_keeps
  | mapRebuild => exact same_of_among (by decide +kernel) execMapRebuild_keeps
  | volumeBringup => exact same_of_among (by decide +kernel) execVolumeBringup_keeps
  | workItemStart => exact same_of_among (by decide +kernel) execWorkItemStart_keeps
  | workItemEnd => exact same_of_among (by decide +kernel) execWorkItemEnd_keeps
  | threadSwitchQuantum => exact same_of_among (by decide +kernel) execThreadSwitchQuantum_keeps
  | budgetExhausted => exact same_of_among (by decide +kernel) execBudgetExhausted_keeps
  | streamComplete => exact same_of_among (by decide +kernel) execStreamComplete_keeps
  | streamRetry => exact same_of_among (by decide +kernel) execStreamRetry_keeps
  | coreRetire => exact same_of_among (by decide +kernel) execCoreRetire_keeps
  | selftest => exact same_of_among (by decide +kernel) execSelftest_keeps
  | podNop => exact same_of_among (by decide +kernel) execPodNop_keeps
  | podEnd => exact same_of_among (by decide +kernel) execPodEnd_keeps
  | podJmp => exact same_of_among (by decide +kernel) execPodJmp_keeps
  | podBeq => exact same_of_among (by decide +kernel) execPodBeq_keeps
  | podBne => exact same_of_among (by decide +kernel) execPodBne_keeps
  | podBlt => exact same_of_among (by decide +kernel) execPodBlt_keeps
  | podBltu => exact same_of_among (by decide +kernel) execPodBltu_keeps
  | podBar => exact same_of_among (by decide +kernel) execPodBar_keeps
  | podFault => exact same_of_among (by decide +kernel) execPodFault_keeps
  | podRdflg => exact same_of_among (by decide +kernel) execPodRdflg_keeps
  | podRdpace => exact same_of_among (by decide +kernel) execPodRdpace_keeps
  | podRdtime => exact same_of_among (by decide +kernel) execPodRdtime_keeps
  | podInfo => exact same_of_among (by decide +kernel) execPodInfo_keeps
  | podAdd => exact same_of_among (by decide +kernel) execPodAdd_keeps
  | podSub => exact same_of_among (by decide +kernel) execPodSub_keeps
  | podMul => exact same_of_among (by decide +kernel) execPodMul_keeps
  | podAnd => exact same_of_among (by decide +kernel) execPodAnd_keeps
  | podOr => exact same_of_among (by decide +kernel) execPodOr_keeps
  | podXor => exact same_of_among (by decide +kernel) execPodXor_keeps
  | podShl => exact same_of_among (by decide +kernel) execPodShl_keeps
  | podShr => exact same_of_among (by decide +kernel) execPodShr_keeps
  | podSra => exact same_of_among (by decide +kernel) execPodSra_keeps
  | podMin => exact same_of_among (by decide +kernel) execPodMin_keeps
  | podMax => exact same_of_among (by decide +kernel) execPodMax_keeps
  | podSlt => exact same_of_among (by decide +kernel) execPodSlt_keeps
  | podSltu => exact same_of_among (by decide +kernel) execPodSltu_keeps
  | podAddi => exact same_of_among (by decide +kernel) execPodAddi_keeps
  | podLi => exact same_of_among (by decide +kernel) execPodLi_keeps
  | podLim => exact same_of_among (by decide +kernel) execPodLim_keeps
  | podLit => exact same_of_among (by decide +kernel) execPodLit_keeps
  | podSld => exact same_of_among (by decide +kernel) execPodSld_keeps
  | podSst => exact same_of_among (by decide +kernel) execPodSst_keeps
  | podVld => exact same_of_among (by decide +kernel) execPodVld_keeps
  | podVst => exact same_of_among (by decide +kernel) execPodVst_keeps
  | podVldb => exact same_of_among (by decide +kernel) execPodVldb_keeps
  | podVadd => exact same_of_among (by decide +kernel) execPodVadd_keeps
  | podVsub => exact same_of_among (by decide +kernel) execPodVsub_keeps
  | podVmul => exact same_of_among (by decide +kernel) execPodVmul_keeps
  | podVfma => exact same_of_among (by decide +kernel) execPodVfma_keeps
  | podVmin => exact same_of_among (by decide +kernel) execPodVmin_keeps
  | podVmax => exact same_of_among (by decide +kernel) execPodVmax_keeps
  | podVexp2 => exact same_of_among (by decide +kernel) execPodVexp2_keeps
  | podVlog2 => exact same_of_among (by decide +kernel) execPodVlog2_keeps
  | podVrcp => exact same_of_among (by decide +kernel) execPodVrcp_keeps
  | podVrsq => exact same_of_among (by decide +kernel) execPodVrsq_keeps
  | podVcmplt => exact same_of_among (by decide +kernel) execPodVcmplt_keeps
  | podVsel => exact same_of_among (by decide +kernel) execPodVsel_keeps
  | podVbcs => exact same_of_among (by decide +kernel) execPodVbcs_keeps
  | podVmvs => exact same_of_among (by decide +kernel) execPodVmvs_keeps
  | podVradd => exact same_of_among (by decide +kernel) execPodVradd_keeps
  | podVrmax => exact same_of_among (by decide +kernel) execPodVrmax_keeps
  | podVidx => exact same_of_among (by decide +kernel) execPodVidx_keeps
  | podVcvt => exact same_of_among (by decide +kernel) execPodVcvt_keeps
  | podMzero => exact same_of_among (by decide +kernel) execPodMzero_keeps
  | podMma => exact same_of_among (by decide +kernel) execPodMma_keeps
  | podMsc => exact same_of_among (by decide +kernel) execPodMsc_keeps
  | podMst => exact same_of_among (by decide +kernel) execPodMst_keeps
  | podMld => exact same_of_among (by decide +kernel) execPodMld_keeps
  | podMtv => exact same_of_among (by decide +kernel) execPodMtv_keeps
  | podSrd => exact same_of_among (by decide +kernel) execPodSrd_keeps
  | podSwr => exact same_of_among (by decide +kernel) execPodSwr_keeps
  | podXpd => exact same_of_among (by decide +kernel) execPodXpd_keeps
  | podXpq => exact same_of_among (by decide +kernel) execPodXpq_keeps
  | podCpz => exact same_of_among (by decide +kernel) execPodCpz_keeps
  | colReduce => exact same_of_among (by decide +kernel) execColReduce_keeps
  | colPart => exact same_of_among (by decide +kernel) execColPart_keeps
  | chunkCombine => exact same_of_among (by decide +kernel) execChunkCombine_keeps
  | colPartRsp => exact same_of_among (by decide +kernel) execColPartRsp_keeps
  | serviceStoreResponse => exact same_of_among (by decide +kernel) execServiceStoreResponse_keeps
  | instanceTimeout => exact same_of_among (by decide +kernel) execInstanceTimeout_keeps
  | colGather => exact same_of_among (by decide +kernel) execColGather_keeps
  | colFilter => exact same_of_among (by decide +kernel) execColFilter_keeps
  | attAppend => exact same_of_among (by decide +kernel) execAttAppend_keeps
  | attOpen => exact same_of_among (by decide +kernel) execAttOpen_keeps
  | attFork => exact same_of_among (by decide +kernel) execAttFork_keeps
  | attClose => exact same_of_among (by decide +kernel) execAttClose_keeps
  | attCloseDone => exact same_of_among (by decide +kernel) execAttCloseDone_keeps
  | ringReuse => exact same_of_among (by decide +kernel) execRingReuse_keeps
  | attAttend => exact same_of_among (by decide +kernel) execAttAttend_keeps
  | cmpSlotFree => exact same_of_among (by decide +kernel) execCmpSlotFree_keeps
  | eventSend => exact same_of_among (by decide +kernel) execEventSend_keeps
  | countersPeriod => exact same_of_among (by decide +kernel) execCountersPeriod_keeps
  | rateTokenRelease => exact same_of_among (by decide +kernel) execRateTokenRelease_keeps
  | auditPass => exact same_of_among (by decide +kernel) execAuditPass_keeps
  | cellEccError => exact same_of_among (by decide +kernel) execCellEccError_keeps
  | linkInit => exact same_of_among (by decide +kernel) execLinkInit_keeps
  | linkInitSend => exact same_of_among (by decide +kernel) execLinkInitSend_keeps
  | linkCredit => exact same_of_among (by decide +kernel) execLinkCredit_keeps
  | linkCreditSend => exact same_of_among (by decide +kernel) execLinkCreditSend_keeps
  | linkNak => exact same_of_among (by decide +kernel) execLinkNak_keeps
  | linkNakRepeat => exact same_of_among (by decide +kernel) execLinkNakRepeat_keeps
  | replayTimeout => exact same_of_among (by decide +kernel) execReplayTimeout_keeps
  | sublinkLockLoss => exact same_of_among (by decide +kernel) execSublinkLockLoss_keeps
  | sublinkRxTimeout => exact same_of_among (by decide +kernel) execSublinkRxTimeout_keeps
  | sublinkReplayLimit => exact same_of_among (by decide +kernel) execSublinkReplayLimit_keeps
  | sublinkBringupTimeout => exact same_of_among (by decide +kernel) execSublinkBringupTimeout_keeps
  | pfcFrame => exact same_of_among (by decide +kernel) execPfcFrame_keeps
  | pfcXoffRefresh => exact same_of_among (by decide +kernel) execPfcXoffRefresh_keeps
  | sprayedFrameResequence => exact same_of_among (by decide +kernel) execSprayedFrameResequence_keeps
  | reseqAck => exact same_of_among (by decide +kernel) execReseqAck_keeps
  | reseqAckTimer => exact same_of_among (by decide +kernel) execReseqAckTimer_keeps
  | pathBarrierStart => exact same_of_among (by decide +kernel) execPathBarrierStart_keeps
  | pathBarrier => exact same_of_among (by decide +kernel) execPathBarrier_keeps
  | pathBarrierAck => exact same_of_among (by decide +kernel) execPathBarrierAck_keeps
  | pathBarrierTimeout => exact same_of_among (by decide +kernel) execPathBarrierTimeout_keeps
  | kaHello => exact same_of_among (by decide +kernel) execKaHello_keeps
  | kaReply => exact same_of_among (by decide +kernel) execKaReply_keeps
  | kaDone => exact same_of_among (by decide +kernel) execKaDone_keeps
  | kaResend => exact same_of_among (by decide +kernel) execKaResend_keeps
  | linkRekey => exact same_of_among (by decide +kernel) execLinkRekey_keeps
  | paceMeasure => exact same_of_among (by decide +kernel) execPaceMeasure_keeps
  | refClockLoss => exact same_of_among (by decide +kernel) execRefClockLoss_keeps
  | refClockReturn => exact same_of_among (by decide +kernel) execRefClockReturn_keeps
  | spTakeover => exact same_of_among (by decide +kernel) execSpTakeover_keeps
  | heartbeatSend => exact same_of_among (by decide +kernel) execHeartbeatSend_keeps
  | heartbeat => exact same_of_among (by decide +kernel) execHeartbeat_keeps
  | leaseLoss => exact same_of_among (by decide +kernel) execLeaseLoss_keeps
  | leaseRegain => exact same_of_among (by decide +kernel) execLeaseRegain_keeps
  | switchDeclareLost => exact same_of_among (by decide +kernel) execSwitchDeclareLost_keeps
  | mapGenerationApply => exact same_of_among (by decide +kernel) execMapGenerationApply_keeps
  | endpointGraceExpire => exact same_of_among (by decide +kernel) execEndpointGraceExpire_keeps
  | endpointAckDeadExpire => exact same_of_among (by decide +kernel) execEndpointAckDeadExpire_keeps
  | endpointFenced => exact same_of_among (by decide +kernel) execEndpointFenced_keeps
  | epochHoldTimeout => exact same_of_among (by decide +kernel) execEpochHoldTimeout_keeps
  | trayLost => exact same_of_among (by decide +kernel) execTrayLost_keeps
  | xferIn => exact same_of_among (by decide +kernel) execXferIn_keeps
  | xferSwitchover => exact same_of_among (by decide +kernel) execXferSwitchover_keeps
  | xferCommitApply => exact same_of_among (by decide +kernel) execXferCommitApply_keeps
  | xferResolve => exact same_of_among (by decide +kernel) execXferResolve_keeps
  | tapEventSend => exact same_of_among (by decide +kernel) execTapEventSend_keeps
  | meterAck => exact same_of_among (by decide +kernel) execMeterAck_keeps
  | recordPeriodEnd => exact same_of_among (by decide +kernel) execRecordPeriodEnd_keeps
  | meterAttach => exact same_of_among (by decide +kernel) execMeterAttach_keeps
  | meterTamper => exact same_of_among (by decide +kernel) execMeterTamper_keeps
  | meterLinkLoss => exact same_of_among (by decide +kernel) execMeterLinkLoss_keeps
  | escrowSecond => exact same_of_among (by decide +kernel) execEscrowSecond_keeps
  | escrowIngestSegment => exact same_of_among (by decide +kernel) execEscrowIngestSegment_keeps
  | inputLoss => exact same_of_among (by decide +kernel) execInputLoss_keeps
  | powerUp => exact same_of_notAmong (by decide +kernel) execPowerUp_keeps
  | plannedPowerDown => exact same_of_among (by decide +kernel) execPlannedPowerDown_keeps
  | plannedDownTimeout => exact same_of_among (by decide +kernel) execPlannedDownTimeout_keeps
  | holdupTest => exact same_of_among (by decide +kernel) execHoldupTest_keeps
  | thermalHoldEnter => exact same_of_among (by decide +kernel) execThermalHoldEnter_keeps
  | thermalHoldExit => exact same_of_among (by decide +kernel) execThermalHoldExit_keeps
  | thermalTrip => exact same_of_among (by decide +kernel) execThermalTrip_keeps
  | coolantInletHigh => exact same_of_among (by decide +kernel) execCoolantInletHigh_keeps
  | inputLow => exact same_of_among (by decide +kernel) execInputLow_keeps
  | laneAutoSpare => exact same_of_among (by decide +kernel) execLaneAutoSpare_keeps
  | laneRetrainDone => exact same_of_among (by decide +kernel) execLaneRetrainDone_keeps
  | pcAutoSpare => exact same_of_among (by decide +kernel) execPcAutoSpare_keeps
  | pcSpareSwitchover => exact same_of_among (by decide +kernel) execPcSpareSwitchover_keeps
  | rowRepair => exact same_of_among (by decide +kernel) execRowRepair_keeps
  | linkTrainingDone => exact same_of_among (by decide +kernel) execLinkTrainingDone_keeps
  | inputReturn => exact same_of_among (by decide +kernel) execInputReturn_keeps
  | extRevokeStalkApply => exact same_of_among (by decide +kernel) execExtRevokeStalkApply_keeps
  | stopStalkApply => exact same_of_among (by decide +kernel) execStopStalkApply_keeps
  | compRollbackComplete => exact same_of_among (by decide +kernel) execCompRollbackComplete_keeps
  | meterExportDone => exact same_of_among (by decide +kernel) execMeterExportDone_keeps
  | authorisationReadDone => exact same_of_notAmong (by decide +kernel) execAuthorisationReadDone_keeps
  | mapRebuildDone => exact same_of_among (by decide +kernel) execMapRebuildDone_keeps
  | mapPageLoadDone => exact same_of_among (by decide +kernel) execMapPageLoadDone_keeps
  | journalTailOnMedia => exact same_of_among (by decide +kernel) execJournalTailOnMedia_keeps
  | pfcPauseExpiry => exact same_of_among (by decide +kernel) execPfcPauseExpiry_keeps
  | localFractionUpdate => exact same_of_among (by decide +kernel) execLocalFractionUpdate_keeps
  | fecDegradeCheck => exact same_of_among (by decide +kernel) execFecDegradeCheck_keeps
  | tapBytesFlush => exact same_of_among (by decide +kernel) execTapBytesFlush_keeps
  | flashTrayBusy => exact same_of_among (by decide +kernel) execFlashTrayBusy_keeps
  | rowRepairDone => exact same_of_among (by decide +kernel) execRowRepairDone_keeps
  | pepperHoldExpiry => exact same_of_among (by decide +kernel) execPepperHoldExpiry_keeps

/-- Settles O3: every command completes, and its frame lemma keeps it within the parts it may change. -/
theorem everyCommandChangesOnlyItsParts : Obligations.EveryCommandChangesOnlyItsParts := by
  unfold Obligations.EveryCommandChangesOnlyItsParts
  intro c s
  obtain ⟨t, ht⟩ := exec_completes c s
  have hsame := exec_same c s
  rw [ht] at hsame
  exact ⟨t, ht, hsame⟩

end Machine
end Sys2Proof

/-! SUPPORT. The access of a control register: what serving one does, and where a register stands. -/

namespace Sys2Proof
namespace Machine

/-! Parts that a list names -/

/-- What changes within the mask of a list changes at most the parts of the list. -/
theorem keepsBut_of_maskOf {l : List Piece} {s t : State} (h : Keeps (maskOf l) s t) : KeepsBut l s t := fun p hp =>
  h.same p (by rw [testBit_maskOf]; simpa using hp)

theorem KeepsBut.trans {a b l : List Piece} {s t u : State} (h : KeepsBut a s t) (k : KeepsBut b t u) (ha : a ⊆ l) (hb : b ⊆ l) :
    KeepsBut l s u := fun p hp =>
  Piece.same_trans (h p fun m => hp (ha m)) (k p fun m => hp (hb m))

/-! Numbers and fields -/

/-- Two fields that stand next to each other are one. -/
theorem fields_join (v a b : Nat) : v % 2 ^ a + v / 2 ^ a % 2 ^ b * 2 ^ a = v % 2 ^ (a + b) := by
  rw [Nat.pow_add, Nat.mod_mul, Nat.mul_comm (2 ^ a)]

/-- Consecutive bytes from the one at lo on, added to what stands below them. -/
theorem foldl_byte_fields (v n lo : Nat) :
    ((rangeFrom lo n).map (fun k => (fld v (8 * k + 7) (8 * k), 8 * k))).foldl (fun a x => a + x.1 * 2 ^ x.2) (v % 2 ^ (8 * lo)) =
      v % 2 ^ (8 * (lo + n)) := by
  induction n generalizing lo with
  | zero => rfl
  | succ n ih =>
    rw [rangeFrom, List.map_cons, List.foldl_cons]
    have hbyte : v % 2 ^ (8 * lo) + fld v (8 * lo + 7) (8 * lo) * 2 ^ (8 * lo) = v % 2 ^ (8 * (lo + 1)) := by
      rw [fld, show 8 * lo + 7 + 1 - 8 * lo = 8 by omega, fields_join, Nat.mul_add]
    rw [hbyte, ih, Nat.add_right_comm, Nat.add_assoc]

/-- The lowest n bytes of a number. -/
theorem packed_byte_fields (v n : Nat) :
    packed ((rangeFrom 0 n).map (fun k => (fld v (8 * k + 7) (8 * k), 8 * k))) = v % 2 ^ (8 * n) := by
  have h := foldl_byte_fields v n 0
  rwa [Nat.mul_zero, Nat.pow_zero, Nat.mod_one, Nat.zero_add] at h

theorem leNat_lt (b : Bytes) : leNat b < 256 ^ b.length := by
  induction b with
  | nil => simp [leNat]
  | cons x r ih =>
    have := x.isLt
    rw [leNat, List.length_cons, Nat.pow_succ]
    omega

theorem le_lt (b : Bytes) (off n : Nat) : le b off n < 256 ^ n :=
  (leNat_lt _).trans_le (Nat.pow_le_pow_right (by decide) (by simp [slice]))

/-! Serving an access -/

/-- The state in which an access of the window takes effect: the frame is taken and its bytes are counted (R111, R425). -/
def regServed (f : Frame) (s : State) : State :=
  tapBytes (takeSp f s).cfg.activeSp f.ctx.toNat f.tc.toNat 0 f.length.toNat (takeSp f s)

theorem regServed_keepsBut (f : Frame) (s : State) : KeepsBut (.cfgSpInbox :: countParts) s (regServed f s) :=
  keepsBut_of_maskOf ((tapBytes_keeps (by decide +kernel)) ((takeSp_keeps (by decide +kernel)) (Keeps.refl _ _)))

theorem regAnswer_keepsBut (f : Frame) (st : BitVec 5) (b : Bytes) (s : State) : KeepsBut (sendParts ++ countParts) s (regAnswer f st b s) :=
  keepsBut_of_maskOf ((regAnswer_keeps (by decide +kernel)) (Keeps.refl _ _))

/-- Serving an access changes, beside what the register's own change may, at most the parts of regParts. -/
theorem regParts_of_served {f : Frame} {s u : State} {st : BitVec 5} {b : Bytes} {l : List Piece} (h : KeepsBut l (regServed f s) u) :
    KeepsBut (regParts ++ l) s (regAnswer f st b u) := by
  have hserved : KeepsBut (regParts ++ l) s u := by
    refine (regServed_keepsBut f s).trans h (fun p hp => ?_) (List.subset_append_right _ _)
    exact List.mem_append_left _ (List.mem_append_right _ hp)
  refine hserved.trans (regAnswer_keepsBut f st b u) (List.Subset.refl _) (fun p hp => List.mem_append_left _ ?_)
  rcases List.mem_append.1 hp with hs | hc
  · exact List.mem_append_left _ hs
  · exact List.mem_append_right _ (List.mem_cons_of_mem _ hc)

/-- An access that passes its checks is performed and answered. -/
theorem regAccess_of_ready {f : Frame} {s u : State} {st : BitVec 5} {b : Bytes} (h : RegReady s f)
    (hu : regPerform f (regServed f s) = (st, b, u)) : regAccess f s = regAnswer f st b u := by
  obtain ⟨hwait, hrec, -, hok⟩ := h
  have hw : ¬ s.cfg.authWait.isSome = true := by rw [hwait]; decide
  have hr : ¬ (takeSp f s).sec.recovery = true := by rw [show (takeSp f s).sec.recovery = false from hrec]; decide
  rw [regServed] at hu
  unfold regAccess
  refine (if_neg hw).trans ((if_neg hr).trans ?_)
  rw [hok, hu]

theorem regAt_of_ready {f : Frame} {s : State} {opc : Byte} {p : Nat → Bool} (h : RegReady s f) (ho : f.opcode = opc)
    (hp : p (regOff f) = true) : regAt opc f p = true := by
  obtain ⟨-, -, hin, -⟩ := h
  simp [regAt, ho, hin, hp]

/-- A store outside the aperture writes its register. -/
theorem regPerform_store {f : Frame} {s u : State} {st : BitVec 5} (ho : f.opcode = Opc.st) (ha : inAperture (regOff f) = false)
    (hu : regWrite f.srcEp.toNat (regOff f) (le f.payload 0 8) s = (st, u)) : regPerform f s = (st, [], u) := by
  have hst : ¬ f.opcode = Opc.ld := by rw [ho]; decide
  have hap : ¬ inAperture (regOff f) = true := by rw [ha]; decide
  unfold regPerform
  refine (if_neg hst).trans ((if_neg hap).trans ?_)
  rw [hu]

/-- A load reads its register, and clears what a read clears. -/
theorem regPerform_load {f : Frame} {s : State} (ho : f.opcode = Opc.ld) :
    regPerform f s = (Sts.ok, toLE 8 ((regRead s (regOff f)).getD 0), readClear s (regOff f)) := by
  unfold regPerform
  exact if_pos ho

/-- A store that passes its checks, outside the aperture, to a row that takes its offset, is answered as its write ends. -/
theorem regRow_of_ready {f : Frame} {s u : State} {st : BitVec 5} {p : Nat → Bool} (h : RegReady s f) (ho : f.opcode = Opc.st)
    (ha : inAperture (regOff f) = false) (hp : p (regOff f) = true)
    (hu : regWrite f.srcEp.toNat (regOff f) (le f.payload 0 8) (regServed f s) = (st, u)) : regRow f p s = regAnswer f st [] u := by
  rw [regRow, regAt_of_ready h ho hp, if_pos rfl, regAccess_of_ready h (regPerform_store ho ha hu)]

theorem execRegisterWrite_of_ready {f : Frame} {s u : State} {st : BitVec 5} (h : RegReady s f) (ho : f.opcode = Opc.st)
    (ha : inAperture (regOff f) = false)
    (hu : regWrite f.srcEp.toNat (regOff f) (le f.payload 0 8) (regServed f s) = (st, u)) :
    exec (.registerWrite f) s = .next (regAnswer f st [] u) :=
  congrArg Host.Outcome.next (regRow_of_ready (p := fun _ => true) h ho ha rfl hu)

theorem execRegisterReadClear_of_ready {f : Frame} {s : State} (h : RegReady s f) (ho : f.opcode = Opc.ld) :
    exec (.registerReadClear f) s = .next (regAnswer f Sts.ok (toLE 8 ((regRead (regServed f s) (regOff f)).getD 0))
      (readClear (regServed f s) (regOff f))) := by
  have hat := regAt_of_ready (p := fun _ => true) h ho rfl
  show Host.Outcome.next (if regAt Opc.ld f (fun _ => true) then regAccess f s else s) = _
  rw [hat, if_pos rfl, regAccess_of_ready h (regPerform_load ho)]

end Machine
end Sys2Proof

/-! SUPPORT and O49: the registers of plain settings read back what a store leaves in them. -/

namespace Sys2Proof
namespace Machine

/-! A register at its offset -/

/-- A register stands at an offset outside the aperture: what a write of it does, and what it reads. -/
structure StandsAt (off : Nat) (wr : Nat → State → BitVec 5 × State) (rd : State → Option Nat) : Prop where
  write : ∀ ep v s, regWrite ep off v s = wr v s
  read : ∀ s, regRead s off = rd s
  outside : inAperture off = false

/-- A register reads back what is stored where its write sets certain parts, its reading follows from those parts, and serving the access
changes none of them. -/
theorem storesBack_of {off : Nat} {wr : Nat → State → BitVec 5 × State} {rd : State → Option Nat} {ok : Nat → Bool} {val : Nat → Nat}
    {l : List Piece} {w : Nat → State → State} (hs : StandsAt off wr rd) (hw : ∀ v s, ok v = true → wr v s = (Sts.ok, w v s))
    (hk : ∀ v s, Keeps (maskOf l) s (w v s))
    (hr : ∀ v s t, v < 2 ^ 64 → (∀ p ∈ l, p.same (w v s) t) → rd t = some (val v))
    (hl : ∀ p ∈ l, p ∉ sendParts ++ countParts) : StoresBack off ok val l := by
  intro s f hready hop hoff hok
  have hwrite : regWrite f.srcEp.toNat (regOff f) (le f.payload 0 8) (regServed f s) =
      (Sts.ok, w (le f.payload 0 8) (regServed f s)) := by
    rw [hoff, hs.write, hw _ _ hok]
  refine ⟨_, execRegisterWrite_of_ready hready hop (hoff ▸ hs.outside) hwrite, ?_, regParts_of_served (keepsBut_of_maskOf (hk _ _))⟩
  rw [hs.read]
  exact hr _ _ _ (le_lt _ _ _) fun p hp => regAnswer_keepsBut f Sts.ok [] _ p (hl p hp)

/-- A field of a unit that both dies' copies keep, on one of them. -/
theorem side_field_eq {α β : Type} {x y : Two α} (g : α → β) (h : g y.d0 = g x.d0 ∧ g y.d1 = g x.d1) (d : Die) :
    g (side y d) = g (side x d) := by
  cases d
  · exact h.1
  · exact h.2

theorem b2n_bitAt (v i : Nat) : b2n (bitAt v i) = v / 2 ^ i % 2 := by
  rcases Nat.mod_two_eq_zero_or_one (v / 2 ^ i) with h | h <;> simp [b2n, bitAt, h]

theorem sget_sput_same {w : Nat} {t : Sparse w} {k : Nat} {v : BitVec w} : sget (sput t k v) k = v := by
  unfold sget sput getD
  split
  · next h => rw [get?_del_same, h]; rfl
  · rw [get?_put_same]; rfl

/-! Where the sticky registers stand (R13, R113) -/

/-- The copy of the register exists: 65 ports and 4096 contexts. -/
def StReg.inRange : StReg → Bool
  | .prt p => decide (p ≤ 64)
  | .ctx c => decide (c < 4096)
  | _ => true

theorem stAt_eq_some {off : Nat} {r : StReg} (h : stAt off = some r) : (stOffset r).1 + (stOffset r).2 = off ∧ r.inRange = true := by
  unfold stAt at h
  refine ⟨by simpa using List.find?_some h, ?_⟩
  rcases List.mem_append.1 (List.mem_of_find?_eq_some h) with hm | hm
  · rcases List.mem_append.1 hm with hf | hp
    · fin_cases hf <;> rfl
    · split at hp
      · next hle => rw [List.mem_singleton.1 hp]; exact decide_eq_true hle
      · cases hp
  · split at hm
    · next hlt => rw [List.mem_singleton.1 hm]; exact decide_eq_true hlt
    · cases hm

/-- The offsets of the sticky registers that stand once, or once per die. -/
def fixedStOffsets : List Nat :=
  [0x38, 0x03000010, 0x03800010, 0x04002008, 0x04002108, 0x05000008, 0x05000108, 0x06000008, 0x06000108, 0x07000018, 0x07100018, 0x08000008,
    0x09000008, 0x0A000008, 0x0A000108, 0x0B000008, 0x0B000108, 0x0C000008, 0x0C000108, 0x0E000060, 0x0F000018, 0x10000010, 0x11001028]

theorem stOffset_cases {r : StReg} (h : r.inRange = true) :
    (stOffset r).1 + (stOffset r).2 ∈ fixedStOffsets ∨ (∃ p ≤ 64, (stOffset r).1 + (stOffset r).2 = 0x01000008 + p * 0x40000) ∨
      ∃ c < 4096, (stOffset r).1 + (stOffset r).2 = 0x0D000008 + c * 0x1000 := by
  cases r with
  | cfg | sec | mtr | flt | mod => exact .inl (by decide)
  | prt p => exact .inr (.inl ⟨p, of_decide_eq_true h, by simp only [stOffset]; omega⟩)
  | ctx c => exact .inr (.inr ⟨c, of_decide_eq_true h, by simp only [stOffset]; omega⟩)
  | swc d | mem d | coh d | tier d | ftl d | pod d | col d | att d | cmp d => exact .inl (by cases d <;> decide)

theorem stAt_offset_cases {off : Nat} {r : StReg} (h : stAt off = some r) :
    off ∈ fixedStOffsets ∨ (∃ p ≤ 64, off = 0x01000008 + p * 0x40000) ∨ ∃ c < 4096, off = 0x0D000008 + c * 0x1000 := by
  obtain ⟨rfl, hr⟩ := stAt_eq_some h
  exact stOffset_cases hr

theorem stAt_eq_none {off : Nat} (hf : off ∉ fixedStOffsets) (hp : ∀ p ≤ 64, off ≠ 0x01000008 + p * 0x40000)
    (hc : ∀ c < 4096, off ≠ 0x0D000008 + c * 0x1000) : stAt off = none := by
  rcases hr : stAt off with _ | r
  · rfl
  · rcases stAt_offset_cases hr with h | ⟨p, hle, h⟩ | ⟨c, hlt, h⟩
    · exact absurd h hf
    · exact absurd h (hp p hle)
    · exact absurd h (hc c hlt)

/-! The registers of the switch core (R167) -/

theorem arbWeight_storesBack (d : Die) :
    StoresBack (0x03000030 + dieNum d * 0x800000) (fun _ => true) (· % 2 ^ 40) [.swcArbWeight] := by
  refine storesBack_of (wr := swcWrite d 0x30) (rd := (swcRead · d 0x30))
    (w := fun v s => modSwc s d (fun w => { w with arbWeight := (rangeFrom 0 5).map (fun k => fld v (8 * k + 7) (8 * k)) }))
    (by cases d <;> exact ⟨fun _ _ _ => rfl, fun _ => rfl, rfl⟩) (fun v s _ => rfl)
    (fun v s => modSwc_keeps { SwcKeeps.refl _ _ with arbWeight := .inl rfl } (Keeps.refl _ _)) (fun v s t _ h => ?_) (by decide)
  have hw := side_field_eq SwcState.arbWeight (h .swcArbWeight (by simp)) d
  rw [modSwc_swc, side_upd_same] at hw
  show some (packed ((rangeFrom 0 5).map (fun k => (nth (side t.swc d).arbWeight k 0, 8 * k)))) = _
  rw [hw]
  exact congrArg some (packed_byte_fields v 5)

theorem samplePorts_storesBack {off : Nat} (d : Die) (n : Nat) (hn : n ≤ 33) (hd : (if d = .d0 then 33 else 32) = n)
    (hs : StandsAt off (swcWrite d 0x48) (swcRead · d 0x48)) : StoresBack off (fun _ => true) (· % 2 ^ n) [.swcSamplePorts] := by
  refine storesBack_of (w := fun v s => modSwc s d (fun w => { w with samplePorts := BitVec.ofNat 33 (v % 2 ^ n) })) hs (fun v s _ => ?_)
    (fun v s => modSwc_keeps { SwcKeeps.refl _ _ with samplePorts := .inl rfl } (Keeps.refl _ _)) (fun v s t _ h => ?_) (by decide)
  · subst hd
    cases d <;> rfl
  · have hw := side_field_eq SwcState.samplePorts (h .swcSamplePorts (by simp)) d
    rw [modSwc_swc, side_upd_same] at hw
    show some (side t.swc d).samplePorts.toNat = _
    have hlt : v % 2 ^ n < 2 ^ 33 := (Nat.mod_lt _ (by positivity)).trans_le (Nat.pow_le_pow_right (by decide) hn)
    rw [hw, BitVec.toNat_ofNat, Nat.mod_eq_of_lt hlt]

theorem sampleDest_storesBack (d : Die) :
    StoresBack (0x03000050 + dieNum d * 0x800000) (fun _ => true) (· % 2 ^ 20) [.swcSampleDest] := by
  refine storesBack_of (wr := swcWrite d 0x50) (rd := (swcRead · d 0x50))
    (w := fun v s => modSwc s d (fun w => { w with sampleDest := BitVec.ofNat 20 v }))
    (by cases d <;> exact ⟨fun _ _ _ => rfl, fun _ => rfl, rfl⟩) (fun v s _ => rfl)
    (fun v s => modSwc_keeps { SwcKeeps.refl _ _ with sampleDest := .inl rfl } (Keeps.refl _ _)) (fun v s t _ h => ?_) (by decide)
  have hw := side_field_eq SwcState.sampleDest (h .swcSampleDest (by simp)) d
  rw [modSwc_swc, side_upd_same] at hw
  show some (side t.swc d).sampleDest.toNat = _
  rw [hw, BitVec.toNat_ofNat]

/-! The registers of the home, the directory and the tiers (R196, R228, R253) -/

theorem memCfg_storesBack (d : Die) :
    StoresBack (0x04002000 + dieNum d * 0x100) (fun v => v % 256 != 0) (fun v => v % 256 + v / 2 ^ 16 % 2 * 2 ^ 16)
      [.homeCombineEn, .homeAgeUs] := by
  refine storesBack_of (wr := homWrite (0x2000 + dieNum d * 0x100)) (rd := (homRead · (0x2000 + dieNum d * 0x100)))
    (w := fun v s => modHome s d (fun h => { h with combineEn := bitAt v 16, ageUs := v % 256 }))
    (by cases d <;> exact ⟨fun _ _ _ => rfl, fun _ => rfl, rfl⟩) (fun v s hv => ?_)
    (fun v s => modHome_keeps { HomeKeeps.refl _ _ with combineEn := .inl rfl, ageUs := .inl rfl } (Keeps.refl _ _))
    (fun v s t _ h => ?_) (by decide)
  · have hne : ¬ v % 256 = 0 := by simpa using hv
    cases d <;> exact if_neg hne
  · have he := side_field_eq HomeState.combineEn (h .homeCombineEn (by simp)) d
    have ha := side_field_eq HomeState.ageUs (h .homeAgeUs (by simp)) d
    rw [modHome_home, side_upd_same] at he ha
    have hread : homRead t (0x2000 + dieNum d * 0x100) =
        some (packed [(b2n (side t.home d).combineEn, 16), ((side t.home d).ageUs, 0)]) := by cases d <;> rfl
    rw [hread, he, ha, b2n_bitAt]
    simp [packed, Nat.add_comm]

theorem dirCfg_storesBack (d : Die) :
    StoresBack (0x05000000 + dieNum d * 0x100) (fun v => v % 256 != 0) (· % 256) [.cohAckTimeoutMs] := by
  refine storesBack_of (wr := cohWrite d 0) (rd := (cohRead · d 0))
    (w := fun v s => modCoh s d (fun c => { c with ackTimeoutMs := v % 256 }))
    (by cases d <;> exact ⟨fun _ _ _ => rfl, fun _ => rfl, rfl⟩) (fun v s hv => ?_)
    (fun v s => modCoh_keeps { CohKeeps.refl _ _ with ackTimeoutMs := .inl rfl } (Keeps.refl _ _)) (fun v s t _ h => ?_) (by decide)
  · exact if_neg (by simpa using hv)
  · have hw := side_field_eq CohState.ackTimeoutMs (h .cohAckTimeoutMs (by simp)) d
    rw [modCoh_coh, side_upd_same] at hw
    exact congrArg some hw

theorem tierCfg_storesBack (d : Die) :
    StoresBack (0x06000000 + dieNum d * 0x100)
      (fun v => v % 2 ^ 16 != 0 && decide (v % 2 ^ 16 < v / 2 ^ 16 % 2 ^ 16) && decide (v / 2 ^ 16 % 2 ^ 16 ≤ 56320))
      (fun v => v % 2 ^ 36 + v / 2 ^ 40 % 4 * 2 ^ 40) [.tierRefillEn, .tierSpillEn, .tierPrefetchDepth, .tierHighWm, .tierLowWm] := by
  refine storesBack_of (wr := tierWrite d 0) (rd := (tierRead · d 0))
    (w := fun v s => modTier s d (fun t => { t with
      refillEn := bitAt v 41, spillEn := bitAt v 40, prefetchDepth := fld v 35 32, highWm := fld v 31 16, lowWm := fld v 15 0 }))
    (by cases d <;> exact ⟨fun _ _ _ => rfl, fun _ => rfl, rfl⟩) (fun v s hv => ?_)
    (fun v s => modTier_keeps { TierKeeps.refl _ _ with
      refillEn := .inl rfl, spillEn := .inl rfl, prefetchDepth := .inl rfl, highWm := .inl rfl, lowWm := .inl rfl } (Keeps.refl _ _))
    (fun v s t _ h => ?_) (by decide)
  · simp only [Bool.and_eq_true, bne_iff_ne, decide_eq_true_eq] at hv
    refine if_neg ?_
    simp only [fld, Nat.pow_zero, Nat.div_one]
    omega
  · have hre := side_field_eq TierState.refillEn (h .tierRefillEn (by simp)) d
    have hsp := side_field_eq TierState.spillEn (h .tierSpillEn (by simp)) d
    have hpf := side_field_eq TierState.prefetchDepth (h .tierPrefetchDepth (by simp)) d
    have hhi := side_field_eq TierState.highWm (h .tierHighWm (by simp)) d
    have hlo := side_field_eq TierState.lowWm (h .tierLowWm (by simp)) d
    rw [modTier_tier, side_upd_same] at hre hsp hpf hhi hlo
    show some (packed [(b2n (side t.tier d).refillEn, 41), (b2n (side t.tier d).spillEn, 40), ((side t.tier d).prefetchDepth, 32),
      ((side t.tier d).highWm, 16), ((side t.tier d).lowWm, 0)]) = _
    rw [hre, hsp, hpf, hhi, hlo, b2n_bitAt, b2n_bitAt]
    simp only [packed, List.foldl_cons, List.foldl_nil, fld, Nat.pow_zero, Nat.div_one, Nat.mul_one, Nat.zero_add, Nat.reduceAdd,
      Nat.reduceSub, Option.some.injEq]
    omega

/-! The registers of flash (R279) -/

/-- The order in which a register's fields are listed does not matter. -/
theorem packed_reverse (l : List (Nat × Nat)) : packed l.reverse = packed l :=
  (List.reverse_perm l).foldl_eq' (fun _ _ _ _ z => Nat.add_right_comm z _ _) 0

theorem packed_bytes_down (v : Nat) :
    packed [(fld v 63 56, 56), (fld v 55 48, 48), (fld v 47 40, 40), (fld v 39 32, 32), (fld v 31 24, 24), (fld v 23 16, 16),
      (fld v 15 8, 8), (fld v 7 0, 0)] = v % 2 ^ 64 :=
  (packed_reverse ((rangeFrom 0 8).map (fun k => (fld v (8 * k + 7) (8 * k), 8 * k)))).trans (packed_byte_fields v 8)

theorem ftlCfg_storesBack (d : Die) :
    StoresBack (0x07000000 + dieNum d * 0x100000)
      (fun v => (rangeFrom 0 8).all (fun k => v / 256 ^ k % 256 != 0) && decide (v / 256 ^ 4 % 256 < v / 256 ^ 3 % 256) &&
        decide (v / 256 ^ 7 % 256 ≤ 16))
      id [.ftlRetryMax, .ftlEccRefresh, .ftlFoldLow, .ftlGcLow, .ftlGcHigh, .ftlWearSpread16, .ftlDisturbK, .ftlRetainW] := by
  refine storesBack_of (wr := ftlWrite d 0) (rd := (ftlDieRead · d 0))
    (w := fun v s => modFtl s d (fun x => { x with
      retryMax := fld v 63 56, eccRefresh := fld v 55 48, foldLow := fld v 47 40, gcLow := fld v 39 32, gcHigh := fld v 31 24,
      wearSpread16 := fld v 23 16, disturbK := fld v 15 8, retainW := fld v 7 0 }))
    (by cases d <;> exact ⟨fun _ _ _ => rfl, fun _ => rfl, rfl⟩) (fun v s hv => ?_)
    (fun v s => modFtl_keeps { FtlKeeps.refl _ _ with
      retryMax := .inl rfl, eccRefresh := .inl rfl, foldLow := .inl rfl, gcLow := .inl rfl, gcHigh := .inl rfl,
      wearSpread16 := .inl rfl, disturbK := .inl rfl, retainW := .inl rfl } (Keeps.refl _ _))
    (fun v s t hv h => ?_) (by decide)
  · refine if_neg ?_
    simp only [rangeFrom, List.all_cons, List.all_nil, Bool.and_true, Bool.and_eq_true, bne_iff_ne, decide_eq_true_eq] at hv
    simp only [rangeFrom, List.any_cons, List.any_nil, Bool.or_false, Bool.or_eq_true, beq_iff_eq, fld]
    norm_num at hv ⊢
    omega
  · have h7 := side_field_eq FtlState.retryMax (h .ftlRetryMax (by simp)) d
    have h6 := side_field_eq FtlState.eccRefresh (h .ftlEccRefresh (by simp)) d
    have h5 := side_field_eq FtlState.foldLow (h .ftlFoldLow (by simp)) d
    have h4 := side_field_eq FtlState.gcLow (h .ftlGcLow (by simp)) d
    have h3 := side_field_eq FtlState.gcHigh (h .ftlGcHigh (by simp)) d
    have h2 := side_field_eq FtlState.wearSpread16 (h .ftlWearSpread16 (by simp)) d
    have h1 := side_field_eq FtlState.disturbK (h .ftlDisturbK (by simp)) d
    have h0 := side_field_eq FtlState.retainW (h .ftlRetainW (by simp)) d
    rw [modFtl_ftl, side_upd_same] at h7 h6 h5 h4 h3 h2 h1 h0
    show some (packed [((side t.ftl d).retryMax, 56), ((side t.ftl d).eccRefresh, 48), ((side t.ftl d).foldLow, 40),
      ((side t.ftl d).gcLow, 32), ((side t.ftl d).gcHigh, 24), ((side t.ftl d).wearSpread16, 16), ((side t.ftl d).disturbK, 8),
      ((side t.ftl d).retainW, 0)]) = some v
    rw [h7, h6, h5, h4, h3, h2, h1, h0, packed_bytes_down, Nat.mod_eq_of_lt hv]

theorem levelMap0_storesBack (d : Die) :
    StoresBack (0x07000008 + dieNum d * 0x100000) (fun _ => true) id [.ftlLevelMap0] := by
  refine storesBack_of (wr := ftlWrite d 8) (rd := (ftlDieRead · d 8))
    (w := fun v s => modFtl s d (fun x => { x with levelMap0 := BitVec.ofNat 64 v }))
    (by cases d <;> exact ⟨fun _ _ _ => rfl, fun _ => rfl, rfl⟩) (fun v s _ => rfl)
    (fun v s => modFtl_keeps { FtlKeeps.refl _ _ with levelMap0 := .inl rfl } (Keeps.refl _ _)) (fun v s t hv h => ?_) (by decide)
  have hw := side_field_eq FtlState.levelMap0 (h .ftlLevelMap0 (by simp)) d
  rw [modFtl_ftl, side_upd_same] at hw
  show some (side t.ftl d).levelMap0.toNat = _
  rw [hw, BitVec.toNat_ofNat, Nat.mod_eq_of_lt hv, id]

theorem levelMap1_storesBack (d : Die) :
    StoresBack (0x07000010 + dieNum d * 0x100000) (fun _ => true) id [.ftlLevelMap1] := by
  refine storesBack_of (wr := ftlWrite d 16) (rd := (ftlDieRead · d 16))
    (w := fun v s => modFtl s d (fun x => { x with levelMap1 := BitVec.ofNat 64 v }))
    (by cases d <;> exact ⟨fun _ _ _ => rfl, fun _ => rfl, rfl⟩) (fun v s _ => rfl)
    (fun v s => modFtl_keeps { FtlKeeps.refl _ _ with levelMap1 := .inl rfl } (Keeps.refl _ _)) (fun v s t hv h => ?_) (by decide)
  have hw := side_field_eq FtlState.levelMap1 (h .ftlLevelMap1 (by simp)) d
  rw [modFtl_ftl, side_upd_same] at hw
  show some (side t.ftl d).levelMap1.toNat = _
  rw [hw, BitVec.toNat_ofNat, Nat.mod_eq_of_lt hv, id]

/-! The registers of the cores and services (R316, R337, R365, R377) -/

theorem podCfg_storesBack (d : Die) :
    StoresBack (0x08000000 + dieNum d * 0x1000000) (fun v => v % 2 ^ 16 != 0) (· % 2 ^ 32) [.podSelftestS, .podBudget] := by
  refine storesBack_of (wr := podWrite d 0) (rd := (podRead · d 0))
    (w := fun v s => modPod s d (fun x => { x with selftestS := fld v 31 16, budget := fld v 15 0 }))
    (by cases d <;> exact ⟨fun _ _ _ => rfl, fun _ => rfl, rfl⟩) (fun v s hv => ?_)
    (fun v s => modPod_keeps { PodKeeps.refl _ _ with selftestS := .inl rfl, budget := .inl rfl } (Keeps.refl _ _))
    (fun v s t _ h => ?_) (by decide)
  · exact if_neg (by simpa using hv)
  · have hs := side_field_eq PodState.selftestS (h .podSelftestS (by simp)) d
    have hb := side_field_eq PodState.budget (h .podBudget (by simp)) d
    rw [modPod_pod, side_upd_same] at hs hb
    show some (packed [((side t.pod d).selftestS, 16), ((side t.pod d).budget, 0)]) = _
    rw [hs, hb]
    simp only [packed, List.foldl_cons, List.foldl_nil, fld, Nat.reduceAdd, Nat.reduceSub, Nat.zero_add, Nat.pow_zero, Nat.div_one,
      Nat.mul_one, Nat.add_comm (_ * _), fields_join]

theorem colCfg_storesBack (d : Die) :
    StoresBack (0x0A000000 + dieNum d * 0x100) (fun v => v % 2 ^ 16 != 0) (· % 2 ^ 16) [.colInstTimeout] := by
  refine storesBack_of (wr := colWrite d 0) (rd := (colRead · d 0))
    (w := fun v s => modCol s d (fun x => { x with instTimeout := v % 2 ^ 16 }))
    (by cases d <;> exact ⟨fun _ _ _ => rfl, fun _ => rfl, rfl⟩) (fun v s hv => ?_)
    (fun v s => modCol_keeps { ColKeeps.refl _ _ with instTimeout := .inl rfl } (Keeps.refl _ _)) (fun v s t _ h => ?_) (by decide)
  · exact if_neg (by simpa using hv)
  · have hw := side_field_eq ColState.instTimeout (h .colInstTimeout (by simp)) d
    rw [modCol_col, side_upd_same] at hw
    exact congrArg some hw

theorem attCfg_storesBack (d : Die) :
    StoresBack (0x0B000000 + dieNum d * 0x100) (fun v => v % 256 != 0) (· % 256) [.colAhead] := by
  refine storesBack_of (wr := attWrite (dieNum d * 0x100)) (rd := (attRead · (dieNum d * 0x100)))
    (w := fun v s => modCol s d (fun x => { x with ahead := v % 256 }))
    (by cases d <;> exact ⟨fun _ _ _ => rfl, fun _ => rfl, rfl⟩) (fun v s hv => ?_)
    (fun v s => modCol_keeps { ColKeeps.refl _ _ with ahead := .inl rfl } (Keeps.refl _ _)) (fun v s t _ h => ?_) (by decide)
  · have hne : ¬ v % 256 = 0 := by simpa using hv
    cases d <;> exact if_neg hne
  · have hw := side_field_eq ColState.ahead (h .colAhead (by simp)) d
    rw [modCol_col, side_upd_same] at hw
    have hread : attRead t (dieNum d * 0x100) = some (side t.col d).ahead := by cases d <;> rfl
    rw [hread, hw]

/-! The registers of security, failures and the module, one of each (R423, R470, R491) -/

theorem windowBase_storesBack :
    StoresBack 0x0E000050 (fun _ => true) (fun v => v / 2 ^ 16 % 2 ^ 12 * 2 ^ 16) [.secWindowBase] := by
  refine storesBack_of (wr := secWrite 0x50) (rd := (secRead · 0x50)) (w := fun v s => modSec s (fun x => { x with windowBase := fld v 27 16 }))
    ⟨fun _ _ _ => rfl, fun _ => rfl, rfl⟩ (fun v s _ => rfl)
    (fun v s => modSec_keeps { SecKeeps.refl _ _ with windowBase := .inl rfl } (SecMono.refl _) (Keeps.refl _ _))
    (fun v s t _ h => ?_) (by decide)
  have hw : t.sec.windowBase = fld v 27 16 := h .secWindowBase (by simp)
  show some (t.sec.windowBase * 2 ^ 16) = _
  rw [hw]
  rfl

theorem fltCfg_storesBack :
    StoresBack 0x10000000 (fun v => v % 256 != 0 && v / 256 % 256 != 0) (· % 2 ^ 16) [.fltAckDeadMs, .fltGraceMs] := by
  refine storesBack_of (wr := fltWrite 0 0x00) (rd := (fltRead · 0x00))
    (w := fun v s => modFlt s (fun x => { x with ackDeadMs := fld v 15 8, graceMs := fld v 7 0 }))
    ⟨fun _ _ _ => rfl, fun _ => rfl, rfl⟩ (fun v s hv => ?_)
    (fun v s => modFlt_keeps { FltKeeps.refl _ _ with ackDeadMs := .inl rfl, graceMs := .inl rfl } (Keeps.refl _ _))
    (fun v s t _ h => ?_) (by decide)
  · simp only [Bool.and_eq_true, bne_iff_ne] at hv
    refine if_neg ?_
    simp only [fld]
    omega
  · have ha : t.flt.ackDeadMs = fld v 15 8 := h .fltAckDeadMs (by simp)
    have hg : t.flt.graceMs = fld v 7 0 := h .fltGraceMs (by simp)
    show some (packed [(t.flt.ackDeadMs, 8), (t.flt.graceMs, 0)]) = _
    rw [ha, hg]
    simp only [packed, List.foldl_cons, List.foldl_nil, fld]
    congr 1
    omega

theorem xferSrc_storesBack : StoresBack 0x10000040 (fun _ => true) id [.fltXferSrc] := by
  refine storesBack_of (wr := fltWrite 0 0x40) (rd := (fltRead · 0x40)) (w := fun v s => modFlt s (fun x => { x with xferSrc := BitVec.ofNat 64 v }))
    ⟨fun _ _ _ => rfl, fun _ => rfl, rfl⟩ (fun v s _ => rfl)
    (fun v s => modFlt_keeps { FltKeeps.refl _ _ with xferSrc := .inl (by decide +kernel) } (Keeps.refl _ _)) (fun v s t hv h => ?_) (by decide)
  have hw : t.flt.xferSrc = BitVec.ofNat 64 v := h .fltXferSrc (by simp)
  show some t.flt.xferSrc.toNat = _
  rw [hw, BitVec.toNat_ofNat, Nat.mod_eq_of_lt hv, id]

theorem xferDst_storesBack : StoresBack 0x10000048 (fun _ => true) id [.fltXferDst] := by
  refine storesBack_of (wr := fltWrite 0 0x48) (rd := (fltRead · 0x48)) (w := fun v s => modFlt s (fun x => { x with xferDst := BitVec.ofNat 64 v }))
    ⟨fun _ _ _ => rfl, fun _ => rfl, rfl⟩ (fun v s _ => rfl)
    (fun v s => modFlt_keeps { FltKeeps.refl _ _ with xferDst := .inl (by decide +kernel) } (Keeps.refl _ _)) (fun v s t hv h => ?_) (by decide)
  have hw : t.flt.xferDst = BitVec.ofNat 64 v := h .fltXferDst (by simp)
  show some t.flt.xferDst.toNat = _
  rw [hw, BitVec.toNat_ofNat, Nat.mod_eq_of_lt hv, id]

theorem repairCfg_storesBack : StoresBack 0x11001010 (fun _ => true) (· % 8) [.modAutoRow, .modAutoPc, .modAutoLane] := by
  refine storesBack_of (wr := modWrite 0x1010) (rd := (modRead · 0x1010))
    (w := fun v s => modMod s (fun m => { m with autoRow := bitAt v 2, autoPc := bitAt v 1, autoLane := bitAt v 0 }))
    ⟨fun _ _ _ => rfl, fun _ => rfl, rfl⟩ (fun v s _ => rfl)
    (fun v s => modMod_keeps { ModKeeps.refl _ _ with
      autoRow := .inl (by decide +kernel), autoPc := .inl (by decide +kernel), autoLane := .inl (by decide +kernel) } (Keeps.refl _ _))
    (fun v s t _ h => ?_) (by decide)
  have hr : t.mod.autoRow = bitAt v 2 := h .modAutoRow (by simp)
  have hp : t.mod.autoPc = bitAt v 1 := h .modAutoPc (by simp)
  have hl : t.mod.autoLane = bitAt v 0 := h .modAutoLane (by simp)
  show some (packed [(b2n t.mod.autoRow, 2), (b2n t.mod.autoPc, 1), (b2n t.mod.autoLane, 0)]) = _
  rw [hr, hp, hl]
  simp only [packed, List.foldl_cons, List.foldl_nil, b2n_bitAt]
  congr 1
  omega

/-! The codec of a context (R377) -/

/-- No sticky register stands in the upper half of the codec's block. -/
theorem stAt_codec_upper {off : Nat} (hlo : 0x0C001000 ≤ off) (hhi : off < 0x0D000000) : stAt off = none :=
  stAt_eq_none (by simp only [fixedStOffsets, List.mem_cons, List.not_mem_nil, or_false]; omega) (by omega) (by omega)

theorem ctxCode_standsAt {c : Nat} (hc : c < 4096) :
    StandsAt (0x0C010000 + 8 * c) (cmpWrite (0x10000 + 8 * c)) (cmpRead · (0x10000 + 8 * c)) := by
  have hst : stAt (0x0C010000 + 8 * c) = none := stAt_codec_upper (by omega) (by omega)
  have hhit : hitAt (0x0C010000 + 8 * c) = none := by
    rw [hitAt, if_pos (by omega)]
    exact stAt_codec_upper (by omega) (by omega)
  have hblock : (0x0C010000 + 8 * c) / 0x1000000 = 0xC := by omega
  have hin : (0x0C010000 + 8 * c) % 0x1000000 = 0x10000 + 8 * c := by omega
  refine ⟨fun ep v s => ?_, fun s => ?_, ?_⟩
  · simp only [regWrite, hst, hhit, hblock, hin, Option.isSome_none, Bool.false_eq_true, if_false]
  · simp only [regRead, hst, hhit, hblock, hin]
  · simp only [inAperture, Bool.and_eq_false_iff, decide_eq_false_iff_not]
    omega

theorem ctxCode_storesBack {c : Nat} (hc : c < 4096) :
    StoresBack (0x0C010000 + 8 * c) (fun _ => true) (fun v => v % 16 + v / 256 % 2 * 256) [.cmpCtxCode] := by
  have hslot : (0x10000 + 8 * c - 0x10000) / 8 = c := by omega
  refine storesBack_of (w := fun v s => { s with cmp := { s.cmp with
      ctxCode := sput s.cmp.ctxCode c (BitVec.ofNat 9 (b2n (bitAt v 8) * 256 + v % 16)) } }) (ctxCode_standsAt hc) (fun v s _ => ?_)
    (fun v s => set_cmp_keeps { CmpKeeps.refl _ _ with ctxCode := .inl rfl } (Keeps.refl _ _)) (fun v s t _ h => ?_) (by decide)
  · simp only [cmpWrite, Nat.le_add_right, if_true, hslot]
  · have hw : t.cmp.ctxCode = sput s.cmp.ctxCode c (BitVec.ofNat 9 (b2n (bitAt v 8) * 256 + v % 16)) := h .cmpCtxCode (by simp)
    have hread : cmpRead t (0x10000 + 8 * c) = some (sget t.cmp.ctxCode c).toNat := by
      rw [cmpRead, if_neg (by omega), if_neg (by omega), if_pos (by omega), hslot]
      rfl
    rw [hread, hw, sget_sput_same, BitVec.toNat_ofNat, b2n_bitAt]
    congr 1
    omega

/-- Settles O49: each register stands at its offset, its write sets the parts that its reading follows from, and serving the access changes
none of those. -/
theorem plainRegisterWritesReadBack : Obligations.PlainRegisterWritesReadBack :=
  ⟨arbWeight_storesBack, samplePorts_storesBack .d0 33 le_rfl rfl ⟨fun _ _ _ => rfl, fun _ => rfl, rfl⟩,
    samplePorts_storesBack .d1 32 (by decide) rfl ⟨fun _ _ _ => rfl, fun _ => rfl, rfl⟩, sampleDest_storesBack, memCfg_storesBack,
    dirCfg_storesBack, tierCfg_storesBack, ftlCfg_storesBack, levelMap0_storesBack, levelMap1_storesBack, podCfg_storesBack,
    colCfg_storesBack, attCfg_storesBack, fun _ => ctxCode_storesBack, windowBase_storesBack, fltCfg_storesBack, xferSrc_storesBack,
    xferDst_storesBack, repairCfg_storesBack⟩

end Machine
end Sys2Proof

/-! SUPPORT and O50: the sticky registers, the counters that a read clears, and the limits of a context. -/

namespace Sys2Proof
namespace Machine

/-! A sticky register's value and counter (R13) -/

theorem getD_changeD_same {α : Type} (t : Dict α) (k : Nat) (d : α) (g : α → α) : getD (changeD t k d g) k d = g (getD t k d) := by
  simp [getD, changeD, get?_put_same]

theorem getD_changeD_other {α : Type} (t : Dict α) {k a : Nat} (d : α) (g : α → α) (h : a ≠ k) :
    getD (changeD t k d g) a d = getD t a d := by
  simp [getD, changeD, get?_put_other h]

/-- A change of a sticky register is what is read of it afterwards. -/
theorem stGet_stUpd_same (s : State) (r : StReg) (g : Sticky → Sticky) : stGet (stUpd s r g) r = g (stGet s r) := by
  cases r with
  | cfg | sec | mtr | flt | mod => rfl
  | prt p => exact congrArg PortState.errStatus (getD_changeD_same s.lft.ports p {} (fun x => { x with errStatus := g x.errStatus }))
  | ctx c => exact congrArg Ctx.evStatus (getD_changeD_same s.ctxs c {} (fun x => { x with evStatus := g x.evStatus }))
  | swc d | mem d | coh d | tier d | ftl d | pod d | col d | att d | cmp d => cases d <;> rfl

/-- The part of the state that holds a sticky register. -/
def StReg.piece : StReg → Piece
  | .cfg => .cfgStatus
  | .prt _ => .lftPorts
  | .swc _ => .swcStatus
  | .mem _ => .homeStatus
  | .coh _ => .cohStatus
  | .tier _ => .tierStatus
  | .ftl _ => .ftlStatus
  | .pod _ => .podStatus
  | .col _ => .colStatus
  | .att _ => .colAttStatus
  | .cmp _ => .cmpStatus
  | .ctx _ => .ctxs
  | .sec => .secStatus
  | .mtr => .mtrStatus
  | .flt => .fltStatus
  | .mod => .modStatus

/-- A sticky register reads the same where its part is the same. -/
theorem stGet_of_same {s t : State} {r : StReg} (h : r.piece.same s t) : stGet t r = stGet s r := by
  cases r with
  | cfg | sec | mtr | flt | mod => exact h
  | prt p => simp only [stGet, portOf, show t.lft.ports = s.lft.ports from h]
  | ctx c => simp only [stGet, ctxOf, show t.ctxs = s.ctxs from h]
  | cmp d => simp only [stGet, show t.cmp.status = s.cmp.status from h]
  | swc d => exact side_field_eq SwcState.status h d
  | mem d => exact side_field_eq HomeState.status h d
  | coh d => exact side_field_eq CohState.status h d
  | tier d => exact side_field_eq TierState.status h d
  | ftl d => exact side_field_eq FtlState.status h d
  | pod d => exact side_field_eq PodState.status h d
  | col d => exact side_field_eq ColState.status h d
  | att d => exact side_field_eq ColState.attStatus h d

/-- Taking an access in changes no sticky register. -/
theorem stGet_regServed (f : Frame) (s : State) (r : StReg) : stGet (regServed f s) r = stGet s r :=
  stGet_of_same (regServed_keepsBut f s _ (by cases r <;> simp [StReg.piece, countParts]))

/-- No sticky register stands in the aperture. -/
theorem outside_of_stAt {off : Nat} {r : StReg} (h : stAt off = some r) : inAperture off = false := by
  simp only [inAperture, Bool.and_eq_false_iff, decide_eq_false_iff_not]
  rcases stAt_offset_cases h with hf | ⟨p, hp, rfl⟩ | ⟨c, hc, rfl⟩
  · simp only [fixedStOffsets, List.mem_cons, List.not_mem_nil, or_false] at hf
    omega
  · omega
  · omega

theorem regWrite_of_stAt {off : Nat} {r : StReg} (h : stAt off = some r) (ep v : Nat) (s : State) :
    regWrite ep off v s = (Sts.ok, stUpd s r (fun x => x.clear v (stMask r))) := by
  simp only [regWrite, h]

/-- A store to a sticky register clears the ones of its value (R12, R13). -/
theorem sticky_write_clears {s : State} {f : Frame} {r : StReg} (h : RegReady s f) (ho : f.opcode = Opc.st)
    (hr : stAt (regOff f) = some r) :
    ∃ u, exec (.registerWrite f) s = .next (regAnswer f Sts.ok [] u) ∧ (stGet u r).hit = (stGet s r).hit ∧
      (stGet u r).bits = (stGet s r).bits &&& ~~~(BitVec.ofNat 16 (le f.payload 0 8) &&& BitVec.ofNat 16 (stMask r)) := by
  refine ⟨_, execRegisterWrite_of_ready h ho (outside_of_stAt hr) (regWrite_of_stAt hr _ _ _), ?_, ?_⟩ <;>
  · rw [stGet_stUpd_same, stGet_regServed]
    rfl

theorem regRead_of_hitAt {off : Nat} {r : StReg} (hn : stAt off = none) (hr : hitAt off = some r) (s : State) :
    regRead s off = some (stGet s r).hit.toNat := by
  unfold regRead
  rw [hn, hr]

theorem readClear_of_hitAt {off : Nat} {r : StReg} (hr : hitAt off = some r) (s : State) :
    readClear s off = stUpd s r (fun x => { x with hit := 0 }) := by
  unfold readClear
  rw [hr]

/-- A load of a hit counter answers with it and zeroes it (R13). -/
theorem hit_read_clears {s : State} {f : Frame} {r : StReg} (h : RegReady s f) (ho : f.opcode = Opc.ld)
    (hn : stAt (regOff f) = none) (hr : hitAt (regOff f) = some r) :
    ∃ u, exec (.registerReadClear f) s = .next (regAnswer f Sts.ok (toLE 8 (stGet s r).hit.toNat) u) ∧ (stGet u r).hit = 0 ∧
      (stGet u r).bits = (stGet s r).bits := by
  have hexec := execRegisterReadClear_of_ready h ho
  rw [regRead_of_hitAt hn hr, readClear_of_hitAt hr, stGet_regServed, Option.getD_some] at hexec
  refine ⟨_, hexec, ?_, ?_⟩ <;> rw [stGet_stUpd_same]
  rw [stGet_regServed]

/-! The counters that a read clears (R11) -/

/-- A counter stands at an offset: its reading follows from one part, which taking an access in leaves, and a read leaves it zero. -/
structure CountsAt (off : Nat) (rd : State → Nat) (l : Piece) : Prop where
  read : ∀ s, regRead s off = some (rd s)
  cleared : ∀ s, rd (readClear s off) = 0
  same : ∀ s t, l.same s t → rd t = rd s
  kept : l ∉ Piece.cfgSpInbox :: countParts

/-- A load of a counter answers with what it read and leaves it reading zero. -/
theorem counter_read_clears {s : State} {f : Frame} {rd : State → Nat} {l : Piece} (hc : CountsAt (regOff f) rd l) (h : RegReady s f)
    (ho : f.opcode = Opc.ld) :
    ∃ u, exec (.registerReadClear f) s = .next (regAnswer f Sts.ok (toLE 8 ((regRead s (regOff f)).getD 0)) u) ∧
      regRead u (regOff f) = some 0 := by
  have hread : regRead (regServed f s) (regOff f) = regRead s (regOff f) := by
    rw [hc.read, hc.read, hc.same s (regServed f s) (regServed_keepsBut f s l hc.kept)]
  have hexec := execRegisterReadClear_of_ready h ho
  rw [hread] at hexec
  refine ⟨_, hexec, ?_⟩
  rw [hc.read, hc.cleared]

/-- No sticky register stands among a port's counters. -/
theorem stAt_port_counter {p o : Nat} (hp : p ≤ 64) (ho : 0x10 ≤ o ∧ o < 0x40000) : stAt (0x01000000 + p * 0x40000 + o) = none :=
  stAt_eq_none (by simp only [fixedStOffsets, List.mem_cons, List.not_mem_nil, or_false]; omega) (by omega) (by omega)

theorem hitAt_port_counter {p o : Nat} (hp : p ≤ 64) (ho : 0x18 ≤ o ∧ o < 0x40000) : hitAt (0x01000000 + p * 0x40000 + o) = none := by
  rw [hitAt, if_pos (by omega), show 0x01000000 + p * 0x40000 + o - 8 = 0x01000000 + p * 0x40000 + (o - 8) by omega]
  exact stAt_port_counter hp (by omega)

theorem regRead_portBlock {off : Nat} (s : State) (hst : stAt off = none) (hhit : hitAt off = none) (hblock : off / 0x1000000 = 1) :
    regRead s off = prtRead s (off % 0x1000000 / 0x40000) (off % 0x1000000 % 0x40000) := by
  simp only [regRead, hst, hhit, hblock]

theorem regRead_port64Block {off : Nat} (s : State) (hst : stAt off = none) (hhit : hitAt off = none) (hblock : off / 0x1000000 = 2)
    (hlow : off % 0x1000000 < 0x40000) : regRead s off = prtRead s 64 (off % 0x1000000) := by
  simp only [regRead, hst, hhit, hblock, if_pos hlow]

/-- The reading of a port's register beyond its status. -/
theorem regRead_port {p o : Nat} (hp : p ≤ 64) (ho : 0x18 ≤ o ∧ o < 0x40000) (s : State) :
    regRead s (0x01000000 + p * 0x40000 + o) = prtRead s p o := by
  have hst := stAt_port_counter hp (o := o) (by omega)
  have hhit := hitAt_port_counter hp ho
  rcases Nat.lt_or_eq_of_le hp with hlt | rfl
  · rw [regRead_portBlock s hst hhit (by omega), show (0x01000000 + p * 0x40000 + o) % 0x1000000 / 0x40000 = p by omega,
      show (0x01000000 + p * 0x40000 + o) % 0x1000000 % 0x40000 = o by omega]
  · rw [regRead_port64Block s hst hhit (by omega) (by omega), show (0x01000000 + 64 * 0x40000 + o) % 0x1000000 = o by omega]

/-- A port with one of its counters zero. -/
def PortState.counterCleared (o : Nat) (x : PortState) : PortState :=
  match o with
  | 0x18 => { x with fecCorr := 0 }
  | 0x20 => { x with fecUncorr := 0 }
  | _ => { x with replayCount := 0 }

theorem readClear_portBlock {off o : Nat} (s : State) (hhit : hitAt off = none) (hblock : 0x01000000 ≤ off ∧ off < 0x02040000)
    (ho : o ∈ [0x18, 0x20, 0x28]) (hoff : off % 0x40000 = o) :
    readClear s off = modPort s (if 0x02000000 ≤ off then 64 else (off - 0x01000000) / 0x40000) (PortState.counterCleared o) := by
  unfold readClear
  rw [hhit]
  simp only [if_pos hblock, hoff]
  fin_cases ho <;> rfl

/-- A read of one of a port's counters zeroes it. -/
theorem readClear_port {p o : Nat} (hp : p ≤ 64) (ho : o ∈ [0x18, 0x20, 0x28]) (s : State) :
    readClear s (0x01000000 + p * 0x40000 + o) = modPort s p (PortState.counterCleared o) := by
  have hlow : 0x18 ≤ o ∧ o < 0x40000 := by fin_cases ho <;> decide
  have hport : (if 0x02000000 ≤ 0x01000000 + p * 0x40000 + o then 64 else (0x01000000 + p * 0x40000 + o - 0x01000000) / 0x40000) = p := by
    split <;> omega
  rw [readClear_portBlock s (hitAt_port_counter hp hlow) (by omega) ho (by omega), hport]

/-- The counter of a port at an offset of its block. -/
def portCounter (p o : Nat) (s : State) : Nat :=
  match o with
  | 0x18 => (portOf s p).fecCorr
  | 0x20 => (portOf s p).fecUncorr
  | _ => (portOf s p).replayCount

theorem portOf_modPort_same (s : State) (p : Nat) (g : PortState → PortState) : portOf (modPort s p g) p = g (portOf s p) :=
  getD_changeD_same s.lft.ports p {} g

theorem portCounter_countsAt {p o : Nat} (hp : p ≤ 64) (ho : o ∈ [0x18, 0x20, 0x28]) :
    CountsAt (0x01000000 + p * 0x40000 + o) (portCounter p o) .lftPorts where
  read s := by fin_cases ho <;> exact regRead_port hp (by decide) s
  cleared s := by
    rw [readClear_port hp ho]
    fin_cases ho <;> simp only [portCounter, portOf_modPort_same, PortState.counterCleared]
  same s t h := by simp only [portCounter, portOf, show t.lft.ports = s.lft.ports from h]
  kept := by decide

theorem sampleDrop_countsAt {off : Nat} (d : Die) (h : off = 0x03000058 + dieNum d * 0x800000) :
    CountsAt off (fun s => (side s.swc d).sampleDrop) .swcSampleDrop where
  read s := by subst h; cases d <;> rfl
  cleared s := by subst h; cases d <;> rfl
  same s t h := side_field_eq SwcState.sampleDrop h d
  kept := by decide

theorem pepHits_countsAt : CountsAt 0x12000008 (fun s => s.flt.pepHits) .fltPepHits where
  read s := rfl
  cleared s := rfl
  same s t h := h
  kept := by decide

/-! The limits of a context (R80, R81) -/

/-- No context's limits differ. -/
def SameLimits (s t : State) : Prop := ∀ c, (ctxOf t c).limits = (ctxOf s c).limits

theorem SameLimits.refl (s : State) : SameLimits s s := fun _ => rfl

theorem SameLimits.trans {s t u : State} (h : SameLimits s t) (k : SameLimits t u) : SameLimits s u := fun c => (k c).trans (h c)

theorem SameLimits.of_ctxs {s t : State} (h : t.ctxs = s.ctxs) : SameLimits s t := fun c => by simp only [ctxOf, h]

/-- A change within a mask without the contexts leaves their limits. -/
theorem SameLimits.of_keeps {m : Nat} {s t : State} (h : Keeps m s t) (hm : m.testBit Piece.ctxs.num = false) : SameLimits s t :=
  .of_ctxs (h.same .ctxs hm)

theorem SameLimits.foldl {α : Type} {f : State → α → State} (h : ∀ t a, SameLimits t (f t a)) (l : List α) (s : State) :
    SameLimits s (l.foldl f s) := by
  induction l generalizing s with
  | nil => exact .refl s
  | cons a r ih => exact (h s a).trans (ih _)

theorem ctxOf_modCtx_same (s : State) (c : Nat) (g : Ctx → Ctx) : ctxOf (modCtx s c g) c = g (ctxOf s c) :=
  getD_changeD_same s.ctxs c {} g

theorem ctxOf_modCtx_other (s : State) {c a : Nat} (g : Ctx → Ctx) (h : a ≠ c) : ctxOf (modCtx s c g) a = ctxOf s a :=
  getD_changeD_other s.ctxs {} g h

theorem sameLimits_modCtx (s : State) (c : Nat) {g : Ctx → Ctx} (h : ∀ x, (g x).limits = x.limits) : SameLimits s (modCtx s c g) := by
  intro a
  rcases eq_or_ne a c with rfl | hac
  · rw [ctxOf_modCtx_same, h]
  · rw [ctxOf_modCtx_other s g hac]

theorem sameLimits_stUpd (s : State) (r : StReg) (g : Sticky → Sticky) : SameLimits s (stUpd s r g) := by
  cases r with
  | ctx c => exact sameLimits_modCtx s c (g := fun x => { x with evStatus := g x.evStatus }) fun _ => rfl
  | _ => exact .of_ctxs rfl

theorem sameLimits_enqueueOnce (d : Die) (e : EvEntry) (s : State) : SameLimits s (enqueueOnce d e s).2.1 := by
  unfold enqueueOnce
  dsimp only
  split_ifs
  · exact sameLimits_stUpd s _ _
  · refine SameLimits.trans ?_ (sameLimits_stUpd _ _ _)
    exact (SameLimits.of_ctxs rfl).trans (sameLimits_modCtx (modEv s d _) _ fun _ => rfl)
  · exact .of_ctxs rfl
  · exact sameLimits_stUpd s _ _

theorem sameLimits_enqueue (d : Die) (e : EvEntry) (s : State) : SameLimits s (enqueue d e s).1 := by
  have h := sameLimits_enqueueOnce d e s
  unfold enqueue
  split
  · next heq => rw [heq] at h; exact h
  · next heq => rw [heq] at h; exact h.trans (sameLimits_enqueueOnce _ _ _)

theorem sameLimits_statusEvent (r : StReg) (s : State) : SameLimits s (statusEvent r s) := sameLimits_enqueue _ _ s

theorem sameLimits_queueEntry (d : Die) (e : EvEntry) (s : State) : SameLimits s (queueEntry d e s) :=
  (sameLimits_enqueue d e s).trans (SameLimits.foldl (fun t c => sameLimits_statusEvent (.ctx c) t) _ _)

theorem sameLimits_setStatus (r : StReg) (bit : Nat) (s : State) : SameLimits s (setStatus r bit s) := by
  unfold setStatus
  exact (sameLimits_stUpd s r _).trans (sameLimits_statusEvent r _)

theorem sameLimits_spEvent (c code : Nat) (data : Bytes) (s : State) : SameLimits s (spEvent c code data s) := by
  unfold spEvent event
  exact sameLimits_queueEntry _ _ s

theorem sameLimits_overQuota (c tier : Nat) (s : State) : SameLimits s (overQuota c tier s) := by
  unfold overQuota
  dsimp only
  exact ((sameLimits_setStatus (.ctx c) 0 s).trans (sameLimits_spEvent c 0x30 (toLE 8 tier) _)).trans (sameLimits_queueEntry _ _ _)

theorem sameLimits_sendRaw (d : Die) (f : Frame) (s : State) : SameLimits s (sendRaw d f s) := by
  unfold sendRaw submit
  split_ifs
  · refine SameLimits.trans (.of_ctxs (t := modSwc s d _) rfl) (sameLimits_modCtx _ _ fun x => ?_)
    split <;> rfl
  · exact .of_keeps (m := 0x40000000002d81600000000) (launch_keeps (by decide +kernel) (Keeps.refl _ _)) (by decide +kernel)

theorem sameLimits_tapBytes (d : Die) (ctx tc dir len : Nat) (s : State) : SameLimits s (tapBytes d ctx tc dir len s) :=
  .of_keeps (m := maskOf countParts) (tapBytes_keeps (by decide +kernel) (Keeps.refl _ _)) (by decide +kernel)

theorem sameLimits_answer (d : Die) (f : Frame) (st : BitVec 5) (b : Bytes) (s : State) : SameLimits s (answer d f st b s) :=
  (sameLimits_tapBytes _ _ _ _ _ s).trans (SameLimits.foldl (fun t g => sameLimits_sendRaw d g t) _ _)

theorem sameLimits_regAnswer (f : Frame) (st : BitVec 5) (b : Bytes) (s : State) : SameLimits s (regAnswer f st b s) := by
  unfold regAnswer
  split
  · exact sameLimits_answer _ f st b s
  · exact sameLimits_sendRaw _ _ s

theorem sameLimits_regServed (f : Frame) (s : State) : SameLimits s (regServed f s) :=
  .of_ctxs (regServed_keepsBut f s .ctxs (by decide))

theorem nth_setAt_same {α : Type} {l : List α} {i : Nat} {v d : α} (h : i < l.length) : nth (setAt l i v) i d = v := by
  induction l generalizing i with
  | nil => cases h
  | cons x r ih =>
    cases i with
    | zero => rfl
    | succ n => exact ih (Nat.lt_of_succ_lt_succ h)

/-- A write of a LIMIT that is taken leaves the context with it and every context else with its limits (R80, R81). -/
theorem quotaWrite_of_limit {c tier v : Nat} (hv : v % 2 ^ 32 ≠ 0xFFFFFFFF) (s : State) :
    ∃ u, quotaWrite c tier v s = (Sts.ok, u) ∧ SameLimits (modCtx s c (fun x => { x with limits := setAt x.limits tier (v % 2 ^ 32) })) u ∧
      KeepsBut eventParts s u := by
  suffices h : ∃ u, quotaWrite c tier v s = (Sts.ok, u) ∧
      SameLimits (modCtx s c (fun x => { x with limits := setAt x.limits tier (v % 2 ^ 32) })) u by
    obtain ⟨u, hu, hlim⟩ := h
    exact ⟨u, hu, hlim, keepsBut_of_maskOf (quotaWrite_of_eq hu (by decide +kernel) (Keeps.refl _ _))⟩
  unfold quotaWrite
  dsimp only
  rw [if_neg hv]
  split_ifs
  · exact ⟨_, rfl, .refl _⟩
  · refine ⟨_, rfl, SameLimits.trans ?_ (sameLimits_overQuota c tier _)⟩
    exact sameLimits_modCtx _ c fun _ => rfl
  · exact ⟨_, rfl, sameLimits_modCtx _ c fun _ => rfl⟩

/-- No sticky register stands among a context's limits. -/
theorem stAt_limit {c off : Nat} (hc : c < 4096) (ho : 0x0D000010 + c * 0x1000 ≤ off ∧ off < 0x0D001000 + c * 0x1000) : stAt off = none :=
  stAt_eq_none (by simp only [fixedStOffsets, List.mem_cons, List.not_mem_nil, or_false]; omega) (by omega) (by omega)

theorem regWrite_ctxBlock {off : Nat} (ep v : Nat) (s : State) (hst : stAt off = none) (hhit : hitAt off = none)
    (hblock : off / 0x1000000 = 0xD) : regWrite ep off v s = ctxWrite (off % 0x1000000 / 0x1000) (off % 0x1000000 % 0x1000) v s := by
  simp only [regWrite, hst, hhit, hblock, Option.isSome_none, Bool.false_eq_true, if_false]

theorem ctxWrite_limit {c tier : Nat} (ht : tier < 3) (v : Nat) (s : State) : ctxWrite c (0x100 + tier * 8) v s = quotaWrite c tier v s := by
  interval_cases tier <;> rfl

/-- The quota register of a context is written as its LIMIT. -/
theorem regWrite_limit {c tier : Nat} (hc : c < 4096) (ht : tier < 3) (ep v : Nat) (s : State) :
    regWrite ep (0x0D000100 + c * 0x1000 + tier * 8) v s = quotaWrite c tier v s := by
  have hhit : hitAt (0x0D000100 + c * 0x1000 + tier * 8) = none := by
    rw [hitAt, if_pos (by omega)]
    exact stAt_limit hc (by omega)
  rw [regWrite_ctxBlock ep v s (stAt_limit hc (by omega)) hhit (by omega),
    show (0x0D000100 + c * 0x1000 + tier * 8) % 0x1000000 / 0x1000 = c by omega,
    show (0x0D000100 + c * 0x1000 + tier * 8) % 0x1000000 % 0x1000 = 0x100 + tier * 8 by omega, ctxWrite_limit ht]

/-- A store of a LIMIT leaves the context with it (R80, R81). -/
theorem limit_write_sets {s : State} {f : Frame} {c tier : Nat} (h : RegReady s f) (ho : f.opcode = Opc.st) (hc : c < 4096) (ht : tier < 3)
    (hoff : regOff f = 0x0D000100 + c * 0x1000 + tier * 8) (hv : le f.payload 0 8 % 2 ^ 32 ≠ 0xFFFFFFFF)
    (hlen : (ctxOf s c).limits.length = 3) :
    ∃ t, exec (.quotaLimitWrite f) s = .next t ∧ limitOf t c tier = le f.payload 0 8 % 2 ^ 32 ∧ KeepsBut (regParts ++ eventParts) s t := by
  obtain ⟨u, hu, hlim, hkeep⟩ := quotaWrite_of_limit (c := c) (tier := tier) hv (regServed f s)
  have hrow : (regOff f / 0x1000000 == 0x0D && (regOff f % 0x1000 == 0x100 || regOff f % 0x1000 == 0x108 || regOff f % 0x1000 == 0x110)) =
      true := by
    simp only [Bool.and_eq_true, Bool.or_eq_true, beq_iff_eq]
    omega
  have hout : inAperture (regOff f) = false := by
    simp only [inAperture, Bool.and_eq_false_iff, decide_eq_false_iff_not]
    omega
  have hwrite : regWrite f.srcEp.toNat (regOff f) (le f.payload 0 8) (regServed f s) = (Sts.ok, u) := by
    rw [hoff, regWrite_limit hc ht, hu]
  refine ⟨_, congrArg Host.Outcome.next (regRow_of_ready h ho hout hrow hwrite), ?_, regParts_of_served hkeep⟩
  rw [limitOf, sameLimits_regAnswer f Sts.ok [] u c, hlim c, ctxOf_modCtx_same]
  exact nth_setAt_same (by rw [sameLimits_regServed f s c, hlen]; exact ht)

/-- Settles O50: a store to a sticky register, a load of a hit counter, a load of one of the other counters, and a store of a LIMIT. -/
theorem statusRegistersClearByOnesAndCountersByReading : Obligations.StatusRegistersClearByOnesAndCountersByReading := by
  refine ⟨fun s f r => sticky_write_clears, fun s f r => hit_read_clears, fun s f h ho hoff => ?_,
    fun s f c tier h ho hc ht => limit_write_sets h ho hc ht⟩
  rcases hoff with ⟨p, o, hp, hmem, hoff⟩ | hoff
  · have hbase : regOff f = 0x01000000 + p * 0x40000 + o := by
      rw [hoff]
      split <;> omega
    exact counter_read_clears (hbase ▸ portCounter_countsAt hp hmem) h ho
  · simp only [List.mem_cons, List.not_mem_nil, or_false] at hoff
    rcases hoff with hoff | hoff | hoff
    · exact counter_read_clears (sampleDrop_countsAt .d0 hoff) h ho
    · exact counter_read_clears (sampleDrop_countsAt .d1 hoff) h ho
    · exact counter_read_clears (hoff ▸ pepHits_countsAt) h ho

end Machine
end Sys2Proof

/-! SUPPORT for O54. The control commands: a ready request runs its own part, and what its answer leaves alone. -/

namespace Sys2Proof
namespace Machine

/-! Parts of the state -/

/-- The parts of SEC. -/
def secParts : List Piece :=
  [.secSerial, .secSealed, .secDevCert, .secMacBase, .secOwnerKey, .secFwArb, .secBsArb, .secLeftMeter, .secLeftDebug, .secLeftXfer,
    .secTapMarks, .secFw0, .secFw1, .secFwSlot, .secFwSvn, .secFwImage, .secRecovery, .secPufFail, .secUnsealed, .secUnlocked, .secScope,
    .secTransfers, .secWindowBase, .secStatus]

/-- SEC is the same where each of its parts is. -/
theorem sec_eq_of_same {s t : State} (h : ∀ p ∈ secParts, p.same s t) : t.sec = s.sec := by
  simp only [secParts, List.forall_mem_cons] at h
  obtain ⟨h1, h2, h3, h4, h5, h6, h7, h8, h9, h10, h11, h12, h13, h14, h15, h16, h17, h18, h19, h20, h21, h22, h23, h24, -⟩ := h
  show SecState.mk t.sec.serial t.sec.sealed t.sec.devCert t.sec.macBase t.sec.ownerKey t.sec.fwArb t.sec.bsArb t.sec.leftMeter
    t.sec.leftDebug t.sec.leftXfer t.sec.tapMarks t.sec.fw0 t.sec.fw1 t.sec.fwSlot t.sec.fwSvn t.sec.fwImage t.sec.recovery
    t.sec.pufFail t.sec.unsealed t.sec.unlocked t.sec.scope t.sec.transfers t.sec.windowBase t.sec.status = SecState.mk s.sec.serial
    s.sec.sealed s.sec.devCert s.sec.macBase s.sec.ownerKey s.sec.fwArb s.sec.bsArb s.sec.leftMeter s.sec.leftDebug s.sec.leftXfer
    s.sec.tapMarks s.sec.fw0 s.sec.fw1 s.sec.fwSlot s.sec.fwSvn s.sec.fwImage s.sec.recovery s.sec.pufFail s.sec.unsealed s.sec.unlocked
    s.sec.scope s.sec.transfers s.sec.windowBase s.sec.status
  rw [SecState.mk.injEq]
  exact ⟨h1, h2, h3, h4, h5, h6, h7, h8, h9, h10, h11, h12, h13, h14, h15, h16, h17, h18, h19, h20, h21, h22, h23, h24⟩

theorem KeepsBut.sec_eq {l : List Piece} {s t : State} (h : KeepsBut l s t) (hl : ∀ p ∈ secParts, p ∉ l) : t.sec = s.sec :=
  sec_eq_of_same fun p hp => h p (hl p hp)

/-- The parts of MTR. -/
def mtrParts : List Piece :=
  [.mtrSt, .mtrMeter, .mtrKeyErased, .mtrDetach, .mtrStatus, .mtrLog, .mtrNewest, .mtrNextPos, .mtrReleased, .mtrPeriodStart,
    .mtrPendingTariff, .mtrQuants, .mtrTariffDigest, .mtrChanges, .mtrTapSeq, .mtrTapBuf, .mtrTapSent, .mtrBytesCnt, .mtrEscrow, .mtrIngested,
    .mtrExports]

theorem mtr_eq_of_same {s t : State} (h : ∀ p ∈ mtrParts, p.same s t) : t.mtr = s.mtr := by
  simp only [mtrParts, List.forall_mem_cons] at h
  obtain ⟨h1, h2, h3, h4, h5, h6, h7, h8, h9, h10, h11, h12, h13, h14, h15, h16, h17, h18, h19, h20, h21, -⟩ := h
  show MtrState.mk t.mtr.st t.mtr.meter t.mtr.keyErased t.mtr.detach t.mtr.status t.mtr.log t.mtr.newest t.mtr.nextPos t.mtr.released
    t.mtr.periodStart t.mtr.pendingTariff t.mtr.quants t.mtr.tariffDigest t.mtr.changes t.mtr.tapSeq t.mtr.tapBuf t.mtr.tapSent
    t.mtr.bytesCnt t.mtr.escrow t.mtr.ingested t.mtr.exports = MtrState.mk s.mtr.st s.mtr.meter s.mtr.keyErased s.mtr.detach
    s.mtr.status s.mtr.log s.mtr.newest s.mtr.nextPos s.mtr.released s.mtr.periodStart s.mtr.pendingTariff s.mtr.quants
    s.mtr.tariffDigest s.mtr.changes s.mtr.tapSeq s.mtr.tapBuf s.mtr.tapSent s.mtr.bytesCnt s.mtr.escrow s.mtr.ingested s.mtr.exports
  rw [MtrState.mk.injEq]
  exact ⟨h1, h2, h3, h4, h5, h6, h7, h8, h9, h10, h11, h12, h13, h14, h15, h16, h17, h18, h19, h20, h21⟩

theorem KeepsBut.mtr_eq {l : List Piece} {s t : State} (h : KeepsBut l s t) (hl : ∀ p ∈ mtrParts, p ∉ l) : t.mtr = s.mtr :=
  mtr_eq_of_same fun p hp => h p (hl p hp)

/-! A request that passes its checks (R107, R493) -/

/-- The state in which a command's own part runs: its request is taken and mirrored (R107, R110). -/
def ctlServed (code : Nat) (r : CtlReq) (s : State) : State := mirror code r (takeSp (ctlFrame code r) s)

theorem ctlServed_keepsBut (code : Nat) (r : CtlReq) (s : State) : KeepsBut [.cfgSpInbox, .cfgMirrorLog] s (ctlServed code r s) :=
  keepsBut_of_maskOf (mirror_keeps (by decide +kernel) (takeSp_keeps (by decide +kernel) (Keeps.refl _ _)))

theorem ctlServed_sec (code : Nat) (r : CtlReq) (s : State) : (ctlServed code r s).sec = s.sec := rfl

theorem ctlServed_mtr (code : Nat) (r : CtlReq) (s : State) : (ctlServed code r s).mtr = s.mtr := rfl

/-- A ready request runs its command's own part. -/
theorem runCtl_of_ready {code : Nat} {r : CtlReq} {own : State → State} {s : State} (h : CtlReady s code r) :
    runCtl code r own s = own (ctlServed code r s) := by
  obtain ⟨hauth, hwait, href, hstalk, hseq, harg, hbusy⟩ := h
  have href' : ctlRefused (takeSp (ctlFrame code r) s) code r = none := href
  have hstalk' : (takeSp (ctlFrame code r) s).cfg.stalkWait.any (fun x => x.req.srcEp == r.srcEp && x.req.cmdSeq == r.cmdSeq) = false :=
    hstalk
  have hseq' : seqCheck (takeSp (ctlFrame code r) s) r = none := hseq
  have harg' : argBad (takeSp (ctlFrame code r) s) code r = none := harg
  have hbusy' : ctlBusy (takeSp (ctlFrame code r) s) code = none := hbusy
  unfold runCtl
  simp only [hauth, hwait, href', hstalk', hseq', harg', hbusy', Option.isSome_none, Bool.or_self, Bool.false_eq_true, if_false]
  rfl

/-! The answer of a command (R106, R109) -/

theorem ctlAnswer_keepsBut (code : Nat) (r : CtlReq) (st : BitVec 5) (detail : Nat) (b : Bytes) (s : State) :
    KeepsBut (sendParts ++ ctlAnswerParts) s (ctlAnswer code r st detail b s) :=
  keepsBut_of_maskOf (ctlAnswer_keeps (by decide +kernel) (Keeps.refl _ _))

theorem ctlEnd_keepsBut (code : Nat) (r : CtlReq) (st : BitVec 5) (s : State) : KeepsBut (sendParts ++ ctlAnswerParts) s (ctlEnd code r st s) :=
  ctlAnswer_keepsBut code r st 0 [] s

theorem ctlAnswer_sec (code : Nat) (r : CtlReq) (st : BitVec 5) (detail : Nat) (b : Bytes) (s : State) :
    (ctlAnswer code r st detail b s).sec = s.sec := (ctlAnswer_keepsBut code r st detail b s).sec_eq (by decide)

theorem ctlAnswer_mtr (code : Nat) (r : CtlReq) (st : BitVec 5) (detail : Nat) (b : Bytes) (s : State) :
    (ctlAnswer code r st detail b s).mtr = s.mtr := (ctlAnswer_keepsBut code r st detail b s).mtr_eq (by decide)

theorem ctlEnd_sec (code : Nat) (r : CtlReq) (st : BitVec 5) (s : State) : (ctlEnd code r st s).sec = s.sec := ctlAnswer_sec code r st 0 [] s

theorem ctlEnd_mtr (code : Nat) (r : CtlReq) (st : BitVec 5) (s : State) : (ctlEnd code r st s).mtr = s.mtr := ctlAnswer_mtr code r st 0 [] s

theorem sendCtlRsp_cmdSeq (d : Die) (code : Nat) (r : CtlReq) (st : BitVec 5) (detail : Nat) (b : Bytes) (s : State) :
    (sendCtlRsp d code r st detail b s).cfg.cmdSeq = s.cfg.cmdSeq :=
  keepsBut_of_maskOf (l := sendParts) (sendCtlRsp_keeps (by decide +kernel) (Keeps.refl _ _)) .cfgCmdSeq (by decide)

/-- An answered request's response is the first that its endpoint holds. -/
theorem ctlAnswer_answered (code : Nat) (r : CtlReq) (st : BitVec 5) (b : Bytes) (s : State) :
    Answered (ctlAnswer code r st 0 b s) code r st b := by
  unfold ctlAnswer Answered
  dsimp only
  rw [sendCtlRsp_cmdSeq]
  exact ⟨_, get?_put_same⟩

theorem ctlEnd_answered (code : Nat) (r : CtlReq) (st : BitVec 5) (s : State) : Answered (ctlEnd code r st s) code r st [] :=
  ctlAnswer_answered code r st [] s

/-! A bit of SEC.STATUS -/

/-- The hardware set of a bit of SEC.STATUS leaves it set; beside it only events change. -/
theorem setStatus_sec_eq (bit : Nat) (s : State) :
    (setStatus .sec bit s).sec = { s.sec with status := s.sec.status.set bit } := by
  have h : KeepsBut eventParts (stUpd s .sec (fun x => x.set bit)) (statusEvent .sec (stUpd s .sec (fun x => x.set bit))) :=
    keepsBut_of_maskOf (enqueue_keeps (by decide +kernel) (Keeps.refl _ _))
  exact h.sec_eq (by decide)

theorem Sticky.set_getLsbD (r : Sticky) {i : Nat} (h : i < 16) : (r.set i).bits.getLsbD i = true := by
  simp [Sticky.set, h]

/-! ATTEST_QUOTE (R415, R417) -/

theorem quoteDue_ctlServed (code : Nat) (r : CtlReq) (s : State) (c : Nat) : quoteDue (ctlServed code r s) c = quoteDue s c := rfl

theorem quoteResults_ctlServed (code : Nat) (r : CtlReq) (s : State) (c : Nat) (b : Bytes) :
    quoteResults (ctlServed code r s) c b = quoteResults s c b := rfl

theorem attestQuote_completes {s : State} {r : CtlReq} (h : CtlReady s 0x70 r) :
    (quoteDue s r.ctx.toNat = true → ∃ t, exec (.attestQuote r) s = .next t ∧ Answered t 0x70 r Sts.ok (quoteResults s r.ctx.toNat r.args)) ∧
    (quoteDue s r.ctx.toNat = false →
      ∃ t, exec (.attestQuote r) s = .next t ∧ Answered t 0x70 r Sts.retry [] ∧ t.sec.status.bits.getLsbD 2 = true) := by
  have hexec : exec (.attestQuote r) s = .next (attestOwn r (ctlServed 0x70 r s)) := congrArg Host.Outcome.next (runCtl_of_ready h)
  refine ⟨fun hdue => ⟨_, hexec, ?_⟩, fun hdue => ⟨_, hexec, ?_⟩⟩ <;> unfold attestOwn <;> dsimp only <;> rw [quoteDue_ctlServed, hdue]
  · exact quoteResults_ctlServed 0x70 r s r.ctx.toNat r.args ▸ ctlAnswer_answered _ _ _ _ _
  · refine ⟨ctlEnd_answered _ _ _ _, ?_⟩
    rw [Bool.not_false, if_pos rfl, ctlEnd_sec, setStatus_sec_eq]
    exact Sticky.set_getLsbD _ (by decide)

/-! Write-limited commands begin (R413) -/

/-- RWL_CHANGE only puts an event into a queue. -/
theorem rwlChange_keepsBut (off n : Nat) (s : State) : KeepsBut eventParts s (rwlChange off n s) :=
  keepsBut_of_maskOf (rwlChange_keeps (by decide +kernel) (Keeps.refl _ _))

/-- A write-limited command with its counter at 0 is DENIED; SEC and MTR stay. -/
theorem rwlBegin_denied {code : Nat} {r : CtlReq} {off left : Nat} (h : left = 0) (s : State) :
    Answered (rwlBegin code r off left s) code r Sts.denied [] ∧ (rwlBegin code r off left s).sec = s.sec ∧
      (rwlBegin code r off left s).mtr = s.mtr := by
  rw [rwlBegin, if_pos h]
  refine ⟨ctlEnd_answered _ _ _ _, ?_, ?_⟩
  · rw [ctlEnd_sec, (rwlChange_keepsBut off 0xFFFFFFFF s).sec_eq (by decide)]
  · rw [ctlEnd_mtr, (rwlChange_keepsBut off 0xFFFFFFFF s).mtr_eq (by decide)]

/-- A write-limited command with its counter above 0 has the service processor read its argument. -/
theorem rwlBegin_reads {code : Nat} {r : CtlReq} {off left : Nat} (h : left ≠ 0) (s : State) :
    (rwlBegin code r off left s).cfg.authWait = some ⟨code, r⟩ ∧ KeepsBut [.cfgAuthWait] s (rwlBegin code r off left s) := by
  rw [rwlBegin, if_neg h]
  exact ⟨rfl, keepsBut_of_maskOf (modCfg_keeps { CfgKeeps.refl _ _ with authWait := .inl rfl } (Keeps.refl _ _))⟩

/-- The reading of a ready request's argument begins. -/
theorem rwlBegin_ready_reads {code : Nat} {r : CtlReq} {off left : Nat} (h : left ≠ 0) (s : State) :
    (rwlBegin code r off left (ctlServed code r s)).cfg.authWait = some ⟨code, r⟩ ∧
      KeepsBut [.cfgSpInbox, .cfgMirrorLog, .cfgAuthWait] s (rwlBegin code r off left (ctlServed code r s)) := by
  obtain ⟨hwait, hkeep⟩ := rwlBegin_reads h (ctlServed code r s)
  exact ⟨hwait, (ctlServed_keepsBut code r s).trans hkeep (by decide) (by decide)⟩

theorem debugUnlock_begins {s : State} {r : CtlReq} (h : CtlReady s 0x71 r) :
    (s.sec.leftDebug = 0 → ∃ t, exec (.debugUnlock r) s = .next t ∧ Answered t 0x71 r Sts.denied [] ∧ t.sec = s.sec) ∧
    (s.sec.leftDebug ≠ 0 → ∃ t, exec (.debugUnlock r) s = .next t ∧ t.cfg.authWait = some ⟨0x71, r⟩ ∧
      KeepsBut [.cfgSpInbox, .cfgMirrorLog, .cfgAuthWait] s t) := by
  have hexec : exec (.debugUnlock r) s = .next (rwlBegin 0x71 r offDebug s.sec.leftDebug (ctlServed 0x71 r s)) :=
    congrArg Host.Outcome.next (runCtl_of_ready (own := fun t => rwlBegin 0x71 r offDebug t.sec.leftDebug t) h)
  refine ⟨fun h0 => ⟨_, hexec, ?_⟩, fun h0 => ⟨_, hexec, rwlBegin_ready_reads h0 s⟩⟩
  obtain ⟨hans, hsec, -⟩ := rwlBegin_denied (code := 0x71) (r := r) (off := offDebug) h0 (ctlServed 0x71 r s)
  exact ⟨hans, hsec⟩

theorem ownerKeyTransfer_begins {s : State} {r : CtlReq} (h : CtlReady s 0x72 r) :
    (r.argLength = 64 → s.sec.ownerKey = none →
      ∃ t, exec (.ownerKeyTransfer r) s = .next t ∧ Answered t 0x72 r Sts.ok [] ∧ t.sec = { s.sec with ownerKey := some r.args }) ∧
    (r.argLength = 64 → s.sec.ownerKey ≠ none →
      ∃ t, exec (.ownerKeyTransfer r) s = .next t ∧ Answered t 0x72 r Sts.denied [] ∧ t.sec = s.sec) ∧
    (r.argLength ≠ 64 → s.cfg.applying = none → s.sec.leftXfer = 0 →
      ∃ t, exec (.ownerKeyTransfer r) s = .next t ∧ Answered t 0x72 r Sts.denied [] ∧ t.sec = s.sec) ∧
    (r.argLength ≠ 64 → s.cfg.applying = none → s.sec.leftXfer ≠ 0 →
      ∃ t, exec (.ownerKeyTransfer r) s = .next t ∧ t.cfg.authWait = some ⟨0x72, r⟩ ∧
        KeepsBut [.cfgSpInbox, .cfgMirrorLog, .cfgAuthWait] s t) := by
  have hexec : exec (.ownerKeyTransfer r) s = .next (ownerKeyOwn r (ctlServed 0x72 r s)) := congrArg Host.Outcome.next (runCtl_of_ready h)
  have hfull (hk : s.sec.ownerKey ≠ none) : (ctlServed 0x72 r s).sec.ownerKey.isSome = true := Option.isSome_iff_ne_none.2 hk
  have hempty (hk : s.sec.ownerKey = none) : ¬ (ctlServed 0x72 r s).sec.ownerKey.isSome = true := by
    rw [ctlServed_sec, hk]
    decide
  have hidle (ha : s.cfg.applying = none) : ¬ (ctlServed 0x72 r s).cfg.applying.isSome = true := by
    rw [show (ctlServed 0x72 r s).cfg.applying = s.cfg.applying from rfl, ha]
    decide
  refine ⟨fun hl hk => ⟨_, hexec, ?_⟩, fun hl hk => ⟨_, hexec, ?_⟩, fun hl ha h0 => ⟨_, hexec, ?_⟩, fun hl ha h0 => ⟨_, hexec, ?_⟩⟩
  · rw [ownerKeyOwn, if_pos hl, if_neg (hempty hk)]
    exact ⟨ctlEnd_answered _ _ _ _, ctlEnd_sec _ _ _ _⟩
  · rw [ownerKeyOwn, if_pos hl, if_pos (hfull hk)]
    exact ⟨ctlEnd_answered _ _ _ _, ctlEnd_sec _ _ _ _⟩
  · rw [ownerKeyOwn, if_neg hl, if_neg (hidle ha)]
    obtain ⟨hans, hsec, -⟩ := rwlBegin_denied (code := 0x72) (r := r) (off := offOwnerSet) h0 (ctlServed 0x72 r s)
    exact ⟨hans, hsec⟩
  · rw [ownerKeyOwn, if_neg hl, if_neg (hidle ha)]
    exact rwlBegin_ready_reads h0 s

theorem meterTariff_begins {s : State} {r : CtlReq} (h : CtlReady s 0x80 r) :
    (meterPresent s = false → ∃ t, exec (.meterTariff r) s = .next t ∧ Answered t 0x80 r Sts.retry [] ∧ t.mtr = s.mtr) ∧
    (meterPresent s = true → s.sec.leftMeter = 0 ∨ s.mtr.meter.elim 0 (·.left) = 0 →
      ∃ t, exec (.meterTariff r) s = .next t ∧ Answered t 0x80 r Sts.denied [] ∧ t.mtr = s.mtr) ∧
    (meterPresent s = true → s.sec.leftMeter ≠ 0 → s.mtr.meter.elim 0 (·.left) ≠ 0 →
      ∃ t, exec (.meterTariff r) s = .next t ∧ t.cfg.authWait = some ⟨0x80, r⟩ ∧ KeepsBut [.cfgSpInbox, .cfgMirrorLog, .cfgAuthWait] s t) := by
  have hexec : exec (.meterTariff r) s = .next (tariffOwn r (ctlServed 0x80 r s)) := congrArg Host.Outcome.next (runCtl_of_ready h)
  have hown : tariffOwn r (ctlServed 0x80 r s) = if !meterPresent s then ctlEnd 0x80 r Sts.retry (ctlServed 0x80 r s)
      else rwlBegin 0x80 r offTariff (Nat.min s.sec.leftMeter (s.mtr.meter.elim 0 (·.left))) (ctlServed 0x80 r s) := rfl
  refine ⟨fun hm => ⟨_, hexec, ?_⟩, fun hm h0 => ⟨_, hexec, ?_⟩, fun hm h1 h2 => ⟨_, hexec, ?_⟩⟩ <;> rw [hown, hm]
  · exact ⟨ctlEnd_answered _ _ _ _, ctlEnd_mtr _ _ _ _⟩
  · obtain ⟨hans, -, hmtr⟩ := rwlBegin_denied (code := 0x80) (r := r) (off := offTariff)
      (left := Nat.min s.sec.leftMeter (s.mtr.meter.elim 0 (·.left))) (Nat.min_eq_zero_iff.2 h0) (ctlServed 0x80 r s)
    exact ⟨hans, hmtr⟩
  · exact rwlBegin_ready_reads (fun h0 => (Nat.min_eq_zero_iff.1 h0).elim h1 h2) s

/-! METER_EXPORT and its end (R432) -/

/-- Sending stores from a service processor changes no job. -/
theorem svcSends_jobs {α : Type} (d : Die) (what : SvcWhat) (g : State → α → Frame) (l : List α) (s : State) :
    (l.foldl (fun t p => svcSend d what (g t p) t) s).cfg.jobs = s.cfg.jobs := by
  have h : Keeps 0x800400000000000000800000040060000002d81600000000 s (l.foldl (fun t p => svcSend d what (g t p) t) s) :=
    keeps_foldl (fun t p => svcSend_keeps (Nat.and_self _) (Keeps.refl _ _)) (Keeps.refl _ _)
  exact h.same .cfgJobs (by decide +kernel)

theorem ctlAnswer_jobs (code : Nat) (r : CtlReq) (st : BitVec 5) (detail : Nat) (b : Bytes) (s : State) :
    (ctlAnswer code r st detail b s).cfg.jobs = s.cfg.jobs := ctlAnswer_keepsBut code r st detail b s .cfgJobs (by decide)

theorem meterExport_starts {s : State} {r : CtlReq} (h : CtlReady s 0x81 r) (hm : meterPresent s = true)
    (hfirst : s.mtr.released ≤ le r.args 0 8) (hlast : le r.args 0 8 + le r.args 8 4 ≤ s.mtr.nextPos) :
    ∃ t, exec (.meterExport r) s = .next t ∧ JobAccepted s t 0x81 r [] := by
  have hexec : exec (.meterExport r) s = .next (exportOwn r (ctlServed 0x81 r s)) := congrArg Host.Outcome.next (runCtl_of_ready h)
  have hm' : meterPresent (ctlServed 0x81 r s) = true := hm
  refine ⟨_, hexec, ?_⟩
  unfold exportOwn newJob
  dsimp only
  rw [hm', ctlServed_mtr, if_neg (by decide), if_neg (Nat.not_lt.2 hfirst), if_neg (Nat.not_lt.2 hlast)]
  refine ⟨ctlAnswer_answered _ _ _ _ _, ?_⟩
  rw [jobAnswer, ctlAnswer_jobs, svcSends_jobs]
  exact List.mem_append_right _ (List.mem_singleton_self _)

/-- The end of a job leaves the meter's side. -/
theorem jobDone_mtr (n : Nat) (st : BitVec 5) (detail : Nat) (s : State) : (jobDone n st detail s).mtr = s.mtr := by
  have h : KeepsBut (.cfgJobs :: eventParts) s (jobDone n st detail s) :=
    keepsBut_of_maskOf (jobDone_keeps (by decide +kernel) (Keeps.refl _ _))
  exact h.mtr_eq (by decide)

/-- Every position listed lies below the maximum of their successors. -/
theorem lt_foldl_max_succ {l : List Nat} {p a : Nat} (h : p ∈ l) : p < l.foldl (fun a p => Nat.max a (p + 1)) a := by
  have hbase : ∀ (l : List Nat) (a : Nat), a ≤ l.foldl (fun a p => Nat.max a (p + 1)) a := by
    intro l
    induction l with
    | nil => exact fun a => le_rfl
    | cons q r ih => exact fun a => (Nat.le_max_left a (q + 1)).trans (ih _)
  induction l generalizing a with
  | nil => cases h
  | cons q r ih =>
    rcases List.mem_cons.1 h with rfl | hr
    · exact Nat.lt_of_lt_of_le (Nat.lt_succ_self p) ((Nat.le_max_right a (p + 1)).trans (hbase r _))
    · exact ih hr

theorem meterExportDone_completes {s : State} {job : Nat} {x : Export} (hx : s.mtr.exports.find? (fun y => y.job == job) = some x)
    (hleft : x.left = 0) :
    ∃ t, exec (.meterExportDone job) s = .next t ∧ (∀ y ∈ t.mtr.exports, y.job ≠ job) ∧
      (x.release = true → x.failed = [] → ∀ r ∈ exportRecs s x.first x.count, r.type = 2 → r.pos < t.mtr.released) := by
  show ∃ t, execMeterExportDone job s = .next t ∧ _
  unfold execMeterExportDone
  rw [hx]
  dsimp only
  rw [if_neg (not_not.2 hleft)]
  refine ⟨_, rfl, ?_, ?_⟩ <;> rw [jobDone_mtr]
  · intro y hy
    simpa using (List.mem_filter.1 hy).2
  · intro hrel hfail r hr htype
    have hpos : r.pos ∈ ((exportRecs s x.first x.count).filter (fun r => r.type == 2)).map (·.pos) :=
      List.mem_map_of_mem (List.mem_filter.2 ⟨hr, by simpa using htype⟩)
    show r.pos < if _ then _ else _
    rw [hrel, hfail, if_pos (by decide)]
    exact lt_foldl_max_succ hpos

/-! An authorisation or a tariff set read (R413, R414, R434, R435) -/

/-- What the reading ends in, by the command that waited for it. -/
theorem exec_authorisationReadDone {s s1 : State} {w : AuthWait} {st : BitVec 5} {b : Bytes} (h : AuthRead s s1 w st b) :
    exec .authorisationReadDone s = .next (if w.code = 0x71 then unlockRead w.req st b s1
      else if w.code = 0x72 then transferRead w.req st b s1 else tariffRead w.req st b s1) := by
  obtain ⟨hwait, hread⟩ := h
  show execAuthorisationReadDone s = _
  unfold execAuthorisationReadDone authDone
  rw [hwait]
  dsimp only
  rw [show (modCfg s (fun c => { c with authWait := none })).cfg.activeSp = s.cfg.activeSp from rfl, hread]
  rfl

/-- An accepted write-limited write is journaled and told; SEC and the tariff stay. -/
theorem rwlAccepted_keepsBut (off n : Nat) (s : State) : KeepsBut (journalParts ++ .lftPorts :: eventParts) s (rwlAccepted off n s) :=
  keepsBut_of_maskOf (rwlAccepted_keeps (by decide +kernel) (Keeps.refl _ _))

theorem rwlAccepted_sec (off n : Nat) (s : State) : (rwlAccepted off n s).sec = s.sec := (rwlAccepted_keepsBut off n s).sec_eq (by decide)

theorem rwlAccepted_mtr (off n : Nat) (s : State) : (rwlAccepted off n s).mtr = s.mtr := (rwlAccepted_keepsBut off n s).mtr_eq (by decide)

theorem unlockRead_completes (r : CtlReq) (b : Bytes) (s : State) :
    match authBad s 1 s.sec.leftDebug b with
    | none => Answered (unlockRead r Sts.ok b s) 0x71 r Sts.ok [] ∧ (unlockRead r Sts.ok b s).sec.unlocked = true ∧
        (unlockRead r Sts.ok b s).sec.scope = BitVec.ofNat 2 (le b 88 8) ∧ (unlockRead r Sts.ok b s).sec.leftDebug = s.sec.leftDebug - 1
    | some e => Answered (unlockRead r Sts.ok b s) 0x71 r e [] ∧ (unlockRead r Sts.ok b s).sec.status.bits.getLsbD 3 = true ∧
        (unlockRead r Sts.ok b s).sec.unlocked = s.sec.unlocked ∧ (unlockRead r Sts.ok b s).sec.leftDebug = s.sec.leftDebug := by
  unfold unlockRead
  rw [if_pos rfl]
  cases authBad s 1 s.sec.leftDebug b with
  | none =>
    dsimp only
    rw [ctlEnd_sec, rwlAccepted_sec]
    exact ⟨ctlEnd_answered _ _ _ _, rfl, rfl, rfl⟩
  | some e =>
    dsimp only
    rw [ctlEnd_sec, setStatus_sec_eq]
    exact ⟨ctlEnd_answered _ _ _ _, Sticky.set_getLsbD _ (by decide), rfl, rfl⟩

/-- The parts that a module reset may change (R398). -/
theorem warmReset_keeps_self (s : State) :
    Keeps 0x3fffffffffffffffffffffbfc081ffffffffffffffffffffffffffffffffffffffffffffffffe s (warmReset s) :=
  warmReset_keeps (Nat.and_self _) (Keeps.refl _ _)

theorem warmReset_ownerKey (s : State) : (warmReset s).sec.ownerKey = s.sec.ownerKey :=
  (warmReset_keeps_self s).same .secOwnerKey (by decide +kernel)

theorem warmReset_leftXfer (s : State) : (warmReset s).sec.leftXfer = s.sec.leftXfer :=
  (warmReset_keeps_self s).same .secLeftXfer (by decide +kernel)

theorem warmReset_transfers (s : State) : (warmReset s).sec.transfers = s.sec.transfers :=
  (warmReset_keeps_self s).same .secTransfers (by decide +kernel)

theorem dropCkpts_sec (s : State) : (dropCkpts s).sec = s.sec := rfl

theorem sendOut_sec (r : CtlReq) (s : State) : (sendOut r s).sec = s.sec := rfl

theorem transferRead_completes (r : CtlReq) (b : Bytes) (s : State) :
    match authBad s 2 s.sec.leftXfer b with
    | none => (transferRead r Sts.ok b s).sec.ownerKey = some (slice b 24 64) ∧
        (transferRead r Sts.ok b s).sec.leftXfer = s.sec.leftXfer - 1 ∧ (transferRead r Sts.ok b s).sec.transfers = s.sec.transfers + 1
    | some e => Answered (transferRead r Sts.ok b s) 0x72 r e [] ∧ (transferRead r Sts.ok b s).sec.status.bits.getLsbD 3 = true ∧
        (transferRead r Sts.ok b s).sec.ownerKey = s.sec.ownerKey ∧ (transferRead r Sts.ok b s).sec.leftXfer = s.sec.leftXfer := by
  unfold transferRead
  rw [if_pos rfl]
  cases authBad s 2 s.sec.leftXfer b with
  | none =>
    dsimp only
    rw [warmReset_ownerKey, warmReset_leftXfer, warmReset_transfers, dropCkpts_sec, sendOut_sec, ctlEnd_sec, rwlAccepted_sec]
    exact ⟨rfl, rfl, rfl⟩
  | some e =>
    dsimp only
    rw [ctlEnd_sec, setStatus_sec_eq]
    exact ⟨ctlEnd_answered _ _ _ _, Sticky.set_getLsbD _ (by decide), rfl, rfl⟩

/-- A record and a SEAL in the log leave the meter and SEC. -/
theorem addSeal_addLog_keepsBut (type flags : Nat) (body : Bytes) (s : State) :
    KeepsBut [.mtrLog, .mtrNewest, .mtrNextPos] s (addSeal (addLog type flags body s)) :=
  keepsBut_of_maskOf (addSeal_keeps (by decide +kernel) (addLog_keeps (by decide +kernel) (Keeps.refl _ _)))

theorem tariffRead_completes (r : CtlReq) (b : Bytes) {s : State} (hm : meterPresent s = true) :
    match tariffBad s b with
    | none => Answered (tariffRead r Sts.ok b s) 0x80 r Sts.ok [] ∧ (tariffRead r Sts.ok b s).mtr.pendingTariff = b ∧
        (tariffRead r Sts.ok b s).mtr.tariffDigest = tariffDigestOf b ∧ (tariffRead r Sts.ok b s).sec.leftMeter = s.sec.leftMeter - 1 ∧
        (tariffRead r Sts.ok b s).mtr.meter.elim 0 (·.left) = s.mtr.meter.elim 0 (·.left) - 1
    | some e => Answered (tariffRead r Sts.ok b s) 0x80 r e [] ∧ (tariffRead r Sts.ok b s).mtr = s.mtr ∧
        (tariffRead r Sts.ok b s).sec.leftMeter = s.sec.leftMeter := by
  unfold tariffRead
  rw [if_pos rfl, if_pos hm]
  cases tariffBad s b with
  | none =>
    dsimp only
    rw [ctlEnd_mtr, ctlEnd_sec, rwlAccepted_mtr, rwlAccepted_sec]
    refine ⟨ctlEnd_answered _ _ _ _, rfl, rfl, rfl, ?_⟩
    have hmeter := addSeal_addLog_keepsBut 3 0 (tariffDigestOf (heldTariff s) ++ tariffDigestOf b ++
      toLE 4 (s.mtr.meter.elim 0 (·.left) - 1) ++ toLE 4 (s.sec.leftMeter - 1)) s .mtrMeter (by decide)
    rw [modMtr_mtr, modSec_mtr]
    dsimp only
    rw [show _ = s.mtr.meter from hmeter]
    cases s.mtr.meter <;> rfl
  | some e =>
    dsimp only
    rw [ctlEnd_mtr, ctlEnd_sec]
    exact ⟨ctlEnd_answered _ _ _ _, rfl, rfl⟩

end Machine
end Sys2Proof

/-! SUPPORT and O54: MODULE_RESET, and the security and meter commands together. -/

namespace Sys2Proof
namespace Machine

/-! What comes after the state of a come-up is built (R479) -/

/-- Parts that are as they were, each of a list. -/
def AllSame (l : List Piece) (s t : State) : Prop := ∀ p ∈ l, p.same s t

theorem AllSame.refl (l : List Piece) (s : State) : AllSame l s s := fun p _ => p.same_refl s

theorem AllSame.trans {l : List Piece} {s t u : State} (h : AllSame l s t) (k : AllSame l t u) : AllSame l s u := fun p hp =>
  Piece.same_trans (h p hp) (k p hp)

/-- A change outside the mask of a list leaves each of its parts. -/
theorem AllSame.of_keeps {m : Nat} {l : List Piece} {s t : State} (h : Keeps m s t) (hm : m &&& maskOf l = 0) : AllSame l s t := fun p hp =>
  same_of_notAmong hm h p (by simpa [notAmong] using hp)

theorem AllSame.ite {l : List Piece} {c : Prop} [Decidable c] {s t u : State} (h : AllSame l s t) (k : AllSame l s u) :
    AllSame l s (if c then t else u) := by
  split
  · exact h
  · exact k

/-- What MODULE_RESET's statement speaks of. -/
def upParts : List Piece := [.cfgJobs, .secOwnerKey, .secRecovery, .secFwSlot, .modPower, .modLastDown]

/-- The cores after a warm reset: MOD is as it was. -/
theorem coresAfter_upParts_of_warm (failed : List Nat) (d : Die) (s : State) : AllSame upParts s (coresAfter true failed d s) := by
  have h : AllSame [.cfgJobs, .secOwnerKey, .secRecovery, .secFwSlot] s (coresAfter true failed d s) :=
    .of_keeps (coresAfter_keeps (Nat.and_self _) (Keeps.refl _ _)) (by decide +kernel)
  have hmod : (coresAfter true failed d s).mod = s.mod := rfl
  intro p hp
  simp only [upParts, List.mem_cons, List.not_mem_nil, or_false] at hp
  rcases hp with rfl | rfl | rfl | rfl | rfl | rfl
  · exact h _ (by decide)
  · exact h _ (by decide)
  · exact h _ (by decide)
  · exact h _ (by decide)
  · exact congrArg ModState.power hmod
  · exact congrArg ModState.lastDown hmod

/-- No job outlives a come-up. -/
theorem chosenCfg_jobs (warm : Bool) (s : State) : (chosenCfg warm s).jobs = [] := by
  unfold chosenCfg
  dsimp only
  split <;> rfl

/-- How a module is after a warm come-up: RUN without a job, its owner key, slot and cause of going down as before. -/
structure CameUp (s t : State) : Prop where
  jobs : t.cfg.jobs = []
  ownerKey : t.sec.ownerKey = s.sec.ownerKey
  recovery : t.sec.recovery = false
  fwSlot : t.sec.fwSlot = s.sec.fwSlot
  power : t.mod.power = .run
  lastDown : t.mod.lastDown = if journalOk s .d0 then s.mod.lastDown else 0

theorem CameUp.of_allSame {s t u : State} (h : CameUp s t) (k : AllSame upParts t u) : CameUp s u where
  jobs := (show u.cfg.jobs = t.cfg.jobs from k .cfgJobs (by decide)).trans h.jobs
  ownerKey := (show u.sec.ownerKey = t.sec.ownerKey from k .secOwnerKey (by decide)).trans h.ownerKey
  recovery := (show u.sec.recovery = t.sec.recovery from k .secRecovery (by decide)).trans h.recovery
  fwSlot := (show u.sec.fwSlot = t.sec.fwSlot from k .secFwSlot (by decide)).trans h.fwSlot
  power := (show u.mod.power = t.mod.power from k .modPower (by decide)).trans h.power
  lastDown := (show u.mod.lastDown = t.mod.lastDown from k .modLastDown (by decide)).trans h.lastDown

theorem comeUp_warm (failed : Two (List Nat)) (s : State) : CameUp s (comeUp failed true s) := by
  unfold comeUp
  extract_lets t sameSet done kept s1 inKept f src s2 s3 s4 told s5 s5a s6 s7 lost
  have h2 : CameUp s s2 := ⟨chosenCfg_jobs true s, rfl, rfl, rfl, rfl, rfl⟩
  clear_value s2
  have h3 : AllSame upParts s2 s3 :=
    (AllSame.of_keeps (keepCounts_keeps (Nat.and_self _) (Keeps.refl _ s2)) (by decide +kernel)).trans
      (.of_keeps (addClassC_keeps (Nat.and_self _) (Keeps.refl _ _)) (by decide +kernel))
  have herase (d : Die) (u : State) : AllSame upParts u (replayErases d u) :=
    .of_keeps (replayErases_keeps (Nat.and_self _) (Keeps.refl _ _)) (by decide +kernel)
  have h4 : AllSame upParts s2 s4 := (h3.trans (herase .d0 s3)).trans (herase .d1 _)
  have htold (d : Die) (u : State) : AllSame upParts u (told d u) :=
    .ite (.of_keeps (enqueue_keeps (Nat.and_self _) (Keeps.refl _ _)) (by decide +kernel)) (.refl _ _)
  clear_value told s4
  have h5 : AllSame upParts s2 s5 := (((h4.trans (htold .d0 s4)).trans (htold .d1 _)).trans (coresAfter_upParts_of_warm failed.d0 .d0 _)).trans
    (coresAfter_upParts_of_warm failed.d1 .d1 _)
  clear_value s5
  have h5a : AllSame upParts s2 s5a :=
    .ite h5 (h5.trans (.of_keeps (raiseArb_keeps (Nat.and_self _) (Keeps.refl _ _)) (by decide +kernel)))
  clear_value s5a
  have hevent (c code : Nat) (data : Bytes) (u : State) : AllSame upParts u (spEvent c code data u) :=
    .of_keeps (spEvent_keeps (Nat.and_self _) (Keeps.refl _ _)) (by decide +kernel)
  have h6 : AllSame upParts s2 s6 :=
    .ite ((h5a.trans (.of_keeps (setStatus_keeps (Nat.and_self _) (Keeps.refl _ _)) (by decide +kernel))).trans (hevent _ _ _ _)) h5a
  clear_value s6
  have h7 : AllSame upParts s2 s7 := by
    clear_value done
    cases done with
    | none => exact h6
    | some a => exact h6.trans (hevent _ _ _ _)
  clear_value s7
  have hlost (d : Die) (u : State) : AllSame upParts u (lost d u) :=
    .ite ((AllSame.of_keeps (modBit_keeps (Nat.and_self _) (Keeps.refl _ _)) (by decide +kernel)).trans
      (.of_keeps (event_keeps (Nat.and_self _) (Keeps.refl _ _)) (by decide +kernel))) (.refl _ _)
  clear_value lost
  exact h2.of_allSame (((h7.trans (hlost .d0 s7)).trans (hlost .d1 _)).trans (hevent _ _ _ _))

/-! Boot (R408) -/

/-- A boot either starts the image of a slot or ends in recovery. -/
theorem boot_cases (failed : Two (List Nat)) (warm pufOk : Bool) (s : State) :
    (∃ k, s.sec.sealed = true ∧ pufOk = true ∧ bootSlot s = some k ∧ boot failed warm pufOk s = bootFrom k failed warm s) ∨
    ((s.sec.sealed = false ∨ pufOk = false ∨ bootSlot s = none) ∧
      ∃ unsealed pufFail, boot failed warm pufOk s = enterRecovery failed warm unsealed pufFail s) := by
  unfold boot
  cases s.sec.sealed with
  | false => exact .inr ⟨.inl rfl, _, _, rfl⟩
  | true =>
    cases pufOk with
    | false => exact .inr ⟨.inr (.inl rfl), _, _, rfl⟩
    | true =>
      cases bootSlot s with
      | none => exact .inr ⟨.inr (.inr rfl), _, _, rfl⟩
      | some k => exact .inl ⟨k, rfl, rfl, rfl, rfl⟩

/-- How a module is in recovery: no job, its owner key and cause of going down as before. -/
structure InRecovery (s t : State) : Prop where
  jobs : t.cfg.jobs = []
  ownerKey : t.sec.ownerKey = s.sec.ownerKey
  recovery : t.sec.recovery = true
  power : t.mod.power = .starting
  lastDown : t.mod.lastDown = if journalOk s .d0 then s.mod.lastDown else 0

theorem enterRecovery_inRecovery (failed : Two (List Nat)) (warm unsealed pufFail : Bool) (s : State) :
    InRecovery s (enterRecovery failed warm unsealed pufFail s) := ⟨rfl, rfl, rfl, rfl, rfl⟩

theorem journalOk_of_same {s t : State} (hx : Piece.ftlCkptX.same s t) (hy : Piece.ftlCkptY.same s t) (d : Die) :
    journalOk t d = journalOk s d := by
  simp only [journalOk, side_field_eq FtlState.ckptX hx d, side_field_eq FtlState.ckptY hy d]

/-- Which slot boots follows from SEC alone. -/
theorem bootSlot_of_sec {s t : State} (h : t.sec = s.sec) : bootSlot t = bootSlot s := by
  unfold bootSlot fwValid
  rw [h]

/-- A warm boot of a slot's image runs from that slot. -/
theorem bootFrom_warm (k : Nat) (failed : Two (List Nat)) (s : State) :
    ∃ u, CameUp u (bootFrom k failed true s) ∧ u.sec.ownerKey = s.sec.ownerKey ∧ u.sec.fwSlot = k ∧ u.mod.lastDown = s.mod.lastDown ∧
      journalOk u .d0 = journalOk s .d0 := by
  unfold bootFrom
  exact ⟨_, comeUp_warm failed _, rfl, rfl, rfl, rfl⟩

/-! MODULE_RESET (R398) -/

/-- The state that a module reset boots from: its work has stopped, its taps are marked, its journal is on media. -/
def resetDown (s : State) : State := flushDown 3 (moduleMarks .d1 (moduleMarks .d0 (stopCompute .d1 (stopCompute .d0 (setAdmit false s)))))

theorem warmReset_eq_boot (s : State) : warmReset s = boot (retiredNow s) true (!s.sec.pufFail) (resetDown s) := by
  unfold warmReset resetDown
  rfl

/-- What going down for a module reset changes. -/
def resetDownParts : List Piece :=
  powerOffParts ++ [.colOps, .colInstances, .colSends, .podQueue, .podCores, .mtrTapSeq, .mtrTapBuf, .mtrBytesCnt, .mtrEscrow]

theorem resetDown_keepsBut (s : State) : KeepsBut resetDownParts s (resetDown s) :=
  keepsBut_of_maskOf (flushDown_keeps (by decide +kernel) (moduleMarks_keeps (by decide +kernel) (moduleMarks_keeps (by decide +kernel)
    (stopCompute_keeps (by decide +kernel) (stopCompute_keeps (by decide +kernel) (setAdmit_keeps (by decide +kernel) (Keeps.refl _ _)))))))

theorem resetDown_sec (s : State) : (resetDown s).sec = s.sec := (resetDown_keepsBut s).sec_eq (by decide)

theorem resetDown_journalOk (s : State) (d : Die) : journalOk (resetDown s) d = journalOk s d :=
  journalOk_of_same (resetDown_keepsBut s .ftlCkptX (by decide)) (resetDown_keepsBut s .ftlCkptY (by decide)) d

theorem resetDown_lastDown (s : State) : (resetDown s).mod.lastDown = 3 := rfl

/-- A warm reset ends without a job, with the owner key it had and LAST_DOWN 3 where the journal reads, in RUN from the slot that boots,
else in recovery (R398, R408). -/
theorem warmReset_completes (s : State) :
    (warmReset s).mod.lastDown = (if journalOk s .d0 = true then 3 else 0) ∧ (warmReset s).cfg.jobs = [] ∧
    (warmReset s).sec.ownerKey = s.sec.ownerKey ∧
    (∀ k, s.sec.sealed = true → s.sec.pufFail = false → bootSlot s = some k →
      (warmReset s).mod.power = .run ∧ (warmReset s).sec.recovery = false ∧ (warmReset s).sec.fwSlot = k) ∧
    (s.sec.sealed = false ∨ s.sec.pufFail = true ∨ bootSlot s = none → (warmReset s).mod.power = .starting ∧ (warmReset s).sec.recovery = true) := by
  have hslot : bootSlot (resetDown s) = bootSlot s := bootSlot_of_sec (resetDown_sec s)
  have hsec : (resetDown s).sec = s.sec := resetDown_sec s
  rcases boot_cases (retiredNow s) true (!s.sec.pufFail) (resetDown s) with ⟨k, hsealed, hpuf, hk, hrun⟩ | ⟨hno, u, p, hrec⟩
  · rw [hsec] at hsealed
    rw [hslot] at hk
    obtain ⟨u, hup, hkey, hfw, hdown, hjournal⟩ := bootFrom_warm k (retiredNow s) (resetDown s)
    rw [warmReset_eq_boot, hrun]
    refine ⟨?_, hup.jobs, ?_, fun j _ _ hj => ⟨hup.power, hup.recovery, ?_⟩, fun hno => ?_⟩
    · rw [hup.lastDown, hjournal, resetDown_journalOk, hdown, resetDown_lastDown]
    · rw [hup.ownerKey, hkey, hsec]
    · rw [hup.fwSlot, hfw, Option.some.inj (hk.symm.trans hj)]
    · rcases hno with h | h | h
      · rw [hsealed] at h
        cases h
      · rw [h] at hpuf
        cases hpuf
      · rw [hk] at h
        cases h
  · have hin := enterRecovery_inRecovery (retiredNow s) true u p (resetDown s)
    rw [hsec, hslot] at hno
    rw [warmReset_eq_boot, hrec]
    refine ⟨?_, hin.jobs, ?_, fun k hsealed hpuf hk => ?_, fun _ => ⟨hin.power, hin.recovery⟩⟩
    · rw [hin.lastDown, resetDown_journalOk, resetDown_lastDown]
    · rw [hin.ownerKey, hsec]
    · rw [hsealed, hpuf, hk] at hno
      rcases hno with h | h | h <;> cases h

/-- MODULE_RESET: its answer leaves SEC and the journal, from which the module then boots (R398). -/
theorem moduleReset_completes {s : State} {r : CtlReq} (h : CtlReady s 0x42 r) : ∃ t, exec (.moduleReset r) s = .next t ∧
    t.mod.lastDown = (if journalOk s .d0 = true then 3 else 0) ∧ t.cfg.jobs = [] ∧ t.sec.ownerKey = s.sec.ownerKey ∧
    (∀ k, s.sec.sealed = true → s.sec.pufFail = false → bootSlot s = some k → t.mod.power = .run ∧ t.sec.recovery = false ∧ t.sec.fwSlot = k) ∧
    (s.sec.sealed = false ∨ s.sec.pufFail = true ∨ bootSlot s = none → t.mod.power = .starting ∧ t.sec.recovery = true) := by
  have hexec : exec (.moduleReset r) s = .next (resetOwn r (ctlServed 0x42 r s)) := congrArg Host.Outcome.next (runCtl_of_ready h)
  have hanswer := ctlEnd_keepsBut 0x42 r Sts.ok (ctlServed 0x42 r s)
  have hsec : (sendOut r (ctlEnd 0x42 r Sts.ok (ctlServed 0x42 r s))).sec = s.sec := by rw [sendOut_sec, ctlEnd_sec, ctlServed_sec]
  have hjournal : journalOk (sendOut r (ctlEnd 0x42 r Sts.ok (ctlServed 0x42 r s))) .d0 = journalOk s .d0 :=
    journalOk_of_same (hanswer .ftlCkptX (by decide)) (hanswer .ftlCkptY (by decide)) .d0
  refine ⟨_, hexec, ?_⟩
  rw [resetOwn, ← hjournal, ← bootSlot_of_sec hsec, ← hsec]
  exact warmReset_completes _

/-- Settles O54: each command by its own lemma, the reading of an authorisation by the command that waited for it. -/
theorem securityAndMeterControlCommandsComplete : Obligations.SecurityAndMeterControlCommandsComplete := by
  refine ⟨fun s r => attestQuote_completes, fun s r => debugUnlock_begins, fun s r => ownerKeyTransfer_begins, fun s r => meterTariff_begins,
    fun s r => meterExport_starts, fun s job x => meterExportDone_completes, fun s s1 w b hread => ?_, fun s r => moduleReset_completes⟩
  have hexec := exec_authorisationReadDone hread
  refine ⟨fun hcode => ⟨_, hexec, ?_⟩, fun hcode => ⟨_, hexec, ?_⟩, fun hcode hm => ⟨_, hexec, ?_⟩⟩ <;> rw [hcode]
  · exact unlockRead_completes w.req b s1
  · exact transferRead_completes w.req b s1
  · exact tariffRead_completes w.req b hm

end Machine
end Sys2Proof

/-! SUPPORT and the first statements of the family 01_organisation_and_timing: memory at reset, the identity, the step on an empty queue.
Here and below what only proofs speak of is `noncomputable`: no code is compiled for it. -/

namespace Sys2Proof
namespace Machine

/-- Settles O5: each part of the state after reset is written out. -/
theorem memoryFormAtReset : Obligations.MemoryFormAtReset := by
  unfold Obligations.MemoryFormAtReset
  exact ⟨rfl, rfl, rfl⟩

/-! The identity (R405) -/

/-- What the factory gives a module once. -/
noncomputable def identityParts : List Piece := [.secSerial, .secSealed, .secDevCert, .secMacBase]

/-- The lifetime counters. -/
noncomputable def lifetimeParts : List Piece := [.secLeftMeter, .secLeftDebug, .secLeftXfer]

/-- No command may change the identity, AUTHORISATION_READ_DONE alone the lifetime counters, and with it OWNER_KEY_TRANSFER the owner key. -/
theorem mayChange_secured (c : Instr) (r : CtlReq) :
    (!identityParts.any (mayChange c) &&
      (lifetimeParts.any (mayChange c) == (c.ctorIdx == Instr.authorisationReadDone.ctorIdx)) &&
      (mayChange c .secOwnerKey ==
        (c.ctorIdx == (Instr.ownerKeyTransfer r).ctorIdx || c.ctorIdx == Instr.authorisationReadDone.ctorIdx))) = true := by
  induction c <;> exact Eq.refl true

theorem ctorIdx_ne_authorisationReadDone {c : Instr} (h : c ≠ .authorisationReadDone) :
    c.ctorIdx ≠ Instr.authorisationReadDone.ctorIdx := fun hc =>
  Instr.authorisationReadDone.elim (motive := fun c => c ≠ .authorisationReadDone → False) c hc (fun h => h rfl) h

theorem ctorIdx_ne_ownerKeyTransfer {c : Instr} (h : ∀ r, c ≠ .ownerKeyTransfer r) (r : CtlReq) :
    c.ctorIdx ≠ (Instr.ownerKeyTransfer r).ctorIdx := fun hc =>
  Instr.ownerKeyTransfer.elim (motive := fun c => (∀ r, c ≠ .ownerKeyTransfer r) → False) c hc (fun q h => h q rfl) h

theorem mayChange_of_any {c : Instr} {l : List Piece} (h : l.any (mayChange c) = false) : ∀ p ∈ l, mayChange c p = false := fun p hp => by
  simpa using List.any_eq_false.1 h p hp

theorem mayChange_identity (c : Instr) : ∀ p ∈ identityParts, mayChange c p = false := by
  have hsecured := mayChange_secured c {}
  simp only [Bool.and_eq_true, Bool.not_eq_true', and_assoc] at hsecured
  exact mayChange_of_any hsecured.1

theorem mayChange_lifetime {c : Instr} (ha : c ≠ .authorisationReadDone) : ∀ p ∈ lifetimeParts, mayChange c p = false := by
  have hsecured := mayChange_secured c {}
  simp only [Bool.and_eq_true, beq_iff_eq, and_assoc] at hsecured
  exact mayChange_of_any (hsecured.2.1.trans (beq_false_of_ne (ctorIdx_ne_authorisationReadDone ha)))

theorem mayChange_ownerKey {c : Instr} (ht : ∀ r, c ≠ .ownerKeyTransfer r) (ha : c ≠ .authorisationReadDone) :
    mayChange c .secOwnerKey = false := by
  have hsecured := mayChange_secured c {}
  simp only [Bool.and_eq_true, beq_iff_eq, and_assoc] at hsecured
  rw [hsecured.2.2, beq_false_of_ne (ctorIdx_ne_ownerKeyTransfer ht {}), beq_false_of_ne (ctorIdx_ne_authorisationReadDone ha)]
  rfl

/-- What a command may not change is as before in the state it answers. -/
theorem same_of_exec {c : Instr} {s t : State} {p : Piece} (h : exec c s = .next t) (hp : mayChange c p = false) : p.same s t := by
  have hsame := exec_same c s p hp
  rwa [h] at hsame

theorem step_keeps_identity {s t : State} (h : step s = .next t) : ∀ p ∈ identityParts, p.same s t := by
  intro p hp
  unfold step at h
  split at h
  · obtain rfl := Host.Outcome.next.inj h
    exact AllSame.of_keeps (l := identityParts) (idle_keeps (Nat.and_self _) (Keeps.refl _ _)) (by decide) p hp
  · refine Piece.same_trans ?_ (same_of_exec h (mayChange_identity _ p hp))
    simp only [identityParts, List.mem_cons, List.not_mem_nil, or_false] at hp
    rcases hp with rfl | rfl | rfl | rfl <;> rfl

/-- Settles O8: what no command may change, by the frame of every command (O3), and what one or two may. -/
theorem identityIsFixed : Obligations.IdentityIsFixed := by
  unfold Obligations.IdentityIsFixed
  refine ⟨fun s t h => ?_, fun c s t h => ⟨fun ht ha => ?_, fun ha => ?_, fun hf => ?_⟩⟩
  · have hid := step_keeps_identity h
    exact ⟨hid .secSerial (by decide), hid .secSealed (by decide), hid .secDevCert (by decide), hid .secMacBase (by decide)⟩
  · exact same_of_exec (p := .secOwnerKey) h (mayChange_ownerKey ht ha)
  · have hleft := fun p hp => same_of_exec (p := p) h (mayChange_lifetime ha p hp)
    exact ⟨hleft .secLeftMeter (by decide), hleft .secLeftDebug (by decide), hleft .secLeftXfer (by decide)⟩
  · exact same_of_exec (p := .secFwArb) h hf

/-! The step on an empty queue (R48, R285, R299 to R301; log 3) -/

theorem issuers_eq_nil {s : State} (h : ∀ (d : Die) (p : Nat), p ∈ listedCores s d → canIssue (coreOf s d p) = false) :
    issuers s = [] := by
  have hnone : ∀ d : Die, (listedCores s d).filter (fun p => canIssue (coreOf s d p)) = [] := fun d =>
    List.filter_eq_nil_iff.2 fun p hp => by simp [h d p hp]
  simp [issuers, hnone]

theorem filter_eq_singleton {l : List Nat} {f : Nat → Bool} {p : Nat} (hmem : p ∈ l) (hnodup : l.Nodup) (hp : f p = true)
    (honly : ∀ q ∈ l, f q = true → q = p) : l.filter f = [p] := by
  have hperm : (l.filter f).Perm [p] := (List.perm_ext_iff_of_nodup (hnodup.filter f) (List.nodup_singleton p)).2 fun q => by
    simp only [List.mem_filter, List.mem_singleton]
    exact ⟨fun h => honly q h.1 h.2, fun h => h ▸ ⟨hmem, hp⟩⟩
  exact List.perm_singleton.1 hperm

theorem issuers_of_onlyIssuer {s : State} {d : Die} {p : Nat} (h : OnlyIssuer s d p) : issuers s = [(d, p)] := by
  obtain ⟨hmem, hnodup, hcan, honly⟩ := h
  have hhere : (listedCores s d).filter (fun q => canIssue (coreOf s d q)) = [p] :=
    filter_eq_singleton hmem hnodup hcan fun q hq hi => (honly d q hq hi).2
  have hthere : ∀ e : Die, e ≠ d → (listedCores s e).filter (fun q => canIssue (coreOf s e q)) = [] := fun e he =>
    List.filter_eq_nil_iff.2 fun q hq hi => he (honly e q hq hi).1
  cases d
  · simp [issuers, hhere, hthere .d1 (by decide)]
  · simp [issuers, hhere, hthere .d0 (by decide)]

theorem pump_of_no_copies {s : State} (h : ∀ d : Die, (side s.tier d).copies = []) : pump s = s := by
  simp [pump, pumpDie, h]

theorem resumeData_of_none_waits {s : State} {d : Die} (h : ∀ o ∈ (side s.col d).ops, o.waits ≠ some .data) : resumeData d s = s := by
  have hnone : (side s.col d).ops.filter (fun o => o.waits == some .data) = [] :=
    List.filter_eq_nil_iff.2 fun o ho => by simpa using h o ho
  simp [resumeData, hnone]

theorem passTime_keepsBut (s : State) : KeepsBut [.modDies, .evBuckets] s (passTime s) :=
  keepsBut_of_maskOf (passTime_keeps (by decide +kernel) (Keeps.refl _ _))

/-- The rows of R300 name each CLASS and OP once, and a row's meaning is its command. -/
theorem podMeaning_of_podCodes {x : Nat × Nat × (Die → Nat → PodF → Instr)} (hx : x ∈ podCodes) :
    podMeaning x.1 x.2.1 = some (fun d p w s => exec (x.2.2 d p w) s) := by
  have hall : podCodes.map (fun x => podMeaning x.1 x.2.1) = podCodes.map (fun x => some (fun d p w s => exec (x.2.2 d p w) s)) := rfl
  exact List.map_inj_left.1 hall x hx

theorem podCodes_codes : podCodes.map (fun x => (x.1, x.2.1)) = podOps.zipIdx.flatMap (fun l => l.1.map (fun y => (l.2, y.1))) := rfl

/-- A CLASS and OP with a meaning stand in a row of R300. -/
theorem podCodes_of_podMeaning {cls op : Nat} {g : PodExec} (h : podMeaning cls op = some g) :
    ∃ x ∈ podCodes, x.1 = cls ∧ x.2.1 = op := by
  obtain ⟨y, hy, -⟩ := Option.map_eq_some_iff.1 h
  have hop : y.1 = op := by simpa using List.find?_some hy
  have hmem := List.mem_of_find?_eq_some hy
  have hcode : (cls, op) ∈ podCodes.map (fun x => (x.1, x.2.1)) := by
    rw [podCodes_codes, List.mem_flatMap]
    unfold nth at hmem
    cases hl : podOps[cls]? with
    | none => rw [hl] at hmem; exact absurd hmem List.not_mem_nil
    | some l =>
      rw [hl] at hmem
      exact ⟨(l, cls), List.mem_zipIdx_iff_getElem?.2 hl, List.mem_map.2 ⟨y, hmem, by rw [hop]⟩⟩
  obtain ⟨x, hx, he⟩ := List.mem_map.1 hcode
  exact ⟨x, hx, congrArg Prod.fst he, congrArg Prod.snd he⟩

/-- The fields of a word as R299 places them. -/
theorem podFields_eq (v : Nat) : podFields v =
    { d := BitVec.ofNat 5 (v / 2 ^ 47), a := BitVec.ofNat 5 (v / 2 ^ 42), b := BitVec.ofNat 5 (v / 2 ^ 37),
      c := BitVec.ofNat 5 (v / 2 ^ 32), fmt := BitVec.ofNat 4 (v / 2 ^ 28), rnd := BitVec.ofNat 2 (v / 2 ^ 26),
      sat := decide (v / 2 ^ 25 % 2 = 1), bit24 := decide (v / 2 ^ 24 % 2 = 1), imm := BitVec.ofNat 24 v } := by
  have hmod : ∀ w n : Nat, BitVec.ofNat w (n % 2 ^ w) = BitVec.ofNat w n := fun w n => BitVec.eq_of_toNat_eq (by simp)
  simp only [podFields, fld, bitAt, Nat.reduceAdd, Nat.reduceSub, hmod, pow_zero, Nat.div_one]
  rfl

theorem runCore_of_row {s t : State} {d : Die} {p v : Nat} {x : Nat × Nat × (Die → Nat → PodF → Instr)}
    (hword : podWord (coreOf s d p) = some v) (hx : x ∈ podCodes) (hcls : v / 2 ^ 58 % 64 = x.1) (hop : v / 2 ^ 52 % 64 = x.2.1)
    (ht : exec (x.2.2 d p (podFields v)) s = .next t) : runCore d p s = t := by
  have hmeaning : podMeaning (fld v 63 58) (fld v 57 52) = some (fun d p w s => exec (x.2.2 d p w) s) := by
    rw [← podMeaning_of_podCodes hx, ← hcls, ← hop]; rfl
  simp [runCore, hword, hmeaning, ht]

theorem runCore_of_no_row {s : State} {d : Die} {p v : Nat} (hcan : canIssue (coreOf s d p) = true)
    (hword : podWord (coreOf s d p) = some v) (hnone : ∀ x ∈ podCodes, v / 2 ^ 58 % 64 = x.1 → v / 2 ^ 52 % 64 ≠ x.2.1) :
    runCore d p s = putCore d p (settle (coreOf s d p) (curThread s d p) (.fault Sts.format)) s := by
  have hmeaning : podMeaning (fld v 63 58) (fld v 57 52) = none := by
    by_contra hsome
    obtain ⟨g, hg⟩ := Option.ne_none_iff_exists'.1 hsome
    obtain ⟨x, hx, hcls, hop⟩ := podCodes_of_podMeaning hg
    exact hnone x hx hcls.symm hop.symm
  simp [runCore, hword, hmeaning, issue, hcan, curThread]

theorem step_of_onlyIssuer {s : State} {d : Die} {p : Nat} (hq : s.pending = []) (h : OnlyIssuer s d p) :
    step s = .next (passTime (resumeData .d1 (resumeData .d0 (pump (runCore d p s))))) := by
  simp [step, hq, idle, runCores, issuers_of_onlyIssuer h]

/-- Settles O2: nothing to do but let time pass; what the passing of time is; and one core that issues. -/
theorem emptyQueueStepRunsCoresAndTime : Obligations.EmptyQueueStepRunsCoresAndTime := by
  unfold Obligations.EmptyQueueStepRunsCoresAndTime
  refine ⟨fun s hq hcores hquiet => ?_, fun s => ⟨rfl, rfl, passTime_keepsBut s⟩,
    fun s d p v hq honly hword => ⟨fun x hx hcls hop => ?_, fun hnone => ?_⟩⟩
  · have hrun : runCores s = s := by simp [runCores, issuers_eq_nil hcores]
    rw [step, hq]
    simp only [idle, hrun, pump_of_no_copies fun d => (hquiet d).1, resumeData_of_none_waits (hquiet .d0).2,
      resumeData_of_none_waits (hquiet .d1).2]
  · obtain ⟨t, ht⟩ := exec_completes (x.2.2 d p (podFields v)) s
    refine ⟨t, podFields_eq v ▸ ht, ?_⟩
    rw [step_of_onlyIssuer hq honly, runCore_of_row hword hx hcls hop ht]
  · rw [step_of_onlyIssuer hq honly, runCore_of_no_row honly.2.2.1 hword hnone]

end Machine
end Sys2Proof

/-! SUPPORT. Events: what queueing one leaves alone, that an event with a destination and room stands in the queue afterwards, and that later
events leave it there (R384, R386). -/

namespace Sys2Proof
namespace Machine

/-! What queueing an event leaves alone -/

/-- Nothing differs but the event queues and what contexts count of events. -/
def OnlyEvents (s t : State) : Prop := t = { s with ctxs := t.ctxs, ev := t.ev }

theorem OnlyEvents.refl (s : State) : OnlyEvents s s := rfl

theorem OnlyEvents.trans {s t u : State} (h : OnlyEvents s t) (k : OnlyEvents t u) : OnlyEvents s u := by
  unfold OnlyEvents at *
  rw [h] at k
  exact k

theorem OnlyEvents.mod {s t : State} (h : OnlyEvents s t) : t.mod = s.mod := by
  unfold OnlyEvents at h
  rw [h]

theorem OnlyEvents.cfg {s t : State} (h : OnlyEvents s t) : t.cfg = s.cfg := by
  unfold OnlyEvents at h
  rw [h]

theorem OnlyEvents.lft {s t : State} (h : OnlyEvents s t) : t.lft = s.lft := by
  unfold OnlyEvents at h
  rw [h]

theorem OnlyEvents.foldl {α : Type} {f : State → α → State} (h : ∀ t a, OnlyEvents t (f t a)) (l : List α) (s : State) :
    OnlyEvents s (l.foldl f s) := by
  induction l generalizing s with
  | nil => exact .refl s
  | cons a r ih => exact (h s a).trans (ih _)

theorem enqueueOnce_onlyEvents (d : Die) (e : EvEntry) (s : State) : OnlyEvents s (enqueueOnce d e s).2.1 := by
  unfold enqueueOnce
  dsimp only
  split_ifs <;> rfl

theorem enqueue_onlyEvents (d : Die) (e : EvEntry) (s : State) : OnlyEvents s (enqueue d e s).1 := by
  have h := enqueueOnce_onlyEvents d e s
  unfold enqueue
  split
  · rename_i s1 cs heq
    rwa [heq] at h
  · rename_i s1 cs heq
    rw [heq] at h
    exact h.trans (enqueueOnce_onlyEvents d _ s1)

theorem statusEvent_onlyEvents (r : StReg) (s : State) : OnlyEvents s (statusEvent r s) := enqueue_onlyEvents _ _ s

theorem queueEntry_eq (d : Die) (e : EvEntry) (s : State) :
    queueEntry d e s = (enqueue d e s).2.foldl (fun t c => statusEvent (.ctx c) t) (enqueue d e s).1 := rfl

theorem event_onlyEvents (d : Die) (c code : Nat) (data : Bytes) (s : State) : OnlyEvents s (event d c code data s) :=
  (enqueue_onlyEvents d _ s).trans (.foldl (fun t c => statusEvent_onlyEvents (.ctx c) t) _ _)

theorem spEvent_onlyEvents (c code : Nat) (data : Bytes) (s : State) : OnlyEvents s (spEvent c code data s) := event_onlyEvents _ c code data s

/-! An entry stays in its queue -/

theorem mem_modFirst_of_not {α : Type} {p : α → Bool} {g : α → α} {l : List α} {x : α} (h : x ∈ l) (hp : p x = false) :
    x ∈ modFirst p g l := by
  induction l with
  | nil => exact h
  | cons y r ih =>
    rw [modFirst]
    rcases List.mem_cons.1 h with rfl | h
    · simp [hp]
    · split
      · exact List.mem_cons_of_mem _ h
      · exact List.mem_cons_of_mem _ (ih h)

theorem exists_mem_modFirst {α : Type} {p : α → Bool} {g : α → α} {l : List α} (h : l.any p = true) :
    ∃ y, p y = true ∧ g y ∈ modFirst p g l := by
  induction l with
  | nil => simp at h
  | cons y r ih =>
    rw [modFirst]
    split
    · rename_i hy
      exact ⟨y, hy, List.mem_cons_self ..⟩
    · rename_i hy
      obtain ⟨z, hz, hmem⟩ := ih (by simpa [hy] using h)
      exact ⟨z, hz, List.mem_cons_of_mem _ hmem⟩

/-- The queue of a die with an event put in: appended, merged into its pending entry, or as it was. -/
theorem enqueueOnce_queue (d : Die) (e : EvEntry) (s : State) :
    (enqueueOnce d e s).2.1.ev = s.ev ∨
    (∃ g, (enqueueOnce d e s).2.1.ev = upd s.ev d (fun v => { v with queue := modFirst (samePending e) g v.queue })) ∨
    (enqueueOnce d e s).2.1.ev = upd s.ev d (fun v => { v with queue := v.queue ++ [e] }) := by
  unfold enqueueOnce
  dsimp only
  split_ifs
  · exact .inl rfl
  · exact .inr (.inl ⟨_, rfl⟩)
  · exact .inr (.inr rfl)
  · exact .inl rfl

theorem mem_enqueueOnce {d a : Die} {e f : EvEntry} {s : State} (hf : f ∈ (side s.ev a).queue) (h : a ≠ d ∨ f.code ≠ e.code) :
    f ∈ (side (enqueueOnce d e s).2.1.ev a).queue := by
  by_cases ha : a = d
  · subst ha
    have hother : samePending e f = false := by
      simp [samePending, Ne.symm (h.resolve_left fun n => n rfl)]
    rcases enqueueOnce_queue a e s with hq | ⟨g, hq⟩ | hq <;> rw [hq]
    · exact hf
    · rw [side_upd_same]
      exact mem_modFirst_of_not hf hother
    · rw [side_upd_same]
      exact List.mem_append_left _ hf
  · rcases enqueueOnce_queue d e s with hq | ⟨g, hq⟩ | hq <;> rw [hq]
    · exact hf
    · rwa [side_upd_other _ _ _ _ ha]
    · rwa [side_upd_other _ _ _ _ ha]

/-- An entry that is neither of an event's code nor EVENTS_LOST stays when the event is queued, and so does every entry of the other die. -/
theorem mem_enqueue {d a : Die} {e f : EvEntry} {s : State} (hf : f ∈ (side s.ev a).queue) (h : a ≠ d ∨ f.code ≠ e.code ∧ f.code ≠ 0xFF) :
    f ∈ (side (enqueue d e s).1.ev a).queue := by
  have h1 := mem_enqueueOnce (e := e) hf (h.imp_right And.left)
  unfold enqueue
  split
  · rename_i s1 cs heq
    rwa [heq] at h1
  · rename_i s1 cs heq
    rw [heq] at h1
    exact mem_enqueueOnce h1 (h.imp_right And.right)

theorem mem_statusEvent {a : Die} {r : StReg} {f : EvEntry} {s : State} (hf : f ∈ (side s.ev a).queue) (hs : f.code ≠ 0x12)
    (hl : f.code ≠ 0xFF) : f ∈ (side (statusEvent r s).ev a).queue := mem_enqueue hf (.inr ⟨hs, hl⟩)

theorem mem_statusEvents {a : Die} {f : EvEntry} (cs : List Nat) {s : State} (hf : f ∈ (side s.ev a).queue) (hs : f.code ≠ 0x12)
    (hl : f.code ≠ 0xFF) : f ∈ (side (cs.foldl (fun t c => statusEvent (.ctx c) t) s).ev a).queue := by
  induction cs generalizing s with
  | nil => exact hf
  | cons c r ih => exact ih (mem_statusEvent hf hs hl)

/-- An event leaves what stands in the other die's queue, but for STATUS_SET and EVENTS_LOST. -/
theorem mem_event_other {d a : Die} {c code : Nat} {data : Bytes} {f : EvEntry} {s : State} (hf : f ∈ (side s.ev a).queue) (ha : a ≠ d)
    (hs : f.code ≠ 0x12) (hl : f.code ≠ 0xFF) : f ∈ (side (event d c code data s).ev a).queue :=
  mem_statusEvents _ (mem_enqueue hf (.inl ha)) hs hl

theorem mem_setStatus_mod {a : Die} {bit : Nat} {f : EvEntry} {s : State} (hf : f ∈ (side s.ev a).queue) (hs : f.code ≠ 0x12)
    (hl : f.code ≠ 0xFF) : f ∈ (side (modBit bit s).ev a).queue := mem_statusEvent (s := stUpd s .mod _) hf hs hl

/-! An event is emitted -/

theorem enqueueOnce_emits {d : Die} {e : EvEntry} {s : State} (hdest : e.dest = none) (hep : eventEp s e.stream ≠ 0)
    (hroom : e.coalesce = true ∨ evRoom (side s.ev d).queue e.stream = true) :
    (enqueueOnce d e s).1 = true ∧
      ∃ f ∈ (side (enqueueOnce d e s).2.1.ev d).queue, f.stream = e.stream ∧ f.code = e.code ∧ f.data = e.data := by
  have hto : ¬ e.dest.getD (eventEp s e.stream) = 0 := by rwa [hdest]
  unfold enqueueOnce
  dsimp only
  rw [if_neg hto]
  split_ifs with hmerge htake
  · refine ⟨rfl, ?_⟩
    obtain ⟨-, hany⟩ := Bool.and_eq_true_iff.1 hmerge
    obtain ⟨y, hy, hmem⟩ := exists_mem_modFirst
      (g := fun o : EvEntry => { o with count := satAdd o.count e.count 0xFFFE, data := e.data }) hany
    simp only [samePending, Bool.and_eq_true, beq_iff_eq] at hy
    refine ⟨{ y with count := satAdd y.count e.count 0xFFFE, data := e.data }, ?_, hy.1.1.symm, hy.1.2.symm, rfl⟩
    show _ ∈ (side (upd s.ev d _) d).queue
    rw [side_upd_same]
    exact hmem
  · refine ⟨rfl, e, ?_, rfl, rfl, rfl⟩
    show _ ∈ (side (upd s.ev d _) d).queue
    rw [side_upd_same]
    exact List.mem_append_right _ (List.mem_singleton_self e)
  · refine absurd ?_ htake
    rcases hroom with h | h <;> simp [h]

theorem enqueue_of_done {d : Die} {e : EvEntry} {s : State} (h : (enqueueOnce d e s).1 = true) : enqueue d e s = (enqueueOnce d e s).2 := by
  unfold enqueue
  split
  · rename_i s1 cs heq
    rw [heq]
  · rename_i s1 cs heq
    rw [heq] at h
    cases h

/-- An event of a code of its own is emitted: it is in the queue, and the STATUS_SET events it may cause leave it there. -/
theorem event_emitted (d : Die) (c code : Nat) (data : Bytes) (s : State) (hs : code ≠ 0x12) (hl : code ≠ 0xFF) :
    Emitted s (event d c code data s) d c code data := by
  intro hep hroom
  obtain ⟨hdone, f, hf, hstream, hcode, hdata⟩ :=
    enqueueOnce_emits (d := d) (e := { stream := c, ctx := c, code := code, coalesce := coalesces code, dest := none, count := 1, data := data })
      rfl hep hroom
  refine ⟨f, ?_, hstream, hcode, hdata⟩
  rw [event, queueEntry_eq, enqueue_of_done hdone]
  exact mem_statusEvents _ hf (hcode ▸ hs) (hcode ▸ hl)

theorem eventEp_of_cfg {s t : State} (h : t.cfg = s.cfg) (c : Nat) : eventEp t c = eventEp s c := by
  unfold eventEp recOf h0Ep
  rw [h]

/-- What is emitted after a change that leaves CFG alone, of a coalescing code, is emitted from before that change. -/
theorem Emitted.of_cfg {s u t : State} {d : Die} {c code : Nat} {data : Bytes} (h : Emitted u t d c code data) (hcfg : u.cfg = s.cfg)
    (hcode : coalesces code = true) : Emitted s t d c code data := fun hep _ =>
  h (by rwa [eventEp_of_cfg hcfg]) (.inl hcode)

/-- What is emitted stays so over a change that leaves the entries of the code. -/
theorem Emitted.of_mem {s u t : State} {d : Die} {c code : Nat} {data : Bytes} (h : Emitted s u d c code data)
    (hkeep : ∀ f ∈ (side u.ev d).queue, f.code = code → f ∈ (side t.ev d).queue) : Emitted s t d c code data := fun hep hroom => by
  obtain ⟨f, hf, hstream, hcode, hdata⟩ := h hep hroom
  exact ⟨f, hkeep f hf hcode, hstream, hcode, hdata⟩

/-! A bit of MOD.STATUS -/

/-- Setting a bit of MOD.STATUS sets it, and else only raises an event. -/
theorem modBit_onlyEvents (bit : Nat) (s : State) : OnlyEvents (modMod s (fun m => { m with status := m.status.set bit })) (modBit bit s) :=
  statusEvent_onlyEvents .mod _

theorem modBit_mod (bit : Nat) (s : State) : (modBit bit s).mod = { s.mod with status := s.mod.status.set bit } := (modBit_onlyEvents bit s).mod

theorem modBit_cfg (bit : Nat) (s : State) : (modBit bit s).cfg = s.cfg := (modBit_onlyEvents bit s).cfg

end Machine
end Sys2Proof

/-! SUPPORT and O56: power down and up, the hold-up test, thermal limits and the input. -/

namespace Sys2Proof
namespace Machine

/-- A change under a mask leaves the parts of a list whose bits the mask does not set. -/
theorem AllSame.of_untouched {m : Nat} {l : List Piece} {s t : State} (h : Keeps m s t) (hm : ∀ p ∈ l, m.testBit p.num = false) :
    AllSame l s t := fun p hp => h.same p (hm p hp)

/-! Going down (R37, R475, R478, R483) -/

theorem flushed_of_allSame {s t u : State} (h : Flushed s t) (k : AllSame [.ftlFlushRegion, .ftlMediaLsn] t u) : Flushed s u := fun d =>
  ⟨(side_field_eq FtlState.flushRegion (k .ftlFlushRegion (by decide)) d).trans (h d).1,
    (side_field_eq FtlState.mediaLsn (k .ftlMediaLsn (by decide)) d).trans (h d).2⟩

/-- What was staged and the journal is the same in two states, so a flush of one is a flush of the other. -/
theorem flushed_from_allSame {s t u : State} (k : AllSame [.ftlStaging, .ftlNextLsn] s t) (h : Flushed t u) : Flushed s u := fun d =>
  ⟨(h d).1.trans (side_field_eq FtlState.staging (k .ftlStaging (by decide)) d),
    (h d).2.trans (by rw [side_field_eq FtlState.nextLsn (k .ftlNextLsn (by decide)) d])⟩

theorem flushDie_both_flushed (s : State) : Flushed s (flushDie .d1 (flushDie .d0 s)) := fun d => by cases d <;> exact ⟨rfl, rfl⟩

theorem flushDown_flushed {cause : Nat} {s : State} (h : s.mod.power = .run) : Flushed s (flushDown cause s) := by
  have hflush : Flushed s (flushDie .d1 (flushDie .d0 (setAdmit false s))) := flushDie_both_flushed (setAdmit false s)
  have hescrow : Flushed s (startEscrow .d1 (startEscrow .d0 (flushDie .d1 (flushDie .d0 (setAdmit false s))))) :=
    flushed_of_allSame hflush (.of_untouched (startEscrow_keeps (Nat.and_self _) (startEscrow_keeps (Nat.and_self _) (Keeps.refl _ _)))
      (by decide))
  unfold flushDown
  dsimp only
  rw [if_pos h]
  exact hescrow

/-- Of what a power-down has left, the meter's own record of it changes only the meter and the draws of free values. -/
theorem meterPowerLoss_allSame (s : State) : AllSame [.ftlFlushRegion, .ftlMediaLsn, .modLastDown, .colOps] s (meterPowerLoss s) :=
  .of_untouched (meterPowerLoss_keeps (Nat.and_self _) (Keeps.refl _ _)) (by decide)

theorem AllSame.subset {a b : List Piece} {s t : State} (h : AllSame b s t) (hs : a ⊆ b) : AllSame a s t := fun p hp => h p (hs hp)

theorem meterPowerLoss_flushDown_flushed {cause : Nat} {s : State} (h : s.mod.power = .run) :
    Flushed s (meterPowerLoss (flushDown cause s)) :=
  flushed_of_allSame (flushDown_flushed h) ((meterPowerLoss_allSame _).subset (by decide))

theorem meterPowerLoss_flushDown_lastDown (cause : Nat) (s : State) : (meterPowerLoss (flushDown cause s)).mod.lastDown = cause :=
  meterPowerLoss_allSame (flushDown cause s) .modLastDown (by decide)

theorem inputLoss_completes (s : State) : ∃ t, exec .inputLoss s = .next t ∧ t.mod.power = .off ∧ t.mod.inputOk = false ∧
    (s.mod.power = .run → Flushed s t ∧ t.mod.lastDown = 1) := by
  show ∃ t, execInputLoss s = .next t ∧ _
  unfold execInputLoss
  dsimp only
  split_ifs with h
  · refine ⟨_, rfl, rfl, rfl, fun hrun => ?_⟩
    rw [hrun] at h
    exact absurd h (by decide)
  · exact ⟨_, rfl, rfl, rfl, fun hrun => ⟨meterPowerLoss_flushDown_flushed hrun, meterPowerLoss_flushDown_lastDown 1 s⟩⟩

theorem thermalTrip_completes {s : State} (d : Die) {tj : Int} (h : 110 ≤ tj) (hrun : s.mod.power = .run) :
    ∃ t, exec (.thermalTrip d tj) s = .next t ∧ t.mod.power = .off ∧ t.mod.lastDown = 2 ∧ Flushed s t := by
  have hexec : exec (.thermalTrip d tj) s =
      .next (modMod (meterPowerLoss (flushDown 2 (noteTj d tj s))) (fun m => { m with power := .off, en := false })) := by
    show execThermalTrip d tj s = _
    rw [execThermalTrip, if_neg (by simp [hrun, h])]
    rfl
  have hdown : (meterPowerLoss (flushDown 2 (noteTj d tj s))).mod.lastDown = 2 := meterPowerLoss_flushDown_lastDown 2 _
  have hflushed : Flushed (noteTj d tj s) (meterPowerLoss (flushDown 2 (noteTj d tj s))) := meterPowerLoss_flushDown_flushed hrun
  exact ⟨_, hexec, rfl, hdown, hflushed⟩

/-- The end of a planned power-down in RUN. -/
theorem endPlanned_completes {s : State} (hrun : s.mod.power = .run) : (endPlanned s).mod.power = .standby ∧
    (endPlanned s).mod.lastDown = 0 ∧ Flushed s (endPlanned s) :=
  ⟨rfl, meterPowerLoss_flushDown_lastDown 0 s, meterPowerLoss_flushDown_flushed hrun⟩

/-- A planned power-down has stopped admission. -/
noncomputable def plannedStart (s : State) : State := modMod (setAdmit false s) (fun m => { m with en := false, planned := true })

theorem execPlannedPowerDown_of_run {s : State} (hrun : s.mod.power = .run) :
    execPlannedPowerDown s = .next (if workLeft s then plannedStart s else endPlanned (plannedStart s)) := by
  have hwork : workLeft (plannedStart s) = workLeft s := rfl
  unfold execPlannedPowerDown
  rw [if_neg (by simp [hrun])]
  show (if workLeft (plannedStart s) = true then _ else _) = _
  rw [hwork]
  split_ifs <;> rfl

theorem plannedStart_keepsBut (s : State) : KeepsBut [.modAdmitting, .modEn, .modPlanned] s (plannedStart s) := by
  refine keepsBut_of_maskOf (modMod_keeps ?_ (setAdmit_keeps (by decide +kernel) (Keeps.refl _ _)))
  constructor <;> first | exact .inr rfl | exact .inl (by decide +kernel)

theorem plannedPowerDown_with_no_work {s : State} (hrun : s.mod.power = .run) (hwork : workLeft s = false) :
    ∃ t, exec .plannedPowerDown s = .next t ∧ t.mod.power = .standby ∧ t.mod.lastDown = 0 ∧ Flushed s t := by
  have hexec : exec .plannedPowerDown s = .next (endPlanned (plannedStart s)) := by
    show execPlannedPowerDown s = _
    rw [execPlannedPowerDown_of_run hrun, if_neg (by simp [hwork])]
  exact ⟨_, hexec, endPlanned_completes (s := plannedStart s) hrun⟩

theorem plannedPowerDown_with_work {s : State} (hrun : s.mod.power = .run) (hwork : workLeft s = true) :
    ∃ t, exec .plannedPowerDown s = .next t ∧ t.mod.power = .run ∧ t.mod.planned = true ∧ t.mod.admitting = ⟨false, false⟩ ∧
      KeepsBut [.modAdmitting, .modEn, .modPlanned] s t := by
  have hexec : exec .plannedPowerDown s = .next (plannedStart s) := by
    show execPlannedPowerDown s = _
    rw [execPlannedPowerDown_of_run hrun, if_pos hwork]
  exact ⟨_, hexec, hrun, rfl, rfl, plannedStart_keepsBut s⟩

theorem stopCompute_both_ops (s : State) (d : Die) : (side (stopCompute .d1 (stopCompute .d0 s)).col d).ops = [] := by
  cases d <;> rfl

theorem plannedDownTimeout_completes {s : State} (hrun : s.mod.power = .run) (hplanned : s.mod.planned = true) :
    ∃ t, exec .plannedDownTimeout s = .next t ∧ t.mod.power = .standby ∧ t.mod.lastDown = 0 ∧ Flushed s t ∧
      ∀ d, (side t.col d).ops = [] := by
  have hexec : exec .plannedDownTimeout s = .next (endPlanned (stopCompute .d1 (stopCompute .d0 s))) := by
    show execPlannedDownTimeout s = _
    rw [execPlannedDownTimeout, if_pos (by simp [hrun, hplanned])]
    rfl
  obtain ⟨hpower, hdown, hflushed⟩ := endPlanned_completes (s := stopCompute .d1 (stopCompute .d0 s)) hrun
  refine ⟨_, hexec, hpower, hdown, hflushed, fun d => ?_⟩
  have hdownOps : AllSame [.colOps] (stopCompute .d1 (stopCompute .d0 s)) (flushDown 0 (stopCompute .d1 (stopCompute .d0 s))) :=
    .of_untouched (flushDown_keeps (Nat.and_self _) (Keeps.refl _ _)) (by decide)
  have hops : Piece.colOps.same (stopCompute .d1 (stopCompute .d0 s)) (meterPowerLoss (flushDown 0 (stopCompute .d1 (stopCompute .d0 s)))) :=
    Piece.same_trans (hdownOps .colOps (by decide)) (meterPowerLoss_allSame _ .colOps (by decide))
  exact (side_field_eq ColState.ops hops d).trans (stopCompute_both_ops s d)

/-! Coming up (R408, R478, R479) -/

theorem inputReturn_completes {s : State} {mv : Nat} (hoff : s.mod.power = .off) (hlo : 44000 ≤ mv) (hhi : mv ≤ 62000) :
    ∃ t, exec (.inputReturn mv) s = .next t ∧ t.mod = { s.mod with power := .standby, inputOk := true, holdupReady := true, inputMv := mv } ∧
      KeepsBut [.modPower, .modInputOk, .modHoldupReady, .modInputMv] s t := by
  have hexec : exec (.inputReturn mv) s =
      .next (modMod s (fun m => { m with power := .standby, inputOk := true, holdupReady := true, inputMv := mv })) := by
    show execInputReturn mv s = _
    rw [execInputReturn, if_neg (by simp only [hoff, ne_eq, not_true_eq_false, false_or, not_or]; omega)]
    rfl
  have hkeeps := execInputReturn_keeps (mv := mv) (s := s)
  rw [show execInputReturn mv s = _ from hexec] at hkeeps
  exact ⟨_, hexec, rfl, keepsBut_of_maskOf (hkeeps.wider (by decide +kernel))⟩

/-- What the statement of POWER_UP speaks of. -/
noncomputable def cameUpParts : List Piece := [.cfgJobs, .cfgActiveSp, .secRecovery, .secFwSlot, .modPower, .modAdmitting]

/-- The cores that fail the self-test of a power-up are retired, and CFG, SEC and MOD are as they were. -/
theorem coresAfter_cameUpParts (failed : List Nat) (d : Die) (s : State) : AllSame cameUpParts s (coresAfter false failed d s) := by
  have hretire (u : State) (p : Nat) : Keeps 0x1800004700000000000000000000000000000000000000000 u (retireCore d p (setStatus (.pod d) 6 u)) :=
    retireCore_keeps (by decide) (setStatus_keeps (by simp only [StReg.mask]; decide) (Keeps.refl _ _))
  exact .of_untouched (keeps_foldl hretire (Keeps.refl _ s)) (by decide)

theorem chosenCfg_activeSp (warm : Bool) (s : State) : (chosenCfg warm s).activeSp = .d0 := by
  unfold chosenCfg
  dsimp only
  split <;> rfl

/-- How a module is after a power-up: RUN from its slot, admitting, without a job. -/
structure PoweredUp (s t : State) : Prop where
  jobs : t.cfg.jobs = []
  activeSp : t.cfg.activeSp = .d0
  recovery : t.sec.recovery = false
  fwSlot : t.sec.fwSlot = s.sec.fwSlot
  power : t.mod.power = .run
  admitting : t.mod.admitting = ⟨true, true⟩

theorem PoweredUp.of_allSame {s t u : State} (h : PoweredUp s t) (k : AllSame cameUpParts t u) : PoweredUp s u where
  jobs := (show u.cfg.jobs = t.cfg.jobs from k .cfgJobs (by decide)).trans h.jobs
  activeSp := (show u.cfg.activeSp = t.cfg.activeSp from k .cfgActiveSp (by decide)).trans h.activeSp
  recovery := (show u.sec.recovery = t.sec.recovery from k .secRecovery (by decide)).trans h.recovery
  fwSlot := (show u.sec.fwSlot = t.sec.fwSlot from k .secFwSlot (by decide)).trans h.fwSlot
  power := (show u.mod.power = t.mod.power from k .modPower (by decide)).trans h.power
  admitting := (show u.mod.admitting = t.mod.admitting from k .modAdmitting (by decide)).trans h.admitting

/-- A cold come-up: from the state it builds, the steps that follow leave what PoweredUp speaks of (R479). -/
theorem comeUp_cold (failed : Two (List Nat)) (s : State) : PoweredUp s (comeUp failed false s) := by
  unfold comeUp
  extract_lets t sameSet done kept s1 inKept f src s2 s3 s4 told s5 s5a s6 s7 lost
  have h2 : PoweredUp s s2 := ⟨chosenCfg_jobs false s, chosenCfg_activeSp false s, rfl, rfl, rfl, rfl⟩
  clear_value s2
  have herase (d : Die) (u : State) : AllSame cameUpParts u (replayErases d u) :=
    .of_untouched (replayErases_keeps (Nat.and_self _) (Keeps.refl _ _)) (by decide)
  have htold (d : Die) (u : State) : AllSame cameUpParts u (told d u) :=
    .ite (.of_untouched (enqueue_keeps (Nat.and_self _) (Keeps.refl _ _)) (by decide)) (.refl _ _)
  have hevent (c code : Nat) (data : Bytes) (u : State) : AllSame cameUpParts u (spEvent c code data u) :=
    .of_untouched (spEvent_keeps (Nat.and_self _) (Keeps.refl _ _)) (by decide)
  have hlost (d : Die) (u : State) : AllSame cameUpParts u (lost d u) :=
    .ite ((AllSame.of_untouched (modBit_keeps (Nat.and_self _) (Keeps.refl _ _)) (by decide)).trans
      (.of_untouched (event_keeps (Nat.and_self _) (Keeps.refl _ _)) (by decide))) (.refl _ _)
  clear_value told lost
  have h3 : AllSame cameUpParts s2 s3 := .of_untouched (addClassC_keeps (Nat.and_self _) (Keeps.refl _ _)) (by decide)
  have h4 : AllSame cameUpParts s2 s4 := (h3.trans (herase .d0 s3)).trans (herase .d1 _)
  clear_value s4
  have h5 : AllSame cameUpParts s2 s5 := (((h4.trans (htold .d0 s4)).trans (htold .d1 _)).trans (coresAfter_cameUpParts failed.d0 .d0 _)).trans
    (coresAfter_cameUpParts failed.d1 .d1 _)
  clear_value s5
  have h5a : AllSame cameUpParts s2 s5a :=
    .ite h5 (h5.trans (.of_untouched (raiseArb_keeps (Nat.and_self _) (Keeps.refl _ _)) (by decide)))
  clear_value s5a
  have h6 : AllSame cameUpParts s2 s6 :=
    .ite ((h5a.trans (.of_untouched (setStatus_keeps (Nat.and_self _) (Keeps.refl _ _)) (by decide))).trans (hevent _ _ _ _)) h5a
  clear_value s6
  have h7 : AllSame cameUpParts s2 s7 := by
    clear_value done
    cases done with
    | none => exact h6
    | some a => exact h6.trans (hevent _ _ _ _)
  clear_value s7
  exact h2.of_allSame (((h7.trans (hlost .d0 s7)).trans (hlost .d1 _)).trans (hevent _ _ _ _))

/-- A cold boot of a slot's image runs from that slot. -/
theorem bootFrom_cold (k : Nat) (failed : Two (List Nat)) (s : State) :
    ∃ u, PoweredUp u (bootFrom k failed false s) ∧ u.sec.fwSlot = k := by
  unfold bootFrom
  exact ⟨_, comeUp_cold failed _, rfl⟩

/-- The state that a power-up boots from: the input is measured and each die knows whether it has the reference clock. -/
noncomputable def powerUpStart (p : PowerUpIn) (s : State) : State :=
  modDie (modDie (modMod s (fun m => { m with inputMv := p.inputMv, inputOk := true })) .d0 (fun x => { x with refLost := !p.refClock }))
    .d1 (fun x => { x with refLost := !p.refClock })

theorem powerUp_completes {s : State} {p : PowerUpIn} (hstandby : s.mod.power = .standby) (hlo : 44000 ≤ p.inputMv) (hhi : p.inputMv ≤ 62000) :
    ∃ t, exec (.powerUp p) s = .next t ∧
      (∀ k, s.sec.sealed = true → p.pufOk = true → bootSlot s = some k → t.mod.power = .run ∧ t.sec.recovery = false ∧
        t.sec.fwSlot = k ∧ t.cfg.jobs = [] ∧ t.mod.admitting = ⟨true, true⟩ ∧ t.cfg.activeSp = .d0) ∧
      (s.sec.sealed = false ∨ p.pufOk = false ∨ bootSlot s = none → t.mod.power = .starting ∧ t.sec.recovery = true) := by
  have hexec : exec (.powerUp p) s = .next (boot p.failed false p.pufOk (powerUpStart p s)) := by
    show execPowerUp p s = _
    rw [execPowerUp, if_neg (by simp [hstandby, Nat.not_lt.2 hlo, Nat.not_lt.2 hhi])]
    rfl
  have hslot : bootSlot (powerUpStart p s) = bootSlot s := bootSlot_of_sec rfl
  have hsealed : (powerUpStart p s).sec.sealed = s.sec.sealed := rfl
  refine ⟨_, hexec, ?_⟩
  rcases boot_cases p.failed false p.pufOk (powerUpStart p s) with ⟨k, hs, hpuf, hk, hrun⟩ | ⟨hno, u, q, hrec⟩
  · obtain ⟨u, hup, hfw⟩ := bootFrom_cold k p.failed (powerUpStart p s)
    rw [hrun]
    rw [hsealed] at hs
    rw [hslot] at hk
    refine ⟨fun j _ _ hj => ⟨hup.power, hup.recovery, ?_, hup.jobs, hup.admitting, hup.activeSp⟩, fun hno => ?_⟩
    · rw [hup.fwSlot, hfw, Option.some.inj (hk.symm.trans hj)]
    · simp [hs, hpuf, hk] at hno
  · have hin := enterRecovery_inRecovery p.failed false u q (powerUpStart p s)
    rw [hrec]
    rw [hsealed, hslot] at hno
    refine ⟨fun k hs hpuf hk => ?_, fun _ => ⟨hin.power, hin.recovery⟩⟩
    simp [hs, hpuf, hk] at hno

/-! Hold-up, heat, input (R477, R483, R490) -/

/-- A bit of MOD.STATUS and an event of the whole switch follow a change that leaves CFG alone. -/
theorem modBit_spEvent_emitted {s u : State} {bit code : Nat} {data : Bytes} (hcfg : u.cfg = s.cfg) (hcode : coalesces code = true)
    (hs : code ≠ 0x12) (hl : code ≠ 0xFF) : Emitted s (spEvent 0 code data (modBit bit u)) s.cfg.activeSp 0 code data := by
  have hsp : (modBit bit u).cfg = s.cfg := (modBit_cfg bit u).trans hcfg
  rw [spEvent, hsp]
  exact (event_emitted _ 0 code data _ hs hl).of_cfg hsp hcode

theorem modBit_spEvent_mod (bit code : Nat) (data : Bytes) (u : State) :
    (spEvent 0 code data (modBit bit u)).mod = { u.mod with status := u.mod.status.set bit } :=
  (spEvent_onlyEvents 0 code data _).mod.trans (modBit_mod bit u)

/-- The state with a hold-up test's result. -/
noncomputable def holdupTested (v : Nat) (s : State) : State :=
  modMod s (fun m => { m with holdup := Nat.min v 0xFFFF, holdupLow := decide (Nat.min v 0xFFFF < 200) })

theorem holdupTest_low {v : Nat} (s : State) (h : v < 200) : ∃ t, exec (.holdupTest v) s = .next t ∧ t.mod.holdup = v ∧
    t.mod.holdupLow = true ∧ t.mod.status.bits.getLsbD 3 = true ∧ Emitted s t s.cfg.activeSp 0 0x72 (toLE 2 v ++ zeros 6) := by
  have hmin : Nat.min v 0xFFFF = v := Nat.min_eq_left (by omega)
  have hexec : exec (.holdupTest v) s = .next (spEvent 0 0x72 (toLE 2 v ++ zeros 6) (modBit 3 (holdupTested v s))) := by
    show execHoldupTest v s = _
    rw [execHoldupTest, holdupTested]
    simp only [hmin, if_pos h]
    rfl
  refine ⟨_, hexec, ?_, ?_, ?_, modBit_spEvent_emitted rfl (by decide) (by decide) (by decide)⟩ <;> rw [modBit_spEvent_mod]
  · exact hmin
  · simp [holdupTested, hmin, h]
  · exact Sticky.set_getLsbD _ (by decide)

theorem holdupTest_enough {v : Nat} (s : State) (h : 200 ≤ v) : ∃ t, exec (.holdupTest v) s = .next t ∧ t.mod.holdup = Nat.min v 0xFFFF ∧
    t.mod.holdupLow = false := by
  have hmin : ¬ Nat.min v 0xFFFF < 200 := Nat.not_lt.2 (Nat.le_min.2 ⟨h, by decide⟩)
  have hexec : exec (.holdupTest v) s = .next (answerMedia .d1 (answerMedia .d0 (holdupTested v s))) := by
    show execHoldupTest v s = _
    rw [execHoldupTest, holdupTested]
    simp only [if_neg hmin]
    rfl
  have hsame : AllSame [.modHoldup, .modHoldupLow] (holdupTested v s) (answerMedia .d1 (answerMedia .d0 (holdupTested v s))) :=
    .of_untouched (answerMedia_keeps (Nat.and_self _) (answerMedia_keeps (Nat.and_self _) (Keeps.refl _ _))) (by decide)
  exact ⟨_, hexec, hsame .modHoldup (by decide), (show _ = _ from hsame .modHoldupLow (by decide)).trans (by simp [holdupTested, hmin])⟩

/-- The state in which a die's thermal hold and what was measured with it are noted. -/
noncomputable def holdNoted (d : Die) (tj inlet : Int) (b : Bool) (s : State) : State :=
  modMod (modDie (noteTj d tj s) d (fun x => { x with thermalHold := b })) (fun m => { m with coolIn := inlet })

theorem holdNoted_side (d : Die) (tj inlet : Int) (b : Bool) (s : State) :
    (side (holdNoted d tj inlet b s).mod.dies d).thermalHold = b ∧ (side (holdNoted d tj inlet b s).mod.dies d).tj = tj := by
  cases d <;> exact ⟨rfl, rfl⟩

theorem thermalEvent_mod (d : Die) (tj inlet : Int) (s : State) : (thermalEvent d tj inlet s).mod = s.mod :=
  (event_onlyEvents d 0 0x71 _ s).mod

/-- The THERMAL event carries the die's hold as it stands. -/
theorem thermalEvent_emitted {s u : State} {d : Die} (tj inlet : Int) {b : Bool} (hcfg : u.cfg = s.cfg)
    (hb : (side u.mod.dies d).thermalHold = b) :
    Emitted s (thermalEvent d tj inlet u) d 0 0x71 (toLE 1 (dieNum d) ++ [tempByte tj, tempByte inlet, BitVec.ofNat 8 (b2n b)] ++ zeros 4) := by
  rw [← hb]
  exact (event_emitted d 0 0x71 _ u (by decide) (by decide)).of_cfg hcfg (by decide)

theorem thermalHoldEnter_completes {s : State} {d : Die} {tj : Int} (inlet : Int) (hhot : 105 < tj) (hno : (side s.mod.dies d).thermalHold = false) :
    ∃ t, exec (.thermalHoldEnter d tj inlet) s = .next t ∧ (side t.mod.dies d).thermalHold = true ∧ (side t.mod.dies d).tj = tj ∧
      t.mod.coolIn = inlet ∧ t.mod.status.bits.getLsbD 0 = true ∧
      Emitted s t d 0 0x71 (toLE 1 (dieNum d) ++ [tempByte tj, tempByte inlet, 1#8] ++ zeros 4) := by
  have hexec : exec (.thermalHoldEnter d tj inlet) s = .next (thermalEvent d tj inlet (modBit 0 (holdNoted d tj inlet true s))) := by
    show execThermalHoldEnter d tj inlet s = _
    rw [execThermalHoldEnter, if_neg (by simp [hno, hhot])]
    rfl
  obtain ⟨hhold, htj⟩ := holdNoted_side d tj inlet true s
  have hmod := modBit_mod 0 (holdNoted d tj inlet true s)
  refine ⟨_, hexec, ?_, ?_, ?_, ?_, thermalEvent_emitted tj inlet (b := true) (modBit_cfg 0 _) (by rw [hmod]; exact hhold)⟩ <;>
    rw [thermalEvent_mod, hmod]
  · exact hhold
  · exact htj
  · rfl
  · exact Sticky.set_getLsbD _ (by decide)

theorem thermalHoldExit_completes {s : State} {d : Die} {tj : Int} (inlet : Int) (hcool : tj ≤ 100)
    (hheld : (side s.mod.dies d).thermalHold = true) :
    ∃ t, exec (.thermalHoldExit d tj inlet) s = .next t ∧ (side t.mod.dies d).thermalHold = false ∧ (side t.mod.dies d).tj = tj ∧
      t.mod.coolIn = inlet ∧ Emitted s t d 0 0x71 (toLE 1 (dieNum d) ++ [tempByte tj, tempByte inlet, 0#8] ++ zeros 4) := by
  have hexec : exec (.thermalHoldExit d tj inlet) s = .next (thermalEvent d tj inlet (holdNoted d tj inlet false s)) := by
    show execThermalHoldExit d tj inlet s = _
    rw [execThermalHoldExit, if_neg (by simp [hheld, hcool])]
    rfl
  obtain ⟨hhold, htj⟩ := holdNoted_side d tj inlet false s
  refine ⟨_, hexec, ?_, ?_, ?_, thermalEvent_emitted tj inlet (b := false) rfl hhold⟩ <;> rw [thermalEvent_mod]
  · exact hhold
  · exact htj
  · rfl

theorem coolantInletHigh_completes {inlet : Int} (s : State) (h : 40 < inlet) : ∃ t, exec (.coolantInletHigh inlet) s = .next t ∧
    t.mod.coolIn = inlet ∧ t.mod.status.bits.getLsbD 7 = true ∧ Emitted s t .d0 0 0x71 (toLE 1 0 ++ [tempByte s.mod.dies.d0.tj,
      tempByte inlet, BitVec.ofNat 8 (b2n s.mod.dies.d0.thermalHold)] ++ zeros 4) := by
  have hmod := modBit_mod 7 (modMod s (fun m => { m with coolIn := inlet }))
  have hexec : exec (.coolantInletHigh inlet) s =
      .next (thermalEvent .d0 s.mod.dies.d0.tj inlet (modBit 7 (modMod s (fun m => { m with coolIn := inlet })))) := by
    show execCoolantInletHigh inlet s = _
    rw [execCoolantInletHigh, if_neg (Int.not_le.2 h)]
    simp only [hmod]
    rfl
  refine ⟨_, hexec, ?_, ?_, thermalEvent_emitted _ inlet (modBit_cfg 7 _) (by rw [hmod]; rfl)⟩ <;> rw [thermalEvent_mod, hmod]
  · rfl
  · exact Sticky.set_getLsbD _ (by decide)

theorem inputLow_completes {mv : Nat} (s : State) (hlo : 44000 ≤ mv) (hhi : mv < 48000) : ∃ t, exec (.inputLow mv) s = .next t ∧
    t.mod.inputMv = mv ∧ t.mod.status.bits.getLsbD 2 = true ∧ Emitted s t s.cfg.activeSp 0 0x76 (toLE 2 mv ++ zeros 6) := by
  have hexec : exec (.inputLow mv) s =
      .next (spEvent 0 0x76 (toLE 2 mv ++ zeros 6) (modBit 2 (modMod s (fun m => { m with inputMv := mv })))) := by
    show execInputLow mv s = _
    rw [execInputLow, if_neg (by omega)]
    rfl
  refine ⟨_, hexec, ?_, ?_, modBit_spEvent_emitted rfl (by decide) (by decide) (by decide)⟩ <;> rw [modBit_spEvent_mod]
  · rfl
  · exact Sticky.set_getLsbD _ (by decide)

/-- Settles O56: each command by its own lemma. -/
theorem powerAndThermalCommandsComplete : Obligations.PowerAndThermalCommandsComplete := by
  unfold Obligations.PowerAndThermalCommandsComplete
  exact ⟨inputLoss_completes, fun s mv => inputReturn_completes, fun s p => powerUp_completes,
    fun s hrun => ⟨plannedPowerDown_with_no_work hrun, plannedPowerDown_with_work hrun, plannedDownTimeout_completes hrun⟩,
    fun s v => ⟨holdupTest_low s, holdupTest_enough s⟩,
    fun s d tj inlet => ⟨thermalHoldEnter_completes inlet, thermalHoldExit_completes inlet, thermalTrip_completes d⟩,
    fun s inlet => coolantInletHigh_completes s, fun s mv => inputLow_completes s⟩

end Machine
end Sys2Proof

/-! SUPPORT and O57: pace and the reference clock, repair in place, the takeover of the service processors. -/

namespace Sys2Proof
namespace Machine

/-! Emission after a change of other parts -/

theorem eventEp_of_same {s t : State} (h : AllSame [.cfgRecords, .cfgUnconfigured, .cfgSwitchId] s t) (c : Nat) :
    eventEp t c = eventEp s c := by
  have hrec : t.cfg.records = s.cfg.records := h .cfgRecords (by decide)
  have hun : t.cfg.unconfigured = s.cfg.unconfigured := h .cfgUnconfigured (by decide)
  have hid : t.cfg.switchId = s.cfg.switchId := h .cfgSwitchId (by decide)
  unfold eventEp recOf h0Ep
  rw [hrec, hun, hid]

/-- What is emitted after a change that leaves the queues and the destinations alone is emitted from before that change. -/
theorem Emitted.of_same {s u t : State} {d : Die} {c code : Nat} {data : Bytes} (h : Emitted u t d c code data)
    (hs : AllSame [.cfgRecords, .cfgUnconfigured, .cfgSwitchId, .evQueue] s u) : Emitted s t d c code data := fun hep hroom => by
  have hqueue : (side u.ev d).queue = (side s.ev d).queue := side_field_eq EvState.queue (hs .evQueue (by decide)) d
  exact h (by rwa [eventEp_of_same (hs.subset (by decide))]) (by rwa [hqueue])

/-! Pace (R45 to R48) -/

/-- The state with the pace of an interval. -/
noncomputable def paceNoted (d : Die) (p : Nat) (s : State) : State :=
  modDie s d (fun y => { y with pace := p, minPace := if y.minPace = 0 then p else Nat.min y.minPace p, paceLow := decide (p < 160000) })

theorem execPaceMeasure_eq (d : Die) (pace : Nat) (s : State) : execPaceMeasure d pace s =
    .next (if decide (pace % 2 ^ 24 < 160000) == (side (refreshReadings d s).mod.dies d).paceLow
      then paceNoted d (pace % 2 ^ 24) (refreshReadings d s)
      else event d 0 0x10 (toLE 1 (b2n (decide (pace % 2 ^ 24 < 160000))) ++ zeros 3 ++ toLE 4 (pace % 2 ^ 24))
        (paceNoted d (pace % 2 ^ 24) (refreshReadings d s))) := by
  unfold execPaceMeasure
  dsimp only
  split_ifs <;> rfl

theorem refreshReadings_pace (d : Die) (s : State) : (side (refreshReadings d s).mod.dies d).paceLow = (side s.mod.dies d).paceLow ∧
    (side (refreshReadings d s).mod.dies d).minPace = (side s.mod.dies d).minPace := by
  cases d <;> exact ⟨rfl, rfl⟩

theorem paceNoted_dies (d : Die) (p : Nat) (s : State) : side (paceNoted d p s).mod.dies d =
    { side s.mod.dies d with
      pace := p, minPace := if (side s.mod.dies d).minPace = 0 then p else Nat.min (side s.mod.dies d).minPace p,
      paceLow := decide (p < 160000) } := by
  cases d <;> rfl

theorem paceMeasure_completes (s : State) (d : Die) (pace : Nat) : ∃ t, exec (.paceMeasure d pace) s = .next t ∧
    (side t.mod.dies d).pace = pace % 2 ^ 24 ∧ (side t.mod.dies d).paceLow = decide (pace % 2 ^ 24 < 160000) ∧
    ((side s.mod.dies d).minPace ≠ 0 → (side t.mod.dies d).minPace = Nat.min (side s.mod.dies d).minPace (pace % 2 ^ 24)) ∧
    ((side s.mod.dies d).paceLow ≠ decide (pace % 2 ^ 24 < 160000) →
      Emitted s t d 0 0x10 (toLE 1 (b2n (decide (pace % 2 ^ 24 < 160000))) ++ zeros 3 ++ toLE 4 (pace % 2 ^ 24))) := by
  obtain ⟨hlow, hmin⟩ := refreshReadings_pace d s
  generalize hp : pace % 2 ^ 24 = p
  have hdies := paceNoted_dies d p (refreshReadings d s)
  have hleast : (side s.mod.dies d).minPace ≠ 0 →
      (side (paceNoted d p (refreshReadings d s)).mod.dies d).minPace = Nat.min (side s.mod.dies d).minPace p := fun hne => by
    rw [hdies, ← hmin]
    exact if_neg (hmin ▸ hne)
  refine ⟨_, execPaceMeasure_eq d pace s, ?_⟩
  rw [hp, hlow]
  split_ifs with hsame
  · refine ⟨by rw [hdies], by rw [hdies], hleast, fun hne => ?_⟩
    exact absurd (beq_iff_eq.1 hsame).symm hne
  · rw [(event_onlyEvents d 0 0x10 _ _).mod]
    exact ⟨by rw [hdies], by rw [hdies], hleast, fun _ => (event_emitted d 0 0x10 _ _ (by decide) (by decide)).of_cfg rfl (by decide)⟩

/-! The reference clock (R49) -/

/-- REF_CLOCK_LOSS on a die. -/
noncomputable def refClockLost (d : Die) (t : State) : State :=
  if (side t.mod.dies d).refLost then t else event d 0 0x11 [1#8] (modBit 1 (modDie t d (fun x => { x with refLost := true })))

/-- REF_CLOCK_RETURN on a die. -/
noncomputable def refClockBack (d : Die) (t : State) : State :=
  if (side t.mod.dies d).refLost then event d 0 0x11 [0#8] (modDie t d (fun x => { x with refLost := false })) else t

theorem Sticky.set_keeps (r : Sticky) (i j : Nat) (h : r.bits.getLsbD j = true) : (r.set i).bits.getLsbD j = true := by
  simp [Sticky.set, h]

theorem refClockLost_mod (d : Die) (t : State) : (refClockLost d t).mod =
    if (side t.mod.dies d).refLost then t.mod
    else { t.mod with dies := upd t.mod.dies d (fun x => { x with refLost := true }), status := t.mod.status.set 1 } := by
  unfold refClockLost
  split_ifs
  · rfl
  · rw [(event_onlyEvents d 0 0x11 _ _).mod, modBit_mod]
    rfl

theorem refClockBack_mod (d : Die) (t : State) : (refClockBack d t).mod =
    if (side t.mod.dies d).refLost then { t.mod with dies := upd t.mod.dies d (fun x => { x with refLost := false }) } else t.mod := by
  unfold refClockBack
  split_ifs
  · rw [(event_onlyEvents d 0 0x11 _ _).mod]
    rfl
  · rfl

theorem refClockLost_cfg (d : Die) (t : State) : (refClockLost d t).cfg = t.cfg := by
  unfold refClockLost
  split_ifs
  · rfl
  · rw [(event_onlyEvents d 0 0x11 _ _).cfg, modBit_cfg]
    rfl

theorem refClockBack_cfg (d : Die) (t : State) : (refClockBack d t).cfg = t.cfg := by
  unfold refClockBack
  split_ifs
  · rw [(event_onlyEvents d 0 0x11 _ _).cfg]
    rfl
  · rfl

theorem refClockLost_emitted {d : Die} {t : State} (h : (side t.mod.dies d).refLost = false) :
    Emitted t (refClockLost d t) d 0 0x11 [1#8] := by
  rw [refClockLost, if_neg (by simp [h])]
  exact (event_emitted d 0 0x11 _ _ (by decide) (by decide)).of_cfg (modBit_cfg 1 _) (by decide)

theorem refClockBack_emitted {d : Die} {t : State} (h : (side t.mod.dies d).refLost = true) :
    Emitted t (refClockBack d t) d 0 0x11 [0#8] := by
  rw [refClockBack, if_pos h]
  exact (event_emitted d 0 0x11 _ _ (by decide) (by decide)).of_cfg rfl (by decide)

theorem mem_refClockLost {d a : Die} {f : EvEntry} {t : State} (hf : f ∈ (side t.ev a).queue) (ha : a ≠ d) (hcode : f.code = 0x11) :
    f ∈ (side (refClockLost d t).ev a).queue := by
  unfold refClockLost
  split_ifs
  · exact hf
  · exact mem_event_other (mem_setStatus_mod (s := modDie t d _) hf (by simp [hcode]) (by simp [hcode])) ha (by simp [hcode]) (by simp [hcode])

theorem mem_refClockBack {d a : Die} {f : EvEntry} {t : State} (hf : f ∈ (side t.ev a).queue) (ha : a ≠ d) (hcode : f.code = 0x11) :
    f ∈ (side (refClockBack d t).ev a).queue := by
  unfold refClockBack
  split_ifs
  · exact mem_event_other (s := modDie t d _) hf ha (by simp [hcode]) (by simp [hcode])
  · exact hf

theorem refClockLost_off (d : Die) (t : State) : (side (refClockLost d t).mod.dies d).refLost = true := by
  rw [refClockLost_mod]
  split_ifs with h
  · exact h
  · exact congrArg DieMod.refLost (side_upd_same t.mod.dies d _)

theorem refClockBack_on (d : Die) (t : State) : (side (refClockBack d t).mod.dies d).refLost = false := by
  rw [refClockBack_mod]
  split_ifs with h
  · exact congrArg DieMod.refLost (side_upd_same t.mod.dies d _)
  · exact Bool.eq_false_of_not_eq_true h

theorem refClockLost_other {d a : Die} (t : State) (ha : a ≠ d) : side (refClockLost d t).mod.dies a = side t.mod.dies a := by
  rw [refClockLost_mod]
  split_ifs
  · rfl
  · exact side_upd_other t.mod.dies d a _ ha

theorem refClockBack_other {d a : Die} (t : State) (ha : a ≠ d) : side (refClockBack d t).mod.dies a = side t.mod.dies a := by
  rw [refClockBack_mod]
  split_ifs
  · exact side_upd_other t.mod.dies d a _ ha
  · rfl

theorem refClockLost_status_keeps (d : Die) {t : State} (h : t.mod.status.bits.getLsbD 1 = true) :
    (refClockLost d t).mod.status.bits.getLsbD 1 = true := by
  rw [refClockLost_mod]
  split_ifs
  · exact h
  · exact Sticky.set_keeps _ 1 1 h

theorem refClockLost_status_sets {d : Die} {t : State} (h : (side t.mod.dies d).refLost = false) :
    (refClockLost d t).mod.status.bits.getLsbD 1 = true := by
  rw [refClockLost_mod, if_neg (by simp [h])]
  exact Sticky.set_getLsbD _ (by decide)

theorem refClockLoss_completes (s : State) : ∃ t, exec .refClockLoss s = .next t ∧ (∀ d, (side t.mod.dies d).refLost = true) ∧
    ∀ d, (side s.mod.dies d).refLost = false → t.mod.status.bits.getLsbD 1 = true ∧ Emitted s t d 0 0x11 [1#8] := by
  refine ⟨refClockLost .d1 (refClockLost .d0 s), rfl, fun d => ?_, fun d hd => ?_⟩
  · cases d with
    | d0 =>
      rw [refClockLost_other _ (by decide)]
      exact refClockLost_off .d0 s
    | d1 => exact refClockLost_off .d1 _
  · cases d with
    | d0 => exact ⟨refClockLost_status_keeps .d1 (refClockLost_status_sets hd),
        (refClockLost_emitted hd).of_mem fun f hf hcode => mem_refClockLost hf (by decide) hcode⟩
    | d1 =>
      have hd1 : (side (refClockLost .d0 s).mod.dies .d1).refLost = false := by rw [refClockLost_other _ (by decide), hd]
      exact ⟨refClockLost_status_sets hd1, (refClockLost_emitted hd1).of_cfg (refClockLost_cfg .d0 s) (by decide)⟩

theorem refClockReturn_completes (s : State) : ∃ t, exec .refClockReturn s = .next t ∧ (∀ d, (side t.mod.dies d).refLost = false) ∧
    ∀ d, (side s.mod.dies d).refLost = true → Emitted s t d 0 0x11 [0#8] := by
  refine ⟨refClockBack .d1 (refClockBack .d0 s), rfl, fun d => ?_, fun d hd => ?_⟩
  · cases d with
    | d0 =>
      rw [refClockBack_other _ (by decide)]
      exact refClockBack_on .d0 s
    | d1 => exact refClockBack_on .d1 _
  · cases d with
    | d0 => exact (refClockBack_emitted hd).of_mem fun f hf hcode => mem_refClockBack hf (by decide) hcode
    | d1 =>
      have hd1 : (side (refClockBack .d0 s).mod.dies .d1).refLost = true := by rw [refClockBack_other _ (by decide), hd]
      exact (refClockBack_emitted hd1).of_cfg (refClockBack_cfg .d0 s) (by decide)

/-! Lanes (R485) -/

theorem subOf_modSub_same (s : State) (p k : Nat) (g : SubState → SubState) : subOf (modSub s p k g) p k = g (subOf s p k) := by
  unfold subOf modSub
  rw [portOf_modPort_same]
  exact getD_changeD_same _ _ _ _

theorem laneAutoSpare_completes {s : State} {port lane : Nat} (hport : port ≤ 64) (hlane : lane ≤ 7) (hauto : s.mod.autoLane = true)
    (hdegraded : (portOf s port).errStatus.bits.getLsbD 7 = true) (hfree : (subOf s port (laneSub s port lane)).retraining = none)
    (hspare : (side s.mod.dies (portDie port)).spareLanes ≠ 0) :
    ∃ t, exec (.laneAutoSpare port lane) s = .next t ∧ (subOf t port (laneSub s port lane)).retraining = some lane ∧
      (side t.mod.dies (portDie port)).spareLanes = (side s.mod.dies (portDie port)).spareLanes - 1 := by
  have hexec : exec (.laneAutoSpare port lane) s = .next (modSub (modDie s (portDie port) (fun x => { x with spareLanes := x.spareLanes - 1 }))
      port (laneSub s port lane) (fun x => { x with retraining := some lane })) := by
    show execLaneAutoSpare port lane s = _
    rw [execLaneAutoSpare, if_pos (by simp [hauto, hdegraded, hfree]), spareLane, if_neg (by simp; omega), if_neg hspare]
    rfl
  refine ⟨_, hexec, ?_, ?_⟩
  · rw [subOf_modSub_same]
  · exact congrArg DieMod.spareLanes (side_upd_same s.mod.dies (portDie port) _)

theorem laneRetrainDone_completes {s : State} {port lane : Nat} (hlane : (subOf s port (laneSub s port lane)).retraining = some lane) :
    ∃ t, exec (.laneRetrainDone port lane) s = .next t ∧ (subOf t port (laneSub s port lane)).retraining = none ∧
      t.mod.lanes = s.mod.lanes ++ [(port, lane)] ∧ t.mod.status.bits.getLsbD 4 = true := by
  show ∃ t, execLaneRetrainDone port lane s = .next t ∧ _
  unfold execLaneRetrainDone
  dsimp only
  rw [if_neg (by simp [hlane])]
  refine ⟨_, rfl, ?_, ?_, ?_⟩
  · rw [subOf, portOf, (event_onlyEvents _ 0 0x73 _ _).lft, (modBit_onlyEvents 4 _).lft]
    exact congrArg SubState.retraining (subOf_modSub_same s port (laneSub s port lane) _)
  · rw [(event_onlyEvents _ 0 0x73 _ _).mod, modBit_mod]
    rfl
  · rw [(event_onlyEvents _ 0 0x73 _ _).mod, modBit_mod]
    exact Sticky.set_getLsbD _ (by decide)

/-! Pseudo-channels (R487) -/

theorem nth_ne_lt {l : List Nat} {i : Nat} (h : nth l i 0 ≠ 0) : i < l.length := by
  by_contra hi
  exact h (by simp [nth, Nat.not_lt.1 hi])

/-- The state in which a pseudo-channel is copied to a spare. -/
noncomputable def pcCopying (stack pc : Nat) (s : State) : State :=
  modMod s (fun m => { m with pcLeft := setAt m.pcLeft stack (nth m.pcLeft stack 0 - 1), pcCopy := m.pcCopy ++ [(stack, pc)] })

theorem sparePc_of_left {stack pc : Nat} {s : State} (h : nth s.mod.pcLeft stack 0 ≠ 0) :
    (sparePc stack pc s).2.mod.pcCopy = s.mod.pcCopy ++ [(stack, pc)] ∧
    nth (sparePc stack pc s).2.mod.pcLeft stack 0 = nth s.mod.pcLeft stack 0 - 1 := by
  have hleft : nth (pcCopying stack pc s).mod.pcLeft stack 0 = nth s.mod.pcLeft stack 0 - 1 := nth_setAt_same (nth_ne_lt h)
  unfold sparePc
  dsimp only
  rw [if_neg h]
  dsimp only
  split_ifs
  · rw [modBit_mod]
    exact ⟨rfl, hleft⟩
  · exact ⟨rfl, hleft⟩

theorem pcAutoSpare_completes {s : State} {stack pc : Nat} (hstack : stack ≤ 3) (hpc : pc ≤ 63) (hauto : s.mod.autoPc = true)
    (hfree : s.mod.pcCopy.contains (stack, pc) = false) : ∃ t, exec (.pcAutoSpare stack pc) s = .next t ∧
      (nth s.mod.pcLeft stack 0 ≠ 0 → t.mod.pcCopy = s.mod.pcCopy ++ [(stack, pc)] ∧
        nth t.mod.pcLeft stack 0 = nth s.mod.pcLeft stack 0 - 1) ∧
      (nth s.mod.pcLeft stack 0 = 0 → t.mod.status.bits.getLsbD 8 = true ∧ t.mod.pcCopy = s.mod.pcCopy) := by
  have hgo : (!s.mod.autoPc || decide (3 < stack) || decide (63 < pc) || s.mod.pcCopy.contains (stack, pc)) = false := by
    rw [hauto, hfree]
    simp
    omega
  show ∃ t, execPcAutoSpare stack pc s = .next t ∧ _
  unfold execPcAutoSpare
  rw [if_neg (by rw [hgo]; decide)]
  split_ifs with hleft
  · refine ⟨_, rfl, fun h => absurd hleft h, fun _ => ?_⟩
    rw [modBit_mod]
    exact ⟨Sticky.set_getLsbD _ (by decide), rfl⟩
  · exact ⟨_, rfl, sparePc_of_left, fun h => absurd h hleft⟩

theorem pcSpareSwitchover_completes {s : State} {stack pc : Nat} (h : s.mod.pcCopy.contains (stack, pc) = true) :
    ∃ t, exec (.pcSpareSwitchover stack pc) s = .next t ∧ t.mod.pcCopy = dropFirst (fun x => x == (stack, pc)) s.mod.pcCopy ∧
      t.mod.status.bits.getLsbD 5 = true := by
  show ∃ t, execPcSpareSwitchover stack pc s = .next t ∧ _
  unfold execPcSpareSwitchover
  rw [if_neg (by rw [h]; decide)]
  refine ⟨_, rfl, ?_⟩
  rw [(event_onlyEvents _ 0 0x74 _ _).mod, modBit_mod]
  exact ⟨rfl, Sticky.set_getLsbD _ (by decide)⟩

/-! Rows (R488) -/

theorem rowRepair_completes {s : State} {stack row : Nat} (hstack : stack ≤ 3) (hauto : s.mod.autoRow = true)
    (hfree : s.mod.rowBusy.contains (stack, row) = false) : ∃ t, exec (.rowRepair stack row) s = .next t ∧
      (s.mod.rowsOut.contains stack = false → t.mod.rowBusy = s.mod.rowBusy ++ [(stack, row)]) ∧
      (s.mod.rowsOut.contains stack = true → t.mod.status.bits.getLsbD 8 = true ∧ t.mod.rowBusy = s.mod.rowBusy) := by
  have hgo : (!s.mod.autoRow || decide (3 < stack) || s.mod.rowBusy.contains (stack, row)) = false := by
    rw [hauto, hfree]
    simp
    omega
  show ∃ t, execRowRepair stack row s = .next t ∧ _
  unfold execRowRepair
  rw [if_neg (by rw [hgo]; decide)]
  split_ifs with hout
  · refine ⟨_, rfl, fun h => absurd (hout.symm.trans h) (by decide), fun _ => ?_⟩
    rw [modBit_mod]
    exact ⟨Sticky.set_getLsbD _ (by decide), rfl⟩
  · exact ⟨_, rfl, fun _ => rfl, fun h => absurd h hout⟩

/-- Serving again what waited for a row leaves the module's own parts (R488). -/
theorem resume_allSame (d : Die) (p : Waiting → Bool) (b : Bool) (s : State) :
    AllSame [.modStatus, .modRows, .modRowBusy] s (resume d p b s) :=
  .of_untouched (resume_keeps (Nat.and_self _) (Keeps.refl _ _)) (by decide)

/-- The state in which a row's repair is counted, and whether it was its stack's last is known. -/
noncomputable def rowReturned (stack row : Nat) (last : Bool) (s : State) : State :=
  modMod { s with freeCtr := s.freeCtr + 1 } (fun m => { m with
    rowBusy := dropFirst (fun x => x == (stack, row)) m.rowBusy, rows := modAt m.rows stack (fun n => satAdd n 1 0xFFFFFFFF),
    rowsOut := if last then insertNat stack m.rowsOut else m.rowsOut })

/-- The repair of a row is reported. -/
noncomputable def rowReported (stack : Nat) (last : Bool) (s : State) : State :=
  event (stackDie stack) 0 0x75 (toLE 1 stack ++ zeros 7) (modBit 6 (if last then modBit 8 s else s))

theorem execRowRepairDone_of_busy {s : State} {stack row : Nat} (h : s.mod.rowBusy.contains (stack, row) = true) :
    ∃ last, execRowRepairDone stack row s = .next (resume .d1 (fun w => w.wait == .row stack row) false
      (resume .d0 (fun w => w.wait == .row stack row) false (rowReported stack last (rowReturned stack row last s)))) := by
  unfold execRowRepairDone
  rw [if_neg (by rw [h]; decide)]
  exact ⟨_, rfl⟩

theorem modBit_rows (bit : Nat) (s : State) : (modBit bit s).mod.rowBusy = s.mod.rowBusy ∧ (modBit bit s).mod.rows = s.mod.rows := by
  rw [modBit_mod]
  exact ⟨rfl, rfl⟩

theorem rowReported_mod (stack : Nat) (last : Bool) (s : State) : (rowReported stack last s).mod.rowBusy = s.mod.rowBusy ∧
    (rowReported stack last s).mod.rows = s.mod.rows ∧ (rowReported stack last s).mod.status.bits.getLsbD 6 = true := by
  obtain ⟨hbusy, hrows⟩ := modBit_rows 6 (if last then modBit 8 s else s)
  have hbit : (modBit 6 (if last then modBit 8 s else s)).mod.status.bits.getLsbD 6 = true := by
    rw [modBit_mod]
    exact Sticky.set_getLsbD _ (by decide)
  rw [rowReported, (event_onlyEvents _ 0 0x75 _ _).mod]
  cases last with
  | false => exact ⟨hbusy, hrows, hbit⟩
  | true => exact ⟨hbusy.trans (modBit_rows 8 s).1, hrows.trans (modBit_rows 8 s).2, hbit⟩

theorem rowRepairDone_completes {s : State} {stack row : Nat} (h : s.mod.rowBusy.contains (stack, row) = true) :
    ∃ t, exec (.rowRepairDone stack row) s = .next t ∧ t.mod.rowBusy = dropFirst (fun x => x == (stack, row)) s.mod.rowBusy ∧
      t.mod.rows = modAt s.mod.rows stack (fun n => satAdd n 1 0xFFFFFFFF) ∧ t.mod.status.bits.getLsbD 6 = true := by
  obtain ⟨last, hexec⟩ := execRowRepairDone_of_busy h
  obtain ⟨hbusy, hrows, hbit⟩ := rowReported_mod stack last (rowReturned stack row last s)
  have hresume := (resume_allSame .d0 (fun w => w.wait == .row stack row) false (rowReported stack last (rowReturned stack row last s))).trans
    (resume_allSame .d1 (fun w => w.wait == .row stack row) false _)
  refine ⟨_, hexec, ?_, ?_, ?_⟩
  · exact Eq.trans (hresume .modRowBusy (by decide)) hbusy
  · exact Eq.trans (hresume .modRows (by decide)) hrows
  · exact (congrArg (fun x : Sticky => x.bits.getLsbD 6) (hresume .modStatus (by decide))).trans hbit

/-! Takeover (R33, R40) -/

/-- What the statement of SP_TAKEOVER speaks of, beside its event. -/
noncomputable def takeoverParts : List Piece :=
  [.cfgActiveSp, .cfgAuthWait, .cfgSpInbox, .cfgMirrorLog, .cfgRecords, .cfgUnconfigured, .cfgSwitchId, .evQueue]

/-- A control request that has no commit record in the mirror log. -/
noncomputable def uncommitted (s : State) (f : Frame) : Bool :=
  f.opcode == Opc.ctlReq && !s.cfg.mirrorLog.any (fun m => m.1 == f.srcEp.toNat && m.2.1 == beNat (slice f.payload 4 4))

/-- The state in which the standby has taken over. -/
noncomputable def takenOver (s : State) : State :=
  modCfg s (fun c => { c with
    activeSp := otherDie s.cfg.activeSp, spInbox := c.spInbox.filter (fun f => !uncommitted s f), authWait := none })

theorem takenOver_allSame (s : State) : AllSame [.cfgRecords, .cfgUnconfigured, .cfgSwitchId, .evQueue] s (takenOver s) := by
  intro p hp
  simp only [List.mem_cons, List.not_mem_nil, or_false] at hp
  rcases hp with rfl | rfl | rfl | rfl
  · rfl
  · rfl
  · rfl
  · exact ⟨rfl, rfl⟩

/-- The answers to what was accepted and not completed. -/
noncomputable def takeoverAnswers (s : State) : State :=
  (s.cfg.spInbox.filter (uncommitted s)).foldl (fun t f => abortCtl (otherDie s.cfg.activeSp) f t)
    (s.cfg.authWait.elim (takenOver s) (fun w => ctlAnswer w.code w.req Sts.aborted 0 [] (takenOver s)))

theorem execSpTakeover_eq (s : State) : execSpTakeover s = .next (spEvent 0 0x13 [] (takeoverAnswers s)) := by
  unfold execSpTakeover takeoverAnswers
  cases s.cfg.authWait <;> rfl

theorem takeoverAnswers_allSame (s : State) : AllSame takeoverParts (takenOver s) (takeoverAnswers s) := by
  have habort (t : State) (f : Frame) :
      Keeps 0x800000000000000000000000040020000002d81600000000 t (abortCtl (otherDie s.cfg.activeSp) f t) :=
    abortCtl_keeps (Nat.and_self _) (Keeps.refl _ _)
  refine AllSame.trans ?_ (.of_untouched (keeps_foldl habort (Keeps.refl _ _)) (by decide))
  cases s.cfg.authWait with
  | none => exact .refl _ _
  | some w => exact .of_untouched (ctlAnswer_keeps (Nat.and_self _) (Keeps.refl _ _)) (by decide)

theorem spTakeover_completes (s : State) : ∃ t, exec .spTakeover s = .next t ∧ t.cfg.activeSp = otherDie s.cfg.activeSp ∧
    t.cfg.authWait = none ∧
    (∀ f ∈ t.cfg.spInbox, f.opcode = Opc.ctlReq →
      s.cfg.mirrorLog.any (fun m => m.1 == f.srcEp.toNat && m.2.1 == beNat (slice f.payload 4 4)) = true) ∧
    Emitted s t (otherDie s.cfg.activeSp) 0 0x13 [] := by
  have hsame := takeoverAnswers_allSame s
  have hactive : (takeoverAnswers s).cfg.activeSp = otherDie s.cfg.activeSp := hsame .cfgActiveSp (by decide)
  have hwait : (takeoverAnswers s).cfg.authWait = none := hsame .cfgAuthWait (by decide)
  have hinbox : (takeoverAnswers s).cfg.spInbox = s.cfg.spInbox.filter (fun f => !uncommitted s f) := hsame .cfgSpInbox (by decide)
  refine ⟨_, execSpTakeover_eq s, ?_⟩
  rw [(spEvent_onlyEvents 0 0x13 [] _).cfg]
  refine ⟨hactive, hwait, fun f hf hreq => ?_, ?_⟩
  · rw [hinbox, List.mem_filter] at hf
    simpa [uncommitted, hreq] using hf.2
  · rw [spEvent, hactive]
    have hevent := event_emitted (otherDie s.cfg.activeSp) 0 0x13 [] (takeoverAnswers s) (by decide) (by decide)
    exact hevent.of_same ((takenOver_allSame s).trans (hsame.subset (by decide)))

/-- Settles O57: each command by its own lemma. -/
theorem clockRepairAndTakeoverCommandsComplete : Obligations.ClockRepairAndTakeoverCommandsComplete := by
  unfold Obligations.ClockRepairAndTakeoverCommandsComplete
  exact ⟨paceMeasure_completes, fun s => ⟨refClockLoss_completes s, refClockReturn_completes s⟩,
    fun s port lane hport hlane => ⟨laneAutoSpare_completes hport hlane, laneRetrainDone_completes⟩,
    fun s stack pc hstack hpc => ⟨pcAutoSpare_completes hstack hpc, pcSpareSwitchover_completes⟩,
    fun s stack row hstack => ⟨rowRepair_completes hstack, fun hbusy _ => rowRepairDone_completes hbusy⟩, spTakeover_completes⟩

end Machine
end Sys2Proof

/-! SUPPORT and O27: FIFOs, what an output takes, the crossing of the stalk. -/

namespace Sys2Proof
namespace Machine

/-- Parts outside a list that a change keeps to. -/
theorem KeepsBut.allSame {l k : List Piece} {s t : State} (h : KeepsBut l s t) (hk : ∀ p ∈ k, p ∉ l) : AllSame k s t := fun p hp =>
  h p (hk p hp)

/-! Output FIFOs (R153) -/

theorem fifoOf_of_same {s t : State} (h : Piece.swcFifos.same s t) (d : Die) (o : Output) (tc : Nat) : fifoOf t d o tc = fifoOf s d o tc := by
  unfold fifoOf
  rw [side_field_eq SwcState.fifos h d]

/-- A list of FIFOs with one of them replaced; an empty FIFO is not listed. -/
noncomputable def withFifo (l : List Fifo) (o : Output) (tc : Nat) (q : List Desc) : List Fifo :=
  if q.isEmpty then l.filter (fun f => !(f.out == o && f.tc == tc))
  else if l.any (fun f => f.out == o && f.tc == tc) then l.map (fun f => if f.out == o && f.tc == tc then { f with queue := q } else f)
  else l ++ [⟨o, tc, q⟩]

theorem find?_map_replaced {l : List Fifo} {o : Output} {tc : Nat} (q : List Desc) (h : l.any (fun f => f.out == o && f.tc == tc) = true) :
    (l.map (fun f => if f.out == o && f.tc == tc then { f with queue := q } else f)).find? (fun f => f.out == o && f.tc == tc) =
      some ⟨o, tc, q⟩ := by
  induction l with
  | nil => simp at h
  | cons f r ih =>
    by_cases hf : (f.out == o && f.tc == tc) = true
    · have hkey : f.out = o ∧ f.tc = tc := by simpa using hf
      simp [hkey.1, hkey.2]
    · have hr : r.any (fun f => f.out == o && f.tc == tc) = true := by simpa [hf] using h
      rw [List.map_cons, if_neg hf, List.find?_cons_of_neg (by exact hf)]
      exact ih hr

theorem find?_withFifo (l : List Fifo) (o : Output) (tc : Nat) (q : List Desc) :
    ((withFifo l o tc q).find? (fun f => f.out == o && f.tc == tc)).elim [] (·.queue) = q := by
  unfold withFifo
  split_ifs with hempty hlisted
  · have hnone : (l.filter (fun f => !(f.out == o && f.tc == tc))).find? (fun f => f.out == o && f.tc == tc) = none :=
      List.find?_eq_none.2 fun f hf hkey => absurd (List.mem_filter.1 hf).2 (by rw [hkey]; decide)
    rw [hnone]
    exact (List.isEmpty_iff.1 hempty).symm
  · rw [find?_map_replaced q hlisted]
    rfl
  · have hnone : l.find? (fun f => f.out == o && f.tc == tc) = none :=
      List.find?_eq_none.2 fun f hf hkey => hlisted (List.any_eq_true.2 ⟨f, hf, hkey⟩)
    rw [List.find?_append, hnone]
    simp

theorem fifoOf_eq_elim (s : State) (d : Die) (o : Output) (tc : Nat) :
    fifoOf s d o tc = ((side s.swc d).fifos.find? (fun f => f.out == o && f.tc == tc)).elim [] (·.queue) := by
  unfold fifoOf
  split
  · rename_i f hf
    rw [hf]
    rfl
  · rename_i hf
    rw [hf]
    rfl

theorem fifoOf_setFifo_same (s : State) (d : Die) (o : Output) (tc : Nat) (q : List Desc) : fifoOf (setFifo s d o tc q) d o tc = q := by
  rw [fifoOf_eq_elim, show (side (setFifo s d o tc q).swc d).fifos = withFifo (side s.swc d).fifos o tc q from
    congrArg SwcState.fifos (side_upd_same s.swc d _)]
  exact find?_withFifo _ o tc q

/-- Into an empty FIFO a frame goes alone: there is nothing to combine it with (R153, R186). -/
theorem pushOut_of_empty {d : Die} {o : Output} {x : Desc} {s : State} (h : fifoOf s d o x.frame.tc.toNat = []) :
    pushOut d o x s = setFifo s d o x.frame.tc.toNat [x] := by
  have hjoin : combineInto (fifoOf s d o x.frame.tc.toNat) x = none := by rw [h]; rfl
  unfold pushOut
  dsimp only
  rw [hjoin, ite_self, h]
  rfl

/-! What an output takes (R160) -/

/-- The frame that the scheduler picks has left its FIFO. -/
noncomputable def offFifo (d : Die) (o : Output) (tc i : Nat) (x : Desc) (s : State) : State := account d o tc (descCells x) (popOut d o tc i s)

theorem exec_egressSend_of_pick {s s1 : State} {d : Die} {o : Output} {tc i : Nat} {x : Desc} (hhold : (side s.swc d).agentHold = [])
    (hdead : deadTc s d o = none) (hpick : pickTc s d o = some (tc, s1)) (hready : readyAt s d o tc = some i)
    (hx : (fifoOf s d o tc)[i]? = some x) : exec (.egressSend d o) s = .next (takeOut d o x (offFifo d o tc i x s1)) := by
  show execEgressSend d o s = _
  rw [execEgressSend, hhold]
  unfold egress
  simp only [hdead, hpick, hready, Option.getD_some, hx]
  rfl

theorem exec_egressSend_of_none {s : State} {d : Die} {o : Output} (hhold : (side s.swc d).agentHold = []) (hdead : deadTc s d o = none)
    (hpick : pickTc s d o = none) : exec (.egressSend d o) s = .next s := by
  show execEgressSend d o s = _
  rw [execEgressSend, hhold]
  unfold egress
  simp only [hdead, hpick]
  rfl

/-- A pick changes only what the scheduler counts. -/
theorem pickTc_keepsBut {s s1 : State} {d : Die} {o : Output} {tc : Nat} (h : pickTc s d o = some (tc, s1)) :
    KeepsBut [.swcDeficits] s s1 := keepsBut_of_maskOf (pickTc_of_eq h (by decide) (Keeps.refl _ _))

theorem offFifo_keepsBut {s s1 : State} {d : Die} {o : Output} {tc : Nat} (i : Nat) (x : Desc) (h : pickTc s d o = some (tc, s1)) :
    KeepsBut [.swcDeficits, .swcFifos] s (offFifo d o tc i x s1) :=
  keepsBut_of_maskOf (account_keeps (by decide) (popOut_keeps (by decide) (pickTc_of_eq h (by decide) (Keeps.refl _ _))))

theorem fifoOf_offFifo {s s1 : State} {d : Die} {o : Output} {tc : Nat} (i : Nat) (x : Desc) (h : pickTc s d o = some (tc, s1)) :
    fifoOf (offFifo d o tc i x s1) d o tc = dropAt (fifoOf s d o tc) i := by
  have haccount : KeepsBut [.swcDeficits] (popOut d o tc i s1) (offFifo d o tc i x s1) :=
    keepsBut_of_maskOf (account_keeps (by decide) (Keeps.refl _ _))
  rw [fifoOf_of_same (haccount .swcFifos (by decide)), popOut, fifoOf_setFifo_same,
    fifoOf_of_same (pickTc_keepsBut h .swcFifos (by decide))]

theorem egressSend_home {s s1 : State} {d : Die} {tc i : Nat} {x : Desc} (hhold : (side s.swc d).agentHold = [])
    (hdead : deadTc s d .home = none) (hpick : pickTc s d .home = some (tc, s1)) (hready : readyAt s d .home tc = some i)
    (hx : (fifoOf s d .home tc)[i]? = some x) : ∃ t, exec (.egressSend d .home) s = .next t ∧
      (side t.home d).inbox = (side s.home d).inbox ++ [x] ∧ fifoOf t d .home tc = dropAt (fifoOf s d .home tc) i := by
  have hoff := offFifo_keepsBut i x hpick
  refine ⟨_, exec_egressSend_of_pick hhold hdead hpick hready hx, ?_, ?_⟩
  · rw [← side_field_eq HomeState.inbox (hoff .homeInbox (by decide)) d]
    exact congrArg HomeState.inbox (side_upd_same _ d _)
  · exact fifoOf_offFifo i x hpick

/-! The stalk (R29, R152, R155) -/

/-- A message goes onto the stalk as its newest, and is held for replay. -/
theorem sendStalk_sends (d : Die) (x : Desc) (s : State) : ∃ y, y.frame = x.frame ∧ y.more = x.more ∧
    (side (sendStalk d x s).swc (otherDie d)).stalkIn =
      (side s.swc (otherDie d)).stalkIn ++ [⟨(side s.swc d).stalkSeq, x.frame.tc.toNat, y, stalkCrc x.frame⟩] ∧
    (side (sendStalk d x s).swc d).stalkReplay =
      (side s.swc d).stalkReplay ++ [⟨(side s.swc d).stalkSeq, x.frame.tc.toNat, y, stalkCrc x.frame⟩] ∧
    (side (sendStalk d x s).swc d).stalkSeq = (side s.swc d).stalkSeq + 1 := by
  have hsame : AllSame [.swcStalkIn, .swcStalkReplay, .swcStalkSeq] s (allocCells (otherDie d) (descCells x) (letGo d x s)).2 :=
    (AllSame.of_untouched (letGo_keeps (Nat.and_self _) (Keeps.refl _ _)) (by decide)).trans
      (.of_untouched (allocCells_keeps (Nat.and_self _) (Keeps.refl _ _)) (by decide))
  unfold sendStalk
  dsimp only
  generalize allocCells (otherDie d) (descCells x) (letGo d x s) = r at hsame ⊢
  obtain ⟨cells, s2⟩ := r
  have hin := side_field_eq SwcState.stalkIn (hsame .swcStalkIn (by decide)) (otherDie d)
  have hreplay := side_field_eq SwcState.stalkReplay (hsame .swcStalkReplay (by decide)) d
  have hseq := side_field_eq SwcState.stalkSeq (hsame .swcStalkSeq (by decide)) d
  rw [← hin, ← hreplay, ← hseq]
  refine ⟨{ x with cells := cells, source := none, viaStalk := true, agent := false }, rfl, rfl, ?_⟩
  cases d <;> exact ⟨rfl, rfl, rfl⟩

theorem egressSend_stalk {s s1 : State} {d : Die} {tc i : Nat} {x : Desc} (hhold : (side s.swc d).agentHold = [])
    (hdead : deadTc s d .stalk = none) (hpick : pickTc s d .stalk = some (tc, s1)) (hready : readyAt s d .stalk tc = some i)
    (hx : (fifoOf s d .stalk tc)[i]? = some x) : ∃ t y, exec (.egressSend d .stalk) s = .next t ∧ y.frame = x.frame ∧ y.more = x.more ∧
      (side t.swc (otherDie d)).stalkIn =
        (side s.swc (otherDie d)).stalkIn ++ [⟨(side s.swc d).stalkSeq, x.frame.tc.toNat, y, stalkCrc x.frame⟩] ∧
      (side t.swc d).stalkReplay = (side s.swc d).stalkReplay ++ [⟨(side s.swc d).stalkSeq, x.frame.tc.toNat, y, stalkCrc x.frame⟩] ∧
      (side t.swc d).stalkSeq = (side s.swc d).stalkSeq + 1 := by
  have hoff := offFifo_keepsBut i x hpick
  obtain ⟨y, hframe, hmore, hin, hreplay, hseq⟩ := sendStalk_sends d x (offFifo d .stalk tc i x s1)
  rw [side_field_eq SwcState.stalkSeq (hoff .swcStalkSeq (by decide)) d] at hin hreplay hseq
  rw [side_field_eq SwcState.stalkIn (hoff .swcStalkIn (by decide)) (otherDie d)] at hin
  rw [side_field_eq SwcState.stalkReplay (hoff .swcStalkReplay (by decide)) d] at hreplay
  exact ⟨_, y, exec_egressSend_of_pick hhold hdead hpick hready hx, hframe, hmore, hin, hreplay, hseq⟩

/-! The wire (R127, R136) -/

theorem putWire_sent (p k : Nat) (tr : Trailer) (f : Frame) (more : List Frame) (corrupt : Bool) (s : State) :
    ∃ y, (putWire p k tr f more corrupt s).lft.sent = s.lft.sent ++ [y] ∧ y.port = p ∧ y.sub = k ∧ y.frame = f := by
  unfold putWire
  extract_lets x sec out s1
  have hs1 : s1.lft.sent = s.lft.sent := by
    show (if sec then _ else _ : State).lft.sent = _
    split_ifs <;> rfl
  exact ⟨out, congrArg (· ++ [out]) hs1, rfl, rfl, rfl⟩

/-- A frame that leaves by a sub-link is the newest one on the wire; HOP counts a link between switches. -/
theorem sendSub_sent (d : Die) (p k : Nat) (x : Desc) (s : State) :
    ∃ y, (sendSub d p k x s).lft.sent = s.lft.sent ++ [y] ∧ y.port = p ∧ y.sub = k ∧
      y.frame = if portRole s p = 4 then { x.frame with hop := x.frame.hop + 1 } else x.frame := by
  unfold sendSub
  extract_lets tc up f more s1 pfc t0 src
  have hsample : s1.lft.sent = s.lft.sent :=
    (AllSame.of_untouched (l := [.lftSent]) (sample_keeps (Nat.and_self _) (Keeps.refl _ s)) (by decide)) .lftSent (by decide)
  have hpep : (if pfc then ([], s1) else pepHit 5 p f s1).2.lft.sent = s1.lft.sent := by
    split_ifs
    · rfl
    · exact (AllSame.of_untouched (l := [.lftSent]) (pepHit_keeps (Nat.and_self _) (Keeps.refl _ s1)) (by decide)) .lftSent (by decide)
  split
  rename_i hits s2 heq
  rw [heq] at hpep
  extract_lets y t s3 s4
  have hs3 : s3.lft.sent = s2.lft.sent := by
    show (if pfc then s2 else modSub s2 p k _).lft.sent = _
    split_ifs <;> rfl
  obtain ⟨z, hz, hport, hsub, hframe⟩ := putWire_sent p k (if pfc then {} else ackTrailer y t) f more (!hits.isEmpty) s3
  have hs4 : s4.lft.sent = s3.lft.sent ++ [z] := hz
  clear_value s4
  have hlast : (noteResponse p f (letGo d x s4)).lft.sent = s4.lft.sent :=
    ((AllSame.of_untouched (l := [.lftSent]) (letGo_keeps (Nat.and_self _) (Keeps.refl _ s4)) (by decide)).trans
      (.of_untouched (noteResponse_keeps (Nat.and_self _) (Keeps.refl _ _)) (by decide))) .lftSent (by decide)
  exact ⟨z, by rw [hlast, hs4, hs3, hpep, hsample], hport, hsub, hframe⟩

theorem portRole_of_same {s t : State} (h : Piece.cfgRecords.same s t) (p : Nat) : portRole t p = portRole s p := by
  unfold portRole recOf
  rw [show t.cfg.records = s.cfg.records from h]

theorem egressSend_sub {s s1 : State} {d : Die} {p k tc i : Nat} {x : Desc} (hhold : (side s.swc d).agentHold = [])
    (hdead : deadTc s d (.sub p k) = none) (hpick : pickTc s d (.sub p k) = some (tc, s1)) (hready : readyAt s d (.sub p k) tc = some i)
    (hx : (fifoOf s d (.sub p k) tc)[i]? = some x) : ∃ t y, exec (.egressSend d (.sub p k)) s = .next t ∧ t.lft.sent = s.lft.sent ++ [y] ∧
      y.port = p ∧ y.sub = k ∧ y.frame = if portRole s p = 4 then { x.frame with hop := x.frame.hop + 1 } else x.frame := by
  have hoff := offFifo_keepsBut i x hpick
  obtain ⟨y, hsent, hport, hsub, hframe⟩ := sendSub_sent d p k x (offFifo d (.sub p k) tc i x s1)
  rw [show _ = s.lft.sent from hoff .lftSent (by decide)] at hsent
  rw [portRole_of_same (hoff .cfgRecords (by decide))] at hframe
  exact ⟨_, y, exec_egressSend_of_pick hhold hdead hpick hready hx, hsent, hport, hsub, hframe⟩

/-! STALK_RECEIVE (R29, R155) -/

/-- The state in which a message has been taken from the stalk and noted as received. -/
noncomputable def stalkTaken (d : Die) (tc : Nat) (m : StalkMsg) (s : State) : State :=
  noteStalk d m (modSwc s d (fun v => { v with stalkIn := dropFirst (fun y => y.tc == tc) v.stalkIn }))

theorem stalkTaken_destOf (d : Die) (tc : Nat) (m : StalkMsg) (s : State) (f : Frame) (path : Nat) :
    destOf (stalkTaken d tc m s) f path = destOf s f path := rfl

theorem stalkTaken_side (d : Die) (tc : Nat) (m : StalkMsg) (s : State) :
    (side (stalkTaken d tc m s).swc d).stalkIn = dropFirst (fun y => y.tc == tc) (side s.swc d).stalkIn ∧
    (side (stalkTaken d tc m s).swc (otherDie d)).stalkReplay = (side s.swc (otherDie d)).stalkReplay.filter (fun y => y.seq != m.seq) := by
  cases d <;> exact ⟨rfl, rfl⟩

theorem deliverMsg_of_plain {d : Die} {x : Desc} {o : Output} {s : State} (hspray : x.trailer.sprayed = false) (hcopies : x.copies = [])
    (hvia : x.via = none) (hdest : destOf s x.frame x.trailer.path.toNat = some (d, o)) (hempty : fifoOf s d o x.frame.tc.toNat = []) :
    deliverMsg d x s = setFifo s d o x.frame.tc.toNat [x] := by
  have hsame : ({ x with frame := x.frame, copies := [] } : Desc) = x := by rw [← hcopies]
  unfold deliverMsg
  dsimp only
  rw [if_neg (by simp [hspray]), hcopies, List.foldl_cons, List.foldl_nil, hsame]
  unfold putOnWay
  simp only [hvia, hdest, if_true]
  exact pushOut_of_empty hempty

theorem stalkReceive_completes {s : State} {d : Die} {tc : Nat} {m : StalkMsg} {o : Output}
    (hm : (side s.swc d).stalkIn.find? (fun y => y.tc == tc) = some m) (hcrc : m.crc = stalkCrc m.desc.frame)
    (hnext : (side s.swc d).stalkNext ≤ m.seq) (hseen : m.seq ∉ (side s.swc d).stalkSeen) (hcopies : m.desc.copies = [])
    (hvia : m.desc.via = none) (hspray : m.desc.trailer.sprayed = false)
    (hdest : destOf s m.desc.frame m.desc.trailer.path.toNat = some (d, o)) (hempty : fifoOf s d o m.desc.frame.tc.toNat = []) :
    ∃ t, exec (.stalkReceive d tc) s = .next t ∧ fifoOf t d o m.desc.frame.tc.toNat = [m.desc] ∧
      (side t.swc d).stalkIn = dropFirst (fun y => y.tc == tc) (side s.swc d).stalkIn ∧
      ∀ y ∈ (side t.swc (otherDie d)).stalkReplay, y.seq ≠ m.seq := by
  have htaken : KeepsBut [.swcStalkIn, .swcStalkNext, .swcStalkSeen, .swcStalkReplay] s (stalkTaken d tc m s) := by
    refine keepsBut_of_maskOf (noteStalk_keeps (by decide) (modSwc_keeps ?_ (Keeps.refl _ _)))
    constructor <;> first | exact .inr rfl | exact .inl (by decide)
  have hdeliver : deliverMsg d m.desc (stalkTaken d tc m s) = setFifo (stalkTaken d tc m s) d o m.desc.frame.tc.toNat [m.desc] :=
    deliverMsg_of_plain hspray hcopies hvia (by rw [stalkTaken_destOf, hdest]) (by rw [fifoOf_of_same (htaken .swcFifos (by decide)), hempty])
  have hexec : exec (.stalkReceive d tc) s = .next (setFifo (stalkTaken d tc m s) d o m.desc.frame.tc.toNat [m.desc]) := by
    show execStalkReceive d tc s = _
    rw [← hdeliver, execStalkReceive]
    dsimp only
    rw [hm]
    dsimp only
    rw [if_neg (by simp [hseen, Nat.not_lt.2 hnext]), if_neg (by simp [hcrc])]
    rfl
  have hput : KeepsBut [.swcFifos] (stalkTaken d tc m s) (setFifo (stalkTaken d tc m s) d o m.desc.frame.tc.toNat [m.desc]) :=
    keepsBut_of_maskOf (setFifo_keeps (by decide) (Keeps.refl _ _))
  obtain ⟨hin, hreplay⟩ := stalkTaken_side d tc m s
  refine ⟨_, hexec, fifoOf_setFifo_same _ d o _ _, ?_, fun y hy => ?_⟩
  · rw [side_field_eq SwcState.stalkIn (hput .swcStalkIn (by decide)) d, hin]
  · rw [side_field_eq SwcState.stalkReplay (hput .swcStalkReplay (by decide)) (otherDie d), hreplay, List.mem_filter] at hy
    simpa using hy.2

/-! STALK_FAILURE (R30) -/

theorem stalkFailure_completes (s : State) : ∃ t, exec .stalkFailure s = .next t ∧ t.mod.stalkFailed = true ∧ t.mod.admitting.d0 = false ∧
    t.mod.admitting.d1 = false ∧ KeepsBut [.modAdmitting, .modStalkFailed] s t := by
  exact ⟨_, rfl, rfl, rfl, rfl, keepsBut_of_maskOf (execStalkFailure_keeps.wider (by decide +kernel))⟩

/-- Settles O27: EGRESS_SEND by the output that takes the frame, STALK_RECEIVE and STALK_FAILURE. -/
theorem egressAndStalkComplete : Obligations.EgressAndStalkComplete := by
  unfold Obligations.EgressAndStalkComplete
  exact ⟨fun s d o => exec_egressSend_of_none, fun s s1 d tc i x => egressSend_home, fun s s1 d tc i x => egressSend_stalk,
    fun s s1 d p k tc i x => egressSend_sub, fun s d tc m o => stalkReceive_completes, stalkFailure_completes⟩

end Machine
end Sys2Proof

/-! SUPPORT and O25: a load through the stages of an ingress, and a frame whose HCRC is wrong. -/

namespace Sys2Proof
namespace Machine

/-! What the ingress changes on the way of a frame that nothing holds -/

/-- A state with other ports, another switch core and other counts of port bytes. -/
noncomputable def arrivedWith (s : State) (ports : Dict PortState) (swc : Two SwcState) (total here : Two Nat) : State :=
  { s with lft := { s.lft with ports := ports }, swc := swc, cfg := { s.cfg with totalBytes := total, localBytes := here } }

/-- A frame is on its way through a port: only ports, the switch core and the counts of port bytes differ, and of them neither what the port
holds, records and awaits, nor stops, nor FIFOs. -/
structure InArrival (p : Nat) (s t : State) : Prop where
  form : ∃ ports swc total here, t = arrivedWith s ports swc total here
  held : heldAt (portOf t p) = heldAt (portOf s p)
  acquires : (portOf t p).acquires = (portOf s p).acquires
  writeRec : (portOf t p).writeRec = (portOf s p).writeRec
  stops : Piece.swcStops.same s t
  fifos : Piece.swcFifos.same s t

theorem InArrival.refl (p : Nat) (s : State) : InArrival p s s := ⟨⟨_, _, _, _, rfl⟩, rfl, rfl, rfl, ⟨rfl, rfl⟩, ⟨rfl, rfl⟩⟩

theorem InArrival.trans {p : Nat} {s t u : State} (h : InArrival p s t) (k : InArrival p t u) : InArrival p s u where
  form := by
    obtain ⟨_, _, _, _, ht⟩ := h.form
    obtain ⟨ports, swc, total, here, hu⟩ := k.form
    exact ⟨ports, swc, total, here, by rw [hu, ht]; rfl⟩
  held := k.held.trans h.held
  acquires := k.acquires.trans h.acquires
  writeRec := k.writeRec.trans h.writeRec
  stops := Piece.same_trans h.stops k.stops
  fifos := Piece.same_trans h.fifos k.fifos

theorem modPort_inArrival (p : Nat) {g : PortState → PortState} (s : State)
    (hg : ∀ x, heldAt (g x) = heldAt x ∧ (g x).acquires = x.acquires ∧ (g x).writeRec = x.writeRec) : InArrival p s (modPort s p g) where
  form := ⟨_, s.swc, s.cfg.totalBytes, s.cfg.localBytes, rfl⟩
  held := by rw [portOf_modPort_same, (hg _).1]
  acquires := by rw [portOf_modPort_same, (hg _).2.1]
  writeRec := by rw [portOf_modPort_same, (hg _).2.2]
  stops := ⟨rfl, rfl⟩
  fifos := ⟨rfl, rfl⟩

theorem modSub_inArrival (p k : Nat) (g : SubState → SubState) (s : State) : InArrival p s (modSub s p k g) :=
  modPort_inArrival p s fun _ => ⟨rfl, rfl, rfl⟩

theorem notePn_inArrival (p k : Nat) (w : WireFrame) (s : State) : InArrival p s (notePn p k w s) := by
  unfold notePn
  split_ifs
  · exact modSub_inArrival p k _ s
  · exact .refl p s

theorem allocCells_inArrival (p : Nat) (d : Die) (n : Nat) (s : State) : InArrival p s (allocCells d n s).2 where
  form := ⟨s.lft.ports, _, s.cfg.totalBytes, s.cfg.localBytes, rfl⟩
  held := rfl
  acquires := rfl
  writeRec := rfl
  stops := by cases d <;> exact ⟨rfl, rfl⟩
  fifos := by cases d <;> exact ⟨rfl, rfl⟩

theorem countLocal_inArrival (p : Nat) (x : Desc) (s : State) : InArrival p s (countLocal p x s) := by
  unfold countLocal
  dsimp only
  split
  · exact .refl p s
  · split
    · exact .refl p s
    · exact ⟨⟨s.lft.ports, s.swc, _, _, rfl⟩, rfl, rfl, rfl, ⟨rfl, rfl⟩, ⟨rfl, rfl⟩⟩

/-! What of the state the checks of an ingress ask is the same on that way -/

section
variable {p : Nat} {s t : State} (h : InArrival p s t)
include h

theorem InArrival.portPfc (q : Nat) : portPfc t q = portPfc s q := by
  obtain ⟨_, _, _, _, rfl⟩ := h.form
  rfl

theorem InArrival.attachment (q : Nat) : attachment t q = attachment s q := by
  obtain ⟨_, _, _, _, rfl⟩ := h.form
  rfl

theorem InArrival.subEp (q k : Nat) : subEp t q k = subEp s q k := by
  obtain ⟨_, _, _, _, rfl⟩ := h.form
  rfl

theorem InArrival.answersFor (sw : Nat) : answersFor t sw = answersFor s sw := by
  obtain ⟨_, _, _, _, rfl⟩ := h.form
  rfl

theorem InArrival.destOf (f : Frame) (path : Nat) : destOf t f path = destOf s f path := by
  obtain ⟨_, _, _, _, rfl⟩ := h.form
  rfl

theorem InArrival.passesChecks {e : BitVec 16} {f : Frame} (k : PassesChecks s p e f) : PassesChecks t p e f := by
  obtain ⟨_, _, _, _, rfl⟩ := h.form
  exact k

end

/-! What holds a frame at an ingress (R165, R176, R179, R389, R390, R467) -/

/-- Nothing at a port holds a request of a frame's flow that is taken. -/
def NothingHeld (s : State) (p : Nat) (f : Frame) : Prop :=
  (side s.swc (portDie p)).stops = [] ∧ heldAt (portOf s p) = [] ∧ (portOf s p).acquires = [] ∧ s.flt.pepper = [] ∧ rated s f = false ∧
    writeRecFull s p = false

theorem InArrival.nothingHeld {p : Nat} {s t : State} {f : Frame} (h : InArrival p s t) (k : NothingHeld s p f) : NothingHeld t p f := by
  obtain ⟨hstops, hheld, hacq, hpep, hrate, hrec⟩ := k
  refine ⟨?_, h.held.trans hheld, h.acquires.trans hacq, ?_, ?_, ?_⟩
  · rw [side_field_eq SwcState.stops h.stops, hstops]
  · obtain ⟨_, _, _, _, rfl⟩ := h.form
    exact hpep
  · obtain ⟨_, _, _, _, rfl⟩ := h.form
    exact hrate
  · rw [writeRecFull, writeRecCount, h.writeRec]
    exact hrec

theorem recWait_of_heldAt_nil {x : PortState} (h : heldAt x = []) : x.recWait = [] := (List.append_eq_nil_iff.1 h).2

theorem blocked_of_nothingHeld {s : State} {p : Nat} {f : Frame} (h : NothingHeld s p f) (g : HeldFrame) : blocked s p g = false := by
  obtain ⟨-, hheld, hacq, -, -, -⟩ := h
  simp [blocked, heldByFlow, heldByAcquire, hheld, hacq]

theorem pepHit_of_no_rules {s : State} (h : s.flt.pepper = []) (kind p : Nat) (f : Frame) : pepHit kind p f s = ([], s) := by
  simp [pepHit, h]

/-! A load through the stages -/

/-- What a frame is that the statement speaks of: a load of no payload, without acquire or release. -/
structure PlainLoad (f : Frame) : Prop where
  opcode : f.opcode = Opc.ld
  acq : f.acq = false
  rel : f.rel = false
  payload : f.payload = []

/-- A load for an output of the port's own die enters that output's FIFO (R152, R153). -/
theorem forward_of_local {s : State} {d : Die} {x : Desc} {o : Output} (hvia : x.via = none) (hhere : answersFor s (destSwitch x.frame) = true)
    (hdest : destOf s x.frame 0 = some (d, o)) : forward d x 0 s = pushOut d o x s := by
  have hway : putOnWay d x 0 s = pushOut d o x s := by
    rw [putOnWay, hvia, hdest]
    exact if_pos rfl
  have henter : enter d x 0 s = putOnWay d x 0 s := by
    rw [enter, hhere]
    rfl
  have hlost : toLost s x.frame = false := by simp [toLost, hhere]
  rw [forward, hlost, if_neg Bool.false_ne_true, henter, hway]

/-- A load leaves its ingress by being passed on. -/
theorem stageLeave_of_load {s : State} {p : Nat} {h : HeldFrame} (hload : PlainLoad h.desc.frame) (hport : attachment s p = true)
    (hhere : answersFor s (destSwitch h.desc.frame) = true) : stageLeave p h s = forward (portDie p) h.desc 0 s := by
  rw [stageLeave, hload.acq, hload.opcode, hport, hhere]
  rfl

theorem stageRelease_of_load {s : State} {p : Nat} {h : HeldFrame} (hload : PlainLoad h.desc.frame) : stageRelease p h s = stageLeave p h s := by
  rw [stageRelease, hload.rel]
  rfl

theorem stageRate_of_unrated {s : State} {p : Nat} {h : HeldFrame} (hrate : rated s h.desc.frame = false) :
    stageRate p h s = stageRelease p h s := by
  rw [stageRate, drawTokens, hrate]
  rfl

theorem stagePepper_of_no_rules {s : State} {p : Nat} {h : HeldFrame} (hpep : s.flt.pepper = []) : stagePepper p h s = stageRate p h s := by
  simp [stagePepper, pepHit_of_no_rules hpep]

theorem stageOrder_of_free {s : State} {p : Nat} {h : HeldFrame} (hfree : blocked s p h = false) : stageOrder p h s = stagePepper p h s := by
  rw [stageOrder, hfree]
  rfl

theorem stageStop_of_no_stops {s : State} {p : Nat} {h : HeldFrame} (hstops : (side s.swc (portDie p)).stops = []) :
    stageStop p h s = stageOrder p h s := by
  have hctx : stageContext p h s = stageOrder p h s := by
    rw [stageContext, hstops, List.any_nil, Bool.and_false, if_neg Bool.false_ne_true]
  rw [stageStop, stopped, hstops, List.any_nil, if_neg Bool.false_ne_true, hctx]

theorem stageStop_of_load {s : State} {p : Nat} {h : HeldFrame} (hload : PlainLoad h.desc.frame) (hfree : NothingHeld s p h.desc.frame) :
    stageStop p h s = stageLeave p h s := by
  have hblocked := blocked_of_nothingHeld hfree h
  obtain ⟨hstops, -, -, hpep, hrate, -⟩ := hfree
  rw [stageStop_of_no_stops hstops, stageOrder_of_free hblocked, stagePepper_of_no_rules hpep, stageRate_of_unrated hrate,
    stageRelease_of_load hload]

/-- A load that is accepted goes on from a state in arrival. -/
theorem acceptIn_of_load {s : State} {p : Nat} {h : HeldFrame} (hload : PlainLoad h.desc.frame) (hctx : ctxEnds s p h.desc.frame = false) :
    ∃ t, InArrival p s t ∧ acceptIn p h s = stageStop p h t := by
  have hwrite : isWrite h.desc.frame.opcode = false := by rw [hload.opcode]; rfl
  have hsync : memSyncBad h.desc.frame = none := by rw [memSyncBad, hload.opcode, if_neg (by decide)]
  have hrecord (u : State) : recordWrite p h u = u := by rw [recordWrite, hwrite]; rfl
  rw [acceptIn, hctx, hsync, hwrite]
  refine ⟨countLocal p h.desc (modPort s p _), ?_, congrArg (stageStop p h) (hrecord _)⟩
  refine .trans (modPort_inArrival p s ?_) (countLocal_inArrival p h.desc _)
  exact fun _ => ⟨rfl, rfl, rfl⟩

theorem stageRecord_of_load {s : State} {p : Nat} {h : HeldFrame} (hload : PlainLoad h.desc.frame) (hfree : NothingHeld s p h.desc.frame)
    (hctx : ctxEnds s p h.desc.frame = false) : ∃ t, InArrival p s t ∧ stageRecord p h s = stageLeave p h t := by
  have hroom : (writeRecFull s p || !(portOf s p).recWait.isEmpty) = false := by
    obtain ⟨-, hheld, -, -, -, hfull⟩ := hfree
    rw [recWait_of_heldAt_nil hheld, hfull]
    rfl
  obtain ⟨t, ht, haccept⟩ := acceptIn_of_load hload hctx
  refine ⟨t, ht, ?_⟩
  rw [stageRecord, hroom, Bool.and_false, if_neg Bool.false_ne_true, haccept, stageStop_of_load hload (ht.nothingHeld hfree)]

/-- A load is no STOP and no RESUME. -/
theorem stopHere_of_load (s : State) {f : Frame} (hop : f.opcode = Opc.ld) : stopHere s f = false := by
  rw [stopHere, ctlHere, hop, show (Opc.ld == Opc.ctlReq) = false by decide]
  rfl

theorem stageRoute_of_load {s : State} {p : Nat} {h : HeldFrame} (hop : h.desc.frame.opcode = Opc.ld) (hroute : routeBad s h.desc.frame = none)
    (hself : selfFencedBad s h.desc.frame = false) : stageRoute p h s = stageRecord p h s := by
  rw [stageRoute, stageControl, hroute, hself, stopHere_of_load s hop]
  rfl

theorem stageFence_of_single {s : State} {p : Nat} {h : HeldFrame} (hmore : h.desc.more = [])
    (hfence : fenceCheck s p h.desc.frame = .passes) : stageFence p h s = stageRoute p h s := by
  obtain ⟨sub, order, ⟨frame, cells, source, more, trailer, viaStalk, agent, copies, via, ingress⟩⟩ := h
  obtain rfl : more = [] := hmore
  have hnewer : [frame].any (fun f => fenceCheck s p f == .newerEpoch) = false := by simp [hfence]
  have hpasses : [frame].filter (fun f => fenceCheck s p f == .passes) = [frame] := by simp [hfence]
  have hstale : [frame].filter (fun f => fenceCheck s p f == .stale) = [] := by simp [hfence]
  rw [stageFence]
  dsimp only
  rw [hnewer, hpasses, hstale]
  rfl

theorem stageHeader_of_pass {s : State} {p : Nat} {e : BitVec 16} {h : HeldFrame} (hpayload : h.desc.frame.payload = [])
    (hheader : headerBad s p e h.desc.frame = none) (hstray : trayStray s p h.desc.frame = false)
    (hpass : passesPort s p h.desc.frame = true) (hrecovery : s.sec.recovery = false) : stageHeader p e h s = stageFence p h s := by
  have htake : h.desc.frame.payload.take h.desc.frame.length.toNat = h.desc.frame.payload := by rw [hpayload, List.take_nil]
  rw [stageHeader, hheader, htake, hstray, hpass, hrecovery]
  rfl

/-- A load that passes the checks of an ingress is accepted (R132). -/
theorem stageHeader_of_load {s : State} {p : Nat} {e : BitVec 16} {h : HeldFrame} (hload : PlainLoad h.desc.frame) (hmore : h.desc.more = [])
    (hchecks : PassesChecks s p e h.desc.frame) : stageHeader p e h s = stageRecord p h s := by
  obtain ⟨hrecovery, hheader, hstray, hfence, hroute, hself, -⟩ := hchecks
  have hpass : passesPort s p h.desc.frame = true := by
    rw [passesPort, hrecovery, hload.opcode]
    rfl
  rw [stageHeader_of_pass hload.payload hheader hstray hpass hrecovery, stageFence_of_single hmore hfence,
    stageRoute_of_load hload.opcode hroute hself]

/-- A load that passes the checks of an ingress, and that nothing holds, is the one frame of its output's FIFO, which was empty. -/
theorem stageHeader_fifo_of_load {s : State} {p : Nat} {e : BitVec 16} {h : HeldFrame} {f : Frame} {o : Output} (hf : h.desc.frame = f)
    (hmore : h.desc.more = []) (hvia : h.desc.via = none) (hload : PlainLoad f) (hport : attachment s p = true) (hfree : NothingHeld s p f)
    (hchecks : PassesChecks s p e f) (hhere : answersFor s (destSwitch f) = true) (hdest : destOf s f 0 = some (portDie p, o))
    (hempty : fifoOf s (portDie p) o f.tc.toNat = []) : fifoOf (stageHeader p e h s) (portDie p) o f.tc.toNat = [h.desc] := by
  subst hf
  have hctx : ctxEnds s p h.desc.frame = false := by
    obtain ⟨-, -, -, -, -, -, hctx⟩ := hchecks
    exact hctx
  obtain ⟨t, ht, hrecord⟩ := stageRecord_of_load hload hfree hctx
  have hhere' := (ht.answersFor _).trans hhere
  rw [stageHeader_of_load hload hmore hchecks, hrecord, stageLeave_of_load hload ((ht.attachment p).trans hport) hhere',
    forward_of_local hvia hhere' ((ht.destOf _ 0).trans hdest), pushOut_of_empty ((fifoOf_of_same ht.fifos _ _ _).trans hempty),
    fifoOf_setFifo_same]

/-! From the wire to the stages (R57, R132, R133, R136) -/

theorem pfcXoff_of_no_pfc {s : State} {p : Nat} (h : portPfc s p = false) (k tc : Nat) : pfcXoff p k tc s = s := by simp [pfcXoff, h]

/-- A frame that an attachment port in credit mode takes and does not sample goes, stamped, to the checks of the header. -/
theorem arrive_of_unsampled {s t : State} {p : Nat} (k : Nat) (w : WireFrame) (h : InArrival p s t) (hoff : sampleOn t p 0 = false)
    (hpfc : portPfc s p = false) (hport : attachment s p = true) : ∃ x u, InArrival p s u ∧ arrive p k w t = stageHeader p w.etherType x u ∧
      x.desc.frame = stamped s p k w.frame ∧ x.desc.more = [] ∧ x.desc.via = none := by
  have hsample (a : Bytes) (n : BitVec 16) (f : Frame) (b : Bytes) : sample p k 0 a n f b t = t := by simp [sample, hoff]
  have hstamp : ({ w.frame with srcEp := BitVec.ofNat 20 (subEp t p k) } : Frame) = stamped s p k w.frame := by rw [h.subEp]; rfl
  unfold arrive
  simp only [hoff, h.attachment, hport, hsample, hstamp, Bool.false_eq_true, if_false, if_true]
  rw [pfcXoff_of_no_pfc]
  · refine ⟨_, _, ?_, rfl, rfl, rfl, rfl⟩
    exact ((h.trans (allocCells_inArrival p _ _ t)).trans (modSub_inArrival p k _ _)).trans (modPort_inArrival p _ fun _ => ⟨rfl, rfl, rfl⟩)
  · exact (h.portPfc p).trans hpfc

theorem notePn_swc (p k : Nat) (w : WireFrame) (s : State) : (notePn p k w s).swc = s.swc := by
  unfold notePn
  split_ifs <;> rfl

theorem notePn_phase (p k : Nat) (w : WireFrame) (s : State) : (subOf (notePn p k w s) p k).phase = (subOf s p k).phase := by
  unfold notePn
  split_ifs
  · rw [subOf_modSub_same]
  · rfl

theorem notePn_rxSeq (p k : Nat) (w : WireFrame) (s : State) : (subOf (notePn p k w s) p k).rxSeq = (subOf s p k).rxSeq := by
  unfold notePn
  split_ifs
  · rw [subOf_modSub_same]
  · rfl

/-- A load waits on the link only while the port admits no requests or has no cells for it. -/
theorem linkWaits_of_load {s : State} {p k : Nat} {w : WireFrame} (hop : w.frame.opcode = Opc.ld) (hnow : notNow s p (stamped s p k w.frame) = false)
    (hroom : ingressRoom s p k w.frame = true) : linkWaits s p k w = false := by
  have hnow' : notNow s p w.frame = false := by
    rw [notNow, stopHere_of_load s hop]
    rwa [notNow, stopHere_of_load s (show (stamped s p k w.frame).opcode = Opc.ld from hop)] at hnow
  simp [linkWaits, hnow', hroom]

/-- The link layer takes the frame that a sub-link expects next. -/
theorem sequenced_of_expected {s : State} {p k : Nat} {w : WireFrame} (hpfc : portPfc s p = false) (hvalid : w.trailer.seqValid = true)
    (hseq : w.trailer.lseq = (subOf s p k).rxSeq) : ∃ g, sequenced p k w s = arrive p k w (modSub s p k g) := by
  unfold sequenced
  simp only [hpfc, hvalid, hseq, Bool.not_true, Bool.false_eq_true, if_false, if_true]
  exact ⟨_, rfl⟩

/-- A load that a sub-link expects next is taken by its port. -/
theorem ingress_of_expected {s : State} {p k : Nat} {w : WireFrame} (hwire : OnWire s p k w) (hop : w.frame.opcode = Opc.ld)
    (hwait : linkWaits s p k w = false) : ∃ g, ingress p k w s = arrive p k w (modSub (notePn p k w s) p k g) := by
  obtain ⟨hthere, hup, hgood, hether, hcrc, hpfc, -, hvalid, hseq, hack⟩ := hwire
  have hlink : isLink w.frame.opcode = false := by rw [hop]; rfl
  have htaken : ingress p k w s = sequenced p k w (notePn p k w s) := by
    unfold ingress
    simp [hthere, hup, hgood, hether, hcrc, hwait, hack, hlink]
  rw [htaken]
  exact sequenced_of_expected (((notePn_inArrival p k w s).portPfc p).trans hpfc) hvalid (hseq.trans (notePn_rxSeq p k w s).symm)

/-- The first clause of O25: the load enters the FIFO of its home's output. -/
theorem ingress_fifo_of_load {s : State} {p k : Nat} {w : WireFrame} {o : Output} (hwire : OnWire s p k w) (hload : PlainLoad w.frame)
    (hoff : sampleOn s p 0 = false) (hfree : NothingHolds s p (stamped s p k w.frame))
    (hchecks : PassesChecks s p w.etherType (stamped s p k w.frame)) (hroom : ingressRoom s p k w.frame = true)
    (hhere : answersFor s (destSwitch w.frame) = true) (hdest : destOf s (stamped s p k w.frame) 0 = some (portDie p, o))
    (hempty : fifoOf s (portDie p) o w.frame.tc.toNat = []) :
    ∃ x, fifoOf (ingress p k w s) (portDie p) o w.frame.tc.toNat = [x] ∧ x.frame = stamped s p k w.frame := by
  obtain ⟨hnow, hnothing⟩ := hfree
  obtain ⟨g, hingress⟩ := ingress_of_expected hwire hload.opcode (linkWaits_of_load hload.opcode hnow hroom)
  obtain ⟨-, -, -, -, -, hpfc, hport, -⟩ := hwire
  have hway : InArrival p s (modSub (notePn p k w s) p k g) := (notePn_inArrival p k w s).trans (modSub_inArrival p k g _)
  have hunsampled : sampleOn (modSub (notePn p k w s) p k g) p 0 = false := by
    rw [sampleOn, show (modSub (notePn p k w s) p k g).swc = s.swc from notePn_swc p k w s]
    exact hoff
  obtain ⟨x, u, hu, harrive, hframe, hmore, hvia⟩ := arrive_of_unsampled k w hway hunsampled hpfc hport
  have hstage := stageHeader_fifo_of_load (e := w.etherType) hframe hmore hvia ⟨hload.opcode, hload.acq, hload.rel, hload.payload⟩
    ((hu.attachment p).trans hport) (hu.nothingHeld hnothing) (hu.passesChecks hchecks) ((hu.answersFor _).trans hhere)
    ((hu.destOf _ 0).trans hdest) ((fifoOf_of_same hu.fifos _ _ _).trans hempty)
  exact ⟨x.desc, (congrArg (fun t => fifoOf t (portDie p) o w.frame.tc.toNat) (hingress.trans harrive)).trans hstage, hframe⟩

/-! A frame whose HCRC is wrong (R132, R136) -/

theorem ingress_of_wrong_hcrc {s : State} {p k : Nat} {w : WireFrame} (hthere : subThere s p k = true) (hup : (subOf s p k).phase = .up)
    (hgood : wireBad s p k w = none) (hether : w.etherType = s.cfg.ethLft) (hcrc : w.hcrc ≠ hcrcOf w.frame) :
    ingress p k w s = corrupted p k 4 false (notePn p k w s) := by
  rw [ingress, hgood]
  exact (if_neg (by simp [hthere, hup])).trans ((if_neg fun h => h.1 hether).trans (if_pos hcrc))

/-- Setting a bit of a port's ERR_STATUS leaves it set: the event it raises changes no port. -/
theorem setStatus_port_getLsbD (p : Nat) {bit : Nat} (hbit : bit < 16) (s : State) :
    (portOf (setStatus (.prt p) bit s) p).errStatus.bits.getLsbD bit = true := by
  have hports : portOf (setStatus (.prt p) bit s) p = portOf (stUpd s (.prt p) fun x => x.set bit) p := by
    unfold portOf setStatus
    rw [(statusEvent_onlyEvents _ _).lft]
  have hset := stGet_stUpd_same s (.prt p) fun x => x.set bit
  rw [hports, show (portOf (stUpd s (.prt p) fun x => x.set bit) p).errStatus = _ from hset]
  exact Sticky.set_getLsbD _ hbit

theorem modSub_errStatus (p k : Nat) (g : SubState → SubState) (s : State) :
    (portOf (modSub s p k g) p).errStatus = (portOf s p).errStatus := by rw [modSub, portOf_modPort_same]

/-- What is sent on a sub-link leaves the port's ERR_STATUS. -/
theorem putWire_errStatus (p k : Nat) (tr : Trailer) (f : Frame) (more : List Frame) (corrupt : Bool) (s : State) :
    (portOf (putWire p k tr f more corrupt s) p).errStatus = (portOf s p).errStatus := by
  unfold putWire
  extract_lets x sec out s1
  show (portOf s1 p).errStatus = _
  show (portOf (if sec then _ else _) p).errStatus = _
  split_ifs
  · exact modSub_errStatus p k _ s
  · rfl

theorem sendNak_errStatus (p k : Nat) (s : State) : (portOf (sendNak p k s) p).errStatus = (portOf s p).errStatus :=
  (putWire_errStatus p k _ _ _ _ _).trans (modSub_errStatus p k _ s)

/-- The discard of a corrupt frame leaves the bit set that names what was wrong with it. -/
theorem corrupted_getLsbD (p k : Nat) {bit : Nat} (hbit : bit < 16) (s : State) :
    (portOf (corrupted p k bit false s) p).errStatus.bits.getLsbD bit = true := by
  have hcounted : (portOf (countDiscard p 1 (setStatus (.prt p) bit s)) p).errStatus.bits.getLsbD bit = true := by
    rw [countDiscard, portOf_modPort_same]
    exact setStatus_port_getLsbD p hbit s
  unfold corrupted
  simp only [Bool.false_eq_true, if_false]
  split_ifs
  · rw [sendNak_errStatus]
    exact hcounted
  · exact hcounted

/-- A corrupt frame changes its port, what was sent, and the counting of an event. -/
theorem corrupted_notePn_keepsBut (p k : Nat) (w : WireFrame) (s : State) :
    KeepsBut [.lftPorts, .lftSent, .ctxs, .evQueue] s (corrupted p k 4 false (notePn p k w s)) :=
  keepsBut_of_maskOf (corrupted_keeps (by decide) (notePn_keeps (by decide) (Keeps.refl _ _)))

/-- Settles O25: what a load passes on its way changes nothing that its checks and its output's FIFO ask; a corrupt frame is discarded. -/
theorem aFrameThatPassesReachesItsOutput : Obligations.AFrameThatPassesReachesItsOutput := by
  unfold Obligations.AFrameThatPassesReachesItsOutput
  constructor
  · intro s p k w o hwire hop hacq hrel hpayload hoff _ hfree hchecks hroom hhere hdest hempty
    obtain ⟨x, hfifo, hframe⟩ := ingress_fifo_of_load hwire ⟨hop, hacq, hrel, hpayload⟩ hoff hfree hchecks hroom hhere hdest hempty
    exact ⟨_, x, rfl, hfifo, hframe⟩
  · intro s p k w hthere hup hgood hether hcrc
    have hingress := ingress_of_wrong_hcrc hthere hup hgood hether hcrc
    refine ⟨ingress p k w s, rfl, ?_, ?_⟩
    · rw [hingress]
      exact corrupted_notePn_keepsBut p k w s
    · rw [hingress]
      exact corrupted_getLsbD p k (by decide) _

end Machine
end Sys2Proof

/-! SUPPORT, O9 and O24: numbers as bytes and back, the header of a frame, the addresses of responses. -/

namespace Sys2Proof
namespace Machine

/-! Numbers as bytes (R15) -/

theorem toBE_succ (n v : Nat) : toBE (n + 1) v = toBE n (v / 256) ++ [BitVec.ofNat 8 v] := by
  rw [toBE, toLE, List.reverse_cons, toBE]

theorem beNat_append_byte (b : Bytes) (x : Byte) : beNat (b ++ [x]) = beNat b * 256 + x.toNat := by
  rw [beNat, List.foldl_append, beNat]
  rfl

/-- A number that fits n bytes is what its n bytes, most significant first, spell. -/
theorem beNat_toBE {n v : Nat} (h : v < 256 ^ n) : beNat (toBE n v) = v := by
  induction n generalizing v with
  | zero =>
    rw [Nat.pow_zero, Nat.lt_one_iff] at h
    rw [h]
    rfl
  | succ n ih =>
    rw [Nat.pow_succ] at h
    rw [toBE_succ, beNat_append_byte, ih (Nat.div_lt_of_lt_mul (by omega)), BitVec.toNat_ofNat]
    omega

theorem length_toBE (n v : Nat) : (toBE n v).length = n := by
  rw [toBE, List.length_reverse]
  induction n generalizing v with
  | zero => rfl
  | succ n ih => rw [toLE, List.length_cons, ih]

/-! Pieces of byte strings -/

theorem slice_all {a : Bytes} {n : Nat} (h : n = a.length) : slice a 0 n = a := by rw [slice, List.drop_zero, h, List.take_length]

theorem slice_append_left {a : Bytes} (b : Bytes) {off n : Nat} (h : off + n ≤ a.length) : slice (a ++ b) off n = slice a off n := by
  rw [slice, slice, List.drop_append_of_le_length (by omega), List.take_append_of_le_length (by rw [List.length_drop]; omega)]

theorem slice_append_right (a : Bytes) {b : Bytes} {off n : Nat} (ha : off = a.length) (hb : n = b.length) :
    slice (a ++ b) off n = b := by
  rw [slice, ha, List.drop_left, hb, List.take_length]

/-! Fields side by side -/

/-- Two fields side by side fit the sum of their widths. -/
theorem joined_lt {n w : Nat} (x : BitVec n) (y : BitVec w) : x.toNat * 2 ^ w + y.toNat < 2 ^ (n + w) := by
  have hx := x.isLt
  have hy := y.isLt
  calc x.toNat * 2 ^ w + y.toNat < (x.toNat + 1) * 2 ^ w := by rw [Nat.succ_mul]; omega
    _ ≤ 2 ^ n * 2 ^ w := Nat.mul_le_mul_right _ hx
    _ = 2 ^ (n + w) := (Nat.pow_add 2 n w).symm

/-- Two fields side by side are what the number that they make says. -/
theorem joined_inj {n w : Nat} {x u : BitVec n} {y v : BitVec w} (h : x.toNat * 2 ^ w + y.toNat = u.toNat * 2 ^ w + v.toNat) :
    x = u ∧ y = v := by
  have hy := y.isLt
  have hv := v.isLt
  have hlow : y.toNat = v.toNat := by
    have := congrArg (· % 2 ^ w) h
    simpa [Nat.mod_eq_of_lt hy, Nat.mod_eq_of_lt hv] using this
  rw [hlow, Nat.add_right_cancel_iff] at h
  exact ⟨BitVec.eq_of_toNat_eq (Nat.eq_of_mul_eq_mul_right (Nat.two_pow_pos w) h), BitVec.eq_of_toNat_eq hlow⟩

/-! The header of a frame (R121) -/

theorem b2n_lt (b : Bool) : b2n b < 2 := by cases b <;> decide

theorem b2n_injective : Function.Injective b2n := by decide

/-- Byte 0 of a header as a number: the version and the four flags. -/
def leadNum (f : Frame) : Nat := f.version.toNat * 16 + b2n f.cmp * 8 + b2n f.rel * 4 + b2n f.acq * 2 + b2n f.last

theorem leadNum_lt (f : Frame) : leadNum f < 256 := by
  have hversion := f.version.isLt
  have hcmp := b2n_lt f.cmp
  have hrel := b2n_lt f.rel
  have hacq := b2n_lt f.acq
  have hlast := b2n_lt f.last
  unfold leadNum
  omega

theorem leadNum_inj {f g : Frame} (h : leadNum f = leadNum g) :
    f.version = g.version ∧ f.cmp = g.cmp ∧ f.rel = g.rel ∧ f.acq = g.acq ∧ f.last = g.last := by
  have hcmp := b2n_lt f.cmp
  have hrel := b2n_lt f.rel
  have hacq := b2n_lt f.acq
  have hlast := b2n_lt f.last
  have kcmp := b2n_lt g.cmp
  have krel := b2n_lt g.rel
  have kacq := b2n_lt g.acq
  have klast := b2n_lt g.last
  unfold leadNum at h
  refine ⟨BitVec.eq_of_toNat_eq ?_, b2n_injective ?_, b2n_injective ?_, b2n_injective ?_, b2n_injective ?_⟩ <;> omega

/-- Every field of a frame reads back from the bytes of a header. -/
def HeaderReads (b : Bytes) (f : Frame) : Prop :=
  beNat (slice b 0 1) = leadNum f ∧ slice b 1 1 = [f.opcode] ∧ beNat (slice b 2 1) = f.tc.toNat * 2 ^ 5 + f.status.toNat ∧
    beNat (slice b 3 1) = f.hop.toNat * 2 ^ 4 + f.slot.toNat ∧ beNat (slice b 4 4) = f.srcEp.toNat * 2 ^ 12 + f.ctx.toNat ∧
    beNat (slice b 8 4) = f.seq.toNat * 2 ^ 8 + f.rsvd.toNat ∧ beNat (slice b 12 2) = f.tag.toNat ∧
    beNat (slice b 14 2) = f.fence.toNat ∧ beNat (slice b 16 8) = f.addr.toNat ∧ beNat (slice b 24 2) = f.length.toNat ∧
    beNat (slice b 26 2) = f.opspec.toNat

/-- The bytes of each field stand at its place. -/
structure HeaderLaidOut (b : Bytes) (f : Frame) : Prop where
  lead : slice b 0 1 = toBE 1 (leadNum f)
  opcode : slice b 1 1 = [f.opcode]
  status : slice b 2 1 = toBE 1 (f.tc.toNat * 32 + f.status.toNat)
  hop : slice b 3 1 = toBE 1 (f.hop.toNat * 16 + f.slot.toNat)
  source : slice b 4 4 = toBE 4 (f.srcEp.toNat * 4096 + f.ctx.toNat)
  seq : slice b 8 4 = toBE 4 (f.seq.toNat * 256 + f.rsvd.toNat)
  tag : slice b 12 2 = toBE 2 f.tag.toNat
  fence : slice b 14 2 = toBE 2 f.fence.toNat
  addr : slice b 16 8 = toBE 8 f.addr.toNat
  length : slice b 24 2 = toBE 2 f.length.toNat
  opspec : slice b 26 2 = toBE 2 f.opspec.toNat

/-- Each field stands behind the fields before it, whose lengths add up to its place. -/
theorem headerBytes_laidOut (f : Frame) : HeaderLaidOut (headerBytes f) f := by
  constructor <;>
    simp [headerBytes, leadNum, slice_append_left, slice_append_right, slice_all, length_toBE, -List.append_assoc]

theorem length_headerBytes (f : Frame) : (headerBytes f).length = 28 := by simp [headerBytes, length_toBE]

/-- Each place of a header holds the bytes of its field, and the field fits its bytes. -/
theorem headerBytes_reads (f : Frame) : HeaderReads (headerBytes f) f := by
  obtain ⟨hlead, hopcode, hstatus, hhop, hsource, hseq, htag, hfence, haddr, hlength, hopspec⟩ := headerBytes_laidOut f
  unfold HeaderReads
  rw [hlead, hstatus, hhop, hsource, hseq, htag, hfence, haddr, hlength, hopspec]
  exact ⟨beNat_toBE (leadNum_lt f), hopcode, beNat_toBE (joined_lt f.tc f.status), beNat_toBE (joined_lt f.hop f.slot),
    beNat_toBE (joined_lt f.srcEp f.ctx), beNat_toBE (joined_lt f.seq f.rsvd), beNat_toBE f.tag.isLt, beNat_toBE f.fence.isLt,
    beNat_toBE f.addr.isLt, beNat_toBE f.length.isLt, beNat_toBE f.opspec.isLt⟩

/-- The bytes of a header have one reading: they fix every field but the payload. -/
theorem HeaderReads.unique {b : Bytes} {f g : Frame} (hf : HeaderReads b f) (hg : HeaderReads b g) :
    ({ f with payload := [] } : Frame) = { g with payload := [] } := by
  obtain ⟨hlead, hopcode, hstatus, hhop, hsource, hseq, htag, hfence, haddr, hlength, hopspec⟩ := hf
  obtain ⟨klead, kopcode, kstatus, khop, ksource, kseq, ktag, kfence, kaddr, klength, kopspec⟩ := hg
  obtain ⟨eversion, ecmp, erel, eacq, elast⟩ := leadNum_inj (hlead.symm.trans klead)
  have eopcode : f.opcode = g.opcode := List.singleton_injective (hopcode.symm.trans kopcode)
  obtain ⟨etc, estatus⟩ := joined_inj (hstatus.symm.trans kstatus)
  obtain ⟨ehop, eslot⟩ := joined_inj (hhop.symm.trans khop)
  obtain ⟨esource, ectx⟩ := joined_inj (hsource.symm.trans ksource)
  obtain ⟨eseq, ersvd⟩ := joined_inj (hseq.symm.trans kseq)
  have etag := BitVec.eq_of_toNat_eq (htag.symm.trans ktag)
  have efence := BitVec.eq_of_toNat_eq (hfence.symm.trans kfence)
  have eaddr := BitVec.eq_of_toNat_eq (haddr.symm.trans kaddr)
  have elength := BitVec.eq_of_toNat_eq (hlength.symm.trans klength)
  have eopspec := BitVec.eq_of_toNat_eq (hopspec.symm.trans kopspec)
  rw [Frame.mk.injEq]
  exact ⟨eversion, ecmp, erel, eacq, elast, eopcode, etc, estatus, ehop, eslot, esource, ectx, eseq, ersvd, etag, efence, eaddr,
    elength, eopspec, rfl⟩

/-- Settles O9: every field fits the bytes at its place, so it reads back from them, and equal header bytes have one reading. -/
theorem headerFieldsStandWhereTheyBelong : Obligations.HeaderFieldsStandWhereTheyBelong := by
  unfold Obligations.HeaderFieldsStandWhereTheyBelong
  exact ⟨fun f => ⟨length_headerBytes f, headerBytes_reads f⟩, fun f g h => (headerBytes_reads f).unique (h ▸ headerBytes_reads g)⟩

/-! What a response takes from its request (R123, R124) -/

/-- An endpoint-routed ADDR names its endpoint, whatever its return field. -/
theorem addrEp_epAddr {ep : Nat} (h : ep < 2 ^ 20) (ret : Nat) : addrEp (epAddr ep ret).toNat = ep := by
  have hret := Nat.mod_lt ret (Nat.two_pow_pos 44)
  rw [addrEp, epAddr, fld, BitVec.toNat_ofNat]
  omega

/-- Settles O24: a response is made of its request's fields, and its ADDR leads back to the request's endpoint. -/
theorem responsesCopyTheirRequest : Obligations.ResponsesCopyTheirRequest := by
  unfold Obligations.ResponsesCopyTheirRequest
  constructor
  · intro s d req opc st b ops
    refine ⟨rfl, rfl, rfl, rfl, addrEp_epAddr req.srcEp.isLt _, rfl, ?_⟩
    cases d with
    | d0 => exact congrArg (BitVec.ofNat 20) (Nat.add_zero (s.cfg.switchId * 256 + 0xFE))
    | d1 => exact congrArg (BitVec.ofNat 20) (Nat.add_assoc (s.cfg.switchId * 256) 0xFE 1)
  · intro s p f st ops
    exact ⟨_, rfl⟩

end Machine
end Sys2Proof

/-! SUPPORT and O19: what link frames, sticky bits and a link's fall leave of a sub-link; the bring-up of sub-links. -/

namespace Sys2Proof
namespace Machine

/-! A bit of PRT.ERR_STATUS (R13, R147) -/

/-- A hardware set leaves the bits that stand. -/
theorem Sticky.set_getLsbD_of_set {r : Sticky} {i : Nat} (j : Nat) (h : r.bits.getLsbD i = true) : (r.set j).bits.getLsbD i = true := by
  simp [Sticky.set, h]

/-- The set of a bit of ERR_STATUS changes only that register of the port: the event it raises changes no port. -/
theorem portOf_setStatus (p bit : Nat) (s : State) :
    portOf (setStatus (.prt p) bit s) p = { portOf s p with errStatus := (portOf s p).errStatus.set bit } := by
  rw [portOf, setStatus, (statusEvent_onlyEvents _ _).lft]
  exact getD_changeD_same s.lft.ports p {} (fun x => { x with errStatus := x.errStatus.set bit })

theorem subOf_setStatus (p k bit : Nat) (s : State) : subOf (setStatus (.prt p) bit s) p k = subOf s p k := by
  rw [subOf, portOf_setStatus, subOf]

theorem errStatus_setStatus_of_set {p i : Nat} {s : State} (bit : Nat) (h : (portOf s p).errStatus.bits.getLsbD i = true) :
    (portOf (setStatus (.prt p) bit s) p).errStatus.bits.getLsbD i = true := by
  rw [portOf_setStatus]
  exact Sticky.set_getLsbD_of_set bit h

/-! Link frames (R134 to R137) -/

/-- A frame that goes onto the wire of a sub-link changes of the sub-link only its packet number (R144). -/
theorem subOf_putWire (p k : Nat) (t : Trailer) (f : Frame) (more : List Frame) (corrupt : Bool) (s : State) :
    ∃ a, subOf (putWire p k t f more corrupt s) p k = { subOf s p k with ka := a } := by
  unfold putWire
  extract_lets x sec out s1
  show ∃ a, subOf (if sec then _ else s) p k = _
  split_ifs
  · exact ⟨_, subOf_modSub_same s p k _⟩
  · exact ⟨_, rfl⟩

theorem subOf_sendLink (p k : Nat) (opc : Byte) (payload : Bytes) (s : State) :
    ∃ a, subOf (sendLink p k opc payload s) p k = { subOf s p k with ka := a } := by
  rw [sendLink]
  exact subOf_putWire p k _ _ _ _ s

theorem sendLink_sent (p k : Nat) (opc : Byte) (payload : Bytes) (s : State) :
    ∃ x, (sendLink p k opc payload s).lft.sent = s.lft.sent ++ [x] ∧ x.port = p ∧ x.sub = k ∧ x.frame.opcode = opc ∧
      x.frame.payload = payload := by
  obtain ⟨x, hsent, hport, hsub, hframe⟩ := putWire_sent p k (ackTrailer (subOf s p k) {})
    { opcode := opc, tc := 7#3, srcEp := BitVec.ofNat 20 (subEp s p k), length := BitVec.ofNat 16 payload.length, payload := payload } [] false s
  rw [sendLink]
  exact ⟨x, hsent, hport, hsub, by rw [hframe], by rw [hframe]⟩

theorem errStatus_sendLink (p k : Nat) (opc : Byte) (payload : Bytes) (s : State) :
    (portOf (sendLink p k opc payload s) p).errStatus = (portOf s p).errStatus := by
  rw [sendLink]
  exact putWire_errStatus p k _ _ _ _ s

/-! A sub-link leaves service (R138) -/

theorem portOf_modFlt (g : FltState → FltState) (p : Nat) (s : State) : portOf (modFlt s g) p = portOf s p := rfl

theorem portOf_linkDown (p k : Nat) (s : State) :
    portOf (linkDown p k s) p = { portOf (clearSub p k s) p with errStatus := (portOf (clearSub p k s) p).errStatus.set 9 } := by
  rw [linkDown, portOf_modFlt, portOf_setStatus]

theorem subOf_linkDown (p k : Nat) (s : State) : subOf (linkDown p k s) p k = {} := by
  rw [subOf, portOf_linkDown]
  show subOf (clearSub p k s) p k = {}
  rw [clearSub, subOf_modSub_same]

theorem errStatus_linkDown (p k : Nat) (s : State) : (portOf (linkDown p k s) p).errStatus.bits.getLsbD 9 = true := by
  rw [portOf_linkDown]
  exact Sticky.set_getLsbD _ (by decide)

theorem subOf_linkUp (p k q j : Nat) (s : State) : subOf (linkUp p k s) q j = subOf s q j := rfl

/-! LINK_TRAINING_DONE (R137, R139, R418) -/

theorem phase_afterKeys (p k : Nat) (s : State) :
    (subOf (afterKeys p k s) p k).phase = if portPfc s p then LinkPhase.up else LinkPhase.init := by
  unfold afterKeys
  split_ifs
  · rw [subOf_linkUp, subOf_modSub_same]
  · rw [subOf_modSub_same]

/-- The start of a key agreement leaves the phase: it changes of the sub-link only the agreement. -/
theorem phase_startKa (p k : Nat) (s : State) : (subOf (startKa p k s) p k).phase = (subOf s p k).phase := by
  unfold startKa
  split
  rename_i n s1 hdraw
  obtain ⟨-, rfl⟩ := Prod.mk.inj hdraw
  show (subOf (modSub (modSub _ p k _) p k _) p k).phase = _
  rw [subOf_modSub_same, subOf_modSub_same]
  rfl

theorem linkTrainingDone_completes {s : State} {p k : Nat} (hthere : subThere s p k = true) (hdown : (subOf s p k).phase = .down) :
    ∃ t, exec (.linkTrainingDone p k) s = .next t ∧
      (subOf t p k).phase = (if portMacsec s p then .keying else if portPfc s p then .up else .init) := by
  show ∃ t, execLinkTrainingDone p k s = .next t ∧ _
  unfold execLinkTrainingDone
  rw [hthere, hdown, if_neg (by decide)]
  by_cases hsec : portMacsec s p = true
  · rw [if_pos hsec, if_pos hsec]
    refine ⟨_, rfl, ?_⟩
    split_ifs
    · rw [phase_startKa, subOf_modSub_same]
    · rw [subOf_modSub_same]
  · rw [if_neg hsec, if_neg hsec]
    exact ⟨_, rfl, phase_afterKeys p k s⟩

/-! The exchange of LINK_INIT and LINK_CREDIT (R134, R137) -/

theorem nth_map_rangeFrom {α : Type} (g : Nat → α) {n i : Nat} (h : i < n) (d : α) : nth ((rangeFrom 0 n).map g) i d = g i := by
  have hi : i < (rangeFrom 0 n).length := by rwa [rangeFrom_length]
  rw [nth, List.getElem?_map, List.getElem?_eq_getElem hi, getElem_rangeFrom, Nat.zero_add]
  rfl

theorem linkInitSend_completes {s : State} {p k : Nat} (hinit : (subOf s p k).phase = .init) (hpeer : (subOf s p k).peerInit = false) :
    ∃ t x, exec (.linkInitSend p k) s = .next t ∧ t.lft.sent = s.lft.sent ++ [x] ∧ x.port = p ∧ x.sub = k ∧
      x.frame.opcode = Opc.linkInit ∧ x.frame.payload = initPayload s p k := by
  have hexec : exec (.linkInitSend p k) s = .next (sendLink p k Opc.linkInit (initPayload s p k) s) :=
    if_pos ⟨hinit, by rw [hpeer]; rfl⟩
  obtain ⟨x, hx⟩ := sendLink_sent p k Opc.linkInit (initPayload s p k) s
  exact ⟨_, x, hexec, hx⟩

/-- What this end notes of a peer's LINK_INIT. -/
def initNoted (b : Bytes) (mac : Nat) (x : SubState) : SubState :=
  { x with
    peerInit := true, peerMac := mac, peerEp := le b 4 4 % 2 ^ 20, peerReplay := le b 8 4,
    limits := (rangeFrom 0 8).map (fun tc => le b (16 + 4 * tc) 4) }

theorem checkInit_of_ok {s : State} {p : Nat} {b : Bytes} (h : initOk s p b = true) (k mac : Nat) :
    checkInit p k b mac s = sendCredit p k (modSub s p k (initNoted b mac)) := by
  rw [checkInit, h]
  rfl

theorem checkInit_of_bad {s : State} {p : Nat} {b : Bytes} (h : initOk s p b = false) (k mac : Nat) :
    checkInit p k b mac s = setStatus (.prt p) 11 s := by
  rw [checkInit, h]
  rfl

/-- A check of a LINK_INIT, passed or failed, leaves the phase, the replay buffer, and every bit that stands in ERR_STATUS. -/
theorem checkInit_leaves (p k : Nat) (b : Bytes) (mac : Nat) (s : State) :
    (subOf (checkInit p k b mac s) p k).phase = (subOf s p k).phase ∧ (subOf (checkInit p k b mac s) p k).replay = (subOf s p k).replay ∧
      ∀ i, (portOf s p).errStatus.bits.getLsbD i = true → (portOf (checkInit p k b mac s) p).errStatus.bits.getLsbD i = true := by
  cases h : initOk s p b with
  | false =>
    rw [checkInit_of_bad h, subOf_setStatus]
    exact ⟨rfl, rfl, fun i hi => errStatus_setStatus_of_set 11 hi⟩
  | true =>
    rw [checkInit_of_ok h]
    obtain ⟨a, ha⟩ := subOf_sendLink p k Opc.linkCredit _ (modSub s p k (initNoted b mac))
    rw [sendCredit, ha, subOf_modSub_same, errStatus_sendLink, modSub_errStatus]
    exact ⟨rfl, rfl, fun i hi => hi⟩

/-- A LINK_INIT of the right length on a credit-mode port is taken by the phase of its sub-link. -/
theorem exec_linkInit_of_init {s : State} {p k : Nat} {f : Frame} (hpfc : portPfc s p = false) (hlen : f.payload.length = 48)
    (hinit : (subOf s p k).phase = .init) (mac : Nat) : exec (.linkInit p k f mac) s = .next (checkInit p k f.payload mac s) := by
  show Host.Outcome.next (takeInit p k f mac s) = _
  unfold takeInit
  simp [hpfc, hlen, hinit]

/-- The state in which a sub-link that was in service restarts its bring-up at step 3. -/
def restarted (p k : Nat) (s : State) : State :=
  modSub (linkDown p k s) p k (fun y => { y with phase := .init, ka := (subOf s p k).ka })

theorem exec_linkInit_of_up {s : State} {p k : Nat} {f : Frame} (hpfc : portPfc s p = false) (hlen : f.payload.length = 48)
    (hup : (subOf s p k).phase = .up) (mac : Nat) : exec (.linkInit p k f mac) s = .next (checkInit p k f.payload mac (restarted p k s)) := by
  show Host.Outcome.next (takeInit p k f mac s) = _
  unfold takeInit
  simp [hpfc, hlen, hup, restarted]

theorem linkInit_of_ok {s : State} {p k : Nat} {f : Frame} (mac : Nat) (hpfc : portPfc s p = false) (hlen : f.payload.length = 48)
    (hinit : (subOf s p k).phase = .init) (hok : initOk s p f.payload = true) :
    ∃ t x, exec (.linkInit p k f mac) s = .next t ∧ (subOf t p k).peerInit = true ∧ (subOf t p k).phase = .init ∧
      (∀ tc, tc < 8 → nth (subOf t p k).limits tc 0 = le f.payload (16 + 4 * tc) 4) ∧
      t.lft.sent = s.lft.sent ++ [x] ∧ x.frame.opcode = Opc.linkCredit := by
  have hexec := exec_linkInit_of_init hpfc hlen hinit mac
  rw [checkInit_of_ok hok] at hexec
  obtain ⟨x, hsent, -, -, hopc, -⟩ := sendLink_sent p k Opc.linkCredit _ (modSub s p k (initNoted f.payload mac))
  obtain ⟨a, ha⟩ := subOf_sendLink p k Opc.linkCredit _ (modSub s p k (initNoted f.payload mac))
  rw [subOf_modSub_same] at ha
  refine ⟨_, x, hexec, ?_⟩
  rw [sendCredit, ha]
  exact ⟨rfl, hinit, fun tc htc => nth_map_rangeFrom (fun i => le f.payload (16 + 4 * i) 4) htc 0, hsent, hopc⟩

theorem linkInit_of_bad {s : State} {p k : Nat} {f : Frame} (mac : Nat) (hpfc : portPfc s p = false) (hlen : f.payload.length = 48)
    (hinit : (subOf s p k).phase = .init) (hbad : initOk s p f.payload = false) :
    ∃ t, exec (.linkInit p k f mac) s = .next t ∧ subOf t p k = subOf s p k ∧ (portOf t p).errStatus.bits.getLsbD 11 = true := by
  have hexec := exec_linkInit_of_init hpfc hlen hinit mac
  rw [checkInit_of_bad hbad] at hexec
  exact ⟨_, hexec, subOf_setStatus p k 11 s, setStatus_port_getLsbD p (by decide) s⟩

theorem linkInit_of_up {s : State} {p k : Nat} {f : Frame} (mac : Nat) (hpfc : portPfc s p = false) (hlen : f.payload.length = 48)
    (hup : (subOf s p k).phase = .up) :
    ∃ t, exec (.linkInit p k f mac) s = .next t ∧ (subOf t p k).phase = .init ∧ (subOf t p k).replay = [] ∧
      (portOf t p).errStatus.bits.getLsbD 9 = true := by
  obtain ⟨hphase, hreplay, hbits⟩ := checkInit_leaves p k f.payload mac (restarted p k s)
  have hsub : subOf (restarted p k s) p k = { phase := .init, ka := (subOf s p k).ka } := by
    rw [restarted, subOf_modSub_same, subOf_linkDown]
  rw [hsub] at hphase hreplay
  refine ⟨_, exec_linkInit_of_up hpfc hlen hup mac, hphase, hreplay, hbits 9 ?_⟩
  rw [restarted, modSub_errStatus]
  exact errStatus_linkDown p k s

theorem linkCredit_completes {s : State} {p k : Nat} {f : Frame} (hpfc : portPfc s p = false) (hlen : f.payload.length = 32)
    (hmay : (subOf s p k).phase = .up ∨ ((subOf s p k).phase = .init ∧ (subOf s p k).peerInit = true)) :
    ∃ t, exec (.linkCredit p k f) s = .next t ∧ (subOf t p k).phase = .up ∧ ((subOf s p k).phase = .init → (subOf t p k).txSeq = 0) ∧
      ∀ tc, tc < 8 → nth (subOf t p k).cellsReturned tc 0 = le f.payload (4 * tc) 4 := by
  show ∃ t, Host.Outcome.next (takeCredit p k f s) = .next t ∧ _
  refine ⟨_, rfl, ?_⟩
  rw [takeCredit]
  dsimp only
  rw [if_neg (by simp [hlen, hpfc])]
  rcases hmay with hup | hinit
  · rw [if_pos hup, subOf_modSub_same]
    exact ⟨hup, fun h => absurd (hup.symm.trans h) (by decide), fun tc htc => nth_map_rangeFrom (fun i => le f.payload (4 * i) 4) htc 0⟩
  · rw [if_neg (by rw [hinit.1]; decide), if_pos hinit, subOf_linkUp, subOf_modSub_same]
    exact ⟨rfl, fun _ => rfl, fun tc htc => nth_map_rangeFrom (fun i => le f.payload (4 * i) 4) htc 0⟩

/-- Settles O19: each command by its own lemma, LINK_INIT by the phase of the sub-link and what the check finds. -/
theorem linkBringUpCompletes : Obligations.LinkBringUpCompletes := by
  unfold Obligations.LinkBringUpCompletes
  exact ⟨fun _ _ _ => linkTrainingDone_completes, fun _ _ _ => linkInitSend_completes, fun _ _ _ mac _ => linkInit_of_ok mac,
    fun _ _ _ mac _ => linkInit_of_bad mac, fun _ _ _ mac _ => linkInit_of_up mac, fun _ _ _ _ => linkCredit_completes⟩

end Machine
end Sys2Proof

/-! SUPPORT and O20: the return of credits, and the replay of held frames. -/

namespace Sys2Proof
namespace Machine

/-! The return of credits (R134) -/

/-- What a return leaves of a sub-link's cells that nothing holds back: all are counted as returned. -/
def creditsMoved (x : SubState) : SubState :=
  { x with
    returned := (rangeFrom 0 8).map (fun tc => (nth x.returned tc 0 + nth x.unreturned tc 0) % 2 ^ 32)
    unreturned := (rangeFrom 0 8).map (fun _ => 0)
    creditHold := [0, 0, 0, 0, 0, 0, 0, 0] }

theorem nth_eight_zeros (tc : Nat) : nth [0, 0, 0, 0, 0, 0, 0, 0] tc 0 = 0 := by
  by_cases h : tc < 8
  · exact (by decide : ∀ i < 8, nth [0, 0, 0, 0, 0, 0, 0, 0] i 0 = 0) tc h
  · simp [nth, Nat.not_lt.1 h]

/-- While neither the auditor, a full write record nor a CREDIT_HOLD rule holds cells back, LINK_CREDIT_SEND returns them all. -/
theorem exec_linkCreditSend_of_free {s : State} {p k : Nat} (hpfc : portPfc s p = false) (hup : (subOf s p k).phase = .up)
    (haudit : (side s.swc (portDie p)).withhold = false) (hroom : writeRecFull s p = false)
    (hhold : (subOf s p k).creditHold = [0, 0, 0, 0, 0, 0, 0, 0]) :
    ∃ g : SubState → SubState, g (subOf s p k) = creditsMoved (subOf s p k) ∧
      exec (.linkCreditSend p k) s = .next (sendCredit p k (modSub s p k g)) := by
  show ∃ g : SubState → SubState, _ ∧ execLinkCreditSend p k s = _
  unfold execLinkCreditSend
  extract_lets x hold keep move
  rw [if_neg (by simp [hpfc, x, hup])]
  refine ⟨move, ?_, rfl⟩
  have hkeep : keep (subOf s p k) = fun _ => 0 := by
    funext tc
    show (if hold tc then _ else _) = 0
    simp only [hold, haudit, hroom, Bool.false_and, Bool.and_false, Bool.or_self, Bool.false_eq_true, if_false, hhold, nth_eight_zeros,
      Nat.zero_min]
  simp only [move, creditsMoved, hkeep, Nat.sub_zero]

theorem linkCreditSend_completes {s : State} {p k : Nat} (hpfc : portPfc s p = false) (hup : (subOf s p k).phase = .up)
    (haudit : (side s.swc (portDie p)).withhold = false) (hroom : writeRecFull s p = false)
    (hhold : (subOf s p k).creditHold = [0, 0, 0, 0, 0, 0, 0, 0]) :
    ∃ t x, exec (.linkCreditSend p k) s = .next t ∧ t.lft.sent = s.lft.sent ++ [x] ∧ x.port = p ∧ x.sub = k ∧
      x.frame.opcode = Opc.linkCredit ∧ x.frame.payload = (subOf t p k).returned.flatMap (fun v => toLE 4 (v % 2 ^ 32)) ∧
      ∀ tc, tc < 8 → nth (subOf t p k).unreturned tc 0 = 0 ∧
        nth (subOf t p k).returned tc 0 = (nth (subOf s p k).returned tc 0 + nth (subOf s p k).unreturned tc 0) % 2 ^ 32 := by
  obtain ⟨g, hg, hexec⟩ := exec_linkCreditSend_of_free hpfc hup haudit hroom hhold
  obtain ⟨x, hsent, hport, hsub, hopc, hpayload⟩ := sendLink_sent p k Opc.linkCredit
    ((subOf (modSub s p k g) p k).returned.flatMap (fun v => toLE 4 (v % 2 ^ 32))) (modSub s p k g)
  obtain ⟨a, ha⟩ := subOf_sendLink p k Opc.linkCredit
    ((subOf (modSub s p k g) p k).returned.flatMap (fun v => toLE 4 (v % 2 ^ 32))) (modSub s p k g)
  refine ⟨_, x, hexec, hsent, hport, hsub, hopc, ?_, fun tc htc => ?_⟩
  · rw [sendCredit, ha, hpayload]
  · rw [sendCredit, ha, subOf_modSub_same, hg]
    exact ⟨nth_map_rangeFrom (fun _ => 0) htc 0, nth_map_rangeFrom (fun i => (nth _ i 0 + nth _ i 0) % 2 ^ 32) htc 0⟩

/-! Replay (R136) -/

/-- Held frames go onto the wire in their order; of the sub-link at most the agreement's packet number changes. -/
theorem foldl_putWire_sends (p k : Nat) (x : SubState) (fs : List SentFrame) (s : State) :
    let t := fs.foldl (fun u h => putWire p k (ackTrailer x h.trailer) h.frame h.more false u) s
    (t.lft.sent.map (·.frame)) = s.lft.sent.map (·.frame) ++ fs.map (·.frame) ∧ (subOf t p k).cellsSent = (subOf s p k).cellsSent := by
  induction fs generalizing s with
  | nil => exact ⟨(List.append_nil _).symm, rfl⟩
  | cons h r ih =>
    obtain ⟨hsent, hcells⟩ := ih (putWire p k (ackTrailer x h.trailer) h.frame h.more false s)
    obtain ⟨y, hy, -, -, hframe⟩ := putWire_sent p k (ackTrailer x h.trailer) h.frame h.more false s
    obtain ⟨a, ha⟩ := subOf_putWire p k (ackTrailer x h.trailer) h.frame h.more false s
    refine ⟨?_, ?_⟩
    · rw [List.foldl_cons, hsent, hy, List.map_append, List.append_assoc, List.map_cons, List.map_cons, hframe]
      rfl
    · rw [List.foldl_cons, hcells, ha]

/-- A change of a port that leaves its sub-links leaves each of them. -/
theorem subOf_modPort_of_subs {g : PortState → PortState} (hg : ∀ x, (g x).subs = x.subs) (p k : Nat) (s : State) :
    subOf (modPort s p g) p k = subOf s p k := by
  rw [subOf, portOf_modPort_same, hg, subOf]

/-- A replay sends the held frames and consumes no credit. -/
theorem resendFrames_sends (p k : Nat) (fs : List SentFrame) (s : State) :
    (subOf (resendFrames p k fs s) p k).cellsSent = (subOf s p k).cellsSent ∧
      ((resendFrames p k fs s).lft.sent.map (·.frame)) = s.lft.sent.map (·.frame) ++ fs.map (·.frame) := by
  unfold resendFrames
  split_ifs with hnone
  · rw [List.isEmpty_iff.1 hnone]
    exact ⟨rfl, (List.append_nil _).symm⟩
  · obtain ⟨hsent, hcells⟩ := foldl_putWire_sends p k (subOf s p k) fs s
    refine ⟨?_, hsent⟩
    rw [subOf_modSub_same]
    show (subOf (modPort _ p _) p k).cellsSent = _
    rw [subOf_modPort_of_subs]
    · exact hcells
    · exact fun _ => rfl

theorem linkNak_completes {s : State} {p k : Nat} {f : Frame} (hpfc : portPfc s p = false) (hlen : f.payload.length = 4)
    (hup : (subOf s p k).phase = .up) :
    ∃ t, exec (.linkNak p k f) s = .next t ∧ (subOf t p k).cellsSent = (subOf s p k).cellsSent ∧
      (t.lft.sent.map (·.frame)) = s.lft.sent.map (·.frame) ++
        ((subOf s p k).replay.filter (fun h => h.lseq.toNat == le f.payload 0 4 % 2 ^ 24 ||
          newer 24 h.lseq.toNat (le f.payload 0 4 % 2 ^ 24))).map (·.frame) := by
  have htake : takeNak p k f s = resendFrames p k ((subOf s p k).replay.filter (fun h => h.lseq.toNat == le f.payload 0 4 % 2 ^ 24 ||
      newer 24 h.lseq.toNat (le f.payload 0 4 % 2 ^ 24))) s := by
    rw [takeNak]
    exact (if_neg (by simp [hlen, hpfc])).trans (if_neg (by rw [hup]; decide))
  exact ⟨_, congrArg Host.Outcome.next htake, resendFrames_sends p k _ s⟩

theorem replayTimeout_completes {s : State} {p k : Nat} (hup : (subOf s p k).phase = .up) :
    ∃ t, exec (.replayTimeout p k) s = .next t ∧ (subOf t p k).cellsSent = (subOf s p k).cellsSent ∧
      (t.lft.sent.map (·.frame)) = s.lft.sent.map (·.frame) ++ (subOf s p k).replay.map (·.frame) :=
  ⟨_, if_pos hup, resendFrames_sends p k _ s⟩

theorem linkNakRepeat_completes {s : State} {p k : Nat} (hup : (subOf s p k).phase = .up) (hnak : (subOf s p k).nakSent = true) :
    ∃ t x, exec (.linkNakRepeat p k) s = .next t ∧ t.lft.sent = s.lft.sent ++ [x] ∧ x.port = p ∧ x.sub = k ∧
      x.frame.opcode = Opc.linkNak ∧ x.frame.payload = toLE 4 (subOf s p k).rxSeq.toNat := by
  obtain ⟨x, hx⟩ := sendLink_sent p k Opc.linkNak (toLE 4 (subOf s p k).rxSeq.toNat) (modSub s p k (fun x => { x with nakSent := true }))
  exact ⟨_, x, if_pos ⟨hup, hnak⟩, hx⟩

/-- Settles O20: LINK_CREDIT_SEND returns what nothing holds back; a replay sends the frames it is given and changes no credit. -/
theorem creditReturnAndReplayComplete : Obligations.CreditReturnAndReplayComplete := by
  unfold Obligations.CreditReturnAndReplayComplete
  exact ⟨fun _ _ _ => linkCreditSend_completes, fun _ _ _ _ => linkNak_completes, fun _ _ _ => replayTimeout_completes,
    fun _ _ _ => linkNakRepeat_completes⟩

end Machine
end Sys2Proof

/-! SUPPORT and O21: what takes a sub-link out of service, the reset of a port, corrected symbols, and PFC. -/

namespace Sys2Proof
namespace Machine

/-! Loss of lock, silence, replays, bring-up (R138) -/

theorem sublinkLockLoss_completes {s : State} {p k : Nat} (h : (subOf s p k).phase ≠ .down) :
    ∃ t, exec (.sublinkLockLoss p k) s = .next t ∧ subOf t p k = {} ∧ (portOf t p).errStatus.bits.getLsbD 9 = true :=
  ⟨_, if_neg h, subOf_linkDown p k s, errStatus_linkDown p k s⟩

theorem sublinkRxTimeout_completes {s : State} {p k : Nat} (h : (subOf s p k).phase = .up) :
    ∃ t, exec (.sublinkRxTimeout p k) s = .next t ∧ subOf t p k = {} ∧ (portOf t p).errStatus.bits.getLsbD 9 = true :=
  ⟨_, if_pos h, subOf_linkDown p k s, errStatus_linkDown p k s⟩

theorem sublinkReplayLimit_completes {s : State} {p k : Nat} (hup : (subOf s p k).phase = .up) (hreplays : 8 ≤ (subOf s p k).replays) :
    ∃ t, exec (.sublinkReplayLimit p k) s = .next t ∧ subOf t p k = {} ∧ (portOf t p).errStatus.bits.getLsbD 9 = true ∧
      (portOf t p).errStatus.bits.getLsbD 10 = true :=
  ⟨_, if_pos ⟨hup, hreplays⟩, (subOf_setStatus p k 10 _).trans (subOf_linkDown p k s),
    errStatus_setStatus_of_set 10 (errStatus_linkDown p k s), setStatus_port_getLsbD p (by decide) _⟩

theorem sublinkBringupTimeout_completes {s : State} {p k : Nat} (h : (subOf s p k).phase = .keying ∨ (subOf s p k).phase = .init) :
    ∃ t, exec (.sublinkBringupTimeout p k) s = .next t ∧ subOf t p k = {} ∧ (portOf t p).errStatus.bits.getLsbD 9 = true :=
  ⟨_, if_pos h, subOf_linkDown p k s, errStatus_linkDown p k s⟩

/-! Changes one after another -/

/-- What each of some changes does to the state before it, and what holds over two that follow each other, their sequence does. -/
theorem foldl_related {α : Type} {R : State → State → Prop} (refl : ∀ s, R s s) (trans : ∀ {s t u}, R s t → R t u → R s u)
    {f : State → α → State} (h : ∀ t a, R t (f t a)) (l : List α) (s : State) : R s (l.foldl f s) := by
  induction l generalizing s with
  | nil => exact refl s
  | cons a r ih => exact trans (h s a) (ih _)

theorem AllSame.foldl {α : Type} {ps : List Piece} {f : State → α → State} (h : ∀ t a, AllSame ps t (f t a)) (l : List α) (s : State) :
    AllSame ps s (l.foldl f s) := foldl_related (.refl ps) .trans h l s

/-! What the discards of a reset leave of a port: its reset and its write record (R176, R397) -/

/-- Every port has the reset and the write record that it had. -/
def SameResets (s t : State) : Prop := ∀ p, (portOf t p).resetJob = (portOf s p).resetJob ∧ (portOf t p).writeRec = (portOf s p).writeRec

theorem SameResets.refl (s : State) : SameResets s s := fun _ => ⟨rfl, rfl⟩

theorem SameResets.trans {s t u : State} (h : SameResets s t) (k : SameResets t u) : SameResets s u := fun p =>
  ⟨(k p).1.trans (h p).1, (k p).2.trans (h p).2⟩

theorem SameResets.of_ports {s t : State} (h : Piece.lftPorts.same s t) : SameResets s t := fun p => by
  rw [portOf, show t.lft.ports = s.lft.ports from h, ← portOf]
  exact ⟨rfl, rfl⟩

theorem SameResets.foldl {α : Type} {f : State → α → State} (h : ∀ t a, SameResets t (f t a)) (l : List α) (s : State) :
    SameResets s (l.foldl f s) := foldl_related .refl .trans h l s

theorem portOf_modPort_other {p q : Nat} (h : p ≠ q) (g : PortState → PortState) (s : State) : portOf (modPort s q g) p = portOf s p :=
  getD_changeD_other s.lft.ports {} g h

theorem modPort_sameResets {g : PortState → PortState} (q : Nat) (s : State)
    (hg : ∀ x, (g x).resetJob = x.resetJob ∧ (g x).writeRec = x.writeRec) : SameResets s (modPort s q g) := fun p => by
  by_cases h : p = q
  · rw [h, portOf_modPort_same]
    exact hg _
  · rw [portOf_modPort_other h]
    exact ⟨rfl, rfl⟩

theorem modSub_sameResets (q k : Nat) (g : SubState → SubState) (s : State) : SameResets s (modSub s q k g) :=
  modPort_sameResets q s fun _ => ⟨rfl, rfl⟩

theorem modLft_sameResets {g : LftState → LftState} (s : State) (hg : ∀ l, (g l).ports = l.ports) : SameResets s (modLft s g) :=
  .of_ports (hg s.lft)

theorem countDiscard_sameResets (q n : Nat) (s : State) : SameResets s (countDiscard q n s) := modPort_sameResets q s fun _ => ⟨rfl, rfl⟩

theorem pfcXon_sameResets (q k tc : Nat) (s : State) : SameResets s (pfcXon q k tc s) := by
  unfold pfcXon
  dsimp only
  split_ifs
  · exact (modSub_sameResets q k _ s).trans (.of_ports rfl)
  · exact .refl s

theorem leaveIngress_sameResets (x : Desc) (s : State) : SameResets s (leaveIngress x s) := by
  unfold leaveIngress
  split
  · exact .refl s
  · extract_lets tc n s1
    have hs1 : SameResets s s1 := modSub_sameResets _ _ _ s
    split_ifs
    · exact hs1.trans (pfcXon_sameResets _ _ _ s1)
    · exact hs1

theorem letGo_sameResets (d : Die) (x : Desc) (s : State) : SameResets s (letGo d x s) :=
  (leaveIngress_sameResets x s).trans (.of_ports ((freeCells_keeps (Nat.and_self _) (Keeps.refl _ _)).same .lftPorts (by decide +kernel)))

theorem discardQueued_sameResets (d : Die) (q : Nat) (gone : Output → Desc → Bool) (s : State) :
    SameResets s (discardQueued d q gone s) := by
  unfold discardQueued
  extract_lets fs out s1
  have hqueues : SameResets s s1 := .of_ports rfl
  exact (hqueues.trans (.foldl (fun t x => letGo_sameResets d x t) out s1)).trans (countDiscard_sameResets q _ _)

theorem dropInbox_sameResets (d : Die) (fs : List Frame) (s : State) : SameResets s (dropInbox d fs s) :=
  .of_ports ((dropInbox_keeps (Nat.and_self _) (Keeps.refl _ _)).same .lftPorts (by decide +kernel))

theorem discardIngress_sameResets (q : Nat) (s : State) : SameResets s (discardIngress q s) := by
  unfold discardIngress
  extract_lets d mine here kept s1 s2
  have hdrop (t : State) (x : Desc) : SameResets t (dropInbox d (x.frame :: x.more) t) := dropInbox_sameResets d _ t
  have hinbox : SameResets s s1 := SameResets.foldl hdrop here s
  have hreseq : SameResets s1 s2 := modLft_sameResets s1 fun _ => rfl
  exact ((hinbox.trans hreseq).trans (.foldl (fun t x => letGo_sameResets d x t) _ _)).trans (countDiscard_sameResets q _ _)

theorem get?_map_values {α : Type} (f : α → α) (t : Dict α) (k : Nat) : get? (t.map (fun x => (x.1, f x.2))) k = (get? t k).map f := by
  induction t with
  | nil => rfl
  | cons x r ih =>
    obtain ⟨j, v⟩ := x
    rw [List.map_cons, get?, get?, ih]
    split_ifs <;> rfl

/-- A change of the descriptors that a port holds leaves its sub-links, its reset and its write record. -/
theorem portOf_mapDescs (g : Desc → Desc) (p : Nat) (s : State) :
    (portOf (mapDescs g s) p).subs = (portOf s p).subs ∧ (portOf (mapDescs g s) p).resetJob = (portOf s p).resetJob ∧
      (portOf (mapDescs g s) p).writeRec = (portOf s p).writeRec := by
  unfold mapDescs
  extract_lets held pairs port swc home
  show (getD (s.lft.ports.map (fun x => (x.1, port x.2))) p {}).subs = _ ∧ (getD (s.lft.ports.map (fun x => (x.1, port x.2))) p {}).resetJob = _ ∧
    (getD (s.lft.ports.map (fun x => (x.1, port x.2))) p {}).writeRec = _
  rw [getD, get?_map_values, portOf, getD]
  cases get? s.lft.ports p with
  | none => exact ⟨rfl, rfl, rfl⟩
  | some x => exact ⟨rfl, rfl, rfl⟩

theorem subOf_forgetSource (q j p k : Nat) (s : State) : subOf (forgetSource q j s) p k = subOf s p k := by
  rw [subOf, forgetSource, (portOf_mapDescs _ p s).1, subOf]

theorem forgetSource_sameResets (q j : Nat) (s : State) : SameResets s (forgetSource q j s) := fun p => (portOf_mapDescs _ p s).2

/-! PORT_RESET (R397) -/

theorem subOf_modSub_other {p k j : Nat} (h : j ≠ k) (g : SubState → SubState) (s : State) : subOf (modSub s p k g) p j = subOf s p j := by
  rw [subOf, modSub, portOf_modPort_same, subOf]
  exact getD_changeD_other _ _ g h

/-- A sub-link starts anew, and what came in on it is no longer charged to it. -/
def subReset (p k : Nat) (s : State) : State := modSub (forgetSource p k s) p k (fun _ => {})

/-- The sub-links of a list are down after each has been reset, and one that is down stays so. -/
theorem subOf_foldl_subReset (p : Nat) (ks : List Nat) {k : Nat} {s : State} (h : k ∈ ks ∨ subOf s p k = {}) :
    subOf (ks.foldl (fun t j => subReset p j t) s) p k = {} := by
  induction ks generalizing s with
  | nil => exact h.resolve_left (List.not_mem_nil)
  | cons j r ih =>
    refine ih ?_
    show k ∈ r ∨ subOf (subReset p j s) p k = {}
    by_cases hk : k = j
    · rw [hk, subReset, subOf_modSub_same]
      exact .inr rfl
    · refine h.imp (fun hm => (List.mem_cons.1 hm).resolve_left hk) fun hs => ?_
      rw [subReset, subOf_modSub_other hk, subOf_forgetSource, hs]

theorem portSubs_of_same {s t : State} (h : Piece.cfgRecords.same s t) (p : Nat) : portSubs t p = portSubs s p := by
  unfold portSubs portRole portMode recOf
  rw [show t.cfg.records = s.cfg.records from h]

/-- A port reset notes its job, empties the write record, and leaves every sub-link of the port down. -/
theorem resetPort_resets (p job : Nat) (s : State) :
    (portOf (resetPort p job s) p).resetJob = some job ∧ (portOf (resetPort p job s) p).writeRec = [] ∧
      ∀ k ∈ portSubs s p, subOf (resetPort p job s) p k = {} := by
  unfold resetPort
  extract_lets d held own s1 s2 s3 s4 s5
  have hnoted : (portOf s1 p).resetJob = some job ∧ (portOf s1 p).writeRec = [] := by
    show (portOf (modPort s p _) p).resetJob = _ ∧ (portOf (modPort s p _) p).writeRec = _
    rw [portOf_modPort_same]
    exact ⟨rfl, rfl⟩
  have hspray : SameResets s1 s2 := modLft_sameResets s1 fun _ => rfl
  have hheld : SameResets s2 s3 := .trans (.foldl (fun t x => letGo_sameResets d x t) _ _) (countDiscard_sameResets p _ _)
  have hqueued : SameResets s3 s5 :=
    ((discardIngress_sameResets p s3).trans (discardQueued_sameResets d p _ _)).trans (discardQueued_sameResets d p _ _)
  have hsubs : SameResets s5 ((portSubs s p).foldl (fun t k => subReset p k t) s5) :=
    .foldl (fun t k => (forgetSource_sameResets p k t).trans (modSub_sameResets p k _ _)) _ _
  obtain ⟨hjob, hrec⟩ := (((hspray.trans hheld).trans hqueued).trans hsubs) p
  exact ⟨hjob.trans hnoted.1, hrec.trans hnoted.2, fun k hk => subOf_foldl_subReset p _ (.inl hk)⟩

theorem portReset_completes {s : State} {r : CtlReq} (h : CtlReady s 0x41 r) :
    ∃ t, exec (.portReset r) s = .next t ∧ JobAccepted s t 0x41 r [le r.args 0 4] ∧
      (portOf t (le r.args 0 4)).resetJob = some s.cfg.nextJob ∧ (portOf t (le r.args 0 4)).writeRec = [] ∧
      ∀ k ∈ portSubs s (le r.args 0 4), subOf t (le r.args 0 4) k = {} := by
  have hexec : exec (.portReset r) s = .next (portResetOwn r (ctlServed 0x41 r s)) := congrArg Host.Outcome.next (runCtl_of_ready h)
  refine ⟨_, hexec, ?_⟩
  unfold portResetOwn newJob
  dsimp only
  rw [show (ctlServed 0x41 r s).cfg.nextJob = s.cfg.nextJob from rfl]
  generalize hs1 : modCfg (ctlServed 0x41 r s) _ = s1
  have hjob : (⟨s.cfg.nextJob, 0x41, r.srcEp.toNat, r.ctx.toNat, [le r.args 0 4]⟩ : Job) ∈ s1.cfg.jobs := by
    rw [← hs1]
    exact List.mem_append_right _ (List.mem_singleton_self _)
  have hrecords : Piece.cfgRecords.same s s1 := by
    rw [← hs1]
    rfl
  have hanswer : Piece.cfgRecords.same s (jobAnswer 0x41 r s.cfg.nextJob s1) :=
    Piece.same_trans hrecords (ctlAnswer_keepsBut 0x41 r Sts.ok 0 _ s1 .cfgRecords (by decide +kernel))
  have hkept : AllSame [.cfgCmdSeq, .cfgJobs] (jobAnswer 0x41 r s.cfg.nextJob s1)
      (resetPort (le r.args 0 4) s.cfg.nextJob (jobAnswer 0x41 r s.cfg.nextJob s1)) :=
    .of_untouched (resetPort_keeps (Nat.and_self _) (Keeps.refl _ _)) (by decide +kernel)
  obtain ⟨hreset, hrec, hsubs⟩ := resetPort_resets (le r.args 0 4) s.cfg.nextJob (jobAnswer 0x41 r s.cfg.nextJob s1)
  refine ⟨⟨?_, ?_⟩, hreset, hrec, fun k hk => hsubs k ((portSubs_of_same hanswer _).symm ▸ hk)⟩
  · obtain ⟨rest, hrest⟩ := ctlAnswer_answered 0x41 r Sts.ok (toLE 4 s.cfg.nextJob ++ zeros 4) s1
    exact ⟨rest, (congrArg (get? · r.srcEp.toNat) (hkept .cfgCmdSeq (by decide +kernel))).trans hrest⟩
  · have hjobs : (jobAnswer 0x41 r s.cfg.nextJob s1).cfg.jobs = s1.cfg.jobs := ctlAnswer_jobs 0x41 r Sts.ok 0 _ s1
    rw [show (resetPort _ _ _).cfg.jobs = _ from hkept .cfgJobs (by decide +kernel), hjobs]
    exact hjob

/-- The end of a job changes no port. -/
theorem jobDone_allSame (n : Nat) (st : BitVec 5) (detail : Nat) (s : State) : AllSame [.lftPorts] s (jobDone n st detail s) :=
  .of_untouched (jobDone_keeps (Nat.and_self _) (Keeps.refl _ _)) (by decide +kernel)

theorem portResetComplete_completes {s : State} {p : Nat} (h : (portOf s p).resetJob.isSome = true) :
    ∃ t, exec (.portResetComplete p) s = .next t ∧ (portOf t p).resetJob = none ∧
      ((portSubs s p).all (fun k => (subOf s p k).phase == .up) = true → (portOf t p).subs = (portOf s p).subs) := by
  obtain ⟨job, hjob⟩ := Option.isSome_iff_exists.1 h
  show ∃ t, execPortResetComplete p s = .next t ∧ _
  unfold execPortResetComplete
  rw [hjob]
  dsimp only
  refine ⟨_, rfl, ?_⟩
  generalize (if ((portSubs s p).filter (fun k => (subOf s p k).phase != .up)).isEmpty then Sts.ok else Sts.aborted) = st
  generalize s.cfg.jobs.filter _ = jobs
  generalize hs1 : modPort _ p _ = s1
  have hports : portOf (jobs.foldl (fun t j => jobDone j.num st 0 t) s1) p = portOf s1 p := by
    have hends := AllSame.foldl (fun t (j : Job) => jobDone_allSame j.num st 0 t) jobs s1
    rw [portOf, show _ = s1.lft.ports from hends .lftPorts (by decide +kernel), ← portOf]
  rw [hports, ← hs1, portOf_modPort_same]
  refine ⟨rfl, fun hall => ?_⟩
  have hbad : (portSubs s p).filter (fun k => (subOf s p k).phase != .up) = [] := by
    rw [List.filter_eq_nil_iff]
    intro k hk
    have := List.all_eq_true.1 hall k hk
    simpa using this
  rw [hbad]
  rfl

/-! FEC_DEGRADE_CHECK (R147) -/

/-- The corrected codewords that are counted for some corrected symbols: a free value between one for 15 and one for each. -/
def fecWords (corrected : Nat) (s : State) : Nat :=
  ceilDiv corrected 15 + (Config.freeValue s.freeCtr).toNat % (corrected - ceilDiv corrected 15 + 1)

theorem fecWords_le (corrected : Nat) (s : State) : fecWords corrected s ≤ corrected := by
  have hfree : (Config.freeValue s.freeCtr).toNat % (corrected - ceilDiv corrected 15 + 1) < corrected - ceilDiv corrected 15 + 1 :=
    Nat.mod_lt _ (Nat.succ_pos _)
  have hleast : ceilDiv corrected 15 ≤ corrected := by
    rw [ceilDiv]
    omega
  rw [fecWords]
  omega

theorem fecDegradeCheck_completes (s : State) (p symbols corrected : Nat) :
    ∃ t w, exec (.fecDegradeCheck p symbols corrected) s = .next t ∧ ceilDiv corrected 15 ≤ w ∧ w ≤ corrected ∧
      (portOf t p).fecCorr = satAdd (portOf s p).fecCorr w (2 ^ 64 - 1) ∧
      (symbols < corrected * 100000 → (portOf t p).errStatus.bits.getLsbD 7 = true) := by
  refine ⟨_, fecWords corrected s, rfl, Nat.le_add_right _ _, fecWords_le corrected s, ?_⟩
  show (portOf (if symbols < corrected * 100000 then setStatus (.prt p) 7 (modPort _ p _) else modPort _ p _) p).fecCorr = _ ∧
    (symbols < corrected * 100000 →
      (portOf (if symbols < corrected * 100000 then setStatus (.prt p) 7 (modPort _ p _) else modPort _ p _) p).errStatus.bits.getLsbD 7 = true)
  split_ifs with hmany
  · rw [portOf_setStatus, portOf_modPort_same]
    exact ⟨rfl, fun _ => Sticky.set_getLsbD _ (by decide)⟩
  · rw [portOf_modPort_same]
    exact ⟨rfl, fun h => absurd h hmany⟩

/-! PFC (R139) -/

theorem pfcFrame_completes {s : State} {p k prio : Nat} (quanta : Nat) (hpfc : portPfc s p = true) (hup : (subOf s p k).phase = .up)
    (hprio : prio < (subOf s p k).paused.length) :
    ∃ t, exec (.pfcFrame p k prio quanta) s = .next t ∧ nth (subOf t p k).paused prio false = decide (quanta ≠ 0) := by
  refine ⟨_, if_pos ⟨hpfc, hup⟩, ?_⟩
  rw [subOf_modSub_same]
  refine (nth_setAt_same hprio).trans ?_
  by_cases h : quanta = 0 <;> simp [h]

/-- An entry set to what an absent one reads reads so, whether or not it is there. -/
theorem nth_setAt_default {α : Type} (l : List α) (i : Nat) (d : α) : nth (setAt l i d) i d = d := by
  induction l generalizing i with
  | nil => rfl
  | cons x r ih =>
    cases i with
    | zero => rfl
    | succ n => exact ih n

theorem pfcPauseExpiry_completes (s : State) (p k prio : Nat) :
    ∃ t, exec (.pfcPauseExpiry p k prio) s = .next t ∧ nth (subOf t p k).paused prio false = false := by
  refine ⟨_, rfl, ?_⟩
  rw [subOf_modSub_same]
  exact nth_setAt_default _ prio false

/-- PFC frames of one sub-link go out in the order of their classes. -/
theorem foldl_sendPfc_pfcSent (p k quanta : Nat) (tcs : List Nat) (s : State) :
    (tcs.foldl (fun t tc => sendPfc p k tc quanta t) s).lft.pfcSent = s.lft.pfcSent ++ tcs.map (fun tc => (p, k, tc, quanta)) := by
  induction tcs generalizing s with
  | nil => exact (List.append_nil _).symm
  | cons tc r ih => exact (ih _).trans (List.append_assoc _ _ _)

theorem pfcXoffRefresh_completes {s : State} {p k : Nat} (hpfc : portPfc s p = true) (hup : (subOf s p k).phase = .up) :
    ∃ t, exec (.pfcXoffRefresh p k) s = .next t ∧ KeepsBut [.lftPfcSent] s t ∧
      t.lft.pfcSent = s.lft.pfcSent ++ ((rangeFrom 0 8).filter (fun tc => nth (subOf s p k).xoff tc false)).map (fun tc => (p, k, tc, 0xFFFF)) :=
  ⟨_, if_pos ⟨hpfc, hup⟩, keepsBut_of_maskOf (keeps_foldl (fun _ _ => sendPfc_keeps (by decide +kernel) (Keeps.refl _ _)) (Keeps.refl _ _)),
    foldl_sendPfc_pfcSent p k 0xFFFF _ s⟩

/-- Settles O21: each command by its own lemma. -/
theorem subLinksLeaveServiceAndPfcCommandsComplete : Obligations.SubLinksLeaveServiceAndPfcCommandsComplete := by
  unfold Obligations.SubLinksLeaveServiceAndPfcCommandsComplete
  exact ⟨⟨fun _ _ _ => sublinkLockLoss_completes, fun _ _ _ => sublinkRxTimeout_completes, fun _ _ _ => sublinkReplayLimit_completes,
      fun _ _ _ => sublinkBringupTimeout_completes, fun _ _ => portReset_completes, fun _ _ => portResetComplete_completes,
      fecDegradeCheck_completes⟩,
    fun _ _ _ _ quanta => pfcFrame_completes quanta, pfcPauseExpiry_completes, fun _ _ _ => pfcXoffRefresh_completes⟩

end Machine
end Sys2Proof

/-! SUPPORT and the first half of O23: what entering the fabric does to streams and barriers, and the resequencers. -/

namespace Sys2Proof
namespace Machine

/-! A frame enters the fabric (R140 to R143) -/

/-- The state with a spray stream replaced. -/
def sprayPut (k : Nat) (st : SprayTx) (s : State) : State := modLft s (fun l => { l with spray := put l.spray k st })

/-- The state in which a barrier holds one frame more. -/
def barrierHolds (sw : Nat) (b : BarrierTx) (d : Die) (x : Desc) (s : State) : State :=
  modLft s (fun l => { l with barrierTx := put l.barrierTx sw { b with held := b.held ++ [(dieNum d, x)] } })

/-- What entering the fabric can do: the frame is put on its way; the barrier toward its switch holds it; or its stream changes, but for
what is acknowledged of it, and the frame is held there or put on its way. -/
theorem enter_cases (d : Die) (x : Desc) (shift : Nat) (s : State) :
    (∃ y path, enter d x shift s = putOnWay d y path s) ∨
    (∃ b, get? s.lft.barrierTx (routedTo s x.frame) = some b ∧ enter d x shift s = barrierHolds (routedTo s x.frame) b d x s) ∨
    (∃ k st, st.acked = (getD s.lft.spray k {}).acked ∧
      (enter d x shift s = sprayPut k st s ∨ ∃ y path, enter d x shift s = putOnWay d y path (sprayPut k st s))) := by
  unfold enter
  dsimp only
  by_cases hhere : answersFor s (destSwitch x.frame) = true
  · rw [if_pos hhere]
    exact .inl ⟨_, _, rfl⟩
  · rw [if_neg hhere]
    split
    · rename_i b hb
      exact .inr (.inl ⟨b, hb, rfl⟩)
    · split_ifs
      · exact .inr (.inr ⟨_, _, by exact rfl, .inl rfl⟩)
      · exact .inr (.inr ⟨_, _, by exact rfl, .inr ⟨_, _, rfl⟩⟩)
      · exact .inl ⟨_, _, rfl⟩

/-- A frame on its way to its output changes neither streams nor barriers nor resequencers. -/
theorem putOnWay_allSame (d : Die) (x : Desc) (path : Nat) (s : State) :
    AllSame [.lftSpray, .lftReseq, .lftBarrierTx, .lftBarrierRx, .lftLivePaths, .lftSprayIn] s (putOnWay d x path s) :=
  .of_untouched (putOnWay_keeps (Nat.and_self _) (Keeps.refl _ _)) (by decide +kernel)

theorem enter_livePaths (d : Die) (x : Desc) (shift : Nat) (s : State) : (enter d x shift s).lft.livePaths = s.lft.livePaths :=
  (AllSame.of_untouched (l := [.lftLivePaths]) (enter_keeps (Nat.and_self _) (Keeps.refl _ s)) (by decide +kernel)) .lftLivePaths (by decide +kernel)

/-! What is acknowledged of a stream (R142) -/

/-- Of every stream as much is acknowledged as was. -/
def SameAcked (s t : State) : Prop := ∀ k, (getD t.lft.spray k {}).acked = (getD s.lft.spray k {}).acked

theorem SameAcked.refl (s : State) : SameAcked s s := fun _ => rfl

theorem SameAcked.trans {s t u : State} (h : SameAcked s t) (k : SameAcked t u) : SameAcked s u := fun i => (k i).trans (h i)

theorem SameAcked.of_spray {s t : State} (h : Piece.lftSpray.same s t) : SameAcked s t := fun k => by
  rw [show t.lft.spray = s.lft.spray from h]

theorem SameAcked.foldl {α : Type} {f : State → α → State} (h : ∀ t a, SameAcked t (f t a)) (l : List α) (s : State) :
    SameAcked s (l.foldl f s) := foldl_related .refl .trans h l s

theorem sprayPut_sameAcked {k : Nat} {st : SprayTx} {s : State} (h : st.acked = (getD s.lft.spray k {}).acked) :
    SameAcked s (sprayPut k st s) := fun i => by
  show ((get? (put s.lft.spray k st) i).getD {}).acked = _
  by_cases hi : i = k
  · rw [hi, get?_put_same]
    exact h
  · rw [get?_put_other hi, getD]

theorem enter_sameAcked (d : Die) (x : Desc) (shift : Nat) (s : State) : SameAcked s (enter d x shift s) := by
  have hway (y : Desc) (path : Nat) (u : State) : SameAcked u (putOnWay d y path u) :=
    .of_spray (putOnWay_allSame d y path u .lftSpray (by decide +kernel))
  rcases enter_cases d x shift s with ⟨y, path, h⟩ | ⟨b, -, h⟩ | ⟨k, st, hst, h | ⟨y, path, h⟩⟩ <;> rw [h]
  · exact hway y path s
  · exact .of_spray rfl
  · exact sprayPut_sameAcked hst
  · exact (sprayPut_sameAcked hst).trans (hway y path _)

theorem releaseWindow_sameAcked (sw tc : Nat) (s : State) : SameAcked s (releaseWindow sw tc s) := by
  unfold releaseWindow
  extract_lets k st
  have hemptied : SameAcked s (sprayPut k { st with held := [] } s) := sprayPut_sameAcked rfl
  have henter (t : State) (x : Nat × Desc) : SameAcked t (enter (dieOf x.1) x.2 0 t) := enter_sameAcked _ _ _ t
  exact hemptied.trans (SameAcked.foldl henter st.held _)

/-! Resequencers (R142) -/

theorem reseqOf_modReseq_same (sw tc : Nat) (g : Reseq → Reseq) (s : State) : reseqOf (modReseq s sw tc g) sw tc = g (reseqOf s sw tc) :=
  getD_changeD_same s.lft.reseq (sw * 8 + tc) {} g

theorem reseqOf_modReseq_other {sw tc j : Nat} (h : j ≠ tc) (g : Reseq → Reseq) (s : State) :
    reseqOf (modReseq s sw tc g) sw j = reseqOf s sw j :=
  getD_changeD_other s.lft.reseq {} g (by omega)

theorem reseqOf_of_same {s t : State} (h : Piece.lftReseq.same s t) (sw tc : Nat) : reseqOf t sw tc = reseqOf s sw tc := by
  rw [reseqOf, show t.lft.reseq = s.lft.reseq from h, reseqOf]

theorem sendRaw_allSame (d : Die) (f : Frame) (s : State) :
    AllSame [.lftReseq, .lftBarrierRx, .lftSprayIn, .cfgRecords] s (sendRaw d f s) :=
  .of_untouched (sendRaw_keeps (Nat.and_self _) (Keeps.refl _ _)) (by decide +kernel)

/-- An acknowledgement leaves nothing of its stream unacknowledged, and every other stream as it was. -/
theorem reseqOf_sendReseqAck_same (sw tc : Nat) (s : State) :
    reseqOf (sendReseqAck sw tc s) sw tc = { reseqOf s sw tc with unacked := 0 } := by
  rw [sendReseqAck]
  exact (reseqOf_of_same (sendRaw_allSame _ _ _ .lftReseq (by decide +kernel)) sw tc).trans (reseqOf_modReseq_same sw tc _ s)

theorem reseqOf_sendReseqAck_other {sw tc j : Nat} (h : j ≠ tc) (s : State) : reseqOf (sendReseqAck sw tc s) sw j = reseqOf s sw j := by
  rw [sendReseqAck]
  exact (reseqOf_of_same (sendRaw_allSame _ _ _ .lftReseq (by decide +kernel)) sw j).trans (reseqOf_modReseq_other h _ s)

/-- A released frame leaves its slot and goes on its way. -/
theorem reseqOf_releaseAt_same {sw tc pos : Nat} {s : State} {x : Desc} (h : get? (reseqOf s sw tc).held pos = some x) :
    reseqOf (releaseAt sw tc pos s) sw tc = { reseqOf s sw tc with held := del (reseqOf s sw tc).held pos } := by
  unfold releaseAt
  rw [h]
  exact (reseqOf_of_same (putOnWay_allSame _ x 0 _ .lftReseq (by decide +kernel)) sw tc).trans (reseqOf_modReseq_same sw tc _ s)

theorem releaseRun_of_gap {sw tc : Nat} {s : State} (h : get? (reseqOf s sw tc).held ((reseqOf s sw tc).next % 64) = none) (n : Nat) :
    releaseRun n sw tc s = s := by
  cases n with
  | zero => rfl
  | succ n =>
    rw [releaseRun]
    exact if_pos (by rw [h]; rfl)

/-- The state in which the frame at the next position has been released, acknowledged where it is the sixteenth. -/
def releasedNext (sw tc : Nat) (s : State) : State :=
  let r := reseqOf s sw tc
  let s1 := modReseq (releaseAt sw tc (r.next % 64) s) sw tc (fun q => { q with next := (r.next + 1) % 2 ^ 32, unacked := r.unacked + 1 })
  if 16 ≤ r.unacked + 1 then sendReseqAck sw tc s1 else s1

theorem releaseRun_of_held {sw tc : Nat} {s : State} {x : Desc} (h : get? (reseqOf s sw tc).held ((reseqOf s sw tc).next % 64) = some x)
    (n : Nat) : releaseRun (n + 1) sw tc s = releaseRun n sw tc (releasedNext sw tc s) := by
  rw [releaseRun]
  exact if_neg (by rw [h]; exact Bool.false_ne_true)

theorem reseqOf_releasedNext {sw tc : Nat} {s : State} {x : Desc}
    (h : get? (reseqOf s sw tc).held ((reseqOf s sw tc).next % 64) = some x) :
    (reseqOf (releasedNext sw tc s) sw tc).held = del (reseqOf s sw tc).held ((reseqOf s sw tc).next % 64) ∧
      (reseqOf (releasedNext sw tc s) sw tc).next = ((reseqOf s sw tc).next + 1) % 2 ^ 32 := by
  unfold releasedNext
  extract_lets r s1
  have hs1 : (reseqOf s1 sw tc).held = del r.held (r.next % 64) ∧ (reseqOf s1 sw tc).next = (r.next + 1) % 2 ^ 32 := by
    show (reseqOf (modReseq _ sw tc _) sw tc).held = _ ∧ (reseqOf (modReseq _ sw tc _) sw tc).next = _
    rw [reseqOf_modReseq_same, reseqOf_releaseAt_same h]
    exact ⟨rfl, rfl⟩
  split_ifs
  · rw [reseqOf_sendReseqAck_same]
    exact hs1
  · exact hs1

/-! SPRAYED_FRAME_RESEQUENCE, RESEQ_ACK_TIMER, RESEQ_ACK (R142) -/

/-- The state in which a sprayed frame has entered the slot of its number in its stream. -/
def seated (sw tc : Nat) (x : Desc) (s : State) : State :=
  modReseq s sw tc (fun r => { r with held := put r.held (x.trailer.spreadSeq.toNat % 64) { x with viaStalk := false } })

theorem resequence_eq {x : Desc} {sw tc : Nat} (hsw : epSwitch x.frame.srcEp.toNat = sw) (htc : x.frame.tc.toNat = tc) (s : State) :
    resequence x s = releaseRun 64 sw tc (seated sw tc x s) := by
  subst hsw htc
  rfl

theorem reseqOf_seated (sw tc : Nat) (x : Desc) (s : State) : reseqOf (seated sw tc x s) sw tc =
    { reseqOf s sw tc with held := put (reseqOf s sw tc).held (x.trailer.spreadSeq.toNat % 64) { x with viaStalk := false } } :=
  reseqOf_modReseq_same sw tc _ s

theorem resequence_sprayIn (x : Desc) (s : State) : (resequence x s).lft.sprayIn = s.lft.sprayIn :=
  (AllSame.of_untouched (l := [.lftSprayIn]) (resequence_keeps (Nat.and_self _) (Keeps.refl _ s)) (by decide +kernel)) .lftSprayIn (by decide +kernel)

/-- The one sprayed frame on its way to a die's resequencer enters it. -/
theorem exec_sprayedFrameResequence_of_alone {s : State} {d : Die} {a : Nat} {x : Desc} (hin : s.lft.sprayIn = [(a, x)])
    (hdie : reseqDie s (epSwitch x.frame.srcEp.toNat) = d) :
    ∃ u, exec (.sprayedFrameResequence d x.frame) s = .next (resequence x u) ∧ u.lft.sprayIn = [] ∧ u.lft.reseq = s.lft.reseq := by
  show ∃ u, execSprayedFrameResequence d x.frame s = _ ∧ _
  unfold execSprayedFrameResequence
  extract_lets it
  have hit : it (a, x) = true := by simp [it, hdie]
  rw [hin, List.find?_cons_of_pos hit]
  refine ⟨_, rfl, ?_, rfl⟩
  show dropFirst it s.lft.sprayIn = []
  rw [hin, dropFirst, if_pos hit]

theorem sprayedFrameResequence_held {s : State} {d : Die} {a : Nat} {x : Desc} {sw tc : Nat} (hin : s.lft.sprayIn = [(a, x)])
    (hsw : epSwitch x.frame.srcEp.toNat = sw) (htc : x.frame.tc.toNat = tc) (hdie : reseqDie s sw = d)
    (hpos : x.trailer.spreadSeq.toNat % 64 ≠ (reseqOf s sw tc).next % 64)
    (hgap : get? (reseqOf s sw tc).held ((reseqOf s sw tc).next % 64) = none) :
    ∃ t y, exec (.sprayedFrameResequence d x.frame) s = .next t ∧ t.lft.sprayIn = [] ∧
      get? (reseqOf t sw tc).held (x.trailer.spreadSeq.toNat % 64) = some y ∧ y.frame = x.frame ∧
      (reseqOf t sw tc).next = (reseqOf s sw tc).next := by
  obtain ⟨u, hexec, hspray, hreseq⟩ := exec_sprayedFrameResequence_of_alone hin (hsw ▸ hdie)
  have hseat := reseqOf_seated sw tc x u
  rw [reseqOf_of_same (s := s) (t := u) hreseq] at hseat
  have hstays : resequence x u = seated sw tc x u := by
    rw [resequence_eq hsw htc]
    refine releaseRun_of_gap ?_ 64
    rw [hseat]
    exact (get?_put_other (Ne.symm hpos)).trans hgap
  refine ⟨_, { x with viaStalk := false }, hexec, (resequence_sprayIn x u).trans hspray, ?_, rfl, ?_⟩
  · rw [hstays, hseat]
    exact get?_put_same
  · rw [hstays, hseat]

theorem sprayedFrameResequence_released {s : State} {d : Die} {a : Nat} {x : Desc} {sw tc : Nat} (hin : s.lft.sprayIn = [(a, x)])
    (hsw : epSwitch x.frame.srcEp.toNat = sw) (htc : x.frame.tc.toNat = tc) (hdie : reseqDie s sw = d)
    (hpos : x.trailer.spreadSeq.toNat % 64 = (reseqOf s sw tc).next % 64) (hnone : (reseqOf s sw tc).held = []) :
    ∃ t, exec (.sprayedFrameResequence d x.frame) s = .next t ∧ t.lft.sprayIn = [] ∧ (reseqOf t sw tc).held = [] ∧
      (reseqOf t sw tc).next = ((reseqOf s sw tc).next + 1) % 2 ^ 32 := by
  obtain ⟨u, hexec, hspray, hreseq⟩ := exec_sprayedFrameResequence_of_alone hin (hsw ▸ hdie)
  have hseat := reseqOf_seated sw tc x u
  rw [reseqOf_of_same (s := s) (t := u) hreseq, hpos, hnone] at hseat
  have hdue : get? (reseqOf (seated sw tc x u) sw tc).held ((reseqOf (seated sw tc x u) sw tc).next % 64) =
      some { x with viaStalk := false } := by
    rw [hseat]
    exact get?_put_same
  obtain ⟨hheld, hnext⟩ := reseqOf_releasedNext hdue
  rw [hseat] at hheld hnext
  have hempty : (reseqOf (releasedNext sw tc (seated sw tc x u)) sw tc).held = [] := by
    rw [hheld]
    simp [put, del]
  have hdone : resequence x u = releasedNext sw tc (seated sw tc x u) := by
    rw [resequence_eq hsw htc, releaseRun_of_held hdue, releaseRun_of_gap (by rw [hempty]; rfl)]
  refine ⟨_, hexec, (resequence_sprayIn x u).trans hspray, ?_⟩
  rw [hdone]
  exact ⟨hempty, hnext⟩

theorem reseqAckTimer_completes {s : State} {sw tc : Nat} (h : (reseqOf s sw tc).unacked ≠ 0) :
    ∃ t, exec (.reseqAckTimer sw tc) s = .next t ∧ (reseqOf t sw tc).unacked = 0 ∧ (reseqOf t sw tc).next = (reseqOf s sw tc).next := by
  refine ⟨_, if_neg h, ?_⟩
  rw [reseqOf_sendReseqAck_same]
  exact ⟨rfl, rfl⟩

theorem reseqAck_completes {s : State} (d : Die) {f : Frame} (htc : le f.payload 0 1 ≤ 2) (hlen : f.payload.length = 8) :
    ∃ t, exec (.reseqAck d f) s = .next t ∧
      (getD t.lft.spray (epSwitch f.srcEp.toNat * 8 + le f.payload 0 1) {}).acked = le f.payload 4 4 := by
  show ∃ t, execReseqAck d f s = .next t ∧ _
  unfold execReseqAck
  extract_lets s1 sw tc s2
  rw [if_neg (by omega)]
  refine ⟨_, rfl, ?_⟩
  have hacked : (getD s2.lft.spray (sw * 8 + tc) {}).acked = le f.payload 4 4 :=
    congrArg SprayTx.acked (getD_changeD_same s1.lft.spray (sw * 8 + tc) {} fun r => { r with acked := le f.payload 4 4 })
  split_ifs
  · exact hacked
  · exact (releaseWindow_sameAcked sw tc s2 _).trans hacked

end Machine
end Sys2Proof

/-! SUPPORT and O23: path barriers at the entry switch and at the destination. -/

namespace Sys2Proof
namespace Machine

/-! PATH_BARRIER_START (R143 steps 1 and 2) -/

theorem sendBarrier_allSame (sw id n tc path : Nat) (s : State) :
    AllSame [.lftBarrierTx, .lftNextBarrier] s (sendBarrier sw id n tc path s) :=
  .of_untouched (sendBarrier_keeps (Nat.and_self _) (Keeps.refl _ _)) (by decide +kernel)

/-- A barrier stands open under the next number for the paths live now; what is sent for it changes neither. -/
theorem startBarrier_opens (sw : Nat) (s : State) :
    get? (startBarrier sw s).lft.barrierTx sw =
        some ⟨s.lft.nextBarrier, liveNow s sw, (get? s.lft.barrierTx sw).elim [] (·.held)⟩ ∧
      (startBarrier sw s).lft.nextBarrier = (s.lft.nextBarrier + 1) % 2 ^ 32 := by
  unfold startBarrier
  extract_lets now old on id held s1
  have hsend (c : Nat) (u : State) (tc : Nat) : AllSame [.lftBarrierTx, .lftNextBarrier] u (sendBarrier sw id on.length tc c u) :=
    sendBarrier_allSame sw id on.length tc c u
  have hpath (u : State) (c : Nat) : AllSame [.lftBarrierTx, .lftNextBarrier] u
      ((rangeFrom 0 8).foldl (fun u tc => sendBarrier sw id on.length tc c u) u) := AllSame.foldl (hsend c) _ u
  have hopen : s1.lft.barrierTx = put s.lft.barrierTx sw ⟨id, now, held⟩ := rfl
  have hnext : s1.lft.nextBarrier = (id + 1) % 2 ^ 32 := rfl
  have hsent := AllSame.foldl hpath on s1
  clear_value s1
  refine ⟨?_, Eq.trans (hsent .lftNextBarrier (by decide +kernel)) hnext⟩
  rw [show _ = s1.lft.barrierTx from hsent .lftBarrierTx (by decide +kernel), hopen]
  exact get?_put_same

theorem pathBarrierStart_completes {s : State} {sw : Nat} (hhere : answersFor s sw = false) (hnone : get? s.lft.barrierTx sw = none)
    (hlive : liveNow s sw ≠ getD s.lft.livePaths sw []) :
    ∃ t b, exec (.pathBarrierStart sw) s = .next t ∧ get? t.lft.barrierTx sw = some b ∧ b.id = s.lft.nextBarrier ∧
      b.paths = liveNow s sw ∧ t.lft.nextBarrier = (s.lft.nextBarrier + 1) % 2 ^ 32 := by
  have hexec : exec (.pathBarrierStart sw) s = .next (startBarrier sw s) := by
    show execPathBarrierStart sw s = _
    unfold execPathBarrierStart
    rw [hnone, hhere]
    exact if_neg (by simpa using hlive)
  obtain ⟨hopen, hnext⟩ := startBarrier_opens sw s
  exact ⟨_, _, hexec, hopen, rfl, rfl, hnext⟩

/-! PATH_BARRIER at the destination (R143 steps 3 to 5) -/

theorem releaseAt_next (sw tc pos j : Nat) (s : State) : (reseqOf (releaseAt sw tc pos s) sw j).next = (reseqOf s sw j).next := by
  unfold releaseAt
  split
  · rfl
  · rename_i x hx
    rw [reseqOf_of_same (putOnWay_allSame _ x 0 _ .lftReseq (by decide +kernel))]
    by_cases hj : j = tc
    · rw [hj, reseqOf_modReseq_same]
    · rw [reseqOf_modReseq_other hj]

theorem releaseHeld_next (sw tc j : Nat) (s : State) : (reseqOf (releaseHeld sw tc s) sw j).next = (reseqOf s sw j).next := by
  unfold releaseHeld
  exact foldl_related (R := fun t u => (reseqOf u sw j).next = (reseqOf t sw j).next) (fun _ => rfl) (fun h k => k.trans h)
    (fun t n => releaseAt_next sw tc (n % 64) j t) _ s

/-- The numbers below a barrier's value are passed over: it becomes NEXT. -/
theorem passBarrier_next_same {s : State} {sw tc : Nat} (value : Nat) (h : hasSlot s sw tc = true) :
    (reseqOf (passBarrier sw tc value s) sw tc).next = value := by
  unfold passBarrier
  rw [h, if_neg (by decide)]
  extract_lets r n s1
  have hs1 : (reseqOf s1 sw tc).next = value :=
    congrArg Reseq.next (reseqOf_modReseq_same sw tc (fun q => { q with next := value, unacked := n }) _)
  clear_value s1 n
  split_ifs
  · rw [reseqOf_sendReseqAck_same]
    exact hs1
  · exact hs1

theorem passBarrier_next_other {sw tc j : Nat} (hj : j ≠ tc) (value : Nat) (s : State) :
    (reseqOf (passBarrier sw tc value s) sw j).next = (reseqOf s sw j).next := by
  unfold passBarrier
  split_ifs
  · rfl
  · extract_lets r n s1
    have hs1 : (reseqOf s1 sw j).next = (reseqOf s sw j).next := by
      show (reseqOf (modReseq _ sw tc _) sw j).next = _
      rw [reseqOf_modReseq_other hj, releaseHeld_next]
    split_ifs
    · rw [reseqOf_sendReseqAck_other hj]
      exact hs1
    · exact hs1

theorem passBarrier_allSame (sw tc value : Nat) (s : State) :
    AllSame [.lftBarrierRx, .cfgRecords] s (passBarrier sw tc value s) :=
  .of_untouched (passBarrier_keeps (Nat.and_self _) (Keeps.refl _ _)) (by decide +kernel)

theorem hasSlot_passBarrier (sw tc value j : Nat) (s : State) : hasSlot (passBarrier sw tc value s) sw j = hasSlot s sw j := by
  unfold hasSlot recOf
  rw [show _ = s.cfg.records from passBarrier_allSame sw tc value s .cfgRecords (by decide +kernel)]

/-- The classes pass a barrier one after another, and each leaves the others' NEXT. -/
theorem passBarriers_next {s : State} {sw tc : Nat} (value : Nat → Nat) (htc : tc < 3) (h : hasSlot s sw tc = true) :
    (reseqOf ((rangeFrom 0 3).foldl (fun t i => passBarrier sw i (value i) t) s) sw tc).next = value tc := by
  show (reseqOf (passBarrier sw 2 (value 2) (passBarrier sw 1 (value 1) (passBarrier sw 0 (value 0) s))) sw tc).next = value tc
  obtain rfl | rfl | rfl : tc = 0 ∨ tc = 1 ∨ tc = 2 := by omega
  · rw [passBarrier_next_other (by decide), passBarrier_next_other (by decide), passBarrier_next_same _ h]
  · rw [passBarrier_next_other (by decide), passBarrier_next_same _ (by rwa [hasSlot_passBarrier])]
  · rw [passBarrier_next_same _ (by rwa [hasSlot_passBarrier, hasSlot_passBarrier])]

/-- A collection of which nothing has arrived yet. -/
def barrierFresh (f : Frame) : BarrierRx :=
  ⟨le f.payload 0 4, le f.payload 4 1, [0, 0, 0, 0, 0, 0, 0, 0], [0, 0, 0, 0, 0, 0, 0, 0]⟩

/-- A collection with one PATH_BARRIER more. -/
def barrierCounted (f : Frame) (b : BarrierRx) : BarrierRx :=
  { b with got := modAt b.got f.tc.toNat (· + 1), values := setAt b.values f.tc.toNat (le f.payload 8 4) }

/-- Have as many PATH_BARRIERs of every class arrived as the frame says there are paths? -/
def barrierFull (f : Frame) (b : BarrierRx) : Bool := b.got.all (fun c => decide (le f.payload 4 1 ≤ c))

/-- The state in which a collection has ended: the classes have passed it, and it is acknowledged. -/
def barrierPassed (sw : Nat) (d : Die) (f : Frame) (b : BarrierRx) (s u : State) : State :=
  let s2 := (rangeFrom 0 3).foldl (fun t tc => passBarrier sw tc (nth b.values tc 0) t) u
  sendRaw d { opcode := Opc.pathBarrierAck, tc := 7#3, srcEp := BitVec.ofNat 20 (agentEp s d), addr := epAddr f.srcEp.toNat 0,
              length := 4#16, payload := toLE 4 (le f.payload 0 4) } (modLft s2 (fun l => { l with barrierRx := del l.barrierRx sw }))

/-- A PATH_BARRIER before which nothing still arrives is counted in its collection, which ends where it is full. -/
theorem exec_pathBarrier {s : State} (d : Die) {f : Frame} {b : BarrierRx} {sw : Nat} (hsw : epSwitch f.srcEp.toNat = sw)
    (hlen : f.payload.length = 12) (hcount : le f.payload 4 1 ≠ 0) (hcross : crossing s sw f.tc.toNat = false)
    (hspray : s.lft.sprayIn.all (fun x => epSwitch x.2.frame.srcEp.toNat != sw) = true)
    (hb : (get? s.lft.barrierRx sw = none ∧ b = barrierFresh f) ∨ (get? s.lft.barrierRx sw = some b ∧ b.id = le f.payload 0 4)) :
    ∃ u, u.cfg = s.cfg ∧ u.lft.barrierRx = s.lft.barrierRx ∧ exec (.pathBarrier d f) s = .next
      (if barrierFull f (barrierCounted f b) then barrierPassed sw d f (barrierCounted f b) s u
        else modLft u (fun l => { l with barrierRx := put l.barrierRx sw (barrierCounted f b) })) := by
  subst hsw
  show ∃ u, _ ∧ _ ∧ execPathBarrier d f s = _
  unfold execPathBarrier
  extract_lets s0 sw id n mine s1 fresh chosen b2 s2 s3
  have hnone : s0.lft.sprayIn.filter mine = [] := by
    rw [List.filter_eq_nil_iff]
    intro x hx hm
    exact absurd (beq_iff_eq.1 hm) (bne_iff_ne.1 (List.all_eq_true.1 hspray x hx))
  have hs1 : s1 = modLft s0 (fun l => { l with sprayIn := l.sprayIn.filter (fun x => !mine x) }) := by
    show (s0.lft.sprayIn.filter mine).foldl _ _ = _
    rw [hnone]
    rfl
  have hrx : s1.lft.barrierRx = s.lft.barrierRx := by
    rw [hs1]
    rfl
  have hcfg : s1.cfg = s.cfg := by
    rw [hs1]
    rfl
  have hchosen : chosen = b ∧ b.id = id := by
    show (match get? s1.lft.barrierRx sw with
      | some x => if x.id = id then x else if newer 32 id x.id then fresh else x
      | none => fresh) = b ∧ b.id = id
    rw [hrx]
    rcases hb with ⟨hget, rfl⟩ | ⟨hget, hid⟩ <;> rw [hget]
    · exact ⟨rfl, rfl⟩
    · exact ⟨if_pos hid, hid⟩
  have hb2 : b2 = barrierCounted f b := by
    show ({ chosen with got := _, values := _ } : BarrierRx) = _
    rw [hchosen.1]
    rfl
  clear_value s1
  refine ⟨s1, hcfg, hrx, ?_⟩
  rw [if_neg (by omega), hcross, if_neg Bool.false_ne_true, hchosen.1, if_neg (not_not.2 hchosen.2), ← hb2]
  by_cases hfull : barrierFull f b2 = true
  · rw [if_pos hfull]
    exact if_pos hfull
  · rw [if_neg hfull]
    exact if_neg hfull

theorem nth_modAt_same {α : Type} {l : List α} {i : Nat} (g : α → α) (d : α) (h : i < l.length) : nth (modAt l i g) i d = g (nth l i d) := by
  induction l generalizing i with
  | nil => cases h
  | cons x r ih =>
    cases i with
    | zero => rfl
    | succ n => exact ih (Nat.lt_of_succ_lt_succ h)

/-- The first PATH_BARRIER of all does not fill its collection: the other classes' are still missing. -/
theorem not_barrierFull_first {f : Frame} (hcount : le f.payload 4 1 ≠ 0) : barrierFull f (barrierCounted f (barrierFresh f)) = false := by
  have hmissing : 0 ∈ modAt [0, 0, 0, 0, 0, 0, 0, 0] f.tc.toNat (· + 1) :=
    (by decide : ∀ i < 8, 0 ∈ modAt [0, 0, 0, 0, 0, 0, 0, 0] i (· + 1)) _ f.tc.isLt
  exact List.all_eq_false.2 ⟨0, hmissing, by simpa using hcount⟩

theorem pathBarrier_first {s : State} (d : Die) {f : Frame} {sw : Nat} (hsw : epSwitch f.srcEp.toNat = sw)
    (hlen : f.payload.length = 12) (hcount : le f.payload 4 1 ≠ 0) (hcross : crossing s sw f.tc.toNat = false)
    (hspray : s.lft.sprayIn.all (fun x => epSwitch x.2.frame.srcEp.toNat != sw) = true) (hnone : get? s.lft.barrierRx sw = none) :
    ∃ t b, exec (.pathBarrier d f) s = .next t ∧ get? t.lft.barrierRx sw = some b ∧ b.id = le f.payload 0 4 ∧
      nth b.got f.tc.toNat 0 = 1 ∧ nth b.values f.tc.toNat 0 = le f.payload 8 4 := by
  obtain ⟨u, -, -, hexec⟩ := exec_pathBarrier d hsw hlen hcount hcross hspray (.inl ⟨hnone, rfl⟩)
  rw [not_barrierFull_first hcount, if_neg Bool.false_ne_true] at hexec
  refine ⟨_, _, hexec, get?_put_same, rfl, ?_, nth_setAt_same f.tc.isLt⟩
  exact (nth_modAt_same (· + 1) 0 f.tc.isLt).trans (congrArg (· + 1) (nth_eight_zeros f.tc.toNat))

/-- What a collection's end leaves: no collection of its switch, and NEXT of every class with a slot at the class's barrier value. -/
theorem barrierPassed_passes (sw : Nat) (d : Die) (f : Frame) (b : BarrierRx) (s u : State) :
    (barrierPassed sw d f b s u).lft.barrierRx = del u.lft.barrierRx sw ∧
      ∀ tc, tc < 3 → hasSlot u sw tc = true → (reseqOf (barrierPassed sw d f b s u) sw tc).next = nth b.values tc 0 := by
  unfold barrierPassed
  extract_lets s2
  have hpassed : AllSame [.lftBarrierRx, .cfgRecords] u s2 := AllSame.foldl (fun t tc => passBarrier_allSame sw tc _ t) _ u
  have hnext (tc : Nat) (htc : tc < 3) (hslot : hasSlot u sw tc = true) : (reseqOf s2 sw tc).next = nth b.values tc 0 :=
    passBarriers_next (fun i => nth b.values i 0) htc hslot
  clear_value s2
  refine ⟨?_, fun tc htc hslot => ?_⟩
  · refine Eq.trans (sendRaw_allSame d _ _ .lftBarrierRx (by decide)) ?_
    exact congrArg (del · sw) (hpassed .lftBarrierRx (by decide))
  · rw [reseqOf_of_same (sendRaw_allSame d _ _ .lftReseq (by decide))]
    exact hnext tc htc hslot

theorem pathBarrier_last {s : State} (d : Die) {f : Frame} {b : BarrierRx} {sw : Nat} (hsw : epSwitch f.srcEp.toNat = sw)
    (hlen : f.payload.length = 12) (hcount : le f.payload 4 1 ≠ 0) (hcross : crossing s sw f.tc.toNat = false)
    (hspray : s.lft.sprayIn.all (fun x => epSwitch x.2.frame.srcEp.toNat != sw) = true) (honly : s.lft.barrierRx = [(sw, b)])
    (hid : b.id = le f.payload 0 4) (hfull : (modAt b.got f.tc.toNat (· + 1)).all (fun c => decide (le f.payload 4 1 ≤ c)) = true) :
    ∃ t, exec (.pathBarrier d f) s = .next t ∧ t.lft.barrierRx = [] ∧
      ∀ tc, tc < 3 → hasSlot s sw tc = true → (reseqOf t sw tc).next = nth (setAt b.values f.tc.toNat (le f.payload 8 4)) tc 0 := by
  have hget : get? s.lft.barrierRx sw = some b := by
    rw [honly]
    exact if_pos rfl
  obtain ⟨u, hcfg, hrx, hexec⟩ := exec_pathBarrier d hsw hlen hcount hcross hspray (.inr ⟨hget, hid⟩)
  rw [if_pos (show barrierFull f (barrierCounted f b) = true from hfull)] at hexec
  obtain ⟨hended, hnext⟩ := barrierPassed_passes sw d f (barrierCounted f b) s u
  refine ⟨_, hexec, ?_, fun tc htc hslot => hnext tc htc ?_⟩
  · rw [hended, hrx, honly]
    exact if_pos rfl
  · rw [hasSlot, recOf, hcfg]
    exact hslot

/-! The end of a barrier at the entry switch (R143 step 6) -/

/-- No barrier runs, and the paths in use toward a switch are those of a list. -/
def ResumedOn (sw : Nat) (paths : List Nat) (s : State) : Prop := s.lft.barrierTx = [] ∧ get? s.lft.livePaths sw = some paths

theorem ResumedOn.of_allSame {sw : Nat} {paths : List Nat} {s t : State} (h : ResumedOn sw paths s)
    (k : AllSame [.lftBarrierTx, .lftLivePaths] s t) : ResumedOn sw paths t :=
  ⟨(k .lftBarrierTx (by decide)).trans h.1, (congrArg (get? · sw) (k .lftLivePaths (by decide))).trans h.2⟩

/-- While no barrier runs, a frame that enters the fabric is held by none. -/
theorem ResumedOn.enter {sw : Nat} {paths : List Nat} {s : State} (h : ResumedOn sw paths s) (d : Die) (x : Desc) (shift : Nat) :
    ResumedOn sw paths (enter d x shift s) := by
  have hway (y : Desc) (path : Nat) (u : State) : AllSame [.lftBarrierTx, .lftLivePaths] u (putOnWay d y path u) :=
    (putOnWay_allSame d y path u).subset (by decide)
  rcases enter_cases d x shift s with ⟨y, path, hy⟩ | ⟨b, hb, -⟩ | ⟨k, st, -, hst | ⟨y, path, hy⟩⟩
  · exact hy ▸ h.of_allSame (hway y path s)
  · rw [h.1] at hb
    cases hb
  · exact hst ▸ h
  · have hput : ResumedOn sw paths (sprayPut k st s) := h
    exact hy ▸ hput.of_allSame (hway y path _)

theorem ResumedOn.enters {sw : Nat} {paths : List Nat} {s : State} (h : ResumedOn sw paths s) (l : List (Nat × Desc)) :
    ResumedOn sw paths (l.foldl (fun t x => Machine.enter (dieOf x.1) x.2 0 t) s) := by
  induction l generalizing s with
  | nil => exact h
  | cons x r ih => exact ih (h.enter _ _ _)

theorem ResumedOn.releaseWindow {sw : Nat} {paths : List Nat} {s : State} (h : ResumedOn sw paths s) (dst tc : Nat) :
    ResumedOn sw paths (releaseWindow dst tc s) :=
  ResumedOn.enters (s := sprayPut (dst * 8 + tc) { getD s.lft.spray (dst * 8 + tc) {} with held := [] } s) h _

theorem pathBarrierAck_completes {s : State} (d : Die) {f : Frame} {b : BarrierTx} (honly : s.lft.barrierTx = [(epSwitch f.srcEp.toNat, b)])
    (hid : b.id = le f.payload 0 4) :
    ∃ t, exec (.pathBarrierAck d f) s = .next t ∧ t.lft.barrierTx = [] ∧ get? t.lft.livePaths (epSwitch f.srcEp.toNat) = some b.paths := by
  show ∃ t, execPathBarrierAck d f s = .next t ∧ _
  unfold execPathBarrierAck
  extract_lets s1 sw
  have hget : get? s1.lft.barrierTx sw = some b := by
    show get? s.lft.barrierTx sw = some b
    rw [honly]
    exact if_pos rfl
  rw [hget]
  dsimp only
  rw [if_neg (not_not.2 hid)]
  refine ⟨_, rfl, ?_⟩
  generalize hs2 : modLft s1 _ = s2
  have hresumed : ResumedOn sw b.paths s2 := by
    rw [← hs2]
    refine ⟨?_, get?_put_same⟩
    show del s.lft.barrierTx sw = []
    rw [honly]
    exact if_pos rfl
  exact (((hresumed.releaseWindow sw 0).releaseWindow sw 1).releaseWindow sw 2).enters b.held

/-! PATH_BARRIER_TIMEOUT (R143, log 54) -/

theorem isReq_rspOpc : ∀ o : Byte, isReq o = true → isReq (rspOpc o) = false := by decide

/-- The barrier toward a switch stands open with its number and its paths, and holds no request. -/
def OpenWithoutRequests (sw id : Nat) (paths : List Nat) (s : State) : Prop :=
  ∃ b, get? s.lft.barrierTx sw = some b ∧ b.id = id ∧ b.paths = paths ∧ ∀ x ∈ b.held, isReq x.2.frame.opcode = false

theorem OpenWithoutRequests.of_same {sw id : Nat} {paths : List Nat} {s t : State} (h : OpenWithoutRequests sw id paths s)
    (k : Piece.lftBarrierTx.same s t) : OpenWithoutRequests sw id paths t := by
  unfold OpenWithoutRequests
  rwa [show t.lft.barrierTx = s.lft.barrierTx from k]

/-- A frame that is no request may be held by the barrier, or go on. -/
theorem OpenWithoutRequests.enter {sw id : Nat} {paths : List Nat} {s : State} (h : OpenWithoutRequests sw id paths s) (d : Die) {x : Desc}
    (hx : isReq x.frame.opcode = false) (shift : Nat) : OpenWithoutRequests sw id paths (enter d x shift s) := by
  have hway (y : Desc) (path : Nat) (u : State) : Piece.lftBarrierTx.same u (putOnWay d y path u) :=
    putOnWay_allSame d y path u .lftBarrierTx (by decide)
  rcases enter_cases d x shift s with ⟨y, path, hy⟩ | ⟨b, hb, hheld⟩ | ⟨k, st, -, hst | ⟨y, path, hy⟩⟩
  · exact hy ▸ h.of_same (hway y path s)
  · rw [hheld]
    obtain ⟨b0, hb0, hid, hpaths, hreqs⟩ := h
    by_cases hsw : sw = routedTo s x.frame
    · subst hsw
      obtain rfl : b0 = b := Option.some.inj (hb0.symm.trans hb)
      refine ⟨_, get?_put_same, hid, hpaths, fun y hy => ?_⟩
      rcases List.mem_append.1 hy with hy | hy
      · exact hreqs y hy
      · rw [List.mem_singleton.1 hy]
        exact hx
    · exact ⟨b0, (get?_put_other hsw).trans hb0, hid, hpaths, hreqs⟩
  · exact hst ▸ h.of_same rfl
  · have hput : OpenWithoutRequests sw id paths (sprayPut k st s) := h.of_same rfl
    exact hy ▸ hput.of_same (hway y path _)

/-- A frame of this switch that is no request is sent, or held for want of cells. -/
theorem OpenWithoutRequests.sendRaw {sw id : Nat} {paths : List Nat} {s : State} (h : OpenWithoutRequests sw id paths s) (d : Die) {f : Frame}
    (hf : isReq f.opcode = false) : OpenWithoutRequests sw id paths (sendRaw d f s) := by
  rw [Machine.sendRaw, submit]
  split_ifs
  · exact h.of_same rfl
  · unfold launch
    split
    rename_i cells s1 halloc
    have hs1 : Piece.lftBarrierTx.same s s1 :=
      (allocCells_of_eq halloc (Nat.and_self _) (Keeps.refl _ s)).same .lftBarrierTx (by decide)
    exact (h.of_same hs1).enter d hf 0

theorem OpenWithoutRequests.refuse {sw id : Nat} {paths : List Nat} {s : State} (h : OpenWithoutRequests sw id paths s) (d : Die) {f : Frame}
    (hf : isReq f.opcode = true) (st : BitVec 5) : OpenWithoutRequests sw id paths (refuse d f st s) :=
  h.sendRaw d (isReq_rspOpc _ hf)

/-- The refusals of the requests that a barrier held leave it without requests. -/
theorem OpenWithoutRequests.refusals {sw id : Nat} {paths : List Nat} {s : State} (h : OpenWithoutRequests sw id paths s)
    {l : List (Nat × Desc)} (hl : ∀ x ∈ l, isReq x.2.frame.opcode = true) : OpenWithoutRequests sw id paths
      (l.foldl (fun t x => Machine.refuse (dieOf x.1) x.2.frame Sts.homelost (letGo (dieOf x.1) x.2 t)) s) := by
  induction l generalizing s with
  | nil => exact h
  | cons x r ih =>
    have hgone : Piece.lftBarrierTx.same s (letGo (dieOf x.1) x.2 s) :=
      (letGo_keeps (Nat.and_self _) (Keeps.refl _ s)).same .lftBarrierTx (by decide)
    exact ih ((h.of_same hgone).refuse _ (hl x (List.mem_cons_self ..)) _) fun y hy => hl y (List.mem_cons_of_mem _ hy)

theorem pathBarrierTimeout_completes {s : State} {sw : Nat} {b : BarrierTx} (h : get? s.lft.barrierTx sw = some b) :
    ∃ t b', exec (.pathBarrierTimeout sw) s = .next t ∧ get? t.lft.barrierTx sw = some b' ∧ b'.id = b.id ∧ b'.paths = b.paths ∧
      ∀ x ∈ b'.held, isReq x.2.frame.opcode = false := by
  suffices hopen : ∃ t, exec (.pathBarrierTimeout sw) s = .next t ∧ OpenWithoutRequests sw b.id b.paths t by
    obtain ⟨t, hexec, b', hb'⟩ := hopen
    exact ⟨t, b', hexec, hb'⟩
  show ∃ t, execPathBarrierTimeout sw s = .next t ∧ _
  unfold execPathBarrierTimeout
  rw [h]
  refine ⟨_, rfl, OpenWithoutRequests.refusals ?_ fun x hx => (List.mem_filter.1 hx).2⟩
  refine ⟨_, get?_put_same, rfl, rfl, fun x hx => ?_⟩
  simpa using (List.mem_filter.1 hx).2

/-- Settles O23: the resequencer by the slot a frame enters, the barriers by what entering the fabric can do. -/
theorem resequencingAndPathBarriersComplete : Obligations.ResequencingAndPathBarriersComplete := by
  unfold Obligations.ResequencingAndPathBarriersComplete
  exact ⟨⟨fun s d a x hin hdie => ⟨sprayedFrameResequence_held hin rfl rfl hdie, sprayedFrameResequence_released hin rfl rfl hdie⟩,
      fun _ _ _ => reseqAckTimer_completes, fun _ d _ => reseqAck_completes d⟩,
    fun _ _ => pathBarrierStart_completes,
    fun _ d _ hlen hcount hcross hspray =>
      ⟨pathBarrier_first d rfl hlen hcount hcross hspray, fun _ => pathBarrier_last d rfl hlen hcount hcross hspray⟩,
    fun _ d _ _ => pathBarrierAck_completes d, fun _ _ _ => pathBarrierTimeout_completes⟩

end Machine
end Sys2Proof
